-- ==== Sys2Proof/Word.lean ====
section
/-! DEFINITION. The word types of the A8 (R9, R10) and their plainest readings. -/

namespace Sys2Proof

/-- R9: a byte is 8 bits. -/
abbrev Byte := BitVec 8
/-- R9: a halfword is 16 bits. -/
abbrev Half := BitVec 16
/-- R9: a word is 32 bits. -/
abbrev Word := BitVec 32
/-- R9: a doubleword is 64 bits. -/
abbrev DWord := BitVec 64
/-- R30: a vector register is 512 bits. -/
abbrev Vec := BitVec 512

/-- Bits [lo + w - 1 : lo] of a number. -/
def bits (x lo w : Nat) : Nat := x / 2 ^ lo % 2 ^ w

/-- The two's complement reading of the low `w` bits of `x`. -/
def asSigned (w x : Nat) : Int :=
  let y := x % 2 ^ w
  if y < 2 ^ (w - 1) then (y : Int) else (y : Int) - (2 ^ w : Nat)

/-- The `w`-bit two's complement word of an integer, as a number. -/
def ofSigned (w : Nat) (x : Int) : Nat := (x % (2 ^ w : Nat)).toNat

/-- The quotient rounded up. -/
def ceilDiv (a b : Nat) : Nat := if b = 0 then 0 else (a + b - 1) / b

end Sys2Proof
end

