-- ==== Sys2Proof/Syntax.lean ====
section
/-! DEFINITION. The syntax of a step of the A8: the control word's header and formats (R59 to R74), the operations
of the opcode map (R75) and the events of the machine, one constructor for each row of spec/opcode_table.json. -/

namespace Sys2Proof

/-- R65: the type codes. `rsv1` and `rsv2` are the reserved codes 0xE and 0xF, which the machine refuses (R76). -/
inductive Ty where
  | b | f32 | h16 | bf16 | bk8 | bk4 | i8 | i16 | i32 | n8 | n16 | n32 | i64 | n64 | rsv1 | rsv2
  deriving DecidableEq, Repr

/-- R60: the classes. -/
inductive Cls where
  | sc | br | mx | cp | en | ev | xg | sy | va | vm
  deriving DecidableEq, Repr

/-- R59, R61: the common header of a control word, but for CLASS, OPCODE and FORMAT, which the operation fixes. -/
structure Hdr where
  dm : BitVec 8
  group : BitVec 3
  sbytes : Bool
  waitSem : BitVec 8
  waitTh : BitVec 24
  sigSem : BitVec 8
  sigInc : BitVec 8
  deriving DecidableEq, Repr

/-- The header of the hardwired no-operation: DM 0xFF, no wait and no signal (R334). -/
def Hdr.plain : Hdr := ⟨0xFF#8, 0#3, false, 0#8, 0#24, 0#8, 0#8⟩

/-- R64: a register field, bit [10] HOLD and bits [9:0] CODE. -/
structure Reg where
  hold : Bool
  code : BitVec 10
  deriving DecidableEq, Repr

/-- The number a register field names. -/
def Reg.n (r : Reg) : Nat := r.code.toNat
/-- R58: the code 0x3FF names the hold latch. -/
def Reg.isLatch (r : Reg) : Bool := r.code == 0x3FF#10
/-- The register field that names register `n`. -/
def Reg.of (n : Nat) : Reg := ⟨false, BitVec.ofNat 10 n⟩
/-- The zero register field. -/
def Reg.zero : Reg := ⟨false, 0#10⟩

/-- R67: the lane predicate of a control word. -/
structure Pr where
  inv : Bool
  en : Bool
  reg : BitVec 6
  deriving DecidableEq, Repr

/-- No lane predicate. -/
def Pr.none : Pr := ⟨false, false, 0#6⟩

/-- R67, format RRR. -/
structure FRRR where
  sub : BitVec 8
  ty2 : Ty
  ty : Ty
  rm : BitVec 2
  pr : Pr
  srcC : Reg
  srcB : Reg
  srcA : Reg
  dst : Reg
  deriving DecidableEq, Repr

/-- R67, format RIMM. -/
structure FRIMM where
  imm : DWord
  pr : Pr
  ty : Ty
  srcA : Reg
  dst : Reg
  deriving DecidableEq, Repr

/-- R68, format MEM. -/
structure FMEM where
  dstride : Word
  step : Word
  offset : Word
  scope : BitVec 3
  sub : BitVec 8
  dts : Bool
  pr : Pr
  ty : Ty
  aux : Reg
  base : Reg
  data : Reg
  deriving DecidableEq, Repr

/-- R69, format BRANCH. -/
structure FBR where
  code : Half
  target : Word
  cnt : Reg
  any : Bool
  finv : Bool
  freg : BitVec 3
  deriving DecidableEq, Repr

/-- R70, format SYNC. -/
structure FSYNC where
  imm : DWord
  sregB : Reg
  sregA : Reg
  bid : BitVec 4
  kind : BitVec 4
  scope : BitVec 3
  count : BitVec 24
  sem : BitVec 8
  deriving DecidableEq, Repr

/-- R71 and R132, format COPY with its stage microword. -/
structure FCOPY where
  dstride : BitVec 24
  len : BitVec 24
  sstep : BitVec 20
  dstep : BitVec 20
  soff : BitVec 20
  doff : BitVec 20
  tchk : Bool
  twr : Bool
  scl : Bool
  trn : Bool
  gath : Bool
  cnv : Bool
  dside : Bool
  dts : Bool
  shen : Bool
  shape : BitVec 4
  ch : BitVec 2
  sbase : Reg
  dbase : Reg
  deriving DecidableEq, Repr

/-- R72, format MATRIX. -/
structure FMX where
  dstride : Word
  k : BitVec 14
  bstride : Half
  astride : Half
  boff : BitVec 24
  aoff : BitVec 24
  dts : Bool
  btype : Ty
  atype : Ty
  acc : BitVec 2
  latch : BitVec 2
  bbase : Reg
  abase : Reg
  deriving DecidableEq, Repr

/-- R73, format ENGINE. `choices` holds the five 3-bit route choices. -/
structure FEN where
  dstride : BitVec 24
  soff : BitVec 24
  doff : BitVec 24
  len : BitVec 24
  dts : Bool
  cycle : BitVec 4
  ty : Ty
  op : BitVec 4
  choices : BitVec 15
  nch : BitVec 3
  fbusy : BitVec 3
  out : Reg
  sbase : Reg
  dbase : Reg
  deriving DecidableEq, Repr

/-- R74, format ENVELOPE. -/
structure FEV where
  offset : Word
  sreg : Reg
  pr : Pr
  vopC : Reg
  vopB : Reg
  vopA : Reg
  esrcB : BitVec 2
  esrcA : BitVec 2
  edst : BitVec 2
  deriving DecidableEq, Repr

/-- R271: the SPDM requests that the device supports. -/
inductive SpdmReq where
  | getVersion | getCapabilities | negotiateAlgorithms | getDigests | getCertificate | challenge | getMeasurements | keyExchange | finish
  | keyUpdate | endSession
  deriving DecidableEq, Repr

/-- R271, R256: an SPDM exchange as its requester saw it end: the requests that were answered, the messages in the order in which they were sent, the chain
of slot 0, what CHALLENGE signed and its signature, and the measurements (SHA3-512 digests). -/
structure Exchange where
  requests : List SpdmReq := []
  messages : List (List Byte) := []
  chain : List Byte := []
  signed : List Byte := []
  signature : List Byte := []
  measurements : List (BitVec 512) := []
  deriving DecidableEq, Repr

/-- R273, R259: the far end of a Lerayx link as its root's session shows it: the challenge that it signs for, its package, and its number of the link. -/
structure FarEnd where
  challenge : List Byte := []
  peer : BitVec 6 := 0
  peerlx : BitVec 4 := 0
  deriving DecidableEq, Repr

/-- R272: one direction of a link: the link's subject number, and whether it is what this root sends. -/
structure LinkDir where
  subject : Nat
  out : Bool
  deriving DecidableEq, Repr

/-- R268, R310: a contribution to a collective: the OP, TYPE and LEN of its member's COLL, and its bytes, each with whether its line was poisoned (R125). -/
structure Contrib where
  op : BitVec 4 := 0#4
  ty : Ty := .b
  len : BitVec 24 := 0#24
  data : List (Byte × Bool) := []
  deriving DecidableEq, Repr

/-- R260, R263: what a pod message carries. Requests of other packages arrive with their own identifier `uid`; replies
and acknowledgements carry the identifier that this package gave its request. -/
inductive PodBody where
  /-- A posted write of up to 64 bytes, and whether its line is poisoned (R125). -/
  | write (data : List Byte) (poison : Bool)
  /-- A read of `len` bytes. -/
  | read (len : Nat)
  /-- An atomic: operation code of R299 (7 for ACAS), whether 64 bits wide, whether signed, expected value, and the operands of the AMOs merged
  into it, in their order (R208); one for a request that nothing was merged into. -/
  | atomic (op : Nat) (wide signed : Bool) (expected : DWord) (vs : List DWord)
  /-- A reply to a non-posted access of this package, and whether it carries poison (R125). -/
  | reply (data : List Byte) (poison : Bool)
  /-- A reply that carries a fault of the target: the class (code) and its TSTAT cause. -/
  | faultReply (code cause : Nat)
  /-- The acknowledgement of a posted write of this package (R263). -/
  | ack
  /-- The arrival of a member of another package at a pod barrier (R266): group, pod launch, pod team, BID. -/
  | barrier (grp n team bid : Nat)
  /-- R268: a posted write of a member's contribution into the receivers' reserved buffers of a package: group, pod launch, pod team, number of the
  collective, rank, contribution. -/
  | contribution (grp n team coll rank : Nat) (c : Contrib)
  deriving DecidableEq, Repr

/-- R260: a pod message at IO1: its source and target packages, the pod space index it carries (R262), its address in the
target's device space, the identifier of its request, and its body. -/
structure PodMsg where
  src : Nat
  dst : Nat
  index : Nat
  addr : Nat
  uid : Nat
  body : PodBody
  /-- R118, R262: the request is a firmware context's. -/
  fw : Bool := false
  deriving DecidableEq, Repr

/-- What a register write of the host or of firmware names. -/
inductive RegTarget where
  /-- A doubleword of IO0's management space, by its offset. -/
  | io0 (off : Nat)
  /-- A doubleword of IO1's management space, by its offset. -/
  | io1 (off : Nat)
  /-- A management request by the 5-bit number of a socket (R2), with an offset in its management space. -/
  | socket (n : BitVec 5) (off : Nat)
  /-- A register of queue q, by its offset in the queue's page (R238). -/
  | queue (q off : Nat)
  /-- A partition CSR, by partition and number (R319). -/
  | part (p num : Nat)
  /-- A column CSR, by column and number. -/
  | column (col num : Nat)
  /-- A core CSR, by die, core and number. -/
  | core (die core num : Nat)
  /-- A context CSR, by die, column, context and number. -/
  | context (die col ctx num : Nat)
  deriving DecidableEq, Repr

/-- Every step of spec/opcode_table.json: the 143 operations of a slot (with the header marks SPLICE and YIELD)
and the 92 events of the machine. An operation carries its control word: the common header and the fields of its
format (R59, R66). An event carries where it happens and what comes from outside the machine. -/
inductive Instr where
  /-- R302. ADD: class 0x0, opcode 0x01, format 0x1. -/
  | add (h : Hdr) (f : FRRR)
  /-- R331. SUB: class 0x0, opcode 0x03, format 0x1. -/
  | sub (h : Hdr) (f : FRRR)
  /-- R331. MUL: class 0x0, opcode 0x04, format 0x1. -/
  | mul (h : Hdr) (f : FRRR)
  /-- R331. MULH: class 0x0, opcode 0x05, format 0x1. -/
  | mulh (h : Hdr) (f : FRRR)
  /-- R302. DIV: class 0x0, opcode 0x06, format 0x1. -/
  | div (h : Hdr) (f : FRRR)
  /-- R331. REM: class 0x0, opcode 0x07, format 0x1. -/
  | rem (h : Hdr) (f : FRRR)
  /-- R302. AND: class 0x0, opcode 0x08, format 0x1. -/
  | and (h : Hdr) (f : FRRR)
  /-- R302. ANDN: class 0x0, opcode 0x09, format 0x1. -/
  | andn (h : Hdr) (f : FRRR)
  /-- R331. OR: class 0x0, opcode 0x0A, format 0x1. -/
  | or (h : Hdr) (f : FRRR)
  /-- R331. XOR: class 0x0, opcode 0x0B, format 0x1. -/
  | xor (h : Hdr) (f : FRRR)
  /-- R331. SHL: class 0x0, opcode 0x0C, format 0x1. -/
  | shl (h : Hdr) (f : FRRR)
  /-- R331. SHR: class 0x0, opcode 0x0D, format 0x1. -/
  | shr (h : Hdr) (f : FRRR)
  /-- R331. SRA: class 0x0, opcode 0x0E, format 0x1. -/
  | sra (h : Hdr) (f : FRRR)
  /-- R331. ROL: class 0x0, opcode 0x0F, format 0x1. -/
  | rol (h : Hdr) (f : FRRR)
  /-- R302. CLZ: class 0x0, opcode 0x10, format 0x1. -/
  | clz (h : Hdr) (f : FRRR)
  /-- R331. POPC: class 0x0, opcode 0x11, format 0x1. -/
  | popc (h : Hdr) (f : FRRR)
  /-- R331. MIN: class 0x0, opcode 0x12, format 0x1. -/
  | min (h : Hdr) (f : FRRR)
  /-- R331. MAX: class 0x0, opcode 0x13, format 0x1. -/
  | max (h : Hdr) (f : FRRR)
  /-- R302. CMP: class 0x0, opcode 0x14, format 0x1. -/
  | cmp (h : Hdr) (f : FRRR)
  /-- R331. SEL: class 0x0, opcode 0x15, format 0x1. -/
  | sel (h : Hdr) (f : FRRR)
  /-- R331. MOV: class 0x0, opcode 0x16, format 0x1. -/
  | mov (h : Hdr) (f : FRRR)
  /-- R302. ADDI: class 0x0, opcode 0x02, format 0x2. -/
  | addi (h : Hdr) (f : FRIMM)
  /-- R331. MOVI: class 0x0, opcode 0x17, format 0x2. -/
  | movi (h : Hdr) (f : FRIMM)
  /-- R331. MOVHI: class 0x0, opcode 0x18, format 0x2. -/
  | movhi (h : Hdr) (f : FRIMM)
  /-- R318. CSRR: class 0x0, opcode 0x1D, format 0x2. -/
  | csrr (h : Hdr) (f : FRIMM)
  /-- R318. CSRW: class 0x0, opcode 0x1E, format 0x2. -/
  | csrw (h : Hdr) (f : FRIMM)
  /-- R329. LD: class 0x0, opcode 0x19, format 0x3. -/
  | ld (h : Hdr) (f : FMEM)
  /-- R329. ST: class 0x0, opcode 0x1A, format 0x3. -/
  | st (h : Hdr) (f : FMEM)
  /-- R300. AMO: class 0x0, opcode 0x1B, format 0x3. -/
  | amo (h : Hdr) (f : FMEM)
  /-- R300. ACAS: class 0x0, opcode 0x1C, format 0x3. -/
  | acas (h : Hdr) (f : FMEM)
  /-- R307. BRA: class 0x1, opcode 0x01, format 0x4. -/
  | bra (h : Hdr) (f : FBR)
  /-- R307. BRC: class 0x1, opcode 0x02, format 0x4. -/
  | brc (h : Hdr) (f : FBR)
  /-- R307. CALL: class 0x1, opcode 0x03, format 0x4. -/
  | call (h : Hdr) (f : FBR)
  /-- R330. LOOP: class 0x1, opcode 0x05, format 0x4. -/
  | loop (h : Hdr) (f : FBR)
  /-- R224. TRAP: class 0x1, opcode 0x06, format 0x4. -/
  | trap (h : Hdr) (f : FBR)
  /-- R336. REEL: class 0x1, opcode 0x09, format 0x4. -/
  | reel (h : Hdr) (f : FBR)
  /-- R337. RET: class 0x1, opcode 0x04, format 0x0. -/
  | ret (h : Hdr)
  /-- R225. TRET: class 0x1, opcode 0x07, format 0x0. -/
  | tret (h : Hdr)
  /-- R327. HALT: class 0x1, opcode 0x08, format 0x0. -/
  | halt (h : Hdr)
  /-- R145. MLATCH: class 0x2, opcode 0x01, format 0x7. -/
  | mlatch (h : Hdr) (f : FMX)
  /-- R145. MMUL: class 0x2, opcode 0x02, format 0x7. -/
  | mmul (h : Hdr) (f : FMX)
  /-- R145. MTILE: class 0x2, opcode 0x05, format 0x7. -/
  | mtile (h : Hdr) (f : FMX)
  /-- R145. MZERO: class 0x2, opcode 0x04, format 0x7. -/
  | mzero (h : Hdr) (f : FMX)
  /-- R145. MRET: class 0x2, opcode 0x03, format 0x7. -/
  | mret (h : Hdr) (f : FMX)
  /-- R314. CPY: class 0x3, opcode 0x01, format 0x6. -/
  | cpy (h : Hdr) (f : FCOPY)
  /-- R143. CPYG: class 0x3, opcode 0x02, format 0x6. -/
  | cpyg (h : Hdr) (f : FCOPY)
  /-- R136. CPCHK: class 0x3, opcode 0x05, format 0x6. -/
  | cpchk (h : Hdr) (f : FCOPY)
  /-- R344. SPXGO: class 0x3, opcode 0x08, format 0x6. -/
  | spxgo (h : Hdr) (f : FCOPY)
  /-- R340. SHAPE: class 0x3, opcode 0x03, format 0x3. -/
  | shape (h : Hdr) (f : FMEM)
  /-- R343. SPXCFG: class 0x3, opcode 0x07, format 0x3. -/
  | spxcfg (h : Hdr) (f : FMEM)
  /-- R338. SBIND: class 0x3, opcode 0x04, format 0x1. -/
  | sbind (h : Hdr) (f : FRRR)
  /-- R316. CPDRAIN: class 0x3, opcode 0x06, format 0x1. -/
  | cpdrain (h : Hdr) (f : FRRR)
  /-- R339. SEIZE: class 0x4, opcode 0x01, format 0x8. -/
  | seize (h : Hdr) (f : FEN)
  /-- R164. SEIZE_HOLD: class 0x4, opcode 0x01, format 0x8. -/
  | seizeHold (h : Hdr) (f : FEN)
  /-- R345. SXFER: class 0x4, opcode 0x02, format 0x8. -/
  | sxfer (h : Hdr) (f : FEN)
  /-- R309. CLEAR: class 0x4, opcode 0x03, format 0x8. -/
  | clear (h : Hdr) (f : FEN)
  /-- R310. COLL: class 0x4, opcode 0x04, format 0x8. -/
  | coll (h : Hdr) (f : FEN)
  /-- R169. BDRV: class 0x4, opcode 0x05, format 0x8. -/
  | bdrv (h : Hdr) (f : FEN)
  /-- R169. BLAT: class 0x4, opcode 0x06, format 0x8. -/
  | blat (h : Hdr) (f : FEN)
  /-- R177. ELINE: class 0x5, opcode 0x01, format 0x9. -/
  | eline (h : Hdr) (f : FEV)
  /-- R179. EMAX: class 0x5, opcode 0x02, format 0x9. -/
  | emax (h : Hdr) (f : FEV)
  /-- R179. ESUM: class 0x5, opcode 0x03, format 0x9. -/
  | esum (h : Hdr) (f : FEV)
  /-- R181. EINFC: class 0x5, opcode 0x04, format 0x9. -/
  | einfc (h : Hdr) (f : FEV)
  /-- R180. ECONJ: class 0x5, opcode 0x05, format 0x9. -/
  | econj (h : Hdr) (f : FEV)
  /-- R178. EEVAL: class 0x5, opcode 0x06, format 0x9. -/
  | eeval (h : Hdr) (f : FEV)
  /-- R178. EBRK: class 0x5, opcode 0x07, format 0x9. -/
  | ebrk (h : Hdr) (f : FEV)
  /-- R176. ECLR: class 0x5, opcode 0x08, format 0x9. -/
  | eclr (h : Hdr) (f : FEV)
  /-- R176. ETOL: class 0x5, opcode 0x09, format 0x9. -/
  | etol (h : Hdr) (f : FEV)
  /-- R182. ESAVE: class 0x5, opcode 0x0A, format 0x9. -/
  | esave (h : Hdr) (f : FEV)
  /-- R183. ELOAD: class 0x5, opcode 0x0B, format 0x9. -/
  | eload (h : Hdr) (f : FEV)
  /-- R376. XMOV: class 0x6, opcode 0x01, format 0x1. -/
  | xmov (h : Hdr) (f : FRRR)
  /-- R376. XBC: class 0x6, opcode 0x02, format 0x1. -/
  | xbc (h : Hdr) (f : FRRR)
  /-- R376. XRED: class 0x6, opcode 0x03, format 0x1. -/
  | xred (h : Hdr) (f : FRRR)
  /-- R341. SIG: class 0x7, opcode 0x01, format 0x5. -/
  | sig (h : Hdr) (f : FSYNC)
  /-- R374. WSEM: class 0x7, opcode 0x02, format 0x5. -/
  | wsem (h : Hdr) (f : FSYNC)
  /-- R304. BAR: class 0x7, opcode 0x03, format 0x5. -/
  | bar (h : Hdr) (f : FSYNC)
  /-- R325. FENCE: class 0x7, opcode 0x04, format 0x5. -/
  | fence (h : Hdr) (f : FSYNC)
  /-- R323. ETRIG: class 0x7, opcode 0x05, format 0x5. -/
  | etrig (h : Hdr) (f : FSYNC)
  /-- R326. GRAB: class 0x7, opcode 0x06, format 0x5. -/
  | grab (h : Hdr) (f : FSYNC)
  /-- R350. TLBI: class 0x7, opcode 0x07, format 0x5. -/
  | tlbi (h : Hdr) (f : FSYNC)
  /-- R321. CWLD: class 0x7, opcode 0x08, format 0x5. -/
  | cwld (h : Hdr) (f : FSYNC)
  /-- R109. TLOOK: class 0x7, opcode 0x09, format 0x5. -/
  | tlook (h : Hdr) (f : FSYNC)
  /-- R109. TSET: class 0x7, opcode 0x0A, format 0x5. -/
  | tset (h : Hdr) (f : FSYNC)
  /-- R109. TDROP: class 0x7, opcode 0x0B, format 0x5. -/
  | tdrop (h : Hdr) (f : FSYNC)
  /-- R109. TDROP_ALL: class 0x7, opcode 0x0B, format 0x5. -/
  | tdropAll (h : Hdr) (f : FSYNC)
  /-- R364. VLD: class 0x9, opcode 0x01, format 0x3. -/
  | vld (h : Hdr) (f : FMEM)
  /-- R364. VST: class 0x9, opcode 0x02, format 0x3. -/
  | vst (h : Hdr) (f : FMEM)
  /-- R364. VLDS: class 0x9, opcode 0x03, format 0x3. -/
  | vlds (h : Hdr) (f : FMEM)
  /-- R364. VGATH: class 0x9, opcode 0x04, format 0x3. -/
  | vgath (h : Hdr) (f : FMEM)
  /-- R364. VSCAT: class 0x9, opcode 0x05, format 0x3. -/
  | vscat (h : Hdr) (f : FMEM)
  /-- R372. VRDQ: class 0x9, opcode 0x06, format 0x1. -/
  | vrdq (h : Hdr) (f : FRRR)
  /-- R355. VADD: class 0x8, opcode 0x01, format 0x1. -/
  | vadd (h : Hdr) (f : FRRR)
  /-- R368. VSUB: class 0x8, opcode 0x02, format 0x1. -/
  | vsub (h : Hdr) (f : FRRR)
  /-- R368. VMUL: class 0x8, opcode 0x03, format 0x1. -/
  | vmul (h : Hdr) (f : FRRR)
  /-- R368. VMULH: class 0x8, opcode 0x04, format 0x1. -/
  | vmulh (h : Hdr) (f : FRRR)
  /-- R368. VMAD: class 0x8, opcode 0x05, format 0x1. -/
  | vmad (h : Hdr) (f : FRRR)
  /-- R355. VAND: class 0x8, opcode 0x06, format 0x1. -/
  | vand (h : Hdr) (f : FRRR)
  /-- R368. VOR: class 0x8, opcode 0x07, format 0x1. -/
  | vor (h : Hdr) (f : FRRR)
  /-- R368. VXOR: class 0x8, opcode 0x08, format 0x1. -/
  | vxor (h : Hdr) (f : FRRR)
  /-- R368. VSHL: class 0x8, opcode 0x09, format 0x1. -/
  | vshl (h : Hdr) (f : FRRR)
  /-- R368. VSHR: class 0x8, opcode 0x0A, format 0x1. -/
  | vshr (h : Hdr) (f : FRRR)
  /-- R368. VSRA: class 0x8, opcode 0x0B, format 0x1. -/
  | vsra (h : Hdr) (f : FRRR)
  /-- R368. VMIN: class 0x8, opcode 0x0C, format 0x1. -/
  | vmin (h : Hdr) (f : FRRR)
  /-- R368. VMAX: class 0x8, opcode 0x0D, format 0x1. -/
  | vmax (h : Hdr) (f : FRRR)
  /-- R355. VABS: class 0x8, opcode 0x0E, format 0x1. -/
  | vabs (h : Hdr) (f : FRRR)
  /-- R368. VNEG: class 0x8, opcode 0x0F, format 0x1. -/
  | vneg (h : Hdr) (f : FRRR)
  /-- R355. VCLZ: class 0x8, opcode 0x10, format 0x1. -/
  | vclz (h : Hdr) (f : FRRR)
  /-- R355. VCMP: class 0x8, opcode 0x11, format 0x1. -/
  | vcmp (h : Hdr) (f : FRRR)
  /-- R368. VSEL: class 0x8, opcode 0x12, format 0x1. -/
  | vsel (h : Hdr) (f : FRRR)
  /-- R368. VMOV: class 0x8, opcode 0x13, format 0x1. -/
  | vmov (h : Hdr) (f : FRRR)
  /-- R368. VMOVI: class 0x8, opcode 0x14, format 0x2. -/
  | vmovi (h : Hdr) (f : FRIMM)
  /-- R369. VPERM: class 0x8, opcode 0x15, format 0x1. -/
  | vperm (h : Hdr) (f : FRRR)
  /-- R356. VCAS: class 0x8, opcode 0x17, format 0x1. -/
  | vcas (h : Hdr) (f : FRRR)
  /-- R373. VRED: class 0x8, opcode 0x16, format 0x1. -/
  | vred (h : Hdr) (f : FRRR)
  /-- R359. VFADD: class 0x8, opcode 0x18, format 0x1. -/
  | vfadd (h : Hdr) (f : FRRR)
  /-- R359. VFSUB: class 0x8, opcode 0x19, format 0x1. -/
  | vfsub (h : Hdr) (f : FRRR)
  /-- R359. VFMUL: class 0x8, opcode 0x1A, format 0x1. -/
  | vfmul (h : Hdr) (f : FRRR)
  /-- R359. VFMA: class 0x8, opcode 0x1B, format 0x1. -/
  | vfma (h : Hdr) (f : FRRR)
  /-- R359. VFMIN: class 0x8, opcode 0x1C, format 0x1. -/
  | vfmin (h : Hdr) (f : FRRR)
  /-- R359. VFMAX: class 0x8, opcode 0x1D, format 0x1. -/
  | vfmax (h : Hdr) (f : FRRR)
  /-- R360. VFCMP: class 0x8, opcode 0x1E, format 0x1. -/
  | vfcmp (h : Hdr) (f : FRRR)
  /-- R359. VFABS: class 0x8, opcode 0x1F, format 0x1. -/
  | vfabs (h : Hdr) (f : FRRR)
  /-- R361. VFCLASS: class 0x8, opcode 0x20, format 0x1. -/
  | vfclass (h : Hdr) (f : FRRR)
  /-- R359. VEXP2: class 0x8, opcode 0x21, format 0x1. -/
  | vexp2 (h : Hdr) (f : FRRR)
  /-- R367. VLOG2: class 0x8, opcode 0x22, format 0x1. -/
  | vlog2 (h : Hdr) (f : FRRR)
  /-- R367. VRCP: class 0x8, opcode 0x23, format 0x1. -/
  | vrcp (h : Hdr) (f : FRRR)
  /-- R367. VRSQ: class 0x8, opcode 0x24, format 0x1. -/
  | vrsq (h : Hdr) (f : FRRR)
  /-- R367. VSQRT: class 0x8, opcode 0x25, format 0x1. -/
  | vsqrt (h : Hdr) (f : FRRR)
  /-- R357. VCVT: class 0x8, opcode 0x26, format 0x1. -/
  | vcvt (h : Hdr) (f : FRRR)
  /-- R371. VQUANT: class 0x8, opcode 0x27, format 0x1. -/
  | vquant (h : Hdr) (f : FRRR)
  /-- R358. VDEQ: class 0x8, opcode 0x28, format 0x1. -/
  | vdeq (h : Hdr) (f : FRRR)
  /-- R335. PAND: class 0x8, opcode 0x29, format 0x1. -/
  | pand (h : Hdr) (f : FRRR)
  /-- R335. POR: class 0x8, opcode 0x2A, format 0x1. -/
  | por (h : Hdr) (f : FRRR)
  /-- R335. PXOR: class 0x8, opcode 0x2B, format 0x1. -/
  | pxor (h : Hdr) (f : FRRR)
  /-- R335. PNOT: class 0x8, opcode 0x2C, format 0x1. -/
  | pnot (h : Hdr) (f : FRRR)
  /-- R335. PMOV: class 0x8, opcode 0x2D, format 0x1. -/
  | pmov (h : Hdr) (f : FRRR)
  /-- R335. PMOV_V: class 0x8, opcode 0x2D, format 0x1. -/
  | pmovV (h : Hdr) (f : FRRR)
  /-- R335. PCNT: class 0x8, opcode 0x2E, format 0x1. -/
  | pcnt (h : Hdr) (f : FRRR)
  /-- R335. PFIRST: class 0x8, opcode 0x2F, format 0x1. -/
  | pfirst (h : Hdr) (f : FRRR)
  /-- R335. PANY: class 0x8, opcode 0x30, format 0x1. -/
  | pany (h : Hdr) (f : FRRR)
  /-- R75, R334. NOP: opcode 0x00 of any class. -/
  | nop (h : Hdr) (cls : BitVec 4)
  /-- R342. The header mark SPLICE. -/
  | splice
  /-- R377. The header mark YIELD with the RUN of its yield word. -/
  | yield (run : Word)
  /-- R53. The event BUNDLE_ITERATION_ISSUE. -/
  | bundleIterationIssue (col : Nat)
  /-- R79. The event EXPOSED_RESULT_LANDS. -/
  | exposedResultLands (ck : Nat)
  /-- R81. The event SCOREBOARD_WRITE_LANDS. -/
  | scoreboardWriteLands (ck : Nat)
  /-- R90. The event BLOCKING_CONDITION_CLEARS. -/
  | blockingConditionClears (cc : Nat)
  /-- R90. The event CONTEXT_RETIRE_COMPLETE. -/
  | contextRetireComplete (cc : Nat)
  /-- R96. The event BARRIER_RELEASE. -/
  | barrierRelease (bar : Nat)
  /-- R98. The event TEAM_SWAP_OUT. -/
  | teamSwapOut (launch team : Nat)
  /-- R99. The event TEAM_RETURN. -/
  | teamReturn (swap : Nat)
  /-- R93. The event FIRMWARE_CONTEXT_ISSUE. -/
  | firmwareContextIssue (col : Nat) (word : BitVec 256)
  /-- R101. The event GRAB_REQUEST_SERVED. -/
  | grabRequestServed
  /-- R109. The event TAG_TABLE_CHANGE_LANDS. -/
  | tagTableChangeLands (core : Nat)
  /-- R122. The event PAGE_WALK_COMPLETE. -/
  | pageWalkComplete (die : Nat)
  /-- R123. The event TLBI_COMPLETE. -/
  | tlbiComplete
  /-- R125. The event BACKGROUND_SCRUB. -/
  | backgroundScrub (place : Nat) (double : Bool)
  /-- R150. The event BANK_LOCK_GRANT. -/
  | bankLockGrant (core uid : Nat)
  /-- R314. The event COPY_COMMAND_START. -/
  | copyCommandStart (core ch : Nat)
  /-- R139. The event COPY_WRITE_LANDS. -/
  | copyWriteLands (core ch : Nat)
  /-- R315. The event COPY_COMPLETE. -/
  | copyComplete (core ch : Nat)
  /-- R143. The event COPY_ACCESS_FAULT. -/
  | copyAccessFault (core ch : Nat)
  /-- R138. The event SHAPE_RECORD_ARRIVES. -/
  | shapeRecordArrives (ck : Nat)
  /-- R343. The event SPXCFG_RECORD_ARRIVES. -/
  | spxcfgRecordArrives (core : Nat)
  /-- R142. The event SPARSE_DECODE_COMPLETE. -/
  | sparseDecodeComplete (core : Nat)
  /-- R146. The event MX_COMMAND_START. -/
  | mxCommandStart (core : Nat)
  /-- R147. The event MX_COMMAND_COMPLETE. -/
  | mxCommandComplete (core : Nat)
  /-- R149. The event MATRIX_FAULT_PAUSE. -/
  | matrixFaultPause (core : Nat)
  /-- R149. The event MPROG_RESUME. -/
  | mprogResume (core : Nat)
  /-- R149. The event MPROG_ABORT. -/
  | mprogAbort (core : Nat)
  /-- R159. The event ENGINE_ARBITRATION. -/
  | engineArbitration (eng : Nat)
  /-- R162. The event SHARED_TRANSFER_COMPLETE. -/
  | sharedTransferComplete (eng circ : Nat)
  /-- R163. The event DIRECT_TRANSFER_COMPLETE. -/
  | directTransferComplete (core : Nat)
  /-- R167. The event COLL_CONTRIBUTION_ARRIVES. -/
  | collContributionArrives (coll rank : Nat) (c : Contrib)
  /-- R312. The event COLL_MEMBER_COMPLETE. -/
  | collMemberComplete (coll rank : Nat)
  /-- R269. The event COLL_STALL_EVENT. -/
  | collStallEvent (coll rank : Nat)
  /-- R169. The event BLAT_WRITE_LANDS. -/
  | blatWriteLands (core : Nat)
  /-- R184. The event EV_OPERATION_START. -/
  | evOperationStart (core : Nat)
  /-- R184. The event EV_OPERATION_COMPLETE. -/
  | evOperationComplete (core : Nat)
  /-- R212. The event TRAP_ENTRY. -/
  | trapEntry (cc : Nat)
  /-- R213. The event SYSTEM_FAULT_HANDLING. -/
  | systemFaultHandling (cc : Nat)
  /-- R227. The event FREEZE_FRAME. -/
  | freezeFrame (col : Nat) (reason : Nat) (launch : Option Nat)
  /-- R233. The event SPILL_COMPLETE. -/
  | spillComplete (cc : Nat)
  /-- R233. The event TEAM_RESTORE. -/
  | teamRestore (swap : Nat) (cols : List Nat)
  /-- R239. The event NOTIFY. -/
  | notify (q : Nat) (wridx : Half)
  /-- R239. The event QCMD_OPEN. -/
  | qcmdOpen (q : Nat)
  /-- R245. The event QCMD_DESTROY. -/
  | qcmdDestroy (q : Nat)
  /-- R239. The event QCMD_CLEAR. -/
  | qcmdClear (q : Nat)
  /-- R242. The event PACKET_LAUNCH. -/
  | packetLaunch (q : Nat)
  /-- R240. The event PACKET_OPENRNG. -/
  | packetOpenrng (q : Nat)
  /-- R240. The event PACKET_WAITSIG. -/
  | packetWaitsig (q : Nat)
  /-- R240. The event WAITSIG_POLL. -/
  | waitsigPoll (q : Nat)
  /-- R242. The event TEAM_START. -/
  | teamStart (launch : Nat)
  /-- R244. The event COMPLETION_SIGNAL. -/
  | completionSignal (sig : Nat)
  /-- R255. The event APPRCMD_APPROVE. -/
  | apprcmdApprove (q : Nat)
  /-- R255. The event APPRCMD_DENY. -/
  | apprcmdDeny (q : Nat)
  /-- R247. The event REEL_ARRIVES. -/
  | reelArrives (col buf : Nat)
  /-- R253. The event CONTRACT_ADMIT. -/
  | contractAdmit (k : Nat)
  /-- R252. The event CONTRACT_REVOKE. -/
  | contractRevoke (k : Nat)
  /-- R252. The event CONTRACT_PERIOD_START. -/
  | contractPeriodStart (k : Nat)
  /-- R252. The event CONTRACT_BUDGET_SPENT. -/
  | contractBudgetSpent (k col : Nat)
  /-- R254. The event MGMTMODE_WRITE. -/
  | mgmtmodeWrite (v : DWord)
  /-- R271. The event ATTESTATION_EXCHANGE; `ended` says that it ended without an SPDM error. -/
  | attestationExchange (socket : Nat) (x : Exchange) (ended : Bool)
  /-- R271. The event ATTESTATION_TIMEOUT. -/
  | attestationTimeout (subject : Nat)
  /-- R256. The event ATTVERD_ACCEPT. -/
  | attverdAccept (subject : Nat)
  /-- R256. The event ATTVERD_REFUSE. -/
  | attverdRefuse (subject : Nat)
  /-- R273. The event LERAYX_ATTESTATION; `ended` says that this root's session ended without an SPDM error, `far` that the far root's succeeded. -/
  | lerayxAttestation (link : Nat) (x : Exchange) (ended far : Bool) (e : FarEnd)
  /-- R273. The event LERAYX_SESSION_RETRY. -/
  | lerayxSessionRetry (link : Nat)
  /-- R209. The event KEY_ROLLOVER. -/
  | keyRollover (dir : LinkDir)
  /-- R272. The event LINK_TAG_FAILURE. -/
  | linkTagFailure (subject : Nat)
  /-- R259. The event LINK_FLIT_REPLAY. -/
  | linkFlitReplay (link : Nat)
  /-- R276. The event DIEST_RESET. -/
  | diestReset (socket : Nat)
  /-- R275. The event DIEST_REATT. -/
  | diestReatt (socket : Nat)
  /-- R276. The event DIE_RESET_END. -/
  | dieResetEnd (socket : Nat)
  /-- R277. The event COLD_START. -/
  | coldStart (attempts : List (List (Nat × Nat)))
  /-- R277. The event BOOTSTAT_WARM. -/
  | bootstatWarm (attempts : List (List (Nat × Nat)))
  /-- R257. The event REPCMD_MAP. -/
  | repcmdMap (stack : Nat) (row : Word)
  /-- R257. The event REPAIR_MAP_COMPLETE. -/
  | repairMapComplete
  /-- R257. The event REPAIR_ROW_THRESHOLD. -/
  | repairRowThreshold (stack row : Nat)
  /-- R281. The event POWER_CONTROL_TICK. -/
  | powerControlTick (part : Nat) (watts : Half)
  /-- R282. The event LEND_LENT. -/
  | lendLent (col : Nat) (v : DWord)
  /-- R282. The event LEND_RECALL. -/
  | lendRecall (col : Nat)
  /-- R283. The event MIGCTL_GO. -/
  | migctlGo
  /-- R283. The event MIGRATION_COMPLETE. -/
  | migrationComplete
  /-- R260. The event POD_MESSAGE_ARRIVES. -/
  | podMessageArrives (msg : PodMsg)
  /-- R263. The event POSTED_WRITE_ACK. -/
  | postedWriteAck (uid : Nat)
  /-- R293. The event PROFILE_SAMPLE. -/
  | profileSample (cc : Nat)
  /-- R295. The event DBGCTL_STOP. -/
  | dbgctlStop (col : Nat)
  /-- R295. The event DBGCTL_RUN. -/
  | dbgctlRun (col : Nat)
  /-- R295. The event DBGCTL_STEP. -/
  | dbgctlStep (col : Nat)
  /-- R295. The event PRECISE_STOP_DRAIN_END. -/
  | preciseStopDrainEnd (col : Nat)
  /-- R12. The event REGISTER_WRITE. -/
  | registerWrite (target : RegTarget) (byFirmware : Bool) (v : DWord)
  /-- R242. The event FRONT_END_READ_LANDS. -/
  | frontEndReadLands (q : Nat)
  /-- R229. The event SVBASE_WRITE. -/
  | svbaseWrite (part : Nat) (byFirmware : Bool) (v : DWord)
  /-- R213. The event HOST_RECOVERY_CHOICE. -/
  | hostRecoveryChoice (cc : Nat) (resume : Bool)
  deriving DecidableEq, Repr

end Sys2Proof
end

