-- ==== Sys2Proof/Config.lean ====
section
/-! DEFINITION. What an implementation fixes and the spec leaves open: the free values. -/

namespace Sys2Proof

/-- R80: an early read of an exposed-latency result returns, in each lane, the old value or the new value whole. Which of the two
is free: the n-th such read takes the old value where this is true. No body: nothing can prove which (DESIGN CHOICE, log 5). -/
opaque Config.earlyOld : Nat → Bool

/-- R257: the spare rows that a stack has at boot (REPSPARE), which the spec leaves to the part (DESIGN CHOICE, log 16). -/
opaque Config.bootSpares : Nat → Byte

/-- R169: a byte of the slate bus beyond the bytes that the clock's driver put on it (DESIGN CHOICE, log 63). -/
opaque Config.busFree : Nat → Byte

/-- R173, R179, R180: which of two zeros of opposite sign is kept where a rule keeps one of two equal values: true for the first (DESIGN CHOICE, log 22). -/
opaque Config.zeroTie : Bool

/-- R266, R310: the members that a team of another package gives a collective, by pod group, pod launch and package (DESIGN CHOICE, log 65). -/
opaque Config.podSize : Nat → Nat → Nat → Nat

/-- R266: the largest HOPS among the PODRT entries of the other members of a group for one another and for this package, by the group's members: registers of
other packages (DESIGN CHOICE, log 96). -/
opaque Config.podHops : DWord → Nat

/-- R117, R205: the kind of the page of another package's pod memory that holds an address, by package, pod space index and 64-KiB page; two bits, of which 3 stands
for RC (DESIGN CHOICE, log 88). -/
opaque Config.farKind : Nat → Nat → Nat → BitVec 2

/-- A byte of another package's memory that a command of this one needs and no message asks for, by package and address (DESIGN CHOICE, log 91). -/
opaque Config.farByte : Nat → Nat → Byte

/-- R230: a byte of a save area in a part of which the spec gives the size and no layout (DESIGN CHOICE, log 14). -/
opaque Config.areaFree : Nat → Byte

/-- R301, R329: whether the host completes a read or an AtomicOp at a physical address, on a clock, with Unsupported Request or Completer Abort: an act of the
host (DESIGN CHOICE, log 11). -/
opaque Config.hostAborts : Nat → Nat → Bool

/-- R269: the die × 32 + column of a member of another package, by pod group, pod launch, package and the member's place there (DESIGN CHOICE, log 65). -/
opaque Config.podPlace : Nat → Nat → Nat → Nat → Nat

/-- R270: the 256-bit seed fused in the die of a socket. This value and those of R270 and R271 below are free (DESIGN CHOICE, log 13). -/
opaque Config.fusedSeed : Nat → BitVec 256

/-- R270: the ML-DSA-87 key pair that a seed gives, public and private: the same at every start. -/
opaque Config.mldsaPair : BitVec 256 → List Byte × List Byte

/-- R270: the certificate chain that the die of a socket stores: its die certificate and those above it. -/
opaque Config.storedChain : Nat → List Byte

/-- R270: the public key of the Tuiholt root, in IO0's fuses. -/
opaque Config.rootKey : List Byte

/-- R270: the measurements of the package root's signed list. -/
opaque Config.accepted : List (BitVec 512)

/-- R271: whether a chain verifies to a root's public key, and the public key of its die certificate. -/
opaque Config.chainVerifies : List Byte → List Byte → Bool
opaque Config.leafKey : List Byte → List Byte

/-- R271: an ML-DSA-87 signature by a private key, and whether one verifies by a public key. -/
opaque Config.mldsaSign : List Byte → List Byte → List Byte
opaque Config.mldsaVerifies : List Byte → List Byte → List Byte → Bool

end Sys2Proof
end

