-- ==== Sys2Proof/Decode.lean ====
section
/-! DEFINITION. Decoding of control words (R59 to R78) and of slot words (R50), the adjustment of R57, and the encoder
written from the same tables. -/

namespace Sys2Proof

/-! ### Codes -/

/-- R60. -/
def Cls.code : Cls → Nat
  | .sc => 0 | .br => 1 | .mx => 2 | .cp => 3 | .en => 4 | .ev => 5 | .xg => 6 | .sy => 7 | .va => 8 | .vm => 9

/-- R60: the class of a code; none for a reserved code. -/
def Cls.ofCode : Nat → Option Cls
  | 0 => some .sc | 1 => some .br | 2 => some .mx | 3 => some .cp | 4 => some .en
  | 5 => some .ev | 6 => some .xg | 7 => some .sy | 8 => some .va | 9 => some .vm
  | _ => none

/-- R65. -/
def Ty.code : Ty → Nat
  | .b => 0 | .f32 => 1 | .h16 => 2 | .bf16 => 3 | .bk8 => 4 | .bk4 => 5 | .i8 => 6 | .i16 => 7 | .i32 => 8
  | .n8 => 9 | .n16 => 10 | .n32 => 11 | .i64 => 12 | .n64 => 13 | .rsv1 => 14 | .rsv2 => 15

/-- R65: the type of a four-bit code. -/
def Ty.ofCode : Nat → Ty
  | 0 => .b | 1 => .f32 | 2 => .h16 | 3 => .bf16 | 4 => .bk8 | 5 => .bk4 | 6 => .i8 | 7 => .i16 | 8 => .i32
  | 9 => .n8 | 10 => .n16 | 11 => .n32 | 12 => .i64 | 13 => .n64 | 14 => .rsv1
  | _ => .rsv2

/-- The width in bits of a type's element; a block format counts its element's data bits. -/
def Ty.width : Ty → Nat
  | .b => 64 | .f32 => 32 | .h16 => 16 | .bf16 => 16 | .bk8 => 8 | .bk4 => 4 | .i8 => 8 | .i16 => 16 | .i32 => 32
  | .n8 => 8 | .n16 => 16 | .n32 => 32 | .i64 => 64 | .n64 => 64 | .rsv1 => 8 | .rsv2 => 8

/-- Whether a type is a signed integer type. -/
def Ty.signed : Ty → Bool
  | .i8 => true | .i16 => true | .i32 => true | .i64 => true | _ => false

/-- Whether a type is an integer type. -/
def Ty.isInt : Ty → Bool
  | .i8 => true | .i16 => true | .i32 => true | .i64 => true
  | .n8 => true | .n16 => true | .n32 => true | .n64 => true
  | _ => false

/-- Whether a type is a block format (R31). -/
def Ty.isBlock : Ty → Bool
  | .bk8 => true | .bk4 => true | _ => false

/-- Whether a type is an element floating-point format (R29). -/
def Ty.isFloat : Ty → Bool
  | .f32 => true | .h16 => true | .bf16 => true | _ => false

/-- R135: the alignment in bytes of a type's element, 1 for .b. -/
def Ty.align : Ty → Nat
  | .b => 1 | .f32 => 4 | .h16 => 2 | .bf16 => 2 | .bk8 => 32 | .bk4 => 32 | .i8 => 1 | .i16 => 2 | .i32 => 4
  | .n8 => 1 | .n16 => 2 | .n32 => 4 | .i64 => 8 | .n64 => 8 | .rsv1 => 1 | .rsv2 => 1

/-! ### Words as lists of fields -/

/-- The number whose fields, from bit 0 up, have the widths `ws` and the values `vs`. -/
def packFields : List Nat → List Nat → Nat
  | w :: ws, v :: vs => v % 2 ^ w + 2 ^ w * packFields ws vs
  | _, _ => 0

/-- The values of the fields of widths `ws`, from bit 0 up. -/
def unpackFields : List Nat → Nat → List Nat
  | [], _ => []
  | w :: ws, x => x % 2 ^ w :: unpackFields ws (x / 2 ^ w)

/-- The fields of a format. -/
inductive Fields where
  | none
  | rrr (f : FRRR)
  | rimm (f : FRIMM)
  | mem (f : FMEM)
  | br (f : FBR)
  | sync (f : FSYNC)
  | copy (f : FCOPY)
  | mx (f : FMX)
  | en (f : FEN)
  | ev (f : FEV)
  deriving DecidableEq, Repr

def Reg.toNat (r : Reg) : Nat := r.code.toNat + (if r.hold then 1024 else 0)
def Reg.ofNat (n : Nat) : Reg := ⟨n / 1024 % 2 == 1, BitVec.ofNat 10 n⟩
def bit01 (b : Bool) : Nat := if b then 1 else 0
def isOne (n : Nat) : Bool := n == 1

/-- The widths of the header's fields above FORMAT (R59, R61): DM, reserved, SBYTES, GROUP, WAITSEM, WAITTH, SIGSEM, SIGINC. -/
def layHdr : List Nat := [8, 4, 1, 3, 8, 24, 8, 8]

def Hdr.toList (h : Hdr) : List Nat :=
  [h.dm.toNat, 0, bit01 h.sbytes, h.group.toNat, h.waitSem.toNat, h.waitTh.toNat, h.sigSem.toNat, h.sigInc.toNat]

def Hdr.ofList : List Nat → Hdr
  | [dm, _, sb, g, ws, wt, ss, si] =>
    ⟨BitVec.ofNat 8 dm, BitVec.ofNat 3 g, isOne sb, BitVec.ofNat 8 ws, BitVec.ofNat 24 wt, BitVec.ofNat 8 ss, BitVec.ofNat 8 si⟩
  | _ => Hdr.plain

/-- The widths of a format's fields from bit 80 up (R66 to R74); the reserved ones are listed by `resvOf`. -/
def layOf : Nat → List Nat
  | 1 => [11, 11, 11, 11, 6, 1, 1, 2, 4, 4, 8, 106]
  | 2 => [11, 11, 4, 6, 1, 1, 14, 64, 64]
  | 3 => [11, 11, 11, 4, 6, 1, 1, 1, 8, 3, 23, 32, 32, 32]
  | 4 => [3, 1, 1, 11, 32, 32, 16, 16, 64]
  | 5 => [8, 24, 3, 4, 4, 11, 11, 47, 64]
  | 6 => [11, 11, 2, 4, 1, 1, 1, 1, 1, 1, 1, 1, 1, 1, 10, 20, 20, 20, 20, 24, 24]
  | 7 => [11, 11, 2, 2, 4, 4, 1, 13, 24, 24, 16, 16, 14, 2, 32]
  | 8 => [11, 11, 11, 3, 3, 15, 4, 4, 4, 1, 13, 24, 24, 24, 24]
  | 9 => [2, 2, 2, 11, 11, 11, 6, 1, 1, 11, 22, 32, 64]
  | _ => [176]

/-- The positions in `layOf` of the reserved fields of a format. -/
def resvOf : Nat → List Nat
  | 0 => [0]
  | 1 => [11]
  | 2 => [6, 8]
  | 3 => [10]
  | 4 => [4, 6, 8]
  | 5 => [7]
  | 6 => [7, 14]
  | 7 => [7, 13]
  | 8 => [10]
  | 9 => [10, 12]
  | _ => []

/-- The format code of a format's fields (R66). -/
def Fields.fmt : Fields → Nat
  | .none => 0 | .rrr _ => 1 | .rimm _ => 2 | .mem _ => 3 | .br _ => 4 | .sync _ => 5 | .copy _ => 6 | .mx _ => 7
  | .en _ => 8 | .ev _ => 9

def Fields.toList : Fields → List Nat
  | .none => [0]
  | .rrr f => [f.dst.toNat, f.srcA.toNat, f.srcB.toNat, f.srcC.toNat, f.pr.reg.toNat, bit01 f.pr.en, bit01 f.pr.inv,
      f.rm.toNat, f.ty.code, f.ty2.code, f.sub.toNat, 0]
  | .rimm f => [f.dst.toNat, f.srcA.toNat, f.ty.code, f.pr.reg.toNat, bit01 f.pr.en, bit01 f.pr.inv, 0, f.imm.toNat, 0]
  | .mem f => [f.data.toNat, f.base.toNat, f.aux.toNat, f.ty.code, f.pr.reg.toNat, bit01 f.pr.en, bit01 f.pr.inv,
      bit01 f.dts, f.sub.toNat, f.scope.toNat, 0, f.offset.toNat, f.step.toNat, f.dstride.toNat]
  | .br f => [f.freg.toNat, bit01 f.finv, bit01 f.any, f.cnt.toNat, 0, f.target.toNat, 0, f.code.toNat, 0]
  | .sync f => [f.sem.toNat, f.count.toNat, f.scope.toNat, f.kind.toNat, f.bid.toNat, f.sregA.toNat, f.sregB.toNat, 0, f.imm.toNat]
  | .copy f => [f.dbase.toNat, f.sbase.toNat, f.ch.toNat, f.shape.toNat, bit01 f.shen, bit01 f.dts, bit01 f.dside, 0,
      bit01 f.cnv, bit01 f.gath, bit01 f.trn, bit01 f.scl, bit01 f.twr, bit01 f.tchk, 0,
      f.doff.toNat, f.soff.toNat, f.dstep.toNat, f.sstep.toNat, f.len.toNat, f.dstride.toNat]
  | .mx f => [f.abase.toNat, f.bbase.toNat, f.latch.toNat, f.acc.toNat, f.atype.code, f.btype.code, bit01 f.dts, 0,
      f.aoff.toNat, f.boff.toNat, f.astride.toNat, f.bstride.toNat, f.k.toNat, 0, f.dstride.toNat]
  | .en f => [f.dbase.toNat, f.sbase.toNat, f.out.toNat, f.fbusy.toNat, f.nch.toNat, f.choices.toNat, f.op.toNat, f.ty.code,
      f.cycle.toNat, bit01 f.dts, 0, f.len.toNat, f.doff.toNat, f.soff.toNat, f.dstride.toNat]
  | .ev f => [f.edst.toNat, f.esrcA.toNat, f.esrcB.toNat, f.vopA.toNat, f.vopB.toNat, f.vopC.toNat, f.pr.reg.toNat,
      bit01 f.pr.en, bit01 f.pr.inv, f.sreg.toNat, 0, f.offset.toNat, 0]

/-- The fields of format `fmt` from their values; NONE where the code is reserved. -/
def Fields.ofList (fmt : Nat) (l : List Nat) : Fields :=
  match fmt, l with
  | 1, [dst, a, b, c, pr, pen, pinv, rm, ty, ty2, sub, _] =>
    .rrr ⟨BitVec.ofNat 8 sub, Ty.ofCode ty2, Ty.ofCode ty, BitVec.ofNat 2 rm, ⟨isOne pinv, isOne pen, BitVec.ofNat 6 pr⟩,
      Reg.ofNat c, Reg.ofNat b, Reg.ofNat a, Reg.ofNat dst⟩
  | 2, [dst, a, ty, pr, pen, pinv, _, imm, _] =>
    .rimm ⟨BitVec.ofNat 64 imm, ⟨isOne pinv, isOne pen, BitVec.ofNat 6 pr⟩, Ty.ofCode ty, Reg.ofNat a, Reg.ofNat dst⟩
  | 3, [data, base, aux, ty, pr, pen, pinv, dts, sub, scope, _, off, step, ds] =>
    .mem ⟨BitVec.ofNat 32 ds, BitVec.ofNat 32 step, BitVec.ofNat 32 off, BitVec.ofNat 3 scope, BitVec.ofNat 8 sub, isOne dts,
      ⟨isOne pinv, isOne pen, BitVec.ofNat 6 pr⟩, Ty.ofCode ty, Reg.ofNat aux, Reg.ofNat base, Reg.ofNat data⟩
  | 4, [freg, finv, mode, cnt, _, target, _, code, _] =>
    .br ⟨BitVec.ofNat 16 code, BitVec.ofNat 32 target, Reg.ofNat cnt, isOne mode, isOne finv, BitVec.ofNat 3 freg⟩
  | 5, [sem, count, scope, kind, bid, ra, rb, _, imm] =>
    .sync ⟨BitVec.ofNat 64 imm, Reg.ofNat rb, Reg.ofNat ra, BitVec.ofNat 4 bid, BitVec.ofNat 4 kind, BitVec.ofNat 3 scope,
      BitVec.ofNat 24 count, BitVec.ofNat 8 sem⟩
  | 6, [db, sb, ch, sh, shen, dts, dside, _, cnv, gath, trn, scl, twr, tchk, _, doff, soff, dstep, sstep, len, ds] =>
    .copy ⟨BitVec.ofNat 24 ds, BitVec.ofNat 24 len, BitVec.ofNat 20 sstep, BitVec.ofNat 20 dstep, BitVec.ofNat 20 soff,
      BitVec.ofNat 20 doff, isOne tchk, isOne twr, isOne scl, isOne trn, isOne gath, isOne cnv, isOne dside, isOne dts, isOne shen,
      BitVec.ofNat 4 sh, BitVec.ofNat 2 ch, Reg.ofNat sb, Reg.ofNat db⟩
  | 7, [ab, bb, lt, acc, aty, bty, dts, _, aoff, boff, ast, bst, k, _, ds] =>
    .mx ⟨BitVec.ofNat 32 ds, BitVec.ofNat 14 k, BitVec.ofNat 16 bst, BitVec.ofNat 16 ast, BitVec.ofNat 24 boff, BitVec.ofNat 24 aoff,
      isOne dts, Ty.ofCode bty, Ty.ofCode aty, BitVec.ofNat 2 acc, BitVec.ofNat 2 lt, Reg.ofNat bb, Reg.ofNat ab⟩
  | 8, [db, sb, out, fb, nch, ch, op, ty, cyc, dts, _, len, doff, soff, ds] =>
    .en ⟨BitVec.ofNat 24 ds, BitVec.ofNat 24 soff, BitVec.ofNat 24 doff, BitVec.ofNat 24 len, isOne dts, BitVec.ofNat 4 cyc,
      Ty.ofCode ty, BitVec.ofNat 4 op, BitVec.ofNat 15 ch, BitVec.ofNat 3 nch, BitVec.ofNat 3 fb, Reg.ofNat out, Reg.ofNat sb, Reg.ofNat db⟩
  | 9, [ed, ea, eb, va, vb, vc, pr, pen, pinv, sr, _, off, _] =>
    .ev ⟨BitVec.ofNat 32 off, Reg.ofNat sr, ⟨isOne pinv, isOne pen, BitVec.ofNat 6 pr⟩, Reg.ofNat vc, Reg.ofNat vb, Reg.ofNat va,
      BitVec.ofNat 2 eb, BitVec.ofNat 2 ea, BitVec.ofNat 2 ed⟩
  | _, _ => .none

/-- R76, cause 0x01: a reserved field of the format is set. -/
def resvSet (fmt : Nat) (l : List Nat) : Bool := (resvOf fmt).any fun i => l.getD i 0 != 0

/-- R75: the operation of a class, an opcode and the fields of its format; none where the opcode is unused in the class or
the fields are not those of its format. -/
def mk (c : Cls) (op : Nat) (h : Hdr) (fs : Fields) : Option Instr :=
  match c, op, fs with
  | c, 0, .none => some (.nop h (BitVec.ofNat 4 c.code))
  | .sc, 1, .rrr f => some (.add h f)
  | .sc, 3, .rrr f => some (.sub h f)
  | .sc, 4, .rrr f => some (.mul h f)
  | .sc, 5, .rrr f => some (.mulh h f)
  | .sc, 6, .rrr f => some (.div h f)
  | .sc, 7, .rrr f => some (.rem h f)
  | .sc, 8, .rrr f => some (.and h f)
  | .sc, 9, .rrr f => some (.andn h f)
  | .sc, 10, .rrr f => some (.or h f)
  | .sc, 11, .rrr f => some (.xor h f)
  | .sc, 12, .rrr f => some (.shl h f)
  | .sc, 13, .rrr f => some (.shr h f)
  | .sc, 14, .rrr f => some (.sra h f)
  | .sc, 15, .rrr f => some (.rol h f)
  | .sc, 16, .rrr f => some (.clz h f)
  | .sc, 17, .rrr f => some (.popc h f)
  | .sc, 18, .rrr f => some (.min h f)
  | .sc, 19, .rrr f => some (.max h f)
  | .sc, 20, .rrr f => some (.cmp h f)
  | .sc, 21, .rrr f => some (.sel h f)
  | .sc, 22, .rrr f => some (.mov h f)
  | .sc, 2, .rimm f => some (.addi h f)
  | .sc, 23, .rimm f => some (.movi h f)
  | .sc, 24, .rimm f => some (.movhi h f)
  | .sc, 29, .rimm f => some (.csrr h f)
  | .sc, 30, .rimm f => some (.csrw h f)
  | .sc, 25, .mem f => some (.ld h f)
  | .sc, 26, .mem f => some (.st h f)
  | .sc, 27, .mem f => some (.amo h f)
  | .sc, 28, .mem f => some (.acas h f)
  | .br, 1, .br f => some (.bra h f)
  | .br, 2, .br f => some (.brc h f)
  | .br, 3, .br f => some (.call h f)
  | .br, 5, .br f => some (.loop h f)
  | .br, 6, .br f => some (.trap h f)
  | .br, 9, .br f => some (.reel h f)
  | .br, 4, .none => some (.ret h)
  | .br, 7, .none => some (.tret h)
  | .br, 8, .none => some (.halt h)
  | .mx, 1, .mx f => some (.mlatch h f)
  | .mx, 2, .mx f => some (.mmul h f)
  | .mx, 5, .mx f => some (.mtile h f)
  | .mx, 4, .mx f => some (.mzero h f)
  | .mx, 3, .mx f => some (.mret h f)
  | .cp, 1, .copy f => some (.cpy h f)
  | .cp, 2, .copy f => some (.cpyg h f)
  | .cp, 5, .copy f => some (.cpchk h f)
  | .cp, 8, .copy f => some (.spxgo h f)
  | .cp, 3, .mem f => some (.shape h f)
  | .cp, 7, .mem f => some (.spxcfg h f)
  | .cp, 4, .rrr f => some (.sbind h f)
  | .cp, 6, .rrr f => some (.cpdrain h f)
  | .en, 1, .en f => some (if f.op == 1 then .seizeHold h f else .seize h f)
  | .en, 2, .en f => some (.sxfer h f)
  | .en, 3, .en f => some (.clear h f)
  | .en, 4, .en f => some (.coll h f)
  | .en, 5, .en f => some (.bdrv h f)
  | .en, 6, .en f => some (.blat h f)
  | .ev, 1, .ev f => some (.eline h f)
  | .ev, 2, .ev f => some (.emax h f)
  | .ev, 3, .ev f => some (.esum h f)
  | .ev, 4, .ev f => some (.einfc h f)
  | .ev, 5, .ev f => some (.econj h f)
  | .ev, 6, .ev f => some (.eeval h f)
  | .ev, 7, .ev f => some (.ebrk h f)
  | .ev, 8, .ev f => some (.eclr h f)
  | .ev, 9, .ev f => some (.etol h f)
  | .ev, 10, .ev f => some (.esave h f)
  | .ev, 11, .ev f => some (.eload h f)
  | .xg, 1, .rrr f => some (.xmov h f)
  | .xg, 2, .rrr f => some (.xbc h f)
  | .xg, 3, .rrr f => some (.xred h f)
  | .sy, 1, .sync f => some (.sig h f)
  | .sy, 2, .sync f => some (.wsem h f)
  | .sy, 3, .sync f => some (.bar h f)
  | .sy, 4, .sync f => some (.fence h f)
  | .sy, 5, .sync f => some (.etrig h f)
  | .sy, 6, .sync f => some (.grab h f)
  | .sy, 7, .sync f => some (.tlbi h f)
  | .sy, 8, .sync f => some (.cwld h f)
  | .sy, 9, .sync f => some (.tlook h f)
  | .sy, 10, .sync f => some (.tset h f)
  | .sy, 11, .sync f => some (if f.kind == 1 then .tdropAll h f else .tdrop h f)
  | .vm, 1, .mem f => some (.vld h f)
  | .vm, 2, .mem f => some (.vst h f)
  | .vm, 3, .mem f => some (.vlds h f)
  | .vm, 4, .mem f => some (.vgath h f)
  | .vm, 5, .mem f => some (.vscat h f)
  | .vm, 6, .rrr f => some (.vrdq h f)
  | .va, 1, .rrr f => some (.vadd h f)
  | .va, 2, .rrr f => some (.vsub h f)
  | .va, 3, .rrr f => some (.vmul h f)
  | .va, 4, .rrr f => some (.vmulh h f)
  | .va, 5, .rrr f => some (.vmad h f)
  | .va, 6, .rrr f => some (.vand h f)
  | .va, 7, .rrr f => some (.vor h f)
  | .va, 8, .rrr f => some (.vxor h f)
  | .va, 9, .rrr f => some (.vshl h f)
  | .va, 10, .rrr f => some (.vshr h f)
  | .va, 11, .rrr f => some (.vsra h f)
  | .va, 12, .rrr f => some (.vmin h f)
  | .va, 13, .rrr f => some (.vmax h f)
  | .va, 14, .rrr f => some (.vabs h f)
  | .va, 15, .rrr f => some (.vneg h f)
  | .va, 16, .rrr f => some (.vclz h f)
  | .va, 17, .rrr f => some (.vcmp h f)
  | .va, 18, .rrr f => some (.vsel h f)
  | .va, 19, .rrr f => some (.vmov h f)
  | .va, 20, .rimm f => some (.vmovi h f)
  | .va, 21, .rrr f => some (.vperm h f)
  | .va, 23, .rrr f => some (.vcas h f)
  | .va, 22, .rrr f => some (.vred h f)
  | .va, 24, .rrr f => some (.vfadd h f)
  | .va, 25, .rrr f => some (.vfsub h f)
  | .va, 26, .rrr f => some (.vfmul h f)
  | .va, 27, .rrr f => some (.vfma h f)
  | .va, 28, .rrr f => some (.vfmin h f)
  | .va, 29, .rrr f => some (.vfmax h f)
  | .va, 30, .rrr f => some (.vfcmp h f)
  | .va, 31, .rrr f => some (.vfabs h f)
  | .va, 32, .rrr f => some (.vfclass h f)
  | .va, 33, .rrr f => some (.vexp2 h f)
  | .va, 34, .rrr f => some (.vlog2 h f)
  | .va, 35, .rrr f => some (.vrcp h f)
  | .va, 36, .rrr f => some (.vrsq h f)
  | .va, 37, .rrr f => some (.vsqrt h f)
  | .va, 38, .rrr f => some (.vcvt h f)
  | .va, 39, .rrr f => some (.vquant h f)
  | .va, 40, .rrr f => some (.vdeq h f)
  | .va, 41, .rrr f => some (.pand h f)
  | .va, 42, .rrr f => some (.por h f)
  | .va, 43, .rrr f => some (.pxor h f)
  | .va, 44, .rrr f => some (.pnot h f)
  | .va, 45, .rrr f => some (if f.sub == 1 then .pmovV h f else .pmov h f)
  | .va, 46, .rrr f => some (.pcnt h f)
  | .va, 47, .rrr f => some (.pfirst h f)
  | .va, 48, .rrr f => some (.pany h f)
  | _, _, _ => none

/-- The class, opcode, header and fields of an operation; none for the header marks and the events, which have no
control word. -/
def toRaw : Instr → Option (Cls × Nat × Hdr × Fields)
  | .nop h c => (Cls.ofCode c.toNat).map fun c => (c, 0, h, .none)
  | .add h f => some (.sc, 1, h, .rrr f)
  | .sub h f => some (.sc, 3, h, .rrr f)
  | .mul h f => some (.sc, 4, h, .rrr f)
  | .mulh h f => some (.sc, 5, h, .rrr f)
  | .div h f => some (.sc, 6, h, .rrr f)
  | .rem h f => some (.sc, 7, h, .rrr f)
  | .and h f => some (.sc, 8, h, .rrr f)
  | .andn h f => some (.sc, 9, h, .rrr f)
  | .or h f => some (.sc, 10, h, .rrr f)
  | .xor h f => some (.sc, 11, h, .rrr f)
  | .shl h f => some (.sc, 12, h, .rrr f)
  | .shr h f => some (.sc, 13, h, .rrr f)
  | .sra h f => some (.sc, 14, h, .rrr f)
  | .rol h f => some (.sc, 15, h, .rrr f)
  | .clz h f => some (.sc, 16, h, .rrr f)
  | .popc h f => some (.sc, 17, h, .rrr f)
  | .min h f => some (.sc, 18, h, .rrr f)
  | .max h f => some (.sc, 19, h, .rrr f)
  | .cmp h f => some (.sc, 20, h, .rrr f)
  | .sel h f => some (.sc, 21, h, .rrr f)
  | .mov h f => some (.sc, 22, h, .rrr f)
  | .addi h f => some (.sc, 2, h, .rimm f)
  | .movi h f => some (.sc, 23, h, .rimm f)
  | .movhi h f => some (.sc, 24, h, .rimm f)
  | .csrr h f => some (.sc, 29, h, .rimm f)
  | .csrw h f => some (.sc, 30, h, .rimm f)
  | .ld h f => some (.sc, 25, h, .mem f)
  | .st h f => some (.sc, 26, h, .mem f)
  | .amo h f => some (.sc, 27, h, .mem f)
  | .acas h f => some (.sc, 28, h, .mem f)
  | .bra h f => some (.br, 1, h, .br f)
  | .brc h f => some (.br, 2, h, .br f)
  | .call h f => some (.br, 3, h, .br f)
  | .loop h f => some (.br, 5, h, .br f)
  | .trap h f => some (.br, 6, h, .br f)
  | .reel h f => some (.br, 9, h, .br f)
  | .ret h => some (.br, 4, h, .none)
  | .tret h => some (.br, 7, h, .none)
  | .halt h => some (.br, 8, h, .none)
  | .mlatch h f => some (.mx, 1, h, .mx f)
  | .mmul h f => some (.mx, 2, h, .mx f)
  | .mtile h f => some (.mx, 5, h, .mx f)
  | .mzero h f => some (.mx, 4, h, .mx f)
  | .mret h f => some (.mx, 3, h, .mx f)
  | .cpy h f => some (.cp, 1, h, .copy f)
  | .cpyg h f => some (.cp, 2, h, .copy f)
  | .cpchk h f => some (.cp, 5, h, .copy f)
  | .spxgo h f => some (.cp, 8, h, .copy f)
  | .shape h f => some (.cp, 3, h, .mem f)
  | .spxcfg h f => some (.cp, 7, h, .mem f)
  | .sbind h f => some (.cp, 4, h, .rrr f)
  | .cpdrain h f => some (.cp, 6, h, .rrr f)
  | .seize h f => some (.en, 1, h, .en f)
  | .seizeHold h f => some (.en, 1, h, .en f)
  | .sxfer h f => some (.en, 2, h, .en f)
  | .clear h f => some (.en, 3, h, .en f)
  | .coll h f => some (.en, 4, h, .en f)
  | .bdrv h f => some (.en, 5, h, .en f)
  | .blat h f => some (.en, 6, h, .en f)
  | .eline h f => some (.ev, 1, h, .ev f)
  | .emax h f => some (.ev, 2, h, .ev f)
  | .esum h f => some (.ev, 3, h, .ev f)
  | .einfc h f => some (.ev, 4, h, .ev f)
  | .econj h f => some (.ev, 5, h, .ev f)
  | .eeval h f => some (.ev, 6, h, .ev f)
  | .ebrk h f => some (.ev, 7, h, .ev f)
  | .eclr h f => some (.ev, 8, h, .ev f)
  | .etol h f => some (.ev, 9, h, .ev f)
  | .esave h f => some (.ev, 10, h, .ev f)
  | .eload h f => some (.ev, 11, h, .ev f)
  | .xmov h f => some (.xg, 1, h, .rrr f)
  | .xbc h f => some (.xg, 2, h, .rrr f)
  | .xred h f => some (.xg, 3, h, .rrr f)
  | .sig h f => some (.sy, 1, h, .sync f)
  | .wsem h f => some (.sy, 2, h, .sync f)
  | .bar h f => some (.sy, 3, h, .sync f)
  | .fence h f => some (.sy, 4, h, .sync f)
  | .etrig h f => some (.sy, 5, h, .sync f)
  | .grab h f => some (.sy, 6, h, .sync f)
  | .tlbi h f => some (.sy, 7, h, .sync f)
  | .cwld h f => some (.sy, 8, h, .sync f)
  | .tlook h f => some (.sy, 9, h, .sync f)
  | .tset h f => some (.sy, 10, h, .sync f)
  | .tdrop h f => some (.sy, 11, h, .sync f)
  | .tdropAll h f => some (.sy, 11, h, .sync f)
  | .vld h f => some (.vm, 1, h, .mem f)
  | .vst h f => some (.vm, 2, h, .mem f)
  | .vlds h f => some (.vm, 3, h, .mem f)
  | .vgath h f => some (.vm, 4, h, .mem f)
  | .vscat h f => some (.vm, 5, h, .mem f)
  | .vrdq h f => some (.vm, 6, h, .rrr f)
  | .vadd h f => some (.va, 1, h, .rrr f)
  | .vsub h f => some (.va, 2, h, .rrr f)
  | .vmul h f => some (.va, 3, h, .rrr f)
  | .vmulh h f => some (.va, 4, h, .rrr f)
  | .vmad h f => some (.va, 5, h, .rrr f)
  | .vand h f => some (.va, 6, h, .rrr f)
  | .vor h f => some (.va, 7, h, .rrr f)
  | .vxor h f => some (.va, 8, h, .rrr f)
  | .vshl h f => some (.va, 9, h, .rrr f)
  | .vshr h f => some (.va, 10, h, .rrr f)
  | .vsra h f => some (.va, 11, h, .rrr f)
  | .vmin h f => some (.va, 12, h, .rrr f)
  | .vmax h f => some (.va, 13, h, .rrr f)
  | .vabs h f => some (.va, 14, h, .rrr f)
  | .vneg h f => some (.va, 15, h, .rrr f)
  | .vclz h f => some (.va, 16, h, .rrr f)
  | .vcmp h f => some (.va, 17, h, .rrr f)
  | .vsel h f => some (.va, 18, h, .rrr f)
  | .vmov h f => some (.va, 19, h, .rrr f)
  | .vmovi h f => some (.va, 20, h, .rimm f)
  | .vperm h f => some (.va, 21, h, .rrr f)
  | .vcas h f => some (.va, 23, h, .rrr f)
  | .vred h f => some (.va, 22, h, .rrr f)
  | .vfadd h f => some (.va, 24, h, .rrr f)
  | .vfsub h f => some (.va, 25, h, .rrr f)
  | .vfmul h f => some (.va, 26, h, .rrr f)
  | .vfma h f => some (.va, 27, h, .rrr f)
  | .vfmin h f => some (.va, 28, h, .rrr f)
  | .vfmax h f => some (.va, 29, h, .rrr f)
  | .vfcmp h f => some (.va, 30, h, .rrr f)
  | .vfabs h f => some (.va, 31, h, .rrr f)
  | .vfclass h f => some (.va, 32, h, .rrr f)
  | .vexp2 h f => some (.va, 33, h, .rrr f)
  | .vlog2 h f => some (.va, 34, h, .rrr f)
  | .vrcp h f => some (.va, 35, h, .rrr f)
  | .vrsq h f => some (.va, 36, h, .rrr f)
  | .vsqrt h f => some (.va, 37, h, .rrr f)
  | .vcvt h f => some (.va, 38, h, .rrr f)
  | .vquant h f => some (.va, 39, h, .rrr f)
  | .vdeq h f => some (.va, 40, h, .rrr f)
  | .pand h f => some (.va, 41, h, .rrr f)
  | .por h f => some (.va, 42, h, .rrr f)
  | .pxor h f => some (.va, 43, h, .rrr f)
  | .pnot h f => some (.va, 44, h, .rrr f)
  | .pmov h f => some (.va, 45, h, .rrr f)
  | .pmovV h f => some (.va, 45, h, .rrr f)
  | .pcnt h f => some (.va, 46, h, .rrr f)
  | .pfirst h f => some (.va, 47, h, .rrr f)
  | .pany h f => some (.va, 48, h, .rrr f)
  | .splice => none
  | .yield _ => none
  | .bundleIterationIssue _ => none
  | .exposedResultLands _ => none
  | .scoreboardWriteLands _ => none
  | .blockingConditionClears _ => none
  | .contextRetireComplete _ => none
  | .barrierRelease _ => none
  | .teamSwapOut _ _ => none
  | .teamReturn _ => none
  | .firmwareContextIssue _ _ => none
  | .grabRequestServed => none
  | .tagTableChangeLands _ => none
  | .pageWalkComplete _ => none
  | .tlbiComplete => none
  | .backgroundScrub _ _ => none
  | .bankLockGrant _ _ => none
  | .copyCommandStart _ _ => none
  | .copyWriteLands _ _ => none
  | .copyComplete _ _ => none
  | .copyAccessFault _ _ => none
  | .shapeRecordArrives _ => none
  | .spxcfgRecordArrives _ => none
  | .sparseDecodeComplete _ => none
  | .mxCommandStart _ => none
  | .mxCommandComplete _ => none
  | .matrixFaultPause _ => none
  | .mprogResume _ => none
  | .mprogAbort _ => none
  | .engineArbitration _ => none
  | .sharedTransferComplete _ _ => none
  | .directTransferComplete _ => none
  | .collContributionArrives _ _ _ => none
  | .collMemberComplete _ _ => none
  | .collStallEvent _ _ => none
  | .blatWriteLands _ => none
  | .evOperationStart _ => none
  | .evOperationComplete _ => none
  | .trapEntry _ => none
  | .systemFaultHandling _ => none
  | .freezeFrame _ _ _ => none
  | .spillComplete _ => none
  | .teamRestore _ _ => none
  | .notify _ _ => none
  | .qcmdOpen _ => none
  | .qcmdDestroy _ => none
  | .qcmdClear _ => none
  | .packetLaunch _ => none
  | .packetOpenrng _ => none
  | .packetWaitsig _ => none
  | .waitsigPoll _ => none
  | .teamStart _ => none
  | .completionSignal _ => none
  | .apprcmdApprove _ => none
  | .apprcmdDeny _ => none
  | .reelArrives _ _ => none
  | .contractAdmit _ => none
  | .contractRevoke _ => none
  | .contractPeriodStart _ => none
  | .contractBudgetSpent _ _ => none
  | .mgmtmodeWrite _ => none
  | .attestationExchange _ _ _ => none
  | .attestationTimeout _ => none
  | .attverdAccept _ => none
  | .attverdRefuse _ => none
  | .lerayxAttestation _ _ _ _ _ => none
  | .lerayxSessionRetry _ => none
  | .keyRollover _ => none
  | .linkTagFailure _ => none
  | .linkFlitReplay _ => none
  | .diestReset _ => none
  | .diestReatt _ => none
  | .dieResetEnd _ => none
  | .coldStart _ => none
  | .bootstatWarm _ => none
  | .repcmdMap _ _ => none
  | .repairMapComplete => none
  | .repairRowThreshold _ _ => none
  | .powerControlTick _ _ => none
  | .lendLent _ _ => none
  | .lendRecall _ => none
  | .migctlGo => none
  | .migrationComplete => none
  | .podMessageArrives _ => none
  | .postedWriteAck _ => none
  | .profileSample _ => none
  | .dbgctlStop _ => none
  | .dbgctlRun _ => none
  | .dbgctlStep _ => none
  | .preciseStopDrainEnd _ => none
  | .registerWrite _ _ _ => none
  | .frontEndReadLands _ => none
  | .svbaseWrite _ _ _ => none
  | .hostRecoveryChoice _ _ => none

/-- R75: the format code of an opcode of a class; none where it is unused. -/
def fmtOf (c : Cls) (op : Nat) : Option Nat :=
  match c, op with
  | _, 0 => some 0
  | .sc, 1 => some 1
  | .sc, 3 => some 1
  | .sc, 4 => some 1
  | .sc, 5 => some 1
  | .sc, 6 => some 1
  | .sc, 7 => some 1
  | .sc, 8 => some 1
  | .sc, 9 => some 1
  | .sc, 10 => some 1
  | .sc, 11 => some 1
  | .sc, 12 => some 1
  | .sc, 13 => some 1
  | .sc, 14 => some 1
  | .sc, 15 => some 1
  | .sc, 16 => some 1
  | .sc, 17 => some 1
  | .sc, 18 => some 1
  | .sc, 19 => some 1
  | .sc, 20 => some 1
  | .sc, 21 => some 1
  | .sc, 22 => some 1
  | .sc, 2 => some 2
  | .sc, 23 => some 2
  | .sc, 24 => some 2
  | .sc, 29 => some 2
  | .sc, 30 => some 2
  | .sc, 25 => some 3
  | .sc, 26 => some 3
  | .sc, 27 => some 3
  | .sc, 28 => some 3
  | .br, 1 => some 4
  | .br, 2 => some 4
  | .br, 3 => some 4
  | .br, 5 => some 4
  | .br, 6 => some 4
  | .br, 9 => some 4
  | .br, 4 => some 0
  | .br, 7 => some 0
  | .br, 8 => some 0
  | .mx, 1 => some 7
  | .mx, 2 => some 7
  | .mx, 5 => some 7
  | .mx, 4 => some 7
  | .mx, 3 => some 7
  | .cp, 1 => some 6
  | .cp, 2 => some 6
  | .cp, 5 => some 6
  | .cp, 8 => some 6
  | .cp, 3 => some 3
  | .cp, 7 => some 3
  | .cp, 4 => some 1
  | .cp, 6 => some 1
  | .en, 1 => some 8
  | .en, 2 => some 8
  | .en, 3 => some 8
  | .en, 4 => some 8
  | .en, 5 => some 8
  | .en, 6 => some 8
  | .ev, 1 => some 9
  | .ev, 2 => some 9
  | .ev, 3 => some 9
  | .ev, 4 => some 9
  | .ev, 5 => some 9
  | .ev, 6 => some 9
  | .ev, 7 => some 9
  | .ev, 8 => some 9
  | .ev, 9 => some 9
  | .ev, 10 => some 9
  | .ev, 11 => some 9
  | .xg, 1 => some 1
  | .xg, 2 => some 1
  | .xg, 3 => some 1
  | .sy, 1 => some 5
  | .sy, 2 => some 5
  | .sy, 3 => some 5
  | .sy, 4 => some 5
  | .sy, 5 => some 5
  | .sy, 6 => some 5
  | .sy, 7 => some 5
  | .sy, 8 => some 5
  | .sy, 9 => some 5
  | .sy, 10 => some 5
  | .sy, 11 => some 5
  | .vm, 1 => some 3
  | .vm, 2 => some 3
  | .vm, 3 => some 3
  | .vm, 4 => some 3
  | .vm, 5 => some 3
  | .vm, 6 => some 1
  | .va, 1 => some 1
  | .va, 2 => some 1
  | .va, 3 => some 1
  | .va, 4 => some 1
  | .va, 5 => some 1
  | .va, 6 => some 1
  | .va, 7 => some 1
  | .va, 8 => some 1
  | .va, 9 => some 1
  | .va, 10 => some 1
  | .va, 11 => some 1
  | .va, 12 => some 1
  | .va, 13 => some 1
  | .va, 14 => some 1
  | .va, 15 => some 1
  | .va, 16 => some 1
  | .va, 17 => some 1
  | .va, 18 => some 1
  | .va, 19 => some 1
  | .va, 20 => some 2
  | .va, 21 => some 1
  | .va, 23 => some 1
  | .va, 22 => some 1
  | .va, 24 => some 1
  | .va, 25 => some 1
  | .va, 26 => some 1
  | .va, 27 => some 1
  | .va, 28 => some 1
  | .va, 29 => some 1
  | .va, 30 => some 1
  | .va, 31 => some 1
  | .va, 32 => some 1
  | .va, 33 => some 1
  | .va, 34 => some 1
  | .va, 35 => some 1
  | .va, 36 => some 1
  | .va, 37 => some 1
  | .va, 38 => some 1
  | .va, 39 => some 1
  | .va, 40 => some 1
  | .va, 41 => some 1
  | .va, 42 => some 1
  | .va, 43 => some 1
  | .va, 44 => some 1
  | .va, 45 => some 1
  | .va, 46 => some 1
  | .va, 47 => some 1
  | .va, 48 => some 1
  | _, _ => none

/-! ### The checks of R76 on a decoded operation -/

/-- The operand kinds of R64: S, S other than S0, F, Q, a V or P destination, a V or P source that may be held, a field
that must be zero. -/
inductive RK where
  | s | sNZ | f | q | v | vSrc | p | pSrc | no
  deriving DecidableEq, Repr

/-- What R76 asks of an operation: its register fields with their kinds, whether it takes a lane predicate, whether another
field that it does not use is nonzero or a rule of its entry gives cause 0x07, whether its types are listed, whether its
fields lie within their limits. -/
structure Chk where
  regs : List (Reg × RK) := []
  pr : Pr := Pr.none
  prUse : Bool := false
  bad7 : Bool := false
  tyOk : Bool := true
  limOk : Bool := true

/-- Cause 0x07 of one register field (R64). -/
def reg7 (x : Reg × RK) : Bool :=
  let (r, k) := x
  match k with
  | .s => r.hold || r.n > 63
  | .sNZ => r.hold || r.n > 63 || r.n == 0
  | .f => r.hold || r.n > 7
  | .q => r.hold || r.n > 15
  | .v => r.hold || r.n ≥ 640
  | .vSrc => r.n ≥ 640 && !r.isLatch
  | .p => r.hold || r.n ≥ 64
  | .pSrc => r.n ≥ 64 && !r.isLatch
  | .no => r != Reg.zero

/-- The lane group of a V or P register field; none where it names no such register. -/
def regGroup (x : Reg × RK) : Option Nat :=
  let (r, k) := x
  match k with
  | .v | .vSrc => if r.n < 640 then some (r.n / 80) else none
  | .p | .pSrc => if r.n < 64 then some (r.n / 8) else none
  | _ => none

/-- The lane groups that an operation's V and P fields, and its predicate, name. -/
def Chk.groups (c : Chk) : List Nat :=
  c.regs.filterMap regGroup ++ (if c.prUse && c.pr.en then [c.pr.reg.toNat / 8] else [])

def intTys : List Ty := [.i8, .n8, .i16, .n16, .i32, .n32, .i64, .n64]
def sTys : List Ty := [.b, .i64, .n64, .i32, .n32]
def wTys : List Ty := [.i64, .n64, .i32, .n32]
def flTys : List Ty := [.f32, .h16, .bf16]
def cvtTys : List Ty := [.f32, .h16, .bf16, .i8, .n8, .i16, .n16, .i32, .n32, .i64, .n64]

/-- The checks of a format-RRR operation: kinds of DST, SRCA, SRCB, SRCC, listed TYPEs and TYPE2s, use of RM and of the
predicate, use of SUB and whether its value lies within its limits. -/
def rrrChk (f : FRRR) (kd ka kb kc : RK) (tys ty2s : List Ty) (rm pr : Bool) (sub : Option Bool) : Chk :=
  { regs := [(f.dst, kd), (f.srcA, ka), (f.srcB, kb), (f.srcC, kc)], pr := f.pr, prUse := pr
    bad7 := (!rm && f.rm != 0) || (sub.isNone && f.sub != 0) || (ty2s.isEmpty && f.ty2 != .b) || (tys.isEmpty && f.ty != .b)
    tyOk := (tys.isEmpty || tys.contains f.ty) && (ty2s.isEmpty || ty2s.contains f.ty2)
    limOk := sub.getD true }

/-- A scalar operation of R302 and R331. -/
def scChk (f : FRRR) (kd ka kb kc : RK) (tys : List Ty) (sub : Option Bool := none) : Chk :=
  rrrChk f kd ka kb kc tys [] false false sub

/-- A vector operation of R352. -/
def vecChk (f : FRRR) (kd ka kb kc : RK) (tys : List Ty) (rm : Bool := false) (sub : Option Bool := none) : Chk :=
  rrrChk f kd ka kb kc tys [] rm true sub

/-- A format-RIMM operation. -/
def immChk (f : FRIMM) (kd ka : RK) (tys : List Ty) (pr : Bool) (lim : Bool) : Chk :=
  { regs := [(f.dst, kd), (f.srcA, ka)], pr := f.pr, prUse := pr, tyOk := tys.contains f.ty, limOk := lim }

/-- A format-MEM operation; `sub` says whether SUB is used and within its limits, `scope` the same of SCOPE. -/
def memChk (f : FMEM) (kd kx : RK) (tys : List Ty) (pr : Bool) (sub scope : Option Bool) : Chk :=
  { regs := [(f.data, kd), (f.base, .s), (f.aux, kx)], pr := f.pr, prUse := pr
    bad7 := (sub.isNone && f.sub != 0) || (scope.isNone && f.scope != 0) || (tys.isEmpty && f.ty != .b)
    tyOk := tys.isEmpty || tys.contains f.ty
    limOk := sub.getD true && scope.getD true }

/-- A format-BRANCH operation: whether it uses TARGET, the flag fields, CNT and CODE. -/
def brChk (f : FBR) (target flag cnt code : Bool) : Chk :=
  { regs := [(f.cnt, if cnt then .sNZ else .no)]
    bad7 := (!target && f.target != 0) || (!flag && (f.any || f.finv || f.freg != 0)) || (!code && f.code != 0) }

/-- A format-SYNC operation: the kinds of SREGA and SREGB, and which of SEM, COUNT, SCOPE, KIND, BID and IMM it uses. -/
def syncChk (f : FSYNC) (ka kb : RK) (sem count scope kind bid imm : Bool) (lim : Bool) (bad : Bool := false) : Chk :=
  { regs := [(f.sregA, ka), (f.sregB, kb)]
    bad7 := bad || (!sem && f.sem != 0) || (!count && f.count != 0) || (!scope && f.scope != 0) || (!kind && f.kind != 0) ||
      (!bid && f.bid != 0) || (!imm && f.imm != 0)
    limOk := lim }

/-- R313, R344: a copy command; `dst` says whether it uses its destination fields and `shape` its shape fields. -/
def copyChk (f : FCOPY) (dst shape : Bool) (lim : Bool) (bad : Bool := false) : Chk :=
  { regs := [(f.sbase, .s), (f.dbase, if dst then .s else .no)]
    bad7 := bad || (!dst && (f.doff != 0 || f.dstep != 0 || f.dside)) || (!f.shen && f.shape != 0) || (!shape && f.shen)
    limOk := lim && (if f.shen then f.len == 0 else f.len != 0) }

/-- R332: a matrix operation: use of operand A, operand B, the latch and the accumulator. -/
def mxChk (f : FMX) (a b latch acc : Bool) (tys : List Ty) (both k : Bool) : Chk :=
  { regs := [(f.abase, if a then .s else .no), (f.bbase, if b then .s else .no)]
    bad7 := (!a && (f.aoff != 0 || f.astride != 0 || f.dstride != 0 || f.dts)) || (!b && (f.boff != 0 || f.bstride != 0)) ||
      (!latch && f.latch != 0) || (!acc && f.acc != 0) || (!k && f.k != 0) || (tys.isEmpty && f.atype != .b) ||
      (!both && f.btype != .b)
    tyOk := (tys.isEmpty || tys.contains f.atype) && (!both || f.btype == f.atype)
    limOk := !k || (1 ≤ f.k.toNat && f.k.toNat ≤ 8192) }

/-- The i-th route choice of an ENGINE word (R73). -/
def FEN.choice (f : FEN) (i : Nat) : Nat := bits f.choices.toNat (3 * i) 3

/-- R73, R155, R310: the limits of NCH and of the route choices; `dc` refuses QX choices. -/
def routeOk (f : FEN) (dc : Bool) : Bool :=
  f.nch.toNat ≤ 5 && (List.range 5).all fun i =>
    if i < f.nch.toNat then f.choice i ≤ 5 && (!dc || 2 ≤ f.choice i) else f.choice i == 0

/-- R155: an ENGINE operation: use of the destination, of the source, of DSTRIDE and DTS, of LEN, of the route list, of FBUSY,
of OUT, of CYCLE, of TYPE and of OP. -/
def enChk (f : FEN) (dst src die len route fb out cyc ty : Bool) (tyOk lim : Bool) : Chk :=
  { regs := [(f.dbase, if dst then .s else .no), (f.sbase, if src then .s else .no), (f.out, if out then .sNZ else .no)]
    bad7 := (!dst && f.doff != 0) || (!src && f.soff != 0) || (!die && (f.dstride != 0 || f.dts)) || (!len && f.len != 0) ||
      (!route && (f.nch != 0 || f.choices != 0)) || (!fb && f.fbusy != 0) || (!cyc && f.cycle != 0) || (!ty && f.ty != .b)
    tyOk := tyOk, limOk := lim }

/-- R175: an envelope operation: use of Ed, Ea, Eb, the kinds of VOPA, VOPB, VOPC and SREG, use of OFFSET and of the predicate. -/
def evChk (f : FEV) (ed ea eb : Bool) (ka kb kc ks : RK) (off pr : Bool) (bad : Bool := false) : Chk :=
  { regs := [(f.vopA, ka), (f.vopB, kb), (f.vopC, kc), (f.sreg, ks)], pr := f.pr, prUse := pr
    bad7 := bad || (!ed && f.edst != 0) || (!ea && f.esrcA != 0) || (!eb && f.esrcB != 0) || (!off && f.offset != 0) }

/-- R310: the types of a collective. -/
def collTyOk (f : FEN) : Bool :=
  if f.op == 0 || f.op == 4 then f.ty == .b
  else if f.op.toNat ≤ 3 then [Ty.f32, .bf16, .h16, .i32, .n32, .i64, .n64].contains f.ty
  else true

/-- R123: the limits of TLBI. A field that its form does not use is refused with cause 0x09, as R123 states, not with the 0x07 of R76's table, which is lower
(DEDUCED, log 105). -/
def tlbiOk (f : FSYNC) : Bool :=
  f.kind.toNat ≤ 2 && (f.scope == 0 || f.scope == 2 || f.scope == 3) && (if f.kind == 1 then f.imm.toNat < 4096 else f.imm == 0) &&
    (f.kind == 2 || f.sregA == Reg.zero) && f.sregB == Reg.zero && f.sem == 0 && f.count == 0 && f.bid == 0

/-- The checks of each operation, from its reference entry (R297 to R376). -/
def chkOf : Instr → Chk
  | .add _ f | .sub _ f | .mul _ f | .and _ f | .andn _ f | .or _ f | .xor _ f | .shl _ f | .shr _ f | .sra _ f =>
    scChk f .s .s .s .no sTys
  | .mulh _ f | .div _ f | .rem _ f | .min _ f | .max _ f => scChk f .s .s .s .no wTys
  | .rol _ f => scChk f .s .s .s .no [.b, .n64]
  | .clz _ f | .popc _ f => scChk f .s .s .no .no sTys
  | .cmp _ f => scChk f .f .s .s .no wTys (some (f.sub.toNat ≤ 5))
  | .sel _ f => scChk f .s .s .s .f [.b]
  | .mov _ f => scChk f .s .s .no .no [.b]
  | .addi _ f => immChk f .s .s sTys false true
  | .movi _ f => immChk f .s .no [.b] false true
  | .movhi _ f => immChk f .s .s [.b] false (f.imm.toNat < 2 ^ 32)
  | .csrr _ f => immChk f .s .no [.b] false (f.imm.toNat ≤ 0xFFF)
  | .csrw _ f => immChk f .no .s [.b] false (f.imm.toNat ≤ 0xFFF)
  | .ld _ f => memChk f .s .no [.i8, .n8, .i16, .n16, .i32, .n32, .i64, .n64, .b] false none none
  | .st _ f => memChk f .s .no [.i8, .n8, .i16, .n16, .i32, .n32, .i64, .n64, .b] false none none
  | .amo _ f => memChk f .sNZ .s [.i32, .n32, .i64, .n64] false (some (f.sub.toNat % 64 ≤ 6)) (some (f.scope.toNat ≤ 5))
  | .acas _ f =>
    let c := memChk f .sNZ .s [.i32, .n32, .i64, .n64] false (some true) (some (f.scope.toNat ≤ 5))
    { c with bad7 := c.bad7 || f.sub.toNat % 64 != 0 }
  | .bra _ f | .call _ f => brChk f true false false false
  | .brc _ f => brChk f true true false false
  | .loop _ f => brChk f true false true false
  | .trap _ f => brChk f false false false true
  | .reel _ f => brChk f true false false true
  | .ret _ | .tret _ | .halt _ => {}
  | .mlatch _ f => mxChk f false true true false [.bk4, .bk8, .i8, .n8, .bf16, .h16, .f32] true true
  | .mmul _ f => mxChk f true false true true [.bk4, .bk8, .i8, .n8, .bf16, .h16, .f32] true true
  | .mtile _ f => mxChk f true true true true [.bk4, .bk8, .i8, .n8, .bf16, .h16, .f32] true true
  | .mzero _ f => mxChk f false false false true [] false false
  | .mret _ f => mxChk f true false false true [.f32, .bf16, .h16, .i32, .bk8, .bk4] false false
  | .cpy _ f => copyChk f true true (!f.gath)
  | .cpyg _ f => copyChk f true true f.gath
  | .cpchk _ f => copyChk f false true (f.tchk && !f.twr && !f.scl && !f.trn && !f.gath && !f.cnv)
  | .spxgo _ f => copyChk f false false true (f.gath || f.tchk || f.twr || f.scl || f.trn || f.cnv)
  | .shape _ f => memChk f .no .no [] false (some (f.sub.toNat < 16)) none
  | .spxcfg _ f => memChk f .no .no [] false none none
  | .sbind _ f =>
    let c := rrrChk f .q .no .no .no [] [] false false (some (f.sub.toNat < 8))
    { c with bad7 := c.bad7 || (f.sub.toNat / 4 % 2 == 0 && f.dst != Reg.zero) }
  | .cpdrain _ f => rrrChk f .s .no .no .no [] [] false false (some (f.sub.toNat < 16))
  | .seize _ f => enChk f true true true true true true true false false true
      (f.op.toNat ≤ 1 && f.len != 0 && routeOk f false)
  | .seizeHold _ f => enChk f false false false true true true true false false true (f.len == 0 && routeOk f false)
  | .sxfer _ f => enChk f true true true true false true true false false true (f.op == 0 && f.len != 0)
  | .clear _ f => enChk f false false false false false false true false false true (f.op == 0)
  | .coll _ f => enChk f true true true true true true true false true (collTyOk f)
      (f.op.toNat ≤ 4 && f.len != 0 && routeOk f true && (f.ty == .b || f.len.toNat % (f.ty.width / 8) == 0))
  | .bdrv _ f => enChk f false true false true false true false true false true
      (f.op == 0 && 1 ≤ f.len.toNat && f.len.toNat ≤ 128)
  | .blat _ f => enChk f true false false true false true false true false true
      (f.op == 0 && 1 ≤ f.len.toNat && f.len.toNat ≤ 128)
  | .eline _ f => evChk f true false false .vSrc .vSrc .vSrc .no false true
  | .emax _ f | .esum _ f | .einfc _ f => evChk f true true true .no .no .no .no false false
  | .econj _ f => evChk f true true false .no .no .no .no false false
  | .eeval _ f => evChk f false true false .v .v .vSrc .no false true (f.vopA == f.vopB)
  | .ebrk _ f => evChk f false true false .v .v .no .s false false (f.vopA == f.vopB)
  | .eclr _ f => evChk f true false false .no .no .no .s false false
  | .etol _ f => evChk f false false false .no .no .no .s false false
  | .esave _ f => evChk f false true false .no .no .no .s true false
  | .eload _ f => evChk f true false false .no .no .no .s true false
  | .xmov _ f => vecChk f .v .vSrc .no .no [.b] false (some (f.sub == 0))
  | .xbc _ f => vecChk f .v .vSrc .no .no [.b] false (some (f.sub.toNat ≤ 15))
  | .xred _ f => vecChk f .v .v .no .no [.f32, .i32, .n32] false (some (f.sub.toNat ≤ 2))
  | .sig _ f => syncChk f .no .no true true false true false false (f.sem != 0 && f.kind.toNat ≤ 2)
  | .wsem _ f => syncChk f .no .no true true false false false false (f.sem != 0 || f.count == 0)
  | .bar _ f => syncChk f .no .no false false true false true false (f.scope.toNat ≤ 4)
  | .fence _ f => syncChk f .no .no false false true true false false (f.kind.toNat ≤ 3 && f.scope.toNat ≤ 5)
  | .etrig _ f => syncChk f .no .no false false false false false false true
  | .grab _ f => syncChk f .sNZ .sNZ false false false false false true (f.imm.toNat ≤ 63) (f.sregA.n == f.sregB.n)
  | .tlbi _ f => syncChk f .s .s true true true true true true (tlbiOk f)
  | .cwld _ f => syncChk f .s .no false true false false false true
      (f.imm.toNat < 512 && 1 ≤ f.count.toNat && f.count.toNat ≤ 511 && f.imm.toNat + f.count.toNat ≤ 512)
  | .tlook _ f => syncChk f .s .sNZ false false false true false false (f.kind == 0)
  | .tset _ f => syncChk f .s .s false false false true false false (f.kind == 0)
  | .tdrop _ f => syncChk f .s .no false false false true false false (f.kind.toNat ≤ 1)
  | .tdropAll _ f => syncChk f .no .no false false false true false false true
  | .vld _ f =>
    memChk f .v .no [.b, .f32, .h16, .bf16, .i8, .i16, .i32, .n8, .n16, .n32, .i64, .n64] true none none
  | .vst _ f =>
    memChk f .vSrc .no [.b, .f32, .h16, .bf16, .i8, .i16, .i32, .n8, .n16, .n32, .i64, .n64] true none none
  | .vlds _ f => memChk f .v .s [.b, .i32, .n32, .f32] true none none
  | .vgath _ f => memChk f .v .vSrc [.b, .i32, .n32, .f32] true none none
  | .vscat _ f => memChk f .vSrc .vSrc [.b, .i32, .n32, .f32] true none none
  | .vrdq _ f => vecChk f .v .q .no .no [.b]
  | .vadd _ f | .vsub _ f | .vmul _ f | .vmulh _ f | .vshl _ f | .vshr _ f | .vsra _ f | .vmin _ f | .vmax _ f =>
    vecChk f .v .vSrc .vSrc .no intTys
  | .vmad _ f => vecChk f .v .vSrc .vSrc .vSrc intTys
  | .vand _ f | .vor _ f | .vxor _ f => vecChk f .v .vSrc .vSrc .no [.b]
  | .vabs _ f | .vneg _ f => vecChk f .v .vSrc .no .no [.i8, .i16, .i32, .i64]
  | .vclz _ f => vecChk f .v .vSrc .no .no intTys
  | .vcmp _ f => vecChk f .p .vSrc .vSrc .no wTys false (some (f.sub.toNat ≤ 5))
  | .vsel _ f => vecChk f .v .vSrc .vSrc .pSrc [.b, .n64]
  | .vmov _ f => vecChk f .v .vSrc .no .no [.b]
  | .vmovi _ f => immChk f .v .no [.i8, .n8, .i16, .n16, .i32, .n32, .i64, .n64, .b, .f32, .h16, .bf16] true true
  | .vperm _ f => vecChk f .v .vSrc (if f.sub == 0 then .vSrc else .no) .no [.b] false
      (some (f.sub == 0 || (0x10 ≤ f.sub.toNat && f.sub.toNat ≤ 0x1F)))
  | .vcas _ f => vecChk f .v .vSrc .no .no [.i32, .n32] false (some (f.sub.toNat < 64 && f.sub.toNat / 8 ≤ 4))
  | .vred _ f => vecChk f .v .vSrc .no .no [.f32, .i32, .n32] false (some (f.sub.toNat ≤ 2))
  | .vfadd _ f | .vfsub _ f | .vfmul _ f => vecChk f .v .vSrc .vSrc .no flTys true
  | .vfma _ f => vecChk f .v .vSrc .vSrc .vSrc flTys true
  | .vfmin _ f | .vfmax _ f => vecChk f .v .vSrc .vSrc .no flTys
  | .vfcmp _ f => vecChk f .p .vSrc .vSrc .no [.f32] false (some (f.sub.toNat ≤ 6))
  | .vfabs _ f | .vfclass _ f => vecChk f .v .vSrc .no .no flTys
  | .vexp2 _ f | .vlog2 _ f | .vrcp _ f | .vrsq _ f | .vsqrt _ f => vecChk f .v .vSrc .no .no [.f32] true
  | .vcvt _ f => rrrChk f .v .vSrc .no .no cvtTys cvtTys true true
      (some (f.sub.toNat < 8 &&
        f.sub.toNat < Nat.max f.ty.width f.ty2.width / Nat.min f.ty.width f.ty2.width))
  | .vquant _ f => rrrChk f .v .vSrc (if f.ty2 == .f32 then .vSrc else .no) (if f.sub.toNat / 64 % 2 == 1 then .vSrc else .no)
      [.bk8, .bk4] flTys false true
      (some (f.sub.toNat < 128 && (f.sub.toNat / 32 % 2 == 1 || f.sub.toNat % 32 ≤ (if f.ty == .bk8 then 1 else 3))))
  | .vdeq _ f => rrrChk f .v .vSrc .vSrc .no [.f32] [.bk8, .bk4] false true
      (some (f.sub.toNat < 16 && (f.ty2 == .bk4 || f.sub.toNat % 8 ≤ 3)))
  | .pand _ f | .por _ f | .pxor _ f => vecChk f .p .pSrc .pSrc .no [.b] false (some (f.sub == 0))
  | .pnot _ f => vecChk f .p .pSrc .no .no [.b] false (some (f.sub == 0))
  | .pmov _ f => vecChk f .p .pSrc .no .no [.b] false (some (f.sub == 0))
  | .pmovV _ f => vecChk f .p .vSrc .no .no [.b] false (some true)
  | .pcnt _ f => rrrChk f .v .pSrc .no .no [.b] [] false false (some (f.sub == 0))
  | .pfirst _ f => rrrChk f .p .pSrc .no .no [.b] [] false false (some (f.sub == 0))
  | .pany _ f => rrrChk f .f .pSrc .no .no [.b] [] false false (some (f.sub.toNat ≤ 1))
  | _ => {}

/-- Whether an operation takes the lane predicate of R67 only where its V fields lie in one lane group: the XG and EV classes
(R175, R375), which have no GROUP. -/
def xGroups7 (c : Cls) (k : Chk) : Bool :=
  match c with
  | .ev => match k.groups with
    | [] => false
    | g :: gs => gs.any (· != g)
  | .xg => k.prUse && k.pr.en && (k.regs.head?.bind regGroup).any (· != k.pr.reg.toNat / 8)
  | _ => false

/-- R62, R61, R313: the semaphore-0 rules and the rules of SBYTES. -/
def hdrLimOk (h : Hdr) (sbytesOp : Bool) : Bool :=
  (h.waitSem != 0 || h.waitTh == 0) && (h.sigSem != 0 || (h.sigInc == 0 && !h.sbytes)) &&
    (!h.sbytes || (sbytesOp && h.sigInc == 0))

/-- R61, R313: the operations on which SBYTES is legal. -/
def sbytesOp : Instr → Bool
  | .cpy _ _ => true | .cpyg _ _ => true | .spxgo _ _ => true | _ => false

/-- R76: the lowest cause among those of an operation with its class and header, leaving out what only the bits of its word
show (0x01 to 0x05) and the destination entry (0x0A). -/
def causeOf (c : Cls) (h : Hdr) (i : Instr) : Option Nat :=
  let k := chkOf i
  let vec := c == .va || c == .vm
  if (!vec && h.group != 0) || (vec && k.groups.any (· != h.group.toNat)) then some 6
  else if k.bad7 || k.regs.any reg7 || (!k.prUse && k.pr != Pr.none) || xGroups7 c k then some 7
  else if !k.tyOk then some 8
  else if !k.limOk || !hdrLimOk h (sbytesOp i) then some 9
  else none

/-- The class and header of an operation. -/
def Instr.head (i : Instr) : Option (Cls × Hdr) := (toRaw i).map fun (c, _, h, _) => (c, h)

/-- Whether an operation's control word passes every check of R76 but that of its destination entry. -/
def Instr.legal (i : Instr) : Bool :=
  match i.head with
  | some (c, h) => causeOf c h i == none
  | none => false

/-! ### The decoder and the encoder -/

/-- R76: decodes a control word, or answers the lowest cause for which CWLD refuses it; total on any bits. -/
def decode (w : BitVec 256) : Except Nat Instr :=
  let n := w.toNat
  let fmt := bits n 12 4
  let hl := unpackFields layHdr (n / 2 ^ 16)
  let fl := unpackFields (layOf fmt) (n / 2 ^ 80)
  let op := bits n 4 8
  if hl.getD 1 0 != 0 || resvSet fmt fl then .error 1
  else match Cls.ofCode (bits n 0 4) with
    | none => .error 2
    | some c =>
      if fmt > 9 then .error 3
      else match fmtOf c op with
        | none => .error 5
        | some f =>
          if f != fmt then .error 4
          else
            let h := Hdr.ofList hl
            match mk c op h (Fields.ofList fmt fl) with
            | none => .error 5
            | some i => match causeOf c h i with
              | some k => .error k
              | none => .ok i

/-- The control word of a class, an opcode, a header and the fields of a format (R59, R66 to R74). -/
def encodeRaw (c : Cls) (op : Nat) (h : Hdr) (fs : Fields) : Nat :=
  packFields [4, 8, 4] [c.code, op, fs.fmt] + 2 ^ 16 * (packFields layHdr h.toList + 2 ^ 64 * packFields (layOf fs.fmt) fs.toList)

/-- The control word of an operation; the no-operation's word for what has none. -/
def encode (i : Instr) : BitVec 256 :=
  match toRaw i with
  | some (c, op, h, fs) => BitVec.ofNat 256 (encodeRaw c op h fs)
  | none => BitVec.ofNat 256 (encodeRaw .sc 0 Hdr.plain .none)

/-! ### Slot words (R50) and the adjustment (R57) -/

/-- R50: INDEX. -/
def slotIndex (w : Half) : Nat := w.toNat % 512
/-- R50: ADJ, a signed seven-bit number. -/
def slotAdj (w : Half) : Int := asSigned 7 (w.toNat / 512)
/-- R50: the slot word of an entry and an adjustment. -/
def slotWord (index : Nat) (adj : Int) : Half := BitVec.ofNat 16 (index % 512 + 512 * ofSigned 7 adj)

/-- R57: an unsigned field of `w` bits plus an adjustment; none out of the field's limits. -/
def adjU {w : Nat} (x : BitVec w) (a : Int) : Option (BitVec w) :=
  let y := (x.toNat : Int) + a
  if 0 ≤ y ∧ y < (2 ^ w : Nat) then some (BitVec.ofInt w y) else none
/-- R57: a signed field of `w` bits plus an adjustment; none out of the field's limits. -/
def adjS {w : Nat} (x : BitVec w) (a : Int) : Option (BitVec w) :=
  let y := x.toInt + a
  if -(2 ^ (w - 1) : Nat) ≤ y ∧ y < (2 ^ (w - 1) : Nat) then some (BitVec.ofInt w y) else none

/-- R57, R66: the fields with the adjustment added to the format's adjustable field; none where the format has none or the sum
leaves the field's limits. IMM wraps. -/
def Fields.adj (a : Int) : Fields → Option Fields
  | .none => none
  | .rrr f => (adjU f.sub a).map fun x => .rrr { f with sub := x }
  | .rimm f => some (.rimm { f with imm := f.imm + BitVec.ofInt 64 a })
  | .mem f => (adjS f.offset a).map fun x => .mem { f with offset := x }
  | .br f => (adjS f.target a).map fun x => .br { f with target := x }
  | .sync f => (adjU f.count a).map fun x => .sync { f with count := x }
  | .copy f => (adjS f.doff a).map fun x => .copy { f with doff := x }
  | .mx f => (adjS f.aoff a).map fun x => .mx { f with aoff := x }
  | .en f => (adjS f.doff a).map fun x => .en { f with doff := x }
  | .ev f => (adjS f.offset a).map fun x => .ev { f with offset := x }

/-- R57: whether an adjusted operation's fields stay within their limits; a wrapped IMM has none but for the CSR numbers (R317). A sum within the list of
its own field that makes another field illegal is an illegal operation too (DESIGN CHOICE, log 106: R57 names the adjusted field's limits only). -/
def adjLegal (i : Instr) : Bool :=
  match i with
  | .csrr _ f => f.imm.toNat ≤ 0xFFF
  | .csrw _ f => f.imm.toNat ≤ 0xFFF
  | .addi _ _ => true | .movi _ _ => true | .movhi _ _ => true | .vmovi _ _ => true
  | i => i.legal

/-- R57: the slot copy of an entry's operation and an adjustment; none where an illegal-operation trap is raised. -/
def adjust (i : Instr) (a : Int) : Option Instr :=
  if a = 0 then some i
  else match toRaw i with
    | none => none
    | some (c, op, h, fs) => match fs.adj a with
      | none => none
      | some fs' => match mk c op h fs' with
        | none => none
        | some i' => if adjLegal i' then some i' else none

/-! ### Bundle headers (R48, R49) -/

/-- R48: a fetched bundle: its size in bytes, the repeat count minus one, the change mask, its marks, RUN of a yield word, and
its slot words by ascending position. -/
structure Bundle where
  size : Nat
  repM1 : Nat
  change : Word
  slate : Bool
  reelMark : Bool
  yieldRun : Option Word
  splice : Bool
  slots : List (Nat × Half)
  deriving DecidableEq, Repr

/-- The positions of the set bits of a 32-bit mask, ascending. -/
def maskBits (m : Nat) : List Nat := (List.range 32).filter fun p => m / 2 ^ p % 2 == 1

/-- R48: the size in bytes of a bundle with the header `h`. -/
def bundleSize (h : DWord) : Nat :=
  8 * (1 + bits h.toNat 49 1 + ceilDiv (maskBits (bits h.toNat 0 32)).length 4)

/-- R48, R77: the bundle of its doublewords (the header first); none where the bundle is illegal at fetch, the end of the reel
left to the fetch. -/
def parseBundle (ds : List DWord) : Option Bundle :=
  match ds with
  | [] => none
  | h :: rest =>
    let n := h.toNat
    let ps := maskBits (bits n 0 32)
    let y := bits n 49 1 == 1
    let yw := if y then rest.head? else some 0
    let body := if y then rest.drop 1 else rest
    let nd := ceilDiv ps.length 4
    let big := packFields (List.replicate nd 64) (body.map BitVec.toNat)
    let ws := unpackFields (List.replicate ps.length 16) big
    let slots := ps.zip (ws.map (BitVec.ofNat 16))
    match yw with
    | none => none
    | some yw =>
      if bits n 52 12 != 0 || body.length < nd then none
      else if y && (yw.toNat == 0 || yw.toNat ≥ 2 ^ 32) then none
      else if big ≥ 2 ^ (16 * ps.length) then none
      else if slots.any fun (_, w) => slotIndex w == 0 && slotAdj w != 0 then none
      else some
        { size := bundleSize h, repM1 := bits n 32 16, change := BitVec.ofNat 32 n, slate := bits n 51 1 == 1
          reelMark := bits n 50 1 == 1, yieldRun := if y then some (BitVec.ofNat 32 yw.toNat) else none
          splice := bits n 48 1 == 1, slots := slots }

/-! ### The host's question -/

/-- The instruction that the decoder reads from an instruction of the opcode table whose bits are `w`: a row of 16 bits is a slot
word (R50), which is the hardwired no-operation where it is zero; a longer row is a control word (R59). -/
def decodeTableWord (nbits w : Nat) : Option Instr :=
  if nbits ≤ 16 then
    (if slotIndex (BitVec.ofNat 16 w) = 0 ∧ slotAdj (BitVec.ofNat 16 w) = 0 then some (.nop Hdr.plain 0#4) else none)
  else match decode (BitVec.ofNat 256 w) with
    | .ok i => some i
    | .error _ => none

end Sys2Proof
end

