-- ==== Sys2Proof/Machine/Numeric.lean ====
section
/-! DEFINITION. Number formats and exact arithmetic (R29 to R42): floating-point values, one rounding, conversions, integer
operations, the special functions. Bit patterns are numbers (Nat) below 2^w. -/

namespace Sys2Proof

/-! ### Flags (R43) -/

def flNX : Nat := 1
def flUF : Nat := 2
def flOF : Nat := 4
def flDZ : Nat := 8
def flNV : Nat := 16
def flSAT : Nat := 32

/-- The union of two sets of flags. -/
def orFl (a b : Nat) : Nat := a ||| b

/-! ### Formats (R29) -/

/-- A floating-point format: bits of the exponent and of the fraction. -/
structure FFmt where
  eb : Nat
  fb : Nat
  deriving DecidableEq, Repr

def fmtF32 : FFmt := ⟨8, 23⟩
def fmtH16 : FFmt := ⟨5, 10⟩
def fmtBF16 : FFmt := ⟨8, 7⟩

/-- The format of a type; FP32 for what is no element format. -/
def Ty.ffmt : Ty → FFmt
  | .h16 => fmtH16
  | .bf16 => fmtBF16
  | _ => fmtF32

def FFmt.width (f : FFmt) : Nat := 1 + f.eb + f.fb
def FFmt.bias (f : FFmt) : Nat := 2 ^ (f.eb - 1) - 1
/-- R29: the canonical NaN. -/
def FFmt.nan (f : FFmt) : Nat := (2 ^ f.eb - 1) * 2 ^ f.fb + 2 ^ (f.fb - 1)
def FFmt.inf (f : FFmt) (neg : Bool) : Nat := (if neg then 2 ^ (f.eb + f.fb) else 0) + (2 ^ f.eb - 1) * 2 ^ f.fb
def FFmt.maxFin (f : FFmt) (neg : Bool) : Nat := f.inf neg - 1
def FFmt.zero (f : FFmt) (neg : Bool) : Nat := if neg then 2 ^ (f.eb + f.fb) else 0

/-- A floating-point datum: a NaN (signalling or quiet), an infinity, or the number (−1)^neg × m × 2^e. -/
inductive FP where
  | nan (signalling : Bool)
  | inf (neg : Bool)
  | fin (neg : Bool) (m : Nat) (e : Int)
  deriving DecidableEq, Repr

/-- The datum of a bit pattern. -/
def FFmt.dec (f : FFmt) (x : Nat) : FP :=
  let neg := bits x (f.eb + f.fb) 1 == 1
  let ex := bits x f.fb f.eb
  let fr := bits x 0 f.fb
  if ex = 2 ^ f.eb - 1 then
    (if fr = 0 then .inf neg else .nan (fr < 2 ^ (f.fb - 1)))
  else if ex = 0 then .fin neg fr (1 - (f.bias : Int) - f.fb)
  else .fin neg (2 ^ f.fb + fr) ((ex : Int) - f.bias - f.fb)

def FP.isNan : FP → Bool
  | .nan _ => true
  | _ => false
def FP.isSnan : FP → Bool
  | .nan s => s
  | _ => false
def FP.neg : FP → Bool
  | .nan _ => false
  | .inf n => n
  | .fin n _ _ => n
/-- The datum with the opposite sign. -/
def FP.flip : FP → FP
  | .nan s => .nan s
  | .inf n => .inf (!n)
  | .fin n m e => .fin (!n) m e
def FP.isZero : FP → Bool
  | .fin _ 0 _ => true
  | _ => false

/-- R37: the rounding modes. -/
inductive RM where
  | rne | rtz | rup | rdn
  deriving DecidableEq, Repr

def RM.ofCode : Nat → RM
  | 0 => .rne | 1 => .rtz | 2 => .rup | _ => .rdn

/-- The number of bits of `n`. -/
def bitLen (n : Nat) : Nat := if n = 0 then 0 else Nat.log2 n + 1

/-- `m` × 2^`e` rounded to a whole number of 2^`q`, and whether a part was lost. -/
def roundAt (rm : RM) (neg : Bool) (m : Nat) (e q : Int) : Nat × Bool :=
  if q ≤ e then (m * 2 ^ (e - q).toNat, false)
  else
    let k := (q - e).toNat
    let w := m / 2 ^ k
    let r := m % 2 ^ k
    let up := match rm with
      | .rne => r > 2 ^ (k - 1) || (r == 2 ^ (k - 1) && w % 2 == 1)
      | .rtz => false
      | .rup => !neg && r != 0
      | .rdn => neg && r != 0
    (if up then w + 1 else w, r != 0)

/-- R37: the bits and flags of the value (−1)^neg × (m + t) × 2^e rounded once, where t is a positive number below 1 when `sticky`
holds and 0 otherwise (a caller that sets `sticky` gives more bits of m than the format keeps). A zero value keeps `neg`. -/
def roundFl (f : FFmt) (rm : RM) (neg : Bool) (m : Nat) (e : Int) (sticky : Bool) : Nat × Nat :=
  if m = 0 && !sticky then (f.zero neg, 0)
  else
    let m2 := 4 * m + (if sticky then 1 else 0)
    let e2 := e - 2
    let p : Int := f.fb + 1
    let emin : Int := 1 - (f.bias : Int)
    let qmin := emin - f.fb
    let q0 := e2 + bitLen m2 - p
    let q := if q0 < qmin then qmin else q0
    let (w, lost) := roundAt rm neg m2 e2 q
    let (w, q) := if w = 2 ^ (f.fb + 1) then (2 ^ f.fb, q + 1) else (w, q)
    let s := f.zero neg
    if w ≥ 2 ^ f.fb && q > (f.bias : Int) - f.fb then
      let toInf := match rm with
        | .rne => true
        | .rtz => false
        | .rup => !neg
        | .rdn => neg
      ((if toInf then f.inf neg else f.maxFin neg), orFl flOF flNX)
    else
      let tiny := q0 < qmin && (roundAt rm neg m2 e2 q0).1 * 2 ^ (q0 - (qmin - f.fb - 4)).toNat < 2 ^ (emin - (qmin - f.fb - 4)).toNat
      let tiny := tiny || q0 < qmin - f.fb - 4
      let fl := if lost then (if tiny then orFl flNX flUF else flNX) else 0
      let v := if w < 2 ^ f.fb then w else ((q + f.fb + f.bias).toNat) * 2 ^ f.fb + (w - 2 ^ f.fb)
      (s + v, fl)

/-- The exact sum of finite terms as an integer times a power of two. -/
def sumExact (ts : List (Bool × Nat × Int)) : Int × Int :=
  let e := ts.foldl (fun a t => if t.2.2 < a then t.2.2 else a) 0
  (ts.foldl (fun a t =>
    let v := (t.2.1 : Int) * 2 ^ (t.2.2 - e).toNat
    if t.1 then a - v else a + v) 0, e)

/-- R37: the sign of an exact zero sum of terms with these signs. -/
def zeroSumNeg (rm : RM) (negs : List Bool) : Bool :=
  if negs.all id then true
  else if negs.all not then false
  else rm == .rdn

/-- The finite terms of a list; none where one is not finite. -/
def finTerms : List FP → List (Bool × Nat × Int)
  | [] => []
  | .fin n m e :: ts => (n, m, e) :: finTerms ts
  | _ :: ts => finTerms ts

/-- R37, R39: the sum of terms, rounded once; `nv` says that a term was already invalid. -/
def sumRound (f : FFmt) (rm : RM) (ts : List FP) (nv : Bool) : Nat × Nat :=
  let nv := nv || ts.any FP.isSnan
  let pinf := ts.any (· == .inf false)
  let ninf := ts.any (· == .inf true)
  if nv || ts.any FP.isNan || (pinf && ninf) then
    (f.nan, if nv || (pinf && ninf) then flNV else 0)
  else if pinf then (f.inf false, 0)
  else if ninf then (f.inf true, 0)
  else
    let (v, e) := sumExact (finTerms ts)
    if v = 0 then (f.zero (zeroSumNeg rm (ts.map FP.neg)), 0)
    else roundFl f rm (v < 0) v.natAbs e false

/-- The exact product of two data; the Boolean says an invalid ∞ × 0. -/
def mulExact (a b : FP) : FP × Bool :=
  match a, b with
  | .nan s, .nan t => (.nan (s || t), false)
  | .nan s, _ => (.nan s, false)
  | _, .nan t => (.nan t, false)
  | .inf x, .inf y => (.inf (x != y), false)
  | .inf x, .fin y m _ => if m = 0 then (.nan false, true) else (.inf (x != y), false)
  | .fin x m _, .inf y => if m = 0 then (.nan false, true) else (.inf (x != y), false)
  | .fin x m e, .fin y n g => (.fin (x != y) (m * n) (e + g), false)

/-- R359. -/
def fAdd (f : FFmt) (rm : RM) (a b : Nat) : Nat × Nat := sumRound f rm [f.dec a, f.dec b] false
def fSub (f : FFmt) (rm : RM) (a b : Nat) : Nat × Nat := sumRound f rm [f.dec a, (f.dec b).flip] false
/-- R359: a × b. -/
def fMul (f : FFmt) (rm : RM) (a b : Nat) : Nat × Nat :=
  match mulExact (f.dec a) (f.dec b) with
  | (p, inv) => match p with
    | .nan s => (f.nan, if s || inv then flNV else 0)
    | .inf n => (f.inf n, 0)
    | .fin n m e => roundFl f rm n m e false
/-- R359: a × b + c with one rounding; ∞ × 0 is invalid even where c is a quiet NaN. -/
def fFma (f : FFmt) (rm : RM) (a b c : Nat) : Nat × Nat :=
  match mulExact (f.dec a) (f.dec b) with
  | (p, inv) => sumRound f rm [p, f.dec c] inv

/-- The exact value of finite data compared: whether a < b; infinities by sign. −0 equals +0. -/
def fpLt (a b : FP) : Bool :=
  match a, b with
  | .nan _, _ => false
  | _, .nan _ => false
  | .inf x, .inf y => x && !y
  | .inf x, .fin _ _ _ => x
  | .fin _ _ _, .inf y => !y
  | .fin x m e, .fin y n g => (sumExact [(x, m, e), (!y, n, g)]).1 < 0

/-- Equality of values; −0 equals +0. -/
def fpEq (a b : FP) : Bool := !a.isNan && !b.isNan && !fpLt a b && !fpLt b a

/-- R37: VFMIN (`max` false) and VFMAX. −0 lies below +0. -/
def fMinMax (f : FFmt) (max : Bool) (a b : Nat) : Nat × Nat :=
  let x := f.dec a
  let y := f.dec b
  let fl := if x.isSnan || y.isSnan then flNV else 0
  let r :=
    if x.isNan && y.isNan then f.nan
    else if x.isNan then b
    else if y.isNan then a
    else
      let lt := fpLt x y || (fpEq x y && x.neg && !y.neg)
      if lt != max then a else if x == y then a else b
  (r, fl)

/-- R361: the class mask. -/
def fClass (f : FFmt) (a : Nat) : Nat :=
  match f.dec a with
  | .inf true => 1
  | .inf false => 128
  | .nan true => 256
  | .nan false => 512
  | .fin n m _ =>
    if m = 0 then (if n then 8 else 16)
    else if m < 2 ^ f.fb then (if n then 4 else 32)
    else (if n then 2 else 64)

/-- R360: a comparison by SUB code: result and flags. -/
def fCmp (f : FFmt) (sub a b : Nat) : Bool × Nat :=
  let x := f.dec a
  let y := f.dec b
  let un := x.isNan || y.isNan
  let snan := x.isSnan || y.isSnan
  match sub with
  | 0 => (fpEq x y, if snan then flNV else 0)
  | 1 => (!fpEq x y, if snan then flNV else 0)
  | 2 => (fpLt x y, if un then flNV else 0)
  | 3 => (fpLt x y || fpEq x y, if un then flNV else 0)
  | 4 => (fpLt y x, if un then flNV else 0)
  | 5 => (fpLt y x || fpEq x y, if un then flNV else 0)
  | _ => (un, if snan then flNV else 0)

/-! ### Integers -/

/-- R40: shifts within `w` bits by an amount of eight bits. -/
def shlW (w a n : Nat) : Nat := if n ≥ w then 0 else a * 2 ^ n % 2 ^ w
def shrW (w a n : Nat) : Nat := if n ≥ w then 0 else a % 2 ^ w / 2 ^ n
def sraW (w a n : Nat) : Nat := ofSigned w (asSigned w a / 2 ^ (if n ≥ w then w else n))
/-- R40: rotation left of 64 bits by the amount modulo 64. -/
def rol64 (a n : Nat) : Nat := let k := n % 64; a * 2 ^ k % 2 ^ 64 + a / 2 ^ (64 - k) % 2 ^ k

/-- R41. -/
def divW (signed : Bool) (w a b : Nat) : Nat :=
  if b % 2 ^ w = 0 then 2 ^ w - 1
  else if signed then ofSigned w ((asSigned w a).tdiv (asSigned w b))
  else a % 2 ^ w / (b % 2 ^ w)
def remW (signed : Bool) (w a b : Nat) : Nat :=
  if b % 2 ^ w = 0 then a % 2 ^ w
  else if signed then ofSigned w ((asSigned w a).tmod (asSigned w b))
  else a % 2 ^ w % (b % 2 ^ w)

/-- The value of a `w`-bit pattern read as signed or unsigned. -/
def intVal (signed : Bool) (w a : Nat) : Int := if signed then asSigned w a else ((a % 2 ^ w : Nat) : Int)

/-- R302: the comparisons of CMP and VCMP. -/
def cmpW (signed : Bool) (w sub a b : Nat) : Bool :=
  let x := intVal signed w a
  let y := intVal signed w b
  match sub with
  | 0 => x == y
  | 1 => x != y
  | 2 => x < y
  | 3 => x ≤ y
  | 4 => y < x
  | _ => y ≤ x

def minW (signed : Bool) (w a b : Nat) : Nat := if intVal signed w b < intVal signed w a then b % 2 ^ w else a % 2 ^ w
def maxW (signed : Bool) (w a b : Nat) : Nat := if intVal signed w a < intVal signed w b then b % 2 ^ w else a % 2 ^ w

/-- Bits [2w − 1:w] of the exact product. -/
def mulhW (signed : Bool) (w a b : Nat) : Nat := ofSigned w ((intVal signed w a * intVal signed w b) / 2 ^ w)

/-- Leading zeros within `w` bits. -/
def clzW (w a : Nat) : Nat := w - bitLen (a % 2 ^ w)

/-- The number of 1 bits among the low `w`. -/
def popW : Nat → Nat → Nat
  | 0, _ => 0
  | w + 1, a => a % 2 + popW w (a / 2)

/-! ### Conversions (R42) -/

/-- The least and greatest values of an integer type. -/
def Ty.intMin (t : Ty) : Int := if t.signed then -(2 ^ (t.width - 1) : Nat) else 0
def Ty.intMax (t : Ty) : Int := if t.signed then (2 ^ (t.width - 1) : Nat) - 1 else (2 ^ t.width : Nat) - 1

/-- An integer clamped into a type: its bits, and whether it was clamped. -/
def clampInt (t : Ty) (v : Int) : Nat × Bool :=
  if v < t.intMin then (ofSigned t.width t.intMin, true)
  else if v > t.intMax then (ofSigned t.width t.intMax, true)
  else (ofSigned t.width v, false)

/-- R42: the conversion of one element of type `st` into `dt`: bits and flags. An integer beyond the range of binary16 sets OF only
where the result is an infinity. -/
def convert (dt st : Ty) (rm : RM) (x : Nat) : Nat × Nat :=
  if st.isInt && dt.isInt then
    let v := intVal st.signed st.width x
    if dt.width > st.width then (ofSigned dt.width v, 0)
    else
      let (r, c) := clampInt dt v
      (r, if c then flSAT else 0)
  else if st.isInt then
    let v := intVal st.signed st.width x
    let (r, fl) := roundFl dt.ffmt rm (v < 0) v.natAbs 0 false
    (r, if fl &&& flOF != 0 && r % 2 ^ (dt.ffmt.eb + dt.ffmt.fb) != dt.ffmt.inf false then flNX else fl)
  else
    match st.ffmt.dec x with
    | .nan s =>
      if dt.isInt then (0, orFl flNV flSAT) else (dt.ffmt.nan, if s then flNV else 0)
    | .inf n =>
      if dt.isInt then (ofSigned dt.width (if n then dt.intMin else dt.intMax), orFl flNV flSAT) else (dt.ffmt.inf n, 0)
    | .fin n m e =>
      if dt.isInt then
        let (w, lost) := roundAt rm n m e 0
        let (r, c) := clampInt dt (if n then -(w : Int) else w)
        (r, if c then orFl flNV flSAT else if lost then flNX else 0)
      else roundFl dt.ffmt rm n m e false

/-! ### Special functions (R38, R367) -/

/-- The integer square root, by `fuel` base-4 digits. -/
def isqrt : Nat → Nat → Nat
  | 0, _ => 0
  | fuel + 1, n =>
    let r := 2 * isqrt fuel (n / 4)
    if (r + 1) * (r + 1) ≤ n then r + 1 else r

/-- R38: 1 ÷ a in FP32. -/
def fRcp (rm : RM) (a : Nat) : Nat × Nat :=
  match fmtF32.dec a with
  | .nan s => (fmtF32.nan, if s then flNV else 0)
  | .inf n => (fmtF32.zero n, 0)
  | .fin n m e =>
    if m = 0 then (fmtF32.inf n, flDZ)
    else
      let k := bitLen m + 60
      roundFl fmtF32 rm n (2 ^ k / m) (-e - (k : Int)) (2 ^ k % m != 0)

/-- R38: √a in FP32. -/
def fSqrt (rm : RM) (a : Nat) : Nat × Nat :=
  match fmtF32.dec a with
  | .nan s => (fmtF32.nan, if s then flNV else 0)
  | .inf n => if n then (fmtF32.nan, flNV) else (fmtF32.inf false, 0)
  | .fin n m e =>
    if m = 0 then (fmtF32.zero n, 0)
    else if n then (fmtF32.nan, flNV)
    else
      let t : Nat := if (e - 100) % 2 = 0 then 100 else 101
      let m' := m * 2 ^ t
      let r := isqrt 80 m'
      roundFl fmtF32 rm false r ((e - (t : Int)) / 2) (r * r != m')

/-- R38: 1 ÷ √a in FP32. -/
def fRsq (rm : RM) (a : Nat) : Nat × Nat :=
  match fmtF32.dec a with
  | .nan s => (fmtF32.nan, if s then flNV else 0)
  | .inf n => if n then (fmtF32.nan, flNV) else (fmtF32.zero false, 0)
  | .fin n m e =>
    if m = 0 then (fmtF32.inf n, flDZ)
    else if n then (fmtF32.nan, flNV)
    else
      let (m, e) := if e % 2 = 0 then (m, e) else (2 * m, e - 1)
      let k : Nat := 100
      let r := isqrt 110 (2 ^ (2 * k) / m)
      roundFl fmtF32 rm false r (-(e / 2) - (k : Int)) (r * r * m != 2 ^ (2 * k))

/-- The bits of the fixed-point numbers of the special functions. -/
def spP : Nat := 192

/-- 2^f to `spP` bits, rounded down, for the fraction f whose binary digits are `ds`, the half first; `r` is 2^(2^−i) at digit i. -/
def exp2Digits : List Bool → Nat → Nat → Nat
  | [], _, acc => acc
  | d :: ds, r, acc =>
    let r' := isqrt (spP + 2) (r * 2 ^ spP)
    exp2Digits ds r' (if d then acc * r' / 2 ^ spP else acc)

/-- The first `n` binary digits of the fraction `x` / 2^`k`. -/
def fracDigits : Nat → Nat → Nat → List Bool
  | 0, _, _ => []
  | n + 1, k, x => (x * 2 / 2 ^ k == 1) :: fracDigits n k (x * 2 % 2 ^ k)

/-- R38: 2^a in FP32. The power is formed to 192 bits (DEDUCED, log 23). -/
def fExp2 (rm : RM) (a : Nat) : Nat × Nat :=
  match fmtF32.dec a with
  | .nan s => (fmtF32.nan, if s then flNV else 0)
  | .inf n => if n then (fmtF32.zero false, 0) else (fmtF32.inf false, 0)
  | .fin n m e =>
    if m = 0 then roundFl fmtF32 rm false 1 0 false
    else
      let whole := if e ≥ 0 then true else m % 2 ^ (-e).toNat == 0
      let big := (bitLen m : Int) + e > 10
      if big then (if n then roundFl fmtF32 rm false 1 (-4000) true else roundFl fmtF32 rm false (2 ^ 60) 4000 true)
      else if whole then
        let v : Int := (if e ≥ 0 then (m * 2 ^ e.toNat : Nat) else (m / 2 ^ (-e).toNat : Nat))
        roundFl fmtF32 rm false 1 (if n then -v else v) false
      else if (bitLen m : Int) + e < -30 then
        (if n then roundFl fmtF32 rm false (2 ^ 60 - 1) (-60) true else roundFl fmtF32 rm false (2 ^ 60) (-60) true)
      else
        let k := (-e).toNat
        let x : Int := if n then -(m : Int) else m
        let fl := x / (2 ^ k : Nat)
        let fr := (x % (2 ^ k : Nat)).toNat
        roundFl fmtF32 rm false (exp2Digits (fracDigits k k fr) (2 * 2 ^ spP) (2 ^ spP)) (fl - spP) true

/-- The first `n` binary digits of log2 (y / 2^`p`) for y / 2^p in [1, 2), as a number, rounded down. -/
def log2Digits (p : Nat) : Nat → Nat → Nat → Nat
  | 0, _, acc => acc
  | n + 1, y, acc =>
    let z := y * y / 2 ^ p
    if z ≥ 2 * 2 ^ p then log2Digits p n (z / 2) (2 * acc + 1) else log2Digits p n z (2 * acc)

/-- R38: log2 a in FP32. The logarithm is formed to 140 binary places (DEDUCED, log 23). -/
def fLog2 (rm : RM) (a : Nat) : Nat × Nat :=
  match fmtF32.dec a with
  | .nan s => (fmtF32.nan, if s then flNV else 0)
  | .inf n => if n then (fmtF32.nan, flNV) else (fmtF32.inf false, 0)
  | .fin n m e =>
    if m = 0 then (fmtF32.inf true, flDZ)
    else if n then (fmtF32.nan, flNV)
    else
      let l := bitLen m
      let k : Int := e + l - 1
      if m = 2 ^ (l - 1) then roundFl fmtF32 rm (k < 0) k.natAbs 0 false
      else
        let t := log2Digits 400 140 (m * 2 ^ (401 - l)) 0
        let v : Int := k * (2 ^ 140 : Nat) + t
        if v < 0 then roundFl fmtF32 rm true (v.natAbs - 1) (-140) true
        else roundFl fmtF32 rm false v.natAbs (-140) true

/-! ### Types at memory and register ends -/

/-- R300: Extend: the `w`-bit value sign-extended for a signed type, zero-extended otherwise, to 64 bits. -/
def extend (t : Ty) (w x : Nat) : DWord :=
  BitVec.ofNat 64 (if t.signed then ofSigned 64 (asSigned w x) else x % 2 ^ w)

end Sys2Proof
end

