-- ==== Sys2Proof/Machine/Block.lean ====
section
/-! DEFINITION. Block formats and quantisation (R31 to R36), the CRC of trailers (R34), and bytes as little-endian numbers (R10). -/

namespace Sys2Proof

/-! ### Bytes -/

/-- R10: the number whose bytes are `l`, the lowest first. -/
def leNat : List Byte → Nat
  | [] => 0
  | b :: l => b.toNat + 256 * leNat l

/-- R10: the low `n` bytes of `x`, the lowest first. -/
def leBytes : Nat → Nat → List Byte
  | 0, _ => []
  | n + 1, x => BitVec.ofNat 8 x :: leBytes n (x / 256)

/-- The 64 bytes of a vector register, lane 0 first. -/
def vecBytes (v : Vec) : List Byte := leBytes 64 v.toNat
def vecOfBytes (l : List Byte) : Vec := BitVec.ofNat 512 (leNat l)
/-- Lane `n` of a vector register (R30). -/
def lane (v : Vec) (n : Nat) : Nat := bits v.toNat (32 * n) 32
/-- The vector register of these sixteen lanes. -/
def vecOfLanes (f : Nat → Nat) : Vec := BitVec.ofNat 512 (packFields (List.replicate 16 32) ((List.range 16).map f))
/-- The vector register whose lanes in `m` are all ones. -/
def laneMask (m : Nat → Bool) : Vec := vecOfLanes fun n => if m n then 2 ^ 32 - 1 else 0

/-- The magnitude bits of an FP32 number. -/
def f32Mag (x : Nat) : Nat := x % 2 ^ 31
/-- Whether FP32 bits are a NaN. -/
def f32Nan (x : Nat) : Bool := f32Mag x > 0x7F800000

/-! ### Decoding (R32) -/

/-- The data bits, greatest magnitude and exponent offset of a block format. -/
def Ty.bkM (t : Ty) : Nat := if t == .bk4 then 3 else 63
def Ty.bkOff (t : Ty) : Nat := if t == .bk4 then 128 else 132

/-- R32. -/
def decodeBK (t : Ty) (e ea eb : Nat) : Nat :=
  let w := t.width
  let sel := bits e (w - 1) 1
  let s := bits e (w - 2) 1 == 1
  let m := bits e 0 (w - 2)
  let x := if sel = 1 then eb else ea
  if x = 0xFF then fmtF32.nan
  else if x = 0 || m = 0 then fmtF32.zero s
  else (roundFl fmtF32 .rne s m ((x : Int) - t.bkOff) false).1

/-- Element `i` of packed elements of type `t` (R31, R30). -/
def elemAt (t : Ty) (data : List Byte) (i : Nat) : Nat :=
  if t.width = 4 then bits (data.getD (i / 2) 0#8).toNat (4 * (i % 2)) 4
  else leNat ((data.drop (i * (t.width / 8))).take (t.width / 8))

/-- Elements packed into bytes, two a byte for a four-bit type. -/
def packElems (t : Ty) : List Nat → List Byte
  | [] => []
  | a :: l =>
    if t.width = 4 then
      match l with
      | [] => [BitVec.ofNat 8 (a % 16)]
      | b :: l' => BitVec.ofNat 8 (a % 16 + 16 * (b % 16)) :: packElems t l'
    else leBytes (t.width / 8) a ++ packElems t l

/-! ### Quantisation (R35) -/

/-- RoundNE(|x| / 2^k) for FP32 bits x; none where |x| is infinite. -/
def roundNE (x : Nat) (k : Int) : Option Nat :=
  match fmtF32.dec x with
  | .fin _ m e => some (roundAt .rne false m e k).1
  | _ => none

/-- RoundNE(|x| / 2^k) ≤ M. -/
def fitsNE (x : Nat) (k : Int) (m : Nat) : Bool :=
  match roundNE x k with
  | some q => q ≤ m
  | none => false

/-- The smallest E of `es` at which `mx` fits. -/
def smallestE (mx : Nat) (off m : Nat) : List Nat → Nat
  | [] => 254
  | e :: es => if fitsNE mx ((e : Int) - off) m then e else smallestE mx off m es

/-- Pack(sel, sign, m). -/
def packBK (t : Ty) (sel : Nat) (s : Bool) (m : Nat) : Nat :=
  m + (if s then 2 ^ (t.width - 2) else 0) + sel * 2 ^ (t.width - 1)

/-- One element of QuantBlock: its code, whether it saturated, whether it is a NaN under supplied scales. -/
def quantElem (t : Ty) (ea eb x : Nat) : Nat × Bool × Bool :=
  let m := t.bkM
  let s := bits x 31 1 == 1
  if f32Nan x then (0, false, ea != 0xFF)
  else if ea != 0 && ea != 0xFF && fitsNE x ((ea : Int) - t.bkOff) m then
    (packBK t 0 s ((roundNE x ((ea : Int) - t.bkOff)).getD 0), false, false)
  else if eb = 0 then (packBK t (if ea = 0xFF then 1 else 0) s 0, false, false)
  else match roundNE x ((eb : Int) - t.bkOff) with
    | some q => if q > m then (packBK t 1 s m, true, false) else (packBK t 1 s q, false, false)
    | none => (packBK t 1 s m, true, false)

/-- R35: the two exponents of a block. -/
def quantScales (t : Ty) (xs : List Nat) (qs : Nat) (supplied : Option (Nat × Nat)) : Nat × Nat :=
  match supplied with
  | some (a, b) => (Nat.min 0xFE (Nat.max 1 a), Nat.min 0xFE (Nat.max 1 b))
  | none =>
    let mx := xs.foldl (fun m x => if f32Nan x then m else Nat.max m (f32Mag x)) 0
    let eb := if mx = 0 then 0 else smallestE mx t.bkOff t.bkM ((List.range 254).map (· + 1))
    let ea := if xs.any f32Nan then 0xFF else if mx = 0 then 0 else Nat.max 1 (eb - qs)
    (ea, eb)

/-- R35: the codes, the two exponents, the saturated elements, whether a NaN met supplied scales. -/
def quantBlock (t : Ty) (xs : List Nat) (qs : Nat) (supplied : Option (Nat × Nat)) : List Nat × Nat × Nat × Nat × Bool :=
  let (ea, eb) := quantScales t xs qs supplied
  let es := xs.map (quantElem t ea eb)
  (es.map Prod.fst, ea, eb, (es.filter fun e => e.2.1).length, es.any fun e => e.2.2)

/-- R36: the largest decoded magnitude of encoded elements, none of them a NaN, with `acc` so far. -/
def maxMag (t : Ty) (es : List Nat) (ea eb acc : Nat) : Nat :=
  es.foldl (fun a e => let d := decodeBK t e ea eb; if f32Nan d then a else Nat.max a (f32Mag d)) acc

/-! ### CRC-32C (R34) -/

/-- One bit of the reflected CRC. -/
def crcBit (c : Nat) : Nat := if c % 2 = 1 then (c / 2) ^^^ 0x82F63B78 else c / 2

/-- The CRC state after one byte. -/
def crcByte (c : Nat) (b : Byte) : Nat :=
  crcBit (crcBit (crcBit (crcBit (crcBit (crcBit (crcBit (crcBit (c ^^^ b.toNat))))))))

/-- The CRC state after more bytes; it starts at 0xFFFF_FFFF. -/
def crcStep (c : Nat) (l : List Byte) : Nat := l.foldl crcByte c
/-- The CRC of a state. -/
def crcOut (c : Nat) : Nat := c ^^^ 0xFFFFFFFF

/-! ### Trailers (R33) -/

/-- The bytes of a tile's data plane for `n` elements. -/
def Ty.dataBytes (t : Ty) (n : Nat) : Nat := n * t.width / 8
/-- R33: the whole region of a tile of `n` elements. -/
def Ty.regionBytes (t : Ty) (n : Nat) : Nat := if t.isBlock then t.dataBytes n + n / 32 * 2 + 32 else t.dataBytes n

/-- R33: a trailer. -/
def trailerBytes (t : Ty) (n sat mag crc : Nat) : List Byte :=
  leBytes 4 mag ++ leBytes 4 (Nat.min sat (2 ^ 32 - 1)) ++ leBytes 4 n ++ leBytes 4 t.code ++ leBytes 4 crc ++ leBytes 12 0

end Sys2Proof
end

