-- ==== Sys2Proof/WellFormed.lean ====
section
/-! DEFINITION. When an instruction is well formed: an operation, when its control word passes every check of R76; an event, when it
names a place that exists. -/

namespace Sys2Proof

/-- An operation is well formed when it is legal (R76) and it is the operation that its class, opcode and fields name (SEIZE and
SEIZE.hold, TDROP and TDROP.all, PMOV and PMOV.v share an opcode). An event is well formed when its place exists. -/
def Instr.wf (i : Instr) : Bool :=
  match toRaw i with
  | some (c, op, h, fs) => i.legal && mk c op h fs == some i
  | none => match i with
    | .yield run => run != 0#32
    | .bundleIterationIssue col => col < 32
    | .firmwareContextIssue col _ => col < 32
    | .exposedResultLands ck => ck < 1024
    | .scoreboardWriteLands ck => ck < 1024
    | .trapEntry cc => cc < 128
    | .systemFaultHandling cc => cc < 128
    | .contextRetireComplete cc => cc < 128
    | .blockingConditionClears cc => cc < 128
    | .notify q _ => q < 4096
    | .packetLaunch q => q < 4096
    | _ => true

end Sys2Proof
end

