-- ==== Sys2Proof/Machine/State.lean ====
section
/-! DEFINITION. The state of one MLA8-1800 package as plain data, and the state after reset. Registers and tables are
sparse maps: a list of (number, value) pairs, strictly rising by number, that leaves out what equals the reset value. -/

namespace Sys2Proof.Machine

/-- A sparse map in canonical form: strictly rising keys, no entry equal to the map's default. -/
abbrev SMap (α : Type) := List (Nat × α)

/-- The class of stops of the machine. No meaning of this model raises one: every fault of the spec is taken as the spec says
(R210 to R213) and gives a next state. The constructor stands for a step that finds the state outside the model's
invariants; nothing in this model answers with it. Safe. -/
inductive Fault where
  | inconsistent
  deriving DecidableEq, Repr

/-- Refusals. `notModelled` is raised only by an arm of Dispatch.lean for an instruction that has no meaning yet; safe, since
nothing can be proved of what such an instruction does. -/
inductive Refusal where
  | notModelled (mnemonic : String)
  deriving DecidableEq, Repr

/-! ### Registers of a context on one die -/

/-- R170: the status of an envelope register. -/
inductive EStatus where
  | normal | empty | negInf
  deriving DecidableEq, Repr

/-- R170: a line, slope, intercept and tag. -/
structure ELine where
  a : Word
  b : Word
  tag : Half
  deriving DecidableEq, Repr

/-- R170: an envelope register: status, domain [lo, hi], lines L[0..] and breakpoints B[1..]. -/
structure Env where
  status : EStatus
  lo : Word
  hi : Word
  lines : List ELine
  brk : List Word
  deriving DecidableEq, Repr

/-- R170: the launch state of an envelope register, NEGINF on (−∞, +∞). -/
def Env.launch : Env := ⟨.negInf, 0xFF800000#32, 0x7F800000#32, [], []⟩

/-- R52, R58: what a slot position keeps on one die: the latched addresses of its address operands (by the low bit of the
base register's field) and its hold latches (by the low bit of the register field). -/
structure SlotDie where
  addr : SMap DWord := []
  hold : SMap (Option Vec) := []
  deriving DecidableEq, Repr

/-- R219: the state of a context on one die that a splice copies. -/
structure WorkSet where
  s : SMap DWord := []
  v : SMap Vec := []
  p : SMap Half := []
  f : BitVec 8 := 0#8
  vflags : SMap Word := []
  xctl : Word := 0#32
  /-- R44: QSPLIT_BK4 resets to 1 and QSPLIT_BK8 to 3. -/
  qctl : Word := 0x13#32
  cpctl : Word := 0#32
  etolr : Word := 0#32
  eflg : Word := 0#32
  e : SMap Env := []
  slots : SMap SlotDie := []
  deriving DecidableEq, Repr

/-- The register files that a pending result writes. -/
inductive RFile where
  | s | v | p | f | e
  deriving DecidableEq, Repr

/-- R79, R81, R228: a result in flight: an exposed-latency result, or a scoreboard entry. `due` is the clock at whose start it
lands, none while a reply is outstanding. `mask` says which bits of the register it writes; `vfl` are the flags that
land in VFLAGS of group `grp` with it (R43). `pre` says that it was issued at or before the last splice, so that it lands in
both sets (R219). `uid` names the reply or command that supplies it. `lost` marks a result that is discarded when it arrives. -/
structure Pend where
  due : Option Nat
  slot : Nat
  issued : Nat
  sb : Bool
  file : RFile
  idx : Nat
  val : Vec
  mask : Vec
  vfl : Word
  grp : Nat
  sigSem : Nat
  sigInc : Int
  pre : Bool
  uid : Nat
  lat : Nat
  /-- The type that extends a reply (R300), with `val` the access's address while the reply is outstanding; its bundle. -/
  ty : Ty := .b
  bundle : DWord := 0#64
  /-- R193: the access to memory still to be performed that it awaits: 0 none, else its kind plus one (1 SO, 2 RC, 3 UO); and the fences
that order it before later accesses: 1 acq, 2 rel, 4 full. -/
  acc : Nat := 0
  ord : Nat := 0
  /-- R301, R329: the host has not completed the access: a fault comes in place of a value, with `val` the access's address. -/
  abort : Bool := false
  /-- R228, R348: in a saved context, a reply that was outstanding at the freeze: `due` is the clock at which it arrives. -/
  reply : Bool := false
  deriving DecidableEq, Repr

/-- R216, R215: a fault record: code, cause, INFO, slot of a synchronous fault, whether asynchronous, TREC0 to TREC3. `orig` is the
code of the program fault that an unhandled fault (0x0F) carries. -/
structure FRec where
  code : Nat
  orig : Nat := 0
  cause : Nat := 0
  info : Nat := 0
  slot : Nat := 0
  async : Bool := false
  /-- R211: the number of the command or access that raised an asynchronous fault. -/
  seq : Nat := 0
  r0 : DWord := 0#64
  r1 : DWord := 0#64
  r2 : DWord := 0#64
  r3 : DWord := 0#64
  deriving DecidableEq, Repr

/-- R220: a blotter entry: a 64-byte line (its virtual address and its place in storage), the byte mask and the data. -/
structure Blot where
  va : Nat
  loc : Nat
  mask : DWord
  data : Vec
  deriving DecidableEq, Repr

/-- R110: a stream register: its whole elements with their poison, and the bytes of a part element. -/
structure Stream where
  elems : List (Vec × Bool) := []
  part : List Byte := []
  partPoison : Bool := false
  deriving DecidableEq, Repr

/-- R144, R145: a stationary latch: type, rows and decoded elements (FP32 words, or integers for the integer types), element
(r, c) at 64 r + c. -/
structure Latch where
  ty : Ty := .b
  rows : Nat := 0
  cells : SMap Word := []
  deriving DecidableEq, Repr

/-- R89, R333: an accumulator tile: whether INT32, its words, element (m, n) at 64 m + n, and its busy bit's command (R147). -/
structure Tile where
  int : Bool := false
  cells : SMap Word := []
  busy : Option Nat := none
  deriving DecidableEq, Repr

/-- R137: a shape register: record, and whether loaded since launch. -/
structure ShReg where
  bits : BitVec 256 := 0#256
  loaded : Bool := false
  deriving DecidableEq, Repr

/-- R150: a bank-lock request; requests stand in issue order. -/
structure LockReq where
  uid : Nat
  bank : Nat
  excl : Bool
  deriving DecidableEq, Repr

/-- R184: an operation of the envelope unit with what it latched at issue, the clock it completes once started, and the result
formed at its start. -/
structure EvOp where
  uid : Nat
  ck : Nat
  op : Instr
  tol : Word
  va : Vec
  vb : Vec
  vc : Vec
  pred : Half
  sop : DWord
  addr : DWord
  pre : Bool
  bundle : DWord
  due : Option Nat := none
  res : Option Env := none
  enan : Bool := false
  image : List Byte := []
  /-- R183: the bank locks that it requested at issue. -/
  locks : List LockReq := []
  /-- Bytes of its image, by number, that a later store of its own iteration writes (R199). -/
  passed : List Nat := []
  /-- R174: the breakpoint overflow that its completion raises; the launch of an operation that runs on while its context is frozen, whose registers
have been saved with its result (R185), and 0 otherwise. -/
  bad : Option FRec := none
  launch : Nat := 0
  /-- The clock of its issue, and the fences that order its access to memory (`Pend.ord`). -/
  issued : Nat := 0
  ord : Nat := 0
  deriving DecidableEq, Repr

/-- R340, R343: a SHAPE or SPXCFG record on its way: the clock it arrives, the register (16 for the decoder configuration), its
bytes, and its signal. -/
structure RecPend where
  due : Option Nat
  k : Nat
  bits : BitVec 256
  sigSem : Nat
  sigInc : Int
  bundle : DWord
  addr : DWord
  uid : Nat
  ctx : Nat
  /-- The clock of its issue, and the fences that order its read (`Pend.ord`). -/
  issued : Nat := 0
  ord : Nat := 0
  deriving DecidableEq, Repr

/-- A context on one die (R83, R89). -/
structure CtxDie where
  ws : WorkSet := {}
  dup : WorkSet := {}
  dupEv : List EvOp := []
  tvec : DWord := 0#64
  tstat : DWord := 0#64
  trec : SMap DWord := []
  tepc : DWord := 0#64
  tsc : SMap DWord := []
  q : SMap Stream := []
  /-- R338: the stream bound to each channel, plus one; 0 for none. -/
  bind : SMap Nat := []
  l : SMap Latch := []
  /-- R145: the type and rows of the last MLATCH or MTILE issued to each latch. -/
  lIss : SMap (Ty × Nat) := []
  acc : SMap Tile := []
  sh : SMap ShReg := []
  recs : List RecPend := []
  streak : Nat := 0
  aged : Bool := false
  lastNch : Nat := 0
  lastChoices : Nat := 0
  colls : Nat := 0
  trbase : DWord := 0#64
  blot : List Blot := []
  /-- R194: stores that a splice has released and that a fence holds until accesses before it have been performed. -/
  late : List Blot := []
  pend : List Pend := []
  prfctl : Word := 0x6000#32
  /-- R190: one more than the clock of the last iteration issued in which an operation waited on a semaphore, by semaphore; and of the
last CSRR of CPDONEn, by channel, with the identifier that it read. -/
  waited : SMap Nat := []
  seen : SMap (Nat × Nat) := []
  deriving DecidableEq, Repr

/-! ### A context's column-wide state -/

/-- A place in a kernel: reel and doubleword offset. -/
structure Pos where
  reel : Nat := 0
  off : Nat := 0
  deriving DecidableEq, Repr

/-- R55, R225: a pending control transfer: its target (none for TRET, whose target is the resume point of the duplicate set), and
the delay bundles still to run. -/
structure Xfer where
  target : Option Pos
  delay : Nat
  /-- R285: a LOOP back-edge. -/
  loop : Bool := false
  deriving DecidableEq, Repr

/-- R152: a region of a footprint. -/
structure Region where
  addr : Nat
  len : Nat
  write : Bool
  deriving DecidableEq, Repr

/-- R83, R219: the column state of a context: the bundle at the program counter, the iterations that remain of it (0 before its first),
the call stack, the pending transfer, and the slot copies. -/
structure ColState where
  pc : Pos := {}
  rem : Nat := 0
  call : List (Pos × Nat) := []
  xfer : Option Xfer := none
  copies : SMap Instr := []
  /-- R152: the footprint of each copy's entry at its issue. -/
  fps : SMap (List Region) := []
  deriving DecidableEq, Repr

/-- R90: the states of a hardware context; `loading` is the model's: a team has started and reel 0 has not arrived (R242). -/
inductive CtxSt where
  | free | loading | ready | active | blocked | retiring | swapped
  deriving DecidableEq, Repr

/-- R92: why a context is BLOCKED: an unmet wait or an empty stream (tried again when it may issue), a barrier by number, a lenient
push into a full channel. -/
inductive BlkReason where
  | wait
  | stream
  | barrier (key : Nat)
  | push
  deriving DecidableEq, Repr

/-- R286: an accumulator of profile counters. -/
structure ProfAcc where
  live : Bool := false
  iter : Nat := 0
  fill : SMap Nat := []
  nops : SMap Nat := []
  stall : SMap Nat := []
  clks : Nat := 0
  first : DWord := 0#64
  /-- R292: the address of its last iteration. -/
  last : DWord := 0#64
  /-- R285: the LOOPs, by bundle address, that have been taken since the last clearing. -/
  taken : List Nat := []
  deriving DecidableEq, Repr

/-- A context of a column (R83, R89, R90). -/
structure ColCtx where
  st : CtxSt := .free
  cs : ColState := {}
  dupCs : ColState := {}
  cw : SMap (Option Instr) := []
  fp : SMap (List Region) := []
  launch : Nat := 0
  team : Nat := 0
  tcol : Nat := 0
  tctx : Nat := 0
  trig : Bool := false
  inh : Bool := false
  blk : Option BlkReason := none
  blkSince : Nat := 0
  /-- R211: asynchronous faults waiting for the next boundary, by die, oldest first. -/
  faults : List (Nat × FRec) := []
  /-- R212, R213, R222, R234: a fault taken, by die, whose rollback waits for outstanding replies or for the restore, and whether
firmware has still to handle it as a system fault. -/
  trap : List (Nat × FRec) := []
  trapSys : Bool := false
  /-- R211: one more than the clock at which it was raised. -/
  trapAt : Nat := 0
  /-- R211: program faults kept as pending traps beside a system fault. -/
  kept : List (Nat × FRec) := []
  /-- R250, R251: the stated run, whether a measured run has begun, the measured run, the yield bundle's address and whether this run's overrun is
recorded. -/
  stated : Nat := 0
  measured : Bool := false
  meas : Nat := 0
  yaddr : DWord := 0#64
  overran : Bool := false
  scyc : Nat := 0
  /-- Clocks for which the column may not issue this context: blotter release, bank ports, CWLD, with the reason code of R287. -/
  holdUntil : Nat := 0
  holdReason : Nat := 0
  /-- R106: the stall for bank ports of the iteration at the program counter has been taken. -/
  portDone : Bool := false
  /-- R233, R242: the state that the context takes once what it loads has landed. -/
  resume : CtxSt := .ready
  loop : ProfAcc := {}
  rep : ProfAcc := {}
  active : Nat := 0
  /-- One more than the clock of the last iteration issued, and the reason of R287 for which this clock's attempt stalled. -/
  lastIss : Nat := 0
  /-- The address of that iteration; and whether the loop accumulator is cleared at the next iteration (R285). -/
  lastAddr : DWord := 0#64
  loopClr : Bool := false
  /-- R289: the accumulators were cleared by a freeze, and no iteration has issued since: nothing is counted. -/
  profOff : Bool := false
  /-- R321: the pieces of a CWLD's source that other packages have answered so far, by message; and the words that a CWLD has loaded, with their first
entry, until it completes. -/
  cwBuf : Option (Nat × List (Nat × List Byte)) := none
  cwLoad : Option (Nat × List Instr) := none
  /-- R198: one more than the clock of the last iteration that made a posted-write flush, and whether for a FENCE.full; its own writes are flushed before the
next. -/
  flush : Nat := 0
  flushFull : Bool := false
  why : Option Nat := none
  deriving DecidableEq, Repr

/-! ### Per-core engines -/

/-- R129 to R143: a copy command, or an SPXGO, in a channel's queue with what it latched at issue. -/
structure CopyCmd where
  uid : Nat
  ident : Nat
  ck : Nat
  op : Instr
  bundle : DWord
  daddr : DWord
  saddr : DWord
  sty : Ty
  dty : Ty
  n : Nat
  qctl : Word
  sh : BitVec 256
  /-- R140: one more than the stream that the channel is bound to; 0 for none. -/
  stream : Nat
  sbytes : Bool
  sigSem : Nat
  sigInc : Int
  fp : List Region
  started : Option Nat := none
  /-- R132: the clocks of its stages and ends, once started. -/
  least : Nat := 0
  /-- Destination bytes written (for SPXGO, offsets pushed), and those at which a remainder began (R235). -/
  done : Nat := 0
  base : Nat := 0
  /-- Elements converted so far, in destination order; converted bytes not yet written, each with its poison; the scale bytes. -/
  elem : Nat := 0
  out : List (Byte × Bool) := []
  scales : List (Byte × Bool) := []
  /-- R136: the destination's planes as written, for a trailer; the elements saturated. -/
  wrote : List Byte := []
  sat : Nat := 0
  /-- R380: the source of a TRN copy, read whole; or the decoded elements of the block being converted. -/
  held : List (Nat × Bool) := []
  read : Bool := false
  /-- R136: the source's data and scale planes as read, for a trailer check. -/
  srcData : List Byte := []
  srcScale : List Byte := []
  /-- R143: the offsets that a CPYG has taken and not yet used. -/
  taken : List Word := []
  /-- R188: the aligned 32-byte granule of the source read last, whole, of which bytes are still to be used: its address and bytes; and the source bytes
requested of pod memory so far. -/
  gran : Option (Nat × List (Byte × Bool)) := none
  /-- The same for the scale plane of a source that is decoded. -/
  granS : Option (Nat × List (Byte × Bool)) := none
  asked : Nat := 0
  /-- R142: the offsets still to push; whether a poisoned byte ends the decode. -/
  offs : List Word := []
  bad : Bool := false
  spx : Nat := 0
  deriving DecidableEq, Repr

/-- R127 to R130: a copy channel. -/
structure Channel where
  q : List CopyCmd := []
  next : Word := 1#32
  done : Word := 1#32
  errv : Bool := false
  err : Nat := 0
  stall : Word := 0#32
  deriving DecidableEq, Repr

/-- R162 to R165: a transfer of a shared engine's circuit or of the direct path: the clock from which its least time counts, and the
clock of its completion once it is the first. `done` bytes stand written; `out` are those that it holds of the source from there on (R188, R235), `last` one
more than the clock at which it moved bytes last, `asked` the source bytes requested of pod memory and one more than the clock of the last request. `coll`
is the collective and rank of a collective's place on the direct path. -/
structure Xmit where
  uid : Nat
  ck : Nat
  op : Instr
  bundle : DWord
  daddr : DWord
  saddr : DWord
  len : Nat
  sigSem : Nat
  sigInc : Int
  start : Nat
  due : Option Nat := none
  done : Nat := 0
  out : List (Byte × Bool) := []
  last : Nat := 0
  asked : Nat × Nat := (0, 0)
  coll : Option (Nat × Nat) := none
  deriving DecidableEq, Repr

/-- R145 to R149: a command of the matrix engine, with what it latched at issue; once started, the clocks at which it computes and
completes and the tile and latch that it forms; the row at which an MRET goes on. -/
structure MxCmd where
  uid : Nat
  ck : Nat
  op : Instr
  bundle : DWord
  aaddr : DWord
  baddr : DWord
  aty : Ty
  bty : Ty
  qctl : Word
  sigSem : Nat
  sigInc : Int
  fp : List Region
  due : Option Nat := none
  cmp : Nat := 0
  tile : Option Tile := none
  latch : Option Latch := none
  row : Nat := 0
  /-- R149: the rows fetched so far, and their elements: of B, and of A slice by slice. -/
  got : Nat := 0
  bw : List Word := []
  aw : List Word := []
  /-- R378: the results are discarded. -/
  lost : Bool := false
  deriving DecidableEq, Repr

/-- R149: the engine's pause: the fault's phase, row, slice. -/
structure Pause where
  phase : Nat
  row : Nat
  k0 : Nat
  frec : FRec
  deriving DecidableEq, Repr

/-- R153: a tracked command: the uncompleted commands on which it has an edge, its footprint, whether it has asked for its locks. -/
structure Track where
  uid : Nat
  ck : Nat
  regions : List Region
  deps : List Nat
  locks : List (Nat × Bool)
  locked : Bool
  deriving DecidableEq, Repr

/-- R108: an entry of the tag table. -/
structure TagE where
  v : Bool := false
  key : BitVec 50 := 0#50
  data : Word := 0#32
  deriving DecidableEq, Repr

/-- R109: a change of the tag table on its way. -/
inductive TagOp where
  | set (i : Nat) (key : BitVec 50) (data : Word)
  | drop (key : BitVec 50)
  | all
  deriving DecidableEq, Repr

/-- R121: a translation held by a TLB. `size` is log2 of its page. -/
structure TlbE where
  asid : Nat
  global : Bool
  page : Nat
  size : Nat
  pte : DWord
  dirty : Bool
  deriving DecidableEq, Repr

/-- R341, R62: the signals that land on this clock at a semaphore. -/
structure SigAcc where
  add : Int := 0
  set : Option Nat := none
  deriving DecidableEq, Repr

/-- R318: a CSRW that takes effect at the end of the clock. -/
structure CsrW where
  ctx : Nat
  num : Nat
  val : DWord
  /-- R219: its iteration was at or before the last splice: a CSR of the duplicate set is written there too. -/
  pre : Bool := false
  deriving DecidableEq, Repr

/-- A signal that lands at a clock (R62). -/
structure SigPend where
  due : Nat
  ck : Nat
  sem : Nat
  inc : Int
  set : Bool := false
  uid : Nat := 0
  /-- R62: the signal of a FENCE of class 1 acq, 2 rel, 4 full (a sum of them), given once what it orders has been performed, or
acknowledged where `ack`. -/
  fence : Nat := 0
  ack : Bool := false
  deriving DecidableEq, Repr

/-- R169: a BLAT write on its way: the clock it lands, its context, its place, its bytes with their poison, its signal. -/
structure BlatW where
  due : Nat
  ck : Nat
  loc : Nat
  data : List (Byte × Bool)
  sigSem : Nat
  sigInc : Int
  /-- Its bytes, by number, that a later store of its own iteration writes: they keep that store's value (R199). -/
  passed : List Nat := []
  /-- The clock of its issue, and the fences that order its write (`Pend.ord`). -/
  issued : Nat := 0
  ord : Nat := 0
  deriving DecidableEq, Repr

/-- A core: one of 32 on each of 8 dies. -/
structure Core where
  sem : SMap Nat := []
  sig : SMap SigAcc := []
  sigs : List SigPend := []
  bfmt : SMap Word := []
  tags : SMap TagE := []
  /-- R109: changes of the tag table on their way: the clock at whose end each lands, its context, the change. -/
  tagPend : List (Nat × Nat × TagOp) := []
  ch : SMap Channel := []
  direct : List Xmit := []
  /-- R127: the clock and bytes of each channel's latest writes, and, under 4, of those into the local scratchpad. -/
  moved : SMap (Nat × Nat) := []
  spxMode : Nat := 0
  spxShift : Nat := 0
  spxRate : Nat := 1
  opq : List (Nat × Word) := []
  mxq : List MxCmd := []
  pause : Option Pause := none
  evq : List EvOp := []
  locks : List LockReq := []
  track : List Track := []
  szref : Nat := 0
  l1 : List TlbE := []
  staging : Option Nat := none
  csrw : List CsrW := []
  /-- R169: BLAT writes on their way. -/
  blat : List BlatW := []
  /-- The launch that took this core last (R95, R108), plus one. -/
  taken : List Nat := []
  /-- R106: one more than the clock at which VM operations of the core used ports of its banks last, with the ports; and of each port for which an access of
an engine waits, the clock from which it has waited and one more than the last clock on which it did. A port is bank * 2, plus 1 for the write port. -/
  vmAt : Nat × List Nat := (0, [])
  portWait : SMap (Nat × Nat) := []
  /-- R125: the single-bit errors that its scratchpad has corrected; no register shows the count. -/
  eccErrs : Nat := 0
  /-- The firmware context's registers (R93). -/
  fw : CtxDie := {}
  deriving DecidableEq, Repr

/-! ### Columns, quads and dies -/

/-- R246, R247: a reel buffer: launch, reel, its doublewords as fetched, the clock at which its last byte lands, the poisoned
64-byte pieces of it. -/
structure ReelBuf where
  launch : Nat
  reel : Nat
  data : List DWord
  due : Nat
  poison : List Nat
  arrived : Bool := false
  /-- R122: its load waits for a place in the die's walk queue, and its due clock does not stand yet. -/
  waits : Bool := false
  /-- A fault of the load (code, cause, virtual address), raised at the first bundle fetch in the reel. -/
  bad : Option (Nat × Nat × Nat) := none
  deriving DecidableEq, Repr

/-- R227: a freeze request: reason, and the launches it names. -/
structure FrzReq where
  reason : Nat
  launches : List Nat
  deriving DecidableEq, Repr

/-- A column. -/
structure Column where
  sleft : Nat := 0
  queue : Option Nat := none
  /-- R250: for each queue plus one, the clock from which its age counts. -/
  ages : SMap Nat := []
  /-- R91: the context that left ACTIVE last, the first clock at which the chosen context may issue. -/
  last : Nat := 0
  fromClk : Nat := 0
  /-- R93, R248: the window of 256 clocks in which the firmware context last issued, its issues there while a hardware context was
ACTIVE, its issue clocks in all, and one more than the last. -/
  fwWindow : Nat := 0
  fwCount : Nat := 0
  fwClocks : Nat := 0
  fwAt : Nat := 0
  /-- R93: one more than the clock on which a hardware context issued last. -/
  issAt : Nat := 0
  bufs : List ReelBuf := []
  pairs : List Nat := []
  dbgctl : DWord := 0#64
  /-- R295: a stop requested (1), draining (2), stopped (3), one more iteration then stop (4), resumed, before its first iteration (5); the context and the
place, by reel and offset, at which the column was resumed. -/
  dbg : Nat := 0
  resAt : Option (Nat × Nat × Nat) := none
  frzinj : DWord := 0#64
  frz : List FrzReq := []
  /-- R84: the home die; none before start-up has ended means c mod 8. -/
  homeDie : Option Nat := none
  /-- Context 0's share of this column lent (R282). -/
  lendReg : DWord := 64#64
  recallAt : Option Nat := none
  /-- R282: one more than the clock on which a borrower's team started here last. -/
  lentAt : Nat := 0
  deriving DecidableEq, Repr

/-- R310 to R312, R268: one member of a collective in progress: its rank among `m`, its context by TCOL, TCTX and die (`ext` for one of
another package), what its COLL latched, whether and where it was admitted, its contribution once sent, and how it ended. -/
structure CollMember where
  rank : Nat
  m : Nat
  ext : Bool := false
  tcol : Nat := 0
  tctx : Nat := 0
  die : Nat := 0
  ck : Nat := 0
  op : Instr
  bundle : DWord := 0#64
  daddr : DWord := 0#64
  saddr : DWord := 0#64
  uid : Nat := 0
  /-- The number of the collective in its team's context. -/
  n : Nat := 0
  direct : Bool := false
  eng : Nat := 0
  circ : Nat := 0
  need : Nat := 0
  atClk : Nat := 0
  /-- The contribution, and the clock at which it was sent. -/
  bytes : Option (List (Byte × Bool)) := none
  since : Nat := 0
  bad : Bool := false
  complete : Bool := false
  /-- R378: the context key under which the member of a terminated team runs on. -/
  orphan : Option Nat := none
  deriving DecidableEq, Repr

/-- R154, R162, R164, R309: a circuit in use: its holder, its transfers in order, the clock from which it is free once they are done
(none while a SEIZE.hold keeps it), and the collective and rank that it serves. -/
structure Circ where
  ck : Nat
  xs : List Xmit
  freeAt : Option Nat
  coll : Option (Nat × Nat) := none
  deriving DecidableEq, Repr

/-- R156 to R160: a request on its way to a shared engine: the clock of its arrival, its context, the index and engine tried, its
operation with what it latched, and for a COLL its collective, rank and receive need. -/
structure Req where
  atClk : Nat
  uid : Nat
  ck : Nat
  i : Nat
  choice : Nat
  op : Instr
  bundle : DWord
  daddr : DWord
  saddr : DWord
  /-- R280: refused before the engine. -/
  barred : Bool
  /-- R310: the launch and team of a COLL, and the member that its admission makes. -/
  coll : Option (Nat × Nat × CollMember) := none
  deriving DecidableEq, Repr

/-- R154, R161: a shared engine. -/
structure Eng where
  circ : SMap (Option Circ) := []
  ptr : Nat := 0
  fc : Nat := 0
  alt : Nat := 0
  reqs : List Req := []
  recv : Nat := 0
  /-- R284: past values of the counters, as (clock, ALT, FC). -/
  past : List (Nat × Nat × Nat) := []
  deriving DecidableEq, Repr

/-- R169: a BLAT of this clock: its context, result, place, bytes and signal. -/
structure BusLat where
  ck : Nat
  uid : Nat
  loc : Nat
  len : Nat
  sigSem : Nat
  sigInc : Int
  /-- As `BlatW.passed`. -/
  passed : List Nat := []
  deriving DecidableEq, Repr

/-- A quad of a die: the quad cycle (R168), and the slate bus of this clock (R169): its drivers, each a core with its result and data, and
its receivers. -/
structure Quad where
  cycle : Nat := 0
  drv : List (Nat × Nat × List (Byte × Bool)) := []
  lat : List BusLat := []
  deriving DecidableEq, Repr

/-- R122: a page walk: the clock at which it ends, none while it waits in the die's queue, and the clock of its miss. `entry` is the translation that it finds,
none while no access has made it: `page` is then the number of the 64-KiB page. -/
structure Walk where
  due : Option Nat
  since : Nat
  core : Nat
  asid : Nat
  entry : Option TlbE
  page : Nat
  noFill : Bool := false
  deriving DecidableEq, Repr

/-- R123: an invalidation in flight: the clock from which it may complete, its signal, and the accesses that it waits for: withheld stores
by context and line, and posted writes by number. -/
structure Tlbi where
  uid : Nat
  due : Nat
  waits : List (Nat × Nat)
  writes : List Nat
  ck : Nat
  sigSem : Nat
  sigInc : Int
  deriving DecidableEq, Repr

/-- R208: a merge window of a die's link controller: the operation, type and address of its AMOs (a place, or a package and an address with the
pod space index, plus 64 for the firmware context's), the last clock of the window, and its AMOs: the number of each one's result, its context and its operand. -/
structure Merge where
  op : Nat
  wide : Bool
  signed : Bool
  pod : Option (Nat × Nat)
  addr : Nat
  kind : Nat
  close : Nat
  ops : List (Nat × Nat × DWord)
  deriving DecidableEq, Repr

/-- A compute die. -/
structure Die where
  l2 : List TlbE := []
  walks : List Walk := []
  tlbis : List Tlbi := []
  merges : List Merge := []
  /-- R267: the merged requests on their way to pod memory: the message, and the results that its reply is split among. -/
  split : List (Nat × List Nat) := []
  deriving DecidableEq, Repr

/-! ### Package units -/

/-- R274: the state of a socket's die. -/
inductive DSt where
  | off | attesting | live | quarantined
  deriving DecidableEq, Repr

/-- R272, R273, R209: the key of one direction of a link: the SPDM session that it comes from, how often KEY_UPDATE has changed it (its index is
the low bit), and the flits that it has protected. -/
structure LinkKey where
  sess : Nat := 0
  gen : Nat := 0
  flits : Nat := 0
  deriving DecidableEq, Repr

/-- R274, R272: a socket. `liveAt` is the clock of its last entry to LIVE (R275), `began` that of its last entry to ATTESTING, `assisted` the mode of
attestation then (R254), `ident` the key pair that the die has derived from its seed (R270); `tx` keys what is sent to the die, `rx` what it sends. -/
structure Socket where
  st : DSt := .off
  fails : Nat := 0
  reason : Nat := 0
  resetting : Bool := false
  liveAt : Nat := 0
  tagFails : List Nat := []
  began : Nat := 0
  assisted : Bool := false
  ident : Option (List Byte × List Byte) := none
  tx : LinkKey := {}
  rx : LinkKey := {}
  deriving DecidableEq, Repr

/-- R277: a start-up under way: warm or cold, its attempt, what steps of this attempt and of the later ones fail (socket, step), the sockets
that have failed in this attempt with their steps, those that attest, and whether step 6 has begun. -/
structure Start where
  warm : Bool
  attempt : Nat
  now : List (Nat × Nat)
  rest : List (List (Nat × Nat))
  failed : List (Nat × Nat)
  waits : List Nat
  six : Bool
  deriving DecidableEq, Repr

/-- R241: a kernel image as the front end read it. -/
structure Kernel where
  yieldMax : Nat
  ncw : Nat
  nreel : Nat
  cw : List Instr
  fpAt : Nat
  imgAt : Nat
  /-- The banks of BANKMASK, which the image fills; those with the packet's extra banks (R229). -/
  imgBanks : List Nat
  banks : List Nat
  sems : SMap Nat
  named : List Nat
  reels : List (Nat × Nat)
  deriving DecidableEq, Repr

/-- R239: the states of a queue. -/
inductive QSt where
  | active | error | closing | closed
  deriving DecidableEq, Repr

/-- R239 to R243, R255: what the front end does with a queue's packet: reading it, reading its kernel's items, checked and waiting for
approval, checked and to be dispatched (once DEP allows), dispatching a launch, waiting for a value. -/
inductive FeSt where
  | idle
  | reading (due : Nat)
  | checking (p : List DWord) (due : Nat)
  | taken (p : List DWord) (k : Option Kernel)
  | approved (p : List DWord) (k : Option Kernel)
  | launching (launch : Nat)
  | waitsig (p : List DWord) (next : Nat)
  deriving DecidableEq, Repr

/-- R238: a command queue. -/
structure Queue where
  qbase : DWord := 0#64
  contract : Nat := 0
  part : Nat := 0
  cls : Nat := 0
  log2n : Nat := 4
  err : Nat := 0
  st : QSt := .closed
  rd : Half := 0#16
  wr : Half := 0#16
  qroot : DWord := 0#64
  fe : FeSt := .idle
  /-- The LAUNCH most recently dispatched since the queue was opened (R240). -/
  lastLaunch : Option Nat := none
  /-- R254: queue scheduling ran in host-assisted mode when the check of the packet began. -/
  assisted : Bool := false
  /-- R239: CLEAR has discarded the packet that is being dispatched: RDIDX stands past it already. -/
  cleared : Bool := false
  deriving DecidableEq, Repr

/-- R94, R242, R244: a launch. -/
structure Launch where
  queue : Nat
  part : Nat
  cols : List Nat
  dmask : Nat
  tw : Nat
  tc : Nat
  tk : Nat
  teams : Nat
  fclass : Nat
  holdf : Bool
  qsync : Bool
  kimg : Nat
  arg : DWord
  compsig : Nat
  kernel : Kernel
  nextTeam : Nat
  live : Nat
  error : Bool
  dropped : Bool
  signalled : Bool
  save : Option Nat
  /-- Columns of each started team, in TCOL order. -/
  teamCols : List (Nat × List Nat)
  trigTeams : List Nat
  /-- Pod launch of this launch (R266): group and number. -/
  pod : Option (Nat × Nat)
  started : Nat
  deriving DecidableEq, Repr

/-- R230, R99: the saved state of one context of a frozen or swapped team. -/
structure SavedCtx where
  col : Nat
  ctx : Nat
  cc : ColCtx
  dies : SMap CtxDie
  /-- Engine commands recorded with it, by die: channels, direct path and circuits, matrix, envelope. -/
  copies : List (Nat × Nat × CopyCmd)
  /-- With the number of its progress record (R232). -/
  xmits : List (Nat × Nat × Xmit)
  mxs : List (Nat × MxCmd)
  evs : List (Nat × EvOp)
  opq : List (Nat × Word)
  /-- R98, R230: whether the core-shared state is saved with it, and that state by die: semaphores, BFMT, tag table, the bytes of the
banks of the bank mask and their poisoned lines, by offset. -/
  shared : Bool
  sems : SMap (SMap Nat)
  bfmts : SMap (SMap Word)
  tags : SMap (SMap TagE)
  spad : SMap (List (Nat × Byte))
  bad : SMap (List Nat)
  /-- The model's own: the buffer of its reel, by which the bundle that blocked is known. -/
  buf : Option ReelBuf
  frzClk : Nat
  reason : Nat
  /-- R233: the clock at which its spill ends (none: it waits for SVBASE), whether it has ended, and the spill's bank locks. -/
  spill : Option Nat
  spilled : Bool := false
  lock : Nat
  /-- R254: the SVBASE that the host wrote for its spill. -/
  svb : Option DWord := none
  deriving DecidableEq, Repr

/-- R98, R99, R233: a team out of its columns. `ret` says that its return condition holds, `hold` that firmware or the host has not
released it, `excl` the column it may not return to. -/
structure Swap where
  launch : Nat
  team : Nat
  ctxs : List SavedCtx
  ret : Bool
  hold : Bool
  excl : Option Nat
  reason : Nat
  /-- R99: one more than the clock at which it was queued to return: the last queued stands at the head of its queue's class. -/
  turn : Nat := 0
  deriving DecidableEq, Repr

/-- R101: a range. -/
structure Range where
  isOpen : Bool := false
  next : DWord := 0#64
  endIdx : DWord := 0#64
  min : Nat := 0
  g : Nat := 0
  finished : List Nat := []
  deriving DecidableEq, Repr

/-- R326: a GRAB request on its way: the clock of its arrival, column, context, team, range and command. -/
structure GrabReq where
  atClk : Nat
  col : Nat
  ctx : Nat
  team : Nat
  id : Nat
  uid : Nat
  deriving DecidableEq, Repr

/-- R96, R266: a barrier: launch, team, scope, BID, arrived contexts (TCOL * 4 + TCTX), the clock of release once the set is complete, and
for .pod the packages whose members have arrived. -/
structure Barrier where
  launch : Nat
  team : Nat
  scope : Nat
  bid : Nat
  arrived : List Nat
  due : Option Nat
  remote : List Nat
  /-- The signals of its BARs, given at the release: core, semaphore, increment. -/
  sigs : List (Nat × Nat × Int) := []
  /-- R266: the clock of the last arrival, of another package's as this package reckons it. -/
  last : Nat := 0
  deriving DecidableEq, Repr

/-- R310: a collective of a team: its number and its members so far. -/
structure Coll where
  launch : Nat
  team : Nat
  n : Nat
  members : List CollMember
  /-- R269: the waiting members that have been reported. -/
  told : List Nat := []
  deriving DecidableEq, Repr

/-- R252: a contract record. -/
structure Contract where
  st : Nat := 0
  reason : Nat := 0
  pcode : Nat := 0
  kmax : Nat := 0
  fslow : Nat := 0
  clsmask : Nat := 0
  w : Nat := 0
  part : Nat := 0
  c : Nat := 0
  t : Nat := 0
  /-- Admission time, start of the period (reference clocks), and what each column has spent of it in 1/280 of a reference clock. -/
  tau : Nat := 0
  period : Nat := 0
  spent : SMap Nat := []
  b : Nat := 0
  deriving DecidableEq, Repr

/-- R279, R284 and the partition CSRs of R319. -/
structure Part where
  valid : Bool := false
  guest : Bool := false
  dcmask : Nat := 0xF
  mpw : Nat := 1
  cols : Word := 0#32
  fcur : Nat := 0
  capw : Half := 0#16
  pwr : Half := 0#16
  qlog : Nat := 0
  dlog : Nat := 20
  wswap : Word := 0x4E20#32
  arbctl : DWord := 0x0000400004000000#64
  fwctl : Word := 4#32
  podps : DWord := 0#64
  svbase : DWord := 0x01E0000000000000#64
  collstall : Word := 0x01000000#32
  trcbase : DWord := 12#64
  trchead : DWord := 0#64
  trctail : DWord := 0#64
  /-- R281: one more than the clock at which the island's controller acted last. -/
  ticked : Nat := 0
  deriving DecidableEq, Repr

/-- R259, R273: a Lerayx link. -/
structure Link where
  up : Bool := false
  replay : Half := 0#16
  peerlx : Nat := 0
  peer : Nat := 0
  tagFails : List Nat := []
  retry : Option Nat := none
  /-- R259: the bytes of the messages queued, in order; the ninths of a byte that the flit rate lets leave now. -/
  queued : List Nat := []
  credit : Nat := 0
  /-- R273: the clock at which the sessions that run began, and the mode of attestation then. -/
  sess : Option (Nat × Bool) := none
  /-- R273: whether the far root's session has succeeded. -/
  far : Bool := false
  tx : LinkKey := {}
  rx : LinkKey := {}
  deriving DecidableEq, Repr

/-- R266: a pod group. -/
structure PodGrp where
  members : DWord := 0#64
  valid : Bool := false
  queue : Nat := 0
  launches : Nat := 0
  /-- The teams of each pod launch of this package, by its number. -/
  teams : SMap Nat := []
  deriving DecidableEq, Repr

/-- R263: a posted write that has not been acknowledged: issuer, place it goes to (pod or host), the clocks of its landing, performance
and acknowledgement (none where only the outside knows). -/
structure Posted where
  uid : Nat
  /-- The column context that issued it and its launch; a saved context's by `savedKey`. -/
  cc : Nat
  launch : Nat
  die : Nat
  addr : Nat
  host : Bool
  land : Nat
  due : Option Nat
  /-- R265: the fault that its loss raises. -/
  frec : FRec
  /-- The clock of its issue; the kind of its page (RC where it is not known here); the fences that order it (`Pend.ord`). -/
  issued : Nat := 0
  kind : Nat := 1
  ord : Nat := 0
  /-- R190: the engine command that made it (0 for the context itself), the semaphore that its signal counts at (0 for none), the
copy channel plus one and its identifier, and the clock at which the command's signal landed. -/
  cmd : Nat := 0
  sem : Nat := 0
  chan : Nat := 0
  ident : Nat := 0
  sigClk : Option Nat := none
  /-- R263: a write to host memory that has not been performed: its place and its bytes with their poison. -/
  loc : Nat := 0
  data : List (Byte × Bool) := []
  deriving DecidableEq, Repr

/-- R263: a read of an engine command from pod memory: the command, the address and bytes, the message, and the reply: bytes with
their poison, or a fault's code and cause. -/
structure EngRd where
  cmd : Nat
  va : Nat
  len : Nat
  uid : Nat
  data : Option (Sum (Nat × Nat) (List Byte × Bool))
  deriving DecidableEq, Repr

/-- R257: a stack's repair state: corrected errors by row, the rows mapped out, the candidates already logged. -/
structure Repair where
  counts : SMap Nat := []
  mapped : List Nat := []
  logged : List Nat := []
  deriving DecidableEq, Repr

/-- R213, R257, R269: what the device passes to the host or to firmware. -/
inductive Event where
  | systemFault (cc : Nat) (recs : List (Nat × FRec))
  | yieldOverrun (cc : Nat) (addr : DWord) (run : Nat)
  | quarantined (socket : Nat) (launch : Nat)
  | matrixFault (core ctx : Nat) (rec : FRec)
  | collStall (record : List Byte)
  | firmwareFault (col : Nat) (recs : List (Nat × FRec))
  /-- R260: a message that leaves on a link and is not one of this package's own accesses. -/
  | podSent (link : Nat) (msg : PodMsg)
  /-- R2: a management request that names socket 18 to 31 completes with status unpopulated. -/
  | unpopulated (socket : Nat)
  /-- R273: the package root answers the far root's session of a link: its chain, and its signature. -/
  | presented (link : Nat) (chain signature : List Byte)
  deriving DecidableEq, Repr

/-! ### The model's own bookkeeping -/

/-- Where the operation under way acts: column, context (4 the firmware context), slot position, whether it issues from a slot word
(false for a re-issue), and the address of its bundle in the layout of TREC1. -/
structure Cursor where
  col : Nat := 0
  ctx : Nat := 0
  slot : Nat := 0
  first : Bool := true
  bundle : DWord := 0#64
  /-- R152: the footprint of the operation's entry. -/
  fp : List Region := []
  deriving DecidableEq, Repr

/-- What the operations of the iteration under way ask of the column: synchronous faults by die, stall reason (the lowest of R287),
blocking, clocks of stalls, an implicit splice, a control transfer, HALT, TRAP, TRET. -/
structure Att where
  faults : List (Nat × FRec) := []
  stall : Option Nat := none
  block : Option BlkReason := none
  arrive : Option BlkReason := none
  splice : Bool := false
  xfer : Option Xfer := none
  halt : Bool := false
  trap : List (Nat × FRec) := []
  /-- By die, the blotter entries performed at issue, before what is not withheld (R220). -/
  released : SMap Nat := []
  /-- The first number of a command that the iteration gives; none for an operation tried by itself. -/
  uid0 : Option Nat := none
  /-- R198: the iteration makes a posted-write flush, one of a FENCE.full among them. -/
  flush : Bool := false
  flushFull : Bool := false
  /-- R194: the dies on which a fence of the iteration, or an acquire, holds the stores of its vector slots. -/
  late : List Nat := []
  hold : Nat := 0
  holdReason : Nat := 0
  /-- R106: rows of banks that VM operations access, by die: (die, bank * 128 + row, write). -/
  vm : List (Nat × Nat × Bool) := []
  fill : Bool := false
  /-- R128: the channels, by core key and number, that a lenient push waits for. -/
  pushes : List (Nat × Nat) := []
  /-- R340: shape registers, by context key and number, that a faulting SHAPE unloads. -/
  unload : List (Nat × Nat) := []
  loopTaken : Option Bool := none
  /-- R321: the pod source that a CWLD waits for: die, package, address, bytes. -/
  cwRead : Option (Nat × Nat × Nat × Nat) := none
  /-- The iteration is one of a yield bundle (R250). -/
  yields : Bool := false
  deriving DecidableEq, Repr

/-- The state of the package. -/
structure State where
  /-- R8: the clock, and the step's place within it: 0 landings and issue, 1 the end of the clock. -/
  clock : Nat
  phase : Nat
  issueCol : Nat
  inbox : List Instr
  cur : Cursor
  att : Att
  /-- The counter that feeds free values, and the next unique number of a command. -/
  freeCtr : Nat
  uid : Nat
  /-- Contexts by die and core: key ((die * 32 + core) * 4 + context). -/
  cd : SMap CtxDie
  /-- Contexts by column: key (column * 4 + context). -/
  cc : SMap ColCtx
  /-- Cores: key (die * 32 + core). -/
  core : SMap Core
  col : SMap Column
  /-- Quads: key (die * 8 + quad). Shared engines: QXn of a quad at (die * 8 + quad) * 2 + n, DCn of a die at 128 + die * 4 + n. -/
  quad : SMap Quad
  eng : SMap Eng
  die : SMap Die
  /-- All storage: physical addresses of R111, and scratchpads at 2^52 + core key * 2^21. -/
  mem : List Host.Cell
  /-- R125: poisoned lines, by address / 64. R276: the stacks whose contents were lost, every line of them poisoned but for those
  named, which a write has covered whole since. -/
  poison : List Nat
  lost : SMap (List Nat)
  sockets : SMap Socket
  /-- R278: KIND, STEP, ATTEMPTS, FATAL and DONE of BOOTSTAT. -/
  boot : DWord
  start : Option Start
  /-- R112: the stacks over which the interleave table was built. -/
  ivStacks : List Nat
  queues : SMap Queue
  feLast : Nat
  launches : SMap Launch
  nextLaunch : Nat
  swaps : SMap Swap
  nextSwap : Nat
  ranges : SMap Range
  grabs : List GrabReq
  barriers : SMap Barrier
  colls : SMap Coll
  contracts : SMap Contract
  parts : SMap Part
  mgmt : DWord
  apprcmd : DWord
  evbase : DWord
  attpend : DWord
  attverd : DWord
  repctl : DWord
  repcmd : DWord
  repLog : SMap DWord
  repair : SMap Repair
  /-- A MAP in progress: the clock it ends, stack and row. -/
  repDue : Option (Nat × Nat × Nat)
  podform : Word
  links : SMap Link
  podrt : SMap DWord
  podspc : SMap DWord
  podgrp : SMap PodGrp
  /-- Pod messages sent and not yet answered, each with the link that it took (R260), and posted writes not yet acknowledged. -/
  podOut : List (Nat × PodMsg)
  /-- Messages between this package and itself, with the clocks of their arrival and their one-way times (R262). -/
  podIn : List (Nat × Nat × PodMsg)
  posted : List Posted
  /-- Reads of engine commands from pod memory. -/
  engPod : List EngRd
  /-- R244, R378: the atomics of freed contexts that may still be to be performed, by the number of their results, each with its launch. -/
  amoLeft : List (Nat × Nat)
  /-- R244: completion signals on their way to memory: the clock at which each is performed, its place, its error flag. -/
  comps : List (Nat × Nat × Bool)
  migsrc : DWord
  migdst : DWord
  miglen : DWord
  migctl : DWord
  pcnt : Word
  migDue : Option Nat
  /-- R284: past values of SZREF, by core key, as (clock, value). -/
  pastRef : SMap (List (Nat × Nat))
  events : List Event
  /-- R290: the trace records of this clock: column context, partition, bytes. -/
  traceQ : List (Nat × Nat × List Byte)
  deriving DecidableEq, Repr

/-- R12, R238 to R290: the machine right after a package reset, before start-up: every register at the value its map gives for reset,
every die OFF, no memory written, no launch. Registers with no stated reset value are zero (DESIGN CHOICE, log 4). -/
def State.reset : State where
  clock := 0
  phase := 0
  issueCol := 0
  inbox := []
  cur := {}
  att := {}
  freeCtr := 0
  uid := 1
  cd := []
  cc := []
  core := []
  col := []
  quad := []
  eng := []
  die := []
  mem := []
  poison := []
  lost := []
  sockets := []
  boot := 0#64
  start := none
  ivStacks := []
  queues := []
  feLast := 0
  launches := []
  nextLaunch := 1
  swaps := []
  nextSwap := 1
  ranges := []
  grabs := []
  barriers := []
  colls := []
  contracts := []
  parts := []
  mgmt := 0#64
  apprcmd := 0#64
  evbase := 0#64
  attpend := 0#64
  attverd := 0#64
  repctl := 16#64
  repcmd := 0#64
  repLog := []
  repair := []
  repDue := none
  podform := 0x00010000#32
  links := []
  podrt := []
  podspc := []
  podgrp := []
  podOut := []
  podIn := []
  posted := []
  engPod := []
  amoLeft := []
  comps := []
  migsrc := 0#64
  migdst := 0#64
  miglen := 0#64
  migctl := 0#64
  pcnt := 0#32
  migDue := none
  pastRef := []
  events := []
  traceQ := []

end Sys2Proof.Machine
end

