-- ==== Sys2Proof/Machine/Store.lean ====
section
/-! DEFINITION. Reading and writing sparse maps, and the accessors of the state's tables. -/

namespace Sys2Proof.Machine

variable {α : Type}

/-- The value of key `k` in a sparse map whose unlisted keys hold `d`. -/
def SMap.get (d : α) : SMap α → Nat → α
  | [], _ => d
  | (j, v) :: m, k => if j = k then v else SMap.get d m k

/-- The map without key `k`. -/
def SMap.erase : SMap α → Nat → SMap α
  | [], _ => []
  | (j, v) :: m, k => if j = k then SMap.erase m k else (j, v) :: SMap.erase m k

/-- The map with `v` at key `k`, the key kept in rising order. -/
def SMap.put : SMap α → Nat → α → SMap α
  | [], k, v => [(k, v)]
  | (j, w) :: m, k, v =>
    if k < j then (k, v) :: (j, w) :: m
    else if j = k then (k, v) :: m
    else (j, w) :: SMap.put m k v

/-- The map with `v` at key `k`; no entry is kept for the default `d`. -/
def SMap.set [DecidableEq α] (d : α) (m : SMap α) (k : Nat) (v : α) : SMap α :=
  if v = d then SMap.erase m k else SMap.put m k v

/-- The map with the value of key `k` changed by `f`. -/
def SMap.upd [DecidableEq α] (d : α) (m : SMap α) (k : Nat) (f : α → α) : SMap α :=
  SMap.set d m k (f (SMap.get d m k))

/-- The first answer that `f` gives on a list. -/
def firstSome {β γ : Type} (f : β → Option γ) : List β → Option γ
  | [] => none
  | x :: xs => match f x with
    | some y => some y
    | none => firstSome f xs

/-- Key of a core. -/
def coreKey (die core : Nat) : Nat := die * 32 + core
/-- Key of a context on a die: `core` is the column, `ctx` 0 to 3. -/
def ctxKey (die core ctx : Nat) : Nat := coreKey die core * 4 + ctx
/-- Key of the firmware context of a core (R93); keys below 1,024 are hardware contexts, and those from 2,048 on what runs on for a context after its team's end
(R378), with its context key modulo 1,024. -/
def fwKey (die core : Nat) : Nat := 1024 + coreKey die core
/-- The core key of a context key. -/
def ckCore (ck : Nat) : Nat := if ck < 1024 then ck / 4 else if ck < 2048 then ck - 1024 else ck % 1024 / 4
/-- The die of a context key. -/
def ckDie (ck : Nat) : Nat := ckCore ck / 32
/-- The column of a context key. -/
def ckCol (ck : Nat) : Nat := ckCore ck % 32
/-- The context number of a context key, 4 for the firmware context. -/
def ckCtx (ck : Nat) : Nat := if ck < 1024 then ck % 4 else if ck < 2048 then 4 else ck % 4
/-- The column-context key of a column and a context; the firmware contexts' follow the hardware contexts'. -/
def ccKey (col ctx : Nat) : Nat := if ctx < 4 then col * 4 + ctx else 128 + col
/-- R378: the column-context key of what runs on, after its team's end, for context `i` of swap `n`, which stood at column context `cc`. -/
def orphanCc (n i cc : Nat) : Nat := (2 ^ 33 + n * 128 + i) * 128 + cc
/-- The column-context key of a context key. -/
def ckCc (ck : Nat) : Nat := if ck < 2048 then ccKey (ckCol ck) (ckCtx ck) else ck / 1024 * 128 + ccKey (ckCol ck) (ckCtx ck)
/-- The key on a die of a column-context key. -/
def ccCk (die cc : Nat) : Nat :=
  if cc < 128 then ctxKey die (cc / 4) (cc % 4)
  else if cc < 2 ^ 40 then fwKey die (cc - 128) else cc / 128 * 1024 + ctxKey die (cc % 128 / 4) (cc % 4)
/-- The column of a column-context key. -/
def ccCol (cc : Nat) : Nat := if cc < 128 then cc / 4 else if cc < 2 ^ 40 then cc - 128 else cc % 128 / 4
/-- The dies of a package. -/
def allDies : List Nat := [0, 1, 2, 3, 4, 5, 6, 7]

/-! ### Tables of the state -/

def State.getCore (s : State) (k : Nat) : Core := SMap.get {} s.core k
def State.setCore (s : State) (k : Nat) (x : Core) : State := { s with core := SMap.set {} s.core k x }
def State.updCore (s : State) (k : Nat) (f : Core → Core) : State := s.setCore k (f (s.getCore k))

/-- A context on a die, by its key; the firmware context's registers stand with its core. -/
def State.getCd (s : State) (k : Nat) : CtxDie := if k < 1024 ∨ 2048 ≤ k then SMap.get {} s.cd k else (s.getCore (k - 1024)).fw
def State.setCd (s : State) (k : Nat) (x : CtxDie) : State :=
  if k < 1024 ∨ 2048 ≤ k then { s with cd := SMap.set {} s.cd k x } else s.updCore (k - 1024) fun c => { c with fw := x }
def State.updCd (s : State) (k : Nat) (f : CtxDie → CtxDie) : State := s.setCd k (f (s.getCd k))

def State.getCc (s : State) (k : Nat) : ColCtx := SMap.get {} s.cc k
def State.setCc (s : State) (k : Nat) (x : ColCtx) : State := { s with cc := SMap.set {} s.cc k x }
def State.updCc (s : State) (k : Nat) (f : ColCtx → ColCtx) : State := s.setCc k (f (s.getCc k))

def State.getCol (s : State) (k : Nat) : Column := SMap.get {} s.col k
def State.setCol (s : State) (k : Nat) (x : Column) : State := { s with col := SMap.set {} s.col k x }
def State.updCol (s : State) (k : Nat) (f : Column → Column) : State := s.setCol k (f (s.getCol k))

def State.getQuad (s : State) (k : Nat) : Quad := SMap.get {} s.quad k
def State.setQuad (s : State) (k : Nat) (x : Quad) : State := { s with quad := SMap.set {} s.quad k x }
def State.updQuad (s : State) (k : Nat) (f : Quad → Quad) : State := s.setQuad k (f (s.getQuad k))

def State.getEng (s : State) (k : Nat) : Eng := SMap.get {} s.eng k
def State.setEng (s : State) (k : Nat) (x : Eng) : State := { s with eng := SMap.set {} s.eng k x }
def State.updEng (s : State) (k : Nat) (f : Eng → Eng) : State := s.setEng k (f (s.getEng k))

def State.getDie (s : State) (k : Nat) : Die := SMap.get {} s.die k
def State.setDie (s : State) (k : Nat) (x : Die) : State := { s with die := SMap.set {} s.die k x }
def State.updDie (s : State) (k : Nat) (f : Die → Die) : State := s.setDie k (f (s.getDie k))

def State.getSocket (s : State) (k : Nat) : Socket := SMap.get {} s.sockets k
def State.setSocket (s : State) (k : Nat) (x : Socket) : State := { s with sockets := SMap.set {} s.sockets k x }
def State.updSocket (s : State) (k : Nat) (f : Socket → Socket) : State := s.setSocket k (f (s.getSocket k))

def State.getQueue (s : State) (k : Nat) : Queue := SMap.get {} s.queues k
def State.setQueue (s : State) (k : Nat) (x : Queue) : State := { s with queues := SMap.set {} s.queues k x }
def State.updQueue (s : State) (k : Nat) (f : Queue → Queue) : State := s.setQueue k (f (s.getQueue k))

def State.getPart (s : State) (k : Nat) : Part := SMap.get {} s.parts k
def State.setPart (s : State) (k : Nat) (x : Part) : State := { s with parts := SMap.set {} s.parts k x }
def State.updPart (s : State) (k : Nat) (f : Part → Part) : State := s.setPart k (f (s.getPart k))

def State.getRange (s : State) (k : Nat) : Range := SMap.get {} s.ranges k
def State.setRange (s : State) (k : Nat) (x : Range) : State := { s with ranges := SMap.set {} s.ranges k x }

def State.getContract (s : State) (k : Nat) : Contract := SMap.get {} s.contracts k
def State.setContract (s : State) (k : Nat) (x : Contract) : State := { s with contracts := SMap.set {} s.contracts k x }

def State.getLink (s : State) (k : Nat) : Link := SMap.get {} s.links k
def State.setLink (s : State) (k : Nat) (x : Link) : State := { s with links := SMap.set {} s.links k x }
def State.updLink (s : State) (k : Nat) (f : Link → Link) : State := s.setLink k (f (s.getLink k))

def State.getPodgrp (s : State) (k : Nat) : PodGrp := SMap.get {} s.podgrp k
def State.setPodgrp (s : State) (k : Nat) (x : PodGrp) : State := { s with podgrp := SMap.set {} s.podgrp k x }

def State.getRepair (s : State) (k : Nat) : Repair := SMap.get {} s.repair k
def State.setRepair (s : State) (k : Nat) (x : Repair) : State := { s with repair := SMap.set {} s.repair k x }

/-- The launch of an identifier, where it exists. -/
def State.launch? (s : State) (k : Nat) : Option Launch := (s.launches.find? fun x => x.1 == k).map Prod.snd
def State.updLaunch (s : State) (k : Nat) (f : Launch → Launch) : State :=
  match s.launch? k with
  | some l => { s with launches := SMap.put s.launches k (f l) }
  | none => s

/-- The next unique number, and the state with it taken. -/
def State.fresh (s : State) : Nat × State := (s.uid, { s with uid := s.uid + 1 })

/-- Whether compute die `d` is live (R274). -/
def State.dieLive (s : State) (d : Nat) : Bool := (s.getSocket d).st == .live
/-- The live compute dies. -/
def State.liveDies (s : State) : List Nat := allDies.filter s.dieLive

/-- R84: the home die of a column. -/
def State.home (s : State) (c : Nat) : Nat := (s.getCol c).homeDie.getD (c % 8)

/-- The launch of a column context. -/
def State.ctxLaunch (s : State) (cc : Nat) : Option Launch := s.launch? (s.getCc cc).launch

/-- R87: the launch-live dies of a column context, ascending. -/
def State.liveOf (s : State) (cc : Nat) : List Nat :=
  match s.ctxLaunch cc with
  | some l => allDies.filter fun d => l.live / 2 ^ d % 2 == 1 && s.dieLive d
  | none => []

end Sys2Proof.Machine
end

