-- ==== Sys2Proof/Machine/Memory.lean ====
section
/-! DEFINITION. Storage: bytes by place, poison (R125, R126), the windows (R103 to R107), the interleave table (R111 to R113),
translation and the TLBs (R116 to R122), the latencies of R115. -/

namespace Sys2Proof.Machine

/-! ### Bytes and poison

A place is a physical address of R111 below 2^52, or 2^52 + core key × 2^21 + offset for a scratchpad byte. A byte that nothing has
written reads as 0 (DESIGN CHOICE, log 3). -/

/-- What an unlisted byte reads as. -/
def unlisted : Byte := 0#8

/-- The one form of memory: addresses strictly rising, and no entry equal to what an unlisted address reads as. -/
abbrev Memory.wf (m : List Host.Cell) : Prop :=
  (m.Pairwise fun a b => a.1 < b.1) ∧ ∀ c ∈ m, c.2 ≠ unlisted

/-- The place of scratchpad offset `off` of a core. -/
def spadLoc (die core off : Nat) : Nat := 2 ^ 52 + coreKey die core * 2 ^ 21 + off

/-- One byte of storage. -/
def State.readByte (s : State) (loc : Nat) : Byte := SMap.get unlisted s.mem loc
/-- One byte of storage written. -/
def State.writeByte (s : State) (loc : Nat) (b : Byte) : State := { s with mem := SMap.set unlisted s.mem loc b }

/-- The bytes at `loc` and after. -/
def State.readBytes (s : State) : Nat → Nat → List Byte
  | _, 0 => []
  | loc, n + 1 => s.readByte loc :: s.readBytes (loc + 1) n

/-- Bytes written at `loc` and after. -/
def State.writeBytes (s : State) : Nat → List Byte → State
  | _, [] => s
  | loc, b :: l => (s.writeByte loc b).writeBytes (loc + 1) l

/-- A rising list with `x` in it. -/
def insNat (x : Nat) : List Nat → List Nat
  | [] => [x]
  | y :: l => if x < y then x :: y :: l else if x = y then y :: l else y :: insNat x l

/-- The 64-byte lines that `n` bytes at `loc` touch. -/
def linesOf (loc n : Nat) : List Nat :=
  if n = 0 then [] else (List.range ((loc + n - 1) / 64 - loc / 64 + 1)).map (· + loc / 64)

/-! ### The interleave table (R112, R113) -/

/-- T[h]. -/
def State.ivStack (s : State) (h : Nat) : Nat := s.ivStacks.getD (h % s.ivStacks.length) 0
/-- N of the stack of rank `r` among `n`: the entries of T that hold it. -/
def ivCount (n r : Nat) : Nat := 4096 / n + (if r < 4096 % n then 1 else 0)
/-- NMAX of R114. -/
def State.ivNmax (s : State) : Nat := if s.ivStacks.isEmpty then 0 else ceilDiv 4096 s.ivStacks.length
/-- ROWS of R113. -/
def State.ivRows (s : State) : Nat := if s.ivStacks.isEmpty then 0 else 64 * 10 ^ 9 / (512 * s.ivNmax)
/-- DEVSIZE of R113. -/
def State.devSize (s : State) : Nat := s.ivRows * 2 ^ 21

/-- R113: the entry of T that a physical address names. -/
def ivIndex (pa : Nat) : Nat := (bits pa 9 12) ^^^ (pa / 2 ^ 21 % 4096)

/-- R113: the stack and the stack-local address. -/
def State.stackPlace (s : State) (pa : Nat) : Nat × Nat :=
  let h := ivIndex pa
  let n := s.ivStacks.length
  let r := h % n
  (s.ivStack h, (pa / 2 ^ 21 * ivCount n r + h / n) * 512 + pa % 512)

/-! ### Poison (R125, R126) -/

/-- R276: the cleared lines of the lost stack that holds a line of device memory. -/
def State.lostLine (s : State) (l : Nat) : Option (Nat × List Nat) :=
  if s.lost.isEmpty || 64 * l ≥ s.devSize then none
  else (s.lost.find? fun x => x.1 == (s.stackPlace (64 * l)).1)
/-- R125: whether a line of storage is poisoned. -/
def State.poisonedLine (s : State) (l : Nat) : Bool :=
  s.poison.contains l || match s.lostLine l with
    | some (_, cleared) => !cleared.contains l
    | none => false
/-- R125: whether a line of these bytes is poisoned. -/
def State.poisoned (s : State) (loc n : Nat) : Bool := (linesOf loc n).any s.poisonedLine
/-- R126: poison set on every line of these bytes. -/
def State.addPoison (s : State) (loc n : Nat) : State :=
  { s with poison := (linesOf loc n).foldl (fun p x => insNat x p) s.poison }
/-- R126: poison cleared on the lines that these bytes cover whole. -/
def State.clearPoison (s : State) (loc n : Nat) : State :=
  let whole := fun (x : Nat) => decide (loc ≤ 64 * x) && decide (64 * x + 64 ≤ loc + n)
  let s := { s with poison := s.poison.filter fun x => !whole x }
  if s.lost.isEmpty then s
  else ((linesOf loc n).filter whole).foldl (fun s l => match s.lostLine l with
    | some (k, cleared) => { s with lost := SMap.put s.lost k (insNat l cleared) }
    | none => s) s

/-- A write as storage performs it: the bytes, and the poison that they clear (R126). -/
def State.store (s : State) (loc : Nat) (data : List Byte) : State :=
  (s.writeBytes loc data).clearPoison loc data.length

/-- A write with the poison of its bytes (R126). -/
def State.storeP (s : State) (loc : Nat) (data : List (Byte × Bool)) : State :=
  let s := s.store loc (data.map Prod.fst)
  if data.any Prod.snd then s.addPoison loc data.length else s

/-- The bytes of a 64-byte line whose bit of `mask` is set, written. -/
def State.storeMasked (s : State) (loc : Nat) (mask : Nat) : Nat → List Byte → State
  | _, [] => s
  | i, b :: l => (if bits mask i 1 = 1 then s.writeByte (loc + i) b else s).storeMasked loc mask (i + 1) l

/-- R220: a blotter entry performed. -/
def State.performBlot (s : State) (b : Blot) : State :=
  let s1 := s.storeMasked b.loc b.mask.toNat 0 (vecBytes b.data)
  if b.mask == BitVec.allOnes 64 then s1.clearPoison b.loc 64 else s1

/-- One byte as a context reads it: the newest withheld byte of its blotter first (R220). -/
def blotByte (bl : List Blot) (loc : Nat) : Option Byte :=
  firstSome (fun b => if b.loc ≤ loc && loc < b.loc + 64 && bits b.mask.toNat (loc - b.loc) 1 == 1 then
    some (BitVec.ofNat 8 (bits b.data.toNat (8 * (loc - b.loc)) 8)) else none) bl

/-- Bytes as the context of `bl` reads them. -/
def State.readCtx (s : State) (bl : List Blot) : Nat → Nat → List Byte
  | _, 0 => []
  | loc, n + 1 => ((blotByte bl loc).getD (s.readByte loc)) :: s.readCtx bl (loc + 1) n

/-! ### Sockets and latencies (R115) -/

/-- The grid position of a socket. -/
def sockPos (k : Nat) : Nat × Nat :=
  if k < 4 then (k + 1, 1) else if k < 8 then (k - 3, 2) else if k < 12 then (k - 7, 0)
  else if k < 16 then (k - 11, 3) else if k = 16 then (0, 1) else (5, 2)

/-- The absolute difference. -/
def natDist (a b : Nat) : Nat := (a - b) + (b - a)

/-- The clocks of a message's head flit between two sockets. -/
def head (a b : Nat) : Nat :=
  6 + 4 * (natDist (sockPos a).1 (sockPos b).1 + natDist (sockPos a).2 (sockPos b).2)

/-! ### Windows (R103, R107) -/

/-- The kinds of access of R104. -/
inductive Acc where
  | vec | sc | cp | mx | env | qx | dc
  deriving DecidableEq, Repr

/-- The windows of R103. -/
inductive Win where
  | bad (cause : Nat)
  | spad (off : Nat)
  | quad (off : Nat)
  | pod (pkg a : Nat)
  | dev (a : Nat)
  deriving DecidableEq, Repr

/-- The bases of the two windows. -/
def spadBase : Nat := 0x00FFFF0000000000
def quadBase : Nat := 0x00FFFF1000000000

/-- R103. -/
def window (va : Nat) : Win :=
  if va / 2 ^ 56 != 0 then .bad 1
  else if spadBase ≤ va && va < spadBase + 2 ^ 21 then .spad (va - spadBase)
  else if quadBase ≤ va && va < quadBase + 2 ^ 23 then .quad (va - quadBase)
  else if bits va 40 16 = 0xFFFF then .bad 2
  else if bits va 55 1 = 1 then .pod (bits va 49 6) (va % 2 ^ 49)
  else if va < 0x0001FF0000000000 then .dev va
  else .bad 2

/-- R104: whether an access of a kind reaches a window; the host column is checked after translation. -/
def reaches : Acc → Win → Bool
  | _, .spad _ => true
  | .sc, _ | .cp, _ | .dc, _ => true
  | .mx, .quad _ | .mx, .dev _ | .qx, .quad _ => true
  | _, _ => false

/-- R107: the core and local offset of a quad-window offset, for a core of the quad. -/
def quadPlace (core off : Nat) : Nat × Nat :=
  (4 * (core / 4) + off / 128 % 4, off / 128 / 4 * 128 + off % 128)

/-! ### Translation (R116 to R122) -/

/-- R117: the fields of a page-table entry. -/
def pteV (p : Nat) : Bool := bits p 0 1 == 1
def pteLeaf (p : Nat) : Bool := bits p 1 1 == 1
def pteR (p : Nat) : Bool := bits p 2 1 == 1
def pteW (p : Nat) : Bool := bits p 3 1 == 1
def pteFw (p : Nat) : Bool := bits p 4 1 == 1
def pteA (p : Nat) : Bool := bits p 5 1 == 1
def pteD (p : Nat) : Bool := bits p 6 1 == 1
def pteG (p : Nat) : Bool := bits p 7 1 == 1
def pteAddr (p : Nat) : Nat := bits p 8 44 * 256
def pteKind (p : Nat) : Nat := bits p 61 2
def ptePoison (p : Nat) : Bool := bits p 63 1 == 1

/-- R116: the bit at which a level's index begins, which is log2 of the page that its leaf maps. -/
def levelShift : Nat → Nat
  | 0 => 16 | 1 => 21 | 2 => 30 | _ => 39
/-- R116: the number of index bits of a level. -/
def levelBits : Nat → Nat
  | 0 => 5 | 3 => 10 | _ => 9
/-- R116: log2 of the alignment of a level's table. -/
def tableAlign : Nat → Nat
  | 0 => 8 | 3 => 13 | _ => 12

/-- A fault of an access: its code (R210) and cause. -/
structure AFault where
  code : Nat
  cause : Nat
  deriving DecidableEq, Repr

/-- R111, R275: whether a physical address can be reached: none, or the fault. Host memory is reached through IO0. -/
def State.paFault (s : State) (pa : Nat) : Option AFault :=
  if pa ≥ 2 ^ 51 then (if (s.getSocket 16).st == .quarantined then some ⟨9, 0⟩ else none)
  else if pa ≥ s.devSize then some ⟨4, 6⟩
  else if (s.getSocket (8 + (s.stackPlace pa).1)).st == .live then none
  else some ⟨9, 0⟩

/-- R254: page walks run in host-assisted mode. -/
def State.walkAssisted (s : State) : Bool := bits s.mgmt.toNat 0 1 == 1

/-- R118: whether an entry of a level is malformed. -/
def pteMalformed (lvl p : Nat) : Bool :=
  if pteLeaf p then lvl == 3 || pteKind p == 3 || pteAddr p % 2 ^ levelShift lvl != 0
  else lvl == 0 || pteAddr p % 2 ^ tableAlign (lvl - 1) != 0

/-- R118: permission on a leaf: the fault, if any. -/
def permFault (p : Nat) (fw rd wr : Bool) : Option AFault :=
  if pteFw p && !fw then some ⟨5, 3⟩
  else if rd && !pteR p then some ⟨5, 1⟩
  else if wr && !pteW p then some ⟨5, 2⟩
  else none

/-- R116: the walk from a level's table: the level, place and value of the leaf, or the fault. An entry that lies in a poisoned line is used as it
reads, and raises no poison consumption (DESIGN CHOICE, log 85: the table of R126 does not name the walker). -/
def State.walkFrom (s : State) (va : Nat) : Nat → Nat → Except AFault (Nat × Nat × Nat)
  | lvl, table =>
    let at_ := table + 8 * bits va (levelShift lvl) (levelBits lvl)
    match s.paFault at_ with
    | some f => .error f
    | none =>
      let p := leNat (s.readBytes at_ 8)
      if !pteV p then .error ⟨4, 4⟩
      else if pteMalformed lvl p then .error ⟨4, 5⟩
      else if pteLeaf p then .ok (lvl, at_, p)
      else match lvl with
        | 0 => .error ⟨4, 5⟩
        | l + 1 => State.walkFrom s va l (pteAddr p)

/-- R118: a whole walk for an access: the TLB entry that it makes and the state with A and D set, or the fault. -/
def State.walk (s : State) (trb va : Nat) (fw rd wr : Bool) : Except AFault (TlbE × State) :=
  if bits trb 0 1 = 0 then .error ⟨4, 4⟩
  else match s.walkFrom va 3 (bits trb 13 39 * 2 ^ 13) with
    | .error f => .error f
    | .ok (lvl, at_, p) =>
      match permFault p fw rd wr with
      | some f => .error f
      | none =>
        if s.walkAssisted && (!pteA p || (wr && !pteD p)) then .error ⟨4, 8⟩
        else
          let p1 := if s.walkAssisted then p else p ||| (32 + if wr then 64 else 0)
          let s1 := if p1 = p then s else s.store at_ (leBytes 8 p1)
          .ok (⟨bits trb 52 12, pteG p, va / 2 ^ levelShift lvl, levelShift lvl, BitVec.ofNat 64 p1, pteD p1⟩, s1)

/-- R121: whether a translation covers an address of an address space. -/
def TlbE.covers (e : TlbE) (asid va : Nat) : Bool := (e.global || e.asid == asid) && va / 2 ^ e.size == e.page

/-- R121: a TLB filled, first in first out (DESIGN CHOICE, log 7); an entry for the same page is replaced. -/
def tlbFill (cap : Nat) (l : List TlbE) (e : TlbE) : List TlbE :=
  (e :: l.filter fun x => !(x.size == e.size && x.page == e.page && (x.global || e.global || x.asid == e.asid))).take cap

/-- What translation answers. -/
inductive Tr where
  /-- A place in storage, its page's kind (0 SO, 1 RC, 2 UO), and the clocks of a scalar load from it. -/
  | ok (loc kind lat : Nat)
  /-- Pod memory of a package. -/
  | pod (pkg a : Nat)
  | fault (f : AFault)
  /-- R122: the walk queue is full. -/
  | stall
  deriving DecidableEq, Repr

/-- The translation of an address by a leaf. -/
def State.usePte (s : State) (die : Nat) (acc : Acc) (e : TlbE) (va : Nat) (fw rd wr : Bool) : Tr :=
  let p := e.pte.toNat
  match permFault p fw rd wr with
  | some f => .fault f
  | none =>
    let pa := pteAddr p / 2 ^ e.size * 2 ^ e.size + va % 2 ^ e.size
    match s.paFault pa with
    | some f => .fault f
    | none =>
      if pa ≥ 2 ^ 51 && acc == .mx then .fault ⟨4, 3⟩
      else if ptePoison p then .fault ⟨10, 0⟩
      else .ok pa (pteKind p)
        (if pa ≥ 2 ^ 51 then 2 * head die 16 else 90 + 2 * head die (8 + (s.stackPlace pa).1))

/-- R122: a walk taken by a die: at once while fewer than 64 run, else at the end of the queue, same-clock arrivals by ascending core. -/
def insWalk (w : Walk) : List Walk → List Walk
  | [] => [w]
  | x :: l => if w.due.isNone && x.due.isNone && x.since == w.since && w.core < x.core then w :: x :: l else x :: insWalk w l

/-- R122: the walks of a die that run. -/
def runningWalks (l : List Walk) : Nat := (l.filter fun w => w.due.isSome).length

/-- R122: whether a walk is for the 64-KiB page of an address, and has not been made yet. -/
def Walk.waitsFor (w : Walk) (asid va : Nat) : Bool := w.entry.isNone && w.asid == asid && w.page == va / 2 ^ 16

/-- R121, R122: the translation of a device-space address for a core. A walk takes one clock from its start, and it adds no clocks to the access that
missed (DESIGN CHOICE, log 84: the spec gives a walk no time); 64 run at once and 256 wait. An access whose walk waits stalls until the walk has its place, and
one that meets a walk that an invalidation has marked until that walk has ended (R350). -/
def State.translate (s : State) (die core : Nat) (acc : Acc) (trb va : Nat) (fw rd wr : Bool) : Tr × State :=
  let asid := bits trb 52 12
  let usable := fun (e : TlbE) => e.covers asid va && (!wr || e.dirty)
  let k := coreKey die core
  let d := s.getDie die
  if bits trb 0 1 = 0 then (.fault ⟨4, 4⟩, s)
  else match (s.getCore k).l1.find? usable with
    | some e => (s.usePte die acc e va fw rd wr, s)
    | none => match d.l2.find? usable with
      | some e => (s.usePte die acc e va fw rd wr, s)
      | none =>
        match ((d.walks.filter fun w => !w.noFill).filterMap Walk.entry).find? usable with
        | some e => (s.usePte die acc e va fw rd wr, s)
        | none =>
          if d.walks.any fun w => w.noFill && w.entry.any fun e => e.covers asid va then (.stall, s)
          else match d.walks.find? fun w => w.waitsFor asid va with
            | some x =>
              if x.due.isNone || x.noFill then (.stall, s)
              else match s.walk trb va fw rd wr with
                | .error f => (.fault f, s)
                | .ok (e, s1) => (s.usePte die acc e va fw rd wr, s1.updDie die fun d => { d with
                    walks := d.walks.map fun w => if w = x then { w with entry := some e, page := va / 2 ^ e.size } else w })
            | none =>
              if d.walks.length ≥ 320 then (.stall, s)
              else if runningWalks d.walks ≥ 64 then
                (.stall, s.updDie die fun d => { d with walks := insWalk ⟨none, s.clock, core, asid, none, va / 2 ^ 16, false⟩ d.walks })
              else match s.walk trb va fw rd wr with
                | .error f => (.fault f, s)
                | .ok (e, s1) => (s.usePte die acc e va fw rd wr, s1.updDie die fun d => { d with
                    walks := insWalk ⟨some (s.clock + 1), s.clock, core, asid, some e, va / 2 ^ e.size, false⟩ d.walks })

/-- The partition that holds a column. -/
def State.partOfCol (s : State) (c : Nat) : Nat :=
  (firstSome (fun x => if x.2.valid && x.2.cols.getLsbD c then some x.1 else none) s.parts).getD 0

/-- The partition of a column context: its launch's, on a lent column the borrower's (R282); for a firmware context its column's. -/
def State.partOf (s : State) (cc : Nat) : Nat :=
  if 128 ≤ cc && cc < 160 then s.partOfCol (ccCol cc) else ((s.ctxLaunch cc).map (·.part)).getD 0

/-- R280, R282: the columns of the partition of a column context: its own and those that it borrows; every column where it is not in use. -/
def State.partCols (s : State) (cc : Nat) : Nat :=
  let p := s.partOf cc
  if !(s.getPart p).valid then 2 ^ 32 - 1
  else (List.range 32).foldl (fun m c =>
    if (s.getPart p).cols.getLsbD c || ((s.getCol c).lendReg.getLsbD 63 && bits (s.getCol c).lendReg.toNat 48 5 == p) then m + 2 ^ c else m) 0

/-- R103, R104, R107, R280: the place that an access of a column context's core on a die reaches. -/
def State.resolve (s : State) (die cc : Nat) (acc : Acc) (trb va : Nat) (fw rd wr : Bool) : Tr × State :=
  let core := ccCol cc
  let w := window va
  match w with
  | .bad c => (.fault ⟨4, c⟩, s)
  | _ =>
    if !reaches acc w then (.fault ⟨4, 3⟩, s)
    else match w with
      | .bad c => (.fault ⟨4, c⟩, s)
      | .spad o => (.ok (spadLoc die core o) 1 8, s)
      | .quad o =>
        let (c, l) := quadPlace core o
        if s.partCols cc / 2 ^ c % 2 = 1 then (.ok (spadLoc die c l) 1 (if c = core then 8 else 14), s)
        else (.fault ⟨5, 5⟩, s)
      | .pod p a => (.pod p a, s)
      | .dev a => s.translate die core acc trb a fw rd wr

/-- Whether a place is a scratchpad byte. -/
def isSpad (loc : Nat) : Bool := loc ≥ 2 ^ 52
/-- The core key, bank and row of a scratchpad place (R106). -/
def locCore (loc : Nat) : Nat := (loc - 2 ^ 52) / 2 ^ 21
def locBank (loc : Nat) : Nat := (loc - 2 ^ 52) / 2 ^ 13 % 256
def locRow (loc : Nat) : Nat := (loc - 2 ^ 52) / 64 % 128
/-- Whether a place is host memory (R111). -/
def isHost (loc : Nat) : Bool := 2 ^ 51 ≤ loc && loc < 2 ^ 52

/-- The segments of an access: pieces of `n` bytes at `va` that cross no 128-byte line of the windows and no 64-KiB page. -/
def segments : Nat → Nat → Nat → List (Nat × Nat)
  | 0, _, _ => []
  | fuel + 1, va, n =>
    if n = 0 then []
    else
      let k := Nat.min n (128 - va % 128)
      (va, k) :: segments fuel (va + k) (n - k)

end Sys2Proof.Machine
end

