-- ==== Sys2Proof/Machine/Trace.lean ====
section
/-! DEFINITION. Trace records (R290 to R293). -/

namespace Sys2Proof.Machine

/-- A bundle address in the layout of TREC1 (R216): reel, iteration, byte offset. -/
def bundleAddr (reel iter off : Nat) : DWord := BitVec.ofNat 64 (reel % 2 ^ 16 * 2 ^ 48 + iter % 2 ^ 16 * 2 ^ 32 + off * 8 % 2 ^ 32)

/-- R290: the partition's trace buffer with a record placed, or dropped. -/
def State.traceRecord (s : State) (part : Nat) (rec : List Byte) : State :=
  let p := s.getPart part
  let base := p.trcbase.toNat
  if bits base 63 1 = 0 then s
  else
    let size := 2 ^ bits base 0 5
    let head := bits p.trchead.toNat 0 32
    let drops := bits p.trchead.toNat 32 32
    let tail := bits p.trctail.toNat 6 26 * 64
    let len := rec.length
    let wrap := head + len > size
    let at_ := if wrap then 0 else head
    let adv := if wrap then size - head + len else len
    let room := if tail = head then size else (tail + size - head) % size
    if adv > room then
      s.setPart part { p with trchead := BitVec.ofNat 64 (head + Nat.min (drops + 1) (2 ^ 32 - 1) * 2 ^ 32) }
    else
      (s.store (bits base 12 40 * 4096 + at_) rec).updPart part fun p =>
        { p with trchead := BitVec.ofNat 64 ((at_ + len) % size + drops * 2 ^ 32) }

/-- R290: a record of a column context received by the trace unit, which takes those of a clock in ascending column and context. -/
def State.traceFrom (s : State) (cc : Nat) (rec : List Byte) : State :=
  { s with traceQ := s.traceQ ++ [(cc, ((s.ctxLaunch cc).map (·.part)).getD 0, rec)] }

/-- A record placed among those of its clock. -/
def insRec (x : Nat × Nat × List Byte) : List (Nat × Nat × List Byte) → List (Nat × Nat × List Byte)
  | [] => [x]
  | y :: l => if y.1 ≤ x.1 then y :: insRec x l else x :: y :: l

/-- R290: the records of a clock written. -/
def State.flushTrace (s : State) : State :=
  (s.traceQ.foldl (fun l x => insRec x l) []).foldl (fun (s : State) x => s.traceRecord x.2.1 x.2.2) { s with traceQ := [] }

/-- R291: the header of a record of a column context. -/
def State.recHeader (s : State) (cc kind sub len die : Nat) (baddr : DWord) : List Byte :=
  leBytes 2 kind ++ leBytes 2 sub ++ leBytes 1 ((s.ctxLaunch cc).map (·.part) |>.getD 0) ++ leBytes 1 (ccCol cc) ++ leBytes 1 die ++
    leBytes 1 (ccCol cc) ++ leBytes 1 (cc % 4) ++ leBytes 1 0 ++ leBytes 2 len ++ leBytes 8 baddr.toNat ++
    leBytes 4 (s.getCc cc).scyc ++ leBytes 8 s.clock

/-- PRFCTL of a column context as its records use it: that of the lowest-numbered launch-live die (DESIGN CHOICE, log 28). -/
def State.prfctl (s : State) (cc : Nat) : Nat :=
  match s.liveOf cc with
  | d :: _ => (s.getCd (ccCk d cc)).prfctl.toNat
  | [] => 0

/-- The address of the bundle at a context's program counter, in the layout of TREC1; `iter` counts from 0. -/
def State.pcAddr (s : State) (cc iter : Nat) : DWord :=
  let c := (s.getCc cc).cs
  bundleAddr c.pc.reel iter c.pc.off

/-- The buffer that holds a launch's reel on a column. -/
def State.reelBuf (s : State) (col l r : Nat) : Option ReelBuf :=
  (s.getCol col).bufs.find? fun b => b.launch == l && b.reel == r

/-- R225: the target of a context's TRET is next. -/
def ColState.tretNext (c : ColState) : Bool := c.xfer.any fun x => x.target.isNone && x.delay == 0

/-- R225: the column state from which a context issues its next iteration. -/
def ColCtx.nextCs (c : ColCtx) : ColState := if c.cs.tretNext then c.dupCs else c.cs

/-- The bundle that a context issues next, where its reel has arrived. -/
def State.nextBundle (s : State) (cc : Nat) : Option Bundle :=
  let c := s.getCc cc
  let pc := c.nextCs.pc
  ((s.reelBuf (ccCol cc) c.launch pc.reel).filter (·.arrived)).bind fun b =>
    parseBundle ((b.data.drop pc.off).take (((b.data[pc.off]?).map bundleSize).getD 8 / 8))

/-- The address of the iteration that a context issues next, whose bundle's repeats may have begun. -/
def State.pcNow (s : State) (cc : Nat) : DWord :=
  let c := s.getCc cc
  let cs := c.nextCs
  let iter := if cs.rem = 0 then 0 else match s.nextBundle cc with
    | some b => b.repM1 + 1 - cs.rem
    | none => bits c.lastAddr.toNat 32 16 + 1
  bundleAddr cs.pc.reel iter cs.pc.off

/-- R291: the context as its record counts the iteration that it has not issued yet. -/
def State.countNext (s : State) (cc : Nat) : State :=
  s.updCc cc fun c => { c with scyc := if (s.nextBundle cc).any fun b => b.yieldRun.isSome then 1 else c.scyc + 1 }

/-- R291, R293: an event record of a context, where EVREC is set. It names the iteration that comes next, and counts it (DEDUCED, log 112). -/
def State.eventRecord (s : State) (cc sub die : Nat) : State :=
  if bits (s.prfctl cc) 2 1 = 1 then
    s.traceFrom cc ((s.countNext cc).recHeader cc 4 sub 1 die (s.pcNow cc) ++ leBytes 32 0)
  else s

/-- R292: the record of an accumulator. -/
def State.accRecord (s : State) (cc kind sub : Nat) (a : ProfAcc) (baddr : DWord) : State :=
  s.traceFrom cc
    (s.recHeader cc kind sub 6 (s.home (ccCol cc)) baddr ++
      (List.range 32).flatMap (fun p => leBytes 4 (SMap.get 0 a.fill p) ++ leBytes 4 (SMap.get 0 a.nops p)) ++
      (List.range 16).flatMap (fun r => leBytes 4 (SMap.get 0 a.stall r)) ++
      leBytes 8 a.iter ++ leBytes 8 a.clks ++ leBytes 8 a.first.toNat ++ leBytes 8 0)

/-- R289, R292: both accumulators of a context ended early by a freeze or a swap: partial records, which name the last iteration of each, and cleared; nothing is
counted before the next iteration. -/
def State.endAccs (s : State) (cc : Nat) : State :=
  let c := s.getCc cc
  let prf := s.prfctl cc
  let s := if bits prf 0 1 = 1 then s.accRecord cc 1 1 c.loop c.loop.last else s
  let s := if bits prf 1 1 = 1 then s.accRecord cc 2 1 c.rep c.rep.last else s
  s.updCc cc fun c => { c with loop := {}, rep := {}, profOff := true }

end Sys2Proof.Machine
end

