-- ==== Sys2Proof/Machine/Sched.lean ====
section
/-! DEFINITION. The choice of the context that a column issues: R91 within a queue, R250 among queues. -/

namespace Sys2Proof.Machine

/-- R249: the frequency of a class in tenths of a GHz. -/
def classTenths (k : Nat) : Nat := if k < 8 then 18 - 2 * k else 18
/-- R252: what an island clock at a frequency class counts of a contract's budget, in 1/280 of a reference clock. -/
def refUnits (k : Nat) : Nat := 280 * 18 / classTenths k

/-- The contexts of a column, in order, that are READY. -/
def State.readyCtxs (s : State) (col : Nat) : List Nat :=
  [0, 1, 2, 3].filter fun k => (s.getCc (ccKey col k)).st == .ready

/-- The queue of a column context's launch. -/
def State.ctxQueue (s : State) (cc : Nat) : Nat := ((s.ctxLaunch cc).map (·.queue)).getD 0

/-- R91: the READY context of a queue that the column takes next after context `last`. -/
def State.nextOf (s : State) (col q last : Nat) : Option Nat :=
  [last + 1, last + 2, last + 3, last].map (· % 4) |>.find? fun k =>
    (s.getCc (ccKey col k)).st == .ready && s.ctxQueue (ccKey col k) == q

/-- The queues that have a READY context on a column, each once. -/
def State.readyQueues (s : State) (col : Nat) : List Nat :=
  ((s.readyCtxs col).map fun k => s.ctxQueue (ccKey col k)).foldl (fun l q => insNat q l) []

/-- R252: the admitted contract of a queue that has budget left on a column: its deadline. -/
def State.deadline (s : State) (col q : Nat) : Option Nat :=
  let k := (s.getQueue q).contract
  let c := s.getContract k
  if k != 0 && c.st == 1 && SMap.get 0 c.spent col < 280 * c.c then some (c.period + c.t) else none

/-- R250: the rank of a queue on a column: smaller first. Contracted queues by deadline; then by class, the oldest first. -/
def State.rankKey (s : State) (col q : Nat) : Nat × Nat × Nat :=
  match s.deadline col q with
  | some d => (0, d, q)
  | none =>
    let k := (s.getQueue q).contract
    let cls := if k != 0 then 3 else (s.getQueue q).cls
    (cls + 1, SMap.get s.clock ((s.getCol col).ages) q, q)

/-- Lexicographic order of triples. -/
def lex3 (a b : Nat × Nat × Nat) : Bool :=
  a.1 < b.1 || (a.1 == b.1 && (a.2.1 < b.2.1 || (a.2.1 == b.2.1 && a.2.2 < b.2.2)))

/-- The queues in rank order. -/
def State.ranked (s : State) (col : Nat) : List Nat → List Nat
  | [] => []
  | q :: qs =>
    let r := s.ranked col qs
    let (a, b) := r.span fun x => lex3 (s.rankKey col x) (s.rankKey col q)
    a ++ q :: b

/-- R250: a queue's stated run on a column. -/
def State.queueRun (s : State) (col q : Nat) : Nat :=
  match s.nextOf col q (s.getCol col).last with
  | some k => (s.getCc (ccKey col k)).stated
  | none => 0

/-- R248: SLICE of a column's partition. -/
def State.slice (s : State) (cc : Nat) : Nat :=
  let p := ((s.ctxLaunch cc).map (·.part)).getD 0
  Nat.max 1 (bits (s.getPart p).arbctl.toNat 32 32)

/-- The ages that a column keeps: the clock from which each queue's age counts (R250). -/
def State.noteAges (s : State) (col : Nat) : State :=
  s.updCol col fun c => { c with ages := (s.readyQueues col).foldl (fun m q =>
    if m.any (fun x => x.1 == q) then m else SMap.put m q s.clock) c.ages }

/-- R90, R91: context `k` made ACTIVE; it issues from clock `from_`. -/
def State.activate (s : State) (col k from_ : Nat) : State :=
  (s.updCc (ccKey col k) fun c => { c with st := .active }).updCol col fun c =>
    { c with fromClk := Nat.max c.fromClk from_ }

/-- R250: a decision point of a column. -/
def State.decide (s : State) (col from_ : Nat) : State :=
  let s := s.noteAges col
  let qs := s.ranked col (s.readyQueues col)
  let c := s.getCol col
  match qs with
  | [] => s.updCol col fun c => { c with queue := none }
  | q0 :: _ =>
    let (q, left) := match qs.find? fun q => s.queueRun col q ≤ c.sleft with
      | some q => (q, c.sleft)
      | none => (q0, match s.nextOf col q0 c.last with
        | some k => s.slice (ccKey col k)
        | none => 1)
    match s.nextOf col q c.last with
    | none => s
    | some k =>
      let s := s.updCol col fun c => { c with queue := some q, sleft := left, ages := SMap.put c.ages q s.clock }
      let s := s.activate col k from_
      s.eventRecord (ccKey col k) 0x40 (s.home col)

/-- R91, R250: a context has left ACTIVE; the column chooses at once. -/
def State.leftActive (s : State) (col k from_ : Nat) : State :=
  let s := s.updCol col fun c => { c with last := k }
  match (s.getCol col).queue with
  | some q => match s.nextOf col q k with
    | some j => s.activate col j from_
    | none => s.decide col from_
  | none => s.decide col from_

/-- R250: an iteration of a yield bundle of context `k` has issued: a decision point at which the context counts as READY, and from which R91 counts
the contexts of another queue. For the queue of `k` the stated run of `k` itself counts, which keeps the column (DESIGN CHOICE, log 115: R91's order from `k` would
reach another context of that queue first). -/
def State.yieldPoint (s : State) (col k from_ : Nat) : State :=
  let s := (s.updCc (ccKey col k) fun c => { c with st := .ready }).updCol col fun c => { c with last := k }
  let s0 := s.noteAges col
  let qs := s0.ranked col (s0.readyQueues col)
  let c := s0.getCol col
  let mine := s0.ctxQueue (ccKey col k)
  let runOf := fun q => if q = mine then (s0.getCc (ccKey col k)).stated else s0.queueRun col q
  match qs with
  | [] => s0
  | q0 :: _ =>
    let (q, left) := match qs.find? fun q => runOf q ≤ c.sleft with
      | some q => (q, c.sleft)
      | none => (q0, s0.slice (ccKey col k))
    let j := if q = mine then some k else s0.nextOf col q c.last
    match j with
    | none => s0
    | some j =>
      let s := s0.updCol col fun c => { c with queue := some q, sleft := left, ages := SMap.put c.ages q s0.clock }
      let s := if j = k then s.updCc (ccKey col k) fun c => { c with st := .active }
        else s.activate col j from_
      s.eventRecord (ccKey col j) 0x40 (s.home col)

end Sys2Proof.Machine
end

