-- ==== Sys2Proof/Machine/Flags.lean ====
section
/-! DEFINITION. The flags: VFLAGS (R43), XCTL (R80), and the registers of a working set as operands. -/

namespace Sys2Proof.Machine

/-- R43: flags ORed into a group's VFLAGS. -/
def WorkSet.orFlags (w : WorkSet) (grp : Nat) (fl : Word) : WorkSet :=
  if fl = 0#32 then w else { w with vflags := SMap.upd 0#32 w.vflags grp fun x => x ||| fl }

/-- R80: XCTL.LATV set. -/
def WorkSet.setLatv (w : WorkSet) : WorkSet := { w with xctl := w.xctl ||| 1#32 }
/-- R80: XCTL.LATTRAP. -/
def WorkSet.lattrap (w : WorkSet) : Bool := w.xctl.getLsbD 1

/-- A register of a working set as 512 bits; S0 reads as zero (R89). -/
def WorkSet.rd (w : WorkSet) (file : RFile) (n : Nat) : Vec :=
  match file with
  | .s => if n = 0 then 0#512 else (SMap.get 0#64 w.s n).setWidth 512
  | .v => SMap.get 0#512 w.v n
  | .p => (SMap.get 0#16 w.p n).setWidth 512
  | .f => if w.f.getLsbD n then 1#512 else 0#512
  | .e => 0#512

/-- The bits of `mask` of `old` replaced by those of `new`. -/
def mergeVec (old new mask : Vec) : Vec := (old &&& ~~~mask) ||| (new &&& mask)

/-- A register of a working set with the bits of `mask` written; a write to S0 is discarded. -/
def WorkSet.wr (w : WorkSet) (file : RFile) (n : Nat) (v mask : Vec) : WorkSet :=
  let x := mergeVec (w.rd file n) v mask
  match file with
  | .s => if n = 0 then w else { w with s := SMap.set 0#64 w.s n (x.setWidth 64) }
  | .v => { w with v := SMap.set 0#512 w.v n x }
  | .p => { w with p := SMap.set 0#16 w.p n (x.setWidth 16) }
  | .f => { w with f := if x.getLsbD 0 then w.f ||| (1#8 <<< n) else w.f &&& ~~~(1#8 <<< n) }
  | .e => w

/-- A landing result written into a working set, with its flags. -/
def WorkSet.land (w : WorkSet) (p : Pend) : WorkSet := (w.wr p.file p.idx p.val p.mask).orFlags p.grp p.vfl

end Sys2Proof.Machine
end

