-- ==== Sys2Proof/Machine/Operands.lean ====
section
/-! DEFINITION. Operands: what an operation reads and writes on one die (R52, R53, R58, R64, R66, R79 to R81). Every reading takes the
state of the issue under way, whose cursor says where it acts, and gives the state with what it asks of the column. -/

namespace Sys2Proof.Machine

/-- The column-context key of the cursor. -/
def State.cc0 (s : State) : Nat := ccKey s.cur.col s.cur.ctx
/-- The key on a die of the cursor's context. -/
def State.ck0 (s : State) (d : Nat) : Nat := ccCk d s.cc0
/-- The cursor's context on a die. -/
def State.ctxD (s : State) (d : Nat) : CtxDie := s.getCd (s.ck0 d)
def State.updD (s : State) (d : Nat) (f : CtxDie → CtxDie) : State := s.updCd (s.ck0 d) f
/-- The core of the cursor's column on a die. -/
def State.coreD (s : State) (d : Nat) : Core := s.getCore (coreKey d s.cur.col)
def State.updCoreD (s : State) (d : Nat) (f : Core → Core) : State := s.updCore (coreKey d s.cur.col) f

/-- Whether a die is launch-live for the cursor's context (R87); for the firmware context, live. -/
def State.onDie (s : State) (d : Nat) : Bool :=
  s.dieLive d && (s.cur.ctx == 4 || match s.ctxLaunch s.cc0 with
    | some l => l.live / 2 ^ d % 2 == 1
    | none => false)

/-- R63: the dies on which an operation is enabled. -/
def State.enabled (s : State) (h : Hdr) : List Nat := allDies.filter fun d => h.dm.getLsbD d && s.onDie d

/-! ### What an operation asks of the column -/

/-- R216: the table names no field but TREC1 for codes 0x09 and 0x0A, and no TREC3 for 0x05: the others read zero. -/
def FRec.fields (r : FRec) : FRec :=
  if r.code == 9 || r.code == 10 then { r with r0 := 0#64, r2 := 0#64, r3 := 0#64 }
  else if r.code == 5 then { r with r3 := 0#64 }
  else r

/-- A synchronous fault on a die, at the slot of the cursor, with TREC1 filled in (R216). -/
def State.fault (s : State) (d : Nat) (r : FRec) : State :=
  { s with att := { s.att with faults := s.att.faults ++ [(d, { r.fields with slot := s.cur.slot, r1 := s.cur.bundle })] } }
/-- R78: an illegal operation. -/
def State.illegal (s : State) (d : Nat) : State := s.fault d { code := 2 }
/-- R104, R105, R118, R126: a fault of an access at an address. -/
def State.accFault (s : State) (d : Nat) (f : AFault) (va idx : Nat) : State :=
  s.fault d { code := f.code, cause := f.cause, r0 := BitVec.ofNat 64 va, r3 := BitVec.ofNat 64 idx }
/-- R287: the iteration stalls for a reason; the lowest-numbered one counts. -/
def State.stallFor (s : State) (r : Nat) : State :=
  { s with att := { s.att with stall := some (match s.att.stall with
    | some x => Nat.min x r
    | none => r) } }
/-- R92: the iteration is blocked. -/
def State.blockFor (s : State) (r : BlkReason) : State :=
  { s with att := { s.att with block := some (s.att.block.getD r) } }
/-- R218: the iteration is an implicit splice. -/
def State.splices (s : State) : State := { s with att := { s.att with splice := true } }

/-! ### Registers -/

/-- The writes to a register of the context in flight when the iteration is tried. -/
def CtxDie.inFlight (c : CtxDie) (clk : Nat) (file : RFile) (n : Nat) : List Pend :=
  c.pend.filter fun p => p.file == file && p.idx == n && p.issued < clk && p.mask != 0#512

/-- R80: the bits of a register that an early read takes from the older value: each 32-bit lane of a V register and each bit of a P register by a free
value of its own, an S or F register whole by one (DESIGN CHOICE, log 5). -/
def earlyMask (ctr : Nat) (file : RFile) : Vec :=
  match file with
  | .v => laneMask fun n => Config.earlyOld (ctr + n)
  | .p => BitVec.ofNat 512 ((List.range 16).foldl (fun m n => if Config.earlyOld (ctr + n) then m + 2 ^ n else m) 0)
  | _ => if Config.earlyOld ctr then BitVec.allOnes 512 else 0#512

/-- R80: an early read: in each lane the old value or the new value whole. With several writes in flight each is seen or not, in the order of their
issue (DEDUCED, log 24). -/
def earlyValue (file : RFile) : Nat → Vec → List Pend → Vec
  | _, old, [] => old
  | ctr, old, p :: ps => earlyValue file (ctr + 16) (mergeVec (mergeVec old p.val p.mask) old (earlyMask ctr file)) ps

/-- R79 to R81: a register read by an operation. -/
def State.rdReg (s : State) (d : Nat) (file : RFile) (n : Nat) : Vec × State :=
  let c := s.ctxD d
  if file = .s ∧ n = 0 then (0#512, s)
  else match c.inFlight s.clock file n with
    | [] => (c.ws.rd file n, s)
    | p :: ps =>
      if (p :: ps).any (·.sb) then (c.ws.rd file n, s.stallFor 0)
      else if c.ws.lattrap then
        (c.ws.rd file n, s.fault d { code := 0x0B, cause := p.lat, r2 := BitVec.ofNat 64 n })
      else
        (earlyValue file s.freeCtr (c.ws.rd file n) (p :: ps),
          { s.updD d fun c => { c with ws := c.ws.setLatv } with freeCtr := s.freeCtr + 16 * (p :: ps).length })

/-- An S register read. -/
def State.rdS (s : State) (d : Nat) (r : Reg) : Nat × State :=
  let (v, s) := s.rdReg d .s r.n
  (v.toNat, s)

/-- What a slot position keeps on a die. -/
def State.slotD (s : State) (d : Nat) : SlotDie := SMap.get {} (s.ctxD d).ws.slots s.cur.slot
def State.updSlotD (s : State) (d : Nat) (f : SlotDie → SlotDie) : State :=
  s.updD d fun c => { c with ws := { c.ws with slots := SMap.upd {} c.ws.slots s.cur.slot f } }

/-- R58: what a latch supplies to a field of a file: a P operand takes the low 16 bits (DEDUCED, log 44). -/
def latchVal (file : RFile) (v : Vec) : Vec := if file = .p then v &&& 0xFFFF#512 else v

/-- R58: a V or P source field, whose lowest bit is `pos`: the operand's value, and the latch afterwards. -/
def State.rdSrc (s : State) (d pos : Nat) (file : RFile) (r : Reg) : Vec × State :=
  if r.isLatch then
    match SMap.get none (s.slotD d).hold pos with
    | some v => (latchVal file v, s)
    | none => (0#512, s.illegal d)
  else
    let (v, s) := s.rdReg d file r.n
    (v, s.updSlotD d fun x => { x with hold := SMap.set none x.hold pos (if r.hold then some v else none) })

/-- R58: a register field without HOLD that is no V or P source empties its latch. -/
def State.emptyHold (s : State) (d pos : Nat) : State := s.updSlotD d fun x => { x with hold := SMap.set none x.hold pos none }

/-- R81: a scoreboarded write to the register is pending: the iteration stalls. -/
def State.wrCheck (s : State) (d : Nat) (file : RFile) (n : Nat) : State :=
  if ((s.ctxD d).inFlight s.clock file n).any (·.sb) then s.stallFor 0 else s

/-- R79, R62: a result that lands `lat` clocks after issue, with its flags and the operation's signal. A result of S0 is discarded, and
its signal is given. -/
def State.result (s : State) (d : Nat) (h : Hdr) (lat : Nat) (file : RFile) (n : Nat) (v mask : Vec) (fl grp : Nat) (sig : Bool) :
    State :=
  (s.wrCheck d file n).updD d fun c => { c with pend := c.pend ++ [
    { due := some (s.clock + lat), slot := s.cur.slot, issued := s.clock, sb := false, file := file, idx := n, val := v,
      mask := if file = .s ∧ n = 0 then 0#512 else mask, vfl := BitVec.ofNat 32 fl, grp := grp,
      sigSem := if sig then h.sigSem.toNat else 0, sigInc := h.sigInc.toInt, pre := false, uid := 0, lat := lat, bundle := s.cur.bundle }] }

/-- R81: a scoreboarded result, landing at `due`, or when the reply to `uid` arrives, which `ty` extends; `acc` is one more than the kind of the page of
an access that is still to be performed, `lat` the least clocks to its reply where that is no message of the pod, `ord` the fences it makes. -/
def State.scoreboard (s : State) (d : Nat) (h : Hdr) (due : Option Nat) (n : Nat) (v : DWord) (uid : Nat) (sig : Bool) (ty : Ty := .b)
    (acc : Nat := 0) (lat : Nat := 0) (ord : Nat := 0) (abort : Bool := false) : State :=
  (s.wrCheck d .s n).updD d fun c => { c with pend := c.pend ++ [
    { due := due, slot := s.cur.slot, issued := s.clock, sb := true, file := .s, idx := n, val := v.setWidth 512,
      mask := if n = 0 then 0#512 else BitVec.allOnes 512, vfl := 0#32, grp := 0,
      sigSem := if sig then h.sigSem.toNat else 0, sigInc := h.sigInc.toInt, pre := false, uid := uid, lat := lat, ty := ty,
      bundle := s.cur.bundle, acc := acc, ord := ord, abort := abort }] }

/-- R67: the lanes on which a predicated operation acts. -/
def State.lanes (s : State) (d : Nat) (p : Pr) : (Nat → Bool) × State :=
  if p.en then
    let (v, s) := s.rdReg d .p p.reg.toNat
    (fun n => (bits v.toNat n 1 == 1) != p.inv, s)
  else (fun _ => true, s)

/-! ### Addresses -/

/-- R85: the live rank of a die in the cursor's launch. -/
def State.rankOf (s : State) (d : Nat) : Nat := (allDies.filter fun x => x < d && s.onDie x).length

/-- R66: the die term. -/
def State.dieTerm (s : State) (d : Nat) (stride : Int) (dts : Bool) : Int :=
  stride * (if dts then s.rankOf d else d : Nat)

/-- R53, R66: an address operand whose base field's lowest bit is `pos`: S[base] + `add` at an issue from a slot word, which is latched;
the latched address advanced by `step` at a re-issue. -/
def State.address (s : State) (d pos : Nat) (base : Reg) (add step : Int) : Nat × State :=
  if s.cur.first then
    let (v, s) := s.rdS d base
    let a := ofSigned 64 ((v : Int) + add)
    (a, s.updSlotD d fun x => { x with addr := SMap.set 0#64 x.addr pos (BitVec.ofNat 64 a) })
  else
    let a := ofSigned 64 (((SMap.get 0#64 (s.slotD d).addr pos).toNat : Int) + step)
    (a, s.updSlotD d fun x => { x with addr := SMap.set 0#64 x.addr pos (BitVec.ofNat 64 a) })

/-- R68: the address of a MEM operation. -/
def State.memAddr (s : State) (d : Nat) (f : FMEM) : Nat × State :=
  s.address d 91 f.base (f.offset.toInt + s.dieTerm d f.dstride.toInt f.dts) f.step.toInt

/-! ### Signals and waits (R62) -/

/-- A signal that lands on this clock at a core's semaphore. -/
def State.signal (s : State) (core sem : Nat) (inc : Int) : State :=
  if sem = 0 then s
  else s.updCore core fun c => { c with sig := SMap.upd {} c.sig sem fun a => { a with add := a.add + inc } }

/-- The signal of an operation that completes at its issue clock. -/
def State.signalNow (s : State) (d : Nat) (h : Hdr) : State :=
  s.signal (coreKey d s.cur.col) h.sigSem.toNat h.sigInc.toInt

/-- The signal of an operation that completes at a later clock. -/
def State.signalAt (s : State) (d : Nat) (h : Hdr) (due : Nat) : State :=
  if h.sigSem = 0#8 then s
  else s.updCoreD d fun c => { c with sigs := c.sigs ++ [{ due := due, ck := s.ck0 d, sem := h.sigSem.toNat, inc := h.sigInc.toInt }] }

/-- The count of a semaphore; semaphore 0 reads as 0. -/
def Core.semCount (c : Core) (n : Nat) : Nat := if n = 0 then 0 else SMap.get 0 c.sem n

/-- R62, R92: the wait of an operation on a die. -/
def State.waitOn (s : State) (d : Nat) (h : Hdr) : State :=
  if h.waitTh.toNat ≤ (s.coreD d).semCount h.waitSem.toNat then s else s.blockFor .wait

/-- One operation on each die where it is enabled: its wait, then what it does. An operation that signals makes its iteration a
splice (R218). -/
def State.onDies (s : State) (h : Hdr) (f : Nat → State → State) : State :=
  let ds := s.enabled h
  let s := ds.foldl (fun s d => f d (s.waitOn d h)) s
  if h.sigSem != 0#8 && !ds.isEmpty then s.splices else s

end Sys2Proof.Machine
end

