-- ==== Sys2Proof/Machine/Reel.lean ====
section
/-! DEFINITION. Reel buffers (R246, R247): starting a load, and what lands when it arrives. -/

namespace Sys2Proof.Machine

/-- The TRBASE of a column context: the lowest launch-live die's. -/
def State.ccTrbase (s : State) (cc : Nat) : Nat :=
  match s.liveOf cc with
  | d :: _ => (s.getCd (ccCk d cc)).trbase.toNat
  | [] => 0

/-- The address and length in doublewords of a kernel's reel. -/
def Kernel.reel (k : Kernel) (r : Nat) : Nat × Nat := k.reels.getD r (0, 0)

/-- The kernel of a column context's launch. -/
def State.kernelOf (s : State) (cc : Nat) : Option Kernel := (s.ctxLaunch cc).map (·.kernel)

/-- R247: the clocks that the load of a reel takes, none where it waits for the die's walk queue (R122). A load whose first byte faults meets its fault at once
(DESIGN CHOICE, log 99: the rule gives no time). -/
def State.reelClocks (s : State) (cc addr len : Nat) : Option Nat × State :=
  let (tr, s) := s.resolve (s.home (ccCol cc)) cc .cp (s.ccTrbase cc) addr false true false
  (match tr with
    | .ok _ _ lat => some (lat + (ceilDiv (8 * len) 64 - 1))
    | .stall => none
    | _ => some 0, s)

/-- R247: the load of a reel started into the launch's buffer that does not hold reel `cur`, unless a buffer holds or is loading it. -/
def State.startReel (s : State) (cc cur target : Nat) : State :=
  match s.kernelOf cc with
  | none => s
  | some k =>
    let l := (s.getCc cc).launch
    let bufs := (s.getCol (ccCol cc)).bufs
    if bufs.any fun b => b.launch == l && b.reel == target then s
    else
      let (n, s) := s.reelClocks cc (k.reel target).1 (k.reel target).2
      let nb : ReelBuf := { launch := l, reel := target, data := [], due := s.clock + n.getD 0, poison := [], waits := n.isNone }
      s.updCol (ccCol cc) fun c => { c with bufs :=
        (c.bufs.filter fun b => b.launch != l || b.reel == cur || (c.bufs.filter fun x => x.launch == l).length < 2) ++ [nb] }

/-- What reading a reel answers: its bytes and its poisoned 64-byte pieces, a fault (code, cause, address), or a wait for the walk queue (R122). -/
inductive ReelR where
  | ok (data : List Byte) (poison : List Nat)
  | fault (code cause va : Nat)
  | wait
  deriving DecidableEq, Repr

/-- A reel read piece by piece through the translation of a column context on a die. -/
def State.readReel (s : State) (die cc : Nat) : Nat → Nat → Nat → List Byte → List Nat → ReelR × State
  | 0, _, _, acc, ps => (.ok acc ps, s)
  | n + 1, i, va, acc, ps =>
    let (tr, s) := s.resolve die cc .cp (s.ccTrbase cc) va false true false
    match tr with
    | .ok loc _ _ =>
      s.readReel die cc n (i + 1) (va + 64) (acc ++ s.readBytes loc 64) (if s.poisoned loc 64 then ps ++ [i] else ps)
    | .fault f => (.fault f.code f.cause va, s)
    | .pod _ _ => (.fault 4 7 va, s)
    | .stall => (.wait, s)

/-- The doublewords of bytes. -/
def dwords : Nat → List Byte → List DWord
  | 0, _ => []
  | n + 1, l => BitVec.ofNat 64 (leNat (l.take 8)) :: dwords n (l.drop 8)

/-- A context of a column that belongs to a launch. -/
def State.ccOfLaunch (s : State) (col l : Nat) : Option Nat :=
  ([0, 1, 2, 3].map (ccKey col)).find? fun cc => (s.getCc cc).launch == l && (s.getCc cc).st != .free

/-- R247: the last byte of a buffer's reel lands; a load that waited for the walk queue goes on. -/
def State.reelLands (s : State) (col i : Nat) : State :=
  match (s.getCol col).bufs[i]? with
  | none => s
  | some b =>
    if b.arrived || s.clock < b.due then s
    else match s.ccOfLaunch col b.launch, s.launch? b.launch with
      | some cc, some l =>
        let (addr, len) := l.kernel.reel b.reel
        if b.waits then
          let (n, s) := s.reelClocks cc addr len
          match n with
          | some n => s.updCol col fun c => { c with bufs := c.bufs.set i { b with due := s.clock + n, waits := false } }
          | none => s
        else
          let (r, s) := s.readReel (s.home col) cc (ceilDiv (8 * len) 64) 0 addr [] []
          match r with
          | .ok d ps => s.updCol col fun c => { c with bufs := c.bufs.set i { b with data := dwords len d, poison := ps, arrived := true } }
          | .fault code cause va => s.updCol col fun c => { c with bufs := c.bufs.set i { b with bad := some (code, cause, va), arrived := true } }
          | .wait => s
      | _, _ => s.updCol col fun c => { c with bufs := c.bufs.eraseIdx i }

end Sys2Proof.Machine
end

