-- ==== Sys2Proof/Machine/Remote.lean ====
section
/-! DEFINITION. Pod and host accesses as the issuing package makes them (R260 to R265). -/

namespace Sys2Proof.Machine

/-- R258: this package's number. -/
def State.pkgNum (s : State) : Nat := if s.podform.getLsbD 31 then bits s.podform.toNat 0 6 else 0

/-- R103: the first device address of the window that no package maps, which the pod window does not reach either (DEDUCED, log 86). -/
def podBound : Nat := 0x1FF0000000000

/-- R262: the die whose walker and second-level TLB serve the pod's requests: the lowest LIVE one (DESIGN CHOICE, log 29). -/
def State.podDie (s : State) : Nat := s.liveDies.headD 0

/-- R121, R262: the place that a pod address reaches in this package's own storage, by the entry PODSPC[index], under R116 to R118: by a translation of the
TLB that serves the pod, else by a walk, which fills that TLB at once (DESIGN CHOICE, log 29). -/
def State.podTranslate (s : State) (index a : Nat) (fw rd wr : Bool) : Tr × State :=
  let r := (SMap.get 0#64 s.podspc index).toNat
  if a ≥ podBound then (.fault ⟨4, 2⟩, s)
  else if bits r 0 1 = 0 then (.fault ⟨4, 4⟩, s)
  else match (s.getDie s.podDie).l2.find? fun e => e.covers (bits r 52 12) a && (!wr || e.dirty) with
    | some e => (s.usePte 0 .cp e a fw rd wr, s)
    | none => match s.walk r a fw rd wr with
      | .error f => (.fault f, s)
      | .ok (e, s1) => (s1.usePte 0 .cp e a fw rd wr, s1.updDie s1.podDie fun d => { d with l2 := tlbFill 16384 d.l2 e })

/-- R264: the clocks from IO1 to the socket that holds a place; for a place in another package, to the nearest stack, the least that it can be
(DEDUCED, log 87). -/
def State.headIo1 (s : State) (t : Tr) : Nat :=
  match t with
  | .ok loc _ _ => if isHost loc then head 17 16 else head 17 (8 + (s.stackPlace loc).1)
  | _ => head 17 15

/-- The number of messages queued on a link. -/
def State.linkQueued (s : State) (n : Nat) : Nat := (s.getLink n).queued.length

/-- R260: the link that a message originated here takes: that of a message to the same package and line which still awaits its answer, where it is
UP (DEDUCED, log 97: the rule does not say what a pinned message does whose link is down); else among the links of LINKS that are UP the one with the fewest messages queued, the lowest of these. -/
def State.route (s : State) (dst addr : Nat) : Option Nat :=
  match s.podOut.find? fun x => x.2.dst == dst && x.2.addr / 64 == addr / 64 && (s.getLink x.1).up with
  | some x => some x.1
  | none =>
    let e := (SMap.get 0#64 s.podrt dst).toNat
    let up := (List.range 16).filter fun n => bits e n 1 == 1 && (s.getLink n).up
    match up with
    | [] => none
    | n :: ns => some (ns.foldl (fun m x => if s.linkQueued x < s.linkQueued m then x else m) n)

/-- R262: whether a pod access of a partition can be sent: the fault, if not. Every pod message passes IO1 (R264), so one that meets a dead
IO1 is unroutable (DEDUCED, log 32). -/
def State.podFault (s : State) (part pkg a : Nat) : Option AFault :=
  let ps := (s.getPart part).podps.toNat
  if bits ps 63 1 = 0 then some ⟨4, 4⟩
  else if (s.getSocket 17).st != .live then some ⟨4, 7⟩
  else if pkg = s.pkgNum then none
  else if !s.podform.getLsbD 31 || bits (SMap.get 0#64 s.podrt pkg).toNat 63 1 = 0 then some ⟨4, 7⟩
  else if (s.route pkg a).isNone then some ⟨4, 7⟩
  else none

/-- R262: the pod space index of a partition. -/
def State.podIndex (s : State) (part : Nat) : Nat := bits (s.getPart part).podps.toNat 0 6

/-- The data bytes of a message. -/
def podData : PodBody → Nat
  | .write data _ => data.length
  | .reply data _ => data.length
  | .atomic _ wide _ _ vs => (if wide then 8 else 4) * vs.length
  | .contribution _ _ _ _ _ c => c.data.length
  | _ => 0

/-- R259: the bytes of the messages that a body takes on a link, 64 of data at most to each: a header flit of 16, and a flit of 32 for each 32 bytes of
data (log 94). -/
def podSizes (b : PodBody) : List Nat :=
  (List.range (Nat.max 1 (ceilDiv (podData b) 64))).map fun i => 16 + 32 * ceilDiv (Nat.min 64 (podData b - 64 * i)) 32

/-- R259: the flits of a message. -/
def podFlits (b : PodBody) : Nat := (podSizes b).foldl (fun n k => n + 1 + k / 32) 0

/-- R259, R272: a message queued on a link; its flits count against the key of the direction. -/
def Link.queue (l : Link) (b : PodBody) : Link :=
  { l with queued := l.queued ++ podSizes b, tx := { l.tx with flits := l.tx.flits + podFlits b } }

/-- A message of this package, or one that it forwards, leaves on a link. -/
def State.podEmit (s : State) (link : Nat) (m : PodMsg) : State :=
  { s.updLink link (fun l => l.queue m.body) with events := s.events ++ [.podSent link m] }

/-- R260: a message to another package sent on the link that it takes. -/
def State.podOnLink (s : State) (n : Nat) (m : PodMsg) : State :=
  { s with podOut := s.podOut ++ [(n, m)] }.updLink n fun l => l.queue m.body

/-- What stands for the link of a message that nothing can take: it is unroutable, and lost at the end of the clock (R260, R262). -/
def noLink : Nat := 16

/-- R260, R262: a pod message sent by a die of this package at clock `at_` under a pod space index. One to the package itself reaches the controller of its
place after the time of R264. One for which there is no way is unroutable. -/
def State.podSendIdx (s : State) (die idx pkg a uid at_ : Nat) (body : PodBody) (fw : Bool) : State :=
  let m : PodMsg := { src := s.pkgNum, dst := pkg, index := idx, addr := a, uid := uid, body := body, fw := fw }
  if (s.getSocket 17).st != .live then { s with podOut := s.podOut ++ [(noLink, m)] }
  else if pkg = s.pkgNum then
    let (t, _) := s.podTranslate idx a fw true false
    let out := head die 17 + s.headIo1 t
    { s with podIn := s.podIn ++ [(at_ + out, out, m)] }
  else match s.route pkg a with
    | some n => s.podOnLink n m
    | none => { s with podOut := s.podOut ++ [(noLink, m)] }

/-- The message of an access of a partition. -/
def State.podSend (s : State) (die part pkg a uid at_ : Nat) (body : PodBody) (fw : Bool := false) : State :=
  s.podSendIdx die (s.podIndex part) pkg a uid at_ body fw

/-- R190: what a posted write of an engine command is known by: the command, the semaphore at which its signal counts, its copy channel plus one
and its identifier, and the clock at which its signal for this write landed, where it has. -/
structure Poster where
  cmd : Nat := 0
  sem : Nat := 0
  chan : Nat := 0
  ident : Nat := 0
  sigClk : Option Nat := none
  deriving DecidableEq, Repr

/-- The kind of the page that a pod address reaches; a free value for one of another package, whose tables stand there (DESIGN CHOICE, log 88). -/
def State.podKind (s : State) (part pkg a : Nat) (fw rd wr : Bool) : Nat :=
  if pkg = s.pkgNum then
    match (s.podTranslate (s.podIndex part) a fw rd wr).1 with
    | .ok _ kind _ => kind
    | _ => 1
  else
    let k := (Config.farKind pkg (s.podIndex part) (a / 2 ^ 16)).toNat
    if k = 3 then 1 else k

/-- R263: a posted write to pod memory, whose loss raises `r`, from column context `cc`; it lands when IO1 accepts it. -/
def State.podWrite (s : State) (die cc pkg a va at_ : Nat) (data : List Byte) (poison : Bool) (r : FRec) (w : Poster := {}) : State :=
  let (u, s) := s.fresh
  let fw : Bool := 128 ≤ cc && cc < 160
  let s : State := { s with posted := s.posted ++ [
    { uid := u, cc := cc, launch := (s.getCc cc).launch, die := die, addr := va, host := false, land := at_ + head die 17, due := none, frec := r,
      issued := s.clock, kind := s.podKind (s.partOf cc) pkg a fw false true, cmd := w.cmd, sem := w.sem, chan := w.chan, ident := w.ident,
      sigClk := w.sigClk }] }
  s.podSend die (s.partOf cc) pkg a u at_ (.write data poison) fw

/-- R263: a posted write to host memory of bytes with their poison: it is performed when it lands (DESIGN CHOICE, log 1: the host sets the time). -/
def State.hostWrite (s : State) (die cc va loc kind at_ : Nat) (data : List (Byte × Bool)) (w : Poster := {}) : State :=
  let (u, s) := s.fresh
  let land := at_ + head die 16
  let now : Bool := land ≤ s.clock
  let s := if now then s.storeP loc data else s
  { s with posted := s.posted ++ [
    { uid := u, cc := cc, launch := (s.getCc cc).launch, die := die, addr := va, host := true, land := land, due := some (land + head 16 die),
      frec := { code := 0 }, issued := s.clock, kind := kind, cmd := w.cmd, sem := w.sem, chan := w.chan, ident := w.ident, sigClk := w.sigClk,
      loc := loc, data := if now then [] else data }] }

/-- R263: the writes to host memory that land by this clock, performed in their order. -/
def State.hostLand (s : State) : State :=
  let ps := s.posted.filter fun p => !p.data.isEmpty && p.land ≤ s.clock
  ps.foldl (fun (s : State) p => s.storeP p.loc p.data)
    { s with posted := s.posted.map fun p => if p.land ≤ s.clock then { p with data := [] } else p }

/-! ### Accesses that are still to be performed (R191, R193 to R195) -/

/-- Whether a message is a request, and the bytes that it reaches. -/
def bodyBytes : PodBody → Option Nat
  | .write data _ => some data.length
  | .read n => some n
  | .atomic _ wide _ _ _ => some (if wide then 8 else 4)
  | _ => none

/-- R193: the reads of a context on a die that are still to be performed: the clock of issue, the kind of the page, and the fences that order it. -/
def CtxDie.openReads (c : CtxDie) : List (Nat × Nat × Nat) :=
  ((c.pend.filter fun p => p.acc != 0 && p.due.isNone).map fun p => (p.issued, p.acc - 1, p.ord)) ++
    (c.recs.filter fun r => r.due.isNone).map fun r => (r.issued, 1, r.ord)

/-- R186: the accesses of a context to the local scratchpad that the envelope unit or the slate bus has still to perform, with the stores that a fence holds: the
clock of issue, whether it writes, and the fences that order it. Their kind is RC. -/
def State.openSpad (s : State) (ck : Nat) : List (Nat × Bool × Nat) :=
  let k := s.getCore (ckCore ck)
  let saves := fun (i : Instr) => match i with
    | .esave _ _ => true
    | _ => false
  ((k.evq.filter fun e => e.ck == ck && !e.locks.isEmpty).map fun e => (e.issued, saves e.op, e.ord)) ++
    ((k.blat.filter fun b => b.ck == ck).map fun b => (b.issued, true, b.ord)) ++ (s.getCd ck).late.map fun _ => (0, true, 7)

/-- The posted writes of a context on a die, with those of engine commands of it. -/
def State.postedOf (s : State) (ck : Nat) : List Posted := s.posted.filter fun p => p.cc < 160 && ccCk p.die p.cc == ck

/-- R190: whether a context has observed a write of an engine command: an operation waited on the command's semaphore after the signal landed, or
CPDONEn was read after it passed the command. -/
def CtxDie.observed (c : CtxDie) (p : Posted) : Bool :=
  p.cmd == 0 || (p.sem != 0 && p.sigClk.any fun t => decide (t + 1 < SMap.get 0 c.waited p.sem)) ||
    (p.chan != 0 && (let x := SMap.get (0, 0) c.seen (p.chan - 1)
      x.1 != 0 && decide ((x.2 + 2 ^ 32 - p.ident % 2 ^ 32) % 2 ^ 32 < 2 ^ 31)))

/-- R193, R198: whether a posted write is still to be performed as this package sees it: it has not landed, or it is on its way to a place of
this package. -/
def State.unperformed (s : State) (p : Posted) : Bool :=
  Nat.blt s.clock p.land || s.podIn.any fun x => x.2.2.src == s.pkgNum && x.2.2.uid == p.uid && (bodyBytes x.2.2.body).isSome

/-- R193: the writes of a context on a die, its own and those of commands that it has observed, that are still to be performed. -/
def State.openWrites (s : State) (ck : Nat) : List Posted :=
  (s.postedOf ck).filter fun p => (s.getCd ck).observed p && s.unperformed p

/-- Whether an access that a fence has marked `ord` holds a later event: an access (`acc`), a write or a signal (`wr`). -/
def ordHolds (acc wr : Bool) (ord : Nat) : Bool := (acc && bits ord 0 1 == 1) || (wr && bits ord 1 1 == 1) || bits ord 2 1 == 1

/-- R194: whether a later event of a context on a die is held for an access issued before clock `t` that a fence orders before it. -/
def State.heldFor (s : State) (ck t : Nat) (acc wr : Bool) : Bool :=
  ((s.getCd ck).openReads.any fun r => r.1 < t && ordHolds acc wr r.2.2) ||
    ((s.openWrites ck).any fun p => p.issued < t && ordHolds acc wr p.ord) ||
    (s.openSpad ck).any fun a => a.1 < t && ordHolds acc wr a.2.2

/-- R194: whether an event of the iteration under way is held. The loads of the vector slots do not wait for the other slots of their own iteration
(DESIGN CHOICE, log 89). -/
def State.held (s : State) (ck : Nat) (acc wr : Bool) : Bool := s.heldFor ck s.clock acc wr

/-- R193, R195: whether a release must wait for an access of an earlier iteration that is still to be performed. -/
def State.relHeld (s : State) (ck : Nat) : Bool :=
  ((s.getCd ck).openReads.any fun r => r.1 < s.clock && r.2.1 != 2) || ((s.openWrites ck).any fun p => p.issued < s.clock && p.kind != 2) ||
    (s.openSpad ck).any fun a => a.1 < s.clock

/-- R193: the accesses still to be performed that a fence of class `cls` (1 acq, 2 rel, 4 full, or a sum) orders before what follows, marked. Of
kind UO only the class full orders any. -/
def State.markOrd (s : State) (ck cls : Nat) : State :=
  let of := fun (kind c : Nat) => if kind = 2 then c / 4 * 4 else c
  let c := s.getCd ck
  let s : State := { s with
    posted := s.posted.map fun (p : Posted) => if p.cc < 160 && ccCk p.die p.cc == ck && c.observed p then { p with ord := p.ord ||| of p.kind (cls / 2 * 2) } else p }
  let s := if (s.openSpad ck).isEmpty then s
    else s.updCore (ckCore ck) fun k => { k with
      evq := k.evq.map fun (e : EvOp) => if e.ck == ck && !e.locks.isEmpty then { e with ord := e.ord ||| cls } else e
      blat := k.blat.map fun (b : BlatW) => if b.ck == ck then { b with ord := b.ord ||| cls / 2 * 2 } else b }
  if c.openReads.isEmpty then s
  else s.updCd ck fun c => { c with
    pend := c.pend.map fun p => if p.acc != 0 && p.due.isNone then { p with ord := p.ord ||| of (p.acc - 1) cls } else p
    recs := c.recs.map fun r => if r.due.isNone then { r with ord := r.ord ||| cls } else r }

/-- R198: the posted writes of a context on a die that a release waits for at .pod and .sys: those it orders that no acknowledgement has answered;
of kind UO only for the class full. -/
def State.unacked (s : State) (ck : Nat) (full : Bool) : List Posted :=
  (s.postedOf ck).filter fun p => (s.getCd ck).observed p && (full || p.kind != 2)

/-- R198: a posted-write flush of the iteration on a die: it stalls until the last acknowledgement of an earlier write; the writes of the iteration
itself are flushed before the next one. -/
def State.flushStall (s : State) (d : Nat) (full : Bool) : State :=
  let ps := s.unacked (s.ck0 d) full
  if ps.any fun p => p.issued < s.clock then s.stallFor 7
  else if ps.isEmpty then s
  else { s with att := { s.att with flush := true, flushFull := s.att.flushFull || full } }

/-- The numbers of the reads of earlier iterations of a context on a die that are still to be performed; with those of the merged requests that make them. -/
def State.openUids (s : State) (ck : Nat) : List Nat :=
  let c := s.getCd ck
  let us := ((c.pend.filter fun p => p.acc != 0 && p.due.isNone && p.issued < s.clock).map (·.uid)) ++
    (c.recs.filter fun r => r.due.isNone && r.issued < s.clock).map (·.uid)
  us ++ ((s.getDie (ckDie ck)).split.filter fun x => x.2.any us.contains).map Prod.fst

/-- The writes of earlier iterations of a context on a die, with those of commands that it has observed, that have not been acknowledged. -/
def State.ownPosted (s : State) (ck : Nat) : List Posted := (s.postedOf ck).filter fun p => (s.getCd ck).observed p && p.issued < s.clock

/-- The accesses of earlier iterations of a context on a die, with the writes of commands that it has observed, that are still to be performed at a place of
this package: place, bytes, kind, and whether a write to host memory. -/
def State.unperf (s : State) (ck : Nat) : List (Nat × Nat × Nat × Bool) :=
  let own := s.ownPosted ck
  let uids := s.openUids ck ++ own.map (·.uid)
  let place := fun (index a n : Nat) (fw wr : Bool) => match (s.podTranslate index a fw (!wr) wr).1 with
    | .ok loc kind _ => some (loc, n, kind, false)
    | _ => none
  (s.podIn.filterMap fun x => if x.2.2.src == s.pkgNum && uids.contains x.2.2.uid then
      (bodyBytes x.2.2.body).bind fun n => place x.2.2.index x.2.2.addr n x.2.2.fw (match x.2.2.body with
        | .write _ _ => true
        | _ => false)
    else none) ++
  ((s.getDie (ckDie ck)).merges.filterMap fun m => if m.ops.any fun o => uids.contains o.1 then
      (let n := if m.wide then 8 else 4
       match m.pod with
        | none => some (m.addr, n, m.kind, false)
        | some (pkg, i) => if pkg = s.pkgNum then place (i % 64) m.addr n (64 ≤ i) true else none)
    else none) ++
  (own.filter fun p => !p.data.isEmpty).map fun p => (p.loc, p.data.length, p.kind, true)

/-- R205: whether an SO access of an earlier iteration of a context on a die to another package is still to be performed: a write until its acknowledgement. -/
def State.farSo (s : State) (ck : Nat) : Bool :=
  let d := s.getDie (ckDie ck)
  let us := (((s.getCd ck).pend.filter fun p => p.acc == 1 && p.due.isNone && p.issued < s.clock).map (·.uid)) ++
    ((s.ownPosted ck).filter fun p => p.kind == 0).map (·.uid)
  let all := us ++ (d.split.filter fun x => x.2.any us.contains).map Prod.fst
  (s.podOut.any fun m => all.contains m.2.uid) ||
    d.merges.any fun m => (m.pod.any fun p => p.1 != s.pkgNum) && m.ops.any fun o => us.contains o.1

/-- R191: whether an access of a context on a die to `n` bytes at a place of kind `kind` must wait for an earlier one that is still to be performed: to
the same byte, or both SO. Two writes to host memory land in their order. Order is kept by stalling the column (DEDUCED, log 88). -/
def State.mustHold (s : State) (ck loc n kind : Nat) (host : Bool := false) : Bool :=
  ((s.unperf ck).any fun u => !(host && u.2.2.2) && ((kind == 0 && u.2.2.1 == 0) || (u.1 < loc + n && loc < u.1 + u.2.1))) ||
    (kind == 0 && s.farSo ck)

/-- R208, R261: whether a merge window of this package is open for AMOs to a line of another package: what is no such AMO leaves after it. -/
def State.lineMerging (s : State) (pkg a : Nat) : Bool :=
  s.die.any fun x => x.2.merges.any fun m => m.addr / 64 == a / 64 && m.pod.any fun p => p.1 == pkg

/-- Whether AMOs of a context on a die to another package wait in a merge window. -/
def State.farMerging (s : State) (ck : Nat) : Bool :=
  (s.getDie (ckDie ck)).merges.any fun m => (m.pod.any fun p => p.1 != s.pkgNum) && m.ops.any fun o => o.2.1 == ck

/-- The same for an access to pod memory. One to another package waits for SO accesses where it is one, and, unless it is itself merged, for the merge windows
open for its line; else the way that messages to one line take keeps their order (R261). -/
def State.podHold (s : State) (ck part pkg a n : Nat) (fw wr : Bool) (merges : Bool := false) : Bool :=
  if pkg = s.pkgNum then
    match (s.podTranslate (s.podIndex part) a fw (!wr) wr).1 with
    | .ok loc kind _ => s.mustHold ck loc n kind
    | _ => false
  else
    (!merges && s.lineMerging pkg a) ||
      (s.podKind part pkg a fw (!wr) wr == 0 && (s.farSo ck || (s.unperf ck).any fun u => u.2.2.1 == 0))

/-- R195, R198: whether a scope's release waits for acknowledgements: .pod and .sys. -/
def flushScope (scope : Nat) : Bool := scope == 4 || scope == 5

end Sys2Proof.Machine
end

