-- ==== Sys2Proof/Machine/Ops.lean ====
section
/-! DEFINITION. The operations that end an issue: splices and rollback (R218 to R223), taking a fault (R211 to R213) and returning from
one (R225), blocking, stalling, and committing an iteration. -/

namespace Sys2Proof.Machine

/-! ### Splices (R218 to R220) -/

/-- R220: the blotter of a context on a die performed, in the program order of its stores, and emptied. -/
def State.releaseBlot (s : State) (ck : Nat) : State :=
  ((s.getCd ck).blot.foldl State.performBlot s).updCd ck fun c => { c with blot := [] }

/-- R194: the stores that a fence of their own iteration held, performed and forgotten. -/
def State.lateStores (s : State) (ck : Nat) : State :=
  if (s.getCd ck).late.isEmpty then s
  else ((s.getCd ck).late.foldl State.performBlot s).updCd ck fun c => { c with late := [] }

/-- R194: whether a store of a context issued on this clock is held by a fence before it, for accesses of its own iteration among others. -/
def State.storeHeld (s : State) (ck : Nat) : Bool := s.heldFor ck (s.clock + 1) true true

/-- R194: what the blotters of a column context withhold on some dies held. -/
def State.holdLate (s : State) (cc : Nat) (ds : List Nat) : State :=
  ds.foldl (fun s d => s.updCd (ccCk d cc) fun c => { c with late := c.late ++ c.blot, blot := [] }) s

/-- R194: the held stores of every context whose fences hold them no longer, performed. -/
def State.lateAll (s : State) : State :=
  let open_ := fun ck => ((s.getCd ck).openReads.any fun r => ordHolds true true r.2.2) ||
    ((s.openWrites ck).any fun p => ordHolds true true p.ord) || (s.openSpad ck).any fun a => a.1 != 0 && ordHolds true true a.2.2
  let cks := ((s.cd.filter fun x => !x.2.late.isEmpty).map Prod.fst) ++ (s.core.filter fun x => !x.2.fw.late.isEmpty).map fun x => 1024 + x.1
  cks.foldl (fun s ck => if open_ ck then s else s.lateStores ck) s

/-- The entries of a column context's blotter: the most on any die. -/
def State.blotCount (s : State) (cc : Nat) : Nat :=
  (s.liveOf cc).foldl (fun m d => Nat.max m (s.getCd (ccCk d cc)).blot.length) 0

/-- R220: the entries that a splice of a column context releases, with those that its iteration performed at issue: the most on any die. -/
def State.releaseCount (s : State) (cc : Nat) (rel : SMap Nat) : Nat :=
  (s.liveOf cc).foldl (fun m d => Nat.max m ((s.getCd (ccCk d cc)).blot.length + SMap.get 0 rel d)) 0

/-- R184, R219: the operations of a context still queued in the envelope unit, not yet started, as a splice records them: they write the working set
only, for a rollback queues them again (DEDUCED, log 72). -/
def State.evQueued (s : State) (ck : Nat) : List EvOp := (s.getCore (ckCore ck)).evq.filter fun e => e.ck == ck && e.due.isNone

/-- R219: a splice on one die. While a handler runs, only the blotter is released (R226). -/
def State.spliceDie (s : State) (inh : Bool) (ck : Nat) : State :=
  let s := s.releaseBlot ck
  if inh then s
  else
    let s := s.updCd ck fun c => { c with dup := c.ws, dupEv := s.evQueued ck, pend := c.pend.map fun p => { p with pre := true } }
    s.updCore (ckCore ck) fun c => { c with
      evq := c.evq.map fun e => if e.ck == ck then { e with pre := e.due.isSome } else e
      csrw := c.csrw.map fun w => if w.ctx == ckCtx ck then { w with pre := true } else w }

/-- R219: a splice of a column context. -/
def State.splice (s : State) (cc : Nat) : State :=
  let inh := (s.getCc cc).inh
  let s := (s.liveOf cc).foldl (fun s d => s.spliceDie inh (ccCk d cc)) s
  if inh then s else s.updCc cc fun c => { c with dupCs := c.cs }

/-! ### Faults that become pending (R211) -/

/-- R210: whether a code is a system fault. -/
def isSystem (code : Nat) : Bool := code == 9 || code == 10 || code == 12 || code == 15

/-- R211: the records of a fault kept by a context, with those of program faults beside a system fault. -/
def ColCtx.setTrap (c : ColCtx) (recs : List (Nat × FRec)) : ColCtx :=
  let sys := recs.any fun x => isSystem x.2.code
  { c with trap := recs, trapSys := sys, kept := if sys then recs.filter fun x => !isSystem x.2.code else c.kept }

/-- R211: an asynchronous fault on a die that becomes pending. One that becomes pending on the clock at which its context raises others is raised together
with them: of one die the synchronous fault is recorded, else that of the oldest command. -/
def ColCtx.addFault (c : ColCtx) (clk d : Nat) (r : FRec) : ColCtx :=
  if c.trapAt = clk + 1 && !c.trap.isEmpty then
    match (c.trap.find? fun x => x.1 == d).map Prod.snd with
    | some o => if o.async && r.seq < o.seq then c.setTrap (c.trap.map fun x => if x.1 = d then (d, r) else x) else c
    | none => c.setTrap (c.trap ++ [(d, r)])
  else { c with faults := c.faults ++ [(d, r)] }

/-- R211: an asynchronous fault of a context on a die, by the command or access of number `seq`. -/
def State.asyncFault (s : State) (ck : Nat) (r : FRec) (seq : Nat := 0) : State :=
  s.updCc (ckCc ck) fun c => c.addFault s.clock (ckDie ck) { r.fields with async := true, seq := seq }

/-! ### Landing (R79, R81, R219) -/

/-- Whether a result lands before another: by clock, then by slot, then by issue (R79, R354). -/
def Pend.before (a b : Pend) : Bool :=
  let x := a.due.getD 0
  let y := b.due.getD 0
  Nat.blt x y || (x == y && (Nat.blt a.slot b.slot || (a.slot == b.slot && Nat.ble a.issued b.issued)))

/-- A list of results in landing order. -/
def landOrder : List Pend → List Pend
  | [] => []
  | p :: ps =>
    let l := landOrder ps
    let (a, b) := l.span fun x => x.before p && !(p.before x)
    a ++ p :: b

/-- R62: the signal of a result. -/
def State.pendSignal (s : State) (ck : Nat) (p : Pend) : State := s.signal (ckCore ck) p.sigSem p.sigInc

/-- One result landed in the working set, and in the duplicate set when it was issued at or before the splice; with its signal. An access that the host has
not completed leaves its register as it was, and raises its fault (R301, R329). -/
def State.landOne (s : State) (ck : Nat) (p : Pend) : State :=
  if p.abort then s.asyncFault ck { code := 4, cause := 6, r0 := p.val.setWidth 64, r1 := p.bundle } p.uid
  else (s.updCd ck fun c => { c with ws := c.ws.land p, dup := if p.pre then c.dup.land p else c.dup }).pendSignal ck p

/-- The results of a context that `f` selects, landed in order and removed. -/
def State.landAll (s : State) (ck : Nat) (f : Pend → Bool) : State :=
  let c := s.getCd ck
  let s := s.updCd ck fun c => { c with pend := c.pend.filter fun p => !f p }
  (landOrder (c.pend.filter f)).foldl (fun s p => s.landOne ck p) s

/-! ### Rollback (R222) -/

/-- Whether a rollback need wait: a reply outstanding that was issued at or before the splice, or an envelope operation running. -/
def State.mustWait (s : State) (cc : Nat) : Bool :=
  (s.liveOf cc).any fun d =>
    let ck := ccCk d cc
    (s.getCd ck).pend.any (fun p => p.pre && p.due.isNone) ||
      (s.getCore (ckCore ck)).evq.any (fun e => e.ck == ck && e.due.isSome)

/-- R222 on one die. -/
def State.rollbackDie (s : State) (ck : Nat) : State :=
  let s := s.landAll ck fun p => p.pre && p.due.isSome
  let c := s.getCd ck
  let s := s.setCd ck { c with ws := c.dup, blot := [], pend := [] }
  s.updCore (ckCore ck) fun k => { k with
    evq := k.evq.filter (fun e => e.ck != ck) ++ c.dupEv
    locks := k.locks.filter (fun r => !k.evq.any fun e => e.ck == ck && e.uid == r.uid) ++ c.dupEv.flatMap (·.locks) }

/-- R222: the context restored to its last splice. -/
def State.rollback (s : State) (cc : Nat) : State :=
  let s := (s.liveOf cc).foldl (fun s d => s.rollbackDie (ccCk d cc)) s
  s.updCc cc fun c => { c with cs := c.dupCs, portDone := false, why := none, cwBuf := none }

/-! ### Faults (R211 to R217) -/

/-- R211: of the faults raised together, one record for each die: the first. -/
def firstPerDie : List (Nat × FRec) → List (Nat × FRec)
  | [] => []
  | x :: l => x :: (firstPerDie l).filter fun y => y.1 != x.1

/-- R215: the mask of the dies that raised a fault. -/
def srcMask (l : List (Nat × FRec)) : Nat := l.foldl (fun m x => m ||| 2 ^ x.1) 0

/-- The record of a die among the records of a fault; code 0x00 where the die raised none. -/
def recOf (l : List (Nat × FRec)) (d : Nat) : FRec := ((l.find? fun x => x.1 == d).map Prod.snd).getD { code := 0 }

/-- R215: TSTAT of a record. -/
def tstatOf (r : FRec) (mask : Nat) (inh : Bool) : DWord :=
  BitVec.ofNat 64 (r.code + (if inh then 2 ^ 8 else 0) + (if r.async then 2 ^ 16 else 0) + r.slot % 32 * 2 ^ 19 + r.cause % 256 * 2 ^ 24 +
    r.info % 2 ^ 16 * 2 ^ 32 + mask % 256 * 2 ^ 48)

/-- R217: a resume point in the layout of TEPC. -/
def tepcOf (c : ColState) : DWord :=
  BitVec.ofNat 64 (c.pc.reel % 2 ^ 16 * 2 ^ 32 + c.rem % 2 ^ 16 * 2 ^ 16 + c.pc.off % 2 ^ 11 * 8 + (match c.xfer with
    | some x => x.delay % 4 * 2
    | none => 0))

/-- R212: whether TVEC names a bundle of the kernel. -/
def tvecNames (k : Kernel) (tv : DWord) : Bool :=
  bits tv.toNat 32 16 < k.reels.length && bits tv.toNat 3 11 < (k.reel (bits tv.toNat 32 16)).2

/-- A fault that cannot reach a handler: code 0x0F with the record attached (R212). -/
def unhandled (r : FRec) : FRec := if r.code = 0 then r else { r with code := 15, orig := r.code }

/-- R215, R216: the record of each die among the records of a fault. A die that raised none has code 0x00, and its TREC1 holds the bundle
address too (DEDUCED, log 42). -/
def recOn (l : List (Nat × FRec)) (d : Nat) : FRec :=
  let r := recOf l d
  if r.code = 0 then { r with r1 := ((l.head?).map fun x => x.2.r1).getD 0#64 } else r

/-- R212: entering the handler at TVEC after the rollback. -/
def State.enterHandler (s : State) (cc : Nat) (recs : List (Nat × FRec)) (tv : DWord) : State :=
  let mask := srcMask recs
  let s := (s.liveOf cc).foldl (fun s d =>
    let r := recOn recs d
    s.updCd (ccCk d cc) fun c => { c with
      tstat := tstatOf r mask true
      trec := SMap.set 0#64 (SMap.set 0#64 (SMap.set 0#64 (SMap.set 0#64 c.trec 0 r.r0) 1 r.r1) 2 r.r2) 3 r.r3
      tepc := tepcOf (s.getCc cc).dupCs
      ws := { c.ws with slots := c.ws.slots.map fun x => (x.1, { x.2 with hold := [] }) } }) s
  let cur := (s.getCc cc).cs.pc.reel
  let reel := bits tv.toNat 32 16
  let s := s.updCc cc fun c => { c with
    inh := true, loopClr := true
    cs := { c.cs with pc := ⟨reel, bits tv.toNat 3 11⟩, rem := 0, xfer := none, copies := [] } }
  s.startReel cc cur reel

/-- R212: TakeTrap, once the rollback need not wait; a fault that cannot reach a handler is left for firmware as a system fault. -/
def State.takeTrap (s : State) (cc : Nat) (recs : List (Nat × FRec)) : State :=
  let s0 := s
  let s := s.rollback cc
  let lo := (s.liveOf cc).head?.getD 0
  let tv := (s.getCd (ccCk lo cc)).tvec
  let c := s.getCc cc
  match s.kernelOf cc with
  | some k =>
    if tv.getLsbD 0 && !c.inh && tvecNames k tv then
      let s := s.updCc cc fun c => { c with trap := [], trapSys := false }
      let r := recs.head?.map (·.2.code) |>.getD 0
      let s : State := { s with traceQ := (s0.eventRecord cc r (((recs.map Prod.fst).min?).getD 0)).traceQ }
      s.enterHandler cc recs tv
    else s.updCc cc fun c => { c with trap := recs.map (fun x => (x.1, unhandled x.2)), trapSys := true }
  | none => s.updCc cc fun c => { c with trap := recs.map (fun x => (x.1, unhandled x.2)), trapSys := true }

/-- R212, R213, R222, R234: a fault that the context has taken is entered as soon as its rollback need not wait; a system fault is left
for SYSTEM_FAULT_HANDLING. -/
def State.tryTrap (s : State) (cc : Nat) : State :=
  let c := s.getCc cc
  if c.trap.isEmpty || c.trapSys || s.mustWait cc then s else s.takeTrap cc c.trap

/-- R211: the faults raised together at one boundary, taken by the whole column; TRAP_ENTRY enters the handler. A fault of a firmware context is passed on. -/
def State.raise (s : State) (cc : Nat) (faults : List (Nat × FRec)) : State :=
  let recs := firstPerDie faults
  if recs.isEmpty then s
  else if cc ≥ 128 then { s with events := s.events ++ [.firmwareFault (ccCol cc) recs] }
  else s.updCc cc fun c => { c.setTrap recs with trapAt := s.clock + 1 }

/-- R211: of faults that wait, those of the oldest command on each die. -/
def oldestFaults (l : List (Nat × FRec)) : List (Nat × FRec) := l.filter fun x => !l.any fun y => y.1 == x.1 && y.2.seq < x.2.seq

/-- R225: what comes about when the target of a TRET issues: the column and slot states of the duplicate set, INH cleared, and a splice, whose release stalls the
column after the target's iteration (DEDUCED, log 51). A target in a reel that neither buffer holds is not loaded by it: only REEL, RET and trap entry start a load
(R247; DEDUCED, log 114). -/
def State.tretTarget (s : State) (cc : Nat) : State :=
  let s := (s.liveOf cc).foldl (fun s d => s.updCd (ccCk d cc) fun c => { c with
    ws := { c.ws with slots := c.dup.slots }, tstat := c.tstat &&& ~~~(0x100#64) }) s
  let s := s.updCc cc fun c => { c with cs := c.dupCs, inh := false, loopClr := true }
  let e := s.blotCount cc
  (s.splice cc).updCc cc fun c => { c with holdUntil := Nat.max c.holdUntil (s.clock + 1 + ceilDiv e 4), holdReason := 6 }

/-! ### The end of an issue attempt -/

/-- R106: the extra accesses that the iteration's VM operations need of one port of one bank on a die. -/
def portExtraDie (l : List (Nat × Nat × Bool)) (d : Nat) : Nat :=
  let rows := (l.filter fun x => x.1 == d).eraseDups
  let ports := (rows.map fun x => (x.2.1 / 128, x.2.2)).eraseDups
  rows.length - ports.length

/-- R106: the clocks for which the column stalls for bank ports: the most on any die (DEDUCED, log 26). -/
def portExtra (l : List (Nat × Nat × Bool)) : Nat := allDies.foldl (fun m d => Nat.max m (portExtraDie l d)) 0

/-- R321, R263: the reads of a CWLD's source in another package's space, sent once, a control word
each, since a read of 32 aligned bytes crosses no page; the column stalls until they are answered. -/
def State.cwRequest (s : State) (cc : Nat) (r : Option (Nat × Nat × Nat × Nat)) : State :=
  match r with
  | none => s
  | some (die, pkg, a, n) =>
    if (s.getCc cc).cwBuf.isSome then s
    else
      let base := s.uid
      let k := n / 32
      let s := { s.updCc cc fun c => { c with cwBuf := some (base, []) } with uid := s.uid + k }
      (List.range k).foldl (fun s i =>
        s.podSend die (s.partOf cc) pkg (a + 32 * i) (base + i) s.clock (.read 32) (128 ≤ cc)) s

/-- R287: the attempt failed for a reason; it is counted when the clock ends. -/
def State.noteStall (s : State) (r : Nat) : State :=
  s.updCc s.cc0 fun c => { c with why := some (match c.why with
    | some x => Nat.min x r
    | none => r) }

/-- R90, R92, R218: the context becomes BLOCKED; leaving ACTIVE is a splice after its last issued iteration. -/
def State.blockOn (s : State) (r : BlkReason) : State :=
  let cc := s.cc0
  if cc ≥ 128 then s
  else
    let e := ceilDiv (s.blotCount cc) 4
    let s := s.splice cc
    let s := s.updCc cc fun c => { c with st := .blocked, blk := some r, blkSince := s.clock }
    s.leftActive s.cur.col s.cur.ctx (s.clock + 1 + e)

/-- What an iteration asked for becomes the context's: the transfer, the retirement, the arrival at a barrier. -/
def State.commitCol (s : State) (a : Att) (cc : Nat) : State :=
  s.updCc cc fun c => { c with
    lastIss := s.clock + 1, why := none, portDone := false
    flush := if a.flush then s.clock + 1 else c.flush
    flushFull := if a.flush then a.flushFull else c.flushFull
    cs := match a.xfer with
      | some x => { c.cs with xfer := some x }
      | none => c.cs
    st := if a.halt then .retiring else if a.arrive.isSome then .blocked else c.st
    blk := if a.arrive.isSome then a.arrive else c.blk
    blkSince := if a.arrive.isSome then s.clock else c.blkSince }

/-- R218, R220: the splice of an iteration, and the clocks for which its release stalls the column. -/
def State.commitSplice (s : State) (a : Att) (cc : Nat) (leaves : Bool) : State :=
  if a.splice || leaves then
    let e := ceilDiv (s.releaseCount cc a.released) 4
    (s.splice cc).updCc cc fun c => { c with holdUntil := Nat.max c.holdUntil (s.clock + 1 + e), holdReason := 6 }
  else s

/-- The state with the requests of the issue under way cleared. -/
def State.noAtt (s : State) : State := { s with att := {} }

/-- R106: the ports of the banks of the cursor's column that an iteration's VM operations use, given as their rows. -/
def State.usePorts (s : State) (l : List (Nat × Nat × Bool)) : State :=
  if l.isEmpty then s
  else allDies.foldl (fun s d =>
    let ps := ((l.filter fun x => x.1 == d).map fun x => 2 * (x.2.1 / 128) + bit01 x.2.2).eraseDups
    if ps.isEmpty then s else s.updCoreD d fun k => { k with vmAt := (s.clock + 1, ps) }) s

/-- R53, R218, R250: what the operations of an iteration of the cursor's context asked for takes effect. -/
def State.commitAs (s : State) (a : Att) : State :=
  let cc := s.cc0
  let s := s.usePorts a.vm
  if cc ≥ 128 then (if a.splice then s.liveDies.foldl (fun s d => s.releaseBlot (ccCk d cc)) s else s)
  else
    let s := s.commitCol a cc
    let e := ceilDiv (s.releaseCount cc a.released) 4
    let s := if a.yields && !a.halt && a.arrive.isNone then s.yieldPoint s.cur.col s.cur.ctx (s.clock + 1 + e) else s
    let left := (s.getCc cc).st != .active
    let s := s.holdLate cc a.late
    let s := s.commitSplice a cc left
    let s := if a.hold > 0 then s.updCc cc fun c => { c with holdUntil := Nat.max c.holdUntil (s.clock + 1 + a.hold), holdReason := a.holdReason }
      else s
    let s := if a.halt || a.arrive.isSome then s.leftActive s.cur.col s.cur.ctx (s.clock + 1 + e) else s
    s.raise cc a.trap

/-- An iteration that has issued takes effect. -/
def State.commit (s : State) : State := s.noAtt.commitAs s.att

/-- R340: the shape registers that faulting SHAPEs unload. -/
def State.unloadAll (s : State) (l : List (Nat × Nat)) : State :=
  l.foldl (fun s x => s.updCd x.1 fun c => { c with sh := SMap.erase c.sh x.2 }) s

/-- How an issue attempt ends. -/
inductive Verdict where
  | illegal
  | block (r : BlkReason)
  | stall (r : Nat)
  | fault
  | ports (n : Nat)
  | forced
  | commit
  deriving DecidableEq, Repr

/-- How the attempt on `s` whose operations gave `t` ends: an illegal operation is trapped first (R78); then a blocking condition (R92)
and a stall (R287) come; then faults (R211), the bank ports (R106) and a forced splice (R221); else the iteration issues (DEDUCED, log 10). -/
def State.verdict (s t : State) : Verdict :=
  let a := t.att
  if a.faults.any fun x => x.2.code == 2 then .illegal
  else match a.block with
    | some r => .block r
    | none => match a.stall with
      | some r => .stall r
      | none =>
        let cc := s.cc0
        if !a.faults.isEmpty then .fault
        else if portExtra a.vm > 0 && !(s.getCc cc).portDone then .ports (portExtra a.vm)
        else if t.blotCount cc > 128 then .forced
        else .commit

/-- The end of an issue attempt on `s`, whose operations gave `t`: an iteration that does not issue leaves the state as it was. -/
def State.finish (s t : State) : State :=
  let a := t.att
  let s := { s with att := {}, freeCtr := t.freeCtr }
  let cc := s.cc0
  match s.verdict t with
  | .illegal => s.raise cc a.faults
  | .block r => s.blockOn r
  | .stall r => (s.noteStall r).cwRequest cc a.cwRead
  | .fault => (s.unloadAll a.unload).raise cc a.faults
  | .ports n => (s.noteStall 2).updCc cc fun c => { c with portDone := true, holdUntil := s.clock + n, holdReason := 2 }
  | .forced =>
    let e := ceilDiv (s.blotCount cc) 4
    ((s.splice cc).noteStall 6).updCc cc fun c => { c with holdUntil := s.clock + e, holdReason := 6 }
  | .commit => t.commit

/-- One operation tried by itself at the cursor. -/
def State.attempt (s : State) (f : State → State) : Host.Outcome State Fault Refusal :=
  .next (s.finish (f { s with att := {} }))

end Sys2Proof.Machine
end

