-- ==== Sys2Proof/Machine/ScalarMem.lean ====
section
/-! DEFINITION. Scalar memory accesses and atomics (R299 to R301, R328, R329). -/

namespace Sys2Proof.Machine

/-- The cursor's context is the firmware context. -/
def State.isFw (s : State) : Bool := s.cur.ctx == 4

/-- R103 to R118: the place of an access of the cursor's context on a die. -/
def State.place (s : State) (d : Nat) (acc : Acc) (va : Nat) (rd wr : Bool) : Tr × State :=
  s.resolve d s.cc0 acc (s.ctxD d).trbase.toNat va s.isFw rd wr

/-- Whether every byte at `loc` is a withheld byte of the blotter. -/
def allWithheld (bl : List Blot) (loc n : Nat) : Bool := (List.range n).all fun i => (blotByte bl (loc + i)).isSome

/-- R126: a read of a context meets poison: a byte of a poisoned line that its blotter does not withhold. -/
def State.readPoisoned (s : State) (bl : List Blot) (loc n : Nat) : Bool :=
  s.poisoned loc n && (List.range n).any fun i => s.poisonedLine ((loc + i) / 64) && (blotByte bl (loc + i)).isNone

/-- R169: whether a BLAT of a context that writes one of `n` bytes at a place is on its way. -/
def State.blatHeld (s : State) (ck loc n : Nat) : Bool :=
  (s.getCore (ckCore ck)).blat.any fun b => b.ck == ck && b.loc < loc + n && loc < b.loc + b.data.length

/-- R186, R191: whether bytes of the local scratchpad are still to be read or written by an operation of the envelope unit or a BLAT of the same
context: they are accesses of the context, and a later access of a byte waits for them (DEDUCED, log 88). -/
def State.spadHeld (s : State) (ck loc n : Nat) : Bool :=
  if !isSpad loc || locCore loc != ckCore ck then false
  else
    let k := s.getCore (ckCore ck)
    (k.evq.any fun e => e.ck == ck && e.locks.any fun r => r.bank == locBank loc) || s.blatHeld ck loc n

/-- Bytes `data` merged into a line's data at offset `o`. -/
def mergeLine (old : Vec) (o : Nat) (data : List Byte) : Vec :=
  let m := (BitVec.allOnes 512 >>> (512 - 8 * data.length)) <<< (8 * o)
  mergeVec old (BitVec.ofNat 512 (leNat data) <<< (8 * o)) m

/-- R220: bytes that lie in one 64-byte line withheld in a blotter. -/
def withhold (bl : List Blot) (va loc : Nat) (data : List Byte) : List Blot :=
  let line := loc / 64 * 64
  let o := loc % 64
  let mk : DWord := (BitVec.allOnes 64 >>> (64 - data.length)) <<< o
  if bl.any fun b => b.loc == line then
    bl.map fun b => if b.loc == line then { b with mask := b.mask ||| mk, data := mergeLine b.data o data } else b
  else bl ++ [⟨va / 64 * 64, line, mk, mergeLine 0#512 o data⟩]

def State.withholdD (s : State) (d va loc : Nat) (data : List Byte) : State :=
  s.updD d fun c => { c with blot := withhold c.blot va loc data }

/-- R220: what a store or an atomic that is not withheld does first: the blotter of its context is performed; the iteration is a splice. -/
def State.flushBlot (s : State) (d : Nat) : State :=
  let n := (s.ctxD d).blot.length
  let s := s.releaseBlot (s.ck0 d)
  { s.splices with att := { s.splices.att with released := SMap.upd 0 s.splices.att.released d fun m => m + n } }

/-- R194: a fence or an acquire of the iteration holds the stores of the vector slots on a die. -/
def State.holdsLate (s : State) (d : Nat) : State := { s with att := { s.att with late := d :: s.att.late } }

/-- R301, R329: whether the host does not complete an access at a place. -/
def State.hostAborts (s : State) (loc : Nat) : Bool := isHost loc && Config.hostAborts loc s.clock

/-- R301, R329: an access of register `n` that the host does not complete: its fault comes with the latency `lat` of the place. -/
def State.abortDie (s : State) (d : Nat) (h : Hdr) (n a lat : Nat) : State :=
  let (u, s) := s.fresh
  s.scoreboard d h (some (s.clock + lat)) n (BitVec.ofNat 64 a) u false (abort := true)

/-- R329: LD on a die. -/
def State.ldDie (s : State) (h : Hdr) (f : FMEM) (d : Nat) : State :=
  let w := f.ty.width
  let n := w / 8
  let (a, s) := s.memAddr d f
  if a % n != 0 then s.fault d { code := 6, cause := 6, r0 := BitVec.ofNat 64 a }
  else
    let (t, s) := s.place d .sc a true false
    match t with
    | .fault e => s.accFault d e a 0
    | .stall => s.stallFor 8
    | .ok loc kind lat =>
      let bl := (s.ctxD d).blot
      if s.mustHold (s.ck0 d) loc n kind || s.spadHeld (s.ck0 d) loc n then s.stallFor 7
      else if s.readPoisoned bl loc n then s.fault d { code := 10 }
      else if s.hostAborts loc then s.abortDie d h f.data.n a lat
      else s.scoreboard d h (some (s.clock + lat)) f.data.n (extend f.ty w (leNat (s.readCtx bl loc n))) 0 true
    | .pod pkg x =>
      let part := s.partOf s.cc0
      match s.podFault part pkg x with
      | some e => s.accFault d e a 0
      | none =>
        if s.podHold (s.ck0 d) part pkg x n s.isFw false then s.stallFor 7
        else
          let kind := s.podKind part pkg x s.isFw true false
          let (u, s) := s.fresh
          let s := s.podSend d part pkg x u s.clock (.read n) s.isFw
          s.scoreboard d h none f.data.n (BitVec.ofNat 64 a) u true f.ty (kind + 1)

/-- R329: LD. -/
def opLd (h : Hdr) (f : FMEM) (s : State) : State := s.onDies h fun d s => s.ldDie h f d
def execLd (h : Hdr) (f : FMEM) (s : State) : Host.Outcome State Fault Refusal := s.attempt (opLd h f)

/-- R329, R220: ST on a die. -/
def State.stDie (s : State) (h : Hdr) (f : FMEM) (d : Nat) : State :=
  let n := f.ty.width / 8
  let (a, s) := s.memAddr d f
  let (v, s) := s.rdS d f.data
  let data := leBytes n v
  if a % n != 0 then s.fault d { code := 6, cause := 6, r0 := BitVec.ofNat 64 a }
  else
    let (t, s) := s.place d .sc a false true
    match t with
    | .fault e => s.accFault d e a 0
    | .stall => s.stallFor 8
    | .ok loc kind _ =>
      if s.mustHold (s.ck0 d) loc n kind (isHost loc) || s.spadHeld (s.ck0 d) loc n then s.stallFor 7
      else if isHost loc then
        let s := s.flushBlot d
        (s.hostWrite d s.cc0 a loc kind s.clock (data.map fun b => (b, false))).signalAt d h (s.clock + head d 16)
      else if kind == 0 then
        let s := s.flushBlot d
        (s.store loc data).signalNow d h
      else (s.withholdD d a loc data).signalNow d h
    | .pod pkg x =>
      let part := s.partOf s.cc0
      match s.podFault part pkg x with
      | some e => s.accFault d e a 0
      | none =>
        if s.podHold (s.ck0 d) part pkg x n s.isFw true then s.stallFor 7
        else
        let s := s.flushBlot d
        (s.podWrite d s.cc0 pkg x a s.clock data false { code := 4, cause := 7, r0 := BitVec.ofNat 64 a, r1 := s.cur.bundle }).signalAt d h (s.clock + head d 17)

/-- R329: ST. -/
def opSt (h : Hdr) (f : FMEM) (s : State) : State := s.onDies h fun d s => s.stDie h f d
def execSt (h : Hdr) (f : FMEM) (s : State) : Host.Outcome State Fault Refusal := s.attempt (opSt h f)

/-- R299: New(op, T, old, v). -/
def amoNew (op : Nat) (signed : Bool) (w old v : Nat) : Nat :=
  match op with
  | 0 => v
  | 1 => (old + v) % 2 ^ w
  | 2 => old &&& v
  | 3 => old ||| v
  | 4 => old ^^^ v
  | 5 => minW signed w old v
  | _ => maxW signed w old v

/-- R244: the doubleword of a completion signal after it. -/
def sigValue (old : Nat) (err : Bool) : Nat := (old / 2 ^ 63 ||| (if err then 1 else 0)) * 2 ^ 63 + (old + 1) % 2 ^ 63

/-- R300, R244: an atomic performed at a place: the old value and the state. `op` 7 is ACAS, 8 a completion signal. -/
def State.atomicAt (s : State) (loc op : Nat) (signed : Bool) (w expected v : Nat) : Nat × State :=
  let old := leNat (s.readBytes loc (w / 8))
  if op = 7 then (old, if old = expected then s.store loc (leBytes (w / 8) v) else s)
  else if op = 8 then (old, s.store loc (leBytes 8 (sigValue old (v != 0))))
  else (old, s.store loc (leBytes (w / 8) (amoNew op signed w old v)))

/-- R208: an AMO that a die's link controller merges: relaxed, not ACAS, to an address outside the die. -/
def mergeable (f : FMEM) (op : Nat) (loc : Option Nat) : Bool :=
  op != 7 && f.sub.toNat / 64 % 4 == 0 && !loc.any isSpad

/-- R208: the place of a context in the order of a merged request: core, then context. -/
def mergeKey (ck : Nat) : Nat := 8 * ckCore ck + ckCtx ck

/-- R208: a relaxed AMO of context `ck` reaches its die's link controller: it joins the window open for its operation, type and address, or opens one,
which takes 16 clocks (DESIGN CHOICE, log 20: where a window begins). Of one window the lower core comes first, then the lower
context, then the earlier; the firmware context comes after the others of its core (log 20). -/
def joinMerge (m : Merge) (o : Nat × Nat × DWord) : List Merge → List Merge
  | [] => [{ m with ops := [o] }]
  | x :: l =>
    if { x with close := m.close, ops := m.ops } = m then
      { x with ops := (x.ops.filter fun y => mergeKey y.2.1 ≤ mergeKey o.2.1) ++ o :: x.ops.filter fun y => mergeKey y.2.1 > mergeKey o.2.1 } :: l
    else x :: joinMerge m o l

/-- R300, R301, R208: AMO and ACAS on a die; `op` 7 is ACAS. An AMO that the link controller merges leaves a result that awaits its window's end. -/
def State.atomDie (s : State) (h : Hdr) (f : FMEM) (op : Nat) (d : Nat) : State :=
  let w := f.ty.width
  let n := w / 8
  let (a, s) := s.memAddr d f
  let (v, s) := s.rdS d f.aux
  let (x, s) := if op = 7 then s.rdS d f.data else (0, s)
  let v := v % 2 ^ w
  let x := x % 2 ^ w
  let ord := f.sub.toNat / 64 % 4
  let ck := s.ck0 d
  let s := if ord ≥ 2 && flushScope f.scope.toNat then s.flushStall d false else s
  let s := if ord ≥ 2 && s.relHeld ck then s.stallFor 7 else s
  if a % n != 0 then s.fault d { code := 6, cause := 6, r0 := BitVec.ofNat 64 a }
  else
    let (t, s) := s.place d .sc a true true
    match t with
    | .fault e => s.accFault d e a 0
    | .stall => s.stallFor 8
    | .ok loc kind lat =>
      if isHost loc && op != 0 && op != 1 && op != 7 then s.accFault d ⟨4, 3⟩ a 0
      else if s.mustHold ck loc n kind || s.spadHeld ck loc n then s.stallFor 7
      else
        let s := s.flushBlot d
        if s.poisoned loc n then s.fault d { code := 10 }
        else if mergeable f op (some loc) then
          let (u, s) := s.fresh
          let m : Merge := ⟨op, w == 64, f.ty.signed, none, loc, kind, s.clock + 15, []⟩
          let s := s.updDie d fun x => { x with merges := joinMerge m (u, ck, BitVec.ofNat 64 v) x.merges }
          s.scoreboard d h none f.data.n (BitVec.ofNat 64 a) u true f.ty (kind + 1) lat
        else if s.hostAborts loc then s.abortDie d h f.data.n a lat
        else
          let (old, s) := s.atomicAt loc op f.ty.signed w x v
          s.scoreboard d h (some (s.clock + lat)) f.data.n (extend f.ty w old) 0 true
    | .pod pkg pa =>
      let part := s.partOf s.cc0
      match s.podFault part pkg pa with
      | some e => s.accFault d e a 0
      | none =>
        if s.podHold ck part pkg pa n s.isFw true (mergeable f op none) then s.stallFor 7
        else
          let kind := s.podKind part pkg pa s.isFw true true
          let s := s.flushBlot d
          let (u, s) := s.fresh
          if mergeable f op none then
            let m : Merge := ⟨op, w == 64, f.ty.signed, some (pkg, s.podIndex part + (if s.isFw then 64 else 0)), pa, kind, s.clock + 15, []⟩
            let s := s.updDie d fun x => { x with merges := joinMerge m (u, ck, BitVec.ofNat 64 v) x.merges }
            s.scoreboard d h none f.data.n (BitVec.ofNat 64 a) u true f.ty (kind + 1)
          else
            let s := s.podSend d part pkg pa u s.clock
              (.atomic op (w == 64) f.ty.signed (BitVec.ofNat 64 x) [BitVec.ofNat 64 v]) s.isFw
            let s := if ord % 2 = 1 then s.holdsLate d else s
            s.scoreboard d h none f.data.n (BitVec.ofNat 64 a) u true f.ty (kind + 1) 0 (ord % 2)

/-- R300: AMO. -/
def opAmo (h : Hdr) (f : FMEM) (s : State) : State :=
  s.onDies h fun d s => (s.atomDie h f (f.sub.toNat % 64) d).splices
def execAmo (h : Hdr) (f : FMEM) (s : State) : Host.Outcome State Fault Refusal := s.attempt (opAmo h f)

/-- R300: ACAS. -/
def opAcas (h : Hdr) (f : FMEM) (s : State) : State := s.onDies h fun d s => (s.atomDie h f 7 d).splices
def execAcas (h : Hdr) (f : FMEM) (s : State) : Host.Outcome State Fault Refusal := s.attempt (opAcas h f)

end Sys2Proof.Machine
end

