-- ==== Sys2Proof/Machine/Csr.lean ====
section
/-! DEFINITION. CSRR and CSRW (R317 to R319), and what each CSR reads as. -/

namespace Sys2Proof.Machine

/-- R85: DIEID of a die in a launch. -/
def State.dieid (s : State) (d cc : Nat) : Nat :=
  let l := if cc < 128 then ((s.ctxLaunch cc).map (·.live)).getD 0 else s.liveDies.foldl (fun m x => m + 2 ^ x) 0
  let n := (allDies.filter fun x => bits l x 1 == 1).length
  let r := (allDies.filter fun x => x < d && bits l x 1 == 1).length
  d + r * 2 ^ 8 + n * 2 ^ 16 + l * 2 ^ 24

/-- R86: TEAMID and COLID. In the firmware context, which is in no team, TEAMID reads its column modulo 4 as CTX and zero elsewhere (DESIGN CHOICE, log 110: the
rule gives that context no TEAMID). -/
def State.teamid (s : State) (cc : Nat) : Nat :=
  let c := s.getCc cc
  cc % 4 + c.tctx * 4 + c.tcol * 2 ^ 8 + c.team * 2 ^ 16
def State.colid (s : State) (cc : Nat) : Nat := ccCol cc + s.home (ccCol cc) * 2 ^ 8

/-- R258: PODID. -/
def State.podid (s : State) : Nat :=
  if s.podform.getLsbD 31 then 2 ^ 31 + bits s.podform.toNat 16 7 * 2 ^ 16 + bits s.podform.toNat 0 6 else 2 ^ 16

/-- R284: a counter as a guest reads it at a clock, from its history of (clock, value), newest first. -/
def guestCount (hist : List (Nat × Nat)) (qlog dlog t : Nat) : Nat :=
  if t < 2 ^ dlog then 0
  else
    let t0 := (t - 2 ^ dlog) / 2 ^ dlog * 2 ^ dlog
    ((hist.find? fun x => x.1 < t0).map Prod.snd).getD 0 / 2 ^ qlog * 2 ^ qlog

/-- R161, R284: a counter register of a shared engine with `n` circuits, as a context of a partition reads it; `fw` for a firmware context, which reads the
counters themselves in a guest partition too. -/
def State.engCount (s : State) (e n part : Nat) (fw : Bool := false) : Nat :=
  let g := s.getEng e
  let p := s.getPart part
  if p.guest && !fw then
    guestCount (g.past.map fun x => (x.1, x.2.1)) p.qlog p.dlog s.clock * 2 ^ 40 +
      guestCount (g.past.map fun x => (x.1, x.2.2)) p.qlog p.dlog s.clock * 2 ^ 16
  else g.alt * 2 ^ 40 + g.fc * 2 ^ 16 + (n - (g.circ.filter fun x => x.2.isSome).length) * 2 ^ 8 + g.ptr

/-- Key of QXn of the quad of a core. -/
def qxKey (die core n : Nat) : Nat := (die * 8 + core / 4) * 2 + n
/-- Key of DCn of a die. -/
def dcKey (die n : Nat) : Nat := 128 + die * 4 + n

/-- R114: IVCFG. -/
def State.ivcfg (s : State) : Nat :=
  s.ivStacks.foldl (fun m x => m + 2 ^ x) 0 + s.ivNmax * 2 ^ 8 + s.ivRows * 2 ^ 21

/-- R149: MPROG of a core. A block MRET that faults at its scale plane or trailer, which follow row 63, reads ROW 63 (DEDUCED, log 92). -/
def Core.mprog (c : Core) : Nat :=
  match c.pause, c.mxq with
  | some p, m :: _ =>
    let acc := match m.op with
      | .mmul _ f => f.acc.toNat | .mtile _ f => f.acc.toNat | .mret _ f => f.acc.toNat
      | _ => 0
    2 ^ 31 + acc * 2 ^ 27 + p.phase * 2 ^ 25 + Nat.min 63 p.row * 2 ^ 19 + ckCtx m.ck % 4 * 2 ^ 13 + p.k0 % 2 ^ 13
  | _, _ => 0

/-- R294: DBGCTL as it reads: the bits stored, STOPPED, and PENDF: a fault of the ACTIVE context, which alone issues at the resume, waits. -/
def State.dbgRead (s : State) (col : Nat) : Nat :=
  let c := s.getCol col
  let stopped := c.dbg == 3
  let pend := (stopped || c.dbg == 2) && [0, 1, 2, 3].any fun k =>
    let x := s.getCc (ccKey col k)
    x.st == .active && (!x.faults.isEmpty || !x.trap.isEmpty)
  c.dbgctl.toNat + bit01 stopped * 2 ^ 60 + bit01 pend * 2 ^ 59

/-- R130: CPSTAT of a channel. -/
def Channel.stat (c : Channel) : Nat := Nat.min 16 c.q.length + bit01 c.errv * 2 ^ 24 + c.err * 2 ^ 28

/-- R318, R319: what a CSR reads as, on a die, for a column context; none for a number that is not assigned. -/
def State.csrRead (s : State) (d cc num : Nat) : Option Nat :=
  let col := ccCol cc
  let c := s.getCd (ccCk d cc)
  let k := s.getCore (coreKey d col)
  let part := s.partOf cc
  let p := s.getPart part
  let fw := Nat.ble 128 cc
  if 0x100 ≤ num && num ≤ 0x1FF then some (SMap.get 0#32 k.bfmt (num - 0x100)).toNat
  else if 0x022 ≤ num && num ≤ 0x025 then some (SMap.get 0#64 c.trec (num - 0x022)).toNat
  else if 0x026 ≤ num && num ≤ 0x029 then some (SMap.get 0#64 c.tsc (num - 0x026)).toNat
  else if 0x040 ≤ num && num ≤ 0x047 then some (SMap.get 0#32 c.ws.vflags (num - 0x040)).toNat
  else if 0x0A4 ≤ num && num ≤ 0x0A7 then some (SMap.get {} k.ch (num - 0x0A4)).done.toNat
  else if 0x0A8 ≤ num && num ≤ 0x0AB then some (SMap.get {} k.ch (num - 0x0A8)).next.toNat
  else if 0x0AC ≤ num && num ≤ 0x0AF then some (SMap.get {} k.ch (num - 0x0AC)).stat
  else if 0x0B0 ≤ num && num ≤ 0x0B3 then some (SMap.get {} k.ch (num - 0x0B0)).stall.toNat
  else match num with
  | 0x010 => some (s.dieid d cc)
  | 0x011 => some (s.teamid cc)
  | 0x012 => some (s.colid cc)
  | 0x013 => some s.podid
  | 0x020 => some c.tvec.toNat
  | 0x021 => some c.tstat.toNat
  | 0x02A => some c.tepc.toNat
  | 0x048 => some c.ws.xctl.toNat
  | 0x050 => some c.ws.qctl.toNat
  | 0x058 => some c.ws.etolr.toNat
  | 0x059 => some c.ws.eflg.toNat
  | 0x060 => some p.wswap.toNat
  | 0x061 => some p.arbctl.toNat
  | 0x062 => some p.fwctl.toNat
  | 0x063 => some p.podps.toNat
  | 0x064 => some p.svbase.toNat
  | 0x065 => some p.collstall.toNat
  | 0x070 => some s.ivcfg
  | 0x080 => some c.trbase.toNat
  | 0x0A0 => some c.ws.cpctl.toNat
  | 0x0B8 => some k.mprog
  | 0x0C0 => some (c.lastNch * 2 ^ 29 + c.lastChoices * 2 ^ 14 + bit01 c.aged * 4 + c.streak)
  | 0x0C1 => some (if p.guest && !fw then guestCount (SMap.get [] s.pastRef (coreKey d col)) p.qlog p.dlog s.clock else k.szref)
  | 0x0C4 => some (s.engCount (qxKey d col 0) 2 part fw)
  | 0x0C5 => some (s.engCount (qxKey d col 1) 2 part fw)
  | 0x0C8 => some (s.engCount (dcKey d 0) 4 part fw)
  | 0x0C9 => some (s.engCount (dcKey d 1) 4 part fw)
  | 0x0CA => some (s.engCount (dcKey d 2) 4 part fw)
  | 0x0CB => some (s.engCount (dcKey d 3) 4 part fw)
  | 0x0D0 => some c.prfctl.toNat
  | 0x0D1 => some (s.getCc cc).loop.iter
  | 0x0D2 => some ((s.getCc cc).loop.stall.foldl (fun a x => a + x.2) 0)
  | 0x0D8 => some p.trcbase.toNat
  | 0x0D9 => some p.trchead.toNat
  | 0x0DA => some p.trctail.toNat
  | 0x0E0 => some (s.dbgRead col)
  | 0x0F0 => some (s.getCol col).frzinj.toNat
  | _ => none

/-- R318: CSRR. -/
def opCsrr (h : Hdr) (f : FRIMM) (s : State) : State :=
  s.onDies h fun d s =>
    match (if f.imm.toNat > 0xFFF then none else s.csrRead d s.cc0 f.imm.toNat) with
    | none => s.illegal d
    | some v => s.result d h 1 .s f.dst.n (BitVec.ofNat 512 (v % 2 ^ 64)) (BitVec.allOnes 512) 0 0 true
def execCsrr (h : Hdr) (f : FRIMM) (s : State) : Host.Outcome State Fault Refusal := s.attempt (opCsrr h f)

/-- R318: CSRW: the write takes effect at the end of the clock. -/
def opCsrw (h : Hdr) (f : FRIMM) (s : State) : State :=
  s.onDies h fun d s =>
    let (v, s) := s.rdS d f.srcA
    match (if f.imm.toNat > 0xFFF then none else s.csrRead d s.cc0 f.imm.toNat) with
    | none => s.illegal d
    | some _ =>
      let s := s.updCoreD d fun c => { c with csrw := c.csrw ++ [{ ctx := s.cur.ctx, num := f.imm.toNat, val := BitVec.ofNat 64 v }] }
      s.signalNow d h
def execCsrw (h : Hdr) (f : FRIMM) (s : State) : Host.Outcome State Fault Refusal := s.attempt (opCsrw h f)

end Sys2Proof.Machine
end

