-- ==== Sys2Proof/Machine/Branch.lean ====
section
/-! DEFINITION. Class BR (R55, R69, R88, R224, R225, R307, R327, R330, R336, R337) and the header marks SPLICE and YIELD. A branch
acts once for the column; its bundle stands at the context's program counter. -/

namespace Sys2Proof.Machine

/-- The column state of the cursor's context. -/
def State.cs0 (s : State) : ColState := (s.getCc s.cc0).cs
def State.updCs0 (s : State) (f : ColState → ColState) : State := s.updCc s.cc0 fun c => { c with cs := f c.cs }

/-- A fault of a column-wide operation on every die where it is enabled. -/
def State.illegalAll (s : State) (h : Hdr) : State := (s.enabled h).foldl (fun s d => s.illegal d) s

/-- The waits and signals of an operation that completes at its issue clock. -/
def State.atIssue (s : State) (h : Hdr) : State := s.onDies h fun d s => s.signalNow d h

/-- A taken control transfer with two delay bundles (R55). -/
def State.transfer (s : State) (target : Option Pos) : State := { s with att := { s.att with xfer := some ⟨target, 2, false⟩ } }

/-- R69: the place that a branch names in the current reel; none outside it. -/
def State.branchTarget (s : State) (f : FBR) : Option Pos :=
  let pc := s.cs0.pc
  let o := (pc.off : Int) + f.target.toInt
  match s.kernelOf s.cc0 with
  | none => some ⟨pc.reel, o.toNat⟩
  | some k => if 0 ≤ o ∧ o < (k.reel pc.reel).2 then some ⟨pc.reel, o.toNat⟩ else none

/-- A branch taken when `taken` holds: its target checked at issue (R69), and the transfer. -/
def State.branch (s : State) (h : Hdr) (f : FBR) (taken : Bool) : State :=
  if (s.enabled h).isEmpty then s
  else match s.branchTarget f with
    | none => s.illegalAll h
    | some p => if taken then s.transfer (some p) else s

/-- R307: BRA. -/
def opBra (h : Hdr) (f : FBR) (s : State) : State := (s.atIssue h).branch h f true
def execBra (h : Hdr) (f : FBR) (s : State) : Host.Outcome State Fault Refusal := s.attempt (opBra h f)

/-- The flags that BRC tests, on each die where it is enabled. -/
def State.flagsOn (s : State) (f : FBR) : List Nat → List Bool × State
  | [] => ([], s)
  | d :: ds =>
    let (v, s) := s.rdReg d .f f.freg.toNat
    let (l, s) := s.flagsOn f ds
    ((v.getLsbD 0 != f.finv) :: l, s)

/-- R88: BranchTaken. -/
def branchTaken (any : Bool) (vs : List Bool) : Bool :=
  if vs.isEmpty then false else if any then vs.any id else vs.all id

/-- R307, R88: BRC. -/
def opBrc (h : Hdr) (f : FBR) (s : State) : State :=
  let s := s.atIssue h
  let (vs, s) := s.flagsOn f (s.enabled h)
  s.branch h f (branchTaken f.any vs)
def execBrc (h : Hdr) (f : FBR) (s : State) : Host.Outcome State Fault Refusal := s.attempt (opBrc h f)

/-- R48: the doubleword offset after `n` bundles of a reel. -/
def skipBundles (data : List DWord) : Nat → Nat → Nat
  | 0, off => off
  | n + 1, off =>
    match data[off]? with
    | some hd => skipBundles data n (off + bundleSize hd / 8)
    | none => off

/-- R307: CALL: the return point is the bundle after the second delay bundle. -/
def opCall (h : Hdr) (f : FBR) (s : State) : State :=
  let s := s.atIssue h
  if (s.enabled h).isEmpty then s
  else
    let c := s.cs0
    if c.call.length ≥ 8 then s.illegalAll h
    else
      let data := ((s.reelBuf s.cur.col (s.getCc s.cc0).launch c.pc.reel).map (·.data)).getD []
      let ret : Pos := ⟨c.pc.reel, skipBundles data 3 c.pc.off⟩
      (s.branch h f true).updCs0 fun c => { c with call := (ret, 0) :: c.call }
def execCall (h : Hdr) (f : FBR) (s : State) : Host.Outcome State Fault Refusal := s.attempt (opCall h f)

/-- R330: LOOP on a die: the count decremented, and whether it is nonzero. -/
def State.loopDie (s : State) (h : Hdr) (f : FBR) (d : Nat) : State :=
  let (v, s) := s.rdS d f.cnt
  let n := ofSigned 64 ((v : Int) - 1)
  let s := s.result d h 1 .s f.cnt.n (BitVec.ofNat 512 n) (BitVec.allOnes 512) 0 0 true
  { s with att := { s.att with loopTaken := some (s.att.loopTaken.getD false || n != 0) } }

/-- R330, R62: LOOP. Its signal comes with its result. -/
def opLoop (h : Hdr) (f : FBR) (s : State) : State :=
  let s := State.onDies { s with att := { s.att with loopTaken := some false } } h fun d s => s.loopDie h f d
  let s := s.branch h f (s.att.loopTaken.getD false)
  { s with att := { s.att with xfer := s.att.xfer.map fun x => { x with loop := true } } }
def execLoop (h : Hdr) (f : FBR) (s : State) : Host.Outcome State Fault Refusal := s.attempt (opLoop h f)

/-- R224: TRAP. -/
def opTrap (h : Hdr) (f : FBR) (s : State) : State :=
  let s := s.atIssue h
  let ds := s.enabled h
  if ds.isEmpty then s
  else if f.target != 0 then s.illegalAll h
  else
    let r : FRec := { code := 0x0E, info := f.code.toNat, slot := s.cur.slot, r1 := s.cur.bundle }
    { s.splices with att := { s.splices.att with trap := ds.map fun d => (d, r) } }
def execTrap (h : Hdr) (f : FBR) (s : State) : Host.Outcome State Fault Refusal := s.attempt (opTrap h f)

/-- R336: REEL. -/
def opReel (h : Hdr) (f : FBR) (s : State) : State :=
  let s := s.atIssue h
  if (s.enabled h).isEmpty then s
  else
    let bad := match s.kernelOf s.cc0 with
      | some k => k.reels.length ≤ f.code.toNat
      | none => false
    if bad || f.target.toInt < 0 then s.illegalAll h
    else (s.transfer (some ⟨f.code.toNat, f.target.toNat⟩)).startReel s.cc0 s.cs0.pc.reel f.code.toNat
def execReel (h : Hdr) (f : FBR) (s : State) : Host.Outcome State Fault Refusal := s.attempt (opReel h f)

/-- R337: RET. -/
def opRet (h : Hdr) (s : State) : State :=
  let s := s.atIssue h
  if (s.enabled h).isEmpty then s
  else match s.cs0.call with
    | [] => s.illegalAll h
    | (p, _) :: rest =>
      ((s.transfer (some p)).updCs0 fun c => { c with call := rest }).startReel s.cc0 s.cs0.pc.reel p.reel
def execRet (h : Hdr) (s : State) : Host.Outcome State Fault Refusal := s.attempt (opRet h)

/-- R225: TRET. -/
def opTret (h : Hdr) (s : State) : State :=
  let s := s.atIssue h
  if (s.enabled h).isEmpty then s
  else if !(s.getCc s.cc0).inh then s.illegalAll h
  else (s.transfer none).splices
def execTret (h : Hdr) (s : State) : Host.Outcome State Fault Refusal := s.attempt (opTret h)

/-- R327: HALT. -/
def opHalt (h : Hdr) (s : State) : State :=
  let s := s.atIssue h
  if (s.enabled h).isEmpty then s
  else { s.splices with att := { s.splices.att with halt := true } }
def execHalt (h : Hdr) (s : State) : Host.Outcome State Fault Refusal := s.attempt (opHalt h)

/-- R75, R334: NOP: its wait and its signal. -/
def opNop (h : Hdr) (s : State) : State := s.atIssue h
def execNop (h : Hdr) (_cls : BitVec 4) (s : State) : Host.Outcome State Fault Refusal := s.attempt (opNop h)

/-- R342: the mark SPLICE: a splice after the iteration. -/
def opSplice (s : State) : State := s.splices
def execSplice (s : State) : Host.Outcome State Fault Refusal := s.attempt opSplice

/-- R377, R250, R251: the mark YIELD: the stated run becomes RUN, the measured run restarts at 1, and the iteration is a decision point. -/
def opYield (run : Word) (s : State) : State :=
  let s := s.updCc s.cc0 fun c => { c with stated := run.toNat, measured := true, meas := 1, yaddr := s.cur.bundle, overran := false, scyc := 1 }
  { s with att := { s.att with yields := true } }
def execYield (run : Word) (s : State) : Host.Outcome State Fault Refusal := s.attempt (opYield run)

end Sys2Proof.Machine
end

