-- ==== Sys2Proof/Machine/Sync.lean ====
section
/-! DEFINITION. Class SY but for the tag table (R96, R100, R101, R123, R192 to R198, R304, R321, R323, R325, R326, R341, R350, R374). -/

namespace Sys2Proof.Machine

/-- R341: SIG. -/
def opSig (h : Hdr) (f : FSYNC) (s : State) : State :=
  s.onDies h fun d s =>
    let n : Int := f.count.toNat
    let inc := if f.kind == 1 then -n else n
    let s := s.updCoreD d fun c => { c with
      sigs := c.sigs ++ [{ due := s.clock + 1, ck := s.ck0 d, sem := f.sem.toNat, inc := inc, set := f.kind == 2 }] }
    (s.signalAt d h (s.clock + 1)).splices
def execSig (h : Hdr) (f : FSYNC) (s : State) : Host.Outcome State Fault Refusal := s.attempt (opSig h f)

/-- R374: WSEM: its own wait. -/
def opWsem (h : Hdr) (f : FSYNC) (s : State) : State :=
  s.onDies h fun d s =>
    let s := if f.count.toNat ≤ (s.coreD d).semCount f.sem.toNat then s else s.blockFor .wait
    s.signalNow d h
def execWsem (h : Hdr) (f : FSYNC) (s : State) : Host.Outcome State Fault Refusal := s.attempt (opWsem h f)

/-- The key of a barrier (R96): launch, team, scope, BID and, for .core, the column's place in the team and, for .quad, the quad. -/
def barKey (launch team scope bid tcol col : Nat) : Nat :=
  (((launch * 128 + team) * 8 + scope) * 16 + bid) * 32 + (if scope = 0 then tcol else if scope = 1 then col / 4 else 0)

/-- R96: the arrival of the cursor's context at a barrier, with the signals that its release gives. -/
def State.arrive (s : State) (scope bid : Nat) (sigs : List (Nat × Nat × Int)) : State :=
  let c := s.getCc s.cc0
  let k := barKey c.launch c.team scope bid c.tcol s.cur.col
  let b : Barrier := SMap.get ⟨c.launch, c.team, scope, bid, [], none, [], [], 0⟩ s.barriers k
  let b := { b with arrived := insNat (c.tcol * 4 + c.tctx) b.arrived, sigs := b.sigs ++ sigs }
  let s : State := { s with barriers := SMap.put s.barriers k b }
  { s with att := { s.att with arrive := some (.barrier k) } }

/-- R304, R196: BAR. Its arrival waits for the accesses that an ar FENCE before it orders; those of its own iteration are waited for at the release. A BAR
of the firmware context, which is no member of a team (R93), arrives nowhere (DESIGN CHOICE, log 90). -/
def opBar (h : Hdr) (f : FSYNC) (s : State) : State :=
  let s := s.onDies h fun _ s => s.splices
  let ds := s.enabled h
  if ds.isEmpty || s.isFw then s
  else
    let s := ds.foldl (fun s d =>
      let s := if f.scope == 4 then s.flushStall d false else s
      if s.relHeld (s.ck0 d) then s.stallFor 7 else s) s
    s.arrive f.scope.toNat f.bid.toNat (ds.map fun d => (coreKey d s.cur.col, h.sigSem.toNat, h.sigInc.toInt))
def execBar (h : Hdr) (f : FSYNC) (s : State) : Host.Outcome State Fault Refusal := s.attempt (opBar h f)

/-- R193: the class of a FENCE by its KIND: 1 acq, 2 rel, 3 ar, 4 full. -/
def fenceClass (kind : Nat) : Nat := match kind with
  | 0 => 1 | 1 => 2 | 2 => 3 | _ => 4

/-- R62: whether what a FENCE of a context orders before its later events has been performed: the accesses issued by clock `t`, and with `ack` the
acknowledgements of its flush. -/
def State.fenceDone (s : State) (ck cls t : Nat) (ack : Bool) : Bool :=
  !((s.getCd ck).openReads.any fun r => r.1 ≤ t && (cls == 4 || r.2.1 != 2)) &&
    !((s.openSpad ck).any fun a => a.1 ≤ t && (cls ≥ 2 || !a.2.1)) &&
    !((cls ≥ 2 && (s.openWrites ck).any fun p => p.issued ≤ t && (cls == 4 || p.kind != 2)) ||
      (ack && (s.unacked ck (cls == 4)).any fun p => p.issued ≤ t))

/-- R62: the signal of a FENCE: on this clock where nothing is left to be performed, else once it has been. -/
def State.fenceSignal (s : State) (d : Nat) (h : Hdr) (cls : Nat) (ack : Bool) : State :=
  if h.sigSem = 0#8 then s
  else if s.fenceDone (s.ck0 d) cls s.clock ack then s.signalNow d h
  else s.updCoreD d fun c => { c with sigs := c.sigs ++
    [{ due := s.clock, ck := s.ck0 d, sem := h.sigSem.toNat, inc := h.sigInc.toInt, fence := cls, ack := ack }] }

/-- R192 to R194, R198: FENCE on a die: the accesses that it orders and that are still to be performed are marked, so that they hold the later events
(`State.held`); a release at .pod or .sys makes its flush. Where accesses of its own iteration are among them, the stores before the FENCE are performed at
once, and those of the vector slots, which come after it, are held at the splice (`State.holdLate`). -/
def State.fenceOn (s : State) (h : Hdr) (f : FSYNC) (d : Nat) : State :=
  let cls := fenceClass f.kind.toNat
  let flush := f.kind != 0 && flushScope f.scope.toNat
  let s := if f.kind == 0 then s else s.splices
  let s := if flush then s.flushStall d (cls == 4) else s
  let s := s.markOrd (s.ck0 d) cls
  let s := if f.kind != 0 && s.storeHeld (s.ck0 d) then (s.flushBlot d).holdsLate d else s
  s.fenceSignal d h cls flush

/-- R192: FENCE. A release is a splice. -/
def opFence (h : Hdr) (f : FSYNC) (s : State) : State := s.onDies h fun d s => s.fenceOn h f d
def execFence (h : Hdr) (f : FSYNC) (s : State) : Host.Outcome State Fault Refusal := s.attempt (opFence h f)

/-- R100: ETRIG. -/
def opEtrig (h : Hdr) (_f : FSYNC) (s : State) : State :=
  let s := s.onDies h fun d s => (s.signalNow d h).splices
  if (s.enabled h).isEmpty then s else s.updCc s.cc0 fun c => { c with trig := true }
def execEtrig (h : Hdr) (f : FSYNC) (s : State) : Host.Outcome State Fault Refusal := s.attempt (opEtrig h f)

/-- R101, R326: GRAB: one request of the column; Sa and Sb wait for the result on every enabled die. The request of a firmware context counts as one of team 0
(DESIGN CHOICE, log 110: that context is in no team). -/
def opGrab (h : Hdr) (f : FSYNC) (s : State) : State :=
  let u := s.uid
  let s := { s with uid := s.uid + 2 }
  let s := s.onDies h fun d s =>
    let s := s.scoreboard d h none f.sregA.n 0#64 u true
    (s.scoreboard d h none f.sregB.n 0#64 (u + 1) false).splices
  if (s.enabled h).isEmpty then s
  else { s with grabs := s.grabs ++
    [⟨s.clock + head (s.home s.cur.col) 16, s.cur.col, s.cur.ctx, (s.getCc s.cc0).team, f.imm.toNat, u⟩] }
def execGrab (h : Hdr) (f : FSYNC) (s : State) : Host.Outcome State Fault Refusal := s.attempt (opGrab h f)

/-- R123: whether a TLBI removes an entry. -/
def tlbiHits (kind arg asid : Nat) (e : TlbE) : Bool :=
  match kind with
  | 0 => true
  | 1 => !e.global && e.asid == arg
  | _ => (e.global || e.asid == asid) && arg / 2 ^ e.size == e.page

/-- R123: the walks of a die in flight marked to fill nothing. -/
def State.markWalks (s : State) (d : Nat) : State :=
  s.updDie d fun x => { x with walks := x.walks.map fun w => { w with noFill := true } }

/-- R123: the entries of a die's TLBs removed, and its walks in flight marked. -/
def State.tlbiDie (s : State) (hit : TlbE → Bool) (d : Nat) : State :=
  let s := (s.updDie d fun x => { x with l2 := x.l2.filter fun e => !hit e }).markWalks d
  (List.range 32).foldl (fun s c => s.updCore (coreKey d c) fun k => { k with l1 := k.l1.filter fun e => !hit e }) s

/-- R123: the translations that a TLBI removes from the TLBs that it reaches, with those of the walks in flight that it marks. -/
def State.tlbiGone (s : State) (hit : TlbE → Bool) (scope d : Nat) : List TlbE :=
  let l1 := fun k => (s.getCore k).l1.filter hit
  let walks := fun x => ((s.getDie x).walks.filterMap Walk.entry).filter hit
  if scope = 0 then l1 (coreKey d s.cur.col) ++ walks d
  else (if scope = 2 then [d] else s.liveDies).flatMap fun x => (s.getDie x).l2.filter hit ++ walks x ++ (List.range 32).flatMap fun c => l1 (coreKey x c)

/-- Every context on a die with its key: on a column, of firmware, or saved. -/
def State.everyCtx (s : State) : List (Nat × CtxDie) :=
  s.cd ++ (s.core.map fun x => (1024 + x.1, x.2.fw)) ++
    s.swaps.flatMap fun w => w.2.ctxs.flatMap fun sv => sv.dies.map fun x => (ctxKey x.1 sv.col sv.ctx, x.2)

/-- The stores that a context withholds, or that a fence still holds (R194, R220). -/
def CtxDie.stores (c : CtxDie) : List Blot := c.blot ++ c.late

/-- R123: the accesses still to be performed that used one of some translations, on the dies that a TLBI reaches: withheld stores by context and line, and
by number posted writes to host memory and atomics of a merge window (R208). -/
def State.tlbiWaits (s : State) (gone : List TlbE) (scope d : Nat) : List (Nat × Nat) × List Nat :=
  let on := fun ck => if scope = 0 then ckCore ck == coreKey d s.cur.col else if scope = 2 then ckDie ck == d else s.dieLive (ckDie ck)
  let used := fun (c : CtxDie) va => gone.any fun e => e.covers (bits c.trbase.toNat 52 12) va
  let cs := s.everyCtx.filter fun x => on x.1
  let merging := fun u => s.die.any fun x => x.2.merges.any fun m => m.pod.isNone && m.ops.any fun o => o.1 == u
  (cs.flatMap fun x => (x.2.stores.filter fun b => !isSpad b.loc && used x.2 b.va).map fun b => (x.1, b.loc),
    ((s.posted.filter fun p => p.cc < 160 && p.host && !p.data.isEmpty && on (ccCk p.die p.cc) && used (s.getCd (ccCk p.die p.cc)) p.addr).map (·.uid)) ++
      cs.flatMap fun x => (x.2.pend.filter fun p => p.due.isNone && merging p.uid && used x.2 (p.val.toNat % 2 ^ 64)).map (·.uid))

/-- R123, R350: TLBI on a die. -/
def State.tlbiOn (s : State) (h : Hdr) (f : FSYNC) (d : Nat) : State :=
  if !s.isFw then s.fault d { code := 5, cause := 4 }
  else
    let (a, s) := if f.kind == 2 then s.rdS d f.sregA else (0, s)
    let arg := if f.kind == 1 then f.imm.toNat else a
    let hit := tlbiHits f.kind.toNat arg (bits (s.ctxD d).trbase.toNat 52 12)
    let w := s.tlbiWaits (s.tlbiGone hit f.scope.toNat d) f.scope.toNat d
    let s := if f.scope == 0 then (s.updCoreD d fun k => { k with l1 := k.l1.filter fun e => !hit e }).markWalks d
      else if f.scope == 2 then s.tlbiDie hit d
      else s.liveDies.foldl (fun s x => s.tlbiDie hit x) s
    let (u, s) := s.fresh
    s.updDie d fun x => { x with tlbis := x.tlbis ++ [⟨u, s.clock + 1, w.1, w.2, s.ck0 d, h.sigSem.toNat, h.sigInc.toInt⟩] }

/-- R123, R350: TLBI. -/
def opTlbi (h : Hdr) (f : FSYNC) (s : State) : State := s.onDies h fun d s => (s.tlbiOn h f d).splices
def execTlbi (h : Hdr) (f : FSYNC) (s : State) : Host.Outcome State Fault Refusal := s.attempt (opTlbi h f)

/-- The 32-byte words of bytes, decoded, or the first entry that fails with its cause (R76, R321). -/
def checkWords (first : Nat) : Nat → List Byte → Except (Nat × Nat) (List Instr)
  | 0, _ => .ok []
  | n + 1, l =>
    match decode (BitVec.ofNat 256 (leNat (l.take 32))) with
    | .error k => .error (first, k)
    | .ok i =>
      if first = 0 then .error (0, 0x0A)
      else match checkWords (first + 1) n (l.drop 32) with
        | .error e => .error e
        | .ok is => .ok (i :: is)

/-- R321: entries of a context's control-word table written; their footprints become empty (R152). -/
def State.writeTable (s : State) (cc first : Nat) : List Instr → State
  | [] => s
  | i :: is => (s.updCc cc fun c => { c with cw := SMap.put c.cw first (some i), fp := SMap.erase c.fp first }).writeTable cc (first + 1) is

/-- R321: the words that a CWLD of a context has loaded written as entries once it has completed. -/
def State.cwDone (s : State) (cc : Nat) : State :=
  let c := s.getCc cc
  match c.cwLoad with
  | some (first, is) =>
    if c.holdUntil ≤ s.clock then (s.writeTable cc first is).updCc cc fun c => { c with cwLoad := none } else s
  | none => s

/-- R321: the words of a CWLD as read. Their check comes with its issue, and the entries are written when it completes (DEDUCED, log 113). -/
def State.cwWords (s : State) (d : Nat) (f : FSYNC) (lat : Nat) (data : List Byte) : State :=
  match checkWords f.imm.toNat f.count.toNat data with
  | .error (e, k) => s.fault d { code := 3, cause := k, r2 := BitVec.ofNat 64 e }
  | .ok is =>
    let s := s.updCc s.cc0 fun c => { c with cwBuf := none, cwLoad := some (f.imm.toNat, is) }
    { s with att := { s.att with hold := lat + f.count.toNat, holdReason := 0 } }

/-- R321: the source of a CWLD read in pieces of at most 64 bytes, which cross no page: the bytes, or the fault of the first piece that
has one, or none where a piece lies in pod memory. -/
def State.cwSource (s : State) (d : Nat) : Nat → Nat → Nat → List Byte × Nat × Option (AFault × Nat) × Option (Nat × Nat) × State
  | 0, _, _ => ([], 0, none, none, s)
  | k + 1, va, n =>
    let m := Nat.min 32 n
    let (t, s) := s.place d .sc va true false
    match t with
    | .fault e => ([], 0, some (e, va), none, s)
    | .stall => ([], 0, none, none, s.stallFor 8)
    | .pod p a => ([], 0, none, some (p, a), s)
    | .ok loc kind lat =>
      let bl := (s.ctxD d).blot
      if s.mustHold (s.ck0 d) loc m kind || s.spadHeld (s.ck0 d) loc m then ([], 0, none, none, s.stallFor 7)
      else if s.readPoisoned bl loc m then ([], 0, some (⟨10, 0⟩, va), none, s)
      else
        let (l, lt, e, p, s') := s.cwSource d k (va + m) (n - m)
        (s.readCtx bl loc m ++ l, Nat.max lat lt, e, p, s')

/-- R321: CWLD. -/
def State.cwldOn (s : State) (f : FSYNC) (d : Nat) : State :=
  let (a, s) := s.rdS d f.sregA
  let n := 32 * f.count.toNat
  if a % 32 != 0 then s.fault d { code := 6, cause := 6, r0 := BitVec.ofNat 64 a }
  else
    let (data, lat, e, p, s) := s.cwSource d f.count.toNat a n
    match e, p with
    | some (e, va), _ => s.accFault d e va 0
    | none, some (pkg, x) =>
      match s.podFault (s.partOf s.cc0) pkg x with
      | some e => s.accFault d e a 0
      | none =>
        match (s.getCc s.cc0).cwBuf with
        | some (_, ps) =>
          if ps.length = f.count.toNat then
            let data := (List.range ps.length).flatMap fun i => (ps.find? fun x => x.1 == i).map Prod.snd |>.getD []
            s.cwWords d f 0 data
          else s.stallFor 0
        | none => { s.stallFor 0 with att := { (s.stallFor 0).att with cwRead := some (d, pkg, x, n) } }
    | none, none => s.cwWords d f lat data

def opCwld (h : Hdr) (f : FSYNC) (s : State) : State :=
  let s := s.onDies h fun _ s => s.splices
  match s.enabled h with
  | [] => s
  | d :: ds =>
    let s := s.cwldOn f d
    (d :: ds).foldl (fun s d => s.signalAt d h (s.clock + s.att.hold)) s
def execCwld (h : Hdr) (f : FSYNC) (s : State) : Host.Outcome State Fault Refusal := s.attempt (opCwld h f)

end Sys2Proof.Machine
end

