-- ==== Sys2Proof/Machine/Tag.lean ====
section
/-! DEFINITION. The tag table (R108, R109, R346 to R349). -/

namespace Sys2Proof.Machine

/-- R109: Lookup. -/
def tagLookup (t : SMap TagE) (k : BitVec 50) : DWord :=
  match t.find? fun x => x.2.v && x.2.key == k with
  | some (i, e) => BitVec.ofNat 64 (i * 2 ^ 32 + e.data.toNat)
  | none =>
    match (List.range 1024).find? fun i => !(SMap.get {} t i).v with
    | some j => BitVec.ofNat 64 (2 ^ 63 + j * 2 ^ 32)
    | none => BitVec.ofNat 64 (3 * 2 ^ 62)

/-- The key that S[a] names: its bits [55:6]. -/
def tagKey (a : Nat) : BitVec 50 := BitVec.ofNat 50 (a / 64)

/-- R109: TLOOK. -/
def opTlook (h : Hdr) (f : FSYNC) (s : State) : State :=
  s.onDies h fun d s =>
    let (a, s) := s.rdS d f.sregA
    s.scoreboard d h (some (s.clock + 4)) f.sregB.n (tagLookup (s.coreD d).tags (tagKey a)) 0 true
def execTlook (h : Hdr) (f : FSYNC) (s : State) : Host.Outcome State Fault Refusal := s.attempt (opTlook h f)

/-- A change of the table that takes effect at the end of the clock after issue. -/
def State.tagChange (s : State) (d : Nat) (h : Hdr) (o : TagOp) : State :=
  ((s.updCoreD d fun c => { c with tagPend := c.tagPend ++ [(s.clock + 1, s.ck0 d, o)] }).signalAt d h (s.clock + 1)).splices

/-- R109: TSET. -/
def opTset (h : Hdr) (f : FSYNC) (s : State) : State :=
  s.onDies h fun d s =>
    let (a, s) := s.rdS d f.sregA
    let (b, s) := s.rdS d f.sregB
    s.tagChange d h (.set (bits b 32 10) (tagKey a) (BitVec.ofNat 32 b))
def execTset (h : Hdr) (f : FSYNC) (s : State) : Host.Outcome State Fault Refusal := s.attempt (opTset h f)

/-- R109: TDROP. -/
def opTdrop (h : Hdr) (f : FSYNC) (s : State) : State :=
  s.onDies h fun d s =>
    let (a, s) := s.rdS d f.sregA
    s.tagChange d h (.drop (tagKey a))
def execTdrop (h : Hdr) (f : FSYNC) (s : State) : Host.Outcome State Fault Refusal := s.attempt (opTdrop h f)

/-- R109: TDROP.all. -/
def opTdropAll (h : Hdr) (_f : FSYNC) (s : State) : State := s.onDies h fun d s => s.tagChange d h .all
def execTdropAll (h : Hdr) (f : FSYNC) (s : State) : Host.Outcome State Fault Refusal := s.attempt (opTdropAll h f)

/-- R109: the table after a change. -/
def tagApply (t : SMap TagE) : TagOp → SMap TagE
  | .all => []
  | .drop k => t.filter fun x => !(x.2.v && x.2.key == k)
  | .set i k x => SMap.put (t.filter fun y => !(y.2.v && y.2.key == k)) i ⟨true, k, x⟩

/-- TAG_TABLE_CHANGE_LANDS: the changes of a core's table that are due at the end of this clock, in order of issue. -/
def execTagTableChangeLands (core : Nat) (s : State) : Host.Outcome State Fault Refusal :=
  .next (s.updCore core fun c => { c with
    tags := (c.tagPend.filter fun x => x.1 ≤ s.clock).foldl (fun t x => tagApply t x.2.2) c.tags
    tagPend := c.tagPend.filter fun x => x.1 > s.clock })

end Sys2Proof.Machine
end

