-- ==== Sys2Proof/Machine/Engine.lean ====
section
/-! DEFINITION. What the engines share: bank locks (R150), the task scheduler and its edges (R152, R153), reads and writes of storage by
engine commands (R104, R126, R143, R263), and their faults (R216). -/

namespace Sys2Proof.Machine

/-! ### Bank locks and edges -/

/-- R107: whether a quad granule between `lo` and `hi` lies on a core. -/
def granuleOn (core lo hi : Nat) : Bool :=
  hi ≥ lo + 3 || (List.range 3).any fun i => lo + i ≤ hi && (lo + i) % 4 == core % 4

/-- R150: the local banks of a core that `n` bytes at an address touch, in the local window or through the quad window. -/
def banksOf (core va n : Nat) : List Nat :=
  if n = 0 then []
  else match window va with
    | .spad o => (List.range (Nat.min 255 ((o + n - 1) / 2 ^ 13) + 1 - o / 2 ^ 13)).map (· + o / 2 ^ 13)
    | .quad o =>
      ((List.range (Nat.min 255 ((o + n - 1) / 2 ^ 15) + 1 - o / 2 ^ 15)).map (· + o / 2 ^ 15)).filter fun b =>
        granuleOn core (Nat.max (o / 128) (256 * b)) (Nat.min ((o + n - 1) / 128) (256 * b + 255))
    | _ => []

/-- A rising list of the banks of several ranges. -/
def banksOfAll (core : Nat) (l : List (Nat × Nat)) : List Nat :=
  l.foldl (fun bs r => (banksOf core r.1 r.2).foldl (fun bs b => insNat b bs) bs) []

/-- R150: a command's requests: an exclusive lock on each bank its destination touches, a shared one on each other bank its sources touch. -/
def lockList (wr rd : List Nat) : List (Nat × Bool) :=
  wr.map (fun b => (b, true)) ++ (rd.filter fun b => !wr.contains b).map fun b => (b, false)

/-- R150: whether a request is granted behind `before`: no earlier request for its bank, but shared ones of a shared request. -/
def lockFree (before : List LockReq) (r : LockReq) : Bool := !before.any fun x => x.bank == r.bank && (x.excl || r.excl)

/-- R150: whether every request of a command is granted. -/
def lockGranted (uid : Nat) : List LockReq → List LockReq → Bool
  | _, [] => true
  | before, r :: l => (r.uid != uid || lockFree before r) && lockGranted uid (before ++ [r]) l

/-- R150: whether a bank is held under a lock, and whether the lock is exclusive: its first request is always granted. -/
def Core.bankHeld (k : Core) (b : Nat) : Bool := k.locks.any fun r => r.bank == b
def Core.bankExcl (k : Core) (b : Nat) : Bool := ((k.locks.find? fun r => r.bank == b).map (·.excl)).getD false

/-- R153: whether two regions overlap and one of them is written. -/
def regionEdge (a b : Region) : Bool := a.addr < b.addr + b.len && b.addr < a.addr + a.len && (a.write || b.write)

/-- R153: 64 commands of the core are tracked. -/
def Core.trackFull (k : Core) : Bool := k.track.length ≥ 64

/-- The requests of commands whose edges have cleared, in issue order. -/
def lockReqs (t : Track) : List LockReq := t.locks.map fun x => ⟨t.uid, x.1, x.2⟩

/-- R153, R150: a command taken by the task scheduler: its edges, and its lock requests where it has none. -/
def State.trackCmd (s : State) (core uid ck : Nat) (fp : List Region) (wr rd : List Nat) : State :=
  s.updCore core fun k =>
    let deps := (k.track.filter fun t => t.ck == ck && t.regions.any fun a => fp.any fun b => regionEdge a b).map (·.uid)
    let t : Track := ⟨uid, ck, fp, deps, lockList wr rd, false⟩
    { k with track := k.track ++ [t], locks := if deps.isEmpty then k.locks ++ lockReqs t else k.locks }

/-- R150, R153: a command done with: its locks and its edges released; commands that it held request their locks, in issue order. -/
def State.untrack (s : State) (core uid : Nat) : State :=
  s.updCore core fun k =>
    let freed := k.track.filter fun t => t.deps == [uid]
    { k with
      track := (k.track.filter fun t => t.uid != uid).map fun t => { t with deps := t.deps.filter fun x => x != uid }
      locks := (k.locks.filter fun r => r.uid != uid) ++ freed.flatMap lockReqs }

/-- Whether a command holds every lock it requested. -/
def Core.hasLocks (k : Core) (uid : Nat) : Bool := k.track.any fun t => t.uid == uid && t.locked

/-- BANK_LOCK_GRANT (R150): a command whose edges have cleared and whose requests are all granted holds its locks. -/
def execBankLockGrant (core uid : Nat) (s : State) : Host.Outcome State Fault Refusal :=
  .next (s.updCore core fun k => { k with track := k.track.map fun t =>
    if t.uid == uid && t.deps.isEmpty && lockGranted uid [] k.locks then { t with locked := true } else t })

/-! ### Reading and writing storage for a command -/

/-- What a read by a command answers: bytes, each with its poison (R126); not yet; or a fault at an address. -/
inductive EngR where
  | ok (data : List (Byte × Bool))
  | wait
  | fault (f : AFault) (va : Nat)
  deriving DecidableEq, Repr

/-! ### Ports of the scratchpad (R106) -/

/-- The port of a bank that an access at a place takes. -/
def portOf (loc : Nat) (wr : Bool) : Nat := 2 * locBank loc + bit01 wr

/-- R106: whether a VM operation of the core that holds a place has the port that an access of an engine needs on this clock. A freeze, which ends within a
clock, waits for no port (DEDUCED, log 26). -/
def State.portTaken (s : State) (loc : Nat) (wr : Bool) : Bool :=
  let k := s.getCore (locCore loc)
  s.phase == 1 && isSpad loc && k.vmAt.1 == s.clock + 1 && k.vmAt.2.contains (portOf loc wr)

/-- R106: an access that waits for its port on this clock. -/
def State.portWaits (s : State) (loc : Nat) (wr : Bool) : State :=
  s.updCore (locCore loc) fun k => { k with portWait := SMap.upd (0, 0) k.portWait (portOf loc wr) fun w =>
    if w.2 = s.clock + 1 then w else if w.2 = s.clock && w.2 != 0 then (w.1, s.clock + 1) else (s.clock, s.clock + 1) }

/-- R106: whether an access that has waited 8 consecutive clocks takes a port of a core on this clock. -/
def Core.portDue (k : Core) (clk port : Nat) : Bool :=
  let w := SMap.get (0, 0) k.portWait port
  w.2 == clk && w.2 != 0 && Nat.ble (w.1 + 8) clk

/-- A read of up to 64 bytes that cross no 64-byte boundary, for command `cmd` of context `ck`. Of pod memory the whole line is asked for, once. -/
def State.engSeg (s : State) (ck : Nat) (acc : Acc) (cmd va n : Nat) : EngR × State :=
  let die := ckDie ck
  let (t, s) := s.resolve die (ckCc ck) acc (s.getCd ck).trbase.toNat va (ckCtx ck == 4) true false
  match t with
  | .fault f => (.fault f va, s)
  | .stall => (.wait, s)
  | .ok loc _ _ =>
    let p := s.poisoned loc n
    if s.portTaken loc false then (.wait, s.portWaits loc false)
    else (.ok ((s.readBytes loc n).map fun b => (b, p)), s)
  | .pod pkg a =>
    let o := va % 64
    match s.engPod.find? fun e => e.cmd == cmd && e.va == va - o with
    | some e => match e.data with
      | none => (.wait, s)
      | some (.inl f) => (.fault ⟨f.1, f.2⟩ va, s)
      | some (.inr d) => (.ok (((d.1.drop o).take n).map fun b => (b, d.2)), s)
    | none =>
      let part := s.partOf (ckCc ck)
      match s.podFault part pkg a with
      | some f => (.fault f va, s)
      | none =>
        let (u, s) := s.fresh
        let s : State := { s with engPod := s.engPod ++ [(⟨cmd, va - o, 64, u, none⟩ : EngRd)] }
        (.wait, s.podSend die part pkg (a - o) u s.clock (.read 64) (ckCtx ck == 4))

/-- A read of `n` bytes, piece by piece. -/
def State.engRead (s : State) (ck : Nat) (acc : Acc) (cmd : Nat) : Nat → Nat → Nat → EngR × State
  | 0, _, _ => (.ok [], s)
  | fuel + 1, va, n =>
    if n = 0 then (.ok [], s)
    else
      let k := Nat.min n (64 - va % 64)
      let (r, s) := s.engSeg ck acc cmd va k
      match r with
      | .fault f x => (.fault f x, s)
      | _ =>
        let (r', s) := s.engRead ck acc cmd fuel (va + k) (n - k)
        match r, r' with
        | _, .fault f x => (.fault f x, s)
        | .ok a, .ok b => (.ok (a ++ b), s)
        | _, _ => (.wait, s)

/-- The whole read. -/
def State.engReadN (s : State) (ck : Nat) (acc : Acc) (cmd va n : Nat) : EngR × State :=
  s.engRead ck acc cmd (n / 64 + 2) va n

/-- The replies that a command holds are dropped. -/
def State.dropPod (s : State) (cmd : Nat) : State := { s with engPod := s.engPod.filter fun e => e.cmd != cmd }

/-- What a write of a command would meet, without writing: a fault, a wait for a page walk (R122) or for a bank's port (R106), or neither. -/
def State.engWrFault (s : State) (ck : Nat) (acc : Acc) (va : Nat) : EngR × State :=
  let (t, s) := s.resolve (ckDie ck) (ckCc ck) acc (s.getCd ck).trbase.toNat va (ckCtx ck == 4) false true
  match t with
  | .fault f => (.fault f va, s)
  | .stall => (.wait, s)
  | .pod pkg a => match s.podFault (s.partOf (ckCc ck)) pkg a with
    | some f => (.fault f va, s)
    | none => (.ok [], s)
  | .ok loc _ _ => if s.portTaken loc true then (.wait, s.portWaits loc true) else (.ok [], s)

/-- R216: the record of a fault of an engine access: bit 34 of TREC2, with the identifier and channel of a copy. -/
def engRec (f : AFault) (va bundle ident ch idx : Nat) : FRec :=
  { code := f.code, cause := f.cause, r0 := BitVec.ofNat 64 va, r1 := BitVec.ofNat 64 bundle,
    r2 := BitVec.ofNat 64 (ident % 2 ^ 32 + ch % 4 * 2 ^ 32 + 2 ^ 34), r3 := BitVec.ofNat 64 idx }

/-- R265: the record of a lost posted write of an engine. -/
def lostRec (bundle : DWord) (ident ch : Nat) : FRec := engRec ⟨4, 7⟩ 0 bundle.toNat ident ch 0

/-- A write of up to 64 bytes that cross no 64-byte boundary, landing on this clock: written, and a write beyond the package is posted
(R263), its loss raising `r`; `w` says whose it is. -/
def State.engWrite (s : State) (ck : Nat) (acc : Acc) (va : Nat) (data : List (Byte × Bool)) (r : FRec) (w : Poster) : State :=
  let die := ckDie ck
  let (t, s) := s.resolve die (ckCc ck) acc (s.getCd ck).trbase.toNat va (ckCtx ck == 4) false true
  match t with
  | .ok loc kind _ =>
    if isHost loc then s.hostWrite die (ckCc ck) va loc kind (s.clock - head die 16) data w
    else s.storeP loc data
  | .pod pkg a => s.podWrite die (ckCc ck) pkg a va (s.clock - head die 17) (data.map Prod.fst) (data.any Prod.snd)
      { r with r0 := BitVec.ofNat 64 va } w
  | _ => s

/-- The pieces of a range that cross no 64-byte boundary. -/
def pieces64 : Nat → Nat → Nat → List (Nat × Nat)
  | 0, _, _ => []
  | fuel + 1, va, n =>
    if n = 0 then []
    else
      let k := Nat.min n (64 - va % 64)
      (va, k) :: pieces64 fuel (va + k) (n - k)

/-- The first fault or wait of the pieces of a write (R105: every part is translated before any is performed). -/
def State.engWrFaults (s : State) (ck : Nat) (acc : Acc) : List (Nat × Nat) → EngR × State
  | [] => (.ok [], s)
  | (va, _) :: l =>
    let (f, s) := s.engWrFault ck acc va
    match f with
    | .ok _ => s.engWrFaults ck acc l
    | f => (f, s)

/-- A range written whole, piece by piece. -/
def State.engWriteAll (s : State) (ck : Nat) (acc : Acc) (r : FRec) (w : Poster) : List (Nat × Nat) → List (Byte × Bool) → State
  | [], _ => s
  | (va, n) :: l, data => (s.engWrite ck acc va (data.take n) r w).engWriteAll ck acc r w l (data.drop n)

/-- R190: the signal of an engine command lands: the posted writes of the command that it counts are known by it. -/
def State.cmdSignal (s : State) (cmd core sem : Nat) (inc : Int) : State :=
  { s with posted := s.posted.map fun (p : Posted) => if p.cmd = cmd && cmd != 0 then { p with sigClk := some s.clock } else p }.signal core sem inc

/-! ### Faults and times -/

/-- R264: Out from a die to a package: the one-way time without queuing. -/
def State.outTime (s : State) (die pkg : Nat) (t : Tr) : Nat :=
  head die 17 + (if pkg = s.pkgNum then 0 else 220 * bits (SMap.get 0#64 s.podrt pkg).toNat 16 4) + s.headIo1 t

/-- R132: the clocks that an end adds. -/
def State.endClocks (s : State) (ck : Nat) (acc : Acc) (va : Nat) (dest : Bool) : Nat :=
  let die := ckDie ck
  match window va with
  | .quad o => if (quadPlace (ckCol ck) o).1 = ckCol ck then 0 else 8
  | .pod pkg a => if dest then head die 17 else 2 * s.outTime die pkg
      (if pkg = s.pkgNum then (s.podTranslate (s.podIndex (s.partOf (ckCc ck))) a (ckCtx ck == 4) true false).1 else .stall)
  | .dev _ =>
    match (s.resolve die (ckCc ck) acc (s.getCd ck).trbase.toNat va (ckCtx ck == 4) (!dest) dest).1 with
    | .ok loc _ _ =>
      if isHost loc then (if dest then head die 16 else 2 * head die 16)
      else 2 * head die (8 + (s.stackPlace loc).1)
    | _ => 0
  | _ => 0

end Sys2Proof.Machine
end

