-- ==== Sys2Proof/Machine/VecMem.lean ====
section
/-! DEFINITION. Vector loads and stores, and VRDQ (R363 to R366, R372): class VM. -/

namespace Sys2Proof.Machine

/-- How the lane addresses of a vector memory operation are formed (R364). -/
inductive LaneForm where
  | near | stride | index
  deriving DecidableEq, Repr

/-- R364: the addresses of the lanes. -/
def State.laneAddrs (s : State) (d : Nat) (f : FMEM) (k : LaneForm) : (Nat → Nat) × State :=
  let (a, s) := s.memAddr d f
  match k with
  | .near => (fun n => (a + 4 * n) % 2 ^ 64, s)
  | .stride =>
    let (b, s) := s.rdS d f.aux
    let s := s.emptyHold d 102
    (fun n => (a + n * b) % 2 ^ 64, s)
  | .index =>
    let (v, s) := s.rdSrc d 102 .v f.aux
    (fun n => (a + lane v n) % 2 ^ 64, s)

/-- R363: the alignment of lane `n`: VLD and VST take their type's element size, and so that of the first lane; the others take 4. -/
def laneMisaligned (f : FMEM) (k : LaneForm) (addr : Nat → Nat) (n : Nat) : Bool :=
  match k with
  | .near => addr 0 % (if f.ty == .b then 1 else f.ty.width / 8) != 0
  | _ => addr n % 4 != 0

/-- R364, R104: the fault of a byte's window: only the local scratchpad is reached. -/
def spadFault (va : Nat) : Option AFault :=
  match window va with
  | .bad c => some ⟨4, c⟩
  | .spad _ => none
  | _ => some ⟨4, 3⟩

/-- R364: the fault of a lane: alignment, then the window of each byte. -/
def laneFault (f : FMEM) (k : LaneForm) (addr : Nat → Nat) (n : Nat) : Option AFault :=
  if laneMisaligned f k addr n then some ⟨6, 6⟩
  else firstSome (fun i => spadFault (addr n + i)) [0, 1, 2, 3]

/-- The lowest faulting lane, with its fault. -/
def lanesFault (f : FMEM) (k : LaneForm) (addr : Nat → Nat) (on : List Nat) : Option (Nat × AFault) :=
  firstSome (fun n => (laneFault f k addr n).map fun e => (n, e)) on

/-- The place of a byte of the local scratchpad. -/
def State.spadAt (s : State) (d va : Nat) : Nat := spadLoc d s.cur.col ((va - spadBase) % 2 ^ 21)

/-- R106: the rows that the lanes touch, for the count of bank ports. -/
def State.portRows (s : State) (d : Nat) (addr : Nat → Nat) (on : List Nat) (wr : Bool) : State :=
  let rows := on.flatMap fun n => [addr n, addr n + 3].map fun a => (d, (a - spadBase) / 64, wr)
  { s with att := { s.att with vm := s.att.vm ++ rows } }

/-- R150: whether one of the banks of the bytes at the addresses `as` is held against a write, or a read. Locks that the iteration itself requests are
not held yet when it issues. -/
def State.banksHeld (s : State) (d : Nat) (as : List Nat) (wr : Bool) : Bool :=
  let k := s.coreD d
  let k := { k with locks := k.locks.filter fun r => s.att.uid0.all fun u => r.uid < u }
  as.any fun a =>
    let b := (a - spadBase) / 2 ^ 13
    if wr then k.bankHeld b else k.bankExcl b

/-- R150, R365: a load that touches a bank held exclusively, and a store into a bank held at all, stalls the column; and so does an access to bytes of a
BLAT of the context that are on their way (R169), and to a bank whose port an engine's access takes that has waited long enough (R106). An access is `n`
bytes at one of the addresses `as`. -/
def State.lockStall (s : State) (d : Nat) (as : List Nat) (n : Nat) (wr : Bool) : State :=
  let ends := as.flatMap fun a => [a, a + n - 1]
  let due := ends.any fun a => (s.coreD d).portDue s.clock (portOf (s.spadAt d a) wr)
  let late := as.any fun a => s.blatHeld (s.ck0 d) (s.spadAt d a) n
  if s.banksHeld d ends wr || due || late then s.stallFor 2 else s

/-- What a load and a store check alike: the lanes' faults, the locks and the ports; and whether the operation goes on. -/
def State.vecCheck (s : State) (d : Nat) (f : FMEM) (k : LaneForm) (addr : Nat → Nat) (on : List Nat) (wr : Bool) : Bool × State :=
  match lanesFault f k addr on with
  | some (n, e) => (false, s.accFault d e (addr n) n)
  | none => (true, (s.lockStall d (on.map addr) 4 wr).portRows d addr on wr)

/-- R364, R366: a vector load on a die. -/
def State.vldDie (s : State) (h : Hdr) (f : FMEM) (k : LaneForm) (d : Nat) : State :=
  let (on, s) := s.lanes d f.pr
  let s := s.emptyHold d 80
  let (addr, s) := s.laneAddrs d f k
  let ls := (List.range 16).filter on
  let (go, s) := s.vecCheck d f k addr ls false
  if !go then s
  else
    let bl := (s.ctxD d).blot
    match ls.find? fun n => s.readPoisoned bl (s.spadAt d (addr n)) 4 with
    | some _ => s.fault d { code := 10 }
    | none =>
      s.result d h 6 .v f.data.n (vecOfLanes fun n => if on n then leNat (s.readCtx bl (s.spadAt d (addr n)) 4) else 0) (laneMask on)
        0 0 true

/-- R220: bytes withheld one by one, each in its own line. -/
def withholdAll : List Blot → Nat → Nat → List Byte → List Blot
  | bl, _, _, [] => bl
  | bl, va, loc, b :: l => withholdAll (withhold bl va loc [b]) (va + 1) (loc + 1) l

/-- R364, R365: a vector store on a die: the lanes withheld in ascending order. -/
def State.vstDie (s : State) (h : Hdr) (f : FMEM) (k : LaneForm) (d : Nat) : State :=
  let (on, s) := s.lanes d f.pr
  let (addr, s) := s.laneAddrs d f k
  let (v, s) := s.rdSrc d 80 .v f.data
  let ls := (List.range 16).filter on
  let (go, s) := s.vecCheck d f k addr ls true
  if !go then s
  else
    let bl := ls.foldl (fun bl n => withholdAll bl (addr n) (s.spadAt d (addr n)) (leBytes 4 (lane v n))) (s.ctxD d).blot
    (s.updD d fun c => { c with blot := bl }).signalNow d h

/-- R363: VLD. -/
def opVld (h : Hdr) (f : FMEM) (s : State) : State := s.onDies h fun d s => s.vldDie h f .near d
def execVld (h : Hdr) (f : FMEM) (s : State) : Host.Outcome State Fault Refusal := s.attempt (opVld h f)

/-- R363: VLDS: a load of lanes S[AUX] bytes apart. -/
def opVlds (h : Hdr) (f : FMEM) (s : State) : State := s.onDies h fun d s => s.vldDie h f .stride d
def execVlds (h : Hdr) (f : FMEM) (s : State) : Host.Outcome State Fault Refusal := s.attempt (opVlds h f)

/-- R363: VGATH: a load of lanes at the offsets of V[AUX]. -/
def opVgath (h : Hdr) (f : FMEM) (s : State) : State := s.onDies h fun d s => s.vldDie h f .index d
def execVgath (h : Hdr) (f : FMEM) (s : State) : Host.Outcome State Fault Refusal := s.attempt (opVgath h f)

/-- R363: VST. -/
def opVst (h : Hdr) (f : FMEM) (s : State) : State := s.onDies h fun d s => s.vstDie h f .near d
def execVst (h : Hdr) (f : FMEM) (s : State) : Host.Outcome State Fault Refusal := s.attempt (opVst h f)

/-- R363: VSCAT: a store of lanes at the offsets of V[AUX]. -/
def opVscat (h : Hdr) (f : FMEM) (s : State) : State := s.onDies h fun d s => s.vstDie h f .index d
def execVscat (h : Hdr) (f : FMEM) (s : State) : Host.Outcome State Fault Refusal := s.attempt (opVscat h f)

/-- R372: VRDQ on a die: the oldest element of the stream removed and written, landing 2 clocks after issue. -/
def State.vrdqDie (s : State) (h : Hdr) (f : FRRR) (d : Nat) : State :=
  let (on, s) := s.lanes d f.pr
  let st : Stream := SMap.get {} (s.ctxD d).q f.srcA.n
  match st.elems with
  | [] => s.blockFor .stream
  | (v, p) :: rest =>
    let s := (s.wrCheck d .v f.dst.n).emptyHold d 80
    let s := s.updD d fun c => { c with q := SMap.set {} c.q f.srcA.n { st with elems := rest } }
    if p then
      let r : FRec := { code := 10, slot := s.cur.slot, r1 := s.cur.bundle }
      { s with att := { s.att with trap := s.att.trap ++ [(d, r)] } }
    else s.updD d fun c => { c with pend := c.pend ++ [
      { due := some (s.clock + 2), slot := s.cur.slot, issued := s.clock, sb := true, file := .v, idx := f.dst.n, val := v,
        mask := laneMask on, vfl := 0#32, grp := 0, sigSem := h.sigSem.toNat, sigInc := h.sigInc.toInt, pre := false, uid := 0, lat := 2 }] }

/-- R372: VRDQ. A poisoned element is removed, and its fault is taken after the iteration. -/
def opVrdq (h : Hdr) (f : FRRR) (s : State) : State := s.onDies h fun d s => (s.vrdqDie h f d).splices
def execVrdq (h : Hdr) (f : FRRR) (s : State) : Host.Outcome State Fault Refusal := s.attempt (opVrdq h f)

end Sys2Proof.Machine
end

