-- ==== Sys2Proof/Machine/CopyIssue.lean ====
section
/-! DEFINITION. Class CP as it issues (R127 to R143, R313 to R316, R338, R340, R343, R344). -/

namespace Sys2Proof.Machine

/-! ### Shape records (R137) -/

def shCols (x : BitVec 256) : Nat := bits x.toNat 0 32
def shRows (x : BitVec 256) : Nat := bits x.toNat 32 32
def shSstr (x : BitVec 256) : Int := asSigned 32 (bits x.toNat 96 32)
def shDstr (x : BitVec 256) : Int := asSigned 32 (bits x.toNat 128 32)
def shSty (x : BitVec 256) : Ty := Ty.ofCode (bits x.toNat 184 4)
def shDty (x : BitVec 256) : Ty := Ty.ofCode (bits x.toNat 188 4)
def shSexp (x : BitVec 256) : Int := asSigned 8 (bits x.toNat 192 8)

/-- R138: whether a record passes the static check. -/
def shapeOk (x : BitVec 256) : Bool :=
  bits x.toNat 64 32 == 0 && bits x.toNat 160 24 == 0 && bits x.toNat 200 56 == 0 &&
  bits x.toNat 184 4 < 14 && bits x.toNat 188 4 < 14 &&
  shRows x != 0 && shCols x != 0 && shRows x * shCols x ≤ 2 ^ 24 &&
  shSstr x % (shSty x).align == 0 && shDstr x % (shDty x).align == 0 &&
  (!((shSty x).isBlock || (shDty x).isBlock) || shCols x % 32 == 0)

/-! ### The ends of a copy (R133 to R135) -/

/-- The bits of a copied element: a RAW element is a byte (R134). -/
def copyBits (t : Ty) : Nat := if t == .b then 8 else t.width

/-- The copy commands. -/
inductive CopyKind where
  | plain | gather | check
  deriving DecidableEq, Repr

/-- R46: the format of the local bank that holds an address; RAW elsewhere. -/
def Core.bankTy (k : Core) (va : Nat) : Ty :=
  match window va with
  | .spad o => Ty.ofCode (SMap.get 0#32 k.bfmt (o / 2 ^ 13)).toNat
  | _ => .b

/-- What fixes a copy's ends at issue: its fields, its command, its addresses, its shape where loaded, whether its channel is bound. -/
structure CopyEnds where
  f : FCOPY
  kind : CopyKind
  d : Nat
  a : Nat
  sh : Option (BitVec 256)
  bound : Bool
  k : Core

/-- R133, R314, R338: the types of the ends. -/
def CopyEnds.types (e : CopyEnds) : Ty × Ty :=
  if e.kind == .check then
    let t := match e.sh with
      | some x => shSty x
      | none => if e.f.shen then .b else e.k.bankTy e.a
    (t, t)
  else match e.f.cnv, e.sh with
    | true, some x => (shSty x, shDty x)
    | _, _ =>
      let ts := e.k.bankTy e.a
      let td := e.k.bankTy e.d
      if ts != .b && td != .b && !e.bound then (ts, td) else (.b, .b)

/-- R134: the element count that LEN holds; none where it is not whole. -/
def lenCount (t : Ty) (len : Nat) : Option Nat :=
  if t.isBlock then
    let q := if t == .bk8 then 17 else 9
    if len ≥ 32 && (len - 32) * 16 % q == 0 then some ((len - 32) * 16 / q) else none
  else if len * 8 % copyBits t == 0 then some (len * 8 / copyBits t) else none

/-- R134: the element count; none where it is not whole. -/
def CopyEnds.count (e : CopyEnds) : Option Nat :=
  match e.sh with
  | some x => some (shRows x * shCols x)
  | none => lenCount e.types.1 e.f.len.toNat

/-- R131: whether the destination end is used. -/
def CopyEnds.dst (e : CopyEnds) : Bool := e.kind != .check && !e.bound

/-- R131, code 0x3. -/
def CopyEnds.badCount (e : CopyEnds) : Bool :=
  let (ts, td) := e.types
  match e.count with
  | none => true
  | some n => n % 32 != 0 && (ts.isBlock || (e.kind != .check && td.isBlock))

/-- R131, R133, code 0x4. -/
def CopyEnds.badStage (e : CopyEnds) : Bool :=
  let (ts, td) := e.types
  (e.f.cnv && !e.f.shen) || (e.f.scl && (!e.f.shen || ts.isInt || ts == .b)) || (e.f.trn && !e.f.shen) ||
    (e.f.tchk && !ts.isBlock) || (e.f.twr && !td.isBlock)

/-- R131, R134, code 0x6. -/
def CopyEnds.badShape (e : CopyEnds) : Bool :=
  let (ts, td) := e.types
  match e.sh with
  | none => false
  | some x =>
    let dc := if e.f.trn then shRows x else shCols x
    (ts.isBlock && shSstr x != ((shCols x * ts.width / 8 : Nat) : Int)) ||
      (e.dst && td.isBlock && shDstr x != ((dc * td.width / 8 : Nat) : Int)) ||
      (e.f.trn && shRows x * shCols x > 4096) || shSstr x % ts.align != 0 || (e.dst && shDstr x % td.align != 0)

/-- R131: the code with which a copy is refused: the lowest that applies. With its shape unloaded, what rests on the shape's types is not
known. -/
def CopyEnds.refusal (e : CopyEnds) : Option Nat :=
  let (ts, td) := e.types
  let unloaded := e.f.shen && e.sh.isNone
  if unloaded && (e.f.cnv || e.kind == .check) then some 5
  else if e.a % ts.align != 0 || (e.dst && e.d % td.align != 0) then some 1
  else if e.f.sstep.toInt % ts.align != 0 || (e.dst && e.f.dstep.toInt % td.align != 0) then some 2
  else if !unloaded && e.badCount then some 3
  else if e.badStage then some 4
  else if unloaded then some 5
  else if e.badShape then some 6
  else none

/-! ### The geometry of a command -/

/-- The COPY fields of a copy command's word. -/
def copyFields : Instr → FCOPY
  | .cpy _ f => f
  | .cpyg _ f => f
  | .cpchk _ f => f
  | .spxgo _ f => f
  | _ => ⟨0, 0, 0, 0, 0, 0, false, false, false, false, false, false, false, false, false, 0, 0, Reg.zero, Reg.zero⟩

def CopyCmd.f (c : CopyCmd) : FCOPY := copyFields c.op
def CopyCmd.isChk (c : CopyCmd) : Bool := match c.op with | .cpchk _ _ => true | _ => false
def CopyCmd.isSpx (c : CopyCmd) : Bool := match c.op with | .spxgo _ _ => true | _ => false
def CopyCmd.cols (c : CopyCmd) : Nat := if c.f.shen then shCols c.sh else c.n
def CopyCmd.rows (c : CopyCmd) : Nat := if c.f.shen then shRows c.sh else 1
def CopyCmd.sstr (c : CopyCmd) : Int := if c.f.shen then shSstr c.sh else 0
def CopyCmd.dstr (c : CopyCmd) : Int := if c.f.shen then shDstr c.sh else 0

/-- R133: the two types differ and neither is RAW. -/
def CopyCmd.conv (c : CopyCmd) : Bool := c.sty != c.dty && c.sty != .b && c.dty != .b
/-- Whether elements are decoded and encoded: a conversion, a scale stage, or a transpose of a block format. -/
def CopyCmd.xform (c : CopyCmd) : Bool := c.conv || c.f.scl || (c.f.trn && c.sty.isBlock)
/-- The type that the destination's elements have. -/
def CopyCmd.oty (c : CopyCmd) : Ty := if c.xform && c.dty != .b then c.dty else c.sty

def CopyCmd.sRow (c : CopyCmd) : Nat := Nat.max 1 (c.cols * copyBits c.sty / 8)
def CopyCmd.dRow (c : CopyCmd) : Nat := Nat.max 1 ((if c.f.trn then c.rows else c.cols) * copyBits c.oty / 8)
/-- The bytes of the source's data and scale planes. -/
def CopyCmd.sData (c : CopyCmd) : Nat := c.n * copyBits c.sty / 8
def CopyCmd.sScale (c : CopyCmd) : Nat := if c.sty.isBlock then c.n / 16 else 0
/-- The bytes of the destination's data plane, scale plane and copied trailer (R134), and of all that is written. -/
def CopyCmd.dData (c : CopyCmd) : Nat := c.n * copyBits c.oty / 8
def CopyCmd.dScale (c : CopyCmd) : Nat := if c.oty.isBlock then c.n / 16 else 0
def CopyCmd.tail (c : CopyCmd) : Nat := if c.oty.isBlock && !c.xform && !c.f.twr then 32 else 0
def CopyCmd.main (c : CopyCmd) : Nat := if c.isChk then 0 else c.dData + c.dScale + c.tail
def CopyCmd.total (c : CopyCmd) : Nat := c.main + (if c.f.twr then 32 else 0)

/-- R134: a RAW source copied as it is to a destination of a block format, whose region is laid out by that format. -/
def CopyCmd.rawBlock (c : CopyCmd) : Bool := !c.xform && c.sty == .b && c.dty.isBlock
/-- R33, R134: the offset of the trailer that a command writes: behind the planes of the destination's type. -/
def CopyCmd.trailerAt (c : CopyCmd) : Nat := if c.rawBlock then c.n * c.dty.width / 8 + c.n / 16 else c.main

/-- The address of a destination offset, and of a source offset, of the planes in order. -/
def CopyCmd.dva (c : CopyCmd) (o : Nat) : Nat :=
  if o < c.dData then ofSigned 64 ((c.daddr.toNat : Int) + (o / c.dRow : Nat) * c.dstr + (o % c.dRow : Nat))
  else if c.f.twr && o ≥ c.main then (c.daddr.toNat + c.trailerAt + (o - c.main)) % 2 ^ 64
  else (c.daddr.toNat + o) % 2 ^ 64
def CopyCmd.sva (c : CopyCmd) (o : Nat) : Nat :=
  if o < c.sData then ofSigned 64 ((c.saddr.toNat : Int) + (o / c.sRow : Nat) * c.sstr + (o % c.sRow : Nat)) else (c.saddr.toNat + o) % 2 ^ 64

/-- The ranges that the destination and the source cover. -/
def CopyCmd.dRanges (c : CopyCmd) : List (Nat × Nat) :=
  if c.isChk || c.isSpx || c.stream != 0 then []
  else if c.f.shen && !c.oty.isBlock then
    ((List.range (c.dData / c.dRow)).map fun r => (c.dva (r * c.dRow), c.dRow)) ++ if c.f.twr then [(c.dva c.main, 32)] else []
  else [(c.daddr.toNat, c.total)]
/-- A gathered source reaches whatever its 32-bit offsets name. -/
def CopyCmd.sRanges (c : CopyCmd) : List (Nat × Nat) :=
  if c.isSpx then [(c.saddr.toNat, c.f.len.toNat)]
  else if c.f.gath then [(c.saddr.toNat, 2 ^ 23)]
  else if c.f.shen && !c.sty.isBlock then (List.range c.rows).map fun r => (c.sva (r * c.sRow), c.sRow)
  else [(c.saddr.toNat, c.sData + c.sScale + (if c.sty.isBlock then 32 else 0))]

/-- The least and the end of the addresses that `rows` rows of `n` bytes, `str` apart, take. -/
def rowSpan (a rows : Nat) (str : Int) (n : Nat) : Int × Int :=
  let l : Int := a + ((rows - 1 : Nat) : Int) * str
  (min (a : Int) l, max (a : Int) l + n)

/-- R380: whether a command's destination may overlap its source: by their addresses, or through the two windows of a scratchpad. -/
def CopyCmd.overlaps (c : CopyCmd) : Bool :=
  let local_ := fun (va : Nat) => match window va with
    | .spad _ => 1
    | .quad _ => 2
    | _ => 0
  let a := rowSpan c.saddr.toNat c.rows c.sstr (if c.f.gath then 2 ^ 32 else if c.f.shen then c.sRow + c.sScale + 32 else c.sData + c.sScale + 32)
  let b := rowSpan c.daddr.toNat (if c.f.trn then c.cols else c.rows) c.dstr (if c.f.shen then c.dRow + c.total - c.dData else c.total)
  c.stream = 0 && (decide (a.1 < b.2 ∧ b.1 < a.2) || local_ c.saddr.toNat + local_ c.daddr.toNat == 3)

/-! ### Issue -/

/-- A channel of the cursor's core. -/
def State.chanD (s : State) (d ch : Nat) : Channel := SMap.get {} (s.coreD d).ch ch
def State.updChan (s : State) (core ch : Nat) (f : Channel → Channel) : State :=
  s.updCore core fun k => { k with ch := SMap.upd {} k.ch ch f }

/-- R131: a refusal. -/
def State.refuseCopy (s : State) (d ch code : Nat) : State :=
  s.updChan (coreKey d s.cur.col) ch fun c => { c with errv := true, err := code }

/-- R128, R129, R153: a command accepted into its channel, or what stops it. -/
def State.pushCopy (s : State) (d ch : Nat) (c : CopyCmd) : State :=
  let key := coreKey d s.cur.col
  let q := s.chanD d ch
  let s := if (s.coreD d).trackFull then s.stallFor 3 else s
  if q.q.length ≥ 16 then
    if (s.ctxD d).ws.cpctl.getLsbD 0 then
      let s := s.blockFor .push
      { s with att := { s.att with pushes := s.att.pushes ++ [(key, ch)] } }
    else s.fault d { code := 0x0D }
  else
    let (u, s) := s.fresh
    let c := { c with uid := u, ident := q.next.toNat, fp := if c.stream = 0 then c.fp else c.fp.filter fun r => !r.write }
    let s := s.updChan key ch fun x => { x with q := x.q ++ [c], next := x.next + 1#32 }
    s.trackCmd key u c.ck c.fp (banksOfAll s.cur.col c.dRanges) (banksOfAll s.cur.col c.sRanges)

/-- R53, R314: a copy's addresses: destination and source, with the die term on one side. That of a destination which a bound channel does not use
(R338) is latched too; a check has none. -/
def State.copyAddrs (s : State) (d : Nat) (f : FCOPY) (check : Bool) : Nat × Nat × State :=
  let t := s.dieTerm d f.dstride.toInt f.dts
  let (a, s) := if check then (0, s) else s.address d 80 f.dbase (f.doff.toInt + (if f.dside then t else 0)) f.dstep.toInt
  let (b, s) := s.address d 91 f.sbase (f.soff.toInt + (if f.dside then 0 else t)) f.sstep.toInt
  (a, b, s)

/-- R314: CopyIssue on a die. -/
def State.copyDie (s : State) (op : Instr) (h : Hdr) (f : FCOPY) (kind : CopyKind) (d : Nat) : State :=
  let ch := f.ch.toNat
  let c := s.ctxD d
  let stream := if kind == .check then 0 else SMap.get 0 c.bind ch
  let (da, sa, s) := s.copyAddrs d f (kind == .check)
  let k := f.shape.toNat
  let s := if f.shen && c.recs.any (fun r => r.k == k) then s.stallFor 9 else s
  let reg := SMap.get {} c.sh k
  let sh := if f.shen && reg.loaded then some reg.bits else none
  let e : CopyEnds := ⟨f, kind, da, sa, sh, stream != 0, s.coreD d⟩
  match e.refusal with
  | some code => s.refuseCopy d ch code
  | none =>
    let (ts, td) := e.types
    s.pushCopy d ch { uid := 0, ident := 0, ck := s.ck0 d, op := op, bundle := s.cur.bundle, daddr := BitVec.ofNat 64 da,
                      saddr := BitVec.ofNat 64 sa, sty := ts, dty := td, n := e.count.getD 0, qctl := c.ws.qctl,
                      sh := sh.getD 0#256, stream := stream, sbytes := h.sbytes, sigSem := h.sigSem.toNat,
                      sigInc := h.sigInc.toInt, fp := s.cur.fp }

/-- R313: CPY. -/
def opCpy (h : Hdr) (f : FCOPY) (s : State) : State := s.onDies h fun d s => (s.copyDie (.cpy h f) h f .plain d).splices
def execCpy (h : Hdr) (f : FCOPY) (s : State) : Host.Outcome State Fault Refusal := s.attempt (opCpy h f)

/-- R313, R143: CPYG. -/
def opCpyg (h : Hdr) (f : FCOPY) (s : State) : State := s.onDies h fun d s => (s.copyDie (.cpyg h f) h f .gather d).splices
def execCpyg (h : Hdr) (f : FCOPY) (s : State) : Host.Outcome State Fault Refusal := s.attempt (opCpyg h f)

/-- R313, R136: CPCHK. -/
def opCpchk (h : Hdr) (f : FCOPY) (s : State) : State := s.onDies h fun d s => (s.copyDie (.cpchk h f) h f .check d).splices
def execCpchk (h : Hdr) (f : FCOPY) (s : State) : Host.Outcome State Fault Refusal := s.attempt (opCpchk h f)

/-- R343: whether a decoder record of the core is on its way. -/
def State.spxPending (s : State) (core : Nat) : Bool :=
  (s.cd.any fun x => ckCore x.1 == core && x.2.recs.any fun r => r.k == 16) || (s.getCore core).fw.recs.any fun r => r.k == 16

/-- R344: SPXGO on a die. -/
def State.spxgoDie (s : State) (h : Hdr) (f : FCOPY) (d : Nat) : State :=
  let ch := f.ch.toNat
  let (sa, s) := s.address d 91 f.sbase (f.soff.toInt + s.dieTerm d f.dstride.toInt f.dts) f.sstep.toInt
  let k := s.coreD d
  let s := if s.spxPending (coreKey d s.cur.col) then s.stallFor 9 else s
  if k.spxMode = 1 && sa % 4 != 0 then s.refuseCopy d ch 1
  else if k.spxMode = 1 && f.len.toNat % 4 != 0 then s.refuseCopy d ch 3
  else s.pushCopy d ch { uid := 0, ident := 0, ck := s.ck0 d, op := .spxgo h f, bundle := s.cur.bundle, daddr := 0#64,
                         saddr := BitVec.ofNat 64 sa, sty := .b, dty := .b, n := f.len.toNat, qctl := 0#32, sh := 0#256, stream := 0,
                         sbytes := h.sbytes, sigSem := h.sigSem.toNat, sigInc := h.sigInc.toInt, fp := s.cur.fp,
                         spx := k.spxMode + 2 ^ 8 * k.spxShift + 2 ^ 16 * k.spxRate }

/-- R344: SPXGO. -/
def opSpxgo (h : Hdr) (f : FCOPY) (s : State) : State := s.onDies h fun d s => (s.spxgoDie h f d).splices
def execSpxgo (h : Hdr) (f : FCOPY) (s : State) : Host.Outcome State Fault Refusal := s.attempt (opSpxgo h f)

/-- R340, R343: a record of register `k` (16 for the decoder) read at issue. `cause` is that of its shape-or-alignment faults. -/
def State.recordDie (s : State) (h : Hdr) (f : FMEM) (k cause : Nat) (d : Nat) : State :=
  let (a, s) := s.memAddr d f
  let ck := s.ck0 d
  if a % 32 != 0 then
    let s := { s with att := { s.att with unload := if k < 16 then s.att.unload ++ [(ck, k)] else s.att.unload } }
    s.fault d { code := 6, cause := cause, r0 := BitVec.ofNat 64 a }
  else
    let (t, s) := s.place d .sc a true false
    let add := fun (s : State) due bits uid => s.updD d fun c => { c with recs := c.recs ++
      [{ due := due, k := k, bits := bits, sigSem := h.sigSem.toNat, sigInc := h.sigInc.toInt, bundle := s.cur.bundle,
         addr := BitVec.ofNat 64 a, uid := uid, ctx := ck, issued := s.clock }] }
    match t with
    | .fault e => s.accFault d e a 0
    | .stall => s.stallFor 8
    | .ok loc kind lat =>
      let bl := (s.ctxD d).blot
      if s.mustHold ck loc 32 kind || s.spadHeld ck loc 32 then s.stallFor 7
      else if s.readPoisoned bl loc 32 then s.fault d { code := 10 }
      else add s (some (s.clock + (if window a == .spad (a - spadBase) then 6 else lat)))
        (BitVec.ofNat 256 (leNat (s.readCtx bl loc 32))) 0
    | .pod pkg x =>
      let part := s.partOf s.cc0
      match s.podFault part pkg x with
      | some e => s.accFault d e a 0
      | none =>
        if s.podHold ck part pkg x 32 s.isFw false then s.stallFor 7
        else
          let (u, s) := s.fresh
          add (s.podSend d part pkg x u s.clock (.read 32) s.isFw) none 0#256 u

/-- R340: SHAPE. -/
def opShape (h : Hdr) (f : FMEM) (s : State) : State :=
  s.onDies h fun d s => (s.recordDie h f (f.sub.toNat % 16) 1 d).splices
def execShape (h : Hdr) (f : FMEM) (s : State) : Host.Outcome State Fault Refusal := s.attempt (opShape h f)

/-- R343: SPXCFG. -/
def opSpxcfg (h : Hdr) (f : FMEM) (s : State) : State := s.onDies h fun d s => (s.recordDie h f 16 3 d).splices
def execSpxcfg (h : Hdr) (f : FMEM) (s : State) : Host.Outcome State Fault Refusal := s.attempt (opSpxcfg h f)

/-- R338: SBIND. -/
def opSbind (h : Hdr) (f : FRRR) (s : State) : State :=
  s.onDies h fun d s =>
    let v := if f.sub.toNat / 4 % 2 = 1 then f.dst.n % 16 + 1 else 0
    ((s.updD d fun c => { c with bind := SMap.set 0 c.bind (f.sub.toNat % 4) v }).signalNow d h).splices
def execSbind (h : Hdr) (f : FRRR) (s : State) : Host.Outcome State Fault Refusal := s.attempt (opSbind h f)

/-- R129: CPDONE, after a command has left the queue. -/
def Channel.refresh (c : Channel) : Channel :=
  { c with done := match c.q with
      | x :: _ => BitVec.ofNat 32 x.ident
      | [] => c.next }

/-- R316: the commands of a context that have not begun removed from a channel: how many, and the state. -/
def State.drainChan (s : State) (core ck ch : Nat) : Nat × State :=
  let q := (SMap.get {} (s.getCore core).ch ch).q
  let gone := q.filter fun c => c.ck == ck && c.started.isNone
  let s := s.updChan core ch fun x => { x with q := x.q.filter fun c => !(c.ck == ck && c.started.isNone) }.refresh
  (gone.length, gone.foldl (fun s c => (s.untrack core c.uid).dropPod c.uid) s)

/-- R316: CPDRAIN on a die. -/
def State.cpdrainDie (s : State) (h : Hdr) (f : FRRR) (d : Nat) : State :=
  let (n, s) := [0, 1, 2, 3].foldl (fun x ch =>
    if f.sub.getLsbD ch then
      let (m, s) := x.2.drainChan (coreKey d s.cur.col) (s.ck0 d) ch
      (x.1 + m, s)
    else x) (0, s)
  s.result d h 2 .s f.dst.n (BitVec.ofNat 512 n) (BitVec.allOnes 512) 0 0 true

/-- R316: CPDRAIN. -/
def opCpdrain (h : Hdr) (f : FRRR) (s : State) : State := s.onDies h fun d s => (s.cpdrainDie h f d).splices
def execCpdrain (h : Hdr) (f : FRRR) (s : State) : Host.Outcome State Fault Refusal := s.attempt (opCpdrain h f)

end Sys2Proof.Machine
end

