-- ==== Sys2Proof/Machine/CopyRun.lean ====
section
/-! DEFINITION. Copies as they run (R127 to R143, R235, R314, R315, R344, R380): each landing of a piece, each completion, each fault. -/

namespace Sys2Proof.Machine

/-- What a command gets when it reads the elements it needs: the command with them, not yet, or a fault at an address and element. -/
inductive CopyR where
  | ok (c : CopyCmd)
  | wait
  | fault (f : AFault) (va idx : Nat)
  deriving DecidableEq, Repr

/-! ### Elements -/

/-- Element `i` of packed elements of `w` bits, with its poison. -/
def eltAt (w : Nat) (l : List (Byte × Bool)) (i : Nat) : Nat × Bool :=
  if w = 4 then
    let b := l.getD (i / 2) (0#8, false)
    (bits b.1.toNat (4 * (i % 2)) 4, b.2)
  else
    let x := (l.drop (i * (w / 8))).take (w / 8)
    (leNat (x.map Prod.fst), x.any Prod.snd)

def eltsOf (w n : Nat) (l : List (Byte × Bool)) : List (Nat × Bool) := (List.range n).map (eltAt w l)

/-- Elements packed into bytes with their poison; two four-bit elements share a byte. -/
def packP (w : Nat) : List (Nat × Bool) → List (Byte × Bool)
  | [] => []
  | a :: l =>
    if w = 4 then
      match l with
      | [] => [(BitVec.ofNat 8 (a.1 % 16), a.2)]
      | b :: l' => (BitVec.ofNat 8 (a.1 % 16 + 16 * (b.1 % 16)), a.2 || b.2) :: packP w l'
    else (leBytes (w / 8) a.1).map (fun b => (b, a.2)) ++ packP w l

/-- R32, R126: the FP32 values of a block's codes under its scale pair. -/
def decodeBlock (t : Ty) (codes sc : List (Byte × Bool)) (n : Nat) : List (Nat × Bool) :=
  let ea := sc.getD 0 (0#8, false)
  let eb := sc.getD 1 (0#8, false)
  (eltsOf t.width n codes).map fun x => (decodeBK t x.1 ea.1.toNat eb.1.toNat, x.2 || ea.2 || eb.2)

/-- The element type that a command's source has once decoded. -/
def CopyCmd.inTy (c : CopyCmd) : Ty := if c.xform && c.sty.isBlock then .f32 else c.sty

/-- R133: the scale stage: an exact product by 2^SEXP, rounded once. -/
def scaleElt (t : Ty) (sexp : Int) (x : Nat) : Nat :=
  match t.ffmt.dec x with
  | .nan _ => fmtF32.nan
  | .inf n => fmtF32.inf n
  | .fin n m e => (roundFl fmtF32 .rne n m (e + sexp) false).1

/-- The elements after the scale stage, as FP32 where it is enabled. -/
def CopyCmd.scaled (c : CopyCmd) (l : List (Nat × Bool)) : List (Nat × Bool) :=
  if c.f.scl then l.map fun x => (scaleElt c.inTy (shSexp c.sh) x.1, x.2) else l

/-- The type of the elements that are encoded. -/
def CopyCmd.midTy (c : CopyCmd) : Ty := if c.f.scl then .f32 else c.inTy

/-- R47: one element converted by RNE. -/
def convElt (dt st : Ty) (x : Nat) : Nat := if dt == st then x else (convert dt st .rne x).1

/-- R47, R314: elements encoded: their bytes appended, and for a block format its scale pair. -/
def CopyCmd.encode (c : CopyCmd) (l : List (Nat × Bool)) : CopyCmd :=
  let l := c.scaled l
  let t := c.oty
  let c := { c with elem := c.elem + l.length }
  if !c.xform then { c with out := c.out ++ packP (copyBits t) l }
  else if t.isBlock then
    let xs := l.map fun x => convElt .f32 c.midTy x.1
    let qs := if t == .bk4 then bits c.qctl.toNat 4 3 else bits c.qctl.toNat 0 3
    let (codes, ea, eb, sat, _) := quantBlock t xs qs none
    let p := l.any Prod.snd
    { c with
      out := c.out ++ packP t.width (codes.zip (l.map Prod.snd))
      scales := c.scales ++ [(BitVec.ofNat 8 ea, p), (BitVec.ofNat 8 eb, p)]
      sat := c.sat + sat }
  else { c with out := c.out ++ packP t.width (l.map fun x => (convElt t c.midTy x.1, x.2)) }

/-! ### Reading the source -/

/-- R188: whether the aligned 32-byte granule at an address lies wholly inside a command's source. -/
def CopyCmd.inside (c : CopyCmd) (g : Nat) : Bool :=
  !c.f.gath && (List.range 32).all fun i => c.sRanges.any fun r => r.1 ≤ g + i && g + i < r.1 + r.2

/-- R188: a range of a command's source read. The granule in which it ends is read whole where the command reads it whole, and what is left of it kept, but
where the command may write it meanwhile (R380). -/
def State.readG (s : State) (c : CopyCmd) (va n : Nat) : EngR × CopyCmd × State :=
  let pre := match c.gran with
    | some (g, b) => if g = va / 32 * 32 && va % 32 != 0 then (b.drop (va - g)).take n else []
    | none => []
  let va' := va + pre.length
  let n' := n - pre.length
  let e := va' + n'
  let g := e / 32 * 32
  let ext := if n' > 0 && e % 32 != 0 && va' ≤ g && c.inside g && !c.overlaps then 32 - e % 32 else 0
  let (r, s) := s.engReadN c.ck .cp c.uid va' (n' + ext)
  match r with
  | .ok l => (.ok (pre ++ l.take n'), { c with gran := if ext = 0 then (if n' = 0 then c.gran else none) else some (g, l.drop (g - va')) }, s)
  | r => (r, c, s)

/-- Ranges read one after another. -/
def State.readRuns (s : State) (c : CopyCmd) : List (Nat × Nat) → EngR × CopyCmd × State
  | [] => (.ok [], c, s)
  | (va, n) :: l =>
    let (r, c', s) := s.readG c va n
    match r with
    | .fault f x => (.fault f x, c, s)
    | _ =>
      let (r', c', s) := s.readRuns c' l
      match r, r' with
      | _, .fault f x => (.fault f x, c, s)
      | .ok a, .ok b => (.ok (a ++ b), c', s)
      | _, _ => (.wait, c, s)

/-- The ranges of the source bytes `o` to `o + n − 1` of the planes in order, row by row. -/
def CopyCmd.byteRuns (c : CopyCmd) : Nat → Nat → Nat → List (Nat × Nat)
  | 0, _, _ => []
  | fuel + 1, o, n =>
    if n = 0 then []
    else
      let k := Nat.min n (if o < c.sData then c.sRow - o % c.sRow else n)
      (c.sva o, k) :: c.byteRuns fuel (o + k) (n - k)

/-- The ranges of source elements `e` to `e + m − 1`, row by row. -/
def CopyCmd.runs (c : CopyCmd) : Nat → Nat → Nat → List (Nat × Nat)
  | 0, _, _ => []
  | fuel + 1, e, m =>
    if m = 0 then []
    else
      let w := copyBits c.sty
      if c.sty.isBlock then [(c.sva (e * w / 8), m * w / 8)]
      else
        let k := Nat.min m (c.cols - e % c.cols)
        (c.sva (e * w / 8), k * w / 8) :: c.runs fuel (e + k) (m - k)

/-- R143: gathered elements read in order, from offsets. -/
def State.gatherRead (s : State) (c : CopyCmd) : Nat → List Word → (EngR × Nat) × State
  | _, [] => ((.ok [], 0), s)
  | j, o :: os =>
    let va := (c.saddr.toNat + o.toNat) % 2 ^ 64
    if va % c.sty.align != 0 then ((.fault ⟨6, 2⟩ va, j), s)
    else
      let (r, s) := s.engReadN c.ck .cp c.uid va (Nat.max 1 (copyBits c.sty / 8))
      match r with
      | .fault f x => ((.fault f x, j), s)
      | .wait => ((.wait, j), s)
      | .ok a =>
        let ((r', k), s) := s.gatherRead c (j + 1) os
        match r' with
        | .ok b => ((.ok (a ++ b), k), s)
        | _ => ((r', k), s)

/-- R142: the offsets of a context in its core's operand queue. -/
def State.offsetsOf (s : State) (ck : Nat) : List Word :=
  ((s.getCore (ckCore ck)).opq.filter fun x => x.1 == ck).map Prod.snd

/-- The queue without the first `m` offsets of a context. -/
def takeOffsets (ck : Nat) : Nat → List (Nat × Word) → List (Nat × Word)
  | 0, l => l
  | _, [] => []
  | m + 1, x :: l => if x.1 = ck then takeOffsets ck m l else x :: takeOffsets ck (m + 1) l

/-- The scale pair of block `b` of the source, whose granules are read whole as those of the elements are. -/
def State.readScale (s : State) (c : CopyCmd) (b : Nat) : EngR × CopyCmd × State :=
  if c.xform && c.sty.isBlock then
    let (r, x, s) := s.readG { c with gran := c.granS } ((c.saddr.toNat + c.sData + 2 * b) % 2 ^ 64) 2
    (r, { c with granS := x.gran }, s)
  else (.ok [], c, s)

/-- Codes and scale pair of up to 32 elements made elements. -/
def CopyCmd.decode (c : CopyCmd) (m : Nat) (l sc : List (Byte × Bool)) : List (Nat × Bool) :=
  if c.xform && c.sty.isBlock then decodeBlock c.sty l sc m else eltsOf (copyBits c.sty) m l

/-- R136: the planes as a trailer check reads them. -/
def CopyCmd.note (c : CopyCmd) (l sc : List (Byte × Bool)) : CopyCmd :=
  if c.f.tchk then { c with srcData := c.srcData ++ l.map Prod.fst, srcScale := c.srcScale ++ sc.map Prod.fst } else c

/-- R380: source elements `e` to `e + m − 1` read, where they lie in one block of a block format, and given to `k`. -/
def State.fetch (s : State) (c : CopyCmd) (e m : Nat) (k : CopyCmd → List (Nat × Bool) → CopyCmd) : CopyR × State :=
  let (sc, c, s) := s.readScale c (e / 32)
  match sc with
  | .fault f va => (.fault f va 0, s)
  | .wait => (.wait, s)
  | .ok sc =>
    if c.f.gath then
      let offs := c.taken.take m
      let ((r, j), s) := s.gatherRead c e offs
      match r with
      | .fault f va => (.fault f va j, s)
      | .wait => (.wait, s)
      | .ok l =>
        if offs.length < m then (.wait, s)
        else
          let l := if c.sty == .bk4 then packP 4 (l.map fun x => (x.1.toNat % 16, x.2)) else l
          let c := { c with taken := c.taken.drop m }
          (.ok (k (c.note l sc) (c.decode m l sc)), s)
    else
      let (r, c, s) := s.readRuns c (c.runs m e m)
      match r with
      | .fault f va => (.fault f va 0, s)
      | .wait => (.wait, s)
      | .ok l => (.ok (k (c.note l sc) (c.decode m l sc)), s)

/-- R380: the whole source of a TRN copy read, 32 elements at a time. -/
def State.fetchAll (s : State) (c : CopyCmd) : Nat → CopyR × State
  | 0 => (.ok { c with read := true }, s)
  | fuel + 1 =>
    let e := c.held.length
    if e ≥ c.n then (.ok { c with read := true }, s)
    else
      let (r, s) := s.fetch c e (Nat.min 32 (c.n - e)) fun c l => { c with held := c.held ++ l }
      match r with
      | .ok c => s.fetchAll c fuel
      | _ => (r, s)

/-- The source index of destination element `i` of a transpose. -/
def CopyCmd.trnIdx (c : CopyCmd) (i : Nat) : Nat := i % c.rows * c.cols + i / c.rows

/-- Elements converted until `len` bytes of output stand ready: a block at a time where an end is a block format. -/
def State.fill (s : State) (c : CopyCmd) (len : Nat) : Nat → CopyR × State
  | 0 => (.ok c, s)
  | fuel + 1 =>
    if c.out.length ≥ len || c.elem ≥ c.n then (.ok c, s)
    else
      let grp := if c.xform && (c.sty.isBlock || c.oty.isBlock) then 32 else ceilDiv ((len - c.out.length) * 8) (copyBits c.oty)
      let m := Nat.min grp (c.n - c.elem)
      if c.f.trn then
        let l := (List.range m).map fun i => c.held.getD (c.trnIdx (c.elem + i)) (0, false)
        s.fill (c.encode l) len fuel
      else
        let (r, s) := s.fetch c c.elem m CopyCmd.encode
        match r with
        | .ok c => s.fill c len fuel
        | _ => (r, s)

/-! ### Pieces -/

/-- The bytes of a command's next write: at most 64, within one 64-byte line, within one row or plane (R139) and one unit (R235). -/
def CopyCmd.lineLen (c : CopyCmd) : Nat :=
  let o := c.done
  let room := Nat.min (64 - (if c.stream = 0 then c.dva o else o) % 64) (if o < c.main then 128 - o % 128 else 64)
  if o < c.dData then Nat.min room (Nat.min (c.dData - o) (if c.stream = 0 then c.dRow - o % c.dRow else 64))
  else if o < c.dData + c.dScale then Nat.min room (c.dData + c.dScale - o)
  else if o < c.main then Nat.min room (c.main - o)
  else Nat.min room (c.total - o)

/-- The bytes of the next piece that lands: the next write, but for what of it lies in a granule that the command goes on to write, which lands with what follows
in it (R188). -/
def CopyCmd.pieceLen (c : CopyCmd) : Nat :=
  let n := c.lineLen
  let e := c.dva (c.done + n - 1) + 1
  if c.stream = 0 && c.done + n < c.total && c.dva (c.done + n) == e && e % 32 < n then n - e % 32 else n

/-- R136: the type that a trailer names: the destination's. A RAW source is copied as it is under the destination's type (DEDUCED, log 91). -/
def CopyCmd.fmtTy (c : CopyCmd) : Ty := if c.rawBlock then c.dty else c.oty

/-- R36: the trailer of the destination's planes as the command wrote them. -/
def CopyCmd.trailer (c : CopyCmd) (data sc : List Byte) : List Byte :=
  let t := c.fmtTy
  let mag := (List.range (c.n / 32)).foldl (fun a b =>
    maxMag t ((List.range 32).map fun i => elemAt t data (32 * b + i)) (sc.getD (2 * b) 0#8).toNat (sc.getD (2 * b + 1) 0#8).toNat a) 0
  trailerBytes t c.n c.sat mag (crcOut (crcStep (crcStep 0xFFFFFFFF data) sc))

/-- What stands at the destination in `n` bytes at an address, which the command has not written: of another package's memory, free values. -/
def State.peek (s : State) (c : CopyCmd) : List (Nat × Nat) → EngR × State
  | [] => (.ok [], s)
  | (va, n) :: l =>
    let (t, s) := s.resolve (ckDie c.ck) (ckCc c.ck) .cp (s.getCd c.ck).trbase.toNat va (ckCtx c.ck == 4) false true
    match t with
    | .fault f => (.fault f va, s)
    | .stall => (.wait, s)
    | .ok loc _ _ =>
      match s.peek c l with
      | (.ok b, s') => (.ok ((s.readBytes loc n).map (fun x => (x, false)) ++ b), s')
      | r => r
    | .pod pkg a =>
      let here := if pkg = s.pkgNum then
          match (s.podTranslate (s.podIndex (s.partOf (ckCc c.ck))) a (ckCtx c.ck == 4) false true).1 with
          | .ok loc _ _ => s.readBytes loc n
          | _ => (List.range n).map fun i => Config.farByte pkg (a + i)
        else (List.range n).map fun i => Config.farByte pkg (a + i)
      match s.peek c l with
      | (.ok b, s') => (.ok (here.map (fun x => (x, false)) ++ b), s')
      | r => r

/-- R36, R136: the trailer that a command writes. A RAW source fills the data plane alone of a destination of a block format: the scale plane is as it stands there
(DEDUCED, log 91). -/
def State.trailerOf (s : State) (c : CopyCmd) : EngR × State :=
  if !c.rawBlock then (.ok ((c.trailer (c.wrote.take c.dData) (c.wrote.drop c.dData)).map fun b => (b, false)), s)
  else
    let w := c.dty.width
    let data := (List.range c.rows).flatMap fun r => (c.wrote.drop (r * c.dRow)).take (c.cols * w / 8)
    let (r, s) := s.peek c (pieces64 (c.n / 1024 + 2) ((c.daddr.toNat + c.n * w / 8) % 2 ^ 64) (c.n / 16))
    match r with
    | .ok sc => (.ok ((c.trailer data (sc.map Prod.fst)).map fun b => (b, false)), s)
    | r => (r, s)

/-- R235: the destination bytes from the next one to the end of its 128-byte unit. -/
def CopyCmd.unitLeft (c : CopyCmd) : Nat := Nat.min (128 - c.done % 128) (c.main - c.done)

/-- The destination bytes whose source is read before the next piece lands: of its whole unit (R235); where the destination may overlap the source, of its write
alone, after every earlier one (R380). -/
def CopyCmd.need (c : CopyCmd) : Nat := if c.overlaps then c.lineLen else c.unitLeft

/-- R136: the planes of a copy that moves bytes unchanged, from offset `p` on, as a trailer check reads them. -/
def CopyCmd.noteAt (c : CopyCmd) (p : Nat) (l : List (Byte × Bool)) : CopyCmd :=
  c.note (l.take (c.dData - p)) ((l.drop (c.dData - p)).take (c.dScale - (p - c.dData)))

/-- The bytes that the next piece writes, in `out`'s first places, with what was read for it where they are not held. -/
def State.pieceData (s : State) (c : CopyCmd) : CopyR × State :=
  let o := c.done
  let len := c.pieceLen
  if o ≥ c.main then
    let (r, s) := s.trailerOf c
    match r with
    | .fault f va => (.fault f va 0, s)
    | .wait => (.wait, s)
    | .ok l => (.ok { c with out := (l.drop (o - c.main)).take len }, s)
  else if o < c.dData && (c.xform || c.f.trn || c.f.gath) then
    if c.f.trn && !c.read then
      let (r, s) := s.fetchAll c (c.n / 32 + 2)
      match r with
      | .ok c => s.fill c c.need 130
      | _ => (r, s)
    else s.fill c c.need 130
  else if o < c.dData + c.dScale && c.xform then
    (.ok { c with out := (c.scales.drop (o - c.dData)).take len }, s)
  else if c.out.length ≥ len then (.ok c, s)
  else
    let n := c.need - c.out.length
    let (r, c, s) := s.readRuns c (c.byteRuns n (o + c.out.length) n)
    match r with
    | .fault f va => (.fault f va 0, s)
    | .wait => (.wait, s)
    | .ok l => (.ok { c.noteAt (o + c.out.length) l with out := c.out ++ l }, s)

/-- The next write is the destination's last but for a trailer that the command writes. -/
def CopyCmd.lastMain (c : CopyCmd) : Bool := c.done < c.main && c.done + c.lineLen ≥ c.main

/-- R136: a trailer check: none where it holds, or the stored and computed CRC. -/
def CopyCmd.checkTrailer (c : CopyCmd) (tr : List Byte) : Option (Nat × Nat) :=
  let crc := crcOut (crcStep (crcStep 0xFFFFFFFF c.srcData) c.srcScale)
  let fld := fun i => leNat ((tr.drop i).take 4)
  if fld 16 = crc && (tr.getD 12 0#8).toNat = c.sty.code && fld 8 = c.n then none else some (fld 16, crc)

/-- What comes of a command's trailer check when its planes have been read. -/
def State.tchk (s : State) (c : CopyCmd) : CopyR × Option (Nat × Nat) × State :=
  if !c.f.tchk then (.ok c, none, s)
  else
    let (r, s) := s.engReadN c.ck .cp c.uid ((c.saddr.toNat + c.sData + c.sScale) % 2 ^ 64) 32
    match r with
    | .fault f va => (.fault f va 0, none, s)
    | .wait => (.wait, none, s)
    | .ok l => (.ok c, c.checkTrailer (l.map Prod.fst), s)

/-! ### Landing -/

/-- R110: bytes appended to a stream, 64 to an element. -/
def Stream.append (q : Stream) : List (Byte × Bool) → Stream
  | [] => q
  | b :: l =>
    let part := q.part ++ [b.1]
    let p := q.partPoison || b.2
    if part.length = 64 then Stream.append { elems := q.elems ++ [(vecOfBytes part, p)], part := [], partPoison := false } l
    else Stream.append { q with part := part, partPoison := p } l

/-- R110: a final part element appended with its missing bytes zero. -/
def Stream.flush (q : Stream) : Stream :=
  if q.part.isEmpty then q else { elems := q.elems ++ [(vecOfBytes q.part, q.partPoison)], part := [], partPoison := false }

def State.streamOf (s : State) (c : CopyCmd) : Stream := SMap.get {} (s.getCd c.ck).q (c.stream - 1)
def State.updStream (s : State) (c : CopyCmd) (f : Stream → Stream) : State :=
  s.updCd c.ck fun x => { x with q := SMap.upd {} x.q (c.stream - 1) f }

/-- Whether the next piece's destination lies in the core's own scratchpad. -/
def CopyCmd.localDst (c : CopyCmd) : Bool := c.stream = 0 && !(banksOf (ckCol c.ck) (c.dva c.done) 1).isEmpty

/-- R127: the bytes moved by a key of `moved` on this clock. -/
def State.movedNow (s : State) (core k : Nat) : Nat :=
  let x : Nat × Nat := SMap.get (0, 0) (s.getCore core).moved k
  if x.1 = s.clock then x.2 else 0
def State.addMoved (s : State) (core k n : Nat) : State :=
  s.updCore core fun x => { x with moved := SMap.set (0, 0) x.moved k (s.clock, s.movedNow core k + n) }

/-- The head of a channel's queue. -/
def State.copyHead (s : State) (core ch : Nat) : Option CopyCmd := (SMap.get {} (s.getCore core).ch ch).q.head?
/-- The head of a channel's queue replaced. -/
def State.setHead (s : State) (core ch : Nat) (c : CopyCmd) : State :=
  s.updChan core ch fun x => { x with q := c :: x.q.drop 1 }

/-- R190: what the writes of a copy are known by; in byte mode each is counted by the signal of its own landing. -/
def CopyCmd.poster (c : CopyCmd) (ch clk : Nat) : Poster :=
  { cmd := c.uid, sem := c.sigSem, chan := ch + 1, ident := c.ident, sigClk := if c.sbytes then some clk else none }

/-- R126, R139, R140: a piece lands: written or appended, counted, and remembered for a trailer. -/
def State.landPiece (s : State) (core ch : Nat) (c : CopyCmd) : State :=
  let len := c.pieceLen
  let data := c.out.take len
  let s := if len = 0 then s else if c.stream = 0 then s.engWrite c.ck .cp (c.dva c.done) data (lostRec c.bundle c.ident ch) (c.poster ch s.clock)
    else s.updStream c fun q => q.append data
  let s := (if c.localDst then s.addMoved core 4 len else s).addMoved core ch len
  let s := if c.sbytes then s.signal core c.sigSem len else s
  let w := if c.f.twr && c.done < c.main then c.wrote ++ data.map Prod.fst else c.wrote
  s.setHead core ch { c with out := c.out.drop len, done := c.done + len, wrote := w }

/-- R188, R36: whether the piece after one that has landed lands with it: it goes on within the same aligned 32-byte granule, or within the trailer. -/
def CopyCmd.joined (c : CopyCmd) : Bool :=
  c.stream = 0 && c.done < c.total && (c.done > c.main || (c.dva c.done % 32 != 0 && c.dva c.done == c.dva (c.done - 1) + 1))

/-- The end of the pieces that land with the next one: no more than 64 bytes. -/
def CopyCmd.batchEnd : Nat → CopyCmd → Nat
  | 0, c => c.done + c.pieceLen
  | n + 1, c =>
    let c1 : CopyCmd := { c with done := c.done + c.pieceLen }
    if c1.joined then c1.batchEnd n else c1.done

/-- R127, R132, R140: whether the next piece may land on this clock, with those that land with it, by the channel's pace, the scratchpad's and the stream's room. -/
def State.pieceDue (s : State) (core ch : Nat) (c : CopyCmd) : Bool :=
  match c.started with
  | none => false
  | some t =>
    let e := c.batchEnd 34
    t + c.least + ceilDiv (e - c.base) 64 ≤ s.clock && s.movedNow core ch + (e - c.done) ≤ 64 &&
      (!c.localDst || s.movedNow core 4 + (e - c.done) ≤ 128) && (c.stream = 0 || (s.streamOf c).elems.length < 8 || (s.getCc (ckCc c.ck)).st == .free)

/-- R129, R153, R150: the head of a channel ends: with its signal where `ok`. -/
def State.copyEnd (s : State) (core ch : Nat) (c : CopyCmd) (ok : Bool) : State :=
  let s := s.updChan core ch fun x => { x with q := x.q.drop 1 }.refresh
  let s := (s.untrack core c.uid).dropPod c.uid
  if ok && !c.sbytes then s.cmdSignal c.uid core c.sigSem c.sigInc else s

/-- R143: a command ends at a faulting access: complete for CPDONE, no signal, the fault delivered to its context. -/
def State.copyFault (s : State) (core ch : Nat) (c : CopyCmd) (f : AFault) (va idx : Nat) : State :=
  (s.copyEnd core ch c false).asyncFault c.ck (engRec f va c.bundle.toNat c.ident ch idx) c.uid

/-- R136: a trailer check that failed. -/
def State.trailerFault (s : State) (core ch : Nat) (c : CopyCmd) (x : Nat × Nat) : State :=
  let r : FRec := { code := 7, r1 := c.bundle, r2 := BitVec.ofNat 64 (x.1 + x.2 * 2 ^ 32),
                    r3 := BitVec.ofNat 64 (c.ident % 2 ^ 32 + ch * 2 ^ 32) }
  (s.copyEnd core ch c false).asyncFault c.ck r c.uid

/-- What comes of the next piece of a head: its data read and, for the last before a trailer, checked; and its destination translated. -/
def State.nextPiece (s : State) (c : CopyCmd) : CopyR × Option (Nat × Nat) × State :=
  let (r, s) := s.pieceData c
  match r with
  | .ok c' =>
    let (r, x, s) := if c.lastMain then s.tchk c' else (.ok c', none, s)
    match r with
    | .ok c' =>
      if c'.stream != 0 || x.isSome || c'.pieceLen = 0 then (.ok c', x, s)
      else
        let (f, s) := s.engWrFault c'.ck .cp (c'.dva c'.done)
        match f with
        | .fault f x => (.fault f x 0, none, s)
        | .wait => (.wait, none, s)
        | .ok _ => (.ok c', none, s)
    | _ => (r, none, s)
  | _ => (r, none, s)

/-! ### SPXGO (R142, R344) -/

/-- The offsets of a bitmap. -/
def spxBitmap (shift : Nat) : Nat → List Byte → List Word
  | _, [] => []
  | i, b :: l =>
    ((List.range 8).filter fun j => b.getLsbD j).map (fun j => BitVec.ofNat 32 ((i + j) * 2 ^ shift)) ++ spxBitmap shift (i + 8) l

/-- The offsets of run-length words. -/
def spxRuns (shift : Nat) : Nat → Nat → List Byte → List Word
  | 0, _, _ => []
  | fuel + 1, pos, l =>
    if l.length < 4 then []
    else
      let w := leNat (l.take 4)
      let p := pos + w / 2 ^ 16
      (List.range (w % 2 ^ 16)).map (fun j => BitVec.ofNat 32 ((p + j) * 2 ^ shift)) ++ spxRuns shift fuel (p + w % 2 ^ 16) (l.drop 4)

/-- R142: the offsets of metadata under a latched configuration. -/
def spxDecode (cfg : Nat) (l : List Byte) : List Word :=
  if cfg % 2 ^ 8 = 0 then spxBitmap (bits cfg 8 8) 0 l else spxRuns (bits cfg 8 8) (l.length / 4 + 1) 0 l

/-- R344: the metadata read when the command starts; bytes from the first poisoned one on are not decoded. -/
def State.spxStart (s : State) (core ch : Nat) (c : CopyCmd) : State :=
  let (r, s) := s.engReadN c.ck .cp c.uid c.saddr.toNat c.n
  match r with
  | .wait => s
  | .fault f va => s.copyFault core ch c f va 0
  | .ok l =>
    let good := l.takeWhile fun x => !x.2
    let s := if c.sbytes && !c.read then s.signal core c.sigSem good.length else s
    s.setHead core ch { c with read := true, started := some s.clock, least := 12, bad := good.length < l.length,
                               offs := (spxDecode c.spx (good.map Prod.fst)).drop c.base }

/-- R142: up to RATE offsets pushed on a clock, while the operand queue has room. -/
def State.spxPush (s : State) (core ch : Nat) (c : CopyCmd) : State :=
  let m := Nat.min (Nat.min (bits c.spx 16 8) (64 - (s.getCore core).opq.length)) c.offs.length
  if m = 0 || s.movedNow core ch > 0 then s
  else
    let s := s.updCore core fun k => { k with opq := k.opq ++ (c.offs.take m).map fun o => (c.ck, o) }
    (s.addMoved core ch 1).setHead core ch { c with offs := c.offs.drop m, done := c.done + m }

/-! ### The events -/

/-- R142, R143: whether an earlier command of the same sort stands uncompleted on the core: SPXGOs are decoded, and CPYGs run, one at a
time in issue order. -/
def State.spxBehind (s : State) (core : Nat) (c : CopyCmd) : Bool :=
  [0, 1, 2, 3].any fun ch => (SMap.get {} (s.getCore core).ch ch).q.any fun x =>
    x.uid < c.uid && ((c.isSpx && x.isSpx) || (c.f.gath && !c.isSpx && x.f.gath && !x.isSpx))

/-- R132: the clocks of a command's stages and ends over ⌈bytes ÷ 64⌉. -/
def State.copyLeast (s : State) (c : CopyCmd) : Nat :=
  12 + (if c.f.gath then 12 else 0) + (if c.f.tchk then 16 else 0) +
    (if c.conv || (c.xform && c.sty.isBlock) then 16 else 0) + (if c.f.scl then 4 else 0) + (if c.f.trn then 64 else 0) +
    (if c.f.twr then 16 else 0) + s.endClocks c.ck .cp c.saddr.toNat false +
    (if c.isChk || c.stream != 0 then 0 else s.endClocks c.ck .cp c.daddr.toNat true)

/-- COPY_COMMAND_START (R150, R153): the head of a channel that holds its locks begins. -/
def execCopyCommandStart (core ch : Nat) (s : State) : Host.Outcome State Fault Refusal :=
  match s.copyHead core ch with
  | none => .next s
  | some c =>
    if c.started.isSome || (s.getCc (ckCc c.ck)).st == .loading || !(s.getCore core).hasLocks c.uid || s.spxBehind core c then .next s
    else if c.isSpx then .next (s.spxStart core ch c)
    else .next (s.setHead core ch { c with started := some s.clock, least := s.copyLeast c })

/-- R110: a stream takes the part element left by a command, if it has room. -/
def State.flushStream (s : State) (c : CopyCmd) : State := if c.stream = 0 then s else s.updStream c Stream.flush

/-- The next piece of a head lands, whatever the clock, with those that are joined to it; the last piece completes the command (R315). Also whether one of them
waits for what it reads or for a page walk. -/
def State.landChain (s : State) (core ch : Nat) : Nat → Bool × State
  | 0 => (false, s)
  | fuel + 1 => match s.copyHead core ch with
    | none => (false, s)
    | some c => match s.nextPiece c with
      | (.ok c', none, s') =>
        let t := s'.landPiece core ch c'
        if c.done + c.pieceLen ≥ c.total then (false, (t.flushStream c').copyEnd core ch c' true)
        else match t.copyHead core ch with
          | some c1 => if c1.joined then t.landChain core ch fuel else (false, t)
          | none => (false, t)
      | (.wait, _, s') => (true, s')
      | _ => (false, s)

/-- The lines of pod memory that a command asked for between `s` and `t`, asked for on `s`. -/
def State.askedOf (s t : State) (c : CopyCmd) : State :=
  (t.engPod.filter fun e => e.cmd == c.uid && !s.engPod.any fun x => x.cmd == e.cmd && x.va == e.va).foldl
    (fun s e => (s.engSeg c.ck .cp c.uid e.va 1).2) s

/-- R143: the elements of the source that the next piece of a CPYG needs and has no offsets for. -/
def CopyCmd.lacks (c : CopyCmd) : Nat :=
  let grp := fun (bytes : Nat) => let e := ceilDiv (bytes * 8) (copyBits c.oty); if c.xform && (c.sty.isBlock || c.oty.isBlock) then ceilDiv e 32 * 32 else e
  (if c.f.trn then c.n - c.held.length else Nat.min (grp (c.need - c.out.length)) (c.n - c.elem)) - c.taken.length

/-- R143: a CPYG that has started takes the offsets of its context as they come, up to those its next unit needs. -/
def State.gatherTake (s : State) (core ch : Nat) (c : CopyCmd) : State :=
  let offs := (s.offsetsOf c.ck).take c.lacks
  if !c.f.gath || c.isSpx || c.started.isNone || c.done ≥ c.dData || offs.isEmpty then s
  else (s.updCore core fun x => { x with opq := takeOffsets c.ck offs.length x.opq }).setHead core ch { c with taken := c.taken ++ offs }

/-- R264: the source of a copy in pod memory asked for line by line from its start on, one a clock. -/
def State.askAhead (s : State) (core ch : Nat) (c : CopyCmd) : State :=
  let total := c.sData + c.sScale
  match c.started, window (c.sva c.asked) with
  | some t, .pod _ _ =>
    if c.f.gath || c.isSpx || c.overlaps || c.asked ≥ total || c.asked ≥ 64 * (s.clock - t + 1) then s
    else
      let va := c.sva c.asked
      let k := Nat.min (64 - va % 64) (if c.asked < c.sData then c.sRow - c.asked % c.sRow else total - c.asked)
      (s.engSeg c.ck .cp c.uid va k).2.setHead core ch { c with asked := c.asked + k }
  | _, _ => s

/-- COPY_WRITE_LANDS (R139, R314): a channel's command asks for its source and takes its offsets, and its next piece lands, but for the last; an SPXGO
pushes offsets. -/
def execCopyWriteLands (core ch : Nat) (s : State) : Host.Outcome State Fault Refusal :=
  match s.copyHead core ch with
  | none => .next s
  | some c =>
    if c.isSpx then .next (if c.started.isSome then s.spxPush core ch c else s)
    else
      let s := s.askAhead core ch c
      let s := s.gatherTake core ch ((s.copyHead core ch).getD c)
      let c := (s.copyHead core ch).getD c
      if c.done + c.pieceLen ≥ c.total || !s.pieceDue core ch c then .next s
      else
        let (w, t) := s.landChain core ch 34
        .next (if w then s.askedOf t c else t)

/-- R136: CPCHK: what is left of the planes read and the whole checked. -/
def State.chkRun (s : State) (core ch : Nat) (c : CopyCmd) : State :=
  let (r, s) := s.engReadN c.ck .cp c.uid (c.saddr.toNat + c.done) (c.sData + c.sScale - c.done)
  match r with
  | .wait => s
  | .fault f va => s.copyFault core ch c f va 0
  | .ok l =>
    let b := c.srcData ++ l.map Prod.fst
    let (r, x, s) := s.tchk { c with srcData := b.take c.sData, srcScale := b.drop c.sData }
    match r, x with
    | .fault f va _, _ => s.copyFault core ch c f va 0
    | .wait, _ => s
    | .ok _, some x => s.trailerFault core ch c x
    | .ok _, none => s.copyEnd core ch c true

/-- COPY_COMPLETE (R315): the last write lands, with it the command completes; or its trailer check fails (R136). -/
def execCopyComplete (core ch : Nat) (s : State) : Host.Outcome State Fault Refusal :=
  match s.copyHead core ch with
  | none => .next s
  | some c =>
    if c.isSpx then .next s
    else if c.isChk then
      .next (match c.started with
        | some t => if t + c.least + ceilDiv (c.sData + c.sScale + 32 - c.done) 64 ≤ s.clock then s.chkRun core ch c else s
        | none => s)
    else if c.done + c.pieceLen < c.total && !c.lastMain then .next s
    else if !s.pieceDue core ch c then .next s
    else
      let (r, x, s') := s.nextPiece c
      match r with
      | .ok c' =>
        if let some x := x then .next (s'.trailerFault core ch c' x)
        else if c.done + c.pieceLen < c.total then .next s
        else .next (((s'.landPiece core ch c').flushStream c').copyEnd core ch c' true)
      | .wait => .next (s.askedOf s' c)
      | .fault _ _ _ => .next s

/-- COPY_ACCESS_FAULT (R143): an access of the head's next piece faults. -/
def execCopyAccessFault (core ch : Nat) (s : State) : Host.Outcome State Fault Refusal :=
  match s.copyHead core ch with
  | none => .next s
  | some c =>
    if c.isSpx || c.isChk || !s.pieceDue core ch c then .next s
    else
      let (r, _, s') := s.nextPiece c
      match r with
      | .fault f va idx => .next (s'.copyFault core ch c f va idx)
      | _ => .next s

/-- SPARSE_DECODE_COMPLETE (R142, R344): an SPXGO whose last offset has been pushed completes; a poisoned byte ends it with its fault. -/
def execSparseDecodeComplete (core : Nat) (s : State) : Host.Outcome State Fault Refusal :=
  .next ([0, 1, 2, 3].foldl (fun s ch => match s.copyHead core ch with
    | some c =>
      let due := match c.started with
        | some t => t + 12 + ceilDiv c.n 64 ≤ s.clock
        | none => false
      if c.isSpx && c.offs.isEmpty && due then
        if c.bad then s.copyFault core ch c ⟨10, 0⟩ c.saddr.toNat 0 else s.copyEnd core ch c true
      else s
    | none => s) s)

/-! ### Records that arrive (R138, R343) -/

/-- A record's signal, or its fault. -/
def State.recordEnd (s : State) (r : RecPend) (ok : Bool) (cause : Nat) : State :=
  if ok then s.signal (ckCore r.ctx) r.sigSem r.sigInc
  else s.asyncFault r.ctx { code := 6, cause := cause, r0 := r.addr, r1 := r.bundle } r.uid

/-- R138, R340: a shape record arrives. -/
def State.shapeArrives (s : State) (r : RecPend) : State :=
  let ok := shapeOk r.bits
  (s.updCd r.ctx fun c => { c with sh := if ok then SMap.put c.sh r.k ⟨r.bits, true⟩ else SMap.erase c.sh r.k }).recordEnd r ok 1

/-- R141: whether a decoder record is valid. -/
def spxOk (x : Nat) : Bool :=
  bits x 48 208 == 0 && bits x 2 30 == 0 && bits x 0 2 < 2 && bits x 32 8 ≤ 6 && 1 ≤ bits x 40 8 && bits x 40 8 ≤ 16

/-- R141: the record of a decoder configuration that an SPXGO has latched: mode, shift and rate. -/
def spxRecord (spx : Nat) : BitVec 256 := BitVec.ofNat 256 (spx % 2 ^ 8 + spx / 2 ^ 8 % 2 ^ 8 * 2 ^ 32 + spx / 2 ^ 16 * 2 ^ 40)

/-- R343: a decoder record arrives. -/
def State.spxArrives (s : State) (r : RecPend) : State :=
  let x := r.bits.toNat
  let ok := spxOk x
  let s := if ok then s.updCore (ckCore r.ctx) fun k => { k with spxMode := bits x 0 2, spxShift := bits x 32 8, spxRate := bits x 40 8 } else s
  s.recordEnd r ok 3

/-- The records of a context that are due and satisfy `p`, in issue order, taken out. -/
def State.takeRecs (s : State) (ck : Nat) (p : RecPend → Bool) : List RecPend × State :=
  let due := fun (r : RecPend) => p r && match r.due with
    | some t => t ≤ s.clock
    | none => false
  (((s.getCd ck).recs.filter due), s.updCd ck fun c => { c with recs := c.recs.filter fun r => !due r })

/-- SHAPE_RECORD_ARRIVES (R138, R340). -/
def execShapeRecordArrives (ck : Nat) (s : State) : Host.Outcome State Fault Refusal :=
  let (l, s) := s.takeRecs ck fun r => r.k < 16
  .next (l.foldl State.shapeArrives s)

/-- The contexts of a core that have records on their way. -/
def recCtxs (core : Nat) : List Nat := [4 * core, 4 * core + 1, 4 * core + 2, 4 * core + 3, 1024 + core]

/-- SPXCFG_RECORD_ARRIVES (R343). -/
def execSpxcfgRecordArrives (core : Nat) (s : State) : Host.Outcome State Fault Refusal :=
  .next ((recCtxs core).foldl (fun s ck =>
    let (l, s) := s.takeRecs ck fun r => r.k == 16
    l.foldl State.spxArrives s) s)

end Sys2Proof.Machine
end

