-- ==== Sys2Proof/Machine/Matrix.lean ====
section
/-! DEFINITION. The matrix engine (R144 to R149, R332, R333). -/

namespace Sys2Proof.Machine

/-! ### Types, durations and operands -/

/-- R144: the operand types of the matrix engine. -/
def mxTy (t : Ty) : Bool :=
  match t with
  | .bk4 => true | .bk8 => true | .i8 => true | .n8 => true | .bf16 => true | .h16 => true | .f32 => true
  | _ => false

/-- R144: whether a type accumulates into an INT32 tile. -/
def mxInt (t : Ty) : Bool := t == .i8 || t == .n8

/-- R144, R146: ⌈K ÷ P⌉. -/
def mxCompute (t : Ty) (k : Nat) : Nat :=
  match t with
  | .bk4 => ceilDiv k 4
  | .bk8 => ceilDiv k 2
  | .i8 => ceilDiv k 2
  | .n8 => ceilDiv k 2
  | .f32 => 4 * k
  | _ => k

/-- The fields of a matrix operation. -/
def mxFields : Instr → FMX
  | .mlatch _ f => f
  | .mmul _ f => f
  | .mtile _ f => f
  | .mzero _ f => f
  | .mret _ f => f
  | _ => ⟨0, 0, 0, 0, 0, 0, false, .b, .b, 0, 0, Reg.zero, Reg.zero⟩

/-- The matrix operations. -/
inductive MxKind where
  | latch | mul | tile | zero | ret
  deriving DecidableEq, Repr

def mxKind : Instr → MxKind
  | .mlatch _ _ => .latch
  | .mmul _ _ => .mul
  | .mtile _ _ => .tile
  | .mret _ _ => .ret
  | _ => .zero

def MxCmd.f (c : MxCmd) : FMX := mxFields c.op
def MxCmd.kind (c : MxCmd) : MxKind := mxKind c.op

/-- Whether an operation reads operand A, and operand B. -/
def MxKind.readsA (k : MxKind) : Bool := k == .mul || k == .tile
def MxKind.readsB (k : MxKind) : Bool := k == .latch || k == .tile
/-- R147: whether an operation names a tile, and whether it sets the tile's busy bit. -/
def MxKind.names (k : MxKind) : Bool := k != .latch
def MxKind.busies (k : MxKind) : Bool := k == .mul || k == .tile || k == .zero

/-- An operand: address, rows, columns, stride, type. -/
structure MxOp where
  va : Nat
  rows : Nat
  cols : Nat
  stride : Nat
  ty : Ty
  deriving DecidableEq, Repr

/-- The ranges that an operand covers; a block format's trailer only where it is written. -/
def MxOp.ranges (o : MxOp) (trailer : Bool) : List (Nat × Nat) :=
  let n := o.rows * o.cols
  if o.ty.isBlock then [(o.va, n * o.ty.width / 8 + n / 16 + (if trailer then 32 else 0))]
  else (List.range o.rows).map fun r => (o.va + r * o.stride, o.cols * o.ty.width / 8)

/-- R144, R333: whether an operand is aligned, and dense where it is a block format. -/
def MxOp.ok (o : MxOp) : Bool :=
  o.va % o.ty.align == 0 && o.stride % o.ty.align == 0 && (!o.ty.isBlock || o.stride == o.cols * o.ty.width / 8)

def MxCmd.opA (c : MxCmd) : MxOp := ⟨c.aaddr.toNat, 64, if c.kind == .ret then 64 else c.f.k.toNat, c.f.astride.toNat, c.aty⟩
def MxCmd.opB (c : MxCmd) : MxOp := ⟨c.baddr.toNat, c.f.k.toNat, 64, c.f.bstride.toNat, c.bty⟩

/-! ### Issue -/

/-- R145: the rows of the latch that an operation leaves, as the core judges them at issue. -/
def lastRows (k : Nat) : Nat := k - 64 * ((k - 1) / 64)

/-- R144, R145, R333: whether an operation is an illegal operation at issue. -/
def MxCmd.illegal (c : MxCmd) (iss : Ty × Nat) : Bool :=
  let k := c.f.k.toNat
  match c.kind with
  | .zero => false
  | .ret => !c.opA.ok
  | .latch => k > 64 || !mxTy c.bty || !c.opB.ok
  | .mul => k > 64 || k > iss.2 || !mxTy c.aty || c.aty != iss.1 || !c.opA.ok
  | .tile => !mxTy c.aty || c.aty != c.bty || !c.opA.ok || !c.opB.ok

/-- R46: the type by which an operand decodes. -/
def Core.mxTypeAt (k : Core) (va : Nat) (t : Ty) : Ty := if k.bankTy va == .b then t else k.bankTy va

/-- R146, R147, R153: a command pushed. -/
def State.pushMx (s : State) (d : Nat) (c : MxCmd) : State :=
  let key := coreKey d s.cur.col
  let k := c.kind
  let acc := c.f.acc.toNat
  let s := if (s.coreD d).mxq.length ≥ 4 || (s.coreD d).trackFull then s.stallFor 3 else s
  let s := if k.names && (SMap.get {} (s.ctxD d).acc acc).busy.isSome then s.stallFor 1 else s
  let (u, s) := s.fresh
  let c := { c with uid := u }
  let s := s.updCore key fun x => { x with mxq := x.mxq ++ [c] }
  let s := if k.busies then s.updD d fun x => { x with acc := SMap.upd {} x.acc acc fun t => { t with busy := some u } } else s
  let s := if k.readsB then
      s.updD d fun x => { x with lIss := SMap.set (.b, 0) x.lIss c.f.latch.toNat (c.bty, lastRows c.f.k.toNat) }
    else s
  s.trackCmd key u c.ck c.fp
    (if k == .ret then banksOfAll s.cur.col (c.opA.ranges true) else [])
    (banksOfAll s.cur.col ((if k.readsA then c.opA.ranges false else []) ++ (if k.readsB then c.opB.ranges false else [])))

/-- R145, R333: a matrix operation on a die. -/
def State.mxDie (s : State) (op : Instr) (h : Hdr) (f : FMX) (d : Nat) : State :=
  let k := mxKind op
  let (a, s) := if k.readsA || k == .ret then
      s.address d 80 f.abase (f.aoff.toInt + s.dieTerm d f.dstride.toInt f.dts) 0
    else (0, s)
  let (b, s) := if k.readsB then s.address d 91 f.bbase f.boff.toInt 0 else (0, s)
  let core := s.coreD d
  let c : MxCmd := { uid := 0, ck := s.ck0 d, op := op, bundle := s.cur.bundle, aaddr := BitVec.ofNat 64 a, baddr := BitVec.ofNat 64 b,
                     aty := if k.readsA then core.mxTypeAt a f.atype else f.atype,
                     bty := if k.readsB then core.mxTypeAt b f.btype else f.btype,
                     qctl := (s.ctxD d).ws.qctl, sigSem := h.sigSem.toNat, sigInc := h.sigInc.toInt, fp := s.cur.fp }
  if c.illegal (SMap.get (.b, 0) (s.ctxD d).lIss f.latch.toNat) then s.illegal d else s.pushMx d c

/-- R145: MLATCH. -/
def opMlatch (h : Hdr) (f : FMX) (s : State) : State := s.onDies h fun d s => (s.mxDie (.mlatch h f) h f d).splices
def execMlatch (h : Hdr) (f : FMX) (s : State) : Host.Outcome State Fault Refusal := s.attempt (opMlatch h f)

/-- R145: MMUL. -/
def opMmul (h : Hdr) (f : FMX) (s : State) : State := s.onDies h fun d s => (s.mxDie (.mmul h f) h f d).splices
def execMmul (h : Hdr) (f : FMX) (s : State) : Host.Outcome State Fault Refusal := s.attempt (opMmul h f)

/-- R145: MTILE. -/
def opMtile (h : Hdr) (f : FMX) (s : State) : State := s.onDies h fun d s => (s.mxDie (.mtile h f) h f d).splices
def execMtile (h : Hdr) (f : FMX) (s : State) : Host.Outcome State Fault Refusal := s.attempt (opMtile h f)

/-- R145: MZERO. -/
def opMzero (h : Hdr) (f : FMX) (s : State) : State := s.onDies h fun d s => (s.mxDie (.mzero h f) h f d).splices
def execMzero (h : Hdr) (f : FMX) (s : State) : Host.Outcome State Fault Refusal := s.attempt (opMzero h f)

/-- R145: MRET. -/
def opMret (h : Hdr) (f : FMX) (s : State) : State := s.onDies h fun d s => (s.mxDie (.mret h f) h f d).splices
def execMret (h : Hdr) (f : FMX) (s : State) : Host.Outcome State Fault Refusal := s.attempt (opMret h f)

/-! ### Operands -/

/-- What reading an operand answers: its elements; not yet; or a fault at an address, with its row. -/
inductive MxR where
  | ok (l : List Word)
  | wait
  | fault (f : AFault) (va row : Nat)
  deriving DecidableEq, Repr

/-- The word of a decoded element: FP32 bits, or the integer of an integer type. -/
def mxElt (t : Ty) (x : Nat) : Word :=
  if t.isInt then BitVec.ofInt 32 (intVal t.signed t.width x) else BitVec.ofNat 32 (convElt .f32 t x)

/-- R32: the words of a row of a block format, from its codes and the scale pairs of the blocks it touches. -/
def mxBlockRow (t : Ty) (first n : Nat) (codes sc : List Byte) : List Word :=
  (List.range n).map fun i =>
    let b := (first + i) / 32 - first / 32
    BitVec.ofNat 32 (decodeBK t (elemAt t codes i) (sc.getD (2 * b) 0#8).toNat (sc.getD (2 * b + 1) 0#8).toNat)

/-- A read for the matrix engine: poison is consumption (R126). -/
def State.mxRead (s : State) (c : MxCmd) (va n : Nat) : EngR × State :=
  let (r, s) := s.engReadN c.ck .mx c.uid va n
  match r with
  | .ok l => (if l.any Prod.snd then .fault ⟨10, 0⟩ va else .ok l, s)
  | _ => (r, s)

/-- Columns `c0` to `c0 + n − 1` of one row of an operand. -/
def State.mxRow (s : State) (c : MxCmd) (o : MxOp) (r c0 n : Nat) : MxR × State :=
  let w := o.ty.width
  let (x, s) := s.mxRead c (o.va + r * o.stride + c0 * w / 8) (n * w / 8)
  match x with
  | .fault f va => (.fault f va r, s)
  | .wait => (.wait, s)
  | .ok l =>
    let l := l.map Prod.fst
    if o.ty.isBlock then
      let first := r * o.cols + c0
      let (y, s) := s.mxRead c (o.va + o.rows * o.cols * w / 8 + 2 * (first / 32)) (2 * ((first + n - 1) / 32 - first / 32 + 1))
      match y with
      | .fault f va => (.fault f va r, s)
      | .wait => (.wait, s)
      | .ok sc => (.ok (mxBlockRow o.ty first n l (sc.map Prod.fst)), s)
    else (.ok ((List.range n).map fun i => mxElt o.ty (elemAt o.ty l i)), s)

/-! ### Results -/

/-- R39: one group of DotAcc: the accumulator and up to 16 exact products, rounded once. -/
def dotGroup (acc : Nat) (l : List (Nat × Nat)) : Nat :=
  let ps := l.map fun x => mulExact (fmtF32.dec x.1) (fmtF32.dec x.2)
  (sumRound fmtF32 .rne (fmtF32.dec acc :: ps.map Prod.fst) (ps.any Prod.snd)).1

/-- R39: DotAcc, 16 products at a time. -/
def dotAcc : Nat → Nat → List (Nat × Nat) → Nat
  | 0, acc, _ => acc
  | fuel + 1, acc, l => if l.isEmpty then acc else dotAcc fuel (dotGroup acc (l.take 16)) (l.drop 16)

/-- R39: an integer dot product, modulo 2^32. -/
def dotInt (acc : Nat) (l : List (Nat × Nat)) : Nat := l.foldl (fun a x => (a + x.1 * x.2) % 2 ^ 32) acc

/-- R145: one element of an accumulated tile. -/
def mxCell (int : Bool) (k acc : Nat) (a b : Array Word) (m n : Nat) : Nat :=
  let l := (List.range k).map fun j => ((a.getD (m * k + j) 0#32).toNat, (b.getD (j * 64 + n) 0#32).toNat)
  if int then dotInt acc l else dotAcc (k / 16 + 1) acc l

/-- R145: the tile after MMUL or MTILE over `k` rows of B. -/
def mxTile (t : Tile) (int : Bool) (k : Nat) (a b : List Word) : Tile :=
  let aa := a.toArray
  let ba := b.toArray
  { t with int := int, cells := (List.range 4096).filterMap fun i =>
      let v := BitVec.ofNat 32 (mxCell int k (SMap.get 0#32 t.cells i).toNat aa ba (i / 64) (i % 64))
      if v = 0#32 then none else some (i, v) }

/-- R145: a latch of these rows. -/
def mxLatch (t : Ty) (rows : Nat) (l : List Word) : Latch :=
  ⟨t, rows, ((List.range l.length).zip l).filter fun x => x.2 != 0#32⟩

/-- The elements of a latch, row by row. -/
def Latch.list (l : Latch) : List Word := (List.range (64 * l.rows)).map fun i => SMap.get 0#32 l.cells i

/-- R146: the clocks of a command from its start: its fetch, and the rest. Where both operands of an MTILE lie outside the local scratchpad, the larger of
the two round trips is added (DESIGN CHOICE, log 93: the rule does not say whether they add up). -/
def State.mxClocks (s : State) (c : MxCmd) : Nat × Nat :=
  let far := fun va dest => s.endClocks c.ck .mx va dest
  let k := c.f.k.toNat
  match c.kind with
  | .latch => (8 + far c.baddr.toNat false, 64)
  | .zero => (0, 16)
  | .mul => (8 + far c.aaddr.toNat false, mxCompute c.aty k + 256)
  | .tile => (8 + Nat.max (far c.aaddr.toNat false) (far c.baddr.toNat false), mxCompute c.aty k + 256)
  | .ret => (8 + far c.aaddr.toNat true, 256)

/-- What the operand fetch of a command gives: the command with its results formed, not yet, or a fault with its phase, row and slice. -/
inductive MxStart where
  | ok (c : MxCmd)
  | wait
  | fault (f : AFault) (va phase row k0 : Nat)
  deriving DecidableEq, Repr

/-- R145, R149: the rows that a command fetches, in order: for each slice of 64 steps of k, the rows of B (phase 0), then those of A (phase 1); each with its
phase, its row in the slice, and the first k of the slice. -/
def MxCmd.rowsToFetch (c : MxCmd) : List (Nat × Nat × Nat) :=
  let k := c.f.k.toNat
  (List.range (ceilDiv k 64)).flatMap fun j =>
    (if c.kind.readsB then (List.range (Nat.min 64 (k - 64 * j))).map fun r => (0, r, 64 * j) else []) ++
      (if c.kind.readsA then (List.range 64).map fun m => (1, m, 64 * j) else [])

/-- R149: rows fetched in order: the command with what it holds, and what stopped the fetch. -/
def State.mxRows (s : State) (c : MxCmd) : List (Nat × Nat × Nat) → MxStart × MxCmd × State
  | [] => (.ok c, c, s)
  | (ph, r, k0) :: l =>
    let k := c.f.k.toNat
    let (x, s) := if ph = 0 then s.mxRow c c.opB (k0 + r) 0 64 else s.mxRow c c.opA r k0 (Nat.min 64 (k - k0))
    match x with
    | .ok a => s.mxRows (if ph = 0 then { c with got := c.got + 1, bw := c.bw ++ a } else { c with got := c.got + 1, aw := c.aw ++ a }) l
    | .wait => (.wait, c, s)
    | .fault f va _ => (.fault f va ph r k0, c, s)

/-- The elements of A row by row, from those fetched slice by slice. -/
def MxCmd.aRows (c : MxCmd) : List Word :=
  let k := c.f.k.toNat
  let a := c.aw.toArray
  (List.range (64 * k)).map fun i =>
    let m := i / k
    let j := i % k / 64
    a.getD (4096 * j + m * Nat.min 64 (k - 64 * j) + i % k % 64) 0#32

/-- R144, R145, R149: the operand fetch of a command, from where it stands; and the command with the rows that it holds. -/
def State.mxFetch (s : State) (c : MxCmd) : MxStart × MxCmd × State :=
  let (r, c, s) := s.mxRows c (c.rowsToFetch.drop c.got)
  match r with
  | .ok _ =>
    let d := s.getCd c.ck
    let k := c.f.k.toNat
    let t : Tile := SMap.get {} d.acc c.f.acc.toNat
    let last := 64 * ((k - 1) / 64)
    let done := { c with aw := [], bw := [] }
    (match c.kind with
      | .latch => .ok { done with latch := some (mxLatch c.bty k c.bw) }
      | .mul => .ok { done with tile := some (mxTile t (mxInt c.aty) k c.aRows (SMap.get {} d.l c.f.latch.toNat).list) }
      | .tile => .ok { done with tile := some (mxTile t (mxInt c.aty) k c.aRows c.bw), latch := some (mxLatch c.bty (k - last) (c.bw.drop (64 * last))) }
      | .zero => .ok { done with tile := some { t with cells := [] } }
      | .ret => .ok done, c, s)
  | r => (r, c, s)

/-- The first command of a core's queue. -/
def State.mxHead (s : State) (core : Nat) : Option MxCmd := (s.getCore core).mxq.head?
def State.setMxHead (s : State) (core : Nat) (c : MxCmd) : State := s.updCore core fun k => { k with mxq := c :: k.mxq.drop 1 }

/-- Whether the head may start: its locks held, its context not being restored (R233), and the engine not paused. -/
def State.mxMayStart (s : State) (core : Nat) (c : MxCmd) : Bool :=
  c.due.isNone && (s.getCc (ckCc c.ck)).st != .loading && (s.getCore core).pause.isNone && (s.getCore core).hasLocks c.uid

/-- MX_COMMAND_START (R146): the head of the queue begins, its operands fetched; a fault is MATRIX_FAULT_PAUSE's. -/
def execMxCommandStart (core : Nat) (s : State) : Host.Outcome State Fault Refusal :=
  match s.mxHead core with
  | none => .next s
  | some c =>
    if !s.mxMayStart core c then .next s
    else
      let (fe, rest) := s.mxClocks c
      let (r, c', s') := s.mxFetch c
      match r with
      | .ok c => .next (s'.setMxHead core { c with due := some (s.clock + fe + rest), cmp := s.clock + fe })
      | .wait => .next (s'.setMxHead core c')
      | .fault _ _ _ _ _ => .next s

/-! ### MRET's writes -/

/-- R145, R333: the rows that MRET writes, each with its address; then, for a block format, its scale plane and its trailer. -/
def mretRows (c : MxCmd) (t : Tile) : List (Nat × List Byte) :=
  let cells := (List.range 4096).map fun i => (SMap.get 0#32 t.cells i).toNat
  let st : Ty := if t.int then .i32 else .f32
  let ty := c.aty
  if ty.isBlock then
    let xs := cells.map fun v => convElt .f32 st v
    let qs := if ty == .bk4 then bits c.qctl.toNat 4 3 else bits c.qctl.toNat 0 3
    let blocks := (List.range 128).map fun b => quantBlock ty ((xs.drop (32 * b)).take 32) qs none
    let data := blocks.flatMap fun x => packElems ty x.1
    let sc := blocks.flatMap fun x => [BitVec.ofNat 8 x.2.1, BitVec.ofNat 8 x.2.2.1]
    let sat := blocks.foldl (fun n x => n + x.2.2.2.1) 0
    let mag := blocks.foldl (fun a x => maxMag ty x.1 x.2.1 x.2.2.1 a) 0
    let row := 64 * ty.width / 8
    let base := c.aaddr.toNat
    (List.range 64).map (fun m => (base + m * row, (data.drop (m * row)).take row)) ++
      [(base + 64 * row, sc ++ trailerBytes ty 4096 sat mag (crcOut (crcStep 0xFFFFFFFF (data ++ sc))))]
  else
    (List.range 64).map fun m => (c.aaddr.toNat + m * c.f.astride.toNat,
      ((cells.drop (64 * m)).take 64).flatMap fun v => leBytes (ty.width / 8) (convElt ty st v))

/-- Rows written in order from row `r`: what stopped at a row, with the row; and the state with the rows below it written. -/
def State.mretWrite (s : State) (c : MxCmd) : Nat → List (Nat × List Byte) → EngR × Nat × State
  | r, [] => (.ok [], r, s)
  | r, (va, data) :: l =>
    let ps := pieces64 (data.length / 64 + 2) va data.length
    let (f, s) := s.engWrFaults c.ck .mx ps
    match f with
    | .ok _ => (s.engWriteAll c.ck .mx (lostRec c.bundle 0 0) { cmd := c.uid, sem := c.sigSem } ps (data.map fun b => (b, false))).mretWrite c (r + 1) l
    | f => (f, r, s)

/-- The writes that a command still makes: MRET's rows from the one at which it goes on. -/
def State.mxWrites (s : State) (c : MxCmd) : EngR × Nat × State :=
  if c.kind == .ret then s.mretWrite c c.row ((mretRows c (SMap.get {} (s.getCd c.ck).acc c.f.acc.toNat)).drop c.row) else (.ok [], 0, s)

/-! ### Completion -/

/-- R147: the busy bit that a command set cleared. -/
def State.clearBusy (s : State) (c : MxCmd) : State :=
  s.updCd c.ck fun x => { x with acc := SMap.upd {} x.acc c.f.acc.toNat fun t => if t.busy = some c.uid then { t with busy := none } else t }

/-- The head of the queue leaves it: its locks and edges released. -/
def State.mxPop (s : State) (core : Nat) (c : MxCmd) : State :=
  ((s.updCore core fun k => { k with mxq := k.mxq.filter fun x => x.uid != c.uid }).untrack core c.uid).clearBusy c

/-- R145: the results of a command written, unless they are discarded (R378). -/
def State.mxResults (s : State) (c : MxCmd) : State :=
  if c.lost then s
  else s.updCd c.ck fun x => { x with
    acc := match c.tile with
      | some t => SMap.set {} x.acc c.f.acc.toNat { t with busy := (SMap.get {} x.acc c.f.acc.toNat).busy }
      | none => x.acc
    l := match c.latch with
      | some l => SMap.set {} x.l c.f.latch.toNat l
      | none => x.l }

/-- Whether the head's time has come. -/
def State.mxDue (s : State) (core : Nat) (c : MxCmd) : Bool :=
  (s.getCore core).pause.isNone && match c.due with
    | some t => t ≤ s.clock
    | none => false

/-- MX_COMMAND_COMPLETE (R145, R146): the head's results, or MRET's rows, are written, and it signals. -/
def execMxCommandComplete (core : Nat) (s : State) : Host.Outcome State Fault Refusal :=
  match s.mxHead core with
  | none => .next s
  | some c =>
    if !s.mxDue core c then .next s
    else
      let (f, row, s') := s.mxWrites c
      match f with
      | .fault _ _ => .next s
      | .wait => .next (s'.setMxHead core { c with row := row })
      | .ok _ => .next (((s'.mxResults c).mxPop core c).cmdSignal c.uid core c.sigSem c.sigInc)

/-! ### Faults (R149) -/

/-- R149: the fault that the head meets at its fetch or at a write, with its phase, row and slice, and the state with what was written
before it. -/
def State.mxFault (s : State) (core : Nat) : Option (MxCmd × AFault × Nat × Nat × Nat × Nat) × State :=
  match s.mxHead core with
  | none => (none, s)
  | some c =>
    if s.mxMayStart core c then
      let (r, c', s') := s.mxFetch c
      match r with
      | .fault f va ph row k0 => (some (c', f, va, ph, row, k0), s')
      | _ => (none, s)
    else if s.mxDue core c then
      let (f, r, s') := s.mxWrites c
      match f with
      | .fault f va => (some (c, f, va, 1, r, 0), s')
      | _ => (none, s)
    else (none, s)

/-- R149: the engine paused at a fault, its record passed to the firmware context. -/
def State.mxPause (s : State) (core : Nat) (c : MxCmd) (f : AFault) (va phase row k0 : Nat) : State :=
  let r := engRec f va c.bundle.toNat 0 0 0
  let s := (s.setMxHead core { c with row := if c.kind == .ret then row else 0 }).updCore core fun k => { k with pause := some ⟨phase, row, k0, r⟩ }
  { s with events := s.events ++ [.matrixFault core (ckCtx c.ck) { r.fields with async := true }] }

/-- R149: RESUME: the engine fetches again and goes on. -/
def State.mxResume (s : State) (core : Nat) : State :=
  match s.mxHead core with
  | none => s
  | some c => (s.setMxHead core { c with due := none, tile := none, latch := none }).updCore core fun k => { k with pause := none }

/-- R149: ABORT, of the engine: the command ends without its latch or tile, the rows written stay, the busy bit clears. -/
def State.mxAbort (s : State) (core : Nat) : State :=
  match s.mxHead core with
  | none => s
  | some c => (s.updCore core fun k => { k with pause := none }).mxPop core c

end Sys2Proof.Machine
end

