-- ==== Sys2Proof/Machine/Shared.lean ====
section
/-! DEFINITION. Shared engines (R154 to R165, R167, R280, R309, R339, R345) and the slate bus (R168, R169, R305): class EN but for COLL's own
rules. -/

namespace Sys2Proof.Machine

/-! ### Engines and results -/

/-- The engine that a route choice of a core names (R73, R154). -/
def engKey (die core choice : Nat) : Nat := if choice < 2 then qxKey die core choice else dcKey die (choice - 2)
/-- R154: the circuits of an engine, and the number of its requesters. -/
def engCircs (e : Nat) : Nat := if e < 128 then 2 else 4
def engN (e : Nat) : Nat := if e < 128 then 4 else 32
/-- R154: the index of a requester. -/
def reqIdx (e ck : Nat) : Nat := if e < 128 then ckCol ck % 4 else ckCol ck
/-- R104: the kind of access of a route choice; 7 is the direct route. -/
def engAcc (choice : Nat) : Acc := if choice < 2 then .qx else if choice = 7 then .cp else .dc
/-- The kind of access of an engine's transfers. -/
def engKindAcc (e : Nat) : Acc := if e < 128 then .qx else .dc

/-- The fields of an EN operation. -/
def enFields : Instr → FEN
  | .seize _ f => f
  | .seizeHold _ f => f
  | .sxfer _ f => f
  | .clear _ f => f
  | .coll _ f => f
  | .bdrv _ f => f
  | .blat _ f => f
  | _ => ⟨0, 0, 0, 0, false, 0, .b, 0, 0, 0, 0, Reg.zero, Reg.zero, Reg.zero⟩

/-- The header of an EN operation. -/
def enHdr : Instr → Hdr
  | .seize h _ => h
  | .seizeHold h _ => h
  | .sxfer h _ => h
  | .clear h _ => h
  | .coll h _ => h
  | .bdrv h _ => h
  | .blat h _ => h
  | _ => Hdr.plain

def isHold : Instr → Bool
  | .seizeHold _ _ => true
  | _ => false

/-- R81: a scoreboarded result of any file, whose value and clock a reply to `uid` gives; one of the bus is exposed, with latency `lat`. -/
def State.awaitReg (s : State) (d : Nat) (file : RFile) (n uid : Nat) (due : Option Nat) (val : Nat) (sb : Bool := true) (lat : Nat := 0) :
    State :=
  (s.wrCheck d file n).updD d fun c => { c with pend := c.pend ++ [
    { due := due, slot := s.cur.slot, issued := s.clock, sb := sb, file := file, idx := n, val := BitVec.ofNat 512 val,
      mask := BitVec.allOnes 512, vfl := 0#32, grp := 0, sigSem := 0, sigInc := 0, pre := false, uid := uid, lat := lat,
      bundle := s.cur.bundle }] }

/-- A context on a die changed, wherever it stands: on its column, in firmware, or saved. -/
def SavedCtx.mapDies (f : CtxDie → CtxDie) (c : SavedCtx) : SavedCtx := { c with dies := c.dies.map fun x => (x.1, f x.2) }
def State.mapCtxs (s : State) (f : CtxDie → CtxDie) : State :=
  { s with
    cd := s.cd.map fun x => (x.1, f x.2)
    core := s.core.map fun x => (x.1, { x.2 with fw := f x.2.fw })
    swaps := s.swaps.map fun x => (x.1, { x.2 with ctxs := x.2.ctxs.map (SavedCtx.mapDies f) }) }

/-- The context that awaits a reply changed. -/
def State.mapAwaiting (s : State) (uid : Nat) (f : CtxDie → CtxDie) : State :=
  s.mapCtxs fun c => if c.pend.any (fun p => p.uid == uid) then f c else c

/-- The state of the context that awaits a reply. -/
def State.awaiting (s : State) (uid : Nat) : Option CtxDie :=
  (s.cd.map Prod.snd ++ s.core.map (fun x => x.2.fw) ++ s.swaps.flatMap fun x => x.2.ctxs.flatMap fun c => c.dies.map Prod.snd).find?
    fun c => c.pend.any fun p => p.uid == uid

/-- R157: the result of a request: F[FBUSY] and S[OUT], landing at a clock. -/
def State.seizeResult (s : State) (uid at_ circ eng code next : Nat) (aged : Bool) : State :=
  let v := circ * 2 ^ 12 + eng * 2 ^ 8 + code * 2 ^ 4 + (if aged then 8 else 0) + next
  s.mapAwaiting uid fun c => { c with pend := c.pend.map fun p =>
    if p.uid = uid then
      { p with due := some at_, val := if p.file = .f then BitVec.ofNat 512 (if code ≥ 8 then 1 else 0) else BitVec.ofNat 512 v }
    else p }

/-! ### SEIZE (R155, R156, R339) -/

/-- R156: the end of a transfer that a kind of access does not reach. -/
def endFault (acc : Acc) (va n : Nat) : Option AFault :=
  let bad := fun a => match window a with
    | .bad _ => false
    | w => !reaches acc w
  if bad va || bad ((va + n - 1) % 2 ^ 64) then some ⟨4, 3⟩ else none

/-- R155: the latched addresses: destination, and source with the die term. -/
def State.enAddrs (s : State) (d : Nat) (f : FEN) : Nat × Nat × State :=
  let (a, s) := s.address d 80 f.dbase f.doff.toInt 0
  let (b, s) := s.address d 91 f.sbase (f.soff.toInt + s.dieTerm d f.dstride.toInt f.dts) 0
  (a, b, s)

/-- The faults of both ends checked for a route choice (R156). -/
def State.enCheck (s : State) (d choice da sa n : Nat) : Bool × State :=
  match endFault (engAcc choice) da n with
  | some e => (false, s.accFault d e da 0)
  | none => match endFault (engAcc choice) sa n with
    | some e => (false, s.accFault d e sa 0)
    | none => (true, s)

/-- R280: whether a request of a column context is refused by policy: a QX of a quad that its partition does not hold whole, a DC outside DCMASK. -/
def State.policyRefuses (s : State) (cc choice : Nat) : Bool :=
  if choice < 2 then bits (s.partCols cc) (4 * (ccCol cc / 4)) 4 != 15
  else bits (s.getPart (s.partOf cc)).dcmask (choice - 2) 1 == 0

/-- R160: the route list of a request, as SZREQ holds it. -/
def routeList (f : FEN) : Nat × Nat := (f.nch.toNat, f.choices.toNat)

/-- R160: Present. -/
def CtxDie.present (c : CtxDie) (rl : Nat × Nat) : CtxDie :=
  if (c.lastNch, c.lastChoices) = rl then c else { c with streak := 0, aged := false, lastNch := rl.1, lastChoices := rl.2 }

/-- R160: OnAdmit, and the context's part of OnRefuse. -/
def CtxDie.onAdmit (c : CtxDie) : CtxDie := { c with streak := 0, aged := false }
def CtxDie.onRefuse (c : CtxDie) : CtxDie :=
  let n := Nat.min 3 (c.streak + 1)
  { c with streak := n, aged := c.aged || n == 3 }

/-- R132, R162, R163: the clocks that the ends of a transfer add; on the direct path the quad window of another core too. -/
def State.xmitEnds (s : State) (acc : Acc) (x : Xmit) (direct : Bool) : Nat :=
  let f := fun va dest => match window va with
    | .quad _ => if direct then s.endClocks x.ck acc va dest else 0
    | _ => s.endClocks x.ck acc va dest
  f x.saddr.toNat false + f x.daddr.toNat true

/-- R162, R163: the first of a list of transfers given the clock of its completion; `base` is the least time over ⌈LEN ÷ 64⌉. -/
def State.timeXmits (s : State) (acc : Acc) (base : Nat) (direct : Bool) : List Xmit → List Xmit
  | [] => []
  | x :: l => match x.due with
    | some _ => x :: l
    | none => { x with due := some (Nat.max x.start s.clock + base + ceilDiv (x.len - x.done) 64 + s.xmitEnds acc x direct) } :: l

/-- R163: a transfer behind the others of the direct path. -/
def State.pushDirect (s : State) (core : Nat) (x : Xmit) : State :=
  let l := s.timeXmits .cp 12 true ((s.getCore core).direct ++ [x])
  s.updCore core fun k => { k with direct := l }

/-- The transfer of an operation with what it latched. -/
def mkXmit (uid ck : Nat) (op : Instr) (bundle da sa : DWord) (start : Nat) : Xmit :=
  { uid := uid, ck := ck, op := op, bundle := bundle, daddr := da, saddr := sa, len := (enFields op).len.toNat,
    sigSem := (enHdr op).sigSem.toNat, sigInc := (enHdr op).sigInc.toInt, start := start }

/-- R163: sixteen transfers stand on the direct path: the column stalls. -/
def State.directFull (s : State) (d : Nat) : State := if (s.coreD d).direct.length ≥ 16 then s.stallFor 3 else s

/-- R156, R339: the index of the route to try. -/
def routeIdx (f : FEN) (out : Nat) : Nat := Nat.min (out % 8) f.nch.toNat
/-- The choice at an index; 7 for the direct route. -/
def routeChoice (f : FEN) (i : Nat) : Nat := if i = f.nch.toNat then 7 else bits f.choices.toNat (3 * i) 3

/-- R156: a request sent on its way, with its results awaited. -/
def State.sendReq (s : State) (d : Nat) (f : FEN) (r : Req) : State :=
  let col := s.cur.col
  let s := s.awaitReg d .s f.out.n r.uid none 0
  let s := s.awaitReg d .f f.fbusy.toNat r.uid none 0
  s.updEng (engKey d col r.choice) fun e =>
    { e with reqs := e.reqs ++ [{ r with atClk := s.clock + (if r.choice < 2 then 2 else 6), barred := s.policyRefuses s.cc0 r.choice }] }

/-- R157, R160, R163: admission on the direct route: the result lands 2 clocks after issue. -/
def State.directAdmit (s : State) (d : Nat) (f : FEN) (uid i : Nat) : State :=
  let c := (s.ctxD d).present (routeList f)
  let v := 7 * 2 ^ 8 + 2 * 2 ^ 4 + (if c.aged then 8 else 0) + i
  let s := s.updD d fun x => (x.present (routeList f)).onAdmit
  let s := s.awaitReg d .s f.out.n uid (some (s.clock + 2)) v
  s.awaitReg d .f f.fbusy.toNat uid (some (s.clock + 2)) 0

/-- R339: SEIZE and SEIZE.hold on a die. -/
def State.seizeDie (s : State) (op : Instr) (f : FEN) (d : Nat) : State :=
  let (out, s) := s.rdS d f.out
  let i := routeIdx f out
  let ch := routeChoice f i
  let (da, sa, s) := if isHold op then (0, 0, s) else s.enAddrs d f
  let (go, s) := if isHold op then (true, s) else s.enCheck d ch da sa f.len.toNat
  if !go then s
  else
    let (u, s) := s.fresh
    let ck := s.ck0 d
    if ch = 7 then
      let s := (s.directAdmit d f u i).directFull d
      if isHold op then s
      else s.pushDirect (coreKey d s.cur.col) (mkXmit u ck op s.cur.bundle (BitVec.ofNat 64 da) (BitVec.ofNat 64 sa) s.clock)
    else s.sendReq d f { atClk := 0, uid := u, ck := ck, i := i, choice := ch, op := op, bundle := s.cur.bundle,
                         daddr := BitVec.ofNat 64 da, saddr := BitVec.ofNat 64 sa, barred := false }

/-- R339: SEIZE. -/
def opSeize (h : Hdr) (f : FEN) (s : State) : State := s.onDies h fun d s => (s.seizeDie (.seize h f) f d).splices
def execSeize (h : Hdr) (f : FEN) (s : State) : Host.Outcome State Fault Refusal := s.attempt (opSeize h f)

/-- R339: SEIZE.hold. -/
def opSeizeHold (h : Hdr) (f : FEN) (s : State) : State := s.onDies h fun d s => (s.seizeDie (.seizeHold h f) f d).splices
def execSeizeHold (h : Hdr) (f : FEN) (s : State) : Host.Outcome State Fault Refusal := s.attempt (opSeizeHold h f)

/-! ### SXFER and CLEAR (R164, R309, R345) -/

/-- The circuit of a handle, where the context holds it. -/
def State.heldCirc (s : State) (d ck h : Nat) : Option Circ :=
  match SMap.get none (s.getEng (engKey d (ckCol ck) (h % 16))).circ (h / 16) with
  | some c => if c.ck = ck && c.freeAt.isNone && h % 16 < 6 then some c else none
  | none => none

/-- A circuit changed. -/
def State.updCirc (s : State) (e n : Nat) (f : Circ → Circ) : State :=
  s.updEng e fun g => { g with circ := match SMap.get none g.circ n with
    | some c => SMap.put g.circ n (some (f c))
    | none => g.circ }

/-- R162: the least time of an engine over ⌈LEN ÷ 64⌉. -/
def engBase (e : Nat) : Nat := if e < 128 then 10 else 20

/-- R164: a transfer behind the others of a circuit. -/
def State.pushCirc (s : State) (e n : Nat) (x : Xmit) : State :=
  s.updCirc e n fun c => { c with xs := s.timeXmits (engKindAcc e) (engBase e) false (c.xs ++ [x]) }

/-- R345: SXFER on a die. -/
def State.sxferDie (s : State) (op : Instr) (h : Hdr) (f : FEN) (d : Nat) : State :=
  let (out, s) := s.rdS d f.out
  let hd := bits out 8 8
  let ck := s.ck0 d
  let flag := fun (s : State) v => s.result d h 2 .f f.fbusy.toNat (BitVec.ofNat 512 v) (BitVec.allOnes 512) 0 0 false
  let held := s.heldCirc d ck hd
  let (da, sa, s) := s.enAddrs d f
  if hd % 16 != 7 && held.isNone then flag s 1
  else
    let (go, s) := s.enCheck d (hd % 16) da sa f.len.toNat
    if !go then s
    else
      let (u, s) := s.fresh
      let s := flag s 0
      let x := mkXmit u ck op s.cur.bundle (BitVec.ofNat 64 da) (BitVec.ofNat 64 sa)
        (if hd % 16 = 7 then s.clock else s.clock + (if hd % 16 < 2 then 2 else 6))
      match held with
      | none => (s.directFull d).pushDirect (coreKey d s.cur.col) x
      | some c =>
        let s := if c.xs.length ≥ 4 then s.stallFor 3 else s
        s.pushCirc (engKey d s.cur.col (hd % 16)) (hd / 16) x

/-- R345: SXFER. -/
def opSxfer (h : Hdr) (f : FEN) (s : State) : State := s.onDies h fun d s => (s.sxferDie (.sxfer h f) h f d).splices
def execSxfer (h : Hdr) (f : FEN) (s : State) : Host.Outcome State Fault Refusal := s.attempt (opSxfer h f)

/-- R309: CLEAR on a die: the circuit is free for the arbitration of the next clock once its transfers are done. -/
def State.clearDie (s : State) (h : Hdr) (f : FEN) (d : Nat) : State :=
  let (out, s) := s.rdS d f.out
  let hd := bits out 8 8
  let s := s.signalNow d h
  match s.heldCirc d (s.ck0 d) hd with
  | none => s
  | some _ => s.updCirc (engKey d s.cur.col (hd % 16)) (hd / 16) fun c => { c with freeAt := some (s.clock + 1) }

/-- R309: CLEAR. -/
def opClear (h : Hdr) (f : FEN) (s : State) : State := s.onDies h fun d s => (s.clearDie h f d).splices
def execClear (h : Hdr) (f : FEN) (s : State) : Host.Outcome State Fault Refusal := s.attempt (opClear h f)

/-! ### Arbitration (R158 to R160) -/

/-- The circuits of an engine that are free. -/
def Eng.freeList (g : Eng) (n : Nat) : List Nat := (List.range n).filter fun i => (SMap.get none g.circ i).isNone

/-- R158, R162, R309: circuits whose work is done and whose time has come are released. -/
def Eng.release (g : Eng) (clk : Nat) : Eng :=
  { g with circ := g.circ.filter fun x => match x.2 with
    | some c => !(c.xs.isEmpty && c.coll.isNone && match c.freeAt with
      | some t => t ≤ clk
      | none => false)
    | none => false }

/-- A request with whether it is aged. -/
abbrev AReq := Req × Bool

/-- R159: the order of a clock's requests: aged first, then by distance from the pointer. -/
def arbKey (e ptr : Nat) (r : AReq) : Nat := (if r.2 then 0 else engN e) + (reqIdx e r.1.ck + engN e - ptr % engN e) % engN e
def arbSort (e ptr : Nat) : List AReq → List AReq
  | [] => []
  | r :: l =>
    let (a, b) := (arbSort e ptr l).span fun x => arbKey e ptr x < arbKey e ptr r
    a ++ r :: b

/-- R160: presented requests, each with its aged mark. -/
def State.presentAll (s : State) : List Req → List AReq × State
  | [] => ([], s)
  | r :: l =>
    let s := s.mapAwaiting r.uid fun c => c.present (routeList (enFields r.op))
    let a := ((s.awaiting r.uid).map (·.aged)).getD false
    let (as, s) := s.presentAll l
    ((r, a) :: as, s)

/-- The key of collective `n` of a team. -/
def collKey (launch team n : Nat) : Nat := (launch * 128 + team) * 2 ^ 32 + n

/-- R310: a member joins collective `n` of its team. -/
def State.joinColl (s : State) (launch team n : Nat) (m : CollMember) : State :=
  let k := collKey launch team n
  let c : Coll := SMap.get ⟨launch, team, n, [], []⟩ s.colls k
  { s with colls := SMap.put s.colls k { c with members := c.members ++ [m] } }

/-- The clock of a result: 2 clocks after arbitration for a QX, 4 for a DC (R156). -/
def resultAt (e clk : Nat) : Nat := clk + (if e < 128 then 2 else 4)

/-- R165: a transfer of a request whose context has been saved meanwhile, kept with the context. -/
def State.keepXmit (s : State) (q : Req) (x : Xmit) : State :=
  let keep := fun (c : SavedCtx) =>
    if c.dies.any (fun d => d.2.pend.any fun p => p.uid == q.uid) then { c with xmits := c.xmits ++ [(ckDie q.ck, 64, x)] } else c
  { s with swaps := s.swaps.map fun w => (w.1, { w.2 with ctxs := w.2.ctxs.map keep }) }

/-- R157, R158, R160, R162: a request admitted on a circuit. A transfer of a context that has been saved meanwhile is kept with it (R165). -/
def State.admitReq (s : State) (e n : Nat) (r : AReq) : State :=
  let q := r.1
  let onCol := s.cd.any fun x => x.2.pend.any fun p => p.uid == q.uid
  let s := s.seizeResult q.uid (resultAt e s.clock) n q.choice (if q.i = 0 then 0 else 1) q.i r.2
  let s := s.mapAwaiting q.uid CtxDie.onAdmit
  let x := mkXmit q.uid q.ck q.op q.bundle q.daddr q.saddr s.clock
  match q.coll with
  | some (launch, team, m) =>
    let at_ := (collKey launch team m.n, m.rank)
    let s := s.updEng e fun g => { g with
      circ := if onCol then SMap.put g.circ n (some ⟨q.ck, [], some 0, some at_⟩) else g.circ, recv := g.recv + m.need }
    let s := if onCol then s else s.keepXmit q { x with coll := some at_ }
    s.joinColl launch team m.n { m with eng := e, circ := n, atClk := s.clock, direct := !onCol }
  | none =>
    if isHold q.op then (if onCol then s.updEng e fun g => { g with circ := SMap.put g.circ n (some ⟨q.ck, [], none, none⟩) } else s)
    else if onCol then
      (s.updEng e fun g => { g with circ := SMap.put g.circ n (some ⟨q.ck, [], some 0, none⟩) }).pushCirc e n x
    else s.keepXmit q x

/-- R310: the number of a COLL that is refused, given back where no later one has been issued (DEDUCED, log 64). -/
def CtxDie.giveBack (q : Req) (c : CtxDie) : CtxDie :=
  match q.coll with
  | some (_, _, m) => if c.colls = m.n + 1 then { c with colls := m.n } else c
  | none => c

/-- R157, R160: a request refused with a code. -/
def State.refuse (s : State) (e code : Nat) (r : AReq) : State :=
  let q := r.1
  let s := s.seizeResult q.uid (resultAt e s.clock) 0 q.choice code (q.i + 1) r.2
  let s := s.mapAwaiting q.uid fun c => CtxDie.giveBack q c.onRefuse
  let s := s.updEng e fun g =>
    let g := if q.i = 0 then { g with fc := Nat.min (2 ^ 24 - 1) (g.fc + 1) } else { g with alt := Nat.min (2 ^ 24 - 1) (g.alt + 1) }
    { g with past := (s.clock, g.alt, g.fc) :: g.past }
  let k := ckCore q.ck
  let n := Nat.min (2 ^ 32 - 1) ((s.getCore k).szref + 1)
  { s.updCore k fun c => { c with szref := n } with pastRef := SMap.upd [] s.pastRef k fun l => (s.clock, n) :: l }

/-- R159: the body of Arbitrate. -/
def State.arbFold (s : State) (e : Nat) : List AReq → State
  | [] => s
  | r :: l =>
    let g := s.getEng e
    let free := g.freeList (engCircs e)
    let need := if r.1.i ≥ 1 && !r.2 then 2 else 1
    match free with
    | [] => (s.refuse e 8 r).arbFold e l
    | n :: _ =>
      if free.length < need then (s.refuse e 9 r).arbFold e l
      else if g.recv + ((r.1.coll.map fun x => x.2.2.need).getD 0) > 2 ^ 19 then (s.refuse e 10 r).arbFold e l
      else ((s.admitReq e n r).updEng e fun g => { g with ptr := (reqIdx e r.1.ck + 1) % engN e }).arbFold e l

/-- R280: a policy refusal. -/
def State.policyRefuse (s : State) (e : Nat) (q : Req) : State :=
  (s.seizeResult q.uid (resultAt e s.clock) 0 q.choice 8 (q.i + 1) (((s.awaiting q.uid).map (·.aged)).getD false)).mapAwaiting q.uid
    (CtxDie.giveBack q)

/-- ENGINE_ARBITRATION (R158 to R160): circuits are released, and the requests that have arrived at an engine are admitted or refused. -/
def execEngineArbitration (eng : Nat) (s : State) : Host.Outcome State Fault Refusal :=
  let now := fun (r : Req) => r.atClk ≤ s.clock
  let rs := (s.getEng eng).reqs.filter now
  let s := s.updEng eng fun g => { g.release s.clock with reqs := g.reqs.filter fun r => !now r }
  let s := (rs.filter (·.barred)).foldl (fun s r => s.policyRefuse eng r) s
  let (as, s) := s.presentAll (rs.filter fun r => !r.barred)
  .next (s.arbFold eng (arbSort eng (s.getEng eng).ptr as))

/-! ### Transfers (R162, R163) -/

/-- What moving a piece of a transfer answers: the transfer after it, not yet, or a fault at an address. -/
inductive XmitR where
  | ok (x : Xmit)
  | wait
  | fault (f : AFault) (va : Nat)
  deriving DecidableEq, Repr

/-- R235: the bytes from the next one to the end of its unit. -/
def Xmit.unit (x : Xmit) : Nat := Nat.min (128 - x.done % 128) (x.len - x.done)

/-- How far a transfer's destination lies behind an aligned 32-byte granule, from which its pieces are counted. -/
def Xmit.pad (x : Xmit) : Nat := x.daddr.toNat % 32

/-- R162: whether a transfer is to move bytes on this clock: 64 on each clock up to the one of its completion. -/
def Xmit.ready (x : Xmit) (clk : Nat) : Bool := x.last ≤ clk && match x.due with
  | some t => x.done < x.len && (x.done + x.pad) / 64 * 64 < x.len + x.pad - 64 * (t - clk)
  | none => false

/-- R162, R188, R235: the bytes that a transfer writes on a clock: up to 64, which end with a destination granule or the transfer; one that stops writes the
rest of its unit. -/
def Xmit.piece (x : Xmit) (stop : Bool) : Nat := if stop then x.unit else Nat.min (64 - (x.done + x.pad) % 64) (x.len - x.done)

/-- R235: the source bytes that a transfer lacks before it writes `n`: with those it holds, the units that they lie in. -/
def Xmit.lack (x : Xmit) (n : Nat) : Nat := Nat.min x.len (ceilDiv (x.done + n) 128 * 128) - x.done - x.out.length

/-- R188: the bytes beyond those that `m` bytes read end in a granule of the source, which is read whole where it lies in the source whole. -/
def Xmit.tail (x : Xmit) (m : Nat) : Nat :=
  let e := x.saddr.toNat + x.done + x.out.length + m
  if e % 32 != 0 && x.saddr.toNat ≤ e / 32 * 32 && e / 32 * 32 + 32 ≤ x.saddr.toNat + x.len then 32 - e % 32 else 0

/-- R188, R235: the source bytes that a transfer holds when it writes `n`. -/
def State.xmitSource (s : State) (acc : Acc) (x : Xmit) (n : Nat) : EngR × State :=
  let m := x.lack n
  if m = 0 then (.ok x.out, s)
  else
    let (r, s) := s.engReadN x.ck acc x.uid (x.saddr.toNat + x.done + x.out.length) (m + x.tail m)
    match r with
    | .ok d => (.ok (x.out ++ d), s)
    | r => (r, s)

/-- Whether a transfer's time has come. -/
def Xmit.isDue (x : Xmit) (clk : Nat) : Bool := match x.due with
  | some t => t ≤ clk
  | none => false

/-- R264: the source of a transfer in pod memory asked for line by line, one a clock. -/
def State.askXmit (s : State) (acc : Acc) (x : Xmit) : Xmit × State :=
  let o := x.done + x.asked.1
  let va := x.saddr.toNat + o
  match window va with
  | .pod _ _ =>
    if x.due.isNone || o ≥ x.len || x.asked.2 > s.clock then (x, s)
    else
      let k := Nat.min (64 - va % 64) (x.len - o)
      ({ x with asked := (x.asked.1 + k, s.clock + 1) }, (s.engSeg x.ck acc x.uid va k).2)
  | _ => (x, s)

/-- R162, R235: the next bytes of a transfer moved; a unit is begun only with all its source bytes. -/
def State.xmitPiece (s : State) (acc : Acc) (x : Xmit) (stop : Bool) : XmitR × State :=
  let n := x.piece stop
  let (r, s) := s.xmitSource acc x n
  match r with
  | .wait => (.wait, s)
  | .fault f va => (.fault f va, s)
  | .ok data =>
    let ps := pieces64 3 (x.daddr.toNat + x.done) n
    let (f, s) := s.engWrFaults x.ck acc ps
    match f with
    | .wait => (.wait, s)
    | .fault f va => (.fault f va, s)
    | .ok _ => (.ok { x with done := x.done + n, out := data.drop n, last := s.clock + 1, asked := (x.asked.1 - n, x.asked.2) },
        s.engWriteAll x.ck acc (lostRec x.bundle 0 0) { cmd := x.uid, sem := x.sigSem } ps (data.take n))

/-- R162: a transfer completes, with its signal. -/
def State.xmitEnd (s : State) (x : Xmit) : State := (s.dropPod x.uid).cmdSignal x.uid (ckCore x.ck) x.sigSem x.sigInc

/-- A piece of a transfer moved, whatever the clock: the transfer where it goes on, and the state; also whether it waits. A transfer that faults ends. -/
def State.xmitMove (s : State) (acc : Acc) (x : Xmit) (stop : Bool := false) : Option Xmit × Bool × State :=
  let (r, s') := s.xmitPiece acc x stop
  match r with
  | .ok y => if y.done ≥ y.len then (none, false, s'.xmitEnd y) else (some y, false, s')
  | .wait => (some x, true, s')
  | .fault f va => (none, false, (s'.dropPod x.uid).asyncFault x.ck (engRec f va x.bundle.toNat 0 0 0) x.uid)

/-- What the first transfer of a list does on a clock: itself where it goes on, and the state. -/
def State.xmitStep (s : State) (acc : Acc) (x : Xmit) : Option Xmit × State :=
  let (x, s) := s.askXmit acc x
  if x.ready s.clock then
    let (y, _, s) := s.xmitMove acc x
    (y, s)
  else if x.done ≥ x.len && x.isDue s.clock then (none, s.xmitEnd x)
  else (some x, s)

/-- SHARED_TRANSFER_COMPLETE (R162): the first transfer of a circuit moves its bytes and completes; the circuit is released with its last. -/
def execSharedTransferComplete (eng circ : Nat) (s : State) : Host.Outcome State Fault Refusal :=
  match SMap.get none (s.getEng eng).circ circ with
  | none => .next s
  | some c => match c.xs with
    | [] => .next s
    | x :: l =>
      let (r, t) := s.xmitStep (engKindAcc eng) x
      match r with
      | some y => .next (t.updCirc eng circ fun c => { c with xs := y :: l })
      | none =>
        let t := t.updCirc eng circ fun c => { c with xs := t.timeXmits (engKindAcc eng) (engBase eng) false l }
        .next (t.updEng eng fun g => g.release t.clock)

def Coll.member (c : Coll) (rank : Nat) : Option CollMember := c.members.find? fun m => m.rank == rank
def State.coll? (s : State) (k : Nat) : Option Coll := (s.colls.find? fun x => x.1 == k).map Prod.snd

/-- The place of a collective's member on the direct path of whichever core holds it given up. -/
def State.leaveDirect (s : State) (k rank : Nat) : State :=
  s.core.foldl (fun s x =>
    if x.2.direct.any fun y => y.coll == some (k, rank) then
      let l := s.timeXmits .cp 12 true (x.2.direct.filter fun y => y.coll != some (k, rank))
      s.updCore x.1 fun c => { c with direct := l }
    else s) s

/-- R163, R167, R312: a collective's member on the direct path has sent its contribution once that is in the other members' buffers: all are admitted. -/
def State.collSent (s : State) (k rank : Nat) : Bool :=
  match s.coll? k with
  | some c => match c.member rank with
    | some m => m.bytes.isSome && c.members.length == m.m
    | none => true
  | none => true

/-- DIRECT_TRANSFER_COMPLETE (R163): the first transfer of a core's direct path moves its bytes and completes. -/
def execDirectTransferComplete (core : Nat) (s : State) : Host.Outcome State Fault Refusal :=
  match (s.getCore core).direct with
  | [] => .next s
  | x :: l =>
    match x.coll with
    | some (k, rank) => .next (if s.collSent k rank then s.leaveDirect k rank else s)
    | none =>
      let (r, t) := s.xmitStep .cp x
      match r with
      | some y => .next (t.updCore core fun k => { k with direct := y :: l })
      | none => .next (t.updCore core fun k => { k with direct := t.timeXmits .cp 12 true l })

/-! ### The slate bus (R168, R169, R305) -/

/-- The key of the quad of a column on a die. -/
def quadKey (d col : Nat) : Nat := d * 8 + col / 4

/-- R168, R169: whether a bus operation is legal now: a quad-synchronous launch at the stated cycle. -/
def State.busOk (s : State) (d : Nat) (f : FEN) : Bool :=
  ((s.ctxLaunch s.cc0).map (·.qsync)).getD false && (s.getQuad (quadKey d s.cur.col)).cycle == f.cycle.toNat

/-- Whether a range lies in the local scratchpad. -/
def inSpad (va n : Nat) : Bool := spadBase ≤ va && va + n ≤ spadBase + 2 ^ 21

/-- R169: BDRV on a die: its read waits as a vector load does (R305). -/
def State.bdrvDie (s : State) (f : FEN) (d : Nat) : State :=
  let (a, s) := s.address d 91 f.sbase f.soff.toInt 0
  let n := f.len.toNat
  if !s.busOk d f then s.illegal d
  else if !inSpad a n then s.accFault d ⟨4, 3⟩ a 0
  else
    let loc := s.spadAt d a
    let bl := (s.ctxD d).blot
    let data := (List.range n).map fun i => (((blotByte bl (loc + i)).getD (s.readByte (loc + i))), s.readPoisoned bl (loc + i) 1)
    let rows := (pieces64 4 (a - spadBase) n).map fun p => (d, p.1 / 64, false)
    let s := s.lockStall d ((List.range n).map fun i => a + i) 1 false
    let s : State := { s with att := { s.att with vm := s.att.vm ++ rows } }
    let (u, s) := s.fresh
    let s := s.awaitReg d .f f.fbusy.toNat u (some (s.clock + 2)) 0 false 2
    s.updQuad (quadKey d s.cur.col) fun q => { q with drv := q.drv ++ [(s.cur.col, u, data)] }

/-- R305: BDRV. -/
def opBdrv (h : Hdr) (f : FEN) (s : State) : State := s.onDies h fun d s => ((s.bdrvDie f d).signalAt d h (s.clock + 2)).splices
def execBdrv (h : Hdr) (f : FEN) (s : State) : Host.Outcome State Fault Refusal := s.attempt (opBdrv h f)

/-- R169: BLAT on a die: it waits for bank locks as a vector store does. The stores that its context withholds are performed first: they come before
it. -/
def State.blatDie (s : State) (h : Hdr) (f : FEN) (d : Nat) : State :=
  let (a, s) := s.address d 80 f.dbase f.doff.toInt 0
  let n := f.len.toNat
  if !s.busOk d f then s.illegal d
  else if !inSpad a n then s.accFault d ⟨4, 3⟩ a 0
  else
    let s := if s.banksHeld d ((List.range n).map fun i => a + i) true then s.stallFor 2 else s
    let s := s.flushBlot d
    let (u, s) := s.fresh
    let s := s.awaitReg d .f f.fbusy.toNat u (some (s.clock + 2)) 0 false 2
    s.updQuad (quadKey d s.cur.col) fun q =>
      { q with lat := q.lat ++ [{ ck := s.ck0 d, uid := u, loc := s.spadAt d a, len := n, sigSem := h.sigSem.toNat, sigInc := h.sigInc.toInt }] }

/-- R305: BLAT. -/
def opBlat (h : Hdr) (f : FEN) (s : State) : State := s.onDies h fun d s => (s.blatDie h f d).splices
def execBlat (h : Hdr) (f : FEN) (s : State) : Host.Outcome State Fault Refusal := s.attempt (opBlat h f)

/-- The driver of a clock: the lowest core. -/
def busWinner : List (Nat × Nat × List (Byte × Bool)) → Option (Nat × Nat × List (Byte × Bool))
  | [] => none
  | x :: l => match busWinner l with
    | some y => some (if y.1 < x.1 then y else x)
    | none => some x

/-- R169: the busy flag of a bus operation. -/
def State.busFlag (s : State) (uid v : Nat) : State :=
  s.mapAwaiting uid fun c => { c with pend := c.pend.map fun p => if p.uid = uid then { p with val := BitVec.ofNat 512 v } else p }

/-- R169: a receiver takes the driver's bytes; beyond them the bus's bytes are free values. -/
def State.busTake (s : State) (w : List (Byte × Bool)) (r : BusLat) : State :=
  let data := (List.range r.len).map fun i => w.getD i (Config.busFree (s.freeCtr + i), false)
  let s := { s with freeCtr := s.freeCtr + 128 }
  s.updCore (ckCore r.ck) fun k => { k with blat := k.blat ++
    [{ due := s.clock + 4, ck := r.ck, loc := r.loc, data := data, sigSem := r.sigSem, sigInc := r.sigInc, passed := r.passed,
       issued := s.clock }] }

/-- R169: the end of a clock on a quad's bus. -/
def State.busEnd (s : State) (quad : Nat) : State :=
  let q := s.getQuad quad
  let w := busWinner q.drv
  let s := q.drv.foldl (fun s x => s.busFlag x.2.1 (if w.map Prod.fst = some x.1 then 0 else 1)) s
  let s := q.lat.foldl (fun s r => match w with
    | some x => (s.busFlag r.uid 0).busTake x.2.2 r
    | none => s.busFlag r.uid 1) s
  s.updQuad quad fun q => { q with drv := [], lat := [] }

/-- Bytes written at a place line by line, but for those of the numbers `passed`, which a later store of the same iteration has written. -/
def State.storeOver (s : State) (loc : Nat) (data : List (Byte × Bool)) (passed : List Nat) : State :=
  if passed.isEmpty then (pieces64 (data.length / 64 + 2) loc data.length).foldl (fun s p => s.storeP p.1 ((data.drop (p.1 - loc)).take p.2)) s
  else (data.zipIdx.filter fun x => !passed.contains x.2).foldl (fun s x => s.storeP (loc + x.2) [x.1]) s

/-- A BLAT write performed. -/
def State.blatStore (s : State) (w : BlatW) : State := s.storeOver w.loc w.data w.passed

/-- BLAT_WRITE_LANDS (R169): the BLAT writes of a core that are due are performed, and signal. -/
def execBlatWriteLands (core : Nat) (s : State) : Host.Outcome State Fault Refusal :=
  let now := (s.getCore core).blat.filter fun w => w.due ≤ s.clock
  let s := s.updCore core fun k => { k with blat := k.blat.filter fun w => w.due > s.clock }
  .next (now.foldl (fun s w => (s.blatStore w).signal core w.sigSem w.sigInc) s)

end Sys2Proof.Machine
end

