-- ==== Sys2Proof/Machine/Coll.lean ====
section
/-! DEFINITION. Collectives (R167, R268, R269, R310 to R312). -/

namespace Sys2Proof.Machine

/-! ### Members (R310) -/

/-- R266: the pod group of a launch and its pod launch, where it has one. -/
def State.podOf (s : State) (l : Launch) : Option (Nat × Nat × DWord) :=
  match l.pod with
  | some (g, n) => some (g, n, (s.getPodgrp g).members)
  | none => none

/-- R310: the members that this package gives a collective of a launch. -/
def Launch.ownMembers (l : Launch) : Nat := l.tw * l.tc * (allDies.filter fun d => bits l.live d 1 == 1).length

/-- R310: the members of other packages that satisfy `p`. -/
def State.extMembers (s : State) (l : Launch) (p : Nat → Bool) : Nat :=
  match s.podOf l with
  | none => 0
  | some (g, n, ms) => (List.range 64).foldl (fun a x => if ms.getLsbD x && x != s.pkgNum && p x then a + Config.podSize g n x else a) 0

/-- R266: the other packages of a launch's pod group. -/
def State.podPeers (s : State) (l : Launch) : List Nat :=
  match s.podOf l with
  | some (_, _, ms) => (List.range 64).filter fun p => ms.getLsbD p && p != s.pkgNum
  | none => []

/-- R310: M. -/
def State.collM (s : State) (l : Launch) : Nat := l.ownMembers + s.extMembers l fun _ => true

/-- R310: the rank of a context of this package on a die. -/
def State.collRank (s : State) (l : Launch) (tcol tctx d : Nat) : Nat :=
  let n := (allDies.filter fun x => bits l.live x 1 == 1).length
  let r := (allDies.filter fun x => x < d && bits l.live x 1 == 1).length
  s.extMembers l (fun x => x < s.pkgNum) + (tcol * l.tc + tctx) * n + r

/-- R312: the receive need of a rank. -/
def collNeed (op m rank len : Nat) : Nat := if op = 0 then (if rank = 0 then 0 else len) else (m - 1) * len

/-! ### Issue -/

/-- R310, R312: COLL on a die. It takes its number at its issue; one that an engine refuses gives it back (log 64). -/
def State.collDie (s : State) (h : Hdr) (f : FEN) (d : Nat) : State :=
  match s.ctxLaunch s.cc0 with
  | none => s.illegal d
  | some l =>
    let c := s.getCc s.cc0
    let m := s.collM l
    let rank := s.collRank l c.tcol c.tctx d
    let need := collNeed f.op.toNat m rank f.len.toNat
    if (allDies.any fun x => s.onDie x && !h.dm.getLsbD x) || need > 2 ^ 19 then s.illegal d
    else
      let (out, s) := s.rdS d f.out
      let i := routeIdx f out
      let ch := routeChoice f i
      let (da, sa, s) := s.enAddrs d f
      let (go, s) := s.enCheck d ch da sa f.len.toNat
      if !go then s
      else
        let (u, s) := s.fresh
        let ck := s.ck0 d
        let op : Instr := .coll h f
        let n := (s.ctxD d).colls
        let s := s.updD d fun x => { x with colls := n + 1 }
        let mem : CollMember := { n := n, rank := rank, m := m, tcol := c.tcol, tctx := c.tctx, die := d, ck := ck, op := op, bundle := s.cur.bundle,
                                  daddr := BitVec.ofNat 64 da, saddr := BitVec.ofNat 64 sa, uid := u, need := need, atClk := s.clock }
        if ch = 7 then
          let s := if (s.coreD d).staging.isSome then s.stallFor 3 else s
          let s := (s.directFull d).directAdmit d f u i
          let k := collKey c.launch c.team n
          let s := s.updCoreD d fun x => { x with staging := some k }
          let x := mkXmit u ck op s.cur.bundle (BitVec.ofNat 64 da) (BitVec.ofNat 64 sa) s.clock
          (s.pushDirect (coreKey d s.cur.col) { x with coll := some (k, rank) }).joinColl c.launch c.team n { mem with direct := true }
        else s.sendReq d f { atClk := 0, uid := u, ck := ck, i := i, choice := ch, op := op, bundle := s.cur.bundle, daddr := BitVec.ofNat 64 da,
                             saddr := BitVec.ofNat 64 sa, barred := false, coll := some (c.launch, c.team, mem) }

/-- R310: COLL. -/
def opColl (h : Hdr) (f : FEN) (s : State) : State := s.onDies h fun d s => (s.collDie h f d).splices
def execColl (h : Hdr) (f : FEN) (s : State) : Host.Outcome State Fault Refusal := s.attempt (opColl h f)

/-! ### Results (R311) -/

/-- R311: Comb. -/
def collComb (op : Nat) (t : Ty) (a b : Nat) : Nat :=
  let w := t.width
  if t.isFloat then
    (match op with
      | 1 => fAdd t.ffmt .rne a b
      | 2 => fMinMax t.ffmt true a b
      | _ => fMinMax t.ffmt false a b).1
  else match op with
    | 1 => (a + b) % 2 ^ w
    | 2 => maxW t.signed w a b
    | _ => minW t.signed w a b

/-- R312: the identity of an operation, as an element. -/
def collIdent (op : Nat) (t : Ty) : Nat :=
  match op with
  | 2 => if t.isFloat then t.ffmt.inf true else ofSigned t.width t.intMin
  | 3 => if t.isFloat then t.ffmt.inf false else ofSigned t.width t.intMax
  | _ => 0

/-- R312: LEN bytes of the identity. -/
def identBytes (op : Nat) (t : Ty) (len : Nat) : List (Byte × Bool) :=
  if op = 0 || op = 4 then List.replicate len (0#8, false)
  else packP t.width (List.replicate (len * 8 / t.width) (collIdent op t, false))

/-- R311: CollResult. -/
def collResult (op : Nat) (t : Ty) (xs : List (List (Byte × Bool))) : List (Byte × Bool) :=
  match xs with
  | [] => []
  | x :: l =>
    if op = 0 then x
    else if op = 4 then xs.flatten
    else
      let n := x.length * 8 / t.width
      let comb := fun (a b : List (Nat × Bool)) => (a.zip b).map fun p => (collComb op t p.1.1 p.2.1, p.1.2 || p.2.2)
      packP t.width (l.foldl (fun a y => comb a (eltsOf t.width n y)) (eltsOf t.width n x))

/-! ### A collective's life -/

def CollMember.f (m : CollMember) : FEN := enFields m.op
/-- Whether two members' COLLs agree. -/
def CollMember.agrees (a b : CollMember) : Bool :=
  a.f.op == b.f.op && a.f.ty == b.f.ty && a.f.len == b.f.len

/-- A member of a collective changed. -/
def State.updMember (s : State) (k rank : Nat) (f : CollMember → CollMember) : State :=
  { s with colls := s.colls.map fun x =>
    if x.1 = k then (x.1, { x.2 with members := x.2.members.map fun m => if m.rank = rank then f m else m }) else x }

/-- The column context on which a context of a team stands, unless it is frozen or swapped out. -/
def State.teamCtx (s : State) (launch team tcol tctx : Nat) : Option Nat :=
  (s.cc.find? fun x => x.2.launch == launch && x.2.team == team && x.2.tcol == tcol && x.2.tctx == tctx &&
    x.2.st != .free && x.2.st != .swapped).map Prod.fst

/-- A member's context key, where its context stands on a column, or where it runs on after its team's end. -/
def State.memberCk (s : State) (c : Coll) (m : CollMember) : Option Nat :=
  match m.orphan with
  | some ck => some ck
  | none => (s.teamCtx c.launch c.team m.tcol m.tctx).map fun cc => ccCk m.die cc

/-- R312: what a member contributes where its COLL differs from rank 0's, or where its source faults. -/
def Coll.identity (c : Coll) : List (Byte × Bool) :=
  match c.member 0 with
  | some r => identBytes r.f.op.toNat r.f.ty r.f.len.toNat
  | none => []

/-- R263, R268: a contribution sent to a package of its pod launch: a posted write into the buffers reserved there, in one message (DESIGN CHOICE,
log 94). One that no link can take is lost. -/
def State.sendTo (s : State) (k cc : Nat) (m : CollMember) (l : Launch) (data : List (Byte × Bool)) (pkg : Nat) : State :=
  match l.pod with
  | none => s
  | some (g, n) =>
    let (u, s) := s.fresh
    let msg : PodMsg := { src := s.pkgNum, dst := pkg, index := 0, addr := 64 * m.rank, uid := u,
                          body := .contribution g n (k / 2 ^ 32 % 128) (k % 2 ^ 32) m.rank ⟨m.f.op, m.f.ty, m.f.len, data⟩ }
    match s.route pkg msg.addr with
    | none => s.asyncFault m.ck (lostRec m.bundle 0 0) m.uid
    | some link =>
      let s : State := { s with posted := s.posted ++ [
        { uid := u, cc := cc, launch := (s.getCc cc).launch, die := m.die, addr := 0, host := false, land := s.clock + head m.die 17, due := none,
          frec := lostRec m.bundle 0 0, issued := s.clock, cmd := m.uid, sem := (enHdr m.op).sigSem.toNat }] }
      s.podOnLink link msg

/-- A member's contribution sent to the other members, those of other packages among them. -/
def State.contribute (s : State) (k ck : Nat) (m : CollMember) (bytes : List (Byte × Bool)) (bad : Bool) : State :=
  let s := s.updMember k m.rank fun m => { m with bytes := some bytes, since := s.clock, bad := bad }
  if bytes.isEmpty then s
  else match s.launch? (k / 2 ^ 32 / 128) with
    | none => s
    | some l => (s.podPeers l).foldl (fun s p => s.sendTo k (ckCc ck) m l bytes p) s

/-- The kind of access of a member. -/
def CollMember.acc (m : CollMember) : Acc := if m.direct then .cp else .dc

/-- The least clock of a member's contribution on a circuit, but for its ends (R162). -/
def CollMember.ready (m : CollMember) : Nat := m.atClk + 20 + ceilDiv m.f.len.toNat 64

/-- R163, R312: whether a member on the direct path has its turn there: its place is the first, and its least time over. -/
def State.directTurn (s : State) (k rank ck : Nat) : Bool :=
  match (s.getCore (ckCore ck)).direct.span fun x => x.coll != some (k, rank) with
  | (before, x :: _) => before.isEmpty && x.isDue s.clock
  | (_, []) => true

/-- R132, R162: the clocks that a member's ends add on a circuit. A source in pod memory adds none here: the member waits for its bytes. -/
def State.memberEnds (s : State) (ck : Nat) (m : CollMember) : Nat :=
  let f := fun (va : Nat) dest => match window va with
    | .quad _ => 0
    | .pod _ _ => if dest then s.endClocks ck .dc va true else 0
    | _ => s.endClocks ck .dc va dest
  f m.saddr.toNat false + f m.daddr.toNat true

/-- R162, R163, R312: whether a member may send its contribution (DEDUCED, log 64). -/
def State.maySend (s : State) (k ck : Nat) (m : CollMember) : Bool :=
  if m.direct then s.directTurn k m.rank ck else m.ready + s.memberEnds ck m ≤ s.clock

/-- R311, R312: a local member's contribution: its source read, or the identity where it disagrees with rank 0. -/
def State.sendContribution (s : State) (k : Nat) (c : Coll) (m : CollMember) : State :=
  match c.member 0, s.memberCk c m with
  | some r, some ck =>
    if m.bytes.isSome || m.ext || !s.maySend k ck m then s
    else if !m.agrees r then
      (s.contribute k ck m c.identity true).asyncFault ck { code := 2, r1 := m.bundle } m.uid
    else if m.f.op = 0 && m.rank ≠ 0 then s.contribute k ck m [] false
    else
      let (x, s) := s.engReadN ck m.acc m.uid m.saddr.toNat m.f.len.toNat
      match x with
      | .wait => s
      | .fault f va => ((s.dropPod m.uid).contribute k ck m c.identity true).asyncFault ck (engRec f va m.bundle.toNat 0 0 0) m.uid
      | .ok l => (s.dropPod m.uid).contribute k ck m l false
  | _, _ => s

/-- The launch and team of a collective's key. -/
def keyLaunch (k : Nat) : Nat := k / 2 ^ 32 / 128
def keyTeam (k : Nat) : Nat := k / 2 ^ 32 % 128

/-- The COLL of a member of another package, as its contribution names it. -/
def contribInstr (c : Contrib) : Instr := .coll Hdr.plain { enFields .splice with op := c.op, ty := c.ty, len := c.len }

/-- R268: a contribution of a member of another package performed in this package's buffers. -/
def State.extArrives (s : State) (l : Launch) (coll rank : Nat) (c : Contrib) : State :=
  let lo := s.extMembers l fun x => x < s.pkgNum
  if rank < s.collM l && !(lo ≤ rank && rank < lo + l.ownMembers) && ((s.coll? coll).bind (·.member rank)).isNone then
    s.joinColl (keyLaunch coll) (keyTeam coll) (coll % 2 ^ 32)
      { rank := rank, m := s.collM l, ext := true, op := contribInstr c, n := coll % 2 ^ 32, bytes := some c.data, since := s.clock }
  else s

/-- COLL_CONTRIBUTION_ARRIVES (R167, R268): a member's contribution is sent to the other members' buffers; `x` is that of a member of another
package. -/
def execCollContributionArrives (coll rank : Nat) (x : Contrib) (s : State) : Host.Outcome State Fault Refusal :=
  match s.launch? (keyLaunch coll) with
  | none => .next s
  | some l =>
    match (s.coll? coll).bind (·.member rank) with
    | some m => .next (match s.coll? coll with
      | some c => s.sendContribution coll c m
      | none => s)
    | none => .next (s.extArrives l coll rank x)

/-- R167: whether every member of this package, of `own`, is admitted. -/
def Coll.admitted (c : Coll) (own : Nat) : Bool := (c.members.filter fun m => !m.ext).length == own

/-- R268: whether a member's part is done: every contribution that it awaits has arrived, and every member of this package, of `own`, to which it sends is
admitted; those of other packages acknowledge what it sends them. -/
def Coll.partDone (c : Coll) (own : Nat) (m : CollMember) : Bool :=
  let all := c.members.length == m.m
  if m.f.op = 0 then
    if m.rank = 0 then c.admitted own && m.bytes.isSome
    else ((c.member 0).map fun r => r.bytes.isSome).getD false && m.bytes.isSome
  else all && c.members.all fun x => x.bytes.isSome

/-- The contributions in rank order. -/
def Coll.inputs (c : Coll) (m : Nat) : List (List (Byte × Bool)) :=
  (List.range m).map fun r => ((c.member r).bind (·.bytes)).getD []

/-- R312: a member's circuit and buffer, or its place on the direct path and its staging area, released. A member frozen off its circuit
goes on along the direct path and keeps its buffer (R268). -/
def State.releaseMember (s : State) (k : Nat) (m : CollMember) : State :=
  let s := if m.direct then s.leaveDirect k m.rank else s
  if m.direct && m.eng < 128 then
    s.updCore (ckCore m.ck) fun x => { x with staging := if x.staging = some k then none else x.staging }
  else s.updEng m.eng fun g =>
    { g with recv := g.recv - m.need, circ := g.circ.filter fun x => !((x.2.bind (·.coll)) == some (k, m.rank)) }

/-- A collective is forgotten once every member of this package is complete. -/
def State.endColl (s : State) (k : Nat) : State :=
  match s.coll? k, s.launch? (keyLaunch k) with
  | some c, some l =>
    if (c.members.filter fun m => !m.ext && m.complete).length = l.ownMembers then { s with colls := SMap.erase s.colls k } else s
  | _, _ => s

/-- COLL_MEMBER_COMPLETE (R268, R312): once its contributions to other packages have been acknowledged too, a member's destination is written, what it
holds is released, and it signals. -/
def execCollMemberComplete (coll rank : Nat) (s : State) : Host.Outcome State Fault Refusal :=
  match s.coll? coll with
  | none => .next s
  | some c => match c.member rank with
    | none => .next s
    | some m => match s.memberCk c m with
      | none => .next s
      | some ck =>
        if m.ext || m.complete || !c.partDone (((s.launch? (keyLaunch coll)).map Launch.ownMembers).getD 0) m || s.posted.any (fun p => p.cmd == m.uid) then .next s
        else
          let fin := fun (s : State) => ((s.releaseMember coll m).updMember coll rank fun x => { x with complete := true }).endColl coll
          if m.bad then .next (fin s)
          else
            let data := collResult m.f.op.toNat m.f.ty (c.inputs m.m)
            let ps := pieces64 (data.length / 64 + 2) m.daddr.toNat data.length
            let (f, s') := s.engWrFaults ck m.acc ps
            match f with
            | .fault f va => .next ((fin s').asyncFault ck (engRec f va m.bundle.toNat 0 0 0) m.uid)
            | .wait => .next s'
            | .ok _ =>
              let sem := (enHdr m.op).sigSem.toNat
              .next ((fin (s'.engWriteAll ck m.acc (lostRec m.bundle 0 0) { cmd := m.uid, sem := sem } ps data)).cmdSignal m.uid (ckCore ck) sem
                (enHdr m.op).sigInc.toInt)

/-! ### The stall event (R269) -/

/-- The place of a rank of this package: TCOL, TCTX and die. -/
def State.rankPlace (s : State) (l : Launch) (rank : Nat) : Nat × Nat × Nat :=
  let ds := allDies.filter fun d => bits l.live d 1 == 1
  let n := Nat.max 1 ds.length
  let r := rank - s.extMembers l fun x => x < s.pkgNum
  (r / n / l.tc, r / n % l.tc, ds.getD (r % n) 0)

/-- R269: the package of a rank of another package, and the rank's place in it. -/
def State.extPlace (s : State) (l : Launch) (rank : Nat) : Nat × Nat :=
  (List.range 64).foldl (fun (x : Nat × Nat) p =>
    let lo := s.extMembers l (fun y => y < p) + if s.pkgNum < p then l.ownMembers else 0
    if p != s.pkgNum && (s.podPeers l).contains p && lo ≤ rank then (p, rank - lo) else x) (0, 0)

/-- R269: the state of a waiting member, 0 not admitted, 1 swapped, 2 frozen, and the clock from which it has been waited for; none where it is not waited
for. -/
def State.waitState (s : State) (c : Coll) (rank : Nat) : Option (Nat × Nat) :=
  match c.member rank with
  | none => some (0, 0)
  | some m =>
    if m.ext || m.complete then none
    else s.swaps.findSome? fun w => (w.2.ctxs.find? fun sv => w.2.launch == c.launch && w.2.team == c.team && sv.cc.tcol == m.tcol &&
      sv.cc.tctx == m.tctx).map fun sv => (if sv.reason = 3 then 1 else 2, sv.frzClk)

/-- Whether a rank is a member of this package. -/
def State.ownRank (s : State) (l : Launch) (rank : Nat) : Bool :=
  let lo := s.extMembers l fun x => x < s.pkgNum
  lo ≤ rank && rank < lo + l.ownMembers

/-- R167, R268, R269: the members whose contributions a DC engine of this package holds for a waiting member: one that is not admitted is waited for by the
circuits of those that send to it, one of another package by those whose contributions it has not acknowledged; for one that is swapped or frozen its own
engine holds in its buffer what has arrived. -/
def State.contribsHeld (s : State) (c : Coll) (l : Launch) (rank st : Nat) : List CollMember :=
  c.members.filter fun m => m.rank != rank && (m.bytes.any fun b => !b.isEmpty) &&
    if st = 0 then !m.ext && !m.direct && !m.complete && (s.ownRank l rank || s.posted.any fun p => p.cmd == m.uid)
    else (c.member rank).any fun w => Nat.ble 128 w.eng

/-- The engine that holds them. -/
def Coll.holder (c : Coll) (rank st : Nat) (m : CollMember) : Nat := if st = 0 then m.eng else ((c.member rank).map (·.eng)).getD 128

/-- R269: the record of a collective-stall event. The die and the column of a member of another package are free values. -/
def State.stallRecord (s : State) (c : Coll) (l : Launch) (rank st bytes eng : Nat) : List Byte :=
  let (tcol, _, die) := s.rankPlace l rank
  let col := ((l.teamCols.find? fun x => x.1 == c.team).map fun x => x.2.getD tcol 0).getD 0
  let dc := (eng - 128) / 4 * 16 + (eng - 128) % 4
  let (pkg, die, col) :=
    if s.ownRank l rank then (s.pkgNum, die, col)
    else
      let (p, r) := s.extPlace l rank
      let v := Config.podPlace ((l.pod.map Prod.fst).getD 0) ((l.pod.map Prod.snd).getD 0) p r
      (p, v / 32 % 8, v % 32)
  leBytes 2 0x0031 ++ leBytes 1 st ++ leBytes 1 dc ++ leBytes 1 pkg ++ leBytes 1 die ++ leBytes 1 col ++ leBytes 1 c.team ++ leBytes 4 0 ++ leBytes 4 bytes

/-- COLL_STALL_EVENT (R269): a contribution has been held for INTERVAL clocks for a member that is not admitted, swapped or frozen. That a member of
another package is waited for is known to the outside, which names it; for one that is swapped or frozen its own package's engine holds and tells. -/
def execCollStallEvent (coll rank : Nat) (s : State) : Host.Outcome State Fault Refusal :=
  match s.coll? coll, s.launch? (keyLaunch coll) with
  | some c, some l =>
    let iv := (s.getPart l.part).collstall.toNat
    match s.waitState c rank with
    | none => .next s
    | some (st, from_) =>
      let sent := s.contribsHeld c l rank st
      match sent.find? fun m => Nat.max m.since from_ + iv ≤ s.clock with
      | none => .next s
      | some h =>
        if iv = 0 || c.told.contains rank || rank ≥ s.collM l then .next s
        else
          let bytes := sent.foldl (fun n m => n + (m.bytes.getD []).length) 0
          .next { s with
            events := s.events ++ [.collStall (s.stallRecord c l rank st bytes (c.holder rank st h))]
            colls := SMap.put s.colls coll { c with told := insNat rank c.told } }
  | _, _ => .next s

end Sys2Proof.Machine
end

