-- ==== Sys2Proof/Machine/Envelope.lean ====
section
/-! DEFINITION. The envelope accumulator (R170 to R185, R322): class EV. -/

namespace Sys2Proof.Machine

/-! ### Values (R171, R173) -/

def evInf : Word := 0x7F800000#32
def evNinf : Word := 0xFF800000#32
def evNan : Word := 0x7FC00000#32

/-- The datum of an FP32 word. -/
def fp (x : Word) : FP := fmtF32.dec x.toNat
def evLt (a b : Word) : Bool := fpLt (fp a) (fp b)
def evEq (a b : Word) : Bool := fpEq (fp a) (fp b)
/-- A NaN or an infinity. -/
def evBad (x : Word) : Bool :=
  match fp x with
  | .fin _ _ _ => false
  | _ => true
/-- One of two equal values (DESIGN CHOICE, log 22). -/
def evTie (a b : Word) : Word := if a = b then a else if Config.zeroTie then a else b
def evMax (a b : Word) : Word := if evLt a b then b else if evLt b a then a else evTie a b
def evMin (a b : Word) : Word := if evLt a b then a else if evLt b a then b else evTie a b
/-- RoundNE32(a + b). -/
def evAdd (a b : Word) : Word := BitVec.ofNat 32 (fAdd fmtF32 .rne a.toNat b.toNat).1
/-- RoundNE32(+0 − a). -/
def evNeg (a : Word) : Word := BitVec.ofNat 32 (fSub fmtF32 .rne 0 a.toNat).1

/-- The exact value a − b of finite data. -/
def exactSub (a b : FP) : Int × Int := sumExact (finTerms [a, b.flip])

/-- R173: X, the breakpoint of two lines of different slopes. -/
def evX (p q : ELine) : Word :=
  let (n, ne) := exactSub (fp q.b) (fp p.b)
  let (d, de) := exactSub (fp p.a) (fp q.a)
  if n = 0 then 0#32
  else
    let k := bitLen d.natAbs + 40
    let m := n.natAbs * 2 ^ k
    BitVec.ofNat 32 (roundFl fmtF32 .rne (decide (n < 0) != decide (d < 0)) (m / d.natAbs) (ne - de - k) (m % d.natAbs != 0)).1

/-- R171: the selected piece at x. -/
def Env.piece (e : Env) (x : Word) : Nat := (e.brk.filter fun b => !evLt x b).length
/-- A line of an envelope. -/
def Env.line (e : Env) (i : Nat) : ELine := e.lines.getD i ⟨0#32, 0#32, 0#16⟩
/-- R184: the line count of a NORMAL register, 0 otherwise. -/
def Env.n (e : Env) : Nat := if e.status == .normal then e.lines.length else 0

/-- R171: EnvVal. -/
def envVal (e : Env) (x : Word) : Word × Half :=
  if (fp x).isNan then (evNan, 0xFFFF#16)
  else if e.status == .empty || evLt x e.lo || evLt e.hi x then (evInf, 0xFFFF#16)
  else if e.status == .negInf then (evNinf, 0xFFFF#16)
  else
    let l := e.line (e.piece x)
    match fp x with
    | .inf neg => (if (fp l.a).isZero then l.b else if neg != (fp l.a).neg then evNinf else evInf, l.tag)
    | _ => (BitVec.ofNat 32 (fFma fmtF32 .rne l.a.toNat x.toNat l.b.toNat).1, l.tag)

/-! ### Building (R173) -/

/-- The lines that stay of a hull, the last first, when a line is added to it. -/
def hullPop (q : ELine) : List ELine → List ELine
  | [] => []
  | [p] => if evX p q = evNinf then [] else [p]
  | p :: r :: t => if evLt (evX r p) (evX p q) then p :: r :: t else hullPop q (r :: t)

/-- A line added to a hull, the last line first. -/
def hullAdd (h : List ELine) (q : ELine) : List ELine :=
  match hullPop q h with
  | [] => [q]
  | p :: t => if evX p q = evInf then p :: t else q :: p :: t

/-- The lines whose pieces end at or before `lo` removed from the front. -/
def trimLo (lo : Word) : List ELine → List ELine
  | p :: q :: t => if evLt lo (evX p q) then p :: q :: t else trimLo lo (q :: t)
  | l => l

/-- The lines whose pieces begin after `hi` removed, the last line first. -/
def trimHi (hi : Word) : List ELine → List ELine
  | q :: p :: t => if evLt hi (evX p q) then trimHi hi (p :: t) else q :: p :: t
  | l => l

/-- R173: Hull of lines with strictly ascending slopes. -/
def hull (c : List ELine) (lo hi : Word) : List ELine :=
  (trimHi hi (trimLo lo (c.foldl hullAdd []).reverse).reverse).reverse

/-- The breakpoints of a list of lines. -/
def breaks : List ELine → List Word
  | p :: q :: t => evX p q :: breaks (q :: t)
  | _ => []

/-- R173: Width of each line, given the ends of its pieces. -/
def widths : List Word → List FP
  | l :: r :: t =>
    (if evBad l || evBad r then .inf false
     else
       let (v, e) := exactSub (fp r) (fp l)
       .fin (v < 0) v.natAbs e) :: widths (r :: t)
  | _ => []

/-- The place and the value of the least of a list, the lowest place on ties. -/
def leastAt : Nat → List FP → Option (Nat × FP)
  | _, [] => none
  | k, x :: t => match leastAt (k + 1) t with
    | some (j, y) => if fpLt y x then some (j, y) else some (k, x)
    | none => some (k, x)

/-- R173: the tolerance loop: the hull left, and the lines dropped. -/
def tolLoop (lo hi tol : Word) : Nat → List ELine → List ELine → Nat → List ELine × Nat
  | 0, _, h, p => (h, p)
  | fuel + 1, c, h, p =>
    match leastAt 0 (widths (lo :: breaks h ++ [hi])) with
    | some (k, w) =>
      if h.length ≥ 2 && fpLt w (fp tol) then
        let c := c.filter fun x => some x != h[k]?
        tolLoop lo hi tol fuel c (hull c lo hi) (p + 1)
      else (h, p)
    | none => (h, p)

/-- Whether line p comes before line q: by slope, then the larger intercept, then the lower tag. -/
def lineBefore (p q : ELine) : Bool :=
  if evLt p.a q.a then true else if evLt q.a p.a then false
  else if evLt q.b p.b then true else if evLt p.b q.b then false
  else p.tag.toNat ≤ q.tag.toNat

def insLine (p : ELine) : List ELine → List ELine
  | [] => [p]
  | q :: t => if lineBefore p q then p :: q :: t else q :: insLine p t

def sortLines (l : List ELine) : List ELine := l.foldr insLine []

/-- R173: among lines of equal slope the first, which has the largest intercept and then the lowest tag. -/
def oneEach (l : List ELine) : List ELine :=
  l.foldr (fun p a => match a with
    | [] => [p]
    | q :: t =>
      if !evEq p.a q.a then p :: q :: t
      else if evEq p.b q.b && p.tag == q.tag && !Config.zeroTie then q :: t
      else p :: t) []

/-- What Build answers: the register, the lines dropped by tolerance, ENAN, and the lines required where they exceed the limit. -/
structure Built where
  env : Env
  p : Nat := 0
  enan : Bool := false
  excess : Option Nat := none
  deriving DecidableEq, Repr

def envEmpty : Env := ⟨.empty, evInf, evNinf, [], []⟩
def envNegInf (lo hi : Word) : Env := ⟨.negInf, lo, hi, [], []⟩
/-- A line with a NaN or infinite coefficient. -/
def badLine (l : ELine) : Bool := evBad l.a || evBad l.b

/-- R173: Build. -/
def build (c : List ELine) (lo hi tol : Word) (limit : Bool) : Built :=
  if (fp lo).isNan || (fp hi).isNan then { env := envEmpty, enan := true }
  else if evLt hi lo || lo = evInf || hi = evNinf then { env := envEmpty }
  else
    let good := c.filter fun l => !badLine l
    let en := c.any badLine
    if good.isEmpty then { env := envNegInf lo hi, enan := en }
    else
      let c := oneEach (sortLines good)
      let (h, p) := tolLoop lo hi tol c.length c (hull c lo hi) 0
      { env := ⟨.normal, lo, hi, h, breaks h⟩, p := p, enan := en, excess := if limit && h.length > 256 then some h.length else none }

/-! ### Operations on whole envelopes (R179 to R181) -/

/-- A value added to an ascending list without repeats. -/
def insVal (x : Word) : List Word → List Word
  | [] => [x]
  | y :: t => if evLt x y then x :: y :: t else if evLt y x then y :: insVal x t else evTie y x :: t

def valSet (l : List Word) : List Word := l.foldl (fun a x => insVal x a) []

/-- R179: Combine for ESUM. -/
def envSum (f g : Env) (tol : Word) (limit : Bool) : Built :=
  let lo := evMax f.lo g.lo
  let hi := evMin f.hi g.hi
  if f.status == .empty || g.status == .empty || evLt hi lo then { env := envEmpty }
  else if f.status == .negInf || g.status == .negInf then { env := envNegInf lo hi }
  else
    let ps := valSet (lo :: (f.brk ++ g.brk).filter fun b => evLt lo b && evLt b hi)
    build (ps.map fun x =>
      let a := f.line (f.piece x)
      let b := g.line (g.piece x)
      ⟨evAdd a.a b.a, evAdd a.b b.b, a.tag⟩) lo hi tol limit

/-- R179: Combine for EMAX. -/
def envMax (f g : Env) (tol : Word) (limit : Bool) : Built :=
  let lo := evMax f.lo g.lo
  let hi := evMin f.hi g.hi
  if f.status == .empty || g.status == .empty || evLt hi lo then { env := envEmpty }
  else if f.status == .negInf && g.status == .negInf then { env := envNegInf lo hi }
  else build (f.lines ++ g.lines) lo hi tol limit

/-- R180: Conj. -/
def envConj (f : Env) (tol : Word) (limit : Bool) : Built :=
  match f.status with
  | .empty => { env := Env.launch }
  | .negInf => { env := envEmpty }
  | .normal =>
    let fin := fun x => if evBad x then [] else [x]
    match valSet (fin f.lo ++ f.brk ++ fin f.hi) with
    | [] =>
      let l := f.line 0
      { env := ⟨.normal, l.a, l.a, [⟨0#32, evNeg l.b, l.tag⟩], []⟩ }
    | vs =>
      let nlo := if f.lo = evNinf then (f.line 0).a else evNinf
      let nhi := if f.hi = evInf then (f.line (f.lines.length - 1)).a else evInf
      build (vs.map fun v => ⟨v, evNeg (envVal f v).1, (envVal f v).2⟩) nlo nhi tol limit

/-! ### Images (R182, R183) -/

def EStatus.code : EStatus → Nat
  | .normal => 0
  | .empty => 1
  | .negInf => 2

/-- R182: the records of lines with their left ends. -/
def lineBytes : List ELine → List Word → List Byte
  | l :: ls, b :: bs =>
    leBytes 4 l.a.toNat ++ leBytes 4 l.b.toNat ++ leBytes 4 b.toNat ++ leBytes 2 l.tag.toNat ++ leBytes 2 0 ++ lineBytes ls bs
  | _, _ => []

/-- R182: the envelope image. -/
def envImage (e : Env) : List Byte :=
  leBytes 2 e.status.code ++ leBytes 2 e.n ++ leBytes 4 e.lo.toNat ++ leBytes 4 e.hi.toNat ++ List.replicate 20 0#8 ++
    (if e.status == .normal then lineBytes e.lines (e.lo :: e.brk) else [])

/-- R183: the lines of `n` records. -/
def recLines : Nat → List Byte → List ELine
  | 0, _ => []
  | n + 1, d =>
    ⟨BitVec.ofNat 32 (leNat (d.take 4)), BitVec.ofNat 32 (leNat ((d.drop 4).take 4)), BitVec.ofNat 16 (leNat ((d.drop 12).take 2))⟩ ::
      recLines n (d.drop 16)

/-- R183: the fault of a header. -/
def headerBad (d : List Byte) : Bool :=
  let st := leNat (d.take 2)
  let n := leNat ((d.drop 2).take 2)
  (d.drop 12).any (· != 0#8) || st ≥ 3 || n > 256 || (n == 0) == (st == 0)

/-! ### Issue (R175 to R178, R184) -/

/-- The fields of an EV operation. -/
def evFields : Instr → FEV
  | .eline _ f | .emax _ f | .esum _ f | .einfc _ f | .econj _ f | .eeval _ f | .ebrk _ f | .eclr _ f | .etol _ f | .esave _ f
  | .eload _ f => f
  | _ => ⟨0#32, Reg.zero, ⟨false, false, 0#6⟩, Reg.zero, Reg.zero, Reg.zero, 0#2, 0#2, 0#2⟩

/-- The header of an EV operation. -/
def evHdr : Instr → Option Hdr
  | .eline h _ | .emax h _ | .esum h _ | .einfc h _ | .econj h _ | .eeval h _ | .ebrk h _ | .eclr h _ | .etol h _ | .esave h _
  | .eload h _ => some h
  | _ => none

/-- The envelope register that an operation writes. -/
def evDest : Instr → Option Nat
  | .eline _ f | .emax _ f | .esum _ f | .einfc _ f | .econj _ f | .eclr _ f | .eload _ f => some f.edst.toNat
  | _ => none

/-- The envelope registers that an operation names. -/
def evNames : Instr → List Nat
  | .eline _ f | .eclr _ f | .eload _ f => [f.edst.toNat]
  | .emax _ f | .esum _ f | .einfc _ f => [f.edst.toNat, f.esrcA.toNat, f.esrcB.toNat]
  | .econj _ f => [f.edst.toNat, f.esrcA.toNat]
  | .eeval _ f | .ebrk _ f | .esave _ f => [f.esrcA.toNat]
  | _ => []

/-- R81: the iteration stalls while a write to an envelope register that the operation names is pending. -/
def State.evPending (s : State) (d : Nat) (i : Instr) : State :=
  if (s.coreD d).evq.any fun e => e.ck == s.ck0 d && (evNames i).any fun n => evDest e.op == some n then s.stallFor 0 else s

/-- R184: an operation queued with what it latched; its entry must be free (R184), and its bank locks are requested (R183). -/
def State.evQueue (s : State) (d : Nat) (e : EvOp) (banks : List (Nat × Bool)) : State :=
  let s := s.evPending d e.op
  let s := if (s.coreD d).evq.length ≥ 4 then s.stallFor 3 else s
  let (u, s) := s.fresh
  let locks := banks.map fun b => (⟨u, b.1, b.2⟩ : LockReq)
  s.updCoreD d fun k => { k with evq := k.evq ++ [{ e with uid := u, locks := locks }], locks := k.locks ++ locks }

/-- An operation as it issues, before what it latches. -/
def State.evOp (s : State) (d : Nat) (i : Instr) : EvOp :=
  { uid := 0, ck := s.ck0 d, op := i, tol := (s.ctxD d).ws.etolr, va := 0#512, vb := 0#512, vc := 0#512, pred := 0#16, sop := 0#64,
    addr := 0#64, pre := false, bundle := s.cur.bundle, issued := s.clock }

/-- An operation that latches nothing but TOL. -/
def State.evPlain (s : State) (h : Hdr) (i : Instr) : State := s.onDies h fun d s => s.evQueue d (s.evOp d i) []

/-- R177: ELINE on a die. -/
def State.elineDie (s : State) (h : Hdr) (f : FEV) (d : Nat) : State :=
  let (on, s) := s.lanes d f.pr
  let (a, s) := s.rdSrc d 86 .v f.vopA
  let (b, s) := s.rdSrc d 97 .v f.vopB
  let (c, s) := s.rdSrc d 108 .v f.vopC
  let p := BitVec.ofNat 16 ((List.range 16).foldl (fun m n => if on n then m + 2 ^ n else m) 0)
  s.evQueue d { s.evOp d (.eline h f) with va := a, vb := b, vc := c, pred := p } []

def opEline (h : Hdr) (f : FEV) (s : State) : State := s.onDies h fun d s => s.elineDie h f d
/-- R177: ELINE. -/
def execEline (h : Hdr) (f : FEV) (s : State) : Host.Outcome State Fault Refusal := s.attempt (opEline h f)

def opEmax (h : Hdr) (f : FEV) (s : State) : State := s.evPlain h (.emax h f)
/-- R179: EMAX. -/
def execEmax (h : Hdr) (f : FEV) (s : State) : Host.Outcome State Fault Refusal := s.attempt (opEmax h f)

def opEsum (h : Hdr) (f : FEV) (s : State) : State := s.evPlain h (.esum h f)
/-- R179: ESUM. -/
def execEsum (h : Hdr) (f : FEV) (s : State) : Host.Outcome State Fault Refusal := s.attempt (opEsum h f)

def opEinfc (h : Hdr) (f : FEV) (s : State) : State := s.evPlain h (.einfc h f)
/-- R181: EINFC. -/
def execEinfc (h : Hdr) (f : FEV) (s : State) : Host.Outcome State Fault Refusal := s.attempt (opEinfc h f)

def opEconj (h : Hdr) (f : FEV) (s : State) : State := s.evPlain h (.econj h f)
/-- R180: ECONJ. -/
def execEconj (h : Hdr) (f : FEV) (s : State) : Host.Outcome State Fault Refusal := s.attempt (opEconj h f)

/-- R178: EEVAL on a die. -/
def State.eevalDie (s : State) (h : Hdr) (f : FEV) (d : Nat) : State :=
  let s := ((s.evPending d (.eeval h f)).emptyHold d 86).emptyHold d 97
  let (on, s) := s.lanes d f.pr
  let (x, s) := s.rdSrc d 108 .v f.vopC
  let e := SMap.get Env.launch (s.ctxD d).ws.e f.esrcA.toNat
  let r := fun n => envVal e (BitVec.ofNat 32 (lane x n))
  let s := s.result d h 12 .v f.vopA.n (vecOfLanes fun n => (r n).1.toNat) (laneMask on) 0 0 false
  s.result d h 12 .v f.vopB.n (vecOfLanes fun n => (r n).2.toNat) (laneMask on) 0 0 true

def opEeval (h : Hdr) (f : FEV) (s : State) : State := s.onDies h fun d s => s.eevalDie h f d
/-- R178: EEVAL. -/
def execEeval (h : Hdr) (f : FEV) (s : State) : Host.Outcome State Fault Refusal := s.attempt (opEeval h f)

/-- R178: the list D of EBRK. -/
def Env.ends (e : Env) : List Word :=
  match e.status with
  | .normal => e.lo :: e.brk ++ [e.hi]
  | .negInf => [e.lo, e.hi]
  | .empty => []

/-- R178: EBRK on a die. -/
def State.ebrkDie (s : State) (h : Hdr) (f : FEV) (d : Nat) : State :=
  let s := ((s.evPending d (.ebrk h f)).emptyHold d 86).emptyHold d 97
  let (k, s) := s.rdS d f.sreg
  let e := SMap.get Env.launch (s.ctxD d).ws.e f.esrcA.toNat
  let t := fun n => e.status.code * 2 ^ 30 + e.n * 2 ^ 16 + (if k + n < e.n then (e.line (k + n)).tag.toNat else 0xFFFF)
  let s := s.result d h 4 .v f.vopA.n (vecOfLanes fun n => (e.ends.getD (k + n) evNan).toNat) (laneMask fun _ => true) 0 0 false
  s.result d h 4 .v f.vopB.n (vecOfLanes t) (laneMask fun _ => true) 0 0 true

def opEbrk (h : Hdr) (f : FEV) (s : State) : State := s.onDies h fun d s => s.ebrkDie h f d
/-- R178: EBRK. -/
def execEbrk (h : Hdr) (f : FEV) (s : State) : Host.Outcome State Fault Refusal := s.attempt (opEbrk h f)

/-- R176: ECLR on a die. -/
def State.eclrDie (s : State) (h : Hdr) (f : FEV) (d : Nat) : State :=
  let (v, s) := s.rdS d f.sreg
  s.evQueue d { s.evOp d (.eclr h f) with sop := BitVec.ofNat 64 v } []

def opEclr (h : Hdr) (f : FEV) (s : State) : State := s.onDies h fun d s => s.eclrDie h f d
/-- R176: ECLR. -/
def execEclr (h : Hdr) (f : FEV) (s : State) : Host.Outcome State Fault Refusal := s.attempt (opEclr h f)

/-- R176, R172: a value written to ETOLR. -/
def WorkSet.setTol (w : WorkSet) (x : Word) : WorkSet :=
  if (fp x).isNan then { w with etolr := 0#32, eflg := w.eflg ||| 1#32 }
  else if x.getLsbD 31 then { w with etolr := 0#32 }
  else { w with etolr := x }

/-- R176: ETOL on a die. -/
def State.etolDie (s : State) (h : Hdr) (f : FEV) (d : Nat) : State :=
  let (v, s) := s.rdS d f.sreg
  (s.updD d fun c => { c with ws := c.ws.setTol (BitVec.ofNat 32 v) }).signalNow d h

def opEtol (h : Hdr) (f : FEV) (s : State) : State := s.onDies h fun d s => s.etolDie h f d
/-- R176: ETOL. -/
def execEtol (h : Hdr) (f : FEV) (s : State) : Host.Outcome State Fault Refusal := s.attempt (opEtol h f)

/-- R183: ESAVE and ELOAD on a die: the alignment, and the locks of the largest image. Before an ESAVE the stores that its context withholds are performed:
they come before it. The alignment fault is raised at issue, as a synchronous fault of its slot (DESIGN CHOICE, log 111: the rule gives it no time). -/
def State.eimgDie (s : State) (f : FEV) (i : Instr) (excl : Bool) (d : Nat) : State :=
  let (a, s) := s.address d 127 f.sreg f.offset.toInt 0
  if a % 16 != 0 then s.fault d { code := 6, cause := 4, r0 := BitVec.ofNat 64 a }
  else (if excl then s.flushBlot d else s).evQueue d { s.evOp d i with addr := BitVec.ofNat 64 a } ((banksOf s.cur.col a 4128).map fun b => (b, excl))

def opEsave (h : Hdr) (f : FEV) (s : State) : State := s.onDies h fun d s => (s.eimgDie f (.esave h f) true d).splices
/-- R182, R183: ESAVE. -/
def execEsave (h : Hdr) (f : FEV) (s : State) : Host.Outcome State Fault Refusal := s.attempt (opEsave h f)

def opEload (h : Hdr) (f : FEV) (s : State) : State := s.onDies h fun d s => s.eimgDie f (.eload h f) false d
/-- R183: ELOAD. -/
def execEload (h : Hdr) (f : FEV) (s : State) : Host.Outcome State Fault Refusal := s.attempt (opEload h f)

/-! ### The unit (R184, R185) -/

/-- What an operation does from its start: its result or its image, and its clocks; or its fault. -/
structure EvRun where
  res : Option Built := none
  image : List Byte := []
  clocks : Nat := 0
  fault : Option FRec := none
  deriving DecidableEq, Repr

/-- R184: the clocks of a step on `n` lines that dropped `p`. -/
def evClocks (n p : Nat) : Nat := 8 + ceilDiv n 4 + ceilDiv p 4

/-- R177, R184: ELINE. -/
def elineRun (e : EvOp) (ed : Env) : EvRun :=
  let ls := ((List.range 16).filter e.pred.getLsbD).map fun n =>
    (⟨BitVec.ofNat 32 (lane e.va n), BitVec.ofNat 32 (lane e.vb n), BitVec.ofNat 16 (lane e.vc n)⟩ : ELine)
  let r := if ed.status == .empty then { env := envEmpty, enan := ls.any badLine } else build (ed.lines ++ ls) ed.lo ed.hi e.tol true
  { res := some r, clocks := evClocks (ed.n + ls.length) r.p }

/-- R181, R184: EINFC. -/
def einfcRun (tol : Word) (f g : Env) : EvRun :=
  let cf := envConj f tol false
  let cg := envConj g tol false
  let sm := envSum cf.env cg.env tol false
  let r := envConj sm.env tol true
  { res := some { r with enan := cf.enan || cg.enan || sm.enan || r.enan }
    clocks := evClocks (f.n + 2) cf.p + evClocks (g.n + 2) cg.p + evClocks (cf.env.n + cg.env.n) sm.p + evClocks (sm.env.n + 2) r.p }

/-- R322, R104: the fault of an image of `n` bytes at an address. -/
def imageFault (a n : Nat) : Option FRec :=
  match spadFault a with
  | some f => some { code := f.code, cause := f.cause, r0 := BitVec.ofNat 64 a }
  | none => if a + n > spadBase + 2 ^ 21 then some { code := 4, cause := 2, r0 := BitVec.ofNat 64 a } else none

/-- R182 to R184: ESAVE. -/
def esaveRun (a : Nat) (ea : Env) : EvRun :=
  let im := envImage ea
  match imageFault a im.length with
  | some f => { fault := some f }
  | none => { image := im, clocks := 4 + ceilDiv im.length 64 }

/-- R183: what an ELOAD makes of its header and records. -/
def eloadOf (h d : List Byte) : EvRun :=
  let n := leNat ((h.drop 2).take 2)
  let lo := BitVec.ofNat 32 (leNat ((h.drop 4).take 4))
  let hi := BitVec.ofNat 32 (leNat ((h.drop 8).take 4))
  let r := match leNat (h.take 2) with
    | 0 => build (recLines n d) lo hi 0#32 true
    | 1 => { env := envEmpty }
    | _ => { env := envNegInf lo hi }
  { res := some r, clocks := evClocks n 0 + ceilDiv (32 + 16 * n) 64 }

/-- R183, R126: ELOAD of context `ck`. -/
def State.eloadRun (s : State) (ck a : Nat) : EvRun :=
  match imageFault a 32 with
  | some f => { fault := some f }
  | none =>
    let bl := (s.getCd ck).blot
    let loc := spadLoc (ckDie ck) (ckCol ck) ((a - spadBase) % 2 ^ 21)
    let h := s.readCtx bl loc 32
    let n := leNat ((h.drop 2).take 2)
    if s.readPoisoned bl loc 32 then { fault := some { code := 10 } }
    else if headerBad h then { fault := some { code := 6, cause := 5, r0 := BitVec.ofNat 64 a } }
    else match imageFault a (32 + 16 * n) with
      | some f => { fault := some f }
      | none =>
        if s.readPoisoned bl (loc + 32) (16 * n) then { fault := some { code := 10 } }
        else eloadOf h (s.readCtx bl (loc + 32) (16 * n))

/-- R184: what an operation does, from the envelope registers at its start. -/
def State.evRun (s : State) (e : EvOp) : EvRun :=
  let reg := fun (n : BitVec 2) => SMap.get Env.launch (s.getCd e.ck).ws.e n.toNat
  let f := evFields e.op
  match e.op with
  | .eline _ _ => elineRun e (reg f.edst)
  | .emax _ _ =>
    let r := envMax (reg f.esrcA) (reg f.esrcB) e.tol true
    { res := some r, clocks := evClocks ((reg f.esrcA).n + (reg f.esrcB).n) r.p }
  | .esum _ _ =>
    let r := envSum (reg f.esrcA) (reg f.esrcB) e.tol true
    { res := some r, clocks := evClocks ((reg f.esrcA).n + (reg f.esrcB).n) r.p }
  | .einfc _ _ => einfcRun e.tol (reg f.esrcA) (reg f.esrcB)
  | .econj _ _ =>
    let r := envConj (reg f.esrcA) e.tol true
    { res := some r, clocks := evClocks ((reg f.esrcA).n + 2) r.p }
  | .eclr _ _ =>
    let r := if f.sreg.n = 0 then { env := Env.launch } else build [] (e.sop.setWidth 32) ((e.sop >>> 32).setWidth 32) 0#32 false
    { res := some r, clocks := 4 }
  | .esave _ _ => esaveRun e.addr.toNat (reg f.esrcA)
  | .eload _ _ => s.eloadRun e.ck e.addr.toNat
  | _ => {}

/-- R174: the opcode of an EV operation. -/
def evOpcode (i : Instr) : Nat :=
  match i with
  | .eline _ _ => 1
  | .emax _ _ => 2
  | .esum _ _ => 3
  | .einfc _ _ => 4
  | .econj _ _ => 5
  | .eload _ _ => 11
  | _ => 0

/-- R174: the breakpoint overflow of a run's result. -/
def EvRun.overflow (r : EvRun) (i : Instr) : Option FRec :=
  (r.res.bind (·.excess)).map fun n => { code := 8, info := evOpcode i, r2 := BitVec.ofNat 64 n }

/-- R62: a count clamped. -/
def clampSem (n : Int) : Nat := if n < 0 then 0 else Nat.min n.toNat (2 ^ 24 - 1)

/-- R99: where a launch's counts of a column are held: the save area of the contexts that left it last, where it has left. -/
def State.sharedHolder (s : State) (launch col : Nat) : Option SavedCtx :=
  s.swaps.findSome? fun w => w.2.ctxs.find? fun sv => sv.shared && sv.col == col && sv.cc.launch == launch

/-- R99: a signal given by an operation of a launch on a core: it changes the launch's counts where they are held. -/
def State.teamSignal (s : State) (launch core sem : Nat) (inc : Int) : State :=
  if (s.sharedHolder launch (core % 32)).isNone then s.signal core sem inc
  else if sem = 0 then s
  else
    let upd := fun (sv : SavedCtx) =>
      if sv.shared && sv.col == core % 32 && sv.cc.launch == launch then
        { sv with sems := SMap.upd [] sv.sems (core / 32) fun m => SMap.set 0 m sem (clampSem ((SMap.get 0 m sem : Nat) + inc)) }
      else sv
    { s with swaps := s.swaps.map fun w => (w.1, { w.2 with ctxs := w.2.ctxs.map upd }) }

/-- R172, R185: ENAN set by an operation. -/
def State.setEnan (s : State) (e : EvOp) : State :=
  let f := fun (w : WorkSet) => { w with eflg := w.eflg ||| 1#32 }
  s.updCd e.ck fun c => { c with ws := f c.ws, dup := if e.pre then f c.dup else c.dup }

/-- An operation of the unit done with: its entry freed, its locks released. -/
def State.evDone (s : State) (core : Nat) (e : EvOp) : State :=
  s.updCore core fun k => { k with
    evq := k.evq.filter fun x => x.uid != e.uid
    locks := k.locks.filter fun r => r.uid != e.uid }

/-- R185, R234: the fault of an operation whose context stands frozen: it waits in the saved context, whose operations behind it are abandoned (R174). -/
def State.savedEvFault (s : State) (e : EvOp) (r : FRec) : State :=
  let d := ckDie e.ck
  let add := fun (sv : SavedCtx) =>
    if sv.cc.launch == e.launch && sv.col == ckCol e.ck && sv.ctx == ckCtx e.ck && !sv.spilled then
      { sv with
        cc := sv.cc.addFault s.clock d { r.fields with async := true, seq := e.uid }
        evs := sv.evs.filter fun x => x.1 != d }
    else sv
  { s with swaps := s.swaps.map fun w => (w.1, { w.2 with ctxs := w.2.ctxs.map add }) }

/-- R174: a context's queued operations abandoned. -/
def State.evAbandon (s : State) (core ck : Nat) : State :=
  s.updCore core fun k => { k with
    evq := k.evq.filter fun x => x.ck != ck || x.due.isSome
    locks := k.locks.filter fun r => !k.evq.any fun x => x.ck == ck && x.due.isNone && x.uid == r.uid }

/-- R184, R185: the operation that the unit starts next: the oldest of a context that takes no trap and is not being restored
(R233), when none is running. -/
def State.evNext (s : State) (core : Nat) : Option EvOp :=
  let k := s.getCore core
  if k.evq.any fun e => e.due.isSome then none
  else match k.evq.find? fun e => (s.getCc (ckCc e.ck)).trap.isEmpty && (s.getCc (ckCc e.ck)).st != .loading with
    | some e => if lockGranted e.uid [] k.locks then some e else none
    | none => none

/-- R184: an operation started. A breakpoint overflow (R174) is raised when it completes. -/
def State.evStart (s : State) (core : Nat) (e : EvOp) : State :=
  let r := s.evRun e
  let en := (r.res.map (·.enan)).getD false
  match r.fault with
  | some f => (s.evDone core e).asyncFault e.ck { f with r1 := e.bundle } e.uid
  | none =>
    let bad := r.overflow e.op
    s.updCore core fun k => { k with evq := k.evq.map fun x =>
      if x.uid == e.uid then
        { x with due := some (s.clock + r.clocks), res := if bad.isSome then none else r.res.map (·.env), enan := en, image := r.image, bad := bad }
      else x }

/-- EV_OPERATION_START (R184). -/
def execEvOperationStart (core : Nat) (s : State) : Host.Outcome State Fault Refusal :=
  .next (match s.evNext core with
    | some e => s.evStart core e
    | none => s)

/-- R184: the registers of an operation's context at its completion: its destination, in both sets where it was running at the splice (R219), and ENAN; or
the fault of a breakpoint overflow, which abandons the context's operations behind it (R174), also those that a freeze has recorded. -/
def State.evWrites (s : State) (core : Nat) (e : EvOp) : State :=
  let s := match e.res, evDest e.op with
    | some r, some n =>
      let w := fun (w : WorkSet) => { w with e := SMap.set Env.launch w.e n r }
      s.updCd e.ck fun c => { c with ws := w c.ws, dup := if e.pre then w c.dup else c.dup }
    | _, _ => s
  let s := if e.enan then s.setEnan e else s
  match e.bad with
  | some f =>
    if e.launch = 0 then ((s.evAbandon core e.ck).evDone core e).asyncFault e.ck { f with r1 := e.bundle } e.uid
    else (s.evDone core e).savedEvFault e { f with r1 := e.bundle }
  | none => s

/-- The save area that holds the banks of a launch on a core: its image changed. -/
def State.imageSaved (s : State) (launch core off : Nat) (data : List Byte) : State :=
  let put := fun (sv : SavedCtx) =>
    if sv.shared && sv.col == core % 32 && sv.cc.launch == launch then
      { sv with spad := SMap.upd [] sv.spad (core / 32) fun m => (data.zipIdx).foldl (fun m x => SMap.set unlisted m (off + x.2) x.1) m }
    else sv
  if launch = 0 then s else { s with swaps := s.swaps.map fun w => (w.1, { w.2 with ctxs := w.2.ctxs.map put }) }

/-- R184: an operation completed: its registers, its image, its signal. -/
def State.evFinish (s : State) (core : Nat) (e : EvOp) : State :=
  let s := s.evWrites core e
  let off := (e.addr.toNat - spadBase) % 2 ^ 21
  let s := if e.image.isEmpty then s
    else (s.storeOver (spadLoc (core / 32) (core % 32) off) (e.image.map fun b => (b, false)) e.passed).imageSaved e.launch core off e.image
  let s := match evHdr e.op, e.bad with
    | some h, none => s.teamSignal e.launch core h.sigSem.toNat h.sigInc.toInt
    | _, _ => s
  s.evDone core e

/-- EV_OPERATION_COMPLETE (R184). -/
def execEvOperationComplete (core : Nat) (s : State) : Host.Outcome State Fault Refusal :=
  .next (match (s.getCore core).evq.find? fun e => e.due == some s.clock with
    | some e => s.evFinish core e
    | none => s)

end Sys2Proof.Machine
end

