-- ==== Sys2Proof/Machine/Vector.lean ====
section
/-! DEFINITION. Vector integer operations (R352 to R356, R368, R369): class VA/VB. -/

namespace Sys2Proof.Machine

/-- The width of a vector type's element; .b acts on 32-bit lanes. -/
def vw (t : Ty) : Nat := if t == .b then 32 else t.width
/-- R353: the elements of width `w` of a register. -/
def elems (w : Nat) (v : Vec) : List Nat := unpackFields (List.replicate (512 / w) w) v.toNat
/-- The register of these elements. -/
def ofElems (w : Nat) (l : List Nat) : Vec := BitVec.ofNat 512 (packFields (List.replicate (512 / w) w) l)
/-- R353: whether element `i` is enabled by the lanes' predicate. -/
def elemOn (w : Nat) (on : Nat → Bool) (i : Nat) : Bool := on (w * i / 32)
/-- The bits of the enabled elements. -/
def elemMask (w : Nat) (on : Nat → Bool) : Vec :=
  ofElems w ((List.range (512 / w)).map fun i => if elemOn w on i then 2 ^ w - 1 else 0)
/-- The union of the flags of the enabled elements. -/
def orFlags (w : Nat) (on : Nat → Bool) (l : List Nat) : Nat :=
  ((List.range l.length).zip l).foldl (fun a x => if elemOn w on x.1 then orFl a x.2 else a) 0

/-- R353: VecOp on one die: `n` sources read, each enabled element computed with its flags, landing `lat` clocks after issue. -/
def State.vecDie (s : State) (h : Hdr) (f : FRRR) (lat n w : Nat) (op : Nat → Nat → Nat → Nat → Nat × Nat) (d : Nat) : State :=
  let (on, s) := s.lanes d f.pr
  let (a, s) := s.rdSrc d 91 .v f.srcA
  let (b, s) := if n ≥ 2 then s.rdSrc d 102 .v f.srcB else (0#512, s)
  let (c, s) := if n ≥ 3 then s.rdSrc d 113 .v f.srcC else (0#512, s)
  let r := (List.range (512 / w)).zip ((elems w a).zip ((elems w b).zip (elems w c))) |>.map fun x => op x.1 x.2.1 x.2.2.1 x.2.2.2
  s.result d h lat .v f.dst.n (ofElems w (r.map Prod.fst)) (elemMask w on) (orFlags w on (r.map Prod.snd)) h.group.toNat true

/-- A vector operation whose elements set no flag. -/
def State.vec (s : State) (h : Hdr) (f : FRRR) (lat n : Nat) (op : Nat → Nat → Nat → Nat → Nat) : State :=
  let w := vw f.ty
  s.onDies h fun d s => s.vecDie h f lat n w (fun _ a b c => (op w a b c % 2 ^ w, 0)) d

/-- R355: a + b. -/
def opVadd (h : Hdr) (f : FRRR) (s : State) : State := s.vec h f 2 2 (fun _ a b _ => a + b)
def execVadd (h : Hdr) (f : FRRR) (s : State) : Host.Outcome State Fault Refusal := s.attempt (opVadd h f)

/-- R368: a − b. -/
def opVsub (h : Hdr) (f : FRRR) (s : State) : State := s.vec h f 2 2 (fun w a b _ => a + (2 ^ w - b))
def execVsub (h : Hdr) (f : FRRR) (s : State) : Host.Outcome State Fault Refusal := s.attempt (opVsub h f)

/-- R368: the low bits of a × b. -/
def opVmul (h : Hdr) (f : FRRR) (s : State) : State := s.vec h f 2 2 (fun _ a b _ => a * b)
def execVmul (h : Hdr) (f : FRRR) (s : State) : Host.Outcome State Fault Refusal := s.attempt (opVmul h f)

/-- R368: the high half of the product. -/
def opVmulh (h : Hdr) (f : FRRR) (s : State) : State := s.vec h f 2 2 (fun w a b _ => mulhW f.ty.signed w a b)
def execVmulh (h : Hdr) (f : FRRR) (s : State) : Host.Outcome State Fault Refusal := s.attempt (opVmulh h f)

/-- R368: a × b + c. -/
def opVmad (h : Hdr) (f : FRRR) (s : State) : State := s.vec h f 2 3 (fun _ a b c => a * b + c)
def execVmad (h : Hdr) (f : FRRR) (s : State) : Host.Outcome State Fault Refusal := s.attempt (opVmad h f)

/-- R355: a AND b. -/
def opVand (h : Hdr) (f : FRRR) (s : State) : State := s.vec h f 2 2 (fun _ a b _ => a &&& b)
def execVand (h : Hdr) (f : FRRR) (s : State) : Host.Outcome State Fault Refusal := s.attempt (opVand h f)

/-- R368: a OR b. -/
def opVor (h : Hdr) (f : FRRR) (s : State) : State := s.vec h f 2 2 (fun _ a b _ => a ||| b)
def execVor (h : Hdr) (f : FRRR) (s : State) : Host.Outcome State Fault Refusal := s.attempt (opVor h f)

/-- R368: a XOR b. -/
def opVxor (h : Hdr) (f : FRRR) (s : State) : State := s.vec h f 2 2 (fun _ a b _ => a ^^^ b)
def execVxor (h : Hdr) (f : FRRR) (s : State) : Host.Outcome State Fault Refusal := s.attempt (opVxor h f)

/-- R368, R40. -/
def opVshl (h : Hdr) (f : FRRR) (s : State) : State := s.vec h f 2 2 (fun w a b _ => shlW w a (b % 256))
def execVshl (h : Hdr) (f : FRRR) (s : State) : Host.Outcome State Fault Refusal := s.attempt (opVshl h f)

/-- R368, R40. -/
def opVshr (h : Hdr) (f : FRRR) (s : State) : State := s.vec h f 2 2 (fun w a b _ => shrW w a (b % 256))
def execVshr (h : Hdr) (f : FRRR) (s : State) : Host.Outcome State Fault Refusal := s.attempt (opVshr h f)

/-- R368, R40. -/
def opVsra (h : Hdr) (f : FRRR) (s : State) : State := s.vec h f 2 2 (fun w a b _ => sraW w a (b % 256))
def execVsra (h : Hdr) (f : FRRR) (s : State) : Host.Outcome State Fault Refusal := s.attempt (opVsra h f)

/-- R368: the smaller. -/
def opVmin (h : Hdr) (f : FRRR) (s : State) : State := s.vec h f 2 2 (fun w a b _ => minW f.ty.signed w a b)
def execVmin (h : Hdr) (f : FRRR) (s : State) : Host.Outcome State Fault Refusal := s.attempt (opVmin h f)

/-- R368: the larger. -/
def opVmax (h : Hdr) (f : FRRR) (s : State) : State := s.vec h f 2 2 (fun w a b _ => maxW f.ty.signed w a b)
def execVmax (h : Hdr) (f : FRRR) (s : State) : Host.Outcome State Fault Refusal := s.attempt (opVmax h f)

/-- R355: |a|, the most negative value itself. -/
def opVabs (h : Hdr) (f : FRRR) (s : State) : State := s.vec h f 2 1 (fun w a _ _ => (asSigned w a).natAbs)
def execVabs (h : Hdr) (f : FRRR) (s : State) : Host.Outcome State Fault Refusal := s.attempt (opVabs h f)

/-- R368: −a. -/
def opVneg (h : Hdr) (f : FRRR) (s : State) : State := s.vec h f 2 1 (fun w a _ _ => 2 ^ w - a)
def execVneg (h : Hdr) (f : FRRR) (s : State) : Host.Outcome State Fault Refusal := s.attempt (opVneg h f)

/-- R355: leading zeros. -/
def opVclz (h : Hdr) (f : FRRR) (s : State) : State := s.vec h f 2 1 (fun w a _ _ => clzW w a)
def execVclz (h : Hdr) (f : FRRR) (s : State) : Host.Outcome State Fault Refusal := s.attempt (opVclz h f)

/-- R368: a. -/
def opVmov (h : Hdr) (f : FRRR) (s : State) : State := s.vec h f 2 1 (fun _ a _ _ => a)
def execVmov (h : Hdr) (f : FRRR) (s : State) : Host.Outcome State Fault Refusal := s.attempt (opVmov h f)

/-- R355: VCMP on a die: the predicate bits of each enabled element's lanes. -/
def State.vcmpDie (s : State) (h : Hdr) (f : FRRR) (d : Nat) : State :=
  let w := f.ty.width
  let (on, s) := s.lanes d f.pr
  let (a, s) := s.rdSrc d 91 .v f.srcA
  let (b, s) := s.rdSrc d 102 .v f.srcB
  let r := (elems w a).zip (elems w b) |>.map fun x => cmpW f.ty.signed w f.sub.toNat x.1 x.2
  let bit := fun n => bit01 (r.getD (32 * n / w) false)
  let m := fun n => bit01 (elemOn w on (32 * n / w))
  s.result d h 2 .p f.dst.n (BitVec.ofNat 512 (packFields (List.replicate 16 1) ((List.range 16).map bit)))
    (BitVec.ofNat 512 (packFields (List.replicate 16 1) ((List.range 16).map m))) 0 h.group.toNat true

/-- R355: VCMP. -/
def opVcmp (h : Hdr) (f : FRRR) (s : State) : State := s.onDies h fun d s => s.vcmpDie h f d
def execVcmp (h : Hdr) (f : FRRR) (s : State) : Host.Outcome State Fault Refusal := s.attempt (opVcmp h f)

/-- R368: VSEL on a die. -/
def State.vselDie (s : State) (h : Hdr) (f : FRRR) (d : Nat) : State :=
  let w := vw f.ty
  let (on, s) := s.lanes d f.pr
  let (a, s) := s.rdSrc d 91 .v f.srcA
  let (b, s) := s.rdSrc d 102 .v f.srcB
  let (c, s) := s.rdSrc d 113 .p f.srcC
  let r := (List.range (512 / w)).zip ((elems w a).zip (elems w b)) |>.map fun x =>
    if c.getLsbD (w * x.1 / 32) then x.2.1 else x.2.2
  s.result d h 2 .v f.dst.n (ofElems w r) (elemMask w on) 0 h.group.toNat true

/-- R368: VSEL. -/
def opVsel (h : Hdr) (f : FRRR) (s : State) : State := s.onDies h fun d s => s.vselDie h f d
def execVsel (h : Hdr) (f : FRRR) (s : State) : Host.Outcome State Fault Refusal := s.attempt (opVsel h f)

/-- R368: VMOVI on a die. -/
def State.vmoviDie (s : State) (h : Hdr) (f : FRIMM) (d : Nat) : State :=
  let w := vw f.ty
  let (on, s) := s.lanes d f.pr
  s.result d h 2 .v f.dst.n (ofElems w (List.replicate (512 / w) f.imm.toNat)) (elemMask w on) 0 h.group.toNat true

/-- R368: VMOVI. -/
def opVmovi (h : Hdr) (f : FRIMM) (s : State) : State := s.onDies h fun d s => s.vmoviDie h f d
def execVmovi (h : Hdr) (f : FRIMM) (s : State) : Host.Outcome State Fault Refusal := s.attempt (opVmovi h f)

/-- R369: VPERM on a die. -/
def State.vpermDie (s : State) (h : Hdr) (f : FRRR) (d : Nat) : State :=
  let (on, s) := s.lanes d f.pr
  let (a, s) := s.rdSrc d 91 .v f.srcA
  let (b, s) := if f.sub == 0 then s.rdSrc d 102 .v f.srcB else (0#512, s)
  s.result d h 2 .v f.dst.n
    (vecOfLanes fun n => lane a (if f.sub == 0 then lane b n % 16 else (n + f.sub.toNat % 16) % 16)) (laneMask on) 0 h.group.toNat true

/-- R369: VPERM. -/
def opVperm (h : Hdr) (f : FRRR) (s : State) : State := s.onDies h fun d s => s.vpermDie h f d
def execVperm (h : Hdr) (f : FRRR) (s : State) : Host.Outcome State Fault Refusal := s.attempt (opVperm h f)

/-- R356: VcasLane. -/
def vcasLane (signed : Bool) (sub : Nat) (a : Vec) (n : Nat) : Nat :=
  let p := n ^^^ 2 ^ (sub % 4)
  let lo := Nat.min n p
  let b := bits sub 3 3
  let dir := (bits sub 2 1 == 1) != (b != 0 && bits lo (b - 1) 1 == 1)
  if (n == lo) != dir then minW signed 32 (lane a n) (lane a p) else maxW signed 32 (lane a n) (lane a p)

/-- R356: VCAS on a die. -/
def State.vcasDie (s : State) (h : Hdr) (f : FRRR) (d : Nat) : State :=
  let (on, s) := s.lanes d f.pr
  let (a, s) := s.rdSrc d 91 .v f.srcA
  s.result d h 2 .v f.dst.n (vecOfLanes (vcasLane f.ty.signed f.sub.toNat a)) (laneMask on) 0 h.group.toNat true

/-- R356: VCAS. -/
def opVcas (h : Hdr) (f : FRRR) (s : State) : State := s.onDies h fun d s => s.vcasDie h f d
def execVcas (h : Hdr) (f : FRRR) (s : State) : Host.Outcome State Fault Refusal := s.attempt (opVcas h f)

end Sys2Proof.Machine
end

