-- ==== Sys2Proof/Machine/VecFloat.lean ====
section
/-! DEFINITION. Vector floating-point operations, conversions, quantisation and reductions (R357 to R361, R367, R370, R371, R373). -/

namespace Sys2Proof.Machine

/-- A floating-point operation of `n` sources, rounded in RM. -/
def State.vecF (s : State) (h : Hdr) (f : FRRR) (lat n : Nat) (op : FFmt → RM → Nat → Nat → Nat → Nat × Nat) : State :=
  s.onDies h fun d s => s.vecDie h f lat n f.ty.width (fun _ a b c => op f.ty.ffmt (RM.ofCode f.rm.toNat) a b c) d

/-- R359: VFABS of one element. -/
def fAbs (t : FFmt) (a : Nat) : Nat × Nat :=
  if (t.dec a).isNan then (t.nan, if (t.dec a).isSnan then flNV else 0) else (a % 2 ^ (t.eb + t.fb), 0)

/-- R359: a + b. -/
def opVfadd (h : Hdr) (f : FRRR) (s : State) : State := s.vecF h f 4 2 (fun t r a b _ => fAdd t r a b)
def execVfadd (h : Hdr) (f : FRRR) (s : State) : Host.Outcome State Fault Refusal := s.attempt (opVfadd h f)

/-- R359: a − b. -/
def opVfsub (h : Hdr) (f : FRRR) (s : State) : State := s.vecF h f 4 2 (fun t r a b _ => fSub t r a b)
def execVfsub (h : Hdr) (f : FRRR) (s : State) : Host.Outcome State Fault Refusal := s.attempt (opVfsub h f)

/-- R359: a × b. -/
def opVfmul (h : Hdr) (f : FRRR) (s : State) : State := s.vecF h f 4 2 (fun t r a b _ => fMul t r a b)
def execVfmul (h : Hdr) (f : FRRR) (s : State) : Host.Outcome State Fault Refusal := s.attempt (opVfmul h f)

/-- R359: a × b + c, one rounding. -/
def opVfma (h : Hdr) (f : FRRR) (s : State) : State := s.vecF h f 4 3 (fun t r a b c => fFma t r a b c)
def execVfma (h : Hdr) (f : FRRR) (s : State) : Host.Outcome State Fault Refusal := s.attempt (opVfma h f)

/-- R359, R37. -/
def opVfmin (h : Hdr) (f : FRRR) (s : State) : State := s.vecF h f 2 2 (fun t _ a b _ => fMinMax t false a b)
def execVfmin (h : Hdr) (f : FRRR) (s : State) : Host.Outcome State Fault Refusal := s.attempt (opVfmin h f)

/-- R359, R37. -/
def opVfmax (h : Hdr) (f : FRRR) (s : State) : State := s.vecF h f 2 2 (fun t _ a b _ => fMinMax t true a b)
def execVfmax (h : Hdr) (f : FRRR) (s : State) : Host.Outcome State Fault Refusal := s.attempt (opVfmax h f)

/-- R359: the sign cleared; a NaN gives the canonical NaN. -/
def opVfabs (h : Hdr) (f : FRRR) (s : State) : State := s.vecF h f 2 1 (fun t _ a _ _ => fAbs t a)
def execVfabs (h : Hdr) (f : FRRR) (s : State) : Host.Outcome State Fault Refusal := s.attempt (opVfabs h f)

/-- R361. -/
def opVfclass (h : Hdr) (f : FRRR) (s : State) : State := s.vecF h f 2 1 (fun t _ a _ _ => (fClass t a, 0))
def execVfclass (h : Hdr) (f : FRRR) (s : State) : Host.Outcome State Fault Refusal := s.attempt (opVfclass h f)

/-- R359, R38. -/
def opVexp2 (h : Hdr) (f : FRRR) (s : State) : State := s.vecF h f 10 1 (fun _ r a _ _ => fExp2 r a)
def execVexp2 (h : Hdr) (f : FRRR) (s : State) : Host.Outcome State Fault Refusal := s.attempt (opVexp2 h f)

/-- R367. -/
def opVlog2 (h : Hdr) (f : FRRR) (s : State) : State := s.vecF h f 10 1 (fun _ r a _ _ => fLog2 r a)
def execVlog2 (h : Hdr) (f : FRRR) (s : State) : Host.Outcome State Fault Refusal := s.attempt (opVlog2 h f)

/-- R367. -/
def opVrcp (h : Hdr) (f : FRRR) (s : State) : State := s.vecF h f 10 1 (fun _ r a _ _ => fRcp r a)
def execVrcp (h : Hdr) (f : FRRR) (s : State) : Host.Outcome State Fault Refusal := s.attempt (opVrcp h f)

/-- R367. -/
def opVrsq (h : Hdr) (f : FRRR) (s : State) : State := s.vecF h f 10 1 (fun _ r a _ _ => fRsq r a)
def execVrsq (h : Hdr) (f : FRRR) (s : State) : Host.Outcome State Fault Refusal := s.attempt (opVrsq h f)

/-- R367. -/
def opVsqrt (h : Hdr) (f : FRRR) (s : State) : State := s.vecF h f 10 1 (fun _ r a _ _ => fSqrt r a)
def execVsqrt (h : Hdr) (f : FRRR) (s : State) : Host.Outcome State Fault Refusal := s.attempt (opVsqrt h f)

/-- R360: VFCMP on a die. -/
def State.vfcmpDie (s : State) (h : Hdr) (f : FRRR) (d : Nat) : State :=
  let (on, s) := s.lanes d f.pr
  let (a, s) := s.rdSrc d 91 .v f.srcA
  let (b, s) := s.rdSrc d 102 .v f.srcB
  let r := (List.range 16).map fun n => fCmp fmtF32 f.sub.toNat (lane a n) (lane b n)
  s.result d h 2 .p f.dst.n (BitVec.ofNat 512 (packFields (List.replicate 16 1) (r.map fun x => bit01 x.1)))
    (BitVec.ofNat 512 (packFields (List.replicate 16 1) ((List.range 16).map fun n => bit01 (on n))))
    (orFlags 32 on (r.map Prod.snd)) h.group.toNat true

/-- R360: VFCMP. -/
def opVfcmp (h : Hdr) (f : FRRR) (s : State) : State := s.onDies h fun d s => s.vfcmpDie h f d
def execVfcmp (h : Hdr) (f : FRRR) (s : State) : Host.Outcome State Fault Refusal := s.attempt (opVfcmp h f)

/-- R357: VCVT on a die. -/
def State.vcvtDie (s : State) (h : Hdr) (f : FRRR) (d : Nat) : State :=
  let wd := f.ty.width
  let ws := f.ty2.width
  let w := Nat.max wd ws
  let k := w / Nat.min wd ws
  let x := f.sub.toNat % 8
  let (on, s) := s.lanes d f.pr
  let (a, s) := s.rdSrc d 91 .v f.srcA
  let ea := elems ws a
  let r := (List.range (512 / w)).map fun i =>
    convert f.ty f.ty2 (RM.ofCode f.rm.toNat) (ea.getD (if ws = w then i else k * i + x) 0)
  let place := fun (v : Nat) => if wd = w then v else v * 2 ^ (wd * x)
  let vals := (List.range (512 / w)).zip r |>.map fun y => place y.2.1
  let mask := (List.range (512 / w)).map fun i => if elemOn w on i then place (2 ^ wd - 1) else 0
  s.result d h 4 .v f.dst.n (ofElems w vals) (ofElems w mask) (orFlags w on (r.map Prod.snd)) h.group.toNat true

/-- R357: VCVT. -/
def opVcvt (h : Hdr) (f : FRRR) (s : State) : State := s.onDies h fun d s => s.vcvtDie h f d
def execVcvt (h : Hdr) (f : FRRR) (s : State) : Host.Outcome State Fault Refusal := s.attempt (opVcvt h f)

/-- R44: QSPLIT of a block type. -/
def qsplit (qctl : Word) (t : Ty) : Nat := if t == .bk4 then bits qctl.toNat 4 3 else bits qctl.toNat 0 3

/-- R371: VQUANT on a die. -/
def State.vquantDie (s : State) (h : Hdr) (f : FRRR) (d : Nat) : State :=
  let sub := f.sub.toNat
  let x := sub % 32
  let (on, s) := s.lanes d f.pr
  let (a, s) := s.rdSrc d 91 .v f.srcA
  let (b, s) := if f.ty2 == .f32 then s.rdSrc d 102 .v f.srcB else (0#512, s)
  let (c, s) := if bits sub 6 1 = 1 then s.rdSrc d 113 .v f.srcC else (0#512, s)
  let xs := if f.ty2 == .f32 then elems 32 a ++ elems 32 b else (elems 16 a).map fun v => (convert .f32 f.ty2 .rne v).1
  let sup := if bits sub 6 1 = 1 then some (bits c.toNat 0 8, bits c.toNat 8 8) else none
  let (ea, eb) := quantScales f.ty xs (qsplit (s.ctxD d).ws.qctl f.ty) sup
  if bits sub 5 1 = 1 then
    s.result d h 8 .v f.dst.n (BitVec.ofNat 512 (ea + 256 * eb) <<< (16 * x))
      ((BitVec.ofNat 512 0xFFFF <<< (16 * x)) &&& laneMask on) 0 h.group.toNat true
  else
    let es := xs.map (quantElem f.ty ea eb)
    let per := if f.ty == .bk4 then 8 else 4
    let base := x * (32 / per)
    let fl := ((List.range 32).zip es).foldl (fun m y => if on (base + y.1 / per) then
      orFl m (orFl (if y.2.2.1 then flSAT else 0) (if y.2.2.2 then flNV else 0)) else m) 0
    let data := BitVec.ofNat 512 (leNat (packElems f.ty (es.map Prod.fst)))
    s.result d h 8 .v f.dst.n (data <<< (32 * base))
      (laneMask fun n => on n && base ≤ n && n < base + 32 / per) fl h.group.toNat true

/-- R371: VQUANT. -/
def opVquant (h : Hdr) (f : FRRR) (s : State) : State := s.onDies h fun d s => s.vquantDie h f d
def execVquant (h : Hdr) (f : FRRR) (s : State) : Host.Outcome State Fault Refusal := s.attempt (opVquant h f)

/-- R358: VDEQ on a die. -/
def State.vdeqDie (s : State) (h : Hdr) (f : FRRR) (d : Nat) : State :=
  let e := f.sub.toNat % 8
  let k := bits f.sub.toNat 3 1
  let (on, s) := s.lanes d f.pr
  let (a, s) := s.rdSrc d 91 .v f.srcA
  let (b, s) := s.rdSrc d 102 .v f.srcB
  let w := f.ty2.width
  s.result d h 4 .v f.dst.n
    (vecOfLanes fun n => decodeBK f.ty2 (bits (lane a n) (w * e) w) (bits (lane b n) (16 * k) 8) (bits (lane b n) (16 * k + 8) 8))
    (laneMask on) 0 h.group.toNat true

/-- R358: VDEQ. -/
def opVdeq (h : Hdr) (f : FRRR) (s : State) : State := s.onDies h fun d s => s.vdeqDie h f d
def execVdeq (h : Hdr) (f : FRRR) (s : State) : Host.Outcome State Fault Refusal := s.attempt (opVdeq h f)

/-- R373: a list reduced: the value and its flags; `op` 0 sum, 1 min, 2 max. -/
def reduce (t : Ty) (op : Nat) (l : List Nat) : Nat × Nat :=
  match l with
  | [] => (0, 0)
  | x :: xs =>
    if t == .f32 then
      if op = 0 then sumRound fmtF32 .rne (.fin false 0 0 :: l.map fmtF32.dec) false
      else
        let r := xs.foldl (fun a b => (fMinMax fmtF32 (op == 2) a b).1) x
        (if (fmtF32.dec r).isNan then fmtF32.nan else r, if l.any fun y => (fmtF32.dec y).isSnan then flNV else 0)
    else if op = 0 then (l.foldl (· + ·) 0 % 2 ^ 32, 0)
    else (xs.foldl (fun a b => if op = 2 then maxW t.signed 32 a b else minW t.signed 32 a b) x, 0)

/-- R373: VRED on a die. -/
def State.vredDie (s : State) (h : Hdr) (f : FRRR) (d : Nat) : State :=
  let (on, s) := s.lanes d f.pr
  let (a, s) := s.rdSrc d 91 .v f.srcA
  let (r, fl) := reduce f.ty f.sub.toNat (((List.range 16).filter on).map (lane a))
  s.result d h 4 .v f.dst.n (vecOfLanes fun _ => r) (laneMask on) fl h.group.toNat true

/-- R373: VRED. -/
def opVred (h : Hdr) (f : FRRR) (s : State) : State := s.onDies h fun d s => s.vredDie h f d
def execVred (h : Hdr) (f : FRRR) (s : State) : Host.Outcome State Fault Refusal := s.attempt (opVred h f)

end Sys2Proof.Machine
end

