-- ==== Sys2Proof/Machine/Pred.lean ====
section
/-! DEFINITION. Predicate operations (R335) and cross-group operations (R375, R376). -/

namespace Sys2Proof.Machine

/-- R335: a predicate operation of `n` sources on 16 bits, limited by the lane predicate. -/
def State.pred (s : State) (h : Hdr) (f : FRRR) (n : Nat) (op : Nat → Nat → Nat) : State :=
  s.onDies h fun d s =>
    let (on, s) := s.lanes d f.pr
    let (a, s) := s.rdSrc d 91 .p f.srcA
    let (b, s) := if n ≥ 2 then s.rdSrc d 102 .p f.srcB else (0#512, s)
    s.result d h 2 .p f.dst.n (BitVec.ofNat 512 (op a.toNat b.toNat % 2 ^ 16))
      (BitVec.ofNat 512 (packFields (List.replicate 16 1) ((List.range 16).map fun n => bit01 (on n)))) 0 h.group.toNat true

/-- R335: a AND b. -/
def opPand (h : Hdr) (f : FRRR) (s : State) : State := s.pred h f 2 (fun a b => a &&& b)
def execPand (h : Hdr) (f : FRRR) (s : State) : Host.Outcome State Fault Refusal := s.attempt (opPand h f)

/-- R335: a OR b. -/
def opPor (h : Hdr) (f : FRRR) (s : State) : State := s.pred h f 2 (fun a b => a ||| b)
def execPor (h : Hdr) (f : FRRR) (s : State) : Host.Outcome State Fault Refusal := s.attempt (opPor h f)

/-- R335: a XOR b. -/
def opPxor (h : Hdr) (f : FRRR) (s : State) : State := s.pred h f 2 (fun a b => a ^^^ b)
def execPxor (h : Hdr) (f : FRRR) (s : State) : Host.Outcome State Fault Refusal := s.attempt (opPxor h f)

/-- R335: NOT a. -/
def opPnot (h : Hdr) (f : FRRR) (s : State) : State := s.pred h f 1 (fun a _ => 0xFFFF - a)
def execPnot (h : Hdr) (f : FRRR) (s : State) : Host.Outcome State Fault Refusal := s.attempt (opPnot h f)

/-- R335: a. -/
def opPmov (h : Hdr) (f : FRRR) (s : State) : State := s.pred h f 1 (fun a _ => a)
def execPmov (h : Hdr) (f : FRRR) (s : State) : Host.Outcome State Fault Refusal := s.attempt (opPmov h f)

/-- R335: the lowest 1 bit of a alone. -/
def opPfirst (h : Hdr) (f : FRRR) (s : State) : State := s.pred h f 1 (fun a _ => a &&& (2 ^ 16 - a))
def execPfirst (h : Hdr) (f : FRRR) (s : State) : Host.Outcome State Fault Refusal := s.attempt (opPfirst h f)

/-- R335: PMOV.v: bit n is 1 where lane n of Va is nonzero. -/
def opPmovV (h : Hdr) (f : FRRR) (s : State) : State :=
  s.onDies h fun d s =>
    let (on, s) := s.lanes d f.pr
    let (a, s) := s.rdSrc d 91 .v f.srcA
    s.result d h 2 .p f.dst.n
      (BitVec.ofNat 512 (packFields (List.replicate 16 1) ((List.range 16).map fun n => bit01 (lane a n != 0))))
      (BitVec.ofNat 512 (packFields (List.replicate 16 1) ((List.range 16).map fun n => bit01 (on n)))) 0 h.group.toNat true
def execPmovV (h : Hdr) (f : FRRR) (s : State) : Host.Outcome State Fault Refusal := s.attempt (opPmovV h f)

/-- R335: PCNT: every lane becomes the number of 1 bits of a. -/
def opPcnt (h : Hdr) (f : FRRR) (s : State) : State :=
  s.onDies h fun d s =>
    let (a, s) := s.rdSrc d 91 .p f.srcA
    s.result d h 2 .v f.dst.n (vecOfLanes fun _ => popW 16 a.toNat) (BitVec.allOnes 512) 0 h.group.toNat true
def execPcnt (h : Hdr) (f : FRRR) (s : State) : Host.Outcome State Fault Refusal := s.attempt (opPcnt h f)

/-- R335: PANY.any and PANY.all. -/
def opPany (h : Hdr) (f : FRRR) (s : State) : State :=
  s.onDies h fun d s =>
    let (a, s) := s.rdSrc d 91 .p f.srcA
    let v := if f.sub == 0 then a.toNat != 0 else a.toNat == 0xFFFF
    s.result d h 2 .f f.dst.n (if v then 1#512 else 0#512) 1#512 0 h.group.toNat true
def execPany (h : Hdr) (f : FRRR) (s : State) : Host.Outcome State Fault Refusal := s.attempt (opPany h f)

/-- R376: XMOV. -/
def opXmov (h : Hdr) (f : FRRR) (s : State) : State :=
  s.onDies h fun d s =>
    let (on, s) := s.lanes d f.pr
    let (a, s) := s.rdSrc d 91 .v f.srcA
    s.result d h 6 .v f.dst.n a (laneMask on) 0 0 true
def execXmov (h : Hdr) (f : FRRR) (s : State) : Host.Outcome State Fault Refusal := s.attempt (opXmov h f)

/-- R376: XBC. -/
def opXbc (h : Hdr) (f : FRRR) (s : State) : State :=
  s.onDies h fun d s =>
    let (on, s) := s.lanes d f.pr
    let (a, s) := s.rdSrc d 91 .v f.srcA
    s.result d h 6 .v f.dst.n (vecOfLanes fun _ => lane a (f.sub.toNat % 16)) (laneMask on) 0 0 true
def execXbc (h : Hdr) (f : FRRR) (s : State) : Host.Outcome State Fault Refusal := s.attempt (opXbc h f)

/-- The registers 80j + a of the eight lane groups, read. -/
def State.rdGroups (s : State) (d a : Nat) : List Nat → List Vec × State
  | [] => ([], s)
  | j :: js =>
    let (v, s) := s.rdReg d .v (80 * j + a)
    let (l, s) := s.rdGroups d a js
    (v :: l, s)

/-- R376: XRED on a die. -/
def State.xredDie (s : State) (h : Hdr) (f : FRRR) (d : Nat) : State :=
  let (on, s) := s.lanes d f.pr
  let (vs, s) := s.rdGroups d (f.srcA.n % 80) [0, 1, 2, 3, 4, 5, 6, 7]
  let s := s.updSlotD d fun x => { x with hold := SMap.set none x.hold 91 none }
  let r := (List.range 16).map fun n => reduce f.ty f.sub.toNat (vs.map fun v => lane v n)
  s.result d h 6 .v f.dst.n (ofElems 32 (r.map Prod.fst)) (laneMask on) (orFlags 32 on (r.map Prod.snd)) (f.dst.n / 80) true

/-- R376: XRED. -/
def opXred (h : Hdr) (f : FRRR) (s : State) : State := s.onDies h fun d s => s.xredDie h f d
def execXred (h : Hdr) (f : FRRR) (s : State) : Host.Outcome State Fault Refusal := s.attempt (opXred h f)

end Sys2Proof.Machine
end

