-- ==== Sys2Proof/Machine/Scalar.lean ====
section
/-! DEFINITION. Scalar integer operations (R302, R303, R331): class SC, formats RRR and RIMM. -/

namespace Sys2Proof.Machine

/-- A doubleword as 512 bits. -/
def dwVec (x : DWord) : Vec := x.setWidth 512

/-- R303: an operation of two S registers on `w`-bit values, its result extended by its type, `lat` clocks after issue. -/
def State.aluT (s : State) (h : Hdr) (f : FRRR) (lat : Nat) (r : Ty → Nat → Nat → Nat → Nat) : State :=
  s.onDies h fun d s =>
    let w := f.ty.width
    let (a, s) := s.rdS d f.srcA
    let (b, s) := s.rdS d f.srcB
    s.result d h lat .s f.dst.n (dwVec (extend f.ty w (r f.ty w (a % 2 ^ w) (b % 2 ^ w)))) (BitVec.allOnes 512) 0 0 true

/-- The same for an operation whose value does not depend on signedness. -/
def State.alu (s : State) (h : Hdr) (f : FRRR) (lat : Nat) (r : Nat → Nat → Nat → Nat) : State := s.aluT h f lat fun _ w a b => r w a b

/-- R303: an operation of one S register. -/
def State.alu1 (s : State) (h : Hdr) (f : FRRR) (lat : Nat) (r : Nat → Nat → Nat) : State :=
  s.onDies h fun d s =>
    let w := f.ty.width
    let (a, s) := s.rdS d f.srcA
    s.result d h lat .s f.dst.n (dwVec (extend f.ty w (r w (a % 2 ^ w)))) (BitVec.allOnes 512) 0 0 true

/-- R302: an operation of an S register and an immediate. -/
def State.aluImm (s : State) (h : Hdr) (f : FRIMM) (useA : Bool) (r : Nat → Nat → Nat → Nat) : State :=
  s.onDies h fun d s =>
    let w := f.ty.width
    let (a, s) := if useA then s.rdS d f.srcA else (0, s)
    s.result d h 1 .s f.dst.n (dwVec (extend f.ty w (r w (a % 2 ^ w) (f.imm.toNat % 2 ^ w)))) (BitVec.allOnes 512) 0 0 true

/-- R302: a + b. -/
def opAdd (h : Hdr) (f : FRRR) (s : State) : State := s.alu h f 1 (fun _ a b => a + b)
def execAdd (h : Hdr) (f : FRRR) (s : State) : Host.Outcome State Fault Refusal := s.attempt (opAdd h f)

/-- R331: a − b. -/
def opSub (h : Hdr) (f : FRRR) (s : State) : State := s.alu h f 1 (fun w a b => a + (2 ^ w - b))
def execSub (h : Hdr) (f : FRRR) (s : State) : Host.Outcome State Fault Refusal := s.attempt (opSub h f)

/-- R331: the low bits of a × b. -/
def opMul (h : Hdr) (f : FRRR) (s : State) : State := s.alu h f 3 (fun _ a b => a * b)
def execMul (h : Hdr) (f : FRRR) (s : State) : Host.Outcome State Fault Refusal := s.attempt (opMul h f)

/-- R331: the high half of the product. -/
def opMulh (h : Hdr) (f : FRRR) (s : State) : State := s.aluT h f 3 (fun t w a b => mulhW t.signed w a b)
def execMulh (h : Hdr) (f : FRRR) (s : State) : Host.Outcome State Fault Refusal := s.attempt (opMulh h f)

/-- R302, R41: the quotient. -/
def opDiv (h : Hdr) (f : FRRR) (s : State) : State := s.aluT h f 18 (fun t w a b => divW t.signed w a b)
def execDiv (h : Hdr) (f : FRRR) (s : State) : Host.Outcome State Fault Refusal := s.attempt (opDiv h f)

/-- R331, R41: the remainder. -/
def opRem (h : Hdr) (f : FRRR) (s : State) : State := s.aluT h f 18 (fun t w a b => remW t.signed w a b)
def execRem (h : Hdr) (f : FRRR) (s : State) : Host.Outcome State Fault Refusal := s.attempt (opRem h f)

/-- R302: a AND b. -/
def opAnd (h : Hdr) (f : FRRR) (s : State) : State := s.alu h f 1 (fun _ a b => a &&& b)
def execAnd (h : Hdr) (f : FRRR) (s : State) : Host.Outcome State Fault Refusal := s.attempt (opAnd h f)

/-- R302: a AND NOT b. -/
def opAndn (h : Hdr) (f : FRRR) (s : State) : State := s.alu h f 1 (fun w a b => a &&& (2 ^ w - 1 - b))
def execAndn (h : Hdr) (f : FRRR) (s : State) : Host.Outcome State Fault Refusal := s.attempt (opAndn h f)

/-- R331: a OR b. -/
def opOr (h : Hdr) (f : FRRR) (s : State) : State := s.alu h f 1 (fun _ a b => a ||| b)
def execOr (h : Hdr) (f : FRRR) (s : State) : Host.Outcome State Fault Refusal := s.attempt (opOr h f)

/-- R331: a XOR b. -/
def opXor (h : Hdr) (f : FRRR) (s : State) : State := s.alu h f 1 (fun _ a b => a ^^^ b)
def execXor (h : Hdr) (f : FRRR) (s : State) : Host.Outcome State Fault Refusal := s.attempt (opXor h f)

/-- R331, R40: a shifted left. -/
def opShl (h : Hdr) (f : FRRR) (s : State) : State := s.alu h f 1 (fun w a b => shlW w a (b % 256))
def execShl (h : Hdr) (f : FRRR) (s : State) : Host.Outcome State Fault Refusal := s.attempt (opShl h f)

/-- R331, R40: a shifted right. -/
def opShr (h : Hdr) (f : FRRR) (s : State) : State := s.alu h f 1 (fun w a b => shrW w a (b % 256))
def execShr (h : Hdr) (f : FRRR) (s : State) : Host.Outcome State Fault Refusal := s.attempt (opShr h f)

/-- R331, R40: a shifted right, the sign copied. -/
def opSra (h : Hdr) (f : FRRR) (s : State) : State := s.alu h f 1 (fun w a b => sraW w a (b % 256))
def execSra (h : Hdr) (f : FRRR) (s : State) : Host.Outcome State Fault Refusal := s.attempt (opSra h f)

/-- R331, R40: a rotated left. -/
def opRol (h : Hdr) (f : FRRR) (s : State) : State := s.alu h f 1 (fun _ a b => rol64 a (b % 256))
def execRol (h : Hdr) (f : FRRR) (s : State) : Host.Outcome State Fault Refusal := s.attempt (opRol h f)

/-- R331: the smaller. -/
def opMin (h : Hdr) (f : FRRR) (s : State) : State := s.aluT h f 1 (fun t w a b => minW t.signed w a b)
def execMin (h : Hdr) (f : FRRR) (s : State) : Host.Outcome State Fault Refusal := s.attempt (opMin h f)

/-- R331: the larger. -/
def opMax (h : Hdr) (f : FRRR) (s : State) : State := s.aluT h f 1 (fun t w a b => maxW t.signed w a b)
def execMax (h : Hdr) (f : FRRR) (s : State) : Host.Outcome State Fault Refusal := s.attempt (opMax h f)

/-- R302: leading zeros. -/
def opClz (h : Hdr) (f : FRRR) (s : State) : State := s.alu1 h f 1 (fun w a => clzW w a)
def execClz (h : Hdr) (f : FRRR) (s : State) : Host.Outcome State Fault Refusal := s.attempt (opClz h f)

/-- R331: the number of 1 bits. -/
def opPopc (h : Hdr) (f : FRRR) (s : State) : State := s.alu1 h f 1 (fun w a => popW w a)
def execPopc (h : Hdr) (f : FRRR) (s : State) : Host.Outcome State Fault Refusal := s.attempt (opPopc h f)

/-- R302: the flag of a comparison. -/
def opCmp (h : Hdr) (f : FRRR) (s : State) : State :=
  s.onDies h fun d s =>
    let w := f.ty.width
    let (a, s) := s.rdS d f.srcA
    let (b, s) := s.rdS d f.srcB
    s.result d h 1 .f f.dst.n (if cmpW f.ty.signed w f.sub.toNat a b then 1#512 else 0#512) 1#512 0 0 true
def execCmp (h : Hdr) (f : FRRR) (s : State) : Host.Outcome State Fault Refusal := s.attempt (opCmp h f)

/-- R331: SEL: a where F[c] is 1 on this die, else b. -/
def opSel (h : Hdr) (f : FRRR) (s : State) : State :=
  s.onDies h fun d s =>
    let (a, s) := s.rdS d f.srcA
    let (b, s) := s.rdS d f.srcB
    let (c, s) := s.rdReg d .f f.srcC.n
    s.result d h 1 .s f.dst.n (BitVec.ofNat 512 (if c.getLsbD 0 then a else b)) (BitVec.allOnes 512) 0 0 true
def execSel (h : Hdr) (f : FRRR) (s : State) : Host.Outcome State Fault Refusal := s.attempt (opSel h f)

/-- R331: MOV. -/
def opMov (h : Hdr) (f : FRRR) (s : State) : State := s.alu1 h f 1 (fun _ a => a)
def execMov (h : Hdr) (f : FRRR) (s : State) : Host.Outcome State Fault Refusal := s.attempt (opMov h f)

/-- R302: a + IMM. -/
def opAddi (h : Hdr) (f : FRIMM) (s : State) : State := s.aluImm h f true (fun _ a i => a + i)
def execAddi (h : Hdr) (f : FRIMM) (s : State) : Host.Outcome State Fault Refusal := s.attempt (opAddi h f)

/-- R331: IMM. -/
def opMovi (h : Hdr) (f : FRIMM) (s : State) : State := s.aluImm h f false (fun _ _ i => i)
def execMovi (h : Hdr) (f : FRIMM) (s : State) : Host.Outcome State Fault Refusal := s.attempt (opMovi h f)

/-- R331: (IMM[31:0] << 32) OR a[31:0]. -/
def opMovhi (h : Hdr) (f : FRIMM) (s : State) : State := s.aluImm h f true (fun _ a i => i % 2 ^ 32 * 2 ^ 32 + a % 2 ^ 32)
def execMovhi (h : Hdr) (f : FRIMM) (s : State) : Host.Outcome State Fault Refusal := s.attempt (opMovhi h f)

end Sys2Proof.Machine
end

