-- ==== Sys2Proof/Machine/Issue.lean ====
section
/-! DEFINITION. What each operation does at its issue, by constructor. -/

namespace Sys2Proof.Machine

/-- R53: an operation issued or re-issued at the cursor. What is no operation of a slot does nothing there. -/
def issueOp (i : Instr) (s : State) : State :=
  match i with
  | .add h f => opAdd h f s
  | .sub h f => opSub h f s
  | .mul h f => opMul h f s
  | .mulh h f => opMulh h f s
  | .div h f => opDiv h f s
  | .rem h f => opRem h f s
  | .and h f => opAnd h f s
  | .andn h f => opAndn h f s
  | .or h f => opOr h f s
  | .xor h f => opXor h f s
  | .shl h f => opShl h f s
  | .shr h f => opShr h f s
  | .sra h f => opSra h f s
  | .rol h f => opRol h f s
  | .clz h f => opClz h f s
  | .popc h f => opPopc h f s
  | .min h f => opMin h f s
  | .max h f => opMax h f s
  | .cmp h f => opCmp h f s
  | .sel h f => opSel h f s
  | .mov h f => opMov h f s
  | .addi h f => opAddi h f s
  | .movi h f => opMovi h f s
  | .movhi h f => opMovhi h f s
  | .csrr h f => opCsrr h f s
  | .csrw h f => opCsrw h f s
  | .ld h f => opLd h f s
  | .st h f => opSt h f s
  | .amo h f => opAmo h f s
  | .acas h f => opAcas h f s
  | .bra h f => opBra h f s
  | .brc h f => opBrc h f s
  | .call h f => opCall h f s
  | .loop h f => opLoop h f s
  | .trap h f => opTrap h f s
  | .reel h f => opReel h f s
  | .ret h => opRet h s
  | .tret h => opTret h s
  | .halt h => opHalt h s
  | .mlatch h f => opMlatch h f s
  | .mmul h f => opMmul h f s
  | .mtile h f => opMtile h f s
  | .mzero h f => opMzero h f s
  | .mret h f => opMret h f s
  | .cpy h f => opCpy h f s
  | .cpyg h f => opCpyg h f s
  | .cpchk h f => opCpchk h f s
  | .spxgo h f => opSpxgo h f s
  | .shape h f => opShape h f s
  | .spxcfg h f => opSpxcfg h f s
  | .sbind h f => opSbind h f s
  | .cpdrain h f => opCpdrain h f s
  | .seize h f => opSeize h f s
  | .seizeHold h f => opSeizeHold h f s
  | .sxfer h f => opSxfer h f s
  | .clear h f => opClear h f s
  | .coll h f => opColl h f s
  | .bdrv h f => opBdrv h f s
  | .blat h f => opBlat h f s
  | .eline h f => opEline h f s
  | .emax h f => opEmax h f s
  | .esum h f => opEsum h f s
  | .einfc h f => opEinfc h f s
  | .econj h f => opEconj h f s
  | .eeval h f => opEeval h f s
  | .ebrk h f => opEbrk h f s
  | .eclr h f => opEclr h f s
  | .etol h f => opEtol h f s
  | .esave h f => opEsave h f s
  | .eload h f => opEload h f s
  | .xmov h f => opXmov h f s
  | .xbc h f => opXbc h f s
  | .xred h f => opXred h f s
  | .sig h f => opSig h f s
  | .wsem h f => opWsem h f s
  | .bar h f => opBar h f s
  | .fence h f => opFence h f s
  | .etrig h f => opEtrig h f s
  | .grab h f => opGrab h f s
  | .tlbi h f => opTlbi h f s
  | .cwld h f => opCwld h f s
  | .tlook h f => opTlook h f s
  | .tset h f => opTset h f s
  | .tdrop h f => opTdrop h f s
  | .tdropAll h f => opTdropAll h f s
  | .vld h f => opVld h f s
  | .vst h f => opVst h f s
  | .vlds h f => opVlds h f s
  | .vgath h f => opVgath h f s
  | .vscat h f => opVscat h f s
  | .vrdq h f => opVrdq h f s
  | .vadd h f => opVadd h f s
  | .vsub h f => opVsub h f s
  | .vmul h f => opVmul h f s
  | .vmulh h f => opVmulh h f s
  | .vmad h f => opVmad h f s
  | .vand h f => opVand h f s
  | .vor h f => opVor h f s
  | .vxor h f => opVxor h f s
  | .vshl h f => opVshl h f s
  | .vshr h f => opVshr h f s
  | .vsra h f => opVsra h f s
  | .vmin h f => opVmin h f s
  | .vmax h f => opVmax h f s
  | .vabs h f => opVabs h f s
  | .vneg h f => opVneg h f s
  | .vclz h f => opVclz h f s
  | .vcmp h f => opVcmp h f s
  | .vsel h f => opVsel h f s
  | .vmov h f => opVmov h f s
  | .vmovi h f => opVmovi h f s
  | .vperm h f => opVperm h f s
  | .vcas h f => opVcas h f s
  | .vred h f => opVred h f s
  | .vfadd h f => opVfadd h f s
  | .vfsub h f => opVfsub h f s
  | .vfmul h f => opVfmul h f s
  | .vfma h f => opVfma h f s
  | .vfmin h f => opVfmin h f s
  | .vfmax h f => opVfmax h f s
  | .vfcmp h f => opVfcmp h f s
  | .vfabs h f => opVfabs h f s
  | .vfclass h f => opVfclass h f s
  | .vexp2 h f => opVexp2 h f s
  | .vlog2 h f => opVlog2 h f s
  | .vrcp h f => opVrcp h f s
  | .vrsq h f => opVrsq h f s
  | .vsqrt h f => opVsqrt h f s
  | .vcvt h f => opVcvt h f s
  | .vquant h f => opVquant h f s
  | .vdeq h f => opVdeq h f s
  | .pand h f => opPand h f s
  | .por h f => opPor h f s
  | .pxor h f => opPxor h f s
  | .pnot h f => opPnot h f s
  | .pmov h f => opPmov h f s
  | .pmovV h f => opPmovV h f s
  | .pcnt h f => opPcnt h f s
  | .pfirst h f => opPfirst h f s
  | .pany h f => opPany h f s
  | .nop h _ => opNop h s
  | .splice => opSplice s
  | .yield run => opYield run s
  | .bundleIterationIssue _ | .exposedResultLands _ | .scoreboardWriteLands _ | .blockingConditionClears _
  | .contextRetireComplete _ | .barrierRelease _ | .teamSwapOut _ _ | .teamReturn _ | .firmwareContextIssue _ _
  | .grabRequestServed | .tagTableChangeLands _ | .pageWalkComplete _ | .tlbiComplete | .backgroundScrub _ _ | .bankLockGrant _ _
  | .copyCommandStart _ _ | .copyWriteLands _ _ | .copyComplete _ _ | .copyAccessFault _ _ | .shapeRecordArrives _
  | .spxcfgRecordArrives _ | .sparseDecodeComplete _ | .mxCommandStart _ | .mxCommandComplete _ | .matrixFaultPause _
  | .mprogResume _ | .mprogAbort _ | .engineArbitration _ | .sharedTransferComplete _ _ | .directTransferComplete _
  | .collContributionArrives _ _ _ | .collMemberComplete _ _ | .collStallEvent _ _ | .blatWriteLands _ | .evOperationStart _
  | .evOperationComplete _ | .trapEntry _ | .systemFaultHandling _ | .freezeFrame _ _ _ | .spillComplete _ | .teamRestore _ _
  | .notify _ _ | .qcmdOpen _ | .qcmdDestroy _ | .qcmdClear _ | .packetLaunch _ | .packetOpenrng _ | .packetWaitsig _
  | .waitsigPoll _ | .teamStart _ | .completionSignal _ | .apprcmdApprove _ | .apprcmdDeny _ | .reelArrives _ _
  | .contractAdmit _ | .contractRevoke _ | .contractPeriodStart _ | .contractBudgetSpent _ _ | .mgmtmodeWrite _
  | .attestationExchange _ _ _ | .attestationTimeout _ | .attverdAccept _ | .attverdRefuse _ | .lerayxAttestation _ _ _ _ _
  | .lerayxSessionRetry _ | .keyRollover _ | .linkTagFailure _ | .linkFlitReplay _ | .diestReset _ | .diestReatt _
  | .dieResetEnd _ | .coldStart _ | .bootstatWarm _ | .repcmdMap _ _ | .repairMapComplete | .repairRowThreshold _ _
  | .powerControlTick _ _ | .lendLent _ _ | .lendRecall _ | .migctlGo | .migrationComplete | .podMessageArrives _
  | .postedWriteAck _ | .profileSample _ | .dbgctlStop _ | .dbgctlRun _ | .dbgctlStep _ | .preciseStopDrainEnd _
  | .registerWrite _ _ _ | .frontEndReadLands _ | .svbaseWrite _ _ _ | .hostRecoveryChoice _ _ => s

end Sys2Proof.Machine
end

