-- ==== Sys2Proof/Machine/Bundle.lean ====
section
/-! DEFINITION. The issue of bundle iterations by a column (R53 to R57, R77, R78, R168, R247, R250, R251, R285, R286, R295), the firmware
context's issues (R93), and the landing of results (R79, R81). -/

namespace Sys2Proof.Machine

/-! ### Fetch (R77, R247) -/

/-- What a fetch of the bundle at a context's program counter gives. -/
inductive Fetched where
  | ok (b : Bundle)
  | stall
  | fault (r : FRec)
  deriving DecidableEq, Repr

/-- R126: whether one of `n` bytes at byte `o` of a reel lies in a poisoned piece. -/
def ReelBuf.poisonedAt (b : ReelBuf) (o n : Nat) : Bool := b.poison.any fun p => p * 64 < o + n && o < p * 64 + 64

/-- R77, R247: the bundle at the program counter of a column context. -/
def State.fetchBundle (s : State) (cc : Nat) : Fetched :=
  let c := s.getCc cc
  let pc := c.cs.pc
  match s.reelBuf (ccCol cc) c.launch pc.reel with
  | none => .stall
  | some b =>
    if !b.arrived then .stall
    else match b.bad with
      | some f => .fault { code := f.1, cause := f.2.1, r0 := BitVec.ofNat 64 f.2.2 }
      | none =>
        let size := ((b.data[pc.off]?).map bundleSize).getD 8
        if b.poisonedAt (8 * pc.off) size then .fault { code := 10 }
        else match parseBundle ((b.data.drop pc.off).take (size / 8)) with
          | some x => .ok x
          | none => .fault { code := 1 }

/-! ### The operations of an iteration (R51 to R58, R78) -/

/-- R51: whether a slot position accepts an operation. -/
def slotAccepts (p : Nat) (i : Instr) : Bool :=
  match i.head with
  | none => false
  | some (c, h) =>
    if p < 8 then c == [Cls.sc, .br, .mx, .cp, .en, .ev, .xg, .sy].getD p .va
    else c == (if (p - 8) % 3 = 2 then Cls.vm else .va) && h.group.toNat == (p - 8) / 3

/-- Whether an operation has opcode 0x00. -/
def isNop : Instr → Bool
  | .nop _ _ => true
  | _ => false

/-- An operation of an iteration: its slot position, whether it issues from a slot word, its entry's footprint. -/
structure SlotOp where
  pos : Nat
  op : Instr
  first : Bool
  fp : List Region
  deriving DecidableEq, Repr

/-- R50, R57, R78: the operation of a slot word, none where it is an illegal operation. -/
def ColCtx.slotWordOp (c : ColCtx) (p : Nat) (w : Half) : Option SlotOp :=
  let k := slotIndex w
  if k = 0 then some ⟨p, .nop Hdr.plain 0#4, true, []⟩
  else match SMap.get none c.cw k with
    | none => none
    | some i =>
      if slotAccepts p i then (adjust i (slotAdj w)).map fun x => ⟨p, x, true, SMap.get [] c.fp k⟩ else none

/-- R53, R55: the operations of an iteration of a bundle by ascending position, each with its position; an operation is none where it
is illegal (R78). The BR slot word of a repeated delay bundle traps on the last iteration, the one on which a BR operation issues (DESIGN CHOICE, log 109: R55
names the delay bundle's issue and not the iteration). -/
def ColCtx.iterOps (c : ColCtx) (b : Bundle) (first last : Bool) : List (Nat × Option SlotOp) :=
  (List.range 32).flatMap fun p =>
    let w := (b.slots.find? fun x => x.1 == p).map Prod.snd
    if p = 1 then
      match w with
      | some w =>
        if !last then []
        else match c.slotWordOp p w with
          | some o => [(p, if c.cs.xfer.isSome && !isNop o.op then none else some o)]
          | none => [(p, none)]
      | none => []
    else match w, first with
      | some w, true => [(p, c.slotWordOp p w)]
      | _, _ => match c.cs.copies.find? fun x => x.1 == p with
        | some x => [(p, some ⟨p, x.2, false, SMap.get [] c.cs.fps p⟩)]
        | none => []

/-- R53: the slot copies after an iteration. -/
def ColState.keepCopies (c : ColState) (ops : List SlotOp) : ColState :=
  ops.foldl (fun c o =>
    if o.pos = 1 || !o.first then c
    else if isNop o.op then { c with copies := SMap.erase c.copies o.pos, fps := SMap.erase c.fps o.pos }
    else { c with copies := SMap.put c.copies o.pos o.op, fps := SMap.set [] c.fps o.pos o.fp }) c

/-! ### The program counter (R54, R55) -/

/-- R54, R55: the column state after an iteration; `jump` says that a BR operation of it takes a transfer. Also whether the target of a
transfer other than a LOOP back-edge is next. -/
def ColState.advance (c : ColState) (b : Bundle) (iter : Nat) (last jump : Bool) : ColState × Bool :=
  if !last then ({ c with rem := b.repM1 - iter }, false)
  else
    let c := { c with pc := { c.pc with off := c.pc.off + b.size / 8 }, rem := 0 }
    if jump then (c, false)
    else match c.xfer with
      | none => (c, false)
      | some x =>
        if x.delay > 1 then ({ c with xfer := some { x with delay := x.delay - 1 } }, false)
        else match x.target with
          | some p => ({ c with pc := p, xfer := none }, !x.loop)
          | none => ({ c with xfer := some { x with delay := 0 } }, false)

/-! ### Profile (R285, R286) -/

/-- A 32-bit counter that stops at its greatest value. -/
def sat32 (n : Nat) : Nat := Nat.min n (2 ^ 32 - 1)
/-- A 64-bit counter that stops at its greatest value. -/
def sat64 (n : Nat) : Nat := Nat.min n (2 ^ 64 - 1)

/-- R286: one iteration counted, in which the positions of `fills` issue. -/
def ProfAcc.iteration (a : ProfAcc) (fills : List Nat) (addr : DWord) : ProfAcc :=
  { a with
    live := true, iter := sat64 (a.iter + 1), clks := sat64 (a.clks + 1), first := if a.iter = 0 then addr else a.first, last := addr
    fill := fills.foldl (fun m p => SMap.upd 0 m p fun n => sat32 (n + 1)) a.fill
    nops := (List.range 32).foldl (fun m p => if fills.contains p then m else SMap.upd 0 m p fun n => sat32 (n + 1)) a.nops }

/-- R288, R289: whether an instance of `n` iterations writes its record under bit `bit` of PRFCTL. -/
def State.profWrites (s : State) (cc bit n : Nat) : Bool :=
  bits (s.prfctl cc) bit 1 == 1 && n ≥ 2 ^ bits (s.prfctl cc) 12 4

/-- R285, R289: the loop accumulator after an iteration; `taken` is what a LOOP of it decided. -/
def State.loopProf (s : State) (cc : Nat) (fills : List Nat) (addr : DWord) (taken : Option Bool) : State :=
  let c := s.getCc cc
  let a := (if c.loopClr then {} else c.loop).iteration fills addr
  match taken with
  | some false =>
    let s := if a.taken.contains addr.toNat && s.profWrites cc 0 a.iter then s.accRecord cc 1 0 a addr else s
    s.updCc cc fun c => { c with loop := {}, loopClr := false }
  | some true => s.updCc cc fun c => { c with loop := { a with taken := insNat addr.toNat a.taken }, loopClr := false }
  | none => s.updCc cc fun c => { c with loop := a, loopClr := false }

/-- R285, R286, R289: the repeat accumulator after an iteration of a bundle; a clock on which a handler issues counts in an instance that it interrupts. -/
def State.repProf (s : State) (cc : Nat) (fills : List Nat) (addr : DWord) (b : Bundle) (first last : Bool) : State :=
  if b.repM1 = 0 then s.updCc cc fun c => { c with rep := if c.rep.live then { c.rep with clks := sat64 (c.rep.clks + 1) } else c.rep }
  else
    let a := (if first then {} else (s.getCc cc).rep).iteration fills addr
    let s := if last && s.profWrites cc 1 a.iter then s.accRecord cc 2 0 a addr else s
    s.updCc cc fun c => { c with rep := { a with live := !last } }

/-! ### An iteration tried -/

/-- R248: YOVER. -/
def State.yover (s : State) (cc : Nat) : Nat := bits (s.getPart (s.partOf cc)).arbctl.toNat 16 16

/-- R250, R251: an iteration counted in the measured run, or the first of a new one at a yield bundle. -/
def State.runCount (s : State) (b : Bundle) : State :=
  let cc := s.cc0
  match b.yieldRun with
  | some run => opYield run s
  | none =>
    let s := s.updCc cc fun c => { c with meas := c.meas + 1, scyc := c.scyc + 1 }
    let c := s.getCc cc
    if c.measured && !c.overran && c.meas > c.stated + s.yover cc then
      { s.updCc cc fun c => { c with overran := true } with events := s.events ++ [.yieldOverrun cc c.yaddr c.stated] }
    else s

/-- R237: an armed injection that names the iteration requests a freeze of every context on the column. -/
def State.injects (s : State) (pc : Pos) (iter : Nat) : State :=
  let col := s.cur.col
  let v := (s.getCol col).frzinj
  if v.getLsbD 63 && bits v.toNat 32 16 == iter && bits v.toNat 16 16 == pc.reel && bits v.toNat 0 16 == pc.off then
    s.updCol col fun c => { c with
      frzinj := (c.frzinj &&& ~~~(1#64 <<< 63)) ||| (1#64 <<< 61)
      frz := c.frz ++ [⟨4, []⟩] }
  else s

/-- A fault of the whole column (R77): on every launch-live die. -/
def State.faultAll (s : State) (r : FRec) : State := (s.liveOf s.cc0).foldl (fun s d => s.fault d r) s

/-- One operation of an iteration performed. -/
def State.runOp (s : State) (o : SlotOp) : State := issueOp o.op { s with cur := { s.cur with slot := o.pos, first := o.first, fp := o.fp } }

/-- The operations of an iteration performed in slot order; an illegal one traps on every launch-live die, whatever the mask of its entry (R78; DESIGN
CHOICE, log 76). -/
def State.runOps (s : State) (ops : List (Nat × Option SlotOp)) : State :=
  ops.foldl (fun s x => match x.2 with
    | some o => s.runOp o
    | none => State.faultAll { s with cur := { s.cur with slot := x.1 } } { code := 2 }) s

/-! ### The order of events (R189 to R194, R199, R204) -/

/-- R186, R193: the events that an operation makes: whether it accesses memory or has an engine access it, and whether it writes, signals of itself, arrives
at a barrier or triggers. -/
def orderClass : Instr → Bool × Bool
  | .ld _ _ | .vld _ _ | .vlds _ _ | .vgath _ _ | .cwld _ _ | .eload _ _ | .bdrv _ _ | .cpchk _ _ | .spxgo _ _ | .shape _ _ | .spxcfg _ _
  | .mlatch _ _ | .mmul _ _ | .mtile _ _ => (true, false)
  | .st _ _ | .amo _ _ | .acas _ _ | .vst _ _ | .vscat _ _ | .esave _ _ | .blat _ _ | .cpy _ _ | .cpyg _ _ | .mret _ _ | .seize _ _ | .sxfer _ _
  | .coll _ _ => (true, true)
  | .sig _ _ | .bar _ _ | .etrig _ _ | .halt _ => (false, true)
  | _ => (false, false)

/-- R189, R204: whether an operation that an engine performs, or that reads the local scratchpad in the EV slot, must wait on a core for an access of its context
that is before it and not yet performed. Copy and matrix commands wait for the envelope unit by their bank locks (R150). Order is kept by stalling
the column (DEDUCED, log 88). -/
def State.engHeld (s : State) (ck : Nat) (i : Instr) : Bool :=
  let k := s.getCore (ckCore ck)
  let blat := k.blat.any fun b => b.ck == ck
  let ev := k.evq.any fun e => e.ck == ck && !e.locks.isEmpty
  let far := s.farMerging ck || (s.getCd ck).openReads.any fun r => r.1 < s.clock
  match i.head.map Prod.fst with
  | some .ev => (orderClass i).1 && blat
  | some .en => (orderClass i).1 && (blat || ev || far || !(s.unperf ck).isEmpty)
  | some .mx | some .cp => (orderClass i).1 && (blat || far || !(s.unperf ck).isEmpty)
  | _ => false

/-- R194, R204: whether an operation must wait on a die where it is enabled for what comes before it. -/
def State.opHeld (s : State) (i : Instr) : Bool :=
  match i.head with
  | none => false
  | some (_, h) =>
    let wr := (orderClass i).2 || h.sigSem != 0#8
    (s.enabled h).any fun d => s.engHeld (s.ck0 d) i || (((orderClass i).1 || wr) && s.held (s.ck0 d) (orderClass i).1 wr)

/-- R194, R198: the iteration of a context, whose operations make `t` of `s`, stalls while one of them must wait, or while writes that an earlier iteration flushes
are not acknowledged. A vector-slot operation comes after a fence of its iteration too; and no splice releases stores that an acquire of their own
iteration still holds. -/
def State.orderStall (s t : State) (ops : List SlotOp) : State :=
  let c := s.getCc s.cc0
  let flushing := (s.liveOf s.cc0).any fun d => (s.unacked (s.ck0 d) c.flushFull).any fun p => p.issued < c.flush
  let keeps := t.att.splice && (s.liveOf s.cc0).any fun d => !(s.ctxD d).blot.isEmpty && s.held (s.ck0 d) true true
  if flushing || keeps || ops.any fun o => if o.pos < 8 then s.opHeld o.op else t.opHeld o.op then t.stallFor 7 else t

/-- R221: the line of an ST that finds no entry free, since the VM stores of its iteration take all 128: it is performed at issue. -/
def State.spillSt (s : State) (cc : Nat) : State :=
  (s.liveOf cc).foldl (fun s d =>
    match (s.getCd (ccCk d cc)).blot with
    | b :: l => if l.length < 128 then s else ((s.performBlot b).updCd (ccCk d cc) fun c => { c with blot := l }).splices
    | [] => s) s

/-- R199: the bytes, by number, of `n` at a place that a blotter withholds. -/
def withheldOf (bl : List Blot) (loc n : Nat) : List Nat := (List.range n).filter fun i => (blotByte bl (loc + i)).isSome

/-- R189, R199: the stores of an iteration that come after its BLAT and its ESAVE in slot order keep their values where those write later: they are what its
context's blotter holds, which both empty at their issue. -/
def State.laterStores (s : State) (cc : Nat) : State :=
  (s.liveOf cc).foldl (fun s d =>
    let ck := ccCk d cc
    let bl := (s.getCd ck).blot
    if bl.isEmpty then s
    else
      let s := s.updQuad (quadKey d (ccCol cc)) fun q =>
        { q with lat := q.lat.map fun r => if r.ck = ck then { r with passed := withheldOf bl r.loc r.len } else r }
      let pass := fun (e : EvOp) =>
        if e.ck == ck && s.att.uid0.any (fun u => Nat.ble u e.uid) && (orderClass e.op).2 then
          { e with passed := withheldOf bl (spadLoc d (ccCol cc) ((e.addr.toNat - spadBase) % 2 ^ 21)) 4128 }
        else e
      s.updCore (ckCore ck) fun k => { k with evq := k.evq.map pass }) s

/-- R190: what an operation that issues lets its context observe on a die: the semaphore that it waits on, or CPDONEn that it reads. -/
def State.noteSeen (s : State) (i : Instr) (h : Hdr) (d : Nat) : State :=
  let sem := match i with
    | .wsem _ f => f.sem.toNat
    | _ => 0
  let waits := [h.waitSem.toNat, sem].filter (· != 0)
  let s := if waits.isEmpty then s
    else s.updD d fun c => { c with waited := waits.foldl (fun m n => SMap.set 0 m n (s.clock + 1)) c.waited }
  match i with
  | .csrr _ f =>
    let n := f.imm.toNat
    if 0x0A4 ≤ n && n ≤ 0x0A7 then
      s.updD d fun c => { c with seen := SMap.set (0, 0) c.seen (n - 0x0A4) (s.clock + 1, (SMap.get {} (s.coreD d).ch (n - 0x0A4)).done.toNat) }
    else s
  | _ => s

/-- R190: what an iteration's operations let its context observe. -/
def State.noteAll (s : State) (ops : List SlotOp) : State :=
  ops.foldl (fun s o => match o.op.head with
    | some (_, h) => (s.enabled h).foldl (fun s d => s.noteSeen o.op h d) s
    | none => s) s

/-- R286: the positions that count as filled. -/
def State.fills (s : State) (ops : List SlotOp) : List Nat :=
  (ops.filter fun o => !isNop o.op && (match o.op.head with
    | some (_, h) => !(s.enabled h).isEmpty
    | none => false)).map (·.pos)

/-- What an iteration changes in its column beside its operations: the marks (R56, R247), the slot copies, the program counter, the
counts. -/
def State.runColumn (s : State) (b : Bundle) (ops : List SlotOp) (iter : Nat) : State :=
  let cc := s.cc0
  let pc := (s.getCc cc).cs.pc
  let last := iter == b.repM1
  let s := if b.splice then opSplice s else s
  let s := if b.reelMark then
      match s.kernelOf cc with
      | some k => s.startReel cc pc.reel ((pc.reel + 1) % k.reels.length)
      | none => s
    else s
  let s := s.runCount b
  let s := s.loopProf cc (s.fills ops) s.cur.bundle s.att.loopTaken
  let s := s.repProf cc (s.fills ops) s.cur.bundle b (iter == 0) last
  let s := s.injects pc iter
  let (cs, clr) := ((s.getCc cc).cs.keepCopies ops).advance b iter last s.att.xfer.isSome
  let s := s.updCol s.cur.col fun c => { c with
    dbg := if c.dbg = 5 then 0 else if c.dbg = 4 then 2 else c.dbg, issAt := s.clock + 1 }
  s.updCc cc fun c => { c with cs := cs, loopClr := c.loopClr || clr, lastAddr := s.cur.bundle, profOff := false }

/-- The iteration that a context's column state names: its number, counted from 0. -/
def ColState.iter (c : ColState) (b : Bundle) : Nat := if c.rem = 0 then 0 else b.repM1 + 1 - c.rem

/-- The cursor at a bundle iteration of a context. -/
def State.atBundle (s : State) (col k iter : Nat) : State :=
  let pc := (s.getCc (ccKey col k)).cs.pc
  { s with att := { uid0 := some s.uid }, cur := { col := col, ctx := k, slot := 0, first := true, bundle := bundleAddr pc.reel iter pc.off } }

/-- R225, R321: the state from which a context's next iteration issues: what its CWLD has loaded stands in its table, and the target of its TRET restored. -/
def State.fromHere (s : State) (cc : Nat) : State :=
  let s := s.cwDone cc
  if (s.getCc cc).cs.tretNext then s.tretTarget cc else s

/-- The next iteration of a column context tried: the state that the attempt starts from, and what its operations make of it. -/
def State.tryIter (s : State) (col k : Nat) : State × State :=
  let cc := ccKey col k
  let r := s.fromHere cc
  let c := r.getCc cc
  let at_ := fun (iter : Nat) => let x := r.atBundle col k iter; ({ s with att := x.att, cur := x.cur }, x)
  match r.fetchBundle cc with
  | .stall => let (s, _) := at_ 0; (s, s.stallFor 4)
  | .fault f => let (s, _) := at_ 0; (s, s.faultAll f)
  | .ok b =>
    let iter := c.cs.iter b
    let (s, r) := at_ iter
    let all := c.iterOps b (iter == 0) (iter == b.repM1)
    let ops := all.filterMap Prod.snd
    let n := r.noteAll ops
    let t := n.orderStall (n.runOps all) ops
    let t := if r.blotCount cc = 0 then t.spillSt cc else t
    (s, if all.any fun x => x.2.isNone then t else (t.laterStores cc).runColumn b ops iter)

/-! ### When a column may issue -/

/-- The ACTIVE context of a column (R90: at most one). -/
def State.activeOf (s : State) (col : Nat) : Option Nat := [0, 1, 2, 3].find? fun k => (s.getCc (ccKey col k)).st == .active

/-- R294, R295: a breakpoint at the bundle that a context is about to begin, which may be the one that its TRET resumes at, stops the column, but not where the
column has just been resumed. -/
def State.atBreak (s : State) (col k : Nat) : Bool :=
  let c := s.getCol col
  let cs := (s.getCc (ccKey col k)).nextCs
  (c.dbg == 0 || (c.dbg == 5 && c.resAt != some (k, cs.pc.reel, cs.pc.off))) && c.dbgctl.getLsbD 58 && cs.rem == 0 && bits c.dbgctl.toNat 32 16 == cs.pc.reel && bits c.dbgctl.toNat 0 16 == cs.pc.off

/-- Whether a column's context may try an iteration on this clock. -/
def State.mayIssue (s : State) (col k : Nat) : Bool :=
  let c := s.getCol col
  let x := s.getCc (ccKey col k)
  x.st == .active && c.fromClk ≤ s.clock && x.holdUntil ≤ s.clock && x.trap.isEmpty && x.lastIss ≤ s.clock && c.fwAt ≤ s.clock &&
    (c.dbg == 0 || c.dbg == 4 || c.dbg == 5)

/-- R211: the faults that wait for a context's boundary, taken. -/
def State.takeFaults (s : State) (cc : Nat) : State :=
  let fs := oldestFaults (s.getCc cc).faults
  (s.updCc cc fun c => { c with faults := [] }).raise cc fs

/-! ### Clocks in which nothing issues (R287) -/

/-- The lesser of two reasons, where there are. -/
def minReason (a : Option Nat) (p : Bool) (r : Nat) : Option Nat :=
  if p then some (match a with
    | some x => Nat.min x r
    | none => r) else a

/-- Whether a context's iteration issued on this clock. -/
def State.issuedNow (s : State) (cc : Nat) : Bool := (s.getCc cc).lastIss == s.clock + 1

/-- Whether this clock is one in which a context is ACTIVE: its iteration issued, or it has the column since before. -/
def State.activeNow (s : State) (cc : Nat) : Bool :=
  s.issuedNow cc || ((s.getCc cc).st == .active && (s.getCol (ccCol cc)).fromClk ≤ s.clock)

/-- R287: the reason for which a context that is ACTIVE or BLOCKED issued nothing on this clock. -/
def State.stallReason (s : State) (cc : Nat) : Option Nat :=
  let c := s.getCc cc
  let col := s.getCol (ccCol cc)
  if s.issuedNow cc then none
  else
    let act := s.activeNow cc
    let a := minReason c.why (c.st == .blocked) 10
    let a := minReason a (act && c.holdUntil > s.clock) c.holdReason
    let a := minReason a (act && !c.trap.isEmpty) 0
    let a := minReason a (act && col.fwAt == s.clock + 1) 5
    minReason a (act && (col.dbg == 1 || col.dbg == 2 || col.dbg == 3)) 11

/-- R287: the iteration of a context that may not be tried on this clock, tried only to find whether a reason of a lower number holds too. -/
def State.noteDry (s : State) (col k : Nat) : State :=
  let x := s.getCc (ccKey col k)
  if !s.activeNow (ccKey col k) || x.lastIss > s.clock || !x.trap.isEmpty then s
  else match (s.tryIter col k).2.att.stall with
    | some r => (s.atBundle col k 0).noteStall r
    | none => s

/-- A column's context up to its attempt: a breakpoint, on whose clock a reason of a lower number may hold too (R287), a fault that waits; and whether it tries
an iteration. -/
def State.prepare (s : State) (col k : Nat) : State × Bool :=
  let cc := ccKey col k
  if s.atBreak col k then ((s.noteDry col k).updCol col fun c => { c with dbg := 2 }, false)
  else if !(s.getCc cc).faults.isEmpty then (s.takeFaults cc, false)
  else (s, true)

/-- A column of no quad-synchronous launch. -/
def State.issueOne (s : State) (col k : Nat) : State :=
  if !s.mayIssue col k then s.noteDry col k
  else
    let (s, go) := s.prepare col k
    if !go then s
    else
      let (a, t) := s.tryIter col k
      a.finish t

/-! ### Quad-synchronous launches (R168) -/

/-- The columns of a column's quad that hold a running context of the same launch. -/
def State.quadCols (s : State) (col l : Nat) : List Nat :=
  ((List.range 4).map (· + col / 4 * 4)).filter fun c => [0, 1, 2, 3].any fun k =>
    let x := s.getCc (ccKey c k)
    x.launch == l && (x.st == .ready || x.st == .active || x.st == .blocked)

/-- R168: the quad cycle at an iteration of the quad's columns. -/
def State.quadTick (s : State) (col l : Nat) (slate : Bool) : State :=
  let ds := match s.launch? l with
    | some x => allDies.filter fun d => bits x.live d 1 == 1 && s.dieLive d
    | none => []
  ds.foldl (fun s d => s.updQuad (d * 8 + col / 4) fun q => { q with cycle := if slate then 0 else (q.cycle + 1) % 16 }) s

/-- Whether the bundle at a context's program counter has SLATE set. -/
def State.slateAt (s : State) (cc : Nat) : Bool :=
  match s.fetchBundle cc with
  | .ok b => b.slate
  | _ => false

/-- The iterations of a quad's columns tried one after the other: the state after all, none where one does not issue. -/
def State.tryQuad (s : State) : List (Nat × Nat) → Option State
  | [] => some s
  | (c, k) :: l =>
    let (a, t) := s.tryIter c k
    match a.verdict t with
    | .commit => (a.finish t).tryQuad l
    | _ => none

/-- The end of an attempt of a quad that does not issue, on the quad cycle of `u`: what each column's own attempt asks for, but that none issues. A block
of one blocks all. -/
def State.holdQuad (s u : State) (l : List (Nat × Nat)) : State :=
  let vs := l.map fun x => (x, (u.tryIter x.1 x.2).1.verdict (u.tryIter x.1 x.2).2)
  match firstSome (fun v => match v.2 with
      | .block r => some r
      | _ => none) vs with
  | some r => l.foldl (fun s x => (s.atBundle x.1 x.2 0).blockOn r) s
  | none =>
    let r := (firstSome (fun v => match v.2 with
      | .stall r => some r
      | .ports _ => some 2
      | .forced => some 6
      | _ => none) vs).getD 11
    vs.foldl (fun s v => match v.2 with
      | .commit => (s.atBundle v.1.1 v.1.2 0).noteStall r
      | _ =>
        let p := u.tryIter v.1.1 v.1.2
        { s with att := p.1.att, cur := p.1.cur }.finish p.2) s

/-- R168, R287: the columns of a quad that does not issue because one of them may not: every ACTIVE context counts the lowest reason that holds on any of the
columns, and that of a block where none does (DESIGN CHOICE, log 98). -/
def State.heldQuad (s : State) (l : Nat) (cols : List Nat) : State :=
  let act := (cols.filterMap fun c => (s.activeOf c).map fun k => (c, k)).filter fun x => (s.getCc (ccKey x.1 x.2)).launch == l
  let s := act.foldl (fun s x => s.noteDry x.1 x.2) s
  let ks := (cols.flatMap fun c => [0, 1, 2, 3].map (ccKey c)).filter fun cc => (s.getCc cc).launch == l && (s.getCc cc).st != .free
  let r := ks.foldl (fun m cc => match s.stallReason cc with
    | some x => Nat.min m x
    | none => m) 12
  act.foldl (fun s x => if s.activeNow (ccKey x.1 x.2) then (s.atBundle x.1 x.2 0).noteStall (if r = 12 then 10 else r) else s) s

/-- R168: the columns of a quad issue together. -/
def State.issueQuad (s : State) (l : Nat) (cols : List Nat) : State :=
  let ks := cols.filterMap fun c => match s.activeOf c with
    | some k => if (s.getCc (ccKey c k)).launch == l && s.mayIssue c k then some (c, k) else none
    | none => none
  if ks.length != cols.length then s.heldQuad l cols
  else
    let (s, go) := ks.foldl (fun (p : State × Bool) x => let (t, g) := p.1.prepare x.1 x.2; (t, p.2 && g)) (s, true)
    if !go then s.heldQuad l cols
    else
      let col := cols.headD 0
      let s1 := s.quadTick col l (ks.any fun x => s.slateAt (ccKey x.1 x.2))
      match s1.tryQuad ks with
      | some t => t
      | none => s.holdQuad s1 ks

/-! ### The events -/

/-- BUNDLE_ITERATION_ISSUE (R53): a column issues the next iteration of its ACTIVE context, or finds why it cannot. The columns of a
quad-synchronous launch issue with the lowest of them on which it is ACTIVE. -/
def execBundleIterationIssue (col : Nat) (s : State) : Host.Outcome State Fault Refusal :=
  .next (match s.activeOf col with
    | none => s
    | some k =>
      let l := (s.getCc (ccKey col k)).launch
      if ((s.launch? l).map (·.qsync)).getD false then
        let cols := s.quadCols col l
        if (cols.find? fun c => (s.activeOf c).any fun j => (s.getCc (ccKey c j)).launch == l) = some col then s.issueQuad l cols else s
      else s.issueOne col k)

/-- EXPOSED_RESULT_LANDS (R79): the exposed-latency results of a context that are due land in slot order, and with them, each at its slot, the scoreboarded
ones of the same clock. -/
def execExposedResultLands (ck : Nat) (s : State) : Host.Outcome State Fault Refusal :=
  let due := fun (p : Pend) => p.due.any (· ≤ s.clock)
  .next (if (s.getCd ck).pend.any fun p => !p.sb && due p then s.landAll ck due else s)

/-- SCOREBOARD_WRITE_LANDS (R81): the scoreboarded results of a context that are due land in slot order. -/
def execScoreboardWriteLands (ck : Nat) (s : State) : Host.Outcome State Fault Refusal :=
  .next (s.landAll ck fun p => p.sb && p.due.any (· ≤ s.clock))

/-! ### The firmware context (R93) -/

/-- R248: FWSHARE of a column's partition. -/
def State.fwshare (s : State) (col : Nat) : Nat := bits (s.getPart (s.partOfCol col)).fwctl.toNat 0 8

/-- R93, R248: whether the firmware context may issue on this clock. -/
def State.fwMay (s : State) (col : Nat) : Bool :=
  let c := s.getCol col
  let n := if c.fwWindow = s.clock / 256 then c.fwCount else 0
  c.fwAt ≤ s.clock && c.issAt != s.clock + 1 && ((s.activeOf col).isNone || n < s.fwshare col)

/-- R93: an issue of the firmware context counted. -/
def State.fwCounted (s : State) (col : Nat) : State :=
  let act := (s.activeOf col).isSome
  s.updCol col fun c => { c with
    fwCount := (if c.fwWindow = s.clock / 256 then c.fwCount else 0) + bit01 act
    fwWindow := s.clock / 256, fwClocks := c.fwClocks + 1, fwAt := s.clock + 1 }

/-- The slot position at which the firmware context issues an operation. -/
def fwSlot (i : Instr) : Nat :=
  match i.head with
  | some (c, h) => match c with
    | .sc => 0 | .br => 1 | .mx => 2 | .cp => 3 | .en => 4 | .ev => 5 | .xg => 6 | .sy => 7
    | .va => 8 + 3 * h.group.toNat
    | .vm => 10 + 3 * h.group.toNat
  | none => 0

/-- FIRMWARE_CONTEXT_ISSUE (R93): an operation of a column's firmware context, whose program the firmware supplies (DESIGN CHOICE, log 12). Only a clock on
which it issues counts. -/
def execFirmwareContextIssue (col : Nat) (word : BitVec 256) (s : State) : Host.Outcome State Fault Refusal :=
  .next (if !s.fwMay col then s
    else match decode word with
      | .error _ => s
      | .ok i =>
        let s := { s with att := { uid0 := some s.uid }, cur := { col := col, ctx := 4, slot := fwSlot i } }
        let o : SlotOp := ⟨fwSlot i, i, true, []⟩
        let n := s.noteAll [o]
        let t := n.orderStall (issueOp i n) [o]
        if s.verdict t = .commit then (s.finish t).fwCounted col else s.finish t)

end Sys2Proof.Machine
end

