-- ==== Sys2Proof/Machine/Freeze.lean ====
section
/-! DEFINITION. Freeze frames (R227 to R237): the core freeze, the engines' stop (R148, R165, R185, R235), the spill and the save areas
(R229 to R232), and the restore (R233). -/

namespace Sys2Proof.Machine

/-! ### Counts -/

/-- R62, R341: the signals of a clock added to the counts. -/
def semApply (sem : SMap Nat) (sig : SMap SigAcc) : SMap Nat :=
  sig.foldl (fun m x => SMap.set 0 m x.1 (clampSem (((x.2.set.getD (SMap.get 0 m x.1) : Nat) : Int) + x.2.add))) sem

/-- R62: a signal counted among those of a clock. -/
def sigAdd (m : SMap SigAcc) (p : SigPend) : SMap SigAcc :=
  if p.sem = 0 then m
  else SMap.upd {} m p.sem fun a => if p.set then { a with set := some p.inc.toNat } else { a with add := a.add + p.inc }

/-! ### Copies stopped (R235) -/

/-- The next piece of a head, whatever the clock, and the command's end with its last; none where it cannot land. -/
def State.copyForce (s : State) (core ch : Nat) (c : CopyCmd) : Option State :=
  if c.stream != 0 && (s.streamOf c).elems.length ≥ 8 then none
  else match s.nextPiece c with
    | (.ok c', some x, s') => some (s'.trailerFault core ch c' x)
    | (.ok c', none, s') =>
      let t := s'.landPiece core ch c'
      some (if c.done + c.pieceLen < c.total then t else (t.flushStream c').copyEnd core ch c' true)
    | _ => none

/-- R235, R36: the head goes on until the unit that it is writing is complete, and the trailer that it has begun, whose bytes R36 has written at once, also
where a unit ends within it (DEDUCED, log 49); a TRN copy that has begun writing, to its end. -/
def State.copyToUnit (s : State) (core ch uid : Nat) : Nat → State
  | 0 => s
  | n + 1 => match s.copyHead core ch with
    | some c =>
      if c.uid = uid && (c.done % 128 != 0 || c.done > c.main || (c.f.trn && c.done > 0)) then
        match s.copyForce core ch c with
        | some t => t.copyToUnit core ch uid n
        | none => s
      else s
    | none => s

/-- R235: the scale bytes of the whole blocks below the stop written. -/
def State.scalesEarly (s : State) (ch : Nat) (c : CopyCmd) : State :=
  if c.xform && c.oty.isBlock && c.stream = 0 && c.done < c.dData then
    let n := c.done * 8 / (32 * c.oty.width) * 2
    s.engWriteAll c.ck .cp (lostRec c.bundle c.ident ch) (c.poster ch s.clock) (pieces64 (n / 64 + 2) (c.dva c.dData) n) (c.scales.take n)
  else s

/-- R235: CPCHK stopped at the last 128-byte boundary of its source that it holds, and what it holds kept. -/
def State.chkStop (s : State) (c : CopyCmd) : CopyCmd × State :=
  match c.started with
  | none => (c, s)
  | some t =>
    let have_ := Nat.min (c.sData + c.sScale) (c.done + 64 * (s.clock - t - c.least)) / 128 * 128
    let (r, s') := s.engReadN c.ck .cp c.uid (c.saddr.toNat + c.done) (have_ - c.done)
    match r with
    | .ok l => ({ c with srcData := c.srcData ++ l.map Prod.fst, done := have_ }, s')
    | _ => (c, s)

/-- R235: the running head of a channel stopped. -/
def State.stopHead (s : State) (core ch : Nat) (c : CopyCmd) : State :=
  if c.isSpx then s
  else if c.isChk then
    let (c, s) := s.chkStop c
    s.setHead core ch c
  else
    let s := s.copyToUnit core ch c.uid (c.total + 2)
    match s.copyHead core ch with
    | some x => if x.uid = c.uid then s.scalesEarly ch x else s
    | none => s

/-- A command as it is recorded: not running; reads outstanding are discarded, and the offsets that wait for their elements stand in the operand queue
again. -/
def CopyCmd.rest (c : CopyCmd) : CopyCmd :=
  let c := { c with
    started := none, base := c.done, gran := none, granS := none, taken := [], asked := if c.xform then c.elem * copyBits c.sty / 8 else c.done + c.out.length }
  if c.f.trn && !c.isSpx then { c with held := [], read := false } else c

/-- A channel's commands of a context stopped and taken out. -/
def State.quiesceChan (s : State) (core ck ch : Nat) : List CopyCmd × State :=
  let s := match s.copyHead core ch with
    | some c => if c.ck = ck && c.started.isSome then s.stopHead core ch c else s
    | none => s
  let mine := (SMap.get {} (s.getCore core).ch ch).q.filter fun c => c.ck == ck
  let s := s.updChan core ch fun x => { x with q := x.q.filter fun c => c.ck != ck }.refresh
  let s := s.updCore core fun k => { k with opq := (mine.flatMap fun c => c.taken.map fun o => (ck, o)) ++ k.opq }
  (mine.map CopyCmd.rest, mine.foldl (fun s c => (s.untrack core c.uid).dropPod c.uid) s)

/-! ### Transfers stopped (R165, R268) -/

/-- A transfer as it is recorded: not running; reads outstanding are discarded. -/
def Xmit.rest (x : Xmit) : Xmit := { x with due := none, out := [], last := 0, asked := (0, 0) }

/-- R165, R235: a transfer that is writing a unit completes it, and itself with its last. -/
def State.xmitStop (s : State) (acc : Acc) (x : Xmit) : Option Xmit × State :=
  if x.done % 128 = 0 || x.done ≥ x.len then (some x, s)
  else
    let (y, _, s) := s.xmitMove acc x true
    (y, s)

/-- R165: the direct path without a context's transfers, and those with the numbers of their records. -/
def State.quiesceDirect (s : State) (core ck : Nat) : List (Nat × Xmit) × State :=
  let s := match (s.getCore core).direct with
    | x :: l =>
      if x.ck = ck && x.coll.isNone then
        let (y, s) := s.xmitStop .cp x
        s.updCore core fun k => { k with direct := y.toList ++ l }
      else s
    | [] => s
  let mine := (s.getCore core).direct.filter fun x => x.ck == ck
  let l := s.timeXmits .cp 12 true ((s.getCore core).direct.filter fun x => x.ck != ck)
  let s := s.updCore core fun k => { k with direct := l }
  ((List.range mine.length).zip mine |>.map fun x => (64 + x.1, x.2.rest),
    mine.foldl (fun s x => s.dropPod x.uid) s)

/-- R232: the engines that a core's contexts can hold circuits of, each with the first circuit's number among the 20. -/
def coreEngs (die col : Nat) : List (Nat × Nat) :=
  [(qxKey die col 0, 0), (qxKey die col 1, 2), (dcKey die 0, 4), (dcKey die 1, 8), (dcKey die 2, 12), (dcKey die 3, 16)]

/-- R165, R268: what a circuit was doing, as it goes on along the direct path. -/
def State.circXmits (s : State) (c : Circ) : List Xmit :=
  match c.coll with
  | none => c.xs.map Xmit.rest
  | some (k, rank) => match (s.coll? k).bind (·.member rank) with
    | some m => [{ mkXmit m.uid c.ck m.op m.bundle m.daddr m.saddr s.clock with coll := some (k, rank) }]
    | none => []

/-- R165: a circuit released at a freeze; the member of a collective that it served goes on along the direct path, its buffer kept. -/
def State.dropCirc (s : State) (e n : Nat) (c : Circ) : State :=
  let s := s.updEng e fun g => { g with circ := g.circ.filter fun x => x.1 != n }
  let s := match c.coll with
    | some (k, rank) => s.updMember k rank fun m => { m with direct := true }
    | none => s
  c.xs.foldl (fun s x => s.dropPod x.uid) s

/-- R165, R235: the transfers of a context's circuits of an engine stopped at their units. -/
def State.stopEng (s : State) (ck e : Nat) : State :=
  (s.getEng e).circ.foldl (fun s x => match x.2 with
    | some c => match c.xs with
      | y :: l =>
        if c.ck = ck then
          let (y, s) := s.xmitStop (engKindAcc e) y
          s.updCirc e x.1 fun c => { c with xs := y.toList ++ l }
        else s
      | [] => s
    | none => s) s

/-- R165: a context's circuits of an engine released. -/
def State.quiesceEng (s : State) (ck : Nat) (e : Nat × Nat) : List (Nat × Xmit) × State :=
  let s := s.stopEng ck e.1
  let mine := (s.getEng e.1).circ.filterMap fun x => match x.2 with
    | some c => if c.ck = ck then some (x.1, c) else none
    | none => none
  (mine.flatMap fun x =>
      let l := s.circXmits x.2
      (List.range l.length).zip l |>.map fun y => (80 + 4 * (e.2 + x.1) + y.1, y.2),
    mine.foldl (fun s x => s.dropCirc e.1 x.1 x.2) s)

/-! ### The matrix engine and the envelope unit stopped (R148, R185) -/

/-- R148: a reduction loop whose compute phase has begun runs to the end of its retirement; the rest is taken out, to be issued again
whole. -/
def State.quiesceMx (s : State) (core ck : Nat) : List MxCmd × State :=
  let s := match s.mxHead core with
    | some c =>
      if c.ck = ck && c.due.isSome && (c.kind == MxKind.mul || c.kind == MxKind.tile) && c.cmp ≤ s.clock && (s.getCore core).pause.isNone then
        ((s.mxResults c).mxPop core c).cmdSignal c.uid core c.sigSem c.sigInc
      else s
    | none => s
  let k := s.getCore core
  let mine := k.mxq.filter fun c => c.ck == ck
  let s := s.setCore core { k with
    mxq := k.mxq.filter fun c => c.ck != ck
    pause := if (s.mxHead core).any fun c => c.ck == ck then none else k.pause }
  (mine.map fun c => { c with due := none, cmp := 0, tile := none, latch := none, row := 0, got := 0, bw := [], aw := [] },
    mine.foldl (fun s c => (s.untrack core c.uid).dropPod c.uid) s)

/-- R185: the running operation runs to completion: what it writes of its context's registers is saved with them, and its entry, its image, its signal
and its fault follow at their time; the queued ones are taken out with what they latched. -/
def State.quiesceEv (s : State) (core ck : Nat) : List EvOp × State :=
  let l := (s.getCc (ckCc ck)).launch
  let s := match (s.getCore core).evq.find? fun e => e.ck == ck && e.due.isSome with
    | some e => (s.evWrites core { e with bad := none }).updCore core fun k => { k with
        evq := k.evq.map fun (x : EvOp) => if x.uid == e.uid then { x with res := none, enan := false, launch := l } else x }
    | none => s
  let mine := (s.getCore core).evq.filter fun e => e.ck == ck && e.due.isNone
  (mine, s.updCore core fun k => { k with
    evq := k.evq.filter fun e => e.ck != ck || e.due.isSome
    locks := k.locks.filter fun r => !mine.any fun e => e.uid == r.uid })

/-! ### Capture (R228, R230) -/

/-- A saved context with nothing recorded yet. -/
def SavedCtx.start (col ctx : Nat) (clk reason : Nat) : SavedCtx :=
  { col := col, ctx := ctx, cc := {}, dies := [], copies := [], xmits := [], mxs := [], evs := [], opq := [], shared := false, sems := [],
    bfmts := [], tags := [], spad := [], bad := [], buf := none, frzClk := clk, reason := reason, spill := none, lock := 0 }

/-- The engines of a die stopped for a context. -/
def State.quiesceDie (s : State) (sv : SavedCtx) (d : Nat) : State × SavedCtx :=
  let core := coreKey d sv.col
  let ck := ctxKey d sv.col sv.ctx
  let (s, cps) := [0, 1, 2, 3].foldl (fun (p : State × List (Nat × Nat × CopyCmd)) ch =>
    let (l, s) := p.1.quiesceChan core ck ch
    (s, p.2 ++ l.map fun c => (d, ch, c))) (s, [])
  let (xd, s) := s.quiesceDirect core ck
  let (s, xs) := (coreEngs d sv.col).foldl (fun (p : State × List (Nat × Xmit)) e =>
    let (l, s) := p.1.quiesceEng ck e
    (s, p.2 ++ l)) (s, xd)
  let (ms, s) := s.quiesceMx core ck
  let (es, s) := s.quiesceEv core ck
  let opq := (s.getCore core).opq.filter fun x => x.1 == ck
  let s := s.updCore core fun k => { k with opq := k.opq.filter fun x => x.1 != ck }
  (s, { sv with
    copies := sv.copies ++ cps, xmits := sv.xmits ++ xs.map (fun x => (d, x)), mxs := sv.mxs ++ ms.map fun c => (d, c)
    evs := sv.evs ++ es.map (fun e => (d, e)), opq := sv.opq ++ opq.map fun x => (d, x.2) })

/-- R228, R348: a result in flight with its remaining clocks; a reply that is outstanding, a TLOOK's among them, keeps the clock at which it arrives. VRDQ's
element has none to wait for. -/
def Pend.freeze (clk : Nat) (p : Pend) : Pend := match p.due with
  | some t => if p.sb && p.file != .v then { p with reply := true } else { p with due := some (t - clk), uid := 0 }
  | none => { p with reply := true }

/-- R228: the registers of a context on a die as they are saved, and the context's banks empty. -/
def State.captureDie (s : State) (sv : SavedCtx) (d : Nat) : State × SavedCtx :=
  let ck := ctxKey d sv.col sv.ctx
  let c := s.getCd ck
  let c := { c with pend := c.pend.map (Pend.freeze s.clock) }
  (s.setCd ck {}, { sv with dies := SMap.put sv.dies d c })

/-- The bytes of a core's banks that do not read as unlisted, by offset; and its poisoned lines there. -/
def State.bankImage (s : State) (core : Nat) (banks : List Nat) : List (Nat × Byte) × List Nat :=
  let base := 2 ^ 52 + core * 2 ^ 21
  let in_ := fun loc => base ≤ loc && loc < base + 2 ^ 21 && banks.contains ((loc - base) / 2 ^ 13)
  ((s.mem.filter fun x => in_ x.1).map fun x => (x.1 - base, x.2), (s.poison.filter fun l => in_ (l * 64)).map fun l => l - base / 64)

/-- R98, R230: the core-shared state of a launch's core saved; signals and changes of the tag table of the frozen contexts that are still to land are in what
is saved. -/
def State.captureShared (s : State) (sv : SavedCtx) (banks cks : List Nat) (d : Nat) : State × SavedCtx :=
  let core := coreKey d sv.col
  let k := s.getCore core
  let mine := fun (p : SigPend) => cks.contains p.ck
  let sem := semApply k.sem ((k.sigs.filter mine).foldl sigAdd k.sig)
  let tags := (k.tagPend.filter fun x => cks.contains x.2.1).foldl (fun t x => tagApply t x.2.2) k.tags
  let (sp, bad) := s.bankImage core banks
  (s.setCore core { k with sig := [], sigs := (k.sigs.filter fun p => !mine p), tagPend := k.tagPend.filter fun x => !cks.contains x.2.1 },
    { sv with
      shared := true, sems := SMap.put sv.sems d sem, bfmts := SMap.put sv.bfmts d k.bfmt, tags := SMap.put sv.tags d tags
      spad := SMap.put sv.spad d sp, bad := SMap.put sv.bad d bad })

/-- The dies of a column context's launch that are live. -/
def State.frzDies (s : State) (col ctx : Nat) : List Nat := s.liveOf (ccKey col ctx)

/-- R246: the reel pair of a launch freed once it has no context on the column. -/
def State.freePair (s : State) (col l : Nat) : State :=
  if [0, 1, 2, 3].any fun k => (s.getCc (ccKey col k)).launch == l && (s.getCc (ccKey col k)).st != .free then s
  else s.updCol col fun c => { c with pairs := c.pairs.filter fun x => x != l, bufs := c.bufs.filter fun b => b.launch != l }

/-- Whether a context is one that a freeze stops. -/
def CtxSt.runs (x : CtxSt) : Bool := x == .ready || x == .active || x == .blocked || x == .retiring

/-- R234: a trap at the boundary of the freeze is taken first, but not during a precise stop, whose pending fault goes to PTREC (R296); R289, R293: the
accumulators end, and the freeze is recorded. -/
def State.beforeFreeze (s : State) (reason cc : Nat) : State :=
  let c := s.getCc cc
  let stops := (s.getCol (ccCol cc)).dbg == 2 || (s.getCol (ccCol cc)).dbg == 3
  let s := if stops then s else (if c.st == .active && !c.faults.isEmpty && c.trap.isEmpty then s.takeFaults cc else s).tryTrap cc
  (s.endAccs cc).eventRecord cc (0x10 + reason) (s.home (ccCol cc))

/-- R228: one context captured, its column context free; a CWLD that is not complete is completed at the restore (R321). -/
def State.captureCtx (s : State) (sv : SavedCtx) : State × SavedCtx :=
  let cc := ccKey sv.col sv.ctx
  let s := s.cwDone cc
  let c := s.getCc cc
  let (s, sv) := (s.frzDies sv.col sv.ctx).foldl (fun p d => p.1.captureDie p.2 d) (s, sv)
  (s.setCc cc {}, { sv with cc := { c with lastIss := 0, why := none, st := if c.st == .loading then c.resume else c.st }, buf := s.reelBuf sv.col c.launch c.cs.pc.reel })

/-- R230: whether a frozen context's area takes the core-shared state: it is the lowest of its launch frozen on the column, and none
of the launch stays. -/
def State.takesShared (s : State) (col : Nat) (ks : List Nat) (k : Nat) : Bool :=
  let l := (s.getCc (ccKey col k)).launch
  let same := fun j => (s.getCc (ccKey col j)).launch == l && (s.getCc (ccKey col j)).st != .free
  ([0, 1, 2, 3].all fun j => !same j || ks.contains j) && !(ks.any fun j => j < k && same j)

/-- The contexts of a column stopped, captured and taken off it, with whatever the column does next left open; a precise stop does not survive (R296). -/
def State.captureCol (s : State) (col : Nat) (ks : List Nat) (reason : Nat) : State × List SavedCtx :=
  let s := ks.foldl (fun s k => s.beforeFreeze reason (ccKey col k)) s
  let s := s.updCol col fun c => { c with dbg := 0 }
  let (s, svs) := ks.foldl (fun (p : State × List SavedCtx) k =>
    let (s, sv) := (p.1.frzDies col k).foldl (fun q d => q.1.quiesceDie q.2 d) (p.1, SavedCtx.start col k s.clock reason)
    (s, p.2 ++ [sv])) (s, [])
  let cks := ks.flatMap fun k => (s.frzDies col k).map fun d => ctxKey d col k
  let (s, svs) := svs.foldl (fun (p : State × List SavedCtx) sv =>
    if s.takesShared col ks sv.ctx then
      let banks := ((s.kernelOf (ccKey col sv.ctx)).map (·.banks)).getD []
      let (t, sv) := (s.frzDies col sv.ctx).foldl (fun q d => q.1.captureShared q.2 banks cks d) (p.1, sv)
      (t, p.2 ++ [sv])
    else (p.1, p.2 ++ [sv])) (s, [])
  svs.foldl (fun (p : State × List SavedCtx) sv =>
    let (t, sv) := p.1.captureCtx sv
    (t, p.2 ++ [sv])) (s, [])

/-! ### The spill (R229, R233) -/

/-- R229: SASZ of a kernel; R233: A of an area. -/
def Kernel.sasz (k : Kernel) : Nat := 0x63000 + 0x2000 * k.banks.length
def SavedCtx.areaSize (k : Kernel) (sv : SavedCtx) : Nat := if sv.shared then k.sasz else 0x5E000
/-- R233: the clocks of an area. -/
def SavedCtx.areaClocks (s : State) (sv : SavedCtx) : Nat :=
  ceilDiv (((s.launch? sv.cc.launch).map fun l => sv.areaSize l.kernel).getD 0x5E000) 128

/-- R254: context save runs in host-assisted mode. -/
def State.saveAssisted (s : State) : Bool := bits s.mgmt.toNat 2 1 == 1

/-- R233: the clocks at which the areas of a column's contexts end, one after another from clock `t`. -/
def State.spillTimes (s : State) : Nat → List SavedCtx → List SavedCtx
  | _, [] => []
  | t, sv :: l =>
    let e := t + sv.areaClocks s
    { sv with spill := some e } :: s.spillTimes e l

/-- R150, R233: the exclusive locks of a spill on the banks that it saves, on each die. -/
def State.spillLocks (s : State) (sv : SavedCtx) : State × SavedCtx :=
  if !sv.shared then (s, sv)
  else
    let banks := ((s.launch? sv.cc.launch).map fun l => l.kernel.banks).getD []
    let (u, s) := s.fresh
    (sv.dies.foldl (fun s d => s.updCore (coreKey d.1 sv.col) fun k => { k with locks := k.locks ++ banks.map fun b => (⟨u, b, true⟩ : LockReq) }) s,
      { sv with lock := u })

/-- The key under which a saved context's posted writes stand. -/
def savedKey (swap i : Nat) : Nat := 2 ^ 20 + swap * 128 + i

/-- The posted writes of one key handed to another. -/
def State.movePosted (s : State) (a b : Nat) : State :=
  { s with posted := s.posted.map fun p => if p.cc = a then { p with cc := b } else p }

/-- A team's saved contexts stored as a swap. -/
def State.addSwap (s : State) (launch team reason : Nat) (ret hold : Bool) (excl : Option Nat) (svs : List SavedCtx) : State :=
  let n := s.nextSwap
  let (s, svs) := svs.foldl (fun (p : State × List SavedCtx) sv =>
    let (t, sv) := p.1.spillLocks sv
    (t, p.2 ++ [sv])) (s, [])
  let s := (List.range svs.length).foldl (fun s i => match svs[i]? with
    | some sv => s.movePosted (ccKey sv.col sv.ctx) (savedKey n i)
    | none => s) s
  { s with
    nextSwap := n + 1
    swaps := SMap.put s.swaps n ⟨launch, team, svs, ret, hold, excl, reason, if ret then s.clock + 1 else 0⟩ }

/-- The column after contexts have left it: its pairs, and the context that it issues next, no sooner than the capture is over. -/
def State.afterFreeze (s : State) (col : Nat) (act : Option Nat) (launches : List Nat) : State :=
  let s := launches.foldl (fun s l => s.freePair col l) s
  match act with
  | some k => s.leftActive col k (s.clock + 64)
  | none => s

/-- The teams among saved contexts, each once. -/
def savedTeams (svs : List SavedCtx) : List (Nat × Nat) := (svs.map fun sv => (sv.cc.launch, sv.cc.team)).eraseDups

/-- R227: the contexts of a column of the launches named (all where none is named) frozen with a reason; R213, R237: who releases them. -/
def State.freezeCol (s : State) (col reason : Nat) (launches : List Nat) : State :=
  let ks := [0, 1, 2, 3].filter fun k =>
    let c := s.getCc (ccKey col k)
    (c.st.runs || c.st == .loading) && (launches.isEmpty || launches.contains c.launch)
  if ks.isEmpty then s
  else
    let act := (s.activeOf col).filter ks.contains
    let xcol := reason == 4 && (s.getCol col).frzinj.getLsbD 62
    let (s, svs) := s.captureCol col ks reason
    let svs := if s.saveAssisted then svs else s.spillTimes (s.clock + 64) svs
    let s := (savedTeams svs).foldl (fun s t =>
      s.addSwap t.1 t.2 reason true (!xcol) (if xcol then some col else none) (svs.filter fun sv => (sv.cc.launch, sv.cc.team) == t)) s
    s.afterFreeze col act (svs.map fun sv => sv.cc.launch)

/-- FREEZE_FRAME (R227, R228): a freeze of a column's contexts, of one launch or of every one. -/
def execFreezeFrame (col reason : Nat) (launch : Option Nat) (s : State) : Host.Outcome State Fault Refusal :=
  .next (if col < 32 && 1 ≤ reason && reason ≤ 5 then s.freezeCol col reason launch.toList else s)

/-! ### The save area's bytes (R230 to R232) -/

/-- The little-endian words of a table. -/
def tableBytes (n size : Nat) (f : Nat → Nat) : List Byte := (List.range n).flatMap fun i => leBytes size (f i)

/-- R231: STATE. -/
def CtxSt.code : CtxSt → Nat
  | .ready => 1 | .active => 2 | .blocked => 3 | .retiring => 4
  | _ => 0

/-- R231: XFER's target, a reel over a doubleword offset, and delay count (DEDUCED, log 14); CSTK, the oldest return point first. -/
def xferWord (cs : ColState) : Nat := match cs.xfer with
  | some x => ((x.target.map fun p => p.reel % 2 ^ 16 * 2 ^ 16 + p.off % 2 ^ 16).getD 0) * 2 ^ 32 + x.delay % 4
  | none => 0
def stackBytes (cs : ColState) : List Byte := cs.call.reverse.flatMap fun x => leBytes 8 (tepcOf { pc := x.1 }).toNat

/-- R231, R307: the header of a saved context's area on a die; PTREC holds a fault taken, or one raised while the context was frozen (R234). -/
def SavedCtx.header (sv : SavedCtx) (d : Nat) (c : CtxDie) : List (Nat × List Byte) :=
  let cs := sv.cc.cs
  let trap := if sv.cc.trap.isEmpty then firstPerDie (oldestFaults sv.cc.faults) else sv.cc.trap
  let r := recOn trap d
  let waits := (c.pend.filter (·.reply)).length + c.recs.length
  [(0, List.replicate 256 0#8), (0, leBytes 2 0x000A), (2, [BitVec.ofNat 8 sv.cc.st.code]), (3, [BitVec.ofNat 8 sv.reason]),
   (4, [BitVec.ofNat 8 sv.col]), (5, [BitVec.ofNat 8 d]), (6, [BitVec.ofNat 8 (sv.dies.filter fun x => x.1 < d).length]),
   (7, [BitVec.ofNat 8 ((if trap.isEmpty then 0 else 1) + (if sv.shared then 2 else 0))]),
   (32, leBytes 8 ((c.pend.filter fun p => !p.reply).length + waits * 2 ^ 16)), (40, leBytes 8 (tepcOf cs).toNat), (48, leBytes 8 (xferWord cs)),
   (64, leBytes 8 sv.frzClk),
   (128, stackBytes cs)] ++
  (if trap.isEmpty then []
   else [(88, leBytes 8 (tstatOf r (srcMask trap) false).toNat ++ leBytes 8 r.r0.toNat ++ leBytes 8 r.r1.toNat ++
              leBytes 8 r.r2.toNat ++ leBytes 8 r.r3.toNat)])

/-- R230, R231: the header part of the duplicate set: what of it belongs to the set, its resume point, its pending transfer and its call stack (DEDUCED, log 14). -/
def dupHeader (cs : ColState) : List (Nat × List Byte) :=
  [(0x45000, List.replicate 256 0#8), (0x45028, leBytes 8 (tepcOf cs).toNat), (0x45030, leBytes 8 (xferWord cs)), (0x45080, stackBytes cs)]

/-- R230: the register files of a set, at an offset; V and E stand at theirs. -/
def WorkSet.image (w : WorkSet) (base v e : Nat) : List (Nat × List Byte) :=
  [(base + 0x200, tableBytes 64 8 fun i => (SMap.get 0#64 w.s i).toNat), (base + 0x400, tableBytes 64 2 fun i => (SMap.get 0#16 w.p i).toNat),
   (base + 0x480, [w.f]), (base + 0x481, List.replicate 127 0#8), (v, tableBytes 640 64 fun i => (SMap.get 0#512 w.v i).toNat)] ++
  (List.range 4).map fun k => (e + 0x1400 * k, envImage (SMap.get Env.launch w.e k))

/-- R230: the registers of a context on a die. -/
def SavedCtx.registers (sv : SavedCtx) (d : Nat) (c : CtxDie) : List (Nat × List Byte) :=
  [(0x500, tableBytes 16 32 fun k => (SMap.get {} c.sh k).bits.toNat),
   (0x700, (sv.opq.filter fun x => x.1 == d).flatMap fun x => leBytes 4 x.2.toNat)] ++
  ((List.range 16).map fun k => (0xB000 + 0x200 * k, (SMap.get {} c.q k).elems.flatMap fun e => vecBytes e.1)) ++
  ((List.range 4).map fun k => (0x19000 + 0x4000 * k, tableBytes 4096 4 fun i => (SMap.get 0#32 (SMap.get {} c.l k).cells i).toNat)) ++
  ((List.range 4).map fun k => (0x29000 + 0x4000 * k, tableBytes 4096 4 fun i => (SMap.get 0#32 (SMap.get {} c.acc k).cells i).toNat)) ++
  (sv.cc.cw.filterMap fun x => x.2.map fun i => (0x39000 + 32 * x.1, leBytes 32 (encode i).toNat)) ++
  c.ws.image 0 0x1000 0x14000 ++ dupHeader sv.cc.dupCs ++ c.dup.image 0x45000 0x46000 0x52000

/-- R230: the blotter. -/
def blotImage : Nat → List Blot → List (Nat × List Byte)
  | _, [] => []
  | i, b :: l => (0x57000 + 80 * i, leBytes 8 (b.va / 64 * 64 + 1) ++ leBytes 8 b.mask.toNat ++ vecBytes b.data) :: blotImage (i + 1) l

/-- R232: a progress record. -/
def progRec (i : Nat) (op : Instr) (da sa : DWord) (done sat mag crc : Nat) (sh : BitVec 256) : Nat × List Byte :=
  (0x5A000 + 96 * i, leBytes 4 crc ++ leBytes 4 mag ++ leBytes 4 sat ++ leBytes 4 done ++ leBytes 8 sa.toNat ++ leBytes 8 da.toNat ++
    leBytes 32 (encode op).toNat ++ leBytes 32 sh.toNat)

/-- R232: MAXACC and CRCACC of a copy. -/
def CopyCmd.magSoFar (c : CopyCmd) : Nat :=
  let t := c.oty
  if c.f.twr && t.isBlock then
    (List.range (c.wrote.length * 8 / (32 * t.width))).foldl (fun a b =>
      maxMag t ((List.range 32).map fun i => elemAt t c.wrote (32 * b + i)) (c.scales.getD (2 * b) (0#8, false)).1.toNat
        (c.scales.getD (2 * b + 1) (0#8, false)).1.toNat a) 0
  else 0
def CopyCmd.crcSoFar (c : CopyCmd) : Nat := crcStep 0xFFFFFFFF (if c.isChk then c.srcData else c.wrote)

/-- R232: an envelope operand record. -/
def evRecord (at_ : Nat) (e : EvOp) : Nat × List Byte :=
  (at_, leBytes 32 (encode e.op).toNat ++ leBytes 4 e.tol.toNat ++ leBytes 4 0 ++ leBytes 8 e.sop.toNat ++ leBytes 2 e.pred.toNat ++
    leBytes 14 0 ++ vecBytes e.va ++ vecBytes e.vb ++ vecBytes e.vc)

/-- A list with its positions. -/
def numbered {α : Type} (l : List α) : List (Nat × α) := (List.range l.length).zip l

/-- R232, R344: SHREC of a copy command: the record that it latched, for SPXGO its decoder configuration in the record form of R142. -/
def CopyCmd.shrec (c : CopyCmd) : BitVec 256 := if c.isSpx then spxRecord c.spx else c.sh

/-- R232: DADDR and SADDR of a matrix and of an envelope operation: MRET and ESAVE write, the others read. Of two operands A stands in SADDR and B in DADDR (DESIGN
CHOICE, log 14: the rule names one source). -/
def MxCmd.places (c : MxCmd) : DWord × DWord :=
  if c.kind == .ret then (c.aaddr, 0#64) else if c.kind.readsA then (c.baddr, c.aaddr) else (0#64, c.baddr)
def EvOp.places (e : EvOp) : DWord × DWord := if (orderClass e.op).2 then (e.addr, 0#64) else (0#64, e.addr)

/-- R232: the records of a die. -/
def SavedCtx.records (sv : SavedCtx) (d : Nat) (c : CtxDie) : List (Nat × List Byte) :=
  ([0, 1, 2, 3].flatMap fun ch => (numbered (sv.copies.filter fun x => x.1 == d && x.2.1 == ch)).map fun x =>
    let c := x.2.2.2
    progRec (16 * ch + x.1) c.op c.daddr c.saddr c.done c.sat c.magSoFar c.crcSoFar c.shrec) ++
  ((sv.xmits.filter fun x => x.1 == d).map fun x => progRec x.2.1 x.2.2.op x.2.2.daddr x.2.2.saddr x.2.2.done 0 0 0 0#256) ++
  ((numbered (sv.mxs.filter fun x => x.1 == d)).map fun x => progRec (160 + x.1) x.2.2.op x.2.2.places.1 x.2.2.places.2 0 0 0 0 0#256) ++
  ((numbered (sv.evs.filter fun x => x.1 == d)).map fun x => progRec (164 + x.1) x.2.2.op x.2.2.places.1 x.2.2.places.2 0 0 0 0 0#256) ++
  ((numbered (sv.evs.filter fun x => x.1 == d)).map fun x => evRecord (0x59800 + 256 * x.1) x.2.2) ++
  ((numbered c.dupEv).map fun x => evRecord (0x59C00 + 256 * x.1) x.2)

/-- R230: the core-shared state. -/
def SavedCtx.sharedImage (sv : SavedCtx) (k : Kernel) (d : Nat) : List (Nat × List Byte) :=
  if !sv.shared then []
  else
    let cells := SMap.get [] sv.spad d
    let image := fun (b : Nat) => (List.range 0x2000).map fun i => SMap.get unlisted cells (b * 0x2000 + i)
    [(0x5E000, tableBytes 256 4 fun i => if i = 0 then 0 else SMap.get 0 (SMap.get [] sv.sems d) i),
     (0x5E400, tableBytes 256 4 fun i => (SMap.get 0#32 (SMap.get [] sv.bfmts d) i).toNat)] ++
    (numbered k.banks).map fun x => (0x63000 + 0x2000 * x.1, image x.2)

/-- R125: the lines of a shared area on a die that take over the poison of the banks that they hold, by their offsets. -/
def SavedCtx.sharedBad (sv : SavedCtx) (k : Kernel) (d : Nat) : List Nat :=
  (numbered k.banks).flatMap fun x => ((SMap.get [] sv.bad d).filter fun l => l / 128 == x.2).map fun l => 0x63000 + 0x2000 * x.1 + l % 128 * 64

/-- R229: where a saved context's area on a die begins; in host-assisted mode, in the region that the host named for its spill (R254). -/
def State.areaAt (s : State) (l : Launch) (sv : SavedCtx) (d : Nat) : Nat :=
  let slot := (sv.cc.team * l.tw + sv.cc.tcol) * l.tc + sv.cc.tctx
  bits ((sv.svb.getD (s.getPart l.part).svbase).toNat) 12 40 * 4096 + l.save.getD 0 + (8 * slot + d) * l.kernel.sasz

/-- R230: the parts of an area that are zero where nothing uses them: operand queue, streams, envelope images, control words, blotter, operand records, progress
records. -/
def areaZero : List (Nat × Nat) :=
  [(0x700, 0x100), (0xB000, 0x2000), (0x14000, 0x5000), (0x39000, 0x4000), (0x52000, 0x5000), (0x57000, 0x3000), (0x5A000, 0x4000)]

/-- R230: the parts of an area of which the spec gives the size and no layout: CSR images, pending replies, slot states, in-flight results, footprints, the
CSR image of the duplicate set, the tag table. Their bytes are free values (DESIGN CHOICE, log 14). -/
def areaFree (shared : Bool) : List (Nat × Nat) :=
  [(0x100, 0x100), (0x800, 0x800), (0xD000, 0x2000), (0xF000, 0x5000), (0x3D000, 0x8000), (0x45100, 0x100), (0x45500, 0xB00), (0x50000, 0x2000)] ++
    if shared then [(0x5E800, 0x4000)] else []

/-- The free parts of an area written. -/
def State.writeFree (s : State) (base : Nat) (shared : Bool) : State :=
  (areaFree shared).foldl (fun (s : State) x =>
    let t : State := { s with freeCtr := s.freeCtr + x.2 }
    t.store (base + x.1) ((List.range x.2).map fun i => Config.areaFree (s.freeCtr + i))) s

/-- R230: a context's areas written. -/
def State.writeAreas (s : State) (l : Launch) (sv : SavedCtx) : State :=
  sv.dies.foldl (fun s x =>
    let base := s.areaAt l sv x.1
    let s := (areaZero.foldl (fun (s : State) z => s.store (base + z.1) (List.replicate z.2 0#8)) s).writeFree base sv.shared
    let s := (sv.header x.1 x.2 ++ sv.registers x.1 x.2 ++ blotImage 0 x.2.blot ++ sv.records x.1 x.2 ++ sv.sharedImage l.kernel x.1).foldl
      (fun s p => s.store (base + p.1) p.2) s
    (sv.sharedBad l.kernel x.1).foldl (fun s o => s.addPoison (base + o) 64) s) s

/-- Whether the replies that a saved context waits for have arrived by a clock. -/
def SavedCtx.replied (sv : SavedCtx) (clk : Nat) : Bool :=
  let here := fun (t : Option Nat) => t.any fun t => t ≤ clk
  sv.dies.all fun x => x.2.pend.all (fun p => !p.reply || here p.due) && x.2.recs.all (fun r => here r.due)

/-- R233: the end of a saved context's spill: its areas written, its locks released. -/
def State.endSpill (s : State) (n i : Nat) (w : Swap) (sv : SavedCtx) : State :=
  let s := match s.launch? sv.cc.launch with
    | some l => s.writeAreas l sv
    | none => s
  let s := if sv.shared then sv.dies.foldl (fun s d => s.updCore (coreKey d.1 sv.col) fun k =>
      { k with locks := k.locks.filter fun r => r.uid != sv.lock }) s
    else s
  { s with swaps := SMap.put s.swaps n { w with ctxs := w.ctxs.set i { sv with spilled := true } } }

/-- Whether a saved context's spill ends now. -/
def SavedCtx.spillDue (sv : SavedCtx) (clk : Nat) : Bool :=
  !sv.spilled && sv.replied clk && match sv.spill with
    | some t => t ≤ clk
    | none => false

/-- Whether an operation of the envelope unit of a saved context still runs. -/
def State.evRuns (s : State) (sv : SavedCtx) : Bool :=
  sv.dies.any fun d => (s.getCore (coreKey d.1 sv.col)).evq.any fun e => e.ck == ctxKey d.1 sv.col sv.ctx

/-- R233: the bank locks of the spills given up, each once its bank is saved: the banks stand last in an area, 64 clocks each. -/
def State.spillBanks (s : State) : State :=
  s.swaps.foldl (fun s w => w.2.ctxs.foldl (fun s sv => match sv.spill, s.launch? w.2.launch with
    | some e, some l =>
      if !sv.shared || sv.spilled then s
      else
        let n := l.kernel.banks.length
        let done := (numbered l.kernel.banks).filterMap fun x => if e ≤ s.clock + 64 * (n - 1 - x.1) then some x.2 else none
        if done.isEmpty then s
        else sv.dies.foldl (fun s d => s.updCore (coreKey d.1 sv.col) fun k =>
          { k with locks := k.locks.filter fun r => !(r.uid == sv.lock && done.contains r.bank) }) s
    | _, _ => s) s) s

/-- SPILL_COMPLETE (R233): the spill of the context that stood at a column context ends, once its replies have arrived. -/
def execSpillComplete (cc : Nat) (s : State) : Host.Outcome State Fault Refusal :=
  .next ((s.swaps.findSome? fun w => (numbered w.2.ctxs).findSome? fun x =>
      if ccKey x.2.col x.2.ctx == cc && x.2.spillDue s.clock && !s.evRuns x.2 then some (w.1, x.1, w.2, x.2) else none).elim s
    fun r => s.endSpill r.1 r.2.1 r.2.2.1 r.2.2.2)

/-- R229, R254: SVBASE as a write leaves it. -/
def svbaseWritten (old v : DWord) : DWord :=
  let sz := bits v.toNat 52 6
  BitVec.ofNat 64 ((if 20 ≤ sz && sz ≤ 40 then sz else bits old.toNat 52 6) * 2 ^ 52 + bits v.toNat 12 40 * 2 ^ 12)

/-- R254: the first spill of a partition that waits for SVBASE: its swap, and its place there. -/
def State.waitingSpill (s : State) (p : Nat) : Option (Nat × Nat × SavedCtx) :=
  (s.swaps.filter fun w => ((s.launch? w.2.launch).map (·.part)) == some p).findSome? fun w =>
    ((numbered w.2.ctxs).find? fun x => x.2.spill.isNone).map fun x => (w.1, x.1, x.2)

/-- R254: a spill that has waited for SVBASE started with the value written for it, behind those that still run on its column. -/
def State.startSpill (s : State) (n i : Nat) (sv : SavedCtx) (v : DWord) : State :=
  let t := s.swaps.foldl (fun t w => w.2.ctxs.foldl (fun t x => if x.col = sv.col && !x.spilled then Nat.max t (x.spill.getD t) else t) t) s.clock
  { s with swaps := s.swaps.map fun w =>
    if w.1 = n then (n, { w.2 with ctxs := w.2.ctxs.set i { sv with spill := some (t + sv.areaClocks s), svb := some v } }) else w }

/-- SVBASE_WRITE (R229, R254): a partition's save region named, at expert level of context save. In hardware mode it is written only while the partition holds no
save block. In host-assisted mode the host writes it once for each spill, and each write starts the first that waits, also one that has waited since before the
mode was changed. -/
def execSvbaseWrite (part : Nat) (byFirmware : Bool) (v : DWord) (s : State) : Host.Outcome State Fault Refusal :=
  .next (if part ≥ 32 then s
    else match if byFirmware then none else s.waitingSpill part with
    | some (n, i, sv) =>
      let x := svbaseWritten (s.getPart part).svbase v
      (s.updPart part fun p => { p with svbase := x }).startSpill n i sv x
    | none =>
    if bits s.mgmt.toNat 3 1 = 0 then s
    else if s.saveAssisted then (if byFirmware then s else s.updPart part fun p => { p with svbase := svbaseWritten p.svbase v })
    else if s.launches.any fun l => l.2.part == part && l.2.save.isSome then s
    else s.updPart part fun p => { p with svbase := svbaseWritten p.svbase v })

/-! ### Restore (R233) -/

/-- Whether a context of a column is free for a team: its bank's spill has ended, and no command of a terminated team runs there still. -/
def State.ctxFree (s : State) (col k : Nat) : Bool :=
  (s.getCc (ccKey col k)).st == .free && !(s.swaps.any fun w => w.2.ctxs.any fun sv => sv.col == col && sv.ctx == k && !sv.spilled) &&
    allDies.all fun d =>
      let c := s.getCore (coreKey d col)
      let ck := ctxKey d col k
      !(c.ch.any fun x => x.2.q.any fun y => y.ck == ck) && !(c.direct.any fun y => y.ck == ck) && !(c.mxq.any fun y => y.ck == ck) &&
        !(c.evq.any fun y => y.ck == ck) && !(s.eng.any fun e => e.2.circ.any fun x => x.2.any fun y => y.ck == ck)

/-- The free contexts of a column. -/
def State.freeCtxs (s : State) (col : Nat) : List Nat := [0, 1, 2, 3].filter (s.ctxFree col)
/-- R246: whether a launch holds, or can take, a reel pair of a column. -/
def State.pairFor (s : State) (col l : Nat) : Bool := (s.getCol col).pairs.contains l || (s.getCol col).pairs.length < 2

/-- The places in the team, ascending, of the columns that a swap left. -/
def Swap.tcols (w : Swap) : List Nat := w.ctxs.foldl (fun l sv => insNat sv.cc.tcol l) []
/-- The contexts of a swap on one of its columns, in ascending context. -/
def Swap.ofTcol (w : Swap) (t : Nat) : List (Nat × SavedCtx) := (numbered w.ctxs).filter fun x => x.2.cc.tcol == t

/-- R237: the contexts of an injected freeze without XCOL resume on the column that they left. -/
def Swap.stays (w : Swap) : Bool := w.reason == 4 && w.excl.isNone

/-- R99, R233: whether a swap can be restored onto columns, one for each column that it left. -/
def State.canRestore (s : State) (w : Swap) (cols : List Nat) : Bool :=
  w.ret && !w.hold && (w.ctxs.all fun sv => sv.spilled && sv.replied s.clock) && cols.length == w.tcols.length && cols.eraseDups.length == cols.length &&
    match s.launch? w.launch with
    | none => false
    | some l => (w.tcols.zip cols).all fun x =>
      x.2 < 32 && (!w.stays || (w.ofTcol x.1).all fun y => y.2.col == x.2) && (s.getPart l.part).cols.getLsbD x.2 && w.excl != some x.2 && s.pairFor x.2 w.launch &&
        (w.ofTcol x.1).length ≤ (s.freeCtxs x.2).length

/-- A blotter entry moved to another column. -/
def Blot.moved (b : Blot) (d col : Nat) : Blot := match window b.va with
  | .spad o => { b with loc := spadLoc d col o }
  | .quad o => { b with loc := spadLoc d (quadPlace col o).1 (quadPlace col o).2 }
  | _ => b

/-- The registers of a saved context on a die as they are loaded: results land after their remaining clocks, replies and records, which have come, at once. -/
def CtxDie.thaw (c : CtxDie) (now t d col ck : Nat) : CtxDie := { c with
  pend := c.pend.map fun p => { p with due := p.due.map fun r => if p.reply then now else t + r, reply := false }
  recs := c.recs.map fun r => { r with due := r.due.map fun _ => now, ctx := ck }
  dupEv := c.dupEv.map fun e => { e with ck := ck }
  blot := c.blot.map fun b => b.moved d col
  late := c.late.map fun b => b.moved d col }

/-- R233: a recorded copy queued again on its channel, with a new identifier. -/
def State.requeueCopy (s : State) (col ck : Nat) (x : Nat × Nat × CopyCmd) : State :=
  let core := coreKey x.1 col
  let c := { x.2.2 with ck := ck, ident := (SMap.get {} (s.getCore core).ch x.2.1).next.toNat }
  let s := s.updChan core x.2.1 fun q => { q with q := q.q ++ [c], next := q.next + 1#32 }
  s.trackCmd core c.uid ck c.fp (banksOfAll col c.dRanges) (banksOfAll col c.sRanges)

/-- A recorded matrix command queued again. -/
def State.requeueMx (s : State) (col ck : Nat) (x : Nat × MxCmd) : State :=
  let core := coreKey x.1 col
  let c := { x.2 with ck := ck }
  let s := s.updCore core fun k => { k with mxq := k.mxq ++ [c] }
  s.trackCmd core c.uid ck c.fp (if c.kind == .ret then banksOfAll col (c.opA.ranges true) else [])
    (banksOfAll col ((if c.kind.readsA then c.opA.ranges false else []) ++ (if c.kind.readsB then c.opB.ranges false else [])))

/-- A recorded envelope operation queued again. -/
def State.requeueEv (s : State) (col ck : Nat) (x : Nat × EvOp) : State :=
  s.updCore (coreKey x.1 col) fun k => { k with evq := k.evq ++ [{ x.2 with ck := ck }], locks := k.locks ++ x.2.locks }

/-- R233: the recorded commands of a context queued again, in record order. -/
def State.requeueAll (s : State) (sv : SavedCtx) (col ctx t : Nat) : State :=
  let ck := fun (d : Nat) => ctxKey d col ctx
  let s := sv.copies.foldl (fun s x => s.requeueCopy col (ck x.1) x) s
  let s := sv.xmits.foldl (fun s x => s.pushDirect (coreKey x.1 col) { x.2.2 with ck := ck x.1, start := t }) s
  let s := sv.mxs.foldl (fun s x => s.requeueMx col (ck x.1) x) s
  let s := sv.evs.foldl (fun s x => s.requeueEv col (ck x.1) x) s
  sv.opq.foldl (fun s x => s.updCore (coreKey x.1 col) fun k => { k with opq := k.opq ++ [(ck x.1, x.2)] }) s

/-- The banks of a core written with a saved image. -/
def State.writeBanks (s : State) (core : Nat) (banks : List Nat) (cells : List (Nat × Byte)) (bad : List Nat) : State :=
  let base := 2 ^ 52 + core * 2 ^ 21
  let in_ := fun loc => base ≤ loc && loc < base + 2 ^ 21 && banks.contains ((loc - base) / 2 ^ 13)
  let s := { s with mem := s.mem.filter fun x => !in_ x.1, poison := s.poison.filter fun l => !in_ (l * 64) }
  let s := cells.foldl (fun s x => s.writeByte (base + x.1) x.2) s
  { s with poison := bad.foldl (fun p l => insNat (base / 64 + l) p) s.poison }

/-- R99, R233: the core-shared state written back; of the semaphores, those that the kernel names. -/
def State.writeShared (s : State) (k : Kernel) (sv : SavedCtx) (col : Nat) : State :=
  if !sv.shared then s
  else sv.dies.foldl (fun s x =>
    let core := coreKey x.1 col
    let sems := SMap.get [] sv.sems x.1
    let s := s.updCore core fun c => { c with
      sem := k.named.foldl (fun m n => SMap.set 0 m n (SMap.get 0 sems n)) c.sem
      bfmt := SMap.get [] sv.bfmts x.1, tags := SMap.get [] sv.tags x.1 }
    s.writeBanks core k.banks (SMap.get [] sv.spad x.1) (SMap.get [] sv.bad x.1)) s

/-- R233, R90: one saved context on a column context; its loads end at clock `t`, and it then takes up the state it held. -/
def State.restoreCtx (s : State) (l : Launch) (n i : Nat) (sv : SavedCtx) (col ctx t : Nat) : State :=
  let cc := ccKey col ctx
  let s := s.writeShared l.kernel sv col
  let s := sv.dies.foldl (fun s x => s.setCd (ctxKey x.1 col ctx) (x.2.thaw s.clock t x.1 col (ctxKey x.1 col ctx))) s
  let st := if sv.cc.st == .retiring then CtxSt.retiring else if sv.cc.st == .blocked then .blocked else .ready
  let sys := sv.cc.trapSys && sv.reason == 5
  let s := s.setCc cc { sv.cc with
    st := .loading, resume := st, holdUntil := t, holdReason := 4, blkSince := s.clock
    trap := if sys then sv.cc.kept else sv.cc.trap, trapSys := !sys && sv.cc.trapSys, kept := if sys then [] else sv.cc.kept }
  let s := s.requeueAll sv col ctx t
  let s := s.movePosted (savedKey n i) cc
  let s := s.eventRecord cc 0x20 (s.home col)
  let s := { { s with clock := t }.startReel cc sv.cc.cs.pc.reel sv.cc.cs.pc.reel with clock := s.clock }
  s.updCol col fun c => { c with pairs := if c.pairs.contains sv.cc.launch then c.pairs else c.pairs ++ [sv.cc.launch] }

/-- The contexts of one column of a swap restored onto a column, one area after another. -/
def State.restoreCol (s : State) (l : Launch) (n col : Nat) : Nat → List (Nat × SavedCtx) → State
  | _, [] => s
  | t, (i, sv) :: rest =>
    let t := t + sv.areaClocks s
    let free := s.freeCtxs col
    let k := if free.contains sv.ctx then sv.ctx else free.headD 0
    (s.restoreCtx l n i sv col k t).restoreCol l n col t rest

/-- The columns of a team as they are after a restore. -/
def movedCols (l : Launch) (team : Nat) (moves : List (Nat × Nat)) : List (Nat × List Nat) :=
  l.teamCols.map fun x => if x.1 = team then (x.1, moves.foldl (fun cs m => cs.set m.1 m.2) x.2) else x

/-- R82, R96: a column of a team that a restore moves: its place in the team, the column that it left and the one that it takes. -/
structure ColMove where
  tcol : Nat
  old : Nat
  new : Nat
  deriving DecidableEq, Repr

/-- The signal of a BAR after its column has moved: that of the core that the column takes. -/
def movedSig (moves : List ColMove) (x : Nat × Nat × Int) : Nat × Nat × Int := match moves.find? fun m => m.old == x.1 % 32 with
  | some m => (x.1 / 32 * 32 + m.new, x.2)
  | none => x

/-- R96: a barrier of a team after columns have moved, as barriers with their keys: the arrivals of a moved column count for the quad on which it stands now. -/
def Barrier.moved (b : Barrier) (key : Nat) (moves : List ColMove) : List (Nat × Barrier) :=
  let left := fun (c : Nat) => moves.any fun m => m.old == c
  if b.scope ≠ 1 then [(key, { b with sigs := b.sigs.map (movedSig moves) })]
  else
    let part := fun (m : ColMove) => (key / 32 * 32 + m.new / 4,
      { b with arrived := b.arrived.filter fun a => a / 4 == m.tcol, sigs := (b.sigs.filter fun x => x.1 % 32 == m.old).map (movedSig moves) })
    ((key, { b with arrived := b.arrived.filter fun a => !moves.any fun m => m.tcol == a / 4, sigs := b.sigs.filter fun x => !left (x.1 % 32) }) ::
      moves.map part).filter fun x => !x.2.arrived.isEmpty

/-- A barrier's arrivals joined to those of the same key. -/
def addBarrier (m : SMap Barrier) (x : Nat × Barrier) : SMap Barrier := match m.find? fun y => y.1 == x.1 with
  | some y => SMap.put m x.1 { y.2 with
      arrived := x.2.arrived.foldl (fun l a => insNat a l) y.2.arrived, sigs := y.2.sigs ++ x.2.sigs, last := Nat.max y.2.last x.2.last }
  | none => SMap.put m x.1 x.2

/-- R96, R233: the barriers of a restored team, and what its moved contexts wait for, by the quads on which they stand now. -/
def State.moveBars (s : State) (launch team : Nat) (moves : List ColMove) : State :=
  let mine := fun (b : Barrier) => b.launch == launch && b.team == team
  let old := s.barriers
  let move := fun (x : Nat × ColCtx) => match x.2.blk with
    | some (.barrier k) =>
      if (old.any fun y => y.1 == k && mine y.2 && y.2.scope == 1) && moves.any fun m => m.tcol == x.2.tcol && m.new == ccCol x.1 then
        { x.2 with blk := some (.barrier (k / 32 * 32 + ccCol x.1 / 4)) }
      else x.2
    | _ => x.2
  { s with
    barriers := old.foldl (fun m x => (if mine x.2 then x.2.moved x.1 moves else [x]).foldl addBarrier m) []
    cc := s.cc.map fun x => (x.1, move x) }

/-- TEAM_RESTORE (R99, R233): the contexts of a swap come back on granted columns. -/
def execTeamRestore (swap : Nat) (cols : List Nat) (s : State) : Host.Outcome State Fault Refusal :=
  .next (match s.swaps.find? fun w => w.1 == swap with
    | none => s
    | some (_, w) => match s.launch? w.launch with
      | none => s
      | some l =>
        if !s.canRestore w cols then s
        else
          let moves := w.tcols.zip cols
          let s := moves.foldl (fun s m => s.restoreCol l swap m.2 s.clock (w.ofTcol m.1)) s
          let now := movedCols l w.team moves
          let s := s.updLaunch w.launch fun l => { l with teamCols := now }
          let s := s.moveBars w.launch w.team (moves.map fun m => ⟨m.1, (((w.ofTcol m.1).head?).map fun x => x.2.col).getD m.2, m.2⟩)
          { s with swaps := SMap.erase s.swaps swap })

/-- R91: an idle column chooses at once, to issue on the next clock. -/
def State.pickIdle (s : State) (col : Nat) : State := if (s.activeOf col).isNone then s.decide col (s.clock + 1) else s

/-- R233, R242: a context whose loads have landed, its reel among them, takes its state; an idle column chooses at once. -/
def State.loaded (s : State) (cc : Nat) : State :=
  let c := s.getCc cc
  let here := ((s.reelBuf (ccCol cc) c.launch c.cs.pc.reel).map (·.arrived)).getD false
  if c.st == .loading && c.holdUntil ≤ s.clock && here then
    (s.updCc cc fun c => { c with st := c.resume }).pickIdle (ccCol cc)
  else s

end Sys2Proof.Machine
end

