-- ==== Sys2Proof/Machine/Context.lean ====
section
/-! DEFINITION. The life of contexts and teams: barriers (R96, R266), swaps (R98, R99), termination (R87, R378), retirement (R90), traps
and system faults (R212, R213, R149), the range unit (R101), and walks and invalidations (R122, R123). -/

namespace Sys2Proof.Machine

/-! ### Barriers (R96) -/

/-- Whether a column context at column `col`, of place `tcol` in its team, lies in a barrier's span (R82). -/
def Barrier.spans (b : Barrier) (key tcol col : Nat) : Bool :=
  if b.scope = 0 then tcol == key % 32 else if b.scope = 1 then col / 4 == key % 32 else true

/-- The participants of a barrier, as arrivals are counted: the team's contexts in its span that are not RETIRING or FREE. -/
def State.participants (s : State) (key : Nat) (b : Barrier) : List Nat :=
  let mine := fun (c : ColCtx) col => c.launch == b.launch && c.team == b.team && c.st != .free && c.st != .retiring && b.spans key c.tcol col
  ((s.cc.filter fun x => mine x.2 (ccCol x.1)).map fun x => x.2.tcol * 4 + x.2.tctx) ++
    s.swaps.flatMap fun w => (w.2.ctxs.filter fun sv => mine sv.cc sv.col).map fun sv => sv.cc.tcol * 4 + sv.cc.tctx

/-- R266: D, the largest HOPS among the members of a group for one another: of this package's entries, and of the other members', which are free values. -/
def State.podHops (s : State) (ms : DWord) : Nat :=
  (List.range 64).foldl (fun m p => if ms.getLsbD p && p != s.pkgNum then Nat.max m (bits (SMap.get 0#64 s.podrt p).toNat 16 4) else m)
    (Config.podHops ms % 16)

/-- R82, R266: the release latency of a barrier. -/
def State.barLatency (s : State) (b : Barrier) : Nat :=
  match b.scope with
  | 0 => 1 | 1 => 6 | 2 => 20 | 3 => 80
  | _ => 200 + 440 * (match (s.launch? b.launch).bind fun l => s.podOf l with
    | some (_, _, ms) => s.podHops ms
    | none => 0)

/-- R266: the other members of a pod barrier's group. -/
def State.barPeers (s : State) (b : Barrier) : List Nat :=
  if b.scope < 4 then [] else ((s.launch? b.launch).map s.podPeers).getD []

/-- R266: the arrival of this package's members told to another member of a group. -/
def State.tellPeer (s : State) (g n team bid p : Nat) : State :=
  match s.route p 0 with
  | some k => s.podEmit k { src := s.pkgNum, dst := p, index := 0, addr := 0, uid := 0, body := .barrier g n team bid }
  | none => s

/-- The arrival of this package's members told to the other members of the group. -/
def State.tellPeers (s : State) (b : Barrier) : State :=
  match (s.launch? b.launch).bind fun l => s.podOf l with
  | some (g, n, _) => (s.barPeers b).foldl (fun s p => s.tellPeer g n b.team b.bid p) s
  | none => s

/-- R196: whether an access that the ar FENCE before a context's BAR orders is still to be performed on a die, or at .pod to be acknowledged. -/
def State.barOpenDie (s : State) (scope ck : Nat) : Bool :=
  ((s.getCd ck).openReads.any fun r => r.2.1 != 2) || (s.openWrites ck).any (fun p => p.kind != 2) || (scope == 4 && !(s.unacked ck false).isEmpty) ||
    !(s.openSpad ck).isEmpty

/-- R196: whether such an access of an arrived context is still to be performed: its arrival does not count until then. -/
def State.barOpen (s : State) (key scope : Nat) : Bool :=
  s.cc.any fun x => x.2.blk == some (.barrier key) && (s.liveOf x.1).any fun d => s.barOpenDie scope (ccCk d x.1)

/-- R96, R266: whether every participant of this package has arrived. A package none of whose contexts takes part any more is complete once another
member of the group has arrived. -/
def State.barComplete (s : State) (key : Nat) (b : Barrier) : Bool :=
  (!b.arrived.isEmpty || (!b.remote.isEmpty && ((s.launch? b.launch).map fun l => Nat.blt b.team l.nextTeam).getD false)) &&
    (s.participants key b).all b.arrived.contains && !s.barOpen key b.scope

/-- R96, R266: a barrier whose set is complete at the end of a clock is given the clock of its release, counted from the last arrival. -/
def State.barCheck (s : State) (key : Nat) : State :=
  match (s.barriers.find? fun x => x.1 == key).map Prod.snd with
  | none => s
  | some b =>
    let told := b.remote.contains s.pkgNum
    if b.due.isSome || (!told && !s.barComplete key b) then s
    else
      let s := if told then s else s.tellPeers b
      let b := if told then b else { b with remote := insNat s.pkgNum b.remote, last := Nat.max b.last s.clock }
      let b := if (s.barPeers b).all b.remote.contains then { b with due := some (Nat.max s.clock (b.last + s.barLatency b)) } else b
      { s with barriers := SMap.put s.barriers key b }

/-- A context that waits at a barrier let go. -/
def ColCtx.letGo (key : Nat) (c : ColCtx) : ColCtx :=
  if c.blk = some (.barrier key) then { c with
    st := if c.st == .blocked then .ready else c.st, resume := if c.resume == .blocked then .ready else c.resume, blk := none }
  else c

/-- BARRIER_RELEASE (R96): every arrived context becomes READY, a saved one in its save area, and the BARs signal. -/
def execBarrierRelease (bar : Nat) (s : State) : Host.Outcome State Fault Refusal :=
  .next (match (s.barriers.find? fun x => x.1 == bar).map Prod.snd with
    | none => s
    | some b =>
      if !(b.due.any fun t => t ≤ s.clock) then s
      else
        let cols := ((s.cc.filter fun x => x.2.blk == some (.barrier bar) && x.2.st == .blocked).map fun x => ccCol x.1).eraseDups
        let s : State := { s with
          barriers := SMap.erase s.barriers bar
          cc := s.cc.map fun x => (x.1, x.2.letGo bar)
          swaps := s.swaps.map fun w => (w.1, { w.2 with ctxs := w.2.ctxs.map fun sv => { sv with cc := sv.cc.letGo bar } }) }
        let s := b.sigs.foldl (fun s x => s.teamSignal b.launch x.1 x.2.1 x.2.2) s
        cols.foldl (fun s c => s.pickIdle c) s)

/-! ### Blocking conditions (R90, R92) -/

/-- Whether the next iteration of a context still meets a blocking condition. -/
def State.stillBlocked (s : State) (col k : Nat) : Bool :=
  let (a, t) := s.tryIter col k
  match a.verdict t with
  | .block _ => true
  | _ => false

/-- The contexts whose conditions decide for a BLOCKED context: itself; those of its quad in a quad-synchronous launch (R168). -/
def State.blockedWith (s : State) (cc : Nat) : List (Nat × Nat) :=
  let l := (s.getCc cc).launch
  if ((s.launch? l).map (·.qsync)).getD false then
    (s.quadCols (ccCol cc) l).flatMap fun c => ([0, 1, 2, 3].filter fun k =>
      (s.getCc (ccKey c k)).launch == l && (s.getCc (ccKey c k)).st == .blocked).map fun k => (c, k)
  else [(ccCol cc, cc % 4)]

/-- BLOCKING_CONDITION_CLEARS (R90): a BLOCKED context whose blocking condition no longer holds becomes READY. -/
def execBlockingConditionClears (cc : Nat) (s : State) : Host.Outcome State Fault Refusal :=
  .next (
    let c := s.getCc cc
    let own := match c.blk with
      | some (.barrier _) => false
      | some _ => true
      | none => false
    if cc ≥ 128 || c.st != .blocked || !own || !c.trap.isEmpty then s
    else if (s.blockedWith cc).any fun x => s.stillBlocked x.1 x.2 then s
    else (s.updCc cc fun c => { c with st := .ready, blk := none }).pickIdle (ccCol cc))

/-! ### The end of a launch's contexts (R239, R245) -/

/-- R239, R245: a launch has no context that is not FREE and no team still to start. -/
def State.launchIdle (s : State) (n : Nat) (l : Launch) : Bool :=
  (l.dropped || l.nextTeam ≥ l.teams) && !(s.cc.any fun x => x.2.launch == n && x.2.st != .free) && !(s.swaps.any fun w => w.2.launch == n)

/-- R239, R245: a CLOSING queue whose launches have no context left becomes CLOSED. -/
def State.closeQueues (s : State) : State :=
  { s with queues := s.queues.map fun q =>
    if q.2.st == .closing && !(s.launches.any fun l => l.2.queue == q.1 && !s.launchIdle l.1 l.2) then (q.1, { q.2 with st := .closed }) else q }

/-- R229, R246: what a launch gives back with its last context: its reel pairs are freed as its contexts leave; its save block here. -/
def State.freeSave (s : State) (n : Nat) : State :=
  match s.launch? n with
  | some l => if s.launchIdle n l then s.updLaunch n fun l => { l with save := none } else s
  | none => s

/-! ### Termination (R87, R378) -/

/-- R378, R142: the copies of a freed context on a channel: those not begun are removed. A gather that has begun runs on where the offsets that it lacks stand
in the operand queue, and else ends, since they are discarded (DEDUCED, log 95); an SPXGO's further offsets are discarded. -/
def State.killChan (s : State) (core ck ch : Nat) : State :=
  let (_, s) := s.drainChan core ck ch
  match s.copyHead core ch with
  | some c =>
    if c.ck != ck then s
    else if c.isSpx then s.setHead core ch { c with offs := [] }
    else if c.f.gath then
      let lacks := c.n - c.elem - (if c.f.trn then c.held.length else 0) - c.taken.length
      let offs := (s.offsetsOf ck).take lacks
      if offs.length < lacks then s.copyEnd core ch c false else s.setHead core ch { c with taken := c.taken ++ offs }
    else s
  | none => s

/-- R378: a freed context's transfers on the direct path that have not begun removed; a collective's place there stays while its member runs on. -/
def State.killDirect (s : State) (core ck : Nat) : State :=
  let runs := fun (x : Xmit) => match x.coll with
    | some (k, _) => s.colls.any fun c => c.1 == k
    | none => x.due.isSome
  let l := s.timeXmits .cp 12 true ((s.getCore core).direct.filter fun x => x.ck != ck || runs x)
  s.updCore core fun k => { k with direct := l }

/-- R164, R378: a freed context's circuits of an engine, and its requests on the way. -/
def State.killEng (s : State) (ck e : Nat) : State :=
  s.updEng e fun g => { g with
    reqs := g.reqs.filter fun r => r.ck != ck
    circ := g.circ.map fun x => (x.1, x.2.map fun c =>
      if c.ck = ck && c.coll.isNone then
        { c with xs := c.xs.filter fun y => y.due.isSome, freeAt := some (c.freeAt.getD (s.clock + 1)) }
      else c) }

/-- R378: a freed context's matrix commands: a running one completes, its latch and tile discarded; the others are abandoned. -/
def State.killMx (s : State) (core ck : Nat) : State :=
  let k := s.getCore core
  let runs := fun (c : MxCmd) => c.due.isSome && k.pause.isNone
  let s := if k.pause.isSome && (k.mxq.head?.any fun c => c.ck == ck) then s.updCore core fun k => { k with pause := none } else s
  let s := (k.mxq.filter fun c => c.ck == ck && !runs c).foldl (fun s c => (s.mxPop core c).dropPod c.uid) s
  s.updCore core fun k => { k with mxq := k.mxq.map fun c => if c.ck = ck then { c with lost := true } else c }

/-- R378: a freed context's envelope operations: a running one completes, its result discarded; the others are abandoned. -/
def State.killEv (s : State) (core ck : Nat) : State :=
  (s.evAbandon core ck).updCore core fun k => { k with evq := k.evq.map fun e =>
    if e.ck = ck then { e with res := none, enan := false, image := [], bad := none } else e }

/-- R378: what a freed context leaves on a die: what its running commands still need. -/
def CtxDie.afterKill (c : CtxDie) : CtxDie := { trbase := c.trbase, acc := c.acc, prfctl := c.prfctl }

/-- R244, R378: whether the atomic whose result has a number is still to be performed: in a merge window, or on its way. -/
def State.amoOpen (s : State) (u : Nat) : Bool :=
  let us := u :: ((s.die.flatMap fun d => d.2.split).filter fun x => x.2.contains u).map Prod.fst
  (s.die.any fun d => d.2.merges.any fun m => m.ops.any fun o => o.1 == u) || (s.podOut.any fun m => us.contains m.2.uid) ||
    s.podIn.any fun x => x.2.2.src == s.pkgNum && us.contains x.2.2.uid && (bodyBytes x.2.2.body).isSome

/-- R244, R378: the atomics of a freed context that are still to be performed noted for its launch, whose completion signal waits for them. -/
def State.amoKept (s : State) (c : CtxDie) (launch : Nat) : State :=
  { s with amoLeft := s.amoLeft ++ (c.pend.filter fun p => p.due.isNone && s.amoOpen p.uid).map fun p => (p.uid, launch) }

/-- R378 on one die; a store that a splice has released is performed. -/
def State.killDie (s : State) (col k d : Nat) : State :=
  let core := coreKey d col
  let ck := ctxKey d col k
  let s := s.lateStores ck
  let s := s.amoKept (s.getCd ck) (s.getCc (ckCc ck)).launch
  let s := [0, 1, 2, 3].foldl (fun s ch => s.killChan core ck ch) s
  let s := s.updCore core fun c => { c with opq := c.opq.filter fun x => x.1 != ck }
  let s := (coreEngs d col).foldl (fun s e => s.killEng ck e.1) (s.killDirect core ck)
  ((s.killMx core ck).killEv core ck).updCd ck CtxDie.afterKill

/-- R90, R378: a context of a terminated team FREE at once. -/
def State.killCtx (s : State) (cc : Nat) : State :=
  let c := s.getCc cc
  let ds := match s.launch? c.launch with
    | some l => allDies.filter fun d => bits l.live d 1 == 1
    | none => []
  let s := ds.foldl (fun s d => s.killDie (ccCol cc) (cc % 4) d) s
  let s := (s.setCc cc { launch := c.launch }).freePair (ccCol cc) c.launch
  if c.st == .active then s.leftActive (ccCol cc) (cc % 4) (s.clock + 1) else s

/-- R378: whether a recorded copy had begun; and a recorded transfer, a collective's where that runs on. -/
def CopyCmd.begun (c : CopyCmd) : Bool := Nat.blt 0 c.least
def State.xmitBegun (s : State) (x : Xmit) : Bool := match x.coll with
  | some (k, _) => (s.coll? k).any fun c => c.members.any fun m => m.orphan.isSome
  | none => Nat.blt 0 x.done

/-- R378: the offsets that a recorded gather which has begun still lacks, from those recorded with its context on its die; none where they do not suffice
(DEDUCED, log 95). -/
def gatherOn (opq : List (Nat × Word)) (x : Nat × Nat × CopyCmd) : Option (Nat × Nat × CopyCmd) × List (Nat × Word) :=
  if !x.2.2.f.gath then (some x, opq)
  else
    let n := x.2.2.n - x.2.2.elem
    let mine := (opq.filter fun o => o.1 == x.1).map Prod.snd
    (if mine.length < n then none else some (x.1, x.2.1, { x.2.2 with taken := mine.take n }),
      (mine.drop n).map (fun o => (x.1, o)) ++ opq.filter fun o => o.1 != x.1)

/-- R378: the recorded commands of a terminated team's context that had begun moving data run on, under a key of their own, and an SPXGO that had, whose further
offsets are discarded, ends with its signal. -/
def State.runOn (s : State) (n i launch : Nat) (sv : SavedCtx) : State :=
  let oc := orphanCc n i (ccKey sv.col sv.ctx)
  let (spx, cps) := (sv.copies.filter fun x => x.2.2.begun).partition fun x => x.2.2.isSpx
  let s := spx.foldl (fun s x => s.cmdSignal x.2.2.uid (coreKey x.1 sv.col) x.2.2.sigSem x.2.2.sigInc) s
  let copies := (cps.foldl (fun (p : List (Nat × Nat × CopyCmd) × List (Nat × Word)) x =>
    let (y, q) := gatherOn p.2 x
    (p.1 ++ y.toList, q)) ([], sv.opq)).1
  let xmits := sv.xmits.filter fun x => s.xmitBegun x.2.2
  if copies.isEmpty && xmits.isEmpty && !(s.colls.any fun x => x.2.members.any fun m => m.orphan == some (ccCk m.die oc)) then s
  else
    let s := sv.dies.foldl (fun s x => s.setCd (ccCk x.1 oc) x.2.afterKill) (s.setCc oc { launch := launch })
    let s := copies.foldl (fun s x => s.requeueCopy sv.col (ccCk x.1 oc) x) s
    xmits.foldl (fun s x => s.pushDirect (coreKey x.1 sv.col) { x.2.2 with ck := ccCk x.1 oc, start := s.clock }) s

/-- R87, R378: a swapped team discarded; a store of it that a splice has released is performed, but for one to a scratchpad that it has left. -/
def State.dropSwap (s : State) (n : Nat) (w : Swap) : State :=
  let s := w.ctxs.foldl (fun s sv => sv.dies.foldl (fun s x => ((x.2.late.filter fun b => !isSpad b.loc).foldl State.performBlot s).amoKept x.2 w.launch) s) s
  let s := (numbered w.ctxs).foldl (fun s x => s.runOn n x.1 w.launch x.2) s
  let s := w.ctxs.foldl (fun s sv => sv.dies.foldl (fun s d => s.updCore (coreKey d.1 sv.col) fun k =>
    { k with locks := k.locks.filter fun r => !(sv.shared && r.uid == sv.lock) }) s) s
  { s with swaps := SMap.erase s.swaps n }

/-- R378: the key under which a member of a collective runs on after its team's end: its context's, or that of what runs on for a swapped context. -/
def State.orphanKey (s : State) (c : Coll) (m : CollMember) : Option Nat := match s.memberCk c m with
  | some ck => some ck
  | none => s.swaps.findSome? fun w => if w.2.launch = c.launch && w.2.team = c.team then
      (numbered w.2.ctxs).findSome? fun x => if x.2.cc.tcol = m.tcol && x.2.cc.tctx = m.tctx then
        some (ccCk m.die (orphanCc w.1 x.1 (ccKey x.2.col x.2.ctx))) else none
    else none

/-- R378: the collectives of a team that ends: one that has begun, of which every member of this package has been admitted, runs on; else circuits, buffers and
staging areas are released. -/
def State.killColls (s : State) (launch team : Nat) : State :=
  let mineOf := fun (x : Nat × Coll) => x.2.launch == launch && x.2.team == team
  let begun := fun (c : Coll) => ((s.launch? c.launch).map fun l => c.admitted l.ownMembers).getD false
  let keep := fun (x : Nat × Coll) =>
    if mineOf x && begun x.2 then (x.1, { x.2 with members := x.2.members.map fun m => if m.ext then m else { m with orphan := s.orphanKey x.2 m } }) else x
  let s : State := { s with colls := s.colls.map keep }
  let runs := fun (x : Nat × Coll) => x.2.members.any fun m => m.orphan.isSome
  let mine := s.colls.filter fun x => mineOf x && !runs x
  let s := mine.foldl (fun s x => x.2.members.foldl (fun s m => if m.ext || m.complete then s else s.releaseMember x.1 m) s) s
  { s with colls := s.colls.filter fun x => !mineOf x || runs x }

/-- TEAM_TERMINATION (R87, R378): a team terminated: its contexts FREE, its launch's completion signal marked with the error flag. -/
def State.terminateTeam (s : State) (launch team : Nat) : State :=
  let s := s.killColls launch team
  let s := (s.cc.filter fun x => x.2.launch == launch && x.2.team == team && x.2.st != .free).foldl (fun s x => s.killCtx x.1) s
  let s := (s.swaps.filter fun w => w.2.launch == launch && w.2.team == team).foldl (fun s w => s.dropSwap w.1 w.2) s
  let s : State := { s with barriers := s.barriers.filter fun x => !(x.2.launch == launch && x.2.team == team) }
  ((s.updLaunch launch fun l => { l with error := true, trigTeams := insNat team l.trigTeams }).freeSave launch).closeQueues

/-- R87: every team of a launch terminated, and those not started dropped. -/
def State.terminateLaunch (s : State) (launch : Nat) : State :=
  match s.launch? launch with
  | none => s
  | some l =>
    let s := (List.range l.teams).foldl (fun s t => s.terminateTeam launch t) s
    ((s.updLaunch launch fun l => { l with error := true, dropped := l.dropped || l.nextTeam < l.teams }).freeSave launch).closeQueues

/-! ### Swaps (R98, R99) -/

/-- R97: WAITSWAP. -/
def State.waitswap (s : State) (launch : Nat) : Nat :=
  Nat.max 1024 (((s.launch? launch).map fun l => (s.getPart l.part).wswap.toNat).getD 0)

/-- The column contexts of a team. -/
def State.teamCcs (s : State) (launch team : Nat) : List Nat :=
  (s.cc.filter fun x => x.2.launch == launch && x.2.team == team && x.2.st != .free).map Prod.fst

/-- R98: a copy channel of one of these contexts' cores holds a command of theirs. -/
def State.teamCopies (s : State) (ccs : List Nat) : Bool :=
  ccs.any fun cc => (s.liveOf cc).any fun d =>
    (s.getCore (coreKey d (ccCol cc))).ch.any fun x => x.2.q.any fun c => c.ck == ccCk d cc

/-- R98: the arbiter holds a ready queue eligible for a column: a READY context there, a team that waits to start there, or one that
waits to return. -/
def State.wanted (s : State) (col : Nat) : Bool :=
  !(s.readyCtxs col).isEmpty ||
    (s.queues.any fun q => match q.2.fe with
      | .launching n => ((s.launch? n).map fun l => l.cols.contains col).getD false
      | _ => false) ||
    s.swaps.any fun w => w.2.ret && !w.2.hold && ((s.launch? w.2.launch).map fun l => (s.getPart l.part).cols.getLsbD col).getD false

/-- R98: whether a team is swap-eligible; a context of it that is frozen is not BLOCKED. -/
def State.swapEligible (s : State) (launch team : Nat) : Bool :=
  let ccs := s.teamCcs launch team
  let run := ccs.filter fun cc => (s.getCc cc).st != .retiring
  !run.isEmpty && !(s.swaps.any fun w => w.2.launch == launch && w.2.team == team && w.2.ctxs.any fun sv => sv.cc.st != .retiring) &&
    (run.all fun cc => (s.getCc cc).st == .blocked && s.clock - (s.getCc cc).blkSince > s.waitswap launch && (s.getCc cc).trap.isEmpty) &&
    !s.teamCopies ccs && ccs.any fun cc => s.wanted (ccCol cc)

/-- TEAM_SWAP_OUT (R98): an eligible team is frozen with reason 3 and leaves its columns. -/
def execTeamSwapOut (launch team : Nat) (s : State) : Host.Outcome State Fault Refusal :=
  .next (if !s.swapEligible launch team then s
    else
      let ccs := s.teamCcs launch team
      let cols := (ccs.map ccCol).eraseDups
      let (s, svs) := cols.foldl (fun (p : State × List SavedCtx) col =>
        let (t, l) := p.1.captureCol col ((ccs.filter fun cc => ccCol cc == col).map (· % 4)) 3
        let l := if t.saveAssisted then l else t.spillTimes (t.clock + 64) l
        (t, p.2 ++ l)) (s, [])
      let s := s.addSwap launch team 3 false false none svs
      cols.foldl (fun s c => (s.freePair c launch).updCol c fun x => { x with fromClk := Nat.max x.fromClk (s.clock + 64) }) s)

/-- R99: the state in which a saved context's next iteration is tried: its registers and column state where they were, with the counts
and the reel that it would see. -/
def State.asSaved (s : State) (sv : SavedCtx) : State :=
  let s := sv.dies.foldl (fun s x => s.setCd (ctxKey x.1 sv.col sv.ctx) x.2) s
  let s := match s.sharedHolder sv.cc.launch sv.col with
    | some h => h.sems.foldl (fun (s : State) (x : Nat × SMap Nat) => s.updCore (coreKey x.1 sv.col) fun k => { k with sem := x.2 }) s
    | none => s
  let s := s.updCol sv.col fun c => { c with bufs := sv.buf.toList ++ c.bufs }
  s.setCc (ccKey sv.col sv.ctx) sv.cc

/-- R99: whether a saved context's blocking condition no longer holds. A context frozen while it was not blocked (R282) has none. -/
def State.savedClear (s : State) (sv : SavedCtx) : Bool :=
  sv.cc.st == .ready || sv.cc.st == .active || (sv.cc.st == .retiring && sv.reason == 2) || (sv.cc.st == .blocked && match sv.cc.blk with
    | some (.barrier _) => false
    | some _ => !(s.asSaved sv).stillBlocked sv.col sv.ctx
    | none => false)

/-- TEAM_RETURN (R99): a swapped team's return condition holds; or the contexts of a freeze are released (R237). -/
def execTeamReturn (swap : Nat) (s : State) : Host.Outcome State Fault Refusal :=
  .next (match s.swaps.find? fun w => w.1 == swap with
    | none => s
    | some (_, w) =>
      if w.hold then (if w.reason = 5 then s else { s with swaps := SMap.put s.swaps swap { w with hold := false } })
      else if !w.ret && w.ctxs.any s.savedClear then { s with swaps := SMap.put s.swaps swap { w with ret := true, turn := s.clock + 1 } }
      else s)

/-- R99: the signals of a saved context's replies that have arrived, given. -/
def State.savedSignal (s : State) (n i : Nat) (sv : SavedCtx) : State :=
  let here := fun (p : Pend) => p.reply && p.sigSem != 0 && p.due.any fun t => t ≤ s.clock
  sv.dies.foldl (fun s x =>
    let s := (x.2.pend.filter here).foldl (fun s p => s.teamSignal sv.cc.launch (coreKey x.1 sv.col) p.sigSem p.sigInc) s
    let zero := fun (c : SavedCtx) => { c with dies := c.dies.map fun y =>
      if y.1 = x.1 then (y.1, { y.2 with pend := y.2.pend.map fun p => if here p then { p with sigSem := 0 } else p }) else y }
    { s with swaps := s.swaps.map fun w => if w.1 = n then (w.1, { w.2 with ctxs := w.2.ctxs.modify i zero }) else w }) s
def State.savedSignals (s : State) : State :=
  s.swaps.foldl (fun s w => (numbered w.2.ctxs).foldl (fun s x => s.savedSignal w.1 x.1 x.2) s) s

/-! ### Retirement (R90) -/

/-- R164: the circuits that a RETIRING context holds are released once their transfers are done. -/
def State.retireCircs (s : State) (ck : Nat) : State :=
  (coreEngs (ckDie ck) (ckCol ck)).foldl (fun s e => s.updEng e.1 fun g => { g with circ := g.circ.map fun x => (x.1, x.2.map fun c =>
    if c.ck = ck && c.coll.isNone && c.freeAt.isNone then { c with freeAt := some (s.clock + 1) } else c) }) s

/-- Whether something that a context issued on a die has still to complete. -/
def State.busyDie (s : State) (ck : Nat) : Bool :=
  let k := s.getCore (ckCore ck)
  let c := s.getCd ck
  !c.pend.isEmpty || !c.recs.isEmpty || !c.blot.isEmpty || !c.late.isEmpty || (k.ch.any fun x => x.2.q.any fun y => y.ck == ck) ||
    (k.direct.any fun x => x.ck == ck) || (k.mxq.any fun x => x.ck == ck) || (k.evq.any fun x => x.ck == ck) ||
    (k.sigs.any fun x => x.ck == ck) || (k.csrw.any fun x => x.ctx == ckCtx ck) || (k.blat.any fun x => x.ck == ck) || (k.tagPend.any fun x => x.2.1 == ck) ||
    (coreEngs (ckDie ck) (ckCol ck)).any fun e => (s.getEng e.1).reqs.any (fun r => r.ck == ck) ||
      (s.getEng e.1).circ.any fun x => x.2.any fun y => y.ck == ck

/-- R378: what ran on for swapped contexts after their team's end forgotten once nothing of it is left. -/
def State.sweepOrphans (s : State) : State :=
  s.cc.foldl (fun s x =>
    let left := (allDies.any fun d => s.busyDie (ccCk d x.1)) || (s.colls.any fun c => c.2.members.any fun m => m.orphan == some (ccCk m.die x.1) && !m.complete)
    if x.1 < 2 ^ 40 || left then s
    else { s with cc := SMap.erase s.cc x.1, cd := s.cd.filter fun y => y.1 < 2048 || ckCc y.1 != x.1 }) s

/-- Whether a column context has completed all that it issued. -/
def State.retired (s : State) (cc : Nat) : Bool :=
  !((s.liveOf cc).any fun d => s.busyDie (ccCk d cc)) && !(s.posted.any fun p => p.cc == cc) && (s.getCc cc).trap.isEmpty &&
    !(s.colls.any fun x => x.2.members.any fun m => !m.ext && !m.complete &&
      s.teamCtx x.2.launch x.2.team m.tcol m.tctx == some cc)

/-- CONTEXT_RETIRE_COMPLETE (R90): a RETIRING context becomes FREE once all it issued has completed. -/
def execContextRetireComplete (cc : Nat) (s : State) : Host.Outcome State Fault Refusal :=
  .next (
    let c := s.getCc cc
    if cc ≥ 128 || c.st != .retiring then s
    else
      let s := (s.liveOf cc).foldl (fun s d => s.retireCircs (ccCk d cc)) s
      if !s.retired cc then s
      else
        let s := (s.liveOf cc).foldl (fun s d =>
          let ck := ccCk d cc
          (s.updCore (ckCore ck) fun k => { k with opq := k.opq.filter fun x => x.1 != ck }).updCd ck fun c => { prfctl := c.prfctl }) s
        ((s.setCc cc {}).freePair (ccCol cc) c.launch).freeSave c.launch |>.closeQueues)

/-- R193, R198: the trigger of a context's HALT is held by a fence of its iteration, or by the flush that one makes. -/
def State.trigHeld (s : State) (cc : Nat) : Bool :=
  let c := s.getCc cc
  (s.liveOf cc).any fun d => s.heldFor (ccCk d cc) (s.clock + 1) false true ||
    (s.unacked (ccCk d cc) c.flushFull).any fun p => p.issued < c.flush

/-- R100: whether a team has triggered. -/
def State.teamTriggered (s : State) (n : Nat) (l : Launch) (t : Nat) : Bool :=
  l.trigTeams.contains t || (t < l.nextTeam &&
    (s.cc.all fun x => x.2.launch != n || x.2.team != t || x.2.st == .free || (x.2.st == .retiring && !s.trigHeld x.1) || x.2.trig) &&
    s.swaps.all fun w => w.2.launch != n || w.2.team != t || w.2.ctxs.all fun sv => sv.cc.st == .retiring || sv.cc.trig)
/-- R100: whether a launch has triggered. -/
def State.triggered (s : State) (n : Nat) : Bool :=
  match s.launch? n with
  | some l => (List.range l.teams).all (s.teamTriggered n l)
  | none => true

/-! ### Traps and system faults (R212, R213) -/

/-- TRAP_ENTRY (R212): a fault that a context has taken is entered once its rollback need not wait; after a restore, before any issue. -/
def execTrapEntry (cc : Nat) (s : State) : Host.Outcome State Fault Refusal :=
  .next (if cc ≥ 128 || (s.getCc cc).st == .free || (s.getCc cc).st == .loading then s else s.tryTrap cc)

/-- R254: error recovery runs in host-assisted mode; at expert level. -/
def State.recovAssisted (s : State) : Bool := bits s.mgmt.toNat 8 1 == 1
def State.recovExpert (s : State) : Bool := bits s.mgmt.toNat 9 1 == 1

/-- The swaps of a column's freeze at a clock, with reason 5. -/
def State.frozenWith (s : State) (col clk : Nat) : List (Nat × Swap) :=
  s.swaps.filter fun w => w.2.reason == 5 && w.2.ctxs.any fun sv => sv.col == col && sv.frzClk == clk

/-- R213: the teams of a freeze released. -/
def State.releaseFrozen (s : State) (col clk : Nat) : State :=
  (s.frozenWith col clk).foldl (fun s w => { s with swaps := SMap.put s.swaps w.1 { w.2 with hold := false } }) s

/-- R87, R213: whether a system fault terminates the team without a freeze: an access to a quarantined die. -/
def quarantineFault (recs : List (Nat × FRec)) : Bool := recs.any fun x => x.2.code == 9

/-- R213: the record of a system fault in the save-area header of its context, at once. -/
def State.recordFault (s : State) (col : Nat) : State :=
  (s.frozenWith col s.clock).foldl (fun s w => w.2.ctxs.foldl (fun s sv => match s.launch? w.2.launch with
    | some l =>
      if sv.cc.trapSys then sv.dies.foldl (fun s x => (sv.header x.1 x.2).foldl (fun s p => s.store (s.areaAt l sv x.1 + p.1) p.2) s) s else s
    | none => s) s) s

/-- SYSTEM_FAULT_HANDLING (R213): the context rolls back, its column is frozen with reason 5 and the record is passed on. In hardware
mode firmware then terminates the team and releases the others; in host-assisted mode the host chooses. -/
def execSystemFaultHandling (cc : Nat) (s : State) : Host.Outcome State Fault Refusal :=
  .next (
    let c := s.getCc cc
    if cc ≥ 128 || c.trap.isEmpty || !c.trapSys || !c.st.runs || s.mustWait cc then s
    else
      let lo := ((c.trap.map Prod.fst).min?).getD (s.home (ccCol cc))
      let s := (s.eventRecord cc ((recOf c.trap lo).code) lo).rollback cc
      let s : State := { s with events := s.events ++ [.systemFault cc c.trap] }
      if quarantineFault c.trap then s.terminateTeam c.launch c.team
      else
        let s := s.freezeCol (ccCol cc) 5 []
        let s := s.recordFault (ccCol cc)
        if s.recovAssisted then s else (s.terminateTeam c.launch c.team).releaseFrozen (ccCol cc) s.clock)

/-- HOST_RECOVERY_CHOICE (R213, R254): in host-assisted mode the host resumes the context that raised a system fault, or has its team
terminated; the others of its column's freeze are released. -/
def execHostRecoveryChoice (cc : Nat) (resume : Bool) (s : State) : Host.Outcome State Fault Refusal :=
  .next (
    let sv? := s.swaps.findSome? fun w =>
      if w.2.reason = 5 && w.2.hold then (w.2.ctxs.find? fun sv => sv.cc.trapSys && ccKey sv.col sv.ctx == cc).map fun sv => (w.2, sv) else none
    match sv? with
    | none => s
    | some (w, sv) =>
      let s := if resume then s else s.terminateTeam w.launch w.team
      s.releaseFrozen sv.col sv.frzClk)

/-! ### Matrix faults (R149) -/

/-- R149: a matrix command abandoned: the command ends, and its team is terminated. -/
def State.mxAbandon (s : State) (core : Nat) (ck : Nat) : State :=
  let c := s.getCc (ckCc ck)
  let s := s.mxAbort core
  if ckCtx ck < 4 then s.terminateTeam c.launch c.team else s

/-- R149, R333: whether a fault pauses the engine: one of translation, and one of permission at a write of MRET. -/
def MxCmd.pauses (c : MxCmd) (code : Nat) : Bool := code == 4 || (code == 5 && c.kind == .ret)

/-- MATRIX_FAULT_PAUSE (R149, R333): a fault at an operand fetch or at a write of MRET. One that pauses the engine does so, and unless the host services it,
firmware abandons the command. Any other ends the command without its results, and its context takes it as a fault of an engine access, poison as a system
fault (R213; DEDUCED, log 30). -/
def execMatrixFaultPause (core : Nat) (s : State) : Host.Outcome State Fault Refusal :=
  .next (match s.mxFault core with
    | (none, _) => s
    | (some (c, f, va, phase, row, k0), s) =>
      if c.pauses f.code then
        let s := s.mxPause core c f va phase row k0
        if s.recovAssisted && s.recovExpert then s else s.mxAbandon core c.ck
      else (s.mxPop core c).asyncFault c.ck (engRec f va c.bundle.toNat 0 0 0) c.uid)

/-- MPROG_RESUME (R149): while error recovery runs at expert level, a paused engine goes on. -/
def execMprogResume (core : Nat) (s : State) : Host.Outcome State Fault Refusal :=
  .next (if s.recovExpert && (s.getCore core).pause.isSome then s.mxResume core else s)

/-- MPROG_ABORT (R149): while error recovery runs at expert level, a paused command is abandoned and its team terminated. -/
def execMprogAbort (core : Nat) (s : State) : Host.Outcome State Fault Refusal :=
  .next (if s.recovExpert && (s.getCore core).pause.isSome then
      match s.mxHead core with
      | some c => s.mxAbandon core c.ck
      | none => s
    else s)

/-! ### The range unit (R101) -/

/-- R101: the service of one request: the start, the count, and the record after it. -/
def grab (r : Range) (team : Nat) : Nat × Nat × Range :=
  if !r.isOpen || r.next = r.endIdx then
    (r.endIdx.toNat, 0, if r.isOpen && !r.finished.contains team then { r with finished := insNat team r.finished, g := Nat.max 1 (r.g - 1) } else r)
  else
    let rem := r.endIdx.toNat - r.next.toNat
    let n := Nat.min rem (Nat.max r.min (ceilDiv rem (2 * r.g)))
    (r.next.toNat, n, { r with next := BitVec.ofNat 64 (r.next.toNat + n) })

/-- The order in which requests are served. -/
def GrabReq.key (g : GrabReq) : Nat × Nat × Nat := (g.atClk, g.col, g.ctx)
/-- The first of the requests that have arrived. -/
def firstGrab (clk : Nat) : List GrabReq → Option GrabReq
  | [] => none
  | g :: l => match firstGrab clk l with
    | none => if g.atClk ≤ clk then some g else none
    | some h => if g.atClk ≤ clk && lex3 g.key h.key then some g else some h

/-- R326: a scoreboarded result supplied by a reply: its value and the clock at which it lands. -/
def State.supply (s : State) (uid at_ val : Nat) : State :=
  s.mapAwaiting uid fun c => { c with pend := c.pend.map fun p => if p.uid = uid then { p with due := some at_, val := BitVec.ofNat 512 val } else p }

/-- GRAB_REQUEST_SERVED (R101): the range unit serves the first request that has arrived; its result lands 48 clocks later. -/
def execGrabRequestServed (s : State) : Host.Outcome State Fault Refusal :=
  .next (match firstGrab s.clock s.grabs with
    | none => s
    | some g =>
      let (start, n, r) := grab (s.getRange g.id) g.team
      let s := s.setRange g.id r
      let s : State := { s with grabs := s.grabs.filter fun x => x.uid != g.uid }
      (s.supply g.uid (s.clock + 48) start).supply (g.uid + 1) (s.clock + 48) n)

/-! ### Walks and invalidations (R122, R123) -/

/-- R122: a walk ended fills the TLBs of its die, unless it is marked. -/
def State.walkFills (s : State) (die : Nat) (w : Walk) : State :=
  match w.entry with
  | some e =>
    if w.noFill then s
    else (s.updDie die fun d => { d with l2 := tlbFill 16384 d.l2 e }).updCore (coreKey die w.core) fun k => { k with l1 := tlbFill 256 k.l1 e }
  | none => s

/-- R122: walks of a die's queue started, in its order, while fewer than 64 run. -/
def startWalks (clk : Nat) : Nat → List Walk → List Walk
  | _, [] => []
  | n, w :: l =>
    if w.due.isSome then w :: startWalks clk n l
    else if n < 64 then { w with due := some (clk + 1) } :: startWalks clk (n + 1) l
    else w :: startWalks clk n l

/-- PAGE_WALK_COMPLETE (R122): the walks of a die that are due end and fill the TLBs; the walks that wait take their places. -/
def execPageWalkComplete (die : Nat) (s : State) : Host.Outcome State Fault Refusal :=
  .next (
    let due := fun (w : Walk) => w.due.any fun t => t ≤ s.clock
    let ws := (s.getDie die).walks.filter due
    let s := s.updDie die fun d =>
      let l := d.walks.filter fun w => !due w
      { d with walks := startWalks s.clock (runningWalks l) l }
    ws.foldl (fun s w => s.walkFills die w) s)

/-- R123: an invalidation waits for an access that used a translation which it removed: a store that a context withholds, wherever the context stands now, a
posted write, or an atomic of a merge window. -/
def State.tlbiHeld (s : State) (t : Tlbi) : Bool :=
  (t.waits.any fun w => s.everyCtx.any fun x => ckDie x.1 == ckDie w.1 && x.2.stores.any fun b => b.loc == w.2) ||
    t.writes.any fun u => (s.posted.any fun p => p.uid == u && !p.data.isEmpty) || s.die.any fun x => x.2.merges.any fun m => m.ops.any fun o => o.1 == u

/-- TLBI_COMPLETE (R123): the invalidations of every die that are due, and wait for no access, complete and signal. -/
def execTlbiComplete (s : State) : Host.Outcome State Fault Refusal :=
  .next (allDies.foldl (fun s d =>
    let now := (s.getDie d).tlbis.filter fun t => t.due ≤ s.clock && !s.tlbiHeld t
    let s := s.updDie d fun x => { x with tlbis := x.tlbis.filter fun t => !now.contains t }
    now.foldl (fun s t => s.signal (ckCore t.ck) t.sigSem t.sigInc) s) s)

end Sys2Proof.Machine
end

