-- ==== Sys2Proof/Machine/Launch.lean ====
section
/-! DEFINITION. The command front end (R238 to R245, R249, R255): queues, packets and their checks, team starts, completion signals; reel
arrivals (R247); borrowed columns (R282). -/

namespace Sys2Proof.Machine

/-! ### Reads of the front end -/

/-- R116: a place that the front end reaches through a queue's address space, for a read or for a read and a write; no TLB holds it. -/
def State.rootPlace (s : State) (root va : Nat) (wr : Bool) : Tr × State :=
  match window va with
  | .dev a => match s.walk root a false true wr with
    | .error f => (.fault f, s)
    | .ok (e, s) => (s.usePte 0 .cp e a false true wr, s)
  | .pod p a => (.pod p a, s)
  | .bad c => (.fault ⟨4, c⟩, s)
  | _ => (.fault ⟨4, 3⟩, s)

/-- Bytes read through a queue's address space, piece by piece: each with its poison, or the first fault. -/
def State.rootRead (s : State) (root : Nat) : List (Nat × Nat) → Except AFault (List (Byte × Bool)) × State
  | [] => (.ok [], s)
  | (va, n) :: l =>
    let (t, s) := s.rootPlace root va false
    match t with
    | .ok loc _ _ =>
      let p := s.poisoned loc n
      let (r, s') := s.rootRead root l
      match r with
      | .ok d => (.ok ((s.readBytes loc n).map (fun b => (b, p)) ++ d), s')
      | .error f => (.error f, s')
    | .fault f => (.error f, s)
    | _ => (.error ⟨4, 3⟩, s)

/-- R126, R243: bytes of the image as the check reads them: a poisoned one is a fault. -/
def State.feBytes (s : State) (root va n : Nat) : Except AFault (List Byte) × State :=
  let (r, s) := s.rootRead root (pieces64 (n / 64 + 2) va n)
  match r with
  | .ok d => (if d.any Prod.snd then .error ⟨10, 0⟩ else .ok (d.map Prod.fst), s)
  | .error f => (.error f, s)

/-- R243: the bytes of an image part, none for those that cannot be read. -/
def State.feParts (s : State) (root : Nat) : List (Nat × Nat) → List (Option Byte) × State
  | [] => ([], s)
  | (va, n) :: l =>
    let (t, s) := s.rootPlace root va false
    let bs := match t with
      | .ok loc _ _ => if s.poisoned loc n then List.replicate n none else (s.readBytes loc n).map some
      | _ => List.replicate n none
    let (r, s) := s.feParts root l
    (bs ++ r, s)
def State.feSeen (s : State) (root va n : Nat) : List (Option Byte) × State := s.feParts root (pieces64 (n / 64 + 2) va n)

/-- What can be read of an image part; its other bytes read as 0, so that they set no reserved bit. -/
def seen (l : List (Option Byte)) : List Byte := l.map fun b => b.getD 0#8

/-- R242: the least clocks of a read of `n` bytes by the front end, from a place. -/
def State.feClocks (s : State) (t : Tr) (n : Nat) : Nat :=
  (match t with
    | .ok loc _ _ => if isHost loc then 2 * head 16 16 else 90 + 2 * head 16 (8 + (s.stackPlace loc).1)
    | _ => 0) + (ceilDiv n 64 - 1)
def State.rootClocks (s : State) (root va n : Nat) : Nat := if n = 0 then 0 else s.feClocks (s.rootPlace root va false).1 n

/-! ### The kernel image (R241) -/

/-- The dwords of an image part, at its number of doublewords. -/
def imgWords (n : Nat) (l : List Byte) : List DWord := dwords n l
/-- Doubleword `i` as a number. -/
def dw (l : List DWord) (i : Nat) : Nat := (l.getD i 0#64).toNat

/-- The fields of a kernel header. -/
def hdrNreel (h : List DWord) : Nat := bits (dw h 0) 0 16
def hdrNcw (h : List DWord) : Nat := bits (dw h 0) 16 9

/-- R241, R243: the banks of BANKMASK. -/
def hdrBanks (h : List DWord) : List Nat := (List.range 256).filter fun b => bits (dw h (4 + b / 64)) (b % 64) 1 == 1

/-- R243: a reserved bit of a header is set. -/
def hdrReserved (h : List DWord) : Bool :=
  bits (dw h 0) 25 7 != 0 || bits (dw h 1) 0 5 != 0 || bits (dw h 2) 0 6 != 0 || bits (dw h 3) 0 13 != 0 || bits (dw h 8) 0 3 != 0 ||
    (List.range 7).any fun i => dw h (9 + i) != 0
/-- R243: a reserved bit of a reel descriptor is set; its limits. -/
def descReserved (a b : Nat) : Bool := bits a 0 6 != 0 || b / 2 ^ 12 != 0
def descBad (b : Nat) : Bool := bits b 0 12 == 0 || bits b 0 12 > 2048

/-- R241: the reels of descriptors. -/
def reelsOf (n : Nat) (d : List DWord) : List (Nat × Nat) := (List.range n).map fun i => (dw d (2 * i), bits (dw d (2 * i + 1)) 0 12)

/-- R241: the semaphores that the table names, with their initial counts where nonzero. -/
def semNamed (t : List DWord) : List Nat := (List.range 256).filter fun k => k != 0 && bits (dw t k) 63 1 == 1
def semCounts (t : List DWord) : SMap Nat := ((semNamed t).map fun k => (k, bits (dw t k) 0 24)).filter fun x => x.2 != 0

/-- R76: the control words of a table, none where CWLD would refuse one. -/
def imageCws : Nat → List Byte → Option (List Instr)
  | 0, _ => some []
  | n + 1, l => match decode (BitVec.ofNat 256 (leNat (l.take 32))) with
    | .ok i => (imageCws n (l.drop 32)).map (i :: ·)
    | .error _ => none

/-- R243: the codes that the image's parts raise once its header is read. -/
def imgCodes (h descs sems : List DWord) (cw : Option (List Instr)) : List Nat :=
  let rs := (List.range (hdrNreel h)).map fun i => (dw descs (2 * i), dw descs (2 * i + 1))
  (if hdrReserved h || (rs.any fun r => descReserved r.1 r.2) || dw sems 0 != 0 then [2] else []) ++
  (if bits (dw h 0) 32 32 = 0 || hdrNreel h = 0 || hdrNreel h > 4096 || (rs.any fun r => descBad r.2) ||
      (sems.any fun w => bits w.toNat 24 39 != 0) || cw.isNone then [6] else [])

/-- The kernel that an image's parts make, with the packet's extra banks. -/
def mkKernel (h descs sems : List DWord) (cw : List Instr) (x0 xn : Nat) : Kernel :=
  { yieldMax := bits (dw h 0) 32 32, ncw := hdrNcw h, nreel := hdrNreel h, cw := cw, fpAt := dw h 2, imgAt := dw h 3,
    imgBanks := hdrBanks h, banks := (List.range xn).foldl (fun l i => insNat (x0 + i) l) (hdrBanks h),
    sems := semCounts sems, named := semNamed sems, reels := reelsOf (hdrNreel h) descs }

/-- R243: the semaphore table and the control words of an image are read where the part of the header that names them can be. -/
def State.feNamed (s : State) (ok : Bool) (root va n : Nat) : List (Option Byte) × State := if ok then s.feSeen root va n else ([], s)

/-- R242, R243: the image read and checked: the codes it raises, and the kernel. Where a part of it cannot be read, what can be is checked for reserved bits,
whose code is lower. -/
def State.readKernel (s : State) (root kimg x0 xn : Nat) : List Nat × Option Kernel × State :=
  let (hb, s) := s.feSeen root kimg 128
  let h := imgWords 16 (seen hb)
  let n := if hdrNreel h > 4096 then 0 else hdrNreel h
  let (db, s) := s.feSeen root (kimg + 128) (16 * n)
  let (tb, s) := s.feNamed ((hb.drop 64).all Option.isSome) root (dw h 8 / 8 * 8) 2048
  let (cb, s) := s.feNamed ((hb.take 64).all Option.isSome) root (dw h 1 / 32 * 32) (32 * hdrNcw h)
  let d := imgWords (2 * n) (seen db)
  let t := imgWords 256 (seen tb)
  if (hb ++ db ++ tb ++ cb).all Option.isSome then
    let cw := imageCws (hdrNcw h) (seen cb)
    (imgCodes h d t cw, some (mkKernel h d t (cw.getD []) x0 xn), s)
  else
    ((if hdrReserved h || ((List.range n).any fun i => descReserved (dw d (2 * i)) (dw d (2 * i + 1))) || dw t 0 != 0 then [2] else []) ++ [6], none, s)

/-- R242: the least clocks of the check's reads of an image, one after another. -/
def State.kernelClocks (s : State) (root kimg : Nat) : Nat :=
  match (s.feBytes root kimg 128).1 with
  | .error _ => s.rootClocks root kimg 128
  | .ok h =>
    let h := imgWords 16 h
    s.rootClocks root kimg 128 + s.rootClocks root (kimg + 128) (16 * hdrNreel h) + s.rootClocks root (dw h 8) 2048 +
      s.rootClocks root (dw h 1) (32 * hdrNcw h)

/-! ### Packets (R240, R243) -/

/-- The fields of a packet. -/
def pkOp (p : List DWord) : Nat := bits (dw p 0) 0 8
def pkDep (p : List DWord) : Bool := bits (dw p 0) 8 1 == 1
def pkColmask (p : List DWord) : Nat := bits (dw p 0) 32 32
def pkTw (p : List DWord) : Nat := 2 ^ bits (dw p 0) 18 3
def pkTc (p : List DWord) : Nat := bits (dw p 0) 21 2 + 1
def pkTk (p : List DWord) : Nat := bits (dw p 0) 16 2 + 1
def pkNcol (p : List DWord) : Nat := ((List.range 32).filter fun i => bits (pkColmask p) i 1 == 1).length
/-- The completion signal's address. -/
def pkSig (p : List DWord) : Nat := dw p 3 / 8 * 8

/-- R282: the columns lent to a partition. -/
def State.borrowed (s : State) (p : Nat) : List Nat :=
  (List.range 32).filter fun c => (s.getCol c).lendReg.getLsbD 63 && bits (s.getCol c).lendReg.toNat 48 5 == p
/-- R279: a partition's logical columns: its own, ascending, then those it borrows. -/
def State.logicalCols (s : State) (p : Nat) : List Nat :=
  ((List.range 32).filter fun c => (s.getPart p).valid && (s.getPart p).cols.getLsbD c) ++ s.borrowed p
/-- The physical columns that a mask of logical columns names. -/
def State.packetCols (s : State) (part mask : Nat) : List Nat :=
  (numbered (s.logicalCols part)).filterMap fun x => if bits mask x.1 1 = 1 then some x.2 else none

/-- R243: a reserved bit of a packet is set. -/
def pkReserved (p : List DWord) : Bool :=
  let rest := (List.range 3).any fun i => dw p (5 + i) != 0
  match pkOp p with
  | 1 => bits (dw p 0) 23 1 != 0 || bits (dw p 0) 14 2 != 0 || bits (dw p 1) 0 6 != 0 || bits (dw p 3) 0 3 != 0 || dw p 4 / 2 ^ 24 != 0 || rest
  | 2 => bits (dw p 0) 22 42 != 0 || bits (dw p 0) 10 6 != 0 || bits (dw p 3) 0 3 != 0 || dw p 4 / 2 ^ 39 != 0 || rest
  | _ => bits (dw p 0) 9 55 != 0 || bits (dw p 1) 0 3 != 0 || bits (dw p 3) 0 3 != 0 || dw p 4 != 0 || rest

/-- R94, R243: the shape of a LAUNCH is outside its limits. -/
def shapeBad (p : List DWord) : Bool :=
  bits (dw p 0) 18 3 > 5 || pkNcol p % pkTw p != 0 || pkTk p % pkTc p != 0 || pkColmask p == 0 || pkNcol p / pkTw p * (pkTk p / pkTc p) > 128

/-- R243: whether columns form whole quads. -/
def wholeQuads (cols : List Nat) : Bool := cols.all fun c => (List.range 4).all fun j => cols.contains (c / 4 * 4 + j)

/-- R243: the codes of a LAUNCH packet, its image's apart. -/
def State.launchCodes (s : State) (q : Nat) (p : List DWord) (k : Option Kernel) : List Nat :=
  let qu := s.getQueue q
  let con := bits (dw p 4) 0 8
  let cols := s.packetCols qu.part (pkColmask p)
  (if pkReserved p then [2] else []) ++ (if shapeBad p then [3] else []) ++
  (if pkColmask p / 2 ^ (s.logicalCols qu.part).length != 0 || bits (dw p 4) 8 8 + bits (dw p 4) 16 8 > 256 then [4] else []) ++
  (if con != qu.contract || (con != 0 && (s.getContract con).st != 1) then [5] else []) ++
  (if (match k with
      | some k => k.nreel > 2 && pkTk p > 1
      | none => false) || (bits (dw p 0) 9 1 == 1 && !wholeQuads cols) then [7] else [])

/-- R243: the codes of an OPENRNG packet. -/
def rangeCodes (p : List DWord) : List Nat :=
  let g := bits (dw p 4) 32 7
  let mn := bits (dw p 4) 0 32
  (if pkReserved p then [2] else []) ++
  (if bits (dw p 0) 9 1 = 1 then (if dw p 1 != 0 || dw p 2 != 0 || g != 0 || mn != 0 then [9] else [])
   else if dw p 2 < dw p 1 || mn == 0 || g == 0 then [9] else [])

/-- The lowest code. -/
def lowest (l : List Nat) : Option Nat := l.foldl (fun m x => some (match m with
  | some y => Nat.min x y
  | none => x)) none

/-! ### Queues (R238, R239) -/

/-- R242: whether queue scheduling runs in host-assisted mode (R254). -/
def State.schedAssisted (s : State) : Bool := bits s.mgmt.toNat 6 1 == 1
/-- R14: queue scheduling runs at expert level. -/
def State.schedExpert (s : State) : Bool := bits s.mgmt.toNat 7 1 == 1

/-- Where packet `rd` of a queue lies. -/
def Queue.packetAt (q : Queue) : Nat := bits q.qbase.toNat 12 40 * 4096 + 64 * (q.rd.toNat % 2 ^ q.log2n)

/-- R277, R278: start-up has ended, and not fatally. -/
def State.started (s : State) : Bool := s.boot.getLsbD 0 && !s.boot.getLsbD 2

/-- R275, R277: the front end, which stands in IO0, runs: start-up has ended, and IO0 is not quarantined. -/
def State.feRuns (s : State) : Bool := s.started && (s.getSocket 16).st != .quarantined

/-- R239: the front end starts to read the next packet of a queue that has one. -/
def State.feNext (s : State) (n : Nat) : State :=
  let q := s.getQueue n
  if q.st == .active && q.rd != q.wr && q.fe == .idle && s.feRuns then
    s.setQueue n { q with fe := .reading (s.clock + s.feClocks (.ok q.packetAt 0 0) 64), assisted := s.schedAssisted }
  else s

/-- R239: a packet dispatched in full: RDIDX advances, and the next is read. -/
def State.feDone (s : State) (n : Nat) : State :=
  (({ s with feLast := n }).updQueue n fun q => { q with rd := if q.cleared then q.rd else q.rd + 1#16, fe := .idle, cleared := false }).feNext n

/-- R239, R243: a packet rejected with a code. -/
def State.feReject (s : State) (n code : Nat) : State := s.updQueue n fun q => { q with st := .error, err := code, fe := .idle }

/-- R239: what the front end does with a queue's packet once the queue is not ACTIVE: it dispatches nothing more, but for a launch that it has begun. -/
def FeSt.stopped : FeSt → FeSt
  | .launching n => .launching n
  | _ => .idle

/-- NOTIFY (R239). -/
def execNotify (q : Nat) (wridx : Half) (s : State) : Host.Outcome State Fault Refusal :=
  .next (
    let x := s.getQueue q
    if q ≥ 4096 || x.st != .active then s
    else if (wridx - x.rd).toNat ≤ 2 ^ x.log2n then (s.setQueue q { x with wr := wridx }).feNext q
    else s.setQueue q { x with st := .error, err := 8, fe := x.fe.stopped })

/-- QCMD_OPEN (R239). -/
def execQcmdOpen (q : Nat) (s : State) : Host.Outcome State Fault Refusal :=
  .next (
    let x := s.getQueue q
    if q ≥ 4096 || x.st != .closed then s
    else s.setQueue q { x with st := .active, rd := 0#16, wr := 0#16, fe := .idle, lastLaunch := none, cleared := false })

/-- QCMD_CLEAR (R239). A launch whose teams are still starting goes on; its packet is among those discarded. -/
def execQcmdClear (q : Nat) (s : State) : Host.Outcome State Fault Refusal :=
  .next (
    let x := s.getQueue q
    if q ≥ 4096 || x.st != .error then s
    else s.setQueue q { x with st := .active, rd := x.wr, err := 0, cleared := x.fe != .idle })

/-- R245: a launch that is being dispatched: its teams not yet started are dropped, and it ends in error. -/
def State.dropTeams (s : State) (fe : FeSt) : State :=
  match fe with
  | .launching n => s.updLaunch n fun l => { l with dropped := true, error := true }
  | _ => s

/-- QCMD_DESTROY (R245). -/
def execQcmdDestroy (q : Nat) (s : State) : Host.Outcome State Fault Refusal :=
  .next (
    let x := s.getQueue q
    if q ≥ 4096 || !(x.st == .active || x.st == .error) then s
    else ((s.dropTeams x.fe).setQueue q { x with st := .closing, fe := .idle }).closeQueues)

/-- R243, R255: a packet read and checked: rejected, held for the host's approval in the mode in which its check began (R254), or to be dispatched. -/
def State.feChecked (s : State) (n : Nat) (p : List DWord) (k : Option Kernel) (codes : List Nat) : State :=
  match lowest codes with
  | some c => s.feReject n c
  | none => s.updQueue n fun q => { q with fe := if q.assisted then .taken p k else .approved p k }

/-- A packet's bytes have landed: a LAUNCH's image is read next; the others are checked. A packet whose read faults, or
that lies in a poisoned line, is rejected with code 6 (DESIGN CHOICE, log 69). -/
def State.packetLands (s : State) (n : Nat) : State :=
  let q := s.getQueue n
  let p := dwords 8 (s.readBytes q.packetAt 64)
  if (s.paFault q.packetAt).isSome || s.poisoned q.packetAt 64 then s.feReject n 6
  else match pkOp p with
  | 1 => s.setQueue n { q with fe := .checking p (s.clock + s.kernelClocks q.qroot.toNat (dw p 1 / 64 * 64)) }
  | 2 => s.feChecked n p none (rangeCodes p)
  | 3 => s.feChecked n p none (if pkReserved p then [2] else [])
  | _ => s.feReject n 1

/-- A LAUNCH's image has landed: the whole packet is checked. -/
def State.imageLands (s : State) (n : Nat) (p : List DWord) : State :=
  let (codes, k, s) := s.readKernel (s.getQueue n).qroot.toNat (dw p 1 / 64 * 64) (bits (dw p 4) 8 8) (bits (dw p 4) 16 8)
  s.feChecked n p k (codes ++ s.launchCodes n p k)

/-- FRONT_END_READ_LANDS (R242): a queue's read lands: its packet, its packet's image, or the loads of its starting teams. -/
def execFrontEndReadLands (q : Nat) (s : State) : Host.Outcome State Fault Refusal :=
  .next (
    let s := if !s.feRuns then s else match (s.getQueue q).fe with
      | .reading t => if t ≤ s.clock then s.packetLands q else s
      | .checking p t => if t ≤ s.clock then s.imageLands q p else s
      | _ => s
    (s.cc.filter fun x => x.2.st == .loading && s.ctxQueue x.1 == q).foldl (fun s x => s.loaded x.1) s)

/-- APPRCMD_APPROVE (R255): the waiting packet of a queue is to be dispatched. -/
def execApprcmdApprove (q : Nat) (s : State) : Host.Outcome State Fault Refusal :=
  .next (if !s.schedExpert then s else match (s.getQueue q).fe with
    | .taken p k => s.updQueue q fun x => { x with fe := .approved p k }
    | _ => s)

/-- APPRCMD_DENY (R255): the waiting packet of a queue is rejected with code 0x0A. -/
def execApprcmdDeny (q : Nat) (s : State) : Host.Outcome State Fault Refusal :=
  .next (if !s.schedExpert then s else match (s.getQueue q).fe with
    | .taken _ _ => s.feReject q 10
    | _ => s)

/-- R240: whether the DEP of a packet allows it. -/
def State.depMet (s : State) (q : Nat) (p : List DWord) : Bool :=
  !pkDep p || match (s.getQueue q).lastLaunch with
    | some n => s.triggered n
    | none => true

/-! ### Completion signals (R244) -/

/-- R115, R244: a completion signal on its way from IO0 to a place, `via` clocks away from where it leaves for it. -/
def State.compTo (s : State) (loc via : Nat) (err : Bool) : State :=
  { s with comps := s.comps ++ [(s.clock + via, loc, err)] }

/-- The clocks from a socket to the controller of a place. -/
def State.headTo (s : State) (k loc : Nat) : Nat := if isHost loc then head k 16 else head k (8 + (s.stackPlace loc).1)

/-- R244: the completion signals that reach their places by this clock, performed in their order. -/
def State.compsLand (s : State) : State :=
  let now := s.comps.filter fun c => c.1 ≤ s.clock
  if now.isEmpty then s
  else now.foldl (fun s c => s.store c.2.1 (leBytes 8 (sigValue (leNat (s.readBytes c.2.1 8)) c.2.2)))
    { s with comps := s.comps.filter fun c => c.1 > s.clock }

/-- R244: a completion signal given at an address of a queue's address space; it is performed after the way to its place. An address that faults is not
signalled (DESIGN CHOICE, log 31). -/
def State.compSignal (s : State) (root addr part : Nat) (err : Bool) : State :=
  if addr = 0 then s
  else
    let (t, s) := s.rootPlace root addr true
    match t with
    | .ok loc _ _ => s.compTo loc (s.headTo 16 loc) err
    | .pod pkg a =>
      if (s.podFault part pkg a).isSome then s
      else if pkg = s.pkgNum then
        match s.podTranslate (bits (s.getPart part).podps.toNat 0 6) a false true true with
        | (.ok loc _ _, s) => s.compTo loc (head 16 17 + s.headTo 17 loc) err
        | (_, s) => s
      else
        let (u, s) := s.fresh
        s.podSend 0 part pkg a u s.clock (.atomic 8 true false 0#64 [if err then 1#64 else 0#64])
    | _ => s

/-- Whether a command of a launch's freed contexts still runs, or a write of it is not yet performed. -/
def State.launchWrites (s : State) (n : Nat) (l : Launch) : Bool :=
  (s.posted.any fun p => p.launch == n) || (s.amoLeft.any fun x => x.2 == n && s.amoOpen x.1) ||
    s.cc.any fun x => x.2.launch == n && x.2.st == .free && (allDies.any fun d => bits l.live d 1 == 1 && s.busyDie (ccCk d x.1))

/-- COMPLETION_SIGNAL (R244): a launch whose contexts are all FREE and whose writes have been performed signals, and is done with. -/
def execCompletionSignal (sig : Nat) (s : State) : Host.Outcome State Fault Refusal :=
  .next (match s.launch? sig with
    | none => s
    | some l =>
      if l.signalled || !s.launchIdle sig l || s.launchWrites sig l then s
      else
        let s := s.compSignal (s.getQueue l.queue).qroot.toNat l.compsig l.part l.error
        let s : State := { s with
          launches := SMap.erase s.launches sig
          amoLeft := s.amoLeft.filter fun x => x.2 != sig
          core := s.core.map fun (x : Nat × Core) => (x.1, { x.2 with taken := x.2.taken.filter fun y => y != sig }) }
        s.closeQueues)

/-! ### The packets' effects -/

/-- PACKET_OPENRNG (R240): the range unit opens or closes a range, and the packet signals. -/
def execPacketOpenrng (q : Nat) (s : State) : Host.Outcome State Fault Refusal :=
  .next (match (s.getQueue q).fe with
    | .approved p _ =>
      if pkOp p != 2 || !s.feRuns || !s.depMet q p then s
      else
        let id := bits (dw p 0) 16 6
        let r := s.getRange id
        let s := s.setRange id (if bits (dw p 0) 9 1 = 1 then { r with isOpen := false }
          else { isOpen := true, next := p.getD 1 0#64, endIdx := p.getD 2 0#64, min := bits (dw p 4) 0 32, g := bits (dw p 4) 32 7 })
        (s.compSignal (s.getQueue q).qroot.toNat (pkSig p) (s.getQueue q).part false).feDone q
    | _ => s)

/-- PACKET_WAITSIG (R240): the packet waits for its doubleword; the first read is made at once. -/
def execPacketWaitsig (q : Nat) (s : State) : Host.Outcome State Fault Refusal :=
  .next (match (s.getQueue q).fe with
    | .approved p _ => if pkOp p != 3 || !s.feRuns || !s.depMet q p then s else s.updQueue q fun x => { x with fe := .waitsig p s.clock }
    | _ => s)

/-- WAITSIG_POLL (R240): the waiting doubleword is read; at VAL or above the packet completes and signals. -/
def execWaitsigPoll (q : Nat) (s : State) : Host.Outcome State Fault Refusal :=
  .next (match (s.getQueue q).fe with
    | .waitsig p t =>
      if t > s.clock || !s.feRuns then s
      else
        let root := (s.getQueue q).qroot.toNat
        let (tr, s) := s.rootPlace root (dw p 1 / 8 * 8) false
        let ok : Bool := match tr with
          | .ok loc _ _ => decide (leNat (s.readBytes loc 8) ≥ dw p 2)
          | _ => false
        if ok then (s.compSignal root (pkSig p) (s.getQueue q).part false).feDone q
        else s.updQueue q fun x => { x with fe := .waitsig p (s.clock + 256) }
    | _ => s)

/-- R266: the pod launch that a LAUNCH of a queue begins, where a group in force binds the queue; and the count of such launches. -/
def State.podLaunch (s : State) (q teams : Nat) : Option (Nat × Nat) × State :=
  match s.podgrp.find? fun g => g.2.valid && g.2.queue == q with
  | some (i, g) => (some (i, g.launches), s.setPodgrp i { g with launches := g.launches + 1, teams := SMap.set 0 g.teams g.launches teams })
  | none => (none, s)

/-- PACKET_LAUNCH (R242): a LAUNCH that passed its check is dispatched: its launch begins, and its teams start in order. -/
def execPacketLaunch (q : Nat) (s : State) : Host.Outcome State Fault Refusal :=
  .next (match (s.getQueue q).fe with
    | .approved p (some k) =>
      if pkOp p != 1 || !s.feRuns || !s.depMet q p then s
      else
        let x := s.getQueue q
        let cols := s.packetCols x.part (pkColmask p)
        let mask := bits (dw p 0) 24 8
        let teams := cols.length / pkTw p * (pkTk p / pkTc p)
        let (pod, s) := s.podLaunch q teams
        let l : Launch := {
          queue := q, part := x.part, cols := cols, dmask := mask, tw := pkTw p, tc := pkTc p, tk := pkTk p
          teams := teams, fclass := bits (dw p 0) 11 3, holdf := bits (dw p 0) 10 1 == 1
          qsync := bits (dw p 0) 9 1 == 1, kimg := dw p 1 / 64 * 64, arg := p.getD 2 0#64, compsig := pkSig p, kernel := k
          nextTeam := 0, live := (s.liveDies.filter fun d => bits mask d 1 == 1 && (s.getSocket d).liveAt ≤ s.clock - 1).foldl (fun m d => m + 2 ^ d) 0
          error := false, dropped := false, signalled := false, save := none, teamCols := [], trigTeams := [], pod := pod, started := s.clock }
        let n := s.nextLaunch
        let s := { s with launches := SMap.put s.launches n l, nextLaunch := n + 1 }
        s.updQueue q fun x => { x with fe := .launching n, lastLaunch := some n }
    | _ => s)

/-! ### Borrowed columns (R282) -/

/-- R282: DEADLINE of a column. -/
def Column.deadline (c : Column) : Nat := Nat.max 64 (bits c.lendReg.toNat 0 32)

/-- The teams of a partition that borrows a column, with contexts on it. -/
def State.borrowedTeams (s : State) (col : Nat) : List (Nat × Nat) :=
  let owner := s.partOfCol col
  (([0, 1, 2, 3].map fun k => s.getCc (ccKey col k)).filter fun c =>
    c.st != .free && ((s.launch? c.launch).map (·.part)) != some owner).map (fun c => (c.launch, c.team)) |>.eraseDups

/-- R282, R98: a team frozen with a reason on every column where its contexts run, and swapped. -/
def State.swapTeam (s : State) (launch team reason : Nat) : State :=
  let ccs := (s.teamCcs launch team).filter fun cc => (s.getCc cc).st.runs
  let cols := (ccs.map ccCol).eraseDups
  let acts := cols.map fun c => (c, (s.activeOf c).filter fun k => ccs.contains (ccKey c k))
  let (s, svs) := cols.foldl (fun (p : State × List SavedCtx) col =>
    let (t, l) := p.1.captureCol col ((ccs.filter fun cc => ccCol cc == col).map (· % 4)) reason
    let l := if t.saveAssisted then l else t.spillTimes (t.clock + 64) l
    (t, p.2 ++ l)) (s, [])
  if svs.isEmpty then s
  else
    let s := s.addSwap launch team reason false false none svs
    acts.foldl (fun s x => s.afterFreeze x.1 x.2 [launch]) s

/-- R282: a recall in progress goes on: the borrowed teams that run are frozen with reason 2 and swapped; with the last of them gone the
column is its owner's again. -/
def State.recallStep (s : State) (col : Nat) : State :=
  let s := (s.borrowedTeams col).foldl (fun s t => s.swapTeam t.1 t.2 2) s
  if (s.borrowedTeams col).isEmpty then
    s.updCol col fun c => { c with recallAt := none, lendReg := c.lendReg &&& ~~~(1#64 <<< 63) }
  else s

/-- R282: a recall of a lent column. -/
def State.recall (s : State) (col : Nat) : State :=
  if (s.getCol col).lendReg.getLsbD 63 then
    (s.updCol col fun c => { c with recallAt := some (c.recallAt.getD (s.clock + c.deadline)) }).recallStep col
  else s

/-! ### Team starts (R242) -/

/-- R94: the columns of team `t`, in TCOL order. -/
def Launch.colsOf (l : Launch) (t : Nat) : List Nat := (l.cols.drop (t / (l.tk / l.tc) * l.tw)).take l.tw

/-- R282: the stated bound of a launch. -/
def State.statedBound (s : State) (l : Launch) : Nat :=
  let k := (s.getQueue l.queue).contract
  if k = 0 then 33024 else (s.getContract k).b

/-- R282: whether the front end of a lent column's owner needs it for the next team of a launch: a recall of this clock, on which no borrower's team
starts. -/
def State.ownerNeeds (s : State) (c : Nat) : Bool :=
  s.queues.any fun q => match q.2.fe with
    | .launching n => ((s.launch? n).map fun l =>
        Nat.blt l.nextTeam l.teams && !l.dropped && (s.getPart l.part).cols.getLsbD c && (l.colsOf l.nextTeam).contains c).getD false
    | _ => false

/-- R282: whether a launch's team may start on a column as far as lending goes. -/
def State.lendAllows (s : State) (l : Launch) (c : Nat) : Bool :=
  let x := s.getCol c
  if x.lendReg.getLsbD 63 then
    bits x.lendReg.toNat 48 5 == l.part && x.recallAt.isNone && !s.ownerNeeds c && s.statedBound l ≤ x.deadline
  else (s.getPart l.part).cols.getLsbD c

/-- R249: whether a launch with HOLDF may start its first team: its island runs fast enough, or the cap keeps it from that. -/
def State.holdfMet (s : State) (l : Launch) : Bool :=
  let p := s.getPart l.part
  !l.holdf || l.nextTeam != 0 || p.fcur ≤ l.fclass || (p.capw != 0#16 && 10 * p.pwr.toNat ≥ 9 * p.capw.toNat)

/-- R229: the lowest offset of a partition's save region at which a block fits, above the blocks that it overlaps. -/
def saveFit (size : Nat) : Nat → List (Nat × Nat) → Nat
  | o, [] => o
  | o, (a, n) :: l => if o + size ≤ a then o else saveFit size (Nat.max o (ceilDiv (a + n) 4096 * 4096)) l

/-- R229: the size of a launch's save block. -/
def Launch.saveSize (l : Launch) : Nat := 8 * (l.cols.length * l.tk) * l.kernel.sasz

/-- A list of blocks with one more, in ascending place. -/
def insBlock (x : Nat × Nat) : List (Nat × Nat) → List (Nat × Nat)
  | [] => [x]
  | y :: l => if x.1 ≤ y.1 then x :: y :: l else y :: insBlock x l

/-- R229: the place of a launch's save block, where it fits. -/
def State.saveBlock (s : State) (n : Nat) (l : Launch) : Option Nat :=
  match l.save with
  | some o => some o
  | none =>
    let taken := s.launches.foldl (fun b x =>
      if x.1 != n && x.2.part == l.part then (match x.2.save with
        | some o => insBlock (o, x.2.saveSize) b
        | none => b)
      else b) []
    let o := saveFit l.saveSize 0 taken
    if o + l.saveSize ≤ 2 ^ bits (s.getPart l.part).svbase.toNat 52 6 then some o else none

/-- R242: whether a launch's next team can start. -/
def State.canStart (s : State) (n : Nat) (l : Launch) : Bool :=
  l.nextTeam < l.teams && !l.dropped && s.holdfMet l && (s.saveBlock n l).isSome &&
    (l.colsOf l.nextTeam).all fun c => l.tc ≤ (s.freeCtxs c).length && s.pairFor c n && s.lendAllows l c

/-- R152: an entry of the footprint table: four regions of 16 bytes, each an address, a length and flags (bit 0 present, bit 1 write)
(DESIGN CHOICE, log 9). -/
def footprintOf (l : List Byte) : List Region :=
  (List.range 4).filterMap fun i =>
    let r := l.drop (16 * i)
    let fl := (r.getD 12 0#8).toNat
    if fl % 2 = 1 then some ⟨leNat (r.take 8), leNat ((r.drop 8).take 4), fl / 2 % 2 == 1⟩ else none

/-- R242: the footprint table of a kernel as a team start loads it; what cannot be read is empty. -/
def State.loadFps (s : State) (root : Nat) (k : Kernel) : SMap (List Region) × State :=
  let (r, s) := s.feBytes root k.fpAt (64 * k.ncw)
  match r with
  | .ok d => (((List.range k.ncw).map fun i => (i + 1, footprintOf (d.drop (64 * i)))).filter fun x => !x.2.isEmpty, s)
  | .error _ => ([], s)

/-- R242: one bank of the scratchpad image written into a core; what cannot be read is zero. -/
def State.loadBank (s : State) (core b : Nat) (data : List (Byte × Bool)) : State :=
  (pieces64 130 (2 ^ 52 + core * 2 ^ 21 + b * 2 ^ 13) (2 ^ 13)).foldl (fun s p =>
    s.storeP p.1 ((data.drop (p.1 % 2 ^ 13)).take p.2)) s

/-- R242: the image of a kernel's banks, bank by bank. -/
def State.imageBanks (s : State) (root : Nat) (k : Kernel) : List (Nat × List (Byte × Bool)) × State :=
  (numbered k.imgBanks).foldl (fun (p : List (Nat × List (Byte × Bool)) × State) x =>
    let (r, s) := p.2.rootRead root (pieces64 130 (k.imgAt + 2 ^ 13 * x.1) (2 ^ 13))
    (p.1 ++ [(x.2, match r with
      | .ok d => d
      | .error _ => List.replicate (2 ^ 13) (0#8, false))], s)) ([], s)

/-- R95, R108, R242: a core that a launch takes for the first time: its tag table empty, its named semaphores at their counts, its banks
with the image. -/
def State.takeCore (s : State) (n : Nat) (k : Kernel) (img : List (Nat × List (Byte × Bool))) (core : Nat) : State :=
  if (s.getCore core).taken.contains n then s
  else
    let s := s.updCore core fun c => { c with
      taken := n :: c.taken, tags := [], sem := k.named.foldl (fun m i => SMap.set 0 m i (SMap.get 0 k.sems i)) c.sem }
    img.foldl (fun s x => s.loadBank core x.1 x.2) s

/-- R95, R238: the registers of a context on a die at launch, and its TRBASE `root`. PRFCTL, which software sets for its records, keeps its value (DESIGN
CHOICE, log 100). -/
def launchDie (l : Launch) (root : DWord) (c : CtxDie) : CtxDie :=
  let w : WorkSet := { s := SMap.set 0#64 [] 1 l.arg }
  { ws := w, dup := w, trbase := root, prfctl := c.prfctl }

/-- R95: the column state of a context at launch. -/
def launchCol (l : Launch) (n t tcol tctx : Nat) (fps : SMap (List Region)) (until_ : Nat) : ColCtx :=
  { st := .loading, cw := (numbered l.kernel.cw).map (fun x => (x.1 + 1, some x.2)), fp := fps, launch := n, team := t, tcol := tcol,
    tctx := tctx, stated := l.kernel.yieldMax, holdUntil := until_, holdReason := 4 }

/-- R242: the least clocks of a team start's loads: the tables, the semaphore entries and the image. -/
def State.loadClocks (s : State) (root : Nat) (k : Kernel) (first : Bool) : Nat :=
  ceilDiv (32 * k.ncw) 64 + (s.rootClocks root k.fpAt (64 * k.ncw) + bit01 (k.ncw != 0)) +
    if first then 32 + (s.rootClocks root k.imgAt (2 ^ 13 * k.imgBanks.length) + bit01 (!k.imgBanks.isEmpty)) else 0

/-- One context of a starting team. -/
def State.startCtx (s : State) (n : Nat) (l : Launch) (t tcol tctx col k : Nat) (fps : SMap (List Region)) (until_ : Nat) : State :=
  let ds := allDies.filter fun d => bits l.live d 1 == 1
  let s := ds.foldl (fun s d => s.updCd (ctxKey d col k) (launchDie l (s.getQueue l.queue).qroot)) s
  s.setCc (ccKey col k) (launchCol l n t tcol tctx fps until_)

/-- R242, R246: a team on one of its columns: its contexts, its reel pair, reel 0 and, where there is one, reel 1. -/
def State.startCol (s : State) (n : Nat) (l : Launch) (t tcol col : Nat) (fps : SMap (List Region)) (until_ : Nat) : State :=
  let ks := (s.freeCtxs col).take l.tc
  let s := (numbered ks).foldl (fun s x => s.startCtx n l t tcol x.1 col x.2 fps until_) s
  let s := s.updCol col fun c => { c with pairs := if c.pairs.contains n then c.pairs else c.pairs ++ [n] }
  match ks with
  | k :: _ =>
    let s := s.startReel (ccKey col k) 0 0
    if l.kernel.nreel ≥ 2 then s.startReel (ccKey col k) 0 1 else s
  | [] => s

/-- R242: a launch's next team started. -/
def State.startTeam (s : State) (n : Nat) (l : Launch) : State :=
  let t := l.nextTeam
  let cols := l.colsOf t
  let root := (s.getQueue l.queue).qroot.toNat
  let cores := cols.flatMap fun c => (allDies.filter fun d => bits l.live d 1 == 1).map fun d => coreKey d c
  let first := cores.any fun c => !(s.getCore c).taken.contains n
  let until_ := s.clock + s.loadClocks root l.kernel first
  let (fps, s) := s.loadFps root l.kernel
  let (img, s) := if first then s.imageBanks root l.kernel else ([], s)
  let s := cores.foldl (fun s c => s.takeCore n l.kernel img c) s
  let s := (numbered cols).foldl (fun s x => s.startCol n l t x.1 x.2 fps until_) s
  let s := cols.foldl (fun (s : State) c => if (s.getCol c).lendReg.getLsbD 63 then s.updCol c fun x => { x with lentAt := s.clock + 1 } else s) s
  s.updLaunch n fun l => { l with nextTeam := t + 1, teamCols := l.teamCols ++ [(t, cols)], save := s.saveBlock n l }

/-- R282: the lent columns of its own that a launch's next team needs, recalled; not one on which a borrower's team has started on this clock. -/
def State.recallFor (s : State) (l : Launch) : State :=
  (l.colsOf l.nextTeam).foldl (fun s c =>
    if (s.getPart l.part).cols.getLsbD c && (s.getCol c).lendReg.getLsbD 63 && (s.getCol c).lentAt != s.clock + 1 then s.recall c else s) s

/-- TEAM_START (R242): the next team of a launch starts, where its columns can take it; after the last, or once the
rest are dropped (R87), the queue's next packet is read. -/
def execTeamStart (launch : Nat) (s : State) : Host.Outcome State Fault Refusal :=
  .next (match s.launch? launch with
    | none => match s.queues.find? fun q => q.2.fe == .launching launch with
      | some q => s.feDone q.1
      | none => s
    | some l =>
      if (s.getQueue l.queue).fe != .launching launch || !s.feRuns then s
      else if l.dropped || l.nextTeam ≥ l.teams then s.feDone l.queue
      else if !s.canStart launch l then s.recallFor l
      else
        let s := s.startTeam launch l
        if l.nextTeam + 1 ≥ l.teams then s.feDone l.queue else s)

/-! ### Reels (R247) and lending -/

/-- REEL_ARRIVES (R247): the last byte of a buffer's reel lands; contexts that waited for it alone take their state. -/
def execReelArrives (col buf : Nat) (s : State) : Host.Outcome State Fault Refusal :=
  .next ([0, 1, 2, 3].foldl (fun s k => s.loaded (ccKey col k)) (s.reelLands col buf))

/-- LEND_LENT (R282): a write of LENDc; a write of 1 to LENT acts only while the owner holds no context on the column. -/
def execLendLent (col : Nat) (v : DWord) (s : State) : Host.Outcome State Fault Refusal :=
  .next (if col ≥ 32 || !s.schedExpert then s
    else
      let c := s.getCol col
      let owner := s.partOfCol col
      let free := [0, 1, 2, 3].all fun k =>
        let x := s.getCc (ccKey col k)
        x.st == .free || ((s.launch? x.launch).map (·.part)) != some owner
      let lent := v.getLsbD 63 && (free || c.lendReg.getLsbD 63)
      s.setCol col { c with lendReg := BitVec.ofNat 64 ((if lent then 2 ^ 63 else 0) + bits v.toNat 48 5 * 2 ^ 48 + bits v.toNat 0 32) })

/-- LEND_RECALL (R282): a recall of a lent column. -/
def execLendRecall (col : Nat) (s : State) : Host.Outcome State Fault Refusal := .next (if col < 32 && s.schedExpert then s.recall col else s)

end Sys2Proof.Machine
end

