-- ==== Sys2Proof/Machine/Contract.lean ====
section
/-! DEFINITION. Contracts (R252, R253) and the modes and levels of the managed functions (R14, R254). -/

namespace Sys2Proof.Machine

/-! ### Modes and levels -/

/-- R14, R254: a managed function runs in host-assisted mode; at expert level. The functions by their pair of MGMTMODE: 0 page walks, 1
context save, 2 attestation verification, 3 queue scheduling, 4 error recovery, 5 HBM repair, 6 power capping. -/
def State.assisted (s : State) (f : Nat) : Bool := bits s.mgmt.toNat (2 * f) 1 == 1
def State.expert (s : State) (f : Nat) : Bool := bits s.mgmt.toNat (2 * f + 1) 1 == 1

/-- MGMTMODE_WRITE (R254): the modes and levels from now on. -/
def execMgmtmodeWrite (v : DWord) (s : State) : Host.Outcome State Fault Refusal := .next { s with mgmt := v &&& 0x3FFF#64 }

/-! ### Contracts -/

/-- R253: the bound of a contract in island clocks. -/
def Contract.bound (c : Contract) : Nat :=
  let mx := match c.pcode with
    | 0 => ceilDiv c.kmax 4
    | 1 => ceilDiv c.kmax 2
    | 2 => c.kmax
    | _ => 4 * c.kmax
  (numbered [64, 2048, 1100, mx + 256]).foldl (fun b x => if bits c.clsmask x.1 1 = 1 then Nat.max b x.2 else b) 0

/-- A sum of fractions, each a numerator and a denominator. -/
def sumFrac (l : List (Nat × Nat)) : Nat × Nat := l.foldl (fun a x => (a.1 * x.2 + x.1 * a.2, a.2 * x.2)) (0, 1)

/-- R253: W × C ÷ T. -/
def Contract.share (c : Contract) : Nat × Nat := (c.w * c.c, c.t)

/-- The columns of a partition. -/
def State.partWidth (s : State) (p : Nat) : Nat :=
  ((List.range 32).filter fun c => (s.getPart p).valid && (s.getPart p).cols.getLsbD c).length

/-- R253: the refusal of a contract: none where it is admitted. Reference clocks against island clocks at FSLOW, in exact arithmetic. -/
def State.admitTest (s : State) (k : Nat) (c : Contract) : Option Nat :=
  let cols := s.partWidth c.part
  if c.t = 0 || c.c = 0 || c.c > c.t || c.w = 0 || c.w > cols || c.clsmask = 0 || (bits c.clsmask 3 1 = 1 && c.kmax = 0) then some 2
  else if c.c * classTenths c.fslow ≤ c.bound * 18 then some 1
  else
    let u := sumFrac (c.share :: (s.contracts.filter fun x => x.1 != k && x.2.st == 1 && x.2.part == c.part).map fun x => x.2.share)
    if 100 * u.1 > 85 * cols * u.2 then some 3 else none

/-- CONTRACT_ADMIT (R253): the test, in state 0 or 2, at expert level of queue scheduling. -/
def execContractAdmit (k : Nat) (s : State) : Host.Outcome State Fault Refusal :=
  .next (
    let c := s.getContract k
    if k = 0 || k > 255 || c.st = 1 || !s.expert 3 then s
    else match s.admitTest k c with
      | some r => s.setContract k { c with st := 2, reason := r }
      | none => s.setContract k { c with
          st := 1, tau := s.clock, period := s.clock, spent := [], b := ceilDiv (c.bound * 18) (classTenths c.fslow) })

/-- CONTRACT_REVOKE (R252). -/
def execContractRevoke (k : Nat) (s : State) : Host.Outcome State Fault Refusal :=
  .next (if k = 0 || k > 255 || !s.expert 3 then s else s.setContract k { s.getContract k with st := 0 })

/-- CONTRACT_PERIOD_START (R252): a period of an admitted contract ends, and the next begins with its whole budget on every column. -/
def execContractPeriodStart (k : Nat) (s : State) : Host.Outcome State Fault Refusal :=
  .next (
    let c := s.getContract k
    if c.st = 1 && c.period + c.t ≤ s.clock then s.setContract k { c with period := c.period + c.t, spent := [] } else s)

/-- CONTRACT_BUDGET_SPENT (R252): the budget of a period on a column is spent; the contract's queues rank there as BE3 (`State.deadline`). -/
def execContractBudgetSpent (k col : Nat) (s : State) : Host.Outcome State Fault Refusal :=
  .next (
    let c := s.getContract k
    if c.st = 1 && SMap.get 0 c.spent col > 280 * c.c then s.setContract k { c with spent := SMap.set 0 c.spent col (280 * c.c) } else s)

/-- R252: one clock of a column in which context `k` is ACTIVE, counted against its queue's contract. -/
def State.spendClock (s : State) (col k : Nat) : State :=
  let q := (s.getQueue (s.ctxQueue (ccKey col k))).contract
  let c := s.getContract q
  if q = 0 || c.st != 1 then s
  else s.setContract q { c with spent := SMap.upd 0 c.spent col fun n => n + refUnits (s.getPart (s.partOf (ccKey col k))).fcur }

end Sys2Proof.Machine
end

