-- ==== Sys2Proof/Machine/Pod.lean ====
section
/-! DEFINITION. The pod (R258 to R267): messages that reach IO1, their service at this package, replies, acknowledgements, lost writes. -/

namespace Sys2Proof.Machine

/-! ### Faults and replies -/

/-- R211, R234: an asynchronous fault of a column context on a die, by the access of number `seq`; also of a saved context, by `savedKey`, in whose area it is
recorded. -/
def State.faultAt (s : State) (cc die : Nat) (r : FRec) (seq : Nat := 0) : State :=
  let add := fun (c : ColCtx) => c.addFault s.clock die { r.fields with async := true, seq := seq }
  if cc < 2 ^ 20 then s.updCc cc add
  else
    let n := (cc - 2 ^ 20) / 128
    let i := (cc - 2 ^ 20) % 128
    let s : State := { s with swaps := s.swaps.map fun (w : Nat × Swap) =>
      if w.1 = n then (n, { w.2 with ctxs := (numbered w.2.ctxs).map fun x => if x.1 = i then { x.2 with cc := add x.2.cc } else x.2 }) else w }
    match s.swaps.find? fun w => w.1 == n with
    | some (_, w) => match w.ctxs[i]?, s.launch? w.launch with
      | some sv, some l =>
        if sv.spilled then sv.dies.foldl (fun s x => (sv.header x.1 x.2).foldl (fun s p => s.store (s.areaAt l sv x.1 + p.1) p.2) s) s else s
      | _, _ => s
    | none => s

/-- Where the result that a reply to `uid` supplies stands: the column context (a saved one by `savedKey`), the die, the result. -/
def State.awaits (s : State) (uid : Nat) : Option (Nat × Nat × Pend) :=
  let find := fun (c : CtxDie) => c.pend.find? fun p => p.uid == uid && p.due.isNone
  match s.cd.findSome? fun x => (find x.2).map fun p => (ckCc x.1, ckDie x.1, p) with
  | some r => some r
  | none => match s.core.findSome? fun x => (find x.2.fw).map fun p => (ckCc (1024 + x.1), x.1 / 32, p) with
    | some r => some r
    | none => s.swaps.findSome? fun w => (numbered w.2.ctxs).findSome? fun x =>
        x.2.dies.findSome? fun d => (find d.2).map fun p => (savedKey w.1 x.1, d.1, p)

/-- Where a record that a reply to `uid` supplies stands. -/
def State.awaitsRec (s : State) (uid : Nat) : Option (Nat × Nat × RecPend) :=
  let find := fun (c : CtxDie) => c.recs.find? fun r => r.uid == uid && r.due.isNone
  match s.cd.findSome? fun x => (find x.2).map fun r => (ckCc x.1, ckDie x.1, r) with
  | some r => some r
  | none => match s.core.findSome? fun x => (find x.2.fw).map fun r => (ckCc (1024 + x.1), x.1 / 32, r) with
    | some r => some r
    | none => s.swaps.findSome? fun w => (numbered w.2.ctxs).findSome? fun x =>
        x.2.dies.findSome? fun d => (find d.2).map fun r => (savedKey w.1 x.1, d.1, r)

/-- The records that await a reply changed. -/
def State.mapRecs (s : State) (f : List RecPend → List RecPend) : State := s.mapCtxs fun c => { c with recs := f c.recs }

/-- The column context, a saved one by `savedKey` (R321), whose CWLD awaits a piece by the reply `uid`, and the piece's number. -/
def State.cwAwaits (s : State) (uid : Nat) : Option (Nat × Nat) :=
  let find := fun (k : Nat) (c : ColCtx) => c.cwBuf.bind fun b =>
    if b.1 ≤ uid && uid < b.1 + 256 && !b.2.any (fun p => p.1 == uid - b.1) then some (k, uid - b.1) else none
  match s.cc.findSome? fun x => find x.1 x.2 with
  | some r => some r
  | none => s.swaps.findSome? fun w => (numbered w.2.ctxs).findSome? fun x => find (savedKey w.1 x.1) x.2.cc

/-- What a context's CWLD has been answered, of a saved one too, changed. -/
def State.updCw (s : State) (cc : Nat) (f : Nat × List (Nat × List Byte) → Option (Nat × List (Nat × List Byte))) : State :=
  let g := fun (c : ColCtx) => { c with cwBuf := c.cwBuf.bind f }
  if cc < 2 ^ 20 then s.updCc cc g
  else { s with swaps := s.swaps.map fun w =>
    if w.1 = (cc - 2 ^ 20) / 128 then (w.1, { w.2 with ctxs := w.2.ctxs.modify ((cc - 2 ^ 20) % 128) fun sv => { sv with cc := g sv.cc } }) else w }

/-- The lowest launch-live die of a column context. -/
def State.firstDie (s : State) (cc : Nat) : Nat := (s.liveOf cc).headD 0

/-- R62, R81, R262: a reply that carries a fault: the access ends with it, and its context takes it. -/
def State.faultOne (s : State) (uid code cause : Nat) : State :=
  match s.awaits uid with
  | some (cc, d, p) =>
    (s.mapAwaiting uid fun c => { c with pend := c.pend.filter fun x => x.uid != uid }).faultAt cc d
      { code := code, cause := cause, r0 := p.val.setWidth 64, r1 := p.bundle } uid
  | none => match s.awaitsRec uid with
    | some (cc, d, r) =>
      (s.mapRecs fun l => l.filter fun x => x.uid != uid).faultAt cc d { code := code, cause := cause, r0 := r.addr, r1 := r.bundle } uid
    | none =>
      if s.engPod.any fun e => e.uid == uid then
        { s with engPod := s.engPod.map fun e => if e.uid = uid then { e with data := some (.inl (code, cause)) } else e }
      else match s.posted.find? fun p => p.uid == uid with
        | some p =>
          let s : State := { s with posted := s.posted.filter fun x => x.uid != uid }
          if p.cc ≥ 2 ^ 20 || ((s.getCc p.cc).launch == p.launch && (s.getCc p.cc).st != .free) then
            s.faultAt p.cc p.die { p.frec with code := code, cause := cause } (if p.cmd = 0 then uid else p.cmd)
          else s
        | none => match s.cwAwaits uid with
          | some (cc, _) => (s.updCw cc fun _ => none).faultAt cc (s.firstDie cc)
              { code := code, cause := cause, r1 := s.pcAddr cc 0 } uid
          | none => s

/-- R208, R267: the AMOs merged into a request, in their order: the results that its reply supplies. -/
def State.splitOf (s : State) (uid : Nat) : Option (List Nat) :=
  s.die.findSome? fun x => (x.2.split.find? fun y => y.1 == uid).map Prod.snd

/-- The entry of a merged request taken out. -/
def State.dropSplit (s : State) (uid : Nat) : State :=
  { s with die := s.die.map fun x => (x.1, { x.2 with split := x.2.split.filter fun y => y.1 != uid }) }

/-- A reply that carries a fault; that of a merged request is every AMO's. -/
def State.faultReply (s : State) (uid code cause : Nat) : State :=
  match s.splitOf uid with
  | some us => us.foldl (fun s u => s.faultOne u code cause) (s.dropSplit uid)
  | none => s.faultOne uid code cause

/-- R81, R125, R263: a reply with data lands at a clock; a poisoned one faults where it is consumed (R126). -/
def State.dataOne (s : State) (uid at_ : Nat) (data : List Byte) (poison : Bool) : State :=
  match s.awaits uid with
  | some (_, _, p) =>
    if poison then s.faultReply uid 10 0 else s.supply uid at_ (extend p.ty (8 * data.length) (leNat data)).toNat
  | none => match s.awaitsRec uid with
    | some _ =>
      if poison then s.faultReply uid 10 0
      else s.mapRecs fun l => l.map fun r => if r.uid = uid then { r with due := some at_, bits := BitVec.ofNat 256 (leNat data) } else r
    | none =>
      if s.engPod.any fun e => e.uid == uid then
        { s with engPod := s.engPod.map fun e => if e.uid = uid then { e with data := some (.inr (data, poison)) } else e }
      else match s.cwAwaits uid with
        | some (cc, i) =>
          if poison then s.faultReply uid 10 0
          else s.updCw cc fun b => some (b.1, b.2 ++ [(i, data)])
        | none => s

/-- A reply with data; that of a merged request is split at the die (R267). -/
def State.dataReply (s : State) (uid at_ : Nat) (data : List Byte) (poison : Bool) : State :=
  match s.splitOf uid with
  | some us =>
    let w := data.length / us.length
    (numbered us).foldl (fun s u => s.dataOne u.2 at_ ((data.drop (w * u.1)).take w) poison) (s.dropSplit uid)
  | none => s.dataOne uid at_ data poison

/-- R263: the acknowledgement of a posted write reaches its die at a clock. -/
def State.acked (s : State) (uid at_ : Nat) : State :=
  { s with posted := s.posted.map fun p => if p.uid = uid then { p with due := some at_ } else p }

/-- The die that awaits a reply or an acknowledgement. -/
def State.replyDie (s : State) (uid : Nat) : Nat :=
  match s.posted.find? fun p => p.uid == uid with
  | some p => p.die
  | none => match s.awaits (((s.splitOf uid).bind List.head?).getD uid) with
    | some (_, d, _) => d
    | none => match s.awaitsRec uid with
      | some (_, d, _) => d
      | none => 0

/-! ### Service at this package (R262, R263, R267) -/

/-- R208: atomics performed at a place one after another, with no other write between them: their old values, and the state. -/
def State.atomicsAt (s : State) (loc op : Nat) (signed : Bool) (w expected : Nat) : List Nat → List Nat × State
  | [] => ([], s)
  | v :: vs =>
    let (old, s) := s.atomicAt loc op signed w expected v
    let (l, s) := s.atomicsAt loc op signed w expected vs
    (old :: l, s)

/-- R208: the result of an AMO of a merge window that has closed: not before its own latency. -/
def State.mergedOne (s : State) (uid w old : Nat) : State :=
  match s.awaits uid with
  | some (_, _, p) => s.supply uid (Nat.max (s.clock + 1) (p.issued + p.lat)) (extend p.ty w old).toNat
  | none => s

/-- R208, R267: a merge window of a die closes: its AMOs are performed one after another, or cross the pod as one message. -/
def State.mergeEnd (s : State) (die : Nat) (m : Merge) : State :=
  let w := if m.wide then 64 else 32
  match m.pod with
  | none =>
    if s.poisoned m.addr (w / 8) then m.ops.foldl (fun s o => s.faultOne o.1 10 0) s
    else if s.hostAborts m.addr then m.ops.foldl (fun s o => s.faultOne o.1 4 6) s
    else
      let (old, s) := s.atomicsAt m.addr m.op m.signed w 0 (m.ops.map fun o => o.2.2.toNat % 2 ^ w)
      (m.ops.zip old).foldl (fun s x => s.mergedOne x.1.1 w x.2) s
  | some (pkg, i) =>
    let (u, s) := s.fresh
    let s := s.podSendIdx die (i % 64) pkg m.addr u s.clock (.atomic m.op m.wide m.signed 0#64 (m.ops.map fun o => o.2.2)) (64 ≤ i)
    s.updDie die fun d => { d with split := d.split ++ [(u, m.ops.map fun o => o.1)] }

/-- R208: the merge windows that close on this clock. -/
def State.mergesEnd (s : State) : State :=
  allDies.foldl (fun s d =>
    let now := (s.getDie d).merges.filter fun m => m.close ≤ s.clock
    if now.isEmpty then s
    else now.foldl (fun s m => s.mergeEnd d m) (s.updDie d fun x => { x with merges := x.merges.filter fun m => m.close > s.clock })) s

/-- R301: the fault of an atomic of R299's operations at a place of host memory: no AtomicOp request for it, or a host that does not complete it. -/
def State.hostAtomic (s : State) (loc op : Nat) : Option AFault :=
  if isHost loc && 2 ≤ op && op ≤ 6 then some ⟨4, 3⟩ else if s.hostAborts loc then some ⟨4, 6⟩ else none

/-- R262, R263, R301: a request of a pod served in this package: its reply, and the state. -/
def State.podServe (s : State) (m : PodMsg) : Option PodBody × State :=
  match m.body with
  | .write data poison =>
    let (t, s) := s.podTranslate m.index m.addr m.fw false true
    match t with
    | .ok loc _ _ => (some .ack, s.storeP loc (data.map fun b => (b, poison)))
    | .fault f => (some (.faultReply f.code f.cause), s)
    | _ => (none, s)
  | .read len =>
    let (t, s) := s.podTranslate m.index m.addr m.fw true false
    match t with
    | .ok loc _ _ => (some (if s.hostAborts loc then .faultReply 4 6 else .reply (s.readBytes loc len) (s.poisoned loc len)), s)
    | .fault f => (some (.faultReply f.code f.cause), s)
    | _ => (none, s)
  | .atomic op wide signed expected vs =>
    let (t, s) := s.podTranslate m.index m.addr m.fw true true
    let w := if wide then 64 else 32
    match t with
    | .ok loc _ _ =>
      if s.poisoned loc (w / 8) then (some (.faultReply 10 0), s)
      else match s.hostAtomic loc op with
      | some f => (some (.faultReply f.code f.cause), s)
      | none =>
        let (old, s) := s.atomicsAt loc op signed w (expected.toNat % 2 ^ w) (vs.map fun v => v.toNat % 2 ^ w)
        (some (.reply (old.flatMap fun x => leBytes (w / 8) x) false), s)
    | .fault f => (some (.faultReply f.code f.cause), s)
    | _ => (none, s)
  | _ => (none, s)

/-- R266: the HOPS of this package's entry for another. -/
def State.hopsTo (s : State) (p : Nat) : Nat := bits (SMap.get 0#64 s.podrt p).toNat 16 4

/-- A message that waits for what it acts on; its reply takes `out` clocks. -/
def State.podWait (s : State) (m : PodMsg) (out : Nat := 0) : State := { s with podIn := s.podIn ++ [(s.clock + 1, out, m)] }

/-- R266: an arrival of another member at a pod barrier, made the time of its way earlier; one that comes before its launch, or before the barrier's last
release, waits. Where the launch has ended here already, its package is told that nothing of it takes part any more; a team that it never had takes no part, and
the barrier of that pod team never releases. -/
def State.podBarrier (s : State) (m : PodMsg) (g n team bid : Nat) : State :=
  match s.launches.find? fun l => l.2.pod == some (g, n) with
  | none =>
    if n < (s.getPodgrp g).launches then (if team < SMap.get 0 (s.getPodgrp g).teams n then s.tellPeer g n team bid m.src else s)
    else s.podWait m
  | some (id, _) =>
    let k := barKey id team 4 bid 0 0
    let b : Barrier := SMap.get ⟨id, team, 4, bid, [], none, [], [], 0⟩ s.barriers k
    if b.remote.contains m.src then s.podWait m
    else
      let b := { b with remote := insNat m.src b.remote, last := Nat.max b.last (s.clock - 220 * s.hopsTo m.src) }
      { s with barriers := SMap.put s.barriers k b }

/-- R167, R268: a contribution of a member of another package: performed in this package's buffers, and acknowledged once every member of the package is
admitted, until when its sender holds its circuit; one that comes before its launch waits. -/
def State.podContribution (s : State) (m : PodMsg) (out g n team coll rank : Nat) (c : Contrib) : Option PodBody × State :=
  match s.launches.find? fun l => l.2.pod == some (g, n) with
  | none => if n < (s.getPodgrp g).launches then (some .ack, s) else (none, s.podWait m out)
  | some (id, l) =>
    let k := collKey id team coll
    let s := s.extArrives l k rank c
    if ((s.coll? k).map fun x => x.admitted l.ownMembers).getD true then (some .ack, s) else (none, s.podWait m out)

/-- R260: the link by which a message is forwarded: fixed by its line. -/
def State.forwardLink (s : State) (m : PodMsg) : Option Nat :=
  let e := (SMap.get 0#64 s.podrt m.dst).toNat
  let links := (List.range 16).filter fun n => bits e n 1 == 1
  if links.isEmpty then none
  else
    let n := links.getD (m.addr / 64 % links.length) 0
    if (s.getLink n).up then some n else none

/-- R264: what a reply to a context's own load adds to its way back. -/
def State.loadExtra (s : State) (uid : Nat) : Nat :=
  if (s.awaits (((s.splitOf uid).bind List.head?).getD uid)).isSome || (s.awaitsRec uid).isSome || (s.cwAwaits uid).isSome then 90 else 0

/-- R264: the reply to a request: on its way back, to the die within the package, or to IO1, from where it goes to the package that asked. -/
def State.podAnswer (s : State) (m : PodMsg) (out : Nat) (b : PodBody) : State :=
  let r : PodMsg := { src := s.pkgNum, dst := m.src, index := m.index, addr := m.addr, uid := m.uid, body := b }
  { s with podIn := s.podIn ++ [(s.clock + out + (if m.src = s.pkgNum then s.loadExtra m.uid else 0), 0, r)] }

/-- Whether a message asks for something at a place of its target, or in its buffers. -/
def podRequest : PodBody → Bool
  | .contribution _ _ _ _ _ _ => true
  | b => (bodyBytes b).isSome

/-- R264: a request of another package on its way from IO1 to the controller of its place. -/
def State.podInside (s : State) (m : PodMsg) : State :=
  let t := match m.body with
    | .contribution _ _ _ _ _ _ => Tr.stall
    | .write _ _ => (s.podTranslate m.index m.addr m.fw false true).1
    | .atomic _ _ _ _ _ => (s.podTranslate m.index m.addr m.fw true true).1
    | _ => (s.podTranslate m.index m.addr m.fw true false).1
  { s with podIn := s.podIn ++ [(s.clock + s.headIo1 t, s.headIo1 t, m)] }

/-- POD_MESSAGE_ARRIVES (R260 to R264): a message reaches IO1: forwarded, on its way to its place, or served there; a reply of this package leaves it by a
link that it takes as a message of its own. One that is unroutable here is discarded; the spec does not say how the issuer of one that is forwarded learns of
it, and the model tells nobody (DESIGN CHOICE, log 97). -/
def execPodMessageArrives (m : PodMsg) (s : State) : Host.Outcome State Fault Refusal :=
  .next (
    let own := s.podIn.find? fun x => x.1 ≤ s.clock && x.2.2 == m
    let s := match own with
      | some x => { s with podIn := s.podIn.erase x }
      | none => s
    let out := (own.map fun x => x.2.1).getD 0
    if (s.getSocket 17).st != .live then s
    else if m.dst ≠ s.pkgNum then
      match if own.isSome then s.route m.dst m.addr else s.forwardLink m with
      | some n => s.podEmit n m
      | none => s
    else if own.isNone && podRequest m.body then s.podInside m
    else
      let at_ := if own.isSome then s.clock else s.clock + head 17 (s.replyDie m.uid) + match m.body with
        | .reply _ _ => s.loadExtra m.uid
        | _ => 0
      let answered : State := { s with podOut := s.podOut.filter fun x => x.2.uid != m.uid }
      match m.body with
      | .reply data poison => answered.dataReply m.uid at_ data poison
      | .faultReply code cause => answered.faultReply m.uid code cause
      | .ack => answered.acked m.uid at_
      | .barrier g n team bid => s.podBarrier m g n team bid
      | .contribution g n team coll rank c => match s.podContribution m out g n team coll rank c with
        | (some b, s) => s.podAnswer m out b
        | (none, s) => s
      | _ => match s.podServe m with
        | (some b, s) => s.podAnswer m out b
        | (none, s) => s)

/-- POSTED_WRITE_ACK (R263): a posted write is acknowledged at its die; a flush that waits for it may go on. -/
def execPostedWriteAck (uid : Nat) (s : State) : Host.Outcome State Fault Refusal :=
  .next { s with
    posted := s.posted.filter fun p => !(p.uid == uid && decide (p.land ≤ s.clock) && decide (p.due.getD s.clock ≤ s.clock))
    podOut := s.podOut.filter fun m => m.2.uid != uid }

/-! ### Lost messages (R265) -/

/-- R265: messages that have become unroutable: a posted write is lost, and any other access ends with translation fault 0x07. -/
def State.podLose (s : State) (ms : List PodMsg) : State := ms.foldl (fun s m => s.faultReply m.uid 4 7) s

/-- The messages of this package whose destination no link that is UP leads to, lost. -/
def State.unroute (s : State) : State :=
  let gone := s.podOut.filter fun m => (s.route m.2.dst m.2.addr).isNone
  { s with podOut := s.podOut.filter fun m => (s.route m.2.dst m.2.addr).isSome }.podLose (gone.map Prod.snd)

/-- R272, R276: a link goes down. -/
def State.linkDown (s : State) (n : Nat) : State :=
  (s.updLink n fun l => { l with up := false, sess := none, retry := some (s.clock + 2 ^ 24), tagFails := [], queued := [], credit := 0 }).unroute

/-- R276: IO1 is lost: every link goes down, sessions and what waits for a verdict on them are abandoned, and what passes IO1 is unroutable. -/
def State.io1Lost (s : State) : State :=
  let s := ((List.range 16).filter fun n => (s.getLink n).up || (s.getLink n).sess.isSome || s.attpend.getLsbD (18 + n)).foldl (fun s n => s.linkDown n) s
  let s : State := { s with attpend := s.attpend &&& 0x3FFFF#64 }
  let isBar := fun (b : PodBody) => match b with
    | .barrier _ _ _ _ => true
    | _ => false
  let own := s.podIn.filter fun x => x.2.2.src == s.pkgNum && x.2.2.dst == s.pkgNum
  let ms := (own.filter fun x => x.2.2.body != .ack && !isBar x.2.2.body).map fun x => x.2.2
  let acks := own.filter fun x => x.2.2.body == .ack
  let s : State := { s with podIn := s.podIn.filter fun x => isBar x.2.2.body }
  (acks.foldl (fun s x => s.acked x.2.2.uid s.clock) s).podLose ms

/-- R259: the flit rate of a direction of a link, in ninths of a byte a clock. -/
def flitRate : Nat := 1400

/-- R259: the messages that leave a link: at most `n`, within the ninths of a byte that its rate gives. -/
def leave : Nat → Nat → List Nat → List Nat × Nat
  | _, _, [] => ([], 0)
  | 0, c, l => (l, c)
  | n + 1, c, k :: l => if 9 * k ≤ c then leave n (c - 9 * k) l else (k :: l, c)

/-- R259: a clock of a link: messages leave, at most two, within the flit rate. -/
def Link.tick (l : Link) : Link :=
  let (q, c) := leave 2 (l.credit + flitRate) l.queued
  { l with queued := q, credit := c }

/-- R260, R265: the messages of this package that no link took are lost. -/
def State.dropUnsent (s : State) : State :=
  let ms := (s.podOut.filter fun m => m.1 == noLink).map Prod.snd
  if ms.isEmpty then s else ({ s with podOut := s.podOut.filter fun m => m.1 != noLink } : State).podLose ms

/-- One clock of the links (R259), and of what they do not take. -/
def State.linkTick (s : State) : State :=
  ({ s with links := s.links.map fun (l : Nat × Link) => (l.1, l.2.tick) } : State).dropUnsent

end Sys2Proof.Machine
end

