-- ==== Sys2Proof/Machine/Trust.lean ====
section
/-! DEFINITION. Chiplet trust and start-up: identities (R270), attestation (R271, R256), Lerayx sessions (R273), link keys and tag failures (R272, R209),
quarantine and single-die reset (R274 to R276), cold and warm start (R277, R278). What self-tests and training find, and what the dies and far roots
answer, comes with the events (DESIGN CHOICE, log 13). -/

namespace Sys2Proof.Machine

/-! ### Home dies (R84) -/

/-- R84: the die on which a column's fetch unit stands, by the dies that are live. -/
def State.homeRule (s : State) (c : Nat) : Nat := ([0, 1, 2, 3, 4, 5, 6, 7].map (fun i => (c + i) % 8) |>.find? s.dieLive).getD (c % 8)
/-- A column re-homed. -/
def State.rehome (s : State) (c : Nat) : State :=
  s.updCol c fun x => { x with homeDie := if s.homeRule c = c % 8 then none else some (s.homeRule c) }
/-- R84: every column that satisfies `p` re-homed. -/
def State.rehomeIf (s : State) (p : Nat → Bool) : State := ((List.range 32).filter p).foldl (fun s c => s.rehome c) s
/-- R276: the columns that hold no context go back to a home die that has rejoined. -/
def State.rehomeIdle (s : State) : State :=
  s.rehomeIf fun c => (s.getCol c).homeDie.isSome && s.dieLive (c % 8) && [0, 1, 2, 3].all fun k => (s.getCc (ccKey c k)).st == .free

/-! ### Quarantine (R274 to R276) -/

/-- R87, R124: what a LIVE die leaves undone when it leaves the live set. -/
def State.leaveLive (s : State) (k : Nat) : State :=
  if k < 8 then
    let ls := (s.launches.filter fun l => bits l.2.live k 1 == 1).map Prod.fst
    let s := ls.foldl (fun s n => { s.terminateLaunch n with events := (s.terminateLaunch n).events ++ [.quarantined k n] }) s
    let s : State := { s with die := s.die.map fun (d : Nat × Die) =>
      (d.1, { d.2 with tlbis := d.2.tlbis.map fun t => { t with waits := t.waits.filter fun w => ckDie w.1 != k } }) }
    s.rehomeIf fun c => !s.dieLive (s.home c)
  else if k = 17 then s.io1Lost
  else s

/-- R275: a die quarantined for a reason; `failed` says that an attestation failed. -/
def State.quarantine (s : State) (k reason : Nat) (failed : Bool) : State :=
  let was := (s.getSocket k).st
  let s := s.updSocket k fun x => { x with
    st := .quarantined, reason := reason, fails := if failed then Nat.min 255 (x.fails + 1) else x.fails, tagFails := [] }
  if was == .live then s.leaveLive k else s

/-- R273: both sessions of a Lerayx link start, under the mode of attestation now (R254); if they fail, they start again. -/
def State.linkSessions (s : State) (n : Nat) : State :=
  s.updLink n fun l => { l with sess := some (s.clock, s.assisted 2), far := false, retry := some (s.clock + 2 ^ 24) }

/-- R275: a die begins to attest, under the mode of attestation now (R254). -/
def State.attests (s : State) (k : Nat) : State :=
  s.updSocket k fun x => { x with st := .attesting, began := s.clock, assisted := s.assisted 2 }

/-- R276: whether a die that becomes LIVE rejoins: all but those of a cold start. -/
def State.rejoins (s : State) (k : Nat) : Bool := match s.start with
  | some x => x.warm || !x.waits.contains k
  | none => true

/-- R275, R276: a die LIVE; a stack that rejoins has lost its contents, and every line of it is poisoned. The links of an IO1 that rejoins attest again; those of
a start do so in its step 6 (R277). -/
def State.enterLive (s : State) (k : Nat) : State :=
  let rejoins := s.rejoins k
  let waits := s.start.any fun x => x.waits.contains k
  let s := s.updSocket k fun x => { x with st := .live, liveAt := s.clock }
  if rejoins && 8 ≤ k && k < 16 then { s with lost := SMap.put s.lost (k - 8) [] }
  else if k = 17 && !waits then
    ((List.range 16).filter fun n => !(s.getLink n).up && (s.getLink n).retry.isNone).foldl (fun s n => s.linkSessions n) s
  else s

/-- R161: what a single-die reset leaves of a shared engine: its pointer and its counters. -/
def engAfterReset (e : Eng) : Eng := { ptr := e.ptr, fc := e.fc, alt := e.alt, past := e.past }

/-- R276: the registers of a compute die as its reset leaves them: its TLBs and walks, its cores, its engines. The counters of R161 are
reset with the package only. -/
def State.resetDie (s : State) (k : Nat) : State :=
  if k < 8 then { s with
    die := SMap.set {} s.die k { (s.getDie k) with l2 := [], walks := [], merges := [], split := [] }
    core := s.core.filterMap fun x => if x.1 / 32 != k then some x else if x.2.szref = 0 then none else some (x.1, { szref := x.2.szref })
    cd := s.cd.filter fun x => ckDie x.1 != k
    quad := s.quad.filter fun x => x.1 / 8 != k
    eng := s.eng.filterMap fun x =>
      if (x.1 < 128 && x.1 / 16 == k) || (x.1 ≥ 128 && (x.1 - 128) / 4 == k) then
        if engAfterReset x.2 = {} then none else some (x.1, engAfterReset x.2)
      else some x }
  else s

/-- A subject's PEND bit set or cleared (R256). -/
def State.setPend (s : State) (n : Nat) (b : Bool) : State :=
  { s with attpend := if b then s.attpend ||| (1#64 <<< n) else s.attpend &&& ~~~(1#64 <<< n) }

/-- DIEST_RESET (R276): a LIVE die, or one that is ATTESTING, resets alone; IO0 ignores it. -/
def execDiestReset (socket : Nat) (s : State) : Host.Outcome State Fault Refusal :=
  .next (
    let x := s.getSocket socket
    if socket > 17 || socket = 16 || !(x.st == .live || x.st == .attesting) then s
    else (((s.quarantine socket 7 false).resetDie socket).setPend socket false).updSocket socket fun x => { x with resetting := true })

/-- DIEST_REATT (R275). It acts in QUARANTINED, also while the die resets. -/
def execDiestReatt (socket : Nat) (s : State) : Host.Outcome State Fault Refusal :=
  .next (if socket > 17 || (s.getSocket socket).st != .quarantined then s else s.attests socket)

/-- DIE_RESET_END (R276): the die attests again at once. One that attests already goes on (R275). -/
def execDieResetEnd (socket : Nat) (s : State) : Host.Outcome State Fault Refusal :=
  .next (
    let x := s.getSocket socket
    if !x.resetting then s
    else
      let s := s.updSocket socket fun x => { x with resetting := false }
      if x.st == .quarantined then s.attests socket else s)

/-! ### Start-up (R277) -/

/-- R277: the steps that a die takes part in, by the kind of start; `quar` says that it stood QUARANTINED. -/
def takesStep (warm quar : Bool) (k step : Nat) : Bool :=
  match step with
  | 1 => !warm
  | 2 => !warm || k < 8 || k ≥ 16
  | 3 => !warm && 8 ≤ k && k < 16
  | 4 => !warm || quar
  | _ => step ≤ 6

/-- The first step of those that `p` names which a die fails in an attempt. -/
def firstFail (fs : List (Nat × Nat)) (k : Nat) (p : Nat → Bool) : Option Nat := [1, 2, 3, 5, 6].find? fun st => p st && fs.contains (k, st)

/-- R274: the REASON of a failed step: its own for the first three; the table gives none for the steps after attestation, whose failure leaves it
as it was (DESIGN CHOICE, log 102). -/
def Socket.stepReason (x : Socket) (step : Nat) : Nat := if step ≤ 3 then step else x.reason

/-- R270, R277: step 1 of a start: the die reads its fuses and derives its key pair. -/
def State.derive (s : State) (k : Nat) : State := s.updSocket k fun x => { x with ident := some (Config.mldsaPair (Config.fusedSeed k)) }

/-- R277: one die through the steps up to attestation, which it begins. -/
def State.startDie (s : State) (x : Start) (k : Nat) : State × Start :=
  let st := (s.getSocket k).st
  let attests := !x.warm || st == .quarantined || st == .off
  let fails := firstFail x.now k fun n => n ≤ 3 && takesStep x.warm attests k n
  let s := if !x.warm && fails != some 1 then s.derive k else s
  match fails with
  | some n => (s.quarantine k ((s.getSocket k).stepReason n) false, { x with failed := x.failed ++ [(k, n)] })
  | none => if attests then (s.attests k, { x with waits := x.waits ++ [k] })
    else if st == .attesting then (s, { x with waits := x.waits ++ [k] }) else (s, x)

/-- The 18 sockets. -/
def sockets18 : List Nat := List.range 18
/-- The stacks that are live. -/
def State.liveStacks (s : State) : List Nat := (List.range 8).filter fun i => (s.getSocket (8 + i)).st == .live

/-- R277: step 6: the Lerayx peers are attested; a warm start's links come up again when their sessions have succeeded (DEDUCED, log 103). -/
def State.attestPeers (s : State) : State :=
  if (s.getSocket 17).st != .live then s
  else (List.range 16).foldl (fun s n => (if (s.getLink n).up then s.linkDown n else s).linkSessions n) s

/-- R277: the steps after attestation: the dies that failed there, the table, the later steps' failures, the Lerayx peers. -/
def State.startEnds (s : State) (x : Start) : State × Start :=
  let x := { x with failed := x.failed ++ ((x.waits.filter fun k => (s.getSocket k).st != .live).map fun k => (k, 4)), waits := [], six := true }
  let s := if x.warm && !s.ivStacks.isEmpty then s else { s with ivStacks := s.liveStacks }
  let (s, x) := sockets18.foldl (fun (p : State × Start) k =>
    if (p.1.getSocket k).st != .live then p
    else match firstFail x.now k (fun n => 5 ≤ n) with
      | some n => (p.1.quarantine k ((p.1.getSocket k).stepReason n) false, { p.2 with failed := p.2.failed ++ [(k, n)] })
      | none => p) (s, x)
  (s.attestPeers, x)

/-- R278: the stored bits of BOOTSTAT. -/
def bootWord (warm : Bool) (step attempts : Nat) (fatal done : Bool) : DWord :=
  BitVec.ofNat 64 (bit01 warm * 2 ^ 32 + step * 2 ^ 16 + attempts * 2 ^ 8 + bit01 fatal * 4 + bit01 done)

/-- R277: whether a start is fatal. -/
def State.startFatal (s : State) : Bool := (s.getSocket 16).st != .live || s.liveDies.isEmpty || s.liveStacks.isEmpty

/-- R277: the steps of an attempt up to attestation. -/
def State.attemptBegins (s : State) (x : Start) : State × Start := sockets18.foldl (fun (p : State × Start) k => p.1.startDie p.2 k) (s, x)

/-- R277: whether a die of a start attests, or, in step 6, a link's sessions run. -/
def State.startWaits (s : State) (x : Start) : Bool :=
  if x.six then (List.range 16).any fun n => (s.getLink n).sess.isSome else x.waits.any fun k => (s.getSocket k).st == .attesting

/-- R277: attempts run until one waits, none has failed, or the third has ended. -/
def State.runStart (s : State) (x : Start) : Nat → State
  | 0 => s
  | fuel + 1 =>
    if s.startWaits x then { s with start := some x }
    else
      let (s, x) := if x.six then (s, x) else s.startEnds x
      if s.startWaits x then { s with start := some x }
      else
        let s := s.rehomeIf fun _ => true
        let step := x.failed.foldl (fun m f => if m = 0 then f.2 else Nat.min m f.2) 0
        let last := if step = 0 then bits s.boot.toNat 16 8 else step
        if x.failed.isEmpty || x.attempt ≥ 3 then
          { s with start := none, boot := bootWord x.warm last x.attempt s.startFatal true }
        else
          let s := x.failed.foldl (fun s f => s.updSocket f.1 fun y => { y with st := if y.st == .quarantined then .off else y.st }) s
          let s : State := { s with boot := bootWord x.warm last (x.attempt + 1) false false }
          let (s, x) := s.attemptBegins
            { x with attempt := x.attempt + 1, now := x.rest.headD [], rest := x.rest.drop 1, failed := [], waits := [], six := false }
          s.runStart x fuel

/-- A start-up from its first attempt. -/
def State.startUp (s : State) (warm : Bool) (attempts : List (List (Nat × Nat))) : State :=
  let s : State := { s with boot := bootWord warm 0 1 false false }
  let (s, x) := s.attemptBegins ⟨warm, 1, attempts.headD [], attempts.drop 1, [], [], false⟩
  s.runStart x 4

/-- R277: a start-up that waited goes on once nothing of it waits. -/
def State.startGoesOn (s : State) : State :=
  match s.start with
  | some x => { s with start := none }.runStart x 4
  | none => s

/-- R12, R277: the package as its reset leaves it; host memory, the clock and the repair fuses are not reset. -/
def State.packageReset (s : State) : State :=
  { State.reset with
    clock := s.clock, phase := s.phase, issueCol := s.issueCol, inbox := s.inbox, freeCtr := s.freeCtr, uid := s.uid
    mem := s.mem.filter fun c => isHost c.1, poison := s.poison.filter fun l => isHost (64 * l)
    repair := s.repair.map fun (r : Nat × Repair) => (r.1, { r.2 with counts := [], logged := [] }) }

/-- COLD_START (R277): a fundamental reset, and a start-up in which each attempt's failures are (socket, step). -/
def execColdStart (attempts : List (List (Nat × Nat))) (s : State) : Host.Outcome State Fault Refusal :=
  .next (s.packageReset.startUp false attempts)

/-- No context of any launch exists (R277, R379). -/
def State.noContexts (s : State) : Bool := (s.cc.all fun x => x.2.st == .free) && s.swaps.isEmpty

/-- BOOTSTAT_WARM (R277): a warm start, where no context of any launch exists; also in place of a start that runs, whose table is then built where that
start has not built it (DESIGN CHOICE, log 103). -/
def execBootstatWarm (attempts : List (List (Nat × Nat))) (s : State) : Host.Outcome State Fault Refusal :=
  .next (if s.noContexts && (s.start.isSome || s.started) then s.startUp true attempts else s)

/-! ### Attestation (R271, R256) -/

/-- R271: the checks of a package root on an exchange: the chain verifies to the fused root key, the CHALLENGE signature verifies by the chain's own key, and
every measurement reported stands in the list. What was not asked for does not verify. -/
def exChainOk (x : Exchange) : Bool := x.requests.contains .getCertificate && Config.chainVerifies Config.rootKey x.chain
def exSignatureOk (x : Exchange) : Bool :=
  x.requests.contains .challenge && Config.mldsaVerifies (Config.leafKey x.chain) x.signed x.signature
def exListed (x : Exchange) : Bool :=
  x.requests.contains .getMeasurements && x.measurements.all fun m => Config.accepted.contains m

/-- R271, R274: the REASON with which the root refuses an exchange that has ended; none where it accepts it. -/
def exRefusal (x : Exchange) : Option Nat :=
  if !exChainOk x || !exSignatureOk x then some 4 else if !exListed x then some 5 else none

/-- R256: the messages of an exchange, each behind its length, cut at the last whole message that fits `room` bytes; and whether it was cut. -/
def evidenceBytes (room : Nat) : List (List Byte) → List Byte × Bool
  | [] => ([], false)
  | m :: ms =>
    if m.length + 4 > room then ([], true)
    else
      let (l, c) := evidenceBytes (room - (m.length + 4)) ms
      (leBytes 4 m.length ++ m ++ l, c)

/-- R256: the evidence of a subject but for its length: the messages, and the root's checks. -/
def exEvidence (x : Exchange) : List Byte :=
  let (l, c) := evidenceBytes (2 ^ 16 - 12) x.messages
  l ++ leBytes 4 (bit01 (exChainOk x) + bit01 (exSignatureOk x) * 2 + bit01 (exListed x) * 4 + bit01 c * 2 ^ 31)

/-- R256: the evidence of a subject written at its block of the region, its length first; then its PEND bit. -/
def State.writeEvidence (s : State) (n : Nat) (x : Exchange) : State :=
  let at_ := (bits s.evbase.toNat 16 36 + n) * 2 ^ 16
  let l := exEvidence x
  (s.store at_ (leBytes 8 l.length ++ l)).setPend n true

/-- R271: 2 seconds, in clocks of 1.8 GHz (R8). -/
def exchangeClocks : Nat := 3600000000

/-- R271: whether an exchange that began at a clock is over its time. -/
def State.overTime (s : State) (began : Nat) : Bool := Nat.ble (began + exchangeClocks) s.clock

/-- R272: the keys of a die's link, one for each direction, derive from its session. -/
def State.dieKeys (s : State) (k : Nat) : State :=
  let (u, s) := s.fresh
  s.updSocket k fun x => { x with tx := { sess := u }, rx := { sess := u } }

/-- ATTESTATION_EXCHANGE (R271): a die's exchange ends, without an SPDM error where `ended`. In hardware mode the root judges it; in host-assisted mode it writes the evidence
and waits, an exchange that failed as such apart. -/
def execAttestationExchange (socket : Nat) (x : Exchange) (ended : Bool) (s : State) : Host.Outcome State Fault Refusal :=
  .next (
    let y := s.getSocket socket
    if y.st != .attesting || s.attpend.getLsbD socket then s
    else if !ended || s.overTime (y.began + 1) then (s.quarantine socket 6 true).startGoesOn
    else if y.assisted then (s.dieKeys socket).writeEvidence socket x
    else match exRefusal x with
      | none => ((s.dieKeys socket).enterLive socket).startGoesOn
      | some r => (s.quarantine socket r true).startGoesOn)

/-- R273: the sessions of a link have failed: it stays down, and they start again 2^24 clocks later, unless the host has taken the link out of PODRT. -/
def State.sessionsFail (s : State) (n : Nat) : State :=
  (s.updLink n fun l => { l with sess := none, far := false, retry := l.retry.map fun _ => s.clock + 2 ^ 24 }).startGoesOn

/-- ATTESTATION_TIMEOUT (R271): the exchange of a die, or a session of a link (R273), did not end in 2 seconds. -/
def execAttestationTimeout (subject : Nat) (s : State) : Host.Outcome State Fault Refusal :=
  .next (
    if subject < 18 then
      let y := s.getSocket subject
      if y.st != .attesting || s.attpend.getLsbD subject || !s.overTime y.began then s else (s.quarantine subject 6 true).startGoesOn
    else if subject < 34 && (s.getLink (subject - 18)).sess.any fun x => s.overTime x.1 then s.sessionsFail (subject - 18)
    else s)

/-- R256: a verdict acts on a subject whose evidence waits, at expert level. -/
def State.verdictOn (s : State) (subject : Nat) : Bool := subject < 34 && s.attpend.getLsbD subject && s.expert 2

/-- R259, R273: a Lerayx link UP. -/
def State.linkUp (s : State) (n : Nat) : State := s.updLink n fun l => { l with up := true, sess := none, retry := none }

/-- ATTVERD_ACCEPT (R256): a die is LIVE; a link is UP, where the far root's session has succeeded too (R273) and IO1 is LIVE. -/
def execAttverdAccept (subject : Nat) (s : State) : Host.Outcome State Fault Refusal :=
  .next (if !s.verdictOn subject then s
    else
      let s := s.setPend subject false
      if subject < 18 then (s.enterLive subject).startGoesOn
      else if (s.getLink (subject - 18)).far && (s.getSocket 17).st == .live then s.linkUp (subject - 18)
      else s.sessionsFail (subject - 18))

/-- ATTVERD_REFUSE (R256): a die is quarantined with reason 9; a link stays down, and its sessions start again (R273). -/
def execAttverdRefuse (subject : Nat) (s : State) : Host.Outcome State Fault Refusal :=
  .next (if !s.verdictOn subject then s
    else
      let s := s.setPend subject false
      if subject < 18 then (s.quarantine subject 9 true).startGoesOn else s.sessionsFail (subject - 18))

/-! ### Lerayx links (R273, R259) -/

/-- R273: this package's root answers the far root's session of a link, with the chain and the key of IO0's own identity (R270). -/
def State.present (s : State) (n : Nat) (challenge : List Byte) : State :=
  match (s.getSocket 16).ident with
  | some i => { s with events := s.events ++ [.presented n (Config.storedChain 16) (Config.mldsaSign i.2 challenge)] }
  | none => s

/-- R273: the keys of a link's directions: what it receives under its own session, what it sends under the far root's. -/
def State.linkKeys (s : State) (n : Nat) : State :=
  let (u, s) := s.fresh
  let (v, s) := s.fresh
  s.updLink n fun l => { l with rx := { sess := u }, tx := { sess := v } }

/-- LERAYX_ATTESTATION (R273): both sessions of a link have ended: this root's own, `x`, and the far root's, in which this root answers and which `far` says
has succeeded. UP needs both. The far end's numbers come with the event. -/
def execLerayxAttestation (link : Nat) (x : Exchange) (ended far : Bool) (e : FarEnd) (s : State) :
    Host.Outcome State Fault Refusal :=
  .next (match (s.getLink link).sess with
    | none => s
    | some (began, assisted) =>
      if link > 15 || (s.getSocket 17).st != .live then s
      else
        let s := s.present link e.challenge
        if !ended || s.overTime (began + 1) then s.sessionsFail link
        else
          let s := (s.linkKeys link).updLink link fun l => { l with peer := e.peer.toNat, peerlx := e.peerlx.toNat, far := far, sess := none }
          if assisted then (s.writeEvidence (18 + link) x).startGoesOn
          else if far && (exRefusal x).isNone then (s.linkUp link).startGoesOn
          else s.sessionsFail link)

/-- LERAYX_SESSION_RETRY (R273): both sessions of a link that has failed start again, every 2^24 clocks while it is down; not while evidence of it waits for
a verdict (DEDUCED, log 103). -/
def execLerayxSessionRetry (link : Nat) (s : State) : Host.Outcome State Fault Refusal :=
  .next (
    let l := s.getLink link
    if link > 15 || l.up || l.sess.isSome || !l.retry.any (fun t => decide (t ≤ s.clock)) || s.attpend.getLsbD (18 + link) || (s.getSocket 17).st != .live then s
    else s.linkSessions link)

/-- R273: the sessions of a link that no PODRT entry names any more are not started again. -/
def State.dropRetries (s : State) : State :=
  { s with links := s.links.map fun l =>
    if s.podrt.any fun e => bits e.2.toNat l.1 1 == 1 then l else (l.1, { l.2 with retry := none }) }

/-- R209, R272: a key after KEY_UPDATE. -/
def LinkKey.rolled (k : LinkKey) : LinkKey := { k with gen := k.gen + 1, flits := 0 }

/-- KEY_ROLLOVER (R209, R272): the sender of one direction of a link takes its new key, in the session that keys the direction.
Order and delivery of its flits do not change. -/
def execKeyRollover (dir : LinkDir) (s : State) : Host.Outcome State Fault Refusal :=
  .next (if dir.subject < 18 then
      if (s.getSocket dir.subject).st == .live then
        s.updSocket dir.subject fun x => if dir.out then { x with tx := x.tx.rolled } else { x with rx := x.rx.rolled }
      else s
    else if dir.subject < 34 && (s.getLink (dir.subject - 18)).up then
      s.updLink (dir.subject - 18) fun l => if dir.out then { l with tx := l.tx.rolled } else { l with rx := l.rx.rolled }
    else s)

/-- R272: the tag failures of the last 2^24 clocks with one more. -/
def tagWindow (clk : Nat) (l : List Nat) : List Nat := clk :: l.filter fun t => clk < t + 2 ^ 24

/-- R259: one more flit replayed. -/
def State.replayFlit (s : State) (n : Nat) : State :=
  s.updLink n fun l => { l with replay := if l.replay = 0xFFFF#16 then l.replay else l.replay + 1#16 }

/-- LINK_TAG_FAILURE (R272): a flit's tag fails: it is replayed; the sixteenth within 2^24 clocks quarantines the die of an interposer
link, or takes a Lerayx link down. -/
def execLinkTagFailure (subject : Nat) (s : State) : Host.Outcome State Fault Refusal :=
  .next (if subject < 18 then
      if (s.getSocket subject).st != .live then s
      else
        let t := tagWindow s.clock (s.getSocket subject).tagFails
        if t.length ≥ 16 then s.quarantine subject 8 false else s.updSocket subject fun x => { x with tagFails := t }
    else if subject < 34 && (s.getLink (subject - 18)).up then
      let t := tagWindow s.clock (s.getLink (subject - 18)).tagFails
      let s := s.replayFlit (subject - 18)
      if t.length ≥ 16 then s.linkDown (subject - 18) else s.updLink (subject - 18) fun l => { l with tagFails := t }
    else s)

/-- LINK_FLIT_REPLAY (R259). -/
def execLinkFlitReplay (link : Nat) (s : State) : Host.Outcome State Fault Refusal :=
  .next (if link ≤ 15 && (s.getLink link).up then s.replayFlit link else s)

/-! ### What the registers show -/

/-- R274: DIEST of a socket; KEYIDX is the index of the key towards the die (DESIGN CHOICE, log 104). -/
def Socket.diest (x : Socket) : Nat :=
  x.fails * 2 ^ 40 + x.reason * 2 ^ 32 + x.tx.gen % 2 * 2 ^ 8 + (match x.st with
    | .off => 0 | .attesting => 1 | .live => 2 | .quarantined => 3)

/-- R278: BOOTSTAT. -/
def State.bootstat (s : State) : Nat :=
  s.liveStacks.foldl (fun m i => m + 2 ^ (48 + i)) 0 + s.liveDies.foldl (fun m d => m + 2 ^ (40 + d)) 0 + s.boot.toNat +
    bit01 (sockets18.any fun k => (s.getSocket k).st == .quarantined) * 2

end Sys2Proof.Machine
end

