-- ==== Sys2Proof/Machine/Device.lean ====
section
/-! DEFINITION. Units of the package that act on its memory and islands: the scrub and HBM repair (R125, R257), power capping (R281), the
migration engine (R283). -/

namespace Sys2Proof.Machine

/-! ### Scrub and repair (R125, R257) -/

/-- R257: the spare rows left in a stack. -/
def State.spares (s : State) (k : Nat) : Nat := (Config.bootSpares k).toNat - (s.getRepair k).mapped.length

/-- R257: THRESH. -/
def State.repThresh (s : State) : Nat := Nat.max 1 (bits s.repctl.toNat 0 16)

/-- R257: whether a row can be mapped out now. -/
def State.canMap (s : State) (k row : Nat) : Bool :=
  s.repDue.isNone && s.spares k > 0 && !(s.getRepair k).mapped.contains row && (s.getSocket (8 + k)).st == .live

/-- BACKGROUND_SCRUB (R125): a soft error of the line of a place, found by the scrub of device memory or by a read: a double error poisons the line of device
memory or of a scratchpad bank; a single one is corrected and counted, in its stack row for device memory (R257), for a scratchpad in its core, where no register shows
the count. -/
def execBackgroundScrub (place : Nat) (double : Bool) (s : State) : Host.Outcome State Fault Refusal :=
  .next (if isSpad place then
      (if place ≥ spadLoc 8 0 0 then s else if double then s.addPoison (place / 64 * 64) 64
       else s.updCore (locCore place) fun k => { k with eccErrs := k.eccErrs + 1 })
    else if place ≥ s.devSize || (s.paFault place).isSome then s
    else if double then s.addPoison (place / 64 * 64) 64
    else
      let (k, a) := s.stackPlace place
      let r := s.getRepair k
      s.setRepair k { r with counts := SMap.upd 0 r.counts (a / 8192) fun n => Nat.min (n + 1) 0xFFFF })

/-- R257: the lowest log entry that is free. -/
def State.freeLog (s : State) : Option Nat := (List.range 64).find? fun i => !(SMap.get 0#64 s.repLog i).getLsbD 63

/-- REPAIR_ROW_THRESHOLD (R257): a row whose count has reached THRESH is mapped out while its stack has a spare, in hardware mode; in
host-assisted mode it is logged once. -/
def execRepairRowThreshold (stack row : Nat) (s : State) : Host.Outcome State Fault Refusal :=
  .next (
    let r := s.getRepair stack
    let n := SMap.get 0 r.counts row
    if stack > 7 || n < s.repThresh || r.mapped.contains row then s
    else if !s.assisted 5 then
      if s.canMap stack row then { s with repDue := some (s.clock, stack, row) } else s
    else if r.logged.contains row then s
    else
      let s := s.setRepair stack { r with logged := insNat row r.logged }
      let e := BitVec.ofNat 64 (2 ^ 63 + stack * 2 ^ 48 + n * 2 ^ 32 + row % 2 ^ 32)
      match s.freeLog with
      | some i => { s with repLog := SMap.set 0#64 s.repLog i e }
      | none => { s with repctl := s.repctl ||| 0x1000000#64 })

/-- REPCMD_MAP (R257): a write of REPCMD with MAP: the row's map starts, or FAIL is set. -/
def execRepcmdMap (stack : Nat) (row : Word) (s : State) : Host.Outcome State Fault Refusal :=
  .next (if stack > 7 || !s.expert 5 then s
    else
      let cmd := stack * 2 ^ 32 + row.toNat
      if s.canMap stack row.toNat then
        { s with repcmd := BitVec.ofNat 64 cmd, repDue := some (s.clock, stack, row.toNat) }
      else { s with repcmd := BitVec.ofNat 64 (2 ^ 62 + cmd) })

/-- REPAIR_MAP_COMPLETE (R257): the row's bytes and poison stand in the spare, to which later accesses go; its count starts anew. -/
def execRepairMapComplete (s : State) : Host.Outcome State Fault Refusal :=
  .next (match s.repDue with
    | some (t, k, row) =>
      if t ≤ s.clock then
        let r := s.getRepair k
        { s.setRepair k { r with mapped := insNat row r.mapped, counts := SMap.erase r.counts row } with repDue := none }
      else s
    | none => s)

/-! ### Power (R281) -/

/-- The running launches of a partition: the frequency classes that they ask for. -/
def State.askedClasses (s : State) (p : Nat) : List Nat :=
  (s.launches.filter fun l => l.2.part == p && !s.launchIdle l.1 l.2).map fun l => l.2.fclass

/-- R281: FCUR after a tick of an island's controller. -/
def nextClass (cur cap pwr : Nat) (asked : List Nat) : Nat :=
  let want := asked.foldl Nat.min 8
  if cap = 0 then (if asked.isEmpty then cur else if want < cur then cur - 1 else if cur < want then cur + 1 else cur)
  else if pwr > cap then Nat.min 7 (cur + 1)
  else if 10 * pwr < 9 * cap && want < cur then cur - 1
  else cur

/-- R281: whether a clock is one on which the controllers act: every 2^20 clocks from reset (DEDUCED, log 101). -/
def controlClock (clk : Nat) : Bool := clk != 0 && clk % 2 ^ 20 == 0

/-- POWER_CONTROL_TICK (R281): a partition's power is measured, and every 2^20 clocks its controller acts in hardware mode. The class changes between two
clocks, which is a bundle-iteration boundary of every column. -/
def execPowerControlTick (part : Nat) (watts : Half) (s : State) : Host.Outcome State Fault Refusal :=
  .next (if part > 31 then s
    else
      let s := s.updPart part fun p => { p with pwr := watts }
      if s.assisted 6 || !controlClock s.clock || (s.getPart part).ticked = s.clock + 1 then s
      else s.updPart part fun p => { p with
        fcur := nextClass p.fcur p.capw.toNat p.pwr.toNat (s.askedClasses part), ticked := s.clock + 1 })

/-! ### Migration (R283) -/

/-- MIGCTL_GO (R283). PCNT begins at 0 with each migration, and the log at its first entry (DESIGN CHOICE, log 116: the rule gives GO no effect on either). -/
def execMigctlGo (s : State) : Host.Outcome State Fault Refusal :=
  .next (if s.migDue.isSome then s else { s with migDue := some s.clock, pcnt := 0#32, migctl := s.migctl ||| (1#64 <<< 62) })

/-- R283: one line copied; a poisoned one is copied with its poison, logged and counted. A line that cannot be reached is left out
(DESIGN CHOICE, log 33). -/
def State.migrateLine (s : State) (src dst : Nat) : State :=
  if (s.paFault src).isSome || (s.paFault dst).isSome then s
  else
    let bad := s.poisoned src 64
    let s := s.storeP dst ((s.readBytes src 64).map fun b => (b, bad))
    if !bad then s
    else
      let n := s.pcnt.toNat
      let s : State := { s with pcnt := s.pcnt + 1#32 }
      if n < 512 then s.store (bits s.migctl.toNat 12 40 * 4096 + 8 * n) (leBytes 8 src)
      else { s with migctl := s.migctl ||| (1#64 <<< 60) }

/-- R283: `n` lines copied in ascending order. -/
def State.migrate (s : State) : Nat → Nat → Nat → State
  | 0, _, _ => s
  | n + 1, src, dst => (s.migrateLine src dst).migrate n (src + 64) (dst + 64)

/-- MIGRATION_COMPLETE (R283): the copy made whole; BUSY clears and DONE is set. -/
def execMigrationComplete (s : State) : Host.Outcome State Fault Refusal :=
  .next (match s.migDue with
    | some t =>
      if t ≤ s.clock then
        let s := s.migrate (bits s.miglen.toNat 6 34) (bits s.migsrc.toNat 6 46 * 64) (bits s.migdst.toNat 6 46 * 64)
        { s with migDue := none, migctl := (s.migctl &&& ~~~(1#64 <<< 62)) ||| (1#64 <<< 61) }
      else s
    | none => s)

end Sys2Proof.Machine
end

