-- ==== Sys2Proof/Machine/Debug.lean ====
section
/-! DEFINITION. What a clock counts as in the profile (R286, R287), samples (R293), and the precise stop (R294, R295). -/

namespace Sys2Proof.Machine

/-! ### Clocks counted (R286 to R288, R293) -/

/-- R286: a clock in which nothing issues in an accumulator, with its reason where there is one. -/
def ProfAcc.stalled (a : ProfAcc) (r : Option Nat) : ProfAcc :=
  { a with
    stall := match r with
      | some r => SMap.upd 0 a.stall r fun n => sat32 (n + 1)
      | none => a.stall
    clks := if a.iter > 0 then sat64 (a.clks + 1) else a.clks }

/-- R286 to R289: a clock of a context counted; by the accumulators not between a freeze and the next iteration. -/
def State.countClock (s : State) (cc : Nat) : State :=
  let c := s.getCc cc
  if !(s.activeNow cc || c.st == .blocked) then s
  else
    let r := s.stallReason cc
    let s := if s.issuedNow cc || c.profOff then s
      else s.updCc cc fun c => { c with loop := c.loop.stalled r, rep := if c.rep.live then c.rep.stalled r else c.rep }
    s.updCc cc fun c => { c with active := if s.activeNow cc && bits (s.prfctl cc) 8 4 != 0 then c.active + 1 else c.active }

/-- PROFILE_SAMPLE (R293): a sample of the iteration that issued on this clock, or of the one that could not, which its schedule cycle
counts (R291). -/
def execProfileSample (cc : Nat) (s : State) : Host.Outcome State Fault Refusal :=
  .next (
    let c := s.getCc cc
    let slog := bits (s.prfctl cc) 8 4
    if cc ≥ 128 || slog = 0 || c.active < 2 ^ (slog + 8) then s
    else
      let (sub, addr) := if s.issuedNow cc then (0xFF, c.lastAddr) else ((s.stallReason cc).getD 0xFF, s.pcNow cc)
      let s := s.updCc cc fun c => { c with active := 0 }
      let h := if s.issuedNow cc then s else s.countNext cc
      s.traceFrom cc (h.recHeader cc 3 sub 1 (s.home (ccCol cc)) addr ++ leBytes 32 0))

/-! ### Precise stop (R295) -/

/-- DBGCTL_STOP (R295): the column stops at the next boundary. -/
def execDbgctlStop (col : Nat) (s : State) : Host.Outcome State Fault Refusal :=
  .next (
    let c := s.getCol col
    if col > 31 || !s.recovExpert || c.dbg = 2 || c.dbg = 3 then s else s.setCol col { c with dbg := 2 })

/-- DBGCTL_RUN (R295). -/
def execDbgctlRun (col : Nat) (s : State) : Host.Outcome State Fault Refusal :=
  .next (
    let c := s.getCol col
    if col > 31 || !s.recovExpert || c.dbg ≠ 3 then s
    else
      let at_ := (s.activeOf col).map fun k => let cs := (s.getCc (ccKey col k)).nextCs; (k, cs.pc.reel, cs.pc.off)
      s.setCol col { c with dbg := 5, resAt := at_ })

/-- DBGCTL_STEP (R295): one iteration of the ACTIVE context, and a stop again. -/
def execDbgctlStep (col : Nat) (s : State) : Host.Outcome State Fault Refusal :=
  .next (
    let c := s.getCol col
    if col > 31 || !s.recovExpert || c.dbg ≠ 3 then s else s.setCol col { c with dbg := 4 })

/-- R295: what of a context on a die still has to land: results in flight, tiles and envelope registers being written. -/
def State.inDrain (s : State) (ck : Nat) : Bool :=
  let c := s.getCd ck
  !c.pend.isEmpty || (c.acc.any fun t => t.2.busy.isSome) || (s.getCore (ckCore ck)).evq.any fun o => o.ck == ck

/-- PRECISE_STOP_DRAIN_END (R295): the drain ends, and the column is stopped. -/
def execPreciseStopDrainEnd (col : Nat) (s : State) : Host.Outcome State Fault Refusal :=
  .next (
    let ccs := [0, 1, 2, 3].map (ccKey col)
    if (s.getCol col).dbg ≠ 2 || ccs.any (fun cc => (s.liveOf cc).any fun d => s.inDrain (ccCk d cc)) then s
    else
      let s := s.updCol col fun c => { c with dbg := 3 }
      let k := match s.activeOf col with
        | some k => some k
        | none => [0, 1, 2, 3].find? fun k => (s.getCc (ccKey col k)).st != .free
      match k with
      | some k => s.eventRecord (ccKey col k) 0x30 (s.home col)
      | none => s)

/-- R295: a column that was resumed, after an iteration of it: it runs on, or a single step's stop begins. -/
def State.dbgAfter (s : State) (col : Nat) : State :=
  if [0, 1, 2, 3].any fun k => s.issuedNow (ccKey col k) then
    s.updCol col fun c => { c with dbg := if c.dbg = 5 then 0 else if c.dbg = 4 then 2 else c.dbg }
  else s

end Sys2Proof.Machine
end

