-- ==== Sys2Proof/Machine/Regs.lean ====
section
/-! DEFINITION. Writes of registers: CSRs at the end of a clock (R318, R319), and the registers that the host reaches (R12 to R14). -/

namespace Sys2Proof.Machine

/-- R12: a W1C field of `mask` written. -/
def w1c {n : Nat} (old v mask : BitVec n) : BitVec n := old &&& ~~~(v &&& mask)
/-- R12, R13: a register whose bits in `mask` are RW. -/
def rw {n : Nat} (old v mask : BitVec n) : BitVec n := (old &&& ~~~mask) ||| (v &&& mask)

/-! ### Registers of a partition, a column, a core (R97 to R294) -/

/-- R290: TRCBASE as a write leaves it: a LOG2SZ outside 12 to 30 is ignored. -/
def trcbaseWritten (old v : DWord) : DWord :=
  let n := bits v.toNat 0 5
  rw old v (if 12 ≤ n && n ≤ 30 then 0x800FFFFFFFFFF01F#64 else 0x800FFFFFFFFFF000#64)

/-- R319: a register of a partition written by the host or by firmware. -/
def State.partWrite (s : State) (p num : Nat) (byFirmware : Bool) (v : DWord) : State :=
  match num with
  | 0x060 => s.updPart p fun x => { x with wswap := v.setWidth 32 }
  | 0x061 => s.updPart p fun x => { x with arbctl := v &&& 0xFFFFFFFFFFFF0000#64 }
  | 0x062 => s.updPart p fun x => { x with fwctl := v.setWidth 32 &&& 0xFF#32 }
  | 0x063 => s.updPart p fun x => { x with podps := v &&& 0x800000000000003F#64 }
  | 0x064 => match execSvbaseWrite p byFirmware v s with
    | .next t => t
    | _ => s
  | 0x065 => s.updPart p fun x => { x with collstall := v.setWidth 32 }
  | 0x0D8 => s.updPart p fun x => { x with trcbase := trcbaseWritten x.trcbase v }
  | 0x0D9 => s.updPart p fun x => { x with trchead := w1c x.trchead v 0xFFFFFFFF00000000#64 }
  | 0x0DA => s.updPart p fun x => { x with trctail := v &&& 0xFFFFFFFF#64 }
  | _ => s

/-- The state after an event of this model, which always answers a next state. -/
def State.after (s : State) (f : State → Host.Outcome State Fault Refusal) : State :=
  match f s with
  | .next t => t
  | _ => s

/-- R237, R294: DBGCTL and FRZINJ written by the host or by firmware, at expert level of error recovery. -/
def State.colWrite (s : State) (col num : Nat) (v : DWord) : State :=
  if !s.recovExpert then s
  else match num with
  | 0x0E0 =>
    let s := s.updCol col fun c => { c with dbgctl := v &&& 0x0400FFFF0000FFFF#64 }
    let s := if v.getLsbD 63 then s.after (execDbgctlStop col) else s
    let s := if v.getLsbD 62 then s.after (execDbgctlRun col) else s
    if v.getLsbD 61 then s.after (execDbgctlStep col) else s
  | 0x0F0 => s.updCol col fun c => { c with frzinj := rw (w1c c.frzinj v 0x2000000000000000#64) v 0xC000FFFFFFFFFFFF#64 }
  | _ => s

/-- R149: MPROG written by the host or by firmware. -/
def State.mprogWrite (s : State) (core : Nat) (v : DWord) : State :=
  let s := if v.getLsbD 30 then s.after (execMprogResume core) else s
  if v.getLsbD 29 then s.after (execMprogAbort core) else s

/-- R120: TRBASE written, while no context of its launch is ACTIVE; the firmware context's own at any time. -/
def State.trbaseWrite (s : State) (ck : Nat) (v : DWord) : State :=
  let v := v &&& 0xFFFFFFFFFFFFE001#64
  if ck ≥ 1024 then s.updCd ck fun c => { c with trbase := v }
  else
    let n := (s.getCc (ckCc ck)).launch
    if s.cc.any fun x => x.2.launch == n && x.2.st == .active then s else s.updCd ck fun c => { c with trbase := v }

/-! ### Registers that contexts write (R319) -/

/-- R45: BFMT written: codes 0xE and 0xF leave it unchanged. -/
def bfmtWritten (m : SMap Word) (b : Nat) (v : Word) : SMap Word := if v.toNat % 16 ≥ 14 then m else SMap.set 0#32 m b (v &&& 0xF#32)

/-- R43, R44, R80, R172, R130: a register of the working set written by its context. -/
def WorkSet.csrWrite (w : WorkSet) (num : Nat) (v : DWord) : WorkSet :=
  let x := v.setWidth 32
  if 0x040 ≤ num && num ≤ 0x047 then { w with vflags := SMap.upd 0#32 w.vflags (num - 0x040) fun o => w1c o x 0x3F#32 }
  else match num with
  | 0x048 => { w with xctl := rw (w1c w.xctl x 1#32) x 2#32 }
  | 0x050 => { w with qctl := x &&& 0x77#32 }
  | 0x058 => w.setTol x
  | 0x059 => { w with eflg := w1c w.eflg x 1#32 }
  | 0x0A0 => { w with cpctl := x &&& 1#32 }
  | _ => w

/-- R319: the registers that a hardware context writes. -/
def hwWrites (num : Nat) : Bool :=
  num == 0x020 || (0x026 ≤ num && num ≤ 0x029) || (0x040 ≤ num && num ≤ 0x048) || num == 0x050 || num == 0x058 || num == 0x059 ||
    num == 0x0A0 || (0x0AC ≤ num && num ≤ 0x0B3) || num == 0x0D0 || (0x100 ≤ num && num ≤ 0x1FF)

/-- R214, R217, R288, R130, R45, R219: the registers of a context and of its core written on a die; a register of the working set in the duplicate set too
where the write stands before the last splice (`pre`). -/
def State.ctxWrite (s : State) (ck num : Nat) (v : DWord) (pre : Bool) : State :=
  let core := ckCore ck
  if num == 0x020 then s.updCd ck fun c => { c with tvec := v &&& 0x0000FFFF00003FF9#64 }
  else if 0x026 ≤ num && num ≤ 0x029 then s.updCd ck fun c => { c with tsc := SMap.set 0#64 c.tsc (num - 0x026) v }
  else if num == 0x0D0 then s.updCd ck fun c => { c with prfctl := v.setWidth 32 &&& 0xFF07#32 }
  else if 0x0AC ≤ num && num ≤ 0x0AF then
    s.updCore core fun k => { k with ch := SMap.upd {} k.ch (num - 0x0AC) fun c => { c with errv := c.errv && !v.getLsbD 24 } }
  else if 0x0B0 ≤ num && num ≤ 0x0B3 then
    s.updCore core fun k => { k with ch := SMap.upd {} k.ch (num - 0x0B0) fun c => { c with stall := w1c c.stall (v.setWidth 32) 0xFFFFFFFF#32 } }
  else if 0x100 ≤ num && num ≤ 0x1FF then
    s.updCore core fun k => { k with bfmt := bfmtWritten k.bfmt (num - 0x100) (v.setWidth 32) }
  else s.updCd ck fun c => { c with ws := c.ws.csrWrite num v, dup := if pre then c.dup.csrWrite num v else c.dup }

/-- R318, R319: a CSRW of a context on a die at the end of its clock. -/
def State.csrApply (s : State) (core : Nat) (w : CsrW) : State :=
  let col := core % 32
  let ck := if w.ctx < 4 then core * 4 + w.ctx else 1024 + core
  if hwWrites w.num then s.ctxWrite ck w.num w.val w.pre
  else if w.ctx < 4 then s
  else if w.num = 0x080 then s.trbaseWrite ck w.val
  else if w.num = 0x0B8 then s.mprogWrite core w.val
  else if w.num = 0x0E0 || w.num = 0x0F0 then s.colWrite col w.num w.val
  else s.partWrite (s.partOfCol col) w.num true w.val

/-- R318: every CSRW of this clock takes effect. -/
def State.csrAll (s : State) : State :=
  s.core.foldl (fun s x =>
    if x.2.csrw.isEmpty then s
    else (s.updCore x.1 fun k => { k with csrw := [] }) |> fun s => x.2.csrw.foldl (fun s w => s.csrApply x.1 w) s) s

/-! ### IO0 -/

/-- R279: the columns of the valid partitions but `p`. -/
def State.otherCols (s : State) (p : Nat) : Word := s.parts.foldl (fun m x => if x.1 != p && x.2.valid then m ||| x.2.cols else m) 0#32

/-- R279: a partition holds a context. -/
def State.partHolds (s : State) (p : Nat) : Bool :=
  let mine := fun n => ((s.launch? n).map (·.part)) == some p
  (s.cc.any fun x => x.2.st != .free && mine x.2.launch) || s.swaps.any fun w => mine w.2.launch

/-- R279: word 0 of PARTCFG. A write while the partition holds a context, which the rule says that the host does not make, is ignored (DESIGN CHOICE,
log 108). -/
def State.partcfg0 (s : State) (p : Nat) (v : DWord) : State :=
  let cols : Word := v.setWidth 32
  if s.partHolds p || (v.getLsbD 63 && s.otherCols p &&& cols != 0#32) then s
  else s.updPart p fun x => { x with
    valid := v.getLsbD 63, guest := v.getLsbD 62, dcmask := bits v.toNat 48 4
    mpw := if bits v.toNat 40 8 = 0 then x.mpw else bits v.toNat 40 8
    cols := cols }

/-- R279: word 1 of PARTCFG. -/
def State.partcfg1 (s : State) (p : Nat) (v : DWord) : State :=
  s.updPart p fun x => { x with fcur := if s.assisted 6 then bits v.toNat 48 3 else x.fcur, capw := BitVec.ofNat 16 (bits v.toNat 16 16) }

/-- R284: CNTPOL. -/
def State.cntpol (s : State) (p : Nat) (v : DWord) : State :=
  let q := bits v.toNat 40 8
  let d := bits v.toNat 32 8
  s.updPart p fun x => { x with qlog := if q ≤ 31 then q else x.qlog, dlog := if 10 ≤ d && d ≤ 31 then d else x.dlog }

/-- R252: a word of a contract record; the RW fields only while it is not admitted. -/
def State.contractWrite (s : State) (k w : Nat) (v : DWord) : State :=
  let c := s.getContract k
  let n := v.toNat
  match w with
  | 0 => if c.st = 1 then s else s.setContract k { c with t := n }
  | 1 => if c.st = 1 then s else s.setContract k { c with c := n }
  | 2 => if c.st = 1 then s else s.setContract k { c with
      pcode := bits n 48 2, kmax := bits n 34 14, fslow := bits n 30 3, clsmask := bits n 26 4, w := bits n 12 6, part := bits n 0 5 }
  | _ =>
    let s := if v.getLsbD 0 then s.after (execContractAdmit k) else s
    if v.getLsbD 1 then s.after (execContractRevoke k) else s

/-- R255: APPRCMD. -/
def State.apprWrite (s : State) (v : DWord) : State :=
  let q := bits v.toNat 0 12
  let waits := match (s.getQueue q).fe with
    | .taken _ _ => true
    | _ => false
  let s : State := if !waits || (v.getLsbD 63 && v.getLsbD 62) then s else { s with apprcmd := v &&& 0xFFF#64 }
  if v.getLsbD 63 && !v.getLsbD 62 then s.after (execApprcmdApprove q)
  else if v.getLsbD 62 && !v.getLsbD 63 then s.after (execApprcmdDeny q)
  else s

/-- R256: ATTVERD. -/
def State.verdWrite (s : State) (v : DWord) : State :=
  let n := bits v.toNat 0 6
  let s : State := if n > 33 || !s.attpend.getLsbD n || (v.getLsbD 63 && v.getLsbD 62) then s else { s with attverd := v &&& 0x3F#64 }
  if v.getLsbD 63 && !v.getLsbD 62 then s.after (execAttverdAccept n)
  else if v.getLsbD 62 && !v.getLsbD 63 then s.after (execAttverdRefuse n)
  else s

/-- R257: REPCMD. -/
def State.repcmdWrite (s : State) (v : DWord) : State :=
  let k := bits v.toNat 32 3
  if v.getLsbD 63 then s.after (execRepcmdMap k (v.setWidth 32))
  else { s with repcmd := rw s.repcmd v 0x00000007FFFFFFFF#64 }

/-- R274: DIEST of a socket. -/
def State.diestWrite (s : State) (k : Nat) (v : DWord) : State :=
  let s := if v.getLsbD 17 then s.after (execDiestReset k) else s
  if v.getLsbD 16 then s.after (execDiestReatt k) else s

/-- R282: LENDc. The order of the two fields within one write is not stated: RECALL acts on the column as it stands before the write, and where that starts a
recall, LENT is left to the recall, whatever the write holds for it (DESIGN CHOICE, log 101). -/
def State.lendWrite (s : State) (c : Nat) (v : DWord) : State :=
  if v.getLsbD 62 && (s.getCol c).lendReg.getLsbD 63 then (s.after (execLendLent c (v ||| 1#64 <<< 63))).after (execLendRecall c)
  else s.after (execLendLent c v)

/-- R283: MIGCTL. -/
def State.migWrite (s : State) (v : DWord) : State :=
  let s : State := { s with migctl := rw (w1c s.migctl v 0x3000000000000000#64) v 0x000FFFFFFFFFF000#64 }
  if v.getLsbD 63 then s.after execMigctlGo else s

/-- A doubleword of IO0's management space written. Registers that only the host writes ignore firmware. -/
def State.io0Write (s : State) (off : Nat) (byFirmware : Bool) (v : DWord) : State :=
  let host := !byFirmware
  if off % 8 ≠ 0 then s
  else if off = 0x0100 then (if host then s.after (execMgmtmodeWrite v) else s)
  else if off = 0x0110 then (if host && s.expert 3 then s.apprWrite v else s)
  else if off = 0x0120 then (if s.expert 2 then { s with evbase := v &&& 0x000FFFFFFFFF0000#64 } else s)
  else if off = 0x0130 then (if host && s.expert 2 then s.verdWrite v else s)
  else if off = 0x0140 then (if s.expert 5 then { s with repctl := rw (w1c s.repctl v 0x1000000#64) v 0xFFFF#64 } else s)
  else if off = 0x0150 then (if s.expert 5 then s.repcmdWrite v else s)
  else if off = 0x0200 then (if v.getLsbD 31 then s.after (execBootstatWarm []) else s)
  else if 0x0300 ≤ off && off < 0x0300 + 8 * 18 then s.diestWrite ((off - 0x0300) / 8) v
  else if 0x0400 ≤ off && off < 0x0600 then
    (if host && s.expert 3 then
      (if off % 16 = 0 then s.partcfg0 ((off - 0x0400) / 16) v else s.partcfg1 ((off - 0x0400) / 16) v)
    else s)
  else if 0x0600 ≤ off && off < 0x0700 then s.lendWrite ((off - 0x0600) / 8) v
  else if 0x0700 ≤ off && off < 0x0800 then (if s.expert 3 then s.cntpol ((off - 0x0700) / 8) v else s)
  else if off = 0x0800 then { s with migsrc := v &&& 0x000FFFFFFFFFFFC0#64 }
  else if off = 0x0808 then { s with migdst := v &&& 0x000FFFFFFFFFFFC0#64 }
  else if off = 0x0810 then { s with miglen := v &&& 0x000000FFFFFFFFC0#64 }
  else if off = 0x0818 then s.migWrite v
  else if 0x3000 ≤ off && off < 0x3000 + 8 * 64 then
    (if s.expert 5 then { s with repLog := SMap.upd 0#64 s.repLog ((off - 0x3000) / 8) fun e => w1c e v 0x8000000000000000#64 } else s)
  else if 0x8020 ≤ off && off < 0x8000 + 32 * 256 then
    (if host && s.expert 3 then s.contractWrite ((off - 0x8000) / 32) (off % 32 / 8) v else s)
  else if 0xA000 ≤ off && off < 0xA000 + 8 * 64 then
    (if host && s.expert 0 then { s with podspc := SMap.set 0#64 s.podspc ((off - 0xA000) / 8) (v &&& 0xFFFFFFFFFFFFE001#64) } else s)
  else s

/-! ### IO1 -/

/-- R379: PODFORM. -/
def State.podformWrite (s : State) (v : DWord) : State :=
  if !s.noContexts then s
  else
    let n := bits v.toNat 16 7
    let npkg := if 1 ≤ n && n ≤ 64 then n else bits s.podform.toNat 16 7
    { s with podform := BitVec.ofNat 32 (bit01 (v.getLsbD 31) * 2 ^ 31 + npkg * 2 ^ 16 + bits v.toNat 0 6) }

/-- R260: PODRT. The rule has the host write an entry only while no message to its package is in flight; a write made while one is has no effect (DESIGN
CHOICE, log 108: the rule gives it none). -/
def State.podrtWrite (s : State) (p : Nat) (v : DWord) : State :=
  if s.podOut.any fun m => m.2.dst == p then s
  else
    let old := SMap.get 0#64 s.podrt p
    let mask := if bits v.toNat 16 4 = 0 then 0x800000000000FFFF#64 else 0x80000000000FFFFF#64
    { s with podrt := SMap.set 0#64 s.podrt p (rw old v mask) }.dropRetries

/-- R266: a word of PODGRP: written while VALID is 0; VALID itself can be cleared. -/
def State.podgrpWrite (s : State) (k : Nat) (hi : Bool) (v : DWord) : State :=
  let g := s.getPodgrp k
  if g.valid then (if hi || v.getLsbD 63 then s else s.setPodgrp k { g with valid := false })
  else if hi then s.setPodgrp k { g with members := v }
  else s.setPodgrp k { g with valid := v.getLsbD 63, queue := bits v.toNat 0 12, launches := 0, teams := [] }

/-- A doubleword of IO1's management space written. -/
def State.io1Write (s : State) (off : Nat) (byFirmware : Bool) (v : DWord) : State :=
  let host := !byFirmware
  if off % 8 ≠ 0 then s
  else if off = 0x0100 then (if host then s.podformWrite v else s)
  else if 0x0200 ≤ off && off < 0x0200 + 8 * 16 then
    s.updLink ((off - 0x0200) / 8) fun l => { l with replay := w1c l.replay (BitVec.ofNat 16 (bits v.toNat 32 16)) 0xFFFF#16 }
  else if 0x1000 ≤ off && off < 0x1000 + 8 * 64 then (if host then s.podrtWrite ((off - 0x1000) / 8) v else s)
  else if 0x2000 ≤ off && off < 0x2000 + 16 * 16 then
    (if host && s.expert 3 then s.podgrpWrite ((off - 0x2000) / 16) (off % 16 = 8) v else s)
  else s

/-! ### Queues -/

/-- R238: QCFG. -/
def Queue.cfgWrite (q : Queue) (v : DWord) : Queue :=
  let n := bits v.toNat 0 4
  { q with
    contract := bits v.toNat 40 8, part := bits v.toNat 24 5, cls := bits v.toNat 16 2, log2n := if n ≥ 4 then n else q.log2n }

/-- R238: a register of a queue's page written; firmware writes none of them. -/
def State.queueWrite (s : State) (q off : Nat) (byFirmware : Bool) (v : DWord) : State :=
  if q ≥ 4096 || byFirmware then s
  else match off with
  | 0x000 => s.after (execNotify q (v.setWidth 16))
  | 0x008 => if s.expert 3 then s.updQueue q fun x => { x with qbase := v &&& 0x000FFFFFFFFFF000#64 } else s
  | 0x010 => if s.expert 3 then s.updQueue q fun x => x.cfgWrite v else s
  | 0x020 => if s.expert 3 then s.updQueue q fun x => { x with qroot := v &&& 0xFFFFFFFFFFFFE001#64 } else s
  | 0x028 => match bits v.toNat 0 2 with
    | 1 => s.after (execQcmdOpen q)
    | 2 => s.after (execQcmdDestroy q)
    | 3 => s.after (execQcmdClear q)
    | _ => s
  | _ => s

/-- R2: a management request by a socket's number: the I/O dies hold the management registers; sockets 18 to 31 are unpopulated. -/
def State.socketWrite (s : State) (n : BitVec 5) (off : Nat) (byFirmware : Bool) (v : DWord) : State :=
  if n = 16#5 then s.io0Write off byFirmware v
  else if n = 17#5 then s.io1Write off byFirmware v
  else if 18#5 ≤ n then { s with events := s.events ++ [.unpopulated n.toNat] }
  else s

/-! ### The event -/

/-- REGISTER_WRITE (R12): a write of a register by the host or by firmware, field by field under the access codes and levels. -/
def execRegisterWrite (target : RegTarget) (byFirmware : Bool) (v : DWord) (s : State) : Host.Outcome State Fault Refusal :=
  .next (match target with
    | .io0 off => s.io0Write off byFirmware v
    | .io1 off => s.io1Write off byFirmware v
    | .socket n off => s.socketWrite n off byFirmware v
    | .queue q off => s.queueWrite q off byFirmware v
    | .part p num => if p < 32 then s.partWrite p num byFirmware v else s
    | .column col num => if col < 32 then s.colWrite col num v else s
    | .core die core num => if die < 8 && core < 32 && num = 0x0B8 then s.mprogWrite (coreKey die core) v else s
    | .context die col ctx num =>
      if die < 8 && col < 32 && ctx < 4 && num = 0x080 then s.trbaseWrite (ctxKey die col ctx) v else s)

/-! ### What the registers of the management spaces read as -/

/-- R252: a word of a contract record. -/
def Contract.word (c : Contract) (w : Nat) : Nat :=
  match w with
  | 0 => c.t
  | 1 => c.c
  | 2 => c.part + c.w * 2 ^ 12 + c.clsmask * 2 ^ 26 + c.fslow * 2 ^ 30 + c.kmax * 2 ^ 34 + c.pcode * 2 ^ 48
  | _ => c.reason * 2 ^ 48 + c.st * 2 ^ 56

/-- R279: a word of PARTCFG. -/
def Part.cfg (p : Part) (w : Nat) : Nat :=
  if w = 0 then
    bit01 p.valid * 2 ^ 63 + bit01 p.guest * 2 ^ 62 + p.dcmask * 2 ^ 48 + p.mpw * 2 ^ 40 + p.cols.toNat
  else p.fcur * 2 ^ 48 + p.capw.toNat * 2 ^ 16 + p.pwr.toNat

/-- R255: APPRPEND of 64 queues. -/
def State.apprpend (s : State) (k : Nat) : Nat :=
  (List.range 64).foldl (fun m b => match (s.getQueue (64 * k + b)).fe with
    | .taken _ _ => m + 2 ^ b
    | _ => m) 0

/-- R282: LENDc, with RECALLING. -/
def Column.lend (c : Column) : Nat := c.lendReg.toNat + bit01 c.recallAt.isSome * 2 ^ 61

/-- R259: LXSTAT. -/
def Link.stat (l : Link) : Nat :=
  bit01 l.up * 2 ^ 63 + l.replay.toNat * 2 ^ 32 + l.tx.gen % 2 * 2 ^ 16 + l.peerlx * 2 ^ 12 + l.peer

/-- R238: QSTAT and QCFG. -/
def Queue.stat (q : Queue) : Nat :=
  q.err * 2 ^ 48 + (match q.st with
    | .active => 0 | .error => 1 | .closing => 2 | .closed => 3) * 2 ^ 40 + q.rd.toNat * 2 ^ 16 + q.wr.toNat
def Queue.cfg (q : Queue) : Nat := q.contract * 2 ^ 40 + q.part * 2 ^ 24 + q.cls * 2 ^ 16 + q.log2n

/-- R257: REPSPARE. -/
def State.repspare (s : State) : Nat := (List.range 8).foldl (fun m k => m + s.spares k * 2 ^ (8 * k)) 0

/-- What a doubleword of IO0's management space reads as. -/
def State.io0Read (s : State) (off : Nat) : Nat :=
  if off = 0x0100 then s.mgmt.toNat
  else if off = 0x0110 then s.apprcmd.toNat
  else if off = 0x0120 then s.evbase.toNat
  else if off = 0x0128 then s.attpend.toNat
  else if off = 0x0130 then s.attverd.toNat
  else if off = 0x0140 then s.repctl.toNat
  else if off = 0x0148 then s.repspare
  else if off = 0x0150 then s.repcmd.toNat + bit01 s.repDue.isSome * 2 ^ 61
  else if off = 0x0200 then s.bootstat
  else if 0x0300 ≤ off && off < 0x0300 + 8 * 18 then (s.getSocket ((off - 0x0300) / 8)).diest
  else if 0x0400 ≤ off && off < 0x0600 then (s.getPart ((off - 0x0400) / 16)).cfg (off % 16 / 8)
  else if 0x0600 ≤ off && off < 0x0700 then (s.getCol ((off - 0x0600) / 8)).lend
  else if 0x0700 ≤ off && off < 0x0800 then
    (s.getPart ((off - 0x0700) / 8)).qlog * 2 ^ 40 + (s.getPart ((off - 0x0700) / 8)).dlog * 2 ^ 32
  else if off = 0x0800 then s.migsrc.toNat
  else if off = 0x0808 then s.migdst.toNat
  else if off = 0x0810 then s.miglen.toNat
  else if off = 0x0818 then s.migctl.toNat
  else if off = 0x0820 then s.pcnt.toNat
  else if 0x1000 ≤ off && off < 0x1000 + 8 * 64 then s.apprpend ((off - 0x1000) / 8)
  else if 0x3000 ≤ off && off < 0x3000 + 8 * 64 then (SMap.get 0#64 s.repLog ((off - 0x3000) / 8)).toNat
  else if 0x8020 ≤ off && off < 0x8000 + 32 * 256 then (s.getContract ((off - 0x8000) / 32)).word (off % 32 / 8)
  else if 0xA000 ≤ off && off < 0xA000 + 8 * 64 then (SMap.get 0#64 s.podspc ((off - 0xA000) / 8)).toNat
  else 0

/-- What a doubleword of IO1's management space reads as. -/
def State.io1Read (s : State) (off : Nat) : Nat :=
  if off = 0x0100 then s.podform.toNat
  else if 0x0200 ≤ off && off < 0x0200 + 8 * 16 then (s.getLink ((off - 0x0200) / 8)).stat
  else if 0x1000 ≤ off && off < 0x1000 + 8 * 64 then (SMap.get 0#64 s.podrt ((off - 0x1000) / 8)).toNat
  else if 0x2000 ≤ off && off < 0x2000 + 16 * 16 then
    let g := s.getPodgrp ((off - 0x2000) / 16)
    if off % 16 = 8 then g.members.toNat else bit01 g.valid * 2 ^ 63 + g.queue
  else 0

/-- What a register that a write names reads as. -/
def State.regRead (s : State) : RegTarget → Nat
  | .io0 off => s.io0Read off
  | .io1 off => s.io1Read off
  | .socket n off => if n = 16#5 then s.io0Read off else if n = 17#5 then s.io1Read off else 0
  | .queue q off => match off with
    | 0x008 => (s.getQueue q).qbase.toNat
    | 0x010 => (s.getQueue q).cfg
    | 0x018 => (s.getQueue q).stat
    | 0x020 => (s.getQueue q).qroot.toNat
    | _ => 0
  | .part p num => match num with
    | 0x060 => (s.getPart p).wswap.toNat
    | 0x061 => (s.getPart p).arbctl.toNat
    | 0x062 => (s.getPart p).fwctl.toNat
    | 0x063 => (s.getPart p).podps.toNat
    | 0x064 => (s.getPart p).svbase.toNat
    | 0x065 => (s.getPart p).collstall.toNat
    | 0x0D8 => (s.getPart p).trcbase.toNat
    | 0x0D9 => (s.getPart p).trchead.toNat
    | 0x0DA => (s.getPart p).trctail.toNat
    | _ => 0
  | .column col num => (s.csrRead 0 (ccKey col 0) num).getD 0
  | .core die core num => (s.csrRead die (ccKey core 0) num).getD 0
  | .context die col ctx num => (s.csrRead die (ccKey col ctx) num).getD 0

end Sys2Proof.Machine
end

