-- ==== Sys2Proof/Machine/Dispatch.lean ====
section
/-! DEFINITION. One arm for each row of spec/opcode_table.json. -/

namespace Sys2Proof.Machine

def exec (i : Instr) (s : State) : Host.Outcome State Fault Refusal :=
  match i with
  | .add h f => Sys2Proof.Machine.execAdd h f s
  | .sub h f => Sys2Proof.Machine.execSub h f s
  | .mul h f => Sys2Proof.Machine.execMul h f s
  | .mulh h f => Sys2Proof.Machine.execMulh h f s
  | .div h f => Sys2Proof.Machine.execDiv h f s
  | .rem h f => Sys2Proof.Machine.execRem h f s
  | .and h f => Sys2Proof.Machine.execAnd h f s
  | .andn h f => Sys2Proof.Machine.execAndn h f s
  | .or h f => Sys2Proof.Machine.execOr h f s
  | .xor h f => Sys2Proof.Machine.execXor h f s
  | .shl h f => Sys2Proof.Machine.execShl h f s
  | .shr h f => Sys2Proof.Machine.execShr h f s
  | .sra h f => Sys2Proof.Machine.execSra h f s
  | .rol h f => Sys2Proof.Machine.execRol h f s
  | .clz h f => Sys2Proof.Machine.execClz h f s
  | .popc h f => Sys2Proof.Machine.execPopc h f s
  | .min h f => Sys2Proof.Machine.execMin h f s
  | .max h f => Sys2Proof.Machine.execMax h f s
  | .cmp h f => Sys2Proof.Machine.execCmp h f s
  | .sel h f => Sys2Proof.Machine.execSel h f s
  | .mov h f => Sys2Proof.Machine.execMov h f s
  | .addi h f => Sys2Proof.Machine.execAddi h f s
  | .movi h f => Sys2Proof.Machine.execMovi h f s
  | .movhi h f => Sys2Proof.Machine.execMovhi h f s
  | .csrr h f => Sys2Proof.Machine.execCsrr h f s
  | .csrw h f => Sys2Proof.Machine.execCsrw h f s
  | .ld h f => Sys2Proof.Machine.execLd h f s
  | .st h f => Sys2Proof.Machine.execSt h f s
  | .amo h f => Sys2Proof.Machine.execAmo h f s
  | .acas h f => Sys2Proof.Machine.execAcas h f s
  | .bra h f => Sys2Proof.Machine.execBra h f s
  | .brc h f => Sys2Proof.Machine.execBrc h f s
  | .call h f => Sys2Proof.Machine.execCall h f s
  | .loop h f => Sys2Proof.Machine.execLoop h f s
  | .trap h f => Sys2Proof.Machine.execTrap h f s
  | .reel h f => Sys2Proof.Machine.execReel h f s
  | .ret h => Sys2Proof.Machine.execRet h s
  | .tret h => Sys2Proof.Machine.execTret h s
  | .halt h => Sys2Proof.Machine.execHalt h s
  | .mlatch h f => Sys2Proof.Machine.execMlatch h f s
  | .mmul h f => Sys2Proof.Machine.execMmul h f s
  | .mtile h f => Sys2Proof.Machine.execMtile h f s
  | .mzero h f => Sys2Proof.Machine.execMzero h f s
  | .mret h f => Sys2Proof.Machine.execMret h f s
  | .cpy h f => Sys2Proof.Machine.execCpy h f s
  | .cpyg h f => Sys2Proof.Machine.execCpyg h f s
  | .cpchk h f => Sys2Proof.Machine.execCpchk h f s
  | .spxgo h f => Sys2Proof.Machine.execSpxgo h f s
  | .shape h f => Sys2Proof.Machine.execShape h f s
  | .spxcfg h f => Sys2Proof.Machine.execSpxcfg h f s
  | .sbind h f => Sys2Proof.Machine.execSbind h f s
  | .cpdrain h f => Sys2Proof.Machine.execCpdrain h f s
  | .seize h f => Sys2Proof.Machine.execSeize h f s
  | .seizeHold h f => Sys2Proof.Machine.execSeizeHold h f s
  | .sxfer h f => Sys2Proof.Machine.execSxfer h f s
  | .clear h f => Sys2Proof.Machine.execClear h f s
  | .coll h f => Sys2Proof.Machine.execColl h f s
  | .bdrv h f => Sys2Proof.Machine.execBdrv h f s
  | .blat h f => Sys2Proof.Machine.execBlat h f s
  | .eline h f => Sys2Proof.Machine.execEline h f s
  | .emax h f => Sys2Proof.Machine.execEmax h f s
  | .esum h f => Sys2Proof.Machine.execEsum h f s
  | .einfc h f => Sys2Proof.Machine.execEinfc h f s
  | .econj h f => Sys2Proof.Machine.execEconj h f s
  | .eeval h f => Sys2Proof.Machine.execEeval h f s
  | .ebrk h f => Sys2Proof.Machine.execEbrk h f s
  | .eclr h f => Sys2Proof.Machine.execEclr h f s
  | .etol h f => Sys2Proof.Machine.execEtol h f s
  | .esave h f => Sys2Proof.Machine.execEsave h f s
  | .eload h f => Sys2Proof.Machine.execEload h f s
  | .xmov h f => Sys2Proof.Machine.execXmov h f s
  | .xbc h f => Sys2Proof.Machine.execXbc h f s
  | .xred h f => Sys2Proof.Machine.execXred h f s
  | .sig h f => Sys2Proof.Machine.execSig h f s
  | .wsem h f => Sys2Proof.Machine.execWsem h f s
  | .bar h f => Sys2Proof.Machine.execBar h f s
  | .fence h f => Sys2Proof.Machine.execFence h f s
  | .etrig h f => Sys2Proof.Machine.execEtrig h f s
  | .grab h f => Sys2Proof.Machine.execGrab h f s
  | .tlbi h f => Sys2Proof.Machine.execTlbi h f s
  | .cwld h f => Sys2Proof.Machine.execCwld h f s
  | .tlook h f => Sys2Proof.Machine.execTlook h f s
  | .tset h f => Sys2Proof.Machine.execTset h f s
  | .tdrop h f => Sys2Proof.Machine.execTdrop h f s
  | .tdropAll h f => Sys2Proof.Machine.execTdropAll h f s
  | .vld h f => Sys2Proof.Machine.execVld h f s
  | .vst h f => Sys2Proof.Machine.execVst h f s
  | .vlds h f => Sys2Proof.Machine.execVlds h f s
  | .vgath h f => Sys2Proof.Machine.execVgath h f s
  | .vscat h f => Sys2Proof.Machine.execVscat h f s
  | .vrdq h f => Sys2Proof.Machine.execVrdq h f s
  | .vadd h f => Sys2Proof.Machine.execVadd h f s
  | .vsub h f => Sys2Proof.Machine.execVsub h f s
  | .vmul h f => Sys2Proof.Machine.execVmul h f s
  | .vmulh h f => Sys2Proof.Machine.execVmulh h f s
  | .vmad h f => Sys2Proof.Machine.execVmad h f s
  | .vand h f => Sys2Proof.Machine.execVand h f s
  | .vor h f => Sys2Proof.Machine.execVor h f s
  | .vxor h f => Sys2Proof.Machine.execVxor h f s
  | .vshl h f => Sys2Proof.Machine.execVshl h f s
  | .vshr h f => Sys2Proof.Machine.execVshr h f s
  | .vsra h f => Sys2Proof.Machine.execVsra h f s
  | .vmin h f => Sys2Proof.Machine.execVmin h f s
  | .vmax h f => Sys2Proof.Machine.execVmax h f s
  | .vabs h f => Sys2Proof.Machine.execVabs h f s
  | .vneg h f => Sys2Proof.Machine.execVneg h f s
  | .vclz h f => Sys2Proof.Machine.execVclz h f s
  | .vcmp h f => Sys2Proof.Machine.execVcmp h f s
  | .vsel h f => Sys2Proof.Machine.execVsel h f s
  | .vmov h f => Sys2Proof.Machine.execVmov h f s
  | .vmovi h f => Sys2Proof.Machine.execVmovi h f s
  | .vperm h f => Sys2Proof.Machine.execVperm h f s
  | .vcas h f => Sys2Proof.Machine.execVcas h f s
  | .vred h f => Sys2Proof.Machine.execVred h f s
  | .vfadd h f => Sys2Proof.Machine.execVfadd h f s
  | .vfsub h f => Sys2Proof.Machine.execVfsub h f s
  | .vfmul h f => Sys2Proof.Machine.execVfmul h f s
  | .vfma h f => Sys2Proof.Machine.execVfma h f s
  | .vfmin h f => Sys2Proof.Machine.execVfmin h f s
  | .vfmax h f => Sys2Proof.Machine.execVfmax h f s
  | .vfcmp h f => Sys2Proof.Machine.execVfcmp h f s
  | .vfabs h f => Sys2Proof.Machine.execVfabs h f s
  | .vfclass h f => Sys2Proof.Machine.execVfclass h f s
  | .vexp2 h f => Sys2Proof.Machine.execVexp2 h f s
  | .vlog2 h f => Sys2Proof.Machine.execVlog2 h f s
  | .vrcp h f => Sys2Proof.Machine.execVrcp h f s
  | .vrsq h f => Sys2Proof.Machine.execVrsq h f s
  | .vsqrt h f => Sys2Proof.Machine.execVsqrt h f s
  | .vcvt h f => Sys2Proof.Machine.execVcvt h f s
  | .vquant h f => Sys2Proof.Machine.execVquant h f s
  | .vdeq h f => Sys2Proof.Machine.execVdeq h f s
  | .pand h f => Sys2Proof.Machine.execPand h f s
  | .por h f => Sys2Proof.Machine.execPor h f s
  | .pxor h f => Sys2Proof.Machine.execPxor h f s
  | .pnot h f => Sys2Proof.Machine.execPnot h f s
  | .pmov h f => Sys2Proof.Machine.execPmov h f s
  | .pmovV h f => Sys2Proof.Machine.execPmovV h f s
  | .pcnt h f => Sys2Proof.Machine.execPcnt h f s
  | .pfirst h f => Sys2Proof.Machine.execPfirst h f s
  | .pany h f => Sys2Proof.Machine.execPany h f s
  | .nop h cls => Sys2Proof.Machine.execNop h cls s
  | .splice => Sys2Proof.Machine.execSplice s
  | .yield run => Sys2Proof.Machine.execYield run s
  | .bundleIterationIssue col => Sys2Proof.Machine.execBundleIterationIssue col s
  | .exposedResultLands ck => Sys2Proof.Machine.execExposedResultLands ck s
  | .scoreboardWriteLands ck => Sys2Proof.Machine.execScoreboardWriteLands ck s
  | .blockingConditionClears cc => Sys2Proof.Machine.execBlockingConditionClears cc s
  | .contextRetireComplete cc => Sys2Proof.Machine.execContextRetireComplete cc s
  | .barrierRelease bar => Sys2Proof.Machine.execBarrierRelease bar s
  | .teamSwapOut launch team => Sys2Proof.Machine.execTeamSwapOut launch team s
  | .teamReturn swap => Sys2Proof.Machine.execTeamReturn swap s
  | .firmwareContextIssue col word => Sys2Proof.Machine.execFirmwareContextIssue col word s
  | .grabRequestServed => Sys2Proof.Machine.execGrabRequestServed s
  | .tagTableChangeLands core => Sys2Proof.Machine.execTagTableChangeLands core s
  | .pageWalkComplete die => Sys2Proof.Machine.execPageWalkComplete die s
  | .tlbiComplete => Sys2Proof.Machine.execTlbiComplete s
  | .backgroundScrub place double => Sys2Proof.Machine.execBackgroundScrub place double s
  | .bankLockGrant core uid => Sys2Proof.Machine.execBankLockGrant core uid s
  | .copyCommandStart core ch => Sys2Proof.Machine.execCopyCommandStart core ch s
  | .copyWriteLands core ch => Sys2Proof.Machine.execCopyWriteLands core ch s
  | .copyComplete core ch => Sys2Proof.Machine.execCopyComplete core ch s
  | .copyAccessFault core ch => Sys2Proof.Machine.execCopyAccessFault core ch s
  | .shapeRecordArrives ck => Sys2Proof.Machine.execShapeRecordArrives ck s
  | .spxcfgRecordArrives core => Sys2Proof.Machine.execSpxcfgRecordArrives core s
  | .sparseDecodeComplete core => Sys2Proof.Machine.execSparseDecodeComplete core s
  | .mxCommandStart core => Sys2Proof.Machine.execMxCommandStart core s
  | .mxCommandComplete core => Sys2Proof.Machine.execMxCommandComplete core s
  | .matrixFaultPause core => Sys2Proof.Machine.execMatrixFaultPause core s
  | .mprogResume core => Sys2Proof.Machine.execMprogResume core s
  | .mprogAbort core => Sys2Proof.Machine.execMprogAbort core s
  | .engineArbitration eng => Sys2Proof.Machine.execEngineArbitration eng s
  | .sharedTransferComplete eng circ => Sys2Proof.Machine.execSharedTransferComplete eng circ s
  | .directTransferComplete core => Sys2Proof.Machine.execDirectTransferComplete core s
  | .collContributionArrives coll rank c => Sys2Proof.Machine.execCollContributionArrives coll rank c s
  | .collMemberComplete coll rank => Sys2Proof.Machine.execCollMemberComplete coll rank s
  | .collStallEvent coll rank => Sys2Proof.Machine.execCollStallEvent coll rank s
  | .blatWriteLands core => Sys2Proof.Machine.execBlatWriteLands core s
  | .evOperationStart core => Sys2Proof.Machine.execEvOperationStart core s
  | .evOperationComplete core => Sys2Proof.Machine.execEvOperationComplete core s
  | .trapEntry cc => Sys2Proof.Machine.execTrapEntry cc s
  | .systemFaultHandling cc => Sys2Proof.Machine.execSystemFaultHandling cc s
  | .freezeFrame col reason launch => Sys2Proof.Machine.execFreezeFrame col reason launch s
  | .spillComplete cc => Sys2Proof.Machine.execSpillComplete cc s
  | .teamRestore swap cols => Sys2Proof.Machine.execTeamRestore swap cols s
  | .notify q wridx => Sys2Proof.Machine.execNotify q wridx s
  | .qcmdOpen q => Sys2Proof.Machine.execQcmdOpen q s
  | .qcmdDestroy q => Sys2Proof.Machine.execQcmdDestroy q s
  | .qcmdClear q => Sys2Proof.Machine.execQcmdClear q s
  | .packetLaunch q => Sys2Proof.Machine.execPacketLaunch q s
  | .packetOpenrng q => Sys2Proof.Machine.execPacketOpenrng q s
  | .packetWaitsig q => Sys2Proof.Machine.execPacketWaitsig q s
  | .waitsigPoll q => Sys2Proof.Machine.execWaitsigPoll q s
  | .teamStart launch => Sys2Proof.Machine.execTeamStart launch s
  | .completionSignal sig => Sys2Proof.Machine.execCompletionSignal sig s
  | .apprcmdApprove q => Sys2Proof.Machine.execApprcmdApprove q s
  | .apprcmdDeny q => Sys2Proof.Machine.execApprcmdDeny q s
  | .reelArrives col buf => Sys2Proof.Machine.execReelArrives col buf s
  | .contractAdmit k => Sys2Proof.Machine.execContractAdmit k s
  | .contractRevoke k => Sys2Proof.Machine.execContractRevoke k s
  | .contractPeriodStart k => Sys2Proof.Machine.execContractPeriodStart k s
  | .contractBudgetSpent k col => Sys2Proof.Machine.execContractBudgetSpent k col s
  | .mgmtmodeWrite v => Sys2Proof.Machine.execMgmtmodeWrite v s
  | .attestationExchange socket x ended => Sys2Proof.Machine.execAttestationExchange socket x ended s
  | .attestationTimeout subject => Sys2Proof.Machine.execAttestationTimeout subject s
  | .attverdAccept subject => Sys2Proof.Machine.execAttverdAccept subject s
  | .attverdRefuse subject => Sys2Proof.Machine.execAttverdRefuse subject s
  | .lerayxAttestation link x ended far e => Sys2Proof.Machine.execLerayxAttestation link x ended far e s
  | .lerayxSessionRetry link => Sys2Proof.Machine.execLerayxSessionRetry link s
  | .keyRollover dir => Sys2Proof.Machine.execKeyRollover dir s
  | .linkTagFailure subject => Sys2Proof.Machine.execLinkTagFailure subject s
  | .linkFlitReplay link => Sys2Proof.Machine.execLinkFlitReplay link s
  | .diestReset socket => Sys2Proof.Machine.execDiestReset socket s
  | .diestReatt socket => Sys2Proof.Machine.execDiestReatt socket s
  | .dieResetEnd socket => Sys2Proof.Machine.execDieResetEnd socket s
  | .coldStart attempts => Sys2Proof.Machine.execColdStart attempts s
  | .bootstatWarm attempts => Sys2Proof.Machine.execBootstatWarm attempts s
  | .repcmdMap stack row => Sys2Proof.Machine.execRepcmdMap stack row s
  | .repairMapComplete => Sys2Proof.Machine.execRepairMapComplete s
  | .repairRowThreshold stack row => Sys2Proof.Machine.execRepairRowThreshold stack row s
  | .powerControlTick part watts => Sys2Proof.Machine.execPowerControlTick part watts s
  | .lendLent col v => Sys2Proof.Machine.execLendLent col v s
  | .lendRecall col => Sys2Proof.Machine.execLendRecall col s
  | .migctlGo => Sys2Proof.Machine.execMigctlGo s
  | .migrationComplete => Sys2Proof.Machine.execMigrationComplete s
  | .podMessageArrives msg => Sys2Proof.Machine.execPodMessageArrives msg s
  | .postedWriteAck uid => Sys2Proof.Machine.execPostedWriteAck uid s
  | .profileSample cc => Sys2Proof.Machine.execProfileSample cc s
  | .dbgctlStop col => Sys2Proof.Machine.execDbgctlStop col s
  | .dbgctlRun col => Sys2Proof.Machine.execDbgctlRun col s
  | .dbgctlStep col => Sys2Proof.Machine.execDbgctlStep col s
  | .preciseStopDrainEnd col => Sys2Proof.Machine.execPreciseStopDrainEnd col s
  | .registerWrite target byFirmware v => Sys2Proof.Machine.execRegisterWrite target byFirmware v s
  | .frontEndReadLands q => Sys2Proof.Machine.execFrontEndReadLands q s
  | .svbaseWrite part byFirmware v => Sys2Proof.Machine.execSvbaseWrite part byFirmware v s
  | .hostRecoveryChoice cc resume => Sys2Proof.Machine.execHostRecoveryChoice cc resume s

end Sys2Proof.Machine
end

