-- ==== Sys2Proof/Machine/Clock.lean ====
section
/-! DEFINITION. What happens within a clock, and in which order (DEDUCED, log 19): results land, the columns issue in ascending order, engines and
units act, the clock's signals are summed, contexts and launches change, and the next clock begins. -/

-- One declaration is checked after the other, so that few threads are in use at a time.
set_option Elab.async false

namespace Sys2Proof.Machine

/-! ### The events that are due -/

/-- The first of some events that changes the state. -/
def State.firstDue (s : State) (l : List Instr) : Option Instr :=
  l.find? fun i => match exec i s with
    | .next t => t != s
    | _ => true

/-- The context keys whose registers hold results or records in flight. -/
def State.waitingKeys (s : State) : List Nat :=
  let w := fun (c : CtxDie) => !c.pend.isEmpty || !c.recs.isEmpty
  ((s.cd.filter fun x => w x.2).map Prod.fst) ++ (s.core.filter fun x => w x.2.fw).map fun x => 1024 + x.1

/-- What lands at the start of a clock (R79, R81, R122, R138, R147, R169, R184, R247). -/
def State.landings (s : State) : List Instr :=
  (s.waitingKeys.flatMap fun ck => [.exposedResultLands ck, .scoreboardWriteLands ck, .shapeRecordArrives ck]) ++
    (s.core.flatMap fun x =>
      (if x.2.evq.isEmpty then [] else [.evOperationComplete x.1]) ++ (if x.2.mxq.isEmpty then [] else [.mxCommandComplete x.1]) ++
      (if x.2.blat.isEmpty then [] else [.blatWriteLands x.1]) ++
      (if (recCtxs x.1).any fun ck => !(s.getCd ck).recs.isEmpty then [.spxcfgRecordArrives x.1] else [])) ++
    (s.die.flatMap fun x => if x.2.walks.isEmpty then [] else [.pageWalkComplete x.1]) ++
    s.col.flatMap fun x => ((List.range x.2.bufs.length).filter fun i => !((x.2.bufs[i]?).map (·.arrived)).getD true).map fun i =>
      .reelArrives x.1 i

/-- What the engines of a core do at the end of a clock: transfers complete before commands start, and changes of its tag table land (R109). -/
def coreEvents (x : Nat × Core) : List Instr :=
  (if x.2.tagPend.isEmpty then [] else [.tagTableChangeLands x.1]) ++ (x.2.ch.flatMap fun c => if c.2.q.isEmpty then [] else
      [.copyCommandStart x.1 c.1, .copyAccessFault x.1 c.1, .copyWriteLands x.1 c.1, .copyComplete x.1 c.1]) ++
    (if x.2.ch.any fun c => !c.2.q.isEmpty then [.sparseDecodeComplete x.1] else []) ++
    (if x.2.direct.isEmpty then [] else [.directTransferComplete x.1]) ++
    (if x.2.mxq.isEmpty then [] else [.matrixFaultPause x.1]) ++
    (x.2.track.filter fun t => !t.locked).map (fun t => .bankLockGrant x.1 t.uid) ++
    (if x.2.mxq.isEmpty then [] else [.mxCommandStart x.1]) ++ (if x.2.evq.isEmpty then [] else [.evOperationStart x.1])

/-- What the members of a collective do, and the ranks of this package that it may wait for. -/
def State.collEvents (s : State) (x : Nat × Coll) : List Instr :=
  (x.2.members.flatMap fun m => if m.ext then [] else [.collContributionArrives x.1 m.rank {}, .collMemberComplete x.1 m.rank]) ++
    match s.launch? x.2.launch with
    | some l => (List.range l.ownMembers).map fun r => .collStallEvent x.1 (r + s.extMembers l fun p => p < s.pkgNum)
    | none => []

/-- R260, R262: the messages of the package to itself that have arrived. -/
def State.podEvents (s : State) : List Instr :=
  ((s.podIn.filter fun x => x.1 ≤ s.clock).map fun x => .podMessageArrives x.2.2) ++
    (s.posted.filter fun (p : Posted) => match p.due with | some t => Nat.ble t s.clock | none => false).map fun p => .postedWriteAck p.uid

/-- What engines and units do at the end of a clock. -/
def State.unitEvents (s : State) : List Instr :=
  (s.eng.flatMap fun x => x.2.circ.map fun c => .sharedTransferComplete x.1 c.1) ++ s.core.flatMap coreEvents ++
    s.colls.flatMap s.collEvents ++ s.podEvents ++ [.tlbiComplete] ++
    (s.eng.filter fun x => !x.2.reqs.isEmpty || !x.2.circ.isEmpty).map (fun x => .engineArbitration x.1) ++
    s.barriers.map fun b => .barrierRelease b.1

/-- Queues by number, in rotation after the one served last (R239); after a reset queue 0 counts as that (DESIGN CHOICE, log 107: the rule does not say with
which queue the rotation begins). -/
def State.rotation (s : State) : List Nat :=
  let l := s.queues.map Prod.fst
  (l.filter fun q => q > s.feLast) ++ l.filter fun q => q ≤ s.feLast

/-- The events of the front end for a queue, but for its team starts. -/
def queueEvents (q : Nat) : List Instr := [.frontEndReadLands q, .packetLaunch q, .packetOpenrng q, .packetWaitsig q, .waitsigPoll q]

/-- R99: the columns on which a swapped team may return: its own where they can take it, else others of its partition. A team whose areas
hold no core-shared state returns to its own columns, where its launch's other contexts hold that state, unless an injected freeze excludes them (R237; DEDUCED,
log 43). -/
def State.returnCols (s : State) (w : Swap) (l : Launch) : List Nat :=
  w.tcols.foldl (fun cs t =>
    let mine := w.ofTcol t
    let fits := fun c => w.excl != some c && s.pairFor c w.launch && mine.length ≤ (s.freeCtxs c).length && !cs.contains c
    let own := (mine.head?.map fun x => x.2.col).toList
    let all := if !w.stays && (w.excl.isSome || mine.any fun x => x.2.shared) then own ++ s.logicalCols l.part else own
    cs ++ (all.find? fits).toList) []

/-- The events of a team out of its columns, but for its restore. -/
def swapEvents (x : Nat × Swap) : List Instr :=
  (x.2.ctxs.filter fun sv => !sv.spilled).map (fun sv => .spillComplete (ccKey sv.col sv.ctx)) ++ (if x.2.hold then [] else [.teamReturn x.1])

/-- R250: the class in which the arbiter ranks a queue: admitted contracts, then BE0 to BE3. -/
def State.rankClass (s : State) (q : Nat) : Nat :=
  let k := (s.getQueue q).contract
  if k = 0 then (s.getQueue q).cls + 1 else if (s.getContract k).st = 1 then 0 else 4

/-- A swap placed among others: the last that was queued stands first (R99). -/
def insSwap (x : Nat × Swap) : List (Nat × Swap) → List (Nat × Swap)
  | [] => [x]
  | y :: l => if y.2.turn ≤ x.2.turn then x :: y :: l else y :: insSwap x l

/-- R99: the restores of a class's teams, in the order in which they stand at its head. -/
def State.returnEvents (s : State) (cls : Nat) : List Instr :=
  ((s.swaps.filter fun x => x.2.ret && !x.2.hold).foldl (fun l x => insSwap x l) []).filterMap fun x => match s.launch? x.2.launch with
    | some l => if s.rankClass l.queue = cls then some (.teamRestore x.1 (s.returnCols x.2 l)) else none
    | none => none

/-- R99, R239, R242: the teams that the arbiter may grant columns, class by class: those that return, then those that start. -/
def State.grants (s : State) : List Instr :=
  [0, 1, 2, 3, 4].flatMap fun cls => s.returnEvents cls ++ (s.rotation.filter fun q => s.rankClass q == cls).filterMap fun q =>
    match (s.getQueue q).fe with
    | .launching n => some (.teamStart n)
    | _ => none

/-- R281: the controllers of the islands, every 2^20 clocks, with the power last measured. -/
def State.powerEvents (s : State) : List Instr :=
  if controlClock s.clock then s.parts.map fun p => .powerControlTick p.1 p.2.pwr else []

/-- The events of a column context. -/
def ctxEvents (x : Nat × ColCtx) : List Instr :=
  (if x.2.trap.isEmpty then [] else [.trapEntry x.1, .systemFaultHandling x.1]) ++
    (if x.2.st == .blocked then [.blockingConditionClears x.1, .teamSwapOut x.2.launch x.2.team] else []) ++
    (if x.2.st == .retiring then [.contextRetireComplete x.1] else [])

/-- The events of a Lerayx link (R271 to R273). -/
def linkEvents (x : Nat × Link) : List Instr :=
  (if x.2.sess.isSome then [.attestationTimeout (18 + x.1)] else []) ++ (if x.2.retry.isSome then [.lerayxSessionRetry x.1] else []) ++
    if 2 ^ 32 ≤ x.2.tx.flits then [.keyRollover ⟨18 + x.1, true⟩] else []

/-- What contexts, launches and the package's functions do once a clock's signals stand. -/
def State.lifeEvents (s : State) : List Instr :=
  s.cc.flatMap ctxEvents ++ s.swaps.flatMap swapEvents ++ s.rotation.flatMap queueEvents ++ s.grants ++ s.powerEvents ++
    s.launches.map (fun l => .completionSignal l.1) ++
    (s.contracts.filter fun c => c.2.st == 1).flatMap (fun c =>
      .contractPeriodStart c.1 :: c.2.spent.map fun x => .contractBudgetSpent c.1 x.1) ++
    (s.col.filter fun c => c.2.dbg == 2).map (fun c => .preciseStopDrainEnd c.1) ++
    (s.repair.flatMap fun r => r.2.counts.map fun x => .repairRowThreshold r.1 x.1) ++
    (if s.repDue.isSome then [.repairMapComplete] else []) ++ (if s.migDue.isSome then [.migrationComplete] else []) ++
    (s.sockets.filter fun x => x.2.st == .attesting).map (fun x => .attestationTimeout x.1) ++ s.links.flatMap linkEvents

/-! ### The end of a clock -/

/-- R62: the signals of FENCEs whose events have been performed by this clock. -/
def State.fenceSignals (s : State) : State :=
  let due := fun (p : SigPend) => if p.fence != 0 && s.fenceDone p.ck p.fence p.due p.ack then { p with fence := 0, due := s.clock } else p
  { s with core := s.core.map fun x => (x.1, { x.2 with sigs := x.2.sigs.map due }) }

/-- R62: whether a signal lands by a clock. -/
def SigPend.lands (p : SigPend) (clk : Nat) : Bool := p.fence == 0 && Nat.ble p.due clk

/-- R62: the signals of a core that land on this clock, summed and applied. -/
def Core.applySignals (c : Core) (clk : Nat) : Core :=
  let now := c.sigs.filter fun p => p.lands clk
  { c with sem := semApply c.sem (now.foldl sigAdd c.sig), sig := [], sigs := c.sigs.filter fun p => !p.lands clk }

/-- R62: every core's signals. -/
def State.applySignals (s : State) : State := { s with core := s.core.map fun x => (x.1, x.2.applySignals s.clock) }

/-- R130: a clock of a lenient push that waits on a channel. -/
def State.countPush (s : State) (cc : Nat) : State :=
  if (s.getCc cc).blk != some .push then s
  else (s.tryIter (ccCol cc) (cc % 4)).2.att.pushes.eraseDups.foldl (fun s p =>
    s.updChan p.1 p.2 fun c => { c with stall := if c.stall = 0xFFFFFFFF#32 then c.stall else c.stall + 1#32 }) s

/-- R252, R286: a clock of every column context counted. -/
def State.countAll (s : State) : State :=
  s.cc.foldl (fun s x =>
    let s := if x.1 < 128 && s.activeNow x.1 then s.spendClock (ccCol x.1) (x.1 % 4) else s
    (s.countPush x.1).countClock x.1) s

/-- R227: the freezes that were requested on this clock. -/
def State.freezeAll (s : State) : State :=
  s.col.foldl (fun s x =>
    if x.2.frz.isEmpty then s
    else x.2.frz.foldl (fun s f => s.freezeCol x.1 f.reason f.launches) (s.updCol x.1 fun c => { c with frz := [] })) s

/-- R293: the samples of a clock, before what comes at its end moves the contexts. -/
def State.sampleAll (s : State) : State := s.cc.foldl (fun s x => if x.2.active = 0 then s else s.after (execProfileSample x.1)) s

/-- R282: the recalls in progress. -/
def State.recallAll (s : State) : State := s.col.foldl (fun s x => if x.2.recallAt.isSome then s.recallStep x.1 else s) s

/-- The end of a clock: writes of CSRs, the slate buses, one request at the range unit, merge windows, writes to host memory and completion signals that land, bank locks of spills,
signals, barriers, counts, samples, stops, freezes, recalls, what ran on, links, home dies. -/
def State.endClock (s : State) : State :=
  let s := s.csrAll
  let s := s.quad.foldl (fun s x => if x.2.drv.isEmpty && x.2.lat.isEmpty then s else s.busEnd x.1) s
  let s := s.after execGrabRequestServed
  let s := s.mergesEnd.hostLand.compsLand.lateAll.spillBanks
  let s := s.fenceSignals.savedSignals.applySignals
  let s := s.barriers.foldl (fun s b => s.barCheck b.1) s
  let s := s.countAll.sampleAll
  let s := s.col.foldl (fun s x => s.dbgAfter x.1) s
  s.freezeAll.recallAll.sweepOrphans.linkTick.rehomeIdle

/-- R250: the queues that have a READY context on a column count their ages. -/
def State.agesNoted (s : State) : State :=
  s.cc.foldl (fun s x => if x.2.st == .ready then s.noteAges (ccCol x.1) else s) s

/-- The next clock: this clock's trace records are written (R290), SLEFT falls (R250), and what this clock's attempts noted is forgotten. -/
def State.tick (s : State) : State :=
  let s := s.agesNoted.flushTrace
  { s with
    clock := s.clock + 1, phase := 0, issueCol := 0, cur := {}, att := {}
    col := s.col.map fun c => (c.1, { c.2 with sleft := c.2.sleft - 1 })
    cc := s.cc.map fun c => (c.1, { c.2 with why := none }) }

/-! ### The order within a clock -/

/-- The columns from `c` on that have an ACTIVE context, the first of them. -/
def State.nextCol (s : State) (c : Nat) : Option Nat := (List.range 32).find? fun x => c ≤ x && (s.activeOf x).isSome

/-- What a step does: an event, performed on a state; or the model's own move to the next part of the clock. -/
def State.agenda (s : State) : Sum (Instr × State) State :=
  match s.inbox with
  | i :: rest => .inl (i, { s with inbox := rest })
  | [] =>
    match s.phase with
    | 0 => match (if s.issueCol = 0 then s.firstDue s.landings else none) with
      | some i => .inl (i, s)
      | none => match s.nextCol s.issueCol with
        | some c => .inl (.bundleIterationIssue c, { s with issueCol := c + 1 })
        | none => .inr { s with phase := 1 }
    | 1 => match s.firstDue s.unitEvents with
      | some i => .inl (i, s)
      | none => .inr { s with phase := 2 }.endClock
    | _ => match s.firstDue s.lifeEvents with
      | some i => .inl (i, s)
      | none => .inr s.tick

end Sys2Proof.Machine
end

