-- ==== Sys2Proof/Machine/Fetch.lean ====
section
/-! DEFINITION. An instruction of the opcode table placed where the machine fetches its next one. -/

-- One declaration is checked after the other, so that few threads are in use at a time.
set_option Elab.async false

namespace Sys2Proof.Machine

/-- The kernel of the placed launch: one reel of one bundle, and the control word, if any, as entry 1 of the table. -/
def placedKernel (cw : List Instr) : Kernel :=
  { yieldMax := 1, ncw := cw.length, nreel := 1, cw := cw, fpAt := 0, imgAt := 0, imgBanks := [], banks := [], sems := [], named := [],
    reels := [(0, 2)] }

/-- The placed launch: one team of one context, on column 0 and every die. -/
def placedLaunch (cw : List Instr) (clock : Nat) : Launch :=
  { queue := 0, part := 0, cols := [0], dmask := 255, tw := 1, tc := 1, tk := 1, teams := 1, fclass := 0, holdf := false, qsync := false,
    kimg := 0, arg := 0#64, compsig := 0, kernel := placedKernel cw, nextTeam := 1, live := 255, error := false,
    dropped := false, signalled := false, save := none, teamCols := [(0, [0])], trigTeams := [], pod := none, started := clock }

/-- The bundle that issues a slot word at one position: its header (R48), and its slot word (R50). -/
def placedBundle (pos : Nat) (w : Half) : List DWord := [BitVec.ofNat 64 (2 ^ pos), w.setWidth 64]

/-- A package whose compute dies are LIVE and whose column 0 is about to issue the first bundle of a launch's context 0 (DESIGN CHOICE, log 6). -/
def State.placed (s : State) (cw : List Instr) (b : List DWord) : State :=
  let n := s.nextLaunch
  let s : State := { s with
    inbox := [], phase := 0, issueCol := 0, cd := [], launches := SMap.put s.launches n (placedLaunch cw s.clock), nextLaunch := n + 1
    sockets := [0, 1, 2, 3, 4, 5, 6, 7].foldl (fun m d => SMap.put m d { (SMap.get {} m d) with st := .live }) s.sockets }
  let s := s.setCol 0 { queue := some 0, bufs := [{ launch := n, reel := 0, data := b, due := s.clock, poison := [], arrived := true }], pairs := [n] }
  s.setCc 0 { st := .active, cw := (numbered cw).map (fun x => (x.1 + 1, some x.2)), launch := n, stated := 1 }

/-- R50, R59: an instruction of `nbits` bits placed: a slot word of the bundle, or the control word that the bundle's one slot word
names. -/
def State.placeWord (s : State) (nbits w : Nat) : State :=
  if nbits ≤ 16 then s.placed [] (placedBundle 0 (BitVec.ofNat 16 w))
  else match decode (BitVec.ofNat 256 w) with
    | .ok i => s.placed [i] (placedBundle (fwSlot i) 1#16)
    | .error _ => s.placed [] (placedBundle 0 1#16)

end Sys2Proof.Machine
end

