-- ==== Sys2Proof/Machine/Step.lean ====
section
/-! DEFINITION. One step of the machine. -/

-- One declaration is checked after the other, so that few threads are in use at a time.
set_option Elab.async false

namespace Sys2Proof.Machine

/-- One step: the next event of the clock (`State.agenda`), or the move to the clock's next part. Inputs come first, in order. -/
def step (s : State) : Host.Outcome State Fault Refusal :=
  match s.agenda with
  | .inl (i, t) => exec i t
  | .inr t => .next t

/-- The state with an instruction of the opcode table placed where the next step fetches (DESIGN CHOICE, log 6). -/
def State.withFetchWord (s : State) (nbits w : Nat) : State := s.placeWord nbits w

end Sys2Proof.Machine
end

