-- ==== Sys2Proof/Safety.lean ====
section
/-! DEFINITION. What counts as a safe step, and the terms in which statements about steps are made: when an operation may be tried, what it
reads, what it leaves in flight, and what it leaves alone. -/

namespace Sys2Proof

/-- A step is safe when it answers a next state. -/
def StepSafe (s : Machine.State) : Prop := ∃ t, Machine.step s = .next t

namespace Claims

open Machine

/-! ### When an operation issues -/

/-- R62, R92, R218, R221: the cursor stands on an ACTIVE hardware context, the wait of the header holds on every die where the operation is
enabled, and the context's blotter holds no more lines than it has. -/
structure Ready (s : State) (h : Hdr) : Prop where
  col : s.cur.col < 32
  ctx : s.cur.ctx < 4
  active : (s.getCc s.cc0).st = .active
  wait : ∀ d ∈ s.enabled h, h.waitTh.toNat ≤ (s.coreD d).semCount h.waitSem.toNat
  blot : s.blotCount s.cc0 ≤ 128

/-- R79 to R81: no write to the register is in flight when the operation is tried. S0 is never written. -/
def Settled (s : State) (d : Nat) (file : RFile) (n : Nat) : Prop :=
  (file = .s ∧ n = 0) ∨ (s.ctxD d).inFlight s.clock file n = []

/-- R81: no scoreboarded write to the register is in flight. -/
def Writable (s : State) (d : Nat) (file : RFile) (n : Nat) : Prop :=
  ∀ p ∈ (s.ctxD d).inFlight s.clock file n, p.sb = false

/-- R58: a V or P source whose field's lowest bit is `pos` has a value: its latch is filled, or its register is settled. -/
def SrcOk (s : State) (d pos : Nat) (file : RFile) (r : Reg) : Prop :=
  if r.isLatch then SMap.get none (s.slotD d).hold pos ≠ none else Settled s d file r.n

/-- R67: the predicate register of the operation, where it is predicated, is settled. -/
def PrOk (s : State) (d : Nat) (p : Pr) : Prop := p.en = true → Settled s d .p p.reg.toNat

/-! ### What an operation reads -/

/-- A register of the cursor's context on a die. -/
def reg (s : State) (d : Nat) (file : RFile) (n : Nat) : Vec := (s.ctxD d).ws.rd file n
/-- An S register as a number; S0 reads as 0 (R89). -/
def sreg (s : State) (d : Nat) (r : Reg) : Nat := (reg s d .s r.n).toNat
/-- R58: the value of a V or P source. -/
def src (s : State) (d pos : Nat) (file : RFile) (r : Reg) : Vec :=
  if r.isLatch then latchVal file ((SMap.get none (s.slotD d).hold pos).getD 0#512) else reg s d file r.n
/-- R67: whether the operation acts on a lane. -/
def acts (s : State) (d : Nat) (p : Pr) (n : Nat) : Bool := !p.en || ((reg s d .p p.reg.toNat).getLsbD n != p.inv)

/-! ### What an issue leaves in flight, and what it leaves alone -/

/-- R218: an operation of header `h` makes its iteration a splice because it signals. -/
def signals (s : State) (h : Hdr) : Bool := h.sigSem != 0#8 && !(s.enabled h).isEmpty

/-- The state with the splice of the cursor's context made, where there is one. -/
def spliced (s : State) (b : Bool) : State := if b then s.splice s.cc0 else s

/-- R79, R62, R219: the result that an operation at the cursor leaves in flight: when it lands, what it writes, its flags and its signal;
`pre` when its iteration is a splice outside a handler. -/
def resultOf (s : State) (h : Hdr) (b : Bool) (lat : Nat) (file : RFile) (n : Nat) (v mask : Vec) (fl grp : Nat) : Pend :=
  { due := some (s.clock + lat), slot := s.cur.slot, issued := s.clock, sb := false, file := file, idx := n, val := v,
    mask := if file = .s ∧ n = 0 then 0#512 else mask, vfl := BitVec.ofNat 32 fl, grp := grp,
    sigSem := h.sigSem.toNat, sigInc := h.sigInc.toInt, pre := b && !(s.getCc s.cc0).inh, uid := 0, lat := lat, bundle := s.cur.bundle }

/-- A context on a die is as it was but for its results in flight and its latches. -/
def KeptCd (x y : CtxDie) : Prop :=
  x = { y with pend := x.pend, ws := { y.ws with slots := x.ws.slots }, dup := { y.dup with slots := x.dup.slots } }

/-- R193, R191: no access of an earlier iteration of the cursor's context on a die is still to be performed: no load or atomic that awaits its reply or the
end of a merge window, no record on its way, no posted write. -/
structure Calm (s : State) (d : Nat) : Prop where
  reads : ∀ p ∈ (s.ctxD d).pend, p.acc ≠ 0 → p.due = none → s.clock ≤ p.issued
  recs : ∀ r ∈ (s.ctxD d).recs, r.due = none → s.clock ≤ r.issued
  writes : s.postedOf (s.ck0 d) = []

/-- A column context is as it was but for its record of the issue: when it last issued, and until when it stalls. -/
def KeptCc (x y : ColCtx) : Prop :=
  x = { y with lastIss := x.lastIss, why := x.why, portDone := x.portDone, holdUntil := x.holdUntil, holdReason := x.holdReason }

/-- `t` is `u` but for results in flight and latches of the cursor's context on the dies `ds` and for the record of its issue: every other context, every
column context, every core, queue, engine and unit, every byte of memory and its poison are those of `u`. -/
def FrameFrom (s u t : State) (ds : List Nat) : Prop :=
  { t with cd := u.cd, cc := u.cc, att := u.att } = u ∧ (∀ k, (∀ d ∈ ds, k ≠ s.ck0 d) → t.getCd k = u.getCd k) ∧
  (∀ d ∈ ds, KeptCd (t.getCd (s.ck0 d)) (u.getCd (s.ck0 d))) ∧ (∀ k, k ≠ s.cc0 → t.getCc k = u.getCc k) ∧
  KeptCc (t.getCc s.cc0) (u.getCc s.cc0)

/-- The frame of an operation that leaves results in flight on the dies `ds` and changes nothing else: all else is as before the issue, or as the splice that
the issue makes (`b`) leaves it. -/
def Frame (s t : State) (b : Bool) (ds : List Nat) : Prop := FrameFrom s (spliced s b) t ds

/-- The operation issues, and leaves one result in flight on each die where it is enabled: `v d` under `mask d`, with flags `fl d`, for
register `n` of `file`, visible `lat` clocks later. -/
def Delivers (i : Instr) (s : State) (h : Hdr) (lat : Nat) (file : RFile) (n : Nat) (v mask : Nat → Vec) (fl : Nat → Nat) (grp : Nat) :
    Prop :=
  ∃ t, exec i s = .next t ∧ Frame s t (signals s h) (s.enabled h) ∧
    ∀ d ∈ s.enabled h, (t.getCd (s.ck0 d)).pend =
      ((spliced s (signals s h)).getCd (s.ck0 d)).pend ++ [resultOf s h (signals s h) lat file n (v d) (mask d) (fl d) grp]

end Claims

end Sys2Proof
end

