-- ==== Sys2Proof/Certificates/Slice0/Obligations.lean ====
section
/-! DEFINITION. The statements about the model for the provers, with the vocabulary that they share. -/

namespace Sys2Proof.Claims

open Machine

/-! ### Scalar operations (R302, R303, R331) -/

/-- R300: a `w`-bit result extended to 64 bits: by its sign for a signed type. -/
def ext (sg : Bool) {w : Nat} (x : BitVec w) : DWord := if sg then x.signExtend 64 else x.setWidth 64

/-- An S register's low bits at the width of a type. -/
def low (t : Ty) (x : Nat) : BitVec t.width := BitVec.ofNat t.width x

/-- R303: an operation of two S registers, whose result on `w`-bit values is `val`, is visible `lat` clocks after its issue. -/
def Scalar2 (mk : Hdr → FRRR → Instr) (lat : Nat) (val : Bool → (w : Nat) → BitVec w → BitVec w → BitVec w) : Prop :=
  ∀ (s : State) (h : Hdr) (f : FRRR), (mk h f).legal = true → Ready s h →
    (∀ d ∈ s.enabled h, Settled s d .s f.srcA.n ∧ Settled s d .s f.srcB.n ∧ Writable s d .s f.dst.n) →
    Delivers (mk h f) s h lat .s f.dst.n
      (fun d => (ext f.ty.signed (val f.ty.signed f.ty.width (low f.ty (sreg s d f.srcA)) (low f.ty (sreg s d f.srcB)))).setWidth 512)
      (fun _ => BitVec.allOnes 512) (fun _ => 0) 0

/-- The same for an operation of one S register. -/
def Scalar1 (mk : Hdr → FRRR → Instr) (val : (w : Nat) → BitVec w → BitVec w) : Prop :=
  ∀ (s : State) (h : Hdr) (f : FRRR), (mk h f).legal = true → Ready s h →
    (∀ d ∈ s.enabled h, Settled s d .s f.srcA.n ∧ Writable s d .s f.dst.n) →
    Delivers (mk h f) s h 1 .s f.dst.n (fun d => (ext f.ty.signed (val f.ty.width (low f.ty (sreg s d f.srcA)))).setWidth 512)
      (fun _ => BitVec.allOnes 512) (fun _ => 0) 0

/-- The same for an operation of an S register and an immediate. -/
def ScalarImm (mk : Hdr → FRIMM → Instr) (val : Bool → (w : Nat) → BitVec w → BitVec w → BitVec w) : Prop :=
  ∀ (s : State) (h : Hdr) (f : FRIMM), (mk h f).legal = true → Ready s h →
    (∀ d ∈ s.enabled h, Settled s d .s f.srcA.n ∧ Writable s d .s f.dst.n) →
    Delivers (mk h f) s h 1 .s f.dst.n
      (fun d => (ext f.ty.signed (val f.ty.signed f.ty.width (low f.ty (sreg s d f.srcA)) (low f.ty f.imm.toNat))).setWidth 512)
      (fun _ => BitVec.allOnes 512) (fun _ => 0) 0

/-- R331: bits [2w − 1:w] of the exact product. -/
def mulHigh (sg : Bool) (w : Nat) (a b : BitVec w) : BitVec w :=
  if sg then BitVec.ofInt w (a.toInt * b.toInt / 2 ^ w) else BitVec.ofNat w (a.toNat * b.toNat / 2 ^ w)

/-- R41: the quotient, truncated towards zero; all ones for a zero divisor. -/
def quotient (sg : Bool) (w : Nat) (a b : BitVec w) : BitVec w :=
  if b = 0 then BitVec.allOnes w else if sg then a.sdiv b else a.udiv b

/-- R41: the remainder, of the dividend's sign; the dividend for a zero divisor. -/
def remainder (sg : Bool) (w : Nat) (a b : BitVec w) : BitVec w :=
  if b = 0 then a else if sg then a.srem b else a.umod b

/-- Order, signed for a signed type. -/
def less (sg : Bool) {w : Nat} (a b : BitVec w) : Bool := if sg then a.slt b else a.ult b
/-- The smaller and the larger. -/
def least (sg : Bool) (w : Nat) (a b : BitVec w) : BitVec w := if less sg b a then b else a
def most (sg : Bool) (w : Nat) (a b : BitVec w) : BitVec w := if less sg a b then b else a

/-- The number of leading zero bits. -/
def leadingZeros {w : Nat} (a : BitVec w) : Nat := ((List.range w).takeWhile fun i => !a.getLsbD (w - 1 - i)).length
/-- The number of 1 bits. -/
def ones {w : Nat} (a : BitVec w) : Nat := ((List.range w).filter fun i => a.getLsbD i).length

/-- R302: the conditions of CMP and VCMP by their SUB codes. -/
def holdsCond (sg : Bool) {w : Nat} (sub : Nat) (a b : BitVec w) : Bool :=
  match sub with
  | 0 => a == b
  | 1 => a != b
  | 2 => less sg a b
  | 3 => !less sg b a
  | 4 => less sg b a
  | _ => !less sg a b

/-! ### Vector operations (R352 to R356, R368, R369) -/

/-- R353: the width of a vector type's element; .b acts on 32-bit lanes. -/
def vwidth (t : Ty) : Nat := if t = .b then 32 else t.width
/-- R353: element `i` of width `w` of a register. -/
def elem (w : Nat) (v : Vec) (i : Nat) : BitVec w := v.extractLsb' (w * i) w
/-- R353: whether element `i` of width `w` is enabled on a die: by the predicate bit of the lane in which it begins. -/
def elemActs (s : State) (d : Nat) (pr : Pr) (w i : Nat) : Bool := acts s d pr (w * i / 32)

/-- R353, R43: the results that `v`, `mask` and `fl` give on each die: every element of width `w` is `val`, the bits written are those of the
enabled elements, and the flags are those that `flg` gives for the enabled elements. -/
def Elements (s : State) (h : Hdr) (pr : Pr) (w : Nat) (val : Nat → Nat → BitVec w) (flg : Nat → Nat → Nat) (v mask : Nat → Vec)
    (fl : Nat → Nat) : Prop :=
  ∀ d ∈ s.enabled h, (∀ i, w * (i + 1) ≤ 512 → elem w (v d) i = val d i) ∧
    (∀ j < 512, (mask d).getLsbD j = elemActs s d pr w (j / w)) ∧
    ∀ k < 32, (BitVec.ofNat 32 (fl d)).getLsbD k = true ↔
      ∃ i, w * (i + 1) ≤ 512 ∧ elemActs s d pr w i = true ∧ (flg d i).testBit k = true

/-- The first `n` of the three vector sources have values. -/
def SrcsOk (s : State) (d : Nat) (f : FRRR) (n : Nat) : Prop :=
  PrOk s d f.pr ∧ (1 ≤ n → SrcOk s d 91 .v f.srcA) ∧ (2 ≤ n → SrcOk s d 102 .v f.srcB) ∧ (3 ≤ n → SrcOk s d 113 .v f.srcC)

/-- R353: a vector operation of `n` sources in group `h.group`, each enabled element `val` of the sources' elements with the flags `flg`,
visible `lat` clocks after issue. -/
def VectorOp (mk : Hdr → FRRR → Instr) (lat n : Nat) (wd : Ty → Nat)
    (val : (f : FRRR) → (w : Nat) → BitVec w → BitVec w → BitVec w → BitVec w)
    (flg : FRRR → Nat → Nat → Nat → Nat) : Prop :=
  ∀ (s : State) (h : Hdr) (f : FRRR), (mk h f).legal = true → Ready s h →
    (∀ d ∈ s.enabled h, SrcsOk s d f n ∧ Writable s d .v f.dst.n) →
    ∃ v mask fl, Delivers (mk h f) s h lat .v f.dst.n v mask fl h.group.toNat ∧
      Elements s h f.pr (wd f.ty)
        (fun d i => val f (wd f.ty) (elem _ (src s d 91 .v f.srcA) i) (elem _ (src s d 102 .v f.srcB) i) (elem _ (src s d 113 .v f.srcC) i))
        (fun d i => flg f (elem (wd f.ty) (src s d 91 .v f.srcA) i).toNat (elem (wd f.ty) (src s d 102 .v f.srcB) i).toNat
          (elem (wd f.ty) (src s d 113 .v f.srcC) i).toNat) v mask fl

/-- A vector integer operation: two clocks, no flag. -/
def VectorInt (mk : Hdr → FRRR → Instr) (n : Nat) (val : Bool → (w : Nat) → BitVec w → BitVec w → BitVec w → BitVec w) : Prop :=
  VectorOp mk 2 n vwidth (fun f => val f.ty.signed) (fun _ _ _ _ => 0)

/-- R43, R335, R355: the predicate bits that `v` and `mask` give on each die: bit `n` is `val`, written where lane `n` is enabled. -/
def LaneBits (s : State) (h : Hdr) (pr : Pr) (val : Nat → Nat → Bool) (v mask : Nat → Vec) : Prop :=
  ∀ d ∈ s.enabled h, ∀ n < 16, (v d).getLsbD n = val d n ∧ (mask d).getLsbD n = acts s d pr n

end Sys2Proof.Claims

open Sys2Proof Sys2Proof.Machine Sys2Proof.Claims

/-- R302, R303, R331: ADD, SUB, AND, ANDN, OR, XOR and MOV on S registers, one clock after issue, with their frame: nothing else changes. -/
def Sys2Proof.Claims.ScalarLogic : Prop :=
  Scalar2 .add 1 (fun _ _ a b => a + b) ∧ Scalar2 .sub 1 (fun _ _ a b => a - b) ∧
  Scalar2 .and 1 (fun _ _ a b => a &&& b) ∧ Scalar2 .andn 1 (fun _ _ a b => a &&& ~~~b) ∧
  Scalar2 .or 1 (fun _ _ a b => a ||| b) ∧ Scalar2 .xor 1 (fun _ _ a b => a ^^^ b) ∧ Scalar1 .mov (fun _ a => a)

/-- R41, R331: MUL, MULH, DIV, REM, MIN and MAX with their latencies, the edge cases of R41 among them, with their frame. -/
def Sys2Proof.Claims.ScalarMultiplyDivide : Prop :=
  Scalar2 .mul 3 (fun _ _ a b => a * b) ∧ Scalar2 .mulh 3 mulHigh ∧ Scalar2 .div 18 quotient ∧ Scalar2 .rem 18 remainder ∧
  Scalar2 .min 1 least ∧ Scalar2 .max 1 most

/-- R40, R302, R331: the shifts, ROL, CLZ and POPC, with their frame: a shift by the width or more gives zeros or copies of the sign. -/
def Sys2Proof.Claims.ScalarShiftCount : Prop :=
  Scalar2 .shl 1 (fun _ _ a b => a <<< (b.toNat % 256)) ∧ Scalar2 .shr 1 (fun _ _ a b => a >>> (b.toNat % 256)) ∧
  Scalar2 .sra 1 (fun _ _ a b => a.sshiftRight (b.toNat % 256)) ∧ Scalar2 .rol 1 (fun _ _ a b => a.rotateLeft (b.toNat % 256 % 64)) ∧
  Scalar1 .clz (fun _ a => BitVec.ofNat _ (leadingZeros a)) ∧ Scalar1 .popc (fun _ a => BitVec.ofNat _ (ones a))

/-- R302, R331: ADDI, MOVI and MOVHI, with their frame. -/
def Sys2Proof.Claims.ScalarImmediate : Prop :=
  ScalarImm .addi (fun _ _ a b => a + b) ∧ ScalarImm .movi (fun _ _ _ b => b) ∧
  ScalarImm .movhi (fun _ w a b => BitVec.ofNat w (b.toNat % 2 ^ 32 * 2 ^ 32 + a.toNat % 2 ^ 32))

/-- R302, R331: CMP writes the flag F[d]; SEL takes a where F[c] is 1 on the die, else b. With their frame. -/
def Sys2Proof.Claims.CompareSelect : Prop :=
  (∀ (s : State) (h : Hdr) (f : FRRR), (Instr.cmp h f).legal = true → Ready s h →
    (∀ d ∈ s.enabled h, Settled s d .s f.srcA.n ∧ Settled s d .s f.srcB.n ∧ Writable s d .f f.dst.n) →
    Delivers (.cmp h f) s h 1 .f f.dst.n
      (fun d => if holdsCond f.ty.signed f.sub.toNat (low f.ty (sreg s d f.srcA)) (low f.ty (sreg s d f.srcB)) then 1#512 else 0#512)
      (fun _ => 1#512) (fun _ => 0) 0) ∧
  (∀ (s : State) (h : Hdr) (f : FRRR), (Instr.sel h f).legal = true → Ready s h →
    (∀ d ∈ s.enabled h, Settled s d .s f.srcA.n ∧ Settled s d .s f.srcB.n ∧ Settled s d .f f.srcC.n ∧ Writable s d .s f.dst.n) →
    Delivers (.sel h f) s h 1 .s f.dst.n
      (fun d => if (s.ctxD d).ws.f.getLsbD f.srcC.n then reg s d .s f.srcA.n else reg s d .s f.srcB.n)
      (fun _ => BitVec.allOnes 512) (fun _ => 0) 0)

/-- R355, R368: VADD, VSUB, VMUL, VMULH, VMAD, VAND, VOR, VXOR, VMIN and VMAX, element by element under the lane predicate, two clocks after
issue, with their frame. -/
def Sys2Proof.Claims.VectorArithmetic : Prop :=
  VectorInt .vadd 2 (fun _ _ a b _ => a + b) ∧ VectorInt .vsub 2 (fun _ _ a b _ => a - b) ∧ VectorInt .vmul 2 (fun _ _ a b _ => a * b) ∧
  VectorInt .vmulh 2 (fun sg w a b _ => mulHigh sg w a b) ∧ VectorInt .vmad 3 (fun _ _ a b c => a * b + c) ∧
  VectorInt .vand 2 (fun _ _ a b _ => a &&& b) ∧ VectorInt .vor 2 (fun _ _ a b _ => a ||| b) ∧
  VectorInt .vxor 2 (fun _ _ a b _ => a ^^^ b) ∧ VectorInt .vmin 2 (fun sg w a b _ => least sg w a b) ∧
  VectorInt .vmax 2 (fun sg w a b _ => most sg w a b)

/-- R40, R355, R368: VSHL, VSHR, VSRA, VABS, VNEG, VCLZ and VMOV, element by element under the lane predicate, and VMOVI, whose immediate fills
every element; with their frame. -/
def Sys2Proof.Claims.VectorShiftMove : Prop :=
  VectorInt .vshl 2 (fun _ _ a b _ => a <<< (b.toNat % 256)) ∧ VectorInt .vshr 2 (fun _ _ a b _ => a >>> (b.toNat % 256)) ∧
  VectorInt .vsra 2 (fun _ _ a b _ => a.sshiftRight (b.toNat % 256)) ∧
  VectorInt .vabs 1 (fun _ w a _ _ => BitVec.ofNat w a.toInt.natAbs) ∧ VectorInt .vneg 1 (fun _ _ a _ _ => -a) ∧
  VectorInt .vclz 1 (fun _ w a _ _ => BitVec.ofNat w (leadingZeros a)) ∧ VectorInt .vmov 1 (fun _ _ a _ _ => a) ∧
  (∀ (s : State) (h : Hdr) (f : FRIMM), Ready s h → (∀ d ∈ s.enabled h, PrOk s d f.pr ∧ Writable s d .v f.dst.n) →
    ∃ v mask fl, Delivers (.vmovi h f) s h 2 .v f.dst.n v mask fl h.group.toNat ∧
      Elements s h f.pr (vwidth f.ty) (fun _ _ => BitVec.ofNat _ f.imm.toNat) (fun _ _ => 0) v mask fl)

/-- R355, R368: VCMP writes the bits of each enabled element's lanes; VSEL takes a or b by the bit of the element's lane. With their frame. -/
def Sys2Proof.Claims.VectorCompareSelect : Prop :=
  (∀ (s : State) (h : Hdr) (f : FRRR), (Instr.vcmp h f).legal = true → Ready s h →
    (∀ d ∈ s.enabled h, SrcsOk s d f 2 ∧ Writable s d .p f.dst.n) →
    ∃ v mask, Delivers (.vcmp h f) s h 2 .p f.dst.n v mask (fun _ => 0) h.group.toNat ∧
      ∀ d ∈ s.enabled h, ∀ n < 16,
        (v d).getLsbD n = holdsCond f.ty.signed f.sub.toNat (elem f.ty.width (src s d 91 .v f.srcA) (32 * n / f.ty.width))
          (elem f.ty.width (src s d 102 .v f.srcB) (32 * n / f.ty.width)) ∧
        (mask d).getLsbD n = elemActs s d f.pr f.ty.width (32 * n / f.ty.width)) ∧
  (∀ (s : State) (h : Hdr) (f : FRRR), (Instr.vsel h f).legal = true → Ready s h →
    (∀ d ∈ s.enabled h, SrcsOk s d f 2 ∧ SrcOk s d 113 .p f.srcC ∧ Writable s d .v f.dst.n) →
    ∃ v mask fl, Delivers (.vsel h f) s h 2 .v f.dst.n v mask fl h.group.toNat ∧
      Elements s h f.pr (vwidth f.ty)
        (fun d i => if (src s d 113 .p f.srcC).getLsbD (vwidth f.ty * i / 32) then elem _ (src s d 91 .v f.srcA) i
          else elem _ (src s d 102 .v f.srcB) i) (fun _ _ => 0) v mask fl)

/-- R356, R369: VPERM moves lanes, and another SUB of it is refused with its cause; VCAS compares and exchanges lanes at distance 2^s; with their frame. -/
def Sys2Proof.Claims.VectorPermute : Prop :=
  (∀ (s : State) (h : Hdr) (f : FRRR), (Instr.vperm h f).legal = true → Ready s h →
    (∀ d ∈ s.enabled h, SrcsOk s d f (if f.sub = 0 then 2 else 1) ∧ Writable s d .v f.dst.n) →
    ∃ v mask fl, Delivers (.vperm h f) s h 2 .v f.dst.n v mask fl h.group.toNat ∧
      Elements s h f.pr 32
        (fun d n => elem 32 (src s d 91 .v f.srcA)
          (if f.sub = 0 then (elem 32 (src s d 102 .v f.srcB) n).toNat % 16 else (n + f.sub.toNat % 16) % 16))
        (fun _ _ => 0) v mask fl) ∧
  (∀ (h : Hdr) (f : FRRR), (Instr.vperm h f).legal = true → f.srcB = .zero → ∀ x : BitVec 8, x ≠ 0 → x.toNat / 16 ≠ 1 →
    decode (encode (.vperm h { f with sub := x })) = .error 9) ∧
  (∀ (s : State) (h : Hdr) (f : FRRR), (Instr.vcas h f).legal = true → Ready s h →
    (∀ d ∈ s.enabled h, SrcsOk s d f 1 ∧ Writable s d .v f.dst.n) →
    ∃ v mask fl, Delivers (.vcas h f) s h 2 .v f.dst.n v mask fl h.group.toNat ∧
      Elements s h f.pr 32
        (fun d n =>
          let a := elem 32 (src s d 91 .v f.srcA)
          let p := n ^^^ 2 ^ (f.sub.toNat % 4)
          let lo := Nat.min n p
          let b := f.sub.toNat / 8 % 8
          let dir := (f.sub.toNat / 4 % 2 == 1) != (b != 0 && lo.testBit (b - 1))
          if (n == lo) != dir then least f.ty.signed 32 (a n) (a p) else most f.ty.signed 32 (a n) (a p))
        (fun _ _ => 0) v mask fl)

/-! ### Vector floating point, predicates, cross-group operations -/

namespace Sys2Proof.Claims

open Machine

/-- R359: a floating-point operation whose result and flags on element bits are those of `op`, rounded in RM. -/
def VectorFloat (mk : Hdr → FRRR → Instr) (lat n : Nat) (op : FFmt → RM → Nat → Nat → Nat → Nat × Nat) : Prop :=
  VectorOp mk lat n Ty.width (fun f w a b c => BitVec.ofNat w (op f.ty.ffmt (RM.ofCode f.rm.toNat) a.toNat b.toNat c.toNat).1)
    (fun f a b c => (op f.ty.ffmt (RM.ofCode f.rm.toNat) a b c).2)

/-- The value of a finite datum. -/
def fval (f : FFmt) (x : Nat) : Option ℚ :=
  match f.dec x with
  | .fin neg m e => some ((if neg then -1 else 1) * (m : ℚ) * (2 : ℚ) ^ e)
  | _ => none

/-- R67: the enabled lanes of an operation, ascending. -/
def lanesOn (s : State) (d : Nat) (pr : Pr) : List Nat := (List.range 16).filter (acts s d pr)

/-- R335: a predicate operation of `n` sources: bit `k` of the result is `val` of the sources' bits, under the lane predicate. -/
def PredicateOp (mk : Hdr → FRRR → Instr) (n : Nat) (val : Vec → Vec → Nat → Bool) : Prop :=
  ∀ (s : State) (h : Hdr) (f : FRRR), Ready s h →
    (∀ d ∈ s.enabled h, PrOk s d f.pr ∧ SrcOk s d 91 .p f.srcA ∧ (2 ≤ n → SrcOk s d 102 .p f.srcB) ∧ Writable s d .p f.dst.n) →
    ∃ v mask, Delivers (mk h f) s h 2 .p f.dst.n v mask (fun _ => 0) h.group.toNat ∧
      LaneBits s h f.pr (fun d k => val (src s d 91 .p f.srcA) (src s d 102 .p f.srcB) k) v mask

end Sys2Proof.Claims

/-- R361: the mask of VFCLASS has the bit of its input's class and no other; the class is read from the sign, the exponent and the fraction. -/
def Sys2Proof.Claims.ClassMask : Prop :=
  ∀ f ∈ [fmtF32, fmtH16, fmtBF16], ∀ (x k : Nat),
    let neg := x / 2 ^ (f.eb + f.fb) % 2 = 1
    let e := x / 2 ^ f.fb % 2 ^ f.eb
    let m := x % 2 ^ f.fb
    let top := 2 ^ f.eb - 1
    (fClass f x).testBit k = true ↔
      (k = 0 ∧ neg ∧ e = top ∧ m = 0) ∨ (k = 1 ∧ neg ∧ e ≠ 0 ∧ e ≠ top) ∨ (k = 2 ∧ neg ∧ e = 0 ∧ m ≠ 0) ∨ (k = 3 ∧ neg ∧ e = 0 ∧ m = 0) ∨
      (k = 4 ∧ ¬neg ∧ e = 0 ∧ m = 0) ∨ (k = 5 ∧ ¬neg ∧ e = 0 ∧ m ≠ 0) ∨ (k = 6 ∧ ¬neg ∧ e ≠ 0 ∧ e ≠ top) ∨ (k = 7 ∧ ¬neg ∧ e = top ∧ m = 0) ∨
      (k = 8 ∧ e = top ∧ m ≠ 0 ∧ m < 2 ^ (f.fb - 1)) ∨ (k = 9 ∧ e = top ∧ 2 ^ (f.fb - 1) ≤ m)

/-- R359, R361, R367: VFADD, VFSUB, VFMUL, VFMA, VFMIN, VFMAX, VFABS, VFCLASS, VEXP2, VLOG2, VRCP, VRSQ and VSQRT compute each enabled element
with one rounding in RM, land with the latencies of R79 and R367 with the flags of the enabled elements, and leave all else alone. The
element functions are the model's (R29, R37, R38): `FloatBasics` says how they round and what they make of NaNs; `ClassMask` says the mask of VFCLASS.
The values of VEXP2 and VLOG2 are computed to a fixed precision, which is the model's choice (log 23). -/
def Obligations.VectorFloatingPoint : Prop := Sys2Proof.Claims.ClassMask ∧
  VectorFloat .vfadd 4 2 (fun t r a b _ => fAdd t r a b) ∧ VectorFloat .vfsub 4 2 (fun t r a b _ => fSub t r a b) ∧
  VectorFloat .vfmul 4 2 (fun t r a b _ => fMul t r a b) ∧ VectorFloat .vfma 4 3 (fun t r a b c => fFma t r a b c) ∧
  VectorFloat .vfmin 2 2 (fun t _ a b _ => fMinMax t false a b) ∧ VectorFloat .vfmax 2 2 (fun t _ a b _ => fMinMax t true a b) ∧
  VectorFloat .vfabs 2 1 (fun t _ a _ _ => fAbs t a) ∧ VectorFloat .vfclass 2 1 (fun t _ a _ _ => (fClass t a, 0)) ∧
  VectorFloat .vexp2 10 1 (fun _ r a _ _ => fExp2 r a) ∧ VectorFloat .vlog2 10 1 (fun _ r a _ _ => fLog2 r a) ∧
  VectorFloat .vrcp 10 1 (fun _ r a _ _ => fRcp r a) ∧ VectorFloat .vrsq 10 1 (fun _ r a _ _ => fRsq r a) ∧
  VectorFloat .vsqrt 10 1 (fun _ r a _ _ => fSqrt r a)

/-- R37: a number that a format already holds is rounded to itself, in every mode, with no flag. -/
def Sys2Proof.Claims.FloatRoundExact : Prop :=
  ∀ f ∈ [fmtF32, fmtH16, fmtBF16], ∀ (rm : RM) (x m : Nat) (neg : Bool) (e : Int), x < 2 ^ f.width → f.dec x = .fin neg m e →
    roundFl f rm neg m e false = (x, 0)

/-- R29, R37: every NaN that VFADD, VFSUB, VFMUL and VFMA give is the canonical NaN; a signalling NaN among the operands gives it with NV;
a NaN operand gives it in every case. -/
def Sys2Proof.Claims.FloatNan : Prop :=
  ∀ f ∈ [fmtF32, fmtH16, fmtBF16], ∀ (rm : RM) (a b c : Nat),
    let rs := [(fAdd f rm a b, [a, b]), (fSub f rm a b, [a, b]), (fMul f rm a b, [a, b]), (fFma f rm a b c, [a, b, c])]
    ∀ r ∈ rs, ((f.dec r.1.1).isNan = true → r.1.1 = f.nan) ∧
      ((∃ x ∈ r.2, (f.dec x).isNan = true) → r.1.1 = f.nan) ∧
      ((∃ x ∈ r.2, (f.dec x).isSnan = true) → r.1 = (f.nan, flNV))

/-- The side of an infinity, −1 or 1; 0 for every other datum. -/
def Sys2Proof.Claims.side (a : Nat) : Int :=
  match fmtF32.dec a with
  | .inf neg => if neg then -1 else 1
  | _ => 0

/-- R360: VFCMP writes the bit of each enabled lane: by the order of the numbers and infinities where neither operand is a NaN (−0 equals +0), false
for a NaN but for ne and un; NV for a signalling NaN, and for any NaN where the condition orders. With its frame. Another SUB or type is refused
with its cause. -/
def Obligations.VectorFloatCompare : Prop :=
  (∀ (s : State) (h : Hdr) (f : FRRR), (Instr.vfcmp h f).legal = true → Ready s h →
    (∀ d ∈ s.enabled h, SrcsOk s d f 2 ∧ Writable s d .p f.dst.n) →
    ∃ v mask fl, Delivers (.vfcmp h f) s h 2 .p f.dst.n v mask fl h.group.toNat ∧
      LaneBits s h f.pr (fun d n => (fCmp fmtF32 f.sub.toNat (elem 32 (src s d 91 .v f.srcA) n).toNat
        (elem 32 (src s d 102 .v f.srcB) n).toNat).1) v mask ∧
      ∀ d ∈ s.enabled h, ∀ k < 32, (BitVec.ofNat 32 (fl d)).getLsbD k = true ↔ ∃ n < 16, acts s d f.pr n = true ∧
        (fCmp fmtF32 f.sub.toNat (elem 32 (src s d 91 .v f.srcA) n).toNat (elem 32 (src s d 102 .v f.srcB) n).toNat).2.testBit k = true) ∧
  (∀ (a b : Nat) (x y : ℚ), fval fmtF32 a = some x → fval fmtF32 b = some y →
    fCmp fmtF32 0 a b = (decide (x = y), 0) ∧ fCmp fmtF32 1 a b = (decide (x ≠ y), 0) ∧ fCmp fmtF32 2 a b = (decide (x < y), 0) ∧
    fCmp fmtF32 3 a b = (decide (x ≤ y), 0) ∧ fCmp fmtF32 4 a b = (decide (y < x), 0) ∧ fCmp fmtF32 5 a b = (decide (y ≤ x), 0) ∧
    fCmp fmtF32 6 a b = (false, 0)) ∧
  (∀ (a b : Nat), (fmtF32.dec a).isNan = true ∨ (fmtF32.dec b).isNan = true →
    (fCmp fmtF32 0 a b).1 = false ∧ (fCmp fmtF32 1 a b).1 = true ∧ fCmp fmtF32 2 a b = (false, flNV) ∧ fCmp fmtF32 3 a b = (false, flNV) ∧
    fCmp fmtF32 4 a b = (false, flNV) ∧ fCmp fmtF32 5 a b = (false, flNV) ∧ (fCmp fmtF32 6 a b).1 = true ∧
    ∀ c ∈ [0, 1, 6], (fCmp fmtF32 c a b).2 = if (fmtF32.dec a).isSnan ∨ (fmtF32.dec b).isSnan then flNV else 0) ∧
  (∀ (a b : Nat), (fmtF32.dec a).isNan = false → (fmtF32.dec b).isNan = false → side a ≠ 0 ∨ side b ≠ 0 →
    fCmp fmtF32 0 a b = (decide (side a = side b), 0) ∧ fCmp fmtF32 1 a b = (decide (side a ≠ side b), 0) ∧
    fCmp fmtF32 2 a b = (decide (side a < side b), 0) ∧ fCmp fmtF32 3 a b = (decide (side a ≤ side b), 0) ∧
    fCmp fmtF32 4 a b = (decide (side b < side a), 0) ∧ fCmp fmtF32 5 a b = (decide (side b ≤ side a), 0) ∧ fCmp fmtF32 6 a b = (false, 0)) ∧
  (∀ (h : Hdr) (f : FRRR), (Instr.vfcmp h f).legal = true →
    (∀ x : BitVec 8, 7 ≤ x.toNat → decode (encode (.vfcmp h { f with sub := x })) = .error 9) ∧
    ∀ ty : Ty, ty ≠ .f32 → decode (encode (.vfcmp h { f with ty := ty })) = .error 8)

/-- R373: VRED reduces the enabled lanes, and every enabled lane receives the result: the sum modulo 2^32 or the signed or unsigned extreme for
the integer types, the one-rounding sum or the extreme of the numbers for .f32; with its frame. -/
def Sys2Proof.Claims.VectorReduce : Prop :=
  ∀ (s : State) (h : Hdr) (f : FRRR), (Instr.vred h f).legal = true → Ready s h →
    (∀ d ∈ s.enabled h, SrcsOk s d f 1 ∧ Writable s d .v f.dst.n) →
    ∃ v mask fl, Delivers (.vred h f) s h 4 .v f.dst.n v mask fl h.group.toNat ∧
      ∀ d ∈ s.enabled h,
        let xs := (lanesOn s d f.pr).map fun n => elem 32 (src s d 91 .v f.srcA) n
        (∀ j < 512, (mask d).getLsbD j = acts s d f.pr (j / 32)) ∧
        (f.ty ≠ .f32 → fl d = 0 ∧ ∀ n < 16,
          (f.sub = 0 → elem 32 (v d) n = xs.foldl (· + ·) 0) ∧
          (f.sub = 1 → ∀ x ∈ xs, less f.ty.signed x (elem 32 (v d) n) = false) ∧
          (f.sub = 2 → ∀ x ∈ xs, less f.ty.signed (elem 32 (v d) n) x = false) ∧
          (f.sub ≠ 0 → xs ≠ [] → elem 32 (v d) n ∈ xs)) ∧
        (f.ty = .f32 → f.sub = 0 → xs ≠ [] → ∀ n < 16,
          ((elem 32 (v d) n).toNat, fl d) = sumRound fmtF32 .rne (.fin false 0 0 :: xs.map fun x => fmtF32.dec x.toNat) false) ∧
        (f.ty = .f32 → f.sub ≠ 0 → xs ≠ [] →
          let ys := xs.filter fun x => !(fmtF32.dec x.toNat).isNan
          fl d = (if xs.any fun x => (fmtF32.dec x.toNat).isSnan then flNV else 0) ∧ ∀ n < 16,
            let r := elem 32 (v d) n
            (ys = [] → r.toNat = fmtF32.nan) ∧ (ys ≠ [] → r ∈ ys) ∧
            (f.sub = 1 → ∀ y ∈ ys, (fCmp fmtF32 2 y.toNat r.toNat).1 = false) ∧
            (f.sub = 2 → ∀ y ∈ ys, (fCmp fmtF32 2 r.toNat y.toNat).1 = false))

/-- R42, R357, R358, R371: VCVT converts each enabled pair's source element, VDEQ decodes one block element a lane, VQUANT quantises one block and
writes its data or its scale pair; each with its latency and its frame. -/
def Obligations.VectorConvert : Prop :=
  (∀ (s : State) (h : Hdr) (f : FRRR), (Instr.vcvt h f).legal = true → Ready s h →
    (∀ d ∈ s.enabled h, SrcsOk s d f 1 ∧ Writable s d .v f.dst.n) →
    let wd := f.ty.width
    let ws := f.ty2.width
    let w := Nat.max wd ws
    let k := w / Nat.min wd ws
    let x := f.sub.toNat
    let di := fun i => if wd = w then i else k * i + x
    let r := fun d i => convert f.ty f.ty2 (RM.ofCode f.rm.toNat)
      (elem ws (src s d 91 .v f.srcA) (if ws = w then i else k * i + x)).toNat
    ∃ v mask fl, Delivers (.vcvt h f) s h 4 .v f.dst.n v mask fl h.group.toNat ∧
      ∀ d ∈ s.enabled h, (∀ i, w * (i + 1) ≤ 512 → elem wd (v d) (di i) = BitVec.ofNat wd (r d i).1) ∧
        (∀ j < 512, (mask d).getLsbD j = true ↔ ∃ i, w * (i + 1) ≤ 512 ∧ elemActs s d f.pr w i = true ∧ j / wd = di i) ∧
        ∀ b < 32, (BitVec.ofNat 32 (fl d)).getLsbD b = true ↔
          ∃ i, w * (i + 1) ≤ 512 ∧ elemActs s d f.pr w i = true ∧ (r d i).2.testBit b = true) ∧
  (∀ (s : State) (h : Hdr) (f : FRRR), (Instr.vdeq h f).legal = true → Ready s h →
    (∀ d ∈ s.enabled h, SrcsOk s d f 2 ∧ Writable s d .v f.dst.n) →
    ∃ v mask fl, Delivers (.vdeq h f) s h 4 .v f.dst.n v mask fl h.group.toNat ∧
      Elements s h f.pr 32
        (fun d n =>
          let x := elem f.ty2.width (elem 32 (src s d 91 .v f.srcA) n |>.setWidth 512) (f.sub.toNat % 8)
          let b := elem 32 (src s d 102 .v f.srcB) n |>.setWidth 512
          let i := 2 * (f.sub.toNat / 8 % 2)
          BitVec.ofNat 32 (decodeBK f.ty2 x.toNat (elem 8 b i).toNat (elem 8 b (i + 1)).toNat))
        (fun _ _ => 0) v mask fl) ∧
  (∀ (s : State) (h : Hdr) (f : FRRR), (Instr.vquant h f).legal = true → Ready s h →
    (∀ d ∈ s.enabled h, SrcsOk s d f 1 ∧ (f.ty2 = .f32 → SrcOk s d 102 .v f.srcB) ∧ (f.sub.getLsbD 6 = true → SrcOk s d 113 .v f.srcC) ∧
      Writable s d .v f.dst.n) →
    ∃ v mask fl, Delivers (.vquant h f) s h 8 .v f.dst.n v mask fl h.group.toNat ∧
      ∀ d ∈ s.enabled h,
        let a := src s d 91 .v f.srcA
        let c := src s d 113 .v f.srcC
        let xs := (List.range 32).map fun i =>
          if f.ty2 = .f32 then (if i < 16 then elem 32 a i else elem 32 (src s d 102 .v f.srcB) (i - 16)).toNat
          else (convert .f32 f.ty2 .rne (elem 16 a i).toNat).1
        let q := quantBlock f.ty xs (qsplit (s.ctxD d).ws.qctl f.ty)
          (if f.sub.getLsbD 6 then some ((elem 8 c 0).toNat, (elem 8 c 1).toNat) else none)
        let x := f.sub.toNat % 32
        let w := f.ty.width
        (f.sub.getLsbD 5 = true → fl d = 0 ∧ elem 16 (v d) x = BitVec.ofNat 16 (q.2.1 + 256 * q.2.2.1) ∧
          ∀ j < 512, (mask d).getLsbD j = (decide (j / 16 = x) && acts s d f.pr (j / 32))) ∧
        (f.sub.getLsbD 5 = false →
          let e := fun i => quantElem f.ty q.2.1 q.2.2.1 (xs.getD i 0)
          let on := fun i => acts s d f.pr ((32 * x + i) * w / 32)
          (∀ i < 32, elem w (v d) (32 * x + i) = BitVec.ofNat w (q.1.getD i 0)) ∧
          (∀ j < 512, (mask d).getLsbD j = (decide (j / (32 * w) = x) && acts s d f.pr (j / 32))) ∧
          ∀ b < 32, (BitVec.ofNat 32 (fl d)).getLsbD b = true ↔
            (b = 5 ∧ ∃ i < 32, on i = true ∧ (e i).2.1 = true) ∨ (b = 4 ∧ ∃ i < 32, on i = true ∧ (e i).2.2 = true)))

/-- R335: PAND, POR, PXOR, PNOT, PMOV and PFIRST, bit by bit under the lane predicate, two clocks after issue; with their frame. -/
def Sys2Proof.Claims.PredicateLogic : Prop :=
  PredicateOp .pand 2 (fun a b k => a.getLsbD k && b.getLsbD k) ∧ PredicateOp .por 2 (fun a b k => a.getLsbD k || b.getLsbD k) ∧
  PredicateOp .pxor 2 (fun a b k => a.getLsbD k != b.getLsbD k) ∧ PredicateOp .pmov 1 (fun a _ k => a.getLsbD k) ∧
  PredicateOp .pnot 1 (fun a _ k => !a.getLsbD k) ∧
  PredicateOp .pfirst 1 (fun a _ k => a.getLsbD k && (List.range k).all fun j => !a.getLsbD j)

/-- R335: PMOV.v gives bit n where lane n is not zero, PCNT gives every lane the number of 1 bits, PANY gives the flag of any or of all; with
their frame. -/
def Sys2Proof.Claims.PredicateCount : Prop :=
  (∀ (s : State) (h : Hdr) (f : FRRR), Ready s h →
    (∀ d ∈ s.enabled h, PrOk s d f.pr ∧ SrcOk s d 91 .v f.srcA ∧ Writable s d .p f.dst.n) →
    ∃ v mask, Delivers (.pmovV h f) s h 2 .p f.dst.n v mask (fun _ => 0) h.group.toNat ∧
      LaneBits s h f.pr (fun d k => elem 32 (src s d 91 .v f.srcA) k != 0) v mask) ∧
  (∀ (s : State) (h : Hdr) (f : FRRR), Ready s h → (∀ d ∈ s.enabled h, SrcOk s d 91 .p f.srcA ∧ Writable s d .v f.dst.n) →
    ∃ v, Delivers (.pcnt h f) s h 2 .v f.dst.n v (fun _ => BitVec.allOnes 512) (fun _ => 0) h.group.toNat ∧
      ∀ d ∈ s.enabled h, ∀ n < 16, elem 32 (v d) n = BitVec.ofNat 32 (ones ((src s d 91 .p f.srcA).setWidth 16))) ∧
  (∀ (s : State) (h : Hdr) (f : FRRR), (Instr.pany h f).legal = true → Ready s h →
    (∀ d ∈ s.enabled h, SrcOk s d 91 .p f.srcA ∧ Writable s d .f f.dst.n) →
    Delivers (.pany h f) s h 2 .f f.dst.n
      (fun d => if (if f.sub = 0 then src s d 91 .p f.srcA ≠ 0 else src s d 91 .p f.srcA = 0xFFFF#512) then 1#512 else 0#512)
      (fun _ => 1#512) (fun _ => 0) h.group.toNat)

/-- R376: XMOV and XBC copy lanes across groups, XRED reduces each lane over the eight groups' registers, six clocks after issue; with their
frame. -/
def Sys2Proof.Claims.CrossGroup : Prop :=
  (∀ (s : State) (h : Hdr) (f : FRRR), Ready s h → (∀ d ∈ s.enabled h, SrcsOk s d f 1 ∧ Writable s d .v f.dst.n) →
    ∃ v mask fl, Delivers (.xmov h f) s h 6 .v f.dst.n v mask fl 0 ∧
      Elements s h f.pr 32 (fun d n => elem 32 (src s d 91 .v f.srcA) n) (fun _ _ => 0) v mask fl) ∧
  (∀ (s : State) (h : Hdr) (f : FRRR), (Instr.xbc h f).legal = true → Ready s h →
    (∀ d ∈ s.enabled h, SrcsOk s d f 1 ∧ Writable s d .v f.dst.n) →
    ∃ v mask fl, Delivers (.xbc h f) s h 6 .v f.dst.n v mask fl 0 ∧
      Elements s h f.pr 32 (fun d _ => elem 32 (src s d 91 .v f.srcA) f.sub.toNat) (fun _ _ => 0) v mask fl) ∧
  (∀ (s : State) (h : Hdr) (f : FRRR), (Instr.xred h f).legal = true → Ready s h →
    (∀ d ∈ s.enabled h, PrOk s d f.pr ∧ (∀ j < 8, Settled s d .v (80 * j + f.srcA.n % 80)) ∧ Writable s d .v f.dst.n) →
    ∃ v mask fl, Delivers (.xred h f) s h 6 .v f.dst.n v mask fl (f.dst.n / 80) ∧
      Elements s h f.pr 32
        (fun d n => BitVec.ofNat 32 (reduce f.ty f.sub.toNat ((List.range 8).map fun j =>
          (elem 32 (reg s d .v (80 * j + f.srcA.n % 80)) n).toNat)).1)
        (fun d n => (reduce f.ty f.sub.toNat ((List.range 8).map fun j =>
          (elem 32 (reg s d .v (80 * j + f.srcA.n % 80)) n).toNat)).2) v mask fl)

/-! ### Operations that do more than leave a result -/

namespace Sys2Proof.Claims

open Machine

/-- Two contexts on a die agree but for their latches. -/
def SameCd (x y : CtxDie) : Prop :=
  x = { y with ws := { y.ws with slots := x.ws.slots }, dup := { y.dup with slots := x.dup.slots } }

/-- `t` is `u` but for the latches of the cursor's context on the dies `ds` and the record of its issue: memory, every other context, every
column context, core, queue, engine and unit are those of `u`. -/
def Issued (s t u : State) (ds : List Nat) : Prop :=
  { t with cd := u.cd, cc := u.cc, att := u.att } = u ∧ (∀ k, (∀ d ∈ ds, k ≠ s.ck0 d) → t.getCd k = u.getCd k) ∧
  (∀ d ∈ ds, SameCd (t.getCd (s.ck0 d)) (u.getCd (s.ck0 d))) ∧ (∀ k, k ≠ s.cc0 → t.getCc k = u.getCc k) ∧
  KeptCc (t.getCc s.cc0) (u.getCc s.cc0)

/-- The operation issues. What it does is `eff` on each die where it is enabled, in order, then `col` for the column, then the splice where
`b`; it changes nothing else. The faults `tr` are taken after the iteration. -/
def Does (i : Instr) (s : State) (h : Hdr) (b : Bool) (eff : Nat → State → State) (col : State → State := id)
    (tr : List (Nat × FRec) := []) : Prop :=
  ∃ t, exec i s = .next (t.raise s.cc0 tr) ∧
    Issued s t (spliced (col ((s.enabled h).foldl (fun x d => eff d x) s)) b) (s.enabled h)

/-- R218: an operation that is an implicit splice wherever it is enabled. -/
def forces (s : State) (h : Hdr) : Bool := !(s.enabled h).isEmpty

/-- The iteration does not issue: the context takes the faults, one for each enabled die. -/
def Faults (i : Instr) (s : State) (h : Hdr) (r : Nat → FRec) : Prop :=
  exec i s = .next (s.noAtt.raise s.cc0 ((s.enabled h).map fun d => (d, { r d with slot := s.cur.slot, r1 := s.cur.bundle })))

/-- R92: the iteration does not issue, and the context becomes BLOCKED. -/
def Blocks (i : Instr) (s : State) (r : BlkReason) : Prop := exec i s = .next (s.noAtt.blockOn r)

/-- R62: the signal of the header, on this clock; and at a later one. -/
def given (s : State) (h : Hdr) (d : Nat) (x : State) : State := x.signal (coreKey d s.cur.col) h.sigSem.toNat h.sigInc.toInt
def givenAt (s : State) (h : Hdr) (due d : Nat) (x : State) : State :=
  if h.sigSem = 0#8 then x
  else x.updCore (coreKey d s.cur.col) fun c => { c with
    sigs := c.sigs ++ [{ due := due, ck := s.ck0 d, sem := h.sigSem.toNat, inc := h.sigInc.toInt }] }

/-- Results left in flight. -/
def leave (s : State) (d : Nat) (l : List Pend) (x : State) : State := x.updCd (s.ck0 d) fun c => { c with pend := c.pend ++ l }

/-- R81: a scoreboarded result for an S register, due at a clock, or when the reply to `uid` arrives. -/
def awaited (s : State) (h : Hdr) (due : Option Nat) (n : Nat) (v : DWord) (uid : Nat) (sig : Bool) : Pend :=
  { due := due, slot := s.cur.slot, issued := s.clock, sb := true, file := .s, idx := n, val := v.setWidth 512,
    mask := if n = 0 then 0#512 else BitVec.allOnes 512, vfl := 0#32, grp := 0, sigSem := if sig then h.sigSem.toNat else 0,
    sigInc := h.sigInc.toInt, pre := false, uid := uid, lat := 0, bundle := s.cur.bundle }

/-- R157: a result of a shared engine or of the bus. -/
def engResult (s : State) (file : RFile) (n uid : Nat) (due : Option Nat) (v : Nat) : Pend :=
  { due := due, slot := s.cur.slot, issued := s.clock, sb := true, file := file, idx := n, val := BitVec.ofNat 512 v,
    mask := BitVec.allOnes 512, vfl := 0#32, grp := 0, sigSem := 0, sigInc := 0, pre := false, uid := uid, lat := 0, bundle := s.cur.bundle }

/-- R53, R66: the address of an operand whose base field's lowest bit is `pos`: S[base] + `add` at an issue from a slot word; the latched
address advanced by `step` at a re-issue. -/
def addrOf (s : State) (d pos : Nat) (base : Reg) (add step : Int) : Nat :=
  if s.cur.first then ofSigned 64 ((sreg s d base : Int) + add)
  else ofSigned 64 (((SMap.get 0#64 (s.slotD d).addr pos).toNat : Int) + step)

/-- The base register of an address operand has a value. -/
def BaseOk (s : State) (d : Nat) (base : Reg) : Prop := s.cur.first = true → Settled s d .s base.n

/-- R66: the die term. -/
def dterm (s : State) (d : Nat) (stride : Int) (dts : Bool) : Int := stride * (if dts then s.rankOf d else d : Nat)

/-- R68: the address of a MEM operation. -/
def memAt (s : State) (d : Nat) (f : FMEM) : Nat :=
  addrOf s d 91 f.base (f.offset.toInt + dterm s d f.dstride.toInt f.dts) f.step.toInt

end Sys2Proof.Claims

/-- R319: the numbers of the assigned CSRs, as ranges. -/
def Sys2Proof.Claims.csrRanges : List (Nat × Nat) :=
  [(0x010, 0x013), (0x020, 0x02A), (0x040, 0x048), (0x050, 0x050), (0x058, 0x059), (0x060, 0x065), (0x070, 0x070), (0x080, 0x080), (0x0A0, 0x0A0),
   (0x0A4, 0x0B3), (0x0B8, 0x0B8), (0x0C0, 0x0C1), (0x0C4, 0x0C5), (0x0C8, 0x0CB), (0x0D0, 0x0D2), (0x0D8, 0x0DA), (0x0E0, 0x0E0), (0x0F0, 0x0F0),
   (0x100, 0x1FF)]
/-- R319: a number is assigned. -/
def Sys2Proof.Claims.assigned (n : Nat) : Prop := ∃ r ∈ csrRanges, r.1 ≤ n ∧ n ≤ r.2

/-- R318, R319: on an assigned number CSRR completes, with the CSR's value one clock after issue, and CSRW completes, its write queued for the end of its clock,
its signal given at once; any other number is an illegal operation on every die. With their frame. -/
def Obligations.CsrAccess : Prop :=
  (∀ (s : State) (d cc n : Nat), (s.csrRead d cc n).isSome = true ↔ assigned n) ∧
  (∀ (s : State) (h : Hdr) (f : FRIMM), Ready s h → assigned f.imm.toNat → (∀ d ∈ s.enabled h, Writable s d .s f.dst.n) →
    Delivers (.csrr h f) s h 1 .s f.dst.n (fun d => BitVec.ofNat 512 ((s.csrRead d s.cc0 f.imm.toNat).getD 0 % 2 ^ 64))
      (fun _ => BitVec.allOnes 512) (fun _ => 0) 0) ∧
  (∀ (s : State) (h : Hdr) (f : FRIMM), Ready s h → assigned f.imm.toNat → (∀ d ∈ s.enabled h, Settled s d .s f.srcA.n) →
    Does (.csrw h f) s h (signals s h) (fun d x => given s h d (x.updCore (coreKey d s.cur.col) fun c =>
      { c with csrw := c.csrw ++ [{ ctx := s.cur.ctx, num := f.imm.toNat, val := BitVec.ofNat 64 (sreg s d f.srcA) }] }))) ∧
  (∀ (s : State) (h : Hdr) (f : FRIMM), Ready s h → s.enabled h ≠ [] → ¬assigned f.imm.toNat →
    Faults (.csrr h f) s h (fun _ => { code := 2 }) ∧
    ((∀ d ∈ s.enabled h, Settled s d .s f.srcA.n) → Faults (.csrw h f) s h (fun _ => { code := 2 })))

namespace Sys2Proof.Claims

open Machine

/-- R103 to R118: an access of the cursor's context on a die reaches the place `t`, with no page walk left to do. -/
def At (s : State) (d va : Nat) (rd wr : Bool) (t : Tr) : Prop := s.place d .sc va rd wr = (t, s)

/-- A scalar access of `n` bytes at `va` can be made: it is aligned, and reaches storage, or pod memory to which a message can be sent; no earlier access
that it must follow is still to be performed (R191), nor an envelope operation or a BLAT on its bytes (R186). -/
def Reaches (s : State) (d va n : Nat) (rd wr : Bool) (t : Tr) : Prop :=
  va % n = 0 ∧ At s d va rd wr t ∧ Calm s d ∧ match t with
    | .ok loc _ _ => s.spadHeld (s.ck0 d) loc n = false
    | .pod pkg a => s.podFault (s.partOf s.cc0) pkg a = none
    | _ => False

/-- R301, R329: the result of an access that the host does not complete: a fault after the latency of the place. -/
def aborted (s : State) (h : Hdr) (f : FMEM) (d lat uid : Nat) : Pend :=
  { awaited s h (some (s.clock + lat)) f.data.n (BitVec.ofNat 64 (memAt s d f)) uid false with abort := true }

/-- The bytes of a type. -/
def bytesOf (t : Ty) : Nat := t.width / 8

/-- R220: what a store that is not withheld does first. -/
def flushed (s : State) (d : Nat) (x : State) : State := x.releaseBlot (s.ck0 d)

end Sys2Proof.Claims

/-- R329, R81, R263: LD leaves a scoreboarded result: the bytes at its address as its context reads them, extended, after the latency of the
place; or the reply of the package to which it sends a read; or, where the host does not complete it, its fault. With its frame. -/
def Obligations.ScalarLoad : Prop :=
  ∀ (s : State) (h : Hdr) (f : FMEM) (tg : Nat → Tr), Ready s h →
    (∀ d ∈ s.enabled h, BaseOk s d f.base ∧ Writable s d .s f.data.n ∧ Reaches s d (memAt s d f) (bytesOf f.ty) true false (tg d) ∧
      ∀ loc kind lat, tg d = .ok loc kind lat → s.readPoisoned (s.ctxD d).blot loc (bytesOf f.ty) = false) →
    Does (.ld h f) s h (signals s h) fun d x => match tg d with
      | .ok loc _ lat =>
        if s.hostAborts loc then leave s d [aborted s h f d lat x.uid] { x with uid := x.uid + 1 }
        else leave s d [awaited s h (some (s.clock + lat)) f.data.n
          (extend f.ty f.ty.width (leNat (s.readCtx (s.ctxD d).blot loc (bytesOf f.ty)))) 0 true] x
      | .pod pkg a => leave s d [{ awaited s h none f.data.n (BitVec.ofNat 64 (memAt s d f)) x.uid true with
            ty := f.ty, acc := x.podKind (s.partOf s.cc0) pkg a false true false + 1 }]
          (State.podSend { x with uid := x.uid + 1 } d (s.partOf s.cc0) pkg a x.uid s.clock (.read (bytesOf f.ty)))
      | _ => x

/-- R329, R220, R263: ST withholds its bytes in the blotter where its page is RC or UO (the scratchpads among them); to an SO page, to host memory
and to pod memory it performs the blotter and then stores or sends its bytes, and is a splice. With its frame: no other byte. -/
def Obligations.ScalarStore : Prop :=
  ∀ (s : State) (h : Hdr) (f : FMEM) (tg : Nat → Tr), Ready s h →
    (∀ d ∈ s.enabled h, BaseOk s d f.base ∧ Settled s d .s f.data.n ∧
      Reaches s d (memAt s d f) (bytesOf f.ty) false true (tg d)) →
    (∀ d ∈ s.enabled h, (s.ctxD d).blot.length < 128) →
    let data := fun d => leBytes (bytesOf f.ty) (sreg s d f.data)
    let direct := fun d => match tg d with
      | .ok loc kind _ => isHost loc || kind == 0
      | _ => true
    Does (.st h f) s h (signals s h || (s.enabled h).any direct) fun d x => match tg d with
      | .ok loc kind _ =>
        if isHost loc then givenAt s h (s.clock + head d 16) d
          ((flushed s d x).hostWrite d s.cc0 (memAt s d f) loc kind s.clock ((data d).map fun b => (b, false)))
        else if kind = 0 then given s h d ((flushed s d x).store loc (data d))
        else given s h d (x.updCd (s.ck0 d) fun c => { c with blot := withhold c.blot (memAt s d f) loc (data d) })
      | .pod pkg a => givenAt s h (s.clock + head d 17) d
          ((flushed s d x).podWrite d s.cc0 pkg a (memAt s d f) s.clock (data d) false
            { code := 4, cause := 7, r0 := BitVec.ofNat 64 (memAt s d f), r1 := s.cur.bundle })
      | _ => x

/-- R126, R300: a store writes its bytes and no other: every byte outside them reads as before, and they read as stored. -/
def Sys2Proof.Claims.StoredBytes : Prop :=
  ∀ (s : State) (loc : Nat) (data : List Byte),
    (∀ a, a < loc ∨ loc + data.length ≤ a → (s.store loc data).readByte a = s.readByte a) ∧
    (s.store loc data).readBytes loc data.length = data ∧
    (∀ l, (s.store loc data).poisonedLine l = true → s.poisonedLine l = true) ∧
    (∀ l, loc ≤ 64 * l → 64 * l + 64 ≤ loc + data.length → (s.store loc data).poisonedLine l = false)

/-- R208: the AMO of a die joins the merge window of its link controller, under the next number. -/
def Sys2Proof.Claims.merged (s : State) (f : FMEM) (d op : Nat) (pod : Option (Nat × Nat)) (a kind v : Nat) (x : State) : State :=
  State.updDie { x with uid := x.uid + 1 } d fun z => { z with
    merges := joinMerge ⟨op, f.ty.width == 64, f.ty.signed, pod, a, kind, s.clock + 15, []⟩ (x.uid, s.ck0 d, BitVec.ofNat 64 v) z.merges }

/-- R195: what a release of an atomic has waited for: accesses and acknowledgements of earlier iterations. -/
def Sys2Proof.Claims.ordOf (f : FMEM) : Nat := f.sub.toNat / 64 % 4

/-- R299 to R301, R208: AMO and ACAS perform the blotter, then read the old value, write the new one and leave the old one, extended, as a
scoreboarded result; sent as one message to pod memory. One that the host does not complete is not performed and leaves its fault. A relaxed AMO outside the scratchpads joins a merge window of its die. With their frame. -/
def Obligations.Atomics : Prop :=
  ∀ (s : State) (h : Hdr) (f : FMEM) (tg : Nat → Tr) (cas : Bool), Ready s h →
    let op := if cas then 7 else f.sub.toNat % 64
    let n := bytesOf f.ty
    let v := fun d => sreg s d f.aux % 2 ^ f.ty.width
    let e := fun d => if cas then sreg s d f.data % 2 ^ f.ty.width else 0
    (∀ d ∈ s.enabled h, BaseOk s d f.base ∧ Settled s d .s f.aux.n ∧ (cas = true → Settled s d .s f.data.n) ∧ Writable s d .s f.data.n ∧
      Reaches s d (memAt s d f) n true true (tg d) ∧
      ∀ loc kind lat, tg d = .ok loc kind lat → s.poisoned loc n = false ∧ (isHost loc = true → op = 0 ∨ op = 1 ∨ op = 7)) →
    (cas = false → op ≤ 6) →
    Does (if cas then .acas h f else .amo h f) s h (forces s h) fun d x =>
      let y := flushed s d x
      let waits := fun (kind lat ord : Nat) => { awaited s h none f.data.n (BitVec.ofNat 64 (memAt s d f)) y.uid true with
        ty := f.ty, acc := kind + 1, lat := lat, ord := ord }
      match tg d with
      | .ok loc kind lat =>
        let old := leNat (y.readBytes loc n)
        let new := if cas then (if old = e d then v d else old) else amoNew op f.ty.signed f.ty.width old (v d)
        if !cas && ordOf f == 0 && !isSpad loc then leave s d [waits kind lat 0] (merged s f d op none loc kind (v d) y)
        else if s.hostAborts loc then leave s d [aborted s h f d lat y.uid] { y with uid := y.uid + 1 }
        else leave s d [awaited s h (some (s.clock + lat)) f.data.n (extend f.ty f.ty.width old) 0 true]
          (if cas ∧ old ≠ e d then y else y.store loc (leBytes n new))
      | .pod pkg a =>
        let kind := x.podKind (s.partOf s.cc0) pkg a false true true
        if !cas && ordOf f == 0 then leave s d [waits kind 0 0]
          (merged s f d op (some (pkg, s.podIndex (s.partOf s.cc0))) a kind (v d) y)
        else leave s d [waits kind 0 (ordOf f % 2)]
          (State.podSend { y with uid := y.uid + 1 } d (s.partOf s.cc0) pkg a y.uid s.clock
            (.atomic op (f.ty.width == 64) f.ty.signed (BitVec.ofNat 64 (e d)) [BitVec.ofNat 64 (v d)]))
      | _ => x

namespace Sys2Proof.Claims

open Machine

/-- R364: the address of lane `n` of a vector memory operation. -/
def laneAt (s : State) (d : Nat) (f : FMEM) (k : LaneForm) (n : Nat) : Nat :=
  match k with
  | .near => (memAt s d f + 4 * n) % 2 ^ 64
  | .stride => (memAt s d f + n * sreg s d f.aux) % 2 ^ 64
  | .index => (memAt s d f + (elem 32 (src s d 102 .v f.aux) n).toNat) % 2 ^ 64

/-- R363, R364, R104: every enabled lane is aligned and lies in the local scratchpad. -/
def LanesIn (s : State) (d : Nat) (f : FMEM) (k : LaneForm) : Prop :=
  ∀ n ∈ lanesOn s d f.pr, spadBase ≤ laneAt s d f k n ∧ laneAt s d f k n + 4 ≤ spadBase + 2 ^ 21 ∧
    (k ≠ .near → laneAt s d f k n % 4 = 0) ∧ (k = .near → laneAt s d f k 0 % (if f.ty = .b then 1 else f.ty.width / 8) = 0)

/-- The bytes, by scratchpad offset, at which a lane begins and ends. -/
def laneEnds (s : State) (d : Nat) (f : FMEM) (k : LaneForm) : List Nat :=
  (lanesOn s d f.pr).flatMap fun n => [laneAt s d f k n - spadBase, laneAt s d f k n + 3 - spadBase]

/-- R106: the iteration has had its clocks for bank ports, or needs no more than one row of each bank. -/
def PortsOk (s : State) (d : Nat) (f : FMEM) (k : LaneForm) : Prop :=
  (s.getCc s.cc0).portDone = true ∨
    ∀ a ∈ laneEnds s d f k, ∀ b ∈ laneEnds s d f k, a / 2 ^ 13 = b / 2 ^ 13 → a / 64 = b / 64

/-- R150, R106, R169: no bank that the lanes touch is held: exclusively for a load, at all for a store; no engine has waited so long for its port that it
comes first; and no BLAT of the context is on its way to a lane's bytes. -/
def BanksFree (s : State) (d : Nat) (f : FMEM) (k : LaneForm) (wr : Bool) : Prop :=
  (∀ a ∈ laneEnds s d f k, (if wr then (s.coreD d).bankHeld (a / 2 ^ 13) else (s.coreD d).bankExcl (a / 2 ^ 13)) = false ∧
    (s.coreD d).portDue s.clock (portOf (spadLoc d s.cur.col a) wr) = false) ∧
  ∀ n ∈ lanesOn s d f.pr, s.blatHeld (s.ck0 d) (spadLoc d s.cur.col (laneAt s d f k n - spadBase)) 4 = false

/-- R106: the ports that the lanes of a vector memory operation take on this clock. -/
def takesPorts (s : State) (h : Hdr) (f : FMEM) (k : LaneForm) (wr : Bool) (x : State) : State :=
  x.usePorts ((s.enabled h).flatMap fun d => (laneEnds s d f k).map fun a => (d, a / 64, wr))

/-- The operands of the address of a vector memory operation have values. -/
def LaneOps (s : State) (d : Nat) (f : FMEM) (k : LaneForm) : Prop :=
  PrOk s d f.pr ∧ BaseOk s d f.base ∧ (k = .stride → Settled s d .s f.aux.n) ∧ (k = .index → SrcOk s d 102 .v f.aux)

/-- A vector memory operation can be made. -/
def LanesOk (s : State) (d : Nat) (f : FMEM) (k : LaneForm) (wr : Bool) : Prop :=
  LaneOps s d f k ∧ LanesIn s d f k ∧ PortsOk s d f k ∧ BanksFree s d f k wr

/-- The place of a byte of the local scratchpad. -/
def spadPlace (s : State) (d va : Nat) : Nat := spadLoc d s.cur.col (va - spadBase)

/-- R364, R366: a vector load: each enabled lane takes the four bytes at its address as its context reads them. -/
def VectorLoads (mk : Hdr → FMEM → Instr) (k : LaneForm) : Prop :=
  ∀ (s : State) (h : Hdr) (f : FMEM), Ready s h →
    (∀ d ∈ s.enabled h, LanesOk s d f k false ∧ Writable s d .v f.data.n ∧
      ∀ n ∈ lanesOn s d f.pr, s.readPoisoned (s.ctxD d).blot (spadPlace s d (laneAt s d f k n)) 4 = false) →
    ∃ (v mask : Nat → Vec) (t : State), exec (mk h f) s = .next t ∧
      FrameFrom s (spliced (takesPorts s h f k false s) (signals s h)) t (s.enabled h) ∧
      (∀ d ∈ s.enabled h, (t.getCd (s.ck0 d)).pend = ((spliced s (signals s h)).getCd (s.ck0 d)).pend ++
        [resultOf s h (signals s h) 6 .v f.data.n (v d) (mask d) 0 0]) ∧
      ∀ d ∈ s.enabled h, (∀ j < 512, (mask d).getLsbD j = acts s d f.pr (j / 32)) ∧
        ∀ n ∈ lanesOn s d f.pr, elem 32 (v d) n =
          BitVec.ofNat 32 (leNat (s.readCtx (s.ctxD d).blot (spadPlace s d (laneAt s d f k n)) 4))

/-- R364, R365, R220: a vector store: the enabled lanes withheld in ascending order. -/
def VectorStores (mk : Hdr → FMEM → Instr) (k : LaneForm) : Prop :=
  ∀ (s : State) (h : Hdr) (f : FMEM), Ready s h →
    let bl := fun d => (lanesOn s d f.pr).foldl (fun bl n => withholdAll bl (laneAt s d f k n) (spadPlace s d (laneAt s d f k n))
      (leBytes 4 (elem 32 (src s d 80 .v f.data) n).toNat)) (s.ctxD d).blot
    (∀ d ∈ s.enabled h, LanesOk s d f k true ∧ SrcOk s d 80 .v f.data ∧ (bl d).length ≤ 128) →
    Does (mk h f) s h (signals s h) (fun d x => given s h d (x.updCd (s.ck0 d) fun c => { c with blot := bl d })) (takesPorts s h f k true)

end Sys2Proof.Claims

/-- R363 to R366: VLD, VLDS and VGATH load the local scratchpad, six clocks after issue; with their frame. -/
def Sys2Proof.Claims.VectorLoad : Prop := VectorLoads .vld .near ∧ VectorLoads .vlds .stride ∧ VectorLoads .vgath .index

/-- R363 to R365, R220: VST and VSCAT withhold their enabled lanes in the blotter; with their frame: storage is as before but for the splice of
one that signals. -/
def Sys2Proof.Claims.VectorStore : Prop := VectorStores .vst .near ∧ VectorStores .vscat .index

/-- R220, R364: what a context reads of a byte: the newest byte that its blotter withholds for it, else storage; and a byte that is withheld is
read as withheld. -/
def Sys2Proof.Claims.WithheldBytes : Prop :=
  (∀ (s : State) (loc n : Nat), s.readCtx [] loc n = s.readBytes loc n) ∧
  (∀ (bl : List Blot) (va loc : Nat) (data : List Byte), loc % 64 + data.length ≤ 64 → data ≠ [] → (∀ b ∈ bl, b.loc % 64 = 0) →
    (bl.map (·.loc)).Nodup →
    (∀ i, (hi : i < data.length) → blotByte (withhold bl va loc data) (loc + i) = some (data[i]'hi)) ∧
    (∀ a, a < loc ∨ loc + data.length ≤ a → blotByte (withhold bl va loc data) a = blotByte bl a))

/-- R372: VRDQ removes the oldest element of its stream and leaves it for the enabled lanes; an empty stream blocks the context; a poisoned
element is removed and raises code 0x0A after the iteration. With its frame. -/
def Obligations.StreamRead : Prop :=
  ∀ (s : State) (h : Hdr) (f : FRRR), Ready s h →
    let q := fun d => SMap.get {} (s.ctxD d).q f.srcA.n
    (∀ d ∈ s.enabled h, PrOk s d f.pr ∧ Writable s d .v f.dst.n) →
    ((∀ d ∈ s.enabled h, (q d).elems ≠ []) →
      ∃ mask : Nat → Vec, (∀ d ∈ s.enabled h, ∀ j < 512, (mask d).getLsbD j = acts s d f.pr (j / 32)) ∧
        Does (.vrdq h f) s h (forces s h) (fun d x => match (q d).elems with
          | [] => x
          | (v, p) :: rest => leave s d (if p then [] else [{ resultOf s h false 2 .v f.dst.n v (mask d) 0 0 with
                sb := true, bundle := 0#64 }])
              (x.updCd (s.ck0 d) fun c => { c with q := SMap.set {} c.q f.srcA.n { q d with elems := rest } })) id
          (((s.enabled h).filter fun d => ((q d).elems.head?.map Prod.snd).getD false).map fun d =>
            (d, { code := 10, slot := s.cur.slot, r1 := s.cur.bundle }))) ∧
    ((∃ d ∈ s.enabled h, (q d).elems = []) → Blocks (.vrdq h f) s .stream)

namespace Sys2Proof.Claims

open Machine

/-- R55: a taken transfer of the cursor's column. -/
def transferTo (s : State) (p : Option Pos) (loop : Bool) (x : State) : State :=
  x.updCc s.cc0 fun c => { c with cs := { c.cs with xfer := some ⟨p, 2, loop⟩ } }

/-- R69: the place that a branch of the cursor's context names, inside its reel. -/
def Target (s : State) (f : FBR) (k : Kernel) (p : Pos) : Prop :=
  let pc := (s.getCc s.cc0).cs.pc
  s.kernelOf s.cc0 = some k ∧ p.reel = pc.reel ∧ (p.off : Int) = pc.off + f.target.toInt ∧ p.off < (k.reel pc.reel).2

/-- R69: the branch names a place outside its reel. -/
def NoTarget (s : State) (f : FBR) (k : Kernel) : Prop :=
  let pc := (s.getCc s.cc0).cs.pc
  s.kernelOf s.cc0 = some k ∧ ((pc.off : Int) + f.target.toInt < 0 ∨ ((k.reel pc.reel).2 : Int) ≤ pc.off + f.target.toInt)

end Sys2Proof.Claims

/-- R55, R69, R88, R307, R330: BRA, BRC and LOOP transfer, after two delay bundles, to the place that they name in the current reel: BRA always, BRC by
its flag on any or on all of its dies, LOOP while its count, decremented, is not zero on some die, its signal coming with the count (R62). A target outside the reel is an illegal
operation. With their frame. -/
def Obligations.Branches : Prop :=
  ∀ (s : State) (h : Hdr) (f : FBR) (k : Kernel), Ready s h → s.enabled h ≠ [] →
    let flag := fun d => (s.ctxD d).ws.f.getLsbD f.freg.toNat != f.finv
    let taken := if f.any then (s.enabled h).any flag else (s.enabled h).all flag
    let n := fun d => ofSigned 64 ((sreg s d f.cnt : Int) - 1)
    let flags := ∀ d ∈ s.enabled h, Settled s d .f f.freg.toNat
    let counts := ∀ d ∈ s.enabled h, Settled s d .s f.cnt.n ∧ Writable s d .s f.cnt.n
    (∀ p, Target s f k p →
      Does (.bra h f) s h (signals s h) (given s h) (transferTo s (some p) false) ∧
      (flags → Does (.brc h f) s h (signals s h) (given s h) (if taken then transferTo s (some p) false else id)) ∧
      (counts → Does (.loop h f) s h (signals s h)
        (fun d => leave s d [resultOf s h false 1 .s f.cnt.n (BitVec.ofNat 512 (n d)) (BitVec.allOnes 512) 0 0])
        (if (s.enabled h).any fun d => n d != 0 then transferTo s (some p) true else id))) ∧
    (NoTarget s f k → Faults (.bra h f) s h (fun _ => { code := 2 }) ∧ (flags → Faults (.brc h f) s h (fun _ => { code := 2 })) ∧
      (counts → Faults (.loop h f) s h (fun _ => { code := 2 })))

/-- R307, R336, R337: CALL pushes the place after its second delay bundle and transfers, nine calls deep is an illegal operation; RET transfers to
the newest place and removes it, none is an illegal operation; REEL transfers to a place of another reel, whose load it starts. With their
frame. -/
def Obligations.CallsAndReels : Prop :=
  ∀ (s : State) (h : Hdr) (f : FBR) (k : Kernel), Ready s h → s.enabled h ≠ [] → s.kernelOf s.cc0 = some k →
    let c := (s.getCc s.cc0).cs
    let data := ((s.reelBuf s.cur.col (s.getCc s.cc0).launch c.pc.reel).map (·.data)).getD []
    let setCall := fun (l : List (Pos × Nat)) (x : State) => x.updCc s.cc0 fun y => { y with cs := { y.cs with call := l } }
    (c.call.length < 8 → ∀ p, Target s f k p → Does (.call h f) s h (signals s h) (given s h) fun x =>
      transferTo s (some p) false (setCall ((⟨c.pc.reel, skipBundles data 3 c.pc.off⟩, 0) :: c.call) x)) ∧
    (8 ≤ c.call.length → Faults (.call h f) s h (fun _ => { code := 2 })) ∧
    (∀ p r, c.call = p :: r → Does (.ret h) s h (signals s h) (given s h) fun x =>
      transferTo s (some p.1) false ((setCall r x).startReel s.cc0 c.pc.reel p.1.reel)) ∧
    (c.call = [] → Faults (.ret h) s h (fun _ => { code := 2 })) ∧
    (f.code.toNat < k.reels.length → 0 ≤ f.target.toInt → Does (.reel h f) s h (signals s h) (given s h) fun x =>
      transferTo s (some ⟨f.code.toNat, f.target.toNat⟩) false (x.startReel s.cc0 c.pc.reel f.code.toNat)) ∧
    (k.reels.length ≤ f.code.toNat ∨ f.target.toInt < 0 → Faults (.reel h f) s h (fun _ => { code := 2 }))

/-- R224, R225: TRAP issues and then takes fault 0x0E with its code; TRET transfers, in a handler, to the resume point; outside one it is an
illegal operation. Both are splices. With their frame. -/
def Obligations.TrapAndReturn : Prop :=
  ∀ (s : State) (h : Hdr) (f : FBR), Ready s h → s.enabled h ≠ [] →
    (f.target = 0 → Does (.trap h f) s h true (given s h) id
      ((s.enabled h).map fun d => (d, { code := 0x0E, info := f.code.toNat, slot := s.cur.slot, r1 := s.cur.bundle }))) ∧
    (f.target ≠ 0 → Faults (.trap h f) s h (fun _ => { code := 2 })) ∧
    ((s.getCc s.cc0).inh = true → Does (.tret h) s h true (given s h) (transferTo s none false)) ∧
    ((s.getCc s.cc0).inh = false → Faults (.tret h) s h (fun _ => { code := 2 }))

namespace Sys2Proof.Claims

open Machine

/-- R90: the cursor stands on an ACTIVE hardware context whose blotter holds no more lines than it has. -/
structure Running (s : State) : Prop where
  col : s.cur.col < 32
  ctx : s.cur.ctx < 4
  active : (s.getCc s.cc0).st = .active
  blot : s.blotCount s.cc0 ≤ 128

/-- The context of the cursor gives its column up, or may: what an operation that ends its run leaves of the rest. Every context on every die, and
every byte of memory, which takes the lines that the splice releases, are those of the splice. -/
structure Leaves (s t : State) (ds : List Nat) (b : Bool) (eff : Nat → State → State) : Prop where
  core : t.core = (spliced (ds.foldl (fun x d => eff d x) s) b).core
  cd : ∀ k, SameCd (t.getCd k) ((spliced (ds.foldl (fun x d => eff d x) s) b).getCd k)
  mem : t.mem = (spliced (ds.foldl (fun x d => eff d x) s) b).mem
  poison : t.poison = (spliced (ds.foldl (fun x d => eff d x) s) b).poison
  cs : ∀ k, (t.getCc k).cs = ((spliced (ds.foldl (fun x d => eff d x) s) b).getCc k).cs
  inh : ∀ k, (t.getCc k).inh = (s.getCc k).inh
  launches : t.launches = s.launches

end Sys2Proof.Claims

/-- R327, R90: after HALT the context is RETIRING, its iteration a splice. R304, R96: after BAR it is BLOCKED at its barrier, where its arrival and
the signals of its release stand. The registers of every context are as before. -/
def Obligations.HaltAndBarrier : Prop :=
  ∀ (s : State) (h : Hdr), Ready s h → s.enabled h ≠ [] →
    (∃ t, exec (.halt h) s = .next t ∧ (t.getCc s.cc0).st = .retiring ∧ (t.getCol s.cur.col).last = s.cur.ctx ∧
      Leaves s t (s.enabled h) true (given s h)) ∧
    ∀ f : FSYNC, (∀ d ∈ s.enabled h, Calm s d) →
      let c := s.getCc s.cc0
      let k := barKey c.launch c.team f.scope.toNat f.bid.toNat c.tcol s.cur.col
      let b := SMap.get ⟨c.launch, c.team, f.scope.toNat, f.bid.toNat, [], none, [], [], 0⟩ s.barriers k
      ∃ t, exec (.bar h f) s = .next t ∧ (t.getCc s.cc0).st = .blocked ∧ (t.getCc s.cc0).blk = some (.barrier k) ∧
        (t.getCc s.cc0).blkSince = s.clock ∧ (t.getCol s.cur.col).last = s.cur.ctx ∧
        t.barriers = SMap.put s.barriers k { b with
          arrived := insNat (c.tcol * 4 + c.tctx) b.arrived
          sigs := b.sigs ++ (s.enabled h).map fun d => (coreKey d s.cur.col, h.sigSem.toNat, h.sigInc.toInt) } ∧
        Leaves s t (s.enabled h) true (fun _ x => x)

/-- R75, R334, R342, R377, R250: NOP completes and gives its signal; the mark SPLICE completes and splices; the mark YIELD completes: it sets the stated run,
restarts the measured run and makes a decision point. Where no other context of the column is READY its context stays ACTIVE, and nothing changes but
its run, the arbiter's state and the trace; else it stays ACTIVE or becomes READY, then with a splice. With their frame. -/
def Obligations.NopAndMarks : Prop :=
  (∀ (s : State) (h : Hdr) (cls : BitVec 4), Ready s h → Does (.nop h cls) s h (signals s h) (given s h)) ∧
  (∀ s : State, Running s → ∃ t, exec .splice s = .next t ∧ Issued s t (s.splice s.cc0) []) ∧
  ∀ (s : State) (run : Word), Running s → ∃ t, exec (.yield run) s = .next t ∧ (t.getCc s.cc0).stated = run.toNat ∧
    (t.getCc s.cc0).measured = true ∧ (t.getCc s.cc0).meas = 1 ∧ (t.getCc s.cc0).yaddr = s.cur.bundle ∧ (t.getCc s.cc0).overran = false ∧
    (t.getCol s.cur.col).last = s.cur.ctx ∧
    ((t.getCc s.cc0).st = .active ∧ t.cd = s.cd ∧ t.mem = s.mem ∨
      (t.getCc s.cc0).st = .ready ∧ ∀ k, t.getCd k = (s.splice s.cc0).getCd k) ∧
    ((∀ k < 4, k ≠ s.cur.ctx → (s.getCc (ccKey s.cur.col k)).st ≠ .ready) →
      { t with cc := s.cc, col := s.col, traceQ := s.traceQ, att := s.att } = s ∧ (∀ k, k ≠ s.cc0 → t.getCc k = s.getCc k) ∧
      (t.getCc s.cc0).st = .active ∧ (t.getCc s.cc0).cs = (s.getCc s.cc0).cs ∧
      (∀ c, c ≠ s.cur.col → t.getCol c = s.getCol c) ∧ (t.getCol s.cur.col).queue = some (s.ctxQueue s.cc0) ∧
      (t.getCol s.cur.col).sleft = if run.toNat ≤ (s.getCol s.cur.col).sleft then (s.getCol s.cur.col).sleft else s.slice s.cc0)

/-- R62, R341, R374, R193, R198, R323: SIG changes its semaphore one clock later, WSEM waits for its count and blocks without it, FENCE marks the accesses
that it orders and signals when they are performed; one that is no acquire is a splice, and completes where no write waits for an acknowledgement at the
scopes .pod and .sys; ETRIG marks its context. With their frame. -/
def Sys2Proof.Claims.SignalsAndFences : Prop :=
  ∀ (s : State) (h : Hdr) (f : FSYNC), Ready s h →
    Does (.sig h f) s h (forces s h) (fun d x => givenAt s h (s.clock + 1) d (x.updCore (coreKey d s.cur.col) fun c => { c with
      sigs := c.sigs ++ [{ due := s.clock + 1, ck := s.ck0 d, sem := f.sem.toNat
                           inc := if f.kind = 1 then -(f.count.toNat : Int) else f.count.toNat, set := f.kind == 2 }] })) ∧
    ((∀ d ∈ s.enabled h, f.count.toNat ≤ (s.coreD d).semCount f.sem.toNat) → Does (.wsem h f) s h (signals s h) (given s h)) ∧
    ((∃ d ∈ s.enabled h, (s.coreD d).semCount f.sem.toNat < f.count.toNat) → Blocks (.wsem h f) s .wait) ∧
    ((f.kind ≠ 0 → flushScope f.scope.toNat = true → ∀ d ∈ s.enabled h, s.unacked (s.ck0 d) (decide (3 ≤ f.kind.toNat)) = []) →
      Does (.fence h f) s h (if f.kind = 0 then signals s h else forces s h) fun d x =>
        (x.markOrd (s.ck0 d) (fenceClass f.kind.toNat)).fenceSignal d h (fenceClass f.kind.toNat) (f.kind != 0 && flushScope f.scope.toNat)) ∧
    Does (.etrig h f) s h (forces s h) (given s h)
      (fun x => if s.enabled h = [] then x else x.updCc s.cc0 fun c => { c with trig := true })

/-- R101, R326: GRAB leaves two scoreboarded results for every die and sends one request of the column to its range. With its frame. -/
def Sys2Proof.Claims.GrabRequest : Prop :=
  ∀ (s : State) (h : Hdr) (f : FSYNC), Ready s h →
    (∀ d ∈ s.enabled h, Writable s d .s f.sregA.n ∧ Writable s d .s f.sregB.n) →
    Does (.grab h f) s h (forces s h)
      (fun d x => leave s d [awaited s h none f.sregA.n 0#64 s.uid true, awaited s h none f.sregB.n 0#64 (s.uid + 1) false] x)
      (fun x => { x with
        uid := s.uid + 2
        grabs := if s.enabled h = [] then s.grabs else s.grabs ++
          [⟨s.clock + head (s.home s.cur.col) 16, s.cur.col, s.cur.ctx, (s.getCc s.cc0).team, f.imm.toNat, s.uid⟩] })

namespace Sys2Proof.Claims

open Machine

/-- R93: the cursor stands on a firmware context, the waits of the header hold, and the context has no blotter to release. -/
structure FwReady (s : State) (h : Hdr) : Prop where
  ctx : s.cur.ctx = 4
  col : s.cur.col < 32
  wait : ∀ d ∈ s.enabled h, h.waitTh.toNat ≤ (s.coreD d).semCount h.waitSem.toNat
  blot : s.blotCount s.cc0 ≤ 128

end Sys2Proof.Claims

/-- R123: the translations that a TLBI names on a die: by the operand there and the ASID of the firmware context. -/
def Sys2Proof.Claims.names (s : State) (f : FSYNC) (d : Nat) (e : TlbE) : Bool :=
  tlbiHits f.kind.toNat (if f.kind = 1 then f.imm.toNat else if f.kind = 2 then sreg s d f.sregA else 0) (bits (s.ctxD d).trbase.toNat 52 12) e

/-- R123: whether a TLBI issued on die `d` reaches a core of die `e`, and the walks of a die. -/
def Sys2Proof.Claims.reachesCore (s : State) (f : FSYNC) (d e c : Nat) : Bool :=
  if f.scope = 0 then e == d && c == s.cur.col else if f.scope = 2 then e == d else s.liveDies.contains e
def Sys2Proof.Claims.reachesDie (s : State) (f : FSYNC) (d e : Nat) : Bool := if f.scope = 0 ∨ f.scope = 2 then e == d else s.liveDies.contains e

/-- R123, R350: TLBI of a hardware context takes fault 0x05 cause 4. That of firmware completes: it removes the entries that it names from every TLB that its
scope reaches, marks the walks in flight, and leaves on each die where it is enabled an invalidation that ends no sooner than one clock later and, issued on
one die, waits for the accesses that used what it removed. With its frame. -/
def Obligations.TlbInvalidate : Prop :=
  (∀ (s : State) (h : Hdr) (f : FSYNC), Ready s h → s.enabled h ≠ [] → Faults (.tlbi h f) s h (fun _ => { code := 5, cause := 4 })) ∧
  (∀ (s : State) (h : Hdr) (f : FSYNC), FwReady s h → (f.kind = 2 → ∀ d ∈ s.enabled h, Settled s d .s f.sregA.n) →
    ∃ t, exec (.tlbi h f) s = .next t ∧ { t with core := s.core, die := s.die, uid := s.uid, att := s.att } = s ∧
      (∀ e < 8, ∀ c < 32, t.getCore (coreKey e c) = { s.getCore (coreKey e c) with
        l1 := (s.getCore (coreKey e c)).l1.filter fun x => !(s.enabled h).any fun d => reachesCore s f d e c && names s f d x }) ∧
      ∀ e < 8,
        (t.getDie e).l2 = (s.getDie e).l2.filter (fun x => !(f.scope != 0 && (s.enabled h).any fun d => reachesDie s f d e && names s f d x)) ∧
        (t.getDie e).walks = (s.getDie e).walks.map (fun w => if (s.enabled h).any fun d => reachesDie s f d e then { w with noFill := true } else w) ∧
        (e ∉ s.enabled h → (t.getDie e).tlbis = (s.getDie e).tlbis) ∧
        (e ∈ s.enabled h → ∃ x, (t.getDie e).tlbis = (s.getDie e).tlbis ++ [x] ∧ x.due = s.clock + 1 ∧ x.ck = s.ck0 e ∧
          x.sigSem = h.sigSem.toNat ∧ x.sigInc = h.sigInc.toInt ∧
          (s.enabled h = [e] → (x.waits, x.writes) = s.tlbiWaits (s.tlbiGone (names s f e) f.scope.toNat e) f.scope.toNat e)))

/-- R321, R76: CWLD checks the control words at its source and, once the column's stall for it is over, they stand as entries of the context's table, their
footprints empty, before its next iteration; a word that fails is fault 0x03 with its entry and cause. With its frame. That the check comes at the issue and the
write at the end is the model's choice where the rule gives no clock (log 113). -/
def Obligations.ControlWordLoad : Prop :=
  (∀ (s : State) (cc first : Nat) (is : List Instr), (s.getCc cc).cwLoad = some (first, is) →
    (s.clock < (s.getCc cc).holdUntil → s.cwDone cc = s) ∧
    ((s.getCc cc).holdUntil ≤ s.clock → s.cwDone cc = s.setCc cc { s.getCc cc with
      cw := (is.zipIdx first).foldl (fun m y => SMap.put m y.2 (some y.1)) (s.getCc cc).cw
      fp := (is.zipIdx first).foldl (fun m y => SMap.erase m y.2) (s.getCc cc).fp
      cwLoad := none })) ∧
  ∀ (s : State) (h : Hdr) (f : FSYNC) (d : Nat) (ds : List Nat) (data : List Byte) (lat : Nat), Ready s h → s.enabled h = d :: ds →
    Settled s d .s f.sregA.n → sreg s d f.sregA % 32 = 0 →
    s.cwSource d f.count.toNat (sreg s d f.sregA) (32 * f.count.toNat) = (data, lat, none, none, s) →
    (∀ is, checkWords f.imm.toNat f.count.toNat data = .ok is →
      Does (.cwld h f) s h true (givenAt s h (s.clock + (lat + f.count.toNat))) fun x => x.updCc s.cc0 fun c => { c with
        cwBuf := none, cwLoad := some (f.imm.toNat, is) }) ∧
    (∀ e k, checkWords f.imm.toNat f.count.toNat data = .error (e, k) →
      exec (.cwld h f) s = .next (s.noAtt.raise s.cc0
        [(d, { code := 3, cause := k, r2 := BitVec.ofNat 64 e, slot := s.cur.slot, r1 := s.cur.bundle })]))

/-- R108, R109: TLOOK leaves a scoreboarded result, four clocks later, of the table as it stands; TSET and TDROP change the table one clock later.
With their frame. -/
def Sys2Proof.Claims.TagOperations : Prop :=
  ∀ (s : State) (h : Hdr) (f : FSYNC), Ready s h →
    let change := fun (o : Nat → TagOp) d x => givenAt s h (s.clock + 1) d
      (x.updCore (coreKey d s.cur.col) fun c => { c with tagPend := c.tagPend ++ [(s.clock + 1, s.ck0 d, o d)] })
    ((∀ d ∈ s.enabled h, Settled s d .s f.sregA.n ∧ Writable s d .s f.sregB.n) →
      Does (.tlook h f) s h (signals s h) fun d x => leave s d [awaited s h (some (s.clock + 4)) f.sregB.n
        (tagLookup (s.coreD d).tags (tagKey (sreg s d f.sregA))) 0 true] x) ∧
    ((∀ d ∈ s.enabled h, Settled s d .s f.sregA.n ∧ Settled s d .s f.sregB.n) →
      Does (.tset h f) s h (forces s h) (change fun d => .set (sreg s d f.sregB / 2 ^ 32 % 1024) (tagKey (sreg s d f.sregA))
        (BitVec.ofNat 32 (sreg s d f.sregB)))) ∧
    ((∀ d ∈ s.enabled h, Settled s d .s f.sregA.n) → Does (.tdrop h f) s h (forces s h) (change fun d => .drop (tagKey (sreg s d f.sregA)))) ∧
    Does (.tdropAll h f) s h (forces s h) (change fun _ => .all)

/-- R109: a lookup after a set finds the entry set, after a drop finds none; the changes that are due take effect in order of issue. -/
def Sys2Proof.Claims.TagTable : Prop :=
  (∀ (t : SMap TagE) (i : Nat) (k : BitVec 50) (x : Word), tagLookup (tagApply t (.set i k x)) k = BitVec.ofNat 64 (i * 2 ^ 32 + x.toNat)) ∧
  (∀ (t : SMap TagE) (k : BitVec 50), (tagLookup (tagApply t (.drop k)) k).getLsbD 63 = true ∧ (tagLookup (tagApply t .all) k).getLsbD 63 = true) ∧
  (∀ (s : State) (core : Nat), ∃ t, exec (.tagTableChangeLands core) s = .next t ∧
    (t.getCore core).tags = ((s.getCore core).tagPend.filter fun x => x.1 ≤ s.clock).foldl (fun m x => tagApply m x.2.2) (s.getCore core).tags ∧
    (∀ x ∈ (t.getCore core).tagPend, s.clock < x.1) ∧ t.mem = s.mem ∧ t.cd = s.cd ∧ t.cc = s.cc ∧
    ∀ k ≠ core, t.getCore k = s.getCore k)

/-! ### Engine commands as they issue -/

namespace Sys2Proof.Claims

open Machine

/-- R129, R153: a copy command, or an SPXGO, in its channel's queue with the identifier of its place, and with the task scheduler. -/
def queuedCopy (s : State) (d ch : Nat) (c : CopyCmd) (x : State) : State :=
  let key := coreKey d s.cur.col
  let c := { c with uid := x.uid, ident := (SMap.get {} (s.coreD d).ch ch).next.toNat }
  (State.updChan { x with uid := x.uid + 1 } key ch fun y => { y with q := y.q ++ [c], next := y.next + 1#32 }).trackCmd key x.uid c.ck c.fp
    (banksOfAll s.cur.col c.dRanges) (banksOfAll s.cur.col c.sRanges)

/-- R128, R153: a channel and the task scheduler have room. -/
def CopyRoom (s : State) (d ch : Nat) : Prop := (SMap.get {} (s.coreD d).ch ch).q.length < 16 ∧ (s.coreD d).track.length < 64

/-- R131: a command refused with a code. -/
def refusedCopy (s : State) (d ch code : Nat) (x : State) : State :=
  x.updChan (coreKey d s.cur.col) ch fun c => { c with errv := true, err := code }

/-- R314: the addresses that a copy latches, the die term on the side that DSIDE names. -/
def copyDst (s : State) (d : Nat) (f : FCOPY) : Nat :=
  addrOf s d 80 f.dbase (f.doff.toInt + if f.dside then dterm s d f.dstride.toInt f.dts else 0) f.dstep.toInt
def copySrc (s : State) (d : Nat) (f : FCOPY) : Nat :=
  addrOf s d 91 f.sbase (f.soff.toInt + if f.dside then 0 else dterm s d f.dstride.toInt f.dts) f.sstep.toInt

/-- R133, R137, R338: the stream to which a copy's channel is bound, plus one (0 for none; a check has no destination), its shape where it
takes one that is loaded, and its ends. -/
def copyStream (s : State) (d : Nat) (f : FCOPY) (k : CopyKind) : Nat := if k = .check then 0 else SMap.get 0 (s.ctxD d).bind f.ch.toNat
def copyShape (s : State) (d : Nat) (f : FCOPY) : Option (BitVec 256) :=
  let r : ShReg := SMap.get {} (s.ctxD d).sh f.shape.toNat
  if f.shen && r.loaded then some r.bits else none
def copyEnds (s : State) (d : Nat) (f : FCOPY) (k : CopyKind) : CopyEnds :=
  ⟨f, k, if k ≠ .check then copyDst s d f else 0, copySrc s d f, copyShape s d f, copyStream s d f k != 0, s.coreD d⟩

/-- R131: a copy is refused with code `code`: the lowest for which the stated condition holds (0 where none does). -/
def RefusedWith (e : CopyEnds) (code : Nat) : Prop := e.refusal = if code = 0 then none else some code

/-- The operands of a copy have values, and no record for its shape register is on its way (R137). -/
def CopyOps (s : State) (d : Nat) (f : FCOPY) (k : CopyKind) : Prop :=
  (k ≠ .check → BaseOk s d f.dbase) ∧ BaseOk s d f.sbase ∧
    (f.shen = true → ∀ r ∈ (s.ctxD d).recs, r.k ≠ f.shape.toNat)

/-- R313, R314: a copy command: queued with its addresses, types and count, or refused with its code; the operation issues in both cases. -/
def CopyIssues (mk : Hdr → FCOPY → Instr) (k : CopyKind) : Prop :=
  ∀ (s : State) (h : Hdr) (f : FCOPY) (code : Nat → Nat), Ready s h →
    (∀ d ∈ s.enabled h, CopyOps s d f k ∧ RefusedWith (copyEnds s d f k) (code d) ∧ (code d = 0 → CopyRoom s d f.ch.toNat)) →
    Does (mk h f) s h (forces s h) fun d x =>
      let e := copyEnds s d f k
      if code d = 0 then queuedCopy s d f.ch.toNat
        { uid := 0, ident := 0, ck := s.ck0 d, op := mk h f, bundle := s.cur.bundle, daddr := BitVec.ofNat 64 e.d, saddr := BitVec.ofNat 64 e.a,
          sty := e.types.1, dty := e.types.2, n := e.count.getD 0, qctl := (s.ctxD d).ws.qctl, sh := e.sh.getD 0#256,
          stream := copyStream s d f k, sbytes := h.sbytes, sigSem := h.sigSem.toNat, sigInc := h.sigInc.toInt,
          fp := if copyStream s d f k = 0 then s.cur.fp else s.cur.fp.filter fun r => !r.write } x
      else refusedCopy s d f.ch.toNat (code d) x

end Sys2Proof.Claims

/-- R128, R129, R131, R313, R314, R153: CPY, CPYG and CPCHK queue their command with what they latch, or are refused with the code of R131. With
their frame. -/
def Sys2Proof.Claims.CopyCommands : Prop := CopyIssues .cpy .plain ∧ CopyIssues .cpyg .gather ∧ CopyIssues .cpchk .check

/-- R128: a copy that meets a full channel raises code 0x0D, or with CPCTL.LENIENT blocks its context. -/
def Sys2Proof.Claims.CopyChannelFull : Prop :=
  ∀ (s : State) (h : Hdr) (f : FCOPY) (k : CopyKind) (mk : Hdr → FCOPY → Instr), (mk, k) ∈ [(Instr.cpy, CopyKind.plain), (.cpyg, .gather),
      (.cpchk, .check)] → Ready s h → s.enabled h ≠ [] →
    (∀ d ∈ s.enabled h, CopyOps s d f k ∧ RefusedWith (copyEnds s d f k) 0 ∧ 16 ≤ (SMap.get {} (s.coreD d).ch f.ch.toNat).q.length ∧
      (s.coreD d).track.length < 64) →
    ((∀ d ∈ s.enabled h, (s.ctxD d).ws.cpctl.getLsbD 0 = false) → Faults (mk h f) s h (fun _ => { code := 0x0D })) ∧
    ((∀ d ∈ s.enabled h, (s.ctxD d).ws.cpctl.getLsbD 0 = true) → Blocks (mk h f) s .push)

/-- R142, R344: SPXGO queues a decode with the core's decoder configuration, or is refused for its alignment; it waits for a configuration on its way. With its
frame. -/
def Sys2Proof.Claims.SparseGo : Prop :=
  ∀ (s : State) (h : Hdr) (f : FCOPY), Ready s h →
    let sa := fun d => addrOf s d 91 f.sbase (f.soff.toInt + dterm s d f.dstride.toInt f.dts) f.sstep.toInt
    let code := fun d => if (s.coreD d).spxMode ≠ 1 then 0 else if sa d % 4 ≠ 0 then 1 else if f.len.toNat % 4 ≠ 0 then 3 else 0
    (∀ d ∈ s.enabled h, BaseOk s d f.sbase ∧ s.spxPending (coreKey d s.cur.col) = false ∧ (code d = 0 → CopyRoom s d f.ch.toNat)) →
    Does (.spxgo h f) s h (forces s h) fun d x =>
      let k := s.coreD d
      if code d = 0 then queuedCopy s d f.ch.toNat
        { uid := 0, ident := 0, ck := s.ck0 d, op := .spxgo h f, bundle := s.cur.bundle, daddr := 0#64, saddr := BitVec.ofNat 64 (sa d),
          sty := .b, dty := .b, n := f.len.toNat, qctl := 0#32, sh := 0#256, stream := 0, sbytes := h.sbytes, sigSem := h.sigSem.toNat,
          sigInc := h.sigInc.toInt, fp := s.cur.fp, spx := k.spxMode + 2 ^ 8 * k.spxShift + 2 ^ 16 * k.spxRate } x
      else refusedCopy s d f.ch.toNat (code d) x

namespace Sys2Proof.Claims

open Machine

/-- R340, R343: an operation that reads a 32-byte record for register `k` (16 for the decoder): aligned, it sends the record as its context reads
it on its way; misaligned, it takes fault 0x06 with its cause. -/
def RecordIssues (mk : Hdr → FMEM → Instr) (reg : FMEM → Nat) (cause : Nat) : Prop :=
  ∀ (s : State) (h : Hdr) (f : FMEM), Ready s h → (∀ d ∈ s.enabled h, BaseOk s d f.base) →
    (∀ tg : Nat → Tr,
      (∀ d ∈ s.enabled h, Reaches s d (memAt s d f) 32 true false (tg d) ∧
        ∀ loc kind lat, tg d = .ok loc kind lat → s.readPoisoned (s.ctxD d).blot loc 32 = false) →
      Does (mk h f) s h (forces s h) fun d x =>
        let add := fun due b uid (y : State) => y.updCd (s.ck0 d) fun c => { c with recs := c.recs ++
          [{ due := due, k := reg f, bits := b, sigSem := h.sigSem.toNat, sigInc := h.sigInc.toInt, bundle := s.cur.bundle,
             addr := BitVec.ofNat 64 (memAt s d f), uid := uid, ctx := s.ck0 d, issued := s.clock }] }
        match tg d with
        | .ok loc _ lat => add (some (s.clock + if spadBase ≤ memAt s d f ∧ memAt s d f < spadBase + 2 ^ 21 then 6 else lat)) (BitVec.ofNat 256 (leNat (s.readCtx (s.ctxD d).blot loc 32))) 0 x
        | .pod pkg a => add none 0#256 x.uid (State.podSend { x with uid := x.uid + 1 } d (s.partOf s.cc0) pkg a x.uid s.clock (.read 32))
        | _ => x) ∧
    (s.enabled h ≠ [] → (∀ d ∈ s.enabled h, memAt s d f % 32 ≠ 0) →
      exec (mk h f) s = .next ((s.noAtt.unloadAll ((s.enabled h).flatMap fun d => if reg f < 16 then [(s.ck0 d, reg f)] else [])).raise s.cc0
        ((s.enabled h).map fun d =>
          (d, { code := 6, cause := cause, r0 := BitVec.ofNat 64 (memAt s d f), slot := s.cur.slot, r1 := s.cur.bundle }))))

end Sys2Proof.Claims

/-- R137, R340, R343: SHAPE and SPXCFG read a record and send it on its way, or take fault 0x06 at a misaligned address, a SHAPE unloading its register.
With their frame. -/
def Sys2Proof.Claims.Records : Prop :=
  RecordIssues .shape (fun f => f.sub.toNat % 16) 1 ∧ RecordIssues .spxcfg (fun _ => 16) 3

namespace Sys2Proof.Claims

open Machine

/-- R316: the commands of a context in a channel that have not begun. -/
def notBegun (s : State) (core ck ch : Nat) : List CopyCmd := (SMap.get {} (s.getCore core).ch ch).q.filter fun c => c.ck == ck && c.started.isNone

end Sys2Proof.Claims

/-- R338, R316: SBIND binds its channel to a stream, or unbinds it; CPDRAIN removes the commands of its context that have not begun and leaves their
number, two clocks after issue. With their frame. -/
def Sys2Proof.Claims.BindAndDrain : Prop :=
  ∀ (s : State) (h : Hdr) (f : FRRR), Ready s h →
    (Does (.sbind h f) s h (forces s h) fun d x => given s h d (x.updCd (s.ck0 d) fun c => { c with
      bind := SMap.set 0 c.bind (f.sub.toNat % 4) (if f.sub.toNat / 4 % 2 = 1 then f.dst.n % 16 + 1 else 0) })) ∧
    ((∀ d ∈ s.enabled h, Writable s d .s f.dst.n) →
      Does (.cpdrain h f) s h (forces s h) fun d x =>
        let chs := [0, 1, 2, 3].filter fun ch => f.sub.getLsbD ch
        leave s d [resultOf s h false 2 .s f.dst.n (BitVec.ofNat 512
            ((chs.map fun ch => (notBegun s (coreKey d s.cur.col) (s.ck0 d) ch).length).foldl (· + ·) 0)) (BitVec.allOnes 512) 0 0]
          (chs.foldl (fun x ch => (x.drainChan (coreKey d s.cur.col) (s.ck0 d) ch).2) x))

/-- R129, R316: what CPDRAIN does to a channel: the commands of the context that have not begun are gone, every other command stays, CPDONE is the
identifier of the first, and nothing is written. -/
def Sys2Proof.Claims.ChannelDrained : Prop :=
  ∀ (s : State) (core ck ch : Nat),
    let t := (s.drainChan core ck ch).2
    let c := SMap.get {} (t.getCore core).ch ch
    (s.drainChan core ck ch).1 = (notBegun s core ck ch).length ∧
    (∀ x, x ∈ c.q ↔ x ∈ (SMap.get {} (s.getCore core).ch ch).q ∧ x ∉ notBegun s core ck ch) ∧
    c.done = (match c.q with
      | x :: _ => BitVec.ofNat 32 x.ident
      | [] => c.next) ∧
    (∀ j ≠ ch, SMap.get {} (t.getCore core).ch j = SMap.get {} (s.getCore core).ch j) ∧ (∀ k ≠ core, t.getCore k = s.getCore k) ∧
    t.mem = s.mem ∧ t.cd = s.cd ∧ t.cc = s.cc

namespace Sys2Proof.Claims

open Machine

/-- R145 to R147: a matrix command as it is latched. -/
def mxCmd (s : State) (h : Hdr) (op : Instr) (f : FMX) (d : Nat) : MxCmd :=
  let k := mxKind op
  let a := if k.readsA || k == .ret then addrOf s d 80 f.abase (f.aoff.toInt + dterm s d f.dstride.toInt f.dts) 0 else 0
  let b := if k.readsB then addrOf s d 91 f.bbase f.boff.toInt 0 else 0
  { uid := 0, ck := s.ck0 d, op := op, bundle := s.cur.bundle, aaddr := BitVec.ofNat 64 a, baddr := BitVec.ofNat 64 b,
    aty := if k.readsA then (s.coreD d).mxTypeAt a f.atype else f.atype, bty := if k.readsB then (s.coreD d).mxTypeAt b f.btype else f.btype,
    qctl := (s.ctxD d).ws.qctl, sigSem := h.sigSem.toNat, sigInc := h.sigInc.toInt, fp := s.cur.fp }

/-- R147, R153: a matrix command queued: its tile busy, its latch judged by it from now on, and with the task scheduler. -/
def queuedMx (s : State) (d : Nat) (c : MxCmd) (x : State) : State :=
  let k := c.kind
  let key := coreKey d s.cur.col
  let y := (State.updCore { x with uid := x.uid + 1 } key fun y => { y with mxq := y.mxq ++ [{ c with uid := x.uid }] }).updCd (s.ck0 d) fun y => { y with
    acc := if k.busies then SMap.upd {} y.acc c.f.acc.toNat fun t => { t with busy := some x.uid } else y.acc
    lIss := if k.readsB then SMap.set (.b, 0) y.lIss c.f.latch.toNat (c.bty, lastRows c.f.k.toNat) else y.lIss }
  y.trackCmd key x.uid c.ck c.fp (if k == .ret then banksOfAll s.cur.col (c.opA.ranges true) else [])
    (banksOfAll s.cur.col ((if k.readsA then c.opA.ranges false else []) ++ (if k.readsB then c.opB.ranges false else [])))

/-- R144 to R147: a matrix operation: queued with what it latches, or an illegal operation where its types, its rows or its operands are not
what R144, R145 and R333 ask. -/
def MatrixIssues (mk : Hdr → FMX → Instr) : Prop :=
  ∀ (s : State) (h : Hdr) (f : FMX), Ready s h →
    let k := mxKind (mk h f)
    let c := mxCmd s h (mk h f) f
    let bad := fun d => (c d).illegal (SMap.get (.b, 0) (s.ctxD d).lIss f.latch.toNat)
    (∀ d ∈ s.enabled h, ((k.readsA = true ∨ k = .ret) → BaseOk s d f.abase) ∧ (k.readsB = true → BaseOk s d f.bbase)) →
    ((∀ d ∈ s.enabled h, bad d = false ∧ (s.coreD d).mxq.length < 4 ∧ (s.coreD d).track.length < 64 ∧
        (k.names = true → (SMap.get {} (s.ctxD d).acc f.acc.toNat).busy = none)) →
      Does (mk h f) s h (forces s h) fun d x => queuedMx s d (c d) x) ∧
    (s.enabled h ≠ [] → (∀ d ∈ s.enabled h, bad d = true) → Faults (mk h f) s h (fun _ => { code := 2 }))

end Sys2Proof.Claims

/-- R144 to R147, R333: MLATCH, MMUL, MTILE, MZERO and MRET queue their command with what they latch, set the busy bit of their tile, or are illegal
operations. With their frame. -/
def Obligations.MatrixCommands : Prop :=
  MatrixIssues .mlatch ∧ MatrixIssues .mmul ∧ MatrixIssues .mtile ∧ MatrixIssues .mzero ∧ MatrixIssues .mret

namespace Sys2Proof.Claims

open Machine

/-- R339: the index and the choice of the route that an operation tries. -/
def tryIdx (s : State) (d : Nat) (f : FEN) : Nat := Nat.min (sreg s d f.out % 8) f.nch.toNat
def tryChoice (s : State) (d : Nat) (f : FEN) : Nat := routeChoice f (tryIdx s d f)

/-- R155: the addresses that a transfer latches. -/
def enDst (s : State) (d : Nat) (f : FEN) : Nat := addrOf s d 80 f.dbase f.doff.toInt 0
def enSrc (s : State) (d : Nat) (f : FEN) : Nat := addrOf s d 91 f.sbase (f.soff.toInt + dterm s d f.dstride.toInt f.dts) 0

/-- R156: both ends of a transfer lie where its route reaches. -/
def EndsOk (s : State) (d : Nat) (f : FEN) (choice : Nat) : Prop :=
  endFault (engAcc choice) (enDst s d f) f.len.toNat = none ∧ endFault (engAcc choice) (enSrc s d f) f.len.toNat = none

/-- The transfer of an operation as it is latched. -/
def xmitOf (s : State) (h : Hdr) (op : Instr) (f : FEN) (d uid start : Nat) : Xmit :=
  { uid := uid, ck := s.ck0 d, op := op, bundle := s.cur.bundle, daddr := BitVec.ofNat 64 (enDst s d f), saddr := BitVec.ofNat 64 (enSrc s d f),
    len := f.len.toNat, sigSem := h.sigSem.toNat, sigInc := h.sigInc.toInt, start := start }

/-- R156, R280: a request on its way to its engine. -/
def sentReq (s : State) (d : Nat) (f : FEN) (r : Req) (x : State) : State :=
  x.updEng (engKey d s.cur.col r.choice) fun e => { e with reqs := e.reqs ++ [{ r with
    atClk := s.clock + (if r.choice < 2 then 2 else 6), barred := s.policyRefuses s.cc0 r.choice, i := tryIdx s d f }] }

/-- R157, R160: the admission of the direct route: the route list presented, the streak cleared, and the result of R157 two clocks after
issue. -/
def admittedDirect (s : State) (d : Nat) (f : FEN) (uid : Nat) (x : State) : State :=
  let c := (s.ctxD d).present (routeList f)
  leave s d [engResult s .s f.out.n uid (some (s.clock + 2)) (7 * 2 ^ 8 + 2 * 2 ^ 4 + (if c.aged then 8 else 0) + tryIdx s d f),
      engResult s .f f.fbusy.toNat uid (some (s.clock + 2)) 0]
    (x.updCd (s.ck0 d) fun y => { y with lastNch := c.lastNch, lastChoices := c.lastChoices, streak := 0, aged := false })

/-- R339: a SEIZE (a hold where `hold`) tries one route: the direct one at once, another by a request to its engine. -/
def SeizeIssues (mk : Hdr → FEN → Instr) (hold : Bool) : Prop :=
  ∀ (s : State) (h : Hdr) (f : FEN), Ready s h →
    (∀ d ∈ s.enabled h, Settled s d .s f.out.n ∧ Writable s d .s f.out.n ∧ Writable s d .f f.fbusy.toNat ∧
      (hold = false → BaseOk s d f.dbase ∧ BaseOk s d f.sbase ∧ EndsOk s d f (tryChoice s d f)) ∧
      (tryChoice s d f = 7 → (s.coreD d).direct.length < 16)) →
    Does (mk h f) s h (forces s h) fun d x =>
      let y := { x with uid := x.uid + 1 }
      if tryChoice s d f = 7 then
        let z := admittedDirect s d f x.uid y
        if hold then z else z.pushDirect (coreKey d s.cur.col) (xmitOf s h (mk h f) f d x.uid s.clock)
      else sentReq s d f
        { atClk := 0, uid := x.uid, ck := s.ck0 d, i := 0, choice := tryChoice s d f, op := mk h f, bundle := s.cur.bundle,
          daddr := if hold then 0#64 else BitVec.ofNat 64 (enDst s d f), saddr := if hold then 0#64 else BitVec.ofNat 64 (enSrc s d f),
          barred := false }
        (leave s d [engResult s .s f.out.n x.uid none 0, engResult s .f f.fbusy.toNat x.uid none 0] y)

end Sys2Proof.Claims

/-- R155 to R157, R160, R163, R339: SEIZE and SEIZE.hold try one route. With their frame. -/
def Obligations.SeizeRequests : Prop := SeizeIssues .seize false ∧ SeizeIssues .seizeHold true

/-- R164, R309, R345: SXFER, which latches its addresses first, queues a transfer on the circuit that its handle names and its context holds, or on the
direct path, and answers busy for a handle that it does not hold; CLEAR gives the circuit up from the next clock, and does nothing without it. With their frame. -/
def Obligations.HeldCircuits : Prop :=
  ∀ (s : State) (h : Hdr) (f : FEN), Ready s h → (∀ d ∈ s.enabled h, Settled s d .s f.out.n) →
    let hd := fun d => sreg s d f.out / 2 ^ 8 % 2 ^ 8
    let flag := fun (_ : Nat) v => { resultOf s h false 2 .f f.fbusy.toNat (BitVec.ofNat 512 v) (BitVec.allOnes 512) 0 0 with sigSem := 0 }
    ((∀ d ∈ s.enabled h, Writable s d .f f.fbusy.toNat ∧ BaseOk s d f.dbase ∧ BaseOk s d f.sbase) →
      ((∀ d ∈ s.enabled h, hd d % 16 ≠ 7 ∧ s.heldCirc d (s.ck0 d) (hd d) = none) →
        Does (.sxfer h f) s h (forces s h) fun d x => leave s d [flag d 1] x) ∧
      ((∀ d ∈ s.enabled h, EndsOk s d f (hd d % 16)) →
        ((∀ d ∈ s.enabled h, ∃ c, s.heldCirc d (s.ck0 d) (hd d) = some c ∧ c.xs.length < 4) →
          Does (.sxfer h f) s h (forces s h) fun d x =>
            State.pushCirc (leave s d [flag d 0] { x with uid := x.uid + 1 }) (engKey d s.cur.col (hd d % 16)) (hd d / 16)
              (xmitOf s h (.sxfer h f) f d x.uid (s.clock + if hd d % 16 < 2 then 2 else 6))) ∧
        ((∀ d ∈ s.enabled h, hd d % 16 = 7 ∧ (s.coreD d).direct.length < 16) →
          Does (.sxfer h f) s h (forces s h) fun d x =>
            State.pushDirect (leave s d [flag d 0] { x with uid := x.uid + 1 }) (coreKey d s.cur.col)
              (xmitOf s h (.sxfer h f) f d x.uid s.clock)))) ∧
    Does (.clear h f) s h (forces s h) fun d x => given s h d (if (s.heldCirc d (s.ck0 d) (hd d)).isNone then x
      else x.updCirc (engKey d s.cur.col (hd d % 16)) (hd d / 16) fun c => { c with freeAt := some (s.clock + 1) })

/-- R310, R312: COLL, issued for every die of its launch, joins the collective of its number on the direct route, or sends a request with its member; issued
for fewer, or with a receive need beyond the engine's buffer, it is an illegal operation. With its frame. -/
def Obligations.Collective : Prop :=
  ∀ (s : State) (h : Hdr) (f : FEN) (l : Launch), Ready s h → s.enabled h ≠ [] → s.ctxLaunch s.cc0 = some l →
    let c := s.getCc s.cc0
    let rank := fun d => s.collRank l c.tcol c.tctx d
    let need := fun d => collNeed f.op.toNat (s.collM l) (rank d) f.len.toNat
    let all := ∀ d ∈ allDies, s.onDie d = true → h.dm.getLsbD d = true
    (all → (∀ d ∈ s.enabled h, need d ≤ 2 ^ 19 ∧ Settled s d .s f.out.n ∧ Writable s d .s f.out.n ∧ Writable s d .f f.fbusy.toNat ∧
        BaseOk s d f.dbase ∧ BaseOk s d f.sbase ∧ EndsOk s d f (tryChoice s d f) ∧
        (tryChoice s d f = 7 → (s.coreD d).direct.length < 16 ∧ (s.coreD d).staging = none)) →
      Does (.coll h f) s h true fun d x =>
        let y := { x with uid := x.uid + 1 }
        let m : CollMember :=
          { rank := rank d, m := s.collM l, tcol := c.tcol, tctx := c.tctx, die := d, ck := s.ck0 d, op := .coll h f,
            bundle := s.cur.bundle, daddr := BitVec.ofNat 64 (enDst s d f), saddr := BitVec.ofNat 64 (enSrc s d f), uid := x.uid,
            need := need d, atClk := s.clock }
        if tryChoice s d f = 7 then
          let n := (s.ctxD d).colls
          let key := collKey c.launch c.team n
          (State.pushDirect (((admittedDirect s d f x.uid y).updCd (s.ck0 d) fun z => { z with colls := n + 1 }).updCore (coreKey d s.cur.col)
              fun z => { z with staging := some key }) (coreKey d s.cur.col)
            { xmitOf s h (.coll h f) f d x.uid s.clock with coll := some (key, rank d) }).joinColl c.launch c.team n { m with direct := true }
        else sentReq s d f
          { atClk := 0, uid := x.uid, ck := s.ck0 d, i := 0, choice := tryChoice s d f, op := .coll h f, bundle := s.cur.bundle,
            daddr := BitVec.ofNat 64 (enDst s d f), saddr := BitVec.ofNat 64 (enSrc s d f), barred := false,
            coll := some (c.launch, c.team, m) }
          (leave s d [engResult s .s f.out.n x.uid none 0, engResult s .f f.fbusy.toNat x.uid none 0] y)) ∧
    ((¬all ∨ ∀ d ∈ s.enabled h, 2 ^ 19 < need d) → Faults (.coll h f) s h (fun _ => { code := 2 }))

/-- R150, R305: no bank of the `n` bytes at `a` is held against a read, or a write; and for a read no engine has waited so long for a port of one that it
comes first, and no BLAT of the context is on its way to one of them. -/
def Sys2Proof.Claims.BytesFree (s : State) (d a n : Nat) (wr : Bool) : Prop :=
  ∀ i < n, (if wr then (s.coreD d).bankHeld ((a + i - spadBase) / 2 ^ 13) else (s.coreD d).bankExcl ((a + i - spadBase) / 2 ^ 13)) = false ∧
    (wr = false → (s.coreD d).portDue s.clock (portOf (s.spadAt d (a + i)) false) = false ∧
      s.blatHeld (s.ck0 d) (s.spadAt d (a + i)) 1 = false)

/-- R168, R169, R305: at the stated cycle of a quad-synchronous launch BDRV puts its bytes on the slate bus and BLAT takes a place at it, each with a
busy flag two clocks later; at another they are illegal operations. With their frame. -/
def Obligations.SlateBusOperations : Prop :=
  ∀ (s : State) (h : Hdr) (f : FEN), Ready s h → s.enabled h ≠ [] →
    let n := f.len.toNat
    let a := fun d => addrOf s d 91 f.sbase f.soff.toInt 0
    let b := fun d => addrOf s d 80 f.dbase f.doff.toInt 0
    let flag := fun uid => { engResult s .f f.fbusy.toNat uid (some (s.clock + 2)) 0 with sb := false, lat := 2 }
    let fits := fun x => spadBase ≤ x ∧ x + n ≤ spadBase + 2 ^ 21
    let now := fun d => (∃ l, s.ctxLaunch s.cc0 = some l ∧ l.qsync = true) ∧ (s.getQuad (quadKey d s.cur.col)).cycle = f.cycle.toNat
    ((∀ d ∈ s.enabled h, now d ∧ fits (a d) ∧ BaseOk s d f.sbase ∧ Writable s d .f f.fbusy.toNat ∧ BytesFree s d (a d) n false ∧
        ((s.getCc s.cc0).portDone = true ∨ ∀ i < n, ∀ j < n, (a d - spadBase + i) / 2 ^ 13 = (a d - spadBase + j) / 2 ^ 13 →
          (a d - spadBase + i) / 64 = (a d - spadBase + j) / 64)) →
      Does (.bdrv h f) s h true (fun d x => givenAt s h (s.clock + 2) d
        (State.updQuad (leave s d [flag x.uid] { x with uid := x.uid + 1 }) (quadKey d s.cur.col) fun q => { q with drv := q.drv ++
          [(s.cur.col, x.uid, (List.range n).map fun i =>
            let loc := spadPlace s d (a d) + i
            ((blotByte (s.ctxD d).blot loc).getD (s.readByte loc), s.readPoisoned (s.ctxD d).blot loc 1))] }))
        fun x => x.usePorts ((s.enabled h).flatMap fun d => (pieces64 4 (a d - spadBase) n).map fun p => (d, p.1 / 64, false))) ∧
    ((∀ d ∈ s.enabled h, now d ∧ fits (b d) ∧ BaseOk s d f.dbase ∧ Writable s d .f f.fbusy.toNat ∧ BytesFree s d (b d) n true) →
      Does (.blat h f) s h true fun d x =>
        let y := flushed s d x
        State.updQuad (leave s d [flag y.uid] { y with uid := y.uid + 1 }) (quadKey d s.cur.col) fun q => { q with lat := q.lat ++
          [{ ck := s.ck0 d, uid := y.uid, loc := spadPlace s d (b d), len := n, sigSem := h.sigSem.toNat, sigInc := h.sigInc.toInt }] }) ∧
    ((∀ d ∈ s.enabled h, ¬now d ∧ BaseOk s d f.sbase ∧ BaseOk s d f.dbase) →
      Faults (.bdrv h f) s h (fun _ => { code := 2 }) ∧ Faults (.blat h f) s h (fun _ => { code := 2 }))

namespace Sys2Proof.Claims

open Machine

/-- R81, R184: no operation of the context on an envelope register that the operation names is queued, and the unit has a free entry. -/
def EvFree (s : State) (d : Nat) (i : Instr) : Prop :=
  ∀ e ∈ (s.coreD d).evq, e.ck = s.ck0 d → ∀ n ∈ evNames i, evDest e.op ≠ some n
def EvRoom (s : State) (d : Nat) : Prop := (s.coreD d).evq.length < 4

/-- R184: an operation as it is queued, with the tolerance that it latches. -/
def evBase (s : State) (d uid : Nat) (i : Instr) : EvOp :=
  { uid := uid, ck := s.ck0 d, op := i, tol := (s.ctxD d).ws.etolr, va := 0#512, vb := 0#512, vc := 0#512, pred := 0#16, sop := 0#64,
    addr := 0#64, pre := false, bundle := s.cur.bundle }

/-- R184, R183: an operation in the unit's queue, with its requests for bank locks. -/
def queuedEv (s : State) (d : Nat) (e : Nat → EvOp) (banks : List (Nat × Bool)) (x : State) : State :=
  let locks := banks.map fun b => (⟨x.uid, b.1, b.2⟩ : LockReq)
  State.updCore { x with uid := x.uid + 1 } (coreKey d s.cur.col) fun k =>
    { k with evq := k.evq ++ [{ e x.uid with locks := locks }], locks := k.locks ++ locks }

/-- An operation of the unit that latches nothing but the tolerance. -/
def EvIssues (mk : Hdr → FEV → Instr) : Prop :=
  ∀ (s : State) (h : Hdr) (f : FEV), Ready s h → (∀ d ∈ s.enabled h, EvFree s d (mk h f) ∧ EvRoom s d) →
    Does (mk h f) s h (signals s h) fun d x => queuedEv s d (fun u => evBase s d u (mk h f)) [] x

/-- R182, R183: an operation with an image at an address: queued with its locks on the banks of the largest image, or fault 0x06 cause 4. -/
def EvImage (mk : Hdr → FEV → Instr) (excl : Bool) : Prop :=
  ∀ (s : State) (h : Hdr) (f : FEV), Ready s h →
    let a := fun d => addrOf s d 127 f.sreg f.offset.toInt 0
    (∀ d ∈ s.enabled h, BaseOk s d f.sreg ∧ EvFree s d (mk h f) ∧ EvRoom s d) →
    ((∀ d ∈ s.enabled h, a d % 16 = 0) → Does (mk h f) s h (if excl then forces s h else signals s h) fun d x =>
      queuedEv s d (fun u => { evBase s d u (mk h f) with addr := BitVec.ofNat 64 (a d) })
        ((banksOf s.cur.col (a d) 4128).map fun b => (b, excl)) (if excl then flushed s d x else x)) ∧
    (s.enabled h ≠ [] → (∀ d ∈ s.enabled h, a d % 16 ≠ 0) →
      Faults (mk h f) s h (fun d => { code := 6, cause := 4, r0 := BitVec.ofNat 64 (a d) }))

end Sys2Proof.Claims

/-- R177, R179 to R184: ELINE, EMAX, ESUM, EINFC, ECONJ, ECLR, ESAVE and ELOAD are queued with what they latch. With their frame. -/
def Sys2Proof.Claims.EnvelopeCommands : Prop :=
  EvIssues .emax ∧ EvIssues .esum ∧ EvIssues .einfc ∧ EvIssues .econj ∧ EvImage .esave true ∧ EvImage .eload false ∧
  (∀ (s : State) (h : Hdr) (f : FEV), Ready s h → (∀ d ∈ s.enabled h, Settled s d .s f.sreg.n ∧ EvFree s d (.eclr h f) ∧ EvRoom s d) →
    Does (.eclr h f) s h (signals s h) fun d x =>
      queuedEv s d (fun u => { evBase s d u (.eclr h f) with sop := BitVec.ofNat 64 (sreg s d f.sreg) }) [] x) ∧
  (∀ (s : State) (h : Hdr) (f : FEV), Ready s h →
    (∀ d ∈ s.enabled h, PrOk s d f.pr ∧ SrcOk s d 86 .v f.vopA ∧ SrcOk s d 97 .v f.vopB ∧ SrcOk s d 108 .v f.vopC ∧
      EvFree s d (.eline h f) ∧ EvRoom s d) →
    ∃ p : Nat → Half, (∀ d ∈ s.enabled h, ∀ n < 16, (p d).getLsbD n = acts s d f.pr n) ∧
      Does (.eline h f) s h (signals s h) fun d x => queuedEv s d (fun u => { evBase s d u (.eline h f) with
        va := src s d 86 .v f.vopA, vb := src s d 97 .v f.vopB, vc := src s d 108 .v f.vopC, pred := p d }) [] x)

/-- R178, R172, R176: EEVAL evaluates its envelope at each enabled lane, twelve clocks after issue: value and tag; EBRK gives the ends and the tags of
its lines from S[Sreg] on, four clocks after issue; ETOL writes ETOLR at once, a NaN or a negative value as zero. With their frame. -/
def Sys2Proof.Claims.EnvelopeReads : Prop :=
  (∀ (s : State) (h : Hdr) (f : FEV), Ready s h →
    (∀ d ∈ s.enabled h, PrOk s d f.pr ∧ SrcOk s d 108 .v f.vopC ∧ EvFree s d (.eeval h f) ∧ Writable s d .v f.vopA.n ∧ Writable s d .v f.vopB.n) →
    ∃ v w mask : Nat → Vec, Does (.eeval h f) s h (signals s h) (fun d x => leave s d [
        { resultOf s h false 12 .v f.vopA.n (v d) (mask d) 0 0 with sigSem := 0 }, resultOf s h false 12 .v f.vopB.n (w d) (mask d) 0 0] x) ∧
      ∀ d ∈ s.enabled h, (∀ j < 512, (mask d).getLsbD j = acts s d f.pr (j / 32)) ∧ ∀ n < 16,
        let r := envVal (SMap.get Env.launch (s.ctxD d).ws.e f.esrcA.toNat) (elem 32 (src s d 108 .v f.vopC) n)
        elem 32 (v d) n = r.1 ∧ elem 32 (w d) n = r.2.setWidth 32) ∧
  (∀ (s : State) (h : Hdr) (f : FEV), Ready s h →
    (∀ d ∈ s.enabled h, Settled s d .s f.sreg.n ∧ EvFree s d (.ebrk h f) ∧ Writable s d .v f.vopA.n ∧ Writable s d .v f.vopB.n) →
    let e := fun d => SMap.get Env.launch (s.ctxD d).ws.e f.esrcA.toNat
    ∃ v w mask : Nat → Vec, Does (.ebrk h f) s h (signals s h) (fun d x => leave s d [
        { resultOf s h false 4 .v f.vopA.n (v d) (mask d) 0 0 with sigSem := 0 }, resultOf s h false 4 .v f.vopB.n (w d) (mask d) 0 0] x) ∧
      ∀ d ∈ s.enabled h, mask d = BitVec.allOnes 512 ∧ ∀ n < 16,
        elem 32 (v d) n = ((e d).ends.getD (sreg s d f.sreg + n) 0x7FC00000#32) ∧
        elem 32 (w d) n = BitVec.ofNat 32 ((e d).status.code * 2 ^ 30 + (e d).n * 2 ^ 16 +
          if sreg s d f.sreg + n < (e d).n then ((e d).line (sreg s d f.sreg + n)).tag.toNat else 0xFFFF)) ∧
  (∀ (s : State) (h : Hdr) (f : FEV), Ready s h → (∀ d ∈ s.enabled h, Settled s d .s f.sreg.n) →
    Does (.etol h f) s h (signals s h) fun d x => given s h d (x.updCd (s.ck0 d) fun c =>
      let t := BitVec.ofNat 32 (sreg s d f.sreg)
      { c with ws := { c.ws with
        etolr := if (fmtF32.dec t.toNat).isNan || t.getLsbD 31 then 0#32 else t
        eflg := if (fmtF32.dec t.toNat).isNan then c.ws.eflg ||| 1#32 else c.ws.eflg } }))

/-! ### The step, the decoder and the invariants -/

namespace Sys2Proof.Claims

open Machine

/-- R53: what a column needs for an attempt at the next iteration of its context `k`: that context ACTIVE and free to issue, no breakpoint at
its bundle, no fault that waits for its boundary, no TRET whose target comes next, no words of a CWLD still to be written, and a launch that is not quad-synchronous. -/
structure MayTry (s : State) (col k : Nat) : Prop where
  active : s.activeOf col = some k
  may : s.mayIssue col k = true
  noBreak : s.atBreak col k = false
  noFault : (s.getCc (ccKey col k)).faults = []
  noTret : ∀ x, (s.getCc (ccKey col k)).cs.xfer = some x → x.target = none → x.delay ≠ 0
  noLoad : (s.getCc (ccKey col k)).cwLoad = none
  noQuad : ∀ l, s.launch? (s.getCc (ccKey col k)).launch = some l → l.qsync = false

end Sys2Proof.Claims

/-- R53, R59, R77, R93: a step performs the input that waits, and else, once a clock's results have landed, an iteration of the next column. That
iteration runs the operations that its slot words name, which CWLD and the load of a kernel decode from their control words, and then waits for what its
operations must follow (R194). An operation by itself, and one of the firmware context, is issued by the same meaning and ends in the same way. -/
def Obligations.StepRunsDecoded : Prop :=
  (∀ (s : State) (i : Instr) (rest : List Instr), s.inbox = i :: rest → step s = exec i { s with inbox := rest }) ∧
  (∀ (s : State) (c : Nat), s.inbox = [] → s.phase = 0 → (s.issueCol ≠ 0 ∨ s.firstDue s.landings = none) → s.nextCol s.issueCol = some c →
    step s = exec (.bundleIterationIssue c) { s with issueCol := c + 1 }) ∧
  (∀ (s : State) (col k : Nat) (b : Bundle), MayTry s col k → s.fetchBundle (ccKey col k) = .ok b →
    let c := s.getCc (ccKey col k)
    let iter := c.cs.iter b
    let a := s.atBundle col k iter
    let all := c.iterOps b (iter == 0) (iter == b.repM1)
    let ops := all.filterMap Prod.snd
    (∀ x ∈ all, x.2 ≠ none) →
    let n := a.noteAll ops
    let t := n.orderStall (n.runOps all) ops
    let u := if a.blotCount (ccKey col k) = 0 then t.spillSt (ccKey col k) else t
    exec (.bundleIterationIssue col) s = .next (a.finish ((u.laterStores (ccKey col k)).runColumn b ops iter))) ∧
  (∀ (c : ColCtx) (p : Nat) (w : Half) (i : Instr), slotIndex w ≠ 0 → slotAdj w = 0 → SMap.get none c.cw (slotIndex w) = some i →
    slotAccepts p i = true → c.slotWordOp p w = some ⟨p, i, true, SMap.get [] c.fp (slotIndex w)⟩) ∧
  (∀ (first n : Nat) (data : List Byte) (is : List Instr), checkWords first n data = .ok is →
    is.length = n ∧ ∀ j, ∀ i, is[j]? = some i → decode (BitVec.ofNat 256 (leNat ((data.drop (32 * j)).take 32))) = .ok i) ∧
  (∀ (i : Instr) (s : State), i.head.isSome = true → exec i s = .next (s.finish (issueOp i s.noAtt))) ∧
  (∀ (s : State) (col : Nat) (w : BitVec 256) (i : Instr), s.fwMay col = true → decode w = .ok i →
    let a : State := { s with att := { uid0 := some s.uid }, cur := { col := col, ctx := 4, slot := fwSlot i } }
    let o : SlotOp := ⟨fwSlot i, i, true, []⟩
    let n := a.noteAll [o]
    let t := n.orderStall (issueOp i n) [o]
    exec (.firmwareContextIssue col w) s = .next (if a.verdict t = .commit then (a.finish t).fwCounted col else a.finish t))

/-- R59, R66 to R76: the control word of every well-formed operation decodes to it, at every value that its fields take. -/
def Obligations.DecodeEncode : Prop :=
  ∀ i : Instr, i.wf = true → i.head.isSome = true → decode (encode i) = .ok i

/-- R47, R59, R76: every operation that decodes has its class, header and fields from the word, and is well formed: no reserved bit of the word is
set, and encoding it gives the word back. -/
def Obligations.EncodeDecode : Prop :=
  ∀ (w : BitVec 256) (i : Instr), decode w = .ok i → i.legal = true ∧ i.head.isSome = true ∧ encode i = w

/-- R44, R80, R97, R172, R239, R248, R274: right after a package reset QSPLIT_BK4 is 1 and QSPLIT_BK8 is 3, XCTL, CPCTL, ETOLR, EFLG and MGMTMODE are zero,
no result is in flight, no context runs, every die is OFF and every queue CLOSED, and FWSHARE, SLICE and WAITSWAP stand at their reset values.
Semaphores, tag tables and envelope registers as at a launch, the clock at zero, and a memory that lists nothing and reads zero are the model's
choice (DESIGN CHOICE, logs 3 and 4). -/
def Obligations.ResetState : Prop :=
  (∀ k, (State.reset.getCd k).ws.qctl = 0x13#32 ∧ (State.reset.getCd k).ws.etolr = 0#32 ∧ (State.reset.getCd k).ws.xctl = 0#32 ∧
    (State.reset.getCd k).ws.cpctl = 0#32 ∧ (State.reset.getCd k).ws.eflg = 0#32 ∧ (State.reset.getCd k).pend = [] ∧
    (State.reset.getCd k).ws.e = []) ∧
  (∀ k, (State.reset.getCc k).st = .free) ∧ (∀ k, (State.reset.getSocket k).st = .off) ∧ (∀ k, (State.reset.getQueue k).st = .closed) ∧
  (∀ k, (State.reset.getCore k).sem = [] ∧ (State.reset.getCore k).tags = []) ∧
  (∀ k, bits (State.reset.getPart k).arbctl.toNat 32 32 = 16384 ∧ State.reset.fwshare k = 4 ∧ (State.reset.getPart k).wswap = 20000#32) ∧
  State.reset.clock = 0 ∧ State.reset.mgmt = 0#64 ∧ State.reset.mem = [] ∧
  Memory.wf State.reset.mem ∧ ∀ loc, State.reset.readByte loc = 0#8

/-- Every step keeps memory in its canonical form: addresses strictly rising, no byte listed that an unlisted one reads as. -/
def Obligations.StepKeepsMemory : Prop :=
  ∀ s t : State, Memory.wf s.mem → step s = .next t → Memory.wf t.mem

/-- R220, R221: no operation of a hardware context leaves more lines in a blotter than it has. -/
def Obligations.BlotterBound : Prop :=
  ∀ (i : Instr) (s : State), i.head.isSome = true → s.cur.ctx < 4 → s.cur.col < 32 → s.blotCount s.cc0 ≤ 128 →
    ∃ t, exec i s = .next t ∧ t.blotCount s.cc0 ≤ 128

namespace Sys2Proof.Claims

open Machine

/-- The results of a context that land: of the scoreboarded ones (`sb`) those that are due; where an exposed one is due, with it all that are due. -/
def dueResults (s : State) (ck : Nat) (sb : Bool) : List Pend :=
  let due := (s.getCd ck).pend.filter fun p => p.due.any fun t => t ≤ s.clock
  if sb then due.filter (·.sb) else if due.all (·.sb) then [] else due

/-- R211, R216: an asynchronous fault of the access or the engine's command of number `seq` delivered to its context, where that raises no trap on this clock. -/
def Told (s t : State) (ck seq : Nat) (r : FRec) : Prop :=
  let c := s.getCc (ckCc ck)
  c.trapAt ≠ s.clock + 1 ∨ c.trap = [] → (t.getCc (ckCc ck)).faults = c.faults ++ [(ckDie ck, { r.fields with async := true, seq := seq })]

/-- R79, R81, R219: the results of a context that are due leave its list and land in the order of their clocks, slots and issues: in the working set, flags among
them, and in the duplicate set where they were issued at or before the splice. The signals that come with them are added to those of the core, and nothing else
of any context, core or other state changes. An access that the host has not completed writes nothing and raises a translation fault, cause 0x06 (R301, R329). -/
def Lands (mk : Nat → Instr) (sb : Bool) : Prop :=
  ∀ (s : State) (ck : Nat), ∃ t, exec (mk ck) s = .next t ∧
    let due := landOrder (dueResults s ck sb)
    let ok := due.filter fun p => !p.abort
    let c := s.getCd ck
    t.getCd ck = { c with
      ws := ok.foldl WorkSet.land c.ws, dup := (ok.filter (·.pre)).foldl WorkSet.land c.dup, pend := c.pend.filter fun p => !due.contains p } ∧
    (∀ k ≠ ck, t.getCd k = s.getCd k) ∧
    (∀ k, (t.getCore k).sig = ((ok.foldl (fun u p => u.signal (ckCore ck) p.sigSem p.sigInc) s).getCore k).sig) ∧
    (∀ k, { t.getCore k with sig := (s.getCore k).sig, fw := (s.getCore k).fw } = s.getCore k) ∧
    t.cc = ((due.filter (·.abort)).foldl (fun u p =>
      u.asyncFault ck { code := 4, cause := 6, r0 := p.val.setWidth 64, r1 := p.bundle } p.uid) s).cc ∧
    { t with cd := s.cd, core := s.core, cc := s.cc } = s

end Sys2Proof.Claims

/-- R79, R81, R43, R219: results land when they are due: exposed-latency results, and scoreboarded ones. -/
def Obligations.ResultsLand : Prop := Lands .exposedResultLands false ∧ Lands .scoreboardWriteLands true

/-! ### Traps, contexts and teams -/

/-- R212, R215 to R217, R219, R222: a fault that a context has taken is entered once its rollback need not wait. On every launch-live die the
registers are those of the duplicate set, with the results issued at or before the splice landed in it; TSTAT, TREC0 to TREC3 and TEPC hold the
record and the resume point; the hold latches are empty. The column's program counter is at TVEC's bundle. Where TVEC has no handler for it
the fault is left for firmware as code 0x0F. That the results issued at or before the splice land at once in the restored sets is the model's choice (log 56). -/
def Obligations.TrapEntry : Prop :=
  ∀ (s : State) (cc d0 : Nat) (ds : List Nat) (k : Kernel), cc < 128 → (s.getCc cc).st ≠ .free → (s.getCc cc).st ≠ .loading →
    (s.getCc cc).trap ≠ [] → (s.getCc cc).trapSys = false → (s.getCc cc).inh = false → s.mustWait cc = false →
    s.kernelOf cc = some k → s.liveOf cc = d0 :: ds →
    let c := s.getCc cc
    let tv := (s.getCd (ccCk d0 cc)).tvec
    let reel := tv.toNat / 2 ^ 32 % 2 ^ 16
    let off := tv.toNat / 2 ^ 3 % 2 ^ 11
    let named := tv.getLsbD 0 = true ∧ reel < k.reels.length ∧ off < (k.reel reel).2
    (named → ∃ t, exec (.trapEntry cc) s = .next t ∧ (t.getCc cc).inh = true ∧ (t.getCc cc).trap = [] ∧
      (t.getCc cc).cs = { c.dupCs with pc := ⟨reel, off⟩, rem := 0, xfer := none, copies := [] } ∧ (t.getCc cc).dupCs = c.dupCs ∧
      ∀ d ∈ s.liveOf cc,
        let x := s.getCd (ccCk d cc)
        let y := t.getCd (ccCk d cc)
        let r := recOf c.trap d
        let w := (landOrder (x.pend.filter fun p => p.pre && p.due.isSome && !p.abort)).foldl WorkSet.land x.dup
        y.dup = w ∧ y.ws = { w with slots := w.slots.map fun z => (z.1, { z.2 with hold := [] }) } ∧ y.blot = [] ∧ y.pend = [] ∧
        y.tstat = BitVec.ofNat 64 (r.code + 2 ^ 8 + (if r.async then 2 ^ 16 else 0) + r.slot % 32 * 2 ^ 19 + r.cause % 256 * 2 ^ 24 +
          r.info % 2 ^ 16 * 2 ^ 32 + srcMask c.trap % 256 * 2 ^ 48) ∧
        SMap.get 0#64 y.trec 0 = r.r0 ∧ (r.code ≠ 0 → SMap.get 0#64 y.trec 1 = r.r1) ∧ SMap.get 0#64 y.trec 2 = r.r2 ∧
        SMap.get 0#64 y.trec 3 = r.r3 ∧
        y.tepc = BitVec.ofNat 64 (c.dupCs.pc.reel % 2 ^ 16 * 2 ^ 32 + c.dupCs.rem % 2 ^ 16 * 2 ^ 16 + c.dupCs.pc.off % 2 ^ 11 * 8 +
          (match c.dupCs.xfer with
            | some z => z.delay % 4 * 2
            | none => 0))) ∧
    (¬named → ∃ t, exec (.trapEntry cc) s = .next t ∧ (t.getCc cc).trapSys = true ∧ (t.getCc cc).inh = false ∧
      (t.getCc cc).trap = c.trap.map fun x => (x.1, if x.2.code = 0 then x.2 else { x.2 with code := 15, orig := x.2.code }))

namespace Sys2Proof.Claims

open Machine

/-- The saved context, and its team, for which the host's choice is awaited. -/
def recoveryOf (s : State) (cc : Nat) : Option (Swap × SavedCtx) :=
  s.swaps.findSome? fun w =>
    if w.2.reason = 5 && w.2.hold then (w.2.ctxs.find? fun sv => sv.cc.trapSys && ccKey sv.col sv.ctx == cc).map fun sv => (w.2, sv) else none

/-- No context of a team is saved. -/
def NotSaved (t : State) (launch team : Nat) : Prop := ∀ x ∈ t.swaps, ¬(x.2.launch = launch ∧ x.2.team = team)

end Sys2Proof.Claims

/-- R213, R87, R254: a system fault leaves its context's column and its record goes to firmware and the host; in hardware mode, and for an access to
a quarantined die, its team is terminated; in host-assisted mode the team is kept frozen with reason 5 until the host chooses, and the choice
releases the column's other teams. -/
def Obligations.SystemFaults : Prop :=
  (∀ (s : State) (cc : Nat), cc < 128 → (s.getCc cc).trap ≠ [] → (s.getCc cc).trapSys = true → (s.getCc cc).st.runs = true →
    s.mustWait cc = false →
    let c := s.getCc cc
    ∃ t, exec (.systemFaultHandling cc) s = .next t ∧ Event.systemFault cc c.trap ∈ t.events ∧ (t.getCc cc).st = .free ∧
      ((s.mgmt.getLsbD 8 = false ∨ ∃ x ∈ c.trap, x.2.code = 9) → NotSaved t c.launch c.team) ∧
      (s.mgmt.getLsbD 8 = true → (∀ x ∈ c.trap, x.2.code ≠ 9) →
        ∃ w ∈ t.swaps, w.2.launch = c.launch ∧ w.2.team = c.team ∧ w.2.reason = 5 ∧ w.2.hold = true)) ∧
  (∀ (s : State) (cc : Nat) (resume : Bool) (w : Swap) (sv : SavedCtx), recoveryOf s cc = some (w, sv) →
    ∃ t, exec (.hostRecoveryChoice cc resume) s = .next t ∧
      (∀ x ∈ s.swaps, x.2.reason = 5 → (∃ y ∈ x.2.ctxs, y.col = sv.col ∧ y.frzClk = sv.frzClk) →
        ∀ z, (t.swaps.find? fun y => y.1 == x.1) = some z → z.2.hold = false) ∧
      (resume = false → NotSaved t w.launch w.team) ∧
      (resume = true → t.cd = s.cd ∧ t.cc = s.cc ∧ t.mem = s.mem))

/-- R90, R92, R96, R101, R293: a BLOCKED context whose condition clears becomes READY (ACTIVE where its column is idle); a RETIRING one that has
completed all it issued becomes FREE; a barrier's release lets every context that arrived go; the range unit serves the first request that has
arrived, its results 48 clocks later; a sample restarts its context's count of ACTIVE clocks. That a retired context is cleared (log 80) and keeps its PRFCTL
(log 100) are the model's choices. -/
def Obligations.ContextEvents : Prop :=
  (∀ (s : State) (cc : Nat) (r : BlkReason), cc < 128 → (s.getCc cc).st = .blocked → (s.getCc cc).blk = some r → (∀ k, r ≠ .barrier k) →
    (s.getCc cc).trap = [] → (∀ x ∈ s.blockedWith cc, s.stillBlocked x.1 x.2 = false) →
    ∃ t, exec (.blockingConditionClears cc) s = .next t ∧ (t.getCc cc).blk = none ∧
      ((t.getCc cc).st = .ready ∨ (t.getCc cc).st = .active) ∧ (t.getCc cc).cs = (s.getCc cc).cs ∧ t.cd = s.cd ∧ t.core = s.core) ∧
  (∀ (s : State) (cc : Nat), cc < 128 → (s.getCc cc).st = .retiring → s.retired cc = true →
    ∃ t, exec (.contextRetireComplete cc) s = .next t ∧ t.getCc cc = {} ∧
      (∀ d ∈ s.liveOf cc, t.getCd (ccCk d cc) = { prfctl := (s.getCd (ccCk d cc)).prfctl }) ∧ (∀ k ≠ cc, t.getCc k = s.getCc k) ∧
      t.mem = s.mem) ∧
  (∀ (s : State) (bar due : Nat) (b : Barrier), (s.barriers.find? fun x => x.1 == bar) = some (bar, b) → b.due = some due → due ≤ s.clock →
    ∃ t, exec (.barrierRelease bar) s = .next t ∧ (∀ x ∈ t.barriers, x.1 ≠ bar) ∧ t.cd = s.cd ∧
      ∀ cc, (s.getCc cc).blk = some (.barrier bar) → (t.getCc cc).blk = none ∧
        ((s.getCc cc).st = .blocked → (t.getCc cc).st = .ready ∨ (t.getCc cc).st = .active)) ∧
  (∀ (s : State) (g : GrabReq), g ∈ s.grabs → g.atClk ≤ s.clock →
    (∀ h ∈ s.grabs, h ≠ g → h.atClk ≤ s.clock → g.atClk < h.atClk ∨ (g.atClk = h.atClk ∧ (g.col < h.col ∨ (g.col = h.col ∧ g.ctx < h.ctx)))) →
    let r := s.getRange g.id
    let left := r.endIdx.toNat - r.next.toNat
    let more := r.isOpen && r.next != r.endIdx
    let n := if more then Nat.min left (Nat.max r.min (ceilDiv left (2 * r.g))) else 0
    let start := if more then r.next.toNat else r.endIdx.toNat
    ∃ t, exec .grabRequestServed s = .next t ∧ t.grabs = s.grabs.filter (fun h => h.uid != g.uid) ∧
      t.getRange g.id = (if more then { r with next := BitVec.ofNat 64 (r.next.toNat + n) }
        else if r.isOpen && !r.finished.contains g.team then { r with finished := insNat g.team r.finished, g := Nat.max 1 (r.g - 1) } else r) ∧
      (∀ k ≠ g.id, t.getRange k = s.getRange k) ∧ t.mem = s.mem ∧ t.cc = s.cc ∧
      ∀ ck, (t.getCd ck).ws = (s.getCd ck).ws ∧ ∀ p ∈ (t.getCd ck).pend,
        (p.uid = g.uid → p.due = some (s.clock + 48) ∧ p.val = BitVec.ofNat 512 start) ∧
        (p.uid = g.uid + 1 → p.due = some (s.clock + 48) ∧ p.val = BitVec.ofNat 512 n)) ∧
  (∀ (s : State) (cc : Nat), cc < 128 → bits (s.prfctl cc) 8 4 ≠ 0 → 2 ^ (bits (s.prfctl cc) 8 4 + 8) ≤ (s.getCc cc).active →
    ∃ t, exec (.profileSample cc) s = .next t ∧ (t.getCc cc).active = 0 ∧ (∀ k ≠ cc, t.getCc k = s.getCc k) ∧ t.cd = s.cd ∧ t.core = s.core)

/-- R98, R99, R227 to R229, R233, R237: a freeze takes its contexts off their column, each saved with its team; an eligible team is swapped out with reason
3; a swapped team's return condition, its release, and the end of a spill are recorded with it; a restore gives every context its registers
and its column state back on a granted column. SVBASE is written as its fields allow, and the host's write starts the first spill that waits for it (R254).
That a TEAM_RETURN from outside releases a held swap is the model's choice (log 70). -/
def Obligations.FreezeAndSwap : Prop :=
  (∀ (s : State) (col reason k : Nat) (l : Option Nat), col < 32 → 1 ≤ reason → reason ≤ 5 → k < 4 → (s.getCc (ccKey col k)).st.runs = true →
    (∀ n, l = some n → (s.getCc (ccKey col k)).launch = n) →
    ∃ t, exec (.freezeFrame col reason l) s = .next t ∧ (t.getCc (ccKey col k)).st = .free ∧
      ∃ w ∈ t.swaps, w.2.launch = (s.getCc (ccKey col k)).launch ∧ w.2.team = (s.getCc (ccKey col k)).team ∧ w.2.reason = reason ∧
        ∃ sv ∈ w.2.ctxs, sv.col = col ∧ sv.ctx = k ∧ sv.frzClk = s.clock) ∧
  (∀ (s : State) (n team : Nat), s.swapEligible n team = true →
    ∃ t, exec (.teamSwapOut n team) s = .next t ∧ (∀ cc ∈ s.teamCcs n team, cc < 128 → (t.getCc cc).st = .free) ∧
      ∃ w ∈ t.swaps, w.2.launch = n ∧ w.2.team = team ∧ w.2.reason = 3 ∧ w.2.ret = false ∧ w.2.hold = false) ∧
  (∀ (s : State) (n : Nat) (w : Swap), (s.swaps.find? fun x => x.1 == n) = some (n, w) →
    (w.hold = true → w.reason ≠ 5 → exec (.teamReturn n) s = .next { s with swaps := SMap.put s.swaps n { w with hold := false } }) ∧
    (w.hold = false → w.ret = false → (∃ sv ∈ w.ctxs, s.savedClear sv = true) →
      exec (.teamReturn n) s = .next { s with swaps := SMap.put s.swaps n { w with ret := true, turn := s.clock + 1 } })) ∧
  (∀ (s : State) (n i due : Nat) (w : Swap) (sv : SavedCtx), (n, w) ∈ s.swaps → w.ctxs[i]? = some sv → sv.spill = some due → due ≤ s.clock →
    sv.spilled = false → sv.replied s.clock = true → s.evRuns sv = false →
    (∀ m j v u, (m, v) ∈ s.swaps → v.ctxs[j]? = some u → ccKey u.col u.ctx = ccKey sv.col sv.ctx → u.spillDue s.clock = true →
      m = n ∧ v = w ∧ j = i) →
    ∃ t, exec (.spillComplete (ccKey sv.col sv.ctx)) s = .next t ∧
      t.swaps = SMap.put s.swaps n { w with ctxs := w.ctxs.set i { sv with spilled := true } } ∧ t.cd = s.cd ∧ t.cc = s.cc ∧
      (sv.shared = true → ∀ d ∈ sv.dies, ∀ r ∈ (t.getCore (coreKey d.1 sv.col)).locks, r.uid ≠ sv.lock)) ∧
  (∀ (s : State) (n : Nat) (w : Swap) (cols : List Nat), (s.swaps.find? fun x => x.1 == n) = some (n, w) → s.canRestore w cols = true →
    (∀ sv ∈ w.ctxs, (sv.dies.map Prod.fst).Nodup ∧ ∀ d ∈ sv.dies, d.1 < 8) →
    ∃ t, exec (.teamRestore n cols) s = .next t ∧ (∀ x ∈ t.swaps, x.1 ≠ n) ∧
      ∀ sv ∈ w.ctxs, ∃ col ∈ cols, ∃ k < 4,
        let c := t.getCc (ccKey col k)
        c.st = .loading ∧ c.cs = sv.cc.cs ∧ c.dupCs = sv.cc.dupCs ∧ c.launch = sv.cc.launch ∧ c.team = sv.cc.team ∧ c.tcol = sv.cc.tcol ∧
        c.tctx = sv.cc.tctx ∧ ∀ d ∈ sv.dies, (t.getCd (ctxKey d.1 col k)).ws = d.2.ws ∧ (t.getCd (ctxKey d.1 col k)).dup = d.2.dup) ∧
  (∀ (s : State) (p : Nat) (fw : Bool) (v : DWord), p < 32 → s.mgmt.getLsbD 3 = true →
    (s.mgmt.getLsbD 2 = false → ∀ l ∈ s.launches, l.2.part = p → l.2.save = none) → (s.mgmt.getLsbD 2 = true → fw = false) →
    let sz := v.toNat / 2 ^ 52 % 2 ^ 6
    ∃ t, exec (.svbaseWrite p fw v) s = .next t ∧ t.mem = s.mem ∧ t.cd = s.cd ∧ t.cc = s.cc ∧ (∀ k ≠ p, t.getPart k = s.getPart k) ∧
      ((fw = true ∨ s.waitingSpill p = none) → t.swaps = s.swaps) ∧
      (∀ n i sv, fw = false → s.waitingSpill p = some (n, i, sv) → ∃ e, s.clock + sv.areaClocks s ≤ e ∧
        t.swaps = s.swaps.map fun w =>
          if w.1 = n then (n, { w.2 with ctxs := w.2.ctxs.set i { sv with spill := some e, svb := some (t.getPart p).svbase } }) else w) ∧
      (t.getPart p).svbase = BitVec.ofNat 64 ((if 20 ≤ sz ∧ sz ≤ 40 then sz else (s.getPart p).svbase.toNat / 2 ^ 52 % 2 ^ 6) * 2 ^ 52 +
        v.toNat / 2 ^ 12 % 2 ^ 40 * 2 ^ 12))

/-! ### The front end, contracts, registers, units -/

namespace Sys2Proof.Claims

open Machine

/-- Only the queue `q` differs, and memory and every context are as before. -/
def QueueOnly (s t : State) (q : Nat) : Prop :=
  (∀ k ≠ q, t.getQueue k = s.getQueue k) ∧ t.mem = s.mem ∧ t.cd = s.cd ∧ t.cc = s.cc

/-- R239, R243: after the check of a packet with the codes `cs`: rejected with the lowest, or held for the host's approval where its check began in
host-assisted mode, or to be dispatched. -/
def Checked (s t : State) (q : Nat) (p : List DWord) (k : Option Kernel) (cs : List Nat) : Prop :=
  (∀ c ∈ cs, (∀ x ∈ cs, c ≤ x) → (t.getQueue q).st = .error ∧ (t.getQueue q).err = c ∧ (t.getQueue q).fe = .idle) ∧
  (cs = [] → (t.getQueue q).st = (s.getQueue q).st ∧ (t.getQueue q).fe = if (s.getQueue q).assisted then .taken p k else .approved p k)

/-- R244: the doubleword of a completion signal: its count one more, its bit 63 set by an error. -/
def Signalled (s t : State) (loc : Nat) (err : Bool) : Prop :=
  let x := leNat (s.readBytes loc 8)
  leNat (t.readBytes loc 8) = (x + 1) % 2 ^ 63 + (if x.testBit 63 || err then 2 ^ 63 else 0)

/-- R115, R244: a completion signal issued: it is performed at its place after the way there from IO0, and nothing is written before. -/
def OnItsWay (s t : State) (loc : Nat) (err : Bool) : Prop :=
  (s.clock + (if isHost loc then head 16 16 else head 16 (8 + (s.stackPlace loc).1)), loc, err) ∈ t.comps ∧ t.mem = s.mem

end Sys2Proof.Claims

/-- R238, R239, R242, R243, R245, R255: NOTIFY moves the write index, or stops a queue that it overfills with code 8; QCMD opens, clears and destroys; a
queue's read that lands is checked; the host approves or denies. -/
def Obligations.QueueCommands : Prop :=
  (∀ (s : State) (q : Nat) (w : Half), q < 4096 → (s.getQueue q).st = .active →
    ∃ t, exec (.notify q w) s = .next t ∧ QueueOnly s t q ∧
      ((w - (s.getQueue q).rd).toNat ≤ 2 ^ (s.getQueue q).log2n → (t.getQueue q).wr = w ∧ (t.getQueue q).st = .active) ∧
      (2 ^ (s.getQueue q).log2n < (w - (s.getQueue q).rd).toNat → (t.getQueue q).st = .error ∧ (t.getQueue q).err = 8)) ∧
  (∀ (s : State) (q : Nat), q < 4096 → (s.getQueue q).st = .closed → ∃ t, exec (.qcmdOpen q) s = .next t ∧ QueueOnly s t q ∧
    (t.getQueue q).st = .active ∧ (t.getQueue q).rd = 0#16 ∧ (t.getQueue q).wr = 0#16 ∧ (t.getQueue q).fe = .idle) ∧
  (∀ (s : State) (q : Nat), q < 4096 → (s.getQueue q).st = .error → ∃ t, exec (.qcmdClear q) s = .next t ∧ QueueOnly s t q ∧
    (t.getQueue q).st = .active ∧ (t.getQueue q).rd = (s.getQueue q).wr ∧ (t.getQueue q).err = 0) ∧
  (∀ (s : State) (q : Nat), q < 4096 → ((s.getQueue q).st = .active ∨ (s.getQueue q).st = .error) →
    ∃ t, exec (.qcmdDestroy q) s = .next t ∧ t.mem = s.mem ∧ t.cd = s.cd ∧ t.cc = s.cc ∧ (t.getQueue q).fe = .idle ∧
      ((t.getQueue q).st = .closing ∨ (t.getQueue q).st = .closed) ∧
      ∀ n l, (s.getQueue q).fe = .launching n → s.launch? n = some l → t.launch? n = some { l with dropped := true, error := true }) ∧
  (∀ (s : State) (q : Nat) (p : List DWord) (k : Option Kernel), s.mgmt.getLsbD 7 = true → (s.getQueue q).fe = .taken p k →
    (∃ t, exec (.apprcmdApprove q) s = .next t ∧ QueueOnly s t q ∧ (t.getQueue q).fe = .approved p k ∧ (t.getQueue q).st = (s.getQueue q).st) ∧
    ∃ t, exec (.apprcmdDeny q) s = .next t ∧ QueueOnly s t q ∧ (t.getQueue q).st = .error ∧ (t.getQueue q).err = 10) ∧
  (∀ (s : State) (q due : Nat), (s.getQueue q).fe = .reading due → due ≤ s.clock → s.feRuns = true →
    s.paFault (s.getQueue q).packetAt = none → s.poisoned (s.getQueue q).packetAt 64 = false →
    let p := dwords 8 (s.readBytes (s.getQueue q).packetAt 64)
    ∃ t, exec (.frontEndReadLands q) s = .next t ∧ (∀ k ≠ q, t.getQueue k = s.getQueue k) ∧
      (pkOp p = 1 → ∃ d, (t.getQueue q).fe = .checking p d ∧ s.clock ≤ d) ∧
      (pkOp p = 2 → Checked s t q p none (rangeCodes p)) ∧ (pkOp p = 3 → Checked s t q p none (if pkReserved p then [2] else [])) ∧
      (pkOp p = 0 ∨ 3 < pkOp p → Checked s t q p none [1])) ∧
  (∀ (s s1 : State) (q due : Nat) (p : List DWord) (cs : List Nat) (k : Option Kernel), (s.getQueue q).fe = .checking p due → due ≤ s.clock → s.feRuns = true →
    s.readKernel (s.getQueue q).qroot.toNat (dw p 1 / 64 * 64) (bits (dw p 4) 8 8) (bits (dw p 4) 16 8) = (cs, k, s1) →
    ∃ t, exec (.frontEndReadLands q) s = .next t ∧ (∀ j ≠ q, t.getQueue j = s.getQueue j) ∧
      Checked s t q p k (cs ++ s1.launchCodes q p k))

/-- R94, R95, R101, R240, R242, R244, R247: a LAUNCH begins its launch, OPENRNG opens or closes its range, WAITSIG waits for its doubleword and polls it; a team
starts on its columns with its launch state, and its cores with the named semaphores; a launch whose last context is FREE issues its signal, which is performed after its way, and ends; a
reel's last byte makes its bundles fetchable. -/
def Obligations.PacketsAndTeams : Prop :=
  (∀ (s : State) (q : Nat) (p : List DWord) (k : Kernel), (s.getQueue q).fe = .approved p (some k) → pkOp p = 1 → s.feRuns = true → s.depMet q p = true →
    let n := s.nextLaunch
    ∃ t l, exec (.packetLaunch q) s = .next t ∧ QueueOnly s t q ∧ (t.getQueue q).fe = .launching n ∧ (t.getQueue q).lastLaunch = some n ∧
      t.nextLaunch = n + 1 ∧ t.launch? n = some l ∧ l.queue = q ∧ l.kernel = k ∧ l.arg = p.getD 2 0#64 ∧
      l.cols = s.packetCols (s.getQueue q).part (pkColmask p) ∧ l.tw = 2 ^ bits (dw p 0) 18 3 ∧ l.tc = bits (dw p 0) 21 2 + 1 ∧
      l.tk = bits (dw p 0) 16 2 + 1 ∧ l.teams = l.cols.length / l.tw * (l.tk / l.tc) ∧ l.dmask = bits (dw p 0) 24 8 ∧ l.nextTeam = 0 ∧
      l.error = false ∧ ∀ d < 8, l.live.testBit d = true → s.dieLive d = true ∧ l.dmask.testBit d = true) ∧
  (∀ (s : State) (q : Nat) (p : List DWord) (k : Option Kernel), (s.getQueue q).fe = .approved p k → s.feRuns = true → s.depMet q p = true →
    (pkOp p = 2 → ∃ t, exec (.packetOpenrng q) s = .next t ∧
      (t.getQueue q).rd = (if (s.getQueue q).cleared then (s.getQueue q).rd else (s.getQueue q).rd + 1#16) ∧
      (let id := bits (dw p 0) 16 6
       let r := t.getRange id
       (bits (dw p 0) 9 1 = 1 → r = { s.getRange id with isOpen := false }) ∧
       (bits (dw p 0) 9 1 = 0 → r.isOpen = true ∧ r.next = p.getD 1 0#64 ∧ r.endIdx = p.getD 2 0#64 ∧ r.min = bits (dw p 4) 0 32 ∧
         r.g = bits (dw p 4) 32 7 ∧ r.finished = [])) ∧
      (pkSig p = 0 → t.mem = s.mem) ∧
      ∀ loc kind lat s1, pkSig p ≠ 0 → s.rootPlace (s.getQueue q).qroot.toNat (pkSig p) true = (.ok loc kind lat, s1) →
        OnItsWay s1 t loc false) ∧
    (pkOp p = 3 → ∃ t, exec (.packetWaitsig q) s = .next t ∧ QueueOnly s t q ∧ (t.getQueue q).fe = .waitsig p s.clock)) ∧
  (∀ (s s1 : State) (q due loc kind lat : Nat) (p : List DWord), (s.getQueue q).fe = .waitsig p due → due ≤ s.clock → s.feRuns = true →
    s.rootPlace (s.getQueue q).qroot.toNat (dw p 1 / 8 * 8) false = (.ok loc kind lat, s1) →
    ∃ t, exec (.waitsigPoll q) s = .next t ∧
      (leNat (s1.readBytes loc 8) < dw p 2 → (t.getQueue q).fe = .waitsig p (s.clock + 256)) ∧
      (dw p 2 ≤ leNat (s1.readBytes loc 8) →
        (t.getQueue q).rd = if (s.getQueue q).cleared then (s.getQueue q).rd else (s.getQueue q).rd + 1#16)) ∧
  (∀ (s : State) (n : Nat) (l : Launch), s.launch? n = some l → (s.getQueue l.queue).fe = .launching n → s.feRuns = true → l.nextTeam < l.teams →
    s.canStart n l = true → (l.colsOf l.nextTeam).Nodup → (∀ c ∈ l.cols, c < 32) →
    ∃ t, exec (.teamStart n) s = .next t ∧
      (∃ l', t.launch? n = some l' ∧ l'.nextTeam = l.nextTeam + 1 ∧ l'.teamCols = l.teamCols ++ [(l.nextTeam, l.colsOf l.nextTeam)]) ∧
      (∀ i col j, (l.colsOf l.nextTeam)[i]? = some col → j < l.tc → ∃ k < 4, s.ctxFree col k = true ∧
        (let c := t.getCc (ccKey col k)
         c.st = .loading ∧ c.launch = n ∧ c.team = l.nextTeam ∧ c.tcol = i ∧ c.tctx = j ∧ c.cs = {} ∧ c.inh = false ∧ c.trap = []) ∧
        ∀ d < 8, l.live.testBit d = true →
          let x := t.getCd (ctxKey d col k)
          x.trbase = (s.getQueue l.queue).qroot ∧ x.ws.rd .s 1 = l.arg.setWidth 512 ∧ (∀ m ≠ 1, x.ws.rd .s m = 0#512) ∧ (∀ m, x.ws.rd .v m = 0#512) ∧
            (∀ m, x.ws.rd .p m = 0#512) ∧ x.ws.f = 0#8 ∧ x.dup = x.ws ∧ x.pend = [] ∧ x.blot = [] ∧ x.tvec = 0#64) ∧
      ∀ col ∈ l.colsOf l.nextTeam, ∀ d < 8, l.live.testBit d = true → n ∉ (s.getCore (coreKey d col)).taken →
        (t.getCore (coreKey d col)).tags = [] ∧
        ∀ m ∈ l.kernel.named, SMap.get 0 (t.getCore (coreKey d col)).sem m = SMap.get 0 l.kernel.sems m) ∧
  (∀ (s : State) (n : Nat) (l : Launch), s.launch? n = some l → l.signalled = false → s.launchIdle n l = true → s.launchWrites n l = false →
    ∃ t, exec (.completionSignal n) s = .next t ∧ t.launch? n = none ∧ (l.compsig = 0 → t.mem = s.mem) ∧
      ∀ loc kind lat s1, l.compsig ≠ 0 → s.rootPlace (s.getQueue l.queue).qroot.toNat l.compsig true = (.ok loc kind lat, s1) → OnItsWay s1 t loc l.error) ∧
  (∀ (s : State) (at_ loc : Nat) (err : Bool), s.comps = [(at_, loc, err)] → at_ ≤ s.clock → s.compsLand.comps = [] ∧ Signalled s s.compsLand loc err ∧
    ∀ a, a < loc ∨ loc + 8 ≤ a → s.compsLand.readByte a = s.readByte a) ∧
  (∀ (s s1 : State) (col i cc : Nat) (b : ReelBuf) (l : Launch) (d : List Byte) (ps : List Nat), (s.getCol col).bufs[i]? = some b →
    b.arrived = false → b.waits = false → b.due ≤ s.clock → s.ccOfLaunch col b.launch = some cc → s.launch? b.launch = some l →
    s.readReel (s.home col) cc (ceilDiv (8 * (l.kernel.reel b.reel).2) 64) 0 (l.kernel.reel b.reel).1 [] [] = (.ok d ps, s1) →
    ∃ t, exec (.reelArrives col i) s = .next t ∧
      (t.getCol col).bufs[i]? = some { b with data := dwords (l.kernel.reel b.reel).2 d, poison := ps, arrived := true } ∧ t.cd = s1.cd)

/-- R252 to R254, R295: CONTRACT_ADMIT makes the test of R253, REVOKE ends a contract, a period's start gives it its budget anew, and what it spends
stops at its budget. -/
def Obligations.Contracts : Prop :=
  (∀ (s : State) (k : Nat), 1 ≤ k → k ≤ 255 → s.mgmt.getLsbD 7 = true → (s.getContract k).st ≠ 1 →
    let c := s.getContract k
    let cols := s.partWidth c.part
    let invalid := c.t = 0 ∨ c.c = 0 ∨ c.t < c.c ∨ c.w = 0 ∨ cols < c.w ∨ c.clsmask = 0 ∨ (bits c.clsmask 3 1 = 1 ∧ c.kmax = 0)
    let tight := c.c * classTenths c.fslow ≤ c.bound * 18
    let u := sumFrac (c.share :: (s.contracts.filter fun x => x.1 != k && x.2.st == 1 && x.2.part == c.part).map fun x => x.2.share)
    let full := 85 * cols * u.2 < 100 * u.1
    ∃ t, exec (.contractAdmit k) s = .next t ∧ { t with contracts := s.contracts } = s ∧ (∀ j ≠ k, t.getContract j = s.getContract j) ∧
      (invalid → t.getContract k = { c with st := 2, reason := 2 }) ∧ (¬invalid → tight → t.getContract k = { c with st := 2, reason := 1 }) ∧
      (¬invalid → ¬tight → full → t.getContract k = { c with st := 2, reason := 3 }) ∧
      (¬invalid → ¬tight → ¬full → (t.getContract k).st = 1 ∧ (t.getContract k).tau = s.clock ∧ (t.getContract k).period = s.clock ∧
        (t.getContract k).spent = [])) ∧
  (∀ (s : State) (k : Nat), 1 ≤ k → k ≤ 255 → s.mgmt.getLsbD 7 = true → ∃ t, exec (.contractRevoke k) s = .next t ∧
    { t with contracts := s.contracts } = s ∧ t.getContract k = { s.getContract k with st := 0 } ∧ ∀ j ≠ k, t.getContract j = s.getContract j) ∧
  (∀ (s : State) (k : Nat), (s.getContract k).st = 1 → (s.getContract k).period + (s.getContract k).t ≤ s.clock →
    ∃ t, exec (.contractPeriodStart k) s = .next t ∧ { t with contracts := s.contracts } = s ∧
      t.getContract k = { s.getContract k with period := (s.getContract k).period + (s.getContract k).t, spent := [] }) ∧
  (∀ (s : State) (k col : Nat), (s.getContract k).st = 1 → 280 * (s.getContract k).c < SMap.get 0 (s.getContract k).spent col →
    ∃ t, exec (.contractBudgetSpent k col) s = .next t ∧ { t with contracts := s.contracts } = s ∧
      SMap.get 0 (t.getContract k).spent col = 280 * (s.getContract k).c ∧
      ∀ c ≠ col, SMap.get 0 (t.getContract k).spent c = SMap.get 0 (s.getContract k).spent c)

/-- R12, R97, R120, R248, R266: MGMTMODE, DBGCTL and the registers of partitions, units and queues are written in their writable fields; the drain of a precise
stop ends once nothing is in flight. -/
def Obligations.ManagementRegisters : Prop :=
  (∀ (s : State) (v : DWord), exec (.mgmtmodeWrite v) s = .next { s with mgmt := v &&& 0x3FFF#64 }) ∧
  (∀ (s : State) (col : Nat), col < 32 → s.mgmt.getLsbD 9 = true →
    let sets := fun (i : Instr) (n : Nat) => ∃ t, exec i s = .next t ∧ { t with col := s.col } = s ∧ t.getCol col = { s.getCol col with dbg := n } ∧
      ∀ c ≠ col, t.getCol c = s.getCol c
    ((s.getCol col).dbg ≠ 2 → (s.getCol col).dbg ≠ 3 → sets (.dbgctlStop col) 2) ∧
    ((s.getCol col).dbg = 3 → sets (.dbgctlRun col) 5 ∧ sets (.dbgctlStep col) 4)) ∧
  (∀ (s : State) (col : Nat), (s.getCol col).dbg = 2 → (∀ k < 4, ∀ d ∈ s.liveOf (ccKey col k), s.inDrain (ccCk d (ccKey col k)) = false) →
    ∃ t, exec (.preciseStopDrainEnd col) s = .next t ∧ (t.getCol col).dbg = 3 ∧ t.cd = s.cd ∧ t.cc = s.cc ∧ t.core = s.core) ∧
  (∀ (s : State) (v : DWord) (fw : Bool),
    let w := fun (r : RegTarget) (m : DWord) =>
      ∃ t, exec (.registerWrite r fw v) s = .next t ∧ t.regRead r = (v &&& m).toNat ∧ t.mem = s.mem ∧ t.cc = s.cc
    (∀ p < 32, w (.part p 0x060) 0xFFFFFFFF#64 ∧ w (.part p 0x061) 0xFFFFFFFFFFFF0000#64 ∧ w (.part p 0x062) 0xFF#64 ∧
      w (.part p 0x063) 0x800000000000003F#64 ∧ w (.part p 0x065) 0xFFFFFFFF#64) ∧
    w (.io0 0x0800) 0x000FFFFFFFFFFFC0#64 ∧ w (.io0 0x0808) 0x000FFFFFFFFFFFC0#64 ∧ w (.io0 0x0810) 0x000000FFFFFFFFC0#64 ∧
    (fw = false → w (.io0 0x0100) 0x3FFF#64) ∧ (s.mgmt.getLsbD 5 = true → w (.io0 0x0120) 0x000FFFFFFFFF0000#64) ∧
    (fw = false → s.mgmt.getLsbD 7 = true → ∀ q < 4096, w (.queue q 0x008) 0x000FFFFFFFFFF000#64 ∧
      w (.queue q 0x020) 0xFFFFFFFFFFFFE001#64))

/-- R125, R257: the scrub counts a corrected error of device memory or of a scratchpad, and poisons the line with a double one; rows are mapped out, by command or
at their threshold, or logged in host-assisted mode. That a MAP is due at the clock at which it begins is the model's choice (log 1). -/
def Obligations.RowRepair : Prop :=
  (∀ (s : State) (place : Nat), (isSpad place = true ∧ place < spadLoc 8 0 0) ∨
      (isSpad place = false ∧ place < s.devSize ∧ s.paFault place = none) →
    (∃ t, exec (.backgroundScrub place true) s = .next t ∧ t.poisonedLine (place / 64) = true ∧ t.mem = s.mem ∧
      ∀ l, s.poisonedLine l = true → t.poisonedLine l = true) ∧
    (∃ t, exec (.backgroundScrub place false) s = .next t ∧ (isSpad place = false → { t with repair := s.repair } = s) ∧
      (isSpad place = true → t = s.updCore (locCore place) fun k => { k with eccErrs := k.eccErrs + 1 }) ∧
      let k := (s.stackPlace place).1
      let row := (s.stackPlace place).2 / 8192
      (isSpad place = false → SMap.get 0 (t.getRepair k).counts row = Nat.min (SMap.get 0 (s.getRepair k).counts row + 1) 0xFFFF))) ∧
  (∀ (s : State) (k : Nat) (row : Word), k < 8 → s.mgmt.getLsbD 11 = true → ∃ t, exec (.repcmdMap k row) s = .next t ∧ t.mem = s.mem ∧
    (s.canMap k row.toNat = true → t.repDue = some (s.clock, k, row.toNat) ∧ t.repcmd = BitVec.ofNat 64 (k * 2 ^ 32 + row.toNat)) ∧
    (s.canMap k row.toNat = false → t.repDue = s.repDue ∧ t.repcmd = BitVec.ofNat 64 (2 ^ 62 + k * 2 ^ 32 + row.toNat))) ∧
  (∀ (s : State) (due k row : Nat), s.repDue = some (due, k, row) → due ≤ s.clock → ∃ t, exec .repairMapComplete s = .next t ∧
    t.repDue = none ∧ row ∈ (t.getRepair k).mapped ∧ SMap.get 0 (t.getRepair k).counts row = 0 ∧ t.mem = s.mem ∧ t.poison = s.poison) ∧
  (∀ (s : State) (k row : Nat), k < 8 → s.repThresh ≤ SMap.get 0 (s.getRepair k).counts row → row ∉ (s.getRepair k).mapped →
    (s.mgmt.getLsbD 10 = false → s.canMap k row = true →
      exec (.repairRowThreshold k row) s = .next { s with repDue := some (s.clock, k, row) }) ∧
    (s.mgmt.getLsbD 10 = true → row ∉ (s.getRepair k).logged → ∃ t, exec (.repairRowThreshold k row) s = .next t ∧ row ∈ (t.getRepair k).logged ∧
      t.mem = s.mem ∧ (∀ i, s.freeLog = some i → SMap.get 0#64 t.repLog i =
        BitVec.ofNat 64 (2 ^ 63 + k * 2 ^ 48 + SMap.get 0 (s.getRepair k).counts row * 2 ^ 32 + row % 2 ^ 32)) ∧
      (s.freeLog = none → t.repctl = s.repctl ||| 0x1000000#64)))

/-- R281 to R283: every 2^20 clocks a partition's controller moves its frequency class one step in hardware mode; a column is lent and recalled;
a migration copies its lines. The control clocks are the multiples of 2^20 from reset (log 101) and the measured power comes with the event (log 17): both are the
model's choice. -/
def Obligations.PowerLoansMigration : Prop :=
  (∀ (s : State) (p : Nat) (w : Half), p < 32 → ∃ t, exec (.powerControlTick p w) s = .next t ∧ { t with parts := s.parts } = s ∧
    (∀ j ≠ p, t.getPart j = s.getPart j) ∧ (t.getPart p).pwr = w ∧
    (s.mgmt.getLsbD 12 = true ∨ controlClock s.clock = false → (t.getPart p).fcur = (s.getPart p).fcur) ∧
    (s.mgmt.getLsbD 12 = false → controlClock s.clock = true → (s.getPart p).ticked ≠ s.clock + 1 →
      let cur := (s.getPart p).fcur
      let cap := (s.getPart p).capw.toNat
      let want := (s.askedClasses p).foldl Nat.min 8
      (cap = 0 → s.askedClasses p ≠ [] → (want < cur → (t.getPart p).fcur = cur - 1) ∧ (cur < want → (t.getPart p).fcur = cur + 1) ∧
        (cur = want → (t.getPart p).fcur = cur)) ∧
      (0 < cap → cap < w.toNat → (t.getPart p).fcur = Nat.min 7 (cur + 1)) ∧
      (0 < cap → 10 * w.toNat < 9 * cap → want < cur → (t.getPart p).fcur = cur - 1) ∧
      (0 < cap → 9 * cap ≤ 10 * w.toNat → w.toNat ≤ cap → (t.getPart p).fcur = cur))) ∧
  (∀ (s : State) (col : Nat) (v : DWord), col < 32 → s.mgmt.getLsbD 7 = true →
    (∃ t, exec (.lendLent col v) s = .next t ∧ { t with col := s.col } = s ∧ (∀ c ≠ col, t.getCol c = s.getCol c) ∧
      let owners := fun k => (s.getCc (ccKey col k)).st ≠ .free ∧ (s.launch? (s.getCc (ccKey col k)).launch).map (·.part) = some (s.partOfCol col)
      (t.getCol col).lendReg &&& 0x7FFFFFFFFFFFFFFF#64 = v &&& 0x001F0000FFFFFFFF#64 ∧
      ((∀ k < 4, ¬owners k) → (t.getCol col).lendReg.getLsbD 63 = v.getLsbD 63) ∧
      ((∃ k < 4, owners k) → (t.getCol col).lendReg.getLsbD 63 = (v.getLsbD 63 && (s.getCol col).lendReg.getLsbD 63))) ∧
    ((s.getCol col).lendReg.getLsbD 63 = true → ∃ t, exec (.lendRecall col) s = .next t ∧
      ((t.getCol col).lendReg.getLsbD 63 = false ∨ (t.getCol col).recallAt ≠ none) ∧
      (s.borrowedTeams col = [] → (t.getCol col).lendReg = (s.getCol col).lendReg &&& 0x7FFFFFFFFFFFFFFF#64 ∧ t.cd = s.cd ∧ t.cc = s.cc))) ∧
  (∀ (s : State), s.migDue = none →
    exec .migctlGo s = .next { s with migDue := some s.clock, pcnt := 0#32, migctl := s.migctl ||| 0x4000000000000000#64 }) ∧
  (∀ (s : State) (due : Nat), s.migDue = some due → due ≤ s.clock →
    let n := s.miglen.toNat / 64 % 2 ^ 34
    let src := s.migsrc.toNat / 64 % 2 ^ 46 * 64
    let dst := s.migdst.toNat / 64 % 2 ^ 46 * 64
    ∃ t, exec .migrationComplete s = .next t ∧ t.migDue = none ∧ t.migctl.getLsbD 62 = false ∧ t.migctl.getLsbD 61 = true ∧ t.cd = s.cd ∧
      ((∀ i < n, s.paFault (src + 64 * i) = none ∧ s.paFault (dst + 64 * i) = none ∧ s.poisoned (src + 64 * i) 64 = false) →
        (src + 64 * n ≤ dst ∨ dst + 64 * n ≤ src) → (∀ a < 64 * n, t.readByte (dst + a) = s.readByte (src + a)) ∧
          ∀ a, (a < dst ∨ dst + 64 * n ≤ a) → t.readByte a = s.readByte a))

/-! ### Trust, memory events, the pod -/

namespace Sys2Proof.Claims

open Machine

/-- R274, R275: a die QUARANTINED with a reason, its failures counted where an attestation failed. -/
def Quarantined (s t : State) (k reason : Nat) (failed : Bool) : Prop :=
  (t.getSocket k).st = .quarantined ∧ (t.getSocket k).reason = reason ∧
    (t.getSocket k).fails = if failed then Nat.min 255 ((s.getSocket k).fails + 1) else (s.getSocket k).fails

/-- R275, R276: a die LIVE, at this clock; a stack's contents are lost. -/
def Entered (s t : State) (k : Nat) : Prop :=
  (t.getSocket k).st = .live ∧ (t.getSocket k).liveAt = s.clock ∧
    (8 ≤ k → k < 16 → t.lost.any (fun x => x.1 == k - 8 && x.2 == []) = true)

end Sys2Proof.Claims

/-- R271: the checks of a package root on an exchange: the chain verifies to the fused root key, and the CHALLENGE signature by the chain's own key; and every
measurement reported stands in the list of accepted ones. -/
def Sys2Proof.Claims.Verified (x : Exchange) : Prop :=
  .getCertificate ∈ x.requests ∧ Config.chainVerifies Config.rootKey x.chain = true ∧
    .challenge ∈ x.requests ∧ Config.mldsaVerifies (Config.leafKey x.chain) x.signed x.signature = true
def Sys2Proof.Claims.Listed (x : Exchange) : Prop := .getMeasurements ∈ x.requests ∧ ∀ m ∈ x.measurements, m ∈ Config.accepted

/-- R256: the evidence of subject `k` stands in its block: its length, the messages that fit and the root's checks; and the subject waits for its verdict. -/
def Sys2Proof.Claims.Evidence (s t : State) (k : Nat) (x : Exchange) : Prop :=
  let at_ := (s.evbase.toNat / 2 ^ 16 % 2 ^ 36 + k) * 2 ^ 16
  t.attpend.getLsbD k = true ∧ leNat (t.readBytes at_ 8) = (exEvidence x).length ∧ t.readBytes (at_ + 8) (exEvidence x).length = exEvidence x

/-- R273: the sessions of a link have failed: it stays as it is, and they start again 2^24 clocks later, unless the host has taken it out of PODRT since they
began. -/
def Sys2Proof.Claims.LinkFailed (s t : State) (n : Nat) : Prop :=
  (t.getLink n).up = (s.getLink n).up ∧ (t.getLink n).sess = none ∧ (t.getLink n).retry = (s.getLink n).retry.map fun _ => s.clock + 2 ^ 24

/-- R256, R271, R273 to R275: outside a start-up, a die becomes LIVE where its exchange ended in time and passes the root's checks, else QUARANTINED with the
reason of the check; in host-assisted mode the evidence waits for the verdict; links come up with both sessions, fail, are tried again. That an exchange which has
not ended quarantines with reason 6 in host-assisted mode too (log 38), and when sessions are tried again (log 103), are the model's choices. -/
def Obligations.Attestation : Prop :=
  (∀ (s : State) (k : Nat) (x : Exchange), k < 18 → (s.getSocket k).st = .attesting → s.attpend.getLsbD k = false → s.start = none →
    ((s.getSocket k).began + exchangeClocks ≤ s.clock → ∃ t, exec (.attestationTimeout k) s = .next t ∧ Quarantined s t k 6 true) ∧
    (∃ t, exec (.attestationExchange k x false) s = .next t ∧ Quarantined s t k 6 true) ∧
    (s.clock ≤ (s.getSocket k).began + exchangeClocks →
      ((s.getSocket k).assisted = false →
        (Verified x → Listed x → ∃ t, exec (.attestationExchange k x true) s = .next t ∧ Entered s t k) ∧
        (¬Verified x → ∃ t, exec (.attestationExchange k x true) s = .next t ∧ Quarantined s t k 4 true) ∧
        (Verified x → ¬Listed x → ∃ t, exec (.attestationExchange k x true) s = .next t ∧ Quarantined s t k 5 true)) ∧
      ((s.getSocket k).assisted = true → ∃ t, exec (.attestationExchange k x true) s = .next t ∧ Evidence s t k x ∧
        (t.getSocket k).st = .attesting))) ∧
  (∀ (s : State) (k : Nat), k < 34 → s.attpend.getLsbD k = true → s.mgmt.getLsbD 5 = true → s.start = none →
    (∃ t, exec (.attverdAccept k) s = .next t ∧ t.attpend.getLsbD k = false ∧ (k < 18 → Entered s t k) ∧
      (18 ≤ k → ((s.getLink (k - 18)).far = true → (s.getSocket 17).st = .live → (t.getLink (k - 18)).up = true) ∧
        ((s.getLink (k - 18)).far = false → LinkFailed s t (k - 18)))) ∧
    ∃ t, exec (.attverdRefuse k) s = .next t ∧ t.attpend.getLsbD k = false ∧ (k < 18 → Quarantined s t k 9 true) ∧
      (18 ≤ k → LinkFailed s t (k - 18))) ∧
  (∀ (s : State) (n began : Nat) (assisted far : Bool) (x : Exchange) (f : FarEnd), n < 16 →
    (s.getLink n).sess = some (began, assisted) → s.start = none → (s.getSocket 17).st = .live →
    let e := fun ended => exec (.lerayxAttestation n x ended far f) s
    (began + exchangeClocks ≤ s.clock → ∃ t, exec (.attestationTimeout (18 + n)) s = .next t ∧ LinkFailed s t n) ∧
    (∃ t, e false = .next t ∧ LinkFailed s t n) ∧
    (s.clock ≤ began + exchangeClocks →
      (assisted = false → far = true → Verified x → Listed x →
        ∃ t, e true = .next t ∧ (t.getLink n).up = true ∧ (t.getLink n).peer = f.peer.toNat ∧ (t.getLink n).peerlx = f.peerlx.toNat) ∧
      (assisted = false → (far = false ∨ ¬Verified x ∨ ¬Listed x) → ∃ t, e true = .next t ∧ LinkFailed s t n) ∧
      (assisted = true → ∃ t, e true = .next t ∧ Evidence s t (18 + n) x ∧ (t.getLink n).up = (s.getLink n).up))) ∧
  (∀ (s : State) (n due : Nat), n < 16 → (s.getLink n).up = false → (s.getLink n).retry = some due → due ≤ s.clock →
    s.attpend.getLsbD (18 + n) = false → (s.getLink n).sess = none → (s.getSocket 17).st = .live →
    ∃ t, exec (.lerayxSessionRetry n) s = .next t ∧ { t with links := s.links } = s ∧ (t.getLink n).retry = some (s.clock + 2 ^ 24) ∧
      (t.getLink n).sess = some (s.clock, s.mgmt.getLsbD 4))

/-- R209, R272, R274 to R276: the key of a direction rolls over and the other stays; the sixteenth tag failure within 2^24 clocks quarantines a die or takes a
link down; a reset quarantines its die and marks the launches on it; its end and REATT attest again. That KEY_ROLLOVER moves the key of one direction at once is the
model's choice (logs 38 and 104). -/
def Obligations.LinkTrust : Prop :=
  (∀ (s : State) (k : Nat), k < 18 → (s.getSocket k).st = .live →
    (∀ out, ∃ t, exec (.keyRollover ⟨k, out⟩) s = .next t ∧ { t with sockets := s.sockets } = s ∧
      let x := s.getSocket k
      t.getSocket k = if out then { x with tx := ⟨x.tx.sess, x.tx.gen + 1, 0⟩ } else { x with rx := ⟨x.rx.sess, x.rx.gen + 1, 0⟩ }) ∧
    let recent := (s.getSocket k).tagFails.filter fun c => s.clock < c + 2 ^ 24
    (recent.length < 15 → ∃ t, exec (.linkTagFailure k) s = .next t ∧ { t with sockets := s.sockets } = s ∧ (t.getSocket k).st = .live ∧
      (t.getSocket k).tagFails = s.clock :: recent) ∧
    (15 ≤ recent.length → ∃ t, exec (.linkTagFailure k) s = .next t ∧ Quarantined s t k 8 false)) ∧
  (∀ (s : State) (n : Nat), n < 16 → (s.getLink n).up = true →
    (∀ out, ∃ t, exec (.keyRollover ⟨18 + n, out⟩) s = .next t ∧ { t with links := s.links } = s ∧
      let x := s.getLink n
      t.getLink n = if out then { x with tx := ⟨x.tx.sess, x.tx.gen + 1, 0⟩ } else { x with rx := ⟨x.rx.sess, x.rx.gen + 1, 0⟩ }) ∧
    (∃ t, exec (.linkFlitReplay n) s = .next t ∧ { t with links := s.links } = s ∧
      (t.getLink n).replay.toNat = Nat.min 0xFFFF ((s.getLink n).replay.toNat + 1)) ∧
    let recent := (s.getLink n).tagFails.filter fun c => s.clock < c + 2 ^ 24
    ∃ t, exec (.linkTagFailure (18 + n)) s = .next t ∧ ((t.getLink n).up = true ↔ recent.length < 15)) ∧
  (∀ (s : State) (k : Nat), k < 18 → k ≠ 16 → ((s.getSocket k).st = .live ∨ (s.getSocket k).st = .attesting) →
    ∃ t, exec (.diestReset k) s = .next t ∧ Quarantined s t k 7 false ∧ (t.getSocket k).resetting = true ∧ t.attpend.getLsbD k = false ∧
      ((s.getSocket k).st = .live → k < 8 → ∀ n l, s.launch? n = some l → l.live.testBit k = true → ∃ l', t.launch? n = some l' ∧ l'.error = true)) ∧
  (∀ (s : State) (k : Nat), (k < 18 → (s.getSocket k).st = .quarantined →
      ∃ t, exec (.diestReatt k) s = .next t ∧ { t with sockets := s.sockets } = s ∧ (t.getSocket k).st = .attesting ∧ (t.getSocket k).began = s.clock ∧
        (t.getSocket k).assisted = s.mgmt.getLsbD 4) ∧
    ((s.getSocket k).resetting = true → ∃ t, exec (.dieResetEnd k) s = .next t ∧ { t with sockets := s.sockets } = s ∧
      (t.getSocket k).resetting = false ∧ (t.getSocket k).st = if (s.getSocket k).st = .quarantined then .attesting else (s.getSocket k).st))

/-- R277, R278, R112: a cold start in which no self-test fails leaves every die ATTESTING, keeps host memory, empties device memory and runs no context; a die that
fails one of the first three steps is QUARANTINED with its number. With the last die LIVE the stacks are listed and the Lerayx peers attested; with the last of
their sessions the start ends, after three attempts also where a die has failed; before that every die attests again. A warm start attests the dies that are OFF
or QUARANTINED and keeps memory. What self-tests and training find comes with the event (DESIGN CHOICE, log 13). That links are taken down and the start waits for the end of the
sessions is the model's choice (log 103). -/
def Obligations.StartUp : Prop :=
  (∀ s : State, ∃ t, exec (.coldStart []) s = .next t ∧ (∀ k < 18, (t.getSocket k).st = .attesting) ∧ t.boot.getLsbD 0 = false ∧
    (∀ k, (t.getCc k).st = .free) ∧ t.launches = [] ∧
    ∀ loc, (isHost loc = true → Memory.wf s.mem → t.readByte loc = s.readByte loc) ∧ (isHost loc = false → t.readByte loc = 0#8)) ∧
  (∀ (s : State) (k n : Nat), k < 18 → (n = 1 ∨ n = 2 ∨ (n = 3 ∧ 8 ≤ k ∧ k < 16)) → ∃ t, exec (.coldStart [[(k, n)]]) s = .next t ∧
    (t.getSocket k).st = .quarantined ∧ (t.getSocket k).reason = n ∧ ∀ j < 18, j ≠ k → (t.getSocket j).st = .attesting) ∧
  (∀ (s : State) (x : Start) (k : Nat) (e : Exchange), s.start = some x → x.six = false → x.now = [] → x.failed = [] → k ∈ x.waits → k < 18 →
    (s.getSocket k).st = .attesting → (∀ j < 18, j ≠ k → (s.getSocket j).st = .live) → (∀ j ∈ x.waits, j < 18) → s.attpend.getLsbD k = false →
    (s.getSocket k).assisted = false → s.clock ≤ (s.getSocket k).began + exchangeClocks → Verified e → Listed e →
    ∃ t, exec (.attestationExchange k e true) s = .next t ∧ (∀ j < 18, (t.getSocket j).st = .live) ∧
      (∀ n < 16, (t.getLink n).sess = some (s.clock, s.mgmt.getLsbD 4) ∧ (t.getLink n).up = false) ∧
      t.start = some { x with waits := [], six := true } ∧ (x.warm = false → t.ivStacks = [0, 1, 2, 3, 4, 5, 6, 7])) ∧
  (∀ (s : State) (x : Start) (n began : Nat) (assisted : Bool), s.start = some x → x.six = true → n < 16 → (s.getLink n).sess = some (began, assisted) →
    began + exchangeClocks ≤ s.clock → (∀ m < 16, m ≠ n → (s.getLink m).sess = none) →
    ∃ t, exec (.attestationTimeout (18 + n)) s = .next t ∧ t.mem = s.mem ∧
      (x.failed = [] ∨ 3 ≤ x.attempt → t.start = none ∧ t.boot.getLsbD 0 = true ∧ t.boot.getLsbD 2 = s.startFatal ∧ t.sockets = s.sockets) ∧
      (x.failed ≠ [] → x.attempt < 3 → x.warm = false → x.rest = [] → t.boot.getLsbD 0 = false ∧ bits t.boot.toNat 8 8 = x.attempt + 1 ∧
        ∀ k < 18, (t.getSocket k).st = .attesting)) ∧
  (∀ s : State, s.noContexts = true → s.start = none → s.boot.getLsbD 0 = true → s.boot.getLsbD 2 = false →
    ∃ t, exec (.bootstatWarm []) s = .next t ∧ t.mem = s.mem ∧ t.boot.getLsbD 32 = true ∧
      ∀ k < 18, ((s.getSocket k).st = .off ∨ (s.getSocket k).st = .quarantined → (t.getSocket k).st = .attesting) ∧
        ((s.getSocket k).st = .live → (t.getSocket k).st = .live))

namespace Sys2Proof.Claims

open Machine

/-- A message from outside that this package's IO1 serves. -/
structure FromOutside (s : State) (m : PodMsg) : Prop where
  live : (s.getSocket 17).st = .live
  fresh : ∀ x ∈ s.podIn, x.2.2 ≠ m

/-- R264: a request of another package that has come from IO1 to its place, `out` clocks away. -/
structure AtPlace (s : State) (m : PodMsg) (out : Nat) : Prop where
  live : (s.getSocket 17).st = .live
  far : m.src ≠ s.pkgNum ∧ m.dst = s.pkgNum
  stands : ∃ at_, at_ ≤ s.clock ∧ s.podIn.find? (fun x => x.1 ≤ s.clock && x.2.2 == m) = some (at_, out, m)

/-- R262, R264: the reply to a message of another package is on its way back to IO1. -/
def Answered (s t : State) (m : PodMsg) (out : Nat) (b : PodBody) : Prop :=
  (s.clock + out, 0, { src := s.pkgNum, dst := m.src, index := m.index, addr := m.addr, uid := m.uid, body := b, fw := false }) ∈ t.podIn

/-- R122: a walk that is due. -/
def WalkDue (s : State) (w : Walk) : Bool := w.due.any fun t => t ≤ s.clock

/-- R123: an invalidation that completes now: its time has come, and no access waits that used what it removed. -/
def TlbiEnds (s : State) (x : Tlbi) : Bool := x.due ≤ s.clock && !s.tlbiHeld x

end Sys2Proof.Claims

/-- R121 to R124, R150, R260 to R263: a walk's end fills the TLBs unless an invalidation has marked it, and a die whose walks are at most 64 goes on with at most
64; an invalidation signals once nothing waits that used what it removed; a command whose requests are all granted holds its locks; a request for this package goes from IO1
to its place, is served there, and its reply goes back to IO1 and leaves; a reply answers what awaits it, another package's message is forwarded;
an acknowledgement ends its posted write; a merge window that closes performs its AMOs one after another (R208). The start and the time of walks (log 84), the
replacement in the TLBs (log 7), and the close of a merge window with the order of its AMOs (log 20) are the model's choices. -/
def Obligations.MemoryEvents : Prop :=
  (∀ (s : State) (die : Nat) (w : Walk), die < 8 → (s.getDie die).walks.filter (WalkDue s) = [w] →
    let l := (s.getDie die).walks.filter fun w => !WalkDue s w
    ∃ t, exec (.pageWalkComplete die) s = .next t ∧ t.mem = s.mem ∧ t.cd = s.cd ∧ t.cc = s.cc ∧
      (t.getDie die).walks = startWalks s.clock (runningWalks l) l ∧ (runningWalks l ≤ 64 → runningWalks (t.getDie die).walks ≤ 64) ∧
      (runningWalks (t.getDie die).walks < 64 → ∀ x ∈ (t.getDie die).walks, x.due ≠ none) ∧
      (∀ e, w.entry = some e → w.noFill = false → e ∈ (t.getDie die).l2 ∧ e ∈ (t.getCore (coreKey die w.core)).l1 ∧
        (t.getDie die).l2.length ≤ 16384 ∧ (t.getCore (coreKey die w.core)).l1.length ≤ 256) ∧
      (w.entry = none ∨ w.noFill = true → (t.getDie die).l2 = (s.getDie die).l2 ∧ t.core = s.core)) ∧
  (∀ (s : State), ∃ t, exec .tlbiComplete s = .next t ∧ t.mem = s.mem ∧ t.cd = s.cd ∧ t.cc = s.cc ∧
    (∀ d < 8, (t.getDie d).tlbis = (s.getDie d).tlbis.filter (fun x => !TlbiEnds s x) ∧ (t.getDie d).l2 = (s.getDie d).l2) ∧
    ∀ d < 8, ∀ x, (s.getDie d).tlbis.filter (TlbiEnds s) = [x] →
      (∀ e < 8, e ≠ d → (s.getDie e).tlbis = []) →
      (t.getCore (ckCore x.ck)).sig = ((s.signal (ckCore x.ck) x.sigSem x.sigInc).getCore (ckCore x.ck)).sig) ∧
  (∀ (s : State) (core uid : Nat) (x : Track), x ∈ (s.getCore core).track → x.uid = uid → x.deps = [] →
    lockGranted uid [] (s.getCore core).locks = true → ∃ t, exec (.bankLockGrant core uid) s = .next t ∧ t.mem = s.mem ∧ t.cd = s.cd ∧
      { x with locked := true } ∈ (t.getCore core).track ∧ (t.getCore core).locks = (s.getCore core).locks ∧
      ∀ k ≠ core, t.getCore k = s.getCore k) ∧
  (∀ (s : State) (m : PodMsg), FromOutside s m → m.dst = s.pkgNum → podRequest m.body = true → ∃ t out, exec (.podMessageArrives m) s = .next t ∧
    { t with podIn := s.podIn } = s ∧ t.podIn = s.podIn ++ [(s.clock + out, out, m)]) ∧
  (∀ (s : State) (m : PodMsg) (at_ out n : Nat), (s.getSocket 17).st = .live → m.src = s.pkgNum → m.dst ≠ s.pkgNum → at_ ≤ s.clock →
    s.podIn.find? (fun x => x.1 ≤ s.clock && x.2.2 == m) = some (at_, out, m) → s.route m.dst m.addr = some n →
    ∃ t, exec (.podMessageArrives m) s = .next t ∧ t.events = s.events ++ [.podSent n m] ∧ t.podIn = s.podIn.erase (at_, out, m) ∧ t.mem = s.mem) ∧
  (∀ (s s1 : State) (m : PodMsg) (out loc kind lat : Nat), AtPlace s m out →
    (∀ data, m.body = .write data false → s.podTranslate m.index m.addr m.fw false true = (.ok loc kind lat, s1) →
      ∃ t, exec (.podMessageArrives m) s = .next t ∧ t.readBytes loc data.length = data ∧ Answered s1 t m out .ack) ∧
    (∀ n, m.body = .read n → s.podTranslate m.index m.addr m.fw true false = (.ok loc kind lat, s1) → s1.hostAborts loc = false →
      ∃ t, exec (.podMessageArrives m) s = .next t ∧ t.mem = s1.mem ∧ Answered s1 t m out (.reply (s1.readBytes loc n) (s1.poisoned loc n))) ∧
    (∀ n f, m.body = .read n → s.podTranslate m.index m.addr m.fw true false = (.fault f, s1) →
      ∃ t, exec (.podMessageArrives m) s = .next t ∧ Answered s1 t m out (.faultReply f.code f.cause))) ∧
  (∀ (s : State) (m : PodMsg) (n : Nat), FromOutside s m → m.dst ≠ s.pkgNum → s.forwardLink m = some n →
    ∃ t, exec (.podMessageArrives m) s = .next t ∧ Event.podSent n m ∈ t.events ∧ t.mem = s.mem ∧ t.cd = s.cd ∧ t.cc = s.cc) ∧
  (∀ (s : State) (m : PodMsg) (data : List Byte) (cc d : Nat) (p : Pend), FromOutside s m → m.dst = s.pkgNum → m.body = .reply data false →
    s.awaits m.uid = some (cc, d, p) → (∀ x ∈ s.posted, x.uid ≠ m.uid) → s.splitOf m.uid = none →
    ∃ t, exec (.podMessageArrives m) s = .next t ∧ t.mem = s.mem ∧ t.cc = s.cc ∧ (∀ x ∈ t.podOut, x.2.uid ≠ m.uid) ∧
      ∀ k, (t.getCd k).ws = (s.getCd k).ws ∧ ∀ q ∈ (t.getCd k).pend, q.uid = m.uid →
        q.due = some (s.clock + head 17 d + 90) ∧ q.val = BitVec.ofNat 512 (extend p.ty (8 * data.length) (leNat data)).toNat) ∧
  (∀ (s : State) (uid : Nat), ∃ t, exec (.postedWriteAck uid) s = .next t ∧ { t with posted := s.posted, podOut := s.podOut } = s ∧
    ∀ p, p ∈ t.posted ↔ p ∈ s.posted ∧ ¬(p.uid = uid ∧ p.land ≤ s.clock ∧ p.due.getD s.clock ≤ s.clock)) ∧
  (∀ (s : State) (d : Nat) (m : Merge), d < 8 → (s.getDie d).merges.filter (fun x => x.close ≤ s.clock) = [m] →
    (∀ e < 8, e ≠ d → ∀ x ∈ (s.getDie e).merges, s.clock < x.close) → m.pod = none →
    let w := if m.wide then 64 else 32
    s.poisoned m.addr (w / 8) = false → s.hostAborts m.addr = false →
    s.mergesEnd.mem = (s.atomicsAt m.addr m.op m.signed w 0 (m.ops.map fun o => o.2.2.toNat % 2 ^ w)).2.mem ∧
      (s.mergesEnd.getDie d).merges = (s.getDie d).merges.filter fun x => s.clock < x.close)

/-! ### The engines -/

namespace Sys2Proof.Claims

open Machine

/-- The commands of a copy channel, oldest first. -/
def chanQ (s : State) (core ch : Nat) : List CopyCmd := (SMap.get {} (s.getCore core).ch ch).q

/-- R129, R315: a command has left the head of its channel, and CPDONE names the next. -/
def Left (s t : State) (core ch uid : Nat) : Prop :=
  chanQ t core ch = (chanQ s core ch).drop 1 ∧
  (SMap.get {} (t.getCore core).ch ch).done = (match chanQ t core ch with
    | x :: _ => BitVec.ofNat 32 x.ident
    | [] => (SMap.get {} (t.getCore core).ch ch).next) ∧
  ∀ x ∈ (t.getCore core).track, x.uid ≠ uid

/-- R62: a signal given on a core, and no other there. -/
def Signals (s t : State) (core sem : Nat) (inc : Int) : Prop := (t.getCore core).sig = ((s.signal core sem inc).getCore core).sig

/-- R126: where a write of a command lands: in storage, at a place of this package that is not host memory. -/
def Stores (s t : State) (ck : Nat) (acc : Acc) (va : Nat) (data : List (Byte × Bool)) : Prop :=
  ∀ loc kind lat s', s.resolve (ckDie ck) (ckCc ck) acc (s.getCd ck).trbase.toNat va (ckCtx ck == 4) false true = (.ok loc kind lat, s') →
    isHost loc = false → t.mem = (s'.store loc (data.map Prod.fst)).mem

/-- The records of a context that are due. -/
def dueRecs (s : State) (ck : Nat) (spx : Bool) : List RecPend :=
  (s.getCd ck).recs.filter fun r => (if spx then r.k == 16 else decide (r.k < 16)) && r.due.any fun t => t ≤ s.clock

end Sys2Proof.Claims

/-- R127, R129, R136, R138 to R143, R150, R153, R315, R340, R343, R344: the head of a channel that holds its locks starts; a CPYG that runs takes the offsets of its
context as they come; its pieces land in order, in storage or in its stream, the pieces of one 32-byte granule together (R188); with the last it leaves the channel, CPDONE moves and it signals; a failed trailer check and a faulting access end it with its
fault and no signal; SPXGO decodes its metadata and pushes offsets; SHAPE and SPXCFG records take effect as they arrive, or fault. That a running CPYG takes and
holds offsets as they come (log 60), and that SPXGO reads its metadata whole at its start and raises its poison fault at its end (log 66), are the model's
choices. -/
def Obligations.CopyEvents : Prop :=
  (∀ (s : State) (core ch : Nat) (c : CopyCmd) (q : List CopyCmd), chanQ s core ch = c :: q →
    (c.started = none → (s.getCc (ckCc c.ck)).st ≠ .loading → (s.getCore core).hasLocks c.uid = true → s.spxBehind core c = false →
      (c.isSpx = false → ∃ t, exec (.copyCommandStart core ch) s = .next t ∧
        chanQ t core ch = { c with started := some s.clock, least := s.copyLeast c } :: q ∧ t.mem = s.mem ∧ t.cd = s.cd ∧
        ∀ k ≠ core, t.getCore k = s.getCore k) ∧
      ∀ l s1, c.isSpx = true → s.engReadN c.ck .cp c.uid c.saddr.toNat c.n = (.ok l, s1) → (∀ x ∈ l, x.2 = false) →
        ∃ t, exec (.copyCommandStart core ch) s = .next t ∧ t.mem = s1.mem ∧
          chanQ t core ch = { c with
            read := true, started := some s.clock, least := 12, bad := false
            offs := (spxDecode c.spx (l.map Prod.fst)).drop c.base } :: (chanQ s1 core ch).drop 1) ∧
    (c.isSpx = true → c.started ≠ none → s.movedNow core ch = 0 →
      let m := Nat.min (Nat.min (bits c.spx 16 8) (64 - (s.getCore core).opq.length)) c.offs.length
      m ≠ 0 → ∃ t, exec (.copyWriteLands core ch) s = .next t ∧
        (t.getCore core).opq = (s.getCore core).opq ++ (c.offs.take m).map (fun o => (c.ck, o)) ∧
        chanQ t core ch = { c with offs := c.offs.drop m, done := c.done + m } :: q ∧ t.mem = s.mem ∧ t.cd = s.cd) ∧
    (c.f.gath = true → c.isSpx = false → c.started ≠ none → s.pieceDue core ch c = false → c.done < c.dData →
      let n := ((s.offsetsOf c.ck).take c.lacks).length
      n ≠ 0 → ∃ t, exec (.copyWriteLands core ch) s = .next t ∧ t.mem = s.mem ∧ t.cd = s.cd ∧
        (t.getCore core).opq = takeOffsets c.ck n (s.getCore core).opq ∧
        chanQ t core ch = { c with taken := c.taken ++ (s.offsetsOf c.ck).take n } :: q) ∧
    (c.isSpx = false → s.pieceDue core ch c = true → ∀ c' x s1, s.nextPiece c = (.ok c', x, s1) →
      let out := c'.out.take c'.pieceLen
      (x = none → c.done + c.pieceLen < c.total → s.askAhead core ch c = s → s.gatherTake core ch c = s →
        ({ c' with done := c'.done + c'.pieceLen } : CopyCmd).joined = false → ∃ t, exec (.copyWriteLands core ch) s = .next t ∧
        (∃ w, chanQ t core ch = { c' with out := c'.out.drop c'.pieceLen, done := c'.done + c'.pieceLen, wrote := w } ::
          (chanQ s1 core ch).drop 1) ∧
        (c'.stream ≠ 0 → t.mem = s1.mem ∧ t.streamOf c' = (s1.streamOf c').append out) ∧
        (c'.stream = 0 → Stores s1 t c'.ck .cp (c'.dva c'.done) out)) ∧
      (x = none → c.isChk = false → c.total ≤ c.done + c.pieceLen → ∃ t, exec (.copyComplete core ch) s = .next t ∧
        Left s1 t core ch c'.uid ∧ (c'.sbytes = false → Signals s1 t core c'.sigSem c'.sigInc) ∧
        (c'.stream ≠ 0 → t.mem = s1.mem ∧ t.streamOf c' = ((s1.streamOf c').append out).flush) ∧
        (c'.stream = 0 → Stores s1 t c'.ck .cp (c'.dva c'.done) out)) ∧
      ∀ y, x = some y → c.isChk = false → ∃ t, exec (.copyComplete core ch) s = .next t ∧ Left s1 t core ch c'.uid ∧ t.mem = s1.mem ∧
        Told s1 t c'.ck c'.uid { code := 7, r1 := c'.bundle, r2 := BitVec.ofNat 64 (y.1 + y.2 * 2 ^ 32),
                                 r3 := BitVec.ofNat 64 (c'.ident % 2 ^ 32 + ch * 2 ^ 32) }) ∧
    (c.isSpx = false → c.isChk = false → s.pieceDue core ch c = true → ∀ f va idx x s1, s.nextPiece c = (.fault f va idx, x, s1) →
      ∃ t, exec (.copyAccessFault core ch) s = .next t ∧ Left s1 t core ch c.uid ∧ t.mem = s1.mem ∧
        Told s1 t c.ck c.uid (engRec f va c.bundle.toNat c.ident ch idx)) ∧
    (c.isSpx = false → c.isChk = true → ∀ t0 l s1 s2 x c3, c.started = some t0 →
      t0 + c.least + ceilDiv (c.sData + c.sScale + 32 - c.done) 64 ≤ s.clock →
      s.engReadN c.ck .cp c.uid (c.saddr.toNat + c.done) (c.sData + c.sScale - c.done) = (.ok l, s1) →
      (let b := c.srcData ++ l.map Prod.fst
       s1.tchk { c with srcData := b.take c.sData, srcScale := b.drop c.sData }) = (.ok c3, x, s2) →
      ∃ t, exec (.copyComplete core ch) s = .next t ∧ Left s2 t core ch c.uid ∧ t.mem = s2.mem ∧
        (x = none → c.sbytes = false → Signals s2 t core c.sigSem c.sigInc) ∧
        ∀ y, x = some y → Told s2 t c.ck c.uid { code := 7, r1 := c.bundle, r2 := BitVec.ofNat 64 (y.1 + y.2 * 2 ^ 32),
                                                 r3 := BitVec.ofNat 64 (c.ident % 2 ^ 32 + ch * 2 ^ 32) }) ∧
    (∀ t0, c.isSpx = true → c.offs = [] → c.started = some t0 → t0 + 12 + ceilDiv c.n 64 ≤ s.clock → ch < 4 →
      (∀ j < 4, j ≠ ch → ∀ x, s.copyHead core j = some x → x.isSpx = false) →
      ∃ t, exec (.sparseDecodeComplete core) s = .next t ∧ Left s t core ch c.uid ∧ t.mem = s.mem ∧
        (c.bad = false → c.sbytes = false → Signals s t core c.sigSem c.sigInc) ∧
        (c.bad = true → Told s t c.ck c.uid (engRec ⟨10, 0⟩ c.saddr.toNat c.bundle.toNat c.ident ch 0)))) ∧
  (∀ (s : State) (ck : Nat) (r : RecPend), dueRecs s ck false = [r] → r.ctx = ck →
    ∃ t, exec (.shapeRecordArrives ck) s = .next t ∧ t.mem = s.mem ∧ dueRecs t ck false = [] ∧
      (shapeOk r.bits = true → SMap.get {} (t.getCd ck).sh r.k = ⟨r.bits, true⟩ ∧ Signals s t (ckCore ck) r.sigSem r.sigInc) ∧
      (shapeOk r.bits = false → (SMap.get {} (t.getCd ck).sh r.k).loaded = false ∧
        Told s t ck r.uid { code := 6, cause := 1, r0 := r.addr, r1 := r.bundle })) ∧
  (∀ (s : State) (core : Nat) (r : RecPend), (recCtxs core).flatMap (fun ck => dueRecs s ck true) = [r] → ckCore r.ctx = core →
    ∃ t, exec (.spxcfgRecordArrives core) s = .next t ∧ t.mem = s.mem ∧
      let x := r.bits.toNat
      let k := t.getCore core
      (spxOk x = true → k.spxMode = x % 4 ∧ k.spxShift = x / 2 ^ 32 % 2 ^ 8 ∧ k.spxRate = x / 2 ^ 40 % 2 ^ 8 ∧ Signals s t core r.sigSem r.sigInc) ∧
      (spxOk x = false → k.spxMode = (s.getCore core).spxMode ∧ k.spxShift = (s.getCore core).spxShift ∧
        k.spxRate = (s.getCore core).spxRate ∧ Told s t r.ctx r.uid { code := 6, cause := 3, r0 := r.addr, r1 := r.bundle }))

/-- R145 to R149, R378: the head of the matrix queue that holds its locks starts with its operands read, and completes by writing its tile, latch or rows,
clearing its busy bit and signalling; a fault of translation, or of permission at a write of MRET, pauses the engine at expert level, and is abandoned
elsewhere with the team; RESUME goes on, ABORT abandons. Another fault ends the command and goes to its context (log 30), and the operands are fetched at the
start (log 61): both are the model's choice. An integer product accumulates modulo 2^32 (R39). -/
def Obligations.MatrixEvents : Prop :=
  (∀ (s : State) (core : Nat) (c : MxCmd) (q : List MxCmd), (s.getCore core).mxq = c :: q →
    (∀ c' c0 s1, s.mxMayStart core c = true → s.mxFetch c = (.ok c', c0, s1) → ∃ t, exec (.mxCommandStart core) s = .next t ∧
      t.mem = s1.mem ∧ t.cd = s1.cd ∧ (t.getCore core).mxq = { c' with
        due := some (s.clock + (s.mxClocks c).1 + (s.mxClocks c).2), cmp := s.clock + (s.mxClocks c).1 } :: (s1.getCore core).mxq.drop 1) ∧
    (∀ l row s1, s.mxDue core c = true → s.mxWrites c = (.ok l, row, s1) → ∃ t, exec (.mxCommandComplete core) s = .next t ∧ t.mem = s1.mem ∧
      (t.getCore core).mxq = (s1.getCore core).mxq.filter (fun x => x.uid != c.uid) ∧ Signals s1 t core c.sigSem c.sigInc ∧
      let x := t.getCd c.ck
      (SMap.get {} x.acc c.f.acc.toNat).busy ≠ some c.uid ∧
      (c.lost = false → (∀ w, c.tile = some w → (SMap.get {} x.acc c.f.acc.toNat).cells = w.cells ∧ (SMap.get {} x.acc c.f.acc.toNat).int = w.int) ∧
        ∀ w, c.latch = some w → SMap.get {} x.l c.f.latch.toNat = w)) ∧
    (s.mgmt.getLsbD 9 = true → (s.getCore core).pause ≠ none →
      (∃ t, exec (.mprogResume core) s = .next t ∧ (t.getCore core).pause = none ∧ t.mem = s.mem ∧ t.cd = s.cd ∧
        (t.getCore core).mxq = { c with due := none, tile := none, latch := none } :: q) ∧
      ∃ t, exec (.mprogAbort core) s = .next t ∧ (t.getCore core).pause = none ∧
        (∀ x ∈ (t.getCore core).mxq, x.uid ≠ c.uid) ∧
        (ckCtx c.ck < 4 → NotSaved t (s.getCc (ckCc c.ck)).launch (s.getCc (ckCc c.ck)).team))) ∧
  (∀ (s s1 : State) (core : Nat) (c : MxCmd) (f : AFault) (va ph row k0 : Nat), s.mxFault core = (some (c, f, va, ph, row, k0), s1) →
    let r := engRec f va c.bundle.toNat 0 0 0
    ∃ t, exec (.matrixFaultPause core) s = .next t ∧
      let pauses := f.code = 4 ∨ (f.code = 5 ∧ c.kind = .ret)
      (pauses → s1.mgmt.getLsbD 8 = true → s1.mgmt.getLsbD 9 = true →
        (t.getCore core).pause = some ⟨ph, row, k0, r⟩ ∧ t.mem = s1.mem ∧
        Event.matrixFault core (ckCtx c.ck) { r.fields with async := true } ∈ t.events) ∧
      (pauses → (s1.mgmt.getLsbD 8 && s1.mgmt.getLsbD 9) = false →
        (∀ x ∈ (t.getCore core).mxq, x.uid ≠ c.uid) ∧
        (ckCtx c.ck < 4 → NotSaved t (s1.getCc (ckCc c.ck)).launch (s1.getCc (ckCc c.ck)).team)) ∧
      (¬pauses → (∀ x ∈ (t.getCore core).mxq, x.uid ≠ c.uid) ∧ t.mem = s1.mem ∧ Told s1 t c.ck c.uid r)) ∧
  (∀ (k acc : Nat) (a b : Array Word) (m n : Nat), acc < 2 ^ 32 → mxCell true k acc a b m n =
    (acc + ((List.range k).map fun j => (a.getD (m * k + j) 0#32).toNat * (b.getD (j * 64 + n) 0#32).toNat).foldl (· + ·) 0) % 2 ^ 32)

/-- R174, R182 to R185, R219: the envelope unit starts the oldest operation that may start, for the clocks of R184, or ends it with its fault; its
completion writes its register, in both sets where it issued before the splice, or stores its image, and signals, or raises its breakpoint overflow,
which abandons what its context has queued. -/
def Obligations.EnvelopeEvents : Prop :=
  (∀ (s : State) (core : Nat) (e : EvOp), s.evNext core = some e →
    let r := s.evRun e
    (r.fault = none → ∃ t, exec (.evOperationStart core) s = .next t ∧ t.mem = s.mem ∧ t.cd = s.cd ∧ t.cc = s.cc ∧
      (t.getCore core).evq = (s.getCore core).evq.map fun x => if x.uid = e.uid then { x with
        due := some (s.clock + r.clocks), res := if (r.overflow e.op).isSome then none else r.res.map (·.env),
        enan := (r.res.map (·.enan)).getD false, image := r.image, bad := r.overflow e.op } else x) ∧
    ∀ f, r.fault = some f → ∃ t, exec (.evOperationStart core) s = .next t ∧ t.mem = s.mem ∧
      (∀ x ∈ (t.getCore core).evq, x.uid ≠ e.uid) ∧ Told s t e.ck e.uid { f with r1 := e.bundle }) ∧
  (∀ (s : State) (core : Nat) (e : EvOp), ((s.getCore core).evq.find? fun x => x.due == some s.clock) = some e →
    ∃ t, exec (.evOperationComplete core) s = .next t ∧
      (e.bad = none → (t.getCore core).evq = (s.getCore core).evq.filter (fun x => x.uid != e.uid)) ∧
      (∀ h, evHdr e.op = some h → e.bad = none → s.sharedHolder e.launch (core % 32) = none → Signals s t core h.sigSem.toNat h.sigInc.toInt) ∧
      (∀ f, e.bad = some f → e.launch = 0 → Told s t e.ck e.uid { f with r1 := e.bundle } ∧ (t.getCore core).sig = (s.getCore core).sig ∧
        ∀ x ∈ (t.getCore core).evq, x.uid ≠ e.uid ∧ (x.ck = e.ck → x.due ≠ none)) ∧
      (e.image = [] → t.mem = s.mem) ∧
      (e.image ≠ [] → e.passed = [] →
        t.mem = (s.store (spadLoc (core / 32) (core % 32) ((e.addr.toNat - spadBase) % 2 ^ 21)) e.image).mem) ∧
      let c := s.getCd e.ck
      let x := t.getCd e.ck
      x.ws.eflg = (if e.enan then c.ws.eflg ||| 1#32 else c.ws.eflg) ∧
      ∀ r n, e.res = some r → evDest e.op = some n → SMap.get Env.launch x.ws.e n = r ∧
        (e.pre = true → SMap.get Env.launch x.dup.e n = r) ∧ (e.pre = false → x.dup.e = c.dup.e) ∧
        ∀ m ≠ n, SMap.get Env.launch x.ws.e m = SMap.get Env.launch c.ws.e m) ∧
  (∀ (s : State) (e : EvOp) (h : Hdr) (f : FEV), e.op = .emax h f →
    let reg := fun (n : BitVec 2) => SMap.get Env.launch (s.getCd e.ck).ws.e n.toNat
    let b := envMax (reg f.esrcA) (reg f.esrcB) e.tol true
    (s.evRun e).res = some b ∧ (s.evRun e).clocks = 8 + ((reg f.esrcA).n + (reg f.esrcB).n + 3) / 4 + (b.p + 3) / 4)

namespace Sys2Proof.Claims

open Machine

/-- R157: what answers a request: F[FBUSY] and S[OUT], landing at the clock of R156. -/
def AnsweredReq (s t : State) (eng : Nat) (q : Req) (circ code next : Nat) (aged : Bool) : Prop :=
  ∀ k, ∀ p ∈ (t.getCd k).pend, p.uid = q.uid → p.due = some (s.clock + if eng < 128 then 2 else 4) ∧
    p.val = BitVec.ofNat 512 (if p.file = .f then (if 8 ≤ code then 1 else 0)
      else circ * 2 ^ 12 + q.choice * 2 ^ 8 + code * 2 ^ 4 + (if aged then 8 else 0) + next)

/-- R160: whether a request presented now is aged. -/
def agedNow (s : State) (q : Req) : Bool :=
  (((s.mapAwaiting q.uid fun c => c.present (routeList (enFields q.op))).awaiting q.uid).map (·.aged)).getD false

/-- R188, R235: the source bytes that a transfer holds as it moves its next piece: those that it held, and those read for the units of the piece. -/
def Source (s : State) (acc : Acc) (x : Xmit) : EngR × State := s.xmitSource acc x (x.piece false)

/-- R162, R163: what a transfer does on a clock on which it is to move bytes: up to 64 of them written, which end with a granule or the transfer, its first successor `next` with their count; or, with
the last of them, its signal; or its fault. -/
def Transfers (s t : State) (acc : Acc) (x : Xmit) (next : Option Xmit) : Prop :=
  ∀ s1, (∀ data, Source s acc x = (.ok data, s1) →
      let n := Nat.min (64 - (x.done + x.daddr.toNat % 32) % 64) (x.len - x.done)
      let ps := pieces64 3 (x.daddr.toNat + x.done) n
      (∀ l s2, s1.engWrFaults x.ck acc ps = (.ok l, s2) →
        t.mem = (s2.engWriteAll x.ck acc (lostRec x.bundle 0 0) { cmd := x.uid, sem := x.sigSem } ps (data.take n)).mem ∧
        (x.done + n < x.len → next = some { x with
          done := x.done + n, out := data.drop n, last := s.clock + 1, asked := (x.asked.1 - n, x.asked.2) }) ∧
        (x.len ≤ x.done + n → Signals s2 t (ckCore x.ck) x.sigSem x.sigInc)) ∧
      ∀ s2 f va, s1.engWrFaults x.ck acc ps = (.fault f va, s2) → t.mem = s2.mem ∧ Told s2 t x.ck x.uid (engRec f va x.bundle.toNat 0 0 0)) ∧
    ∀ f va, Source s acc x = (.fault f va, s1) → t.mem = s1.mem ∧ Told s1 t x.ck x.uid (engRec f va x.bundle.toNat 0 0 0)

/-- R162, R163: a transfer whose bytes have all been moved completes at its clock, with its signal. -/
def Completes (s t : State) (x : Xmit) : Prop :=
  x.len ≤ x.done → x.isDue s.clock = true → t.mem = s.mem ∧ Signals s t (ckCore x.ck) x.sigSem x.sigInc

/-- A transfer that is to move bytes on this clock, and asks for none of its source first. -/
def Moving (s : State) (acc : Acc) (x : Xmit) : Prop := x.ready s.clock = true ∧ s.askXmit acc x = (x, s)

/-- A transfer that leaves its path on this clock: with its last bytes, with its fault, or as one whose bytes have all been moved. -/
def LeavesPath (s : State) (acc : Acc) (x : Xmit) : Prop := (s.xmitStep acc x).1 = none

/-- R268: a member's contribution on its way to every other package of its launch's pod group. -/
def SentToPeers (s t : State) (k : Nat) (l : Launch) (m : CollMember) (data : List (Byte × Bool)) : Prop :=
  ∀ g n, l.pod = some (g, n) → ∀ p ∈ s.podPeers l, ∃ x ∈ t.podOut, x.2.dst = p ∧
    x.2.body = .contribution g n (k / 2 ^ 32 % 128) (k % 2 ^ 32) m.rank ⟨m.f.op, m.f.ty, m.f.len, data⟩ ∧ ∃ w ∈ t.posted, w.uid = x.2.uid ∧ w.cmd = m.uid

end Sys2Proof.Claims

/-- R156 to R163, R167 to R169, R268, R269, R280, R310 to R312: a request that arrives alone is admitted on the lowest free circuit, or refused with its code, its
result and its counters; a transfer moves up to 64 bytes on each of its clocks, and completes with its signal, or with its fault; a member of a collective
sends its contribution, to other packages too, and completes with the result; its stall is told, by the package whose engine holds the contributions; a BLAT's
bytes land. The model's choices are the one message with a whole contribution (log 94), the 64 bytes a clock with the landing clocks (log 1), and the edge cases of
a collective (log 64). -/
def Obligations.SharedEngineEvents : Prop :=
  (∀ (s : State) (eng : Nat) (q : Req), (s.getEng eng).reqs.filter (fun r => r.atClk ≤ s.clock) = [q] →
    let g := (s.getEng eng).release s.clock
    let free := (List.range (if eng < 128 then 2 else 4)).filter fun i => (SMap.get none g.circ i).isNone
    let a := agedNow s q
    let few := free.length < if 1 ≤ q.i && !a then 2 else 1
    ∃ t, exec (.engineArbitration eng) s = .next t ∧ t.mem = s.mem ∧ (∀ k ≠ eng, t.getEng k = s.getEng k) ∧
      (t.getEng eng).reqs = (s.getEng eng).reqs.filter (fun r => s.clock < r.atClk) ∧
      (q.barred = true → AnsweredReq s t eng q 0 8 (q.i + 1) (((s.awaiting q.uid).map (·.aged)).getD false) ∧
        (t.getEng eng).fc = (s.getEng eng).fc ∧ (t.getEng eng).alt = (s.getEng eng).alt) ∧
      (q.barred = false → few → AnsweredReq s t eng q 0 (if free = [] then 8 else 9) (q.i + 1) a ∧ (t.getEng eng).circ = g.circ ∧
        (t.getEng eng).fc = (if q.i = 0 then Nat.min (2 ^ 24 - 1) ((s.getEng eng).fc + 1) else (s.getEng eng).fc) ∧
        (t.getEng eng).alt = (if q.i = 0 then (s.getEng eng).alt else Nat.min (2 ^ 24 - 1) ((s.getEng eng).alt + 1)) ∧
        (t.getCore (ckCore q.ck)).szref = Nat.min (2 ^ 32 - 1) ((s.getCore (ckCore q.ck)).szref + 1)) ∧
      (q.barred = false → ¬few → q.coll = none → (s.getEng eng).recv ≤ 2 ^ 19 →
        ∀ n, free.head? = some n → AnsweredReq s t eng q n (if q.i = 0 then 0 else 1) q.i a ∧
          (t.getEng eng).ptr = ((if eng < 128 then ckCol q.ck % 4 else ckCol q.ck) + 1) % (if eng < 128 then 4 else 32) ∧
          ((∃ x ∈ s.cd, ∃ p ∈ x.2.pend, p.uid = q.uid) → ∃ c, SMap.get none (t.getEng eng).circ n = some c ∧ c.ck = q.ck ∧ c.coll = none ∧
            (isHold q.op = true → c.xs = [] ∧ c.freeAt = none) ∧
            (isHold q.op = false → c.xs.map (·.uid) = [q.uid] ∧ c.freeAt = some 0)))) ∧
  (∀ (s : State) (eng circ : Nat) (c : Circ) (x : Xmit) (l : List Xmit), SMap.get none (s.getEng eng).circ circ = some c → c.xs = x :: l →
    ∃ t, exec (.sharedTransferComplete eng circ) s = .next t ∧ Completes s t x ∧
      (Moving s (engKindAcc eng) x → Transfers s t (engKindAcc eng) x ((SMap.get none (t.getEng eng).circ circ).bind fun c => c.xs.head?)) ∧
      (LeavesPath s (engKindAcc eng) x → l ≠ [] → ∃ c', SMap.get none (t.getEng eng).circ circ = some c' ∧ c'.ck = c.ck ∧ c'.xs.map (·.uid) = l.map (·.uid)) ∧
      (LeavesPath s (engKindAcc eng) x → l = [] → c.coll = none → c.freeAt = some 0 →
        (∃ pre post, (s.getEng eng).circ = pre ++ (circ, some c) :: post ∧ (∀ y ∈ pre, y.1 < circ) ∧ ∀ y ∈ post, y.1 ≠ circ) →
        SMap.get none (t.getEng eng).circ circ = none)) ∧
  (∀ (s : State) (core : Nat) (x : Xmit) (l : List Xmit), (s.getCore core).direct = x :: l → x.coll = none →
    ∃ t, exec (.directTransferComplete core) s = .next t ∧ Completes s t x ∧ (Moving s .cp x → Transfers s t .cp x (t.getCore core).direct.head?) ∧
      (LeavesPath s .cp x → (t.getCore core).direct.map (·.uid) = l.map (·.uid))) ∧
  (∀ (s : State) (k rank : Nat) (data : Contrib) (l : Launch) (c : Coll), s.launch? (keyLaunch k) = some l → s.coll? k = some c →
    (c.member rank = none → rank < s.collM l →
      (let lo := s.extMembers l fun x => x < s.pkgNum
       rank < lo ∨ lo + l.ownMembers ≤ rank) →
      ∃ t, exec (.collContributionArrives k rank data) s = .next t ∧ { t with colls := s.colls } = s ∧ ∃ m, t.coll? k = some { c with
        members := c.members ++ [m] } ∧ m.rank = rank ∧ m.ext = true ∧ m.bytes = some data.data ∧ m.f.op = data.op ∧ m.f.ty = data.ty ∧ m.f.len = data.len) ∧
    (∀ m r ck, c.member rank = some m → c.member 0 = some r → s.memberCk c m = some ck → m.ext = false → m.bytes = none → s.maySend k ck m = true →
      (m.agrees r = false → (∀ p ∈ s.podPeers l, s.route p (64 * rank) ≠ none) → ∃ t m', exec (.collContributionArrives k rank data) s = .next t ∧ (t.coll? k).bind (·.member rank) = some m' ∧
        m'.bad = true ∧ m'.bytes = some c.identity ∧ t.mem = s.mem ∧ Told s t ck m.uid { code := 2, r1 := m.bundle }) ∧
      ∀ d s1, m.agrees r = true → (m.f.op ≠ 0 ∨ m.rank = 0) → s.engReadN ck m.acc m.uid m.saddr.toNat m.f.len.toNat = (.ok d, s1) →
        (∀ p ∈ s1.podPeers l, s1.route p (64 * rank) ≠ none) → ∃ t m', exec (.collContributionArrives k rank data) s = .next t ∧ (t.coll? k).bind (·.member rank) = some m' ∧
          m'.bad = false ∧ m'.bytes = some d ∧ m'.since = s1.clock ∧ t.mem = s1.mem ∧
          (d ≠ [] → SentToPeers s1 t k l m d)) ∧
    (∀ m ck, c.member rank = some m → s.memberCk c m = some ck → m.ext = false → m.complete = false → m.bad = false → c.partDone l.ownMembers m = true →
      (∀ p ∈ s.posted, p.cmd ≠ m.uid) →
      let res := collResult m.f.op.toNat m.f.ty (c.inputs m.m)
      let ps := pieces64 (res.length / 64 + 2) m.daddr.toNat res.length
      let done := fun (t : State) => t.coll? k = none ∨ ∃ m', (t.coll? k).bind (·.member rank) = some m' ∧ m'.complete = true
      ∃ t, exec (.collMemberComplete k rank) s = .next t ∧
        (∀ l s1, s.engWrFaults ck m.acc ps = (.ok l, s1) → done t ∧
          t.mem = (s1.engWriteAll ck m.acc (lostRec m.bundle 0 0) { cmd := m.uid, sem := (enHdr m.op).sigSem.toNat } ps res).mem) ∧
        ∀ s1 f va, s.engWrFaults ck m.acc ps = (.fault f va, s1) → done t ∧ t.mem = s1.mem ∧
          Told s1 t ck m.uid (engRec f va m.bundle.toNat 0 0 0)) ∧
    (∀ st at_ h d, s.waitState c rank = some (st, at_) → h ∈ c.members →
      (st = 0 → h.ext = false ∧ h.direct = false ∧ h.complete = false ∧ (s.ownRank l rank = true ∨ ∃ p ∈ s.posted, p.cmd = h.uid)) →
      (st ≠ 0 → ∃ w, c.member rank = some w ∧ 128 ≤ w.eng) → h.bytes = some d → d ≠ [] → h.rank ≠ rank → (s.getPart l.part).collstall ≠ 0 → Nat.max h.since at_ + (s.getPart l.part).collstall.toNat ≤ s.clock → rank ∉ c.told → rank < s.collM l →
      ∃ t rec, exec (.collStallEvent k rank) s = .next t ∧ t.events = s.events ++ [.collStall rec] ∧ rec.take 3 = leBytes 2 0x0031 ++ leBytes 1 st ∧
        { t with events := s.events, colls := s.colls } = s ∧ ∃ c', t.coll? k = some c' ∧ rank ∈ c'.told ∧ c'.members = c.members)) ∧
  (∀ (s : State) (core : Nat) (w : BlatW), (s.getCore core).blat.filter (fun w => w.due ≤ s.clock) = [w] → w.data.length ≤ 128 → w.passed = [] →
    ∃ t, exec (.blatWriteLands core) s = .next t ∧ t.readBytes w.loc w.data.length = w.data.map Prod.fst ∧
      (∀ a, a < w.loc ∨ w.loc + w.data.length ≤ a → t.readByte a = s.readByte a) ∧ t.cd = s.cd ∧ t.cc = s.cc ∧
      Signals s t core w.sigSem w.sigInc ∧ (t.getCore core).blat = (s.getCore core).blat.filter fun w => s.clock < w.due)

namespace Sys2Proof.Claims

/-- A control word written out: each field's lowest bit and its value. -/
def wordOf (l : List (Nat × Nat)) : BitVec 256 := BitVec.ofNat 256 (l.foldl (fun a x => a + x.2 * 2 ^ x.1) 0)

/-- The header of a control word with DM 0x0F, WAITSEM 2, WAITTH 100, SIGSEM 3 and SIGINC −1 (R59), and those bits. -/
def hdr1 : Hdr := ⟨0x0F#8, 0#3, false, 2#8, 100#24, 3#8, 0xFF#8⟩
def hdrBits : List (Nat × Nat) := [(16, 0x0F), (32, 2), (40, 100), (64, 3), (72, 0xFF)]

end Sys2Proof.Claims

/-- R59 to R74: words written out bit by bit from the encodings of the spec decode to the operations for which they stand, one of each class; a reserved
bit, a reserved class, an unused opcode and another format are refused with their causes (R76). -/
def Obligations.DecodingWords : Prop :=
  decode (wordOf (hdrBits ++ [(4, 0x01), (12, 1), (80, 5), (91, 6), (102, 7), (134, 0xC)])) =
    .ok (.add hdr1 ⟨0#8, .b, .i64, 0#2, .none, .zero, .of 7, .of 6, .of 5⟩) ∧
  decode (wordOf (hdrBits ++ [(4, 0x02), (12, 2), (80, 2), (91, 3), (102, 0xC), (128, 2 ^ 64 - 1)])) =
    .ok (.addi hdr1 ⟨0xFFFFFFFFFFFFFFFF#64, .none, .i64, .of 3, .of 2⟩) ∧
  decode (wordOf (hdrBits ++ [(4, 0x19), (12, 3), (80, 4), (91, 9), (113, 0xB), (160, 64)])) =
    .ok (.ld hdr1 ⟨0#32, 0#32, 64#32, 0#3, 0#8, false, .none, .n32, .zero, .of 9, .of 4⟩) ∧
  decode (wordOf (hdrBits ++ [(0, 1), (4, 0x02), (12, 4), (80, 3), (84, 1), (128, 2 ^ 32 - 4)])) =
    .ok (.brc hdr1 ⟨0#16, 0xFFFFFFFC#32, .zero, true, false, 3#3⟩) ∧
  decode (wordOf (hdrBits ++ [(0, 2), (4, 0x02), (12, 7), (80, 1), (102, 2), (104, 3), (106, 2), (110, 2), (176, 128), (208, 64)])) =
    .ok (.mmul hdr1 ⟨0#32, 64#14, 0#16, 128#16, 0#24, 0#24, false, .h16, .h16, 3#2, 2#2, .zero, .of 1⟩) ∧
  decode (wordOf (hdrBits ++ [(0, 4), (4, 0x01), (12, 8), (80, 1), (91, 2), (102, 3), (113, 4), (116, 1), (119, 2), (160, 64)])) =
    .ok (.seize hdr1 ⟨0#24, 0#24, 0#24, 64#24, false, 0#4, .b, 0#4, 2#15, 1#3, 4#3, .of 3, .of 2, .of 1⟩) ∧
  decode (wordOf (hdrBits ++ [(0, 5), (4, 0x02), (12, 9), (80, 1), (82, 2), (84, 3)])) =
    .ok (.emax hdr1 ⟨0#32, .zero, .none, .zero, .zero, .zero, 3#2, 2#2, 1#2⟩) ∧
  decode (wordOf (hdrBits ++ [(0, 7), (4, 0x02), (12, 5), (80, 9), (88, 5)])) =
    .ok (.wsem hdr1 ⟨0#64, .zero, .zero, 0#4, 0#4, 0#3, 5#24, 9#8⟩) ∧
  decode (wordOf (hdrBits ++ [(0, 8), (4, 0x01), (12, 1), (29, 1), (80, 80), (91, 81), (102, 82), (124, 9), (130, 1), (131, 1), (134, 8)])) =
    .ok (.vadd { hdr1 with group := 1#3 } ⟨0#8, .b, .i32, 0#2, ⟨true, true, 9#6⟩, .zero, .of 82, .of 81, .of 80⟩) ∧
  decode (wordOf (hdrBits ++ [(0, 9), (4, 0x01), (12, 3), (80, 3), (91, 2), (113, 1)])) =
    .ok (.vld hdr1 ⟨0#32, 0#32, 0#32, 0#3, 0#8, false, .none, .f32, .zero, .of 2, .of 3⟩) ∧
  decode (wordOf [(16, 0xFF)]) = .ok (.nop .plain 0#4) ∧
  decode (wordOf [(16, 0xFF), (24, 1)]) = .error 1 ∧ decode (wordOf [(0, 0xA)]) = .error 2 ∧ decode (wordOf [(12, 0xA)]) = .error 3 ∧
  decode (wordOf [(4, 0x01), (12, 2)]) = .error 4 ∧ decode (wordOf [(4, 0x7F), (12, 1)]) = .error 5

/-! ### Statements put together -/

/-- R41, R302, R303, R331: the scalar operations on S registers and immediates, but for the shifts and counts, issue and leave their result, with their
latency, in their register or flag; with their frame: nothing else changes. -/
def Obligations.ScalarOperations : Prop := Sys2Proof.Claims.ScalarLogic ∧ Sys2Proof.Claims.ScalarMultiplyDivide ∧ Sys2Proof.Claims.ScalarImmediate ∧ Sys2Proof.Claims.CompareSelect

/-- R40, R302, R331, R355, R368: the shifts and counts of both classes, and VABS, VNEG, VMOV and VMOVI, with their latencies and their frame. -/
def Obligations.ShiftsAndCounts : Prop := Sys2Proof.Claims.ScalarShiftCount ∧ Sys2Proof.Claims.VectorShiftMove

/-- R353, R355, R356, R368, R369: the other vector integer operations, element by element under the lane predicate, with their latency and their frame. -/
def Obligations.VectorInteger : Prop := Sys2Proof.Claims.VectorArithmetic ∧ Sys2Proof.Claims.VectorCompareSelect ∧ Sys2Proof.Claims.VectorPermute

/-- R373, R376: the reductions, over lanes and over groups, and the copies across groups. -/
def Obligations.ReduceAndCrossGroup : Prop := Sys2Proof.Claims.VectorReduce ∧ Sys2Proof.Claims.CrossGroup

/-- R29, R37: rounding leaves what a format holds as it is; NaNs are canonical. -/
def Obligations.FloatBasics : Prop := Sys2Proof.Claims.FloatRoundExact ∧ Sys2Proof.Claims.FloatNan

/-- R335: the predicate operations, with their frame. -/
def Obligations.PredicateOperations : Prop := Sys2Proof.Claims.PredicateLogic ∧ Sys2Proof.Claims.PredicateCount

/-- R126, R220, R300: what a store leaves of memory, and what a context reads through its blotter. -/
def Obligations.BytesStored : Prop := Sys2Proof.Claims.StoredBytes ∧ Sys2Proof.Claims.WithheldBytes

/-- R128, R129, R131, R153, R313, R314: CPY, CPYG and CPCHK issue, or meet a full channel. -/
def Obligations.CopyIssue : Prop := Sys2Proof.Claims.CopyCommands ∧ Sys2Proof.Claims.CopyChannelFull

/-- R137, R142, R340, R343, R344: SPXGO, SHAPE and SPXCFG issue. -/
def Obligations.SparseAndRecords : Prop := Sys2Proof.Claims.SparseGo ∧ Sys2Proof.Claims.Records

/-- R129, R316, R338: SBIND and CPDRAIN, and what a drained channel is. -/
def Obligations.BindAndDrainChannels : Prop := Sys2Proof.Claims.BindAndDrain ∧ Sys2Proof.Claims.ChannelDrained

/-- R108, R109: TLOOK, TSET, TDROP and TDROP.all, and the changes of the table. -/
def Obligations.TagTableOperations : Prop := Sys2Proof.Claims.TagOperations ∧ Sys2Proof.Claims.TagTable

/-- R220, R363 to R366: VLD, VLDS, VGATH, VST and VSCAT. -/
def Obligations.VectorMemory : Prop := Sys2Proof.Claims.VectorLoad ∧ Sys2Proof.Claims.VectorStore

/-- R172, R176 to R184: every operation of class EV issues. -/
def Obligations.EnvelopeOperations : Prop := Sys2Proof.Claims.EnvelopeCommands ∧ Sys2Proof.Claims.EnvelopeReads

/-- R62, R101, R193, R198, R323, R326, R341, R374: SIG, WSEM, FENCE, ETRIG and GRAB. -/
def Obligations.SemaphoresFencesGrab : Prop := Sys2Proof.Claims.SignalsAndFences ∧ Sys2Proof.Claims.GrabRequest
end

