-- ==== Sys2Proof/Laws/State.lean ====
section
/-! SUPPORT. What each update of the state changes: one lemma per update and field, so that no proof unfolds a record update. -/

-- One declaration is checked after the other, so that few threads are in use at a time.
set_option Elab.async false

namespace Sys2Proof.Machine

variable (s : State) (k : Nat)

/-! ### setCore -/

@[simp] theorem State.setCore_clock (x : Core) : (s.setCore k x).clock = s.clock := rfl
@[simp] theorem State.setCore_phase (x : Core) : (s.setCore k x).phase = s.phase := rfl
@[simp] theorem State.setCore_issueCol (x : Core) : (s.setCore k x).issueCol = s.issueCol := rfl
@[simp] theorem State.setCore_inbox (x : Core) : (s.setCore k x).inbox = s.inbox := rfl
@[simp] theorem State.setCore_cur (x : Core) : (s.setCore k x).cur = s.cur := rfl
@[simp] theorem State.setCore_att (x : Core) : (s.setCore k x).att = s.att := rfl
@[simp] theorem State.setCore_freeCtr (x : Core) : (s.setCore k x).freeCtr = s.freeCtr := rfl
@[simp] theorem State.setCore_uid (x : Core) : (s.setCore k x).uid = s.uid := rfl
@[simp] theorem State.setCore_cd (x : Core) : (s.setCore k x).cd = s.cd := rfl
@[simp] theorem State.setCore_cc (x : Core) : (s.setCore k x).cc = s.cc := rfl
@[simp] theorem State.setCore_col (x : Core) : (s.setCore k x).col = s.col := rfl
@[simp] theorem State.setCore_quad (x : Core) : (s.setCore k x).quad = s.quad := rfl
@[simp] theorem State.setCore_eng (x : Core) : (s.setCore k x).eng = s.eng := rfl
@[simp] theorem State.setCore_die (x : Core) : (s.setCore k x).die = s.die := rfl
@[simp] theorem State.setCore_mem (x : Core) : (s.setCore k x).mem = s.mem := rfl
@[simp] theorem State.setCore_poison (x : Core) : (s.setCore k x).poison = s.poison := rfl
@[simp] theorem State.setCore_lost (x : Core) : (s.setCore k x).lost = s.lost := rfl
@[simp] theorem State.setCore_sockets (x : Core) : (s.setCore k x).sockets = s.sockets := rfl
@[simp] theorem State.setCore_boot (x : Core) : (s.setCore k x).boot = s.boot := rfl
@[simp] theorem State.setCore_start (x : Core) : (s.setCore k x).start = s.start := rfl
@[simp] theorem State.setCore_ivStacks (x : Core) : (s.setCore k x).ivStacks = s.ivStacks := rfl
@[simp] theorem State.setCore_queues (x : Core) : (s.setCore k x).queues = s.queues := rfl
@[simp] theorem State.setCore_feLast (x : Core) : (s.setCore k x).feLast = s.feLast := rfl
@[simp] theorem State.setCore_launches (x : Core) : (s.setCore k x).launches = s.launches := rfl
@[simp] theorem State.setCore_nextLaunch (x : Core) : (s.setCore k x).nextLaunch = s.nextLaunch := rfl
@[simp] theorem State.setCore_swaps (x : Core) : (s.setCore k x).swaps = s.swaps := rfl
@[simp] theorem State.setCore_nextSwap (x : Core) : (s.setCore k x).nextSwap = s.nextSwap := rfl
@[simp] theorem State.setCore_ranges (x : Core) : (s.setCore k x).ranges = s.ranges := rfl
@[simp] theorem State.setCore_grabs (x : Core) : (s.setCore k x).grabs = s.grabs := rfl
@[simp] theorem State.setCore_barriers (x : Core) : (s.setCore k x).barriers = s.barriers := rfl
@[simp] theorem State.setCore_colls (x : Core) : (s.setCore k x).colls = s.colls := rfl
@[simp] theorem State.setCore_contracts (x : Core) : (s.setCore k x).contracts = s.contracts := rfl
@[simp] theorem State.setCore_parts (x : Core) : (s.setCore k x).parts = s.parts := rfl
@[simp] theorem State.setCore_mgmt (x : Core) : (s.setCore k x).mgmt = s.mgmt := rfl
@[simp] theorem State.setCore_apprcmd (x : Core) : (s.setCore k x).apprcmd = s.apprcmd := rfl
@[simp] theorem State.setCore_evbase (x : Core) : (s.setCore k x).evbase = s.evbase := rfl
@[simp] theorem State.setCore_attpend (x : Core) : (s.setCore k x).attpend = s.attpend := rfl
@[simp] theorem State.setCore_attverd (x : Core) : (s.setCore k x).attverd = s.attverd := rfl
@[simp] theorem State.setCore_repctl (x : Core) : (s.setCore k x).repctl = s.repctl := rfl
@[simp] theorem State.setCore_repcmd (x : Core) : (s.setCore k x).repcmd = s.repcmd := rfl
@[simp] theorem State.setCore_repLog (x : Core) : (s.setCore k x).repLog = s.repLog := rfl
@[simp] theorem State.setCore_repair (x : Core) : (s.setCore k x).repair = s.repair := rfl
@[simp] theorem State.setCore_repDue (x : Core) : (s.setCore k x).repDue = s.repDue := rfl
@[simp] theorem State.setCore_podform (x : Core) : (s.setCore k x).podform = s.podform := rfl
@[simp] theorem State.setCore_links (x : Core) : (s.setCore k x).links = s.links := rfl
@[simp] theorem State.setCore_podrt (x : Core) : (s.setCore k x).podrt = s.podrt := rfl
@[simp] theorem State.setCore_podspc (x : Core) : (s.setCore k x).podspc = s.podspc := rfl
@[simp] theorem State.setCore_podgrp (x : Core) : (s.setCore k x).podgrp = s.podgrp := rfl
@[simp] theorem State.setCore_podOut (x : Core) : (s.setCore k x).podOut = s.podOut := rfl
@[simp] theorem State.setCore_podIn (x : Core) : (s.setCore k x).podIn = s.podIn := rfl
@[simp] theorem State.setCore_posted (x : Core) : (s.setCore k x).posted = s.posted := rfl
@[simp] theorem State.setCore_engPod (x : Core) : (s.setCore k x).engPod = s.engPod := rfl
@[simp] theorem State.setCore_amoLeft (x : Core) : (s.setCore k x).amoLeft = s.amoLeft := rfl
@[simp] theorem State.setCore_comps (x : Core) : (s.setCore k x).comps = s.comps := rfl
@[simp] theorem State.setCore_migsrc (x : Core) : (s.setCore k x).migsrc = s.migsrc := rfl
@[simp] theorem State.setCore_migdst (x : Core) : (s.setCore k x).migdst = s.migdst := rfl
@[simp] theorem State.setCore_miglen (x : Core) : (s.setCore k x).miglen = s.miglen := rfl
@[simp] theorem State.setCore_migctl (x : Core) : (s.setCore k x).migctl = s.migctl := rfl
@[simp] theorem State.setCore_pcnt (x : Core) : (s.setCore k x).pcnt = s.pcnt := rfl
@[simp] theorem State.setCore_migDue (x : Core) : (s.setCore k x).migDue = s.migDue := rfl
@[simp] theorem State.setCore_pastRef (x : Core) : (s.setCore k x).pastRef = s.pastRef := rfl
@[simp] theorem State.setCore_events (x : Core) : (s.setCore k x).events = s.events := rfl
@[simp] theorem State.setCore_traceQ (x : Core) : (s.setCore k x).traceQ = s.traceQ := rfl

/-! ### setCc -/

@[simp] theorem State.setCc_clock (x : ColCtx) : (s.setCc k x).clock = s.clock := rfl
@[simp] theorem State.setCc_phase (x : ColCtx) : (s.setCc k x).phase = s.phase := rfl
@[simp] theorem State.setCc_issueCol (x : ColCtx) : (s.setCc k x).issueCol = s.issueCol := rfl
@[simp] theorem State.setCc_inbox (x : ColCtx) : (s.setCc k x).inbox = s.inbox := rfl
@[simp] theorem State.setCc_cur (x : ColCtx) : (s.setCc k x).cur = s.cur := rfl
@[simp] theorem State.setCc_att (x : ColCtx) : (s.setCc k x).att = s.att := rfl
@[simp] theorem State.setCc_freeCtr (x : ColCtx) : (s.setCc k x).freeCtr = s.freeCtr := rfl
@[simp] theorem State.setCc_uid (x : ColCtx) : (s.setCc k x).uid = s.uid := rfl
@[simp] theorem State.setCc_cd (x : ColCtx) : (s.setCc k x).cd = s.cd := rfl
@[simp] theorem State.setCc_core (x : ColCtx) : (s.setCc k x).core = s.core := rfl
@[simp] theorem State.setCc_col (x : ColCtx) : (s.setCc k x).col = s.col := rfl
@[simp] theorem State.setCc_quad (x : ColCtx) : (s.setCc k x).quad = s.quad := rfl
@[simp] theorem State.setCc_eng (x : ColCtx) : (s.setCc k x).eng = s.eng := rfl
@[simp] theorem State.setCc_die (x : ColCtx) : (s.setCc k x).die = s.die := rfl
@[simp] theorem State.setCc_mem (x : ColCtx) : (s.setCc k x).mem = s.mem := rfl
@[simp] theorem State.setCc_poison (x : ColCtx) : (s.setCc k x).poison = s.poison := rfl
@[simp] theorem State.setCc_lost (x : ColCtx) : (s.setCc k x).lost = s.lost := rfl
@[simp] theorem State.setCc_sockets (x : ColCtx) : (s.setCc k x).sockets = s.sockets := rfl
@[simp] theorem State.setCc_boot (x : ColCtx) : (s.setCc k x).boot = s.boot := rfl
@[simp] theorem State.setCc_start (x : ColCtx) : (s.setCc k x).start = s.start := rfl
@[simp] theorem State.setCc_ivStacks (x : ColCtx) : (s.setCc k x).ivStacks = s.ivStacks := rfl
@[simp] theorem State.setCc_queues (x : ColCtx) : (s.setCc k x).queues = s.queues := rfl
@[simp] theorem State.setCc_feLast (x : ColCtx) : (s.setCc k x).feLast = s.feLast := rfl
@[simp] theorem State.setCc_launches (x : ColCtx) : (s.setCc k x).launches = s.launches := rfl
@[simp] theorem State.setCc_nextLaunch (x : ColCtx) : (s.setCc k x).nextLaunch = s.nextLaunch := rfl
@[simp] theorem State.setCc_swaps (x : ColCtx) : (s.setCc k x).swaps = s.swaps := rfl
@[simp] theorem State.setCc_nextSwap (x : ColCtx) : (s.setCc k x).nextSwap = s.nextSwap := rfl
@[simp] theorem State.setCc_ranges (x : ColCtx) : (s.setCc k x).ranges = s.ranges := rfl
@[simp] theorem State.setCc_grabs (x : ColCtx) : (s.setCc k x).grabs = s.grabs := rfl
@[simp] theorem State.setCc_barriers (x : ColCtx) : (s.setCc k x).barriers = s.barriers := rfl
@[simp] theorem State.setCc_colls (x : ColCtx) : (s.setCc k x).colls = s.colls := rfl
@[simp] theorem State.setCc_contracts (x : ColCtx) : (s.setCc k x).contracts = s.contracts := rfl
@[simp] theorem State.setCc_parts (x : ColCtx) : (s.setCc k x).parts = s.parts := rfl
@[simp] theorem State.setCc_mgmt (x : ColCtx) : (s.setCc k x).mgmt = s.mgmt := rfl
@[simp] theorem State.setCc_apprcmd (x : ColCtx) : (s.setCc k x).apprcmd = s.apprcmd := rfl
@[simp] theorem State.setCc_evbase (x : ColCtx) : (s.setCc k x).evbase = s.evbase := rfl
@[simp] theorem State.setCc_attpend (x : ColCtx) : (s.setCc k x).attpend = s.attpend := rfl
@[simp] theorem State.setCc_attverd (x : ColCtx) : (s.setCc k x).attverd = s.attverd := rfl
@[simp] theorem State.setCc_repctl (x : ColCtx) : (s.setCc k x).repctl = s.repctl := rfl
@[simp] theorem State.setCc_repcmd (x : ColCtx) : (s.setCc k x).repcmd = s.repcmd := rfl
@[simp] theorem State.setCc_repLog (x : ColCtx) : (s.setCc k x).repLog = s.repLog := rfl
@[simp] theorem State.setCc_repair (x : ColCtx) : (s.setCc k x).repair = s.repair := rfl
@[simp] theorem State.setCc_repDue (x : ColCtx) : (s.setCc k x).repDue = s.repDue := rfl
@[simp] theorem State.setCc_podform (x : ColCtx) : (s.setCc k x).podform = s.podform := rfl
@[simp] theorem State.setCc_links (x : ColCtx) : (s.setCc k x).links = s.links := rfl
@[simp] theorem State.setCc_podrt (x : ColCtx) : (s.setCc k x).podrt = s.podrt := rfl
@[simp] theorem State.setCc_podspc (x : ColCtx) : (s.setCc k x).podspc = s.podspc := rfl
@[simp] theorem State.setCc_podgrp (x : ColCtx) : (s.setCc k x).podgrp = s.podgrp := rfl
@[simp] theorem State.setCc_podOut (x : ColCtx) : (s.setCc k x).podOut = s.podOut := rfl
@[simp] theorem State.setCc_podIn (x : ColCtx) : (s.setCc k x).podIn = s.podIn := rfl
@[simp] theorem State.setCc_posted (x : ColCtx) : (s.setCc k x).posted = s.posted := rfl
@[simp] theorem State.setCc_engPod (x : ColCtx) : (s.setCc k x).engPod = s.engPod := rfl
@[simp] theorem State.setCc_amoLeft (x : ColCtx) : (s.setCc k x).amoLeft = s.amoLeft := rfl
@[simp] theorem State.setCc_comps (x : ColCtx) : (s.setCc k x).comps = s.comps := rfl
@[simp] theorem State.setCc_migsrc (x : ColCtx) : (s.setCc k x).migsrc = s.migsrc := rfl
@[simp] theorem State.setCc_migdst (x : ColCtx) : (s.setCc k x).migdst = s.migdst := rfl
@[simp] theorem State.setCc_miglen (x : ColCtx) : (s.setCc k x).miglen = s.miglen := rfl
@[simp] theorem State.setCc_migctl (x : ColCtx) : (s.setCc k x).migctl = s.migctl := rfl
@[simp] theorem State.setCc_pcnt (x : ColCtx) : (s.setCc k x).pcnt = s.pcnt := rfl
@[simp] theorem State.setCc_migDue (x : ColCtx) : (s.setCc k x).migDue = s.migDue := rfl
@[simp] theorem State.setCc_pastRef (x : ColCtx) : (s.setCc k x).pastRef = s.pastRef := rfl
@[simp] theorem State.setCc_events (x : ColCtx) : (s.setCc k x).events = s.events := rfl
@[simp] theorem State.setCc_traceQ (x : ColCtx) : (s.setCc k x).traceQ = s.traceQ := rfl

/-! ### setCol -/

@[simp] theorem State.setCol_clock (x : Column) : (s.setCol k x).clock = s.clock := rfl
@[simp] theorem State.setCol_phase (x : Column) : (s.setCol k x).phase = s.phase := rfl
@[simp] theorem State.setCol_issueCol (x : Column) : (s.setCol k x).issueCol = s.issueCol := rfl
@[simp] theorem State.setCol_inbox (x : Column) : (s.setCol k x).inbox = s.inbox := rfl
@[simp] theorem State.setCol_cur (x : Column) : (s.setCol k x).cur = s.cur := rfl
@[simp] theorem State.setCol_att (x : Column) : (s.setCol k x).att = s.att := rfl
@[simp] theorem State.setCol_freeCtr (x : Column) : (s.setCol k x).freeCtr = s.freeCtr := rfl
@[simp] theorem State.setCol_uid (x : Column) : (s.setCol k x).uid = s.uid := rfl
@[simp] theorem State.setCol_cd (x : Column) : (s.setCol k x).cd = s.cd := rfl
@[simp] theorem State.setCol_cc (x : Column) : (s.setCol k x).cc = s.cc := rfl
@[simp] theorem State.setCol_core (x : Column) : (s.setCol k x).core = s.core := rfl
@[simp] theorem State.setCol_quad (x : Column) : (s.setCol k x).quad = s.quad := rfl
@[simp] theorem State.setCol_eng (x : Column) : (s.setCol k x).eng = s.eng := rfl
@[simp] theorem State.setCol_die (x : Column) : (s.setCol k x).die = s.die := rfl
@[simp] theorem State.setCol_mem (x : Column) : (s.setCol k x).mem = s.mem := rfl
@[simp] theorem State.setCol_poison (x : Column) : (s.setCol k x).poison = s.poison := rfl
@[simp] theorem State.setCol_lost (x : Column) : (s.setCol k x).lost = s.lost := rfl
@[simp] theorem State.setCol_sockets (x : Column) : (s.setCol k x).sockets = s.sockets := rfl
@[simp] theorem State.setCol_boot (x : Column) : (s.setCol k x).boot = s.boot := rfl
@[simp] theorem State.setCol_start (x : Column) : (s.setCol k x).start = s.start := rfl
@[simp] theorem State.setCol_ivStacks (x : Column) : (s.setCol k x).ivStacks = s.ivStacks := rfl
@[simp] theorem State.setCol_queues (x : Column) : (s.setCol k x).queues = s.queues := rfl
@[simp] theorem State.setCol_feLast (x : Column) : (s.setCol k x).feLast = s.feLast := rfl
@[simp] theorem State.setCol_launches (x : Column) : (s.setCol k x).launches = s.launches := rfl
@[simp] theorem State.setCol_nextLaunch (x : Column) : (s.setCol k x).nextLaunch = s.nextLaunch := rfl
@[simp] theorem State.setCol_swaps (x : Column) : (s.setCol k x).swaps = s.swaps := rfl
@[simp] theorem State.setCol_nextSwap (x : Column) : (s.setCol k x).nextSwap = s.nextSwap := rfl
@[simp] theorem State.setCol_ranges (x : Column) : (s.setCol k x).ranges = s.ranges := rfl
@[simp] theorem State.setCol_grabs (x : Column) : (s.setCol k x).grabs = s.grabs := rfl
@[simp] theorem State.setCol_barriers (x : Column) : (s.setCol k x).barriers = s.barriers := rfl
@[simp] theorem State.setCol_colls (x : Column) : (s.setCol k x).colls = s.colls := rfl
@[simp] theorem State.setCol_contracts (x : Column) : (s.setCol k x).contracts = s.contracts := rfl
@[simp] theorem State.setCol_parts (x : Column) : (s.setCol k x).parts = s.parts := rfl
@[simp] theorem State.setCol_mgmt (x : Column) : (s.setCol k x).mgmt = s.mgmt := rfl
@[simp] theorem State.setCol_apprcmd (x : Column) : (s.setCol k x).apprcmd = s.apprcmd := rfl
@[simp] theorem State.setCol_evbase (x : Column) : (s.setCol k x).evbase = s.evbase := rfl
@[simp] theorem State.setCol_attpend (x : Column) : (s.setCol k x).attpend = s.attpend := rfl
@[simp] theorem State.setCol_attverd (x : Column) : (s.setCol k x).attverd = s.attverd := rfl
@[simp] theorem State.setCol_repctl (x : Column) : (s.setCol k x).repctl = s.repctl := rfl
@[simp] theorem State.setCol_repcmd (x : Column) : (s.setCol k x).repcmd = s.repcmd := rfl
@[simp] theorem State.setCol_repLog (x : Column) : (s.setCol k x).repLog = s.repLog := rfl
@[simp] theorem State.setCol_repair (x : Column) : (s.setCol k x).repair = s.repair := rfl
@[simp] theorem State.setCol_repDue (x : Column) : (s.setCol k x).repDue = s.repDue := rfl
@[simp] theorem State.setCol_podform (x : Column) : (s.setCol k x).podform = s.podform := rfl
@[simp] theorem State.setCol_links (x : Column) : (s.setCol k x).links = s.links := rfl
@[simp] theorem State.setCol_podrt (x : Column) : (s.setCol k x).podrt = s.podrt := rfl
@[simp] theorem State.setCol_podspc (x : Column) : (s.setCol k x).podspc = s.podspc := rfl
@[simp] theorem State.setCol_podgrp (x : Column) : (s.setCol k x).podgrp = s.podgrp := rfl
@[simp] theorem State.setCol_podOut (x : Column) : (s.setCol k x).podOut = s.podOut := rfl
@[simp] theorem State.setCol_podIn (x : Column) : (s.setCol k x).podIn = s.podIn := rfl
@[simp] theorem State.setCol_posted (x : Column) : (s.setCol k x).posted = s.posted := rfl
@[simp] theorem State.setCol_engPod (x : Column) : (s.setCol k x).engPod = s.engPod := rfl
@[simp] theorem State.setCol_amoLeft (x : Column) : (s.setCol k x).amoLeft = s.amoLeft := rfl
@[simp] theorem State.setCol_comps (x : Column) : (s.setCol k x).comps = s.comps := rfl
@[simp] theorem State.setCol_migsrc (x : Column) : (s.setCol k x).migsrc = s.migsrc := rfl
@[simp] theorem State.setCol_migdst (x : Column) : (s.setCol k x).migdst = s.migdst := rfl
@[simp] theorem State.setCol_miglen (x : Column) : (s.setCol k x).miglen = s.miglen := rfl
@[simp] theorem State.setCol_migctl (x : Column) : (s.setCol k x).migctl = s.migctl := rfl
@[simp] theorem State.setCol_pcnt (x : Column) : (s.setCol k x).pcnt = s.pcnt := rfl
@[simp] theorem State.setCol_migDue (x : Column) : (s.setCol k x).migDue = s.migDue := rfl
@[simp] theorem State.setCol_pastRef (x : Column) : (s.setCol k x).pastRef = s.pastRef := rfl
@[simp] theorem State.setCol_events (x : Column) : (s.setCol k x).events = s.events := rfl
@[simp] theorem State.setCol_traceQ (x : Column) : (s.setCol k x).traceQ = s.traceQ := rfl

/-! ### setQuad -/

@[simp] theorem State.setQuad_clock (x : Quad) : (s.setQuad k x).clock = s.clock := rfl
@[simp] theorem State.setQuad_phase (x : Quad) : (s.setQuad k x).phase = s.phase := rfl
@[simp] theorem State.setQuad_issueCol (x : Quad) : (s.setQuad k x).issueCol = s.issueCol := rfl
@[simp] theorem State.setQuad_inbox (x : Quad) : (s.setQuad k x).inbox = s.inbox := rfl
@[simp] theorem State.setQuad_cur (x : Quad) : (s.setQuad k x).cur = s.cur := rfl
@[simp] theorem State.setQuad_att (x : Quad) : (s.setQuad k x).att = s.att := rfl
@[simp] theorem State.setQuad_freeCtr (x : Quad) : (s.setQuad k x).freeCtr = s.freeCtr := rfl
@[simp] theorem State.setQuad_uid (x : Quad) : (s.setQuad k x).uid = s.uid := rfl
@[simp] theorem State.setQuad_cd (x : Quad) : (s.setQuad k x).cd = s.cd := rfl
@[simp] theorem State.setQuad_cc (x : Quad) : (s.setQuad k x).cc = s.cc := rfl
@[simp] theorem State.setQuad_core (x : Quad) : (s.setQuad k x).core = s.core := rfl
@[simp] theorem State.setQuad_col (x : Quad) : (s.setQuad k x).col = s.col := rfl
@[simp] theorem State.setQuad_eng (x : Quad) : (s.setQuad k x).eng = s.eng := rfl
@[simp] theorem State.setQuad_die (x : Quad) : (s.setQuad k x).die = s.die := rfl
@[simp] theorem State.setQuad_mem (x : Quad) : (s.setQuad k x).mem = s.mem := rfl
@[simp] theorem State.setQuad_poison (x : Quad) : (s.setQuad k x).poison = s.poison := rfl
@[simp] theorem State.setQuad_lost (x : Quad) : (s.setQuad k x).lost = s.lost := rfl
@[simp] theorem State.setQuad_sockets (x : Quad) : (s.setQuad k x).sockets = s.sockets := rfl
@[simp] theorem State.setQuad_boot (x : Quad) : (s.setQuad k x).boot = s.boot := rfl
@[simp] theorem State.setQuad_start (x : Quad) : (s.setQuad k x).start = s.start := rfl
@[simp] theorem State.setQuad_ivStacks (x : Quad) : (s.setQuad k x).ivStacks = s.ivStacks := rfl
@[simp] theorem State.setQuad_queues (x : Quad) : (s.setQuad k x).queues = s.queues := rfl
@[simp] theorem State.setQuad_feLast (x : Quad) : (s.setQuad k x).feLast = s.feLast := rfl
@[simp] theorem State.setQuad_launches (x : Quad) : (s.setQuad k x).launches = s.launches := rfl
@[simp] theorem State.setQuad_nextLaunch (x : Quad) : (s.setQuad k x).nextLaunch = s.nextLaunch := rfl
@[simp] theorem State.setQuad_swaps (x : Quad) : (s.setQuad k x).swaps = s.swaps := rfl
@[simp] theorem State.setQuad_nextSwap (x : Quad) : (s.setQuad k x).nextSwap = s.nextSwap := rfl
@[simp] theorem State.setQuad_ranges (x : Quad) : (s.setQuad k x).ranges = s.ranges := rfl
@[simp] theorem State.setQuad_grabs (x : Quad) : (s.setQuad k x).grabs = s.grabs := rfl
@[simp] theorem State.setQuad_barriers (x : Quad) : (s.setQuad k x).barriers = s.barriers := rfl
@[simp] theorem State.setQuad_colls (x : Quad) : (s.setQuad k x).colls = s.colls := rfl
@[simp] theorem State.setQuad_contracts (x : Quad) : (s.setQuad k x).contracts = s.contracts := rfl
@[simp] theorem State.setQuad_parts (x : Quad) : (s.setQuad k x).parts = s.parts := rfl
@[simp] theorem State.setQuad_mgmt (x : Quad) : (s.setQuad k x).mgmt = s.mgmt := rfl
@[simp] theorem State.setQuad_apprcmd (x : Quad) : (s.setQuad k x).apprcmd = s.apprcmd := rfl
@[simp] theorem State.setQuad_evbase (x : Quad) : (s.setQuad k x).evbase = s.evbase := rfl
@[simp] theorem State.setQuad_attpend (x : Quad) : (s.setQuad k x).attpend = s.attpend := rfl
@[simp] theorem State.setQuad_attverd (x : Quad) : (s.setQuad k x).attverd = s.attverd := rfl
@[simp] theorem State.setQuad_repctl (x : Quad) : (s.setQuad k x).repctl = s.repctl := rfl
@[simp] theorem State.setQuad_repcmd (x : Quad) : (s.setQuad k x).repcmd = s.repcmd := rfl
@[simp] theorem State.setQuad_repLog (x : Quad) : (s.setQuad k x).repLog = s.repLog := rfl
@[simp] theorem State.setQuad_repair (x : Quad) : (s.setQuad k x).repair = s.repair := rfl
@[simp] theorem State.setQuad_repDue (x : Quad) : (s.setQuad k x).repDue = s.repDue := rfl
@[simp] theorem State.setQuad_podform (x : Quad) : (s.setQuad k x).podform = s.podform := rfl
@[simp] theorem State.setQuad_links (x : Quad) : (s.setQuad k x).links = s.links := rfl
@[simp] theorem State.setQuad_podrt (x : Quad) : (s.setQuad k x).podrt = s.podrt := rfl
@[simp] theorem State.setQuad_podspc (x : Quad) : (s.setQuad k x).podspc = s.podspc := rfl
@[simp] theorem State.setQuad_podgrp (x : Quad) : (s.setQuad k x).podgrp = s.podgrp := rfl
@[simp] theorem State.setQuad_podOut (x : Quad) : (s.setQuad k x).podOut = s.podOut := rfl
@[simp] theorem State.setQuad_podIn (x : Quad) : (s.setQuad k x).podIn = s.podIn := rfl
@[simp] theorem State.setQuad_posted (x : Quad) : (s.setQuad k x).posted = s.posted := rfl
@[simp] theorem State.setQuad_engPod (x : Quad) : (s.setQuad k x).engPod = s.engPod := rfl
@[simp] theorem State.setQuad_amoLeft (x : Quad) : (s.setQuad k x).amoLeft = s.amoLeft := rfl
@[simp] theorem State.setQuad_comps (x : Quad) : (s.setQuad k x).comps = s.comps := rfl
@[simp] theorem State.setQuad_migsrc (x : Quad) : (s.setQuad k x).migsrc = s.migsrc := rfl
@[simp] theorem State.setQuad_migdst (x : Quad) : (s.setQuad k x).migdst = s.migdst := rfl
@[simp] theorem State.setQuad_miglen (x : Quad) : (s.setQuad k x).miglen = s.miglen := rfl
@[simp] theorem State.setQuad_migctl (x : Quad) : (s.setQuad k x).migctl = s.migctl := rfl
@[simp] theorem State.setQuad_pcnt (x : Quad) : (s.setQuad k x).pcnt = s.pcnt := rfl
@[simp] theorem State.setQuad_migDue (x : Quad) : (s.setQuad k x).migDue = s.migDue := rfl
@[simp] theorem State.setQuad_pastRef (x : Quad) : (s.setQuad k x).pastRef = s.pastRef := rfl
@[simp] theorem State.setQuad_events (x : Quad) : (s.setQuad k x).events = s.events := rfl
@[simp] theorem State.setQuad_traceQ (x : Quad) : (s.setQuad k x).traceQ = s.traceQ := rfl

/-! ### setEng -/

@[simp] theorem State.setEng_clock (x : Eng) : (s.setEng k x).clock = s.clock := rfl
@[simp] theorem State.setEng_phase (x : Eng) : (s.setEng k x).phase = s.phase := rfl
@[simp] theorem State.setEng_issueCol (x : Eng) : (s.setEng k x).issueCol = s.issueCol := rfl
@[simp] theorem State.setEng_inbox (x : Eng) : (s.setEng k x).inbox = s.inbox := rfl
@[simp] theorem State.setEng_cur (x : Eng) : (s.setEng k x).cur = s.cur := rfl
@[simp] theorem State.setEng_att (x : Eng) : (s.setEng k x).att = s.att := rfl
@[simp] theorem State.setEng_freeCtr (x : Eng) : (s.setEng k x).freeCtr = s.freeCtr := rfl
@[simp] theorem State.setEng_uid (x : Eng) : (s.setEng k x).uid = s.uid := rfl
@[simp] theorem State.setEng_cd (x : Eng) : (s.setEng k x).cd = s.cd := rfl
@[simp] theorem State.setEng_cc (x : Eng) : (s.setEng k x).cc = s.cc := rfl
@[simp] theorem State.setEng_core (x : Eng) : (s.setEng k x).core = s.core := rfl
@[simp] theorem State.setEng_col (x : Eng) : (s.setEng k x).col = s.col := rfl
@[simp] theorem State.setEng_quad (x : Eng) : (s.setEng k x).quad = s.quad := rfl
@[simp] theorem State.setEng_die (x : Eng) : (s.setEng k x).die = s.die := rfl
@[simp] theorem State.setEng_mem (x : Eng) : (s.setEng k x).mem = s.mem := rfl
@[simp] theorem State.setEng_poison (x : Eng) : (s.setEng k x).poison = s.poison := rfl
@[simp] theorem State.setEng_lost (x : Eng) : (s.setEng k x).lost = s.lost := rfl
@[simp] theorem State.setEng_sockets (x : Eng) : (s.setEng k x).sockets = s.sockets := rfl
@[simp] theorem State.setEng_boot (x : Eng) : (s.setEng k x).boot = s.boot := rfl
@[simp] theorem State.setEng_start (x : Eng) : (s.setEng k x).start = s.start := rfl
@[simp] theorem State.setEng_ivStacks (x : Eng) : (s.setEng k x).ivStacks = s.ivStacks := rfl
@[simp] theorem State.setEng_queues (x : Eng) : (s.setEng k x).queues = s.queues := rfl
@[simp] theorem State.setEng_feLast (x : Eng) : (s.setEng k x).feLast = s.feLast := rfl
@[simp] theorem State.setEng_launches (x : Eng) : (s.setEng k x).launches = s.launches := rfl
@[simp] theorem State.setEng_nextLaunch (x : Eng) : (s.setEng k x).nextLaunch = s.nextLaunch := rfl
@[simp] theorem State.setEng_swaps (x : Eng) : (s.setEng k x).swaps = s.swaps := rfl
@[simp] theorem State.setEng_nextSwap (x : Eng) : (s.setEng k x).nextSwap = s.nextSwap := rfl
@[simp] theorem State.setEng_ranges (x : Eng) : (s.setEng k x).ranges = s.ranges := rfl
@[simp] theorem State.setEng_grabs (x : Eng) : (s.setEng k x).grabs = s.grabs := rfl
@[simp] theorem State.setEng_barriers (x : Eng) : (s.setEng k x).barriers = s.barriers := rfl
@[simp] theorem State.setEng_colls (x : Eng) : (s.setEng k x).colls = s.colls := rfl
@[simp] theorem State.setEng_contracts (x : Eng) : (s.setEng k x).contracts = s.contracts := rfl
@[simp] theorem State.setEng_parts (x : Eng) : (s.setEng k x).parts = s.parts := rfl
@[simp] theorem State.setEng_mgmt (x : Eng) : (s.setEng k x).mgmt = s.mgmt := rfl
@[simp] theorem State.setEng_apprcmd (x : Eng) : (s.setEng k x).apprcmd = s.apprcmd := rfl
@[simp] theorem State.setEng_evbase (x : Eng) : (s.setEng k x).evbase = s.evbase := rfl
@[simp] theorem State.setEng_attpend (x : Eng) : (s.setEng k x).attpend = s.attpend := rfl
@[simp] theorem State.setEng_attverd (x : Eng) : (s.setEng k x).attverd = s.attverd := rfl
@[simp] theorem State.setEng_repctl (x : Eng) : (s.setEng k x).repctl = s.repctl := rfl
@[simp] theorem State.setEng_repcmd (x : Eng) : (s.setEng k x).repcmd = s.repcmd := rfl
@[simp] theorem State.setEng_repLog (x : Eng) : (s.setEng k x).repLog = s.repLog := rfl
@[simp] theorem State.setEng_repair (x : Eng) : (s.setEng k x).repair = s.repair := rfl
@[simp] theorem State.setEng_repDue (x : Eng) : (s.setEng k x).repDue = s.repDue := rfl
@[simp] theorem State.setEng_podform (x : Eng) : (s.setEng k x).podform = s.podform := rfl
@[simp] theorem State.setEng_links (x : Eng) : (s.setEng k x).links = s.links := rfl
@[simp] theorem State.setEng_podrt (x : Eng) : (s.setEng k x).podrt = s.podrt := rfl
@[simp] theorem State.setEng_podspc (x : Eng) : (s.setEng k x).podspc = s.podspc := rfl
@[simp] theorem State.setEng_podgrp (x : Eng) : (s.setEng k x).podgrp = s.podgrp := rfl
@[simp] theorem State.setEng_podOut (x : Eng) : (s.setEng k x).podOut = s.podOut := rfl
@[simp] theorem State.setEng_podIn (x : Eng) : (s.setEng k x).podIn = s.podIn := rfl
@[simp] theorem State.setEng_posted (x : Eng) : (s.setEng k x).posted = s.posted := rfl
@[simp] theorem State.setEng_engPod (x : Eng) : (s.setEng k x).engPod = s.engPod := rfl
@[simp] theorem State.setEng_amoLeft (x : Eng) : (s.setEng k x).amoLeft = s.amoLeft := rfl
@[simp] theorem State.setEng_comps (x : Eng) : (s.setEng k x).comps = s.comps := rfl
@[simp] theorem State.setEng_migsrc (x : Eng) : (s.setEng k x).migsrc = s.migsrc := rfl
@[simp] theorem State.setEng_migdst (x : Eng) : (s.setEng k x).migdst = s.migdst := rfl
@[simp] theorem State.setEng_miglen (x : Eng) : (s.setEng k x).miglen = s.miglen := rfl
@[simp] theorem State.setEng_migctl (x : Eng) : (s.setEng k x).migctl = s.migctl := rfl
@[simp] theorem State.setEng_pcnt (x : Eng) : (s.setEng k x).pcnt = s.pcnt := rfl
@[simp] theorem State.setEng_migDue (x : Eng) : (s.setEng k x).migDue = s.migDue := rfl
@[simp] theorem State.setEng_pastRef (x : Eng) : (s.setEng k x).pastRef = s.pastRef := rfl
@[simp] theorem State.setEng_events (x : Eng) : (s.setEng k x).events = s.events := rfl
@[simp] theorem State.setEng_traceQ (x : Eng) : (s.setEng k x).traceQ = s.traceQ := rfl

/-! ### setDie -/

@[simp] theorem State.setDie_clock (x : Die) : (s.setDie k x).clock = s.clock := rfl
@[simp] theorem State.setDie_phase (x : Die) : (s.setDie k x).phase = s.phase := rfl
@[simp] theorem State.setDie_issueCol (x : Die) : (s.setDie k x).issueCol = s.issueCol := rfl
@[simp] theorem State.setDie_inbox (x : Die) : (s.setDie k x).inbox = s.inbox := rfl
@[simp] theorem State.setDie_cur (x : Die) : (s.setDie k x).cur = s.cur := rfl
@[simp] theorem State.setDie_att (x : Die) : (s.setDie k x).att = s.att := rfl
@[simp] theorem State.setDie_freeCtr (x : Die) : (s.setDie k x).freeCtr = s.freeCtr := rfl
@[simp] theorem State.setDie_uid (x : Die) : (s.setDie k x).uid = s.uid := rfl
@[simp] theorem State.setDie_cd (x : Die) : (s.setDie k x).cd = s.cd := rfl
@[simp] theorem State.setDie_cc (x : Die) : (s.setDie k x).cc = s.cc := rfl
@[simp] theorem State.setDie_core (x : Die) : (s.setDie k x).core = s.core := rfl
@[simp] theorem State.setDie_col (x : Die) : (s.setDie k x).col = s.col := rfl
@[simp] theorem State.setDie_quad (x : Die) : (s.setDie k x).quad = s.quad := rfl
@[simp] theorem State.setDie_eng (x : Die) : (s.setDie k x).eng = s.eng := rfl
@[simp] theorem State.setDie_mem (x : Die) : (s.setDie k x).mem = s.mem := rfl
@[simp] theorem State.setDie_poison (x : Die) : (s.setDie k x).poison = s.poison := rfl
@[simp] theorem State.setDie_lost (x : Die) : (s.setDie k x).lost = s.lost := rfl
@[simp] theorem State.setDie_sockets (x : Die) : (s.setDie k x).sockets = s.sockets := rfl
@[simp] theorem State.setDie_boot (x : Die) : (s.setDie k x).boot = s.boot := rfl
@[simp] theorem State.setDie_start (x : Die) : (s.setDie k x).start = s.start := rfl
@[simp] theorem State.setDie_ivStacks (x : Die) : (s.setDie k x).ivStacks = s.ivStacks := rfl
@[simp] theorem State.setDie_queues (x : Die) : (s.setDie k x).queues = s.queues := rfl
@[simp] theorem State.setDie_feLast (x : Die) : (s.setDie k x).feLast = s.feLast := rfl
@[simp] theorem State.setDie_launches (x : Die) : (s.setDie k x).launches = s.launches := rfl
@[simp] theorem State.setDie_nextLaunch (x : Die) : (s.setDie k x).nextLaunch = s.nextLaunch := rfl
@[simp] theorem State.setDie_swaps (x : Die) : (s.setDie k x).swaps = s.swaps := rfl
@[simp] theorem State.setDie_nextSwap (x : Die) : (s.setDie k x).nextSwap = s.nextSwap := rfl
@[simp] theorem State.setDie_ranges (x : Die) : (s.setDie k x).ranges = s.ranges := rfl
@[simp] theorem State.setDie_grabs (x : Die) : (s.setDie k x).grabs = s.grabs := rfl
@[simp] theorem State.setDie_barriers (x : Die) : (s.setDie k x).barriers = s.barriers := rfl
@[simp] theorem State.setDie_colls (x : Die) : (s.setDie k x).colls = s.colls := rfl
@[simp] theorem State.setDie_contracts (x : Die) : (s.setDie k x).contracts = s.contracts := rfl
@[simp] theorem State.setDie_parts (x : Die) : (s.setDie k x).parts = s.parts := rfl
@[simp] theorem State.setDie_mgmt (x : Die) : (s.setDie k x).mgmt = s.mgmt := rfl
@[simp] theorem State.setDie_apprcmd (x : Die) : (s.setDie k x).apprcmd = s.apprcmd := rfl
@[simp] theorem State.setDie_evbase (x : Die) : (s.setDie k x).evbase = s.evbase := rfl
@[simp] theorem State.setDie_attpend (x : Die) : (s.setDie k x).attpend = s.attpend := rfl
@[simp] theorem State.setDie_attverd (x : Die) : (s.setDie k x).attverd = s.attverd := rfl
@[simp] theorem State.setDie_repctl (x : Die) : (s.setDie k x).repctl = s.repctl := rfl
@[simp] theorem State.setDie_repcmd (x : Die) : (s.setDie k x).repcmd = s.repcmd := rfl
@[simp] theorem State.setDie_repLog (x : Die) : (s.setDie k x).repLog = s.repLog := rfl
@[simp] theorem State.setDie_repair (x : Die) : (s.setDie k x).repair = s.repair := rfl
@[simp] theorem State.setDie_repDue (x : Die) : (s.setDie k x).repDue = s.repDue := rfl
@[simp] theorem State.setDie_podform (x : Die) : (s.setDie k x).podform = s.podform := rfl
@[simp] theorem State.setDie_links (x : Die) : (s.setDie k x).links = s.links := rfl
@[simp] theorem State.setDie_podrt (x : Die) : (s.setDie k x).podrt = s.podrt := rfl
@[simp] theorem State.setDie_podspc (x : Die) : (s.setDie k x).podspc = s.podspc := rfl
@[simp] theorem State.setDie_podgrp (x : Die) : (s.setDie k x).podgrp = s.podgrp := rfl
@[simp] theorem State.setDie_podOut (x : Die) : (s.setDie k x).podOut = s.podOut := rfl
@[simp] theorem State.setDie_podIn (x : Die) : (s.setDie k x).podIn = s.podIn := rfl
@[simp] theorem State.setDie_posted (x : Die) : (s.setDie k x).posted = s.posted := rfl
@[simp] theorem State.setDie_engPod (x : Die) : (s.setDie k x).engPod = s.engPod := rfl
@[simp] theorem State.setDie_amoLeft (x : Die) : (s.setDie k x).amoLeft = s.amoLeft := rfl
@[simp] theorem State.setDie_comps (x : Die) : (s.setDie k x).comps = s.comps := rfl
@[simp] theorem State.setDie_migsrc (x : Die) : (s.setDie k x).migsrc = s.migsrc := rfl
@[simp] theorem State.setDie_migdst (x : Die) : (s.setDie k x).migdst = s.migdst := rfl
@[simp] theorem State.setDie_miglen (x : Die) : (s.setDie k x).miglen = s.miglen := rfl
@[simp] theorem State.setDie_migctl (x : Die) : (s.setDie k x).migctl = s.migctl := rfl
@[simp] theorem State.setDie_pcnt (x : Die) : (s.setDie k x).pcnt = s.pcnt := rfl
@[simp] theorem State.setDie_migDue (x : Die) : (s.setDie k x).migDue = s.migDue := rfl
@[simp] theorem State.setDie_pastRef (x : Die) : (s.setDie k x).pastRef = s.pastRef := rfl
@[simp] theorem State.setDie_events (x : Die) : (s.setDie k x).events = s.events := rfl
@[simp] theorem State.setDie_traceQ (x : Die) : (s.setDie k x).traceQ = s.traceQ := rfl

/-! ### setSocket -/

@[simp] theorem State.setSocket_clock (x : Socket) : (s.setSocket k x).clock = s.clock := rfl
@[simp] theorem State.setSocket_phase (x : Socket) : (s.setSocket k x).phase = s.phase := rfl
@[simp] theorem State.setSocket_issueCol (x : Socket) : (s.setSocket k x).issueCol = s.issueCol := rfl
@[simp] theorem State.setSocket_inbox (x : Socket) : (s.setSocket k x).inbox = s.inbox := rfl
@[simp] theorem State.setSocket_cur (x : Socket) : (s.setSocket k x).cur = s.cur := rfl
@[simp] theorem State.setSocket_att (x : Socket) : (s.setSocket k x).att = s.att := rfl
@[simp] theorem State.setSocket_freeCtr (x : Socket) : (s.setSocket k x).freeCtr = s.freeCtr := rfl
@[simp] theorem State.setSocket_uid (x : Socket) : (s.setSocket k x).uid = s.uid := rfl
@[simp] theorem State.setSocket_cd (x : Socket) : (s.setSocket k x).cd = s.cd := rfl
@[simp] theorem State.setSocket_cc (x : Socket) : (s.setSocket k x).cc = s.cc := rfl
@[simp] theorem State.setSocket_core (x : Socket) : (s.setSocket k x).core = s.core := rfl
@[simp] theorem State.setSocket_col (x : Socket) : (s.setSocket k x).col = s.col := rfl
@[simp] theorem State.setSocket_quad (x : Socket) : (s.setSocket k x).quad = s.quad := rfl
@[simp] theorem State.setSocket_eng (x : Socket) : (s.setSocket k x).eng = s.eng := rfl
@[simp] theorem State.setSocket_die (x : Socket) : (s.setSocket k x).die = s.die := rfl
@[simp] theorem State.setSocket_mem (x : Socket) : (s.setSocket k x).mem = s.mem := rfl
@[simp] theorem State.setSocket_poison (x : Socket) : (s.setSocket k x).poison = s.poison := rfl
@[simp] theorem State.setSocket_lost (x : Socket) : (s.setSocket k x).lost = s.lost := rfl
@[simp] theorem State.setSocket_boot (x : Socket) : (s.setSocket k x).boot = s.boot := rfl
@[simp] theorem State.setSocket_start (x : Socket) : (s.setSocket k x).start = s.start := rfl
@[simp] theorem State.setSocket_ivStacks (x : Socket) : (s.setSocket k x).ivStacks = s.ivStacks := rfl
@[simp] theorem State.setSocket_queues (x : Socket) : (s.setSocket k x).queues = s.queues := rfl
@[simp] theorem State.setSocket_feLast (x : Socket) : (s.setSocket k x).feLast = s.feLast := rfl
@[simp] theorem State.setSocket_launches (x : Socket) : (s.setSocket k x).launches = s.launches := rfl
@[simp] theorem State.setSocket_nextLaunch (x : Socket) : (s.setSocket k x).nextLaunch = s.nextLaunch := rfl
@[simp] theorem State.setSocket_swaps (x : Socket) : (s.setSocket k x).swaps = s.swaps := rfl
@[simp] theorem State.setSocket_nextSwap (x : Socket) : (s.setSocket k x).nextSwap = s.nextSwap := rfl
@[simp] theorem State.setSocket_ranges (x : Socket) : (s.setSocket k x).ranges = s.ranges := rfl
@[simp] theorem State.setSocket_grabs (x : Socket) : (s.setSocket k x).grabs = s.grabs := rfl
@[simp] theorem State.setSocket_barriers (x : Socket) : (s.setSocket k x).barriers = s.barriers := rfl
@[simp] theorem State.setSocket_colls (x : Socket) : (s.setSocket k x).colls = s.colls := rfl
@[simp] theorem State.setSocket_contracts (x : Socket) : (s.setSocket k x).contracts = s.contracts := rfl
@[simp] theorem State.setSocket_parts (x : Socket) : (s.setSocket k x).parts = s.parts := rfl
@[simp] theorem State.setSocket_mgmt (x : Socket) : (s.setSocket k x).mgmt = s.mgmt := rfl
@[simp] theorem State.setSocket_apprcmd (x : Socket) : (s.setSocket k x).apprcmd = s.apprcmd := rfl
@[simp] theorem State.setSocket_evbase (x : Socket) : (s.setSocket k x).evbase = s.evbase := rfl
@[simp] theorem State.setSocket_attpend (x : Socket) : (s.setSocket k x).attpend = s.attpend := rfl
@[simp] theorem State.setSocket_attverd (x : Socket) : (s.setSocket k x).attverd = s.attverd := rfl
@[simp] theorem State.setSocket_repctl (x : Socket) : (s.setSocket k x).repctl = s.repctl := rfl
@[simp] theorem State.setSocket_repcmd (x : Socket) : (s.setSocket k x).repcmd = s.repcmd := rfl
@[simp] theorem State.setSocket_repLog (x : Socket) : (s.setSocket k x).repLog = s.repLog := rfl
@[simp] theorem State.setSocket_repair (x : Socket) : (s.setSocket k x).repair = s.repair := rfl
@[simp] theorem State.setSocket_repDue (x : Socket) : (s.setSocket k x).repDue = s.repDue := rfl
@[simp] theorem State.setSocket_podform (x : Socket) : (s.setSocket k x).podform = s.podform := rfl
@[simp] theorem State.setSocket_links (x : Socket) : (s.setSocket k x).links = s.links := rfl
@[simp] theorem State.setSocket_podrt (x : Socket) : (s.setSocket k x).podrt = s.podrt := rfl
@[simp] theorem State.setSocket_podspc (x : Socket) : (s.setSocket k x).podspc = s.podspc := rfl
@[simp] theorem State.setSocket_podgrp (x : Socket) : (s.setSocket k x).podgrp = s.podgrp := rfl
@[simp] theorem State.setSocket_podOut (x : Socket) : (s.setSocket k x).podOut = s.podOut := rfl
@[simp] theorem State.setSocket_podIn (x : Socket) : (s.setSocket k x).podIn = s.podIn := rfl
@[simp] theorem State.setSocket_posted (x : Socket) : (s.setSocket k x).posted = s.posted := rfl
@[simp] theorem State.setSocket_engPod (x : Socket) : (s.setSocket k x).engPod = s.engPod := rfl
@[simp] theorem State.setSocket_amoLeft (x : Socket) : (s.setSocket k x).amoLeft = s.amoLeft := rfl
@[simp] theorem State.setSocket_comps (x : Socket) : (s.setSocket k x).comps = s.comps := rfl
@[simp] theorem State.setSocket_migsrc (x : Socket) : (s.setSocket k x).migsrc = s.migsrc := rfl
@[simp] theorem State.setSocket_migdst (x : Socket) : (s.setSocket k x).migdst = s.migdst := rfl
@[simp] theorem State.setSocket_miglen (x : Socket) : (s.setSocket k x).miglen = s.miglen := rfl
@[simp] theorem State.setSocket_migctl (x : Socket) : (s.setSocket k x).migctl = s.migctl := rfl
@[simp] theorem State.setSocket_pcnt (x : Socket) : (s.setSocket k x).pcnt = s.pcnt := rfl
@[simp] theorem State.setSocket_migDue (x : Socket) : (s.setSocket k x).migDue = s.migDue := rfl
@[simp] theorem State.setSocket_pastRef (x : Socket) : (s.setSocket k x).pastRef = s.pastRef := rfl
@[simp] theorem State.setSocket_events (x : Socket) : (s.setSocket k x).events = s.events := rfl
@[simp] theorem State.setSocket_traceQ (x : Socket) : (s.setSocket k x).traceQ = s.traceQ := rfl

/-! ### setQueue -/

@[simp] theorem State.setQueue_clock (x : Queue) : (s.setQueue k x).clock = s.clock := rfl
@[simp] theorem State.setQueue_phase (x : Queue) : (s.setQueue k x).phase = s.phase := rfl
@[simp] theorem State.setQueue_issueCol (x : Queue) : (s.setQueue k x).issueCol = s.issueCol := rfl
@[simp] theorem State.setQueue_inbox (x : Queue) : (s.setQueue k x).inbox = s.inbox := rfl
@[simp] theorem State.setQueue_cur (x : Queue) : (s.setQueue k x).cur = s.cur := rfl
@[simp] theorem State.setQueue_att (x : Queue) : (s.setQueue k x).att = s.att := rfl
@[simp] theorem State.setQueue_freeCtr (x : Queue) : (s.setQueue k x).freeCtr = s.freeCtr := rfl
@[simp] theorem State.setQueue_uid (x : Queue) : (s.setQueue k x).uid = s.uid := rfl
@[simp] theorem State.setQueue_cd (x : Queue) : (s.setQueue k x).cd = s.cd := rfl
@[simp] theorem State.setQueue_cc (x : Queue) : (s.setQueue k x).cc = s.cc := rfl
@[simp] theorem State.setQueue_core (x : Queue) : (s.setQueue k x).core = s.core := rfl
@[simp] theorem State.setQueue_col (x : Queue) : (s.setQueue k x).col = s.col := rfl
@[simp] theorem State.setQueue_quad (x : Queue) : (s.setQueue k x).quad = s.quad := rfl
@[simp] theorem State.setQueue_eng (x : Queue) : (s.setQueue k x).eng = s.eng := rfl
@[simp] theorem State.setQueue_die (x : Queue) : (s.setQueue k x).die = s.die := rfl
@[simp] theorem State.setQueue_mem (x : Queue) : (s.setQueue k x).mem = s.mem := rfl
@[simp] theorem State.setQueue_poison (x : Queue) : (s.setQueue k x).poison = s.poison := rfl
@[simp] theorem State.setQueue_lost (x : Queue) : (s.setQueue k x).lost = s.lost := rfl
@[simp] theorem State.setQueue_sockets (x : Queue) : (s.setQueue k x).sockets = s.sockets := rfl
@[simp] theorem State.setQueue_boot (x : Queue) : (s.setQueue k x).boot = s.boot := rfl
@[simp] theorem State.setQueue_start (x : Queue) : (s.setQueue k x).start = s.start := rfl
@[simp] theorem State.setQueue_ivStacks (x : Queue) : (s.setQueue k x).ivStacks = s.ivStacks := rfl
@[simp] theorem State.setQueue_feLast (x : Queue) : (s.setQueue k x).feLast = s.feLast := rfl
@[simp] theorem State.setQueue_launches (x : Queue) : (s.setQueue k x).launches = s.launches := rfl
@[simp] theorem State.setQueue_nextLaunch (x : Queue) : (s.setQueue k x).nextLaunch = s.nextLaunch := rfl
@[simp] theorem State.setQueue_swaps (x : Queue) : (s.setQueue k x).swaps = s.swaps := rfl
@[simp] theorem State.setQueue_nextSwap (x : Queue) : (s.setQueue k x).nextSwap = s.nextSwap := rfl
@[simp] theorem State.setQueue_ranges (x : Queue) : (s.setQueue k x).ranges = s.ranges := rfl
@[simp] theorem State.setQueue_grabs (x : Queue) : (s.setQueue k x).grabs = s.grabs := rfl
@[simp] theorem State.setQueue_barriers (x : Queue) : (s.setQueue k x).barriers = s.barriers := rfl
@[simp] theorem State.setQueue_colls (x : Queue) : (s.setQueue k x).colls = s.colls := rfl
@[simp] theorem State.setQueue_contracts (x : Queue) : (s.setQueue k x).contracts = s.contracts := rfl
@[simp] theorem State.setQueue_parts (x : Queue) : (s.setQueue k x).parts = s.parts := rfl
@[simp] theorem State.setQueue_mgmt (x : Queue) : (s.setQueue k x).mgmt = s.mgmt := rfl
@[simp] theorem State.setQueue_apprcmd (x : Queue) : (s.setQueue k x).apprcmd = s.apprcmd := rfl
@[simp] theorem State.setQueue_evbase (x : Queue) : (s.setQueue k x).evbase = s.evbase := rfl
@[simp] theorem State.setQueue_attpend (x : Queue) : (s.setQueue k x).attpend = s.attpend := rfl
@[simp] theorem State.setQueue_attverd (x : Queue) : (s.setQueue k x).attverd = s.attverd := rfl
@[simp] theorem State.setQueue_repctl (x : Queue) : (s.setQueue k x).repctl = s.repctl := rfl
@[simp] theorem State.setQueue_repcmd (x : Queue) : (s.setQueue k x).repcmd = s.repcmd := rfl
@[simp] theorem State.setQueue_repLog (x : Queue) : (s.setQueue k x).repLog = s.repLog := rfl
@[simp] theorem State.setQueue_repair (x : Queue) : (s.setQueue k x).repair = s.repair := rfl
@[simp] theorem State.setQueue_repDue (x : Queue) : (s.setQueue k x).repDue = s.repDue := rfl
@[simp] theorem State.setQueue_podform (x : Queue) : (s.setQueue k x).podform = s.podform := rfl
@[simp] theorem State.setQueue_links (x : Queue) : (s.setQueue k x).links = s.links := rfl
@[simp] theorem State.setQueue_podrt (x : Queue) : (s.setQueue k x).podrt = s.podrt := rfl
@[simp] theorem State.setQueue_podspc (x : Queue) : (s.setQueue k x).podspc = s.podspc := rfl
@[simp] theorem State.setQueue_podgrp (x : Queue) : (s.setQueue k x).podgrp = s.podgrp := rfl
@[simp] theorem State.setQueue_podOut (x : Queue) : (s.setQueue k x).podOut = s.podOut := rfl
@[simp] theorem State.setQueue_podIn (x : Queue) : (s.setQueue k x).podIn = s.podIn := rfl
@[simp] theorem State.setQueue_posted (x : Queue) : (s.setQueue k x).posted = s.posted := rfl
@[simp] theorem State.setQueue_engPod (x : Queue) : (s.setQueue k x).engPod = s.engPod := rfl
@[simp] theorem State.setQueue_amoLeft (x : Queue) : (s.setQueue k x).amoLeft = s.amoLeft := rfl
@[simp] theorem State.setQueue_comps (x : Queue) : (s.setQueue k x).comps = s.comps := rfl
@[simp] theorem State.setQueue_migsrc (x : Queue) : (s.setQueue k x).migsrc = s.migsrc := rfl
@[simp] theorem State.setQueue_migdst (x : Queue) : (s.setQueue k x).migdst = s.migdst := rfl
@[simp] theorem State.setQueue_miglen (x : Queue) : (s.setQueue k x).miglen = s.miglen := rfl
@[simp] theorem State.setQueue_migctl (x : Queue) : (s.setQueue k x).migctl = s.migctl := rfl
@[simp] theorem State.setQueue_pcnt (x : Queue) : (s.setQueue k x).pcnt = s.pcnt := rfl
@[simp] theorem State.setQueue_migDue (x : Queue) : (s.setQueue k x).migDue = s.migDue := rfl
@[simp] theorem State.setQueue_pastRef (x : Queue) : (s.setQueue k x).pastRef = s.pastRef := rfl
@[simp] theorem State.setQueue_events (x : Queue) : (s.setQueue k x).events = s.events := rfl
@[simp] theorem State.setQueue_traceQ (x : Queue) : (s.setQueue k x).traceQ = s.traceQ := rfl

/-! ### setPart -/

@[simp] theorem State.setPart_clock (x : Part) : (s.setPart k x).clock = s.clock := rfl
@[simp] theorem State.setPart_phase (x : Part) : (s.setPart k x).phase = s.phase := rfl
@[simp] theorem State.setPart_issueCol (x : Part) : (s.setPart k x).issueCol = s.issueCol := rfl
@[simp] theorem State.setPart_inbox (x : Part) : (s.setPart k x).inbox = s.inbox := rfl
@[simp] theorem State.setPart_cur (x : Part) : (s.setPart k x).cur = s.cur := rfl
@[simp] theorem State.setPart_att (x : Part) : (s.setPart k x).att = s.att := rfl
@[simp] theorem State.setPart_freeCtr (x : Part) : (s.setPart k x).freeCtr = s.freeCtr := rfl
@[simp] theorem State.setPart_uid (x : Part) : (s.setPart k x).uid = s.uid := rfl
@[simp] theorem State.setPart_cd (x : Part) : (s.setPart k x).cd = s.cd := rfl
@[simp] theorem State.setPart_cc (x : Part) : (s.setPart k x).cc = s.cc := rfl
@[simp] theorem State.setPart_core (x : Part) : (s.setPart k x).core = s.core := rfl
@[simp] theorem State.setPart_col (x : Part) : (s.setPart k x).col = s.col := rfl
@[simp] theorem State.setPart_quad (x : Part) : (s.setPart k x).quad = s.quad := rfl
@[simp] theorem State.setPart_eng (x : Part) : (s.setPart k x).eng = s.eng := rfl
@[simp] theorem State.setPart_die (x : Part) : (s.setPart k x).die = s.die := rfl
@[simp] theorem State.setPart_mem (x : Part) : (s.setPart k x).mem = s.mem := rfl
@[simp] theorem State.setPart_poison (x : Part) : (s.setPart k x).poison = s.poison := rfl
@[simp] theorem State.setPart_lost (x : Part) : (s.setPart k x).lost = s.lost := rfl
@[simp] theorem State.setPart_sockets (x : Part) : (s.setPart k x).sockets = s.sockets := rfl
@[simp] theorem State.setPart_boot (x : Part) : (s.setPart k x).boot = s.boot := rfl
@[simp] theorem State.setPart_start (x : Part) : (s.setPart k x).start = s.start := rfl
@[simp] theorem State.setPart_ivStacks (x : Part) : (s.setPart k x).ivStacks = s.ivStacks := rfl
@[simp] theorem State.setPart_queues (x : Part) : (s.setPart k x).queues = s.queues := rfl
@[simp] theorem State.setPart_feLast (x : Part) : (s.setPart k x).feLast = s.feLast := rfl
@[simp] theorem State.setPart_launches (x : Part) : (s.setPart k x).launches = s.launches := rfl
@[simp] theorem State.setPart_nextLaunch (x : Part) : (s.setPart k x).nextLaunch = s.nextLaunch := rfl
@[simp] theorem State.setPart_swaps (x : Part) : (s.setPart k x).swaps = s.swaps := rfl
@[simp] theorem State.setPart_nextSwap (x : Part) : (s.setPart k x).nextSwap = s.nextSwap := rfl
@[simp] theorem State.setPart_ranges (x : Part) : (s.setPart k x).ranges = s.ranges := rfl
@[simp] theorem State.setPart_grabs (x : Part) : (s.setPart k x).grabs = s.grabs := rfl
@[simp] theorem State.setPart_barriers (x : Part) : (s.setPart k x).barriers = s.barriers := rfl
@[simp] theorem State.setPart_colls (x : Part) : (s.setPart k x).colls = s.colls := rfl
@[simp] theorem State.setPart_contracts (x : Part) : (s.setPart k x).contracts = s.contracts := rfl
@[simp] theorem State.setPart_mgmt (x : Part) : (s.setPart k x).mgmt = s.mgmt := rfl
@[simp] theorem State.setPart_apprcmd (x : Part) : (s.setPart k x).apprcmd = s.apprcmd := rfl
@[simp] theorem State.setPart_evbase (x : Part) : (s.setPart k x).evbase = s.evbase := rfl
@[simp] theorem State.setPart_attpend (x : Part) : (s.setPart k x).attpend = s.attpend := rfl
@[simp] theorem State.setPart_attverd (x : Part) : (s.setPart k x).attverd = s.attverd := rfl
@[simp] theorem State.setPart_repctl (x : Part) : (s.setPart k x).repctl = s.repctl := rfl
@[simp] theorem State.setPart_repcmd (x : Part) : (s.setPart k x).repcmd = s.repcmd := rfl
@[simp] theorem State.setPart_repLog (x : Part) : (s.setPart k x).repLog = s.repLog := rfl
@[simp] theorem State.setPart_repair (x : Part) : (s.setPart k x).repair = s.repair := rfl
@[simp] theorem State.setPart_repDue (x : Part) : (s.setPart k x).repDue = s.repDue := rfl
@[simp] theorem State.setPart_podform (x : Part) : (s.setPart k x).podform = s.podform := rfl
@[simp] theorem State.setPart_links (x : Part) : (s.setPart k x).links = s.links := rfl
@[simp] theorem State.setPart_podrt (x : Part) : (s.setPart k x).podrt = s.podrt := rfl
@[simp] theorem State.setPart_podspc (x : Part) : (s.setPart k x).podspc = s.podspc := rfl
@[simp] theorem State.setPart_podgrp (x : Part) : (s.setPart k x).podgrp = s.podgrp := rfl
@[simp] theorem State.setPart_podOut (x : Part) : (s.setPart k x).podOut = s.podOut := rfl
@[simp] theorem State.setPart_podIn (x : Part) : (s.setPart k x).podIn = s.podIn := rfl
@[simp] theorem State.setPart_posted (x : Part) : (s.setPart k x).posted = s.posted := rfl
@[simp] theorem State.setPart_engPod (x : Part) : (s.setPart k x).engPod = s.engPod := rfl
@[simp] theorem State.setPart_amoLeft (x : Part) : (s.setPart k x).amoLeft = s.amoLeft := rfl
@[simp] theorem State.setPart_comps (x : Part) : (s.setPart k x).comps = s.comps := rfl
@[simp] theorem State.setPart_migsrc (x : Part) : (s.setPart k x).migsrc = s.migsrc := rfl
@[simp] theorem State.setPart_migdst (x : Part) : (s.setPart k x).migdst = s.migdst := rfl
@[simp] theorem State.setPart_miglen (x : Part) : (s.setPart k x).miglen = s.miglen := rfl
@[simp] theorem State.setPart_migctl (x : Part) : (s.setPart k x).migctl = s.migctl := rfl
@[simp] theorem State.setPart_pcnt (x : Part) : (s.setPart k x).pcnt = s.pcnt := rfl
@[simp] theorem State.setPart_migDue (x : Part) : (s.setPart k x).migDue = s.migDue := rfl
@[simp] theorem State.setPart_pastRef (x : Part) : (s.setPart k x).pastRef = s.pastRef := rfl
@[simp] theorem State.setPart_events (x : Part) : (s.setPart k x).events = s.events := rfl
@[simp] theorem State.setPart_traceQ (x : Part) : (s.setPart k x).traceQ = s.traceQ := rfl

/-! ### setRange -/

@[simp] theorem State.setRange_clock (x : Range) : (s.setRange k x).clock = s.clock := rfl
@[simp] theorem State.setRange_phase (x : Range) : (s.setRange k x).phase = s.phase := rfl
@[simp] theorem State.setRange_issueCol (x : Range) : (s.setRange k x).issueCol = s.issueCol := rfl
@[simp] theorem State.setRange_inbox (x : Range) : (s.setRange k x).inbox = s.inbox := rfl
@[simp] theorem State.setRange_cur (x : Range) : (s.setRange k x).cur = s.cur := rfl
@[simp] theorem State.setRange_att (x : Range) : (s.setRange k x).att = s.att := rfl
@[simp] theorem State.setRange_freeCtr (x : Range) : (s.setRange k x).freeCtr = s.freeCtr := rfl
@[simp] theorem State.setRange_uid (x : Range) : (s.setRange k x).uid = s.uid := rfl
@[simp] theorem State.setRange_cd (x : Range) : (s.setRange k x).cd = s.cd := rfl
@[simp] theorem State.setRange_cc (x : Range) : (s.setRange k x).cc = s.cc := rfl
@[simp] theorem State.setRange_core (x : Range) : (s.setRange k x).core = s.core := rfl
@[simp] theorem State.setRange_col (x : Range) : (s.setRange k x).col = s.col := rfl
@[simp] theorem State.setRange_quad (x : Range) : (s.setRange k x).quad = s.quad := rfl
@[simp] theorem State.setRange_eng (x : Range) : (s.setRange k x).eng = s.eng := rfl
@[simp] theorem State.setRange_die (x : Range) : (s.setRange k x).die = s.die := rfl
@[simp] theorem State.setRange_mem (x : Range) : (s.setRange k x).mem = s.mem := rfl
@[simp] theorem State.setRange_poison (x : Range) : (s.setRange k x).poison = s.poison := rfl
@[simp] theorem State.setRange_lost (x : Range) : (s.setRange k x).lost = s.lost := rfl
@[simp] theorem State.setRange_sockets (x : Range) : (s.setRange k x).sockets = s.sockets := rfl
@[simp] theorem State.setRange_boot (x : Range) : (s.setRange k x).boot = s.boot := rfl
@[simp] theorem State.setRange_start (x : Range) : (s.setRange k x).start = s.start := rfl
@[simp] theorem State.setRange_ivStacks (x : Range) : (s.setRange k x).ivStacks = s.ivStacks := rfl
@[simp] theorem State.setRange_queues (x : Range) : (s.setRange k x).queues = s.queues := rfl
@[simp] theorem State.setRange_feLast (x : Range) : (s.setRange k x).feLast = s.feLast := rfl
@[simp] theorem State.setRange_launches (x : Range) : (s.setRange k x).launches = s.launches := rfl
@[simp] theorem State.setRange_nextLaunch (x : Range) : (s.setRange k x).nextLaunch = s.nextLaunch := rfl
@[simp] theorem State.setRange_swaps (x : Range) : (s.setRange k x).swaps = s.swaps := rfl
@[simp] theorem State.setRange_nextSwap (x : Range) : (s.setRange k x).nextSwap = s.nextSwap := rfl
@[simp] theorem State.setRange_grabs (x : Range) : (s.setRange k x).grabs = s.grabs := rfl
@[simp] theorem State.setRange_barriers (x : Range) : (s.setRange k x).barriers = s.barriers := rfl
@[simp] theorem State.setRange_colls (x : Range) : (s.setRange k x).colls = s.colls := rfl
@[simp] theorem State.setRange_contracts (x : Range) : (s.setRange k x).contracts = s.contracts := rfl
@[simp] theorem State.setRange_parts (x : Range) : (s.setRange k x).parts = s.parts := rfl
@[simp] theorem State.setRange_mgmt (x : Range) : (s.setRange k x).mgmt = s.mgmt := rfl
@[simp] theorem State.setRange_apprcmd (x : Range) : (s.setRange k x).apprcmd = s.apprcmd := rfl
@[simp] theorem State.setRange_evbase (x : Range) : (s.setRange k x).evbase = s.evbase := rfl
@[simp] theorem State.setRange_attpend (x : Range) : (s.setRange k x).attpend = s.attpend := rfl
@[simp] theorem State.setRange_attverd (x : Range) : (s.setRange k x).attverd = s.attverd := rfl
@[simp] theorem State.setRange_repctl (x : Range) : (s.setRange k x).repctl = s.repctl := rfl
@[simp] theorem State.setRange_repcmd (x : Range) : (s.setRange k x).repcmd = s.repcmd := rfl
@[simp] theorem State.setRange_repLog (x : Range) : (s.setRange k x).repLog = s.repLog := rfl
@[simp] theorem State.setRange_repair (x : Range) : (s.setRange k x).repair = s.repair := rfl
@[simp] theorem State.setRange_repDue (x : Range) : (s.setRange k x).repDue = s.repDue := rfl
@[simp] theorem State.setRange_podform (x : Range) : (s.setRange k x).podform = s.podform := rfl
@[simp] theorem State.setRange_links (x : Range) : (s.setRange k x).links = s.links := rfl
@[simp] theorem State.setRange_podrt (x : Range) : (s.setRange k x).podrt = s.podrt := rfl
@[simp] theorem State.setRange_podspc (x : Range) : (s.setRange k x).podspc = s.podspc := rfl
@[simp] theorem State.setRange_podgrp (x : Range) : (s.setRange k x).podgrp = s.podgrp := rfl
@[simp] theorem State.setRange_podOut (x : Range) : (s.setRange k x).podOut = s.podOut := rfl
@[simp] theorem State.setRange_podIn (x : Range) : (s.setRange k x).podIn = s.podIn := rfl
@[simp] theorem State.setRange_posted (x : Range) : (s.setRange k x).posted = s.posted := rfl
@[simp] theorem State.setRange_engPod (x : Range) : (s.setRange k x).engPod = s.engPod := rfl
@[simp] theorem State.setRange_amoLeft (x : Range) : (s.setRange k x).amoLeft = s.amoLeft := rfl
@[simp] theorem State.setRange_comps (x : Range) : (s.setRange k x).comps = s.comps := rfl
@[simp] theorem State.setRange_migsrc (x : Range) : (s.setRange k x).migsrc = s.migsrc := rfl
@[simp] theorem State.setRange_migdst (x : Range) : (s.setRange k x).migdst = s.migdst := rfl
@[simp] theorem State.setRange_miglen (x : Range) : (s.setRange k x).miglen = s.miglen := rfl
@[simp] theorem State.setRange_migctl (x : Range) : (s.setRange k x).migctl = s.migctl := rfl
@[simp] theorem State.setRange_pcnt (x : Range) : (s.setRange k x).pcnt = s.pcnt := rfl
@[simp] theorem State.setRange_migDue (x : Range) : (s.setRange k x).migDue = s.migDue := rfl
@[simp] theorem State.setRange_pastRef (x : Range) : (s.setRange k x).pastRef = s.pastRef := rfl
@[simp] theorem State.setRange_events (x : Range) : (s.setRange k x).events = s.events := rfl
@[simp] theorem State.setRange_traceQ (x : Range) : (s.setRange k x).traceQ = s.traceQ := rfl

/-! ### setContract -/

@[simp] theorem State.setContract_clock (x : Contract) : (s.setContract k x).clock = s.clock := rfl
@[simp] theorem State.setContract_phase (x : Contract) : (s.setContract k x).phase = s.phase := rfl
@[simp] theorem State.setContract_issueCol (x : Contract) : (s.setContract k x).issueCol = s.issueCol := rfl
@[simp] theorem State.setContract_inbox (x : Contract) : (s.setContract k x).inbox = s.inbox := rfl
@[simp] theorem State.setContract_cur (x : Contract) : (s.setContract k x).cur = s.cur := rfl
@[simp] theorem State.setContract_att (x : Contract) : (s.setContract k x).att = s.att := rfl
@[simp] theorem State.setContract_freeCtr (x : Contract) : (s.setContract k x).freeCtr = s.freeCtr := rfl
@[simp] theorem State.setContract_uid (x : Contract) : (s.setContract k x).uid = s.uid := rfl
@[simp] theorem State.setContract_cd (x : Contract) : (s.setContract k x).cd = s.cd := rfl
@[simp] theorem State.setContract_cc (x : Contract) : (s.setContract k x).cc = s.cc := rfl
@[simp] theorem State.setContract_core (x : Contract) : (s.setContract k x).core = s.core := rfl
@[simp] theorem State.setContract_col (x : Contract) : (s.setContract k x).col = s.col := rfl
@[simp] theorem State.setContract_quad (x : Contract) : (s.setContract k x).quad = s.quad := rfl
@[simp] theorem State.setContract_eng (x : Contract) : (s.setContract k x).eng = s.eng := rfl
@[simp] theorem State.setContract_die (x : Contract) : (s.setContract k x).die = s.die := rfl
@[simp] theorem State.setContract_mem (x : Contract) : (s.setContract k x).mem = s.mem := rfl
@[simp] theorem State.setContract_poison (x : Contract) : (s.setContract k x).poison = s.poison := rfl
@[simp] theorem State.setContract_lost (x : Contract) : (s.setContract k x).lost = s.lost := rfl
@[simp] theorem State.setContract_sockets (x : Contract) : (s.setContract k x).sockets = s.sockets := rfl
@[simp] theorem State.setContract_boot (x : Contract) : (s.setContract k x).boot = s.boot := rfl
@[simp] theorem State.setContract_start (x : Contract) : (s.setContract k x).start = s.start := rfl
@[simp] theorem State.setContract_ivStacks (x : Contract) : (s.setContract k x).ivStacks = s.ivStacks := rfl
@[simp] theorem State.setContract_queues (x : Contract) : (s.setContract k x).queues = s.queues := rfl
@[simp] theorem State.setContract_feLast (x : Contract) : (s.setContract k x).feLast = s.feLast := rfl
@[simp] theorem State.setContract_launches (x : Contract) : (s.setContract k x).launches = s.launches := rfl
@[simp] theorem State.setContract_nextLaunch (x : Contract) : (s.setContract k x).nextLaunch = s.nextLaunch := rfl
@[simp] theorem State.setContract_swaps (x : Contract) : (s.setContract k x).swaps = s.swaps := rfl
@[simp] theorem State.setContract_nextSwap (x : Contract) : (s.setContract k x).nextSwap = s.nextSwap := rfl
@[simp] theorem State.setContract_ranges (x : Contract) : (s.setContract k x).ranges = s.ranges := rfl
@[simp] theorem State.setContract_grabs (x : Contract) : (s.setContract k x).grabs = s.grabs := rfl
@[simp] theorem State.setContract_barriers (x : Contract) : (s.setContract k x).barriers = s.barriers := rfl
@[simp] theorem State.setContract_colls (x : Contract) : (s.setContract k x).colls = s.colls := rfl
@[simp] theorem State.setContract_parts (x : Contract) : (s.setContract k x).parts = s.parts := rfl
@[simp] theorem State.setContract_mgmt (x : Contract) : (s.setContract k x).mgmt = s.mgmt := rfl
@[simp] theorem State.setContract_apprcmd (x : Contract) : (s.setContract k x).apprcmd = s.apprcmd := rfl
@[simp] theorem State.setContract_evbase (x : Contract) : (s.setContract k x).evbase = s.evbase := rfl
@[simp] theorem State.setContract_attpend (x : Contract) : (s.setContract k x).attpend = s.attpend := rfl
@[simp] theorem State.setContract_attverd (x : Contract) : (s.setContract k x).attverd = s.attverd := rfl
@[simp] theorem State.setContract_repctl (x : Contract) : (s.setContract k x).repctl = s.repctl := rfl
@[simp] theorem State.setContract_repcmd (x : Contract) : (s.setContract k x).repcmd = s.repcmd := rfl
@[simp] theorem State.setContract_repLog (x : Contract) : (s.setContract k x).repLog = s.repLog := rfl
@[simp] theorem State.setContract_repair (x : Contract) : (s.setContract k x).repair = s.repair := rfl
@[simp] theorem State.setContract_repDue (x : Contract) : (s.setContract k x).repDue = s.repDue := rfl
@[simp] theorem State.setContract_podform (x : Contract) : (s.setContract k x).podform = s.podform := rfl
@[simp] theorem State.setContract_links (x : Contract) : (s.setContract k x).links = s.links := rfl
@[simp] theorem State.setContract_podrt (x : Contract) : (s.setContract k x).podrt = s.podrt := rfl
@[simp] theorem State.setContract_podspc (x : Contract) : (s.setContract k x).podspc = s.podspc := rfl
@[simp] theorem State.setContract_podgrp (x : Contract) : (s.setContract k x).podgrp = s.podgrp := rfl
@[simp] theorem State.setContract_podOut (x : Contract) : (s.setContract k x).podOut = s.podOut := rfl
@[simp] theorem State.setContract_podIn (x : Contract) : (s.setContract k x).podIn = s.podIn := rfl
@[simp] theorem State.setContract_posted (x : Contract) : (s.setContract k x).posted = s.posted := rfl
@[simp] theorem State.setContract_engPod (x : Contract) : (s.setContract k x).engPod = s.engPod := rfl
@[simp] theorem State.setContract_amoLeft (x : Contract) : (s.setContract k x).amoLeft = s.amoLeft := rfl
@[simp] theorem State.setContract_comps (x : Contract) : (s.setContract k x).comps = s.comps := rfl
@[simp] theorem State.setContract_migsrc (x : Contract) : (s.setContract k x).migsrc = s.migsrc := rfl
@[simp] theorem State.setContract_migdst (x : Contract) : (s.setContract k x).migdst = s.migdst := rfl
@[simp] theorem State.setContract_miglen (x : Contract) : (s.setContract k x).miglen = s.miglen := rfl
@[simp] theorem State.setContract_migctl (x : Contract) : (s.setContract k x).migctl = s.migctl := rfl
@[simp] theorem State.setContract_pcnt (x : Contract) : (s.setContract k x).pcnt = s.pcnt := rfl
@[simp] theorem State.setContract_migDue (x : Contract) : (s.setContract k x).migDue = s.migDue := rfl
@[simp] theorem State.setContract_pastRef (x : Contract) : (s.setContract k x).pastRef = s.pastRef := rfl
@[simp] theorem State.setContract_events (x : Contract) : (s.setContract k x).events = s.events := rfl
@[simp] theorem State.setContract_traceQ (x : Contract) : (s.setContract k x).traceQ = s.traceQ := rfl

/-! ### setLink -/

@[simp] theorem State.setLink_clock (x : Link) : (s.setLink k x).clock = s.clock := rfl
@[simp] theorem State.setLink_phase (x : Link) : (s.setLink k x).phase = s.phase := rfl
@[simp] theorem State.setLink_issueCol (x : Link) : (s.setLink k x).issueCol = s.issueCol := rfl
@[simp] theorem State.setLink_inbox (x : Link) : (s.setLink k x).inbox = s.inbox := rfl
@[simp] theorem State.setLink_cur (x : Link) : (s.setLink k x).cur = s.cur := rfl
@[simp] theorem State.setLink_att (x : Link) : (s.setLink k x).att = s.att := rfl
@[simp] theorem State.setLink_freeCtr (x : Link) : (s.setLink k x).freeCtr = s.freeCtr := rfl
@[simp] theorem State.setLink_uid (x : Link) : (s.setLink k x).uid = s.uid := rfl
@[simp] theorem State.setLink_cd (x : Link) : (s.setLink k x).cd = s.cd := rfl
@[simp] theorem State.setLink_cc (x : Link) : (s.setLink k x).cc = s.cc := rfl
@[simp] theorem State.setLink_core (x : Link) : (s.setLink k x).core = s.core := rfl
@[simp] theorem State.setLink_col (x : Link) : (s.setLink k x).col = s.col := rfl
@[simp] theorem State.setLink_quad (x : Link) : (s.setLink k x).quad = s.quad := rfl
@[simp] theorem State.setLink_eng (x : Link) : (s.setLink k x).eng = s.eng := rfl
@[simp] theorem State.setLink_die (x : Link) : (s.setLink k x).die = s.die := rfl
@[simp] theorem State.setLink_mem (x : Link) : (s.setLink k x).mem = s.mem := rfl
@[simp] theorem State.setLink_poison (x : Link) : (s.setLink k x).poison = s.poison := rfl
@[simp] theorem State.setLink_lost (x : Link) : (s.setLink k x).lost = s.lost := rfl
@[simp] theorem State.setLink_sockets (x : Link) : (s.setLink k x).sockets = s.sockets := rfl
@[simp] theorem State.setLink_boot (x : Link) : (s.setLink k x).boot = s.boot := rfl
@[simp] theorem State.setLink_start (x : Link) : (s.setLink k x).start = s.start := rfl
@[simp] theorem State.setLink_ivStacks (x : Link) : (s.setLink k x).ivStacks = s.ivStacks := rfl
@[simp] theorem State.setLink_queues (x : Link) : (s.setLink k x).queues = s.queues := rfl
@[simp] theorem State.setLink_feLast (x : Link) : (s.setLink k x).feLast = s.feLast := rfl
@[simp] theorem State.setLink_launches (x : Link) : (s.setLink k x).launches = s.launches := rfl
@[simp] theorem State.setLink_nextLaunch (x : Link) : (s.setLink k x).nextLaunch = s.nextLaunch := rfl
@[simp] theorem State.setLink_swaps (x : Link) : (s.setLink k x).swaps = s.swaps := rfl
@[simp] theorem State.setLink_nextSwap (x : Link) : (s.setLink k x).nextSwap = s.nextSwap := rfl
@[simp] theorem State.setLink_ranges (x : Link) : (s.setLink k x).ranges = s.ranges := rfl
@[simp] theorem State.setLink_grabs (x : Link) : (s.setLink k x).grabs = s.grabs := rfl
@[simp] theorem State.setLink_barriers (x : Link) : (s.setLink k x).barriers = s.barriers := rfl
@[simp] theorem State.setLink_colls (x : Link) : (s.setLink k x).colls = s.colls := rfl
@[simp] theorem State.setLink_contracts (x : Link) : (s.setLink k x).contracts = s.contracts := rfl
@[simp] theorem State.setLink_parts (x : Link) : (s.setLink k x).parts = s.parts := rfl
@[simp] theorem State.setLink_mgmt (x : Link) : (s.setLink k x).mgmt = s.mgmt := rfl
@[simp] theorem State.setLink_apprcmd (x : Link) : (s.setLink k x).apprcmd = s.apprcmd := rfl
@[simp] theorem State.setLink_evbase (x : Link) : (s.setLink k x).evbase = s.evbase := rfl
@[simp] theorem State.setLink_attpend (x : Link) : (s.setLink k x).attpend = s.attpend := rfl
@[simp] theorem State.setLink_attverd (x : Link) : (s.setLink k x).attverd = s.attverd := rfl
@[simp] theorem State.setLink_repctl (x : Link) : (s.setLink k x).repctl = s.repctl := rfl
@[simp] theorem State.setLink_repcmd (x : Link) : (s.setLink k x).repcmd = s.repcmd := rfl
@[simp] theorem State.setLink_repLog (x : Link) : (s.setLink k x).repLog = s.repLog := rfl
@[simp] theorem State.setLink_repair (x : Link) : (s.setLink k x).repair = s.repair := rfl
@[simp] theorem State.setLink_repDue (x : Link) : (s.setLink k x).repDue = s.repDue := rfl
@[simp] theorem State.setLink_podform (x : Link) : (s.setLink k x).podform = s.podform := rfl
@[simp] theorem State.setLink_podrt (x : Link) : (s.setLink k x).podrt = s.podrt := rfl
@[simp] theorem State.setLink_podspc (x : Link) : (s.setLink k x).podspc = s.podspc := rfl
@[simp] theorem State.setLink_podgrp (x : Link) : (s.setLink k x).podgrp = s.podgrp := rfl
@[simp] theorem State.setLink_podOut (x : Link) : (s.setLink k x).podOut = s.podOut := rfl
@[simp] theorem State.setLink_podIn (x : Link) : (s.setLink k x).podIn = s.podIn := rfl
@[simp] theorem State.setLink_posted (x : Link) : (s.setLink k x).posted = s.posted := rfl
@[simp] theorem State.setLink_engPod (x : Link) : (s.setLink k x).engPod = s.engPod := rfl
@[simp] theorem State.setLink_amoLeft (x : Link) : (s.setLink k x).amoLeft = s.amoLeft := rfl
@[simp] theorem State.setLink_comps (x : Link) : (s.setLink k x).comps = s.comps := rfl
@[simp] theorem State.setLink_migsrc (x : Link) : (s.setLink k x).migsrc = s.migsrc := rfl
@[simp] theorem State.setLink_migdst (x : Link) : (s.setLink k x).migdst = s.migdst := rfl
@[simp] theorem State.setLink_miglen (x : Link) : (s.setLink k x).miglen = s.miglen := rfl
@[simp] theorem State.setLink_migctl (x : Link) : (s.setLink k x).migctl = s.migctl := rfl
@[simp] theorem State.setLink_pcnt (x : Link) : (s.setLink k x).pcnt = s.pcnt := rfl
@[simp] theorem State.setLink_migDue (x : Link) : (s.setLink k x).migDue = s.migDue := rfl
@[simp] theorem State.setLink_pastRef (x : Link) : (s.setLink k x).pastRef = s.pastRef := rfl
@[simp] theorem State.setLink_events (x : Link) : (s.setLink k x).events = s.events := rfl
@[simp] theorem State.setLink_traceQ (x : Link) : (s.setLink k x).traceQ = s.traceQ := rfl

/-! ### setPodgrp -/

@[simp] theorem State.setPodgrp_clock (x : PodGrp) : (s.setPodgrp k x).clock = s.clock := rfl
@[simp] theorem State.setPodgrp_phase (x : PodGrp) : (s.setPodgrp k x).phase = s.phase := rfl
@[simp] theorem State.setPodgrp_issueCol (x : PodGrp) : (s.setPodgrp k x).issueCol = s.issueCol := rfl
@[simp] theorem State.setPodgrp_inbox (x : PodGrp) : (s.setPodgrp k x).inbox = s.inbox := rfl
@[simp] theorem State.setPodgrp_cur (x : PodGrp) : (s.setPodgrp k x).cur = s.cur := rfl
@[simp] theorem State.setPodgrp_att (x : PodGrp) : (s.setPodgrp k x).att = s.att := rfl
@[simp] theorem State.setPodgrp_freeCtr (x : PodGrp) : (s.setPodgrp k x).freeCtr = s.freeCtr := rfl
@[simp] theorem State.setPodgrp_uid (x : PodGrp) : (s.setPodgrp k x).uid = s.uid := rfl
@[simp] theorem State.setPodgrp_cd (x : PodGrp) : (s.setPodgrp k x).cd = s.cd := rfl
@[simp] theorem State.setPodgrp_cc (x : PodGrp) : (s.setPodgrp k x).cc = s.cc := rfl
@[simp] theorem State.setPodgrp_core (x : PodGrp) : (s.setPodgrp k x).core = s.core := rfl
@[simp] theorem State.setPodgrp_col (x : PodGrp) : (s.setPodgrp k x).col = s.col := rfl
@[simp] theorem State.setPodgrp_quad (x : PodGrp) : (s.setPodgrp k x).quad = s.quad := rfl
@[simp] theorem State.setPodgrp_eng (x : PodGrp) : (s.setPodgrp k x).eng = s.eng := rfl
@[simp] theorem State.setPodgrp_die (x : PodGrp) : (s.setPodgrp k x).die = s.die := rfl
@[simp] theorem State.setPodgrp_mem (x : PodGrp) : (s.setPodgrp k x).mem = s.mem := rfl
@[simp] theorem State.setPodgrp_poison (x : PodGrp) : (s.setPodgrp k x).poison = s.poison := rfl
@[simp] theorem State.setPodgrp_lost (x : PodGrp) : (s.setPodgrp k x).lost = s.lost := rfl
@[simp] theorem State.setPodgrp_sockets (x : PodGrp) : (s.setPodgrp k x).sockets = s.sockets := rfl
@[simp] theorem State.setPodgrp_boot (x : PodGrp) : (s.setPodgrp k x).boot = s.boot := rfl
@[simp] theorem State.setPodgrp_start (x : PodGrp) : (s.setPodgrp k x).start = s.start := rfl
@[simp] theorem State.setPodgrp_ivStacks (x : PodGrp) : (s.setPodgrp k x).ivStacks = s.ivStacks := rfl
@[simp] theorem State.setPodgrp_queues (x : PodGrp) : (s.setPodgrp k x).queues = s.queues := rfl
@[simp] theorem State.setPodgrp_feLast (x : PodGrp) : (s.setPodgrp k x).feLast = s.feLast := rfl
@[simp] theorem State.setPodgrp_launches (x : PodGrp) : (s.setPodgrp k x).launches = s.launches := rfl
@[simp] theorem State.setPodgrp_nextLaunch (x : PodGrp) : (s.setPodgrp k x).nextLaunch = s.nextLaunch := rfl
@[simp] theorem State.setPodgrp_swaps (x : PodGrp) : (s.setPodgrp k x).swaps = s.swaps := rfl
@[simp] theorem State.setPodgrp_nextSwap (x : PodGrp) : (s.setPodgrp k x).nextSwap = s.nextSwap := rfl
@[simp] theorem State.setPodgrp_ranges (x : PodGrp) : (s.setPodgrp k x).ranges = s.ranges := rfl
@[simp] theorem State.setPodgrp_grabs (x : PodGrp) : (s.setPodgrp k x).grabs = s.grabs := rfl
@[simp] theorem State.setPodgrp_barriers (x : PodGrp) : (s.setPodgrp k x).barriers = s.barriers := rfl
@[simp] theorem State.setPodgrp_colls (x : PodGrp) : (s.setPodgrp k x).colls = s.colls := rfl
@[simp] theorem State.setPodgrp_contracts (x : PodGrp) : (s.setPodgrp k x).contracts = s.contracts := rfl
@[simp] theorem State.setPodgrp_parts (x : PodGrp) : (s.setPodgrp k x).parts = s.parts := rfl
@[simp] theorem State.setPodgrp_mgmt (x : PodGrp) : (s.setPodgrp k x).mgmt = s.mgmt := rfl
@[simp] theorem State.setPodgrp_apprcmd (x : PodGrp) : (s.setPodgrp k x).apprcmd = s.apprcmd := rfl
@[simp] theorem State.setPodgrp_evbase (x : PodGrp) : (s.setPodgrp k x).evbase = s.evbase := rfl
@[simp] theorem State.setPodgrp_attpend (x : PodGrp) : (s.setPodgrp k x).attpend = s.attpend := rfl
@[simp] theorem State.setPodgrp_attverd (x : PodGrp) : (s.setPodgrp k x).attverd = s.attverd := rfl
@[simp] theorem State.setPodgrp_repctl (x : PodGrp) : (s.setPodgrp k x).repctl = s.repctl := rfl
@[simp] theorem State.setPodgrp_repcmd (x : PodGrp) : (s.setPodgrp k x).repcmd = s.repcmd := rfl
@[simp] theorem State.setPodgrp_repLog (x : PodGrp) : (s.setPodgrp k x).repLog = s.repLog := rfl
@[simp] theorem State.setPodgrp_repair (x : PodGrp) : (s.setPodgrp k x).repair = s.repair := rfl
@[simp] theorem State.setPodgrp_repDue (x : PodGrp) : (s.setPodgrp k x).repDue = s.repDue := rfl
@[simp] theorem State.setPodgrp_podform (x : PodGrp) : (s.setPodgrp k x).podform = s.podform := rfl
@[simp] theorem State.setPodgrp_links (x : PodGrp) : (s.setPodgrp k x).links = s.links := rfl
@[simp] theorem State.setPodgrp_podrt (x : PodGrp) : (s.setPodgrp k x).podrt = s.podrt := rfl
@[simp] theorem State.setPodgrp_podspc (x : PodGrp) : (s.setPodgrp k x).podspc = s.podspc := rfl
@[simp] theorem State.setPodgrp_podOut (x : PodGrp) : (s.setPodgrp k x).podOut = s.podOut := rfl
@[simp] theorem State.setPodgrp_podIn (x : PodGrp) : (s.setPodgrp k x).podIn = s.podIn := rfl
@[simp] theorem State.setPodgrp_posted (x : PodGrp) : (s.setPodgrp k x).posted = s.posted := rfl
@[simp] theorem State.setPodgrp_engPod (x : PodGrp) : (s.setPodgrp k x).engPod = s.engPod := rfl
@[simp] theorem State.setPodgrp_amoLeft (x : PodGrp) : (s.setPodgrp k x).amoLeft = s.amoLeft := rfl
@[simp] theorem State.setPodgrp_comps (x : PodGrp) : (s.setPodgrp k x).comps = s.comps := rfl
@[simp] theorem State.setPodgrp_migsrc (x : PodGrp) : (s.setPodgrp k x).migsrc = s.migsrc := rfl
@[simp] theorem State.setPodgrp_migdst (x : PodGrp) : (s.setPodgrp k x).migdst = s.migdst := rfl
@[simp] theorem State.setPodgrp_miglen (x : PodGrp) : (s.setPodgrp k x).miglen = s.miglen := rfl
@[simp] theorem State.setPodgrp_migctl (x : PodGrp) : (s.setPodgrp k x).migctl = s.migctl := rfl
@[simp] theorem State.setPodgrp_pcnt (x : PodGrp) : (s.setPodgrp k x).pcnt = s.pcnt := rfl
@[simp] theorem State.setPodgrp_migDue (x : PodGrp) : (s.setPodgrp k x).migDue = s.migDue := rfl
@[simp] theorem State.setPodgrp_pastRef (x : PodGrp) : (s.setPodgrp k x).pastRef = s.pastRef := rfl
@[simp] theorem State.setPodgrp_events (x : PodGrp) : (s.setPodgrp k x).events = s.events := rfl
@[simp] theorem State.setPodgrp_traceQ (x : PodGrp) : (s.setPodgrp k x).traceQ = s.traceQ := rfl

/-! ### setRepair -/

@[simp] theorem State.setRepair_clock (x : Repair) : (s.setRepair k x).clock = s.clock := rfl
@[simp] theorem State.setRepair_phase (x : Repair) : (s.setRepair k x).phase = s.phase := rfl
@[simp] theorem State.setRepair_issueCol (x : Repair) : (s.setRepair k x).issueCol = s.issueCol := rfl
@[simp] theorem State.setRepair_inbox (x : Repair) : (s.setRepair k x).inbox = s.inbox := rfl
@[simp] theorem State.setRepair_cur (x : Repair) : (s.setRepair k x).cur = s.cur := rfl
@[simp] theorem State.setRepair_att (x : Repair) : (s.setRepair k x).att = s.att := rfl
@[simp] theorem State.setRepair_freeCtr (x : Repair) : (s.setRepair k x).freeCtr = s.freeCtr := rfl
@[simp] theorem State.setRepair_uid (x : Repair) : (s.setRepair k x).uid = s.uid := rfl
@[simp] theorem State.setRepair_cd (x : Repair) : (s.setRepair k x).cd = s.cd := rfl
@[simp] theorem State.setRepair_cc (x : Repair) : (s.setRepair k x).cc = s.cc := rfl
@[simp] theorem State.setRepair_core (x : Repair) : (s.setRepair k x).core = s.core := rfl
@[simp] theorem State.setRepair_col (x : Repair) : (s.setRepair k x).col = s.col := rfl
@[simp] theorem State.setRepair_quad (x : Repair) : (s.setRepair k x).quad = s.quad := rfl
@[simp] theorem State.setRepair_eng (x : Repair) : (s.setRepair k x).eng = s.eng := rfl
@[simp] theorem State.setRepair_die (x : Repair) : (s.setRepair k x).die = s.die := rfl
@[simp] theorem State.setRepair_mem (x : Repair) : (s.setRepair k x).mem = s.mem := rfl
@[simp] theorem State.setRepair_poison (x : Repair) : (s.setRepair k x).poison = s.poison := rfl
@[simp] theorem State.setRepair_lost (x : Repair) : (s.setRepair k x).lost = s.lost := rfl
@[simp] theorem State.setRepair_sockets (x : Repair) : (s.setRepair k x).sockets = s.sockets := rfl
@[simp] theorem State.setRepair_boot (x : Repair) : (s.setRepair k x).boot = s.boot := rfl
@[simp] theorem State.setRepair_start (x : Repair) : (s.setRepair k x).start = s.start := rfl
@[simp] theorem State.setRepair_ivStacks (x : Repair) : (s.setRepair k x).ivStacks = s.ivStacks := rfl
@[simp] theorem State.setRepair_queues (x : Repair) : (s.setRepair k x).queues = s.queues := rfl
@[simp] theorem State.setRepair_feLast (x : Repair) : (s.setRepair k x).feLast = s.feLast := rfl
@[simp] theorem State.setRepair_launches (x : Repair) : (s.setRepair k x).launches = s.launches := rfl
@[simp] theorem State.setRepair_nextLaunch (x : Repair) : (s.setRepair k x).nextLaunch = s.nextLaunch := rfl
@[simp] theorem State.setRepair_swaps (x : Repair) : (s.setRepair k x).swaps = s.swaps := rfl
@[simp] theorem State.setRepair_nextSwap (x : Repair) : (s.setRepair k x).nextSwap = s.nextSwap := rfl
@[simp] theorem State.setRepair_ranges (x : Repair) : (s.setRepair k x).ranges = s.ranges := rfl
@[simp] theorem State.setRepair_grabs (x : Repair) : (s.setRepair k x).grabs = s.grabs := rfl
@[simp] theorem State.setRepair_barriers (x : Repair) : (s.setRepair k x).barriers = s.barriers := rfl
@[simp] theorem State.setRepair_colls (x : Repair) : (s.setRepair k x).colls = s.colls := rfl
@[simp] theorem State.setRepair_contracts (x : Repair) : (s.setRepair k x).contracts = s.contracts := rfl
@[simp] theorem State.setRepair_parts (x : Repair) : (s.setRepair k x).parts = s.parts := rfl
@[simp] theorem State.setRepair_mgmt (x : Repair) : (s.setRepair k x).mgmt = s.mgmt := rfl
@[simp] theorem State.setRepair_apprcmd (x : Repair) : (s.setRepair k x).apprcmd = s.apprcmd := rfl
@[simp] theorem State.setRepair_evbase (x : Repair) : (s.setRepair k x).evbase = s.evbase := rfl
@[simp] theorem State.setRepair_attpend (x : Repair) : (s.setRepair k x).attpend = s.attpend := rfl
@[simp] theorem State.setRepair_attverd (x : Repair) : (s.setRepair k x).attverd = s.attverd := rfl
@[simp] theorem State.setRepair_repctl (x : Repair) : (s.setRepair k x).repctl = s.repctl := rfl
@[simp] theorem State.setRepair_repcmd (x : Repair) : (s.setRepair k x).repcmd = s.repcmd := rfl
@[simp] theorem State.setRepair_repLog (x : Repair) : (s.setRepair k x).repLog = s.repLog := rfl
@[simp] theorem State.setRepair_repDue (x : Repair) : (s.setRepair k x).repDue = s.repDue := rfl
@[simp] theorem State.setRepair_podform (x : Repair) : (s.setRepair k x).podform = s.podform := rfl
@[simp] theorem State.setRepair_links (x : Repair) : (s.setRepair k x).links = s.links := rfl
@[simp] theorem State.setRepair_podrt (x : Repair) : (s.setRepair k x).podrt = s.podrt := rfl
@[simp] theorem State.setRepair_podspc (x : Repair) : (s.setRepair k x).podspc = s.podspc := rfl
@[simp] theorem State.setRepair_podgrp (x : Repair) : (s.setRepair k x).podgrp = s.podgrp := rfl
@[simp] theorem State.setRepair_podOut (x : Repair) : (s.setRepair k x).podOut = s.podOut := rfl
@[simp] theorem State.setRepair_podIn (x : Repair) : (s.setRepair k x).podIn = s.podIn := rfl
@[simp] theorem State.setRepair_posted (x : Repair) : (s.setRepair k x).posted = s.posted := rfl
@[simp] theorem State.setRepair_engPod (x : Repair) : (s.setRepair k x).engPod = s.engPod := rfl
@[simp] theorem State.setRepair_amoLeft (x : Repair) : (s.setRepair k x).amoLeft = s.amoLeft := rfl
@[simp] theorem State.setRepair_comps (x : Repair) : (s.setRepair k x).comps = s.comps := rfl
@[simp] theorem State.setRepair_migsrc (x : Repair) : (s.setRepair k x).migsrc = s.migsrc := rfl
@[simp] theorem State.setRepair_migdst (x : Repair) : (s.setRepair k x).migdst = s.migdst := rfl
@[simp] theorem State.setRepair_miglen (x : Repair) : (s.setRepair k x).miglen = s.miglen := rfl
@[simp] theorem State.setRepair_migctl (x : Repair) : (s.setRepair k x).migctl = s.migctl := rfl
@[simp] theorem State.setRepair_pcnt (x : Repair) : (s.setRepair k x).pcnt = s.pcnt := rfl
@[simp] theorem State.setRepair_migDue (x : Repair) : (s.setRepair k x).migDue = s.migDue := rfl
@[simp] theorem State.setRepair_pastRef (x : Repair) : (s.setRepair k x).pastRef = s.pastRef := rfl
@[simp] theorem State.setRepair_events (x : Repair) : (s.setRepair k x).events = s.events := rfl
@[simp] theorem State.setRepair_traceQ (x : Repair) : (s.setRepair k x).traceQ = s.traceQ := rfl

/-! ### updCore -/

@[simp] theorem State.updCore_clock (f : Core → Core) : (s.updCore k f).clock = s.clock := rfl
@[simp] theorem State.updCore_phase (f : Core → Core) : (s.updCore k f).phase = s.phase := rfl
@[simp] theorem State.updCore_issueCol (f : Core → Core) : (s.updCore k f).issueCol = s.issueCol := rfl
@[simp] theorem State.updCore_inbox (f : Core → Core) : (s.updCore k f).inbox = s.inbox := rfl
@[simp] theorem State.updCore_cur (f : Core → Core) : (s.updCore k f).cur = s.cur := rfl
@[simp] theorem State.updCore_att (f : Core → Core) : (s.updCore k f).att = s.att := rfl
@[simp] theorem State.updCore_freeCtr (f : Core → Core) : (s.updCore k f).freeCtr = s.freeCtr := rfl
@[simp] theorem State.updCore_uid (f : Core → Core) : (s.updCore k f).uid = s.uid := rfl
@[simp] theorem State.updCore_cd (f : Core → Core) : (s.updCore k f).cd = s.cd := rfl
@[simp] theorem State.updCore_cc (f : Core → Core) : (s.updCore k f).cc = s.cc := rfl
@[simp] theorem State.updCore_col (f : Core → Core) : (s.updCore k f).col = s.col := rfl
@[simp] theorem State.updCore_quad (f : Core → Core) : (s.updCore k f).quad = s.quad := rfl
@[simp] theorem State.updCore_eng (f : Core → Core) : (s.updCore k f).eng = s.eng := rfl
@[simp] theorem State.updCore_die (f : Core → Core) : (s.updCore k f).die = s.die := rfl
@[simp] theorem State.updCore_mem (f : Core → Core) : (s.updCore k f).mem = s.mem := rfl
@[simp] theorem State.updCore_poison (f : Core → Core) : (s.updCore k f).poison = s.poison := rfl
@[simp] theorem State.updCore_lost (f : Core → Core) : (s.updCore k f).lost = s.lost := rfl
@[simp] theorem State.updCore_sockets (f : Core → Core) : (s.updCore k f).sockets = s.sockets := rfl
@[simp] theorem State.updCore_boot (f : Core → Core) : (s.updCore k f).boot = s.boot := rfl
@[simp] theorem State.updCore_start (f : Core → Core) : (s.updCore k f).start = s.start := rfl
@[simp] theorem State.updCore_ivStacks (f : Core → Core) : (s.updCore k f).ivStacks = s.ivStacks := rfl
@[simp] theorem State.updCore_queues (f : Core → Core) : (s.updCore k f).queues = s.queues := rfl
@[simp] theorem State.updCore_feLast (f : Core → Core) : (s.updCore k f).feLast = s.feLast := rfl
@[simp] theorem State.updCore_launches (f : Core → Core) : (s.updCore k f).launches = s.launches := rfl
@[simp] theorem State.updCore_nextLaunch (f : Core → Core) : (s.updCore k f).nextLaunch = s.nextLaunch := rfl
@[simp] theorem State.updCore_swaps (f : Core → Core) : (s.updCore k f).swaps = s.swaps := rfl
@[simp] theorem State.updCore_nextSwap (f : Core → Core) : (s.updCore k f).nextSwap = s.nextSwap := rfl
@[simp] theorem State.updCore_ranges (f : Core → Core) : (s.updCore k f).ranges = s.ranges := rfl
@[simp] theorem State.updCore_grabs (f : Core → Core) : (s.updCore k f).grabs = s.grabs := rfl
@[simp] theorem State.updCore_barriers (f : Core → Core) : (s.updCore k f).barriers = s.barriers := rfl
@[simp] theorem State.updCore_colls (f : Core → Core) : (s.updCore k f).colls = s.colls := rfl
@[simp] theorem State.updCore_contracts (f : Core → Core) : (s.updCore k f).contracts = s.contracts := rfl
@[simp] theorem State.updCore_parts (f : Core → Core) : (s.updCore k f).parts = s.parts := rfl
@[simp] theorem State.updCore_mgmt (f : Core → Core) : (s.updCore k f).mgmt = s.mgmt := rfl
@[simp] theorem State.updCore_apprcmd (f : Core → Core) : (s.updCore k f).apprcmd = s.apprcmd := rfl
@[simp] theorem State.updCore_evbase (f : Core → Core) : (s.updCore k f).evbase = s.evbase := rfl
@[simp] theorem State.updCore_attpend (f : Core → Core) : (s.updCore k f).attpend = s.attpend := rfl
@[simp] theorem State.updCore_attverd (f : Core → Core) : (s.updCore k f).attverd = s.attverd := rfl
@[simp] theorem State.updCore_repctl (f : Core → Core) : (s.updCore k f).repctl = s.repctl := rfl
@[simp] theorem State.updCore_repcmd (f : Core → Core) : (s.updCore k f).repcmd = s.repcmd := rfl
@[simp] theorem State.updCore_repLog (f : Core → Core) : (s.updCore k f).repLog = s.repLog := rfl
@[simp] theorem State.updCore_repair (f : Core → Core) : (s.updCore k f).repair = s.repair := rfl
@[simp] theorem State.updCore_repDue (f : Core → Core) : (s.updCore k f).repDue = s.repDue := rfl
@[simp] theorem State.updCore_podform (f : Core → Core) : (s.updCore k f).podform = s.podform := rfl
@[simp] theorem State.updCore_links (f : Core → Core) : (s.updCore k f).links = s.links := rfl
@[simp] theorem State.updCore_podrt (f : Core → Core) : (s.updCore k f).podrt = s.podrt := rfl
@[simp] theorem State.updCore_podspc (f : Core → Core) : (s.updCore k f).podspc = s.podspc := rfl
@[simp] theorem State.updCore_podgrp (f : Core → Core) : (s.updCore k f).podgrp = s.podgrp := rfl
@[simp] theorem State.updCore_podOut (f : Core → Core) : (s.updCore k f).podOut = s.podOut := rfl
@[simp] theorem State.updCore_podIn (f : Core → Core) : (s.updCore k f).podIn = s.podIn := rfl
@[simp] theorem State.updCore_posted (f : Core → Core) : (s.updCore k f).posted = s.posted := rfl
@[simp] theorem State.updCore_engPod (f : Core → Core) : (s.updCore k f).engPod = s.engPod := rfl
@[simp] theorem State.updCore_amoLeft (f : Core → Core) : (s.updCore k f).amoLeft = s.amoLeft := rfl
@[simp] theorem State.updCore_comps (f : Core → Core) : (s.updCore k f).comps = s.comps := rfl
@[simp] theorem State.updCore_migsrc (f : Core → Core) : (s.updCore k f).migsrc = s.migsrc := rfl
@[simp] theorem State.updCore_migdst (f : Core → Core) : (s.updCore k f).migdst = s.migdst := rfl
@[simp] theorem State.updCore_miglen (f : Core → Core) : (s.updCore k f).miglen = s.miglen := rfl
@[simp] theorem State.updCore_migctl (f : Core → Core) : (s.updCore k f).migctl = s.migctl := rfl
@[simp] theorem State.updCore_pcnt (f : Core → Core) : (s.updCore k f).pcnt = s.pcnt := rfl
@[simp] theorem State.updCore_migDue (f : Core → Core) : (s.updCore k f).migDue = s.migDue := rfl
@[simp] theorem State.updCore_pastRef (f : Core → Core) : (s.updCore k f).pastRef = s.pastRef := rfl
@[simp] theorem State.updCore_events (f : Core → Core) : (s.updCore k f).events = s.events := rfl
@[simp] theorem State.updCore_traceQ (f : Core → Core) : (s.updCore k f).traceQ = s.traceQ := rfl

/-! ### updCc -/

@[simp] theorem State.updCc_clock (f : ColCtx → ColCtx) : (s.updCc k f).clock = s.clock := rfl
@[simp] theorem State.updCc_phase (f : ColCtx → ColCtx) : (s.updCc k f).phase = s.phase := rfl
@[simp] theorem State.updCc_issueCol (f : ColCtx → ColCtx) : (s.updCc k f).issueCol = s.issueCol := rfl
@[simp] theorem State.updCc_inbox (f : ColCtx → ColCtx) : (s.updCc k f).inbox = s.inbox := rfl
@[simp] theorem State.updCc_cur (f : ColCtx → ColCtx) : (s.updCc k f).cur = s.cur := rfl
@[simp] theorem State.updCc_att (f : ColCtx → ColCtx) : (s.updCc k f).att = s.att := rfl
@[simp] theorem State.updCc_freeCtr (f : ColCtx → ColCtx) : (s.updCc k f).freeCtr = s.freeCtr := rfl
@[simp] theorem State.updCc_uid (f : ColCtx → ColCtx) : (s.updCc k f).uid = s.uid := rfl
@[simp] theorem State.updCc_cd (f : ColCtx → ColCtx) : (s.updCc k f).cd = s.cd := rfl
@[simp] theorem State.updCc_core (f : ColCtx → ColCtx) : (s.updCc k f).core = s.core := rfl
@[simp] theorem State.updCc_col (f : ColCtx → ColCtx) : (s.updCc k f).col = s.col := rfl
@[simp] theorem State.updCc_quad (f : ColCtx → ColCtx) : (s.updCc k f).quad = s.quad := rfl
@[simp] theorem State.updCc_eng (f : ColCtx → ColCtx) : (s.updCc k f).eng = s.eng := rfl
@[simp] theorem State.updCc_die (f : ColCtx → ColCtx) : (s.updCc k f).die = s.die := rfl
@[simp] theorem State.updCc_mem (f : ColCtx → ColCtx) : (s.updCc k f).mem = s.mem := rfl
@[simp] theorem State.updCc_poison (f : ColCtx → ColCtx) : (s.updCc k f).poison = s.poison := rfl
@[simp] theorem State.updCc_lost (f : ColCtx → ColCtx) : (s.updCc k f).lost = s.lost := rfl
@[simp] theorem State.updCc_sockets (f : ColCtx → ColCtx) : (s.updCc k f).sockets = s.sockets := rfl
@[simp] theorem State.updCc_boot (f : ColCtx → ColCtx) : (s.updCc k f).boot = s.boot := rfl
@[simp] theorem State.updCc_start (f : ColCtx → ColCtx) : (s.updCc k f).start = s.start := rfl
@[simp] theorem State.updCc_ivStacks (f : ColCtx → ColCtx) : (s.updCc k f).ivStacks = s.ivStacks := rfl
@[simp] theorem State.updCc_queues (f : ColCtx → ColCtx) : (s.updCc k f).queues = s.queues := rfl
@[simp] theorem State.updCc_feLast (f : ColCtx → ColCtx) : (s.updCc k f).feLast = s.feLast := rfl
@[simp] theorem State.updCc_launches (f : ColCtx → ColCtx) : (s.updCc k f).launches = s.launches := rfl
@[simp] theorem State.updCc_nextLaunch (f : ColCtx → ColCtx) : (s.updCc k f).nextLaunch = s.nextLaunch := rfl
@[simp] theorem State.updCc_swaps (f : ColCtx → ColCtx) : (s.updCc k f).swaps = s.swaps := rfl
@[simp] theorem State.updCc_nextSwap (f : ColCtx → ColCtx) : (s.updCc k f).nextSwap = s.nextSwap := rfl
@[simp] theorem State.updCc_ranges (f : ColCtx → ColCtx) : (s.updCc k f).ranges = s.ranges := rfl
@[simp] theorem State.updCc_grabs (f : ColCtx → ColCtx) : (s.updCc k f).grabs = s.grabs := rfl
@[simp] theorem State.updCc_barriers (f : ColCtx → ColCtx) : (s.updCc k f).barriers = s.barriers := rfl
@[simp] theorem State.updCc_colls (f : ColCtx → ColCtx) : (s.updCc k f).colls = s.colls := rfl
@[simp] theorem State.updCc_contracts (f : ColCtx → ColCtx) : (s.updCc k f).contracts = s.contracts := rfl
@[simp] theorem State.updCc_parts (f : ColCtx → ColCtx) : (s.updCc k f).parts = s.parts := rfl
@[simp] theorem State.updCc_mgmt (f : ColCtx → ColCtx) : (s.updCc k f).mgmt = s.mgmt := rfl
@[simp] theorem State.updCc_apprcmd (f : ColCtx → ColCtx) : (s.updCc k f).apprcmd = s.apprcmd := rfl
@[simp] theorem State.updCc_evbase (f : ColCtx → ColCtx) : (s.updCc k f).evbase = s.evbase := rfl
@[simp] theorem State.updCc_attpend (f : ColCtx → ColCtx) : (s.updCc k f).attpend = s.attpend := rfl
@[simp] theorem State.updCc_attverd (f : ColCtx → ColCtx) : (s.updCc k f).attverd = s.attverd := rfl
@[simp] theorem State.updCc_repctl (f : ColCtx → ColCtx) : (s.updCc k f).repctl = s.repctl := rfl
@[simp] theorem State.updCc_repcmd (f : ColCtx → ColCtx) : (s.updCc k f).repcmd = s.repcmd := rfl
@[simp] theorem State.updCc_repLog (f : ColCtx → ColCtx) : (s.updCc k f).repLog = s.repLog := rfl
@[simp] theorem State.updCc_repair (f : ColCtx → ColCtx) : (s.updCc k f).repair = s.repair := rfl
@[simp] theorem State.updCc_repDue (f : ColCtx → ColCtx) : (s.updCc k f).repDue = s.repDue := rfl
@[simp] theorem State.updCc_podform (f : ColCtx → ColCtx) : (s.updCc k f).podform = s.podform := rfl
@[simp] theorem State.updCc_links (f : ColCtx → ColCtx) : (s.updCc k f).links = s.links := rfl
@[simp] theorem State.updCc_podrt (f : ColCtx → ColCtx) : (s.updCc k f).podrt = s.podrt := rfl
@[simp] theorem State.updCc_podspc (f : ColCtx → ColCtx) : (s.updCc k f).podspc = s.podspc := rfl
@[simp] theorem State.updCc_podgrp (f : ColCtx → ColCtx) : (s.updCc k f).podgrp = s.podgrp := rfl
@[simp] theorem State.updCc_podOut (f : ColCtx → ColCtx) : (s.updCc k f).podOut = s.podOut := rfl
@[simp] theorem State.updCc_podIn (f : ColCtx → ColCtx) : (s.updCc k f).podIn = s.podIn := rfl
@[simp] theorem State.updCc_posted (f : ColCtx → ColCtx) : (s.updCc k f).posted = s.posted := rfl
@[simp] theorem State.updCc_engPod (f : ColCtx → ColCtx) : (s.updCc k f).engPod = s.engPod := rfl
@[simp] theorem State.updCc_amoLeft (f : ColCtx → ColCtx) : (s.updCc k f).amoLeft = s.amoLeft := rfl
@[simp] theorem State.updCc_comps (f : ColCtx → ColCtx) : (s.updCc k f).comps = s.comps := rfl
@[simp] theorem State.updCc_migsrc (f : ColCtx → ColCtx) : (s.updCc k f).migsrc = s.migsrc := rfl
@[simp] theorem State.updCc_migdst (f : ColCtx → ColCtx) : (s.updCc k f).migdst = s.migdst := rfl
@[simp] theorem State.updCc_miglen (f : ColCtx → ColCtx) : (s.updCc k f).miglen = s.miglen := rfl
@[simp] theorem State.updCc_migctl (f : ColCtx → ColCtx) : (s.updCc k f).migctl = s.migctl := rfl
@[simp] theorem State.updCc_pcnt (f : ColCtx → ColCtx) : (s.updCc k f).pcnt = s.pcnt := rfl
@[simp] theorem State.updCc_migDue (f : ColCtx → ColCtx) : (s.updCc k f).migDue = s.migDue := rfl
@[simp] theorem State.updCc_pastRef (f : ColCtx → ColCtx) : (s.updCc k f).pastRef = s.pastRef := rfl
@[simp] theorem State.updCc_events (f : ColCtx → ColCtx) : (s.updCc k f).events = s.events := rfl
@[simp] theorem State.updCc_traceQ (f : ColCtx → ColCtx) : (s.updCc k f).traceQ = s.traceQ := rfl

/-! ### updCol -/

@[simp] theorem State.updCol_clock (f : Column → Column) : (s.updCol k f).clock = s.clock := rfl
@[simp] theorem State.updCol_phase (f : Column → Column) : (s.updCol k f).phase = s.phase := rfl
@[simp] theorem State.updCol_issueCol (f : Column → Column) : (s.updCol k f).issueCol = s.issueCol := rfl
@[simp] theorem State.updCol_inbox (f : Column → Column) : (s.updCol k f).inbox = s.inbox := rfl
@[simp] theorem State.updCol_cur (f : Column → Column) : (s.updCol k f).cur = s.cur := rfl
@[simp] theorem State.updCol_att (f : Column → Column) : (s.updCol k f).att = s.att := rfl
@[simp] theorem State.updCol_freeCtr (f : Column → Column) : (s.updCol k f).freeCtr = s.freeCtr := rfl
@[simp] theorem State.updCol_uid (f : Column → Column) : (s.updCol k f).uid = s.uid := rfl
@[simp] theorem State.updCol_cd (f : Column → Column) : (s.updCol k f).cd = s.cd := rfl
@[simp] theorem State.updCol_cc (f : Column → Column) : (s.updCol k f).cc = s.cc := rfl
@[simp] theorem State.updCol_core (f : Column → Column) : (s.updCol k f).core = s.core := rfl
@[simp] theorem State.updCol_quad (f : Column → Column) : (s.updCol k f).quad = s.quad := rfl
@[simp] theorem State.updCol_eng (f : Column → Column) : (s.updCol k f).eng = s.eng := rfl
@[simp] theorem State.updCol_die (f : Column → Column) : (s.updCol k f).die = s.die := rfl
@[simp] theorem State.updCol_mem (f : Column → Column) : (s.updCol k f).mem = s.mem := rfl
@[simp] theorem State.updCol_poison (f : Column → Column) : (s.updCol k f).poison = s.poison := rfl
@[simp] theorem State.updCol_lost (f : Column → Column) : (s.updCol k f).lost = s.lost := rfl
@[simp] theorem State.updCol_sockets (f : Column → Column) : (s.updCol k f).sockets = s.sockets := rfl
@[simp] theorem State.updCol_boot (f : Column → Column) : (s.updCol k f).boot = s.boot := rfl
@[simp] theorem State.updCol_start (f : Column → Column) : (s.updCol k f).start = s.start := rfl
@[simp] theorem State.updCol_ivStacks (f : Column → Column) : (s.updCol k f).ivStacks = s.ivStacks := rfl
@[simp] theorem State.updCol_queues (f : Column → Column) : (s.updCol k f).queues = s.queues := rfl
@[simp] theorem State.updCol_feLast (f : Column → Column) : (s.updCol k f).feLast = s.feLast := rfl
@[simp] theorem State.updCol_launches (f : Column → Column) : (s.updCol k f).launches = s.launches := rfl
@[simp] theorem State.updCol_nextLaunch (f : Column → Column) : (s.updCol k f).nextLaunch = s.nextLaunch := rfl
@[simp] theorem State.updCol_swaps (f : Column → Column) : (s.updCol k f).swaps = s.swaps := rfl
@[simp] theorem State.updCol_nextSwap (f : Column → Column) : (s.updCol k f).nextSwap = s.nextSwap := rfl
@[simp] theorem State.updCol_ranges (f : Column → Column) : (s.updCol k f).ranges = s.ranges := rfl
@[simp] theorem State.updCol_grabs (f : Column → Column) : (s.updCol k f).grabs = s.grabs := rfl
@[simp] theorem State.updCol_barriers (f : Column → Column) : (s.updCol k f).barriers = s.barriers := rfl
@[simp] theorem State.updCol_colls (f : Column → Column) : (s.updCol k f).colls = s.colls := rfl
@[simp] theorem State.updCol_contracts (f : Column → Column) : (s.updCol k f).contracts = s.contracts := rfl
@[simp] theorem State.updCol_parts (f : Column → Column) : (s.updCol k f).parts = s.parts := rfl
@[simp] theorem State.updCol_mgmt (f : Column → Column) : (s.updCol k f).mgmt = s.mgmt := rfl
@[simp] theorem State.updCol_apprcmd (f : Column → Column) : (s.updCol k f).apprcmd = s.apprcmd := rfl
@[simp] theorem State.updCol_evbase (f : Column → Column) : (s.updCol k f).evbase = s.evbase := rfl
@[simp] theorem State.updCol_attpend (f : Column → Column) : (s.updCol k f).attpend = s.attpend := rfl
@[simp] theorem State.updCol_attverd (f : Column → Column) : (s.updCol k f).attverd = s.attverd := rfl
@[simp] theorem State.updCol_repctl (f : Column → Column) : (s.updCol k f).repctl = s.repctl := rfl
@[simp] theorem State.updCol_repcmd (f : Column → Column) : (s.updCol k f).repcmd = s.repcmd := rfl
@[simp] theorem State.updCol_repLog (f : Column → Column) : (s.updCol k f).repLog = s.repLog := rfl
@[simp] theorem State.updCol_repair (f : Column → Column) : (s.updCol k f).repair = s.repair := rfl
@[simp] theorem State.updCol_repDue (f : Column → Column) : (s.updCol k f).repDue = s.repDue := rfl
@[simp] theorem State.updCol_podform (f : Column → Column) : (s.updCol k f).podform = s.podform := rfl
@[simp] theorem State.updCol_links (f : Column → Column) : (s.updCol k f).links = s.links := rfl
@[simp] theorem State.updCol_podrt (f : Column → Column) : (s.updCol k f).podrt = s.podrt := rfl
@[simp] theorem State.updCol_podspc (f : Column → Column) : (s.updCol k f).podspc = s.podspc := rfl
@[simp] theorem State.updCol_podgrp (f : Column → Column) : (s.updCol k f).podgrp = s.podgrp := rfl
@[simp] theorem State.updCol_podOut (f : Column → Column) : (s.updCol k f).podOut = s.podOut := rfl
@[simp] theorem State.updCol_podIn (f : Column → Column) : (s.updCol k f).podIn = s.podIn := rfl
@[simp] theorem State.updCol_posted (f : Column → Column) : (s.updCol k f).posted = s.posted := rfl
@[simp] theorem State.updCol_engPod (f : Column → Column) : (s.updCol k f).engPod = s.engPod := rfl
@[simp] theorem State.updCol_amoLeft (f : Column → Column) : (s.updCol k f).amoLeft = s.amoLeft := rfl
@[simp] theorem State.updCol_comps (f : Column → Column) : (s.updCol k f).comps = s.comps := rfl
@[simp] theorem State.updCol_migsrc (f : Column → Column) : (s.updCol k f).migsrc = s.migsrc := rfl
@[simp] theorem State.updCol_migdst (f : Column → Column) : (s.updCol k f).migdst = s.migdst := rfl
@[simp] theorem State.updCol_miglen (f : Column → Column) : (s.updCol k f).miglen = s.miglen := rfl
@[simp] theorem State.updCol_migctl (f : Column → Column) : (s.updCol k f).migctl = s.migctl := rfl
@[simp] theorem State.updCol_pcnt (f : Column → Column) : (s.updCol k f).pcnt = s.pcnt := rfl
@[simp] theorem State.updCol_migDue (f : Column → Column) : (s.updCol k f).migDue = s.migDue := rfl
@[simp] theorem State.updCol_pastRef (f : Column → Column) : (s.updCol k f).pastRef = s.pastRef := rfl
@[simp] theorem State.updCol_events (f : Column → Column) : (s.updCol k f).events = s.events := rfl
@[simp] theorem State.updCol_traceQ (f : Column → Column) : (s.updCol k f).traceQ = s.traceQ := rfl

/-! ### updQuad -/

@[simp] theorem State.updQuad_clock (f : Quad → Quad) : (s.updQuad k f).clock = s.clock := rfl
@[simp] theorem State.updQuad_phase (f : Quad → Quad) : (s.updQuad k f).phase = s.phase := rfl
@[simp] theorem State.updQuad_issueCol (f : Quad → Quad) : (s.updQuad k f).issueCol = s.issueCol := rfl
@[simp] theorem State.updQuad_inbox (f : Quad → Quad) : (s.updQuad k f).inbox = s.inbox := rfl
@[simp] theorem State.updQuad_cur (f : Quad → Quad) : (s.updQuad k f).cur = s.cur := rfl
@[simp] theorem State.updQuad_att (f : Quad → Quad) : (s.updQuad k f).att = s.att := rfl
@[simp] theorem State.updQuad_freeCtr (f : Quad → Quad) : (s.updQuad k f).freeCtr = s.freeCtr := rfl
@[simp] theorem State.updQuad_uid (f : Quad → Quad) : (s.updQuad k f).uid = s.uid := rfl
@[simp] theorem State.updQuad_cd (f : Quad → Quad) : (s.updQuad k f).cd = s.cd := rfl
@[simp] theorem State.updQuad_cc (f : Quad → Quad) : (s.updQuad k f).cc = s.cc := rfl
@[simp] theorem State.updQuad_core (f : Quad → Quad) : (s.updQuad k f).core = s.core := rfl
@[simp] theorem State.updQuad_col (f : Quad → Quad) : (s.updQuad k f).col = s.col := rfl
@[simp] theorem State.updQuad_eng (f : Quad → Quad) : (s.updQuad k f).eng = s.eng := rfl
@[simp] theorem State.updQuad_die (f : Quad → Quad) : (s.updQuad k f).die = s.die := rfl
@[simp] theorem State.updQuad_mem (f : Quad → Quad) : (s.updQuad k f).mem = s.mem := rfl
@[simp] theorem State.updQuad_poison (f : Quad → Quad) : (s.updQuad k f).poison = s.poison := rfl
@[simp] theorem State.updQuad_lost (f : Quad → Quad) : (s.updQuad k f).lost = s.lost := rfl
@[simp] theorem State.updQuad_sockets (f : Quad → Quad) : (s.updQuad k f).sockets = s.sockets := rfl
@[simp] theorem State.updQuad_boot (f : Quad → Quad) : (s.updQuad k f).boot = s.boot := rfl
@[simp] theorem State.updQuad_start (f : Quad → Quad) : (s.updQuad k f).start = s.start := rfl
@[simp] theorem State.updQuad_ivStacks (f : Quad → Quad) : (s.updQuad k f).ivStacks = s.ivStacks := rfl
@[simp] theorem State.updQuad_queues (f : Quad → Quad) : (s.updQuad k f).queues = s.queues := rfl
@[simp] theorem State.updQuad_feLast (f : Quad → Quad) : (s.updQuad k f).feLast = s.feLast := rfl
@[simp] theorem State.updQuad_launches (f : Quad → Quad) : (s.updQuad k f).launches = s.launches := rfl
@[simp] theorem State.updQuad_nextLaunch (f : Quad → Quad) : (s.updQuad k f).nextLaunch = s.nextLaunch := rfl
@[simp] theorem State.updQuad_swaps (f : Quad → Quad) : (s.updQuad k f).swaps = s.swaps := rfl
@[simp] theorem State.updQuad_nextSwap (f : Quad → Quad) : (s.updQuad k f).nextSwap = s.nextSwap := rfl
@[simp] theorem State.updQuad_ranges (f : Quad → Quad) : (s.updQuad k f).ranges = s.ranges := rfl
@[simp] theorem State.updQuad_grabs (f : Quad → Quad) : (s.updQuad k f).grabs = s.grabs := rfl
@[simp] theorem State.updQuad_barriers (f : Quad → Quad) : (s.updQuad k f).barriers = s.barriers := rfl
@[simp] theorem State.updQuad_colls (f : Quad → Quad) : (s.updQuad k f).colls = s.colls := rfl
@[simp] theorem State.updQuad_contracts (f : Quad → Quad) : (s.updQuad k f).contracts = s.contracts := rfl
@[simp] theorem State.updQuad_parts (f : Quad → Quad) : (s.updQuad k f).parts = s.parts := rfl
@[simp] theorem State.updQuad_mgmt (f : Quad → Quad) : (s.updQuad k f).mgmt = s.mgmt := rfl
@[simp] theorem State.updQuad_apprcmd (f : Quad → Quad) : (s.updQuad k f).apprcmd = s.apprcmd := rfl
@[simp] theorem State.updQuad_evbase (f : Quad → Quad) : (s.updQuad k f).evbase = s.evbase := rfl
@[simp] theorem State.updQuad_attpend (f : Quad → Quad) : (s.updQuad k f).attpend = s.attpend := rfl
@[simp] theorem State.updQuad_attverd (f : Quad → Quad) : (s.updQuad k f).attverd = s.attverd := rfl
@[simp] theorem State.updQuad_repctl (f : Quad → Quad) : (s.updQuad k f).repctl = s.repctl := rfl
@[simp] theorem State.updQuad_repcmd (f : Quad → Quad) : (s.updQuad k f).repcmd = s.repcmd := rfl
@[simp] theorem State.updQuad_repLog (f : Quad → Quad) : (s.updQuad k f).repLog = s.repLog := rfl
@[simp] theorem State.updQuad_repair (f : Quad → Quad) : (s.updQuad k f).repair = s.repair := rfl
@[simp] theorem State.updQuad_repDue (f : Quad → Quad) : (s.updQuad k f).repDue = s.repDue := rfl
@[simp] theorem State.updQuad_podform (f : Quad → Quad) : (s.updQuad k f).podform = s.podform := rfl
@[simp] theorem State.updQuad_links (f : Quad → Quad) : (s.updQuad k f).links = s.links := rfl
@[simp] theorem State.updQuad_podrt (f : Quad → Quad) : (s.updQuad k f).podrt = s.podrt := rfl
@[simp] theorem State.updQuad_podspc (f : Quad → Quad) : (s.updQuad k f).podspc = s.podspc := rfl
@[simp] theorem State.updQuad_podgrp (f : Quad → Quad) : (s.updQuad k f).podgrp = s.podgrp := rfl
@[simp] theorem State.updQuad_podOut (f : Quad → Quad) : (s.updQuad k f).podOut = s.podOut := rfl
@[simp] theorem State.updQuad_podIn (f : Quad → Quad) : (s.updQuad k f).podIn = s.podIn := rfl
@[simp] theorem State.updQuad_posted (f : Quad → Quad) : (s.updQuad k f).posted = s.posted := rfl
@[simp] theorem State.updQuad_engPod (f : Quad → Quad) : (s.updQuad k f).engPod = s.engPod := rfl
@[simp] theorem State.updQuad_amoLeft (f : Quad → Quad) : (s.updQuad k f).amoLeft = s.amoLeft := rfl
@[simp] theorem State.updQuad_comps (f : Quad → Quad) : (s.updQuad k f).comps = s.comps := rfl
@[simp] theorem State.updQuad_migsrc (f : Quad → Quad) : (s.updQuad k f).migsrc = s.migsrc := rfl
@[simp] theorem State.updQuad_migdst (f : Quad → Quad) : (s.updQuad k f).migdst = s.migdst := rfl
@[simp] theorem State.updQuad_miglen (f : Quad → Quad) : (s.updQuad k f).miglen = s.miglen := rfl
@[simp] theorem State.updQuad_migctl (f : Quad → Quad) : (s.updQuad k f).migctl = s.migctl := rfl
@[simp] theorem State.updQuad_pcnt (f : Quad → Quad) : (s.updQuad k f).pcnt = s.pcnt := rfl
@[simp] theorem State.updQuad_migDue (f : Quad → Quad) : (s.updQuad k f).migDue = s.migDue := rfl
@[simp] theorem State.updQuad_pastRef (f : Quad → Quad) : (s.updQuad k f).pastRef = s.pastRef := rfl
@[simp] theorem State.updQuad_events (f : Quad → Quad) : (s.updQuad k f).events = s.events := rfl
@[simp] theorem State.updQuad_traceQ (f : Quad → Quad) : (s.updQuad k f).traceQ = s.traceQ := rfl

/-! ### updEng -/

@[simp] theorem State.updEng_clock (f : Eng → Eng) : (s.updEng k f).clock = s.clock := rfl
@[simp] theorem State.updEng_phase (f : Eng → Eng) : (s.updEng k f).phase = s.phase := rfl
@[simp] theorem State.updEng_issueCol (f : Eng → Eng) : (s.updEng k f).issueCol = s.issueCol := rfl
@[simp] theorem State.updEng_inbox (f : Eng → Eng) : (s.updEng k f).inbox = s.inbox := rfl
@[simp] theorem State.updEng_cur (f : Eng → Eng) : (s.updEng k f).cur = s.cur := rfl
@[simp] theorem State.updEng_att (f : Eng → Eng) : (s.updEng k f).att = s.att := rfl
@[simp] theorem State.updEng_freeCtr (f : Eng → Eng) : (s.updEng k f).freeCtr = s.freeCtr := rfl
@[simp] theorem State.updEng_uid (f : Eng → Eng) : (s.updEng k f).uid = s.uid := rfl
@[simp] theorem State.updEng_cd (f : Eng → Eng) : (s.updEng k f).cd = s.cd := rfl
@[simp] theorem State.updEng_cc (f : Eng → Eng) : (s.updEng k f).cc = s.cc := rfl
@[simp] theorem State.updEng_core (f : Eng → Eng) : (s.updEng k f).core = s.core := rfl
@[simp] theorem State.updEng_col (f : Eng → Eng) : (s.updEng k f).col = s.col := rfl
@[simp] theorem State.updEng_quad (f : Eng → Eng) : (s.updEng k f).quad = s.quad := rfl
@[simp] theorem State.updEng_die (f : Eng → Eng) : (s.updEng k f).die = s.die := rfl
@[simp] theorem State.updEng_mem (f : Eng → Eng) : (s.updEng k f).mem = s.mem := rfl
@[simp] theorem State.updEng_poison (f : Eng → Eng) : (s.updEng k f).poison = s.poison := rfl
@[simp] theorem State.updEng_lost (f : Eng → Eng) : (s.updEng k f).lost = s.lost := rfl
@[simp] theorem State.updEng_sockets (f : Eng → Eng) : (s.updEng k f).sockets = s.sockets := rfl
@[simp] theorem State.updEng_boot (f : Eng → Eng) : (s.updEng k f).boot = s.boot := rfl
@[simp] theorem State.updEng_start (f : Eng → Eng) : (s.updEng k f).start = s.start := rfl
@[simp] theorem State.updEng_ivStacks (f : Eng → Eng) : (s.updEng k f).ivStacks = s.ivStacks := rfl
@[simp] theorem State.updEng_queues (f : Eng → Eng) : (s.updEng k f).queues = s.queues := rfl
@[simp] theorem State.updEng_feLast (f : Eng → Eng) : (s.updEng k f).feLast = s.feLast := rfl
@[simp] theorem State.updEng_launches (f : Eng → Eng) : (s.updEng k f).launches = s.launches := rfl
@[simp] theorem State.updEng_nextLaunch (f : Eng → Eng) : (s.updEng k f).nextLaunch = s.nextLaunch := rfl
@[simp] theorem State.updEng_swaps (f : Eng → Eng) : (s.updEng k f).swaps = s.swaps := rfl
@[simp] theorem State.updEng_nextSwap (f : Eng → Eng) : (s.updEng k f).nextSwap = s.nextSwap := rfl
@[simp] theorem State.updEng_ranges (f : Eng → Eng) : (s.updEng k f).ranges = s.ranges := rfl
@[simp] theorem State.updEng_grabs (f : Eng → Eng) : (s.updEng k f).grabs = s.grabs := rfl
@[simp] theorem State.updEng_barriers (f : Eng → Eng) : (s.updEng k f).barriers = s.barriers := rfl
@[simp] theorem State.updEng_colls (f : Eng → Eng) : (s.updEng k f).colls = s.colls := rfl
@[simp] theorem State.updEng_contracts (f : Eng → Eng) : (s.updEng k f).contracts = s.contracts := rfl
@[simp] theorem State.updEng_parts (f : Eng → Eng) : (s.updEng k f).parts = s.parts := rfl
@[simp] theorem State.updEng_mgmt (f : Eng → Eng) : (s.updEng k f).mgmt = s.mgmt := rfl
@[simp] theorem State.updEng_apprcmd (f : Eng → Eng) : (s.updEng k f).apprcmd = s.apprcmd := rfl
@[simp] theorem State.updEng_evbase (f : Eng → Eng) : (s.updEng k f).evbase = s.evbase := rfl
@[simp] theorem State.updEng_attpend (f : Eng → Eng) : (s.updEng k f).attpend = s.attpend := rfl
@[simp] theorem State.updEng_attverd (f : Eng → Eng) : (s.updEng k f).attverd = s.attverd := rfl
@[simp] theorem State.updEng_repctl (f : Eng → Eng) : (s.updEng k f).repctl = s.repctl := rfl
@[simp] theorem State.updEng_repcmd (f : Eng → Eng) : (s.updEng k f).repcmd = s.repcmd := rfl
@[simp] theorem State.updEng_repLog (f : Eng → Eng) : (s.updEng k f).repLog = s.repLog := rfl
@[simp] theorem State.updEng_repair (f : Eng → Eng) : (s.updEng k f).repair = s.repair := rfl
@[simp] theorem State.updEng_repDue (f : Eng → Eng) : (s.updEng k f).repDue = s.repDue := rfl
@[simp] theorem State.updEng_podform (f : Eng → Eng) : (s.updEng k f).podform = s.podform := rfl
@[simp] theorem State.updEng_links (f : Eng → Eng) : (s.updEng k f).links = s.links := rfl
@[simp] theorem State.updEng_podrt (f : Eng → Eng) : (s.updEng k f).podrt = s.podrt := rfl
@[simp] theorem State.updEng_podspc (f : Eng → Eng) : (s.updEng k f).podspc = s.podspc := rfl
@[simp] theorem State.updEng_podgrp (f : Eng → Eng) : (s.updEng k f).podgrp = s.podgrp := rfl
@[simp] theorem State.updEng_podOut (f : Eng → Eng) : (s.updEng k f).podOut = s.podOut := rfl
@[simp] theorem State.updEng_podIn (f : Eng → Eng) : (s.updEng k f).podIn = s.podIn := rfl
@[simp] theorem State.updEng_posted (f : Eng → Eng) : (s.updEng k f).posted = s.posted := rfl
@[simp] theorem State.updEng_engPod (f : Eng → Eng) : (s.updEng k f).engPod = s.engPod := rfl
@[simp] theorem State.updEng_amoLeft (f : Eng → Eng) : (s.updEng k f).amoLeft = s.amoLeft := rfl
@[simp] theorem State.updEng_comps (f : Eng → Eng) : (s.updEng k f).comps = s.comps := rfl
@[simp] theorem State.updEng_migsrc (f : Eng → Eng) : (s.updEng k f).migsrc = s.migsrc := rfl
@[simp] theorem State.updEng_migdst (f : Eng → Eng) : (s.updEng k f).migdst = s.migdst := rfl
@[simp] theorem State.updEng_miglen (f : Eng → Eng) : (s.updEng k f).miglen = s.miglen := rfl
@[simp] theorem State.updEng_migctl (f : Eng → Eng) : (s.updEng k f).migctl = s.migctl := rfl
@[simp] theorem State.updEng_pcnt (f : Eng → Eng) : (s.updEng k f).pcnt = s.pcnt := rfl
@[simp] theorem State.updEng_migDue (f : Eng → Eng) : (s.updEng k f).migDue = s.migDue := rfl
@[simp] theorem State.updEng_pastRef (f : Eng → Eng) : (s.updEng k f).pastRef = s.pastRef := rfl
@[simp] theorem State.updEng_events (f : Eng → Eng) : (s.updEng k f).events = s.events := rfl
@[simp] theorem State.updEng_traceQ (f : Eng → Eng) : (s.updEng k f).traceQ = s.traceQ := rfl

/-! ### updDie -/

@[simp] theorem State.updDie_clock (f : Die → Die) : (s.updDie k f).clock = s.clock := rfl
@[simp] theorem State.updDie_phase (f : Die → Die) : (s.updDie k f).phase = s.phase := rfl
@[simp] theorem State.updDie_issueCol (f : Die → Die) : (s.updDie k f).issueCol = s.issueCol := rfl
@[simp] theorem State.updDie_inbox (f : Die → Die) : (s.updDie k f).inbox = s.inbox := rfl
@[simp] theorem State.updDie_cur (f : Die → Die) : (s.updDie k f).cur = s.cur := rfl
@[simp] theorem State.updDie_att (f : Die → Die) : (s.updDie k f).att = s.att := rfl
@[simp] theorem State.updDie_freeCtr (f : Die → Die) : (s.updDie k f).freeCtr = s.freeCtr := rfl
@[simp] theorem State.updDie_uid (f : Die → Die) : (s.updDie k f).uid = s.uid := rfl
@[simp] theorem State.updDie_cd (f : Die → Die) : (s.updDie k f).cd = s.cd := rfl
@[simp] theorem State.updDie_cc (f : Die → Die) : (s.updDie k f).cc = s.cc := rfl
@[simp] theorem State.updDie_core (f : Die → Die) : (s.updDie k f).core = s.core := rfl
@[simp] theorem State.updDie_col (f : Die → Die) : (s.updDie k f).col = s.col := rfl
@[simp] theorem State.updDie_quad (f : Die → Die) : (s.updDie k f).quad = s.quad := rfl
@[simp] theorem State.updDie_eng (f : Die → Die) : (s.updDie k f).eng = s.eng := rfl
@[simp] theorem State.updDie_mem (f : Die → Die) : (s.updDie k f).mem = s.mem := rfl
@[simp] theorem State.updDie_poison (f : Die → Die) : (s.updDie k f).poison = s.poison := rfl
@[simp] theorem State.updDie_lost (f : Die → Die) : (s.updDie k f).lost = s.lost := rfl
@[simp] theorem State.updDie_sockets (f : Die → Die) : (s.updDie k f).sockets = s.sockets := rfl
@[simp] theorem State.updDie_boot (f : Die → Die) : (s.updDie k f).boot = s.boot := rfl
@[simp] theorem State.updDie_start (f : Die → Die) : (s.updDie k f).start = s.start := rfl
@[simp] theorem State.updDie_ivStacks (f : Die → Die) : (s.updDie k f).ivStacks = s.ivStacks := rfl
@[simp] theorem State.updDie_queues (f : Die → Die) : (s.updDie k f).queues = s.queues := rfl
@[simp] theorem State.updDie_feLast (f : Die → Die) : (s.updDie k f).feLast = s.feLast := rfl
@[simp] theorem State.updDie_launches (f : Die → Die) : (s.updDie k f).launches = s.launches := rfl
@[simp] theorem State.updDie_nextLaunch (f : Die → Die) : (s.updDie k f).nextLaunch = s.nextLaunch := rfl
@[simp] theorem State.updDie_swaps (f : Die → Die) : (s.updDie k f).swaps = s.swaps := rfl
@[simp] theorem State.updDie_nextSwap (f : Die → Die) : (s.updDie k f).nextSwap = s.nextSwap := rfl
@[simp] theorem State.updDie_ranges (f : Die → Die) : (s.updDie k f).ranges = s.ranges := rfl
@[simp] theorem State.updDie_grabs (f : Die → Die) : (s.updDie k f).grabs = s.grabs := rfl
@[simp] theorem State.updDie_barriers (f : Die → Die) : (s.updDie k f).barriers = s.barriers := rfl
@[simp] theorem State.updDie_colls (f : Die → Die) : (s.updDie k f).colls = s.colls := rfl
@[simp] theorem State.updDie_contracts (f : Die → Die) : (s.updDie k f).contracts = s.contracts := rfl
@[simp] theorem State.updDie_parts (f : Die → Die) : (s.updDie k f).parts = s.parts := rfl
@[simp] theorem State.updDie_mgmt (f : Die → Die) : (s.updDie k f).mgmt = s.mgmt := rfl
@[simp] theorem State.updDie_apprcmd (f : Die → Die) : (s.updDie k f).apprcmd = s.apprcmd := rfl
@[simp] theorem State.updDie_evbase (f : Die → Die) : (s.updDie k f).evbase = s.evbase := rfl
@[simp] theorem State.updDie_attpend (f : Die → Die) : (s.updDie k f).attpend = s.attpend := rfl
@[simp] theorem State.updDie_attverd (f : Die → Die) : (s.updDie k f).attverd = s.attverd := rfl
@[simp] theorem State.updDie_repctl (f : Die → Die) : (s.updDie k f).repctl = s.repctl := rfl
@[simp] theorem State.updDie_repcmd (f : Die → Die) : (s.updDie k f).repcmd = s.repcmd := rfl
@[simp] theorem State.updDie_repLog (f : Die → Die) : (s.updDie k f).repLog = s.repLog := rfl
@[simp] theorem State.updDie_repair (f : Die → Die) : (s.updDie k f).repair = s.repair := rfl
@[simp] theorem State.updDie_repDue (f : Die → Die) : (s.updDie k f).repDue = s.repDue := rfl
@[simp] theorem State.updDie_podform (f : Die → Die) : (s.updDie k f).podform = s.podform := rfl
@[simp] theorem State.updDie_links (f : Die → Die) : (s.updDie k f).links = s.links := rfl
@[simp] theorem State.updDie_podrt (f : Die → Die) : (s.updDie k f).podrt = s.podrt := rfl
@[simp] theorem State.updDie_podspc (f : Die → Die) : (s.updDie k f).podspc = s.podspc := rfl
@[simp] theorem State.updDie_podgrp (f : Die → Die) : (s.updDie k f).podgrp = s.podgrp := rfl
@[simp] theorem State.updDie_podOut (f : Die → Die) : (s.updDie k f).podOut = s.podOut := rfl
@[simp] theorem State.updDie_podIn (f : Die → Die) : (s.updDie k f).podIn = s.podIn := rfl
@[simp] theorem State.updDie_posted (f : Die → Die) : (s.updDie k f).posted = s.posted := rfl
@[simp] theorem State.updDie_engPod (f : Die → Die) : (s.updDie k f).engPod = s.engPod := rfl
@[simp] theorem State.updDie_amoLeft (f : Die → Die) : (s.updDie k f).amoLeft = s.amoLeft := rfl
@[simp] theorem State.updDie_comps (f : Die → Die) : (s.updDie k f).comps = s.comps := rfl
@[simp] theorem State.updDie_migsrc (f : Die → Die) : (s.updDie k f).migsrc = s.migsrc := rfl
@[simp] theorem State.updDie_migdst (f : Die → Die) : (s.updDie k f).migdst = s.migdst := rfl
@[simp] theorem State.updDie_miglen (f : Die → Die) : (s.updDie k f).miglen = s.miglen := rfl
@[simp] theorem State.updDie_migctl (f : Die → Die) : (s.updDie k f).migctl = s.migctl := rfl
@[simp] theorem State.updDie_pcnt (f : Die → Die) : (s.updDie k f).pcnt = s.pcnt := rfl
@[simp] theorem State.updDie_migDue (f : Die → Die) : (s.updDie k f).migDue = s.migDue := rfl
@[simp] theorem State.updDie_pastRef (f : Die → Die) : (s.updDie k f).pastRef = s.pastRef := rfl
@[simp] theorem State.updDie_events (f : Die → Die) : (s.updDie k f).events = s.events := rfl
@[simp] theorem State.updDie_traceQ (f : Die → Die) : (s.updDie k f).traceQ = s.traceQ := rfl

/-! ### updSocket -/

@[simp] theorem State.updSocket_clock (f : Socket → Socket) : (s.updSocket k f).clock = s.clock := rfl
@[simp] theorem State.updSocket_phase (f : Socket → Socket) : (s.updSocket k f).phase = s.phase := rfl
@[simp] theorem State.updSocket_issueCol (f : Socket → Socket) : (s.updSocket k f).issueCol = s.issueCol := rfl
@[simp] theorem State.updSocket_inbox (f : Socket → Socket) : (s.updSocket k f).inbox = s.inbox := rfl
@[simp] theorem State.updSocket_cur (f : Socket → Socket) : (s.updSocket k f).cur = s.cur := rfl
@[simp] theorem State.updSocket_att (f : Socket → Socket) : (s.updSocket k f).att = s.att := rfl
@[simp] theorem State.updSocket_freeCtr (f : Socket → Socket) : (s.updSocket k f).freeCtr = s.freeCtr := rfl
@[simp] theorem State.updSocket_uid (f : Socket → Socket) : (s.updSocket k f).uid = s.uid := rfl
@[simp] theorem State.updSocket_cd (f : Socket → Socket) : (s.updSocket k f).cd = s.cd := rfl
@[simp] theorem State.updSocket_cc (f : Socket → Socket) : (s.updSocket k f).cc = s.cc := rfl
@[simp] theorem State.updSocket_core (f : Socket → Socket) : (s.updSocket k f).core = s.core := rfl
@[simp] theorem State.updSocket_col (f : Socket → Socket) : (s.updSocket k f).col = s.col := rfl
@[simp] theorem State.updSocket_quad (f : Socket → Socket) : (s.updSocket k f).quad = s.quad := rfl
@[simp] theorem State.updSocket_eng (f : Socket → Socket) : (s.updSocket k f).eng = s.eng := rfl
@[simp] theorem State.updSocket_die (f : Socket → Socket) : (s.updSocket k f).die = s.die := rfl
@[simp] theorem State.updSocket_mem (f : Socket → Socket) : (s.updSocket k f).mem = s.mem := rfl
@[simp] theorem State.updSocket_poison (f : Socket → Socket) : (s.updSocket k f).poison = s.poison := rfl
@[simp] theorem State.updSocket_lost (f : Socket → Socket) : (s.updSocket k f).lost = s.lost := rfl
@[simp] theorem State.updSocket_boot (f : Socket → Socket) : (s.updSocket k f).boot = s.boot := rfl
@[simp] theorem State.updSocket_start (f : Socket → Socket) : (s.updSocket k f).start = s.start := rfl
@[simp] theorem State.updSocket_ivStacks (f : Socket → Socket) : (s.updSocket k f).ivStacks = s.ivStacks := rfl
@[simp] theorem State.updSocket_queues (f : Socket → Socket) : (s.updSocket k f).queues = s.queues := rfl
@[simp] theorem State.updSocket_feLast (f : Socket → Socket) : (s.updSocket k f).feLast = s.feLast := rfl
@[simp] theorem State.updSocket_launches (f : Socket → Socket) : (s.updSocket k f).launches = s.launches := rfl
@[simp] theorem State.updSocket_nextLaunch (f : Socket → Socket) : (s.updSocket k f).nextLaunch = s.nextLaunch := rfl
@[simp] theorem State.updSocket_swaps (f : Socket → Socket) : (s.updSocket k f).swaps = s.swaps := rfl
@[simp] theorem State.updSocket_nextSwap (f : Socket → Socket) : (s.updSocket k f).nextSwap = s.nextSwap := rfl
@[simp] theorem State.updSocket_ranges (f : Socket → Socket) : (s.updSocket k f).ranges = s.ranges := rfl
@[simp] theorem State.updSocket_grabs (f : Socket → Socket) : (s.updSocket k f).grabs = s.grabs := rfl
@[simp] theorem State.updSocket_barriers (f : Socket → Socket) : (s.updSocket k f).barriers = s.barriers := rfl
@[simp] theorem State.updSocket_colls (f : Socket → Socket) : (s.updSocket k f).colls = s.colls := rfl
@[simp] theorem State.updSocket_contracts (f : Socket → Socket) : (s.updSocket k f).contracts = s.contracts := rfl
@[simp] theorem State.updSocket_parts (f : Socket → Socket) : (s.updSocket k f).parts = s.parts := rfl
@[simp] theorem State.updSocket_mgmt (f : Socket → Socket) : (s.updSocket k f).mgmt = s.mgmt := rfl
@[simp] theorem State.updSocket_apprcmd (f : Socket → Socket) : (s.updSocket k f).apprcmd = s.apprcmd := rfl
@[simp] theorem State.updSocket_evbase (f : Socket → Socket) : (s.updSocket k f).evbase = s.evbase := rfl
@[simp] theorem State.updSocket_attpend (f : Socket → Socket) : (s.updSocket k f).attpend = s.attpend := rfl
@[simp] theorem State.updSocket_attverd (f : Socket → Socket) : (s.updSocket k f).attverd = s.attverd := rfl
@[simp] theorem State.updSocket_repctl (f : Socket → Socket) : (s.updSocket k f).repctl = s.repctl := rfl
@[simp] theorem State.updSocket_repcmd (f : Socket → Socket) : (s.updSocket k f).repcmd = s.repcmd := rfl
@[simp] theorem State.updSocket_repLog (f : Socket → Socket) : (s.updSocket k f).repLog = s.repLog := rfl
@[simp] theorem State.updSocket_repair (f : Socket → Socket) : (s.updSocket k f).repair = s.repair := rfl
@[simp] theorem State.updSocket_repDue (f : Socket → Socket) : (s.updSocket k f).repDue = s.repDue := rfl
@[simp] theorem State.updSocket_podform (f : Socket → Socket) : (s.updSocket k f).podform = s.podform := rfl
@[simp] theorem State.updSocket_links (f : Socket → Socket) : (s.updSocket k f).links = s.links := rfl
@[simp] theorem State.updSocket_podrt (f : Socket → Socket) : (s.updSocket k f).podrt = s.podrt := rfl
@[simp] theorem State.updSocket_podspc (f : Socket → Socket) : (s.updSocket k f).podspc = s.podspc := rfl
@[simp] theorem State.updSocket_podgrp (f : Socket → Socket) : (s.updSocket k f).podgrp = s.podgrp := rfl
@[simp] theorem State.updSocket_podOut (f : Socket → Socket) : (s.updSocket k f).podOut = s.podOut := rfl
@[simp] theorem State.updSocket_podIn (f : Socket → Socket) : (s.updSocket k f).podIn = s.podIn := rfl
@[simp] theorem State.updSocket_posted (f : Socket → Socket) : (s.updSocket k f).posted = s.posted := rfl
@[simp] theorem State.updSocket_engPod (f : Socket → Socket) : (s.updSocket k f).engPod = s.engPod := rfl
@[simp] theorem State.updSocket_amoLeft (f : Socket → Socket) : (s.updSocket k f).amoLeft = s.amoLeft := rfl
@[simp] theorem State.updSocket_comps (f : Socket → Socket) : (s.updSocket k f).comps = s.comps := rfl
@[simp] theorem State.updSocket_migsrc (f : Socket → Socket) : (s.updSocket k f).migsrc = s.migsrc := rfl
@[simp] theorem State.updSocket_migdst (f : Socket → Socket) : (s.updSocket k f).migdst = s.migdst := rfl
@[simp] theorem State.updSocket_miglen (f : Socket → Socket) : (s.updSocket k f).miglen = s.miglen := rfl
@[simp] theorem State.updSocket_migctl (f : Socket → Socket) : (s.updSocket k f).migctl = s.migctl := rfl
@[simp] theorem State.updSocket_pcnt (f : Socket → Socket) : (s.updSocket k f).pcnt = s.pcnt := rfl
@[simp] theorem State.updSocket_migDue (f : Socket → Socket) : (s.updSocket k f).migDue = s.migDue := rfl
@[simp] theorem State.updSocket_pastRef (f : Socket → Socket) : (s.updSocket k f).pastRef = s.pastRef := rfl
@[simp] theorem State.updSocket_events (f : Socket → Socket) : (s.updSocket k f).events = s.events := rfl
@[simp] theorem State.updSocket_traceQ (f : Socket → Socket) : (s.updSocket k f).traceQ = s.traceQ := rfl

/-! ### updQueue -/

@[simp] theorem State.updQueue_clock (f : Queue → Queue) : (s.updQueue k f).clock = s.clock := rfl
@[simp] theorem State.updQueue_phase (f : Queue → Queue) : (s.updQueue k f).phase = s.phase := rfl
@[simp] theorem State.updQueue_issueCol (f : Queue → Queue) : (s.updQueue k f).issueCol = s.issueCol := rfl
@[simp] theorem State.updQueue_inbox (f : Queue → Queue) : (s.updQueue k f).inbox = s.inbox := rfl
@[simp] theorem State.updQueue_cur (f : Queue → Queue) : (s.updQueue k f).cur = s.cur := rfl
@[simp] theorem State.updQueue_att (f : Queue → Queue) : (s.updQueue k f).att = s.att := rfl
@[simp] theorem State.updQueue_freeCtr (f : Queue → Queue) : (s.updQueue k f).freeCtr = s.freeCtr := rfl
@[simp] theorem State.updQueue_uid (f : Queue → Queue) : (s.updQueue k f).uid = s.uid := rfl
@[simp] theorem State.updQueue_cd (f : Queue → Queue) : (s.updQueue k f).cd = s.cd := rfl
@[simp] theorem State.updQueue_cc (f : Queue → Queue) : (s.updQueue k f).cc = s.cc := rfl
@[simp] theorem State.updQueue_core (f : Queue → Queue) : (s.updQueue k f).core = s.core := rfl
@[simp] theorem State.updQueue_col (f : Queue → Queue) : (s.updQueue k f).col = s.col := rfl
@[simp] theorem State.updQueue_quad (f : Queue → Queue) : (s.updQueue k f).quad = s.quad := rfl
@[simp] theorem State.updQueue_eng (f : Queue → Queue) : (s.updQueue k f).eng = s.eng := rfl
@[simp] theorem State.updQueue_die (f : Queue → Queue) : (s.updQueue k f).die = s.die := rfl
@[simp] theorem State.updQueue_mem (f : Queue → Queue) : (s.updQueue k f).mem = s.mem := rfl
@[simp] theorem State.updQueue_poison (f : Queue → Queue) : (s.updQueue k f).poison = s.poison := rfl
@[simp] theorem State.updQueue_lost (f : Queue → Queue) : (s.updQueue k f).lost = s.lost := rfl
@[simp] theorem State.updQueue_sockets (f : Queue → Queue) : (s.updQueue k f).sockets = s.sockets := rfl
@[simp] theorem State.updQueue_boot (f : Queue → Queue) : (s.updQueue k f).boot = s.boot := rfl
@[simp] theorem State.updQueue_start (f : Queue → Queue) : (s.updQueue k f).start = s.start := rfl
@[simp] theorem State.updQueue_ivStacks (f : Queue → Queue) : (s.updQueue k f).ivStacks = s.ivStacks := rfl
@[simp] theorem State.updQueue_feLast (f : Queue → Queue) : (s.updQueue k f).feLast = s.feLast := rfl
@[simp] theorem State.updQueue_launches (f : Queue → Queue) : (s.updQueue k f).launches = s.launches := rfl
@[simp] theorem State.updQueue_nextLaunch (f : Queue → Queue) : (s.updQueue k f).nextLaunch = s.nextLaunch := rfl
@[simp] theorem State.updQueue_swaps (f : Queue → Queue) : (s.updQueue k f).swaps = s.swaps := rfl
@[simp] theorem State.updQueue_nextSwap (f : Queue → Queue) : (s.updQueue k f).nextSwap = s.nextSwap := rfl
@[simp] theorem State.updQueue_ranges (f : Queue → Queue) : (s.updQueue k f).ranges = s.ranges := rfl
@[simp] theorem State.updQueue_grabs (f : Queue → Queue) : (s.updQueue k f).grabs = s.grabs := rfl
@[simp] theorem State.updQueue_barriers (f : Queue → Queue) : (s.updQueue k f).barriers = s.barriers := rfl
@[simp] theorem State.updQueue_colls (f : Queue → Queue) : (s.updQueue k f).colls = s.colls := rfl
@[simp] theorem State.updQueue_contracts (f : Queue → Queue) : (s.updQueue k f).contracts = s.contracts := rfl
@[simp] theorem State.updQueue_parts (f : Queue → Queue) : (s.updQueue k f).parts = s.parts := rfl
@[simp] theorem State.updQueue_mgmt (f : Queue → Queue) : (s.updQueue k f).mgmt = s.mgmt := rfl
@[simp] theorem State.updQueue_apprcmd (f : Queue → Queue) : (s.updQueue k f).apprcmd = s.apprcmd := rfl
@[simp] theorem State.updQueue_evbase (f : Queue → Queue) : (s.updQueue k f).evbase = s.evbase := rfl
@[simp] theorem State.updQueue_attpend (f : Queue → Queue) : (s.updQueue k f).attpend = s.attpend := rfl
@[simp] theorem State.updQueue_attverd (f : Queue → Queue) : (s.updQueue k f).attverd = s.attverd := rfl
@[simp] theorem State.updQueue_repctl (f : Queue → Queue) : (s.updQueue k f).repctl = s.repctl := rfl
@[simp] theorem State.updQueue_repcmd (f : Queue → Queue) : (s.updQueue k f).repcmd = s.repcmd := rfl
@[simp] theorem State.updQueue_repLog (f : Queue → Queue) : (s.updQueue k f).repLog = s.repLog := rfl
@[simp] theorem State.updQueue_repair (f : Queue → Queue) : (s.updQueue k f).repair = s.repair := rfl
@[simp] theorem State.updQueue_repDue (f : Queue → Queue) : (s.updQueue k f).repDue = s.repDue := rfl
@[simp] theorem State.updQueue_podform (f : Queue → Queue) : (s.updQueue k f).podform = s.podform := rfl
@[simp] theorem State.updQueue_links (f : Queue → Queue) : (s.updQueue k f).links = s.links := rfl
@[simp] theorem State.updQueue_podrt (f : Queue → Queue) : (s.updQueue k f).podrt = s.podrt := rfl
@[simp] theorem State.updQueue_podspc (f : Queue → Queue) : (s.updQueue k f).podspc = s.podspc := rfl
@[simp] theorem State.updQueue_podgrp (f : Queue → Queue) : (s.updQueue k f).podgrp = s.podgrp := rfl
@[simp] theorem State.updQueue_podOut (f : Queue → Queue) : (s.updQueue k f).podOut = s.podOut := rfl
@[simp] theorem State.updQueue_podIn (f : Queue → Queue) : (s.updQueue k f).podIn = s.podIn := rfl
@[simp] theorem State.updQueue_posted (f : Queue → Queue) : (s.updQueue k f).posted = s.posted := rfl
@[simp] theorem State.updQueue_engPod (f : Queue → Queue) : (s.updQueue k f).engPod = s.engPod := rfl
@[simp] theorem State.updQueue_amoLeft (f : Queue → Queue) : (s.updQueue k f).amoLeft = s.amoLeft := rfl
@[simp] theorem State.updQueue_comps (f : Queue → Queue) : (s.updQueue k f).comps = s.comps := rfl
@[simp] theorem State.updQueue_migsrc (f : Queue → Queue) : (s.updQueue k f).migsrc = s.migsrc := rfl
@[simp] theorem State.updQueue_migdst (f : Queue → Queue) : (s.updQueue k f).migdst = s.migdst := rfl
@[simp] theorem State.updQueue_miglen (f : Queue → Queue) : (s.updQueue k f).miglen = s.miglen := rfl
@[simp] theorem State.updQueue_migctl (f : Queue → Queue) : (s.updQueue k f).migctl = s.migctl := rfl
@[simp] theorem State.updQueue_pcnt (f : Queue → Queue) : (s.updQueue k f).pcnt = s.pcnt := rfl
@[simp] theorem State.updQueue_migDue (f : Queue → Queue) : (s.updQueue k f).migDue = s.migDue := rfl
@[simp] theorem State.updQueue_pastRef (f : Queue → Queue) : (s.updQueue k f).pastRef = s.pastRef := rfl
@[simp] theorem State.updQueue_events (f : Queue → Queue) : (s.updQueue k f).events = s.events := rfl
@[simp] theorem State.updQueue_traceQ (f : Queue → Queue) : (s.updQueue k f).traceQ = s.traceQ := rfl

/-! ### updPart -/

@[simp] theorem State.updPart_clock (f : Part → Part) : (s.updPart k f).clock = s.clock := rfl
@[simp] theorem State.updPart_phase (f : Part → Part) : (s.updPart k f).phase = s.phase := rfl
@[simp] theorem State.updPart_issueCol (f : Part → Part) : (s.updPart k f).issueCol = s.issueCol := rfl
@[simp] theorem State.updPart_inbox (f : Part → Part) : (s.updPart k f).inbox = s.inbox := rfl
@[simp] theorem State.updPart_cur (f : Part → Part) : (s.updPart k f).cur = s.cur := rfl
@[simp] theorem State.updPart_att (f : Part → Part) : (s.updPart k f).att = s.att := rfl
@[simp] theorem State.updPart_freeCtr (f : Part → Part) : (s.updPart k f).freeCtr = s.freeCtr := rfl
@[simp] theorem State.updPart_uid (f : Part → Part) : (s.updPart k f).uid = s.uid := rfl
@[simp] theorem State.updPart_cd (f : Part → Part) : (s.updPart k f).cd = s.cd := rfl
@[simp] theorem State.updPart_cc (f : Part → Part) : (s.updPart k f).cc = s.cc := rfl
@[simp] theorem State.updPart_core (f : Part → Part) : (s.updPart k f).core = s.core := rfl
@[simp] theorem State.updPart_col (f : Part → Part) : (s.updPart k f).col = s.col := rfl
@[simp] theorem State.updPart_quad (f : Part → Part) : (s.updPart k f).quad = s.quad := rfl
@[simp] theorem State.updPart_eng (f : Part → Part) : (s.updPart k f).eng = s.eng := rfl
@[simp] theorem State.updPart_die (f : Part → Part) : (s.updPart k f).die = s.die := rfl
@[simp] theorem State.updPart_mem (f : Part → Part) : (s.updPart k f).mem = s.mem := rfl
@[simp] theorem State.updPart_poison (f : Part → Part) : (s.updPart k f).poison = s.poison := rfl
@[simp] theorem State.updPart_lost (f : Part → Part) : (s.updPart k f).lost = s.lost := rfl
@[simp] theorem State.updPart_sockets (f : Part → Part) : (s.updPart k f).sockets = s.sockets := rfl
@[simp] theorem State.updPart_boot (f : Part → Part) : (s.updPart k f).boot = s.boot := rfl
@[simp] theorem State.updPart_start (f : Part → Part) : (s.updPart k f).start = s.start := rfl
@[simp] theorem State.updPart_ivStacks (f : Part → Part) : (s.updPart k f).ivStacks = s.ivStacks := rfl
@[simp] theorem State.updPart_queues (f : Part → Part) : (s.updPart k f).queues = s.queues := rfl
@[simp] theorem State.updPart_feLast (f : Part → Part) : (s.updPart k f).feLast = s.feLast := rfl
@[simp] theorem State.updPart_launches (f : Part → Part) : (s.updPart k f).launches = s.launches := rfl
@[simp] theorem State.updPart_nextLaunch (f : Part → Part) : (s.updPart k f).nextLaunch = s.nextLaunch := rfl
@[simp] theorem State.updPart_swaps (f : Part → Part) : (s.updPart k f).swaps = s.swaps := rfl
@[simp] theorem State.updPart_nextSwap (f : Part → Part) : (s.updPart k f).nextSwap = s.nextSwap := rfl
@[simp] theorem State.updPart_ranges (f : Part → Part) : (s.updPart k f).ranges = s.ranges := rfl
@[simp] theorem State.updPart_grabs (f : Part → Part) : (s.updPart k f).grabs = s.grabs := rfl
@[simp] theorem State.updPart_barriers (f : Part → Part) : (s.updPart k f).barriers = s.barriers := rfl
@[simp] theorem State.updPart_colls (f : Part → Part) : (s.updPart k f).colls = s.colls := rfl
@[simp] theorem State.updPart_contracts (f : Part → Part) : (s.updPart k f).contracts = s.contracts := rfl
@[simp] theorem State.updPart_mgmt (f : Part → Part) : (s.updPart k f).mgmt = s.mgmt := rfl
@[simp] theorem State.updPart_apprcmd (f : Part → Part) : (s.updPart k f).apprcmd = s.apprcmd := rfl
@[simp] theorem State.updPart_evbase (f : Part → Part) : (s.updPart k f).evbase = s.evbase := rfl
@[simp] theorem State.updPart_attpend (f : Part → Part) : (s.updPart k f).attpend = s.attpend := rfl
@[simp] theorem State.updPart_attverd (f : Part → Part) : (s.updPart k f).attverd = s.attverd := rfl
@[simp] theorem State.updPart_repctl (f : Part → Part) : (s.updPart k f).repctl = s.repctl := rfl
@[simp] theorem State.updPart_repcmd (f : Part → Part) : (s.updPart k f).repcmd = s.repcmd := rfl
@[simp] theorem State.updPart_repLog (f : Part → Part) : (s.updPart k f).repLog = s.repLog := rfl
@[simp] theorem State.updPart_repair (f : Part → Part) : (s.updPart k f).repair = s.repair := rfl
@[simp] theorem State.updPart_repDue (f : Part → Part) : (s.updPart k f).repDue = s.repDue := rfl
@[simp] theorem State.updPart_podform (f : Part → Part) : (s.updPart k f).podform = s.podform := rfl
@[simp] theorem State.updPart_links (f : Part → Part) : (s.updPart k f).links = s.links := rfl
@[simp] theorem State.updPart_podrt (f : Part → Part) : (s.updPart k f).podrt = s.podrt := rfl
@[simp] theorem State.updPart_podspc (f : Part → Part) : (s.updPart k f).podspc = s.podspc := rfl
@[simp] theorem State.updPart_podgrp (f : Part → Part) : (s.updPart k f).podgrp = s.podgrp := rfl
@[simp] theorem State.updPart_podOut (f : Part → Part) : (s.updPart k f).podOut = s.podOut := rfl
@[simp] theorem State.updPart_podIn (f : Part → Part) : (s.updPart k f).podIn = s.podIn := rfl
@[simp] theorem State.updPart_posted (f : Part → Part) : (s.updPart k f).posted = s.posted := rfl
@[simp] theorem State.updPart_engPod (f : Part → Part) : (s.updPart k f).engPod = s.engPod := rfl
@[simp] theorem State.updPart_amoLeft (f : Part → Part) : (s.updPart k f).amoLeft = s.amoLeft := rfl
@[simp] theorem State.updPart_comps (f : Part → Part) : (s.updPart k f).comps = s.comps := rfl
@[simp] theorem State.updPart_migsrc (f : Part → Part) : (s.updPart k f).migsrc = s.migsrc := rfl
@[simp] theorem State.updPart_migdst (f : Part → Part) : (s.updPart k f).migdst = s.migdst := rfl
@[simp] theorem State.updPart_miglen (f : Part → Part) : (s.updPart k f).miglen = s.miglen := rfl
@[simp] theorem State.updPart_migctl (f : Part → Part) : (s.updPart k f).migctl = s.migctl := rfl
@[simp] theorem State.updPart_pcnt (f : Part → Part) : (s.updPart k f).pcnt = s.pcnt := rfl
@[simp] theorem State.updPart_migDue (f : Part → Part) : (s.updPart k f).migDue = s.migDue := rfl
@[simp] theorem State.updPart_pastRef (f : Part → Part) : (s.updPart k f).pastRef = s.pastRef := rfl
@[simp] theorem State.updPart_events (f : Part → Part) : (s.updPart k f).events = s.events := rfl
@[simp] theorem State.updPart_traceQ (f : Part → Part) : (s.updPart k f).traceQ = s.traceQ := rfl

/-! ### updLink -/

@[simp] theorem State.updLink_clock (f : Link → Link) : (s.updLink k f).clock = s.clock := rfl
@[simp] theorem State.updLink_phase (f : Link → Link) : (s.updLink k f).phase = s.phase := rfl
@[simp] theorem State.updLink_issueCol (f : Link → Link) : (s.updLink k f).issueCol = s.issueCol := rfl
@[simp] theorem State.updLink_inbox (f : Link → Link) : (s.updLink k f).inbox = s.inbox := rfl
@[simp] theorem State.updLink_cur (f : Link → Link) : (s.updLink k f).cur = s.cur := rfl
@[simp] theorem State.updLink_att (f : Link → Link) : (s.updLink k f).att = s.att := rfl
@[simp] theorem State.updLink_freeCtr (f : Link → Link) : (s.updLink k f).freeCtr = s.freeCtr := rfl
@[simp] theorem State.updLink_uid (f : Link → Link) : (s.updLink k f).uid = s.uid := rfl
@[simp] theorem State.updLink_cd (f : Link → Link) : (s.updLink k f).cd = s.cd := rfl
@[simp] theorem State.updLink_cc (f : Link → Link) : (s.updLink k f).cc = s.cc := rfl
@[simp] theorem State.updLink_core (f : Link → Link) : (s.updLink k f).core = s.core := rfl
@[simp] theorem State.updLink_col (f : Link → Link) : (s.updLink k f).col = s.col := rfl
@[simp] theorem State.updLink_quad (f : Link → Link) : (s.updLink k f).quad = s.quad := rfl
@[simp] theorem State.updLink_eng (f : Link → Link) : (s.updLink k f).eng = s.eng := rfl
@[simp] theorem State.updLink_die (f : Link → Link) : (s.updLink k f).die = s.die := rfl
@[simp] theorem State.updLink_mem (f : Link → Link) : (s.updLink k f).mem = s.mem := rfl
@[simp] theorem State.updLink_poison (f : Link → Link) : (s.updLink k f).poison = s.poison := rfl
@[simp] theorem State.updLink_lost (f : Link → Link) : (s.updLink k f).lost = s.lost := rfl
@[simp] theorem State.updLink_sockets (f : Link → Link) : (s.updLink k f).sockets = s.sockets := rfl
@[simp] theorem State.updLink_boot (f : Link → Link) : (s.updLink k f).boot = s.boot := rfl
@[simp] theorem State.updLink_start (f : Link → Link) : (s.updLink k f).start = s.start := rfl
@[simp] theorem State.updLink_ivStacks (f : Link → Link) : (s.updLink k f).ivStacks = s.ivStacks := rfl
@[simp] theorem State.updLink_queues (f : Link → Link) : (s.updLink k f).queues = s.queues := rfl
@[simp] theorem State.updLink_feLast (f : Link → Link) : (s.updLink k f).feLast = s.feLast := rfl
@[simp] theorem State.updLink_launches (f : Link → Link) : (s.updLink k f).launches = s.launches := rfl
@[simp] theorem State.updLink_nextLaunch (f : Link → Link) : (s.updLink k f).nextLaunch = s.nextLaunch := rfl
@[simp] theorem State.updLink_swaps (f : Link → Link) : (s.updLink k f).swaps = s.swaps := rfl
@[simp] theorem State.updLink_nextSwap (f : Link → Link) : (s.updLink k f).nextSwap = s.nextSwap := rfl
@[simp] theorem State.updLink_ranges (f : Link → Link) : (s.updLink k f).ranges = s.ranges := rfl
@[simp] theorem State.updLink_grabs (f : Link → Link) : (s.updLink k f).grabs = s.grabs := rfl
@[simp] theorem State.updLink_barriers (f : Link → Link) : (s.updLink k f).barriers = s.barriers := rfl
@[simp] theorem State.updLink_colls (f : Link → Link) : (s.updLink k f).colls = s.colls := rfl
@[simp] theorem State.updLink_contracts (f : Link → Link) : (s.updLink k f).contracts = s.contracts := rfl
@[simp] theorem State.updLink_parts (f : Link → Link) : (s.updLink k f).parts = s.parts := rfl
@[simp] theorem State.updLink_mgmt (f : Link → Link) : (s.updLink k f).mgmt = s.mgmt := rfl
@[simp] theorem State.updLink_apprcmd (f : Link → Link) : (s.updLink k f).apprcmd = s.apprcmd := rfl
@[simp] theorem State.updLink_evbase (f : Link → Link) : (s.updLink k f).evbase = s.evbase := rfl
@[simp] theorem State.updLink_attpend (f : Link → Link) : (s.updLink k f).attpend = s.attpend := rfl
@[simp] theorem State.updLink_attverd (f : Link → Link) : (s.updLink k f).attverd = s.attverd := rfl
@[simp] theorem State.updLink_repctl (f : Link → Link) : (s.updLink k f).repctl = s.repctl := rfl
@[simp] theorem State.updLink_repcmd (f : Link → Link) : (s.updLink k f).repcmd = s.repcmd := rfl
@[simp] theorem State.updLink_repLog (f : Link → Link) : (s.updLink k f).repLog = s.repLog := rfl
@[simp] theorem State.updLink_repair (f : Link → Link) : (s.updLink k f).repair = s.repair := rfl
@[simp] theorem State.updLink_repDue (f : Link → Link) : (s.updLink k f).repDue = s.repDue := rfl
@[simp] theorem State.updLink_podform (f : Link → Link) : (s.updLink k f).podform = s.podform := rfl
@[simp] theorem State.updLink_podrt (f : Link → Link) : (s.updLink k f).podrt = s.podrt := rfl
@[simp] theorem State.updLink_podspc (f : Link → Link) : (s.updLink k f).podspc = s.podspc := rfl
@[simp] theorem State.updLink_podgrp (f : Link → Link) : (s.updLink k f).podgrp = s.podgrp := rfl
@[simp] theorem State.updLink_podOut (f : Link → Link) : (s.updLink k f).podOut = s.podOut := rfl
@[simp] theorem State.updLink_podIn (f : Link → Link) : (s.updLink k f).podIn = s.podIn := rfl
@[simp] theorem State.updLink_posted (f : Link → Link) : (s.updLink k f).posted = s.posted := rfl
@[simp] theorem State.updLink_engPod (f : Link → Link) : (s.updLink k f).engPod = s.engPod := rfl
@[simp] theorem State.updLink_amoLeft (f : Link → Link) : (s.updLink k f).amoLeft = s.amoLeft := rfl
@[simp] theorem State.updLink_comps (f : Link → Link) : (s.updLink k f).comps = s.comps := rfl
@[simp] theorem State.updLink_migsrc (f : Link → Link) : (s.updLink k f).migsrc = s.migsrc := rfl
@[simp] theorem State.updLink_migdst (f : Link → Link) : (s.updLink k f).migdst = s.migdst := rfl
@[simp] theorem State.updLink_miglen (f : Link → Link) : (s.updLink k f).miglen = s.miglen := rfl
@[simp] theorem State.updLink_migctl (f : Link → Link) : (s.updLink k f).migctl = s.migctl := rfl
@[simp] theorem State.updLink_pcnt (f : Link → Link) : (s.updLink k f).pcnt = s.pcnt := rfl
@[simp] theorem State.updLink_migDue (f : Link → Link) : (s.updLink k f).migDue = s.migDue := rfl
@[simp] theorem State.updLink_pastRef (f : Link → Link) : (s.updLink k f).pastRef = s.pastRef := rfl
@[simp] theorem State.updLink_events (f : Link → Link) : (s.updLink k f).events = s.events := rfl
@[simp] theorem State.updLink_traceQ (f : Link → Link) : (s.updLink k f).traceQ = s.traceQ := rfl

/-! ### setCd, updCd -/

@[simp] theorem State.setCd_clock (x : CtxDie) : (s.setCd k x).clock = s.clock := by unfold State.setCd; split <;> rfl
@[simp] theorem State.setCd_phase (x : CtxDie) : (s.setCd k x).phase = s.phase := by unfold State.setCd; split <;> rfl
@[simp] theorem State.setCd_issueCol (x : CtxDie) : (s.setCd k x).issueCol = s.issueCol := by unfold State.setCd; split <;> rfl
@[simp] theorem State.setCd_inbox (x : CtxDie) : (s.setCd k x).inbox = s.inbox := by unfold State.setCd; split <;> rfl
@[simp] theorem State.setCd_cur (x : CtxDie) : (s.setCd k x).cur = s.cur := by unfold State.setCd; split <;> rfl
@[simp] theorem State.setCd_att (x : CtxDie) : (s.setCd k x).att = s.att := by unfold State.setCd; split <;> rfl
@[simp] theorem State.setCd_freeCtr (x : CtxDie) : (s.setCd k x).freeCtr = s.freeCtr := by unfold State.setCd; split <;> rfl
@[simp] theorem State.setCd_uid (x : CtxDie) : (s.setCd k x).uid = s.uid := by unfold State.setCd; split <;> rfl
@[simp] theorem State.setCd_cc (x : CtxDie) : (s.setCd k x).cc = s.cc := by unfold State.setCd; split <;> rfl
@[simp] theorem State.setCd_col (x : CtxDie) : (s.setCd k x).col = s.col := by unfold State.setCd; split <;> rfl
@[simp] theorem State.setCd_quad (x : CtxDie) : (s.setCd k x).quad = s.quad := by unfold State.setCd; split <;> rfl
@[simp] theorem State.setCd_eng (x : CtxDie) : (s.setCd k x).eng = s.eng := by unfold State.setCd; split <;> rfl
@[simp] theorem State.setCd_die (x : CtxDie) : (s.setCd k x).die = s.die := by unfold State.setCd; split <;> rfl
@[simp] theorem State.setCd_mem (x : CtxDie) : (s.setCd k x).mem = s.mem := by unfold State.setCd; split <;> rfl
@[simp] theorem State.setCd_poison (x : CtxDie) : (s.setCd k x).poison = s.poison := by unfold State.setCd; split <;> rfl
@[simp] theorem State.setCd_lost (x : CtxDie) : (s.setCd k x).lost = s.lost := by unfold State.setCd; split <;> rfl
@[simp] theorem State.setCd_sockets (x : CtxDie) : (s.setCd k x).sockets = s.sockets := by unfold State.setCd; split <;> rfl
@[simp] theorem State.setCd_boot (x : CtxDie) : (s.setCd k x).boot = s.boot := by unfold State.setCd; split <;> rfl
@[simp] theorem State.setCd_start (x : CtxDie) : (s.setCd k x).start = s.start := by unfold State.setCd; split <;> rfl
@[simp] theorem State.setCd_ivStacks (x : CtxDie) : (s.setCd k x).ivStacks = s.ivStacks := by unfold State.setCd; split <;> rfl
@[simp] theorem State.setCd_queues (x : CtxDie) : (s.setCd k x).queues = s.queues := by unfold State.setCd; split <;> rfl
@[simp] theorem State.setCd_feLast (x : CtxDie) : (s.setCd k x).feLast = s.feLast := by unfold State.setCd; split <;> rfl
@[simp] theorem State.setCd_launches (x : CtxDie) : (s.setCd k x).launches = s.launches := by unfold State.setCd; split <;> rfl
@[simp] theorem State.setCd_nextLaunch (x : CtxDie) : (s.setCd k x).nextLaunch = s.nextLaunch := by unfold State.setCd; split <;> rfl
@[simp] theorem State.setCd_swaps (x : CtxDie) : (s.setCd k x).swaps = s.swaps := by unfold State.setCd; split <;> rfl
@[simp] theorem State.setCd_nextSwap (x : CtxDie) : (s.setCd k x).nextSwap = s.nextSwap := by unfold State.setCd; split <;> rfl
@[simp] theorem State.setCd_ranges (x : CtxDie) : (s.setCd k x).ranges = s.ranges := by unfold State.setCd; split <;> rfl
@[simp] theorem State.setCd_grabs (x : CtxDie) : (s.setCd k x).grabs = s.grabs := by unfold State.setCd; split <;> rfl
@[simp] theorem State.setCd_barriers (x : CtxDie) : (s.setCd k x).barriers = s.barriers := by unfold State.setCd; split <;> rfl
@[simp] theorem State.setCd_colls (x : CtxDie) : (s.setCd k x).colls = s.colls := by unfold State.setCd; split <;> rfl
@[simp] theorem State.setCd_contracts (x : CtxDie) : (s.setCd k x).contracts = s.contracts := by unfold State.setCd; split <;> rfl
@[simp] theorem State.setCd_parts (x : CtxDie) : (s.setCd k x).parts = s.parts := by unfold State.setCd; split <;> rfl
@[simp] theorem State.setCd_mgmt (x : CtxDie) : (s.setCd k x).mgmt = s.mgmt := by unfold State.setCd; split <;> rfl
@[simp] theorem State.setCd_apprcmd (x : CtxDie) : (s.setCd k x).apprcmd = s.apprcmd := by unfold State.setCd; split <;> rfl
@[simp] theorem State.setCd_evbase (x : CtxDie) : (s.setCd k x).evbase = s.evbase := by unfold State.setCd; split <;> rfl
@[simp] theorem State.setCd_attpend (x : CtxDie) : (s.setCd k x).attpend = s.attpend := by unfold State.setCd; split <;> rfl
@[simp] theorem State.setCd_attverd (x : CtxDie) : (s.setCd k x).attverd = s.attverd := by unfold State.setCd; split <;> rfl
@[simp] theorem State.setCd_repctl (x : CtxDie) : (s.setCd k x).repctl = s.repctl := by unfold State.setCd; split <;> rfl
@[simp] theorem State.setCd_repcmd (x : CtxDie) : (s.setCd k x).repcmd = s.repcmd := by unfold State.setCd; split <;> rfl
@[simp] theorem State.setCd_repLog (x : CtxDie) : (s.setCd k x).repLog = s.repLog := by unfold State.setCd; split <;> rfl
@[simp] theorem State.setCd_repair (x : CtxDie) : (s.setCd k x).repair = s.repair := by unfold State.setCd; split <;> rfl
@[simp] theorem State.setCd_repDue (x : CtxDie) : (s.setCd k x).repDue = s.repDue := by unfold State.setCd; split <;> rfl
@[simp] theorem State.setCd_podform (x : CtxDie) : (s.setCd k x).podform = s.podform := by unfold State.setCd; split <;> rfl
@[simp] theorem State.setCd_links (x : CtxDie) : (s.setCd k x).links = s.links := by unfold State.setCd; split <;> rfl
@[simp] theorem State.setCd_podrt (x : CtxDie) : (s.setCd k x).podrt = s.podrt := by unfold State.setCd; split <;> rfl
@[simp] theorem State.setCd_podspc (x : CtxDie) : (s.setCd k x).podspc = s.podspc := by unfold State.setCd; split <;> rfl
@[simp] theorem State.setCd_podgrp (x : CtxDie) : (s.setCd k x).podgrp = s.podgrp := by unfold State.setCd; split <;> rfl
@[simp] theorem State.setCd_podOut (x : CtxDie) : (s.setCd k x).podOut = s.podOut := by unfold State.setCd; split <;> rfl
@[simp] theorem State.setCd_podIn (x : CtxDie) : (s.setCd k x).podIn = s.podIn := by unfold State.setCd; split <;> rfl
@[simp] theorem State.setCd_posted (x : CtxDie) : (s.setCd k x).posted = s.posted := by unfold State.setCd; split <;> rfl
@[simp] theorem State.setCd_engPod (x : CtxDie) : (s.setCd k x).engPod = s.engPod := by unfold State.setCd; split <;> rfl
@[simp] theorem State.setCd_amoLeft (x : CtxDie) : (s.setCd k x).amoLeft = s.amoLeft := by unfold State.setCd; split <;> rfl
@[simp] theorem State.setCd_comps (x : CtxDie) : (s.setCd k x).comps = s.comps := by unfold State.setCd; split <;> rfl
@[simp] theorem State.setCd_migsrc (x : CtxDie) : (s.setCd k x).migsrc = s.migsrc := by unfold State.setCd; split <;> rfl
@[simp] theorem State.setCd_migdst (x : CtxDie) : (s.setCd k x).migdst = s.migdst := by unfold State.setCd; split <;> rfl
@[simp] theorem State.setCd_miglen (x : CtxDie) : (s.setCd k x).miglen = s.miglen := by unfold State.setCd; split <;> rfl
@[simp] theorem State.setCd_migctl (x : CtxDie) : (s.setCd k x).migctl = s.migctl := by unfold State.setCd; split <;> rfl
@[simp] theorem State.setCd_pcnt (x : CtxDie) : (s.setCd k x).pcnt = s.pcnt := by unfold State.setCd; split <;> rfl
@[simp] theorem State.setCd_migDue (x : CtxDie) : (s.setCd k x).migDue = s.migDue := by unfold State.setCd; split <;> rfl
@[simp] theorem State.setCd_pastRef (x : CtxDie) : (s.setCd k x).pastRef = s.pastRef := by unfold State.setCd; split <;> rfl
@[simp] theorem State.setCd_events (x : CtxDie) : (s.setCd k x).events = s.events := by unfold State.setCd; split <;> rfl
@[simp] theorem State.setCd_traceQ (x : CtxDie) : (s.setCd k x).traceQ = s.traceQ := by unfold State.setCd; split <;> rfl
@[simp] theorem State.updCd_clock (f : CtxDie → CtxDie) : (s.updCd k f).clock = s.clock := State.setCd_clock s k _
@[simp] theorem State.updCd_phase (f : CtxDie → CtxDie) : (s.updCd k f).phase = s.phase := State.setCd_phase s k _
@[simp] theorem State.updCd_issueCol (f : CtxDie → CtxDie) : (s.updCd k f).issueCol = s.issueCol := State.setCd_issueCol s k _
@[simp] theorem State.updCd_inbox (f : CtxDie → CtxDie) : (s.updCd k f).inbox = s.inbox := State.setCd_inbox s k _
@[simp] theorem State.updCd_cur (f : CtxDie → CtxDie) : (s.updCd k f).cur = s.cur := State.setCd_cur s k _
@[simp] theorem State.updCd_att (f : CtxDie → CtxDie) : (s.updCd k f).att = s.att := State.setCd_att s k _
@[simp] theorem State.updCd_freeCtr (f : CtxDie → CtxDie) : (s.updCd k f).freeCtr = s.freeCtr := State.setCd_freeCtr s k _
@[simp] theorem State.updCd_uid (f : CtxDie → CtxDie) : (s.updCd k f).uid = s.uid := State.setCd_uid s k _
@[simp] theorem State.updCd_cc (f : CtxDie → CtxDie) : (s.updCd k f).cc = s.cc := State.setCd_cc s k _
@[simp] theorem State.updCd_col (f : CtxDie → CtxDie) : (s.updCd k f).col = s.col := State.setCd_col s k _
@[simp] theorem State.updCd_quad (f : CtxDie → CtxDie) : (s.updCd k f).quad = s.quad := State.setCd_quad s k _
@[simp] theorem State.updCd_eng (f : CtxDie → CtxDie) : (s.updCd k f).eng = s.eng := State.setCd_eng s k _
@[simp] theorem State.updCd_die (f : CtxDie → CtxDie) : (s.updCd k f).die = s.die := State.setCd_die s k _
@[simp] theorem State.updCd_mem (f : CtxDie → CtxDie) : (s.updCd k f).mem = s.mem := State.setCd_mem s k _
@[simp] theorem State.updCd_poison (f : CtxDie → CtxDie) : (s.updCd k f).poison = s.poison := State.setCd_poison s k _
@[simp] theorem State.updCd_lost (f : CtxDie → CtxDie) : (s.updCd k f).lost = s.lost := State.setCd_lost s k _
@[simp] theorem State.updCd_sockets (f : CtxDie → CtxDie) : (s.updCd k f).sockets = s.sockets := State.setCd_sockets s k _
@[simp] theorem State.updCd_boot (f : CtxDie → CtxDie) : (s.updCd k f).boot = s.boot := State.setCd_boot s k _
@[simp] theorem State.updCd_start (f : CtxDie → CtxDie) : (s.updCd k f).start = s.start := State.setCd_start s k _
@[simp] theorem State.updCd_ivStacks (f : CtxDie → CtxDie) : (s.updCd k f).ivStacks = s.ivStacks := State.setCd_ivStacks s k _
@[simp] theorem State.updCd_queues (f : CtxDie → CtxDie) : (s.updCd k f).queues = s.queues := State.setCd_queues s k _
@[simp] theorem State.updCd_feLast (f : CtxDie → CtxDie) : (s.updCd k f).feLast = s.feLast := State.setCd_feLast s k _
@[simp] theorem State.updCd_launches (f : CtxDie → CtxDie) : (s.updCd k f).launches = s.launches := State.setCd_launches s k _
@[simp] theorem State.updCd_nextLaunch (f : CtxDie → CtxDie) : (s.updCd k f).nextLaunch = s.nextLaunch := State.setCd_nextLaunch s k _
@[simp] theorem State.updCd_swaps (f : CtxDie → CtxDie) : (s.updCd k f).swaps = s.swaps := State.setCd_swaps s k _
@[simp] theorem State.updCd_nextSwap (f : CtxDie → CtxDie) : (s.updCd k f).nextSwap = s.nextSwap := State.setCd_nextSwap s k _
@[simp] theorem State.updCd_ranges (f : CtxDie → CtxDie) : (s.updCd k f).ranges = s.ranges := State.setCd_ranges s k _
@[simp] theorem State.updCd_grabs (f : CtxDie → CtxDie) : (s.updCd k f).grabs = s.grabs := State.setCd_grabs s k _
@[simp] theorem State.updCd_barriers (f : CtxDie → CtxDie) : (s.updCd k f).barriers = s.barriers := State.setCd_barriers s k _
@[simp] theorem State.updCd_colls (f : CtxDie → CtxDie) : (s.updCd k f).colls = s.colls := State.setCd_colls s k _
@[simp] theorem State.updCd_contracts (f : CtxDie → CtxDie) : (s.updCd k f).contracts = s.contracts := State.setCd_contracts s k _
@[simp] theorem State.updCd_parts (f : CtxDie → CtxDie) : (s.updCd k f).parts = s.parts := State.setCd_parts s k _
@[simp] theorem State.updCd_mgmt (f : CtxDie → CtxDie) : (s.updCd k f).mgmt = s.mgmt := State.setCd_mgmt s k _
@[simp] theorem State.updCd_apprcmd (f : CtxDie → CtxDie) : (s.updCd k f).apprcmd = s.apprcmd := State.setCd_apprcmd s k _
@[simp] theorem State.updCd_evbase (f : CtxDie → CtxDie) : (s.updCd k f).evbase = s.evbase := State.setCd_evbase s k _
@[simp] theorem State.updCd_attpend (f : CtxDie → CtxDie) : (s.updCd k f).attpend = s.attpend := State.setCd_attpend s k _
@[simp] theorem State.updCd_attverd (f : CtxDie → CtxDie) : (s.updCd k f).attverd = s.attverd := State.setCd_attverd s k _
@[simp] theorem State.updCd_repctl (f : CtxDie → CtxDie) : (s.updCd k f).repctl = s.repctl := State.setCd_repctl s k _
@[simp] theorem State.updCd_repcmd (f : CtxDie → CtxDie) : (s.updCd k f).repcmd = s.repcmd := State.setCd_repcmd s k _
@[simp] theorem State.updCd_repLog (f : CtxDie → CtxDie) : (s.updCd k f).repLog = s.repLog := State.setCd_repLog s k _
@[simp] theorem State.updCd_repair (f : CtxDie → CtxDie) : (s.updCd k f).repair = s.repair := State.setCd_repair s k _
@[simp] theorem State.updCd_repDue (f : CtxDie → CtxDie) : (s.updCd k f).repDue = s.repDue := State.setCd_repDue s k _
@[simp] theorem State.updCd_podform (f : CtxDie → CtxDie) : (s.updCd k f).podform = s.podform := State.setCd_podform s k _
@[simp] theorem State.updCd_links (f : CtxDie → CtxDie) : (s.updCd k f).links = s.links := State.setCd_links s k _
@[simp] theorem State.updCd_podrt (f : CtxDie → CtxDie) : (s.updCd k f).podrt = s.podrt := State.setCd_podrt s k _
@[simp] theorem State.updCd_podspc (f : CtxDie → CtxDie) : (s.updCd k f).podspc = s.podspc := State.setCd_podspc s k _
@[simp] theorem State.updCd_podgrp (f : CtxDie → CtxDie) : (s.updCd k f).podgrp = s.podgrp := State.setCd_podgrp s k _
@[simp] theorem State.updCd_podOut (f : CtxDie → CtxDie) : (s.updCd k f).podOut = s.podOut := State.setCd_podOut s k _
@[simp] theorem State.updCd_podIn (f : CtxDie → CtxDie) : (s.updCd k f).podIn = s.podIn := State.setCd_podIn s k _
@[simp] theorem State.updCd_posted (f : CtxDie → CtxDie) : (s.updCd k f).posted = s.posted := State.setCd_posted s k _
@[simp] theorem State.updCd_engPod (f : CtxDie → CtxDie) : (s.updCd k f).engPod = s.engPod := State.setCd_engPod s k _
@[simp] theorem State.updCd_amoLeft (f : CtxDie → CtxDie) : (s.updCd k f).amoLeft = s.amoLeft := State.setCd_amoLeft s k _
@[simp] theorem State.updCd_comps (f : CtxDie → CtxDie) : (s.updCd k f).comps = s.comps := State.setCd_comps s k _
@[simp] theorem State.updCd_migsrc (f : CtxDie → CtxDie) : (s.updCd k f).migsrc = s.migsrc := State.setCd_migsrc s k _
@[simp] theorem State.updCd_migdst (f : CtxDie → CtxDie) : (s.updCd k f).migdst = s.migdst := State.setCd_migdst s k _
@[simp] theorem State.updCd_miglen (f : CtxDie → CtxDie) : (s.updCd k f).miglen = s.miglen := State.setCd_miglen s k _
@[simp] theorem State.updCd_migctl (f : CtxDie → CtxDie) : (s.updCd k f).migctl = s.migctl := State.setCd_migctl s k _
@[simp] theorem State.updCd_pcnt (f : CtxDie → CtxDie) : (s.updCd k f).pcnt = s.pcnt := State.setCd_pcnt s k _
@[simp] theorem State.updCd_migDue (f : CtxDie → CtxDie) : (s.updCd k f).migDue = s.migDue := State.setCd_migDue s k _
@[simp] theorem State.updCd_pastRef (f : CtxDie → CtxDie) : (s.updCd k f).pastRef = s.pastRef := State.setCd_pastRef s k _
@[simp] theorem State.updCd_events (f : CtxDie → CtxDie) : (s.updCd k f).events = s.events := State.setCd_events s k _
@[simp] theorem State.updCd_traceQ (f : CtxDie → CtxDie) : (s.updCd k f).traceQ = s.traceQ := State.setCd_traceQ s k _

/-! ### writeByte -/

@[simp] theorem State.writeByte_clock (b : Byte) : (s.writeByte k b).clock = s.clock := rfl
@[simp] theorem State.writeByte_phase (b : Byte) : (s.writeByte k b).phase = s.phase := rfl
@[simp] theorem State.writeByte_issueCol (b : Byte) : (s.writeByte k b).issueCol = s.issueCol := rfl
@[simp] theorem State.writeByte_inbox (b : Byte) : (s.writeByte k b).inbox = s.inbox := rfl
@[simp] theorem State.writeByte_cur (b : Byte) : (s.writeByte k b).cur = s.cur := rfl
@[simp] theorem State.writeByte_att (b : Byte) : (s.writeByte k b).att = s.att := rfl
@[simp] theorem State.writeByte_freeCtr (b : Byte) : (s.writeByte k b).freeCtr = s.freeCtr := rfl
@[simp] theorem State.writeByte_uid (b : Byte) : (s.writeByte k b).uid = s.uid := rfl
@[simp] theorem State.writeByte_cd (b : Byte) : (s.writeByte k b).cd = s.cd := rfl
@[simp] theorem State.writeByte_cc (b : Byte) : (s.writeByte k b).cc = s.cc := rfl
@[simp] theorem State.writeByte_core (b : Byte) : (s.writeByte k b).core = s.core := rfl
@[simp] theorem State.writeByte_col (b : Byte) : (s.writeByte k b).col = s.col := rfl
@[simp] theorem State.writeByte_quad (b : Byte) : (s.writeByte k b).quad = s.quad := rfl
@[simp] theorem State.writeByte_eng (b : Byte) : (s.writeByte k b).eng = s.eng := rfl
@[simp] theorem State.writeByte_die (b : Byte) : (s.writeByte k b).die = s.die := rfl
@[simp] theorem State.writeByte_poison (b : Byte) : (s.writeByte k b).poison = s.poison := rfl
@[simp] theorem State.writeByte_lost (b : Byte) : (s.writeByte k b).lost = s.lost := rfl
@[simp] theorem State.writeByte_sockets (b : Byte) : (s.writeByte k b).sockets = s.sockets := rfl
@[simp] theorem State.writeByte_boot (b : Byte) : (s.writeByte k b).boot = s.boot := rfl
@[simp] theorem State.writeByte_start (b : Byte) : (s.writeByte k b).start = s.start := rfl
@[simp] theorem State.writeByte_ivStacks (b : Byte) : (s.writeByte k b).ivStacks = s.ivStacks := rfl
@[simp] theorem State.writeByte_queues (b : Byte) : (s.writeByte k b).queues = s.queues := rfl
@[simp] theorem State.writeByte_feLast (b : Byte) : (s.writeByte k b).feLast = s.feLast := rfl
@[simp] theorem State.writeByte_launches (b : Byte) : (s.writeByte k b).launches = s.launches := rfl
@[simp] theorem State.writeByte_nextLaunch (b : Byte) : (s.writeByte k b).nextLaunch = s.nextLaunch := rfl
@[simp] theorem State.writeByte_swaps (b : Byte) : (s.writeByte k b).swaps = s.swaps := rfl
@[simp] theorem State.writeByte_nextSwap (b : Byte) : (s.writeByte k b).nextSwap = s.nextSwap := rfl
@[simp] theorem State.writeByte_ranges (b : Byte) : (s.writeByte k b).ranges = s.ranges := rfl
@[simp] theorem State.writeByte_grabs (b : Byte) : (s.writeByte k b).grabs = s.grabs := rfl
@[simp] theorem State.writeByte_barriers (b : Byte) : (s.writeByte k b).barriers = s.barriers := rfl
@[simp] theorem State.writeByte_colls (b : Byte) : (s.writeByte k b).colls = s.colls := rfl
@[simp] theorem State.writeByte_contracts (b : Byte) : (s.writeByte k b).contracts = s.contracts := rfl
@[simp] theorem State.writeByte_parts (b : Byte) : (s.writeByte k b).parts = s.parts := rfl
@[simp] theorem State.writeByte_mgmt (b : Byte) : (s.writeByte k b).mgmt = s.mgmt := rfl
@[simp] theorem State.writeByte_apprcmd (b : Byte) : (s.writeByte k b).apprcmd = s.apprcmd := rfl
@[simp] theorem State.writeByte_evbase (b : Byte) : (s.writeByte k b).evbase = s.evbase := rfl
@[simp] theorem State.writeByte_attpend (b : Byte) : (s.writeByte k b).attpend = s.attpend := rfl
@[simp] theorem State.writeByte_attverd (b : Byte) : (s.writeByte k b).attverd = s.attverd := rfl
@[simp] theorem State.writeByte_repctl (b : Byte) : (s.writeByte k b).repctl = s.repctl := rfl
@[simp] theorem State.writeByte_repcmd (b : Byte) : (s.writeByte k b).repcmd = s.repcmd := rfl
@[simp] theorem State.writeByte_repLog (b : Byte) : (s.writeByte k b).repLog = s.repLog := rfl
@[simp] theorem State.writeByte_repair (b : Byte) : (s.writeByte k b).repair = s.repair := rfl
@[simp] theorem State.writeByte_repDue (b : Byte) : (s.writeByte k b).repDue = s.repDue := rfl
@[simp] theorem State.writeByte_podform (b : Byte) : (s.writeByte k b).podform = s.podform := rfl
@[simp] theorem State.writeByte_links (b : Byte) : (s.writeByte k b).links = s.links := rfl
@[simp] theorem State.writeByte_podrt (b : Byte) : (s.writeByte k b).podrt = s.podrt := rfl
@[simp] theorem State.writeByte_podspc (b : Byte) : (s.writeByte k b).podspc = s.podspc := rfl
@[simp] theorem State.writeByte_podgrp (b : Byte) : (s.writeByte k b).podgrp = s.podgrp := rfl
@[simp] theorem State.writeByte_podOut (b : Byte) : (s.writeByte k b).podOut = s.podOut := rfl
@[simp] theorem State.writeByte_podIn (b : Byte) : (s.writeByte k b).podIn = s.podIn := rfl
@[simp] theorem State.writeByte_posted (b : Byte) : (s.writeByte k b).posted = s.posted := rfl
@[simp] theorem State.writeByte_engPod (b : Byte) : (s.writeByte k b).engPod = s.engPod := rfl
@[simp] theorem State.writeByte_amoLeft (b : Byte) : (s.writeByte k b).amoLeft = s.amoLeft := rfl
@[simp] theorem State.writeByte_comps (b : Byte) : (s.writeByte k b).comps = s.comps := rfl
@[simp] theorem State.writeByte_migsrc (b : Byte) : (s.writeByte k b).migsrc = s.migsrc := rfl
@[simp] theorem State.writeByte_migdst (b : Byte) : (s.writeByte k b).migdst = s.migdst := rfl
@[simp] theorem State.writeByte_miglen (b : Byte) : (s.writeByte k b).miglen = s.miglen := rfl
@[simp] theorem State.writeByte_migctl (b : Byte) : (s.writeByte k b).migctl = s.migctl := rfl
@[simp] theorem State.writeByte_pcnt (b : Byte) : (s.writeByte k b).pcnt = s.pcnt := rfl
@[simp] theorem State.writeByte_migDue (b : Byte) : (s.writeByte k b).migDue = s.migDue := rfl
@[simp] theorem State.writeByte_pastRef (b : Byte) : (s.writeByte k b).pastRef = s.pastRef := rfl
@[simp] theorem State.writeByte_events (b : Byte) : (s.writeByte k b).events = s.events := rfl
@[simp] theorem State.writeByte_traceQ (b : Byte) : (s.writeByte k b).traceQ = s.traceQ := rfl

/-! ### writeBytes -/

@[simp] theorem State.writeBytes_clock (l : List Byte) : (s.writeBytes k l).clock = s.clock := by
  induction l generalizing s k with
  | nil => rfl
  | cons b l ih => rw [State.writeBytes, ih]; rfl
@[simp] theorem State.writeBytes_phase (l : List Byte) : (s.writeBytes k l).phase = s.phase := by
  induction l generalizing s k with
  | nil => rfl
  | cons b l ih => rw [State.writeBytes, ih]; rfl
@[simp] theorem State.writeBytes_issueCol (l : List Byte) : (s.writeBytes k l).issueCol = s.issueCol := by
  induction l generalizing s k with
  | nil => rfl
  | cons b l ih => rw [State.writeBytes, ih]; rfl
@[simp] theorem State.writeBytes_inbox (l : List Byte) : (s.writeBytes k l).inbox = s.inbox := by
  induction l generalizing s k with
  | nil => rfl
  | cons b l ih => rw [State.writeBytes, ih]; rfl
@[simp] theorem State.writeBytes_cur (l : List Byte) : (s.writeBytes k l).cur = s.cur := by
  induction l generalizing s k with
  | nil => rfl
  | cons b l ih => rw [State.writeBytes, ih]; rfl
@[simp] theorem State.writeBytes_att (l : List Byte) : (s.writeBytes k l).att = s.att := by
  induction l generalizing s k with
  | nil => rfl
  | cons b l ih => rw [State.writeBytes, ih]; rfl
@[simp] theorem State.writeBytes_freeCtr (l : List Byte) : (s.writeBytes k l).freeCtr = s.freeCtr := by
  induction l generalizing s k with
  | nil => rfl
  | cons b l ih => rw [State.writeBytes, ih]; rfl
@[simp] theorem State.writeBytes_uid (l : List Byte) : (s.writeBytes k l).uid = s.uid := by
  induction l generalizing s k with
  | nil => rfl
  | cons b l ih => rw [State.writeBytes, ih]; rfl
@[simp] theorem State.writeBytes_cd (l : List Byte) : (s.writeBytes k l).cd = s.cd := by
  induction l generalizing s k with
  | nil => rfl
  | cons b l ih => rw [State.writeBytes, ih]; rfl
@[simp] theorem State.writeBytes_cc (l : List Byte) : (s.writeBytes k l).cc = s.cc := by
  induction l generalizing s k with
  | nil => rfl
  | cons b l ih => rw [State.writeBytes, ih]; rfl
@[simp] theorem State.writeBytes_core (l : List Byte) : (s.writeBytes k l).core = s.core := by
  induction l generalizing s k with
  | nil => rfl
  | cons b l ih => rw [State.writeBytes, ih]; rfl
@[simp] theorem State.writeBytes_col (l : List Byte) : (s.writeBytes k l).col = s.col := by
  induction l generalizing s k with
  | nil => rfl
  | cons b l ih => rw [State.writeBytes, ih]; rfl
@[simp] theorem State.writeBytes_quad (l : List Byte) : (s.writeBytes k l).quad = s.quad := by
  induction l generalizing s k with
  | nil => rfl
  | cons b l ih => rw [State.writeBytes, ih]; rfl
@[simp] theorem State.writeBytes_eng (l : List Byte) : (s.writeBytes k l).eng = s.eng := by
  induction l generalizing s k with
  | nil => rfl
  | cons b l ih => rw [State.writeBytes, ih]; rfl
@[simp] theorem State.writeBytes_die (l : List Byte) : (s.writeBytes k l).die = s.die := by
  induction l generalizing s k with
  | nil => rfl
  | cons b l ih => rw [State.writeBytes, ih]; rfl
@[simp] theorem State.writeBytes_poison (l : List Byte) : (s.writeBytes k l).poison = s.poison := by
  induction l generalizing s k with
  | nil => rfl
  | cons b l ih => rw [State.writeBytes, ih]; rfl
@[simp] theorem State.writeBytes_lost (l : List Byte) : (s.writeBytes k l).lost = s.lost := by
  induction l generalizing s k with
  | nil => rfl
  | cons b l ih => rw [State.writeBytes, ih]; rfl
@[simp] theorem State.writeBytes_sockets (l : List Byte) : (s.writeBytes k l).sockets = s.sockets := by
  induction l generalizing s k with
  | nil => rfl
  | cons b l ih => rw [State.writeBytes, ih]; rfl
@[simp] theorem State.writeBytes_boot (l : List Byte) : (s.writeBytes k l).boot = s.boot := by
  induction l generalizing s k with
  | nil => rfl
  | cons b l ih => rw [State.writeBytes, ih]; rfl
@[simp] theorem State.writeBytes_start (l : List Byte) : (s.writeBytes k l).start = s.start := by
  induction l generalizing s k with
  | nil => rfl
  | cons b l ih => rw [State.writeBytes, ih]; rfl
@[simp] theorem State.writeBytes_ivStacks (l : List Byte) : (s.writeBytes k l).ivStacks = s.ivStacks := by
  induction l generalizing s k with
  | nil => rfl
  | cons b l ih => rw [State.writeBytes, ih]; rfl
@[simp] theorem State.writeBytes_queues (l : List Byte) : (s.writeBytes k l).queues = s.queues := by
  induction l generalizing s k with
  | nil => rfl
  | cons b l ih => rw [State.writeBytes, ih]; rfl
@[simp] theorem State.writeBytes_feLast (l : List Byte) : (s.writeBytes k l).feLast = s.feLast := by
  induction l generalizing s k with
  | nil => rfl
  | cons b l ih => rw [State.writeBytes, ih]; rfl
@[simp] theorem State.writeBytes_launches (l : List Byte) : (s.writeBytes k l).launches = s.launches := by
  induction l generalizing s k with
  | nil => rfl
  | cons b l ih => rw [State.writeBytes, ih]; rfl
@[simp] theorem State.writeBytes_nextLaunch (l : List Byte) : (s.writeBytes k l).nextLaunch = s.nextLaunch := by
  induction l generalizing s k with
  | nil => rfl
  | cons b l ih => rw [State.writeBytes, ih]; rfl
@[simp] theorem State.writeBytes_swaps (l : List Byte) : (s.writeBytes k l).swaps = s.swaps := by
  induction l generalizing s k with
  | nil => rfl
  | cons b l ih => rw [State.writeBytes, ih]; rfl
@[simp] theorem State.writeBytes_nextSwap (l : List Byte) : (s.writeBytes k l).nextSwap = s.nextSwap := by
  induction l generalizing s k with
  | nil => rfl
  | cons b l ih => rw [State.writeBytes, ih]; rfl
@[simp] theorem State.writeBytes_ranges (l : List Byte) : (s.writeBytes k l).ranges = s.ranges := by
  induction l generalizing s k with
  | nil => rfl
  | cons b l ih => rw [State.writeBytes, ih]; rfl
@[simp] theorem State.writeBytes_grabs (l : List Byte) : (s.writeBytes k l).grabs = s.grabs := by
  induction l generalizing s k with
  | nil => rfl
  | cons b l ih => rw [State.writeBytes, ih]; rfl
@[simp] theorem State.writeBytes_barriers (l : List Byte) : (s.writeBytes k l).barriers = s.barriers := by
  induction l generalizing s k with
  | nil => rfl
  | cons b l ih => rw [State.writeBytes, ih]; rfl
@[simp] theorem State.writeBytes_colls (l : List Byte) : (s.writeBytes k l).colls = s.colls := by
  induction l generalizing s k with
  | nil => rfl
  | cons b l ih => rw [State.writeBytes, ih]; rfl
@[simp] theorem State.writeBytes_contracts (l : List Byte) : (s.writeBytes k l).contracts = s.contracts := by
  induction l generalizing s k with
  | nil => rfl
  | cons b l ih => rw [State.writeBytes, ih]; rfl
@[simp] theorem State.writeBytes_parts (l : List Byte) : (s.writeBytes k l).parts = s.parts := by
  induction l generalizing s k with
  | nil => rfl
  | cons b l ih => rw [State.writeBytes, ih]; rfl
@[simp] theorem State.writeBytes_mgmt (l : List Byte) : (s.writeBytes k l).mgmt = s.mgmt := by
  induction l generalizing s k with
  | nil => rfl
  | cons b l ih => rw [State.writeBytes, ih]; rfl
@[simp] theorem State.writeBytes_apprcmd (l : List Byte) : (s.writeBytes k l).apprcmd = s.apprcmd := by
  induction l generalizing s k with
  | nil => rfl
  | cons b l ih => rw [State.writeBytes, ih]; rfl
@[simp] theorem State.writeBytes_evbase (l : List Byte) : (s.writeBytes k l).evbase = s.evbase := by
  induction l generalizing s k with
  | nil => rfl
  | cons b l ih => rw [State.writeBytes, ih]; rfl
@[simp] theorem State.writeBytes_attpend (l : List Byte) : (s.writeBytes k l).attpend = s.attpend := by
  induction l generalizing s k with
  | nil => rfl
  | cons b l ih => rw [State.writeBytes, ih]; rfl
@[simp] theorem State.writeBytes_attverd (l : List Byte) : (s.writeBytes k l).attverd = s.attverd := by
  induction l generalizing s k with
  | nil => rfl
  | cons b l ih => rw [State.writeBytes, ih]; rfl
@[simp] theorem State.writeBytes_repctl (l : List Byte) : (s.writeBytes k l).repctl = s.repctl := by
  induction l generalizing s k with
  | nil => rfl
  | cons b l ih => rw [State.writeBytes, ih]; rfl
@[simp] theorem State.writeBytes_repcmd (l : List Byte) : (s.writeBytes k l).repcmd = s.repcmd := by
  induction l generalizing s k with
  | nil => rfl
  | cons b l ih => rw [State.writeBytes, ih]; rfl
@[simp] theorem State.writeBytes_repLog (l : List Byte) : (s.writeBytes k l).repLog = s.repLog := by
  induction l generalizing s k with
  | nil => rfl
  | cons b l ih => rw [State.writeBytes, ih]; rfl
@[simp] theorem State.writeBytes_repair (l : List Byte) : (s.writeBytes k l).repair = s.repair := by
  induction l generalizing s k with
  | nil => rfl
  | cons b l ih => rw [State.writeBytes, ih]; rfl
@[simp] theorem State.writeBytes_repDue (l : List Byte) : (s.writeBytes k l).repDue = s.repDue := by
  induction l generalizing s k with
  | nil => rfl
  | cons b l ih => rw [State.writeBytes, ih]; rfl
@[simp] theorem State.writeBytes_podform (l : List Byte) : (s.writeBytes k l).podform = s.podform := by
  induction l generalizing s k with
  | nil => rfl
  | cons b l ih => rw [State.writeBytes, ih]; rfl
@[simp] theorem State.writeBytes_links (l : List Byte) : (s.writeBytes k l).links = s.links := by
  induction l generalizing s k with
  | nil => rfl
  | cons b l ih => rw [State.writeBytes, ih]; rfl
@[simp] theorem State.writeBytes_podrt (l : List Byte) : (s.writeBytes k l).podrt = s.podrt := by
  induction l generalizing s k with
  | nil => rfl
  | cons b l ih => rw [State.writeBytes, ih]; rfl
@[simp] theorem State.writeBytes_podspc (l : List Byte) : (s.writeBytes k l).podspc = s.podspc := by
  induction l generalizing s k with
  | nil => rfl
  | cons b l ih => rw [State.writeBytes, ih]; rfl
@[simp] theorem State.writeBytes_podgrp (l : List Byte) : (s.writeBytes k l).podgrp = s.podgrp := by
  induction l generalizing s k with
  | nil => rfl
  | cons b l ih => rw [State.writeBytes, ih]; rfl
@[simp] theorem State.writeBytes_podOut (l : List Byte) : (s.writeBytes k l).podOut = s.podOut := by
  induction l generalizing s k with
  | nil => rfl
  | cons b l ih => rw [State.writeBytes, ih]; rfl
@[simp] theorem State.writeBytes_podIn (l : List Byte) : (s.writeBytes k l).podIn = s.podIn := by
  induction l generalizing s k with
  | nil => rfl
  | cons b l ih => rw [State.writeBytes, ih]; rfl
@[simp] theorem State.writeBytes_posted (l : List Byte) : (s.writeBytes k l).posted = s.posted := by
  induction l generalizing s k with
  | nil => rfl
  | cons b l ih => rw [State.writeBytes, ih]; rfl
@[simp] theorem State.writeBytes_engPod (l : List Byte) : (s.writeBytes k l).engPod = s.engPod := by
  induction l generalizing s k with
  | nil => rfl
  | cons b l ih => rw [State.writeBytes, ih]; rfl
@[simp] theorem State.writeBytes_amoLeft (l : List Byte) : (s.writeBytes k l).amoLeft = s.amoLeft := by
  induction l generalizing s k with
  | nil => rfl
  | cons b l ih => rw [State.writeBytes, ih]; rfl
@[simp] theorem State.writeBytes_comps (l : List Byte) : (s.writeBytes k l).comps = s.comps := by
  induction l generalizing s k with
  | nil => rfl
  | cons b l ih => rw [State.writeBytes, ih]; rfl
@[simp] theorem State.writeBytes_migsrc (l : List Byte) : (s.writeBytes k l).migsrc = s.migsrc := by
  induction l generalizing s k with
  | nil => rfl
  | cons b l ih => rw [State.writeBytes, ih]; rfl
@[simp] theorem State.writeBytes_migdst (l : List Byte) : (s.writeBytes k l).migdst = s.migdst := by
  induction l generalizing s k with
  | nil => rfl
  | cons b l ih => rw [State.writeBytes, ih]; rfl
@[simp] theorem State.writeBytes_miglen (l : List Byte) : (s.writeBytes k l).miglen = s.miglen := by
  induction l generalizing s k with
  | nil => rfl
  | cons b l ih => rw [State.writeBytes, ih]; rfl
@[simp] theorem State.writeBytes_migctl (l : List Byte) : (s.writeBytes k l).migctl = s.migctl := by
  induction l generalizing s k with
  | nil => rfl
  | cons b l ih => rw [State.writeBytes, ih]; rfl
@[simp] theorem State.writeBytes_pcnt (l : List Byte) : (s.writeBytes k l).pcnt = s.pcnt := by
  induction l generalizing s k with
  | nil => rfl
  | cons b l ih => rw [State.writeBytes, ih]; rfl
@[simp] theorem State.writeBytes_migDue (l : List Byte) : (s.writeBytes k l).migDue = s.migDue := by
  induction l generalizing s k with
  | nil => rfl
  | cons b l ih => rw [State.writeBytes, ih]; rfl
@[simp] theorem State.writeBytes_pastRef (l : List Byte) : (s.writeBytes k l).pastRef = s.pastRef := by
  induction l generalizing s k with
  | nil => rfl
  | cons b l ih => rw [State.writeBytes, ih]; rfl
@[simp] theorem State.writeBytes_events (l : List Byte) : (s.writeBytes k l).events = s.events := by
  induction l generalizing s k with
  | nil => rfl
  | cons b l ih => rw [State.writeBytes, ih]; rfl
@[simp] theorem State.writeBytes_traceQ (l : List Byte) : (s.writeBytes k l).traceQ = s.traceQ := by
  induction l generalizing s k with
  | nil => rfl
  | cons b l ih => rw [State.writeBytes, ih]; rfl

end Sys2Proof.Machine
end

