-- ==== Sys2Proof/Laws/Memory.lean ====
section
/-! SUPPORT. What reading and writing a sparse map and memory do: reads after writes, and the canonical form kept. -/

-- One declaration is checked after the other, so that few threads are in use at a time.
set_option Elab.async false

namespace Sys2Proof.Machine

/-! ### Sparse maps -/

section
variable {α : Type} (d : α) (m : SMap α) (k j : Nat) (v : α)

theorem SMap.get_put_same : SMap.get d (SMap.put m k v) k = v := by
  induction m with
  | nil => simp [SMap.put, SMap.get]
  | cons e m ih =>
    obtain ⟨i, w⟩ := e
    simp only [SMap.put]
    split
    · simp [SMap.get]
    · split
      · simp [SMap.get]
      · rename_i hne; simp [SMap.get, hne, ih]

theorem SMap.get_put_other (h : j ≠ k) : SMap.get d (SMap.put m k v) j = SMap.get d m j := by
  induction m with
  | nil => simp [SMap.put, SMap.get, Ne.symm h]
  | cons e m ih =>
    obtain ⟨i, w⟩ := e
    simp only [SMap.put]
    split
    · simp [SMap.get, Ne.symm h]
    · split
      · rename_i hik; subst hik; simp [SMap.get, Ne.symm h]
      · simp [SMap.get, ih]

theorem SMap.get_erase_other (h : j ≠ k) : SMap.get d (SMap.erase m k) j = SMap.get d m j := by
  induction m with
  | nil => rfl
  | cons e m ih =>
    obtain ⟨i, w⟩ := e
    simp only [SMap.erase]
    split
    · rename_i hik; subst hik; simp [SMap.get, Ne.symm h, ih]
    · simp [SMap.get, ih]

theorem SMap.get_erase_same : SMap.get d (SMap.erase m k) k = d := by
  induction m with
  | nil => rfl
  | cons e m ih =>
    obtain ⟨i, w⟩ := e
    simp only [SMap.erase]
    split
    · exact ih
    · rename_i hik; simp [SMap.get, hik, ih]

/-- An entry of a map with a key put is the new one or an old one. -/
theorem SMap.of_mem_put {e : Nat × α} (h : e ∈ SMap.put m k v) : e = (k, v) ∨ e ∈ m := by
  induction m with
  | nil => simpa [SMap.put] using h
  | cons f m ih =>
    obtain ⟨i, w⟩ := f
    simp only [SMap.put] at h
    split at h
    · simpa using h
    · split at h
      · rcases List.mem_cons.1 h with h | h
        · exact .inl h
        · exact .inr (by simp [h])
      · rcases List.mem_cons.1 h with h | h
        · exact .inr (by simp [h])
        · rcases ih h with h | h
          · exact .inl h
          · exact .inr (by simp [h])

theorem SMap.erase_sublist : (SMap.erase m k).Sublist m := by
  induction m with
  | nil => exact List.Sublist.refl _
  | cons e m ih =>
    obtain ⟨i, w⟩ := e
    simp only [SMap.erase]
    split
    · exact ih.cons _
    · exact ih.cons_cons _

theorem SMap.put_rising (h : m.Pairwise fun a b => a.1 < b.1) :
    (SMap.put m k v).Pairwise fun a b => a.1 < b.1 := by
  induction m with
  | nil => simp [SMap.put]
  | cons e m ih =>
    obtain ⟨i, w⟩ := e
    have hc := List.pairwise_cons.1 h
    simp only [SMap.put]
    split
    · rename_i hk
      refine List.pairwise_cons.2 ⟨fun e he => ?_, h⟩
      rcases List.mem_cons.1 he with he | he
      · subst he; exact hk
      · exact Nat.lt_trans hk (hc.1 e he)
    · split
      · rename_i hik; subst hik
        exact List.pairwise_cons.2 ⟨hc.1, hc.2⟩
      · refine List.pairwise_cons.2 ⟨fun e he => ?_, ih hc.2⟩
        rcases SMap.of_mem_put m k v he with he | he
        · subst he; simp only; omega
        · exact hc.1 e he

theorem SMap.erase_rising (h : m.Pairwise fun a b => a.1 < b.1) :
    (SMap.erase m k).Pairwise fun a b => a.1 < b.1 :=
  h.sublist (SMap.erase_sublist m k)

variable [DecidableEq α]

theorem SMap.get_set_same : SMap.get d (SMap.set d m k v) k = v := by
  unfold SMap.set
  split
  · rename_i hv; rw [hv, SMap.get_erase_same d m k]
  · exact SMap.get_put_same d m k v

theorem SMap.get_set_other (h : j ≠ k) : SMap.get d (SMap.set d m k v) j = SMap.get d m j := by
  unfold SMap.set
  split
  · exact SMap.get_erase_other d m k j h
  · exact SMap.get_put_other d m k j v h

theorem SMap.set_rising (h : m.Pairwise fun a b => a.1 < b.1) :
    (SMap.set d m k v).Pairwise fun a b => a.1 < b.1 := by
  unfold SMap.set
  split
  · exact SMap.erase_rising m k h
  · exact SMap.put_rising m k v h

end

/-! ### The canonical form of memory -/

theorem Memory.wf_nil : Memory.wf [] := by simp [Memory.wf]

theorem Memory.wf_set {m : List Host.Cell} (h : Memory.wf m) (k : Nat) (b : Byte) :
    Memory.wf (SMap.set unlisted m k b) := by
  refine ⟨SMap.set_rising unlisted m k b h.1, fun c hc => ?_⟩
  unfold SMap.set at hc
  split at hc
  · exact h.2 c ((SMap.erase_sublist m k).subset hc)
  · rename_i hb
    rcases SMap.of_mem_put m k b hc with hc | hc
    · subst hc; exact hb
    · exact h.2 c hc

/-- What a filter leaves of a memory in canonical form is in canonical form. -/
theorem Memory.wf_filter {m : List Host.Cell} (h : Memory.wf m) (p : Host.Cell → Bool) : Memory.wf (m.filter p) :=
  ⟨h.1.sublist List.filter_sublist, fun c hc => h.2 c (List.mem_of_mem_filter hc)⟩

variable (s : State)

theorem State.writeByte_wf (h : Memory.wf s.mem) (loc : Nat) (b : Byte) : Memory.wf (s.writeByte loc b).mem :=
  Memory.wf_set h loc b

theorem State.writeBytes_wf (l : List Byte) : ∀ (s : State) (loc : Nat), Memory.wf s.mem →
    Memory.wf (s.writeBytes loc l).mem := by
  induction l with
  | nil => intro s loc h; exact h
  | cons b l ih => intro s loc h; exact ih _ _ (s.writeByte_wf h loc b)

@[simp] theorem State.addPoison_mem (loc n : Nat) : (s.addPoison loc n).mem = s.mem := rfl

/-- A fold of updates that leave memory alone leaves memory alone. -/
theorem foldl_mem {β : Type} (f : State → β → State) (h : ∀ s x, (f s x).mem = s.mem) (l : List β) :
    ∀ s : State, (l.foldl f s).mem = s.mem := by
  induction l with
  | nil => intro s; rfl
  | cons x l ih => intro s; exact (ih _).trans (h s x)

@[simp] theorem State.clearPoison_mem (loc n : Nat) : (s.clearPoison loc n).mem = s.mem := by
  unfold State.clearPoison
  dsimp only
  split
  · rfl
  · refine (foldl_mem _ (fun s x => ?_) _ _).trans rfl
    split <;> rfl

theorem State.store_wf (h : Memory.wf s.mem) (loc : Nat) (data : List Byte) : Memory.wf (s.store loc data).mem := by
  simpa [State.store] using State.writeBytes_wf data s loc h

theorem State.storeMasked_wf (loc mask : Nat) (l : List Byte) : ∀ (s : State) (i : Nat), Memory.wf s.mem →
    Memory.wf (s.storeMasked loc mask i l).mem := by
  induction l with
  | nil => intro s i h; exact h
  | cons b l ih =>
    intro s i h
    refine ih _ _ ?_
    split
    · exact s.writeByte_wf h _ b
    · exact h

theorem State.performBlot_wf (h : Memory.wf s.mem) (b : Blot) : Memory.wf (s.performBlot b).mem := by
  unfold State.performBlot
  dsimp only
  split
  · simpa using State.storeMasked_wf b.loc b.mask.toNat (vecBytes b.data) s 0 h
  · exact State.storeMasked_wf b.loc b.mask.toNat (vecBytes b.data) s 0 h

theorem State.reset_mem_wf : Memory.wf State.reset.mem := Memory.wf_nil

/-! ### Reads after writes -/

theorem State.readByte_writeByte_same (loc : Nat) (b : Byte) : (s.writeByte loc b).readByte loc = b :=
  SMap.get_set_same unlisted s.mem loc b

theorem State.readByte_writeByte_other (loc a : Nat) (b : Byte) (h : a ≠ loc) :
    (s.writeByte loc b).readByte a = s.readByte a :=
  SMap.get_set_other unlisted s.mem loc a b h

/-- A write of bytes leaves every byte outside them alone. -/
theorem State.readByte_writeBytes_outside (l : List Byte) : ∀ (s : State) (loc a : Nat),
    (a < loc ∨ loc + l.length ≤ a) → (s.writeBytes loc l).readByte a = s.readByte a := by
  induction l with
  | nil => intro s loc a _; rfl
  | cons b l ih =>
    intro s loc a h
    simp only [List.length_cons] at h
    rw [State.writeBytes, ih _ _ _ (by omega), State.readByte_writeByte_other _ _ _ _ (by omega)]

/-- Bytes written read back. -/
theorem State.readBytes_writeBytes (l : List Byte) : ∀ (s : State) (loc : Nat),
    (s.writeBytes loc l).readBytes loc l.length = l := by
  induction l with
  | nil => intro s loc; rfl
  | cons b l ih =>
    intro s loc
    simp only [State.writeBytes, List.length_cons, State.readBytes]
    rw [ih, State.readByte_writeBytes_outside _ _ _ _ (by omega), s.readByte_writeByte_same]

/-- R125: a store leaves every byte outside the stored ones alone. -/
theorem State.readByte_store_outside (loc a : Nat) (l : List Byte) (h : a < loc ∨ loc + l.length ≤ a) :
    (s.store loc l).readByte a = s.readByte a := by
  have hm : (s.store loc l).mem = (s.writeBytes loc l).mem := by simp [State.store]
  rw [State.readByte, hm]
  exact State.readByte_writeBytes_outside l s loc a h

end Sys2Proof.Machine
end

