-- ==== Sys2Proof/Laws/Ops.lean ====
section
/-! SUPPORT. What the shared operations of an issue do: reads of settled registers, results left in flight, splices and the commitment of
an iteration, and the frame of an operation that leaves one result on each die. -/

-- One declaration is checked after the other, so that few threads are in use at a time.
set_option Elab.async false

namespace Sys2Proof.Machine

/-! ### Tables of the state -/

@[simp] theorem State.getCc_setCc_same (s : State) (k : Nat) (x : ColCtx) : (s.setCc k x).getCc k = x :=
  SMap.get_set_same _ _ _ _

theorem State.getCc_setCc_other (s : State) (k j : Nat) (x : ColCtx) (h : j ≠ k) : (s.setCc k x).getCc j = s.getCc j :=
  SMap.get_set_other _ _ _ _ _ h

@[simp] theorem State.getCore_setCore_same (s : State) (k : Nat) (x : Core) : (s.setCore k x).getCore k = x :=
  SMap.get_set_same _ _ _ _

theorem State.getCore_setCore_other (s : State) (k j : Nat) (x : Core) (h : j ≠ k) : (s.setCore k x).getCore j = s.getCore j :=
  SMap.get_set_other _ _ _ _ _ h

@[simp] theorem State.getCd_setCd_same (s : State) (k : Nat) (x : CtxDie) : (s.setCd k x).getCd k = x := by
  unfold State.setCd State.getCd
  by_cases h : k < 1024 ∨ 2048 ≤ k
  · simp only [if_pos h]; exact SMap.get_set_same _ _ _ _
  · simp only [if_neg h, State.updCore, State.getCore_setCore_same]

theorem State.getCd_setCd_other (s : State) (k j : Nat) (x : CtxDie) (h : j ≠ k) : (s.setCd k x).getCd j = s.getCd j := by
  unfold State.setCd State.getCd
  by_cases hk : k < 1024 ∨ 2048 ≤ k
  · simp only [if_pos hk]
    split
    · exact SMap.get_set_other _ _ _ _ _ h
    · rfl
  · simp only [if_neg hk]
    split
    · rfl
    · rw [State.updCore, State.getCore_setCore_other]
      omega

@[simp] theorem State.getCd_updCd_same (s : State) (k : Nat) (f : CtxDie → CtxDie) : (s.updCd k f).getCd k = f (s.getCd k) := by
  simp [State.updCd]

theorem State.getCd_updCd_other (s : State) (k j : Nat) (f : CtxDie → CtxDie) (h : j ≠ k) : (s.updCd k f).getCd j = s.getCd j :=
  s.getCd_setCd_other k j _ h

@[simp] theorem State.getCc_updCc_same (s : State) (k : Nat) (f : ColCtx → ColCtx) : (s.updCc k f).getCc k = f (s.getCc k) := by
  simp [State.updCc]

theorem State.getCc_updCc_other (s : State) (k j : Nat) (f : ColCtx → ColCtx) (h : j ≠ k) : (s.updCc k f).getCc j = s.getCc j :=
  s.getCc_setCc_other k j _ h

@[simp] theorem State.getCd_updCc (s : State) (k j : Nat) (f : ColCtx → ColCtx) : (s.updCc k f).getCd j = s.getCd j := rfl

/-! ### Keys of contexts -/

theorem ccCk_lt {d cc : Nat} (hd : d < 8) (hc : cc < 128) : ccCk d cc < 1024 := by
  simp only [ccCk, if_pos hc, ctxKey, coreKey]; omega

theorem ccCk_inj {d e cc : Nat} (h : ccCk d cc = ccCk e cc) : d = e := by
  unfold ccCk ctxKey fwKey coreKey at h
  split at h
  · omega
  · split at h <;> omega

theorem cc0_lt {s : State} (hc : s.cur.col < 32) (hx : s.cur.ctx < 4) : s.cc0 < 128 := by
  simp only [State.cc0, ccKey, if_pos hx]; omega

theorem allDies_lt {d : Nat} (h : d ∈ allDies) : d < 8 := by
  simp only [allDies, List.mem_cons, List.not_mem_nil, or_false] at h; omega

theorem allDies_nodup : allDies.Nodup := by decide

theorem State.enabled_nodup (s : State) (h : Hdr) : (s.enabled h).Nodup := allDies_nodup.filter _

theorem State.enabled_lt {s : State} {h : Hdr} {d : Nat} (hd : d ∈ s.enabled h) : d < 8 :=
  allDies_lt (List.mem_filter.1 hd).1

theorem State.liveOf_lt {s : State} {cc d : Nat} (hd : d ∈ s.liveOf cc) : d < 8 := by
  unfold State.liveOf at hd
  split at hd
  · exact allDies_lt (List.mem_filter.1 hd).1
  · simp at hd

/-! ### A state with other contexts and column contexts -/

/-- The state `s` with the contexts, the column contexts and the requests of the issue under way of `c`, `x` and `a`. -/
def State.wear (s : State) (c : SMap CtxDie) (x : SMap ColCtx) (a : Att) : State := { s with cd := c, cc := x, att := a }

theorem foldl_wear {β : Type} (f : State → β → State) (c : SMap CtxDie) (x : SMap ColCtx) (a : Att)
    (h : ∀ s b, f (s.wear c x a) b = (f s b).wear c x a) (l : List β) :
    ∀ s : State, l.foldl f (s.wear c x a) = (l.foldl f s).wear c x a := by
  induction l with
  | nil => intro s; rfl
  | cons b l ih => intro s; simp only [List.foldl_cons, h, ih]

theorem State.storeMasked_wear (c : SMap CtxDie) (x : SMap ColCtx) (a : Att) (loc mask : Nat) (l : List Byte) : ∀ (s : State) (i : Nat),
    (s.wear c x a).storeMasked loc mask i l = (s.storeMasked loc mask i l).wear c x a := by
  induction l with
  | nil => intro s i; rfl
  | cons b l ih =>
    intro s i
    simp only [State.storeMasked]
    split
    · exact ih (s.writeByte (loc + i) b) (i + 1)
    · exact ih s (i + 1)

theorem State.clearPoison_wear (s : State) (c : SMap CtxDie) (x : SMap ColCtx) (a : Att) (loc n : Nat) :
    (s.wear c x a).clearPoison loc n = (s.clearPoison loc n).wear c x a := by
  unfold State.clearPoison
  dsimp only
  by_cases h : s.lost.isEmpty
  · rw [if_pos h, if_pos (show (s.wear c x a).lost.isEmpty from h)]; rfl
  · rw [if_neg h, if_neg (show ¬(s.wear c x a).lost.isEmpty from h)]
    refine foldl_wear _ c x a (fun s b => ?_) _ { s with poison := _ }
    have : (s.wear c x a).lostLine b = s.lostLine b := rfl
    rw [this]
    split <;> rfl

theorem State.performBlot_wear (s : State) (c : SMap CtxDie) (x : SMap ColCtx) (a : Att) (b : Blot) :
    (s.wear c x a).performBlot b = (s.performBlot b).wear c x a := by
  unfold State.performBlot
  dsimp only
  rw [State.storeMasked_wear]
  split
  · exact State.clearPoison_wear ..
  · rfl

theorem State.performBlot_worn (s : State) (b : Blot) :
    s.performBlot b = (s.performBlot b).wear s.cd s.cc s.att := s.performBlot_wear s.cd s.cc s.att b

@[simp] theorem State.performBlot_cd (s : State) (b : Blot) : (s.performBlot b).cd = s.cd := (congrArg State.cd (s.performBlot_worn b) :)
@[simp] theorem State.performBlot_cc (s : State) (b : Blot) : (s.performBlot b).cc = s.cc := (congrArg State.cc (s.performBlot_worn b) :)
@[simp] theorem State.performBlot_att (s : State) (b : Blot) : (s.performBlot b).att = s.att := (congrArg State.att (s.performBlot_worn b) :)

/-! ### What a store leaves alone -/

/-- A fold of updates that keep a part of the state keeps it. -/
theorem foldl_keeps {β γ : Type} (g : State → γ) (f : State → β → State) (h : ∀ s x, g (f s x) = g s) (l : List β) :
    ∀ s : State, g (l.foldl f s) = g s := by
  induction l with
  | nil => intro s; rfl
  | cons x l ih => intro s; exact (ih _).trans (h s x)

/-- The part of the state that no store touches. -/
def State.unstored (s : State) : State := { s with mem := [], poison := [], lost := [] }

theorem State.storeMasked_unstored (loc mask : Nat) (l : List Byte) : ∀ (s : State) (i : Nat),
    (s.storeMasked loc mask i l).unstored = s.unstored := by
  induction l with
  | nil => intro s i; rfl
  | cons b l ih =>
    intro s i
    simp only [State.storeMasked]
    rw [ih]
    split <;> rfl

theorem State.clearPoison_unstored (s : State) (loc n : Nat) : (s.clearPoison loc n).unstored = s.unstored := by
  unfold State.clearPoison
  dsimp only
  split
  · rfl
  · refine (foldl_keeps State.unstored _ (fun s x => ?_) _ _).trans rfl
    split <;> rfl

theorem State.performBlot_unstored (s : State) (b : Blot) : (s.performBlot b).unstored = s.unstored := by
  unfold State.performBlot
  dsimp only
  split
  · rw [State.clearPoison_unstored, State.storeMasked_unstored]
  · exact State.storeMasked_unstored ..

theorem foldl_performBlot_unstored (s : State) (l : List Blot) : (l.foldl State.performBlot s).unstored = s.unstored :=
  foldl_keeps State.unstored _ State.performBlot_unstored l s

theorem foldl_performBlot_wear (s : State) (c : SMap CtxDie) (x : SMap ColCtx) (a : Att) (l : List Blot) :
    l.foldl State.performBlot (s.wear c x a) = (l.foldl State.performBlot s).wear c x a :=
  foldl_wear _ c x a (fun s b => s.performBlot_wear c x a b) l s

/-- States alike but for storage hold the same contexts. -/
theorem getCd_of_unstored {s t : State} (h : s.unstored = t.unstored) (k : Nat) : s.getCd k = t.getCd k := by
  have hc : s.cd = t.cd := (congrArg State.cd h :)
  have hk : s.core = t.core := (congrArg State.core h :)
  simp only [State.getCd, State.getCore, hc, hk]

theorem getCc_of_unstored {s t : State} (h : s.unstored = t.unstored) (k : Nat) : s.getCc k = t.getCc k := by
  have hc : s.cc = t.cc := (congrArg State.cc h :)
  simp only [State.getCc, hc]

/-! ### The relation of a state to the state before an operation that only leaves results in flight -/

/-- `t` is `u` but for the results in flight and the latches of the contexts `ck d` of the dies `ds`, and the issue record of the column
context `cc`. -/
structure Rel (t u : State) (ck : Nat → Nat) (cc : Nat) (ds : List Nat) : Prop where
  rest : t.wear u.cd u.cc u.att = u
  other : ∀ k, (∀ d ∈ ds, k ≠ ck d) → t.getCd k = u.getCd k
  kept : ∀ d ∈ ds, Claims.KeptCd (t.getCd (ck d)) (u.getCd (ck d))
  otherCc : ∀ k, k ≠ cc → t.getCc k = u.getCc k
  keptCc : Claims.KeptCc (t.getCc cc) (u.getCc cc)

theorem keptCd_refl (x : CtxDie) : Claims.KeptCd x x := rfl

theorem Rel.refl (u : State) (ck : Nat → Nat) (cc : Nat) (ds : List Nat) : Rel u u ck cc ds :=
  ⟨rfl, fun _ _ => rfl, fun _ _ => rfl, fun _ _ => rfl, rfl⟩

theorem Rel.core {t u : State} {ck cc ds} (h : Rel t u ck cc ds) : t.core = u.core := (congrArg State.core h.rest :)

/-- Every context of related states is kept. -/
theorem Rel.keptAt {t u : State} {ck cc ds} (h : Rel t u ck cc ds) (k : Nat) : Claims.KeptCd (t.getCd k) (u.getCd k) := by
  by_cases hk : ∃ d ∈ ds, k = ck d
  · obtain ⟨d, hd, rfl⟩ := hk; exact h.kept d hd
  · rw [h.other k fun d hd e => hk ⟨d, hd, e⟩]; rfl

theorem Rel.blot {t u : State} {ck cc ds} (h : Rel t u ck cc ds) (k : Nat) : (t.getCd k).blot = (u.getCd k).blot := by
  have := (congrArg CtxDie.blot (h.keptAt k) :); exact this

theorem Rel.keptCcAt {t u : State} {ck cc ds} (h : Rel t u ck cc ds) (k : Nat) : Claims.KeptCc (t.getCc k) (u.getCc k) := by
  by_cases hk : k = cc
  · rw [hk]; exact h.keptCc
  · rw [h.otherCc k hk]; rfl

/-- The same update of both states. -/
theorem Rel.updCd {t u : State} {ck cc ds} (h : Rel t u ck cc ds) (k : Nat) (hk : k < 1024) (F : CtxDie → CtxDie)
    (hF : ∀ x y, Claims.KeptCd x y → Claims.KeptCd (F x) (F y)) : Rel (t.updCd k F) (u.updCd k F) ck cc ds := by
  have e1 : ∀ s : State, s.updCd k F = { s with cd := (s.updCd k F).cd } := fun s => by
    simp only [State.updCd, State.setCd, if_pos (Or.inl hk : k < 1024 ∨ 2048 ≤ k)]
  refine ⟨?_, fun j hj => ?_, fun d hd => ?_, fun j hj => ?_, ?_⟩
  · have h2 : (t.updCd k F).wear (u.updCd k F).cd u.cc u.att = { t.wear u.cd u.cc u.att with cd := (u.updCd k F).cd } := by
      rw [e1 t]; rfl
    have h3 : (u.updCd k F).cc = u.cc ∧ (u.updCd k F).att = u.att := by rw [e1 u]; exact ⟨rfl, rfl⟩
    rw [h3.1, h3.2, h2, h.rest, ← e1 u]
  · by_cases e : j = k
    · subst e; simp only [State.getCd_updCd_same]
      rw [h.other j hj]
    · rw [State.getCd_updCd_other _ _ _ _ e, State.getCd_updCd_other _ _ _ _ e]; exact h.other j hj
  · by_cases e : ck d = k
    · rw [e]; simp only [State.getCd_updCd_same]
      exact hF _ _ (h.keptAt k)
    · rw [State.getCd_updCd_other _ _ _ _ e, State.getCd_updCd_other _ _ _ _ e]; exact h.kept d hd
  · have : ∀ s : State, (s.updCd k F).getCc j = s.getCc j := fun s => by rw [e1 s]; rfl
    rw [this, this]; exact h.otherCc j hj
  · have : ∀ s : State, (s.updCd k F).getCc cc = s.getCc cc := fun s => by rw [e1 s]; rfl
    rw [this, this]; exact h.keptCc

theorem Rel.updCc {t u : State} {ck cc ds} (h : Rel t u ck cc ds) (F : ColCtx → ColCtx)
    (hF : ∀ x y, Claims.KeptCc x y → Claims.KeptCc (F x) (F y)) : Rel (t.updCc cc F) (u.updCc cc F) ck cc ds := by
  refine ⟨?_, h.other, h.kept, fun j hj => ?_, ?_⟩
  · have e : (t.updCc cc F).wear u.cd (u.updCc cc F).cc u.att = { t.wear u.cd u.cc u.att with cc := (u.updCc cc F).cc } := rfl
    rw [h.rest] at e; exact e
  · rw [State.getCc_updCc_other _ _ _ _ hj, State.getCc_updCc_other _ _ _ _ hj]; exact h.otherCc j hj
  · simp only [State.getCc_updCc_same]; exact hF _ _ h.keptCc

/-- An update of the issue record of the column context alone. -/
theorem Rel.updCc_left {t u : State} {ck cc ds} (h : Rel t u ck cc ds) (F : ColCtx → ColCtx)
    (hF : ∀ x y, Claims.KeptCc x y → Claims.KeptCc (F x) y) : Rel (t.updCc cc F) u ck cc ds := by
  refine ⟨?_, h.other, h.kept, fun j hj => ?_, ?_⟩
  · show t.wear u.cd u.cc u.att = u
    exact h.rest
  · rw [State.getCc_updCc_other _ _ _ _ hj]; exact h.otherCc j hj
  · simp only [State.getCc_updCc_same]; exact hF _ _ h.keptCc

theorem Rel.att_left {t u : State} {ck cc ds} (h : Rel t u ck cc ds) (a : Att) : Rel { t with att := a } u ck cc ds :=
  ⟨h.rest, h.other, h.kept, h.otherCc, h.keptCc⟩

/-- The same update of a core of both states, which keeps its firmware context. -/
theorem Rel.updCore {t u : State} {ck cc ds} (h : Rel t u ck cc ds) (k : Nat) (F : Core → Core) (hF : ∀ c, (F c).fw = c.fw) :
    Rel (t.updCore k F) (u.updCore k F) ck cc ds := by
  have hk : t.getCore k = u.getCore k := by simp only [State.getCore, h.core]
  have hcd : ∀ (s : State) (j : Nat), (s.updCore k F).getCd j = s.getCd j := fun s j => by
    unfold State.getCd
    split
    · rfl
    · by_cases e : j - 1024 = k
      · rw [e, State.updCore, State.getCore_setCore_same, hF]
      · rw [State.updCore, State.getCore_setCore_other _ _ _ _ e]
  refine ⟨?_, fun j hj => ?_, fun d hd => ?_, h.otherCc, h.keptCc⟩
  · show { t.wear u.cd u.cc u.att with core := SMap.set {} t.core k (F (t.getCore k)) } = u.updCore k F
    rw [h.rest, hk, h.core]; rfl
  · rw [hcd, hcd]; exact h.other j hj
  · rw [hcd, hcd]; exact h.kept d hd

theorem Rel.performBlots {t u : State} {ck cc ds} (h : Rel t u ck cc ds) (l : List Blot) :
    Rel (l.foldl State.performBlot t) (l.foldl State.performBlot u) ck cc ds := by
  have hu := foldl_performBlot_unstored u l
  have ht := foldl_performBlot_unstored t l
  refine ⟨?_, fun j hj => ?_, fun d hd => ?_, fun j hj => ?_, ?_⟩
  · have h1 : (l.foldl State.performBlot u).cd = u.cd := (congrArg State.cd hu :)
    have h2 : (l.foldl State.performBlot u).cc = u.cc := (congrArg State.cc hu :)
    have h3 : (l.foldl State.performBlot u).att = u.att := (congrArg State.att hu :)
    rw [h1, h2, h3, ← foldl_performBlot_wear, h.rest]
  · rw [getCd_of_unstored ht, getCd_of_unstored hu]; exact h.other j hj
  · rw [getCd_of_unstored ht, getCd_of_unstored hu]; exact h.kept d hd
  · rw [getCc_of_unstored ht, getCc_of_unstored hu]; exact h.otherCc j hj
  · rw [getCc_of_unstored ht, getCc_of_unstored hu]; exact h.keptCc

theorem Rel.releaseBlot {t u : State} {ck cc ds} (h : Rel t u ck cc ds) (k : Nat) (hk : k < 1024) :
    Rel (t.releaseBlot k) (u.releaseBlot k) ck cc ds := by
  unfold State.releaseBlot
  rw [h.blot k]
  exact (h.performBlots _).updCd k hk _ fun x y e => by
    unfold Claims.KeptCd at e ⊢; rw [e]

theorem Rel.spliceDie {t u : State} {ck cc ds} (h : Rel t u ck cc ds) (inh : Bool) (k : Nat) (hk : k < 1024) :
    Rel (t.spliceDie inh k) (u.spliceDie inh k) ck cc ds := by
  unfold State.spliceDie
  dsimp only
  split
  · exact h.releaseBlot k hk
  · refine Rel.updCore ?_ _ _ fun c => rfl
    have hr := h.releaseBlot k hk
    have he : (t.releaseBlot k).evQueued k = (u.releaseBlot k).evQueued k := by
      simp only [State.evQueued, State.getCore, hr.core]
    rw [he]
    exact hr.updCd k hk _ fun x y e => by
      unfold Claims.KeptCd at e ⊢; rw [e]

theorem Rel.ctxLaunch {t u : State} {ck cc ds} (h : Rel t u ck cc ds) (k : Nat) : t.ctxLaunch k = u.ctxLaunch k := by
  have hl : t.launches = u.launches := (congrArg State.launches h.rest :)
  have hk : (t.getCc k).launch = (u.getCc k).launch := (congrArg ColCtx.launch (h.keptCcAt k) :)
  simp only [State.ctxLaunch, State.launch?, hl, hk]

theorem Rel.dieLive {t u : State} {ck cc ds} (h : Rel t u ck cc ds) (d : Nat) : t.dieLive d = u.dieLive d := by
  have hs : t.sockets = u.sockets := (congrArg State.sockets h.rest :)
  simp only [State.dieLive, State.getSocket, hs]

theorem Rel.liveOf {t u : State} {ck cc ds} (h : Rel t u ck cc ds) (k : Nat) : t.liveOf k = u.liveOf k := by
  simp only [State.liveOf, h.ctxLaunch, h.dieLive]

theorem Rel.blotCount {t u : State} {ck cc ds} (h : Rel t u ck cc ds) (k : Nat) : t.blotCount k = u.blotCount k := by
  simp only [State.blotCount, h.liveOf, h.blot]

/-- R219: related states spliced are related. -/
theorem Rel.splice {t u : State} {ck : Nat → Nat} {cc ds} (h : Rel t u ck cc ds) (hc : cc < 128) :
    Rel (t.splice cc) (u.splice cc) ck cc ds := by
  have hi : (t.getCc cc).inh = (u.getCc cc).inh := (congrArg ColCtx.inh h.keptCc :)
  have hf : ∀ (l : List Nat) (b : Bool) (t u : State), (∀ d ∈ l, d < 8) → Rel t u ck cc ds →
      Rel (l.foldl (fun s d => s.spliceDie b (ccCk d cc)) t) (l.foldl (fun s d => s.spliceDie b (ccCk d cc)) u) ck cc ds := by
    intro l b
    induction l with
    | nil => intro t u _ h; exact h
    | cons d l ih =>
      intro t u hl h
      exact ih _ _ (fun e he => hl e (by simp [he])) (h.spliceDie b _ (ccCk_lt (hl d (by simp)) hc))
  have hr := hf (u.liveOf cc) (u.getCc cc).inh t u (fun d hd => State.liveOf_lt hd) h
  unfold State.splice
  dsimp only
  rw [h.liveOf, hi]
  split
  · exact hr
  · refine hr.updCc _ fun x y e => ?_
    unfold Claims.KeptCc at e ⊢; rw [e]

/-! ### What a splice does to the contexts -/

theorem State.getCd_releaseBlot_same (s : State) (k : Nat) : (s.releaseBlot k).getCd k = { s.getCd k with blot := [] } := by
  unfold State.releaseBlot
  rw [State.getCd_updCd_same, getCd_of_unstored (foldl_performBlot_unstored s _)]

theorem State.getCd_releaseBlot_other (s : State) (k j : Nat) (h : j ≠ k) : (s.releaseBlot k).getCd j = s.getCd j := by
  unfold State.releaseBlot
  rw [State.getCd_updCd_other _ _ _ _ h, getCd_of_unstored (foldl_performBlot_unstored s _)]

theorem State.getCd_updCore (s : State) (k j : Nat) (F : Core → Core) (hF : ∀ c, (F c).fw = c.fw) :
    (s.updCore k F).getCd j = s.getCd j := by
  unfold State.getCd
  split
  · rfl
  · by_cases e : j - 1024 = k
    · rw [e, State.updCore, State.getCore_setCore_same, hF]
    · rw [State.updCore, State.getCore_setCore_other _ _ _ _ e]

theorem State.getCd_spliceDie_other (s : State) (b : Bool) (k j : Nat) (h : j ≠ k) : (s.spliceDie b k).getCd j = s.getCd j := by
  unfold State.spliceDie
  dsimp only
  split
  · exact s.getCd_releaseBlot_other k j h
  · rw [State.getCd_updCore]
    · rw [State.getCd_updCd_other _ _ _ _ h, s.getCd_releaseBlot_other k j h]
    · intro c; rfl

/-- R219: a splice copies the working set, empties the blotter, and marks what is in flight; in a handler it only empties the blotter. -/
theorem State.getCd_spliceDie_same (s : State) (b : Bool) (k : Nat) : (s.spliceDie b k).getCd k =
    if b then { s.getCd k with blot := [] }
    else { s.getCd k with
      blot := [], dup := (s.getCd k).ws, dupEv := (s.releaseBlot k).evQueued k,
      pend := (s.getCd k).pend.map fun p => { p with pre := true } } := by
  unfold State.spliceDie
  dsimp only
  split
  · exact s.getCd_releaseBlot_same k
  · rw [State.getCd_updCore]
    · rw [State.getCd_updCd_same, s.getCd_releaseBlot_same k]
    · intro c; rfl

/-- The results in flight of a context on a die after a splice. -/
def markPre (inh : Bool) (l : List Pend) : List Pend := if inh then l else l.map fun p => { p with pre := true }

theorem State.pend_spliceDie (s : State) (b : Bool) (k : Nat) : ((s.spliceDie b k).getCd k).pend = markPre b (s.getCd k).pend := by
  rw [State.getCd_spliceDie_same]
  unfold markPre
  split <;> rfl

theorem State.pend_foldl_spliceDie (b : Bool) (cc d : Nat) (l : List Nat) : ∀ s : State, l.Nodup →
    ((l.foldl (fun s d => s.spliceDie b (ccCk d cc)) s).getCd (ccCk d cc)).pend =
      if d ∈ l then markPre b (s.getCd (ccCk d cc)).pend else (s.getCd (ccCk d cc)).pend := by
  induction l with
  | nil => intro s _; simp
  | cons e l ih =>
    intro s hl
    rw [List.foldl_cons, ih _ (List.nodup_cons.1 hl).2]
    by_cases he : d = e
    · subst he
      rw [if_neg (List.nodup_cons.1 hl).1, State.pend_spliceDie]
      simp
    · rw [State.getCd_spliceDie_other _ _ _ _ fun h => he (ccCk_inj h)]
      simp [he]

theorem State.liveOf_nodup (s : State) (cc : Nat) : (s.liveOf cc).Nodup := by
  unfold State.liveOf
  split
  · exact allDies_nodup.filter _
  · exact List.nodup_nil

theorem State.pend_splice (s : State) (cc d : Nat) (h : d ∈ s.liveOf cc) :
    ((s.splice cc).getCd (ccCk d cc)).pend = markPre (s.getCc cc).inh (s.getCd (ccCk d cc)).pend := by
  unfold State.splice
  dsimp only
  split
  · rw [State.pend_foldl_spliceDie _ _ _ _ _ (s.liveOf_nodup cc), if_pos h]
  · rw [State.getCd_updCc, State.pend_foldl_spliceDie _ _ _ _ _ (s.liveOf_nodup cc), if_pos h]

/-- R63, R87: a die on which an operation of a hardware context is enabled is launch-live. -/
theorem State.enabled_live {s : State} {h : Hdr} {d : Nat} (hx : s.cur.ctx < 4) (hd : d ∈ s.enabled h) : d ∈ s.liveOf s.cc0 := by
  obtain ⟨h1, h2⟩ := List.mem_filter.1 hd
  have h3 : s.onDie d = true := by
    cases hb : s.onDie d
    · simp [hb] at h2
    · rfl
  unfold State.onDie at h3
  have h4 : (s.cur.ctx == 4) = false := by simp; omega
  rw [h4] at h3
  unfold State.liveOf
  cases hl : s.ctxLaunch s.cc0 with
  | none => rw [hl] at h3; simp at h3
  | some l =>
    rw [hl] at h3
    simp only [Bool.false_or, Bool.and_eq_true] at h3
    refine List.mem_filter.2 ⟨h1, ?_⟩
    simp only [Bool.and_eq_true]
    exact ⟨h3.2, h3.1⟩

/-! ### The commitment of an iteration whose operations ask for no more than a splice -/

/-- The record of an issue. -/
def issueRec (clk : Nat) (c : ColCtx) : ColCtx := { c with lastIss := clk + 1, why := none, portDone := false }

theorem issueRec_kept (clk : Nat) {x y : ColCtx} (e : Claims.KeptCc x y) : Claims.KeptCc (issueRec clk x) y := by
  unfold Claims.KeptCc issueRec at *; rw [e]

theorem State.raise_nil (s : State) (cc : Nat) : s.raise cc [] = s := rfl

/-- R53, R218: such an iteration commits by recording the issue and, where asked, a splice. -/
theorem State.commitAs_plain (n : State) (b : Bool) (hc : n.cc0 < 128) (hst : (n.getCc n.cc0).st = .active) :
    ∃ H : ColCtx → ColCtx, (∀ x y, Claims.KeptCc x y → Claims.KeptCc (H x) y) ∧
      n.commitAs { splice := b } = if b then ((n.updCc n.cc0 (issueRec n.clock)).splice n.cc0).updCc n.cc0 H
        else n.updCc n.cc0 (issueRec n.clock) := by
  have hn : ¬ n.cc0 ≥ 128 := by omega
  have hm : n.commitCol { splice := b } n.cc0 = n.updCc n.cc0 (issueRec n.clock) := rfl
  have hu : n.usePorts ({ splice := b } : Att).vm = n := rfl
  have hactive : (((n.updCc n.cc0 (issueRec n.clock)).getCc n.cc0).st != .active) = false := by
    rw [State.getCc_updCc_same]
    show ((n.getCc n.cc0).st != .active) = false
    rw [hst]; rfl
  unfold State.commitAs
  simp only [hu, if_neg hn, hm, Bool.false_and, Bool.false_eq_true, if_false, Option.isSome_none, Bool.or_false, hactive,
    State.raise_nil, gt_iff_lt, Nat.lt_irrefl, State.commitSplice]
  cases b with
  | false => exact ⟨id, fun _ _ e => e, rfl⟩
  | true =>
    refine ⟨_, fun x y e => ?_, rfl⟩
    unfold Claims.KeptCc at *; rw [e]

theorem State.commitAs_rel (n : State) (b : Bool) (hc : n.cc0 < 128) (hst : (n.getCc n.cc0).st = .active) {u : State} {ck : Nat → Nat}
    {ds : List Nat} (h : Rel n u ck n.cc0 ds) : Rel (n.commitAs { splice := b }) (if b then u.splice n.cc0 else u) ck n.cc0 ds := by
  obtain ⟨H, hH, e⟩ := n.commitAs_plain b hc hst
  have hm := h.updCc_left (issueRec n.clock) fun x y => issueRec_kept n.clock
  rw [e]
  cases b with
  | false => exact hm
  | true => exact (hm.splice hc).updCc_left _ hH

theorem State.commitAs_pend (n : State) (b : Bool) (hc : n.cc0 < 128) (hst : (n.getCc n.cc0).st = .active) (d : Nat)
    (hd : d ∈ n.liveOf n.cc0) : ((n.commitAs { splice := b }).getCd (ccCk d n.cc0)).pend =
      if b then markPre (n.getCc n.cc0).inh (n.getCd (ccCk d n.cc0)).pend else (n.getCd (ccCk d n.cc0)).pend := by
  obtain ⟨H, _, e⟩ := n.commitAs_plain b hc hst
  have hm : Rel (n.updCc n.cc0 (issueRec n.clock)) n (fun _ => 0) n.cc0 [] :=
    (Rel.refl n _ _ _).updCc_left (issueRec n.clock) fun x y => issueRec_kept n.clock
  rw [e]
  cases b with
  | false => rfl
  | true =>
    simp only [if_true, State.getCd_updCc]
    rw [State.pend_splice _ _ _ (by rw [hm.liveOf]; exact hd), State.getCc_updCc_same]
    rfl

/-- An attempt whose operations ask for no more than a splice, and leave the blotter within its size, commits. -/
theorem State.finish_plain (s o : State) (b : Bool) (ha : o.att = { splice := b }) (hb : o.blotCount s.cc0 ≤ 128) :
    s.finish o = o.noAtt.commitAs { splice := b } := by
  have hv : ∀ s' : State, s'.cc0 = s.cc0 → s'.verdict o = .commit := by
    intro s' he
    unfold State.verdict
    rw [ha, he]
    have hp : portExtra [] = 0 := by decide
    simp [hp, Nat.not_lt.2 hb]
  unfold State.finish
  dsimp only
  rw [hv { s with att := {}, freeCtr := o.freeCtr } rfl]
  simp only [State.commit, ha]

/-! ### An operation on each die -/

/-- `o` is `s` but for the contexts. -/
def SameBut (o s : State) : Prop := { o with cd := s.cd } = s

theorem SameBut.clock {o s : State} (h : SameBut o s) : o.clock = s.clock := (congrArg State.clock h :)
theorem SameBut.cur {o s : State} (h : SameBut o s) : o.cur = s.cur := (congrArg State.cur h :)
theorem SameBut.att {o s : State} (h : SameBut o s) : o.att = s.att := (congrArg State.att h :)
theorem SameBut.cc {o s : State} (h : SameBut o s) : o.cc = s.cc := (congrArg State.cc h :)
theorem SameBut.core {o s : State} (h : SameBut o s) : o.core = s.core := (congrArg State.core h :)
theorem SameBut.cc0 {o s : State} (h : SameBut o s) : o.cc0 = s.cc0 := by simp only [State.cc0, h.cur]
theorem SameBut.ck0 {o s : State} (h : SameBut o s) (d : Nat) : o.ck0 d = s.ck0 d := by simp only [State.ck0, h.cc0]
theorem SameBut.coreD {o s : State} (h : SameBut o s) (d : Nat) : o.coreD d = s.coreD d := by
  simp only [State.coreD, State.getCore, h.core, h.cur]

theorem SameBut.updCd {o s : State} (h : SameBut o s) (k : Nat) (hk : k < 1024) (F : CtxDie → CtxDie) : SameBut (o.updCd k F) s := by
  unfold SameBut State.updCd State.setCd at *
  rw [if_pos (.inl hk)]; exact h

/-- `o'` is `o` with the cursor's context on die `d` replaced by `c`, and the same as `s` but for contexts. -/
structure Sets (s o o' : State) (d : Nat) (c : CtxDie) : Prop where
  same : SameBut o' s
  other : ∀ k, k ≠ s.ck0 d → o'.getCd k = o.getCd k
  cd : o'.getCd (s.ck0 d) = c

theorem SameBut.sets {o s : State} (h : SameBut o s) {d : Nat} (hd : d < 8) (hc : s.cc0 < 128) (F : CtxDie → CtxDie) :
    Sets s o (o.updCd (s.ck0 d) F) d (F (o.getCd (s.ck0 d))) :=
  ⟨h.updCd _ (ccCk_lt hd hc) F, fun _ hk => o.getCd_updCd_other _ _ _ hk, o.getCd_updCd_same _ _⟩

/-- A fold over dies of a body that updates only the die's own context. -/
theorem foldl_dies (s : State) (f : Nat → State → State) (G : Nat → CtxDie → CtxDie) (l : List Nat) :
    ∀ o : State, l.Nodup → SameBut o s → (∀ d ∈ l, o.getCd (s.ck0 d) = s.getCd (s.ck0 d)) →
    (∀ d ∈ l, ∀ o, SameBut o s → o.getCd (s.ck0 d) = s.getCd (s.ck0 d) → Sets s o (f d o) d (G d (s.getCd (s.ck0 d)))) →
    SameBut (l.foldl (fun o d => f d o) o) s ∧
      (∀ k, (∀ d ∈ l, k ≠ s.ck0 d) → (l.foldl (fun o d => f d o) o).getCd k = o.getCd k) ∧
      ∀ d ∈ l, (l.foldl (fun o d => f d o) o).getCd (s.ck0 d) = G d (s.getCd (s.ck0 d)) := by
  induction l with
  | nil => intro o _ ho _ _; exact ⟨ho, fun _ _ => rfl, by simp⟩
  | cons e l ih =>
    intro o hn ho hk hf
    obtain ⟨hne, hn⟩ := List.nodup_cons.1 hn
    have hoe := hf e (by simp) o ho (hk e (by simp))
    have hinj : ∀ d ∈ l, s.ck0 d ≠ s.ck0 e := fun d hd h => hne (ccCk_inj h ▸ hd)
    obtain ⟨h1, h2, h3⟩ := ih (f e o) hn hoe.same
      (fun d hd => by rw [hoe.other _ (hinj d hd)]; exact hk d (by simp [hd]))
      (fun d hd => hf d (by simp [hd]))
    refine ⟨h1, fun k hke => ?_, fun d hd => ?_⟩
    · rw [List.foldl_cons, h2 k fun d hd => hke d (by simp [hd]), hoe.other _ (hke e (by simp))]
    · rw [List.foldl_cons]
      rcases List.mem_cons.1 hd with rfl | hd
      · rw [h2 _ fun d' hd' => (hinj d' hd').symm, hoe.cd]
      · exact h3 d hd

/-- One operation on each die where it is enabled, its waits met: each die's context is updated, and the iteration is asked to be a splice
where the operation signals. -/
theorem State.onDies_plain (s : State) (h : Hdr) (f : Nat → State → State) (G : Nat → CtxDie → CtxDie)
    (hw : ∀ d ∈ s.enabled h, h.waitTh.toNat ≤ (s.coreD d).semCount h.waitSem.toNat)
    (hf : ∀ d ∈ s.enabled h, ∀ o, SameBut o s → o.getCd (s.ck0 d) = s.getCd (s.ck0 d) →
      Sets s o (f d o) d (G d (s.getCd (s.ck0 d)))) :
    ∃ o, SameBut o s ∧ (∀ k, (∀ d ∈ s.enabled h, k ≠ s.ck0 d) → o.getCd k = s.getCd k) ∧
      (∀ d ∈ s.enabled h, o.getCd (s.ck0 d) = G d (s.getCd (s.ck0 d))) ∧
      s.onDies h f = if Claims.signals s h then o.splices else o := by
  have hf' : ∀ d ∈ s.enabled h, ∀ o, SameBut o s → o.getCd (s.ck0 d) = s.getCd (s.ck0 d) →
      Sets s o (f d (o.waitOn d h)) d (G d (s.getCd (s.ck0 d))) := by
    intro d hd o ho hk
    have : o.waitOn d h = o := by unfold State.waitOn; rw [ho.coreD d, if_pos (hw d hd)]
    rw [this]; exact hf d hd o ho hk
  obtain ⟨h1, h2, h3⟩ := foldl_dies s (fun d o => f d (o.waitOn d h)) G (s.enabled h) s (s.enabled_nodup h)
    rfl (fun _ _ => rfl) hf'
  exact ⟨_, h1, h2, h3, rfl⟩

theorem SameBut.rel {o s : State} {h : Hdr} (hs : SameBut o s) (cc : Nat)
    (h1 : ∀ k, (∀ d ∈ s.enabled h, k ≠ s.ck0 d) → o.getCd k = s.getCd k)
    (h2 : ∀ d ∈ s.enabled h, Claims.KeptCd (o.getCd (s.ck0 d)) (s.getCd (s.ck0 d))) : Rel o s s.ck0 cc (s.enabled h) := by
  refine ⟨?_, h1, h2, fun k _ => ?_, ?_⟩
  · have e : o.wear s.cd s.cc s.att = { ({ o with cd := s.cd } : State) with cc := s.cc, att := s.att } := rfl
    rw [e, hs]
  · simp only [State.getCc, hs.cc]
  · unfold Claims.KeptCc; simp only [State.getCc, hs.cc]

theorem Rel.trans {t u v : State} {ck : Nat → Nat} {cc : Nat} {ds : List Nat} (h : Rel t u ck cc ds) (g : Rel u v ck cc ds) :
    Rel t v ck cc ds := by
  refine ⟨?_, fun k hk => (h.other k hk).trans (g.other k hk), fun d hd => ?_, fun k hk => (h.otherCc k hk).trans (g.otherCc k hk), ?_⟩
  · have e : t.wear v.cd v.cc v.att = (t.wear u.cd u.cc u.att).wear v.cd v.cc v.att := rfl
    rw [e, h.rest, g.rest]
  · have a := h.kept d hd
    have b := g.kept d hd
    unfold Claims.KeptCd at *
    rw [b] at a; exact a
  · have a := h.keptCc
    have b := g.keptCc
    unfold Claims.KeptCc at *
    rw [b] at a; exact a

theorem Rel.frame {s t : State} {b : Bool} {ds : List Nat} (h : Rel t (Claims.spliced s b) s.ck0 s.cc0 ds) : Claims.Frame s t b ds :=
  ⟨h.rest, h.other, h.kept, h.otherCc, h.keptCc⟩

/-- What an attempt leaves whose operations change only the contexts of the cursor on the dies `ds`, and there no more than results in
flight and latches, and ask at most for a splice. -/
theorem State.finish_frame (s o : State) (b : Bool) (h : Hdr) (hr : Claims.Ready s h) (ho : SameBut o s.noAtt)
    (h1 : ∀ k, (∀ d ∈ s.enabled h, k ≠ s.ck0 d) → o.getCd k = s.getCd k)
    (h2 : ∀ d ∈ s.enabled h, Claims.KeptCd (o.getCd (s.ck0 d)) (s.getCd (s.ck0 d))) :
    Claims.Frame s (s.finish (if b then o.splices else o)) b (s.enabled h) ∧
      ∀ d ∈ s.enabled h, ((s.finish (if b then o.splices else o)).getCd (s.ck0 d)).pend =
        if b then markPre (s.getCc s.cc0).inh (o.getCd (s.ck0 d)).pend else (o.getCd (s.ck0 d)).pend := by
  have hc := cc0_lt hr.col hr.ctx
  have hrel : Rel o s.noAtt s.ck0 s.cc0 (s.enabled h) := ho.rel (h := h) s.cc0 h1 h2
  have hcc : o.cc0 = s.cc0 := ho.cc0
  have hatt : (if b then o.splices else o).att = { splice := b } := by
    have e : o.att = {} := ho.att
    cases b with
    | false => exact e
    | true => simp only [if_true, State.splices, e]
  have hblot : (if b then o.splices else o).blotCount s.cc0 ≤ 128 := by
    have e : (if b then o.splices else o).blotCount s.cc0 = o.blotCount s.cc0 := by cases b <;> rfl
    rw [e, hrel.blotCount]; exact hr.blot
  have hno : (if b then o.splices else o).noAtt = o.noAtt := by cases b <;> rfl
  rw [State.finish_plain s _ b hatt hblot, hno]
  have hreln : Rel o.noAtt s.noAtt s.ck0 s.cc0 (s.enabled h) := hrel.att_left {}
  have hst : (o.noAtt.getCc o.noAtt.cc0).st = .active := by
    have e : o.noAtt.getCc o.noAtt.cc0 = s.getCc s.cc0 := by
      simp only [State.getCc, show o.noAtt.cc = o.cc from rfl, ho.cc, show o.noAtt.cc0 = o.cc0 from rfl, hcc]; rfl
    rw [e]; exact hr.active
  have hinh : (o.noAtt.getCc o.noAtt.cc0).inh = (s.getCc s.cc0).inh := by
    have e : o.noAtt.getCc o.noAtt.cc0 = s.getCc s.cc0 := by
      simp only [State.getCc, show o.noAtt.cc = o.cc from rfl, ho.cc, show o.noAtt.cc0 = o.cc0 from rfl, hcc]; rfl
    rw [e]
  constructor
  · have hf := o.noAtt.commitAs_rel b (by rw [show o.noAtt.cc0 = o.cc0 from rfl, hcc]; exact hc) hst (u := s.noAtt) (ck := s.ck0)
      (ds := s.enabled h) (by rw [show o.noAtt.cc0 = o.cc0 from rfl, hcc]; exact hreln)
    rw [show o.noAtt.cc0 = o.cc0 from rfl, hcc] at hf
    have hs : Rel s.noAtt s s.ck0 s.cc0 (s.enabled h) := (Rel.refl s _ _ _).att_left {}
    refine (hf.trans ?_).frame
    unfold Claims.spliced
    cases b with
    | false => exact hs
    | true => exact hs.splice hc
  · intro d hd
    have hl : d ∈ o.noAtt.liveOf o.noAtt.cc0 := by
      rw [hreln.liveOf, show o.noAtt.cc0 = o.cc0 from rfl, hcc]
      exact State.enabled_live hr.ctx hd
    have hp := o.noAtt.commitAs_pend b (by rw [show o.noAtt.cc0 = o.cc0 from rfl, hcc]; exact hc) hst d hl
    rw [show s.ck0 d = ccCk d o.noAtt.cc0 by rw [show o.noAtt.cc0 = o.cc0 from rfl, hcc]; rfl, hp, hinh]
    rfl

/-- An operation whose body leaves one result in flight on each die, and fills or empties latches, issues with the frame of `Claims.Frame`. -/
theorem State.attempt_delivers (i : Instr) (s : State) (h : Hdr) (f : Nat → State → State) (lat : Nat) (file : RFile) (n : Nat)
    (v mask : Nat → Vec) (fl : Nat → Nat) (grp : Nat) (sl : Nat → SMap SlotDie) (hr : Claims.Ready s h) (op : State → State)
    (hi : exec i s = s.attempt op) (hop : op s.noAtt = s.noAtt.onDies h f)
    (hf : ∀ d ∈ s.enabled h, ∀ o, SameBut o s.noAtt → o.getCd (s.ck0 d) = s.getCd (s.ck0 d) → Sets s.noAtt o (f d o) d
      { s.getCd (s.ck0 d) with
        pend := (s.getCd (s.ck0 d)).pend ++ [Claims.resultOf s h false lat file n (v d) (mask d) (fl d) grp]
        ws := { (s.getCd (s.ck0 d)).ws with slots := sl d } }) :
    Claims.Delivers i s h lat file n v mask fl grp := by
  obtain ⟨o, h1, h2, h3, h4⟩ := s.noAtt.onDies_plain h f (fun d c => { c with
    pend := c.pend ++ [Claims.resultOf s h false lat file n (v d) (mask d) (fl d) grp], ws := { c.ws with slots := sl d } }) hr.wait hf
  have hk : ∀ d ∈ s.enabled h, Claims.KeptCd (o.getCd (s.ck0 d)) (s.getCd (s.ck0 d)) := fun d hd => by
    rw [show s.ck0 d = s.noAtt.ck0 d from rfl, h3 d hd]; rfl
  obtain ⟨hf1, hf2⟩ := s.finish_frame o (Claims.signals s h) h hr h1 h2 hk
  refine ⟨s.finish (if Claims.signals s h then o.splices else o), ?_, hf1, fun d hd => ?_⟩
  · rw [hi]
    show Host.Outcome.next (s.finish (op s.noAtt)) = _
    rw [hop, h4]; rfl
  · rw [hf2 d hd, show s.ck0 d = s.noAtt.ck0 d from rfl, h3 d hd]
    unfold Claims.spliced
    cases hb : Claims.signals s h with
    | false => rfl
    | true =>
      simp only [if_true]
      rw [show s.noAtt.ck0 d = ccCk d s.cc0 from rfl, State.pend_splice _ _ _ (State.enabled_live hr.ctx hd)]
      show markPre _ ((s.getCd (ccCk d s.cc0)).pend ++ _) = _
      unfold markPre Claims.resultOf
      cases (s.getCc s.cc0).inh <;> simp

end Sys2Proof.Machine
end

