-- ==== Sys2Proof/Laws/Operands.lean ====
section
/-! SUPPORT. What reading an operand and leaving a result do, for the states in which an operation may be tried. -/

-- One declaration is checked after the other, so that few threads are in use at a time.
set_option Elab.async false

namespace Sys2Proof.Machine

open Claims

/-! ### States that hold the same context at the cursor -/

/-- `o` is `s` but for other contexts and for the latches `sl` of the cursor's context on die `d`. -/
structure Sees (o s : State) (d : Nat) (sl : SMap SlotDie) : Prop where
  same : SameBut o s.noAtt
  cd : o.getCd (s.ck0 d) = { s.getCd (s.ck0 d) with ws := { (s.getCd (s.ck0 d)).ws with slots := sl } }

theorem Sees.start {o s : State} {d : Nat} (h : SameBut o s.noAtt) (hk : o.getCd (s.ck0 d) = s.getCd (s.ck0 d)) :
    Sees o s d (s.ctxD d).ws.slots := ⟨h, hk⟩

variable {o s : State} {d : Nat} {sl : SMap SlotDie}

theorem Sees.ck0 (h : Sees o s d sl) (e : Nat) : o.ck0 e = s.ck0 e := h.same.ck0 e
theorem Sees.clock (h : Sees o s d sl) : o.clock = s.clock := h.same.clock
theorem Sees.cur (h : Sees o s d sl) : o.cur = s.cur := h.same.cur
theorem Sees.ctxD (h : Sees o s d sl) : o.ctxD d = { s.ctxD d with ws := { (s.ctxD d).ws with slots := sl } } := by
  simp only [State.ctxD, h.ck0, h.cd]

theorem WorkSet.rd_s0 (w : WorkSet) : w.rd .s 0 = 0#512 := rfl
theorem WorkSet.rd_slots (w : WorkSet) (sl : SMap SlotDie) (file : RFile) (n : Nat) : ({ w with slots := sl } : WorkSet).rd file n = w.rd file n := by
  cases file <;> rfl

/-- R79, R81: a settled register reads as it stands, and reading it changes nothing. -/
theorem Sees.rdReg (h : Sees o s d sl) {file : RFile} {n : Nat} (hs : Settled s d file n) : o.rdReg d file n = (reg s d file n, o) := by
  unfold State.rdReg
  dsimp only
  split
  · rename_i hz
    unfold reg
    rw [hz.1, hz.2, WorkSet.rd_s0]
  · rename_i hz
    rcases hs with hs | hs
    · exact absurd hs hz
    · have e : (o.ctxD d).inFlight o.clock file n = [] := by rw [h.ctxD, h.clock]; exact hs
      rw [e, h.ctxD]
      simp only [WorkSet.rd_slots, reg]

theorem Sees.rdS (h : Sees o s d sl) {r : Reg} (hs : Settled s d .s r.n) : o.rdS d r = (sreg s d r, o) := by
  unfold State.rdS
  rw [h.rdReg hs]; rfl

/-- R67: the lanes of a settled predicate. -/
theorem Sees.lanes (h : Sees o s d sl) {p : Pr} (hp : PrOk s d p) : o.lanes d p = (acts s d p, o) := by
  unfold State.lanes
  split
  · rename_i he
    rw [h.rdReg (hp he)]
    refine Prod.ext (funext fun n => ?_) rfl
    simp only [acts, he, Bool.not_true, Bool.false_or, bits]
    congr 1
    rw [BitVec.getLsbD, Nat.testBit_eq_decide_div_mod_eq]
    simp [BEq.beq]
  · rename_i he
    refine Prod.ext (funext fun n => ?_) rfl
    simp [acts, he]

/-- R58: the latches of a context after a source field at `pos` has been read in slot `slot`. -/
def latched (sl : SMap SlotDie) (slot pos : Nat) (r : Reg) (v : Vec) : SMap SlotDie :=
  if r.isLatch then sl
  else SMap.upd {} sl slot fun x => { x with hold := SMap.set none x.hold pos (if r.hold then some v else none) }

/-- What a latch holds. -/
def holds (sl : SMap SlotDie) (slot pos : Nat) : Option Vec := SMap.get none (SMap.get {} sl slot).hold pos

theorem holds_latched_other (sl : SMap SlotDie) (slot pos pos' : Nat) (r : Reg) (v : Vec) (h : pos' ≠ pos) :
    holds (latched sl slot pos r v) slot pos' = holds sl slot pos' := by
  unfold latched holds
  split
  · rfl
  · unfold SMap.upd
    rw [SMap.get_set_same, SMap.get_set_other _ _ _ _ _ h]

/-- R58: a V or P source that has a value: the value, and the latches afterwards. -/
theorem Sees.rdSrc (h : Sees o s d sl) (hd : d < 8) (hc : s.cc0 < 128) {pos : Nat} {file : RFile} {r : Reg} (hs : SrcOk s d pos file r)
    (hl : holds sl s.cur.slot pos = SMap.get none (s.slotD d).hold pos) :
    ∃ o', o.rdSrc d pos file r = (src s d pos file r, o') ∧ Sees o' s d (latched sl s.cur.slot pos r (src s d pos file r)) ∧
      ∀ k, k ≠ s.ck0 d → o'.getCd k = o.getCd k := by
  unfold State.rdSrc SrcOk latched src at *
  by_cases hr : r.isLatch
  · simp only [hr, if_true] at hs ⊢
    have e : SMap.get none (o.slotD d).hold pos = SMap.get none (s.slotD d).hold pos := by
      rw [← hl]; unfold State.slotD holds; rw [h.ctxD, h.cur]
    rw [e]
    cases hv : SMap.get none (s.slotD d).hold pos with
    | none => exact absurd hv hs
    | some v => exact ⟨o, rfl, h, fun _ _ => rfl⟩
  · simp only [hr, Bool.false_eq_true, if_false] at hs ⊢
    rw [h.rdReg hs]
    refine ⟨_, rfl, ⟨?_, ?_⟩, fun k hk => ?_⟩
    · unfold State.updSlotD State.updD
      rw [h.ck0]
      exact h.same.updCd _ (ccCk_lt hd hc) _
    · unfold State.updSlotD State.updD
      rw [h.ck0, State.getCd_updCd_same, h.cd, h.cur]
    · unfold State.updSlotD State.updD
      rw [h.ck0, State.getCd_updCd_other _ _ _ _ hk]

/-- R79: a result for a register with no scoreboarded write in flight is left in flight. -/
theorem Sees.result (h : Sees o s d sl) (hd : d < 8) (hc : s.cc0 < 128) {file : RFile} {n : Nat} (hw : Writable s d file n) (hh : Hdr)
    (lat : Nat) (v mask : Vec) (fl grp : Nat) : Sets s.noAtt o (o.result d hh lat file n v mask fl grp true) d
      { s.getCd (s.ck0 d) with
        pend := (s.getCd (s.ck0 d)).pend ++ [resultOf s hh false lat file n v mask fl grp]
        ws := { (s.getCd (s.ck0 d)).ws with slots := sl } } := by
  have hb : ((o.ctxD d).inFlight o.clock file n).any (·.sb) = false := by
    rw [h.ctxD, h.clock, List.any_eq_false]
    intro p hp
    simp [hw p hp]
  have e : o.result d hh lat file n v mask fl grp true = o.updCd (s.ck0 d) fun c =>
      { c with pend := c.pend ++ [resultOf s hh false lat file n v mask fl grp] } := by
    unfold State.result State.wrCheck
    rw [hb]
    simp only [Bool.false_eq_true, if_false, State.updD, h.ck0, h.clock, h.cur, if_true, resultOf, Bool.false_and]
  rw [e]
  have := h.same.sets (d := d) hd hc (fun c => { c with pend := c.pend ++ [resultOf s hh false lat file n v mask fl grp] })
  rw [show s.noAtt.ck0 d = s.ck0 d from rfl, h.cd] at this
  exact this

/-- Reading before a result changes no other context. -/
theorem Sets.after {o o' t : State} {c : CtxDie} (h : Sets s o' t d c) (hk : ∀ k, k ≠ s.ck0 d → o'.getCd k = o.getCd k) : Sets s o t d c :=
  ⟨h.same, fun k hne => (h.other k hne).trans (hk k hne), h.cd⟩

end Sys2Proof.Machine
end

