-- ==== Sys2Proof/Tests/Slice0.lean ====
section
/-! SUPPORT. Tests of the model, and witnesses for the hypotheses of the statements. -/

-- One declaration is checked after the other, so that few threads are in use at a time.
set_option Elab.async false

namespace Sys2Proof.Tests

open Sys2Proof Sys2Proof.Machine Sys2Proof.Claims

/-! ### Formats with every field zero -/

def rrr0 : FRRR := ⟨0#8, .b, .b, 0#2, .none, .zero, .zero, .zero, .zero⟩
def rimm0 : FRIMM := ⟨0#64, .none, .b, .zero, .zero⟩
def mem0 : FMEM := ⟨0#32, 0#32, 0#32, 0#3, 0#8, false, .none, .b, .zero, .zero, .zero⟩
def br0 : FBR := ⟨0#16, 0#32, .zero, false, false, 0#3⟩
def sync0 : FSYNC := ⟨0#64, .zero, .zero, 0#4, 0#4, 0#3, 0#24, 0#8⟩
def copy0 : FCOPY := ⟨0#24, 0#24, 0#20, 0#20, 0#20, 0#20, false, false, false, false, false, false, false, false, false, 0#4, 0#2, .zero, .zero⟩
def mx0 : FMX := ⟨0#32, 0#14, 0#16, 0#16, 0#24, 0#24, false, .b, .b, 0#2, 0#2, .zero, .zero⟩
def en0 : FEN := ⟨0#24, 0#24, 0#24, 0#24, false, 0#4, .b, 0#4, 0#15, 0#3, 0#3, .zero, .zero, .zero⟩
def ev0 : FEV := ⟨0#32, .zero, .none, .zero, .zero, .zero, 0#2, 0#2, 0#2⟩

/-- Every word of the list, written as its header and the fields of its format from R59 to R74, decodes to the instruction beside it. -/
abbrev Decodes (l : List (List (Nat × Nat) × Instr)) : Prop := ∀ x ∈ l, decode (wordOf (hdrBits ++ x.1)) = .ok x.2

theorem test_decode_scalar : Decodes [
   ([(4, 1), (12, 1), (80, 5), (91, 6), (102, 7), (134, 12)], .add hdr1 { rrr0 with dst := .of 5, srcA := .of 6, srcB := .of 7, ty := .i64 }),
   ([(4, 3), (12, 1), (80, 5), (91, 6), (102, 7), (134, 12)], .sub hdr1 { rrr0 with dst := .of 5, srcA := .of 6, srcB := .of 7, ty := .i64 }),
   ([(4, 4), (12, 1), (80, 5), (91, 6), (102, 7), (134, 12)], .mul hdr1 { rrr0 with dst := .of 5, srcA := .of 6, srcB := .of 7, ty := .i64 }),
   ([(4, 5), (12, 1), (80, 5), (91, 6), (102, 7), (134, 12)], .mulh hdr1 { rrr0 with dst := .of 5, srcA := .of 6, srcB := .of 7, ty := .i64 }),
   ([(4, 6), (12, 1), (80, 5), (91, 6), (102, 7), (134, 12)], .div hdr1 { rrr0 with dst := .of 5, srcA := .of 6, srcB := .of 7, ty := .i64 }),
   ([(4, 7), (12, 1), (80, 5), (91, 6), (102, 7), (134, 12)], .rem hdr1 { rrr0 with dst := .of 5, srcA := .of 6, srcB := .of 7, ty := .i64 }),
   ([(4, 8), (12, 1), (80, 5), (91, 6), (102, 7), (134, 12)], .and hdr1 { rrr0 with dst := .of 5, srcA := .of 6, srcB := .of 7, ty := .i64 }),
   ([(4, 9), (12, 1), (80, 5), (91, 6), (102, 7), (134, 12)], .andn hdr1 { rrr0 with dst := .of 5, srcA := .of 6, srcB := .of 7, ty := .i64 }),
   ([(4, 10), (12, 1), (80, 5), (91, 6), (102, 7), (134, 12)], .or hdr1 { rrr0 with dst := .of 5, srcA := .of 6, srcB := .of 7, ty := .i64 }),
   ([(4, 11), (12, 1), (80, 5), (91, 6), (102, 7), (134, 12)], .xor hdr1 { rrr0 with dst := .of 5, srcA := .of 6, srcB := .of 7, ty := .i64 }),
   ([(4, 12), (12, 1), (80, 5), (91, 6), (102, 7), (134, 12)], .shl hdr1 { rrr0 with dst := .of 5, srcA := .of 6, srcB := .of 7, ty := .i64 }),
   ([(4, 13), (12, 1), (80, 5), (91, 6), (102, 7), (134, 12)], .shr hdr1 { rrr0 with dst := .of 5, srcA := .of 6, srcB := .of 7, ty := .i64 }),
   ([(4, 14), (12, 1), (80, 5), (91, 6), (102, 7), (134, 12)], .sra hdr1 { rrr0 with dst := .of 5, srcA := .of 6, srcB := .of 7, ty := .i64 }),
   ([(4, 18), (12, 1), (80, 5), (91, 6), (102, 7), (134, 12)], .min hdr1 { rrr0 with dst := .of 5, srcA := .of 6, srcB := .of 7, ty := .i64 }),
   ([(4, 19), (12, 1), (80, 5), (91, 6), (102, 7), (134, 12)], .max hdr1 { rrr0 with dst := .of 5, srcA := .of 6, srcB := .of 7, ty := .i64 }),
   ([(4, 15), (12, 1), (80, 5), (91, 6), (102, 7), (134, 13)], .rol hdr1 { rrr0 with dst := .of 5, srcA := .of 6, srcB := .of 7, ty := .n64 }),
   ([(4, 16), (12, 1), (80, 5), (91, 6), (134, 11)], .clz hdr1 { rrr0 with dst := .of 5, srcA := .of 6, ty := .n32 }),
   ([(4, 17), (12, 1), (80, 5), (91, 6), (134, 8)], .popc hdr1 { rrr0 with dst := .of 5, srcA := .of 6, ty := .i32 }),
   ([(4, 20), (12, 1), (80, 3), (91, 6), (102, 7), (134, 13), (142, 4)], .cmp hdr1 { rrr0 with dst := .of 3, srcA := .of 6, srcB := .of 7, ty := .n64, sub := 4#8 }),
   ([(4, 21), (12, 1), (80, 63), (91, 6), (102, 7), (113, 1)], .sel hdr1 { rrr0 with dst := .of 63, srcA := .of 6, srcB := .of 7, srcC := .of 1 }),
   ([(4, 22), (12, 1), (80, 5), (91, 6)], .mov hdr1 { rrr0 with dst := .of 5, srcA := .of 6 })] := by
  decide

theorem test_decode_immediate_memory : Decodes [
   ([(4, 2), (12, 2), (80, 2), (91, 3), (102, 12), (128, 18446744073709551615)], .addi hdr1 { rimm0 with dst := .of 2, srcA := .of 3, ty := .i64, imm := 18446744073709551615#64 }),
   ([(4, 23), (12, 2), (80, 2), (128, 9223372036854775808)], .movi hdr1 { rimm0 with dst := .of 2, imm := 9223372036854775808#64 }),
   ([(4, 24), (12, 2), (80, 2), (91, 3), (128, 3735928559)], .movhi hdr1 { rimm0 with dst := .of 2, srcA := .of 3, imm := 3735928559#64 }),
   ([(4, 29), (12, 2), (80, 2), (128, 32)], .csrr hdr1 { rimm0 with dst := .of 2, imm := 32#64 }),
   ([(4, 30), (12, 2), (91, 3), (128, 208)], .csrw hdr1 { rimm0 with srcA := .of 3, imm := 208#64 }),
   ([(4, 25), (12, 3), (80, 4), (91, 9), (113, 11), (160, 64), (224, 8), (125, 1), (192, 4294967292)], .ld hdr1 { mem0 with data := .of 4, base := .of 9, ty := .n32, offset := 64#32, dstride := 8#32, dts := true, step := 4294967292#32 }),
   ([(4, 26), (12, 3), (80, 4), (91, 9), (113, 7), (160, 4294967288)], .st hdr1 { mem0 with data := .of 4, base := .of 9, ty := .i16, offset := 4294967288#32 }),
   ([(4, 27), (12, 3), (80, 4), (91, 9), (102, 10), (113, 13), (126, 131), (134, 5)], .amo hdr1 { mem0 with data := .of 4, base := .of 9, aux := .of 10, ty := .n64, sub := 131#8, scope := 5#3 }),
   ([(4, 28), (12, 3), (80, 4), (91, 9), (102, 10), (113, 8), (134, 2)], .acas hdr1 { mem0 with data := .of 4, base := .of 9, aux := .of 10, ty := .i32, scope := 2#3 })] := by
  decide

theorem test_decode_branch : Decodes [
   ([(0, 1), (4, 1), (12, 4), (128, 4294967292)], .bra hdr1 { br0 with target := 4294967292#32 }),
   ([(0, 1), (4, 2), (12, 4), (128, 9), (84, 1), (83, 1), (80, 5)], .brc hdr1 { br0 with target := 9#32, any := true, finv := true, freg := 5#3 }),
   ([(0, 1), (4, 3), (12, 4), (128, 7)], .call hdr1 { br0 with target := 7#32 }),
   ([(0, 1), (4, 5), (12, 4), (128, 4294967294), (85, 8)], .loop hdr1 { br0 with target := 4294967294#32, cnt := .of 8 }),
   ([(0, 1), (4, 6), (12, 4), (176, 43981)], .trap hdr1 { br0 with code := 43981#16 }),
   ([(0, 1), (4, 9), (12, 4), (176, 3), (128, 11)], .reel hdr1 { br0 with code := 3#16, target := 11#32 }),
   ([(0, 1), (4, 4)], .ret hdr1),
   ([(0, 1), (4, 7)], .tret hdr1),
   ([(0, 1), (4, 8)], .halt hdr1)] := by
  decide

theorem test_decode_matrix : Decodes [
   ([(0, 2), (4, 1), (12, 7), (208, 64), (192, 128), (152, 8192), (106, 2), (110, 2), (102, 2), (91, 5)], .mlatch hdr1 { mx0 with k := 64#14, bstride := 128#16, boff := 8192#24, atype := .h16, btype := .h16, latch := 2#2, bbase := .of 5 }),
   ([(0, 2), (4, 2), (12, 7), (208, 64), (176, 128), (128, 16777152), (106, 3), (110, 3), (104, 3), (102, 2), (80, 1), (224, 4294967295), (114, 1)], .mmul hdr1 { mx0 with k := 64#14, astride := 128#16, aoff := 16777152#24, atype := .bf16, btype := .bf16, acc := 3#2, latch := 2#2, abase := .of 1, dstride := 4294967295#32, dts := true }),
   ([(0, 2), (4, 5), (12, 7), (208, 8192), (176, 256), (192, 256), (106, 1), (110, 1), (104, 1), (102, 3), (80, 1), (91, 2)], .mtile hdr1 { mx0 with k := 8192#14, astride := 256#16, bstride := 256#16, atype := .f32, btype := .f32, acc := 1#2, latch := 3#2, abase := .of 1, bbase := .of 2 }),
   ([(0, 2), (4, 4), (12, 7), (104, 2)], .mzero hdr1 { mx0 with acc := 2#2 }),
   ([(0, 2), (4, 3), (12, 7), (176, 256), (106, 1), (104, 1), (80, 7)], .mret hdr1 { mx0 with astride := 256#16, atype := .f32, acc := 1#2, abase := .of 7 })] := by
  decide

theorem test_decode_copy : Decodes [
   ([(0, 3), (4, 1), (12, 6), (208, 4096), (148, 1048512), (128, 64), (188, 64), (168, 128), (232, 16777200), (110, 1), (109, 1), (102, 2), (91, 11), (80, 10), (112, 1), (116, 1)], .cpy hdr1 { copy0 with len := 4096#24, soff := 1048512#20, doff := 64#20, sstep := 64#20, dstep := 128#20, dstride := 16777200#24, dside := true, dts := true, ch := 2#2, sbase := .of 11, dbase := .of 10, cnv := true, twr := true }),
   ([(0, 3), (4, 2), (12, 6), (108, 1), (104, 9), (102, 1), (91, 11), (80, 10), (113, 1), (115, 1)], .cpyg hdr1 { copy0 with shen := true, shape := 9#4, ch := 1#2, sbase := .of 11, dbase := .of 10, gath := true, scl := true }),
   ([(0, 3), (4, 5), (12, 6), (208, 4096), (102, 3), (91, 11), (117, 1)], .cpchk hdr1 { copy0 with len := 4096#24, ch := 3#2, sbase := .of 11, tchk := true }),
   ([(0, 3), (4, 8), (12, 6), (208, 256), (102, 1), (91, 11)], .spxgo hdr1 { copy0 with len := 256#24, ch := 1#2, sbase := .of 11 }),
   ([(0, 3), (4, 3), (12, 3), (91, 9), (160, 32), (126, 7)], .shape hdr1 { mem0 with base := .of 9, offset := 32#32, sub := 7#8 }),
   ([(0, 3), (4, 7), (12, 3), (91, 9), (160, 64)], .spxcfg hdr1 { mem0 with base := .of 9, offset := 64#32 }),
   ([(0, 3), (4, 4), (12, 1), (80, 15), (142, 6)], .sbind hdr1 { rrr0 with dst := .of 15, sub := 6#8 }),
   ([(0, 3), (4, 6), (12, 1), (80, 9), (142, 15)], .cpdrain hdr1 { rrr0 with dst := .of 9, sub := 15#8 })] := by
  decide

theorem test_decode_engine : Decodes [
   ([(0, 4), (4, 1), (12, 8), (160, 64), (208, 128), (184, 256), (119, 42), (116, 2), (113, 4), (102, 3), (91, 2), (80, 1), (232, 64)], .seize hdr1 { en0 with len := 64#24, soff := 128#24, doff := 256#24, choices := 42#15, nch := 2#3, fbusy := 4#3, out := .of 3, sbase := .of 2, dbase := .of 1, dstride := 64#24 }),
   ([(0, 4), (4, 1), (12, 8), (134, 1), (119, 4), (116, 1), (113, 4), (102, 3)], .seizeHold hdr1 { en0 with op := 1#4, choices := 4#15, nch := 1#3, fbusy := 4#3, out := .of 3 }),
   ([(0, 4), (4, 2), (12, 8), (160, 128), (113, 1), (102, 3), (91, 2), (80, 1)], .sxfer hdr1 { en0 with len := 128#24, fbusy := 1#3, out := .of 3, sbase := .of 2, dbase := .of 1 }),
   ([(0, 4), (4, 3), (12, 8), (102, 3)], .clear hdr1 { en0 with out := .of 3 }),
   ([(0, 4), (4, 4), (12, 8), (160, 64), (138, 3), (134, 1), (119, 2), (116, 1), (113, 4), (102, 3), (91, 2), (80, 1)], .coll hdr1 { en0 with len := 64#24, ty := .bf16, op := 1#4, choices := 2#15, nch := 1#3, fbusy := 4#3, out := .of 3, sbase := .of 2, dbase := .of 1 }),
   ([(0, 4), (4, 5), (12, 8), (160, 128), (142, 15), (113, 7), (91, 2)], .bdrv hdr1 { en0 with len := 128#24, cycle := 15#4, fbusy := 7#3, sbase := .of 2 }),
   ([(0, 4), (4, 6), (12, 8), (160, 1), (142, 4), (113, 6), (80, 2)], .blat hdr1 { en0 with len := 1#24, cycle := 4#4, fbusy := 6#3, dbase := .of 2 })] := by
  decide

theorem test_decode_envelope : Decodes [
   ([(0, 5), (4, 1), (12, 9), (80, 3), (86, 80), (97, 81), (108, 159), (125, 1), (119, 15)], .eline hdr1 { ev0 with edst := 3#2, vopA := .of 80, vopB := .of 81, vopC := .of 159, pr := ⟨false, true, 15#6⟩ }),
   ([(0, 5), (4, 2), (12, 9), (80, 1), (82, 2), (84, 3)], .emax hdr1 { ev0 with edst := 1#2, esrcA := 2#2, esrcB := 3#2 }),
   ([(0, 5), (4, 3), (12, 9), (80, 1), (82, 2), (84, 3)], .esum hdr1 { ev0 with edst := 1#2, esrcA := 2#2, esrcB := 3#2 }),
   ([(0, 5), (4, 4), (12, 9), (80, 1), (82, 2), (84, 3)], .einfc hdr1 { ev0 with edst := 1#2, esrcA := 2#2, esrcB := 3#2 }),
   ([(0, 5), (4, 5), (12, 9), (80, 1), (82, 2)], .econj hdr1 { ev0 with edst := 1#2, esrcA := 2#2 }),
   ([(0, 5), (4, 6), (12, 9), (82, 2), (86, 1), (97, 2), (108, 3)], .eeval hdr1 { ev0 with esrcA := 2#2, vopA := .of 1, vopB := .of 2, vopC := .of 3 }),
   ([(0, 5), (4, 7), (12, 9), (82, 1), (86, 4), (97, 5), (127, 9)], .ebrk hdr1 { ev0 with esrcA := 1#2, vopA := .of 4, vopB := .of 5, sreg := .of 9 }),
   ([(0, 5), (4, 8), (12, 9), (80, 2), (127, 9)], .eclr hdr1 { ev0 with edst := 2#2, sreg := .of 9 }),
   ([(0, 5), (4, 9), (12, 9), (127, 63)], .etol hdr1 { ev0 with sreg := .of 63 }),
   ([(0, 5), (4, 10), (12, 9), (82, 1), (127, 9), (160, 4294967280)], .esave hdr1 { ev0 with esrcA := 1#2, sreg := .of 9, offset := 4294967280#32 }),
   ([(0, 5), (4, 11), (12, 9), (80, 1), (127, 9), (160, 32)], .eload hdr1 { ev0 with edst := 1#2, sreg := .of 9, offset := 32#32 })] := by
  decide

theorem test_decode_cross_group_sync : Decodes [
   ([(0, 6), (4, 1), (12, 1), (80, 639), (91, 2047)], .xmov hdr1 { rrr0 with dst := .of 639, srcA := ⟨true, 0x3FF#10⟩ }),
   ([(0, 6), (4, 2), (12, 1), (80, 10), (91, 100), (142, 15), (130, 1), (124, 3)], .xbc hdr1 { rrr0 with dst := .of 10, srcA := .of 100, sub := 15#8, pr := ⟨false, true, 3#6⟩ }),
   ([(0, 6), (4, 3), (12, 1), (80, 10), (91, 7), (134, 1), (142, 2)], .xred hdr1 { rrr0 with dst := .of 10, srcA := .of 7, ty := .f32, sub := 2#8 }),
   ([(0, 7), (4, 1), (12, 5), (80, 9), (88, 5), (115, 1)], .sig hdr1 { sync0 with sem := 9#8, count := 5#24, kind := 1#4 }),
   ([(0, 7), (4, 2), (12, 5), (80, 9), (88, 16777215)], .wsem hdr1 { sync0 with sem := 9#8, count := 16777215#24 }),
   ([(0, 7), (4, 3), (12, 5), (119, 15), (112, 4)], .bar hdr1 { sync0 with bid := 15#4, scope := 4#3 }),
   ([(0, 7), (4, 4), (12, 5), (115, 3), (112, 5)], .fence hdr1 { sync0 with kind := 3#4, scope := 5#3 }),
   ([(0, 7), (4, 5), (12, 5)], .etrig hdr1 sync0),
   ([(0, 7), (4, 6), (12, 5), (192, 63), (123, 1), (134, 2)], .grab hdr1 { sync0 with imm := 63#64, sregA := .of 1, sregB := .of 2 }),
   ([(0, 7), (4, 7), (12, 5), (115, 1), (112, 3), (192, 4095)], .tlbi hdr1 { sync0 with kind := 1#4, scope := 3#3, imm := 4095#64 }),
   ([(0, 7), (4, 8), (12, 5), (88, 2), (192, 510), (123, 8)], .cwld hdr1 { sync0 with count := 2#24, imm := 510#64, sregA := .of 8 }),
   ([(0, 7), (4, 9), (12, 5), (123, 1), (134, 2)], .tlook hdr1 { sync0 with sregA := .of 1, sregB := .of 2 }),
   ([(0, 7), (4, 10), (12, 5), (123, 1), (134, 2)], .tset hdr1 { sync0 with sregA := .of 1, sregB := .of 2 }),
   ([(0, 7), (4, 11), (12, 5), (123, 1)], .tdrop hdr1 { sync0 with sregA := .of 1 }),
   ([(0, 7), (4, 11), (12, 5), (115, 1)], .tdropAll hdr1 { sync0 with kind := 1#4 })] := by
  decide

theorem test_decode_vector_memory : Decodes [
   ([(0, 9), (4, 1), (12, 3), (29, 2), (80, 160), (91, 3), (113, 2), (123, 1), (124, 1), (117, 17)], .vld { hdr1 with group := 2#3 } { mem0 with data := .of 160, base := .of 3, ty := .h16, pr := ⟨true, true, 17#6⟩ }),
   ([(0, 9), (4, 2), (12, 3), (80, 2047), (91, 3), (113, 1)], .vst hdr1 { mem0 with data := ⟨true, 0x3FF#10⟩, base := .of 3, ty := .f32 }),
   ([(0, 9), (4, 3), (12, 3), (80, 2), (91, 3), (102, 4)], .vlds hdr1 { mem0 with data := .of 2, base := .of 3, aux := .of 4 }),
   ([(0, 9), (4, 4), (12, 3), (80, 2), (91, 3), (102, 7), (113, 11)], .vgath hdr1 { mem0 with data := .of 2, base := .of 3, aux := .of 7, ty := .n32 }),
   ([(0, 9), (4, 5), (12, 3), (80, 2), (91, 3), (102, 7), (113, 8)], .vscat hdr1 { mem0 with data := .of 2, base := .of 3, aux := .of 7, ty := .i32 }),
   ([(0, 9), (4, 6), (12, 1), (80, 5), (91, 15)], .vrdq hdr1 { rrr0 with dst := .of 5, srcA := .of 15 })] := by
  decide

theorem test_decode_vector : Decodes [
   ([(0, 8), (4, 1), (12, 1), (29, 1), (134, 7), (130, 1), (124, 9), (80, 80), (91, 81), (102, 2047)], .vadd { hdr1 with group := 1#3 } { rrr0 with ty := .i16, dst := .of 80, srcA := .of 81, srcB := ⟨true, 0x3FF#10⟩, pr := ⟨false, true, 9#6⟩ }),
   ([(0, 8), (4, 2), (12, 1), (29, 1), (134, 7), (130, 1), (124, 9), (80, 80), (91, 81), (102, 2047)], .vsub { hdr1 with group := 1#3 } { rrr0 with ty := .i16, dst := .of 80, srcA := .of 81, srcB := ⟨true, 0x3FF#10⟩, pr := ⟨false, true, 9#6⟩ }),
   ([(0, 8), (4, 3), (12, 1), (29, 1), (134, 7), (130, 1), (124, 9), (80, 80), (91, 81), (102, 2047)], .vmul { hdr1 with group := 1#3 } { rrr0 with ty := .i16, dst := .of 80, srcA := .of 81, srcB := ⟨true, 0x3FF#10⟩, pr := ⟨false, true, 9#6⟩ }),
   ([(0, 8), (4, 4), (12, 1), (29, 1), (134, 7), (130, 1), (124, 9), (80, 80), (91, 81), (102, 2047)], .vmulh { hdr1 with group := 1#3 } { rrr0 with ty := .i16, dst := .of 80, srcA := .of 81, srcB := ⟨true, 0x3FF#10⟩, pr := ⟨false, true, 9#6⟩ }),
   ([(0, 8), (4, 9), (12, 1), (29, 1), (134, 7), (130, 1), (124, 9), (80, 80), (91, 81), (102, 2047)], .vshl { hdr1 with group := 1#3 } { rrr0 with ty := .i16, dst := .of 80, srcA := .of 81, srcB := ⟨true, 0x3FF#10⟩, pr := ⟨false, true, 9#6⟩ }),
   ([(0, 8), (4, 10), (12, 1), (29, 1), (134, 7), (130, 1), (124, 9), (80, 80), (91, 81), (102, 2047)], .vshr { hdr1 with group := 1#3 } { rrr0 with ty := .i16, dst := .of 80, srcA := .of 81, srcB := ⟨true, 0x3FF#10⟩, pr := ⟨false, true, 9#6⟩ }),
   ([(0, 8), (4, 11), (12, 1), (29, 1), (134, 7), (130, 1), (124, 9), (80, 80), (91, 81), (102, 2047)], .vsra { hdr1 with group := 1#3 } { rrr0 with ty := .i16, dst := .of 80, srcA := .of 81, srcB := ⟨true, 0x3FF#10⟩, pr := ⟨false, true, 9#6⟩ }),
   ([(0, 8), (4, 12), (12, 1), (29, 1), (134, 7), (130, 1), (124, 9), (80, 80), (91, 81), (102, 2047)], .vmin { hdr1 with group := 1#3 } { rrr0 with ty := .i16, dst := .of 80, srcA := .of 81, srcB := ⟨true, 0x3FF#10⟩, pr := ⟨false, true, 9#6⟩ }),
   ([(0, 8), (4, 13), (12, 1), (29, 1), (134, 7), (130, 1), (124, 9), (80, 80), (91, 81), (102, 2047)], .vmax { hdr1 with group := 1#3 } { rrr0 with ty := .i16, dst := .of 80, srcA := .of 81, srcB := ⟨true, 0x3FF#10⟩, pr := ⟨false, true, 9#6⟩ }),
   ([(0, 8), (4, 5), (12, 1), (29, 1), (80, 80), (91, 81), (102, 82), (113, 159), (134, 13)], .vmad { hdr1 with group := 1#3 } { rrr0 with dst := .of 80, srcA := .of 81, srcB := .of 82, srcC := .of 159, ty := .n64 }),
   ([(0, 8), (4, 6), (12, 1), (29, 1), (80, 80), (91, 81), (102, 2047)], .vand { hdr1 with group := 1#3 } { rrr0 with dst := .of 80, srcA := .of 81, srcB := ⟨true, 0x3FF#10⟩ }),
   ([(0, 8), (4, 7), (12, 1), (29, 1), (80, 80), (91, 81), (102, 2047)], .vor { hdr1 with group := 1#3 } { rrr0 with dst := .of 80, srcA := .of 81, srcB := ⟨true, 0x3FF#10⟩ }),
   ([(0, 8), (4, 8), (12, 1), (29, 1), (80, 80), (91, 81), (102, 2047)], .vxor { hdr1 with group := 1#3 } { rrr0 with dst := .of 80, srcA := .of 81, srcB := ⟨true, 0x3FF#10⟩ }),
   ([(0, 8), (4, 14), (12, 1), (80, 5), (91, 6), (134, 6)], .vabs hdr1 { rrr0 with dst := .of 5, srcA := .of 6, ty := .i8 }),
   ([(0, 8), (4, 15), (12, 1), (80, 5), (91, 6), (134, 12)], .vneg hdr1 { rrr0 with dst := .of 5, srcA := .of 6, ty := .i64 }),
   ([(0, 8), (4, 16), (12, 1), (80, 5), (91, 6), (134, 9)], .vclz hdr1 { rrr0 with dst := .of 5, srcA := .of 6, ty := .n8 }),
   ([(0, 8), (4, 17), (12, 1), (80, 5), (91, 6), (102, 7), (134, 11), (142, 5)], .vcmp hdr1 { rrr0 with dst := .of 5, srcA := .of 6, srcB := .of 7, ty := .n32, sub := 5#8 }),
   ([(0, 8), (4, 18), (12, 1), (80, 5), (91, 6), (102, 7), (113, 3)], .vsel hdr1 { rrr0 with dst := .of 5, srcA := .of 6, srcB := .of 7, srcC := .of 3 }),
   ([(0, 8), (4, 19), (12, 1), (80, 5), (91, 6)], .vmov hdr1 { rrr0 with dst := .of 5, srcA := .of 6 }),
   ([(0, 8), (4, 20), (12, 2), (80, 5), (102, 1), (128, 1065353216), (112, 1), (106, 2)], .vmovi hdr1 { rimm0 with dst := .of 5, ty := .f32, imm := 1065353216#64, pr := ⟨false, true, 2#6⟩ }),
   ([(0, 8), (4, 21), (12, 1), (80, 5), (91, 6), (142, 31)], .vperm hdr1 { rrr0 with dst := .of 5, srcA := .of 6, sub := 31#8 }),
   ([(0, 8), (4, 23), (12, 1), (80, 5), (91, 6), (134, 8), (142, 39)], .vcas hdr1 { rrr0 with dst := .of 5, srcA := .of 6, ty := .i32, sub := 39#8 }),
   ([(0, 8), (4, 22), (12, 1), (80, 5), (91, 6), (134, 11), (142, 1)], .vred hdr1 { rrr0 with dst := .of 5, srcA := .of 6, ty := .n32, sub := 1#8 })] := by
  decide

theorem test_decode_vector_float : Decodes [
   ([(0, 8), (4, 24), (12, 1), (80, 5), (91, 6), (102, 7), (134, 3), (132, 3)], .vfadd hdr1 { rrr0 with dst := .of 5, srcA := .of 6, srcB := .of 7, ty := .bf16, rm := 3#2 }),
   ([(0, 8), (4, 25), (12, 1), (80, 5), (91, 6), (102, 7), (134, 3), (132, 3)], .vfsub hdr1 { rrr0 with dst := .of 5, srcA := .of 6, srcB := .of 7, ty := .bf16, rm := 3#2 }),
   ([(0, 8), (4, 26), (12, 1), (80, 5), (91, 6), (102, 7), (134, 3), (132, 3)], .vfmul hdr1 { rrr0 with dst := .of 5, srcA := .of 6, srcB := .of 7, ty := .bf16, rm := 3#2 }),
   ([(0, 8), (4, 27), (12, 1), (80, 5), (91, 6), (102, 7), (113, 8), (134, 2), (132, 1)], .vfma hdr1 { rrr0 with dst := .of 5, srcA := .of 6, srcB := .of 7, srcC := .of 8, ty := .h16, rm := 1#2 }),
   ([(0, 8), (4, 28), (12, 1), (80, 5), (91, 6), (102, 7), (134, 1)], .vfmin hdr1 { rrr0 with dst := .of 5, srcA := .of 6, srcB := .of 7, ty := .f32 }),
   ([(0, 8), (4, 29), (12, 1), (80, 5), (91, 6), (102, 7), (134, 1)], .vfmax hdr1 { rrr0 with dst := .of 5, srcA := .of 6, srcB := .of 7, ty := .f32 }),
   ([(0, 8), (4, 30), (12, 1), (80, 5), (91, 6), (102, 7), (134, 1), (142, 6)], .vfcmp hdr1 { rrr0 with dst := .of 5, srcA := .of 6, srcB := .of 7, ty := .f32, sub := 6#8 }),
   ([(0, 8), (4, 31), (12, 1), (80, 5), (91, 6), (134, 1)], .vfabs hdr1 { rrr0 with dst := .of 5, srcA := .of 6, ty := .f32 }),
   ([(0, 8), (4, 32), (12, 1), (80, 5), (91, 6), (134, 1)], .vfclass hdr1 { rrr0 with dst := .of 5, srcA := .of 6, ty := .f32 }),
   ([(0, 8), (4, 33), (12, 1), (80, 5), (91, 6), (134, 1), (132, 2)], .vexp2 hdr1 { rrr0 with dst := .of 5, srcA := .of 6, ty := .f32, rm := 2#2 }),
   ([(0, 8), (4, 34), (12, 1), (80, 5), (91, 6), (134, 1), (132, 2)], .vlog2 hdr1 { rrr0 with dst := .of 5, srcA := .of 6, ty := .f32, rm := 2#2 }),
   ([(0, 8), (4, 35), (12, 1), (80, 5), (91, 6), (134, 1), (132, 2)], .vrcp hdr1 { rrr0 with dst := .of 5, srcA := .of 6, ty := .f32, rm := 2#2 }),
   ([(0, 8), (4, 36), (12, 1), (80, 5), (91, 6), (134, 1), (132, 2)], .vrsq hdr1 { rrr0 with dst := .of 5, srcA := .of 6, ty := .f32, rm := 2#2 }),
   ([(0, 8), (4, 37), (12, 1), (80, 5), (91, 6), (134, 1), (132, 2)], .vsqrt hdr1 { rrr0 with dst := .of 5, srcA := .of 6, ty := .f32, rm := 2#2 }),
   ([(0, 8), (4, 38), (12, 1), (80, 5), (91, 6), (134, 1), (138, 6), (142, 3), (132, 1)], .vcvt hdr1 { rrr0 with dst := .of 5, srcA := .of 6, ty := .f32, ty2 := .i8, sub := 3#8, rm := 1#2 }),
   ([(0, 8), (4, 39), (12, 1), (80, 5), (91, 6), (102, 7), (134, 4), (138, 1), (142, 1)], .vquant hdr1 { rrr0 with dst := .of 5, srcA := .of 6, srcB := .of 7, ty := .bk8, ty2 := .f32, sub := 1#8 }),
   ([(0, 8), (4, 40), (12, 1), (80, 5), (91, 6), (102, 7), (134, 1), (138, 5), (142, 15)], .vdeq hdr1 { rrr0 with dst := .of 5, srcA := .of 6, srcB := .of 7, ty := .f32, ty2 := .bk4, sub := 15#8 })] := by
  decide

theorem test_decode_predicate_nop : Decodes [
   ([(0, 8), (4, 41), (12, 1), (29, 1), (80, 9), (91, 10), (102, 11)], .pand { hdr1 with group := 1#3 } { rrr0 with dst := .of 9, srcA := .of 10, srcB := .of 11 }),
   ([(0, 8), (4, 42), (12, 1), (29, 1), (80, 9), (91, 10), (102, 11)], .por { hdr1 with group := 1#3 } { rrr0 with dst := .of 9, srcA := .of 10, srcB := .of 11 }),
   ([(0, 8), (4, 43), (12, 1), (29, 1), (80, 9), (91, 10), (102, 11)], .pxor { hdr1 with group := 1#3 } { rrr0 with dst := .of 9, srcA := .of 10, srcB := .of 11 }),
   ([(0, 8), (4, 44), (12, 1), (80, 1), (91, 2)], .pnot hdr1 { rrr0 with dst := .of 1, srcA := .of 2 }),
   ([(0, 8), (4, 45), (12, 1), (80, 1), (91, 2), (130, 1), (124, 3)], .pmov hdr1 { rrr0 with dst := .of 1, srcA := .of 2, pr := ⟨false, true, 3#6⟩ }),
   ([(0, 8), (4, 45), (12, 1), (80, 1), (91, 20), (142, 1)], .pmovV hdr1 { rrr0 with dst := .of 1, srcA := .of 20, sub := 1#8 }),
   ([(0, 8), (4, 46), (12, 1), (80, 5), (91, 2)], .pcnt hdr1 { rrr0 with dst := .of 5, srcA := .of 2 }),
   ([(0, 8), (4, 47), (12, 1), (80, 1), (91, 2)], .pfirst hdr1 { rrr0 with dst := .of 1, srcA := .of 2 }),
   ([(0, 8), (4, 48), (12, 1), (80, 7), (91, 2), (142, 1)], .pany hdr1 { rrr0 with dst := .of 7, srcA := .of 2, sub := 1#8 }),
   ([(0, 8)], .nop hdr1 8#4)] := by
  decide


/-! ### The control words that the spec writes out -/

/-- A control word by its four doublewords, bits [63:0] first (R59). -/
def word4 (a b c d : Nat) : BitVec 256 := BitVec.ofNat 256 (a + b * 2 ^ 64 + c * 2 ^ 128 + d * 2 ^ 192)
abbrev Decodes4 (l : List (Nat × Nat × Nat × Nat × Instr)) : Prop := ∀ x ∈ l, decode (word4 x.1 x.2.1 x.2.2.1 x.2.2.2.1) = .ok x.2.2.2.2

/-- The examples of the instruction reference, R299 to R345. -/
theorem test_spec_words_a : Decodes4 [
   (0xFF31B0, 0x401A010010030000, 0x10000000C0, 0, .amo .plain { mem0 with data := .of 3, base := .of 2, aux := .of 4, ty := .n64, sub := 1#8, scope := 3#3, offset := 16#32 }),
   (0xFF2020, 0x8010000, 1, 0, .addi .plain { rimm0 with dst := .of 1, srcA := .of 1, imm := 1#64 }),
   (0xFF5037, 0x1000000000000, 0, 0, .bar .plain { sync0 with scope := 1#3 }),
   (0xFF8054, 0x4000028000000, 0x800000C000, 0, .bdrv .plain { en0 with sbase := .of 5, fbusy := 2#3, cycle := 3#4, len := 128#24 }),
   (0xFF4021, 0x110000, 0xFFFFFFFE, 0, .brc .plain { br0 with freg := 1#3, any := true, target := 0xFFFFFFFE#32 }),
   (0x10FF6013, 0x200030050001, 0, 0x11200011200000, .cpy { Hdr.plain with sbytes := true, sigSem := 1#8 }
      { copy0 with dbase := .of 5, sbase := .of 6, dts := true, len := 4384#24, dstride := 4384#24 }),
   (0xFF5057, 0, 0, 0, .etrig .plain sync0), (0xFF5067, 0xA800000000000000, 0x580, 0, .grab .plain { sync0 with sregA := .of 21, sregB := .of 22 }),
   (0xFF0081, 0, 0, 0, .halt .plain), (0xFF0041, 0, 0, 0, .ret .plain), (0xFF0071, 0, 0, 0, .tret .plain),
   (0xFF31A0, 0x1A000038080000, 0, 0, .st .plain { mem0 with data := .of 8, base := .of 7, ty := .n64 }),
   (0xFF4051, 0x800000, 0xFFFFFFF8, 0, .loop .plain { br0 with cnt := .of 4, target := 0xFFFFFFF8#32 }),
   (0xFF2170, 0x50000, 0x1F, 0, .movi .plain { rimm0 with dst := .of 5, imm := 0x1F#64 }),
   (0xFF7012, 0x1100028000000, 0x2000000000, 0x400040, .mlatch .plain { mx0 with bbase := .of 5, atype := .bk8, btype := .bk8, boff := 0x2000#24, k := 64#14, bstride := 64#16 }),
   (0xFF4061, 0, 0x42000000000000, 0, .trap .plain { br0 with code := 0x42#16 })] := by decide
theorem test_spec_words_b : Decodes4 [
   (0x20FF1298, 0x2C050090000, 0, 0, .pand { Hdr.plain with group := 1#3 } { rrr0 with dst := .of 9, srcA := .of 10, srcB := .of 11 }),
   (0xFF1043, 0x30000, 0x14000, 0, .sbind .plain { rrr0 with dst := .of 3, sub := 5#8 }),
   (0xFF3033, 0x70000000, 0, 0, .shape .plain { mem0 with base := .of 14 }),
   (0xFF5017, 0x40050000, 0, 0, .sig .plain { sync0 with sem := 5#8, count := 64#24 }),
   (0xFF5097, 0x1800000000000000, 0x100, 0, .tlook .plain { sync0 with sregA := .of 3, sregB := .of 4 }),
   (0xFF50B7, 0x8000000000000, 0, 0, .tdropAll .plain { sync0 with kind := 1#4 }),
   (0xFF5077, 0x1013000000000000, 0, 0, .tlbi .plain { sync0 with sregA := .of 2, kind := 2#4, scope := 3#3 }),
   (0xFF1288, 0x18028070000, 0x1040, 0, .vdeq .plain { rrr0 with dst := .of 7, srcA := .of 5, srcB := .of 6, ty := .f32, ty2 := .bk8 }),
   (0xFF11B8, 0x800C010010000, 0x40, 0, .vfma .plain { rrr0 with dst := .of 1, srcA := .of 2, srcB := .of 3, srcC := .of 4, ty := .f32 }),
   (0xFF3019, 0x16000048000000, 0, 0, .vld .plain { mem0 with base := .of 9, ty := .n32 }),
   (0xFF3029, 0x16000038020000, 0, 0, .vst .plain { mem0 with data := .of 2, base := .of 7, ty := .n32 }),
   (0xFF2148, 0x2C000090000, 0x3F800000, 0, .vmovi .plain { rimm0 with dst := .of 9, ty := .n32, imm := 0x3F800000#64 }),
   (0xFF1278, 0x80080A0000, 0x500, 0, .vquant .plain { rrr0 with dst := .of 10, srcA := .of 1, srcB := .of 2, ty := .bk8, ty2 := .f32 }),
   (0xFF1069, 0x18050000, 0, 0, .vrdq .plain { rrr0 with dst := .of 5, srcA := .of 3 }),
   (0xFF5027, 0x1120010000, 0, 0, .wsem .plain { sync0 with sem := 1#8, count := 4384#24 }),
   (0xFF1036, 0x28030000, 0x40, 0, .xred .plain { rrr0 with dst := .of 3, srcA := .of 5, ty := .f32 }),
   (0xFF8014, 0x042201C018040101, 0x2000000000, 0, .seize { Hdr.plain with sigSem := 1#8, sigInc := 1#8 }
      { en0 with dbase := .of 4, sbase := .of 3, out := .of 7, fbusy := 1#3, nch := 2#3, choices := 8#15, len := 32#24 }),
   (0xFF3049, 0x28050000, 0, 4, .vgath .plain { mem0 with data := .of 5, base := .of 5, step := 4#32 }),
   (0xFF21E0, 0x50000000, 0x101, 0, .csrw .plain { rimm0 with srcA := .of 10, imm := 0x101#64 }),
   (0xFF7022, 0x1100000050000, 0x40000000000000, 0x400000, .mmul .plain { mx0 with abase := .of 5, atype := .bk8, btype := .bk8, astride := 64#16, k := 64#14 }),
   (0xFF9015, 0x300400400000, 0, 0, .eline .plain { ev0 with vopA := .of 1, vopB := .of 2, vopC := .of 3 }),
   (0xFF9045, 0x100000, 0, 0, .einfc .plain { ev0 with esrcB := 1#2 }),
   (0xFF90B5, 0x8000000000000000, 0x0005200000000002, 0, .eload .plain { ev0 with sreg := .of 5, offset := 0x52000#32 }),
   (0x10300FF5047, 0xB000000000000, 0, 0, .fence { Hdr.plain with waitSem := 3#8, waitTh := 1#24 } { sync0 with scope := 3#3, kind := 1#4 }),
   (0x1000100FF5047, 0xC000000000000, 0, 0, .fence { Hdr.plain with waitSem := 1#8, waitTh := 256#24 } { sync0 with scope := 4#3, kind := 1#4 })] := by decide
/-! ### Words and operations that R76 refuses -/

/-- R76, causes 0x01 to 0x05: a reserved bit, CLASS, FORMAT, OPCODE, and a format that is not the opcode's; the lowest cause is the one given. -/
theorem test_refused_words : decode (wordOf [(16, 0xFF), (26, 1)]) = .error 1 ∧ decode (wordOf [(0, 0xF), (12, 0xF)]) = .error 2 ∧
    decode (wordOf [(12, 0xF), (4, 9)]) = .error 3 ∧ decode (wordOf [(4, 0x16), (12, 3)]) = .error 4 ∧
    decode (wordOf [(0, 7), (4, 0x0C), (12, 5)]) = .error 5 := by decide

/-- Causes 0x06 to 0x09, SBYTES and semaphore 0: an operation for each that is not well formed. -/
theorem test_ill_formed : ∀ i ∈ [
    Instr.vadd hdr1 { rrr0 with ty := .i32, dst := .of 80, srcA := .of 81, srcB := .of 82 }, .add { hdr1 with group := 1#3 } { rrr0 with ty := .i64 },
    .add hdr1 { rrr0 with ty := .i64, dst := .of 64 }, .add hdr1 { rrr0 with ty := .i64, srcA := ⟨true, 3#10⟩ }, .add hdr1 { rrr0 with ty := .i64, sub := 1#8 },
    .mov hdr1 { rrr0 with srcB := .of 1 }, .vadd hdr1 { rrr0 with ty := .f32 }, .add hdr1 { rrr0 with ty := .rsv1 }, .add hdr1 { rrr0 with ty := .i8 },
    .cmp hdr1 { rrr0 with ty := .i64, sub := 6#8 }, .bar hdr1 { sync0 with scope := 6#3 }, .mmul hdr1 { mx0 with atype := .h16, btype := .h16 },
    .cpy hdr1 copy0, .seize hdr1 { en0 with len := 64#24, choices := 6#15, fbusy := 4#3 }, .csrr hdr1 { rimm0 with imm := 0x1000#64 },
    .add { hdr1 with sbytes := true } { rrr0 with ty := .i64 }, .nop { hdr1 with sigSem := 0#8 } 0#4, .nop { hdr1 with waitSem := 0#8 } 0#4],
    i.wf = false := by decide

/-- The pairs that share an opcode, and the places of events. -/
theorem test_ill_formed_shared : ∀ i ∈ [
    Instr.seize hdr1 { en0 with op := 1#4, choices := 4#15, nch := 1#3 }, .tdrop hdr1 { sync0 with kind := 1#4 }, .pmov hdr1 { rrr0 with sub := 1#8 },
    .yield 0#32, .bundleIterationIssue 32, .firmwareContextIssue 32 0, .exposedResultLands 1024, .scoreboardWriteLands 1024, .trapEntry 128,
    .systemFaultHandling 128, .contextRetireComplete 128, .blockingConditionClears 128, .notify 4096 0, .packetLaunch 4096],
    i.wf = false := by decide

/-! ### A state in which an operation issues -/

/-- S2 and S5 hold scratchpad addresses; S3, S4, S6 and S7 numbers; S8 to S10 addresses of an SO page, of host memory and of an RC page; S11 an address
of pod memory. -/
def ws0 : WorkSet :=
  { s := [(2, 0x00FFFF0000000100#64), (3, 7#64), (4, 0x123456789ABCDEF0#64), (5, 0x00FFFF0000002000#64), (6, 5#64), (8, 0x200040#64), (9, 0x400080#64),
          (10, 0x600000#64), (11, 0x80000000001000#64)]
    v := [(1, 0x3F800000_40000000#512), (2, 0x40400000_BF800000#512)], p := [(1, 0x5555#16)], f := 0x0A#8 }
/-- A leaf of two megabytes, readable, writable, accessed and dirty, of a kind. -/
def leaf0 (page kind pa : Nat) : TlbE := ⟨0, false, page, 21, BitVec.ofNat 64 (0x6F + pa + kind * 2 ^ 61), true⟩
/-- Column 0's context 0 is ACTIVE, and an operation in slot 3 of its bundle is tried. -/
def base : State :=
  let s := State.reset.withFetchWord 16 0
  { s with
    cd := [(0, { ws := ws0, dup := ws0, trbase := 1#64 })], cur := { col := 0, ctx := 0, slot := 3, bundle := 0x1234#64 }
    core := [(0, { l1 := [leaf0 1 0 0x200000, leaf0 2 0 (2 ^ 51), leaf0 3 1 0x400000] })]
    sockets := s.sockets ++ [8, 9, 10, 11, 12, 13, 14, 15, 16, 17].map (fun k => (k, { st := .live })), ivStacks := [0, 1, 2, 3, 4, 5, 6, 7]
    parts := [(0, { podps := 0x8000000000000000#64 })] }
/-- A header for die 0 that signals semaphore 3. -/
def hd0 : Hdr := ⟨0x01#8, 0#3, false, 0#8, 0#24, 3#8, 2#8⟩

theorem base_enabled : base.enabled hd0 = [0] := by decide
theorem only0 {P : Nat → Prop} (p : P 0) : ∀ d ∈ base.enabled hd0, P d := by
  rw [base_enabled]; intro d hd; obtain rfl := List.mem_singleton.mp hd; exact p
theorem base_some : base.enabled hd0 ≠ [] := by decide
theorem base_ready : Ready base hd0 := ⟨by decide, by decide, by decide, by decide, by decide⟩
theorem settled0 (file : RFile) (n : Nat) : Settled base 0 file n := Or.inr rfl
theorem writable0 (file : RFile) (n : Nat) : Writable base 0 file n := fun p hp => absurd (show p ∈ ([] : List Pend) from hp) List.not_mem_nil
theorem srcOk0 (pos : Nat) (file : RFile) (n : Nat) (h : (Reg.of n).isLatch = false) : SrcOk base 0 pos file (.of n) := by
  rw [SrcOk, if_neg (by simp [h])]; exact settled0 _ _
theorem prOk0 (p : Pr) : PrOk base 0 p := fun _ => settled0 _ _
theorem baseOk0 (r : Reg) : BaseOk base 0 r := fun _ => settled0 _ _

/-! ### What the statements about operations ask of a state: one that meets it -/

/-- ScalarOperations and ShiftsAndCounts: the operations are legal, and their operands settled. -/
theorem witness_ScalarOperations : Ready base hd0 ∧
    (∀ i ∈ [Instr.add, .sub, .mul, .mulh, .div, .rem, .and, .andn, .or, .xor, .shl, .shr, .sra, .min, .max], (i hd0 { rrr0 with ty := .i64, dst := .of 9, srcA := .of 3, srcB := .of 4 }).legal = true) ∧
    (Instr.rol hd0 { rrr0 with ty := .n64, dst := .of 0, srcA := .of 3, srcB := .of 4 }).legal = true ∧
    (Instr.clz hd0 { rrr0 with ty := .n64, dst := .of 9, srcA := .of 3 }).legal = true ∧ (Instr.popc hd0 { rrr0 with ty := .i32, dst := .of 9, srcA := .of 3 }).legal = true ∧
    (Instr.mov hd0 { rrr0 with dst := .of 63, srcA := .of 3 }).legal = true ∧
    (Instr.addi hd0 { rimm0 with ty := .i32, srcA := .of 3, dst := .of 9, imm := 5#64 }).legal = true ∧ (Instr.movi hd0 { rimm0 with dst := .of 9 }).legal = true ∧
    (Instr.movhi hd0 { rimm0 with srcA := .of 3, dst := .of 9 }).legal = true ∧
    (Instr.cmp hd0 { rrr0 with ty := .n64, dst := .of 7, srcA := .of 3, srcB := .of 4, sub := 5#8 }).legal = true ∧
    (Instr.sel hd0 { rrr0 with dst := .of 9, srcA := .of 3, srcB := .of 4, srcC := .of 1 }).legal = true ∧
    (∀ d ∈ base.enabled hd0, (∀ n, Settled base d .s n ∧ Writable base d .s n) ∧ ∀ n, Settled base d .f n ∧ Writable base d .f n) :=
  ⟨base_ready, by decide, by decide, by decide, by decide, by decide, by decide, by decide, by decide, by decide, by decide,
    only0 ⟨fun n => ⟨settled0 _ n, writable0 _ n⟩, fun n => ⟨settled0 _ n, writable0 _ n⟩⟩⟩

/-- What a vector operation of any number of sources asks. -/
theorem vec0 (f : FRRR) (ha : f.srcA.isLatch = false) (hb : f.srcB.isLatch = false) (hc : f.srcC.isLatch = false) (n : Nat) (file : RFile) :
    ∀ d ∈ base.enabled hd0, SrcsOk base d f n ∧ Writable base d file f.dst.n :=
  only0 ⟨⟨prOk0 _, fun _ => by rw [SrcOk, if_neg (by simp [ha])]; exact settled0 _ _, fun _ => by rw [SrcOk, if_neg (by simp [hb])]; exact settled0 _ _,
    fun _ => by rw [SrcOk, if_neg (by simp [hc])]; exact settled0 _ _⟩, writable0 _ _⟩

def vf (t : Ty) (sub : Nat) (b c : Nat) : FRRR :=
  { rrr0 with ty := t, sub := BitVec.ofNat 8 sub, dst := .of 9, srcA := .of 1, srcB := .of b, srcC := .of c, pr := ⟨false, true, 1#6⟩ }

/-- VectorInteger and ShiftsAndCounts. -/
theorem witness_VectorInteger : Ready base hd0 ∧
    (∀ i ∈ [Instr.vadd, .vsub, .vmul, .vmulh, .vmin, .vmax, .vshl, .vshr, .vsra], (i hd0 (vf .i16 0 2 0)).legal = true) ∧
    (∀ i ∈ [Instr.vand, .vor, .vxor], (i hd0 (vf .b 0 2 0)).legal = true) ∧ (Instr.vmad hd0 (vf .n64 0 2 3)).legal = true ∧
    (∀ i ∈ [Instr.vabs, .vneg, .vclz], (i hd0 (vf .i8 0 0 0)).legal = true) ∧ (Instr.vmov hd0 (vf .b 0 0 0)).legal = true ∧
    (Instr.vcmp hd0 { vf .i32 5 2 0 with dst := .of 3 }).legal = true ∧ (Instr.vsel hd0 (vf .b 0 2 1)).legal = true ∧ (Instr.vperm hd0 (vf .b 0 2 0)).legal = true ∧
    (Instr.vperm hd0 (vf .b 0x13 0 0)).legal = true ∧ (Instr.vcas hd0 (vf .i32 0x0D 0 0)).legal = true ∧
    (∀ d ∈ base.enabled hd0, SrcsOk base d (vf .i16 0 2 3) 3 ∧ Writable base d .v 9) ∧
    (∀ d ∈ base.enabled hd0, SrcsOk base d (vf .i32 5 2 0) 2 ∧ Writable base d .p 3) ∧
    (∀ d ∈ base.enabled hd0, SrcOk base d 113 .p (.of 1) ∧ PrOk base d ⟨true, true, 1#6⟩ ∧ Writable base d .v 9) :=
  ⟨base_ready, by decide, by decide, by decide, by decide, by decide, by decide, by decide, by decide, by decide, by decide,
    vec0 (vf .i16 0 2 3) rfl rfl rfl _ _, vec0 { vf .i32 5 2 0 with dst := .of 3 } rfl rfl rfl _ _, only0 ⟨srcOk0 _ _ _ rfl, prOk0 _, writable0 _ _⟩⟩

/-- VectorFloatingPoint, VectorFloatCompare, ReduceAndCrossGroup and VectorConvert. -/
theorem witness_VectorFloat : Ready base hd0 ∧
    (∀ i ∈ [Instr.vfadd, .vfsub, .vfmul, .vfmin, .vfmax], (i hd0 (vf .bf16 0 2 0)).legal = true) ∧ (Instr.vfma hd0 (vf .h16 0 2 3)).legal = true ∧
    (∀ i ∈ [Instr.vfabs, .vfclass, .vexp2, .vlog2, .vrcp, .vrsq, .vsqrt], (i hd0 (vf .f32 0 0 0)).legal = true) ∧
    (∀ n ∈ [0, 1, 2, 3, 4, 5, 6], (Instr.vfcmp hd0 { vf .f32 n 2 0 with dst := .of 3 }).legal = true) ∧
    (∀ n ∈ [0, 1, 2], (Instr.vred hd0 (vf .f32 n 0 0)).legal = true ∧ (Instr.vred hd0 (vf .n32 n 0 0)).legal = true) ∧
    (Instr.vcvt hd0 { vf .f32 3 0 0 with ty2 := .i8 }).legal = true ∧ (Instr.vdeq hd0 { vf .f32 15 2 0 with ty2 := .bk4 }).legal = true ∧
    (Instr.vquant hd0 { vf .bk8 1 2 0 with ty2 := .f32 }).legal = true ∧ (Instr.vquant hd0 { vf .bk4 0x63 0 2 with ty2 := .h16 }).legal = true ∧
    (∀ d ∈ base.enabled hd0, SrcsOk base d (vf .f32 0 2 3) 3 ∧ Writable base d .v 9) ∧
    (∀ d ∈ base.enabled hd0, SrcsOk base d (vf .f32 0 2 3) 2 ∧ Writable base d .p 3) ∧
    (∀ d ∈ base.enabled hd0, SrcOk base d 102 .v (.of 2) ∧ SrcOk base d 113 .v (.of 2)) ∧ lanesOn base 0 ⟨false, true, 1#6⟩ ≠ [] :=
  ⟨base_ready, by decide, by decide, by decide, by decide, by decide, by decide, by decide, by decide, by decide,
    vec0 (vf .f32 0 2 3) rfl rfl rfl _ _, vec0 { vf .f32 0 2 3 with dst := .of 3 } rfl rfl rfl _ _, only0 ⟨srcOk0 _ _ _ rfl, srcOk0 _ _ _ rfl⟩, by decide⟩

/-- FloatBasics: a number, a quiet and a signalling NaN of each format; VectorFloatCompare's numbers. -/
theorem witness_FloatBasics : (fmtF32.dec 0x3FC00000 = .fin false 0xC00000 (-23) ∧ 0x3FC00000 < 2 ^ fmtF32.width) ∧ (fmtF32.dec 0x7FC00000).isNan = true ∧
    (fmtF32.dec 0x7F800001).isSnan = true ∧ (fmtH16.dec 0x7E00).isNan = true ∧ (fmtH16.dec 0x7C01).isSnan = true ∧ (fmtBF16.dec 0x7FC0).isNan = true ∧
    (fmtBF16.dec 0xFF81).isSnan = true := by decide
theorem witness_VectorFloatCompare : (fval fmtF32 0x3FC00000).isSome = true ∧ (fval fmtF32 0x80000000).isSome = true ∧
    (fmtF32.dec 0xFF800000).isNan = false ∧ (fmtF32.dec 0x3FC00000).isNan = false ∧ side 0xFF800000 ≠ 0 ∧ side 0x3FC00000 = 0 ∧
    (Instr.vfcmp hd0 { vf .f32 6 2 0 with dst := .of 3 }).legal = true := by decide
/-- VectorInteger: the clause about VPERM's SUB. -/
theorem witness_VectorPermute : (Instr.vperm hd0 (vf .b 0 0 0)).legal = true ∧ (vf .b 0 0 0).srcB = .zero := by decide

/-- PredicateOperations. -/
theorem witness_PredicateOperations : Ready base hd0 ∧ (∀ n ∈ [0, 1], (Instr.pany hd0 { rrr0 with dst := .of 7, srcA := .of 2, sub := BitVec.ofNat 8 n }).legal = true) ∧
    ∀ d ∈ base.enabled hd0, PrOk base d ⟨true, true, 1#6⟩ ∧ SrcOk base d 91 .p (.of 1) ∧ SrcOk base d 102 .p (.of 2) ∧ SrcOk base d 91 .v (.of 1) ∧
      Writable base d .p 3 ∧ Writable base d .v 3 ∧ Writable base d .f 7 :=
  ⟨base_ready, by decide, only0 ⟨prOk0 _, srcOk0 _ _ _ rfl, srcOk0 _ _ _ rfl, srcOk0 _ _ _ rfl, writable0 _ _, writable0 _ _, writable0 _ _⟩⟩

theorem srcOk_latch (s : State) (d pos : Nat) (file : RFile) (r : Reg) (h : r.isLatch = true) (g : SMap.get none (s.slotD d).hold pos ≠ none) :
    SrcOk s d pos file r := by rw [SrcOk, if_pos h]; exact g

/-- A source from a latch that holds a value (R58). -/
theorem witness_latch : SrcOk { base with cd := [(0, { ws := { ws0 with slots := [(3, { hold := [(91, some 5#512)] })] } })] } 0 91 .v ⟨false, 0x3FF#10⟩ :=
  srcOk_latch _ _ _ _ _ (by decide) (by decide)

/-- ReduceAndCrossGroup. -/
theorem witness_ReduceAndCrossGroup : Ready base hd0 ∧ (Instr.xbc hd0 { rrr0 with dst := .of 100, srcA := .of 639, sub := 15#8 }).legal = true ∧
    (Instr.xred hd0 { rrr0 with ty := .f32, dst := .of 100, srcA := .of 7, sub := 2#8 }).legal = true ∧
    (∀ d ∈ base.enabled hd0, SrcsOk base d { rrr0 with dst := .of 100, srcA := .of 639 } 1 ∧ Writable base d .v 100) ∧
    ∀ d ∈ base.enabled hd0, PrOk base d .none ∧ (∀ j < 8, Settled base d .v (80 * j + 7 % 80)) ∧ Writable base d .v 100 :=
  ⟨base_ready, by decide, by decide, vec0 _ rfl rfl rfl _ _, only0 ⟨prOk0 _, fun _ _ => settled0 _ _, writable0 _ _⟩⟩

/-- CsrAccess: a CSR that is read, and numbers that are not assigned. -/
theorem witness_CsrAccess : Ready base hd0 ∧ assigned (0x050#64).toNat ∧ ¬assigned (0x0FE#64).toNat ∧ base.enabled hd0 ≠ [] ∧
    (∀ d ∈ base.enabled hd0, (∃ v, base.csrRead d base.cc0 0x050 = some v) ∧ Settled base d .s 4 ∧ Writable base d .s 9) ∧
    ∀ d ∈ base.enabled hd0, base.csrRead d base.cc0 0x0FE = none ∧ 0xFFF < (0x1000#64).toNat :=
  ⟨base_ready, by unfold assigned; decide, by unfold assigned; decide, base_some, only0 ⟨⟨_, rfl⟩, settled0 _ _, writable0 _ _⟩, only0 (by decide)⟩

def fm (t : Ty) (off : Nat) (base data aux : Nat) : FMEM := { mem0 with ty := t, offset := BitVec.ofNat 32 off, base := .of base, data := .of data, aux := .of aux }

/-- Nothing that its context has issued is still to be performed. -/
theorem base_calm : Calm base 0 :=
  ⟨fun p hp => absurd (show p ∈ ([] : List Pend) from hp) List.not_mem_nil, fun p hp => absurd (show p ∈ ([] : List RecPend) from hp) List.not_mem_nil, by decide +kernel⟩

/-- Accesses that the base registers reach: the scratchpad, an SO page, host memory, an RC page, pod memory. -/
theorem place_spad : ∀ o ∈ [(0, false), (8, true), (0x40, false), (0x48, true)], base.place 0 .sc (0x00FFFF0000000100 + o.1) true o.2 = (.ok (2 ^ 52 + 0x100 + o.1) 1 8, base) := by decide +kernel
theorem place_pages : base.place 0 .sc 0x200040 true true = (.ok 0x200040 0 118, base) ∧ base.place 0 .sc 0x400080 true true = (.ok (2 ^ 51 + 0x80) 0 20, base) ∧
    base.place 0 .sc 0x600000 true true = (.ok 0x400000 1 126, base) ∧ base.place 0 .sc 0x80000000001000 true true = (.pod 0 0x1000, base) := by decide +kernel

theorem at0 {va : Nat} {rd wr : Bool} {t : Tr} (h : base.place 0 .sc va rd wr = (t, base)) : At base 0 va rd wr t := h

/-- ScalarLoad: a load from the scratchpad, and one from pod memory. -/
theorem witness_ScalarLoad : Ready base hd0 ∧
    (∀ d ∈ base.enabled hd0, BaseOk base d (.of 2) ∧ Writable base d .s 9 ∧ Reaches base d (memAt base d (fm .i16 8 2 9 0)) (bytesOf .i16) true false (.ok (2 ^ 52 + 0x108) 1 8) ∧
      ∀ loc kind lat, Tr.ok (2 ^ 52 + 0x108) 1 8 = .ok loc kind lat → base.readPoisoned (base.ctxD d).blot loc (bytesOf .i16) = false) ∧
    (∀ d ∈ base.enabled hd0, BaseOk base d (.of 11) ∧ Writable base d .s 9 ∧ Reaches base d (memAt base d (fm .n64 0 11 9 0)) (bytesOf .n64) true false (.pod 0 0x1000)) :=
  ⟨base_ready, only0 ⟨baseOk0 _, writable0 _ _, ⟨by decide +kernel, at0 (by decide +kernel), base_calm, by show base.spadHeld _ _ _ = false; decide +kernel⟩, by rintro _ _ _ ⟨⟩; decide +kernel⟩,
    only0 ⟨baseOk0 _, writable0 _ _, by decide +kernel, at0 (by decide +kernel), base_calm, by show base.podFault _ _ _ = none; decide +kernel⟩⟩

/-- ScalarStore: stores to the scratchpad, to an SO page, to host memory and to pod memory. -/
theorem witness_ScalarStore : Ready base hd0 ∧ (∀ d ∈ base.enabled hd0, (base.ctxD d).blot.length < 128) ∧
    (∀ d ∈ base.enabled hd0, BaseOk base d (.of 2) ∧ Settled base d .s 4 ∧ Reaches base d (memAt base d (fm .n64 8 2 4 0)) (bytesOf .n64) false true (.ok (2 ^ 52 + 0x108) 1 8)) ∧
    (∀ d ∈ base.enabled hd0, BaseOk base d (.of 8) ∧ Settled base d .s 4 ∧ Reaches base d (memAt base d (fm .n64 0 8 4 0)) (bytesOf .n64) false true (.ok 0x200040 0 118)) ∧
    (∀ d ∈ base.enabled hd0, BaseOk base d (.of 9) ∧ Settled base d .s 4 ∧ Reaches base d (memAt base d (fm .n64 0 9 4 0)) (bytesOf .n64) false true (.ok (2 ^ 51 + 0x80) 0 20)) ∧
    (∀ d ∈ base.enabled hd0, BaseOk base d (.of 11) ∧ Settled base d .s 4 ∧ Reaches base d (memAt base d (fm .n64 0 11 4 0)) (bytesOf .n64) false true (.pod 0 0x1000)) :=
  ⟨base_ready, only0 (by decide +kernel), only0 ⟨baseOk0 _, settled0 _ _, by decide +kernel, at0 (by decide +kernel), base_calm, by show base.spadHeld _ _ _ = false; decide +kernel⟩,
    only0 ⟨baseOk0 _, settled0 _ _, by decide +kernel, at0 (by decide +kernel), base_calm, by show base.spadHeld _ _ _ = false; decide +kernel⟩,
    only0 ⟨baseOk0 _, settled0 _ _, by decide +kernel, at0 (by decide +kernel), base_calm, by show base.spadHeld _ _ _ = false; decide +kernel⟩,
    only0 ⟨baseOk0 _, settled0 _ _, by decide +kernel, at0 (by decide +kernel), base_calm, by show base.podFault _ _ _ = none; decide +kernel⟩⟩

/-- Atomics: AMO and ACAS in the scratchpad, with a fence of the whole package, and an exchange in host memory. -/
theorem witness_Atomics : Ready base hd0 ∧
    (∀ d ∈ base.enabled hd0, BaseOk base d (.of 2) ∧ Settled base d .s 3 ∧ Settled base d .s 4 ∧ Writable base d .s 4 ∧
      Reaches base d (memAt base d (fm .n64 0x40 2 4 3)) (bytesOf .n64) true true (.ok (2 ^ 52 + 0x140) 1 8) ∧
      ∀ loc kind lat, Tr.ok (2 ^ 52 + 0x140) 1 8 = .ok loc kind lat → base.poisoned loc 8 = false ∧ (isHost loc = true → (0x83#8).toNat % 64 = 0)) ∧
    (∀ d ∈ base.enabled hd0, BaseOk base d (.of 9) ∧ Settled base d .s 3 ∧ Writable base d .s 4 ∧
      Reaches base d (memAt base d (fm .i32 0 9 4 3)) (bytesOf .i32) true true (.ok (2 ^ 51 + 0x80) 0 20) ∧ base.poisoned (2 ^ 51 + 0x80) 4 = false ∧ (1#8).toNat % 64 = 1) :=
  ⟨base_ready, only0 ⟨baseOk0 _, settled0 _ _, settled0 _ _, writable0 _ _, ⟨by decide +kernel, at0 (by decide +kernel), base_calm, by show base.spadHeld _ _ _ = false; decide +kernel⟩,
      by rintro _ _ _ ⟨⟩; exact ⟨by decide +kernel, fun h => absurd h (by decide)⟩⟩,
    only0 ⟨baseOk0 _, settled0 _ _, writable0 _ _, ⟨by decide +kernel, at0 (by decide +kernel), base_calm, by show base.spadHeld _ _ _ = false; decide +kernel⟩, by decide +kernel, by decide⟩⟩

/-- BytesStored: a blotter of distinct lines, and data within a line. -/
theorem witness_BytesStored : let bl : List Blot := [⟨0x40, 0x40, 1#64, 5#512⟩, ⟨0x80, 0x80, 1#64, 5#512⟩]
    (∀ b ∈ bl, b.loc % 64 = 0) ∧ (bl.map (·.loc)).Nodup ∧ 0x48 % 64 + [1#8, 2#8].length ≤ 64 ∧ [1#8, 2#8] ≠ [] ∧
    64 * 1 + 64 ≤ 0x20 + (List.replicate 0x70 0#8).length ∧ 0x20 ≤ 64 * 1 := by decide

/-- VectorMemory: the lanes of VLD, VLDS and VGATH at S2, and of VST and VSCAT. -/
theorem witness_VectorMemory : Ready base hd0 ∧ (∀ d ∈ base.enabled hd0, LaneOps base d (fm .f32 0x40 2 9 3) .stride ∧ LaneOps base d (fm .f32 0x40 2 9 1) .index ∧
      LaneOps base d (fm .f32 0x40 2 9 0) .near ∧ Writable base d .v 9 ∧ SrcOk base d 80 .v (.of 1)) ∧
    (∀ d ∈ base.enabled hd0, LanesIn base d (fm .f32 0x40 2 9 0) .near ∧ PortsOk base d (fm .f32 0x40 2 9 0) .near ∧ BanksFree base d (fm .f32 0x40 2 9 0) .near true) ∧
    (∀ d ∈ base.enabled hd0, LanesIn base d { fm .f32 0x40 2 9 6 with pr := ⟨false, true, 1#6⟩, aux := .of 0 } .stride ∧ PortsOk base d { fm .f32 0x40 2 9 6 with pr := ⟨false, true, 1#6⟩, aux := .of 0 } .stride) ∧
    (∀ d ∈ base.enabled hd0, lanesOn base d ⟨true, true, 1#6⟩ ≠ [] ∧ LanesIn base d (fm .n32 0x40 2 9 7) .index ∧ PortsOk base d (fm .n32 0x40 2 9 7) .index ∧ BanksFree base d (fm .n32 0x40 2 9 7) .index true) ∧
    (∀ d ∈ base.enabled hd0, ∀ n ∈ lanesOn base d .none, base.readPoisoned (base.ctxD d).blot (spadPlace base d (laneAt base d (fm .f32 0x40 2 9 0) .near n)) 4 = false) ∧
    (∀ d ∈ base.enabled hd0, ((lanesOn base d .none).foldl (fun bl n => withholdAll bl (laneAt base d (fm .f32 0x40 2 1 0) .near n)
      (spadPlace base d (laneAt base d (fm .f32 0x40 2 1 0) .near n)) (leBytes 4 (elem 32 (src base d 80 .v (.of 1)) n).toNat)) (base.ctxD d).blot).length ≤ 128) :=
  ⟨base_ready, only0 ⟨⟨prOk0 _, baseOk0 _, fun _ => settled0 _ _, nofun⟩, ⟨prOk0 _, baseOk0 _, nofun, fun _ => srcOk0 _ _ _ rfl⟩, ⟨prOk0 _, baseOk0 _, nofun, nofun⟩,
      writable0 _ _, srcOk0 _ _ _ rfl⟩,
    only0 (by unfold LanesIn PortsOk BanksFree; decide +kernel), only0 (by unfold LanesIn PortsOk; decide +kernel),
    only0 (by unfold LanesIn PortsOk BanksFree; decide +kernel), only0 (by decide +kernel), only0 (by decide +kernel)⟩

/-- `base` with another context state; what the operations' statements ask holds there as well. -/
def baseCc (f : ColCtx → ColCtx) : State := base.updCc 0 f
/-- `base` with a kernel of two reels, and its context at bundle 2 of the first. -/
def baseK : State :=
  { baseCc (fun c => { c with cs := { c.cs with pc := ⟨0, 2⟩ } }) with
    launches := base.launches.map fun l => (l.1, { l.2 with kernel := { l.2.kernel with reels := [(0, 8), (64, 5)], nreel := 2 } }) }
def kern2 : Kernel := { placedKernel [] with reels := [(0, 8), (64, 5)], nreel := 2 }
theorem baseK_ready : Ready baseK hd0 := ⟨by decide, by decide, by decide, by decide, by decide⟩
theorem baseK_only {P : Nat → Prop} (p : P 0) : ∀ d ∈ baseK.enabled hd0, P d := by
  rw [show baseK.enabled hd0 = [0] by decide]; intro d hd; obtain rfl := List.mem_singleton.mp hd; exact p
theorem baseK_settled (file : RFile) (n : Nat) : Settled baseK 0 file n := Or.inr rfl
theorem baseK_writable (file : RFile) (n : Nat) : Writable baseK 0 file n := fun p hp => absurd (show p ∈ ([] : List Pend) from hp) List.not_mem_nil

/-- StreamRead: a stream with elements, the second poisoned; and an empty one. -/
theorem witness_StreamRead : let s : State := { base with cd := [(0, { ws := ws0, q := [(2, { elems := [(77#512, true), (5#512, false)] })] })] }
    Ready s hd0 ∧ (∀ d ∈ s.enabled hd0, PrOk s d ⟨false, true, 1#6⟩ ∧ Writable s d .v 9) ∧ (∀ d ∈ s.enabled hd0, (SMap.get {} (s.ctxD d).q 2).elems ≠ []) ∧
    ∃ d ∈ s.enabled hd0, (SMap.get {} (s.ctxD d).q 3).elems = [] :=
  ⟨⟨by decide, by decide, by decide, by decide, by decide⟩, by unfold PrOk Settled Writable; decide, by decide, by decide⟩

/-- Branches: a target inside the reel, one before it and one behind it; operands settled. -/
theorem witness_Branches : Ready baseK hd0 ∧ baseK.enabled hd0 ≠ [] ∧ Target baseK { br0 with target := 4#32 } kern2 ⟨0, 6⟩ ∧
    NoTarget baseK { br0 with target := 6#32 } kern2 ∧ NoTarget baseK { br0 with target := 0xFFFFFFFD#32 } kern2 ∧
    ∀ d ∈ baseK.enabled hd0, Settled baseK d .f 1 ∧ Settled baseK d .s 6 ∧ Writable baseK d .s 6 :=
  ⟨baseK_ready, by decide, by unfold Target; decide, by unfold NoTarget; decide, by unfold NoTarget; decide,
    baseK_only ⟨baseK_settled _ _, baseK_settled _ _, baseK_writable _ _⟩⟩

/-- CallsAndReels: an empty stack, one that holds a place, a full one; a reel that exists and one that does not. -/
theorem witness_CallsAndReels : Ready baseK hd0 ∧ baseK.enabled hd0 ≠ [] ∧ baseK.kernelOf baseK.cc0 = some kern2 ∧ (baseK.getCc baseK.cc0).cs.call = [] ∧
    Target baseK { br0 with target := 4#32 } kern2 ⟨0, 6⟩ ∧ (1#16).toNat < kern2.reels.length ∧ kern2.reels.length ≤ (2#16).toNat ∧ (0 : Int) ≤ (4#32).toInt ∧ (0xFFFFFFFF#32).toInt < 0 ∧
    ∀ n ∈ [1, 8], let s := baseK.updCc 0 fun c => { c with cs := { c.cs with call := List.replicate n (⟨1, 3⟩, 0) } }
      (s.getCol 0).queue = some 0 ∧ (s.getCc s.cc0).st = .active ∧ s.kernelOf s.cc0 = some kern2 ∧ s.enabled hd0 = [0] ∧ (s.getCc s.cc0).cs.call = List.replicate n (⟨1, 3⟩, 0) :=
  ⟨baseK_ready, by decide, by decide, by decide, by unfold Target; decide, by decide, by decide, by decide, by decide, by decide⟩

/-- TrapAndReturn: outside a handler and in one. -/
theorem witness_TrapAndReturn : Ready base hd0 ∧ base.enabled hd0 ≠ [] ∧ (base.getCc base.cc0).inh = false ∧
    (let s := baseCc fun c => { c with inh := true }
     Ready s hd0 ∧ s.enabled hd0 ≠ [] ∧ (s.getCc s.cc0).inh = true) :=
  ⟨base_ready, base_some, by decide, ⟨by decide, by decide, by decide, by decide, by decide⟩, by decide, by decide⟩

/-- HaltAndBarrier and NopAndMarks. -/
theorem witness_HaltAndBarrier : Ready base hd0 ∧ base.enabled hd0 ≠ [] ∧ Running base ∧ ∀ d ∈ base.enabled hd0, Calm base d :=
  ⟨base_ready, base_some, ⟨by decide, by decide, by decide, by decide⟩, only0 base_calm⟩

/-- SemaphoresFencesGrab: WSEM with its count and without; no posted write outstanding; operands settled. -/
theorem witness_SemaphoresFencesGrab : Ready base hd0 ∧ (∀ d ∈ base.enabled hd0, (0#24).toNat ≤ (base.coreD d).semCount 9) ∧
    (∃ d ∈ base.enabled hd0, (base.coreD d).semCount 9 < (5#24).toNat) ∧ (∀ d ∈ base.enabled hd0, ∀ b ∈ [true, false], base.unacked (base.ck0 d) b = []) ∧ flushScope 4 = true ∧
    ∀ d ∈ base.enabled hd0, Writable base d .s 1 ∧ Writable base d .s 2 :=
  ⟨base_ready, by decide, by decide, by decide, by decide, only0 ⟨writable0 _ _, writable0 _ _⟩⟩

/-- TlbInvalidate: a hardware context, and the firmware context of column 0. -/
theorem witness_TlbInvalidate : (Ready base hd0 ∧ base.enabled hd0 ≠ []) ∧
    (let s := { base with cur := { base.cur with ctx := 4 } }
     FwReady s hd0 ∧ s.enabled hd0 = [0] ∧ ∀ d ∈ s.enabled hd0, Settled s d .s 1) :=
  ⟨⟨base_ready, base_some⟩, ⟨by decide, by decide, by decide, by decide⟩, by decide, by unfold Settled; decide⟩

/-- ControlWordLoad: a source in the scratchpad with a word that decodes (a NOP), and one whose word fails. -/
def cwBase (x : Nat) : State := base.store (2 ^ 52 + 0x100) (leBytes 32 x)
theorem witness_ControlWordLoad : ∀ x ∈ [0xFF0000, 0xA], (cwBase x).enabled hd0 = [0] ∧ ((cwBase x).getCc (cwBase x).cc0).st = .active ∧
    (cwBase x).blotCount (cwBase x).cc0 ≤ 128 ∧ (cwBase x).cur = base.cur ∧ sreg (cwBase x) 0 (.of 2) % 32 = 0 ∧ ((cwBase x).ctxD 0).inFlight (cwBase x).clock .s 2 = [] ∧
    (let r := (cwBase x).cwSource 0 1 (sreg (cwBase x) 0 (.of 2)) (32 * 1)
     r.1 = leBytes 32 x ∧ r.2.1 = 8 ∧ r.2.2.1 = none ∧ r.2.2.2.1 = none ∧ r.2.2.2.2 = cwBase x) ∧
    (match checkWords 5 1 (leBytes 32 x) with
      | .ok is => decide (x = 0xFF0000 ∧ is = [.nop .plain 0#4])
      | .error e => decide (x = 0xA ∧ e = (5, 2))) = true := by decide +kernel

/-- Words that a CWLD has loaded, before and at its end. -/
theorem witness_ControlWordLoad_done : ∀ h ∈ [0, 5], let s := baseCc fun c => { c with cwLoad := some (3, [.nop .plain 0#4]), holdUntil := h }
    (s.getCc 0).cwLoad = some (3, [.nop .plain 0#4]) ∧ (s.clock < (s.getCc 0).holdUntil ↔ h = 5) := by decide +kernel

/-- TagTableOperations. -/
theorem witness_TagTableOperations : Ready base hd0 ∧ ∀ d ∈ base.enabled hd0, Settled base d .s 4 ∧ Settled base d .s 3 ∧ Writable base d .s 3 :=
  ⟨base_ready, only0 ⟨settled0 _ _, settled0 _ _, writable0 _ _⟩⟩

theorem ready_of (s : State) (hd : Hdr) (h : s.cur.col < 32 ∧ s.cur.ctx < 4 ∧ (s.getCc s.cc0).st = .active ∧
    (∀ d ∈ s.enabled hd, hd.waitTh.toNat ≤ (s.coreD d).semCount hd.waitSem.toNat) ∧ s.blotCount s.cc0 ≤ 128) : Ready s hd :=
  ⟨h.1, h.2.1, h.2.2.1, h.2.2.2.1, h.2.2.2.2⟩

/-- `base` with core 0 of die 0, and its context there, changed. -/
def baseOn (f : Core → Core) (g : CtxDie → CtxDie) : State := (base.updCore 0 f).updCd 0 g
def fcopy (len : Nat) : FCOPY := { copy0 with len := BitVec.ofNat 24 len, ch := 1#2, sbase := .of 2, dbase := .of 5 }
def cmd0 (op : Instr) : CopyCmd :=
  { uid := 7, ident := 1, ck := 0, op := op, bundle := 0#64, daddr := 0x00FFFF0000002000#64, saddr := 0x00FFFF0000000100#64, sty := .b, dty := .b, n := 64, qctl := 0x13#32,
    sh := 0#256, stream := 0, sbytes := false, sigSem := 3, sigInc := 1, fp := [] }
/-- Channel 1 full. -/
def fullCh (lenient : Nat) : State :=
  baseOn (fun c => { c with ch := [(1, { q := List.replicate 16 (cmd0 (.cpy hd0 (fcopy 64))) })] }) (fun c => { c with ws := { c.ws with cpctl := BitVec.ofNat 32 lenient } })

theorem copyOps0 (f : FCOPY) (k : CopyKind) : CopyOps base 0 f k :=
  ⟨fun _ => baseOk0 _, baseOk0 _, fun _ r hr => absurd (show r ∈ ([] : List RecPend) from hr) List.not_mem_nil⟩
def fchk : FCOPY := { fcopy 64 with tchk := true }
def fgath : FCOPY := { fcopy 0 with gath := true, shen := true }
/-- CopyIssue: a copy that is queued, a check and a gather that are refused. -/
theorem witness_CopyIssue : Ready base hd0 ∧ ∀ d ∈ base.enabled hd0, (CopyOps base d (fcopy 64) .plain ∧ RefusedWith (copyEnds base d (fcopy 64) .plain) 0 ∧ CopyRoom base d 1) ∧
    (CopyOps base d fchk .check ∧ RefusedWith (copyEnds base d fchk .check) 4) ∧ (CopyOps base d fgath .gather ∧ RefusedWith (copyEnds base d fgath .gather) 5) :=
  ⟨base_ready, only0 ⟨⟨copyOps0 _ _, by unfold RefusedWith; decide +kernel, by unfold CopyRoom; decide +kernel⟩,
    ⟨copyOps0 _ _, by unfold RefusedWith; decide +kernel⟩, copyOps0 _ _, by unfold RefusedWith; decide +kernel⟩⟩
/-- A full channel, strict and lenient. -/
theorem full_ready : Ready (fullCh 0) hd0 ∧ Ready (fullCh 1) hd0 := ⟨ready_of _ _ (by decide +kernel), ready_of _ _ (by decide +kernel)⟩
theorem full_ops : ∀ v ∈ [0, 1], (fullCh v).enabled hd0 = [0] ∧ (copyEnds (fullCh v) 0 (fcopy 64) .plain).refusal = none ∧
    16 ≤ (SMap.get {} ((fullCh v).coreD 0).ch 1).q.length ∧ ((fullCh v).coreD 0).track.length < 64 ∧ ((fullCh v).ctxD 0).ws.cpctl.getLsbD 0 = (v == 1) := by decide +kernel
theorem full_copyOps : ∀ v ∈ [0, 1], ((fullCh v).ctxD 0).pend = [] ∧ ((fullCh v).ctxD 0).recs = [] := by decide +kernel

/-- SparseAndRecords: SPXGO in mode 1, aligned and not, and records at aligned and misaligned addresses, one in pod memory. -/
theorem witness_SparseAndRecords : Ready base hd0 ∧ base.enabled hd0 ≠ [] ∧ (∀ d ∈ base.enabled hd0, BaseOk base d (.of 2) ∧ base.spxPending (coreKey d base.cur.col) = false ∧ CopyRoom base d 1) ∧
    (let s := baseOn (fun c => { c with spxMode := 1 }) id
     Ready s hd0 ∧ ∀ d ∈ s.enabled hd0, (s.coreD d).spxMode = 1 ∧ sreg s d (.of 2) % 4 = 0 ∧ s.spxPending (coreKey d s.cur.col) = false ∧ Settled s d .s 2) ∧
    (∀ d ∈ base.enabled hd0, Reaches base d (memAt base d (fm .b 0x40 2 0 0)) 32 true false (.ok (2 ^ 52 + 0x140) 1 8) ∧
      base.readPoisoned (base.ctxD d).blot (2 ^ 52 + 0x140) 32 = false ∧ memAt base d (fm .b 0x44 2 0 0) % 32 ≠ 0) ∧
    (∀ d ∈ base.enabled hd0, Reaches base d (memAt base d (fm .b 0 11 0 0)) 32 true false (.pod 0 0x1000)) :=
  ⟨base_ready, base_some, only0 ⟨baseOk0 _, by decide +kernel, by unfold CopyRoom; decide +kernel⟩, ⟨ready_of _ _ (by decide +kernel), by unfold Settled; decide +kernel⟩,
    only0 ⟨⟨by decide +kernel, at0 (by decide +kernel), base_calm, by show base.spadHeld _ _ _ = false; decide +kernel⟩, by decide +kernel, by decide +kernel⟩,
    only0 ⟨by decide +kernel, at0 (by decide +kernel), base_calm, by show base.podFault _ _ _ = none; decide +kernel⟩⟩

/-- BindAndDrainChannels: a channel with two commands of the context, one of which has begun. -/
theorem witness_BindAndDrainChannels : let s := baseOn (fun c => { c with ch := [(1, { q := [{ cmd0 .splice with started := some 0 }, { cmd0 .splice with uid := 8 }] })] }) id
    Ready s hd0 ∧ (∀ d ∈ s.enabled hd0, Writable s d .s 9) ∧ (notBegun s (coreKey 0 0) 0 1).map (·.uid) = [8] :=
  ⟨ready_of _ _ (by decide +kernel), by unfold Writable; decide +kernel, by decide +kernel⟩

def fmx (t : Ty) : FMX :=
  { mx0 with k := 64#14, astride := 128#16, bstride := 128#16, atype := t, btype := t, acc := 1#2, latch := 2#2, bbase := .of 2, abase := .of 5 }
/-- A latch that an MLATCH of 64 rows has loaded. -/
def latched : State := baseOn id fun c => { c with lIss := [(2, (.h16, 64))] }
/-- MatrixCommands: commands that are queued, and an MMUL whose latch was loaded with another type. -/
theorem witness_MatrixCommands : Ready latched hd0 ∧ latched.enabled hd0 ≠ [] ∧
    (∀ d ∈ latched.enabled hd0, BaseOk latched d (.of 5) ∧ BaseOk latched d (.of 2) ∧ (latched.coreD d).mxq.length < 4 ∧ (latched.coreD d).track.length < 64 ∧
      (SMap.get {} (latched.ctxD d).acc 1).busy = none ∧
      (∀ x ∈ [(Instr.mlatch, .h16), (.mmul, .h16), (.mtile, .h16), (.mzero, .f32)], (mxCmd latched hd0 (x.1 hd0 (fmx x.2)) (fmx x.2) d).illegal (.h16, 64) = false) ∧
      (mxCmd latched hd0 (.mret hd0 { fmx .f32 with astride := 256#16 }) { fmx .f32 with astride := 256#16 } d).illegal (.h16, 64) = false ∧
      (mxCmd latched hd0 (.mmul hd0 (fmx .bf16)) (fmx .bf16) d).illegal (.h16, 64) = true) ∧
    ∀ d ∈ latched.enabled hd0, SMap.get (.b, 0) (latched.ctxD d).lIss 2 = (.h16, 64) :=
  ⟨ready_of _ _ (by decide +kernel), by decide +kernel, by unfold BaseOk Settled; decide +kernel, by decide +kernel⟩

def fen (nch choices : Nat) : FEN :=
  { en0 with len := 64#24, nch := BitVec.ofNat 3 nch, choices := BitVec.ofNat 15 choices, fbusy := 4#3, out := .of 12, sbase := .of 2, dbase := .of 5 }
/-- SeizeRequests: a route through engine 2, and the direct one. -/
theorem witness_SeizeRequests : Ready base hd0 ∧ ∀ d ∈ base.enabled hd0, Settled base d .s 12 ∧ Writable base d .s 12 ∧ Writable base d .f 4 ∧ BaseOk base d (.of 5) ∧ BaseOk base d (.of 2) ∧
    tryChoice base d (fen 1 2) = 2 ∧ EndsOk base d (fen 1 2) 2 ∧ tryChoice base d (fen 0 0) = 7 ∧ EndsOk base d (fen 0 0) 7 ∧ (base.coreD d).direct.length < 16 :=
  ⟨base_ready, only0 ⟨settled0 _ _, writable0 _ _, writable0 _ _, baseOk0 _, baseOk0 _, by decide +kernel, by unfold EndsOk; decide +kernel, by decide +kernel,
    by unfold EndsOk; decide +kernel, by decide +kernel⟩⟩

/-- S12 holds a handle; circuit 1 of engine 2 is held by the context. -/
def held (handle : Nat) : State :=
  (baseOn id fun c => { c with ws := { c.ws with s := [(2, 0x00FFFF0000000100#64), (5, 0x00FFFF0000002000#64), (12, BitVec.ofNat 64 handle)] } }).updEng (engKey 0 0 2)
    fun e => { e with circ := [(1, some ⟨0, [], none, none⟩)] }
/-- HeldCircuits: a circuit that is held, one that is not, and the direct path. -/
theorem witness_HeldCircuits : (∀ x ∈ [0x1200, 0x0200, 0x0700], Ready (held x) hd0 ∧ ∀ d ∈ (held x).enabled hd0, Settled (held x) d .s 12 ∧ Writable (held x) d .f 4 ∧
      BaseOk (held x) d (.of 5) ∧ BaseOk (held x) d (.of 2) ∧ EndsOk (held x) d (fen 0 0) (x / 256 % 16) ∧ sreg (held x) d (.of 12) / 2 ^ 8 % 2 ^ 8 = x / 256) ∧
    ((held 0x1200).heldCirc 0 ((held 0x1200).ck0 0) 0x12).map (·.xs.length) = some 0 ∧ (held 0x0200).heldCirc 0 ((held 0x0200).ck0 0) 2 = none ∧
    ((held 0x0700).coreD 0).direct.length < 16 :=
  ⟨fun x hx => ⟨ready_of _ _ (by revert x; decide +kernel), by unfold Settled Writable BaseOk EndsOk Settled; revert x; decide +kernel⟩, by decide +kernel, by decide +kernel, by decide +kernel⟩

/-- A header for every die. -/
def hdA : Hdr := { hd0 with dm := 0xFF#8 }
/-- `base` with the registers of its context on every die. -/
def baseAll : State := { base with cd := allDies.map fun d => (ctxKey d 0 0, { ws := ws0, trbase := 1#64 }) }
def fcoll (nch choices : Nat) : FEN := { fen nch choices with op := 1#4, ty := .f32 }
/-- Collective: for every die by an engine and by the direct path; for die 0 alone; and with a receive need beyond the buffer. -/
theorem witness_Collective : Ready baseAll hdA ∧ baseAll.enabled hdA ≠ [] ∧ (baseAll.ctxLaunch baseAll.cc0).isSome = true ∧ Ready base hd0 ∧ ¬(∀ d ∈ allDies, base.onDie d = true → hd0.dm.getLsbD d = true) ∧
    (∀ d ∈ baseAll.enabled hdA, Settled baseAll d .s 12 ∧ Writable baseAll d .s 12 ∧ Writable baseAll d .f 4 ∧ BaseOk baseAll d (.of 5) ∧ BaseOk baseAll d (.of 2) ∧
      tryChoice baseAll d (fcoll 1 2) = 2 ∧ EndsOk baseAll d (fcoll 1 2) 2 ∧ tryChoice baseAll d (fcoll 0 0) = 7 ∧ EndsOk baseAll d (fcoll 0 0) 7 ∧
      (baseAll.coreD d).direct.length < 16 ∧ (baseAll.coreD d).staging = none) ∧
    ∀ l ∈ baseAll.launches, baseAll.collM l.2 = 8 ∧ (∀ d ∈ baseAll.enabled hdA, collNeed 1 8 (baseAll.collRank l.2 0 0 d) 64 ≤ 2 ^ 19) ∧ ∀ r < 8, 2 ^ 19 < collNeed 1 8 r (2 ^ 20) :=
  ⟨ready_of _ _ (by decide +kernel), by decide +kernel, by decide +kernel, base_ready, by decide +kernel, by unfold Settled Writable BaseOk EndsOk Settled; decide +kernel, by decide +kernel⟩

/-- A quad-synchronous launch. -/
def baseQ : State := { base with launches := base.launches.map fun l => (l.1, { l.2 with qsync := true }) }
/-- SlateBusOperations: at the stated cycle, with a source in one row of a bank, and at another. -/
theorem witness_SlateBusOperations : Ready baseQ hd0 ∧ baseQ.enabled hd0 ≠ [] ∧ ∀ d ∈ baseQ.enabled hd0,
    ((baseQ.ctxLaunch baseQ.cc0).map (·.qsync) = some true ∧ (baseQ.getQuad (quadKey d baseQ.cur.col)).cycle = 0) ∧ (baseQ.getQuad (quadKey d baseQ.cur.col)).cycle ≠ 3 ∧
    (spadBase ≤ sreg baseQ d (.of 2) ∧ sreg baseQ d (.of 2) + 64 ≤ spadBase + 2 ^ 21) ∧ (spadBase ≤ sreg baseQ d (.of 5) ∧ sreg baseQ d (.of 5) + 64 ≤ spadBase + 2 ^ 21) ∧
    BaseOk baseQ d (.of 2) ∧ BaseOk baseQ d (.of 5) ∧ Writable baseQ d .f 4 ∧ BytesFree baseQ d (sreg baseQ d (.of 2)) 64 false ∧ BytesFree baseQ d (sreg baseQ d (.of 5)) 64 true ∧ ∀ i < 64, (sreg baseQ d (.of 2) - spadBase + i) / 64 = (sreg baseQ d (.of 2) - spadBase) / 64 :=
  ⟨ready_of _ _ (by decide +kernel), by decide +kernel, by unfold Writable BaseOk Settled BytesFree; decide +kernel⟩

theorem evFree0 (i : Instr) : EvFree base 0 i := fun e he => absurd (show e ∈ ([] : List EvOp) from he) List.not_mem_nil
/-- EnvelopeOperations: the unit's queue is free, sources settled, an image aligned and one misaligned. -/
theorem witness_EnvelopeOperations : Ready base hd0 ∧ base.enabled hd0 ≠ [] ∧ ∀ d ∈ base.enabled hd0, EvFree base d (.emax hd0 { ev0 with edst := 1#2 }) ∧ EvFree base d (.eline hd0 { ev0 with edst := 1#2 }) ∧
    EvFree base d (.eclr hd0 ev0) ∧ EvFree base d (.esave hd0 ev0) ∧ EvFree base d (.eeval hd0 ev0) ∧ EvFree base d (.ebrk hd0 ev0) ∧ EvRoom base d ∧ PrOk base d ⟨false, true, 1#6⟩ ∧
    SrcOk base d 86 .v (.of 1) ∧ SrcOk base d 97 .v (.of 2) ∧ SrcOk base d 108 .v (.of 1) ∧ Settled base d .s 6 ∧ BaseOk base d (.of 2) ∧ addrOf base d 127 (.of 2) 0 0 % 16 = 0 ∧
    addrOf base d 127 (.of 6) 0 0 % 16 ≠ 0 ∧ Writable base d .v 9 ∧ Writable base d .v 10 :=
  ⟨base_ready, base_some, only0 ⟨evFree0 _, evFree0 _, evFree0 _, evFree0 _, evFree0 _, evFree0 _, by unfold EvRoom; decide +kernel, prOk0 _, srcOk0 _ _ _ rfl, srcOk0 _ _ _ rfl, srcOk0 _ _ _ rfl, settled0 _ _,
    baseOk0 _, by decide +kernel, by decide +kernel, writable0 _ _, writable0 _ _⟩⟩

/-- `base` with every column in its partition. -/
def part0 : State := { base with parts := [(0, { cols := 0xFFFFFFFF#32 })] }

/-- Two results that are due, of the two kinds, and one that is not. -/
def pend0 (sb : Bool) (due n : Nat) : Pend :=
  { due := some due, slot := 3, issued := 0, sb := sb, file := .s, idx := n, val := 9#512, mask := BitVec.allOnes 512, vfl := 0#32, grp := 0, sigSem := 0, sigInc := 0, pre := true, uid := 0,
    lat := 1, bundle := 0#64 }
/-- A page table that maps the first gigabyte of the address space to itself, as RC pages (R116, R117). -/
def paged (f : Queue → Queue) : State :=
  ((base.store 0x2000 (leBytes 8 0x4001)).store 0x4000 (leBytes 8 (0x6F + 2 ^ 61))).setQueue 3 (f { st := .active, log2n := 4, qroot := 0x2001#64, qbase := 0x8000#64 })

/-- An ADD by its control word, about to issue. -/
def addWord : BitVec 256 := wordOf [(16, 0xFF), (4, 1), (12, 1), (80, 5), (91, 3), (102, 4), (134, 0xC)]
def addI : Instr := .add .plain { rrr0 with ty := .i64, dst := .of 5, srcA := .of 3, srcB := .of 4 }
def startAdd : State := State.reset.withFetchWord 256 addWord.toNat
/-- A fault that a context has taken, with a result issued before its splice in flight. -/
def trapped (tvec : DWord) : State :=
  ((baseK.updCc 0 fun c => { c with trap := [(0, { code := 2, slot := 3, r1 := 0x1234#64 })] }).updCd 0 fun c => { c with tvec := tvec, pend := [pend0 false 3 5] })

/-- StepRunsDecoded: an input that waits; the first instruction after reset, a no-operation and an ADD by its control word, about to issue; a word that
decodes; the firmware context of column 0. -/
theorem witness_StepRunsDecoded_input : ({ base with inbox := [.splice, .tlbiComplete] } : State).inbox = .splice :: [.tlbiComplete] := rfl
theorem witness_StepRunsDecoded_column : ∀ s ∈ [State.reset.withFetchWord 16 0, startAdd], s.inbox = [] ∧ s.phase = 0 ∧ s.firstDue s.landings = none ∧ s.nextCol s.issueCol = some 0 := by
  decide +kernel
theorem witness_StepRunsDecoded_try : MayTry startAdd 0 0 :=
  ⟨by decide +kernel, by decide +kernel, by decide +kernel, by decide +kernel, by decide +kernel, by decide +kernel, by decide +kernel⟩
theorem witness_StepRunsDecoded_word : (match startAdd.fetchBundle (ccKey 0 0) with
    | .ok b => ((startAdd.getCc 0).iterOps b true true).map fun x => (x.1, x.2.map (·.op))
    | _ => []) = [(fwSlot addI, some addI)] ∧ decode addWord = .ok addI ∧ slotAccepts (fwSlot addI) addI = true ∧ slotIndex 1#16 ≠ 0 ∧ slotAdj 1#16 = 0 ∧
    SMap.get none (startAdd.getCc 0).cw (slotIndex 1#16) = some addI ∧ base.fwMay 0 = true ∧ addI.head.isSome = true := by decide +kernel

/-- DecodeEncode, EncodeDecode, StepKeepsMemory and BlotterBound. -/
theorem witness_Encoding : addI.wf = true ∧ addI.head.isSome = true ∧ decode addWord = .ok addI ∧ encode addI = addWord := by decide +kernel
theorem witness_StepKeepsMemory : let s := { (State.reset.withFetchWord 16 0) with mem := [(5, 1#8), (7, 2#8)] }
    Memory.wf s.mem ∧ ∃ t, step s = .next t := ⟨by decide, _, rfl⟩
theorem witness_BlotterBound : addI.head.isSome = true ∧ base.cur.ctx < 4 ∧ base.cur.col < 32 ∧ base.blotCount base.cc0 ≤ 128 := by decide +kernel

/-- ResultsLand. -/
theorem witness_ResultsLand : let s := baseOn id fun c => { c with pend := [pend0 false 0 5, pend0 true 0 6, pend0 false 1 7] }
    (dueResults s 0 false).map (·.idx) = [5, 6] ∧ (dueResults s 0 true).map (·.idx) = [6] ∧
    (let s := baseOn id fun c => { c with pend := [{ pend0 true 0 6 with abort := true, uid := 4 }] }
     (dueResults s 0 true).map (·.abort) = [true] ∧ (s.getCc (ckCc 0)).trap = []) := by decide +kernel

/-- TrapEntry: with a handler, the second reel's bundle 2, and without. -/
theorem witness_TrapEntry : ∀ v ∈ [0x0000000100000011, 0], let s := trapped (BitVec.ofNat 64 v)
    (s.getCc 0).st ≠ .free ∧ (s.getCc 0).st ≠ .loading ∧ (s.getCc 0).trap ≠ [] ∧ (s.getCc 0).trapSys = false ∧ (s.getCc 0).inh = false ∧ s.mustWait 0 = false ∧
    s.kernelOf 0 = some kern2 ∧ s.liveOf 0 = [0, 1, 2, 3, 4, 5, 6, 7] ∧
    (let tv := (s.getCd (ccCk 0 0)).tvec
     (tv.getLsbD 0 = true ∧ tv.toNat / 2 ^ 32 % 2 ^ 16 < kern2.reels.length ∧ tv.toNat / 2 ^ 3 % 2 ^ 11 < (kern2.reel (tv.toNat / 2 ^ 32 % 2 ^ 16)).2) ↔ v ≠ 0) := by decide +kernel

def saved0 : SavedCtx :=
  { col := 0, ctx := 0, cc := { base.getCc 0 with trapSys := true }, dies := [(0, { ws := ws0 })], copies := [], xmits := [], mxs := [], evs := [], opq := [], shared := false, sems := [],
    bfmts := [], tags := [], spad := [], bad := [], buf := none, frzClk := 0, reason := 3, spill := some 0, spilled := false, lock := 1 }
def swap0 (ret hold : Bool) (reason : Nat) (sv : SavedCtx) : Swap := { launch := (base.getCc 0).launch, team := 0, ctxs := [sv], ret := ret, hold := hold, excl := none, reason := reason }
/-- SystemFaults: a code of the host's, and one that terminates, in both modes; a team that awaits the host's choice. -/
theorem witness_SystemFaults : (∀ m ∈ [0, 0x100], ∀ k ∈ [2, 9], let s := { (base.updCc 0 fun c => { c with trap := [(0, { code := k })], trapSys := true }) with mgmt := BitVec.ofNat 64 m }
      (s.getCc 0).trap ≠ [] ∧ (s.getCc 0).trapSys = true ∧ (s.getCc 0).st.runs = true ∧ s.mustWait 0 = false ∧ s.mgmt.getLsbD 8 = (m != 0)) ∧
    (recoveryOf { base with swaps := [(0, swap0 false true 5 saved0)] } 0).map (·.1.reason) = some 5 := by decide +kernel

/-- ContextEvents: a context whose wait has ended, one that has completed all, a barrier that is due, two GRAB requests, a sample. -/
theorem witness_ContextEvents : (let s := baseCc fun c => { c with st := .blocked, blk := some .wait }
      (s.getCc 0).st = .blocked ∧ (s.getCc 0).blk = some .wait ∧ (s.getCc 0).trap = [] ∧ ∀ x ∈ s.blockedWith 0, s.stillBlocked x.1 x.2 = false) ∧
    (let s := baseCc fun c => { c with st := .retiring }
     (s.getCc 0).st = .retiring ∧ s.retired 0 = true) ∧
    (let s := { base with barriers := [(5, ⟨0, 0, 2, 1, [0], some 0, [], [], 0⟩)] }
     ∃ b, (s.barriers.find? fun x => x.1 == 5) = some (5, b) ∧ b.due = some 0 ∧ 0 ≤ s.clock) ∧
    (∀ r ∈ [true, false], let s := { base with grabs := [⟨0, 0, 1, 0, 5, 11⟩, ⟨0, 0, 0, 0, 5, 9⟩], ranges := [(5, { isOpen := r, endIdx := 100#64, min := 4, g := 2 })] }
      let g : GrabReq := ⟨0, 0, 0, 0, 5, 9⟩
      g ∈ s.grabs ∧ g.atClk ≤ s.clock ∧ ∀ h ∈ s.grabs, h ≠ g → h.atClk ≤ s.clock → g.atClk < h.atClk ∨ (g.atClk = h.atClk ∧ (g.col < h.col ∨ (g.col = h.col ∧ g.ctx < h.ctx)))) ∧
    (let s := (baseCc fun c => { c with active := 512 }).updCd 0 fun c => { c with prfctl := 0x6100#32 }
     bits (s.prfctl 0) 8 4 ≠ 0 ∧ 2 ^ (bits (s.prfctl 0) 8 4 + 8) ≤ (s.getCc 0).active) := by
  refine ⟨by decide +kernel, by decide +kernel, ⟨_, rfl, rfl, by decide⟩, by decide +kernel, by decide +kernel⟩

/-- FreezeAndSwap: a context that runs; an eligible team; a freeze that is held, a swap whose condition holds; a spill that ends; a restore; SVBASE. -/
theorem witness_FreezeFrame : (base.getCc (ccKey 0 0)).st.runs = true ∧ ∀ n, some (base.getCc 0).launch = some n → (base.getCc (ccKey 0 0)).launch = n :=
  ⟨by decide +kernel, fun _ h => Option.some.inj h⟩
theorem witness_TeamReturn : (let s := { base with swaps := [(4, swap0 false true 4 saved0)] }
      ∃ w, (s.swaps.find? fun x => x.1 == 4) = some (4, w) ∧ w.hold = true ∧ w.reason ≠ 5) ∧
    (let s := { base with swaps := [(4, swap0 false false 3 saved0)] }
     ∃ w, (s.swaps.find? fun x => x.1 == 4) = some (4, w) ∧ w.hold = false ∧ w.ret = false ∧ ∃ sv ∈ w.ctxs, s.savedClear sv = true) :=
  ⟨⟨_, rfl, by decide +kernel, by decide +kernel⟩, ⟨_, rfl, by decide +kernel, by decide +kernel, by decide +kernel⟩⟩
theorem witness_SpillComplete : let s := { base with swaps := [(4, swap0 false false 3 saved0)] }
    (4, swap0 false false 3 saved0) ∈ s.swaps ∧ (swap0 false false 3 saved0).ctxs[0]? = some saved0 ∧ saved0.spill = some 0 ∧ 0 ≤ s.clock ∧ saved0.spilled = false ∧ saved0.replied s.clock = true ∧
    ∀ m j v u, (m, v) ∈ s.swaps → v.ctxs[j]? = some u → ccKey u.col u.ctx = ccKey saved0.col saved0.ctx → u.spillDue s.clock = true → m = 4 ∧ v = swap0 false false 3 saved0 ∧ j = 0 :=
  ⟨by simp, rfl, rfl, by decide, rfl, by decide +kernel, by
    intro m j v u h1 h2 _ _
    obtain ⟨rfl, rfl⟩ := Prod.mk.inj (List.mem_singleton.mp h1)
    exact ⟨rfl, rfl, by rcases j with _ | j; exacts [rfl, by simp [swap0] at h2]⟩⟩
theorem witness_TeamRestore : let w := swap0 true false 3 { saved0 with spilled := true }
    let s := { part0 with swaps := [(4, w)] }
    (s.swaps.find? fun x => x.1 == 4) = some (4, w) ∧ s.canRestore w [0] = true ∧ ∀ sv ∈ w.ctxs, (sv.dies.map Prod.fst).Nodup ∧ ∀ d ∈ sv.dies, d.1 < 8 :=
  ⟨rfl, by decide +kernel, by decide +kernel⟩
theorem witness_SvbaseWrite : ∀ m ∈ [0x8, 0xC], let s := { base with mgmt := BitVec.ofNat 64 m }
    s.mgmt.getLsbD 3 = true ∧ s.mgmt.getLsbD 2 = (m == 0xC) ∧ (∀ l ∈ s.launches, l.2.part = 0 → l.2.save = none) ∧ s.waitingSpill 0 = none ∧
    (let s := { s with swaps := [(4, swap0 false true 4 { saved0 with spill := none })] }
     (s.waitingSpill 0).map (fun x => (x.1, x.2.1)) = some (4, 0)) := by decide +kernel

/-- A team all of whose contexts have been BLOCKED for longer than its partition allows, with a READY context beside it. -/
theorem witness_TeamSwapOut : let s : State := { ((base.updCc 0 fun c => { c with st := .blocked, blk := some .wait }).updCc 1 fun c => { c with st := .ready, launch := 99 }) with clock := 1000000 }
    s.swapEligible (base.getCc 0).launch 0 = true := by decide +kernel

/-- QueueCommands: queues in each state, a packet that is read and one whose kernel is read. -/
theorem witness_QueueCommands : ((paged id).getQueue 3).st = .active ∧ (∀ w ∈ [5, 17], ((BitVec.ofNat 16 w - ((paged id).getQueue 3).rd).toNat ≤ 2 ^ ((paged id).getQueue 3).log2n ↔ w = 5)) ∧
    ((paged id).getQueue 4).st = .closed ∧ ((paged fun q => { q with st := .error }).getQueue 3).st = .error ∧
    (let s := { (paged fun q => { q with fe := .taken [] none }) with mgmt := 0x80#64 }
     s.mgmt.getLsbD 7 = true ∧ (s.getQueue 3).fe = .taken [] none) ∧
    ((paged fun q => { q with fe := .launching base.nextLaunch }).getQueue 3).fe = .launching base.nextLaunch := by decide +kernel
theorem witness_FrontEnd : ∀ k ∈ [0, 1, 2, 3, 4], let s := (paged fun q => { q with fe := .reading 0 }).store ((paged id).getQueue 3).packetAt (leBytes 8 k)
    (s.getQueue 3).fe = .reading 0 ∧ 0 ≤ s.clock ∧ pkOp (dwords 8 (s.readBytes (s.getQueue 3).packetAt 64)) = k := by decide +kernel
theorem witness_FrontEnd_kernel : ((paged fun q => { q with fe := .checking [1#64] 0 }).getQueue 3).fe = .checking [1#64] 0 := by decide +kernel

/-- PacketsAndTeams: a LAUNCH, OPENRNG with and without a signal and a WAITSIG to be dispatched; a WAITSIG that polls. -/
theorem witness_Packets : (let s := paged fun q => { q with fe := .approved [0x0000000100000001#64] (some kern2) }
      (s.getQueue 3).fe = .approved [0x0000000100000001#64] (some kern2) ∧ pkOp [0x0000000100000001#64] = 1 ∧ s.depMet 3 [0x0000000100000001#64] = true) ∧
    (∀ x ∈ [2, 3, 0x202], let p : List DWord := [BitVec.ofNat 64 x, 0x9000#64, 7#64, 0x9008#64]
     let s := paged fun q => { q with fe := .approved p none }
     (s.getQueue 3).fe = .approved p none ∧ s.depMet 3 p = true ∧ pkOp p = x % 256 ∧ bits (dw p 0) 9 1 = x / 512 ∧ pkSig p ≠ 0) ∧
    (match ((paged id).rootPlace 0x2001 0x9008 true).1 with
      | .ok loc _ _ => decide (loc = 0x9008)
      | _ => false) = true ∧
    (let p : List DWord := [3#64, 0x9000#64, 7#64]
     let s := paged fun q => { q with fe := .waitsig p 0 }
     (s.getQueue 3).fe = .waitsig p 0 ∧ 0 ≤ s.clock ∧ (match (s.rootPlace (s.getQueue 3).qroot.toNat (dw p 1 / 8 * 8) false).1 with
      | .ok loc _ _ => decide (loc = 0x9000)
      | _ => false) = true) := by decide +kernel
/-- A launch that can start its team, on column 5. -/
def launch5 : Launch := { placedLaunch [] 0 with queue := 3, cols := [5], nextTeam := 0, teamCols := [], compsig := 0x9008 }
theorem witness_TeamStart : let s := { (paged fun q => { q with fe := .launching 40 }) with launches := [(40, launch5)], parts := [(0, { valid := true, cols := 0xFF#32 })] }
    (s.launch? 40) = some launch5 ∧ (s.getQueue launch5.queue).fe = .launching 40 ∧ launch5.nextTeam < launch5.teams ∧ s.canStart 40 launch5 = true ∧
    (launch5.colsOf launch5.nextTeam).Nodup ∧ (∀ c ∈ launch5.cols, c < 32) ∧ launch5.colsOf launch5.nextTeam = [5] ∧ 40 ∉ (s.getCore (coreKey 0 5)).taken := by decide +kernel
theorem witness_CompletionSignal : let s := { paged id with launches := [(40, { launch5 with nextTeam := 1 })] }
    s.launch? 40 = some { launch5 with nextTeam := 1 } ∧ s.launchIdle 40 { launch5 with nextTeam := 1 } = true ∧ s.launchWrites 40 { launch5 with nextTeam := 1 } = false ∧
    (match (s.rootPlace 0x2001 0x9008 true).1 with
      | .ok loc _ _ => decide (loc = 0x9008)
      | _ => false) = true := by decide +kernel
theorem witness_ReelArrives : let b : ReelBuf := ⟨(base.getCc 0).launch, 0, [], 0, [], false, false, none⟩
    let s := ((paged id).updCol 0 fun c => { c with bufs := [b] }).updCd 0 fun c => { c with trbase := 0x2001#64 }
    (s.getCol 0).bufs[0]? = some b ∧ b.arrived = false ∧ b.waits = false ∧ b.due ≤ s.clock ∧ s.ccOfLaunch 0 b.launch = some 0 ∧ (s.launch? b.launch).isSome = true ∧ (s.ccTrbase 0) = 0x2001 ∧
    (match (s.readReel (s.home 0) 0 1 0 0 [] []).1 with
      | .ok _ ps => ps.isEmpty
      | _ => false) = true := by decide +kernel

/-- Contracts: records that are invalid, too tight, too many, and one that is admitted; a period that ends; a budget that is spent. -/
def contracted (x : Contract) (others : SMap Contract) : State := { part0 with mgmt := 0x80#64, parts := [(0, { valid := true, cols := 0x3#32 })], contracts := SMap.put others 7 x }
def con (c t w : Nat) : Contract := { kmax := 4, clsmask := 1, w := w, c := c, t := t }
theorem witness_ContractAdmit : ∀ x ∈ [(con 10 5 1, [], some 2), (con 1 1000 1, [], some 1), (con 9000 10000 1, [(8, { con 9000 10000 1 with st := 1 })], some 3), (con 5000 100000 1, [], none)],
    let s := contracted x.1 x.2.1
    s.mgmt.getLsbD 7 = true ∧ (s.getContract 7).st ≠ 1 ∧ s.admitTest 7 (s.getContract 7) = x.2.2 := by decide +kernel
theorem witness_Contracts : let s := { contracted { con 10 100 1 with st := 1, spent := [(3, 2801)] } [] with clock := 280 }
    (s.getContract 7).st = 1 ∧ (s.getContract 7).period + (s.getContract 7).t ≤ s.clock ∧ 280 * (s.getContract 7).c < SMap.get 0 (s.getContract 7).spent 3 := by decide +kernel

/-- ManagementRegisters: a column that runs, one that is stopped, one whose drain has ended; host-only registers. -/
theorem witness_ManagementRegisters : ∀ g ∈ [0, 2, 3], let s := { (base.updCol 0 fun c => { c with dbg := g }) with mgmt := 0x3FFF#64 }
    s.mgmt.getLsbD 9 = true ∧ (s.getCol 0).dbg = g ∧ (∀ k < 4, ∀ d ∈ s.liveOf (ccKey 0 k), s.inDrain (ccCk d (ccKey 0 k)) = false) ∧ s.mgmt.getLsbD 5 = true ∧ s.mgmt.getLsbD 7 = true := by decide +kernel

/-- RowRepair: a line of device memory; a row that is already mapped; one that can be mapped where its stack had a spare row at boot; a MAP that is due; a
row at its threshold; a log with a free entry, and a full one. -/
theorem witness_RowRepair : (isSpad (64 * 5) = false ∧ 64 * 5 < base.devSize ∧ base.paFault (64 * 5) = none) ∧ (isSpad (2 ^ 52 + 64) = true ∧ 2 ^ 52 + 64 < spadLoc 8 0 0) ∧
    (let s := { base with mgmt := 0x800#64, repDue := some (9, 1, 1) }
     s.mgmt.getLsbD 11 = true ∧ s.canMap 2 5 = false) ∧
    (let s := { base with repDue := some (0, 2, 5) }
     s.repDue = some (0, 2, 5) ∧ 0 ≤ s.clock) ∧
    (∀ m ∈ [0, 0x400], ∀ full ∈ [true, false],
     let s := { base with mgmt := BitVec.ofNat 64 m, repair := [(2, { counts := [(5, 16)] })], repLog := if full then (List.range 64).map fun i => (i, 0x8000000000000000#64) else [] }
     s.repThresh ≤ SMap.get 0 (s.getRepair 2).counts 5 ∧ 5 ∉ (s.getRepair 2).mapped ∧ 5 ∉ (s.getRepair 2).logged ∧ s.mgmt.getLsbD 10 = (m != 0) ∧
       s.freeLog = if full then none else some 0) := by decide +kernel
theorem witness_RowMapped (h : 0 < (Config.bootSpares 2).toNat) : base.canMap 2 5 = true := by
  have e : base.getRepair 2 = {} := by decide +kernel
  have f : (base.repDue.isNone && ((base.getSocket (8 + 2)).st == .live)) = true := by decide +kernel
  rw [Bool.and_eq_true] at f
  simp [State.canMap, State.spares, e, f.1, h]
  simpa using f.2

/-- PowerLoansMigration: each case of the controller; a column of the owner that is free, one in use, one lent; a migration that is due. -/
theorem witness_Power : ∀ x ∈ [(0, 0, 0), (0, 5, 0), (0, 3, 0), (100, 3, 101), (100, 3, 50), (100, 3, 95)],
    let s : State := { base with parts := [(0, { capw := BitVec.ofNat 16 x.1, fcur := x.2.1 })], launches := base.launches.map fun l => (l.1, { l.2 with fclass := 3 }) }
    (s.getPart 0).capw.toNat = x.1 ∧ (s.getPart 0).fcur = x.2.1 ∧ s.askedClasses 0 = [3] ∧ (BitVec.ofNat 16 x.2.2).toNat = x.2.2 ∧ controlClock (2 ^ 20) = true ∧ (s.getPart 0).ticked ≠ 2 ^ 20 + 1 := by decide +kernel
theorem witness_Loans : let s := { (base.updCol 9 fun c => { c with lendReg := 0x8001000000000064#64 }) with mgmt := 0x80#64 }
    s.mgmt.getLsbD 7 = true ∧ (∀ k < 4, (s.getCc (ccKey 9 k)).st = .free) ∧ (∃ k < 4, (s.getCc (ccKey 0 k)).st ≠ .free) ∧ (s.getCol 9).lendReg.getLsbD 63 = true ∧ s.borrowedTeams 9 = [] := by
  decide +kernel
theorem witness_Migration : base.migDue = none ∧
    (let s := { base with migDue := some 0, miglen := 128#64, migsrc := 0x4000#64, migdst := 0x8000#64 }
     s.migDue = some 0 ∧ 0 ≤ s.clock ∧ (∀ i < 2, s.paFault (0x4000 + 64 * i) = none ∧ s.paFault (0x8000 + 64 * i) = none ∧ s.poisoned (0x4000 + 64 * i) 64 = false) ∧
       s.miglen.toNat / 64 % 2 ^ 34 = 2 ∧ s.migsrc.toNat / 64 % 2 ^ 46 * 64 = 0x4000 ∧ s.migdst.toNat / 64 % 2 ^ 46 * 64 = 0x8000) := by decide +kernel

/-- An exchange with every request that the root makes. -/
def exchange0 : Exchange := { requests := [.getCertificate, .challenge, .getMeasurements] }
/-- Attestation, StartUp: an exchange that passes where its signatures verify, and reports nothing that is not listed; one that cannot; one that reports what is not
listed; a die and a link whose exchange runs, in both modes, one of them too long. -/
theorem witness_Verified (h : Config.chainVerifies Config.rootKey [] = true) (g : Config.mldsaVerifies (Config.leafKey []) [] [] = true) :
    Verified exchange0 ∧ Listed exchange0 ∧ ∀ m, m ∉ Config.accepted → ¬Listed { exchange0 with measurements := [m] } :=
  ⟨⟨by decide, h, by decide, g⟩, ⟨by decide, fun m hm => absurd (show m ∈ ([] : List (BitVec 512)) from hm) List.not_mem_nil⟩, fun m hm e => hm (e.2 m List.mem_cons_self)⟩
theorem witness_NotVerified : ¬Verified {} ∧ ¬Listed {} := ⟨fun e => absurd e.1 (by decide), fun e => absurd e.1 (by decide)⟩
theorem witness_Exchanges : (∀ b ∈ [true, false], let s := (base.setSocket 3 { st := .attesting, assisted := b }).setLink 2 { sess := some (0, b) }
      (s.getSocket 3).st = .attesting ∧ (s.getSocket 3).assisted = b ∧ s.attpend.getLsbD 3 = false ∧ s.start = none ∧ s.clock ≤ (s.getSocket 3).began + exchangeClocks ∧
      (s.getLink 2).sess = some (0, b) ∧ (s.getSocket 17).st = .live ∧ s.clock ≤ 0 + exchangeClocks) ∧
    (let s := { (base.setSocket 3 { st := .attesting }).setLink 2 { sess := some (0, false) } with clock := 3600000000 }
     (s.getSocket 3).began + exchangeClocks ≤ s.clock ∧ 0 + exchangeClocks ≤ s.clock) ∧
    (∀ b ∈ [true, false], ((base.setLink 2 { far := b }).getLink 2).far = b) := by decide +kernel
/-- StartUp: the last die of an attempt attests; the last session with a Lerayx peer runs out, after an attempt in which a die failed and one in which none did. -/
theorem witness_StartSteps : (let x : Start := ⟨false, 1, [], [], [], [3], false⟩
      let s : State := { base.setSocket 3 { st := .attesting } with start := some x }
      s.start = some x ∧ (s.getSocket 3).st = .attesting ∧ (∀ j < 18, j ≠ 3 → (s.getSocket j).st = .live) ∧ (∀ j ∈ x.waits, j < 18) ∧ s.attpend.getLsbD 3 = false ∧
      (s.getSocket 3).assisted = false ∧ s.clock ≤ (s.getSocket 3).began + exchangeClocks) ∧
    (∀ f ∈ [[], [(4, 1)]], let x : Start := ⟨false, 1, [], [], f, [], true⟩
     let s : State := { base.setLink 2 { sess := some (0, false) } with start := some x, clock := 3600000000 }
     s.start = some x ∧ x.six = true ∧ (s.getLink 2).sess = some (0, false) ∧ 0 + exchangeClocks ≤ s.clock ∧ ∀ m < 16, m ≠ 2 → (s.getLink m).sess = none) := by decide +kernel

/-- Attestation and LinkTrust: a die that attests, in both modes; subjects that await a verdict; a link that is down, up, to be tried again. -/
theorem witness_Attestation : (∀ m ∈ [0, 0x10], let s := { base.setSocket 3 { st := .attesting } with mgmt := BitVec.ofNat 64 m }
      (s.getSocket 3).st = .attesting ∧ s.attpend.getLsbD 3 = false ∧ s.start = none ∧ s.mgmt.getLsbD 4 = (m != 0)) ∧
    (∀ k ∈ [3, 20], let s := { base with attpend := 0x100008#64, mgmt := 0x30#64 }
      s.attpend.getLsbD k = true ∧ s.mgmt.getLsbD 5 = true ∧ s.start = none) ∧
    (let s := base.setLink 2 { retry := some 0 }
     (s.getLink 2).up = false ∧ s.attpend.getLsbD 20 = false ∧ (s.getSocket 17).st = .live ∧ (s.getLink 2).retry = some 0 ∧ 0 ≤ s.clock) := by decide +kernel
theorem witness_LinkTrust : (∀ n ∈ [0, 14, 15], let s := (base.updSocket 3 fun x => { x with tagFails := List.replicate n 0 }).setLink 2 { up := true, tagFails := List.replicate n 0 }
      (s.getSocket 3).st = .live ∧ ((s.getSocket 3).tagFails.filter fun c => s.clock < c + 2 ^ 24).length = n ∧ (s.getLink 2).up = true) ∧
    ((base.launches.map fun l => (base.launch? l.1).isSome && l.2.live.testBit 3) = [true]) ∧
    (let s := base.setSocket 3 { st := .quarantined }
     (s.getSocket 3).st = .quarantined ∧ (s.getSocket 3).resetting = false) ∧ ((base.setSocket 3 { st := .quarantined, resetting := true }).getSocket 3).resetting = true := by decide +kernel

/-- StartUp: a machine that has started, with no context. -/
theorem witness_StartUp : let s := { State.reset with boot := 1#64 }
    s.noContexts = true ∧ s.start = none ∧ s.boot.getLsbD 0 = true ∧ s.boot.getLsbD 2 = false ∧ s.mgmt.getLsbD 4 = false := by decide +kernel

/-- MemoryEvents: a walk that is due, with a translation, without, and marked; an invalidation acknowledged; a command whose requests are granted. -/
theorem witness_MemoryEvents : (∀ e ∈ [some (leaf0 1 0 0x200000), none], ∀ b ∈ [true, false], let s := base.setDie 3 { walks := [⟨some 0, 0, 5, 0, e, 1, b⟩, ⟨some 1, 0, 5, 0, none, 2, false⟩, ⟨none, 0, 6, 0, none, 3, false⟩] }
      (s.getDie 3).walks.filter (WalkDue s) = [⟨some 0, 0, 5, 0, e, 1, b⟩]) ∧
    (let s := base.setDie 3 { tlbis := [⟨9, 0, [], [], 12, 4, 1⟩] }
     (s.getDie 3).tlbis.filter (TlbiEnds s) = [⟨9, 0, [], [], 12, 4, 1⟩] ∧ ∀ e < 8, e ≠ 3 → (s.getDie e).tlbis = []) ∧
    (let s := baseOn (fun c => { c with track := [⟨7, 0, [], [], [], false⟩], locks := [⟨7, 2, true⟩, ⟨8, 2, false⟩] }) id
     (⟨7, 0, [], [], [], false⟩ : Track) ∈ (s.getCore 0).track ∧ lockGranted 7 [] (s.getCore 0).locks = true ∧ lockGranted 8 [] (s.getCore 0).locks = false) ∧
    (let m : Merge := ⟨1, true, true, none, 0x40, 1, 0, [(9, 0, 5#64), (10, 1, 6#64)]⟩
     let s := base.setDie 3 { merges := [m] }
     (s.getDie 3).merges.filter (fun x => x.close ≤ s.clock) = [m] ∧ (∀ e < 8, e ≠ 3 → ∀ x ∈ (s.getDie e).merges, s.clock < x.close) ∧ s.poisoned m.addr 8 = false ∧ s.hostAborts m.addr = false) := by decide +kernel
/-- Messages from package 5, by link 2: for this package and, by link 4, for package 6. -/
def podded : State := { ((paged id).setLink 2 { up := true }).setLink 4 { up := true } with
  podform := 0x80000000#32, podrt := [(5, 0x8000000000000004#64), (6, 0x8000000000000010#64)], podspc := [(0, 0x2001#64)] }
def msg (dst : Nat) (a : Nat) (b : PodBody) : PodMsg := ⟨5, dst, 0, a, 77, b, false⟩
theorem witness_PodMessages : (∀ m ∈ [msg 0 0x9000 (.write [1#8, 2#8] false), msg 0 0x9000 (.read 8), msg 0 (2 ^ 40) (.read 8), msg 6 0 .ack], (podded.getSocket 17).st = .live ∧ podded.podIn = []) ∧
    podded.pkgNum = 0 ∧ podded.route 5 0x9000 = some 2 ∧ podded.forwardLink (msg 6 0 .ack) = some 4 ∧
    (∀ w ∈ [true, false], (match (podded.podTranslate 0 0x9000 false (!w) w).1 with
      | .ok loc _ _ => decide (loc = 0x9000)
      | _ => false) = true) ∧
    (match (podded.podTranslate 0 (2 ^ 40) false true false).1 with
      | .fault f => f.code == 4
      | _ => false) = true := by decide +kernel
/-- Requests that have come to their place, and one of this package that has come to IO1. -/
theorem witness_PodAtPlace : (∀ m ∈ [msg 0 0x9000 (.write [1#8, 2#8] false), msg 0 0x9000 (.read 8), msg 0 (2 ^ 40) (.read 8)],
      podRequest m.body = true ∧ AtPlace { podded with podIn := [(0, 5, m)] } m 5) ∧
    (let m : PodMsg := ⟨0, 5, 0, 0x9000, 77, .read 8, false⟩
     let s : State := { podded with podIn := [(0, 5, m)] }
     m.src = s.pkgNum ∧ m.dst ≠ s.pkgNum ∧ s.podIn.find? (fun x => x.1 ≤ s.clock && x.2.2 == m) = some (0, 5, m) ∧ s.route m.dst m.addr = some 2) ∧
    podded.hostAborts 0x9000 = false :=
  ⟨by
    intro m hm
    simp only [List.mem_cons, List.not_mem_nil, or_false] at hm
    rcases hm with rfl | rfl | rfl <;>
      exact ⟨rfl, ⟨by decide +kernel, by decide +kernel, ⟨0, by decide +kernel, by decide +kernel⟩⟩⟩, by decide +kernel, by decide +kernel⟩
theorem witness_PodReply : let s := podded.updCd 0 fun c => { c with pend := [{ pend0 true 0 9 with due := none, uid := 77, ty := .i16 }] }
    (s.awaits 77).map (fun x => (x.1, x.2.1, x.2.2.idx)) = some (0, 0, 9) ∧ (∀ x ∈ s.posted, x.uid ≠ 77) ∧ s.splitOf 77 = none ∧ (s.getSocket 17).st = .live ∧ s.podIn = [] := by decide +kernel

/-- A channel whose head is `c`, which holds its locks. -/
def chanOf (c : CopyCmd) : State := baseOn (fun k => { k with ch := [(1, { q := [c], next := 2#32 })], track := [⟨7, 0, [], [], [], true⟩] }) id
def spx0 : CopyCmd := { cmd0 (.spxgo hd0 { copy0 with len := 8#24 }) with n := 8, spx := 0x40000 }
/-- CopyEvents: a copy and an SPXGO that may start. -/
theorem witness_CopyStart : ∀ c ∈ [cmd0 (.cpy hd0 (fcopy 64)), spx0], chanQ (chanOf c) 0 1 = [c] ∧ c.started = none ∧ ((chanOf c).getCc (ckCc c.ck)).st ≠ .loading ∧ ((chanOf c).getCore 0).hasLocks c.uid = true ∧ (chanOf c).spxBehind 0 c = false ∧
    (match ((chanOf c).engReadN c.ck .cp c.uid c.saddr.toNat c.n).1 with
      | .ok l => l.all fun x => !x.2
      | _ => false) = true := by decide +kernel
theorem witness_SparseEvents : (let c := { spx0 with started := some 0, offs := [4#32, 8#32] }
      c.isSpx = true ∧ c.started ≠ none ∧ (chanOf c).movedNow 0 1 = 0 ∧ Nat.min (Nat.min (bits c.spx 16 8) (64 - ((chanOf c).getCore 0).opq.length)) c.offs.length = 2) ∧
    (∀ b ∈ [true, false], let c := { spx0 with started := some 0, bad := b }
     let s := { chanOf c with clock := 13 }
     c.offs = [] ∧ 0 + 12 + ceilDiv c.n 64 ≤ s.clock ∧ ∀ j < 4, j ≠ 1 → ∀ x, s.copyHead 0 j = some x → x.isSpx = false) := by
  refine ⟨by decide +kernel, fun b _ => ⟨rfl, by show 0 + 12 + ceilDiv 8 64 ≤ 13; decide, ?_⟩⟩
  intro j hj h1 x hx
  rcases b <;> (have : j = 0 ∨ j = 2 ∨ j = 3 := by omega) <;> obtain rfl | rfl | rfl := this <;> cases hx
/-- A piece that is due, of a command with more to write and of one that ends; in storage and in a stream; and one whose destination faults. -/
theorem witness_CopyPieces : ∀ x ∈ [(128, 0, 0x00FFFF0000002000), (64, 0, 0x00FFFF0000002000), (64, 3, 0), (64, 0, 0x00FFFE0000000000)],
    let c := { cmd0 (.cpy hd0 (fcopy x.1)) with n := x.1, stream := x.2.1, daddr := BitVec.ofNat 64 x.2.2, started := some 0, least := 12 }
    let s := { chanOf c with clock := 13 }
    c.isSpx = false ∧ c.isChk = false ∧ s.pieceDue 0 1 c = true ∧ c.total = x.1 ∧ c.done + c.pieceLen = 64 ∧ s.askAhead 0 1 c = s ∧ s.gatherTake 0 1 c = s ∧ ({ c with done := c.done + c.pieceLen } : CopyCmd).joined = false ∧
    (match s.nextPiece c with
      | (.ok _, none, _) => x.2.2 != 0x00FFFE0000000000
      | (.fault f _ _, _) => x.2.2 == 0x00FFFE0000000000 && f.code == 4
      | _ => false) = true := by decide +kernel
/-- A trailer check of a copy, and a CPCHK, of a source whose trailer does not hold. -/
theorem witness_CopyChecks : (let c := { cmd0 (.cpy hd0 { fcopy 64 with tchk := true }) with started := some 0, least := 28 }
      let s := { chanOf c with clock := 30 }
      s.pieceDue 0 1 c = true ∧ (match s.nextPiece c with
        | (.ok _, some _, _) => true
        | _ => false) = true) ∧
    (let c := { cmd0 (.cpchk hd0 { fcopy 64 with tchk := true }) with started := some 0, least := 28 }
     let s := { chanOf c with clock := 40 }
     c.isSpx = false ∧ c.isChk = true ∧ 0 + c.least + ceilDiv (c.sData + c.sScale + 32 - c.done) 64 ≤ s.clock ∧
     (match s.engReadN c.ck .cp c.uid (c.saddr.toNat + c.done) (c.sData + c.sScale - c.done) with
      | (.ok l, s1) => (match s1.tchk { c with srcData := (l.map Prod.fst).take c.sData, srcScale := (l.map Prod.fst).drop c.sData } with
        | (.ok _, some _, _) => true
        | _ => false)
      | _ => false) = true) := by decide +kernel
def shapeRec : BitVec 256 := wordOf [(0, 4), (32, 64), (96, 64), (128, 64)]
theorem witness_RecordsArrive : (∀ x ∈ [(shapeRec.toNat, true), (0, false)], let r : RecPend := ⟨some 0, 3, BitVec.ofNat 256 x.1, 4, 1, 0#64, 0x40#64, 0, 0, 0, 0⟩
      let s := baseOn id fun c => { c with recs := [r] }
      dueRecs s 0 false = [r] ∧ r.ctx = 0 ∧ shapeOk r.bits = x.2) ∧
    (∀ x ∈ [(0x0000010000000001, true), (3, false)], let r : RecPend := ⟨some 0, 16, BitVec.ofNat 256 x.1, 4, 1, 0#64, 0x40#64, 0, 0, 0, 0⟩
      let s := baseOn id fun c => { c with recs := [r] }
      (recCtxs 0).flatMap (fun ck => dueRecs s ck true) = [r] ∧ ckCore r.ctx = 0 ∧ spxOk r.bits.toNat = x.2) := by decide +kernel

def mxOf (op : Instr) (a b : Nat) : MxCmd :=
  { uid := 7, ck := 0, op := op, bundle := 0#64, aaddr := BitVec.ofNat 64 a, baddr := BitVec.ofNat 64 b, aty := .i8, bty := .i8, qctl := 0x13#32, sigSem := 3, sigInc := 1, fp := [] }
/-- MatrixEvents: an MZERO that starts and completes, an MLATCH whose operand faults, a paused engine. -/
def mxS (c : MxCmd) (m : Nat) (p : Option Pause) : State :=
  { baseOn (fun k => { k with mxq := [c], track := [⟨7, 0, [], [], [], true⟩], pause := p }) id with mgmt := BitVec.ofNat 64 m }
def mzero0 : MxCmd := mxOf (.mzero hd0 { mx0 with acc := 1#2 }) 0 0
theorem witness_MatrixEvents : (mxS mzero0 0 none).mxMayStart 0 mzero0 = true ∧ (match ((mxS mzero0 0 none).mxFetch mzero0).1 with
      | .ok _ => true
      | _ => false) = true ∧
    (let c := { mzero0 with due := some 0, tile := some { int := true, cells := [(5, 7#32)] } }
     (mxS c 0 none).mxDue 0 c = true ∧ ((mxS c 0 none).mxWrites c).1 = .ok []) ∧
    (let s := mxS mzero0 0x200 (some ⟨0, 0, 0, { code := 4 }⟩)
     s.mgmt.getLsbD 9 = true ∧ (s.getCore 0).pause ≠ none) := by decide +kernel
theorem witness_MatrixFault : ∀ m ∈ [0, 0x300], let c := mxOf (.mlatch hd0 { mx0 with k := 8#14, bstride := 64#16, btype := .i8, latch := 2#2 }) 0 0x900000
    ((mxS c m none).mxFault 0).1.map (fun x => x.2.1.code) = some 4 ∧ (mxS c m none).mgmt.getLsbD 8 = (m != 0) := by decide +kernel

/-- EnvelopeEvents: an EMAX that starts, one that completes; an ELOAD of a bad image, which fails. -/
def evOf (op : Instr) : EvOp := { uid := 7, ck := 0, op := op, tol := 0#32, va := 0#512, vb := 0#512, vc := 0#512, pred := 0#16, sop := 0#64, addr := 0x00FFFF0000000100#64, pre := true, bundle := 0#64 }
def emax0 : EvOp := evOf (.emax hd0 { ev0 with edst := 1#2, esrcA := 2#2, esrcB := 3#2 })
theorem witness_EnvelopeEvents : (let s := baseOn (fun k => { k with evq := [emax0] }) id
      s.evNext 0 = some emax0 ∧ (s.evRun emax0).fault = none) ∧
    (let e := evOf (.eload hd0 { ev0 with edst := 1#2, sreg := .of 2 })
     let s := (baseOn (fun k => { k with evq := [e] }) id).store (2 ^ 52 + 0x100) (List.replicate 16 0xFF#8)
     s.evNext 0 = some e ∧ (s.evRun e).fault.isSome = true) ∧
    (let e := { emax0 with due := some 0, bad := some { code := 8, info := 2 } }
     let s := baseOn (fun k => { k with evq := [e, { emax0 with uid := 8 }] }) id
     ((s.getCore 0).evq.find? fun x => x.due == some s.clock) = some e ∧ (s.getCc (ckCc e.ck)).trap = []) ∧
    (let e := { evOf (.esave hd0 ev0) with due := some 0, image := [5#8] }
     let s := baseOn (fun k => { k with evq := [e] }) id
     ((s.getCore 0).evq.find? fun x => x.due == some s.clock) = some e ∧ e.passed = [] ∧ e.bad = none ∧ s.sharedHolder e.launch (0 % 32) = none) ∧
    (∀ p ∈ [true, false], let e := { emax0 with due := some 0, res := some Env.launch, pre := p }
     let s := baseOn (fun k => { k with evq := [e] }) id
     ((s.getCore 0).evq.find? fun x => x.due == some s.clock) = some e ∧ e.res = some Env.launch ∧ evDest e.op = some 1) := by decide +kernel

def req0 (i : Nat) (barred : Bool) : Req :=
  { atClk := 0, uid := 7, ck := 0, i := i, choice := 2, op := .seize hd0 (fen 1 2), bundle := 0#64, daddr := 0x00FFFF0000002000#64, saddr := 0x00FFFF0000000100#64, barred := barred }
def xm0 (daddr : Nat) : Xmit :=
  { uid := 7, ck := 0, op := .seize hd0 (fen 1 2), bundle := 0#64, daddr := BitVec.ofNat 64 daddr, saddr := 0x00FFFF0000000100#64, len := 64, sigSem := 3, sigInc := 1, start := 0, due := some 0 }
/-- SharedEngineEvents: requests that meet free circuits, none, and one too few; transfers that are due, by an engine and by the direct path. -/
theorem witness_SharedRequests : ∀ x ∈ [(0, false, 0), (0, true, 0), (0, false, 2), (1, false, 1)], let q := req0 x.1 x.2.1
    let e := engKey 0 0 0
    let s := (base.updEng e fun g => { g with reqs := [q], circ := (List.range x.2.2).map fun i => (i, some ⟨9, [], none, none⟩) }).updCd 0 fun c => { c with pend := [{ pend0 true 0 12 with due := none, uid := 7 }] }
    (s.getEng e).reqs.filter (fun r => r.atClk ≤ s.clock) = [q] ∧ (s.getEng e).recv ≤ 2 ^ 19 ∧ q.coll = none ∧ (∃ y ∈ s.cd, ∃ p ∈ y.2.pend, p.uid = q.uid) ∧
    ((List.range (if e < 128 then 2 else 4)).filter fun i => (SMap.get none ((s.getEng e).release s.clock).circ i).isNone).length = 2 - x.2.2 := by decide +kernel
theorem witness_Transfers : ∀ a ∈ [0x00FFFF0000002000, 0x00FFFE0000000000], let c : Circ := ⟨0, [xm0 a], some 0, none⟩
    let s := (base.updEng 200 fun g => { g with circ := [(1, some c)] }).updCore 0 fun k => { k with direct := [xm0 a] }
    SMap.get none (s.getEng 200).circ 1 = some c ∧ c.coll = none ∧ c.freeAt = some 0 ∧ (s.getCore 0).direct = [xm0 a] ∧ (xm0 a).coll = none ∧ (xm0 a).due = some 0 ∧
    (∀ acc ∈ [engKindAcc 200, .cp], (xm0 a).ready s.clock = true ∧ s.askXmit acc (xm0 a) = (xm0 a, s) ∧ (s.xmitStep acc (xm0 a)).1 = none ∧
      ((match s.xmitSource acc (xm0 a) ((xm0 a).piece false) with
        | (.ok _, s1) => (match (s1.engWrFaults (xm0 a).ck acc (pieces64 3 a 64)).1 with
          | .ok _ => true
          | _ => false)
        | _ => false) = (a == 0x00FFFF0000002000))) ∧
    (let x := { xm0 a with len := 256, due := some 2 }
     x.ready 0 = true ∧ s.askXmit .cp x = (x, s) ∧ x.done + 64 < x.len) ∧ ({ xm0 a with done := 64 } : Xmit).isDue s.clock = true := by decide +kernel
/-- A collective of eight members, of which rank 0 has contributed and rank 1 not; rank 2 differs; rank 3 has not joined. -/
def mem8 (r : Nat) (f : FEN) (b : Option (List (Byte × Bool))) : CollMember :=
  { rank := r, m := 8, die := r, ck := ctxKey r 0 0, op := .coll hdA f, daddr := 0x00FFFF0000002000#64, saddr := 0x00FFFF0000000100#64, uid := 20 + r, bytes := b, need := 64 }
def coll0 : Coll := ⟨(base.getCc 0).launch, 0, 0, [mem8 0 (fcoll 1 2) (some (List.replicate 64 (0#8, false))), mem8 1 (fcoll 1 2) none, mem8 2 { fcoll 1 2 with op := 2#4 } none], []⟩
def collK : Nat := collKey (base.getCc 0).launch 0 0
def withColl (c : Coll) (t : Nat) : State := { baseAll with colls := [(collK, c)], clock := t }
theorem witness_Contributions : let s := withColl coll0 1000000000
    (s.launch? (keyLaunch collK)).isSome = true ∧ s.coll? collK = some coll0 ∧ coll0.member 3 = none ∧ (∀ l ∈ s.launches, s.podPeers l.2 = []) ∧
    (∀ m ∈ coll0.members, m.rank ≠ 0 → s.memberCk coll0 m = some m.ck ∧ m.ext = false ∧ m.bytes = none ∧ s.maySend collK m.ck m = true ∧ m.complete = false ∧ m.bad = false ∧
      (coll0.members.head?.map fun r => m.agrees r) = some (m.rank == 1) ∧
      (match (s.engReadN m.ck m.acc m.uid m.saddr.toNat m.f.len.toNat).1 with
        | .ok _ => true
        | _ => false) = true) := by decide +kernel
/-- A broadcast whose root has contributed; its member 1 completes. -/
theorem witness_CollMember : let f := { fcoll 0 2 with op := 0#4, ty := .b }
    let c := { coll0 with members := [mem8 0 f (some (List.replicate 64 (5#8, false))), mem8 1 f (some [])] }
    let s := withColl c 1000
    s.coll? collK = some c ∧ s.posted = [] ∧ (c.member 1).map (fun m => (s.memberCk c m, m.ext, m.complete, m.bad, c.partDone 2 m)) = some (some (ctxKey 1 0 0), false, false, false, true) := by decide +kernel
theorem witness_CollStall : let s := withColl coll0 1000000000
    (∀ l ∈ s.launches, s.waitState coll0 3 = some (0, 0) ∧ (s.getPart l.2.part).collstall ≠ 0 ∧ 3 < s.collM l.2 ∧ (s.getPart l.2.part).collstall.toNat ≤ s.clock) ∧
    ∃ h ∈ coll0.members, h.ext = false ∧ h.direct = false ∧ h.complete = false ∧ (h.bytes.map (·.isEmpty)) = some false ∧ h.rank ≠ 3 ∧ h.since = 0 := by decide +kernel
/-- Its rank 1 swapped out. -/
theorem witness_CollStall_swapped : let w := { mem8 1 (fcoll 1 2) none with eng := 128, tcol := (base.getCc 0).tcol, tctx := (base.getCc 0).tctx }
    let c := { coll0 with members := [mem8 0 (fcoll 1 2) (some (List.replicate 64 (0#8, false))), w] }
    let s : State := { withColl c 1000000000 with swaps := [(4, swap0 false false 3 saved0)] }
    s.coll? collK = some c ∧ s.waitState c 1 = some (1, 0) ∧ c.member 1 = some w ∧ 128 ≤ w.eng := by decide +kernel
/-- A BLAT's bytes that are due. -/
theorem witness_BlatWrite : let w : BlatW := { due := 0, ck := 0, loc := 2 ^ 52 + 0x40, data := [(5#8, false), (6#8, true)], sigSem := 3, sigInc := 1 }
    let s := base.updCore 0 fun k => { k with blat := [w] }
    (s.getCore 0).blat.filter (fun w => w.due ≤ s.clock) = [w] ∧ w.data.length ≤ 128 ∧ w.passed = [] := by decide +kernel

/-- A matrix operand that is poisoned, and one that its partition does not hold. -/
theorem witness_MatrixOtherFaults : (let c := mxOf (.mlatch hd0 { mx0 with k := 8#14, bstride := 64#16, btype := .i8, latch := 2#2 }) 0 0x00FFFF0000000100
      (((mxS c 0 none).addPoison (2 ^ 52 + 0x100) 64).mxFault 0).1.map (fun x => x.2.1.code) = some 10) ∧
    (let c := mxOf (.mlatch hd0 { mx0 with k := 8#14, bstride := 64#16, btype := .i8, latch := 2#2 }) 0 0x00FFFF1000000080
     (({ mxS c 0 none with parts := [(0, { valid := true, cols := 1#32 })] } : State).mxFault 0).1.map (fun x => x.2.1.code) = some 5) := by decide +kernel

/-- A team whose pod group names package 5: where that package has members (Config.podSize), rank 8 is one of them, and none has come. -/
def podLaunch : Launch := { placedLaunch [] 0 with pod := some (1, 0) }
def podTeam : State := { withColl coll0 0 with podgrp := [(1, { members := 0x21#64, valid := true })], launches := [((base.getCc 0).launch, podLaunch)], podform := 0x80000000#32 }
theorem podTeam_m : podTeam.collM podLaunch = 8 + (0 + Config.podSize 1 0 5) := by rfl
theorem witness_PodContribution (h : 0 < Config.podSize 1 0 5) : podTeam.launch? (keyLaunch collK) = some podLaunch ∧ podTeam.coll? collK = some coll0 ∧ coll0.member 8 = none ∧
    8 < podTeam.collM podLaunch ∧ podTeam.extMembers podLaunch (fun x => x < podTeam.pkgNum) + podLaunch.ownMembers ≤ 8 :=
  ⟨by decide +kernel, by decide +kernel, by decide +kernel, by rw [podTeam_m]; omega, by decide +kernel⟩

/-! ### One operation at a time, with values from the rules -/

/-- The results in flight on die 0 after an operation: register and value. -/
def out (i : Instr) (s : State) : List (Nat × Nat) :=
  match exec i s with
  | .next t => (t.getCd 0).pend.map fun p => (p.idx, p.val.toNat)
  | _ => []
/-- The state after an operation. -/
def aft (i : Instr) (s : State) : State :=
  match exec i s with
  | .next t => t
  | _ => State.reset
def rr (t : Ty) (a b : Nat) : FRRR := { rrr0 with ty := t, dst := .of 9, srcA := .of a, srcB := .of b }

/-- `baseK` with a handler. -/
def baseH : State := baseK.updCd 0 fun c => { c with tvec := 0x0000000100000011#64 }

/-- R302: 7 + 0x7FFFFFF9 wraps to the least .i32, which is sign-extended. -/
theorem test_add_wraps : out (.addi hd0 { rimm0 with ty := .i32, srcA := .of 3, dst := .of 9, imm := 0x7FFFFFF9#64 }) base = [(9, 0xFFFFFFFF80000000)] := by decide +kernel
/-- R41: a zero divisor gives all ones and the dividend. -/
theorem test_divide_by_zero : out (.div hd0 (rr .n32 3 0)) base = [(9, 0xFFFFFFFF)] ∧ out (.rem hd0 (rr .i64 3 0)) base = [(9, 7)] := by decide +kernel
/-- R41: the quotient truncates towards zero: 5 / 7 is 0, 7 rem 5 is 2. -/
theorem test_divide : out (.div hd0 (rr .i64 6 3)) base = [(9, 0)] ∧ out (.rem hd0 (rr .i64 3 6)) base = [(9, 2)] := by decide +kernel
/-- The registers of the worked results of R302 and R331. -/
def vals (l : List (Nat × DWord)) : State := base.updCd 0 fun c => { c with ws := { c.ws with s := l } }
/-- The worked results of R302 ("Suppose S2 = 0xFFFF_FFFF_8000_0000 and S3 = ..."). -/
theorem test_worked_a : let s := vals [(2, 0xFFFFFFFF80000000#64), (3, 0xFFFFFFFFFFFFFFFF#64)]
    [Instr.div hd0 (rr .i32 2 3), .div hd0 (rr .n32 2 3), .div hd0 (rr .i64 2 3), .clz hd0 (rr .n32 2 0), .cmp hd0 { rr .i64 2 3 with dst := .of 1, sub := 2#8 },
      .cmp hd0 { rr .n64 2 3 with dst := .of 1, sub := 2#8 }].map (out · s) = [[(9, 0xFFFFFFFF80000000)], [(9, 0)], [(9, 0x80000000)], [(9, 0)], [(1, 1)], [(1, 1)]] := by decide +kernel
/-- The worked results of R331 ("With S2 = 0xFFFF_FFFF_FFFF_FFFF, S3 = 2 and S6 = 0x0000_0000_8000_0000"). -/
theorem test_worked_b : let s := vals [(2, 0xFFFFFFFFFFFFFFFF#64), (3, 2#64), (6, 0x80000000#64)]
    [Instr.mulh hd0 (rr .i64 2 3), .mulh hd0 (rr .n64 2 3), .mul hd0 (rr .i32 6 3), .sra hd0 (rr .i32 6 3), .shr hd0 (rr .n32 6 3), .shl hd0 (rr .n32 6 6), .rem hd0 (rr .i64 2 0),
      .min hd0 (rr .i32 6 3), .movhi hd0 { rimm0 with srcA := .of 6, dst := .of 9, imm := 0x1234#64 }].map (out · s) =
    [0xFFFFFFFFFFFFFFFF, 1, 0, 0xFFFFFFFFE0000000, 0x20000000, 0x80000000, 0xFFFFFFFFFFFFFFFF, 0xFFFFFFFF80000000, 0x123480000000].map fun v => [(9, v)] := by decide +kernel
/-- R331: MOVHI puts IMM's low half above the source's low half. -/
theorem test_movhi : out (.movhi hd0 { rimm0 with srcA := .of 4, dst := .of 9, imm := 0xDEADBEEF#64 }) base = [(9, 0xDEADBEEF9ABCDEF0)] := by decide +kernel
/-- R40: 0xF0F0 shifted by 0xF0 (beyond 64) is zero, and its sign for SRA. -/
theorem test_shift_beyond : out (.shl hd0 (rr .n64 3 4)) base = [(9, 0)] ∧ out (.sra hd0 (rr .i32 4 4)) base = [(9, 0xFFFFFFFFFFFFFFFF)] := by decide +kernel
/-- R89: a write of S0 changes nothing. -/
theorem test_s0 : out (.movi hd0 { rimm0 with dst := .of 0, imm := 5#64 }) base = [(0, 5)] ∧ ((aft (.movi hd0 { rimm0 with dst := .of 0, imm := 5#64 }) base).getCd 0).pend.map (·.mask) = [0#512] := by decide +kernel
/-- R359: 2.0 + (−1.0) is 1.0 in lane 0, 1.0 + 3.0 is 4.0 in lane 1; four clocks later. -/
theorem test_vfadd : (out (.vfadd hd0 { rrr0 with ty := .f32, dst := .of 9, srcA := .of 1, srcB := .of 2 }) base).map (fun x => (x.1, x.2 % 2 ^ 64)) = [(9, 0x408000003F800000)] ∧
    ((aft (.vfadd hd0 { rrr0 with ty := .f32, dst := .of 9, srcA := .of 1, srcB := .of 2 }) base).getCd 0).pend.map (·.due) = [some 4] := by decide +kernel
/-- A vector of lanes, and `base` with vector and predicate registers. -/
def lanes (l : List Nat) : BitVec 512 := BitVec.ofNat 512 (l.zipIdx.foldl (fun a x => a + x.1 * 2 ^ (32 * x.2)) 0)
def vv (l : List (Nat × BitVec 512)) (p : List (Nat × BitVec 16)) : State := base.updCd 0 fun c => { c with ws := { c.ws with v := l, p := p } }
/-- The results' lanes. -/
def outv (i : Instr) (s : State) : List (Nat × List Nat) := (out i s).map fun x => (x.1, (List.range 16).map fun n => x.2 / 2 ^ (32 * n) % 2 ^ 32)
/-- R359, the worked comparison of a fused and an unfused multiply-add, to nearest and upwards. -/
theorem test_worked_fma : let s := vv [(2, lanes [0x3F800800]), (3, lanes [0x3F800800]), (4, lanes [0xBF800000])] []
    out (.vfma hd0 { rr .f32 2 3 with srcC := .of 4 }) s = [(9, 0x3A000400)] ∧ out (.vfmul hd0 (rr .f32 2 3)) s = [(9, 0x3F801000)] ∧
    out (.vfmul hd0 { rr .f32 2 3 with rm := 2#2 }) s = [(9, 0x3F801001)] := by decide +kernel
/-- R34 to R36, R370, the worked quantisation of one BK8 block: the data of part 0, the scale pair of part 1, and the supplied form. -/
theorem test_worked_quantise : let v1 := lanes ([0x42C80000, 0xC0533333, 0x417E0000, 0x417CCCCD, 0x3E000000, 0x3EC00000, 0x80000000, 0x427C0000, 0x0DA24260] ++ List.replicate 7 0x3F800000)
    let s := vv [(1, v1), (2, lanes (List.replicate 16 0x3F800000)), (11, lanes [0x8482])] []
    let tail := List.replicate 5 0x04040404 ++ List.replicate 8 0
    outv (.vquant hd0 { rr .bk8 1 2 with ty2 := .f32 }) s = [(9, [0x3F884DB2, 0xA0400200, 0x04040400] ++ tail)] ∧
    out (.vquant hd0 { rr .bk8 1 2 with ty2 := .f32, sub := 0x20#8 }) s = [(9, 0x8582)] ∧
    outv (.vquant hd0 { rr .bk8 1 2 with ty2 := .f32, srcC := .of 11, sub := 0x40#8 }) s = [(9, [0x3F904DBF, 0xBF400200, 0x04040400] ++ tail)] := by decide +kernel
/-- R32, R358: the bytes of that block decoded. -/
theorem test_worked_dequantise : outv (.vdeq hd0 { rr .f32 1 2 with ty2 := .bk8 }) (vv [(1, lanes [0xB2, 0x4D, 0x88, 0x3F, 0, 2, 0x40, 0xA0]), (2, lanes (List.replicate 16 0x8582))] []) =
    [(9, [0x42C80000, 0xC0500000, 0x41800000, 0x417C0000, 0, 0x3F000000, 0x80000000, 0x42800000, 0, 0, 0, 0, 0, 0, 0, 0])] := by decide +kernel
/-- R376, the worked sum over dies: 2^24 + 1.0 + 1.0 rounded once. -/
theorem test_worked_xred : out (.xred hd0 { rrr0 with ty := .f32, dst := .of 3, srcA := .of 5 }) (vv [(5, lanes [0x4B800000]), (85, lanes [0x3F800000]), (165, lanes [0x3F800000])] []) =
    [(3, 0x4B800001)] := by decide +kernel
/-- R356: 5, 3, 9, 1 with b = 2 makes pairs ascending and descending by turns. -/
theorem test_worked_vcas : (outv (.vcas hd0 { rr .n32 1 0 with sub := 0x10#8 }) (vv [(1, lanes [5, 3, 9, 1])] [])).map (·.2.take 4) = [[3, 5, 9, 1]] := by decide +kernel
/-- R335: the worked predicates. -/
theorem test_worked_predicates : let s := vv [] [(10, 0xF0#16), (11, 0xF30#16)]
    [Instr.pand hd0 (rr .b 10 11), .pfirst hd0 (rr .b 11 0)].map (out · s) = [[(9, 0x30)], [(9, 0x10)]] ∧ outv (.pcnt hd0 (rr .b 11 0)) s = [(9, List.replicate 16 6)] := by decide +kernel
/-- R43: only the enabled lanes, here the even ones, are written. -/
theorem test_predicate_mask : ((aft (.vmov hd0 { rrr0 with dst := .of 9, srcA := .of 1, pr := ⟨false, true, 1#6⟩ }) base).getCd 0).pend.map (fun p => p.mask.toNat % 2 ^ 128) = [0xFFFFFFFF00000000FFFFFFFF] := by
  decide +kernel
/-- R220: a store to the scratchpad is withheld, and a load of its context reads it; storage is as before. -/
theorem test_store_withheld : let s := aft (.st { hd0 with sigSem := 0#8, sigInc := 0#8 } (fm .i16 8 2 4 0)) base
    (s.getCd 0).blot.map (fun b => (b.loc - 2 ^ 52, b.mask)) = [(0x100, 0x300#64)] ∧ s.mem = base.mem ∧ out (.ld hd0 (fm .n16 8 2 9 0)) { s with cur := base.cur } = [(9, 0xDEF0)] := by decide +kernel
/-- R218, R221: a store that signals is a splice, which performs it: little-endian (R10). -/
theorem test_store_spliced : (aft (.st hd0 (fm .i16 8 2 4 0)) base).readBytes (2 ^ 52 + 0x107) 4 = [0#8, 0xF0#8, 0xDE#8, 0#8] := by decide +kernel
/-- R299: AMO leaves the old value and writes the new one: 0 and 0 + 7 (code 1 adds). -/
theorem test_amo : let f := { fm .n64 0x40 2 9 3 with sub := 1#8 }
    out (.amo hd0 f) base = [(9, 0)] ∧ (aft (.amo hd0 f) base).readBytes (2 ^ 52 + 0x140) 8 = [7#8, 0#8, 0#8, 0#8, 0#8, 0#8, 0#8, 0#8] := by decide +kernel
/-- R216, R329: a load at a misaligned address takes fault 0x06 cause 6 in slot 3, with the address in TREC0 and the bundle in TREC1, and its registers are not written. -/
theorem test_misaligned : let s := aft (.trapEntry 0) (aft (.ld hd0 (fm .n32 2 2 9 0)) baseH)
    (s.getCd 0).tstat = 0x0001000006180106#64 ∧ (s.getCd 0).trec = [(0, 0x00FFFF0000000102#64), (1, 0x1234#64)] ∧ (s.getCd 0).pend = [] := by decide +kernel
/-- R55, R69: BRA transfers to the bundle at its displacement, after two delay bundles. -/
theorem test_bra : ((aft (.bra hd0 { br0 with target := 4#32 }) baseK).getCc 0).cs.xfer = some ⟨some ⟨0, 6⟩, 2, false⟩ := by decide +kernel
/-- R336: CALL pushes the place behind its delay bundles; RET takes it. -/
theorem test_ret : ((aft (.ret hd0) (baseK.updCc 0 fun c => { c with cs := { c.cs with call := [(⟨0, 5⟩, 0)] } })).getCc 0).cs.xfer = some ⟨some ⟨0, 5⟩, 2, false⟩ := by decide +kernel
/-- R224: TRAP takes fault 0x0E with its code in INFO. -/
theorem test_trap : ((aft (.trapEntry 0) (aft (.trap hd0 { br0 with code := 0xABCD#16 }) baseH)).getCd 0).tstat = 0x0001ABCD0018010E#64 := by decide +kernel
/-- R212, R213: without a handler it is fault 0x0F. -/
theorem test_trap_unhandled : ((aft (.trapEntry 0) (aft (.trap hd0 { br0 with code := 0xABCD#16 }) base)).getCc 0).trap.map (fun x => (x.2.code, x.2.orig)) = [(0x0F, 0x0E)] := by decide +kernel
/-- R215, R217: a trap entered: code 2, INH bit 8, slot 3 from bit 19, die 0 from bit 48; the program counter at TVEC's bundle; what was issued before the splice has landed. -/
theorem test_trap_entry : let s := aft (.trapEntry 0) (trapped 0x0000000100000011#64)
    (s.getCc 0).cs.pc = ⟨1, 2⟩ ∧ (s.getCc 0).inh = true ∧ (s.getCd 0).tstat = BitVec.ofNat 64 (2 + 2 ^ 8 + 3 * 2 ^ 19 + 2 ^ 48) ∧ (s.getCd 0).tepc = 0#64 ∧
    SMap.get 0#64 (s.getCd 0).ws.s 5 = 9#64 := by decide +kernel
/-- R62, R341: a SIG counts one clock later, its header's signal too; a wait on a count that is not there blocks (R92). -/
theorem test_sig : ((aft (.sig hd0 { sync0 with sem := 9#8, count := 5#24 }) base).getCore 0).sigs.map (fun x => (x.due, x.sem, x.inc, x.set)) = [(1, 9, 5, false), (1, 3, 2, false)] ∧
    ((aft (.wsem hd0 { sync0 with sem := 9#8, count := 5#24 }) base).getCc 0).blk = some .wait := by decide +kernel
/-- R109: a lookup in an empty table finds nothing: bit 63. -/
theorem test_tlook : out (.tlook hd0 { sync0 with sregA := .of 4, sregB := .of 9 }) base = [(9, 0x8000000000000000)] := by decide +kernel
/-- R327, R90: after HALT the context is RETIRING, and then FREE. -/
theorem test_halt : ((aft (.halt hd0) base).getCc 0).st = .retiring ∧ ((aft (.contextRetireComplete 0) (aft (.halt hd0) base)).getCc 0).st = .free := by decide +kernel
/-- R178: an envelope in its launch state is −∞ at 2.0, with no line's tag. -/
theorem test_eeval : (out (.eeval hd0 { ev0 with vopA := .of 9, vopB := .of 10, vopC := .of 1 }) base).map (fun x => (x.1, x.2 % 2 ^ 32)) = [(9, 0xFF800000), (10, 0xFFFF)] := by decide +kernel
/-- R53: the first step after a launch issues its bundle: a no-operation, and an ADD, whose result is on its way. -/
theorem test_step : (match step (State.reset.withFetchWord 16 0) with
      | .next t => decide (t.issueCol = 1 ∧ (t.getCc 0).lastIss ≠ 0)
      | _ => false) = true ∧ (match step startAdd with
      | .next t => decide ((t.getCd 0).pend.map (·.idx) = [5] ∧ t.mem = [])
      | _ => false) = true := by decide +kernel
/-- R80, R258, R277: after a package reset every die is OFF, nothing runs, and memory lists nothing; a cold start has every die attested. -/
theorem test_reset : State.reset.dieLive 0 = false ∧ State.reset.mem = [] ∧ State.reset.inbox = [] := by decide
theorem test_cold_start : (List.range 18).all (fun k => ((aft (.coldStart []) State.reset).getSocket k).st == .attesting) = true := by decide +kernel

end Sys2Proof.Tests
end

section
/-! SUPPORT. Shifts, counts and moves (R40, R302, R331, R353, R355, R368): the model's arithmetic on numbers as operations on words, the elements
of a register, and one rule for each form of operation, from which each operation follows by its value. -/

namespace Sys2Proof.Machine

open Claims

/-! ### The model's arithmetic on numbers, as operations on words -/

theorem ofSigned_eq_ofInt (w : Nat) (x : Int) : ofSigned w x = (BitVec.ofInt w x).toNat := (BitVec.toNat_ofInt x).symm

theorem asSigned_eq_toInt (w x : Nat) : asSigned w x = (BitVec.ofNat w x).toInt := by
  have hw : w = 0 ∨ 2 ^ w = 2 * 2 ^ (w - 1) := by
    cases w with
    | zero => exact .inl rfl
    | succ w => exact .inr (Nat.pow_succ')
  unfold asSigned
  rw [BitVec.toInt_eq_toNat_cond, BitVec.toNat_ofNat]
  dsimp only
  rcases hw with rfl | hw
  · simp [Nat.mod_one]
  · rw [hw]; congr 1; simp only [eq_iff_iff]; omega

theorem asSigned_toNat {w : Nat} (a : BitVec w) : asSigned w a.toNat = a.toInt := by
  rw [asSigned_eq_toInt, BitVec.ofNat_toNat, BitVec.setWidth_eq]

/-- R300: the model extends a number as the word of its low bits is extended. -/
theorem extend_eq_ext (t : Ty) (w x : Nat) : extend t w x = ext t.signed (BitVec.ofNat w x) := by
  unfold extend ext
  split
  · rw [ofSigned_eq_ofInt, asSigned_eq_toInt, BitVec.ofNat_toNat, BitVec.setWidth_eq]; rfl
  · rw [← BitVec.toNat_ofNat, BitVec.ofNat_toNat]

/-- R40: an amount of the width or more gives zeros. -/
theorem shlW_toNat {w : Nat} (a : BitVec w) (n : Nat) : shlW w a.toNat n = (a <<< n).toNat := by
  unfold shlW
  split
  · next h => rw [BitVec.shiftLeft_eq_zero h]; rfl
  · rw [BitVec.toNat_shiftLeft, Nat.shiftLeft_eq]

theorem shrW_toNat {w : Nat} (a : BitVec w) (n : Nat) : shrW w a.toNat n = (a >>> n).toNat := by
  unfold shrW
  split
  · next h => rw [BitVec.ushiftRight_eq_zero h]; rfl
  · rw [BitVec.toNat_ushiftRight, Nat.shiftRight_eq_div_pow, Nat.mod_eq_of_lt a.isLt]

/-- R40: every amount of the width or more gives copies of the sign. -/
theorem sshiftRight_eq_of_width_le {w n : Nat} {a : BitVec w} (h : w ≤ n) : a.sshiftRight w = a.sshiftRight n := by
  refine BitVec.eq_of_getLsbD_eq fun i hi => ?_
  rw [BitVec.getLsbD_sshiftRight, BitVec.getLsbD_sshiftRight, if_neg (show ¬ w + i < w by omega), if_neg (show ¬ n + i < w by omega)]

theorem sraW_toNat {w : Nat} (a : BitVec w) (n : Nat) : sraW w a.toNat n = (a.sshiftRight n).toNat := by
  have hshift (m : Nat) : ofSigned w (asSigned w a.toNat / 2 ^ m) = (a.sshiftRight m).toNat := by
    rw [ofSigned_eq_ofInt, asSigned_toNat, BitVec.sshiftRight_eq, Int.shiftRight_eq_div_pow]; norm_cast
  unfold sraW
  rw [hshift]
  split
  · next h => rw [sshiftRight_eq_of_width_le h]
  · rfl

/-- R40: a rotation by `n` puts the top `n % 64` bits below the others. -/
theorem rol64_toNat (a : BitVec 64) (n : Nat) : rol64 a.toNat n = (a.rotateLeft (n % 64)).toNat := by
  have hk : n % 64 < 64 := Nat.mod_lt _ (by decide)
  unfold rol64
  rw [BitVec.toNat_rotateLeft, Nat.mod_mod]
  generalize n % 64 = k at hk
  have hpow : 2 ^ 64 = 2 ^ (64 - k) * 2 ^ k := by rw [← Nat.pow_add, Nat.sub_add_cancel hk.le]
  have htop : a.toNat / 2 ^ (64 - k) < 2 ^ k := Nat.div_lt_of_lt_mul (hpow ▸ a.isLt)
  have hlow : a.toNat * 2 ^ k % 2 ^ 64 = (a.toNat % 2 ^ (64 - k)) <<< k := by
    rw [hpow, Nat.mul_mod_mul_right, Nat.shiftLeft_eq]
  dsimp only
  rw [Nat.mod_eq_of_lt htop, hlow, Nat.shiftLeft_add_eq_or_of_lt htop, ← hlow, Nat.shiftLeft_eq, Nat.shiftRight_eq_div_pow]

/-! ### Leading zeros and 1 bits (R302, R331) -/

/-- A number's length is the least width that holds it. -/
theorem bitLen_le {n w : Nat} : bitLen n ≤ w ↔ n < 2 ^ w := by
  unfold bitLen
  split
  · next h => simp [h]
  · next h => rw [Nat.succ_le_iff, Nat.log2_lt h]

/-- The topmost 1 bit of a number. -/
theorem testBit_bitLen_pred {n : Nat} (h : n ≠ 0) : n.testBit (bitLen n - 1) = true := by
  rw [bitLen, if_neg h, Nat.add_sub_cancel]
  exact Nat.testBit_log2 h

/-- What precedes the first index at which `p` fails. -/
theorem length_takeWhile_range {p : Nat → Bool} {n k : Nat} (hk : k ≤ n) (hp : ∀ i < k, p i = true) (hn : k < n → p k = false) :
    ((List.range n).takeWhile p).length = k := by
  obtain ⟨m, rfl⟩ := Nat.exists_eq_add_of_le hk
  rw [List.range_add, List.takeWhile_append_of_pos fun i hi => hp i (List.mem_range.1 hi), List.length_append, List.length_range]
  cases m with
  | zero => rfl
  | succ m => rw [List.range_succ_eq_map, List.map_cons, List.takeWhile_cons_of_neg (by simp [hn])]; rfl

/-- R302: the leading zeros are the bits above the topmost 1 bit. -/
theorem clzW_toNat {w : Nat} (a : BitVec w) : clzW w a.toNat = leadingZeros a := by
  have hlen : bitLen a.toNat ≤ w := bitLen_le.2 a.isLt
  unfold clzW leadingZeros
  rw [Nat.mod_eq_of_lt a.isLt]
  refine (length_takeWhile_range (Nat.sub_le _ _) (fun i hi => ?_) fun hn => ?_).symm
  · have hlt : a.toNat < 2 ^ (w - 1 - i) := bitLen_le.1 (by omega)
    rw [BitVec.getLsbD, Nat.testBit_lt_two_pow hlt]; rfl
  · have h0 : a.toNat ≠ 0 := fun e => by simp [e, bitLen] at hn
    rw [BitVec.getLsbD, show w - 1 - (w - bitLen a.toNat) = bitLen a.toNat - 1 by omega, testBit_bitLen_pred h0]; rfl

/-- Counting bit by bit from bit 0 up. -/
theorem popW_eq_filter (w x : Nat) : popW w x = ((List.range w).filter x.testBit).length := by
  induction w generalizing x with
  | zero => rfl
  | succ w ih =>
    have hshift : (x.testBit ∘ Nat.succ) = (x / 2).testBit := funext fun i => Nat.testBit_succ x i
    rw [popW, ih, List.range_succ_eq_map, List.filter_cons, List.filter_map, hshift, Nat.testBit_zero]
    rcases Nat.mod_two_eq_zero_or_one x with e | e <;> simp [e, Nat.add_comm]

theorem popW_toNat {w : Nat} (a : BitVec w) : popW w a.toNat = ones a := popW_eq_filter w a.toNat

/-! ### Scalar operations -/

/-- R303: what an operation of two S registers leaves in flight, from the value of its operands' low bits. -/
theorem scalar2_of_aluT {mk : Hdr → FRRR → Instr} {lat : Nat} {r : Ty → Nat → Nat → Nat → Nat}
    {val : Bool → (w : Nat) → BitVec w → BitVec w → BitVec w}
    (hexec : ∀ h f s, exec (mk h f) s = s.attempt fun s => s.aluT h f lat r)
    (hval : ∀ h f, (mk h f).legal = true → ∀ a b : BitVec f.ty.width,
      BitVec.ofNat f.ty.width (r f.ty f.ty.width a.toNat b.toNat) = val f.ty.signed f.ty.width a b) :
    Scalar2 mk lat val := by
  intro s h f hlegal hready hok
  refine State.attempt_delivers _ s h _ lat .s f.dst.n _ _ (fun _ => 0) 0 (fun d => (s.ctxD d).ws.slots) hready _ (hexec h f s) rfl ?_
  intro d hd o hsame hcd
  obtain ⟨ha, hb, hw⟩ := hok d hd
  have hsees := Sees.start hsame hcd
  have hv := hval h f hlegal (low f.ty (sreg s d f.srcA)) (low f.ty (sreg s d f.srcB))
  rw [low, low, BitVec.toNat_ofNat, BitVec.toNat_ofNat] at hv
  dsimp only
  rw [hsees.rdS ha, hsees.rdS hb, extend_eq_ext, hv]
  exact hsees.result (State.enabled_lt hd) (cc0_lt hready.col hready.ctx) hw h lat _ _ 0 0

/-- R303: the same for an operation of one S register. -/
theorem scalar1_of_alu1 {mk : Hdr → FRRR → Instr} {r : Nat → Nat → Nat} {val : (w : Nat) → BitVec w → BitVec w}
    (hexec : ∀ h f s, exec (mk h f) s = s.attempt fun s => s.alu1 h f 1 r)
    (hval : ∀ (w : Nat) (a : BitVec w), BitVec.ofNat w (r w a.toNat) = val w a) : Scalar1 mk val := by
  intro s h f _ hready hok
  refine State.attempt_delivers _ s h _ 1 .s f.dst.n _ _ (fun _ => 0) 0 (fun d => (s.ctxD d).ws.slots) hready _ (hexec h f s) rfl ?_
  intro d hd o hsame hcd
  obtain ⟨ha, hw⟩ := hok d hd
  have hsees := Sees.start hsame hcd
  have hv := hval f.ty.width (low f.ty (sreg s d f.srcA))
  rw [low, BitVec.toNat_ofNat] at hv
  dsimp only
  rw [hsees.rdS ha, extend_eq_ext, hv]
  exact hsees.result (State.enabled_lt hd) (cc0_lt hready.col hready.ctx) hw h 1 _ _ 0 0

theorem ofNat_of_eq_toNat {w x : Nat} {a : BitVec w} (h : x = a.toNat) : BitVec.ofNat w x = a := by
  rw [h, BitVec.ofNat_toNat, BitVec.setWidth_eq]

/-- R76: a legal operation's types are among those that its entry lists. -/
theorem tyOk_of_legal {i : Instr} (hl : i.legal = true) : (chkOf i).tyOk = true := by
  cases hh : i.head with
  | none => simp [Instr.legal, hh] at hl
  | some c =>
    have hcause : causeOf c.1 c.2 i = none := by simpa [Instr.legal, hh] using hl
    unfold causeOf at hcause
    dsimp only at hcause
    split_ifs at hcause with _ _ hty
    simpa using hty

/-- R331: ROL is an operation of 64-bit types. -/
theorem width_of_legal_rol {h : Hdr} {f : FRRR} (hl : (Instr.rol h f).legal = true) : f.ty.width = 64 := by
  have hty : f.ty = .b ∨ f.ty = .n64 := by simpa [chkOf, scChk, rrrChk] using tyOk_of_legal hl
  rcases hty with e | e <;> rw [e] <;> rfl

/-- R40, R302, R331: the scalar half of the obligation. -/
theorem scalarShiftCount : ScalarShiftCount := by
  refine ⟨?shl, ?shr, ?sra, ?rol, ?clz, ?popc⟩
  case shl =>
    exact scalar2_of_aluT (r := fun _ w a b => shlW w a (b % 256)) (fun _ _ _ => rfl)
      fun _ _ _ a _ => ofNat_of_eq_toNat (shlW_toNat a _)
  case shr =>
    exact scalar2_of_aluT (r := fun _ w a b => shrW w a (b % 256)) (fun _ _ _ => rfl)
      fun _ _ _ a _ => ofNat_of_eq_toNat (shrW_toNat a _)
  case sra =>
    exact scalar2_of_aluT (r := fun _ w a b => sraW w a (b % 256)) (fun _ _ _ => rfl)
      fun _ _ _ a _ => ofNat_of_eq_toNat (sraW_toNat a _)
  case rol =>
    refine scalar2_of_aluT (r := fun _ _ a b => rol64 a (b % 256)) (fun _ _ _ => rfl) fun h f hl a b => ?_
    have hw := width_of_legal_rol hl
    generalize f.ty.width = w at *
    subst hw
    exact ofNat_of_eq_toNat (rol64_toNat a _)
  case clz => exact scalar1_of_alu1 (r := clzW) (fun _ _ _ => rfl) fun _ a => congrArg _ (clzW_toNat a)
  case popc => exact scalar1_of_alu1 (r := popW) (fun _ _ _ => rfl) fun _ a => congrArg _ (popW_toNat a)

/-! ### Elements of a register (R353) -/

theorem vw_eq_vwidth (t : Ty) : vw t = vwidth t := by cases t <;> rfl

theorem vwidth_pos (t : Ty) : 0 < vwidth t := by cases t <;> decide

/-- R353: a register holds a whole number of elements of every type. -/
theorem vwidth_dvd (t : Ty) : vwidth t ∣ 512 := by cases t <;> decide

/-- Fields of one width fill no more than their bits. -/
theorem packFields_replicate_lt (w n : Nat) (l : List Nat) : packFields (List.replicate n w) l < 2 ^ (w * n) := by
  induction n generalizing l with
  | zero => simp [packFields]
  | succ n ih =>
    cases l with
    | nil => simp [packFields, List.replicate_succ]
    | cons x l =>
      have hx : x % 2 ^ w < 2 ^ w := Nat.mod_lt _ (by positivity)
      have hl : 2 ^ w * (packFields (List.replicate n w) l + 1) ≤ 2 ^ w * 2 ^ (w * n) := Nat.mul_le_mul_left _ (ih l)
      rw [Nat.mul_add, Nat.mul_one] at hl
      rw [List.replicate_succ, packFields, Nat.mul_succ w n, Nat.add_comm (w * n), Nat.pow_add]
      omega

/-- Field `i` of a word packed from fields of one width. -/
theorem packFields_replicate_field (w n : Nat) (l : List Nat) (i : Nat) (hi : i < n) :
    packFields (List.replicate n w) l / 2 ^ (w * i) % 2 ^ w = l.getD i 0 % 2 ^ w := by
  induction n generalizing l i with
  | zero => omega
  | succ n ih =>
    cases l with
    | nil => simp [packFields, List.replicate_succ]
    | cons x l =>
      rw [List.replicate_succ, packFields]
      cases i with
      | zero => simp
      | succ i =>
        have hx : (x % 2 ^ w + 2 ^ w * packFields (List.replicate n w) l) / 2 ^ w = packFields (List.replicate n w) l := by
          rw [Nat.add_mul_div_left _ _ (by positivity), Nat.div_eq_of_lt (Nat.mod_lt _ (by positivity)), Nat.zero_add]
        rw [Nat.mul_succ, Nat.add_comm (w * i), Nat.pow_add, ← Nat.div_div_eq_div_mul, hx, List.getD_cons_succ]
        exact ih l i (by omega)

theorem unpackFields_replicate (w n x : Nat) :
    unpackFields (List.replicate n w) x = (List.range n).map fun i => x / 2 ^ (w * i) % 2 ^ w := by
  induction n generalizing x with
  | zero => rfl
  | succ n ih =>
    rw [List.replicate_succ, unpackFields, ih, List.range_succ_eq_map, List.map_cons, List.map_map]
    congr 1
    · simp
    · refine List.map_congr_left fun i _ => ?_
      rw [Function.comp, Nat.succ_eq_add_one, Nat.mul_succ, Nat.add_comm (w * i), Nat.pow_add, Nat.div_div_eq_div_mul]

/-- R353: the elements of a register, in order. -/
theorem elems_eq_map (w : Nat) (v : Vec) : elems w v = (List.range (512 / w)).map fun i => (elem w v i).toNat := by
  rw [elems, unpackFields_replicate]
  refine List.map_congr_left fun i _ => ?_
  rw [elem, BitVec.extractLsb'_toNat, Nat.shiftRight_eq_div_pow]

/-- R353: the elements of width `w` that lie within a register. -/
theorem lt_count_iff {w i : Nat} (hw : 0 < w) : i < 512 / w ↔ w * (i + 1) ≤ 512 := by
  rw [← Nat.succ_le_iff, Nat.le_div_iff_mul_le hw, Nat.mul_comm]

/-- R353: element `i` of the register that a list of elements makes. -/
theorem elem_ofElems {w i : Nat} (hw : 0 < w) (hi : w * (i + 1) ≤ 512) (l : List Nat) : elem w (ofElems w l) i = BitVec.ofNat w (l.getD i 0) := by
  have hlt := (packFields_replicate_lt w (512 / w) l).trans_le (Nat.pow_le_pow_right Nat.two_pos (Nat.mul_div_le 512 w))
  apply BitVec.eq_of_toNat_eq
  rw [elem, BitVec.extractLsb'_toNat, ofElems, BitVec.toNat_ofNat, Nat.mod_eq_of_lt hlt, Nat.shiftRight_eq_div_pow, BitVec.toNat_ofNat]
  exact packFields_replicate_field w _ l i ((lt_count_iff hw).2 hi)

theorem getD_map_range {α : Type} {n i : Nat} (hi : i < n) (g : Nat → α) (z : α) : ((List.range n).map g).getD i z = g i := by
  simp [hi]

/-- R353: bit `j` of a register is a bit of the element that covers it. -/
theorem getLsbD_eq_elem {w : Nat} (hw : 0 < w) (v : Vec) (j : Nat) : v.getLsbD j = (elem w v (j / w)).getLsbD (j % w) := by
  rw [elem, BitVec.getLsbD_extractLsb', Nat.div_add_mod, decide_eq_true (Nat.mod_lt j hw), Bool.true_and]

/-- R43, R353: the bits written are those of the enabled elements. -/
theorem getLsbD_elemMask {w j : Nat} (hw : 0 < w) (hd : w ∣ 512) (hj : j < 512) (on : Nat → Bool) :
    (elemMask w on).getLsbD j = elemOn w on (j / w) := by
  have hc : j / w < 512 / w := Nat.div_lt_div_of_lt_of_dvd hd hj
  rw [getLsbD_eq_elem hw, elemMask, elem_ofElems hw ((lt_count_iff hw).1 hc), getD_map_range hc]
  cases elemOn w on (j / w) with
  | false => simp
  | true => simp [BitVec.getLsbD_ofNat, Nat.testBit_two_pow_sub_one, Nat.mod_lt j hw]

/-- R43: a flag is set where an enabled element sets it. -/
theorem testBit_foldl_orFl (p : Nat → Bool) (k : Nat) (l : List (Nat × Nat)) (a : Nat) :
    (l.foldl (fun a x => if p x.1 then orFl a x.2 else a) a).testBit k = true ↔
      a.testBit k = true ∨ ∃ x ∈ l, p x.1 = true ∧ x.2.testBit k = true := by
  induction l generalizing a with
  | nil => simp
  | cons x l ih =>
    rw [List.foldl_cons, ih]
    cases hx : p x.1 <;> simp [hx, orFl, Nat.testBit_or, or_assoc]

theorem testBit_orFlags (w : Nat) (on : Nat → Bool) (n : Nat) (g : Nat → Nat) (k : Nat) :
    (orFlags w on ((List.range n).map g)).testBit k = true ↔ ∃ i < n, elemOn w on i = true ∧ (g i).testBit k = true := by
  have hz : (List.range n).zip ((List.range n).map g) = (List.range n).map fun i => (i, g i) := by
    simpa using List.zip_map' (f := id) (g := g) (l := List.range n)
  rw [orFlags, List.length_map, List.length_range, hz, testBit_foldl_orFl]
  simp

/-! ### Vector operations (R353) -/

/-- The value of source `k` of an operation of `n` sources: what the model takes for a source that it does not read is zero. -/
def vsrc (s : State) (d n k pos : Nat) (r : Reg) : Vec := if k ≤ n then src s d pos .v r else 0#512

/-- The latches after source `k` of an operation of `n` sources. -/
def vlatched (s : State) (d n k pos : Nat) (r : Reg) (sl : SMap SlotDie) : SMap SlotDie :=
  if k ≤ n then latched sl s.cur.slot pos r (src s d pos .v r) else sl

theorem holds_vlatched_other (s : State) (d n k : Nat) {pos pos' : Nat} (r : Reg) (sl : SMap SlotDie) (h : pos' ≠ pos) :
    holds (vlatched s d n k pos r sl) s.cur.slot pos' = holds sl s.cur.slot pos' := by
  unfold vlatched
  split
  · exact holds_latched_other _ _ _ _ _ _ h
  · rfl

/-- R58: source `k` of an operation of `n` sources, where it has a value. -/
theorem Sees.rdVsrc {o s : State} {d : Nat} {sl : SMap SlotDie} (h : Sees o s d sl) (hd : d < 8) (hc : s.cc0 < 128) {n k pos : Nat} {r : Reg}
    (hs : k ≤ n → SrcOk s d pos .v r) (hl : holds sl s.cur.slot pos = SMap.get none (s.slotD d).hold pos) :
    ∃ o', (if n ≥ k then o.rdSrc d pos .v r else (0#512, o)) = (vsrc s d n k pos r, o') ∧ Sees o' s d (vlatched s d n k pos r sl) ∧
      ∀ j, j ≠ s.ck0 d → o'.getCd j = o.getCd j := by
  unfold vsrc vlatched
  by_cases hk : k ≤ n
  · simp only [ge_iff_le, if_pos hk]
    exact h.rdSrc hd hc (hs hk) hl
  · simp only [ge_iff_le, if_neg hk]
    exact ⟨o, rfl, h, fun _ _ => rfl⟩

/-- The latches after the three sources of an operation of `n` sources. -/
def vlatches (s : State) (d n : Nat) (f : FRRR) : SMap SlotDie :=
  vlatched s d n 3 113 f.srcC <| vlatched s d n 2 102 f.srcB <| vlatched s d n 1 91 f.srcA (s.ctxD d).ws.slots

/-- R353: what `op` gives on the elements of the first `n` sources of an operation, of width `w`: each element's value with its flags. -/
def vresults (s : State) (d n w : Nat) (f : FRRR) (op : Nat → Nat → Nat → Nat → Nat × Nat) : List (Nat × Nat) :=
  (List.range (512 / w)).map fun i => op i (elem w (vsrc s d n 1 91 f.srcA) i).toNat (elem w (vsrc s d n 2 102 f.srcB) i).toNat
    (elem w (vsrc s d n 3 113 f.srcC) i).toNat

/-- R353: the model walks the elements of the three sources together. -/
theorem zip_elems (w : Nat) (a b c : Vec) (op : Nat → Nat → Nat → Nat → Nat × Nat) :
    ((List.range (512 / w)).zip ((elems w a).zip ((elems w b).zip (elems w c)))).map (fun x => op x.1 x.2.1 x.2.2.1 x.2.2.2) =
      (List.range (512 / w)).map fun i => op i (elem w a i).toNat (elem w b i).toNat (elem w c i).toNat := by
  have hid : (List.range (512 / w)).map id = List.range (512 / w) := List.map_id _
  rw [elems_eq_map, elems_eq_map, elems_eq_map, List.zip_map', List.zip_map']
  conv_lhs => rw [← hid]
  rw [List.map_map, List.zip_map', List.map_map]
  rfl

/-- R353: what a vector operation of `n` sources leaves in flight on a die. -/
theorem vecDie_sets {s o : State} {h : Hdr} {f : FRRR} {n d : Nat} (hready : Ready s h) (hd : d ∈ s.enabled h) (hn : 1 ≤ n)
    (hsrc : SrcsOk s d f n) (hw : Writable s d .v f.dst.n) (hsame : SameBut o s.noAtt) (hcd : o.getCd (s.ck0 d) = s.getCd (s.ck0 d))
    (lat w : Nat) (op : Nat → Nat → Nat → Nat → Nat × Nat) :
    Sets s.noAtt o (o.vecDie h f lat n w op d) d
      { s.getCd (s.ck0 d) with
        pend := (s.getCd (s.ck0 d)).pend ++ [resultOf s h false lat .v f.dst.n (ofElems w ((vresults s d n w f op).map Prod.fst))
          (elemMask w (acts s d f.pr)) (orFlags w (acts s d f.pr) ((vresults s d n w f op).map Prod.snd)) h.group.toNat]
        ws := { (s.getCd (s.ck0 d)).ws with slots := vlatches s d n f } } := by
  have hd8 := State.enabled_lt hd
  have hcc := cc0_lt hready.col hready.ctx
  obtain ⟨hpr, ha, hb, hc⟩ := hsrc
  have hsees := Sees.start hsame hcd
  obtain ⟨o1, e1, h1, k1⟩ := hsees.rdVsrc hd8 hcc ha rfl
  obtain ⟨o2, e2, h2, k2⟩ := h1.rdVsrc hd8 hcc hb (holds_vlatched_other _ _ _ _ _ _ (by decide))
  obtain ⟨o3, e3, h3, k3⟩ := h2.rdVsrc hd8 hcc hc
    ((holds_vlatched_other _ _ _ _ _ _ (by decide)).trans (holds_vlatched_other _ _ _ _ _ _ (by decide)))
  rw [if_pos hn] at e1
  simp only [State.vecDie, hsees.lanes hpr, e1, e2, e3, zip_elems]
  exact (h3.result hd8 hcc hw h lat _ _ _ _).after fun k hk => (k3 k hk).trans ((k2 k hk).trans (k1 k hk))

/-- R353: a vector operation whose elements are `op`'s, in the terms of `VectorOp`. -/
theorem vectorOp_of_vecDie {mk : Hdr → FRRR → Instr} {lat n : Nat} {wd : Ty → Nat}
    {val : (f : FRRR) → (w : Nat) → BitVec w → BitVec w → BitVec w → BitVec w} {flg : FRRR → Nat → Nat → Nat → Nat}
    {op : FRRR → Nat → Nat → Nat → Nat → Nat × Nat} (hn : 1 ≤ n)
    (hexec : ∀ h f s, exec (mk h f) s = s.attempt fun s => s.onDies h fun d s => s.vecDie h f lat n (wd f.ty) (op f) d)
    (hpos : ∀ t, 0 < wd t) (hdvd : ∀ t, wd t ∣ 512)
    (hval : ∀ h f, (mk h f).legal = true → ∀ (i : Nat) (a b c b' c' : BitVec (wd f.ty)), (2 ≤ n → b = b') → (3 ≤ n → c = c') →
      BitVec.ofNat _ (op f i a.toNat b.toNat c.toNat).1 = val f _ a b' c' ∧
      (op f i a.toNat b.toNat c.toNat).2 = flg f a.toNat b'.toNat c'.toNat) :
    VectorOp mk lat n wd val flg := by
  intro s h f hlegal hready hok
  refine ⟨fun d => ofElems (wd f.ty) ((vresults s d n (wd f.ty) f (op f)).map Prod.fst), fun d => elemMask (wd f.ty) (acts s d f.pr),
    fun d => orFlags (wd f.ty) (acts s d f.pr) ((vresults s d n (wd f.ty) f (op f)).map Prod.snd),
    State.attempt_delivers _ s h _ lat .v f.dst.n _ _ _ _ (fun d => vlatches s d n f) hready _ (hexec h f s) rfl
      fun d hd o hsame hcd => vecDie_sets hready hd hn (hok d hd).1 (hok d hd).2 hsame hcd lat _ _, fun d hd => ?_⟩
  have hop (i : Nat) := hval h f hlegal i (elem _ (vsrc s d n 1 91 f.srcA) i) (elem _ (vsrc s d n 2 102 f.srcB) i)
    (elem _ (vsrc s d n 3 113 f.srcC) i) (elem _ (src s d 102 .v f.srcB) i) (elem _ (src s d 113 .v f.srcC) i)
    (fun h2 => by rw [vsrc, if_pos h2]) (fun h3 => by rw [vsrc, if_pos h3])
  have hA : vsrc s d n 1 91 f.srcA = src s d 91 .v f.srcA := if_pos hn
  rw [hA] at hop
  refine ⟨fun i hi => ?_, fun j hj => getLsbD_elemMask (hpos _) (hdvd _) hj _, fun k hk => ?_⟩
  · rw [elem_ofElems (hpos _) hi, vresults, List.map_map, getD_map_range ((lt_count_iff (hpos _)).2 hi), Function.comp, hA, (hop i).1]
  · rw [BitVec.getLsbD_ofNat, decide_eq_true hk, Bool.true_and]
    simp only [vresults, List.map_map, testBit_orFlags, Function.comp, hA, (hop _).2, lt_count_iff (hpos _)]
    rfl

/-- R353: a vector integer operation whose elements are `op`'s. -/
theorem vectorInt_of_vec {mk : Hdr → FRRR → Instr} {n : Nat} {op : FRRR → Nat → Nat → Nat → Nat → Nat}
    {val : Bool → (w : Nat) → BitVec w → BitVec w → BitVec w → BitVec w} (hn : 1 ≤ n)
    (hexec : ∀ h f s, exec (mk h f) s = s.attempt fun s => s.vec h f 2 n (op f))
    (hval : ∀ f (w : Nat) (a b c b' c' : BitVec w), (2 ≤ n → b = b') → (3 ≤ n → c = c') →
      BitVec.ofNat w (op f w a.toNat b.toNat c.toNat) = val f.ty.signed w a b' c') :
    VectorInt mk n val := by
  refine vectorOp_of_vecDie (op := fun f _ a b c => (op f (vwidth f.ty) a b c % 2 ^ vwidth f.ty, 0)) hn (fun h f s => ?_) vwidth_pos vwidth_dvd
    fun h f _ _ a b c b' c' hb hc => ⟨?_, rfl⟩
  · rw [hexec, ← vw_eq_vwidth]; rfl
  · rw [← hval f _ a b c b' c' hb hc]; exact BitVec.eq_of_toNat_eq (by simp)

/-- R353, R368: VMOVI's immediate fills every element. -/
theorem vmovi_delivers (s : State) (h : Hdr) (f : FRIMM) (hready : Ready s h)
    (hok : ∀ d ∈ s.enabled h, PrOk s d f.pr ∧ Writable s d .v f.dst.n) :
    ∃ v mask fl, Delivers (.vmovi h f) s h 2 .v f.dst.n v mask fl h.group.toNat ∧
      Elements s h f.pr (vwidth f.ty) (fun _ _ => BitVec.ofNat _ f.imm.toNat) (fun _ _ => 0) v mask fl := by
  refine ⟨fun _ => ofElems (vwidth f.ty) (List.replicate (512 / vwidth f.ty) f.imm.toNat), fun d => elemMask (vwidth f.ty) (acts s d f.pr),
    fun _ => 0, ?_, fun d _ => ⟨fun i hi => ?_, fun j hj => getLsbD_elemMask (vwidth_pos _) (vwidth_dvd _) hj _, fun k _ => by simp⟩⟩
  · refine State.attempt_delivers _ s h (fun d s => s.vmoviDie h f d) 2 .v f.dst.n _ _ _ _ (fun d => (s.ctxD d).ws.slots) hready (opVmovi h f)
      rfl rfl fun d hd o hsame hcd => ?_
    obtain ⟨hpr, hw⟩ := hok d hd
    have hsees := Sees.start hsame hcd
    unfold State.vmoviDie
    dsimp only
    rw [hsees.lanes hpr, vw_eq_vwidth]
    exact hsees.result (State.enabled_lt hd) (cc0_lt hready.col hready.ctx) hw h 2 _ _ _ _
  · have hc := (lt_count_iff (vwidth_pos f.ty)).2 hi
    rw [elem_ofElems (vwidth_pos _) hi]
    simp [hc]

/-- R368: two's complement negation. -/
theorem ofNat_two_pow_sub {w : Nat} (a : BitVec w) : BitVec.ofNat w (2 ^ w - a.toNat) = -a :=
  BitVec.eq_of_toNat_eq (by rw [BitVec.toNat_ofNat, BitVec.toNat_neg])

/-- R40, R355, R368: the vector half of the obligation. -/
theorem vectorShiftMove : VectorShiftMove := by
  refine ⟨?vshl, ?vshr, ?vsra, ?vabs, ?vneg, ?vclz, ?vmov, vmovi_delivers⟩
  case vshl =>
    exact vectorInt_of_vec (op := fun _ w a b _ => shlW w a (b % 256)) (by decide) (fun _ _ _ => rfl)
      fun _ _ a _ _ _ _ hb _ => hb le_rfl ▸ ofNat_of_eq_toNat (shlW_toNat a _)
  case vshr =>
    exact vectorInt_of_vec (op := fun _ w a b _ => shrW w a (b % 256)) (by decide) (fun _ _ _ => rfl)
      fun _ _ a _ _ _ _ hb _ => hb le_rfl ▸ ofNat_of_eq_toNat (shrW_toNat a _)
  case vsra =>
    exact vectorInt_of_vec (op := fun _ w a b _ => sraW w a (b % 256)) (by decide) (fun _ _ _ => rfl)
      fun _ _ a _ _ _ _ hb _ => hb le_rfl ▸ ofNat_of_eq_toNat (sraW_toNat a _)
  case vabs =>
    exact vectorInt_of_vec (op := fun _ w a _ _ => (asSigned w a).natAbs) (by decide) (fun _ _ _ => rfl)
      fun _ w a _ _ _ _ _ _ => congrArg (fun x : Int => BitVec.ofNat w x.natAbs) (asSigned_toNat a)
  case vneg =>
    exact vectorInt_of_vec (op := fun _ w a _ _ => 2 ^ w - a) (by decide) (fun _ _ _ => rfl)
      fun _ _ a _ _ _ _ _ _ => ofNat_two_pow_sub a
  case vclz =>
    exact vectorInt_of_vec (op := fun _ w a _ _ => clzW w a) (by decide) (fun _ _ _ => rfl)
      fun _ _ a _ _ _ _ _ _ => congrArg _ (clzW_toNat a)
  case vmov =>
    exact vectorInt_of_vec (op := fun _ _ a _ _ => a) (by decide) (fun _ _ _ => rfl)
      fun _ _ a _ _ _ _ _ _ => ofNat_of_eq_toNat rfl

/-- Settles O8: each operation leaves its result by one rule for its format, and its value on numbers is the operation on words. -/
theorem shiftsAndCounts : Obligations.ShiftsAndCounts := by
  unfold Obligations.ShiftsAndCounts
  exact ⟨scalarShiftCount, vectorShiftMove⟩

end Sys2Proof.Machine
end

section
/-! SUPPORT. VFCMP (R360): predicate words packed from bits, the order of FP32 data, and what the decoder answers to a word of format RRR
that the encoder gives. -/

namespace Sys2Proof

open Machine Claims

/-! ### Exact sums (R37) -/

/-- The value of a finite term: its sign, its magnitude and its exponent. -/
def termVal (t : Bool × Nat × Int) : ℚ := (if t.1 then -1 else 1) * (t.2.1 : ℚ) * (2 : ℚ) ^ t.2.2

theorem termVal_not (neg : Bool) (m : Nat) (e : Int) : termVal (!neg, m, e) = -termVal (neg, m, e) := by
  cases neg <;> simp [termVal]

/-- The least of a start and the exponents of terms. -/
def leastExp (ts : List (Bool × Nat × Int)) (a : Int) : Int := ts.foldl (fun a t => if t.2.2 < a then t.2.2 else a) a

/-- Terms added one by one to a start, in units of 2^`g`. -/
def sumScaled (g : Int) (ts : List (Bool × Nat × Int)) (a : Int) : Int :=
  ts.foldl (fun a t => if t.1 then a - (t.2.1 : Int) * 2 ^ (t.2.2 - g).toNat else a + (t.2.1 : Int) * 2 ^ (t.2.2 - g).toNat) a

theorem sumExact_eq (ts : List (Bool × Nat × Int)) : sumExact ts = (sumScaled (leastExp ts 0) ts 0, leastExp ts 0) := rfl

theorem leastExp_le (ts : List (Bool × Nat × Int)) (a : Int) : leastExp ts a ≤ a ∧ ∀ t ∈ ts, leastExp ts a ≤ t.2.2 := by
  induction ts generalizing a with
  | nil => simp [leastExp]
  | cons t ts ih =>
    obtain ⟨hstart, hterms⟩ := ih (if t.2.2 < a then t.2.2 else a)
    rw [leastExp, List.foldl_cons, ← leastExp]
    refine ⟨hstart.trans (by split <;> omega), fun u hu => ?_⟩
    rcases List.mem_cons.1 hu with rfl | hu
    · exact hstart.trans (by split <;> omega)
    · exact hterms u hu

/-- A term's magnitude scaled to an exponent at or below its own has the term's value. -/
theorem scaled_mul_zpow {m : Nat} {e g : Int} (h : g ≤ e) :
    (((m : Int) * 2 ^ (e - g).toNat : Int) : ℚ) * (2 : ℚ) ^ g = (m : ℚ) * (2 : ℚ) ^ e := by
  have hpow : (2 : ℚ) ^ (e - g).toNat = (2 : ℚ) ^ (e - g) := by rw [← zpow_natCast, Int.toNat_of_nonneg (by omega)]
  push_cast
  rw [hpow, mul_assoc, ← zpow_add₀ two_ne_zero, sub_add_cancel]

/-- The sum in units of 2^`g`, where `g` lies at or below every exponent, has the sum of the terms' values. -/
theorem sumScaled_value {g : Int} (ts : List (Bool × Nat × Int)) (a : Int) (h : ∀ t ∈ ts, g ≤ t.2.2) :
    (sumScaled g ts a : ℚ) * (2 : ℚ) ^ g = a * (2 : ℚ) ^ g + (ts.map termVal).sum := by
  induction ts generalizing a with
  | nil => simp [sumScaled]
  | cons t ts ih =>
    have hscale := scaled_mul_zpow (m := t.2.1) (h t List.mem_cons_self)
    rw [sumScaled, List.foldl_cons, ← sumScaled, ih _ fun u hu => h u (List.mem_cons_of_mem _ hu), List.map_cons, List.sum_cons,
      ← add_assoc, termVal, mul_assoc, ← hscale]
    congr 1
    split <;> push_cast <;> ring

/-- R37: the exact sum of terms has the sum of their values. -/
theorem sumExact_value (ts : List (Bool × Nat × Int)) :
    ((sumExact ts).1 : ℚ) * (2 : ℚ) ^ (sumExact ts).2 = (ts.map termVal).sum := by
  simp [sumExact_eq, sumScaled_value ts 0 (leastExp_le ts 0).2]

/-! ### The order of FP32 data (R360) -/

/-- R37: numbers compare by their exact values. −0 and +0 have one value. -/
theorem fpLt_fin (x y : Bool) (m n : Nat) (e g : Int) :
    fpLt (.fin x m e) (.fin y n g) = decide (termVal (x, m, e) < termVal (y, n, g)) := by
  have hsum := sumExact_value [(x, m, e), (!y, n, g)]
  have hpos : (0 : ℚ) < 2 ^ (sumExact [(x, m, e), (!y, n, g)]).2 := by positivity
  simp only [List.map_cons, List.map_nil, List.sum_cons, List.sum_nil, add_zero, termVal_not, ← sub_eq_add_neg] at hsum
  rw [fpLt, decide_eq_decide, ← sub_neg (b := termVal (y, n, g)), ← hsum, mul_neg_iff, Int.cast_lt_zero]
  simp [hpos, hpos.not_gt]

theorem fval_eq_some {t : FFmt} {a : Nat} {x : ℚ} :
    fval t a = some x ↔ ∃ neg m e, t.dec a = .fin neg m e ∧ termVal (neg, m, e) = x := by
  unfold fval
  cases t.dec a with
  | nan q => simp
  | inf neg => simp
  | fin neg m e => simp [termVal]

theorem fpLt_of_fval {t : FFmt} {a b : Nat} {x y : ℚ} (ha : fval t a = some x) (hb : fval t b = some y) :
    fpLt (t.dec a) (t.dec b) = decide (x < y) := by
  obtain ⟨_, _, _, ea, rfl⟩ := fval_eq_some.1 ha
  obtain ⟨_, _, _, eb, rfl⟩ := fval_eq_some.1 hb
  rw [ea, eb, fpLt_fin]

theorem isNan_of_fval {t : FFmt} {a : Nat} {x : ℚ} (ha : fval t a = some x) : (t.dec a).isNan = false := by
  obtain ⟨_, _, _, ea, -⟩ := fval_eq_some.1 ha
  rw [ea]; rfl

/-- Where one of two data that are no NaN is an infinity, the data compare by their sides. -/
theorem fpLt_of_side {a b : Nat} (ha : (fmtF32.dec a).isNan = false) (hb : (fmtF32.dec b).isNan = false) (h : side a ≠ 0 ∨ side b ≠ 0) :
    fpLt (fmtF32.dec a) (fmtF32.dec b) = decide (side a < side b) := by
  unfold side at h ⊢
  cases hx : fmtF32.dec a with
  | nan q => rw [hx] at ha; cases ha
  | inf x =>
    cases hy : fmtF32.dec b with
    | nan q => rw [hy] at hb; cases hb
    | inf y => cases x <;> cases y <;> rfl
    | fin y n g => cases x <;> rfl
  | fin x m e =>
    cases hy : fmtF32.dec b with
    | nan q => rw [hy] at hb; cases hb
    | inf y => cases y <;> rfl
    | fin y n g => simp [hx, hy] at h

theorem isSnan_of_isNan_false {x : FP} (h : x.isNan = false) : x.isSnan = false := by
  cases x with
  | nan q => cases h
  | inf neg => rfl
  | fin neg m e => rfl

/-- R360: the seven conditions on data that are no NaN and that compare as `x` and `y` do: no condition sets a flag, and none is unordered. -/
theorem fCmp_of_order {α : Type} [LinearOrder α] {t : FFmt} {a b : Nat} {x y : α} (ha : (t.dec a).isNan = false)
    (hb : (t.dec b).isNan = false) (hlt : fpLt (t.dec a) (t.dec b) = decide (x < y)) (hgt : fpLt (t.dec b) (t.dec a) = decide (y < x)) :
    fCmp t 0 a b = (decide (x = y), 0) ∧ fCmp t 1 a b = (decide (x ≠ y), 0) ∧ fCmp t 2 a b = (decide (x < y), 0) ∧
      fCmp t 3 a b = (decide (x ≤ y), 0) ∧ fCmp t 4 a b = (decide (y < x), 0) ∧ fCmp t 5 a b = (decide (y ≤ x), 0) ∧
      fCmp t 6 a b = (false, 0) := by
  have hsa := isSnan_of_isNan_false ha
  have hsb := isSnan_of_isNan_false hb
  rcases lt_trichotomy x y with h | h | h
  · simp [fCmp, fpEq, ha, hb, hsa, hsb, hlt, hgt, h, h.ne, h.le, h.not_gt, h.not_ge]
  · simp [fCmp, fpEq, ha, hb, hsa, hsb, hlt, hgt, h]
  · simp [fCmp, fpEq, ha, hb, hsa, hsb, hlt, hgt, h, h.ne', h.le, h.not_gt, h.not_ge]

theorem fpLt_of_isNan {x y : FP} (h : x.isNan = true ∨ y.isNan = true) : fpLt x y = false := by
  cases x with
  | nan q => rfl
  | inf neg | fin neg m e =>
    cases y with
    | nan q => rfl
    | inf neg | fin neg m e => simp [FP.isNan] at h

theorem fpEq_of_isNan {x y : FP} (h : x.isNan = true ∨ y.isNan = true) : fpEq x y = false := by
  rcases h with h | h <;> simp [fpEq, h]

/-- R360: the seven conditions with a NaN among the data. -/
theorem fCmp_of_isNan {t : FFmt} {a b : Nat} (h : (t.dec a).isNan = true ∨ (t.dec b).isNan = true) :
    (fCmp t 0 a b).1 = false ∧ (fCmp t 1 a b).1 = true ∧ fCmp t 2 a b = (false, flNV) ∧ fCmp t 3 a b = (false, flNV) ∧
      fCmp t 4 a b = (false, flNV) ∧ fCmp t 5 a b = (false, flNV) ∧ (fCmp t 6 a b).1 = true ∧
      ∀ c ∈ [0, 1, 6], (fCmp t c a b).2 = if (t.dec a).isSnan ∨ (t.dec b).isSnan then flNV else 0 := by
  simp [fCmp, fpLt_of_isNan h, fpLt_of_isNan h.symm, fpEq_of_isNan h, h]

/-! ### Fields of words (R59, R66 to R74) -/

/-- Fields packed fill no more than the sum of their widths. -/
theorem packFields_lt (ws vs : List Nat) : packFields ws vs < 2 ^ ws.sum := by
  induction ws generalizing vs with
  | nil => simp [packFields]
  | cons w ws ih =>
    cases vs with
    | nil => simp [packFields]
    | cons v vs =>
      have hv : v % 2 ^ w < 2 ^ w := Nat.mod_lt _ (by positivity)
      have hvs : 2 ^ w * (packFields ws vs + 1) ≤ 2 ^ w * 2 ^ ws.sum := Nat.mul_le_mul_left _ (ih vs)
      rw [Nat.mul_add, Nat.mul_one] at hvs
      rw [List.sum_cons, Nat.pow_add, packFields]
      omega

/-- Fields packed below other bits are read back at their widths. -/
theorem unpackFields_packFields_add (ws vs : List Nat) (r : Nat) (h : ws.length = vs.length) :
    unpackFields ws (packFields ws vs + 2 ^ ws.sum * r) = List.zipWith (fun w v => v % 2 ^ w) ws vs := by
  induction ws generalizing vs with
  | nil => simp [unpackFields]
  | cons w ws ih =>
    cases vs with
    | nil => simp at h
    | cons v vs =>
      have hv : v % 2 ^ w < 2 ^ w := Nat.mod_lt _ (by positivity)
      have hword : packFields (w :: ws) (v :: vs) + 2 ^ (w :: ws).sum * r = v % 2 ^ w + 2 ^ w * (packFields ws vs + 2 ^ ws.sum * r) := by
        rw [packFields, List.sum_cons, Nat.pow_add]; ring
      rw [hword, unpackFields, Nat.add_mul_mod_self_left, Nat.mod_mod, Nat.add_mul_div_left _ _ (by positivity), Nat.div_eq_of_lt hv,
        Nat.zero_add, ih vs (by simpa using h), List.zipWith_cons_cons]

theorem unpackFields_packFields {ws vs : List Nat} (h : ws.length = vs.length) :
    unpackFields ws (packFields ws vs) = List.zipWith (fun w v => v % 2 ^ w) ws vs := by
  simpa using unpackFields_packFields_add ws vs 0 h

theorem isOne_bit01 (b : Bool) : isOne (bit01 b % 2 ^ 1) = b := by cases b <;> rfl

theorem ofNat_toNat_mod {w : Nat} (x : BitVec w) : BitVec.ofNat w (x.toNat % 2 ^ w) = x :=
  ofNat_of_eq_toNat (Nat.mod_eq_of_lt x.isLt)

theorem Ty.ofCode_code (t : Ty) : Ty.ofCode (t.code % 2 ^ 4) = t := by cases t <;> rfl

theorem Reg.ofNat_toNat (r : Reg) : Reg.ofNat (r.toNat % 2 ^ 11) = r := by
  obtain ⟨hold, code⟩ := r
  have hlt := code.isLt
  have hcode : BitVec.ofNat 10 ((code.toNat + if hold then 1024 else 0) % 2 ^ 11) = code := by
    apply BitVec.eq_of_toNat_eq
    rw [BitVec.toNat_ofNat]
    split <;> omega
  have hhold : ((code.toNat + if hold then 1024 else 0) % 2 ^ 11 / 1024 % 2 == 1) = hold := by
    cases hold <;> simp <;> omega
  simp only [Reg.ofNat, Reg.toNat, hcode, hhold]

theorem Cls.code_lt (c : Cls) : c.code < 16 := by cases c <;> decide

theorem Cls.ofCode_code (c : Cls) : Cls.ofCode c.code = some c := by cases c <;> rfl

/-- R59, R61: the header is read back from its fields. -/
theorem Hdr.ofList_toList (h : Hdr) : Hdr.ofList (List.zipWith (fun w v => v % 2 ^ w) layHdr h.toList) = h := by
  simp only [layHdr, Hdr.toList, List.zipWith_cons_cons, List.zipWith_nil_left, Hdr.ofList, isOne_bit01, ofNat_toNat_mod]

/-- R67: format RRR is read back from its fields. -/
theorem Fields.ofList_toList_rrr (f : FRRR) :
    Fields.ofList 1 (List.zipWith (fun w v => v % 2 ^ w) (layOf 1) (Fields.rrr f).toList) = .rrr f := by
  simp only [layOf, Fields.toList, List.zipWith_cons_cons, List.zipWith_nil_left, Fields.ofList, isOne_bit01, ofNat_toNat_mod,
    Ty.ofCode_code, Reg.ofNat_toNat]

/-! ### Words of format RRR (R67, R76) -/

section

variable {c : Cls} {op : Nat} (hop : op < 256) (h : Hdr) (f : FRRR)

include hop

/-- R59: where the parts of a word of format RRR lie: class, opcode and format below bit 16, the header below bit 80. -/
theorem encodeRaw_rrr : encodeRaw c op h (.rrr f) =
    c.code + 2 ^ 4 * (op + 2 ^ 8) + 2 ^ 16 * (packFields layHdr h.toList + 2 ^ 64 * packFields (layOf 1) (Fields.rrr f).toList) := by
  have hc := c.code_lt
  simp only [encodeRaw, Fields.fmt, packFields]
  omega

theorem encodeRaw_rrr_lt : encodeRaw c op h (.rrr f) < 2 ^ 256 := by
  have hc := c.code_lt
  have hhdr : packFields layHdr h.toList < 2 ^ 64 := packFields_lt _ _
  have hfields : packFields (layOf 1) (Fields.rrr f).toList < 2 ^ 176 := packFields_lt _ _
  rw [encodeRaw_rrr hop]
  omega

/-- R59: the class, the opcode and the format of a word of format RRR. -/
theorem bits_encodeRaw_rrr : bits (encodeRaw c op h (.rrr f)) 0 4 = c.code ∧ bits (encodeRaw c op h (.rrr f)) 4 8 = op ∧
    bits (encodeRaw c op h (.rrr f)) 12 4 = 1 := by
  have hc := c.code_lt
  rw [encodeRaw_rrr hop]
  unfold bits
  omega

/-- R59, R61: the header's fields of a word of format RRR. -/
theorem unpackFields_encodeRaw_rrr_hdr :
    unpackFields layHdr (encodeRaw c op h (.rrr f) / 2 ^ 16) = List.zipWith (fun w v => v % 2 ^ w) layHdr h.toList := by
  have hc := c.code_lt
  have habove : encodeRaw c op h (.rrr f) / 2 ^ 16 =
      packFields layHdr h.toList + 2 ^ layHdr.sum * packFields (layOf 1) (Fields.rrr f).toList := by
    rw [encodeRaw_rrr hop, show layHdr.sum = 64 from rfl]
    omega
  rw [habove]
  exact unpackFields_packFields_add _ _ _ rfl

/-- R67: the format's fields of a word of format RRR. -/
theorem unpackFields_encodeRaw_rrr_fields : unpackFields (layOf 1) (encodeRaw c op h (.rrr f) / 2 ^ 80) =
    List.zipWith (fun w v => v % 2 ^ w) (layOf 1) (Fields.rrr f).toList := by
  have hc := c.code_lt
  have hhdr : packFields layHdr h.toList < 2 ^ 64 := packFields_lt _ _
  have habove : encodeRaw c op h (.rrr f) / 2 ^ 80 = packFields (layOf 1) (Fields.rrr f).toList := by
    rw [encodeRaw_rrr hop]
    omega
  rw [habove]
  exact unpackFields_packFields rfl

/-- R76: the word of format RRR that the encoder gives is refused for the cause that the checks of its operation give. -/
theorem decode_encode_rrr_error {h f} {i : Instr} {k : Nat} (hraw : toRaw i = some (c, op, h, .rrr f)) (hfmt : fmtOf c op = some 1)
    (hmk : mk c op h (.rrr f) = some i) (hcause : causeOf c h i = some k) : decode (encode i) = .error k := by
  have henc : (encode i).toNat = encodeRaw c op h (.rrr f) := by
    rw [encode, hraw]
    exact Nat.mod_eq_of_lt (encodeRaw_rrr_lt hop h f)
  obtain ⟨hcls, hopc, hform⟩ := bits_encodeRaw_rrr (c := c) hop h f
  have hresHdr : (List.zipWith (fun w v => v % 2 ^ w) layHdr h.toList).getD 1 0 = 0 := rfl
  have hresFields : resvSet 1 (List.zipWith (fun w v => v % 2 ^ w) (layOf 1) (Fields.rrr f).toList) = false := rfl
  simp only [decode, henc, hcls, hopc, hform, unpackFields_encodeRaw_rrr_hdr hop, unpackFields_encodeRaw_rrr_fields hop, hresHdr,
    hresFields, Cls.ofCode_code, hfmt, Hdr.ofList_toList, Fields.ofList_toList_rrr, hmk, hcause]
  rfl

end

/-! ### The lowest cause (R76) -/

/-- R76: the causes of types and limits for an operation that differs in nothing else from one that no check refuses. -/
theorem causeOf_of_chkOf_eq {c : Cls} {h : Hdr} {i j : Instr} {ty lim : Bool} (hi : causeOf c h i = none)
    (hj : chkOf j = { chkOf i with tyOk := ty, limOk := lim }) :
    causeOf c h j = if !ty then some 8 else if !lim || !hdrLimOk h (sbytesOp j) then some 9 else none := by
  unfold causeOf at hi ⊢
  rw [hj]
  dsimp only at hi
  split_ifs at hi with h6 h7
  exact (if_neg h6).trans (if_neg h7)

end Sys2Proof

namespace Sys2Proof.Machine

open Claims

/-! ### Lanes and predicate bits (R30, R43) -/

theorem lane_eq_elem (v : Vec) (n : Nat) : lane v n = (elem 32 v n).toNat := by
  rw [lane, bits, elem, BitVec.extractLsb'_toNat, Nat.shiftRight_eq_div_pow]

/-- Bit `n` of the register that a list of sixteen bits makes. -/
theorem getLsbD_packBits (g : Nat → Bool) {n : Nat} (hn : n < 16) :
    (BitVec.ofNat 512 (packFields (List.replicate 16 1) ((List.range 16).map fun i => bit01 (g i)))).getLsbD n = g n := by
  have hfield := packFields_replicate_field 1 16 ((List.range 16).map fun i => bit01 (g i)) n hn
  rw [Nat.one_mul, pow_one, getD_map_range hn] at hfield
  rw [BitVec.getLsbD_ofNat, decide_eq_true (by omega : n < 512), Bool.true_and, Nat.testBit_eq_decide_div_mod_eq, hfield]
  cases g n <;> rfl

/-! ### VFCMP on a die -/

/-- R360: what VFCMP gives for lane `n` on a die: the comparison's bit and its flags. -/
def vfcmpLane (s : State) (d : Nat) (f : FRRR) (n : Nat) : Bool × Nat :=
  fCmp fmtF32 f.sub.toNat (elem 32 (src s d 91 .v f.srcA) n).toNat (elem 32 (src s d 102 .v f.srcB) n).toNat

/-- R360: the predicate register's bits that VFCMP gives on a die. -/
def vfcmpVal (s : State) (f : FRRR) (d : Nat) : Vec :=
  BitVec.ofNat 512 (packFields (List.replicate 16 1) ((List.range 16).map fun n => bit01 (vfcmpLane s d f n).1))

/-- R360: the bits that VFCMP writes on a die. -/
def vfcmpMask (s : State) (f : FRRR) (d : Nat) : Vec :=
  BitVec.ofNat 512 (packFields (List.replicate 16 1) ((List.range 16).map fun n => bit01 (acts s d f.pr n)))

/-- R43: the flags of VFCMP on a die. -/
def vfcmpFlags (s : State) (f : FRRR) (d : Nat) : Nat :=
  orFlags 32 (acts s d f.pr) ((List.range 16).map fun n => (vfcmpLane s d f n).2)

/-- The latches after the two sources of VFCMP. -/
def vfcmpLatches (s : State) (f : FRRR) (d : Nat) : SMap SlotDie :=
  latched (latched (s.ctxD d).ws.slots s.cur.slot 91 f.srcA (src s d 91 .v f.srcA)) s.cur.slot 102 f.srcB (src s d 102 .v f.srcB)

/-- R360: what VFCMP leaves in flight on a die. -/
theorem vfcmpDie_sets {s o : State} {h : Hdr} {f : FRRR} {d : Nat} (hready : Ready s h) (hd : d ∈ s.enabled h) (hsrc : SrcsOk s d f 2)
    (hw : Writable s d .p f.dst.n) (hsame : SameBut o s.noAtt) (hcd : o.getCd (s.ck0 d) = s.getCd (s.ck0 d)) :
    Sets s.noAtt o (o.vfcmpDie h f d) d
      { s.getCd (s.ck0 d) with
        pend := (s.getCd (s.ck0 d)).pend ++
          [resultOf s h false 2 .p f.dst.n (vfcmpVal s f d) (vfcmpMask s f d) (vfcmpFlags s f d) h.group.toNat]
        ws := { (s.getCd (s.ck0 d)).ws with slots := vfcmpLatches s f d } } := by
  have hd8 := State.enabled_lt hd
  have hcc := cc0_lt hready.col hready.ctx
  obtain ⟨hpr, ha, hb, -⟩ := hsrc
  have hsees := Sees.start hsame hcd
  obtain ⟨o1, e1, h1, k1⟩ := hsees.rdSrc hd8 hcc (ha (by decide)) rfl
  obtain ⟨o2, e2, h2, k2⟩ := h1.rdSrc hd8 hcc (hb le_rfl) (holds_latched_other _ _ _ _ _ _ (by decide))
  simp only [State.vfcmpDie, hsees.lanes hpr, e1, e2, lane_eq_elem, List.map_map]
  exact (h2.result hd8 hcc hw h 2 _ _ _ _).after fun k hk => (k2 k hk).trans (k1 k hk)

/-- R360: VFCMP leaves the comparison's bits and flags in flight. -/
theorem vfcmp_delivers {s : State} {h : Hdr} {f : FRRR} (hready : Ready s h)
    (hok : ∀ d ∈ s.enabled h, SrcsOk s d f 2 ∧ Writable s d .p f.dst.n) :
    Delivers (.vfcmp h f) s h 2 .p f.dst.n (vfcmpVal s f) (vfcmpMask s f) (vfcmpFlags s f) h.group.toNat :=
  State.attempt_delivers _ s h (fun d s => s.vfcmpDie h f d) 2 .p f.dst.n _ _ _ _ (vfcmpLatches s f) hready (opVfcmp h f) rfl rfl
    fun d hd _ hsame hcd => vfcmpDie_sets hready hd (hok d hd).1 (hok d hd).2 hsame hcd

/-- R360: bit `n` written is lane `n`'s comparison, for the enabled lanes. -/
theorem vfcmp_laneBits (s : State) (h : Hdr) (f : FRRR) :
    LaneBits s h f.pr (fun d n => (vfcmpLane s d f n).1) (vfcmpVal s f) (vfcmpMask s f) :=
  fun _ _ _ hn => ⟨getLsbD_packBits _ hn, getLsbD_packBits _ hn⟩

/-- R43: VFCMP sets a flag where an enabled lane sets it. -/
theorem getLsbD_vfcmpFlags (s : State) (f : FRRR) (d : Nat) {k : Nat} (hk : k < 32) :
    (BitVec.ofNat 32 (vfcmpFlags s f d)).getLsbD k = true ↔ ∃ n < 16, acts s d f.pr n = true ∧ (vfcmpLane s d f n).2.testBit k = true := by
  have hon (n : Nat) : elemOn 32 (acts s d f.pr) n = acts s d f.pr n := by
    rw [elemOn, Nat.mul_div_cancel_left n (by decide : 0 < 32)]
  rw [BitVec.getLsbD_ofNat, decide_eq_true hk, Bool.true_and, vfcmpFlags, testBit_orFlags]
  simp only [hon]

/-! ### The refusals of VFCMP (R76, R360) -/

/-- R76: no check refuses a legal VFCMP. -/
theorem causeOf_vfcmp_of_legal {h : Hdr} {f : FRRR} (hl : (Instr.vfcmp h f).legal = true) : causeOf .va h (.vfcmp h f) = none :=
  beq_iff_eq.1 hl

/-- R360: a SUB above 6 is refused with cause 0x09. -/
theorem decode_vfcmp_sub {h : Hdr} {f : FRRR} (hl : (Instr.vfcmp h f).legal = true) {x : BitVec 8} (hx : 7 ≤ x.toNat) :
    decode (encode (.vfcmp h { f with sub := x })) = .error 9 := by
  have hlim : decide (x.toNat ≤ 6) = false := decide_eq_false (by omega)
  have hchk : chkOf (.vfcmp h { f with sub := x }) = { chkOf (.vfcmp h f) with limOk := false } := by simp [chkOf, vecChk, rrrChk, hlim]
  have hty : (chkOf (.vfcmp h f)).tyOk = true := tyOk_of_legal hl
  refine decode_encode_rrr_error (op := 30) (by decide) rfl rfl rfl ?_
  rw [causeOf_of_chkOf_eq (causeOf_vfcmp_of_legal hl) hchk, hty]
  rfl

/-- R360: a type other than .f32 is refused with cause 0x08. -/
theorem decode_vfcmp_type {h : Hdr} {f : FRRR} (hl : (Instr.vfcmp h f).legal = true) {ty : Ty} (hty : ty ≠ .f32) :
    decode (encode (.vfcmp h { f with ty := ty })) = .error 8 := by
  have hchk : chkOf (.vfcmp h { f with ty := ty }) = { chkOf (.vfcmp h f) with tyOk := false } := by simp [chkOf, vecChk, rrrChk, hty]
  exact decode_encode_rrr_error (op := 30) (by decide) rfl rfl rfl (causeOf_of_chkOf_eq (causeOf_vfcmp_of_legal hl) hchk)

/-- Settles O12: the issue's rule gives the bits, the flags and the frame; numbers and infinities compare as their values and sides do in a
linear order; and a word that differs in SUB or in its type fails one check of R76. -/
theorem vectorFloatCompare : Obligations.VectorFloatCompare := by
  unfold Obligations.VectorFloatCompare
  refine ⟨fun s h f _ hready hok => ?issue, fun a b x y ha hb => ?numbers, fun a b hnan => ?nans, fun a b ha hb hside => ?infinities,
    fun h f hl => ?refused⟩
  case issue =>
    exact ⟨vfcmpVal s f, vfcmpMask s f, vfcmpFlags s f, vfcmp_delivers hready hok, vfcmp_laneBits s h f,
      fun d _ k hk => getLsbD_vfcmpFlags s f d hk⟩
  case numbers => exact fCmp_of_order (isNan_of_fval ha) (isNan_of_fval hb) (fpLt_of_fval ha hb) (fpLt_of_fval hb ha)
  case nans => exact fCmp_of_isNan hnan
  case infinities => exact fCmp_of_order ha hb (fpLt_of_side ha hb hside) (fpLt_of_side hb ha hside.symm)
  case refused => exact ⟨fun x hx => decode_vfcmp_sub hl hx, fun ty hty => decode_vfcmp_type hl hty⟩

end Sys2Proof.Machine
end

section
/-! SUPPORT. Vector integer operations (R355, R356, R368, R369): the model's comparisons and products of numbers as operations on words, one rule
for an operation whose die reads its sources and leaves one result, and the lanes of VPERM and VCAS. -/

namespace Sys2Proof.Machine

open Claims

/-! ### Order and products of numbers, as operations on words -/

theorem intVal_toNat (sg : Bool) {w : Nat} (a : BitVec w) : intVal sg w a.toNat = if sg then a.toInt else (a.toNat : Int) := by
  rw [intVal, asSigned_toNat, Nat.mod_eq_of_lt a.isLt]

/-- R302: words are ordered as the numbers that they stand for. -/
theorem intVal_lt_iff (sg : Bool) {w : Nat} (a b : BitVec w) : intVal sg w a.toNat < intVal sg w b.toNat ↔ less sg a b = true := by
  rw [intVal_toNat, intVal_toNat]
  cases sg with
  | false => simp [less, BitVec.ult]
  | true => simp [less, BitVec.slt]

theorem intVal_le_iff (sg : Bool) {w : Nat} (a b : BitVec w) : intVal sg w a.toNat ≤ intVal sg w b.toNat ↔ less sg b a = false := by
  rw [← not_lt, intVal_lt_iff, Bool.not_eq_true]

theorem intVal_eq_iff (sg : Bool) {w : Nat} (a b : BitVec w) : intVal sg w a.toNat = intVal sg w b.toNat ↔ a = b := by
  rw [intVal_toNat, intVal_toNat]
  cases sg with
  | false => simp [BitVec.toNat_inj]
  | true => simp [BitVec.toInt_inj]

/-- R302, R355: the conditions by their codes. -/
theorem cmpW_toNat (sg : Bool) (sub : Nat) {w : Nat} (a b : BitVec w) : cmpW sg w sub a.toNat b.toNat = holdsCond sg sub a b := by
  unfold cmpW holdsCond
  split <;> simp [bne, intVal_eq_iff, intVal_lt_iff, intVal_le_iff, Bool.beq_eq_decide_eq]

theorem minW_toNat (sg : Bool) {w : Nat} (a b : BitVec w) : minW sg w a.toNat b.toNat = (least sg w a b).toNat := by
  simp only [minW, least, intVal_lt_iff, Nat.mod_eq_of_lt a.isLt, Nat.mod_eq_of_lt b.isLt, apply_ite BitVec.toNat]

theorem maxW_toNat (sg : Bool) {w : Nat} (a b : BitVec w) : maxW sg w a.toNat b.toNat = (most sg w a b).toNat := by
  simp only [maxW, most, intVal_lt_iff, Nat.mod_eq_of_lt a.isLt, Nat.mod_eq_of_lt b.isLt, apply_ite BitVec.toNat]

/-- R368: the high half of the exact product. -/
theorem mulhW_toNat (sg : Bool) {w : Nat} (a b : BitVec w) : mulhW sg w a.toNat b.toNat = (mulHigh sg w a b).toNat := by
  rw [mulhW, ofSigned_eq_ofInt, intVal_toNat, intVal_toNat, mulHigh]
  cases sg with
  | false => exact congrArg BitVec.toNat (BitVec.ofInt_natCast w (a.toNat * b.toNat / 2 ^ w))
  | true => rfl

/-- R368: a difference by the complement of the second operand. -/
theorem ofNat_add_two_pow_sub {w : Nat} (a b : BitVec w) : BitVec.ofNat w (a.toNat + (2 ^ w - b.toNat)) = a - b :=
  BitVec.eq_of_toNat_eq (by rw [BitVec.toNat_ofNat, BitVec.toNat_sub, Nat.add_comm])

/-- R355, R368: VADD to VMAX, each by its value on words. -/
theorem vectorArithmetic : VectorArithmetic := by
  refine ⟨?vadd, ?vsub, ?vmul, ?vmulh, ?vmad, ?vand, ?vor, ?vxor, ?vmin, ?vmax⟩
  case vadd =>
    exact vectorInt_of_vec (op := fun _ _ a b _ => a + b) (by decide) (fun _ _ _ => rfl)
      fun _ _ _ _ _ _ _ hb _ => hb le_rfl ▸ by rw [BitVec.ofNat_add]; simp
  case vsub =>
    exact vectorInt_of_vec (op := fun _ w a b _ => a + (2 ^ w - b)) (by decide) (fun _ _ _ => rfl)
      fun _ _ a _ _ _ _ hb _ => hb le_rfl ▸ ofNat_add_two_pow_sub a _
  case vmul =>
    exact vectorInt_of_vec (op := fun _ _ a b _ => a * b) (by decide) (fun _ _ _ => rfl)
      fun _ _ _ _ _ _ _ hb _ => hb le_rfl ▸ by rw [BitVec.ofNat_mul]; simp
  case vmulh =>
    exact vectorInt_of_vec (op := fun f w a b _ => mulhW f.ty.signed w a b) (by decide) (fun _ _ _ => rfl)
      fun _ _ a _ _ _ _ hb _ => hb le_rfl ▸ ofNat_of_eq_toNat (mulhW_toNat _ a _)
  case vmad =>
    exact vectorInt_of_vec (op := fun _ _ a b c => a * b + c) (by decide) (fun _ _ _ => rfl)
      fun _ _ _ _ _ _ _ hb hc => hb (by decide) ▸ hc le_rfl ▸ by rw [BitVec.ofNat_add, BitVec.ofNat_mul]; simp
  case vand =>
    exact vectorInt_of_vec (op := fun _ _ a b _ => a &&& b) (by decide) (fun _ _ _ => rfl)
      fun _ _ a _ _ _ _ hb _ => hb le_rfl ▸ ofNat_of_eq_toNat (BitVec.toNat_and a _).symm
  case vor =>
    exact vectorInt_of_vec (op := fun _ _ a b _ => a ||| b) (by decide) (fun _ _ _ => rfl)
      fun _ _ a _ _ _ _ hb _ => hb le_rfl ▸ ofNat_of_eq_toNat (BitVec.toNat_or a _).symm
  case vxor =>
    exact vectorInt_of_vec (op := fun _ _ a b _ => a ^^^ b) (by decide) (fun _ _ _ => rfl)
      fun _ _ a _ _ _ _ hb _ => hb le_rfl ▸ ofNat_of_eq_toNat (BitVec.toNat_xor a _).symm
  case vmin =>
    exact vectorInt_of_vec (op := fun f w a b _ => minW f.ty.signed w a b) (by decide) (fun _ _ _ => rfl)
      fun _ _ a _ _ _ _ hb _ => hb le_rfl ▸ ofNat_of_eq_toNat (minW_toNat _ a _)
  case vmax =>
    exact vectorInt_of_vec (op := fun f w a b _ => maxW f.ty.signed w a b) (by decide) (fun _ _ _ => rfl)
      fun _ _ a _ _ _ _ hb _ => hb le_rfl ▸ ofNat_of_eq_toNat (maxW_toNat _ a _)

/-! ### One rule for an operation that reads its sources and leaves one result on each die -/

/-- What the part `D` of an operation on die `d` comes to: its sources are read, which leaves the latches `sl`, and the result is `v` under `mask`,
visible two clocks later, without flags. -/
def Yields (D : State → State) (s : State) (h : Hdr) (d : Nat) (file : RFile) (n : Nat) (v mask : Vec) (sl : SMap SlotDie) : Prop :=
  ∀ o, Sees o s d (s.ctxD d).ws.slots → ∃ o', D o = o'.result d h 2 file n v mask 0 h.group.toNat true ∧ Sees o' s d sl ∧
    ∀ k, k ≠ s.ck0 d → o'.getCd k = o.getCd k

/-- R79, R353: an operation that comes to this on each die issues and leaves these results. -/
theorem delivers_of_yields {i : Instr} {s : State} {h : Hdr} {D : Nat → State → State} {file : RFile} {n : Nat} {v mask : Nat → Vec}
    (sl : Nat → SMap SlotDie) (hready : Ready s h) (hexec : exec i s = s.attempt fun s => s.onDies h D)
    (hok : ∀ d ∈ s.enabled h, Writable s d file n ∧ Yields (D d) s h d file n (v d) (mask d) (sl d)) :
    Delivers i s h 2 file n v mask (fun _ => 0) h.group.toNat := by
  refine State.attempt_delivers i s h D 2 file n v mask _ _ sl hready _ hexec rfl fun d hd o hsame hcd => ?_
  obtain ⟨hw, hy⟩ := hok d hd
  obtain ⟨o', hD, hsees, hother⟩ := hy o (Sees.start hsame hcd)
  rw [hD]
  exact (hsees.result (State.enabled_lt hd) (cc0_lt hready.col hready.ctx) hw h 2 _ _ 0 _).after hother

/-- R353: the register whose elements of width `w` these are. -/
def vecOf (w : Nat) (val : Nat → BitVec w) : Vec := ofElems w ((List.range (512 / w)).map fun i => (val i).toNat)

theorem elem_vecOf {w i : Nat} (hw : 0 < w) (hi : w * (i + 1) ≤ 512) (val : Nat → BitVec w) : elem w (vecOf w val) i = val i := by
  rw [vecOf, elem_ofElems hw hi, getD_map_range ((lt_count_iff hw).2 hi)]
  exact ofNat_of_eq_toNat rfl

/-- R353: a register of elements without flags, under the predicate of the lanes. -/
theorem elements_vecOf (s : State) (h : Hdr) (pr : Pr) {w : Nat} (hw : 0 < w) (hd : w ∣ 512) (val : Nat → Nat → BitVec w) :
    Elements s h pr w val (fun _ _ => 0) (fun d => vecOf w (val d)) (fun d => elemMask w (acts s d pr)) fun _ => 0 :=
  fun d _ => ⟨fun _ hi => elem_vecOf hw hi (val d), fun _ hj => getLsbD_elemMask hw hd hj _, fun _ _ => by simp⟩

/-- R58: the latches after a read of SRCA. -/
def latchedA (s : State) (d : Nat) (f : FRRR) : SMap SlotDie :=
  latched (s.ctxD d).ws.slots s.cur.slot 91 f.srcA (src s d 91 .v f.srcA)

/-- R58: the latches after a read of SRCA and then SRCB. -/
def latchedAB (s : State) (d : Nat) (f : FRRR) : SMap SlotDie :=
  latched (latchedA s d f) s.cur.slot 102 f.srcB (src s d 102 .v f.srcB)

/-- R58: SRCA read, then SRCB. -/
theorem Sees.rdAB {o s : State} {h : Hdr} {f : FRRR} {d : Nat} (hsees : Sees o s d (s.ctxD d).ws.slots) (hready : Ready s h)
    (hd : d ∈ s.enabled h) (ha : SrcOk s d 91 .v f.srcA) (hb : SrcOk s d 102 .v f.srcB) :
    ∃ o1 o2, o.rdSrc d 91 .v f.srcA = (src s d 91 .v f.srcA, o1) ∧ o1.rdSrc d 102 .v f.srcB = (src s d 102 .v f.srcB, o2) ∧
      Sees o2 s d (latchedAB s d f) ∧ ∀ k, k ≠ s.ck0 d → o2.getCd k = o.getCd k := by
  have hd8 := State.enabled_lt hd
  have hcc := cc0_lt hready.col hready.ctx
  obtain ⟨o1, e1, h1, k1⟩ := hsees.rdSrc hd8 hcc ha rfl
  obtain ⟨o2, e2, h2, k2⟩ := h1.rdSrc hd8 hcc hb (holds_latched_other _ _ _ _ _ _ (by decide))
  exact ⟨o1, o2, e1, e2, h2, fun k hk => (k2 k hk).trans (k1 k hk)⟩

/-! ### VCMP and VSEL (R355, R368) -/

/-- The elements of two registers, walked together. -/
theorem zip_elems_elems (w : Nat) (a b : Vec) :
    (elems w a).zip (elems w b) = (List.range (512 / w)).map fun i => ((elem w a i).toNat, (elem w b i).toNat) := by
  rw [elems_eq_map, elems_eq_map, List.zip_map']

theorem width_dvd (t : Ty) : t.width ∣ 512 := by cases t <;> decide

/-- R355: the condition of VCMP on the element that covers lane `n`. -/
def vcmpBit (s : State) (f : FRRR) (d n : Nat) : Bool :=
  holdsCond f.ty.signed f.sub.toNat (elem f.ty.width (src s d 91 .v f.srcA) (32 * n / f.ty.width))
    (elem f.ty.width (src s d 102 .v f.srcB) (32 * n / f.ty.width))

/-- R335: the predicate register of these sixteen bits. -/
def predOf (g : Nat → Bool) : Vec := BitVec.ofNat 512 (packFields (List.replicate 16 1) ((List.range 16).map fun n => bit01 (g n)))

/-- Two functions that agree on the lanes give one predicate register. -/
theorem predOf_congr {g g' : Nat → Bool} (hg : ∀ n < 16, g n = g' n) : predOf g = predOf g' := by
  unfold predOf
  rw [List.map_congr_left fun n hn => congrArg bit01 (hg n (List.mem_range.1 hn))]

/-- R355: the element that covers lane `n` is the model's element of the two sources that it compares. -/
theorem getD_cmpW_eq_vcmpBit (s : State) (f : FRRR) (d : Nat) {n : Nat} (hn : n < 16) :
    (((elems f.ty.width (src s d 91 .v f.srcA)).zip (elems f.ty.width (src s d 102 .v f.srcB))).map fun x =>
      cmpW f.ty.signed f.ty.width f.sub.toNat x.1 x.2).getD (32 * n / f.ty.width) false = vcmpBit s f d n := by
  have hlt : 32 * n / f.ty.width < 512 / f.ty.width := Nat.div_lt_div_of_lt_of_dvd (width_dvd f.ty) (by omega)
  rw [zip_elems_elems, List.map_map, getD_map_range hlt]
  exact cmpW_toNat ..

theorem vcmpDie_yields {s : State} {h : Hdr} {f : FRRR} {d : Nat} (hready : Ready s h) (hd : d ∈ s.enabled h) (hsrc : SrcsOk s d f 2) :
    Yields (·.vcmpDie h f d) s h d .p f.dst.n (predOf (vcmpBit s f d))
      (predOf fun n => elemOn f.ty.width (acts s d f.pr) (32 * n / f.ty.width)) (latchedAB s d f) := by
  intro o hsees
  obtain ⟨hpr, ha, hb, -⟩ := hsrc
  obtain ⟨o1, o2, e1, e2, h2, k2⟩ := hsees.rdAB hready hd (ha (by decide)) (hb le_rfl)
  refine ⟨o2, ?_, h2, k2⟩
  rw [← predOf_congr fun n => getD_cmpW_eq_vcmpBit s f d]
  simp only [State.vcmpDie, hsees.lanes hpr, e1, e2]
  rfl

/-- R368: what VSEL gives for element `i` on a die. -/
def vselElem (s : State) (f : FRRR) (d i : Nat) : BitVec (vwidth f.ty) :=
  if (src s d 113 .p f.srcC).getLsbD (vwidth f.ty * i / 32) then elem _ (src s d 91 .v f.srcA) i else elem _ (src s d 102 .v f.srcB) i

/-- R368: the model walks the elements of the two sources together. -/
theorem zip_elems_eq_vselElem (s : State) (f : FRRR) (d : Nat) :
    ((List.range (512 / vwidth f.ty)).zip ((elems (vwidth f.ty) (src s d 91 .v f.srcA)).zip (elems (vwidth f.ty) (src s d 102 .v f.srcB)))).map
        (fun x => if (src s d 113 .p f.srcC).getLsbD (vwidth f.ty * x.1 / 32) then x.2.1 else x.2.2) =
      (List.range (512 / vwidth f.ty)).map fun i => (vselElem s f d i).toNat := by
  have hid : (List.range (512 / vwidth f.ty)).map id = List.range (512 / vwidth f.ty) := List.map_id _
  rw [zip_elems_elems]
  conv_lhs => rw [← hid]
  rw [List.map_map, List.zip_map', List.map_map]
  exact List.map_congr_left fun i _ => (apply_ite BitVec.toNat _ _ _).symm

theorem vselDie_yields {s : State} {h : Hdr} {f : FRRR} {d : Nat} (hready : Ready s h) (hd : d ∈ s.enabled h) (hsrc : SrcsOk s d f 2)
    (hc : SrcOk s d 113 .p f.srcC) :
    Yields (·.vselDie h f d) s h d .v f.dst.n (vecOf (vwidth f.ty) (vselElem s f d)) (elemMask (vwidth f.ty) (acts s d f.pr))
      (latched (latchedAB s d f) s.cur.slot 113 f.srcC (src s d 113 .p f.srcC)) := by
  intro o hsees
  obtain ⟨hpr, ha, hb, -⟩ := hsrc
  obtain ⟨o1, o2, e1, e2, h2, k2⟩ := hsees.rdAB hready hd (ha (by decide)) (hb le_rfl)
  obtain ⟨o3, e3, h3, k3⟩ := h2.rdSrc (State.enabled_lt hd) (cc0_lt hready.col hready.ctx) hc
    ((holds_latched_other _ _ _ _ _ _ (by decide)).trans (holds_latched_other _ _ _ _ _ _ (by decide)))
  refine ⟨o3, ?_, h3, fun k hk => (k3 k hk).trans (k2 k hk)⟩
  simp only [State.vselDie, hsees.lanes hpr, e1, e2, e3, vw_eq_vwidth, zip_elems_eq_vselElem, vecOf]

/-- R355, R368: VCMP writes the bits of each enabled element's lanes, VSEL the element that the lane's bit selects. -/
theorem vectorCompareSelect : VectorCompareSelect := by
  refine ⟨fun s h f _ hready hok => ?vcmp, fun s h f _ hready hok => ?vsel⟩
  case vcmp =>
    exact ⟨_, _, delivers_of_yields _ hready rfl fun d hd => ⟨(hok d hd).2, vcmpDie_yields hready hd (hok d hd).1⟩,
      fun d _ n hn => ⟨getLsbD_packBits _ hn, getLsbD_packBits _ hn⟩⟩
  case vsel =>
    exact ⟨_, _, _, delivers_of_yields _ hready rfl fun d hd =>
        have ⟨hsrc, hc, hw⟩ := hok d hd
        ⟨hw, vselDie_yields hready hd hsrc hc⟩,
      elements_vecOf s h f.pr (vwidth_pos _) (vwidth_dvd _) (vselElem s f)⟩

/-! ### VPERM and VCAS (R356, R369) -/

/-- R30: a register by its sixteen lanes and by its elements of width 32. -/
theorem vecOfLanes_toNat (val : Nat → BitVec 32) : (vecOfLanes fun n => (val n).toNat) = vecOf 32 val := rfl

theorem laneMask_eq_elemMask (on : Nat → Bool) : laneMask on = elemMask 32 on := by
  have hon : elemOn 32 on = on := funext fun n => by rw [elemOn, Nat.mul_div_cancel_left n (by decide)]
  rw [elemMask, hon]
  rfl

/-- R369: what VPERM gives for lane `n` on a die. -/
def vpermElem (s : State) (f : FRRR) (d n : Nat) : BitVec 32 :=
  elem 32 (src s d 91 .v f.srcA)
    (if f.sub = 0 then (elem 32 (src s d 102 .v f.srcB) n).toNat % 16 else (n + f.sub.toNat % 16) % 16)

/-- R369: VPERM reads SRCB in the form of SUB 0 alone. -/
theorem vpermDie_yields {s : State} {h : Hdr} {f : FRRR} {d : Nat} (hready : Ready s h) (hd : d ∈ s.enabled h)
    (hsrc : SrcsOk s d f (if f.sub = 0 then 2 else 1)) :
    Yields (·.vpermDie h f d) s h d .v f.dst.n (vecOf 32 (vpermElem s f d)) (elemMask 32 (acts s d f.pr))
      (if f.sub = 0 then latchedAB s d f else latchedA s d f) := by
  intro o hsees
  obtain ⟨hpr, ha, hb, -⟩ := hsrc
  rw [← vecOfLanes_toNat, ← laneMask_eq_elemMask]
  by_cases hsub : f.sub = 0
  · rw [if_pos hsub] at ha hb ⊢
    obtain ⟨o1, o2, e1, e2, h2, k2⟩ := hsees.rdAB hready hd (ha (by decide)) (hb le_rfl)
    refine ⟨o2, ?_, h2, k2⟩
    simp only [State.vpermDie, hsees.lanes hpr, e1, hsub, beq_self_eq_true, if_true, e2, vpermElem, lane_eq_elem]
  · rw [if_neg hsub] at ha ⊢
    obtain ⟨o1, e1, h1, k1⟩ := hsees.rdSrc (State.enabled_lt hd) (cc0_lt hready.col hready.ctx) (ha le_rfl) rfl
    refine ⟨o1, ?_, h1, k1⟩
    simp only [State.vpermDie, hsees.lanes hpr, e1, beq_iff_eq, hsub, if_false, vpermElem, lane_eq_elem]

/-- R356: what VCAS gives for lane `n` of a register. -/
def vcasElem (sg : Bool) (sub : Nat) (v : Vec) (n : Nat) : BitVec 32 :=
  let a := elem 32 v
  let p := n ^^^ 2 ^ (sub % 4)
  let lo := Nat.min n p
  let b := sub / 8 % 8
  let dir := (sub / 4 % 2 == 1) != (b != 0 && lo.testBit (b - 1))
  if (n == lo) != dir then least sg 32 (a n) (a p) else most sg 32 (a n) (a p)

theorem bits_one_beq_one (x k : Nat) : (bits x k 1 == 1) = x.testBit k := by
  rw [bits, Nat.testBit_eq_decide_div_mod_eq]
  rfl

/-- R356: the pair's lower lane gives its direction, and each lane takes the lesser or the greater word. -/
theorem vcasLane_eq (sg : Bool) (sub : Nat) (v : Vec) (n : Nat) : vcasLane sg sub v n = (vcasElem sg sub v n).toNat := by
  unfold vcasLane vcasElem
  simp only [lane_eq_elem, minW_toNat, maxW_toNat, bits_one_beq_one (Nat.min n (n ^^^ 2 ^ (sub % 4)))]
  exact (apply_ite BitVec.toNat _ _ _).symm

theorem vcasDie_yields {s : State} {h : Hdr} {f : FRRR} {d : Nat} (hready : Ready s h) (hd : d ∈ s.enabled h) (hsrc : SrcsOk s d f 1) :
    Yields (·.vcasDie h f d) s h d .v f.dst.n (vecOf 32 (vcasElem f.ty.signed f.sub.toNat (src s d 91 .v f.srcA)))
      (elemMask 32 (acts s d f.pr)) (latchedA s d f) := by
  intro o hsees
  obtain ⟨hpr, ha, -, -⟩ := hsrc
  obtain ⟨o1, e1, h1, k1⟩ := hsees.rdSrc (State.enabled_lt hd) (cc0_lt hready.col hready.ctx) (ha le_rfl) rfl
  refine ⟨o1, ?_, h1, k1⟩
  rw [← vecOfLanes_toNat, ← laneMask_eq_elemMask, ← funext (vcasLane_eq f.ty.signed f.sub.toNat (src s d 91 .v f.srcA))]
  simp only [State.vcasDie, hsees.lanes hpr, e1]

/-! ### The refusals of VPERM (R76, R369) -/

/-- R64: register fields that must be zero, and are, name no lane group. -/
theorem groups_any_of_zeroed {k : Chk} {rs : List (Reg × RK)} (hrs : ∀ x ∈ rs, x ∈ k.regs ∨ x = (Reg.zero, .no)) {p : Nat → Bool}
    (hp : ({ k with regs := rs, limOk := false } : Chk).groups.any p = true) : k.groups.any p = true := by
  obtain ⟨g, hg, hpg⟩ := List.any_eq_true.1 hp
  refine List.any_eq_true.2 ⟨g, List.mem_append.2 ((List.mem_append.1 hg).imp_left fun hg => ?_), hpg⟩
  obtain ⟨x, hx, hxg⟩ := List.mem_filterMap.1 hg
  rcases hrs x hx with hmem | rfl
  · exact List.mem_filterMap.2 ⟨x, hmem, hxg⟩
  · cases hxg

/-- R64: such fields do not give cause 0x07. -/
theorem reg7_any_of_zeroed {rs rs' : List (Reg × RK)} (hrs : ∀ x ∈ rs, x ∈ rs' ∨ x = (Reg.zero, .no)) (h : rs.any reg7 = true) :
    rs'.any reg7 = true := by
  obtain ⟨x, hx, hx7⟩ := List.any_eq_true.1 h
  rcases hrs x hx with hmem | rfl
  · exact List.any_eq_true.2 ⟨x, hmem, hx7⟩
  · cases hx7

/-- R76: cause 0x09 for an operation of class VA with a field beyond its limits that differs from one that no check refuses in no more than
register fields that must be zero and are. -/
theorem causeOf_va_of_limits {h : Hdr} {i j : Instr} {rs : List (Reg × RK)} (hi : causeOf .va h i = none)
    (hj : chkOf j = { chkOf i with regs := rs, limOk := false }) (hrs : ∀ x ∈ rs, x ∈ (chkOf i).regs ∨ x = (Reg.zero, .no)) :
    causeOf .va h j = some 9 := by
  unfold causeOf at hi ⊢
  rw [hj]
  dsimp only at hi ⊢
  split_ifs at hi with h6 h7 h8
  have h7j : ¬((chkOf i).bad7 || rs.any reg7 || (!(chkOf i).prUse && (chkOf i).pr != Pr.none) || xGroups7 .va (chkOf i)) = true := by
    simp only [Bool.or_eq_true, not_or] at h7 ⊢
    obtain ⟨⟨⟨hbad, hregs⟩, hpr⟩, hx⟩ := h7
    exact ⟨⟨⟨hbad, mt (reg7_any_of_zeroed hrs) hregs⟩, hpr⟩, hx⟩
  exact (if_neg fun hg => h6 (groups_any_of_zeroed hrs hg)).trans ((if_neg h7j).trans (if_neg h8))

/-- R369: a SUB that is neither 0 nor that of a rotation is refused with cause 0x09. -/
theorem decode_vperm_sub {h : Hdr} {f : FRRR} (hl : (Instr.vperm h f).legal = true) (hb : f.srcB = .zero) {x : BitVec 8} (hx : x ≠ 0)
    (hrot : x.toNat / 16 ≠ 1) : decode (encode (.vperm h { f with sub := x })) = .error 9 := by
  have h0 : ¬x = 0#8 := hx
  have hlim : (decide (0x10 ≤ x.toNat) && decide (x.toNat ≤ 0x1F)) = false := by rw [← Bool.decide_and, decide_eq_false_iff_not]; omega
  have hchk : chkOf (.vperm h { f with sub := x }) =
      { chkOf (.vperm h f) with regs := [(f.dst, .v), (f.srcA, .vSrc), (Reg.zero, .no), (f.srcC, .no)], limOk := false } := by
    simp [chkOf, vecChk, rrrChk, h0, hlim, hb]
  exact decode_encode_rrr_error (op := 21) (by decide) rfl rfl rfl
    (causeOf_va_of_limits (beq_iff_eq.1 hl) hchk (by simp [chkOf, vecChk, rrrChk]))

/-- R356, R369: VPERM moves lanes and refuses any other SUB; VCAS exchanges the lanes of a pair. -/
theorem vectorPermute : VectorPermute := by
  refine ⟨fun s h f _ hready hok => ?vperm, fun h f hl hb x hx hrot => decode_vperm_sub hl hb hx hrot, fun s h f _ hready hok => ?vcas⟩
  case vperm =>
    exact ⟨_, _, _, delivers_of_yields _ hready rfl fun d hd => ⟨(hok d hd).2, vpermDie_yields hready hd (hok d hd).1⟩,
      elements_vecOf s h f.pr (by decide) (by decide) (vpermElem s f)⟩
  case vcas =>
    exact ⟨_, _, _, delivers_of_yields _ hready rfl fun d hd => ⟨(hok d hd).2, vcasDie_yields hready hd (hok d hd).1⟩,
      elements_vecOf s h f.pr (by decide) (by decide) fun d => vcasElem f.ty.signed f.sub.toNat (src s d 91 .v f.srcA)⟩

/-- Settles O9: VADD to VMAX by the rule of vector integer operations, the others by the rule of an operation that leaves one result on each
die; a word of VPERM with another SUB fails one check of R76. -/
theorem vectorInteger : Obligations.VectorInteger := by
  unfold Obligations.VectorInteger
  exact ⟨vectorArithmetic, vectorCompareSelect, vectorPermute⟩

end Sys2Proof.Machine
end

section
/-! SUPPORT. Control words of every format (R59, R66 to R76): the encoder's word read back, and the decoder's operation written back. -/

set_option Elab.async false

namespace Sys2Proof

open Machine Claims

/-! ### Operations and their class, opcode and fields (R75) -/

/-- Fields of one format. -/
inductive SameFormat : Fields → Fields → Prop
  | none : SameFormat .none .none
  | rrr (f g : FRRR) : SameFormat (.rrr f) (.rrr g)
  | rimm (f g : FRIMM) : SameFormat (.rimm f) (.rimm g)
  | mem (f g : FMEM) : SameFormat (.mem f) (.mem g)
  | br (f g : FBR) : SameFormat (.br f) (.br g)
  | sync (f g : FSYNC) : SameFormat (.sync f) (.sync g)
  | copy (f g : FCOPY) : SameFormat (.copy f) (.copy g)
  | mx (f g : FMX) : SameFormat (.mx f) (.mx g)
  | en (f g : FEN) : SameFormat (.en f) (.en g)
  | ev (f g : FEV) : SameFormat (.ev f) (.ev g)

theorem sameFormat_of_fmt_eq {fs gs : Fields} (h : fs.fmt = gs.fmt) : SameFormat fs gs := by
  cases fs <;> cases gs <;> first | constructor | cases h

/-- R75: an operation's opcode is one of its class and takes the format of its fields. -/
theorem fmtOf_of_toRaw {i : Instr} {c : Cls} {op : Nat} {h : Hdr} {fs : Fields} (hi : toRaw i = some (c, op, h, fs)) :
    fmtOf c op = some fs.fmt ∧ op < 256 := by
  cases i
  case nop =>
    obtain ⟨c', -, e⟩ := Option.map_eq_some_iff.1 hi
    cases e
    cases c <;> exact ⟨rfl, by decide⟩
  all_goals cases hi <;> exact ⟨rfl, by decide⟩

/-- R75: what an operation's class and opcode make of any fields of its format has that class, opcode and fields. -/
theorem toRaw_mk_of_sameFormat {i : Instr} {c : Cls} {op : Nat} {h : Hdr} {fs gs : Fields} (hi : toRaw i = some (c, op, h, fs))
    (hf : SameFormat fs gs) (g : Hdr) : (mk c op g gs).map toRaw = some (some (c, op, g, gs)) := by
  cases i
  case nop =>
    obtain ⟨c', hc, e⟩ := Option.map_eq_some_iff.1 hi
    cases e
    cases hf
    cases c <;> rfl
  case seize | seizeHold | tdrop | tdropAll | pmov | pmovV =>
    cases hi
    cases hf
    exact congrArg some ((apply_ite toRaw ..).trans (ite_self _))
  all_goals cases hi <;> cases hf <;> rfl

/-- Fields of a format, all zero. -/
def zeroFields (fmt : Nat) : Fields := Fields.ofList fmt (List.replicate (layOf fmt).length 0)

/-- R75: every opcode that takes a format has an operation of it, at zero fields. -/
theorem toRaw_mk_zeroFields : ∀ c ∈ [Cls.sc, .br, .mx, .cp, .en, .ev, .xg, .sy, .va, .vm], ∀ op ∈ List.range 49, ∀ k ∈ fmtOf c op,
    (mk c op Hdr.plain (zeroFields k)).bind toRaw = some (c, op, Hdr.plain, zeroFields k) ∧ (zeroFields k).fmt = k := by
  decide +kernel

/-- R75: no opcode from 49 on is used. -/
theorem fmtOf_eq_none {c : Cls} {op : Nat} (h : 49 ≤ op) : fmtOf c op = none := by
  obtain ⟨n, rfl⟩ := Nat.exists_eq_add_of_le' h
  rfl

/-- R75: the operation of a class, an opcode and fields of its format has these. -/
theorem toRaw_of_mk {c : Cls} {op : Nat} {h : Hdr} {fs : Fields} {i : Instr} (hf : fmtOf c op = some fs.fmt)
    (hm : mk c op h fs = some i) : toRaw i = some (c, op, h, fs) := by
  have hop : op < 49 := by
    by_contra hop
    rw [fmtOf_eq_none (by omega)] at hf
    cases hf
  obtain ⟨hraw, hfmt⟩ := toRaw_mk_zeroFields c (by cases c <;> decide) op (List.mem_range.2 hop) fs.fmt hf
  obtain ⟨j, -, hj⟩ := Option.bind_eq_some_iff.1 hraw
  have hmap := toRaw_mk_of_sameFormat hj (sameFormat_of_fmt_eq hfmt) h
  rwa [hm, Option.map_some, Option.some_inj] at hmap

/-! ### Fields as numbers and back (R59, R66 to R74) -/

theorem bit01_isOne_mod (x : Nat) : bit01 (isOne (x % 2 ^ 1)) = x % 2 ^ 1 := by
  rcases Nat.mod_two_eq_zero_or_one x with e | e <;> simp [e, isOne, bit01]

theorem toNat_ofNat_mod (w x : Nat) : (BitVec.ofNat w (x % 2 ^ w)).toNat = x % 2 ^ w := by
  rw [BitVec.toNat_ofNat, Nat.mod_mod]

theorem Ty.code_ofCode_mod (x : Nat) : (Ty.ofCode (x % 2 ^ 4)).code = x % 2 ^ 4 := by
  have hlt : x % 2 ^ 4 < 16 := Nat.mod_lt _ (by decide)
  generalize x % 2 ^ 4 = y at hlt
  interval_cases y <;> rfl

theorem Reg.toNat_ofNat_mod (x : Nat) : (Reg.ofNat (x % 2 ^ 11)).toNat = x % 2 ^ 11 := by
  have hlt : x % 2 ^ 11 < 2048 := Nat.mod_lt _ (by decide)
  generalize x % 2 ^ 11 = y at hlt
  simp only [Reg.toNat, Reg.ofNat, BitVec.toNat_ofNat, beq_iff_eq]
  split <;> omega

/-- What the fields of a word pack to: the word, cut at the sum of their widths. -/
theorem packFields_unpackFields (ws : List Nat) (x : Nat) : packFields ws (unpackFields ws x) = x % 2 ^ ws.sum := by
  induction ws generalizing x with
  | nil => simp [packFields, Nat.mod_one]
  | cons w ws ih => rw [unpackFields, packFields, ih, Nat.mod_mod, List.sum_cons, Nat.pow_add, Nat.mod_mul]

/-- R66 to R74: every format's fields are read back from their values. -/
theorem Fields.ofList_toList (fs : Fields) :
    Fields.ofList fs.fmt (List.zipWith (fun w v => v % 2 ^ w) (layOf fs.fmt) fs.toList) = fs := by
  cases fs <;> simp only [Fields.fmt, layOf, Fields.toList, List.zipWith_cons_cons, List.zipWith_nil_left, Fields.ofList, isOne_bit01,
    ofNat_toNat_mod, Ty.ofCode_code, Reg.ofNat_toNat]

/-- R76: a format's reserved fields are written as zero. -/
theorem resvSet_toList (fs : Fields) : resvSet fs.fmt (List.zipWith (fun w v => v % 2 ^ w) (layOf fs.fmt) fs.toList) = false := by
  cases fs <;> rfl

theorem Hdr.toList_ofList (x : Nat) (hr : (unpackFields layHdr x).getD 1 0 = 0) :
    (Hdr.ofList (unpackFields layHdr x)).toList = unpackFields layHdr x := by
  simp only [layHdr, unpackFields, Hdr.ofList, Hdr.toList, toNat_ofNat_mod, bit01_isOne_mod] at hr ⊢
  rw [← hr]; rfl

theorem Fields.fmt_ofList {k : Nat} (hk : k ≤ 9) (x : Nat) : (Fields.ofList k (unpackFields (layOf k) x)).fmt = k := by
  interval_cases k <;> rfl

/-- R66 to R74, R76: a format's values are read back from its fields, where the reserved ones are zero. -/
theorem Fields.toList_ofList {k : Nat} (hk : k ≤ 9) (x : Nat) (hr : resvSet k (unpackFields (layOf k) x) = false) :
    (Fields.ofList k (unpackFields (layOf k) x)).toList = unpackFields (layOf k) x := by
  interval_cases k
  all_goals
    simp only [layOf, resvSet, resvOf, unpackFields, List.any_cons, List.any_nil, Bool.or_eq_false_iff, bne_eq_false_iff_eq,
      List.getD_cons_succ, List.getD_cons_zero] at hr
    simp only [layOf, unpackFields, Fields.ofList, Fields.toList, toNat_ofNat_mod, bit01_isOne_mod, Ty.code_ofCode_mod,
      Reg.toNat_ofNat_mod, hr]

/-! ### Words (R59) -/

section

variable (c : Cls) (h : Hdr) (fs : Fields)

theorem Fields.fmt_le : fs.fmt ≤ 9 := by cases fs <;> simp [Fields.fmt]

theorem sum_layOf : (layOf fs.fmt).sum = 176 := by cases fs <;> rfl

variable {op : Nat} (hop : op < 256)

include hop

/-- R59: where the parts of a word lie: class, opcode and format below bit 16, the header below bit 80. -/
theorem encodeRaw_eq : encodeRaw c op h fs =
    c.code + 2 ^ 4 * (op + 2 ^ 8 * fs.fmt) + 2 ^ 16 * (packFields layHdr h.toList + 2 ^ 64 * packFields (layOf fs.fmt) fs.toList) := by
  have hc := c.code_lt
  have hf := fs.fmt_le
  simp only [encodeRaw, packFields]
  omega

theorem encodeRaw_lt : encodeRaw c op h fs < 2 ^ 256 := by
  have hc := c.code_lt
  have hf := fs.fmt_le
  have hhdr : packFields layHdr h.toList < 2 ^ 64 := packFields_lt _ _
  have hfields : packFields (layOf fs.fmt) fs.toList < 2 ^ 176 := sum_layOf fs ▸ packFields_lt _ _
  rw [encodeRaw_eq c h fs hop]
  omega

/-- R59: the class, the opcode and the format of a word. -/
theorem bits_encodeRaw : bits (encodeRaw c op h fs) 0 4 = c.code ∧ bits (encodeRaw c op h fs) 4 8 = op ∧
    bits (encodeRaw c op h fs) 12 4 = fs.fmt := by
  have hc := c.code_lt
  have hf := fs.fmt_le
  rw [encodeRaw_eq c h fs hop]
  unfold bits
  omega

/-- R59, R61: the header's fields of a word. -/
theorem unpackFields_encodeRaw_hdr :
    unpackFields layHdr (encodeRaw c op h fs / 2 ^ 16) = List.zipWith (fun w v => v % 2 ^ w) layHdr h.toList := by
  have hc := c.code_lt
  have hf := fs.fmt_le
  have habove : encodeRaw c op h fs / 2 ^ 16 =
      packFields layHdr h.toList + 2 ^ layHdr.sum * packFields (layOf fs.fmt) fs.toList := by
    rw [encodeRaw_eq c h fs hop, show layHdr.sum = 64 from rfl]
    omega
  rw [habove]
  exact unpackFields_packFields_add _ _ _ rfl

/-- R66 to R74: the format's fields of a word. -/
theorem unpackFields_encodeRaw_fields : unpackFields (layOf fs.fmt) (encodeRaw c op h fs / 2 ^ 80) =
    List.zipWith (fun w v => v % 2 ^ w) (layOf fs.fmt) fs.toList := by
  have hc := c.code_lt
  have hf := fs.fmt_le
  have hhdr : packFields layHdr h.toList < 2 ^ 64 := packFields_lt _ _
  have habove : encodeRaw c op h fs / 2 ^ 80 = packFields (layOf fs.fmt) fs.toList := by
    rw [encodeRaw_eq c h fs hop]
    omega
  rw [habove]
  exact unpackFields_packFields (by cases fs <;> rfl)

/-- R76: what the decoder answers to an encoded word whose opcode takes the format of its fields. -/
theorem decode_encodeRaw (hfmt : fmtOf c op = some fs.fmt) : decode (BitVec.ofNat 256 (encodeRaw c op h fs)) =
    match mk c op h fs with
    | none => .error 5
    | some i => match causeOf c h i with
      | some k => .error k
      | none => .ok i := by
  have hword : (BitVec.ofNat 256 (encodeRaw c op h fs)).toNat = encodeRaw c op h fs :=
    Nat.mod_eq_of_lt (encodeRaw_lt c h fs hop)
  obtain ⟨hcls, hopc, hform⟩ := bits_encodeRaw c h fs hop
  have hresHdr : (List.zipWith (fun w v => v % 2 ^ w) layHdr h.toList).getD 1 0 = 0 := rfl
  have hlow : ¬fs.fmt > 9 := Nat.not_lt.2 fs.fmt_le
  simp only [decode, hword, hcls, hopc, hform, unpackFields_encodeRaw_hdr c h fs hop, unpackFields_encodeRaw_fields c h fs hop, hresHdr,
    resvSet_toList, Cls.ofCode_code, hfmt, Hdr.ofList_toList, Fields.ofList_toList, bne_self_eq_false, Bool.or_false, Bool.false_eq_true,
    if_false, hlow] <;> rfl

end

/-- R59: a word from its class, opcode, format, header and fields. -/
theorem packFields_word (n : Nat) (ws : List Nat) (hn : n < 2 ^ 256) (hs : ws.sum = 176) :
    packFields [4, 8, 4] [bits n 0 4, bits n 4 8, bits n 12 4] + 2 ^ 16 *
      (packFields layHdr (unpackFields layHdr (n / 2 ^ 16)) + 2 ^ 64 * packFields ws (unpackFields ws (n / 2 ^ 80))) = n := by
  rw [packFields_unpackFields, packFields_unpackFields, hs, show layHdr.sum = 64 from rfl]
  simp only [packFields, bits]
  omega

/-- R60: the code of a class that a code stands for. -/
theorem Cls.code_of_ofCode {n : Nat} {c : Cls} (h : Cls.ofCode n = some c) : c.code = n := by
  unfold Cls.ofCode at h
  split at h <;> cases h <;> rfl

/-- R76: what the decoder has found where it answers an operation. -/
theorem decode_eq_ok {w : BitVec 256} {i : Instr} (hw : decode w = .ok i) : ∃ c, c.code = bits w.toNat 0 4 ∧ bits w.toNat 12 4 ≤ 9 ∧
    (unpackFields layHdr (w.toNat / 2 ^ 16)).getD 1 0 = 0 ∧
    resvSet (bits w.toNat 12 4) (unpackFields (layOf (bits w.toNat 12 4)) (w.toNat / 2 ^ 80)) = false ∧
    fmtOf c (bits w.toNat 4 8) = some (bits w.toNat 12 4) ∧
    mk c (bits w.toNat 4 8) (Hdr.ofList (unpackFields layHdr (w.toNat / 2 ^ 16)))
      (Fields.ofList (bits w.toNat 12 4) (unpackFields (layOf (bits w.toNat 12 4)) (w.toNat / 2 ^ 80))) = some i ∧
    causeOf c (Hdr.ofList (unpackFields layHdr (w.toNat / 2 ^ 16))) i = none := by
  unfold decode at hw
  dsimp only at hw
  split at hw
  · cases hw
  rename_i hres
  split at hw
  · cases hw
  rename_i c hc
  split at hw
  · cases hw
  rename_i hlow
  split at hw
  · cases hw
  rename_i f hf
  split at hw
  · cases hw
  rename_i hne
  split at hw
  · cases hw
  rename_i j hm
  split at hw
  · cases hw
  rename_i hcause
  cases hw
  simp only [Bool.or_eq_true, not_or, Bool.not_eq_true, bne_eq_false_iff_eq] at hres hne
  exact ⟨c, Cls.code_of_ofCode hc, Nat.not_lt.1 hlow, hres.1, hres.2, hne ▸ hf, hm, hcause⟩

theorem legal_of_toRaw {i : Instr} {c : Cls} {op : Nat} {h : Hdr} {fs : Fields} (hi : toRaw i = some (c, op, h, fs)) :
    i.legal = (causeOf c h i == none) := by
  simp [Instr.legal, Instr.head, hi]

/-- Settles O4: the decoder reads the parts of an encoded word back, and no check refuses a legal operation. -/
theorem decodeEncode : Obligations.DecodeEncode := by
  unfold Obligations.DecodeEncode
  intro i hwf hhead
  obtain ⟨⟨c, op, h, fs⟩, hraw⟩ : ∃ x, toRaw i = some x := by
    simpa [Instr.head, Option.isSome_iff_exists] using hhead
  obtain ⟨hfmt, hop⟩ := fmtOf_of_toRaw hraw
  obtain ⟨hlegal, hmk⟩ : i.legal = true ∧ mk c op h fs = some i := by simpa [Instr.wf, hraw] using hwf
  have hcause : causeOf c h i = none := by simpa [legal_of_toRaw hraw] using hlegal
  rw [encode, hraw]
  simp only [decode_encodeRaw c h fs hop hfmt, hmk, hcause]

/-- Settles O5: the operation has the class, opcode, header and fields of its word, whose reserved bits are zero, so that its parts pack to the word. -/
theorem encodeDecode : Obligations.EncodeDecode := by
  unfold Obligations.EncodeDecode
  intro w i hw
  obtain ⟨c, hcls, hlow, hresHdr, hres, hfmt, hmk, hcause⟩ := decode_eq_ok hw
  have hform := Fields.fmt_ofList hlow (w.toNat / 2 ^ 80)
  have hraw := toRaw_of_mk (hfmt.trans (congrArg some hform.symm)) hmk
  refine ⟨?legal, ?head, ?word⟩
  case legal => rw [legal_of_toRaw hraw, hcause]; rfl
  case head => simp [Instr.head, hraw]
  case word =>
    have hsum : (layOf (bits w.toNat 12 4)).sum = 176 := hform ▸ sum_layOf _
    rw [encode, hraw]
    dsimp only
    rw [encodeRaw, hform, Hdr.toList_ofList _ hresHdr, Fields.toList_ofList hlow _ hres, hcls, packFields_word _ _ w.isLt hsum]
    exact ofNat_of_eq_toNat rfl

end Sys2Proof
end

section
/-! SUPPORT. Scalar operations (R41, R302, R331): quotients and remainders of numbers as operations on words, the rule of an operation with an
immediate, comparisons and selects. -/

set_option Elab.async false

namespace Sys2Proof.Machine

open Claims

/-! ### The model's arithmetic on numbers, as operations on words -/

/-- R41: the quotient. -/
theorem divW_toNat (sg : Bool) {w : Nat} (a b : BitVec w) : divW sg w a.toNat b.toNat = (quotient sg w a b).toNat := by
  have hzero : b.toNat = 0 ↔ b = 0 := BitVec.toNat_inj (y := 0#w)
  unfold divW quotient
  simp only [hzero, apply_ite BitVec.toNat, BitVec.toNat_allOnes, asSigned_toNat, ofSigned_eq_ofInt, Nat.mod_eq_of_lt a.isLt,
    Nat.mod_eq_of_lt b.isLt]
  have hsigned : BitVec.ofInt w (a.toInt.tdiv b.toInt) = a.sdiv b :=
    BitVec.eq_of_toInt_eq (by rw [BitVec.toInt_ofInt, BitVec.toInt_sdiv])
  rw [hsigned]
  rfl

/-- R41: the remainder. -/
theorem remW_toNat (sg : Bool) {w : Nat} (a b : BitVec w) : remW sg w a.toNat b.toNat = (remainder sg w a b).toNat := by
  have hzero : b.toNat = 0 ↔ b = 0 := BitVec.toNat_inj (y := 0#w)
  unfold remW remainder
  simp only [hzero, apply_ite BitVec.toNat, asSigned_toNat, ofSigned_eq_ofInt, Nat.mod_eq_of_lt a.isLt, Nat.mod_eq_of_lt b.isLt]
  rw [← BitVec.toInt_srem, BitVec.ofInt_toInt]
  rfl

theorem and_compl_toNat {w : Nat} (a b : BitVec w) : a.toNat &&& (2 ^ w - 1 - b.toNat) = (a &&& ~~~b).toNat := by
  rw [BitVec.toNat_and, BitVec.toNat_not]

/-- A comparison sees the low bits of its operands alone. -/
theorem cmpW_eq_low (sg : Bool) (w sub x y : Nat) : cmpW sg w sub x y = holdsCond sg sub (BitVec.ofNat w x) (BitVec.ofNat w y) := by
  have hval (z : Nat) : intVal sg w z = intVal sg w (BitVec.ofNat w z).toNat := by
    rw [intVal, intVal, asSigned_toNat, asSigned_eq_toInt, BitVec.toNat_ofNat, Nat.mod_mod]
  rw [← cmpW_toNat]
  dsimp only [cmpW]
  rw [hval x, hval y]

/-! ### An operation of an immediate (R302) -/

/-- R302: what an operation of an S register and an immediate leaves in flight; a value that does not use the register need not read it. -/
theorem scalarImm_of_aluImm {mk : Hdr → FRIMM → Instr} {useA : Bool} {r : Nat → Nat → Nat → Nat}
    {val : Bool → (w : Nat) → BitVec w → BitVec w → BitVec w} (hexec : ∀ h f s, exec (mk h f) s = s.attempt fun s => s.aluImm h f useA r)
    (hval : ∀ sg (w : Nat) (a a' b : BitVec w), (useA = true → a = a') → BitVec.ofNat w (r w a.toNat b.toNat) = val sg w a' b) :
    ScalarImm mk val := by
  intro s h f _ hready hok
  refine State.attempt_delivers _ s h _ 1 .s f.dst.n _ _ (fun _ => 0) 0 (fun d => (s.ctxD d).ws.slots) hready _ (hexec h f s) rfl ?_
  intro d hd o hsame hcd
  obtain ⟨ha, hw⟩ := hok d hd
  have hsees := Sees.start hsame hcd
  have hread : (if useA then o.rdS d f.srcA else (0, o)) = (if useA then sreg s d f.srcA else 0, o) := by
    rw [hsees.rdS ha]; cases useA <;> rfl
  have hv := hval f.ty.signed f.ty.width (low f.ty (if useA then sreg s d f.srcA else 0)) (low f.ty (sreg s d f.srcA))
    (low f.ty f.imm.toNat) (fun h => by rw [h]; rfl)
  rw [low, low, low, BitVec.toNat_ofNat, BitVec.toNat_ofNat] at hv
  dsimp only
  rw [hread, extend_eq_ext, hv]
  exact hsees.result (State.enabled_lt hd) (cc0_lt hready.col hready.ctx) hw h 1 _ _ 0 0

/-! ### The operations -/

/-- R302, R331: the sums, differences and bit operations. -/
theorem scalarLogic : ScalarLogic := by
  refine ⟨?add, ?sub, ?and, ?andn, ?or, ?xor, ?mov⟩
  case add =>
    exact scalar2_of_aluT (r := fun _ _ a b => a + b) (fun _ _ _ => rfl) fun _ _ _ _ _ => by rw [BitVec.ofNat_add]; simp
  case sub =>
    exact scalar2_of_aluT (r := fun _ w a b => a + (2 ^ w - b)) (fun _ _ _ => rfl) fun _ _ _ a b => ofNat_add_two_pow_sub a b
  case and =>
    exact scalar2_of_aluT (r := fun _ _ a b => a &&& b) (fun _ _ _ => rfl) fun _ _ _ a b => ofNat_of_eq_toNat (BitVec.toNat_and a b).symm
  case andn =>
    exact scalar2_of_aluT (r := fun _ w a b => a &&& (2 ^ w - 1 - b)) (fun _ _ _ => rfl)
      fun _ _ _ a b => ofNat_of_eq_toNat (and_compl_toNat a b)
  case or =>
    exact scalar2_of_aluT (r := fun _ _ a b => a ||| b) (fun _ _ _ => rfl) fun _ _ _ a b => ofNat_of_eq_toNat (BitVec.toNat_or a b).symm
  case xor =>
    exact scalar2_of_aluT (r := fun _ _ a b => a ^^^ b) (fun _ _ _ => rfl) fun _ _ _ a b => ofNat_of_eq_toNat (BitVec.toNat_xor a b).symm
  case mov => exact scalar1_of_alu1 (r := fun _ a => a) (fun _ _ _ => rfl) fun _ _ => ofNat_of_eq_toNat rfl

/-- R41, R331: products, quotients, remainders and extremes. -/
theorem scalarMultiplyDivide : ScalarMultiplyDivide := by
  refine ⟨?mul, ?mulh, ?div, ?rem, ?min, ?max⟩
  case mul =>
    exact scalar2_of_aluT (r := fun _ _ a b => a * b) (fun _ _ _ => rfl) fun _ _ _ _ _ => by rw [BitVec.ofNat_mul]; simp
  case mulh =>
    exact scalar2_of_aluT (r := fun t w a b => mulhW t.signed w a b) (fun _ _ _ => rfl)
      fun _ _ _ a b => ofNat_of_eq_toNat (mulhW_toNat _ a b)
  case div =>
    exact scalar2_of_aluT (r := fun t w a b => divW t.signed w a b) (fun _ _ _ => rfl)
      fun _ _ _ a b => ofNat_of_eq_toNat (divW_toNat _ a b)
  case rem =>
    exact scalar2_of_aluT (r := fun t w a b => remW t.signed w a b) (fun _ _ _ => rfl)
      fun _ _ _ a b => ofNat_of_eq_toNat (remW_toNat _ a b)
  case min =>
    exact scalar2_of_aluT (r := fun t w a b => minW t.signed w a b) (fun _ _ _ => rfl)
      fun _ _ _ a b => ofNat_of_eq_toNat (minW_toNat _ a b)
  case max =>
    exact scalar2_of_aluT (r := fun t w a b => maxW t.signed w a b) (fun _ _ _ => rfl)
      fun _ _ _ a b => ofNat_of_eq_toNat (maxW_toNat _ a b)

/-- R302, R331: ADDI, MOVI and MOVHI. -/
theorem scalarImmediate : ScalarImmediate := by
  refine ⟨?addi, ?movi, ?movhi⟩
  case addi =>
    exact scalarImm_of_aluImm (useA := true) (r := fun _ a i => a + i) (fun _ _ _ => rfl)
      fun _ _ _ _ _ ha => ha rfl ▸ by rw [BitVec.ofNat_add]; simp
  case movi =>
    exact scalarImm_of_aluImm (useA := false) (r := fun _ _ i => i) (fun _ _ _ => rfl) fun _ _ _ _ _ _ => ofNat_of_eq_toNat rfl
  case movhi =>
    exact scalarImm_of_aluImm (useA := true) (r := fun _ a i => i % 2 ^ 32 * 2 ^ 32 + a % 2 ^ 32) (fun _ _ _ => rfl)
      fun _ _ _ _ _ ha => ha rfl ▸ rfl

/-- R89: an F register reads as its flag. -/
theorem getLsbD_reg_f (s : State) (d n : Nat) : (reg s d .f n).getLsbD 0 = (s.ctxD d).ws.f.getLsbD n := by
  unfold reg WorkSet.rd
  cases h : (s.ctxD d).ws.f.getLsbD n <;> simp

theorem ofNat_sreg (s : State) (d : Nat) (r : Reg) : BitVec.ofNat 512 (sreg s d r) = reg s d .s r.n := ofNat_of_eq_toNat rfl

/-- R302, R331: CMP's flag and SEL's choice. -/
theorem compareSelect : CompareSelect := by
  refine ⟨fun s h f _ hready hok => ?cmp, fun s h f _ hready hok => ?sel⟩
  case cmp =>
    refine State.attempt_delivers _ s h _ 1 .f f.dst.n _ _ (fun _ => 0) 0 (fun d => (s.ctxD d).ws.slots) hready (opCmp h f) rfl rfl
      fun d hd o hsame hcd => ?_
    obtain ⟨ha, hb, hw⟩ := hok d hd
    have hsees := Sees.start hsame hcd
    dsimp only
    rw [hsees.rdS ha, hsees.rdS hb, cmpW_eq_low]
    exact hsees.result (State.enabled_lt hd) (cc0_lt hready.col hready.ctx) hw h 1 _ _ 0 0
  case sel =>
    refine State.attempt_delivers _ s h _ 1 .s f.dst.n _ _ (fun _ => 0) 0 (fun d => (s.ctxD d).ws.slots) hready (opSel h f) rfl rfl
      fun d hd o hsame hcd => ?_
    obtain ⟨ha, hb, hc, hw⟩ := hok d hd
    have hsees := Sees.start hsame hcd
    dsimp only
    rw [hsees.rdS ha, hsees.rdS hb, hsees.rdReg hc, getLsbD_reg_f, apply_ite (BitVec.ofNat 512), ofNat_sreg, ofNat_sreg]
    exact hsees.result (State.enabled_lt hd) (cc0_lt hready.col hready.ctx) hw h 1 _ _ 0 0

/-- Settles O7: each operation leaves its result by one rule for its format, and its value on numbers is the operation on words. -/
theorem scalarOperations : Obligations.ScalarOperations := by
  unfold Obligations.ScalarOperations
  exact ⟨scalarLogic, scalarMultiplyDivide, scalarImmediate, compareSelect⟩

end Sys2Proof.Machine
end

section
/-! SUPPORT. Predicate operations (R335): one rule for an operation whose die reads its sources and leaves one result at any latency, and predicate
registers as sixteen bits. -/

set_option Elab.async false

namespace Sys2Proof.Machine

open Claims

/-! ### One rule for an operation that reads its sources and leaves one result on each die -/

/-- What the part `D` of an operation on die `d` comes to: its sources are read, which leaves the latches `sl`, and the result is `v` under `mask` with the
flags `fl` of group `grp`, visible `lat` clocks later. -/
def Leaves (D : State → State) (s : State) (h : Hdr) (d lat : Nat) (file : RFile) (n : Nat) (v mask : Vec) (fl grp : Nat)
    (sl : SMap SlotDie) : Prop :=
  ∀ o, Sees o s d (s.ctxD d).ws.slots → ∃ o', D o = o'.result d h lat file n v mask fl grp true ∧ Sees o' s d sl ∧
    ∀ k, k ≠ s.ck0 d → o'.getCd k = o.getCd k

/-- R79: an operation that comes to this on each die issues and leaves these results. -/
theorem delivers_of_leaves {i : Instr} {s : State} {h : Hdr} {D : Nat → State → State} {lat : Nat} {file : RFile} {n : Nat}
    {v mask : Nat → Vec} {fl : Nat → Nat} {grp : Nat} (sl : Nat → SMap SlotDie) (hready : Ready s h)
    (hexec : exec i s = s.attempt fun s => s.onDies h D)
    (hok : ∀ d ∈ s.enabled h, Writable s d file n ∧ Leaves (D d) s h d lat file n (v d) (mask d) (fl d) grp (sl d)) :
    Delivers i s h lat file n v mask fl grp := by
  refine State.attempt_delivers i s h D lat file n v mask _ _ sl hready _ hexec rfl fun d hd o hsame hcd => ?_
  obtain ⟨hw, hl⟩ := hok d hd
  obtain ⟨o', hD, hsees, hother⟩ := hl o (Sees.start hsame hcd)
  rw [hD]
  exact (hsees.result (State.enabled_lt hd) (cc0_lt hready.col hready.ctx) hw h lat _ _ _ _).after hother

/-- R58: the latches of a die after one source at `pos` has been read. -/
def latchedOne (s : State) (d pos : Nat) (file : RFile) (r : Reg) : SMap SlotDie :=
  latched (s.ctxD d).ws.slots s.cur.slot pos r (src s d pos file r)

/-- R58: one source read. -/
theorem Sees.rdOne {o s : State} {h : Hdr} {d : Nat} (hsees : Sees o s d (s.ctxD d).ws.slots) (hready : Ready s h) (hd : d ∈ s.enabled h)
    {pos : Nat} {file : RFile} {r : Reg} (hok : SrcOk s d pos file r) :
    ∃ o1, o.rdSrc d pos file r = (src s d pos file r, o1) ∧ Sees o1 s d (latchedOne s d pos file r) ∧ ∀ k, k ≠ s.ck0 d → o1.getCd k = o.getCd k :=
  hsees.rdSrc (State.enabled_lt hd) (cc0_lt hready.col hready.ctx) hok rfl

/-! ### Predicate registers -/

theorem toNat_ffff : (0xFFFF#512).toNat = 0xFFFF := by
  rw [BitVec.toNat_ofNat]
  exact Nat.mod_eq_of_lt (Nat.lt_of_lt_of_le (by decide : 0xFFFF < 2 ^ 16) (Nat.pow_le_pow_right Nat.two_pos (by decide)))

/-- R89: a P source has sixteen bits. -/
theorem src_p_lt (s : State) (d pos : Nat) (r : Reg) : (src s d pos .p r).toNat < 2 ^ 16 := by
  unfold src
  split
  · rw [latchVal, if_pos rfl, BitVec.toNat_and, toNat_ffff]
    exact Nat.and_le_right.trans_lt (by decide)
  · rw [reg, WorkSet.rd, BitVec.toNat_setWidth]
    exact (Nat.mod_le _ _).trans_lt (BitVec.isLt _)

theorem toNat_src_p (s : State) (d pos : Nat) (r : Reg) : (src s d pos .p r).toNat = ((src s d pos .p r).setWidth 16).toNat := by
  rw [BitVec.toNat_setWidth, Nat.mod_eq_of_lt (src_p_lt s d pos r)]

theorem setWidth_src_p (s : State) (d pos : Nat) (r : Reg) : ((src s d pos .p r).setWidth 16).setWidth 512 = src s d pos .p r :=
  BitVec.eq_of_toNat_eq (by rw [BitVec.toNat_setWidth, ← toNat_src_p, Nat.mod_eq_of_lt (BitVec.isLt _)])

/-- The bits of a predicate register that a number below 2^16 makes. -/
theorem getLsbD_ofNat_mod {x k : Nat} (hk : k < 16) : (BitVec.ofNat 512 (x % 2 ^ 16)).getLsbD k = x.testBit k := by
  rw [BitVec.getLsbD_ofNat, Nat.testBit_mod_two_pow]
  simp [hk, show k < 512 by omega]

/-- R335: the lowest 1 bit alone. -/
theorem getLsbD_and_neg {w : Nat} (a : BitVec w) {k : Nat} (hk : k < w) :
    (a &&& -a).getLsbD k = (a.getLsbD k && (List.range k).all fun j => !a.getLsbD j) := by
  rw [BitVec.getLsbD_and, BitVec.getLsbD_neg]
  have hall : ((List.range k).all fun j => !a.getLsbD j) = !decide (∃ j < k, a.getLsbD j = true) := by
    rw [Bool.eq_iff_iff]
    simp
  rw [hall]
  cases a.getLsbD k <;> simp [hk]

/-! ### Operations on predicate registers -/

/-- R335: source B of a predicate operation of `n` sources: what the model takes for one that it does not read is zero. -/
def psrcB (s : State) (d n : Nat) (f : FRRR) : Vec := if 2 ≤ n then src s d 102 .p f.srcB else 0#512

/-- The latches after the sources of a predicate operation of `n` sources. -/
def platches (s : State) (d n : Nat) (f : FRRR) : SMap SlotDie :=
  if 2 ≤ n then latched (latchedOne s d 91 .p f.srcA) s.cur.slot 102 f.srcB (src s d 102 .p f.srcB) else latchedOne s d 91 .p f.srcA

/-- R58: source B read where the operation has one. -/
theorem Sees.rdPsrcB {o s : State} {h : Hdr} {f : FRRR} {d n : Nat} (hsees : Sees o s d (latchedOne s d 91 .p f.srcA)) (hready : Ready s h)
    (hd : d ∈ s.enabled h) (hb : 2 ≤ n → SrcOk s d 102 .p f.srcB) :
    ∃ o', (if n ≥ 2 then o.rdSrc d 102 .p f.srcB else (0#512, o)) = (psrcB s d n f, o') ∧ Sees o' s d (platches s d n f) ∧
      ∀ k, k ≠ s.ck0 d → o'.getCd k = o.getCd k := by
  unfold psrcB platches
  by_cases hn : 2 ≤ n
  · simp only [ge_iff_le, if_pos hn]
    exact hsees.rdSrc (State.enabled_lt hd) (cc0_lt hready.col hready.ctx) (hb hn) (holds_latched_other _ _ _ _ _ _ (by decide))
  · simp only [ge_iff_le, if_neg hn]
    exact ⟨o, rfl, hsees, fun _ _ => rfl⟩

/-- R335: what a predicate operation leaves in flight, from its value on sixteen bits; one of a single source does not use the second. -/
theorem predicateOp_of_pred {mk : Hdr → FRRR → Instr} {n : Nat} {op : Nat → Nat → Nat} {val : Vec → Vec → Nat → Bool}
    (hexec : ∀ h f s, exec (mk h f) s = s.attempt fun s => s.pred h f n op)
    (hval : ∀ a b b' : BitVec 16, (2 ≤ n → b = b') → ∀ k < 16,
      (op a.toNat b.toNat).testBit k = val (a.setWidth 512) (b'.setWidth 512) k) : PredicateOp mk n val := by
  intro s h f hready hok
  refine ⟨fun d => BitVec.ofNat 512 (op (src s d 91 .p f.srcA).toNat (psrcB s d n f).toNat % 2 ^ 16), fun d => predOf (acts s d f.pr),
    delivers_of_leaves (fun d => platches s d n f) hready (hexec h f s) fun d hd => ?_, fun d _ k hk => ⟨?_, getLsbD_packBits _ hk⟩⟩
  · obtain ⟨hpr, ha, hb, hw⟩ := hok d hd
    refine ⟨hw, fun o hsees => ?_⟩
    obtain ⟨o1, e1, h1, k1⟩ := hsees.rdOne hready hd ha
    obtain ⟨o2, e2, h2, k2⟩ := h1.rdPsrcB hready hd hb
    refine ⟨o2, ?_, h2, fun k hk => (k2 k hk).trans (k1 k hk)⟩
    simp only [hsees.lanes hpr, e1, e2]
    rfl
  · have hB : (psrcB s d n f).toNat = (if 2 ≤ n then (src s d 102 .p f.srcB).setWidth 16 else 0#16).toNat := by
      unfold psrcB
      by_cases hn : 2 ≤ n
      · rw [if_pos hn, if_pos hn, toNat_src_p]
      · rw [if_neg hn, if_neg hn, BitVec.toNat_zero, BitVec.toNat_zero]
    rw [getLsbD_ofNat_mod hk, hB, toNat_src_p s d 91, hval _ _ ((src s d 102 .p f.srcB).setWidth 16) (fun hn => if_pos hn) k hk,
      setWidth_src_p, setWidth_src_p]

/-- A bit of a predicate register's low sixteen. -/
theorem getLsbD_setWidth_512 (a : BitVec 16) {k : Nat} (hk : k < 16) : (a.setWidth 512).getLsbD k = a.getLsbD k := by
  rw [BitVec.getLsbD_setWidth, decide_eq_true (by omega), Bool.true_and]

/-- R335: PAND to PFIRST. -/
theorem predicateLogic : PredicateLogic := by
  refine ⟨?pand, ?por, ?pxor, ?pmov, ?pnot, ?pfirst⟩
  case pand =>
    refine predicateOp_of_pred (op := fun a b => a &&& b) (fun _ _ _ => rfl) fun a b b' hb k hk => ?_
    rw [← hb le_rfl, Nat.testBit_and, getLsbD_setWidth_512 a hk, getLsbD_setWidth_512 b hk]
    rfl
  case por =>
    refine predicateOp_of_pred (op := fun a b => a ||| b) (fun _ _ _ => rfl) fun a b b' hb k hk => ?_
    rw [← hb le_rfl, Nat.testBit_or, getLsbD_setWidth_512 a hk, getLsbD_setWidth_512 b hk]
    rfl
  case pxor =>
    refine predicateOp_of_pred (op := fun a b => a ^^^ b) (fun _ _ _ => rfl) fun a b b' hb k hk => ?_
    rw [← hb le_rfl, Nat.testBit_xor, getLsbD_setWidth_512 a hk, getLsbD_setWidth_512 b hk]
    rfl
  case pmov =>
    refine predicateOp_of_pred (op := fun a _ => a) (fun _ _ _ => rfl) fun a b b' _ k hk => ?_
    rw [getLsbD_setWidth_512 a hk]
    rfl
  case pnot =>
    refine predicateOp_of_pred (op := fun a _ => 0xFFFF - a) (fun _ _ _ => rfl) fun a b b' _ k hk => ?_
    have hnot : 0xFFFF - a.toNat = (~~~a).toNat := by rw [BitVec.toNat_not]
    rw [getLsbD_setWidth_512 a hk, hnot]
    change (~~~a).getLsbD k = _
    rw [BitVec.getLsbD_not, decide_eq_true hk, Bool.true_and]
  case pfirst =>
    refine predicateOp_of_pred (op := fun a _ => a &&& (2 ^ 16 - a)) (fun _ _ _ => rfl) fun a b b' _ k hk => ?_
    have hneg : (a.toNat &&& (2 ^ 16 - a.toNat)).testBit k = (a &&& -a).getLsbD k := by
      rw [BitVec.getLsbD_and, Nat.testBit_and, BitVec.getLsbD, BitVec.getLsbD, BitVec.toNat_neg, Nat.testBit_mod_two_pow,
        decide_eq_true hk, Bool.true_and]
    have hall : ((List.range k).all fun j => !(a.setWidth 512).getLsbD j) = (List.range k).all fun j => !a.getLsbD j := by
      rw [Bool.eq_iff_iff, List.all_eq_true, List.all_eq_true]
      refine forall₂_congr fun j hj => ?_
      rw [getLsbD_setWidth_512 a ((List.mem_range.1 hj).trans hk)]
    rw [hneg, getLsbD_and_neg a hk, getLsbD_setWidth_512 a hk, hall]

/-! ### PMOV.v, PCNT and PANY -/

/-- R30: a lane of the register that these sixteen make. -/
theorem elem_vecOfLanes (g : Nat → Nat) {n : Nat} (hn : n < 16) : elem 32 (vecOfLanes g) n = BitVec.ofNat 32 (g n) := by
  have h := elem_ofElems (w := 32) (i := n) (by decide) (by omega) ((List.range 16).map g)
  rwa [getD_map_range hn] at h

theorem lane_bne_zero (v : Vec) (n : Nat) : (lane v n != 0) = (elem 32 v n != 0) := by
  rw [lane_eq_elem, bne, bne, Bool.beq_eq_decide_eq, Bool.beq_eq_decide_eq]
  congr 2
  exact propext (BitVec.toNat_inj (y := 0#32))

/-- R335: PMOV.v, PCNT and PANY. -/
theorem predicateCount : PredicateCount := by
  refine ⟨fun s h f hready hok => ?pmovV, fun s h f hready hok => ?pcnt, fun s h f _ hready hok => ?pany⟩
  case pmovV =>
    refine ⟨fun d => predOf fun k => elem 32 (src s d 91 .v f.srcA) k != 0, fun d => predOf (acts s d f.pr),
      delivers_of_leaves (fun d => latchedOne s d 91 .v f.srcA) hready rfl fun d hd => ?_,
      fun d _ k hk => ⟨getLsbD_packBits _ hk, getLsbD_packBits _ hk⟩⟩
    obtain ⟨hpr, ha, hw⟩ := hok d hd
    refine ⟨hw, fun o hsees => ?_⟩
    obtain ⟨o1, e1, h1, k1⟩ := hsees.rdOne hready hd ha
    refine ⟨o1, ?_, h1, k1⟩
    simp only [hsees.lanes hpr, e1, lane_bne_zero]
    rfl
  case pcnt =>
    refine ⟨fun d => vecOfLanes fun _ => popW 16 (src s d 91 .p f.srcA).toNat,
      delivers_of_leaves (fun d => latchedOne s d 91 .p f.srcA) hready rfl fun d hd => ?_, fun d _ n hn => ?_⟩
    · obtain ⟨ha, hw⟩ := hok d hd
      refine ⟨hw, fun o hsees => ?_⟩
      obtain ⟨o1, e1, h1, k1⟩ := hsees.rdOne hready hd ha
      exact ⟨o1, by simp only [e1], h1, k1⟩
    · rw [elem_vecOfLanes _ hn, toNat_src_p, popW_toNat]
  case pany =>
    refine delivers_of_leaves (fun d => latchedOne s d 91 .p f.srcA) hready rfl fun d hd => ?_
    obtain ⟨ha, hw⟩ := hok d hd
    refine ⟨hw, fun o hsees => ?_⟩
    obtain ⟨o1, e1, h1, k1⟩ := hsees.rdOne hready hd ha
    refine ⟨o1, ?_, h1, k1⟩
    have hzero (x : Vec) : x ≠ 0 ↔ x.toNat ≠ 0 := by rw [ne_eq, ne_eq, ← BitVec.toNat_inj, show (0 : Vec).toNat = 0 from BitVec.toNat_zero]
    have hones (x : Vec) : x = 0xFFFF#512 ↔ x.toNat = 0xFFFF := by rw [← BitVec.toNat_inj, toNat_ffff]
    simp only [e1, hzero, hones]
    congr 1
    by_cases hsub : f.sub = 0 <;> simp [hsub]

/-- Settles O15: each operation leaves its bits by one rule, and its value on numbers is that of its bits. -/
theorem predicateOperations : Obligations.PredicateOperations := by
  unfold Obligations.PredicateOperations
  exact ⟨predicateLogic, predicateCount⟩

end Sys2Proof.Machine
end

section
/-! SUPPORT. Reductions and copies across groups (R373, R376): the bound of a rounded number, the order of FP32 data with their infinities, and what a fold of
choices leaves. -/

set_option Elab.async false

namespace Sys2Proof

open Machine Claims

/-! ### Rounded numbers fit their format (R29, R37) -/

theorem bitLen_pos {m : Nat} (h : 0 < m) : 0 < bitLen m := by
  rw [bitLen, if_neg h.ne']; omega

/-- A number cut at `k` bits, and one more, is at most a power of two that the number does not exceed in units of 2^`k`. -/
theorem roundAt_le {rm : RM} {neg : Bool} {m p : Nat} {e q : Int} (h : e + bitLen m ≤ q + p) (hq : e < q) : (roundAt rm neg m e q).1 ≤ 2 ^ p := by
  have hlt : m < 2 ^ bitLen m := bitLen_le.1 le_rfl
  have hk : bitLen m ≤ p + (q - e).toNat := by omega
  have hdiv : m / 2 ^ (q - e).toNat < 2 ^ p := by
    rw [Nat.div_lt_iff_lt_mul (by positivity), ← Nat.pow_add]
    exact hlt.trans_le (Nat.pow_le_pow_right Nat.two_pos hk)
  have hup (b : Bool) : (if b then m / 2 ^ (q - e).toNat + 1 else m / 2 ^ (q - e).toNat) ≤ 2 ^ p := by
    cases b
    · exact hdiv.le
    · exact hdiv
  unfold roundAt
  rw [if_neg (by omega)]
  exact hup _

/-- The same where nothing is cut. -/
theorem roundAt_lt_of_le {rm : RM} {neg : Bool} {m p : Nat} {e q : Int} (h : e + bitLen m ≤ q + p) (hq : q ≤ e) :
    (roundAt rm neg m e q).1 < 2 ^ p := by
  have hlt : m < 2 ^ bitLen m := bitLen_le.1 le_rfl
  have hk : bitLen m + (e - q).toNat ≤ p := by omega
  unfold roundAt
  rw [if_pos hq]
  calc m * 2 ^ (e - q).toNat < 2 ^ bitLen m * 2 ^ (e - q).toNat := Nat.mul_lt_mul_of_pos_right hlt (by positivity)
    _ = 2 ^ (bitLen m + (e - q).toNat) := (Nat.pow_add ..).symm
    _ ≤ 2 ^ p := Nat.pow_le_pow_right Nat.two_pos hk

/-- R37: a number rounded to a unit that leaves at most `p` bits of it, in whole units. -/
theorem roundAt_fst_le {rm : RM} {neg : Bool} {m p : Nat} {e q : Int} (h : e + bitLen m ≤ q + p) : (roundAt rm neg m e q).1 ≤ 2 ^ p := by
  by_cases hq : q ≤ e
  · exact (roundAt_lt_of_le h hq).le
  · exact roundAt_le h (by omega)

/-- A sign and magnitude bits below the sign make a datum of the format. -/
theorem FFmt.zero_add_lt {f : FFmt} {v : Nat} (neg : Bool) (hv : v < 2 ^ (f.eb + f.fb)) : f.zero neg + v < 2 ^ f.width := by
  rw [FFmt.width, show 1 + f.eb + f.fb = f.eb + f.fb + 1 by omega, Nat.pow_succ, FFmt.zero]
  split <;> omega

theorem FFmt.inf_lt (f : FFmt) (neg : Bool) : f.inf neg < 2 ^ f.width := by
  refine FFmt.zero_add_lt neg ?_
  rw [Nat.pow_add]
  exact Nat.mul_lt_mul_of_pos_right (Nat.sub_lt (by positivity) Nat.one_pos) (by positivity)

section

variable {f : FFmt} (hf : 0 < f.eb)

include hf

theorem FFmt.two_mul_bias : 2 * f.bias + 2 = 2 ^ f.eb := by
  have hpow : 2 ^ f.eb = 2 * 2 ^ (f.eb - 1) := by rw [← Nat.pow_succ', Nat.succ_eq_add_one, Nat.sub_add_cancel hf]
  have hpos : 0 < 2 ^ (f.eb - 1) := by positivity
  rw [FFmt.bias]
  omega

/-- R29: an exponent field below the greatest and a fraction make magnitude bits below those of an infinity. -/
theorem FFmt.magnitude_lt {w : Nat} {q : Int} (hw : w < 2 ^ (f.fb + 1)) (hq : q ≤ (f.bias : Int) - f.fb) :
    (q + f.fb + f.bias).toNat * 2 ^ f.fb + (w - 2 ^ f.fb) < (2 ^ f.eb - 1) * 2 ^ f.fb := by
  have hbias := FFmt.two_mul_bias hf
  have hexp : (q + f.fb + f.bias).toNat + 1 ≤ 2 ^ f.eb - 1 := by omega
  have hmul := Nat.mul_le_mul_right (2 ^ f.fb) hexp
  rw [Nat.add_mul, Nat.one_mul] at hmul
  rw [Nat.pow_succ] at hw
  have hpos : 0 < 2 ^ f.fb := by positivity
  omega

theorem FFmt.pow_fb_le_inf : 2 ^ f.fb ≤ (2 ^ f.eb - 1) * 2 ^ f.fb := by
  have htwo : 2 ^ 1 ≤ 2 ^ f.eb := Nat.pow_le_pow_right Nat.two_pos hf
  exact Nat.le_mul_of_pos_left _ (by omega)

/-- R29, R37: a rounded number has its sign and magnitude bits no greater than those of an infinity. -/
theorem roundFl_magnitude (rm : RM) (neg : Bool) (m : Nat) (e : Int) (sticky : Bool) :
    ∃ v ≤ (2 ^ f.eb - 1) * 2 ^ f.fb, (roundFl f rm neg m e sticky).1 = f.zero neg + v := by
  have hpow := FFmt.pow_fb_le_inf hf
  have hpos : 0 < 2 ^ f.fb := by positivity
  unfold roundFl
  split
  · exact ⟨0, Nat.zero_le _, rfl⟩
  dsimp only
  generalize hm2 : 4 * m + (if sticky = true then 1 else 0) = m2
  generalize hq0 : e - 2 + (bitLen m2 : Int) - ((f.fb : Int) + 1) = q0
  generalize hq : (if q0 < 1 - (f.bias : Int) - f.fb then 1 - (f.bias : Int) - f.fb else q0) = q
  have hle : (roundAt rm neg m2 (e - 2) q).1 ≤ 2 ^ (f.fb + 1) := roundAt_fst_le (by split at hq <;> push_cast <;> omega)
  generalize roundAt rm neg m2 (e - 2) q = r at hle
  generalize hw : (if r.1 = 2 ^ (f.fb + 1) then (2 ^ f.fb, q + 1) else (r.1, q)) = wq
  have hlt : wq.1 < 2 ^ (f.fb + 1) := by
    rw [← hw]
    split
    · exact Nat.pow_lt_pow_right (by decide) (by omega)
    · exact Nat.lt_of_le_of_ne hle ‹_›
  split
  · have htop (b : Bool) : ∃ v ≤ (2 ^ f.eb - 1) * 2 ^ f.fb, (if b then f.inf neg else f.maxFin neg) = f.zero neg + v := by
      cases b
      · exact ⟨(2 ^ f.eb - 1) * 2 ^ f.fb - 1, Nat.sub_le _ _, Nat.add_sub_assoc (by omega) _⟩
      · exact ⟨_, le_rfl, rfl⟩
    exact htop _
  · rename_i hover
    refine ⟨_, ?_, rfl⟩
    split
    · exact (‹_ < 2 ^ f.fb›.trans_le hpow).le
    · rename_i hbig
      simp only [ge_iff_le, gt_iff_lt, Bool.and_eq_true, decide_eq_true_eq, not_and] at hover
      exact (FFmt.magnitude_lt hf hlt (by have := hover (by omega); omega)).le

/-- R29, R37: a rounded number is a datum of its format. -/
theorem roundFl_lt (rm : RM) (neg : Bool) (m : Nat) (e : Int) (sticky : Bool) : (roundFl f rm neg m e sticky).1 < 2 ^ f.width := by
  obtain ⟨v, hv, h⟩ := roundFl_magnitude hf rm neg m e sticky
  rw [h]
  refine FFmt.zero_add_lt neg (hv.trans_lt ?_)
  rw [Nat.pow_add]
  exact Nat.mul_lt_mul_of_pos_right (Nat.sub_lt (by positivity) Nat.one_pos) (by positivity)

end

theorem sumRound_lt (rm : RM) (ts : List FP) (nv : Bool) : (sumRound fmtF32 rm ts nv).1 < 2 ^ 32 := by
  have hinf (neg : Bool) : fmtF32.inf neg < 2 ^ 32 := FFmt.inf_lt fmtF32 neg
  unfold sumRound
  dsimp only
  split
  · exact (by decide : fmtF32.nan < 2 ^ 32)
  split
  · exact hinf false
  split
  · exact hinf true
  split
  · exact FFmt.zero_add_lt (f := fmtF32) (v := 0) _ (by decide)
  · exact roundFl_lt (f := fmtF32) (by decide) _ _ _ _ _

/-! ### The order of data with their infinities (R37) -/

/-- The place in the order of a datum that is no NaN. -/
def FP.key : FP → WithBot (WithTop ℚ)
  | .nan _ => ⊥
  | .inf neg => if neg then ⊥ else ((⊤ : WithTop ℚ) : WithBot (WithTop ℚ))
  | .fin neg m e => ((termVal (neg, m, e) : WithTop ℚ) : WithBot (WithTop ℚ))

/-- R37: data that are no NaN are ordered as their places are. −0 and +0 have one place. -/
theorem fpLt_eq_key {x y : FP} (hx : x.isNan = false) (hy : y.isNan = false) : fpLt x y = decide (x.key < y.key) := by
  cases x with
  | nan q => cases hx
  | inf a =>
    cases y with
    | nan q => cases hy
    | inf b => cases a <;> cases b <;> simp [fpLt, FP.key]
    | fin b n g => cases a <;> simp [fpLt, FP.key]
  | fin a m e =>
    cases y with
    | nan q => cases hy
    | inf b =>
      have htop : ((termVal (a, m, e) : WithTop ℚ) : WithBot (WithTop ℚ)) < (⊤ : WithTop ℚ) := WithBot.coe_lt_coe.2 (WithTop.coe_lt_top _)
      cases b
      · exact (decide_eq_true htop).symm
      · simp [fpLt, FP.key]
    | fin b n g => rw [fpLt_fin]; simp [FP.key]

/-- R37: VFMIN and VFMAX of two numbers or infinities give one of them, at or beyond both in the order. -/
theorem fMinMax_of_not_nan {t : FFmt} (max : Bool) {a b : Nat} (ha : (t.dec a).isNan = false) (hb : (t.dec b).isNan = false) :
    ((fMinMax t max a b).1 = a ∨ (fMinMax t max a b).1 = b) ∧
      (max = false → (t.dec (fMinMax t max a b).1).key ≤ (t.dec a).key ∧ (t.dec (fMinMax t max a b).1).key ≤ (t.dec b).key) ∧
      (max = true → (t.dec a).key ≤ (t.dec (fMinMax t max a b).1).key ∧ (t.dec b).key ≤ (t.dec (fMinMax t max a b).1).key) := by
  have hlt := fpLt_eq_key ha hb
  have hgt := fpLt_eq_key hb ha
  unfold fMinMax
  simp only [ha, hb, Bool.false_and, Bool.false_eq_true, if_false]
  generalize hfirst : (fpLt (t.dec a) (t.dec b) || (fpEq (t.dec a) (t.dec b) && (t.dec a).neg && !(t.dec b).neg)) = first
  have hle : first = true → (t.dec a).key ≤ (t.dec b).key := by
    rintro rfl
    rcases Bool.or_eq_true_iff.1 hfirst with h | h
    · exact (of_decide_eq_true (hlt ▸ h)).le
    · simp only [fpEq, hgt, Bool.and_eq_true, Bool.not_eq_true', decide_eq_false_iff_not, not_lt] at h
      exact h.1.1.2
  have hge : first = false → (t.dec b).key ≤ (t.dec a).key := by
    rintro rfl
    exact not_lt.1 (of_decide_eq_false (hlt ▸ (Bool.or_eq_false_iff.1 hfirst).1))
  by_cases heq : t.dec a = t.dec b
  · cases first <;> cases max <;> simp [heq]
  · cases first <;> cases max <;> simp [heq, hle, hge]

/-! ### What a fold of VFMIN or VFMAX leaves (R373) -/

/-- R373: `r` is the least or the greatest of the numbers and infinities among the data `l`; a NaN where there is none. -/
structure IsExtreme (t : FFmt) (max : Bool) (l : List Nat) (r : Nat) : Prop where
  nan : (∀ y ∈ l, (t.dec y).isNan = true) → (t.dec r).isNan = true
  mem : ∀ y ∈ l, (t.dec y).isNan = false → r ∈ l ∧ (t.dec r).isNan = false ∧
    (max = false → (t.dec r).key ≤ (t.dec y).key) ∧ (max = true → (t.dec y).key ≤ (t.dec r).key)

theorem isExtreme_singleton (t : FFmt) (max : Bool) (x : Nat) : IsExtreme t max [x] x where
  nan h := h x List.mem_cons_self
  mem y hy hn := by
    rw [List.mem_singleton] at hy
    subst hy
    exact ⟨List.mem_cons_self, hn, fun _ => le_rfl, fun _ => le_rfl⟩

/-- R37: a NaN operand gives the other. -/
theorem fMinMax_of_nan_left {t : FFmt} (max : Bool) {a b : Nat} (ha : (t.dec a).isNan = true) (hb : (t.dec b).isNan = false) :
    (fMinMax t max a b).1 = b := by
  simp [fMinMax, ha, hb]

theorem fMinMax_of_nan_right {t : FFmt} (max : Bool) {a b : Nat} (ha : (t.dec a).isNan = false) (hb : (t.dec b).isNan = true) :
    (fMinMax t max a b).1 = a := by
  simp [fMinMax, ha, hb]

theorem fMinMax_of_nan {t : FFmt} (max : Bool) {a b : Nat} (ha : (t.dec a).isNan = true) (hb : (t.dec b).isNan = true) :
    (fMinMax t max a b).1 = t.nan := by
  simp [fMinMax, ha, hb]

/-- R373: one datum more. -/
theorem IsExtreme.append {t : FFmt} (htnan : (t.dec t.nan).isNan = true) {max : Bool} {l : List Nat} {r : Nat} (h : IsExtreme t max l r) (b : Nat) :
    IsExtreme t max (l ++ [b]) (fMinMax t max r b).1 := by
  have hnum : (t.dec r).isNan = false → ∃ y ∈ l, (t.dec y).isNan = false := fun hr => by
    by_contra hc
    push Not at hc
    simp [h.nan fun y hy => by simpa using hc y hy] at hr
  cases hr : (t.dec r).isNan <;> cases hb : (t.dec b).isNan
  · obtain ⟨hor, hmin, hmax⟩ := fMinMax_of_not_nan max hr hb
    obtain ⟨x, hx, hxn⟩ := hnum hr
    have hrl := (h.mem x hx hxn).1
    have hres : (t.dec (fMinMax t max r b).1).isNan = false := by rcases hor with e | e <;> rw [e] <;> assumption
    refine ⟨fun hall => ?_, fun y hy hyn => ⟨?_, hres, fun hm => ?_, fun hm => ?_⟩⟩
    · simp [hall b (by simp)] at hb
    · rcases hor with e | e <;> rw [e] <;> simp [hrl]
    · rcases List.mem_append.1 hy with hy | hy
      · exact (hmin hm).1.trans ((h.mem y hy hyn).2.2.1 hm)
      · rw [List.mem_singleton] at hy
        exact hy ▸ (hmin hm).2
    · rcases List.mem_append.1 hy with hy | hy
      · exact ((h.mem y hy hyn).2.2.2 hm).trans (hmax hm).1
      · rw [List.mem_singleton] at hy
        exact hy ▸ (hmax hm).2
  · rw [fMinMax_of_nan_right max hr hb]
    obtain ⟨x, hx, hxn⟩ := hnum hr
    refine ⟨fun hall => h.nan fun y hy => hall y (by simp [hy]), fun y hy hyn => ?_⟩
    rcases List.mem_append.1 hy with hy | hy
    · obtain ⟨h1, h2, h3⟩ := h.mem y hy hyn
      exact ⟨by simp [h1], h2, h3⟩
    · rw [List.mem_singleton] at hy
      simp [hy, hb] at hyn
  · rw [fMinMax_of_nan_left max hr hb]
    refine ⟨fun hall => hall b (by simp), fun y hy hyn => ?_⟩
    rcases List.mem_append.1 hy with hy | hy
    · simp [(h.mem y hy hyn).2.1] at hr
    · rw [List.mem_singleton] at hy
      subst hy
      exact ⟨by simp, hb, fun _ => le_rfl, fun _ => le_rfl⟩
  · rw [fMinMax_of_nan max hr hb]
    refine ⟨fun _ => htnan, fun y hy hyn => ?_⟩
    rcases List.mem_append.1 hy with hy | hy
    · simp [(h.mem y hy hyn).2.1] at hr
    · rw [List.mem_singleton] at hy
      simp [hy, hb] at hyn

theorem IsExtreme.foldl {t : FFmt} (htnan : (t.dec t.nan).isNan = true) {max : Bool} (xs : List Nat) :
    ∀ {l : List Nat} {r : Nat}, IsExtreme t max l r → IsExtreme t max (l ++ xs) (xs.foldl (fun a b => (fMinMax t max a b).1) r) := by
  induction xs with
  | nil => intro l r h; rwa [List.append_nil]
  | cons x xs ih =>
    intro l r h
    have := ih (h.append htnan x)
    rwa [List.append_assoc] at this

end Sys2Proof
end

section
/-! SUPPORT. VRED, XMOV, XBC and XRED (R373, R376): reductions of words, and the lanes that the operations leave. -/

set_option Elab.async false

namespace Sys2Proof.Machine

open Claims

/-! ### Reductions of words (R373) -/

theorem foldl_toNat {w : Nat} {f : Nat → Nat → Nat} {g : BitVec w → BitVec w → BitVec w} (hfg : ∀ a b : BitVec w, f a.toNat b.toNat = (g a b).toNat)
    (xs : List (BitVec w)) (x : BitVec w) : (xs.map BitVec.toNat).foldl f x.toNat = (xs.foldl g x).toNat := by
  induction xs generalizing x with
  | nil => rfl
  | cons y xs ih => rw [List.map_cons, List.foldl_cons, hfg, ih, List.foldl_cons]

/-- What a fold of choices leaves is one of the values, and lies at or below all of them. -/
theorem foldl_choice {α β : Type} [LinearOrder β] (k : α → β) {g : α → α → α}
    (hg : ∀ a b, (g a b = a ∨ g a b = b) ∧ k (g a b) ≤ k a ∧ k (g a b) ≤ k b) (xs : List α) (x : α) :
    xs.foldl g x ∈ x :: xs ∧ ∀ y ∈ x :: xs, k (xs.foldl g x) ≤ k y := by
  induction xs generalizing x with
  | nil => simp
  | cons z xs ih =>
    obtain ⟨hor, hx, hz⟩ := hg x z
    obtain ⟨hmem, hle⟩ := ih (g x z)
    rw [List.foldl_cons]
    refine ⟨?_, fun y hy => ?_⟩
    · rcases List.mem_cons.1 hmem with e | hm
      · rw [e]
        rcases hor with e | e <;> rw [e] <;> simp
      · simp [hm]
    · have hfirst := hle (g x z) List.mem_cons_self
      rcases List.mem_cons.1 hy with rfl | hy
      · exact hfirst.trans hx
      · rcases List.mem_cons.1 hy with rfl | hy
        · exact hfirst.trans hz
        · exact hle y (List.mem_cons_of_mem _ hy)

/-- R373: the least of words is one of them, and none lies below it. -/
theorem foldl_least (sg : Bool) {w : Nat} (xs : List (BitVec w)) (x : BitVec w) :
    xs.foldl (least sg w) x ∈ x :: xs ∧ ∀ y ∈ x :: xs, less sg y (xs.foldl (least sg w) x) = false := by
  have h := foldl_choice (k := fun a => intVal sg w a.toNat) (g := least sg w) (fun a b => ?_) xs x
  · exact ⟨h.1, fun y hy => (intVal_le_iff sg _ _).1 (h.2 y hy)⟩
  · unfold least
    cases hlt : less sg b a with
    | false => exact ⟨.inl rfl, le_rfl, (intVal_le_iff sg _ _).2 hlt⟩
    | true => exact ⟨.inr rfl, ((intVal_lt_iff sg _ _).2 hlt).le, le_rfl⟩

/-- R373: the greatest of words is one of them, and it lies below none. -/
theorem foldl_most (sg : Bool) {w : Nat} (xs : List (BitVec w)) (x : BitVec w) :
    xs.foldl (most sg w) x ∈ x :: xs ∧ ∀ y ∈ x :: xs, less sg (xs.foldl (most sg w) x) y = false := by
  have h := foldl_choice (k := fun a => -intVal sg w a.toNat) (g := most sg w) (fun a b => ?_) xs x
  · exact ⟨h.1, fun y hy => (intVal_le_iff sg _ _).1 (neg_le_neg_iff.1 (h.2 y hy))⟩
  · unfold most
    cases hlt : less sg a b with
    | false => exact ⟨.inl rfl, le_rfl, neg_le_neg ((intVal_le_iff sg _ _).2 hlt)⟩
    | true => exact ⟨.inr rfl, neg_le_neg ((intVal_lt_iff sg _ _).2 hlt).le, le_rfl⟩

theorem foldl_add_toNat {w : Nat} (xs : List (BitVec w)) (n : Nat) :
    BitVec.ofNat w ((xs.map BitVec.toNat).foldl (· + ·) n) = xs.foldl (· + ·) (BitVec.ofNat w n) := by
  induction xs generalizing n with
  | nil => rfl
  | cons x xs ih =>
    rw [List.map_cons, List.foldl_cons, ih, List.foldl_cons, BitVec.ofNat_add, BitVec.ofNat_toNat, BitVec.setWidth_eq]

/-- R373: the sum of words. -/
theorem reduce_sum {t : Ty} (ht : t ≠ .f32) (xs : List (BitVec 32)) :
    BitVec.ofNat 32 (reduce t 0 (xs.map BitVec.toNat)).1 = xs.foldl (· + ·) 0 := by
  cases xs with
  | nil => rfl
  | cons x xs =>
    have hmod (n : Nat) : BitVec.ofNat 32 (n % 2 ^ 32) = BitVec.ofNat 32 n := BitVec.eq_of_toNat_eq (by simp)
    simp only [reduce, List.map_cons, beq_iff_eq, ht, if_false, if_true, hmod]
    rw [← List.map_cons]
    exact foldl_add_toNat (x :: xs) 0

/-- R373: the extremes of words. -/
theorem reduce_extreme {t : Ty} (ht : t ≠ .f32) {op : Nat} (hop : op ≠ 0) (x : BitVec 32) (xs : List (BitVec 32)) :
    (reduce t op ((x :: xs).map BitVec.toNat)).1 = (if op = 2 then xs.foldl (most t.signed 32) x else xs.foldl (least t.signed 32) x).toNat := by
  simp only [reduce, List.map_cons, beq_iff_eq, ht, if_false, hop]
  split
  · exact foldl_toNat (maxW_toNat _) xs x
  · exact foldl_toNat (minW_toNat _) xs x

theorem reduce_flags_of_int {t : Ty} (ht : t ≠ .f32) (op : Nat) (l : List Nat) : (reduce t op l).2 = 0 := by
  unfold reduce
  cases l with
  | nil => rfl
  | cons x l =>
    simp only [beq_iff_eq, ht, if_false]
    split <;> rfl

/-! ### Reductions of FP32 data (R373) -/

theorem reduce_f32_sum {l : List Nat} (hl : l ≠ []) :
    reduce .f32 0 l = sumRound fmtF32 .rne (.fin false 0 0 :: l.map fmtF32.dec) false := by
  cases l with
  | nil => exact absurd rfl hl
  | cons x l => rfl

/-- R373: the extreme of FP32 data: the canonical NaN where there is no number. -/
theorem reduce_f32_extreme {op : Nat} (hop : op ≠ 0) {l : List Nat} (hl : l ≠ []) :
    ∃ r, IsExtreme fmtF32 (op == 2) l r ∧ reduce .f32 op l =
      (if (fmtF32.dec r).isNan then fmtF32.nan else r, if l.any fun y => (fmtF32.dec y).isSnan then flNV else 0) := by
  cases l with
  | nil => exact absurd rfl hl
  | cons x l =>
    refine ⟨l.foldl (fun a b => (fMinMax fmtF32 (op == 2) a b).1) x, IsExtreme.foldl (by decide) l (isExtreme_singleton ..), ?_⟩
    simp only [reduce, beq_self_eq_true, if_true, hop, if_false]

/-! ### VRED on a die -/

/-- R373: the enabled lanes of VRED's source. -/
def vredLanes (s : State) (f : FRRR) (d : Nat) : List (BitVec 32) := (lanesOn s d f.pr).map fun n => elem 32 (src s d 91 .v f.srcA) n

/-- R373: what VRED's lanes reduce to, with the flags. -/
def vredResult (s : State) (f : FRRR) (d : Nat) : Nat × Nat := reduce f.ty f.sub.toNat ((vredLanes s f d).map BitVec.toNat)

theorem vredDie_leaves {s : State} {h : Hdr} {f : FRRR} {d : Nat} (hready : Ready s h) (hd : d ∈ s.enabled h) (hsrc : SrcsOk s d f 1) :
    Leaves (·.vredDie h f d) s h d 4 .v f.dst.n (vecOfLanes fun _ => (vredResult s f d).1) (laneMask (acts s d f.pr)) (vredResult s f d).2
      h.group.toNat (latchedOne s d 91 .v f.srcA) := by
  intro o hsees
  obtain ⟨hpr, ha, -, -⟩ := hsrc
  obtain ⟨o1, e1, h1, k1⟩ := hsees.rdOne hready hd (ha le_rfl)
  refine ⟨o1, ?_, h1, k1⟩
  have hlanes : ((List.range 16).filter (acts s d f.pr)).map (lane (src s d 91 .v f.srcA)) = (vredLanes s f d).map BitVec.toNat := by
    rw [vredLanes, lanesOn, List.map_map]
    exact List.map_congr_left fun n _ => lane_eq_elem _ n
  simp only [State.vredDie, hsees.lanes hpr, e1, hlanes]
  rfl

/-- R76: a legal operation's fields lie within their limits. -/
theorem limOk_of_legal {i : Instr} (hl : i.legal = true) : (chkOf i).limOk = true := by
  cases hh : i.head with
  | none => simp [Instr.legal, hh] at hl
  | some c =>
    have hcause : causeOf c.1 c.2 i = none := by simpa [Instr.legal, hh] using hl
    unfold causeOf at hcause
    dsimp only at hcause
    split_ifs at hcause with _ _ _ hlim
    simp only [Bool.or_eq_true, not_or, Bool.not_eq_true', Bool.not_eq_false] at hlim
    exact hlim.1

theorem getLsbD_laneMask (on : Nat → Bool) {j : Nat} (hj : j < 512) : (laneMask on).getLsbD j = on (j / 32) := by
  rw [laneMask_eq_elemMask, getLsbD_elemMask (by decide) (by decide) hj, elemOn, Nat.mul_div_cancel_left _ (by decide)]

/-- R373: the sum or the extreme of an integer VRED. -/
theorem vredResult_int {s : State} {f : FRRR} {d : Nat} (ht : f.ty ≠ .f32) :
    let r := BitVec.ofNat 32 (vredResult s f d).1
    let xs := vredLanes s f d
    (f.sub = 0 → r = xs.foldl (· + ·) 0) ∧ (f.sub = 1 → ∀ x ∈ xs, less f.ty.signed x r = false) ∧
      (f.sub = 2 → ∀ x ∈ xs, less f.ty.signed r x = false) ∧ (f.sub ≠ 0 → xs ≠ [] → r ∈ xs) := by
  have hzero : f.sub = 0 ↔ f.sub.toNat = 0 := (BitVec.toNat_inj (y := 0#8)).symm
  have hone : f.sub = 1 ↔ f.sub.toNat = 1 := (BitVec.toNat_inj (y := 1#8)).symm
  have htwo : f.sub = 2 ↔ f.sub.toNat = 2 := (BitVec.toNat_inj (y := 2#8)).symm
  dsimp only
  rw [hzero, hone, htwo, ne_eq, hzero, vredResult]
  generalize f.sub.toNat = op
  cases vredLanes s f d with
  | nil => exact ⟨fun e => by rw [e, reduce_sum ht], by simp, by simp, fun _ hne => absurd rfl hne⟩
  | cons x xs =>
    refine ⟨fun e => by rw [e, reduce_sum ht], fun e y hy => ?_, fun e y hy => ?_, fun e _ => ?_⟩
    · rw [reduce_extreme ht (by omega), if_neg (by omega), ofNat_of_eq_toNat rfl]
      exact (foldl_least _ xs x).2 y hy
    · rw [reduce_extreme ht (by omega), if_pos e, ofNat_of_eq_toNat rfl]
      exact (foldl_most _ xs x).2 y hy
    · rw [reduce_extreme ht e, ofNat_of_eq_toNat rfl]
      split
      · exact (foldl_most _ xs x).1
      · exact (foldl_least _ xs x).1

/-- R373: the extreme of a VRED of FP32 data. -/
theorem vredResult_extreme {s : State} {f : FRRR} {d : Nat} (ht : f.ty = .f32) (hne : f.sub ≠ 0)
    (hxs : vredLanes s f d ≠ []) :
    let xs := vredLanes s f d
    let ys := xs.filter fun x => !(fmtF32.dec x.toNat).isNan
    let r := BitVec.ofNat 32 (vredResult s f d).1
    (vredResult s f d).2 = (if xs.any fun x => (fmtF32.dec x.toNat).isSnan then flNV else 0) ∧
      (ys = [] → r.toNat = fmtF32.nan) ∧ (ys ≠ [] → r ∈ ys) ∧
      (f.sub = 1 → ∀ y ∈ ys, (fCmp fmtF32 2 y.toNat r.toNat).1 = false) ∧
      (f.sub = 2 → ∀ y ∈ ys, (fCmp fmtF32 2 r.toNat y.toNat).1 = false) := by
  have hzero : f.sub = 0 ↔ f.sub.toNat = 0 := (BitVec.toNat_inj (y := 0#8)).symm
  have hone : f.sub = 1 ↔ f.sub.toNat = 1 := (BitVec.toNat_inj (y := 1#8)).symm
  have htwo : f.sub = 2 ↔ f.sub.toNat = 2 := (BitVec.toNat_inj (y := 2#8)).symm
  rw [ne_eq, hzero] at hne
  dsimp only
  rw [hone, htwo, vredResult, ht]
  generalize f.sub.toNat = op at hne
  generalize vredLanes s f d = xs at hxs
  obtain ⟨r, hr, he⟩ := reduce_f32_extreme hne (l := xs.map BitVec.toNat) (by simpa using hxs)
  rw [he]
  refine ⟨by simp [List.any_map, Function.comp_def], fun hys => ?_, ?_⟩
  · have hall : ∀ y ∈ xs.map BitVec.toNat, (fmtF32.dec y).isNan = true := by simpa [List.filter_eq_nil_iff] using hys
    rw [hr.nan hall]
    rfl
  · have hnum : ∀ y ∈ xs.filter (fun x => !(fmtF32.dec x.toNat).isNan), y.toNat ∈ xs.map BitVec.toNat ∧ (fmtF32.dec y.toNat).isNan = false := by
      intro y hy
      obtain ⟨hy, hn⟩ := List.mem_filter.1 hy
      exact ⟨List.mem_map_of_mem hy, by simpa using hn⟩
    have hsome (hys : ∃ y, y ∈ xs.filter (fun x => !(fmtF32.dec x.toNat).isNan)) :
        ∃ z ∈ xs, z.toNat = r ∧ (fmtF32.dec r).isNan = false := by
      obtain ⟨y, hy⟩ := hys
      obtain ⟨hm, hn, -⟩ := hr.mem y.toNat (hnum y hy).1 (hnum y hy).2
      obtain ⟨z, hz, e⟩ := List.mem_map.1 hm
      exact ⟨z, hz, e, hn⟩
    refine ⟨fun hys => ?_, fun e y hy => ?_, fun e y hy => ?_⟩
    · obtain ⟨z, hz, rfl, hn⟩ := hsome (List.exists_mem_of_ne_nil _ hys)
      simp only [hn, Bool.false_eq_true, if_false, ofNat_of_eq_toNat rfl]
      exact List.mem_filter.2 ⟨hz, by simp [hn]⟩
    · obtain ⟨z, hz, rfl, hn⟩ := hsome ⟨y, hy⟩
      obtain ⟨-, -, hmin, -⟩ := hr.mem y.toNat (hnum y hy).1 (hnum y hy).2
      simp only [hn, Bool.false_eq_true, if_false, ofNat_of_eq_toNat rfl, fCmp]
      rw [fpLt_eq_key (hnum y hy).2 hn, decide_eq_false_iff_not, not_lt]
      exact hmin (by simp [e])
    · obtain ⟨z, hz, rfl, hn⟩ := hsome ⟨y, hy⟩
      obtain ⟨-, -, -, hmax⟩ := hr.mem y.toNat (hnum y hy).1 (hnum y hy).2
      simp only [hn, Bool.false_eq_true, if_false, ofNat_of_eq_toNat rfl, fCmp]
      rw [fpLt_eq_key hn (hnum y hy).2, decide_eq_false_iff_not, not_lt]
      exact hmax (by simp [e])

/-- R373: the reduction over lanes. -/
theorem vectorReduce : VectorReduce := by
  intro s h f _ hready hok
  refine ⟨fun d => vecOfLanes fun _ => (vredResult s f d).1, fun d => laneMask (acts s d f.pr), fun d => (vredResult s f d).2,
    delivers_of_leaves (fun d => latchedOne s d 91 .v f.srcA) hready rfl fun d hd => ⟨(hok d hd).2, vredDie_leaves hready hd (hok d hd).1⟩,
    fun d _ => ⟨fun j hj => getLsbD_laneMask _ hj, fun ht => ⟨?ints, fun n hn => ?_⟩, fun ht hz hne n hn => ?sums, fun ht hnz hne => ?extremes⟩⟩
  case ints => exact reduce_flags_of_int ht _ _
  · rw [elem_vecOfLanes _ hn]
    exact vredResult_int ht
  case sums =>
    have hlist : (vredLanes s f d).map BitVec.toNat ≠ [] := by simpa [vredLanes] using hne
    have hres : vredResult s f d = sumRound fmtF32 .rne (.fin false 0 0 :: (vredLanes s f d).map fun x => fmtF32.dec x.toNat) false := by
      rw [vredResult, ht, hz]
      exact (reduce_f32_sum hlist).trans (by rw [List.map_map]; rfl)
    have hlt : (vredResult s f d).1 < 2 ^ 32 := hres ▸ sumRound_lt ..
    rw [elem_vecOfLanes _ hn, BitVec.toNat_ofNat, Nat.mod_eq_of_lt hlt]
    exact hres
  case extremes =>
    have hx := vredResult_extreme ht hnz hne
    refine ⟨hx.1, fun n hn => ?_⟩
    rw [elem_vecOfLanes _ hn]
    exact hx.2

/-! ### XMOV, XBC and XRED (R376) -/

/-- Lanes without flags, under the predicate of the lanes. -/
theorem elements_lanes (s : State) (h : Hdr) (pr : Pr) {val : Nat → Nat → BitVec 32} {v : Nat → Vec}
    (hv : ∀ d, ∀ i < 16, elem 32 (v d) i = val d i) :
    Elements s h pr 32 val (fun _ _ => 0) v (fun d => laneMask (acts s d pr)) fun _ => 0 :=
  fun d _ => ⟨fun i hi => hv d i (by omega), fun j hj => by
    rw [getLsbD_laneMask _ hj, elemActs, Nat.mul_div_cancel_left _ (by decide)], fun _ _ => by simp⟩

/-- R376: the registers 80j + a of settled groups, read. -/
theorem Sees.rdGroups {o s : State} {d : Nat} {sl : SMap SlotDie} (h : Sees o s d sl) (a : Nat) (js : List Nat)
    (hs : ∀ j ∈ js, Settled s d .v (80 * j + a)) : o.rdGroups d a js = (js.map fun j => reg s d .v (80 * j + a), o) := by
  induction js with
  | nil => rfl
  | cons j js ih =>
    rw [State.rdGroups, h.rdReg (hs j List.mem_cons_self)]
    dsimp only
    rw [ih fun k hk => hs k (List.mem_cons_of_mem _ hk)]
    rfl

/-- R58: an update of what the cursor's slot keeps on a die. -/
theorem Sees.updSlotD {o s : State} {d : Nat} {sl : SMap SlotDie} (h : Sees o s d sl) (hd : d < 8) (hc : s.cc0 < 128) (F : SlotDie → SlotDie) :
    Sees (o.updSlotD d F) s d (SMap.upd {} sl s.cur.slot F) ∧ ∀ k, k ≠ s.ck0 d → (o.updSlotD d F).getCd k = o.getCd k := by
  unfold State.updSlotD State.updD
  refine ⟨⟨?_, ?_⟩, fun k hk => ?_⟩
  · rw [h.ck0]
    exact h.same.updCd _ (ccCk_lt hd hc) _
  · rw [h.ck0, State.getCd_updCd_same, h.cd, h.cur]
  · rw [h.ck0, State.getCd_updCd_other _ _ _ _ hk]

/-- R376: what XRED's lane `n` reduces to on a die, with its flags. -/
def xredLane (s : State) (f : FRRR) (d n : Nat) : Nat × Nat :=
  reduce f.ty f.sub.toNat ((List.range 8).map fun j => (elem 32 (reg s d .v (80 * j + f.srcA.n % 80)) n).toNat)

/-- R376: the copies across groups, and the reduction over them. -/
theorem crossGroup : CrossGroup := by
  refine ⟨fun s h f hready hok => ?xmov, fun s h f hl hready hok => ?xbc, fun s h f _ hready hok => ?xred⟩
  case xmov =>
    refine ⟨_, _, _, delivers_of_leaves (v := fun d => src s d 91 .v f.srcA) (mask := fun d => laneMask (acts s d f.pr)) (fl := fun _ => 0)
      (fun d => latchedOne s d 91 .v f.srcA) hready rfl fun d hd => ?_, elements_lanes s h f.pr fun _ _ _ => rfl⟩
    obtain ⟨⟨hpr, ha, -, -⟩, hw⟩ := hok d hd
    refine ⟨hw, fun o hsees => ?_⟩
    obtain ⟨o1, e1, h1, k1⟩ := hsees.rdOne hready hd (ha le_rfl)
    exact ⟨o1, by simp only [hsees.lanes hpr, e1], h1, k1⟩
  case xbc =>
    have hsub : f.sub.toNat ≤ 15 := of_decide_eq_true (limOk_of_legal hl)
    refine ⟨_, _, _, delivers_of_leaves (v := fun d => vecOfLanes fun _ => lane (src s d 91 .v f.srcA) (f.sub.toNat % 16))
      (mask := fun d => laneMask (acts s d f.pr)) (fl := fun _ => 0)
      (fun d => latchedOne s d 91 .v f.srcA) hready rfl fun d hd => ?_, elements_lanes s h f.pr fun d i hi => ?_⟩
    · obtain ⟨⟨hpr, ha, -, -⟩, hw⟩ := hok d hd
      refine ⟨hw, fun o hsees => ?_⟩
      obtain ⟨o1, e1, h1, k1⟩ := hsees.rdOne hready hd (ha le_rfl)
      exact ⟨o1, by simp only [hsees.lanes hpr, e1], h1, k1⟩
    · rw [elem_vecOfLanes _ hi, lane_eq_elem, Nat.mod_eq_of_lt (by omega)]
      exact ofNat_of_eq_toNat rfl
  case xred =>
    refine ⟨fun d => ofElems 32 (((List.range 16).map (xredLane s f d)).map Prod.fst), fun d => laneMask (acts s d f.pr),
      fun d => orFlags 32 (acts s d f.pr) (((List.range 16).map (xredLane s f d)).map Prod.snd),
      delivers_of_leaves (fun d => SMap.upd {} (s.ctxD d).ws.slots s.cur.slot fun x => { x with hold := SMap.set none x.hold 91 none })
        hready rfl fun d hd => ?_, fun d _ => ⟨fun i hi => ?_, fun j hj => ?_, fun k hk => ?_⟩⟩
    · obtain ⟨hpr, hs, hw⟩ := hok d hd
      refine ⟨hw, fun o hsees => ?_⟩
      obtain ⟨h1, k1⟩ := hsees.updSlotD (State.enabled_lt hd) (cc0_lt hready.col hready.ctx)
        fun x => { x with hold := SMap.set none x.hold 91 none }
      refine ⟨_, ?_, h1, k1⟩
      have hgroups := hsees.rdGroups (f.srcA.n % 80) [0, 1, 2, 3, 4, 5, 6, 7] (fun j hj => hs j (by simp at hj; omega))
      simp only [State.xredDie, hsees.lanes hpr, hgroups, List.map_map, Function.comp_def, lane_eq_elem]
      rfl
    · rw [elem_ofElems (by decide) hi, List.map_map, getD_map_range (by omega)]
      rfl
    · rw [getLsbD_laneMask _ hj, elemActs, Nat.mul_div_cancel_left _ (by decide)]
    · rw [BitVec.getLsbD_ofNat, decide_eq_true hk, Bool.true_and]
      dsimp only
      rw [List.map_map, testBit_orFlags]
      exact exists_congr fun i => and_congr_left' (by omega)

/-- Settles O13: an operation that reads its sources and leaves one result, whose value is a fold over the enabled lanes or the groups. -/
theorem reduceAndCrossGroup : Obligations.ReduceAndCrossGroup := by
  unfold Obligations.ReduceAndCrossGroup
  exact ⟨vectorReduce, crossGroup⟩

end Sys2Proof.Machine
end

section
/-! SUPPORT. Vector floating-point operations (R359, R361, R367) by the rule of vector operations, and what rounding makes of data and of NaNs (R29, R37). -/

set_option Elab.async false

namespace Sys2Proof

open Machine Claims

/-! ### The fields of a datum (R29) -/

section

variable {f : FFmt}

/-- A bit pattern from its sign, its exponent and its fraction. -/
theorem FFmt.eq_of_fields {x : Nat} (hx : x < 2 ^ f.width) :
    x = f.zero (bits x (f.eb + f.fb) 1 == 1) + (bits x f.fb f.eb * 2 ^ f.fb + bits x 0 f.fb) := by
  have hlt : x / 2 ^ (f.eb + f.fb) < 2 := by
    rw [Nat.div_lt_iff_lt_mul (by positivity), Nat.mul_comm, ← Nat.pow_succ]
    rwa [FFmt.width, show 1 + f.eb + f.fb = f.eb + f.fb + 1 by omega] at hx
  have hsign : f.zero (bits x (f.eb + f.fb) 1 == 1) = 2 ^ (f.eb + f.fb) * (x / 2 ^ (f.eb + f.fb)) := by
    rw [FFmt.zero, bits]
    rcases Nat.lt_succ_iff_lt_or_eq.1 hlt with h | h
    · rw [Nat.lt_one_iff.1 h]; rfl
    · rw [h, Nat.mul_one]; rfl
  have hexp : x / 2 ^ (f.eb + f.fb) = x / 2 ^ f.fb / 2 ^ f.eb := by rw [Nat.div_div_eq_div_mul, ← Nat.pow_add, Nat.add_comm]
  have h1 := Nat.div_add_mod x (2 ^ f.fb)
  have h2 := Nat.div_add_mod (x / 2 ^ f.fb) (2 ^ f.eb)
  rw [hsign, hexp, bits, bits, pow_zero, Nat.div_one]
  calc x = 2 ^ f.fb * (2 ^ f.eb * (x / 2 ^ f.fb / 2 ^ f.eb) + x / 2 ^ f.fb % 2 ^ f.eb) + x % 2 ^ f.fb := by rw [h2, h1]
    _ = _ := by rw [Nat.pow_add]; ring

/-- The fields of a sign and magnitude bits. -/
theorem FFmt.bits_zero_add {v : Nat} (neg : Bool) (hv : v < 2 ^ (f.eb + f.fb)) :
    bits (f.zero neg + v) f.fb f.eb = v / 2 ^ f.fb ∧ bits (f.zero neg + v) 0 f.fb = v % 2 ^ f.fb := by
  have hzero : f.zero neg = 2 ^ f.fb * (2 ^ f.eb * bit01 neg) := by
    cases neg <;> simp [FFmt.zero, bit01, Nat.pow_add, Nat.mul_comm]
  have hdiv : v / 2 ^ f.fb < 2 ^ f.eb := by
    rwa [Nat.div_lt_iff_lt_mul (by positivity), ← Nat.pow_add]
  rw [bits, bits, pow_zero, Nat.div_one, hzero, Nat.mul_add_div (by positivity), Nat.mul_add_mod, Nat.mul_add_mod,
    Nat.mod_eq_of_lt hdiv]
  exact ⟨rfl, rfl⟩

/-- R29: magnitude bits no greater than those of an infinity make no NaN. -/
theorem FFmt.dec_not_nan {v : Nat} (neg : Bool) (hv : v ≤ (2 ^ f.eb - 1) * 2 ^ f.fb) : (f.dec (f.zero neg + v)).isNan = false := by
  have hlt : v < 2 ^ (f.eb + f.fb) := by
    rw [Nat.pow_add]
    exact hv.trans_lt (Nat.mul_lt_mul_of_pos_right (Nat.sub_lt (by positivity) Nat.one_pos) (by positivity))
  obtain ⟨hexp, hfrac⟩ := FFmt.bits_zero_add neg hlt
  unfold FFmt.dec
  rw [hexp, hfrac]
  dsimp only
  split
  · rename_i htop
    have hfr : v % 2 ^ f.fb = 0 := by
      have := Nat.div_add_mod' v (2 ^ f.fb)
      rw [htop] at this
      omega
    rw [if_pos hfr]
    rfl
  · split <;> rfl

theorem roundFl_not_nan (hf : 0 < f.eb) (rm : RM) (neg : Bool) (m : Nat) (e : Int) (sticky : Bool) :
    (f.dec (roundFl f rm neg m e sticky).1).isNan = false := by
  obtain ⟨v, hv, h⟩ := roundFl_magnitude hf rm neg m e sticky
  rw [h]
  exact FFmt.dec_not_nan neg hv

/-! ### Rounding a datum that the format holds (R37) -/

theorem bitLen_four_mul {m : Nat} (hm : m ≠ 0) : bitLen (4 * m) = bitLen m + 2 := by
  rw [bitLen, bitLen, if_neg hm, if_neg (by omega), show 4 * m = 2 * (2 * m) by omega, Nat.log2_two_mul (by omega), Nat.log2_two_mul hm]

/-- R37: two bits of zeros below a whole number of units are cut without loss. -/
theorem roundAt_four_mul (rm : RM) (neg : Bool) (m : Nat) (q : Int) : roundAt rm neg (4 * m) (q - 2) q = (m, false) := by
  have hk : (q - (q - 2)).toNat = 2 := by omega
  unfold roundAt
  dsimp only
  rw [if_neg (by omega), hk, show 4 * m / 2 ^ 2 = m by omega, show 4 * m % 2 ^ 2 = 0 by omega]
  cases rm <;> simp

/-- R37: a nonzero number of at most `fb` + 1 bits in units that the format has for it is rounded to its exponent and fraction, without a flag. -/
theorem roundFl_exact {rm : RM} {neg : Bool} {m : Nat} {e q : Int} (hm : m ≠ 0) (hq : q = e)
    (hunit : q = if e + bitLen m - (f.fb + 1) < 1 - (f.bias : Int) - f.fb then 1 - (f.bias : Int) - f.fb else e + bitLen m - (f.fb + 1))
    (hfit : m < 2 ^ (f.fb + 1)) (hrange : 2 ^ f.fb ≤ m → q ≤ (f.bias : Int) - f.fb) :
    roundFl f rm neg m e false =
      (f.zero neg + if m < 2 ^ f.fb then m else (q + f.fb + f.bias).toNat * 2 ^ f.fb + (m - 2 ^ f.fb), 0) := by
  have hq0 : e - 2 + (bitLen (4 * m) : Int) - ((f.fb : Int) + 1) = e + bitLen m - (f.fb + 1) := by rw [bitLen_four_mul hm]; push_cast; ring
  have hover : (decide (m ≥ 2 ^ f.fb) && decide (q > (f.bias : Int) - f.fb)) = false := by
    by_cases h : 2 ^ f.fb ≤ m
    · have := hrange h
      simp; omega
    · simp [h]
  have hround : roundAt rm neg (4 * m) (e - 2) q = (m, false) := hq ▸ roundAt_four_mul rm neg m q
  unfold roundFl
  simp only [hm, decide_false, Bool.false_and, Bool.false_eq_true, if_false, Nat.add_zero, hq0, ← hunit, hround, if_neg hfit.ne, hover]

/-- R37: every datum that is a number is rounded to itself. -/
theorem roundFl_dec (hf : 0 < f.eb) {rm : RM} {x m : Nat} {neg : Bool} {e : Int} (hx : x < 2 ^ f.width) (hd : f.dec x = .fin neg m e) :
    roundFl f rm neg m e false = (x, 0) := by
  have hbias := FFmt.two_mul_bias hf
  have hfields := FFmt.eq_of_fields hx
  have hfrac : bits x 0 f.fb < 2 ^ f.fb := Nat.mod_lt _ (by positivity)
  have hexp : bits x f.fb f.eb < 2 ^ f.eb := Nat.mod_lt _ (by positivity)
  unfold FFmt.dec at hd
  dsimp only at hd
  generalize hE : bits x f.fb f.eb = E at *
  generalize hF : bits x 0 f.fb = F at *
  split at hd
  · split at hd <;> cases hd
  rename_i htop
  split at hd
  · rename_i hE0
    cases hd
    rw [hE0, Nat.zero_mul, Nat.zero_add] at hfields
    by_cases hm0 : m = 0
    · rw [hm0] at hfields ⊢
      conv_rhs => rw [hfields]
      rfl
    · have hlen : bitLen m ≤ f.fb := bitLen_le.2 hfrac
      rw [roundFl_exact hm0 rfl (by rw [if_pos]; omega) (by rw [Nat.pow_succ]; omega) (by omega), if_pos hfrac, ← hfields]
  · cases hd
    have hlen : bitLen (2 ^ f.fb + F) = f.fb + 1 := by
      refine le_antisymm (bitLen_le.2 (by rw [Nat.pow_succ]; omega)) ?_
      by_contra hlt
      have := bitLen_le.1 (show bitLen (2 ^ f.fb + F) ≤ f.fb by omega)
      omega
    have hpos : 0 < 2 ^ f.fb := by positivity
    rw [roundFl_exact (by omega) rfl (by rw [hlen, if_neg (by omega)]; push_cast; ring) (by rw [Nat.pow_succ]; omega) (by omega),
      if_neg (by omega), show ((E : Int) - f.bias - f.fb + f.fb + f.bias).toNat = E by omega, Nat.add_sub_cancel_left, ← hfields]

/-! ### NaNs (R29, R37) -/

theorem FFmt.dec_inf_not_nan (neg : Bool) : (f.dec (f.inf neg)).isNan = false := FFmt.dec_not_nan neg le_rfl

theorem FFmt.dec_zero_not_nan (neg : Bool) : (f.dec (f.zero neg)).isNan = false := FFmt.dec_not_nan (v := 0) neg (Nat.zero_le _)

theorem FP.isNan_of_isSnan {x : FP} (h : x.isSnan = true) : x.isNan = true := by
  cases x with
  | nan => rfl
  | inf => exact h
  | fin => exact h

theorem FP.isNan_flip (x : FP) : x.flip.isNan = x.isNan := by cases x <;> rfl

theorem FP.isSnan_flip (x : FP) : x.flip.isSnan = x.isSnan := by cases x <;> rfl

/-- R37: a sum with a NaN, or that is already invalid, is the canonical NaN. -/
theorem sumRound_of_nan {rm : RM} {ts : List FP} {nv : Bool} (h : nv = true ∨ ∃ t ∈ ts, t.isNan = true) : (sumRound f rm ts nv).1 = f.nan := by
  unfold sumRound
  dsimp only
  rw [if_pos]
  rcases h with h | h
  · simp [h]
  · simp [List.any_eq_true.2 h]

/-- R37: a signalling NaN, or a term that is already invalid, sets NV. -/
theorem sumRound_of_invalid {rm : RM} {ts : List FP} {nv : Bool} (h : nv = true ∨ ∃ t ∈ ts, t.isSnan = true) :
    sumRound f rm ts nv = (f.nan, flNV) := by
  have hnv : (nv || ts.any FP.isSnan) = true := by
    rcases h with h | h
    · simp [h]
    · simp [List.any_eq_true.2 h]
  unfold sumRound
  simp [hnv]

/-- R37: a sum that is a NaN is the canonical one. -/
theorem sumRound_nan (hf : 0 < f.eb) {rm : RM} {ts : List FP} {nv : Bool} (h : (f.dec (sumRound f rm ts nv).1).isNan = true) :
    (sumRound f rm ts nv).1 = f.nan := by
  unfold sumRound at h ⊢
  dsimp only at h ⊢
  split_ifs at h ⊢
  · rfl
  · rfl
  · rw [FFmt.dec_inf_not_nan] at h; contradiction
  · rw [FFmt.dec_inf_not_nan] at h; contradiction
  · rw [FFmt.dec_zero_not_nan] at h; contradiction
  · rw [roundFl_not_nan hf] at h; contradiction

theorem mulExact_isNan {x y : FP} (h : x.isNan = true ∨ y.isNan = true) : (mulExact x y).1.isNan = true := by
  cases x <;> cases y <;> simp_all [mulExact, FP.isNan]

theorem mulExact_isSnan {x y : FP} (h : x.isSnan = true ∨ y.isSnan = true) : (mulExact x y).1.isSnan = true := by
  cases x <;> cases y <;> simp_all [mulExact, FP.isSnan]

/-- R359: the three facts about NaNs for a product of two factors. -/
theorem fMul_of_nan {rm : RM} {a b : Nat} (h : (mulExact (f.dec a) (f.dec b)).1.isNan = true) :
    fMul f rm a b = (f.nan, if (mulExact (f.dec a) (f.dec b)).1.isSnan || (mulExact (f.dec a) (f.dec b)).2 then flNV else 0) := by
  unfold fMul
  generalize mulExact (f.dec a) (f.dec b) = p at h ⊢
  obtain ⟨x, inv⟩ := p
  cases x with
  | nan => rfl
  | inf => cases h
  | fin => cases h

theorem fMul_nan (hf : 0 < f.eb) {rm : RM} {a b : Nat} (h : (f.dec (fMul f rm a b).1).isNan = true) : (fMul f rm a b).1 = f.nan := by
  unfold fMul at h ⊢
  generalize mulExact (f.dec a) (f.dec b) = p at h ⊢
  obtain ⟨x, inv⟩ := p
  cases x with
  | nan => rfl
  | inf n => rw [FFmt.dec_inf_not_nan] at h; contradiction
  | fin n m e => rw [roundFl_not_nan hf] at h; contradiction

end

theorem FFmt.eb_pos_of_mem {f : FFmt} (hf : f ∈ [fmtF32, fmtH16, fmtBF16]) : 0 < f.eb := by
  simp only [List.mem_cons, List.not_mem_nil, or_false] at hf
  rcases hf with rfl | rfl | rfl <;> decide

/-- R29, R37: VFADD, VFSUB, VFMUL and VFMA give canonical NaNs. -/
theorem floatNan : FloatNan := by
  intro f hf rm a b c
  have heb := FFmt.eb_pos_of_mem hf
  simp only [List.forall_mem_cons, List.not_mem_nil, false_imp_iff, implies_true, and_true, List.exists_mem_cons_iff, exists_false,
    false_and, or_false]
  refine ⟨⟨sumRound_nan heb, fun h => sumRound_of_nan (.inr ?_), fun h => sumRound_of_invalid (.inr ?_)⟩,
    ⟨sumRound_nan heb, fun h => sumRound_of_nan (.inr ?_), fun h => sumRound_of_invalid (.inr ?_)⟩,
    ⟨fMul_nan heb, fun h => ?_, fun h => ?_⟩,
    ⟨sumRound_nan heb, fun h => sumRound_of_nan (.inr ?_), fun h => sumRound_of_invalid (.inr ?_)⟩⟩
  · simpa using h
  · simpa using h
  · simpa [FP.isNan_flip] using h
  · simpa [FP.isSnan_flip] using h
  · rw [fMul_of_nan (mulExact_isNan h)]
  · have hs := mulExact_isSnan h
    rw [fMul_of_nan (FP.isNan_of_isSnan hs), hs]
    rfl
  · rcases h with h | h | h
    · exact ⟨_, .head _, mulExact_isNan (.inl h)⟩
    · exact ⟨_, .head _, mulExact_isNan (.inr h)⟩
    · exact ⟨_, .tail _ (.head _), h⟩
  · rcases h with h | h | h
    · exact ⟨_, .head _, mulExact_isSnan (.inl h)⟩
    · exact ⟨_, .head _, mulExact_isSnan (.inr h)⟩
    · exact ⟨_, .tail _ (.head _), h⟩

/-- R37: in the three formats. -/
theorem floatRoundExact : FloatRoundExact := by
  intro f hf rm x m neg e hx hd
  exact roundFl_dec (FFmt.eb_pos_of_mem hf) hx hd

/-- Settles O11: rounding keeps what a format holds, and every NaN result is the canonical one. -/
theorem floatBasics : Obligations.FloatBasics := ⟨floatRoundExact, floatNan⟩

/-! ### The class mask (R361) -/

/-- R361: the bit that VFCLASS sets. -/
def fClassBit (f : FFmt) (a : Nat) : Nat :=
  match f.dec a with
  | .inf true => 0
  | .inf false => 7
  | .nan true => 8
  | .nan false => 9
  | .fin n m _ =>
    if m = 0 then (if n then 3 else 4)
    else if m < 2 ^ f.fb then (if n then 2 else 5)
    else (if n then 1 else 6)

theorem fClass_eq_pow (f : FFmt) (a : Nat) : fClass f a = 2 ^ fClassBit f a := by
  unfold fClass fClassBit
  cases f.dec a with
  | nan sig => cases sig <;> rfl
  | inf neg => cases neg <;> rfl
  | fin neg m e => dsimp only; split_ifs <;> rfl

theorem classMask : ClassMask := by
  intro f hf x k
  dsimp only
  have heb : 0 < f.eb := FFmt.eb_pos_of_mem hf
  have htop : 2 ^ f.eb - 1 ≠ 0 := by have := Nat.one_lt_two_pow heb.ne'; omega
  have hfrac : x % 2 ^ f.fb < 2 ^ f.fb := Nat.mod_lt _ (by positivity)
  have hsign : (bits x (f.eb + f.fb) 1 == 1) = decide (x / 2 ^ (f.eb + f.fb) % 2 = 1) := by
    rw [bits, pow_one]; rfl
  rw [fClass_eq_pow, Nat.testBit_two_pow, decide_eq_true_iff]
  unfold fClassBit FFmt.dec
  simp only [hsign, show bits x f.fb f.eb = x / 2 ^ f.fb % 2 ^ f.eb from rfl, show bits x 0 f.fb = x % 2 ^ f.fb by rw [bits, pow_zero, Nat.div_one]]
  generalize x / 2 ^ (f.eb + f.fb) % 2 = sg at *
  generalize x / 2 ^ f.fb % 2 ^ f.eb = e at *
  generalize x % 2 ^ f.fb = m at *
  by_cases ht : e = 2 ^ f.eb - 1
  · by_cases hm : m = 0
    · by_cases hn : sg = 1 <;> simp [hn, ht, hm, htop, eq_comm]
    · by_cases hq : m < 2 ^ (f.fb - 1) <;> simp [ht, hm, hq, htop, eq_comm]; omega
  · by_cases he : e = 0
    · by_cases hm : m = 0
      · by_cases hn : sg = 1 <;> simp [hn, he, hm, htop.symm, eq_comm]
      · by_cases hn : sg = 1 <;> simp [hn, he, hm, htop.symm, hfrac, eq_comm]
    · by_cases hn : sg = 1 <;> simp [hn, ht, he, eq_comm]

/-! ### Vector floating-point operations (R359, R361, R367) -/

theorem width_pos (t : Ty) : 0 < t.width := by cases t <;> decide

/-- R353, R359: a vector operation on the elements' data whose result does not depend on sources that it does not read. -/
theorem vectorFloat_of_vecF {mk : Hdr → FRRR → Instr} {lat n : Nat} {op : FFmt → RM → Nat → Nat → Nat → Nat × Nat} (hn : 1 ≤ n)
    (hexec : ∀ h f s, exec (mk h f) s = s.attempt fun s => s.vecF h f lat n op)
    (hop : ∀ t r a b c b' c', (2 ≤ n → b = b') → (3 ≤ n → c = c') → op t r a b c = op t r a b' c') : VectorFloat mk lat n op :=
  vectorOp_of_vecDie (op := fun f _ a b c => op f.ty.ffmt (RM.ofCode f.rm.toNat) a b c) hn hexec width_pos width_dvd
    fun h f _ i a b c b' c' hb hc => by
      rw [hop _ _ a.toNat b.toNat c.toNat b'.toNat c'.toNat (fun h2 => by rw [hb h2]) (fun h3 => by rw [hc h3])]
      exact ⟨rfl, rfl⟩

/-- Settles O10, by the rule of vector operations with each operation's own element function. -/
theorem vectorFloatingPoint : Obligations.VectorFloatingPoint :=
  ⟨classMask,
    vectorFloat_of_vecF (by decide) (fun _ _ _ => rfl) fun _ _ _ _ _ _ _ hb _ => by rw [hb le_rfl],
    vectorFloat_of_vecF (by decide) (fun _ _ _ => rfl) fun _ _ _ _ _ _ _ hb _ => by rw [hb le_rfl],
    vectorFloat_of_vecF (by decide) (fun _ _ _ => rfl) fun _ _ _ _ _ _ _ hb _ => by rw [hb le_rfl],
    vectorFloat_of_vecF (by decide) (fun _ _ _ => rfl) fun _ _ _ _ _ _ _ hb hc => by rw [hb (by decide), hc le_rfl],
    vectorFloat_of_vecF (by decide) (fun _ _ _ => rfl) fun _ _ _ _ _ _ _ hb _ => by rw [hb le_rfl],
    vectorFloat_of_vecF (by decide) (fun _ _ _ => rfl) fun _ _ _ _ _ _ _ hb _ => by rw [hb le_rfl],
    vectorFloat_of_vecF le_rfl (fun _ _ _ => rfl) fun _ _ _ _ _ _ _ _ _ => rfl,
    vectorFloat_of_vecF le_rfl (fun _ _ _ => rfl) fun _ _ _ _ _ _ _ _ _ => rfl,
    vectorFloat_of_vecF le_rfl (fun _ _ _ => rfl) fun _ _ _ _ _ _ _ _ _ => rfl,
    vectorFloat_of_vecF le_rfl (fun _ _ _ => rfl) fun _ _ _ _ _ _ _ _ _ => rfl,
    vectorFloat_of_vecF le_rfl (fun _ _ _ => rfl) fun _ _ _ _ _ _ _ _ _ => rfl,
    vectorFloat_of_vecF le_rfl (fun _ _ _ => rfl) fun _ _ _ _ _ _ _ _ _ => rfl,
    vectorFloat_of_vecF le_rfl (fun _ _ _ => rfl) fun _ _ _ _ _ _ _ _ _ => rfl⟩
end Sys2Proof
end

section
/-! SUPPORT. The reset values, words that decode, and what a store and a blotter leave of bytes and poison (R125, R126, R220, R276). -/

set_option Elab.async false

namespace Sys2Proof

open Machine Claims

/-! ### Reset and words written out -/

theorem getCd_reset (k : Nat) : State.reset.getCd k = {} := by
  unfold State.getCd
  split <;> rfl

theorem getPart_reset (k : Nat) : State.reset.getPart k = {} := rfl

/-- Settles O2: every lookup in the reset state meets an empty table, whose default the spec's reset values are. -/
theorem resetState : Obligations.ResetState :=
  ⟨fun k => by rw [getCd_reset]; exact ⟨rfl, rfl, rfl, rfl, rfl, rfl, rfl⟩, fun _ => rfl, fun _ => rfl, fun _ => rfl, fun _ => ⟨rfl, rfl⟩,
    fun k => ⟨by rw [getPart_reset]; rfl, by rw [State.fwshare, getPart_reset]; rfl, rfl⟩, rfl, rfl, rfl, State.reset_mem_wf, fun _ => rfl⟩

/-- Settles O6 by evaluating the decoder on each of the words. -/
theorem decodingWords : Obligations.DecodingWords := by
  unfold Obligations.DecodingWords
  decide +kernel

end Sys2Proof

namespace Sys2Proof.Machine

open Claims

/-! ### Poison that a write clears (R126, R276) -/

theorem mem_insNat {x y : Nat} {l : List Nat} : y ∈ insNat x l ↔ y = x ∨ y ∈ l := by
  induction l with
  | nil => simp [insNat]
  | cons z l ih =>
    rw [insNat]
    split_ifs with hlt heq
    · simp
    · subst heq; simp
    · rw [List.mem_cons, ih, List.mem_cons]; tauto

theorem SMap.find?_put {α : Type} (m : SMap α) (k j : Nat) (v : α) :
    (SMap.put m k v).find? (fun e => e.1 == j) = if j = k then some (k, v) else m.find? fun e => e.1 == j := by
  induction m with
  | nil => simp [SMap.put, List.find?_cons, List.find?_nil, eq_comm (a := j)]; split <;> simp_all
  | cons e m ih =>
    obtain ⟨a, x⟩ := e
    rw [SMap.put]
    rcases lt_trichotomy k a with hlt | rfl | hlt
    · rw [if_pos hlt, List.find?_cons]
      by_cases hjk : j = k
      · simp [hjk]
      · rw [if_neg hjk, beq_false_of_ne (Ne.symm hjk)]
    · rw [if_neg (lt_irrefl k), if_pos rfl]
      by_cases hjk : j = k
      · simp [hjk]
      · simp [hjk, Ne.symm hjk]
    · rw [if_neg hlt.not_gt, if_neg hlt.ne, List.find?_cons, List.find?_cons, ih]
      by_cases hja : a = j
      · subst hja; simp [hlt.ne]
      · rw [beq_false_of_ne hja]

/-- R276: whether a line lies in a stack that was lost, and has not been written whole since. -/
def State.lostPoisons (s : State) (l : Nat) : Bool :=
  match s.lostLine l with
  | some (_, cleared) => !cleared.contains l
  | none => false

theorem State.poisonedLine_eq (s : State) (l : Nat) : s.poisonedLine l = (s.poison.contains l || s.lostPoisons l) := rfl

/-- R276: a line of a lost stack written whole. -/
def State.clearLost (s : State) (l : Nat) : State :=
  match s.lostLine l with
  | some (k, cleared) => { s with lost := SMap.put s.lost k (insNat l cleared) }
  | none => s

theorem State.lostLine_lost (s : State) (m : SMap (List Nat)) (l : Nat) : ({ s with lost := m } : State).lostLine l =
    if m.isEmpty || 64 * l ≥ s.devSize then none else m.find? fun x => x.1 == (s.stackPlace (64 * l)).1 := rfl

theorem State.lostPoisons_clearLost (s : State) (x l : Nat) : (s.clearLost x).lostPoisons l = (s.lostPoisons l && l != x) := by
  unfold State.clearLost
  rcases hx : s.lostLine x with _ | ⟨k, cleared⟩
  · by_cases h : l = x
    · simp [h, State.lostPoisons, hx]
    · simp [h]
  obtain ⟨hguard, hfind⟩ : (s.lost.isEmpty || 64 * x ≥ s.devSize) = false ∧ s.lost.find? (fun e => e.1 == (s.stackPlace (64 * x)).1) = some (k, cleared) := by
    unfold State.lostLine at hx
    split at hx
    · contradiction
    · exact ⟨Bool.eq_false_iff.2 ‹_›, hx⟩
  have hk : (s.stackPlace (64 * x)).1 = k := by
    have := List.find?_some hfind
    exact (beq_iff_eq.1 this).symm
  rw [Bool.or_eq_false_iff] at hguard
  have hne : (SMap.put s.lost k (insNat x cleared)).isEmpty = false := by
    cases s.lost with
    | nil => rfl
    | cons e m => obtain ⟨a, y⟩ := e; rw [SMap.put]; split_ifs <;> rfl
  have hline : ({ s with lost := SMap.put s.lost k (insNat x cleared) } : State).lostLine l =
      if (s.stackPlace (64 * l)).1 = k ∧ 64 * l < s.devSize then some (k, insNat x cleared) else s.lostLine l := by
    rw [State.lostLine_lost, hne, SMap.find?_put, State.lostLine, hguard.1]
    by_cases hl : 64 * l < s.devSize
    · by_cases hs : (s.stackPlace (64 * l)).1 = k <;> simp [hs, hl]
    · simp [hl, Nat.le_of_not_lt hl]
  rw [State.lostPoisons, hline]
  by_cases hl : (s.stackPlace (64 * l)).1 = k ∧ 64 * l < s.devSize
  · have hold : s.lostLine l = some (k, cleared) := by
      rw [State.lostLine, hguard.1, hl.1, ← hk, hfind]
      simp [hl.2, hk]
    rw [if_pos hl, State.lostPoisons, hold, Bool.eq_iff_iff]
    simp [mem_insNat, and_comm]
  · have hlx : l ≠ x := by
      rintro rfl
      exact hl ⟨hk, by simpa using hguard.2⟩
    rw [if_neg hl, State.lostPoisons, bne_iff_ne.2 hlx, Bool.and_true]

/-- R276: clearing is line by line. -/
theorem State.lostPoisons_foldl_clearLost (ls : List Nat) (l : Nat) : ∀ s : State,
    (ls.foldl State.clearLost s).lostPoisons l = (s.lostPoisons l && !ls.contains l) := by
  induction ls with
  | nil => intro s; simp
  | cons x ls ih => intro s; rw [List.foldl_cons, ih, State.lostPoisons_clearLost, Bool.and_assoc, Bool.eq_iff_iff]; simp

theorem State.foldl_clearLost_poison (ls : List Nat) (s : State) : (ls.foldl State.clearLost s).poison = s.poison := by
  refine foldl_keeps State.poison _ (fun t x => ?_) ls s
  unfold State.clearLost
  split <;> rfl

/-- R126: the lines that `n` bytes at `loc` cover whole. -/
def wholeLine (loc n l : Nat) : Bool := decide (loc ≤ 64 * l) && decide (64 * l + 64 ≤ loc + n)

theorem mem_linesOf_of_whole {loc n l : Nat} (h : wholeLine loc n l = true) : l ∈ linesOf loc n := by
  simp only [wholeLine, Bool.and_eq_true, decide_eq_true_eq] at h
  rw [linesOf, if_neg (by omega), List.mem_map]
  exact ⟨l - loc / 64, List.mem_range.2 (by omega), by omega⟩

/-- R126: a write clears the poison of the lines that it covers whole, and no other. -/
theorem State.poisonedLine_clearPoison (s : State) (loc n l : Nat) :
    (s.clearPoison loc n).poisonedLine l = (s.poisonedLine l && !wholeLine loc n l) := by
  have hform : s.clearPoison loc n = if s.lost.isEmpty then { s with poison := s.poison.filter fun x => !wholeLine loc n x }
      else ((linesOf loc n).filter (wholeLine loc n)).foldl State.clearLost { s with poison := s.poison.filter fun x => !wholeLine loc n x } := rfl
  have hp : (s.poison.filter fun x => !wholeLine loc n x).contains l = (s.poison.contains l && !wholeLine loc n l) := by
    rw [Bool.eq_iff_iff]; simp
  rw [hform, State.poisonedLine_eq, State.poisonedLine_eq, Bool.and_or_distrib_right]
  split_ifs with hempty
  · have hnone : s.lostPoisons l = false := by simp [State.lostPoisons, State.lostLine, hempty]
    rw [hnone, hp]
    simp [State.lostPoisons, State.lostLine, hempty]
  · rw [State.foldl_clearLost_poison, State.lostPoisons_foldl_clearLost, hp]
    have hmem : ((linesOf loc n).filter (wholeLine loc n)).contains l = wholeLine loc n l := by
      rw [Bool.eq_iff_iff]
      simp [List.mem_filter]
      exact mem_linesOf_of_whole
    rw [hmem]
    rfl

theorem State.poisonedLine_writeBytes (l : List Byte) (x : Nat) : ∀ (s : State) (loc : Nat), (s.writeBytes loc l).poisonedLine x = s.poisonedLine x := by
  induction l with
  | nil => intro s loc; rfl
  | cons b l ih => intro s loc; rw [State.writeBytes, ih]; rfl

theorem State.readBytes_congr {s t : State} (h : s.mem = t.mem) (n : Nat) : ∀ loc, s.readBytes loc n = t.readBytes loc n := by
  induction n with
  | zero => intro loc; rfl
  | succ n ih => intro loc; rw [State.readBytes, State.readBytes, ih, State.readByte, State.readByte, h]

/-- R126, R300: what a store leaves. -/
theorem storedBytes : StoredBytes := by
  intro s loc data
  have hpoison (l : Nat) : (s.store loc data).poisonedLine l = (s.poisonedLine l && !wholeLine loc data.length l) := by
    rw [State.store, State.poisonedLine_clearPoison, State.poisonedLine_writeBytes]
  have hmem : (s.store loc data).mem = (s.writeBytes loc data).mem := by simp [State.store]
  refine ⟨fun a ha => s.readByte_store_outside loc a data ha, ?_, fun l hl => ?_, fun l h1 h2 => ?_⟩
  · rw [State.readBytes_congr hmem, State.readBytes_writeBytes]
  · rw [hpoison, Bool.and_eq_true] at hl
    exact hl.1
  · simp [hpoison, wholeLine, h1, h2]

/-! ### Bytes that a blotter withholds (R220) -/

/-- Byte `k` of a register. -/
def byteAt (v : Vec) (k : Nat) : Byte := v.extractLsb' (8 * k) 8

theorem byteAt_eq (v : Vec) (k : Nat) : BitVec.ofNat 8 (bits v.toNat (8 * k) 8) = byteAt v k := by
  rw [byteAt, BitVec.extractLsb', bits, Nat.shiftRight_eq_div_pow]
  exact BitVec.eq_of_toNat_eq (by simp)

theorem testBit_leNat (l : List Byte) : ∀ i, (leNat l).testBit i = (l.getD (i / 8) 0#8).getLsbD (i % 8) := by
  induction l with
  | nil => intro i; simp [leNat]
  | cons b l ih =>
    intro i
    rw [leNat, show (256 : Nat) = 2 ^ 8 by rfl, Nat.add_comm, Nat.testBit_two_pow_mul_add _ b.isLt]
    by_cases h : i < 8
    · rw [if_pos h, Nat.div_eq_of_lt h, Nat.mod_eq_of_lt h]; rfl
    · rw [if_neg h, ih, show i / 8 = (i - 8) / 8 + 1 by omega, show (i - 8) % 8 = i % 8 by omega, List.getD_cons_succ]

/-- The mask of `n` bits from `o`. -/
theorem getLsbD_span {w n o i : Nat} (hn : n ≤ w) (hi : i < w) :
    ((BitVec.allOnes w >>> (w - n)) <<< o).getLsbD i = (decide (o ≤ i) && decide (i < o + n)) := by
  rw [BitVec.getLsbD_shiftLeft, BitVec.getLsbD_ushiftRight, BitVec.getLsbD_allOnes, Bool.eq_iff_iff]
  simp
  omega

theorem byteAt_mergeLine {old : Vec} {o k : Nat} {data : List Byte} (h : o + data.length ≤ 64) (hk : k < 64) :
    byteAt (mergeLine old o data) k = if o ≤ k ∧ k < o + data.length then data.getD (k - o) 0#8 else byteAt old k := by
  refine BitVec.eq_of_getLsbD_eq fun j hj => ?_
  have hi : 8 * k + j < 512 := by omega
  rw [byteAt, BitVec.getLsbD_extractLsb', mergeLine, mergeVec]
  simp only [BitVec.getLsbD_or, BitVec.getLsbD_and, BitVec.getLsbD_not]
  rw [getLsbD_span (by omega) hi, BitVec.getLsbD_shiftLeft, BitVec.getLsbD_ofNat, testBit_leNat]
  by_cases hin : o ≤ k ∧ k < o + data.length
  · have h1 : 8 * o ≤ 8 * k + j := by omega
    have h2 : 8 * k + j < 8 * o + 8 * data.length := by omega
    rw [if_pos hin, show (8 * k + j - 8 * o) / 8 = k - o by omega, show (8 * k + j - 8 * o) % 8 = j by omega]
    simp [h1, h2, hi, hj, Nat.lt_of_le_of_lt (Nat.sub_le _ _) hi]
  · have h1 : (decide (8 * o ≤ 8 * k + j) && decide (8 * k + j < 8 * o + 8 * data.length)) = false := by
      rw [Bool.and_eq_false_iff]; simp; omega
    rw [if_neg hin, h1, byteAt, BitVec.getLsbD_extractLsb']
    simp [hi, hj]

/-- R220: what an entry of a blotter withholds of the byte at an address. -/
def Blot.byte (b : Blot) (a : Nat) : Option Byte :=
  if b.loc ≤ a && a < b.loc + 64 && b.mask.getLsbD (a - b.loc) then some (byteAt b.data (a - b.loc)) else none

theorem blotByte_eq_firstSome (bl : List Blot) (a : Nat) : blotByte bl a = firstSome (fun b => b.byte a) bl := by
  have : ∀ b : Blot, b.byte a = if b.loc ≤ a && a < b.loc + 64 && bits b.mask.toNat (a - b.loc) 1 == 1 then
      some (BitVec.ofNat 8 (bits b.data.toNat (8 * (a - b.loc)) 8)) else none := fun b => by
    rw [byteAt_eq, bits_one_beq_one]; rfl
  simp only [this]
  rfl

/-- The entry of a blotter for the line of an address decides. -/
theorem blotByte_eq {bl : List Blot} (hal : ∀ b ∈ bl, b.loc % 64 = 0) (hnd : (bl.map (·.loc)).Nodup) (a : Nat) :
    blotByte bl a = (bl.find? fun b => b.loc == a / 64 * 64).bind fun b => b.byte a := by
  rw [blotByte_eq_firstSome]
  induction bl with
  | nil => rfl
  | cons b bl ih =>
    rw [List.forall_mem_cons] at hal
    rw [List.map_cons, List.nodup_cons] at hnd
    rw [firstSome, ih hal.2 hnd.2, List.find?_cons]
    by_cases hb : b.loc = a / 64 * 64
    · have hrest : bl.find? (fun c => c.loc == a / 64 * 64) = none := by
        rw [List.find?_eq_none]
        intro c hc h
        exact hnd.1 (List.mem_map.2 ⟨c, hc, (beq_iff_eq.1 h).trans hb.symm⟩)
      rw [hrest, beq_iff_eq.2 hb, Option.bind_some]
      cases b.byte a <;> rfl
    · have hout : b.byte a = none := by
        rw [Blot.byte, if_neg]
        simp only [Bool.and_eq_true, decide_eq_true_eq]
        omega
      rw [hout, beq_false_of_ne hb]

/-- R220: the entry for a line with bytes withheld from offset `o`. -/
def Blot.merge (b : Blot) (o : Nat) (data : List Byte) : Blot :=
  { b with mask := b.mask ||| ((BitVec.allOnes 64 >>> (64 - data.length)) <<< o), data := mergeLine b.data o data }

theorem Blot.byte_merge {b : Blot} {o a : Nat} {data : List Byte} (hb : b.loc % 64 = 0) (ha : b.loc = a / 64 * 64) (h : o + data.length ≤ 64) :
    (b.merge o data).byte a = if o ≤ a % 64 ∧ a % 64 < o + data.length then some (data.getD (a % 64 - o) 0#8) else b.byte a := by
  have hk : a - b.loc = a % 64 := by omega
  have hin : (decide (b.loc ≤ a) && decide (a < b.loc + 64)) = true := by simp; omega
  rw [Blot.byte, Blot.byte, Blot.merge]
  simp only [hk, hin, Bool.true_and, BitVec.getLsbD_or, getLsbD_span (show data.length ≤ 64 by omega) (Nat.mod_lt a (show 0 < 64 by decide)),
    byteAt_mergeLine h (Nat.mod_lt a (show 0 < 64 by decide))]
  by_cases hs : o ≤ a % 64 ∧ a % 64 < o + data.length
  · simp [hs]
  · have : (decide (o ≤ a % 64) && decide (a % 64 < o + data.length)) = false := by rw [Bool.and_eq_false_iff]; simp; omega
    simp [hs, this]

/-- R220: withholding changes the entry of the line, or adds one. -/
def mergeAt (line o : Nat) (data : List Byte) (b : Blot) : Blot := if b.loc == line then b.merge o data else b

theorem mergeAt_loc (line o : Nat) (data : List Byte) (b : Blot) : (mergeAt line o data b).loc = b.loc := by
  unfold mergeAt
  split <;> rfl

theorem withhold_eq (bl : List Blot) (va loc : Nat) (data : List Byte) : withhold bl va loc data =
    if bl.any (fun b => b.loc == loc / 64 * 64) then bl.map (mergeAt (loc / 64 * 64) (loc % 64) data)
    else bl ++ [Blot.merge ⟨va / 64 * 64, loc / 64 * 64, 0#64, 0#512⟩ (loc % 64) data] := by
  rw [Blot.merge, BitVec.zero_or]
  rfl

/-- R220: a blotter after bytes of one line are withheld. -/
theorem blotByte_withhold {bl : List Blot} {va loc : Nat} {data : List Byte} (h : loc % 64 + data.length ≤ 64) (hal : ∀ b ∈ bl, b.loc % 64 = 0)
    (hnd : (bl.map (·.loc)).Nodup) (a : Nat) :
    blotByte (withhold bl va loc data) a = if loc ≤ a ∧ a < loc + data.length then some (data.getD (a - loc) 0#8) else blotByte bl a := by
  have hline : a / 64 * 64 = loc / 64 * 64 → ((loc % 64 ≤ a % 64 ∧ a % 64 < loc % 64 + data.length) ↔ (loc ≤ a ∧ a < loc + data.length)) ∧
      a % 64 - loc % 64 = a - loc := fun he => ⟨by omega, by omega⟩
  have hother : a / 64 * 64 ≠ loc / 64 * 64 → ¬(loc ≤ a ∧ a < loc + data.length) := fun hne => by omega
  have hfresh (hany : ¬bl.any (fun b => b.loc == loc / 64 * 64) = true) : bl.find? (fun b => b.loc == loc / 64 * 64) = none := by
    rw [List.find?_eq_none]
    exact fun b hb he => hany (List.any_eq_true.2 ⟨b, hb, he⟩)
  rw [withhold_eq, blotByte_eq hal hnd]
  split
  next hany =>
    have hlocs : (bl.map (mergeAt (loc / 64 * 64) (loc % 64) data)).map (·.loc) = bl.map (·.loc) := by
      rw [List.map_map]; exact List.map_congr_left fun b _ => mergeAt_loc _ _ _ b
    rw [blotByte_eq (by simpa [mergeAt_loc] using hal) (by rw [hlocs]; exact hnd), List.find?_map, Function.comp_def]
    simp only [mergeAt_loc]
    rcases hf : bl.find? (fun b => b.loc == a / 64 * 64) with _ | b
    · have hne : a / 64 * 64 ≠ loc / 64 * 64 := by
        intro he
        rw [he] at hf
        obtain ⟨b, hb, hbl⟩ := List.any_eq_true.1 hany
        exact List.find?_eq_none.1 hf b hb hbl
      rw [if_neg (hother hne), hf]
      rfl
    · have hb : b.loc = a / 64 * 64 := beq_iff_eq.1 (List.find?_some (p := fun b : Blot => b.loc == a / 64 * 64) hf)
      rw [hf, Option.map_some, Option.bind_some, Option.bind_some, mergeAt]
      by_cases he : a / 64 * 64 = loc / 64 * 64
      · obtain ⟨hin, hsub⟩ := hline he
        rw [if_pos (beq_iff_eq.2 (hb.trans he)), Blot.byte_merge (by omega) hb h, hsub]
        simp only [hin]
      · rw [if_neg (by simpa [hb] using he), if_neg (hother he)]
  next hany =>
    have hnodup : (bl.map (·.loc) ++ [loc / 64 * 64]).Nodup := by
      rw [List.nodup_append]
      refine ⟨hnd, List.nodup_singleton _, ?_⟩
      rintro x hx y hy rfl
      rw [List.mem_singleton] at hy
      obtain ⟨b, hb, rfl⟩ := List.mem_map.1 hx
      exact hany (List.any_eq_true.2 ⟨b, hb, beq_iff_eq.2 hy⟩)
    rw [blotByte_eq (by
      intro b hb
      rcases List.mem_append.1 hb with hb | hb
      · exact hal b hb
      · rw [List.mem_singleton.1 hb]
        exact Nat.mul_mod_left _ _) (by simpa [Blot.merge] using hnodup), List.find?_append]
    by_cases he : a / 64 * 64 = loc / 64 * 64
    · obtain ⟨hin, hsub⟩ := hline he
      rw [he, hfresh hany, Option.none_or, List.find?_singleton, if_pos (by simp [Blot.merge]), Option.bind_some,
        Blot.byte_merge (Nat.mul_mod_left _ _) he.symm h, hsub, Option.bind_none]
      simp only [hin]
      rw [show Blot.byte ⟨va / 64 * 64, loc / 64 * 64, 0#64, 0#512⟩ a = none by simp [Blot.byte]]
    · rw [if_neg (hother he), List.find?_singleton, if_neg (by simpa [Blot.merge] using Ne.symm he), Option.or_none]

theorem withheldBytes : WithheldBytes := by
  refine ⟨fun s loc n => ?_, fun bl va loc data h _ hal hnd => ⟨fun i hi => ?_, fun a ha => ?_⟩⟩
  · induction n generalizing loc with
    | zero => rfl
    | succ n ih => rw [State.readCtx, State.readBytes, ih]; rfl
  · rw [blotByte_withhold h hal hnd, if_pos (by omega), Nat.add_sub_cancel_left, List.getD_eq_getElem _ _ hi]
  · rw [blotByte_withhold h hal hnd, if_neg (by omega)]

/-- Settles O20. -/
theorem bytesStored : Obligations.BytesStored := ⟨storedBytes, withheldBytes⟩

end Sys2Proof.Machine
end

section
/-! SUPPORT. How an attempt ends whose operation does more than leave a result: it issues with its effects (`Does`), is refused with its faults
(`Faults`) or blocks (`Blocks`); and what the parts of an operation keep of the relation between the attempt and its effects. -/

set_option Elab.async false

namespace Sys2Proof.Claims

open Machine

/-! ### Two states alike but for latches and the record of an issue -/

theorem sameCd_iff {x y : CtxDie} : SameCd x y ↔ KeptCd x y ∧ x.pend = y.pend := by
  refine ⟨fun h => ⟨?_, ?_⟩, fun ⟨hk, hp⟩ => ?_⟩
  · have hp : x.pend = y.pend := (congrArg CtxDie.pend h :)
    unfold SameCd at h
    unfold KeptCd
    rw [hp]
    exact h
  · exact (congrArg CtxDie.pend h :)
  · unfold KeptCd at hk
    unfold SameCd
    rw [hp] at hk
    exact hk

theorem issued_iff {s t u : State} {ds : List Nat} :
    Issued s t u ds ↔ Rel t u s.ck0 s.cc0 ds ∧ ∀ d ∈ ds, (t.getCd (s.ck0 d)).pend = (u.getCd (s.ck0 d)).pend := by
  refine ⟨fun ⟨hrest, hother, hkept, hcc, hkcc⟩ => ⟨⟨hrest, hother, fun d hd => (sameCd_iff.1 (hkept d hd)).1, hcc, hkcc⟩,
    fun d hd => (sameCd_iff.1 (hkept d hd)).2⟩, fun ⟨h, hp⟩ => ⟨h.rest, h.other, fun d hd => sameCd_iff.2 ⟨h.kept d hd, hp d hd⟩, h.otherCc, h.keptCc⟩⟩

section

variable {s t u : State} {ds : List Nat}

theorem Issued.rel (h : Issued s t u ds) : Rel t u s.ck0 s.cc0 ds := (issued_iff.1 h).1

theorem Issued.refl (s u : State) (ds : List Nat) : Issued s u u ds := issued_iff.2 ⟨Rel.refl _ _ _ _, fun _ _ => rfl⟩

theorem Issued.trans {v : State} (h : Issued s t u ds) (g : Issued s u v ds) : Issued s t v ds :=
  issued_iff.2 ⟨h.rel.trans g.rel, fun d hd => ((issued_iff.1 h).2 d hd).trans ((issued_iff.1 g).2 d hd)⟩

/-- Every context of two such states is the same but for latches. -/
theorem Issued.sameAt (h : Issued s t u ds) (k : Nat) : SameCd (t.getCd k) (u.getCd k) := by
  by_cases hk : ∃ d ∈ ds, k = s.ck0 d
  · obtain ⟨d, hd, rfl⟩ := hk
    obtain ⟨-, -, hkept, -, -⟩ := h
    exact hkept d hd
  · rw [h.rel.other k fun d hd e => hk ⟨d, hd, e⟩]
    rfl

theorem Issued.pendAt (h : Issued s t u ds) (k : Nat) : (t.getCd k).pend = (u.getCd k).pend := (sameCd_iff.1 (h.sameAt k)).2

theorem Issued.updCd (h : Issued s t u ds) (k : Nat) (hk : k < 1024) (F : CtxDie → CtxDie)
    (hF : ∀ x y, KeptCd x y → KeptCd (F x) (F y)) (hp : ∀ x y, SameCd x y → (F x).pend = (F y).pend) : Issued s (t.updCd k F) (u.updCd k F) ds := by
  refine issued_iff.2 ⟨h.rel.updCd k hk F hF, fun d _ => ?_⟩
  by_cases e : s.ck0 d = k
  · rw [e, State.getCd_updCd_same, State.getCd_updCd_same]
    exact hp _ _ (h.sameAt k)
  · rw [State.getCd_updCd_other _ _ _ _ e, State.getCd_updCd_other _ _ _ _ e]
    exact h.pendAt _

theorem Issued.updCore (h : Issued s t u ds) (k : Nat) (F : Core → Core) (hF : ∀ c, (F c).fw = c.fw) :
    Issued s (t.updCore k F) (u.updCore k F) ds := by
  refine issued_iff.2 ⟨h.rel.updCore k F hF, fun d _ => ?_⟩
  rw [State.getCd_updCore _ _ _ _ hF, State.getCd_updCore _ _ _ _ hF]
  exact h.pendAt _

theorem Issued.updCc (h : Issued s t u ds) (F G : ColCtx → ColCtx) (hF : ∀ x y, KeptCc x y → KeptCc (F x) (G y)) :
    Issued s (t.updCc s.cc0 F) (u.updCc s.cc0 G) ds := by
  obtain ⟨hrel, hp⟩ := issued_iff.1 h
  refine issued_iff.2 ⟨⟨?_, hrel.other, hrel.kept, fun j hj => ?_, ?_⟩, hp⟩
  · have e : (t.updCc s.cc0 F).wear u.cd (u.updCc s.cc0 G).cc u.att = { t.wear u.cd u.cc u.att with cc := (u.updCc s.cc0 G).cc } := rfl
    rw [hrel.rest] at e
    exact e
  · rw [State.getCc_updCc_other _ _ _ _ hj, State.getCc_updCc_other _ _ _ _ hj]
    exact hrel.otherCc j hj
  · rw [State.getCc_updCc_same, State.getCc_updCc_same]
    exact hF _ _ hrel.keptCc

theorem Issued.updCc_left (h : Issued s t u ds) (F : ColCtx → ColCtx) (hF : ∀ x y, KeptCc x y → KeptCc (F x) y) :
    Issued s (t.updCc s.cc0 F) u ds :=
  issued_iff.2 ⟨h.rel.updCc_left F hF, (issued_iff.1 h).2⟩

theorem Issued.att_left (h : Issued s t u ds) (a : Att) : Issued s { t with att := a } u ds := h

theorem Issued.noAtt (h : Issued s t u ds) : Issued s t.noAtt u ds := h

/-- An update that neither reads nor changes the tables of contexts. -/
theorem Issued.of_wear (h : Issued s t u ds) (g : State → State) (hg : ∀ s c x a, g (State.wear s c x a) = (g s).wear c x a) :
    Issued s (g t) (g u) ds := by
  have hown : ∀ v : State, g v = (g v).wear v.cd v.cc v.att := fun v => hg v v.cd v.cc v.att
  have hu : g u = (g t).wear u.cd u.cc u.att := by rw [← hg, h.rel.rest]
  have hcore : (g t).core = (g u).core := (congrArg State.core hu :).symm
  have hcd : ∀ v : State, (g v).cd = v.cd := fun v => (congrArg State.cd (hown v) :)
  have hcc : ∀ v : State, (g v).cc = v.cc := fun v => (congrArg State.cc (hown v) :)
  have hatt : (g u).att = u.att := (congrArg State.att (hown u) :)
  have hget : ∀ v w : State, v.cd = w.cd → ∀ k, (k < 1024 ∨ 2048 ≤ k) → v.getCd k = w.getCd k := fun v w e k hk => by
    simp only [State.getCd, if_pos hk, e]
  have hfw : ∀ k, ¬(k < 1024 ∨ 2048 ≤ k) → (g t).getCd k = (g u).getCd k := fun k hk => by
    simp only [State.getCd, if_neg hk, State.getCore, hcore]
  refine ⟨?_, fun k hk => ?_, fun d hd => ?_, fun k hk => ?_, ?_⟩
  · change (g t).wear (g u).cd (g u).cc (g u).att = g u
    rw [hcd, hcc, hatt, ← hu]
  · by_cases hlt : k < 1024 ∨ 2048 ≤ k
    · rw [hget _ _ (hcd t) k hlt, hget _ _ (hcd u) k hlt]
      exact h.rel.other k hk
    · exact hfw k hlt
  · by_cases hlt : s.ck0 d < 1024 ∨ 2048 ≤ s.ck0 d
    · rw [hget _ _ (hcd t) _ hlt, hget _ _ (hcd u) _ hlt]
      exact h.sameAt _
    · rw [hfw _ hlt]
      rfl
  · simp only [State.getCc, hcc]
    exact h.rel.otherCc k hk
  · simp only [State.getCc, hcc]
    exact h.rel.keptCc

/-- R106: ports of both states taken. -/
theorem Issued.usePorts (h : Issued s t u ds) (l : List (Nat × Nat × Bool)) : Issued s (t.usePorts l) (u.usePorts l) ds := by
  have hcur : t.cur = u.cur := (congrArg State.cur h.rel.rest :)
  have hclock : t.clock = u.clock := (congrArg State.clock h.rel.rest :)
  unfold State.usePorts
  split
  · exact h
  · generalize allDies = dies
    induction dies generalizing t u with
    | nil => exact h
    | cons d dies ih =>
      rw [List.foldl_cons, List.foldl_cons]
      dsimp only
      split
      · exact ih h hcur hclock
      · unfold State.updCoreD
        rw [hcur, hclock]
        refine ih (h.updCore _ _ fun _ => ?_) hcur hclock
        rfl

/-- R219: both states spliced. -/
theorem Issued.splice (h : Issued s t u ds) (hc : s.cc0 < 128) (hlive : ∀ d ∈ ds, d ∈ u.liveOf s.cc0) :
    Issued s (t.splice s.cc0) (u.splice s.cc0) ds := by
  refine issued_iff.2 ⟨h.rel.splice hc, fun d hd => ?_⟩
  have hinh : (t.getCc s.cc0).inh = (u.getCc s.cc0).inh := (congrArg ColCtx.inh h.rel.keptCc :)
  rw [State.ck0, State.pend_splice _ _ _ (by rw [h.rel.liveOf]; exact hlive d hd), State.pend_splice _ _ _ (hlive d hd), hinh]
  congr 1
  exact h.pendAt _

end

end Sys2Proof.Claims

namespace Sys2Proof.Machine

open Claims

/-! ### An attempt that commits -/

/-- R55: a transfer, where an iteration takes one, of the column of the context `cc`. -/
def State.takeXfer (s : State) (cc : Nat) : Option Xfer → State
  | some x => s.updCc cc fun c => { c with cs := { c.cs with xfer := some x } }
  | none => s

theorem State.takeXfer_keeps (s : State) (cc : Nat) (x : Option Xfer) :
    { s.takeXfer cc x with cc := s.cc } = s ∧ ∀ k, { (s.takeXfer cc x).getCc k with cs := (s.getCc k).cs } = s.getCc k := by
  cases x with
  | none => exact ⟨rfl, fun _ => rfl⟩
  | some x =>
    refine ⟨rfl, fun k => ?_⟩
    rw [State.takeXfer]
    by_cases hk : k = cc
    · rw [hk, State.getCc_updCc_same]
    · rw [State.getCc_updCc_other _ _ _ _ hk]

/-- The iteration asks for no more than a splice (`b`), the faults `tr` after it, a transfer, bank ports and a stall. -/
structure Plain (a : Att) (b : Bool) (tr : List (Nat × FRec)) : Prop where
  faults : a.faults = []
  stall : a.stall = none
  block : a.block = none
  arrive : a.arrive = none
  halt : a.halt = false
  yields : a.yields = false
  flush : a.flush = false
  late : a.late = []
  splice : a.splice = b
  trap : a.trap = tr

theorem Plain.of_empty : Plain {} false [] := ⟨rfl, rfl, rfl, rfl, rfl, rfl, rfl, rfl, rfl, rfl⟩

/-- An iteration that is a splice where its operation signals. -/
theorem Plain.of_signals (s : State) (h : Hdr) : Plain (if signals s h then { splice := true } else {}) (signals s h) [] := by
  cases signals s h <;> exact ⟨rfl, rfl, rfl, rfl, rfl, rfl, rfl, rfl, rfl, rfl⟩

/-- The state without its cores. -/
def State.coreless (s : State) : State := { s with core := [] }

theorem State.usePorts_coreless (s : State) (l : List (Nat × Nat × Bool)) : (s.usePorts l).coreless = s.coreless := by
  unfold State.usePorts
  split
  · rfl
  · exact foldl_keeps State.coreless _ (fun v d => by dsimp only; split <;> rfl) _ s

/-- Where an iteration issues is unchanged: the cursor, the state and the launch of its context, and what says on which dies that launch is live. -/
structure SameSeat (u s : State) : Prop where
  cur : u.cur = s.cur
  launches : u.launches = s.launches
  sockets : u.sockets = s.sockets
  st : (u.getCc s.cc0).st = (s.getCc s.cc0).st
  launch : (u.getCc s.cc0).launch = (s.getCc s.cc0).launch

theorem SameSeat.cc0 {u s : State} (h : SameSeat u s) : u.cc0 = s.cc0 := by rw [State.cc0, State.cc0, h.cur]

theorem SameSeat.liveOf {u s : State} (h : SameSeat u s) : u.liveOf s.cc0 = s.liveOf s.cc0 := by
  simp only [State.liveOf, State.ctxLaunch, State.launch?, State.dieLive, State.getSocket, h.launch, h.launches, h.sockets]

/-- R53, R218: what such an attempt commits is what its operations did, with the ports and the transfer that they asked for, spliced where they asked
for it, before the faults that come after it. -/
theorem State.commitAs_issued {s o u : State} {ds : List Nat} {a : Att} {b : Bool} {tr : List (Nat × FRec)} (ha : Plain a b tr)
    (hc : s.cc0 < 128) (hst : (s.getCc s.cc0).st = .active) (hseat : SameSeat u s) (h : Issued s o u ds) (hlive : ∀ d ∈ ds, d ∈ s.liveOf s.cc0) :
    ∃ t, o.noAtt.commitAs a = t.raise s.cc0 tr ∧ Issued s t (spliced ((u.usePorts a.vm).takeXfer s.cc0 a.xfer) b) ds := by
  have hcoreless := u.usePorts_coreless a.vm
  have hucc : (u.usePorts a.vm).cc = u.cc := (congrArg State.cc hcoreless :)
  have hocur : o.cur = s.cur := ((congrArg State.cur h.rel.rest :) : o.cur = u.cur).trans hseat.cur
  have hcc : o.noAtt.cc0 = s.cc0 := by rw [State.cc0, State.cc0, show o.noAtt.cur = o.cur from rfl, hocur]
  have hports := h.noAtt.usePorts a.vm
  have hrec : Issued s ((o.noAtt.usePorts a.vm).commitCol a s.cc0) ((u.usePorts a.vm).takeXfer s.cc0 a.xfer) ds := by
    unfold State.commitCol State.takeXfer
    cases hx : a.xfer with
    | none =>
      refine hports.updCc_left _ fun x y e => ?_
      rw [ha.flush, ha.halt, ha.arrive]
      unfold KeptCc at *
      rw [e]
      rfl
    | some p =>
      refine hports.updCc _ _ fun x y e => ?_
      rw [ha.flush, ha.halt, ha.arrive]
      unfold KeptCc at *
      rw [e]
      rfl
  obtain ⟨hvrest, hvcc⟩ := (u.usePorts a.vm).takeXfer_keeps s.cc0 a.xfer
  generalize hn : (o.noAtt.usePorts a.vm).commitCol a s.cc0 = n at hrec
  have hvseat : SameSeat ((u.usePorts a.vm).takeXfer s.cc0 a.xfer) s := by
    have hk : (u.usePorts a.vm).getCc s.cc0 = u.getCc s.cc0 := by rw [State.getCc, State.getCc, hucc]
    refine ⟨?_, ?_, ?_, ?_, ?_⟩
    · exact (congrArg State.cur hvrest :).trans ((congrArg State.cur hcoreless :).trans hseat.cur)
    · exact (congrArg State.launches hvrest :).trans ((congrArg State.launches hcoreless :).trans hseat.launches)
    · exact (congrArg State.sockets hvrest :).trans ((congrArg State.sockets hcoreless :).trans hseat.sockets)
    · rw [← hseat.st, ← hk, ← hvcc s.cc0]
    · rw [← hseat.launch, ← hk, ← hvcc s.cc0]
  generalize hv : (u.usePorts a.vm).takeXfer s.cc0 a.xfer = v at hrec hvseat
  have hact : (n.getCc s.cc0).st = .active := by
    rw [(congrArg ColCtx.st hrec.rel.keptCc :), ← hst, ← hvseat.st]
  have hvlive : ∀ d ∈ ds, d ∈ v.liveOf s.cc0 := fun d hd => by
    rw [hvseat.liveOf]
    exact hlive d hd
  have hsplice : Issued s (n.commitSplice a s.cc0 false) (spliced v b) ds := by
    unfold State.commitSplice spliced
    rw [ha.splice, Bool.or_false, hvseat.cc0]
    cases b with
    | false => exact hrec
    | true =>
      rw [if_pos rfl, if_pos rfl]
      refine (hrec.splice hc hvlive).updCc_left _ fun x y e => ?_
      unfold KeptCc at *
      rw [e]
  generalize hw : n.commitSplice a s.cc0 false = w at hsplice
  refine ⟨if a.hold > 0 then w.updCc s.cc0 fun c => { c with holdUntil := Nat.max c.holdUntil (w.clock + 1 + a.hold), holdReason := a.holdReason }
      else w, ?_, ?_⟩
  · unfold State.commitAs
    have hleft : ((n.getCc s.cc0).st != .active) = false := by rw [hact]; rfl
    rw [hcc, if_neg (by omega), ha.yields, ha.halt, ha.arrive, ha.late, ha.trap, hn]
    simp only [Bool.false_and, Bool.false_eq_true, if_false, hleft, Bool.or_false, Option.isSome_none]
    rw [show n.holdLate s.cc0 [] = n from rfl, hw]
  · split
    · refine hsplice.updCc_left _ fun x y e => ?_
      unfold KeptCc at *
      rw [e]
    · exact hsplice

/-- An operation whose attempt comes to `u` but for latches, and asks for no more than a splice, ports, a transfer and faults after it, issues. -/
theorem does_of_issued {i : Instr} {s : State} {h : Hdr} {op : State → State} {b : Bool} {eff : Nat → State → State} {col : State → State}
    {tr : List (Nat × FRec)} {u : State} (hready : Ready s h) (hexec : exec i s = s.attempt op) (ha : Plain (op s.noAtt).att b tr)
    (hu : Issued s (op s.noAtt) u (s.enabled h)) (hseat : SameSeat u s) (hblot : u.blotCount s.cc0 ≤ 128)
    (hports : portExtra (op s.noAtt).att.vm = 0 ∨ (s.getCc s.cc0).portDone = true)
    (hcol : col ((s.enabled h).foldl (fun x d => eff d x) s) = (u.usePorts (op s.noAtt).att.vm).takeXfer s.cc0 (op s.noAtt).att.xfer) :
    Does i s h b eff col tr := by
  have hc : s.cc0 < 128 := cc0_lt hready.col hready.ctx
  obtain ⟨t, ht, hissued⟩ := State.commitAs_issued ha hc hready.active hseat hu fun d hd => State.enabled_live hready.ctx hd
  refine ⟨t, ?_, by rw [hcol]; exact hissued⟩
  rw [hexec, ← ht, State.attempt]
  change Host.Outcome.next (s.finish (op s.noAtt)) = _
  have hverdict (s' : State) (h1 : s'.cc0 = s.cc0) (h2 : s'.cc = s.cc) : s'.verdict (op s.noAtt) = .commit := by
    have hp : (portExtra (op s.noAtt).att.vm > 0 && !(s'.getCc s'.cc0).portDone) = false := by
      rw [h1, State.getCc, h2]
      rcases hports with hz | hd
      · rw [hz]; rfl
      · rw [State.getCc] at hd
        rw [hd, Bool.not_true, Bool.and_false]
    have hb : ¬(op s.noAtt).blotCount s'.cc0 > 128 := by rw [h1, hu.rel.blotCount]; omega
    unfold State.verdict
    simp only [ha.faults, ha.block, ha.stall, hp, hb, List.any_nil, List.isEmpty_nil, Bool.not_true, Bool.false_eq_true, if_false]
  unfold State.finish
  dsimp only
  rw [hverdict { s with att := {}, freeCtr := (op s.noAtt).freeCtr } rfl rfl]
  rfl

/-- R78, R211: an attempt that meets faults and changes no free choice leaves only them. -/
theorem faults_of_attempt {i : Instr} {s : State} {h : Hdr} {op : State → State} {r : Nat → FRec} (hexec : exec i s = s.attempt op)
    (hfree : (op s.noAtt).freeCtr = s.freeCtr)
    (hf : (op s.noAtt).att.faults = (s.enabled h).map fun d => (d, { r d with slot := s.cur.slot, r1 := s.cur.bundle }))
    (hcode : ((op s.noAtt).att.faults.any fun x => x.2.code == 2) = true ∨
      (op s.noAtt).att.faults ≠ [] ∧ (op s.noAtt).att.block = none ∧ (op s.noAtt).att.stall = none ∧ (op s.noAtt).att.unload = []) :
    Faults i s h r := by
  unfold Faults
  rw [hexec, State.attempt]
  change Host.Outcome.next (s.finish (op s.noAtt)) = _
  unfold State.finish
  dsimp only
  rw [hfree]
  generalize op s.noAtt = o at hf hcode
  by_cases h2 : (o.att.faults.any fun x => x.2.code == 2) = true
  · have hv : ∀ s' : State, s'.verdict o = .illegal := fun s' => by unfold State.verdict; rw [if_pos h2]
    rw [hv, hf]
    rfl
  · obtain ⟨hne, hblock, hstall, hunload⟩ := hcode.resolve_left h2
    have hv : ∀ s' : State, s'.verdict o = .fault := fun s' => by
      unfold State.verdict
      have : (!o.att.faults.isEmpty) = true := by simpa using hne
      rw [if_neg h2, hblock, hstall]
      dsimp only
      rw [if_pos this]
    rw [hv, hf, hunload]
    rfl

/-- R92: an attempt that meets a blocking condition and no illegal operation only blocks its context. -/
theorem blocks_of_attempt {i : Instr} {s : State} {op : State → State} {r : BlkReason} (hexec : exec i s = s.attempt op)
    (hfree : (op s.noAtt).freeCtr = s.freeCtr) (hf : ((op s.noAtt).att.faults.any fun x => x.2.code == 2) = false)
    (hblock : (op s.noAtt).att.block = some r) : Blocks i s r := by
  unfold Blocks
  rw [hexec, State.attempt]
  change Host.Outcome.next (s.finish (op s.noAtt)) = _
  unfold State.finish
  dsimp only
  rw [hfree]
  have hv : ∀ s' : State, s'.verdict (op s.noAtt) = .block r := fun s' => by
    unfold State.verdict
    dsimp only
    rw [hf, hblock]
    rfl
  rw [hv]
  rfl

/-! ### Operations on each die in turn -/

/-- A fold over distinct dies: `Q` speaks of the dies done, `P` of one that is still to come. -/
theorem foldl_each {β : Type} {f : β → Nat → β} {Q : List Nat → β → Prop} {P : Nat → β → Prop} (l : List Nat) :
    ∀ (done : List Nat) (o : β), l.Nodup → Q done o → (∀ d ∈ l, P d o) →
      (∀ done d o, d ∈ l → Q done o → P d o → Q (done ++ [d]) (f o d) ∧ ∀ e ∈ l, e ≠ d → P e o → P e (f o d)) → Q (done ++ l) (l.foldl f o) := by
  induction l with
  | nil => intro done o _ hq _ _; rwa [List.append_nil]
  | cons d l ih =>
    intro done o hn hq hp hstep
    obtain ⟨hd, hn⟩ := List.nodup_cons.1 hn
    obtain ⟨hq', hp'⟩ := hstep done d o (by simp) hq (hp d (by simp))
    rw [List.foldl_cons, List.append_cons]
    exact ih _ _ hn hq' (fun e he => hp' e (by simp [he]) (fun h => hd (h ▸ he)) (hp e (by simp [he])))
      fun done e o he hq hp => (hstep done e o (by simp [he]) hq hp).imp_right fun h e' he' => h e' (by simp [he'])

end Sys2Proof.Machine
end

section
/-! SUPPORT. Operations with an effect on each die where they are enabled: the dies in turn, with what each still finds as before the attempt; operand reads
and results in a state of which only the cursor's context is known. -/

set_option Elab.async false

namespace Sys2Proof.Machine

open Claims

/-! ### What a die that is still to come finds -/

/-- The context and the core of the cursor on die `d`, its column context, and the clock are as before the attempt. -/
structure Fresh (s o : State) (d : Nat) : Prop where
  cur : o.cur = s.cur
  clock : o.clock = s.clock
  cd : o.getCd (s.ck0 d) = s.getCd (s.ck0 d)
  core : o.getCore (coreKey d s.cur.col) = s.getCore (coreKey d s.cur.col)
  cc : o.getCc s.cc0 = s.getCc s.cc0

/-- The context of the cursor on die `d` is as before the attempt but for its latches, which are `sl`. -/
structure Looks (o s : State) (d : Nat) (sl : SMap SlotDie) : Prop where
  cur : o.cur = s.cur
  clock : o.clock = s.clock
  cd : o.getCd (s.ck0 d) = { s.getCd (s.ck0 d) with ws := { (s.getCd (s.ck0 d)).ws with slots := sl } }

section

variable {s o : State} {d : Nat} {sl : SMap SlotDie}

theorem Fresh.start (s : State) (a : Att) (d : Nat) : Fresh s { s with att := a } d := ⟨rfl, rfl, rfl, rfl, rfl⟩

theorem Fresh.looks (h : Fresh s o d) : Looks o s d (s.ctxD d).ws.slots := ⟨h.cur, h.clock, h.cd⟩

theorem Fresh.cc0 (h : Fresh s o d) : o.cc0 = s.cc0 := by rw [State.cc0, State.cc0, h.cur]
theorem Fresh.ck0 (h : Fresh s o d) (e : Nat) : o.ck0 e = s.ck0 e := by rw [State.ck0, State.ck0, h.cc0]
theorem Fresh.coreD (h : Fresh s o d) : o.coreD d = s.coreD d := by rw [State.coreD, State.coreD, h.cur, h.core]
theorem Fresh.ctxD (h : Fresh s o d) : o.ctxD d = s.ctxD d := by rw [State.ctxD, State.ctxD, h.ck0, h.cd]

theorem Fresh.waitOn (h : Fresh s o d) {hdr : Hdr} (hw : hdr.waitTh.toNat ≤ (s.coreD d).semCount hdr.waitSem.toNat) : o.waitOn d hdr = o := by
  rw [State.waitOn, h.coreD, if_pos hw]

theorem Fresh.att (h : Fresh s o d) (a : Att) : Fresh s { o with att := a } d := ⟨h.cur, h.clock, h.cd, h.core, h.cc⟩

theorem ck0_ne {e : Nat} (h : e ≠ d) (s : State) : s.ck0 e ≠ s.ck0 d := fun he => h (ccCk_inj he)

theorem ck0_lt (hc : s.cc0 < 128) (hd : d < 8) : s.ck0 d < 1024 := ccCk_lt hd hc

theorem coreKey_ne {e c : Nat} (h : e ≠ d) : coreKey e c ≠ coreKey d c := by unfold coreKey; omega

theorem State.getCore_updCd {k : Nat} (hk : k < 1024) (F : CtxDie → CtxDie) (j : Nat) : (o.updCd k F).getCore j = o.getCore j := by
  rw [State.updCd, State.setCd, if_pos (.inl hk)]
  rfl

theorem Fresh.updCd (h : Fresh s o d) {e : Nat} (he : d ≠ e) (hk : s.ck0 e < 1024) (F : CtxDie → CtxDie) : Fresh s (o.updCd (s.ck0 e) F) d := by
  refine ⟨?_, ?_, ?_, ?_, ?_⟩
  · rw [← h.cur, State.updCd, State.setCd, if_pos (.inl hk)]
  · rw [← h.clock, State.updCd, State.setCd, if_pos (.inl hk)]
  · rw [State.getCd_updCd_other _ _ _ _ (ck0_ne he s), h.cd]
  · rw [State.getCore_updCd hk, h.core]
  · rw [← h.cc, State.updCd, State.setCd, if_pos (.inl hk)]
    rfl

theorem Fresh.updCore (h : Fresh s o d) {e : Nat} (he : d ≠ e) (F : Core → Core) (hF : ∀ c, (F c).fw = c.fw) :
    Fresh s (o.updCore (coreKey e s.cur.col) F) d := by
  refine ⟨h.cur, h.clock, ?_, ?_, h.cc⟩
  · rw [State.getCd_updCore _ _ _ _ hF, h.cd]
  · rw [State.updCore, State.getCore_setCore_other _ _ _ _ (coreKey_ne he), h.core]

/-! ### Operands and results -/

theorem Looks.cc0 (h : Looks o s d sl) : o.cc0 = s.cc0 := by rw [State.cc0, State.cc0, h.cur]
theorem Looks.ck0 (h : Looks o s d sl) (e : Nat) : o.ck0 e = s.ck0 e := by rw [State.ck0, State.ck0, h.cc0]
theorem Looks.ctxD (h : Looks o s d sl) : o.ctxD d = { s.ctxD d with ws := { (s.ctxD d).ws with slots := sl } } := by
  rw [State.ctxD, h.ck0, h.cd]
  rfl

/-- R79, R81: a settled register reads as it stands, and reading it changes nothing. -/
theorem Looks.rdReg (h : Looks o s d sl) {file : RFile} {n : Nat} (hs : Settled s d file n) : o.rdReg d file n = (reg s d file n, o) := by
  unfold State.rdReg
  dsimp only
  split
  · rename_i hz
    unfold reg
    rw [hz.1, hz.2, WorkSet.rd_s0]
  · rename_i hz
    have e : (o.ctxD d).inFlight o.clock file n = [] := by
      rw [h.ctxD, h.clock]
      exact hs.resolve_left hz
    rw [e, h.ctxD]
    simp only [WorkSet.rd_slots, reg]

theorem Looks.rdS (h : Looks o s d sl) {r : Reg} (hs : Settled s d .s r.n) : o.rdS d r = (sreg s d r, o) := by
  unfold State.rdS
  rw [h.rdReg hs]
  rfl

/-- R67: the lanes of a settled predicate. -/
theorem Looks.lanes (h : Looks o s d sl) {p : Pr} (hp : PrOk s d p) : o.lanes d p = (acts s d p, o) := by
  unfold State.lanes
  split
  · rename_i he
    rw [h.rdReg (hp he)]
    refine Prod.ext (funext fun n => ?_) rfl
    simp only [acts, he, Bool.not_true, Bool.false_or]
    rw [bits_one_beq_one]
    rfl
  · rename_i he
    refine Prod.ext (funext fun n => ?_) rfl
    simp [acts, he]

/-- The latches of a context replaced. -/
def State.setSlots (o : State) (k : Nat) (sl : SMap SlotDie) : State := o.updCd k fun c => { c with ws := { c.ws with slots := sl } }

theorem Looks.setSlots (h : Looks o s d sl) (hk : s.ck0 d < 1024) (sl' : SMap SlotDie) : Looks (o.setSlots (s.ck0 d) sl') s d sl' := by
  refine ⟨?_, ?_, ?_⟩
  · rw [← h.cur, State.setSlots, State.updCd, State.setCd, if_pos (.inl hk)]
  · rw [← h.clock, State.setSlots, State.updCd, State.setCd, if_pos (.inl hk)]
  · rw [State.setSlots, State.getCd_updCd_same, h.cd]

/-- R58: a V or P source that has a value: the value, and the latches afterwards. -/
theorem Looks.rdSrc (h : Looks o s d sl) {pos : Nat} {file : RFile} {r : Reg} (hs : SrcOk s d pos file r)
    (hl : holds sl s.cur.slot pos = SMap.get none (s.slotD d).hold pos) :
    o.rdSrc d pos file r = (src s d pos file r, if r.isLatch then o else o.setSlots (s.ck0 d) (latched sl s.cur.slot pos r (src s d pos file r))) := by
  unfold State.rdSrc SrcOk latched src at *
  by_cases hr : r.isLatch
  · simp only [hr, if_true] at hs ⊢
    have e : SMap.get none (o.slotD d).hold pos = SMap.get none (s.slotD d).hold pos := by
      rw [← hl]; unfold State.slotD holds; rw [h.ctxD, h.cur]
    rw [e]
    cases hv : SMap.get none (s.slotD d).hold pos with
    | none => exact absurd hv hs
    | some v => rfl
  · simp only [hr, Bool.false_eq_true, if_false] at hs ⊢
    rw [h.rdReg hs]
    unfold State.updSlotD State.updD State.setSlots State.updCd
    rw [h.ck0, h.cur, h.cd]

theorem Looks.writable (h : Looks o s d sl) {file : RFile} {n : Nat} (hw : Writable s d file n) : o.wrCheck d file n = o := by
  have hb : ((o.ctxD d).inFlight o.clock file n).any (·.sb) = false := by
    rw [h.ctxD, h.clock, List.any_eq_false]
    intro p hp
    simp [hw p hp]
  rw [State.wrCheck, hb]
  rfl

/-- R79: a result for a register with no scoreboarded write in flight is left in flight. -/
theorem Looks.result (h : Looks o s d sl) {file : RFile} {n : Nat} (hw : Writable s d file n) (hh : Hdr) (lat : Nat) (v mask : Vec) (fl grp : Nat) :
    o.result d hh lat file n v mask fl grp true = Claims.leave s d [resultOf s hh false lat file n v mask fl grp] o := by
  rw [State.result, h.writable hw, State.updD, h.ck0, h.cur, h.clock]
  rfl

end

/-! ### The dies in turn -/

section

variable {s : State} {h : Hdr}

/-- The effects of an operation on some dies in turn. -/
def effects (eff : Nat → State → State) (ds : List Nat) (s : State) : State := ds.foldl (fun x d => eff d x) s

theorem effects_append (eff : Nat → State → State) (ds : List Nat) (d : Nat) (s : State) :
    effects eff (ds ++ [d]) s = eff d (effects eff ds s) := by simp [effects]

/-- What the body `f` of an operation comes to on a die, after the dies `done`: its effect but for latches; the record `A` of what the operation asks for; and
what the other dies still find, to which `X` adds. -/
def Acts (s : State) (h : Hdr) (f eff : Nat → State → State) (A : List Nat → Att) (X : Nat → State → Prop) : Prop :=
  ∀ done d o, d ∈ s.enabled h → Issued s o (effects eff done s) (s.enabled h) → o.att = A done → Fresh s o d → X d o →
    Issued s (f d o) (eff d (effects eff done s)) (s.enabled h) ∧ (f d o).att = A (done ++ [d]) ∧
    ∀ e ∈ s.enabled h, e ≠ d → Fresh s o e → X e o → Fresh s (f d o) e ∧ X e (f d o)

/-- R62, R63: an operation's waits are met, and its body is performed on each die where it is enabled. -/
theorem onDies_issued {f eff : Nat → State → State} {A : List Nat → Att} {X : Nat → State → Prop} (hready : Ready s h) (hacts : Acts s h f eff A X)
    (hX : ∀ d ∈ s.enabled h, X d { s with att := A [] }) :
    ∃ o, State.onDies { s with att := A [] } h f = (if signals s h then o.splices else o) ∧
      Issued s o (effects eff (s.enabled h) s) (s.enabled h) ∧ o.att = A (s.enabled h) := by
  refine ⟨(s.enabled h).foldl (fun o d => f d (o.waitOn d h)) { s with att := A [] }, rfl, ?_⟩
  refine foldl_each (f := fun o d => f d (o.waitOn d h)) (Q := fun done o => Issued s o (effects eff done s) (s.enabled h) ∧ o.att = A done)
    (P := fun d o => Fresh s o d ∧ X d o) (s.enabled h) [] _ (s.enabled_nodup h) ⟨Issued.refl s s _, rfl⟩ (fun d hd => ⟨Fresh.start s _ d, hX d hd⟩) ?_
  intro done d o hd ⟨hissued, hatt⟩ ⟨hfresh, hx⟩
  rw [hfresh.waitOn (hready.wait d hd)]
  obtain ⟨h1, h2, h3⟩ := hacts done d o hd hissued hatt hfresh hx
  rw [effects_append]
  exact ⟨⟨h1, h2⟩, fun e he hne ⟨hf, hx⟩ => h3 e he hne hf hx⟩

/-- R53: an operation that is its body on each die issues with its effects. -/
theorem does_of_acts {i : Instr} {f eff : Nat → State → State} {A : List Nat → Att} (X : Nat → State → Prop) {b : Bool} {tr : List (Nat × FRec)}
    (hready : Ready s h) (hexec : exec i s = s.attempt fun s => s.onDies h f) (hacts : Acts s h f eff A X)
    (hX : ∀ d ∈ s.enabled h, X d s.noAtt) (hA0 : A [] = {})
    (hA : Plain (if signals s h then { A (s.enabled h) with splice := true } else A (s.enabled h)) b tr) (hxfer : (A (s.enabled h)).xfer = none)
    (hvm : (A (s.enabled h)).vm = [])
    (hseat : SameSeat (effects eff (s.enabled h) s) s) (hblot : (effects eff (s.enabled h) s).blotCount s.cc0 ≤ 128) :
    Does i s h b eff id tr := by
  obtain ⟨o, ho, hissued, hatt⟩ := onDies_issued hready hacts (by rw [hA0]; exact hX)
  rw [hA0] at ho
  have hop : State.onDies s.noAtt h f = if signals s h then o.splices else o := ho
  have hatt' : (State.onDies s.noAtt h f).att = if signals s h then { A (s.enabled h) with splice := true } else A (s.enabled h) := by
    rw [hop, ← hatt]
    split <;> rfl
  have hvm' : (State.onDies s.noAtt h f).att.vm = [] := by rw [hatt']; split <;> exact hvm
  have hxfer' : (State.onDies s.noAtt h f).att.xfer = none := by rw [hatt']; split <;> exact hxfer
  refine does_of_issued (u := effects eff (s.enabled h) s) hready hexec (by rw [hatt']; exact hA) ?_ hseat hblot (.inl (by rw [hvm']; decide)) ?_
  · rw [hop]
    split
    · exact hissued
    · exact hissued
  · rw [hvm', hxfer']
    rfl

/-- What the body `f` of an operation comes to on a die where it is refused with the fault `r`. -/
def Refuses (s : State) (h : Hdr) (f : Nat → State → State) (r : Nat → FRec) (X : Nat → State → Prop) : Prop :=
  ∀ d o, d ∈ s.enabled h → Fresh s o d → X d o →
    (f d o).att = { o.att with faults := o.att.faults ++ [(d, { r d with slot := s.cur.slot, r1 := s.cur.bundle })] } ∧
    (f d o).freeCtr = o.freeCtr ∧ ∀ e ∈ s.enabled h, e ≠ d → Fresh s o e → X e o → Fresh s (f d o) e ∧ X e (f d o)

/-- R53, R78: an operation whose body is refused on each die. -/
theorem onDies_refused {f : Nat → State → State} {r : Nat → FRec} {X : Nat → State → Prop} (hready : Ready s h) (hf : Refuses s h f r X)
    (hX : ∀ d ∈ s.enabled h, X d s.noAtt) :
    (State.onDies s.noAtt h f).freeCtr = s.freeCtr ∧ (State.onDies s.noAtt h f).att =
      { splice := signals s h, faults := (s.enabled h).map fun d => (d, { r d with slot := s.cur.slot, r1 := s.cur.bundle }) } := by
  have hfold := foldl_each (f := fun o d => f d (o.waitOn d h)) (Q := fun done o => o.freeCtr = s.freeCtr ∧
      o.att = { faults := done.map fun d => (d, { r d with slot := s.cur.slot, r1 := s.cur.bundle }) })
    (P := fun d o => Fresh s o d ∧ X d o) (s.enabled h) [] s.noAtt (s.enabled_nodup h) ⟨rfl, rfl⟩ (fun d hd => ⟨Fresh.start s _ d, hX d hd⟩) (by
      intro done d o hd ⟨hfree, hatt⟩ ⟨hfresh, hx⟩
      rw [hfresh.waitOn (hready.wait d hd)]
      obtain ⟨h1, h2, h3⟩ := hf d o hd hfresh hx
      refine ⟨⟨h2.trans hfree, ?_⟩, fun e he hne ⟨hfe, hxe⟩ => h3 e he hne hfe hxe⟩
      rw [h1, hatt, List.map_append]
      rfl)
  obtain ⟨hfree, hatt⟩ := hfold
  unfold State.onDies signals
  change (if (h.sigSem != 0#8 && !(s.enabled h).isEmpty) = true then _ else _ : State).freeCtr = _ ∧
    (if (h.sigSem != 0#8 && !(s.enabled h).isEmpty) = true then _ else _ : State).att = _
  split
  next hs =>
    rw [hs]
    exact ⟨hfree, congrArg (fun a : Att => { a with splice := true }) hatt⟩
  next hs =>
    rw [Bool.eq_false_iff.2 hs]
    exact ⟨hfree, hatt⟩

/-- R53, R78: such an operation leaves only its faults. -/
theorem faults_of_refuses {i : Instr} {f : Nat → State → State} {r : Nat → FRec} (X : Nat → State → Prop) (hready : Ready s h)
    (hexec : exec i s = s.attempt fun s => s.onDies h f) (hne : s.enabled h ≠ []) (hf : Refuses s h f r X) (hX : ∀ d ∈ s.enabled h, X d s.noAtt) :
    Faults i s h r := by
  obtain ⟨hfree, hatt⟩ := onDies_refused hready hf hX
  refine faults_of_attempt hexec hfree (by rw [hatt]) (.inr ?_)
  rw [hatt]
  exact ⟨by simpa using hne, rfl, rfl, rfl⟩

/-- R78: a die on which the operation is illegal. -/
theorem Fresh.illegal {o : State} {d e : Nat} (hf : Fresh s o e) : Fresh s (o.illegal d) e := hf.att _

theorem State.illegal_att {o : State} (hcur : o.cur = s.cur) (d : Nat) :
    (o.illegal d).att = { o.att with faults := o.att.faults ++ [(d, { code := 2, slot := s.cur.slot, r1 := s.cur.bundle })] } := by
  rw [State.illegal, State.fault, hcur]
  rfl

end

/-! ### Effects that move no context and withhold nothing -/

/-- The cursor, the column contexts, the launches, the sockets and every blotter are the same. -/
structure Quiet (t u : State) : Prop where
  cur : t.cur = u.cur
  launches : t.launches = u.launches
  sockets : t.sockets = u.sockets
  cc : t.cc = u.cc
  blot : ∀ k, (t.getCd k).blot = (u.getCd k).blot

section

variable {s t u : State} {h : Hdr}

theorem Quiet.refl (u : State) : Quiet u u := ⟨rfl, rfl, rfl, rfl, fun _ => rfl⟩

theorem Quiet.trans {v : State} (h : Quiet t u) (g : Quiet u v) : Quiet t v :=
  ⟨h.cur.trans g.cur, h.launches.trans g.launches, h.sockets.trans g.sockets, h.cc.trans g.cc, fun k => (h.blot k).trans (g.blot k)⟩

theorem Quiet.sameSeat (h : Quiet t u) : SameSeat t u := by
  refine ⟨h.cur, h.launches, h.sockets, ?_, ?_⟩ <;> rw [State.getCc, State.getCc, h.cc]

theorem Quiet.blotCount (h : Quiet t u) : t.blotCount u.cc0 = u.blotCount u.cc0 := by
  simp only [State.blotCount, h.sameSeat.liveOf, h.blot]

theorem Quiet.updCore (h : Quiet t u) (k : Nat) (F : Core → Core) (hF : ∀ c, (F c).fw = c.fw) : Quiet (t.updCore k F) u :=
  ⟨h.cur, h.launches, h.sockets, h.cc, fun j => by rw [State.getCd_updCore _ _ _ _ hF]; exact h.blot j⟩

theorem Quiet.updCd (h : Quiet t u) (k : Nat) (F : CtxDie → CtxDie) (hF : ∀ c, (F c).blot = c.blot) : Quiet (t.updCd k F) u := by
  have e : ∀ v : State, (v.updCd k F).cur = v.cur ∧ (v.updCd k F).launches = v.launches ∧ (v.updCd k F).sockets = v.sockets ∧ (v.updCd k F).cc = v.cc := fun v => by
    unfold State.updCd State.setCd
    split <;> exact ⟨rfl, rfl, rfl, rfl⟩
  obtain ⟨h1, h2, h3, h4⟩ := e t
  refine ⟨h1.trans h.cur, h2.trans h.launches, h3.trans h.sockets, h4.trans h.cc, fun j => ?_⟩
  by_cases hj : j = k
  · rw [hj, State.getCd_updCd_same, hF, h.blot]
  · rw [State.getCd_updCd_other _ _ _ _ hj, h.blot]

/-- An update that keeps the tables of contexts and cores. -/
theorem Quiet.of_eq (h : Quiet t u) {t' : State} (hcur : t'.cur = t.cur) (hl : t'.launches = t.launches) (hs : t'.sockets = t.sockets)
    (hcc : t'.cc = t.cc) (hcd : t'.cd = t.cd) (hcore : t'.core = t.core) : Quiet t' u :=
  ⟨hcur.trans h.cur, hl.trans h.launches, hs.trans h.sockets, hcc.trans h.cc, fun k => by
    rw [← h.blot k]; simp only [State.getCd, State.getCore, hcd, hcore]⟩

theorem effects_quiet {eff : Nat → State → State} (heff : ∀ d x, Quiet x s → Quiet (eff d x) s) (ds : List Nat) : Quiet (effects eff ds s) s := by
  suffices ∀ x, Quiet x s → Quiet (effects eff ds x) s from this s (Quiet.refl s)
  induction ds with
  | nil => exact fun x hx => hx
  | cons d ds ih => exact fun x hx => ih _ (heff d x hx)

/-! ### The signals and the results of an operation on a die -/

theorem Quiet.given (hq : Quiet t u) (d : Nat) : Quiet (given s h d t) u := by
  unfold Claims.given State.signal
  split
  · exact hq
  · refine hq.updCore _ _ fun c => ?_
    rfl

theorem Quiet.givenAt (hq : Quiet t u) (due d : Nat) : Quiet (givenAt s h due d t) u := by
  unfold Claims.givenAt
  split
  · exact hq
  · refine hq.updCore _ _ fun c => ?_
    rfl

theorem Quiet.leave (hq : Quiet t u) (d : Nat) (l : List Pend) : Quiet (Claims.leave s d l t) u := by
  refine hq.updCd _ _ fun c => ?_
  rfl

theorem Fresh.given {d e : Nat} (hf : Fresh s t e) (hne : e ≠ d) : Fresh s (given s h d t) e := by
  unfold Claims.given State.signal
  split
  · exact hf
  · refine hf.updCore hne _ fun c => ?_
    rfl

theorem Fresh.givenAt {d e : Nat} (hf : Fresh s t e) (hne : e ≠ d) (due : Nat) : Fresh s (givenAt s h due d t) e := by
  unfold Claims.givenAt
  split
  · exact hf
  · refine hf.updCore hne _ fun c => ?_
    rfl

theorem Fresh.leave {d e : Nat} (hf : Fresh s t e) (hne : e ≠ d) (hk : s.ck0 d < 1024) (l : List Pend) : Fresh s (Claims.leave s d l t) e :=
  hf.updCd hne hk _

theorem given_keeps (d : Nat) : (given s h d t).att = t.att ∧ (given s h d t).cur = t.cur ∧ (given s h d t).clock = t.clock := by
  unfold Claims.given State.signal
  split <;> exact ⟨rfl, rfl, rfl⟩

theorem givenAt_keeps (due d : Nat) : (givenAt s h due d t).att = t.att ∧ (givenAt s h due d t).cur = t.cur ∧ (givenAt s h due d t).clock = t.clock := by
  unfold Claims.givenAt
  split <;> exact ⟨rfl, rfl, rfl⟩

theorem State.updCd_keeps (k : Nat) (F : CtxDie → CtxDie) : (t.updCd k F).att = t.att ∧ (t.updCd k F).cur = t.cur ∧ (t.updCd k F).clock = t.clock := by
  unfold State.updCd State.setCd
  split <;> exact ⟨rfl, rfl, rfl⟩

theorem State.signalNow_eq {o : State} (hcur : o.cur = s.cur) (d : Nat) : o.signalNow d h = given s h d o := by
  rw [State.signalNow, hcur]
  rfl

theorem State.signalAt_eq {o : State} (hcur : o.cur = s.cur) (due d : Nat) : o.signalAt d h due = givenAt s h due d o := by
  unfold State.signalAt givenAt
  rw [State.updCoreD, hcur, State.ck0, State.cc0, hcur]
  rfl

end

end Sys2Proof.Machine

namespace Sys2Proof.Claims

open Machine

variable {s t u : State} {ds : List Nat}

theorem Issued.given (hi : Issued s t u ds) (h : Hdr) (d : Nat) : Issued s (given s h d t) (given s h d u) ds := by
  unfold Claims.given State.signal
  split
  · exact hi
  · refine hi.updCore _ _ fun c => ?_
    rfl

theorem Issued.givenAt (hi : Issued s t u ds) (h : Hdr) (due d : Nat) : Issued s (givenAt s h due d t) (givenAt s h due d u) ds := by
  unfold Claims.givenAt
  split
  · exact hi
  · refine hi.updCore _ _ fun c => ?_
    rfl

theorem Issued.leave (hi : Issued s t u ds) {d : Nat} (hk : s.ck0 d < 1024) (l : List Pend) :
    Issued s (Claims.leave s d l t) (Claims.leave s d l u) ds := by
  refine hi.updCd _ hk _ (fun x y e => ?_) fun x y e => ?_
  · unfold KeptCd at *
    rw [e]
  · have hp := (sameCd_iff.1 e).2
    exact congrArg (· ++ l) hp

/-- Latches of the cursor's context on a die of the operation replaced on one side. -/
theorem Issued.setSlots (hi : Issued s t u ds) {d : Nat} (hd : d ∈ ds) (hk : s.ck0 d < 1024) (sl : SMap SlotDie) :
    Issued s (t.setSlots (s.ck0 d) sl) u ds := by
  have e : ∀ v : State, v.setSlots (s.ck0 d) sl = { v with cd := (v.setSlots (s.ck0 d) sl).cd } := fun v => by
    simp only [State.setSlots, State.updCd, State.setCd, if_pos (Or.inl hk : s.ck0 d < 1024 ∨ 2048 ≤ s.ck0 d)]
  have hrel := hi.rel
  have hcc : (t.setSlots (s.ck0 d) sl).cc = t.cc := by rw [e]
  refine ⟨?_, fun k hne => ?_, fun d' hd' => ?_, fun k hne => ?_, ?_⟩
  · rw [e]
    exact hrel.rest
  · rw [State.setSlots, State.getCd_updCd_other _ _ _ _ (hne d hd)]
    exact hrel.other k hne
  · by_cases hdd : s.ck0 d' = s.ck0 d
    · rw [hdd, State.setSlots, State.getCd_updCd_same]
      have := hi.sameAt (s.ck0 d)
      unfold SameCd at *
      rw [this]
    · rw [State.setSlots, State.getCd_updCd_other _ _ _ _ hdd]
      exact hi.sameAt _
  · rw [State.getCc, hcc]
    exact hrel.otherCc k hne
  · rw [State.getCc, hcc]
    exact hrel.keptCc

end Sys2Proof.Claims

namespace Sys2Proof.Machine

open Claims

theorem Fresh.setSlots {s o : State} {d e : Nat} (hf : Fresh s o e) (hne : e ≠ d) (hk : s.ck0 d < 1024) (sl : SMap SlotDie) :
    Fresh s (o.setSlots (s.ck0 d) sl) e := hf.updCd hne hk _

end Sys2Proof.Machine
end

section
/-! SUPPORT. CSRs (R318, R319): which numbers are assigned, and what CSRR and CSRW do. -/

set_option Elab.async false

namespace Sys2Proof.Machine

open Claims

/-! ### Assigned numbers (R319) -/

theorem assigned_iff {n : Nat} : assigned n ↔ (0x010 ≤ n ∧ n ≤ 0x013) ∨ (0x020 ≤ n ∧ n ≤ 0x02A) ∨ (0x040 ≤ n ∧ n ≤ 0x048) ∨ n = 0x050 ∨
    (0x058 ≤ n ∧ n ≤ 0x059) ∨ (0x060 ≤ n ∧ n ≤ 0x065) ∨ n = 0x070 ∨ n = 0x080 ∨ n = 0x0A0 ∨ (0x0A4 ≤ n ∧ n ≤ 0x0B3) ∨ n = 0x0B8 ∨
    (0x0C0 ≤ n ∧ n ≤ 0x0C1) ∨ (0x0C4 ≤ n ∧ n ≤ 0x0C5) ∨ (0x0C8 ≤ n ∧ n ≤ 0x0CB) ∨ (0x0D0 ≤ n ∧ n ≤ 0x0D2) ∨ (0x0D8 ≤ n ∧ n ≤ 0x0DA) ∨
    n = 0x0E0 ∨ n = 0x0F0 ∨ (0x100 ≤ n ∧ n ≤ 0x1FF) := by
  simp only [assigned, csrRanges, List.exists_mem_cons_iff, List.not_mem_nil, false_and, exists_false, or_false]
  omega

theorem isSome_ite_some {α : Type} {c : Prop} [Decidable c] {x : α} {y : Option α} : (if c then some x else y).isSome = true ↔ c ∨ y.isSome = true := by
  by_cases h : c <;> simp [h]

theorem csrRead_isSome_iff (s : State) (d cc n : Nat) : (s.csrRead d cc n).isSome = true ↔ assigned n := by
  rw [assigned_iff]
  unfold State.csrRead
  dsimp only
  iterate 8 rw [isSome_ite_some]
  simp only [Bool.and_eq_true, decide_eq_true_eq]
  generalize (if ((s.getPart (s.partOf cc)).guest && !Nat.ble 128 cc) = true then _ else (s.getCore (coreKey d (ccCol cc))).szref) = x
  split
  case h_38 =>
    rw [Option.isSome_none]
    simp only [Bool.false_eq_true, or_false, imp_false] at *
    constructor <;> intro h <;> omega

  all_goals simp

/-! ### CSRR and CSRW (R318) -/

/-- R318: a number of more than twelve bits has no CSR, as no such number is assigned. -/
theorem csrNumber {s : State} (d cc n : Nat) : (if n > 0xFFF then none else s.csrRead d cc n) = s.csrRead d cc n := by
  split
  next h =>
    have hna : ¬assigned n := by rw [assigned_iff]; omega
    have := mt (csrRead_isSome_iff s d cc n).1 hna
    exact (Option.not_isSome_iff_eq_none.1 this).symm
  next => rfl

theorem csrRead_of_not_assigned {n : Nat} (h : ¬assigned n) (s : State) (d cc : Nat) : s.csrRead d cc n = none :=
  Option.not_isSome_iff_eq_none.1 (mt (csrRead_isSome_iff s d cc n).1 h)

/-- R319: what a CSR reads as depends on no other context. -/
theorem csrRead_of_sameBut {s o : State} {d cc n : Nat} (h : SameBut o s.noAtt) (hcd : o.getCd (ccCk d cc) = s.getCd (ccCk d cc)) :
    o.csrRead d cc n = s.csrRead d cc n := by
  have ho : o = { s.noAtt with cd := o.cd } := by rw [← h]
  rw [ho] at hcd ⊢
  unfold State.csrRead
  rw [hcd]
  rfl

theorem csrr_delivers {s : State} {h : Hdr} {f : FRIMM} (hready : Ready s h) (hassigned : assigned f.imm.toNat)
    (hok : ∀ d ∈ s.enabled h, Writable s d .s f.dst.n) :
    Delivers (.csrr h f) s h 1 .s f.dst.n (fun d => BitVec.ofNat 512 ((s.csrRead d s.cc0 f.imm.toNat).getD 0 % 2 ^ 64))
      (fun _ => BitVec.allOnes 512) (fun _ => 0) 0 := by
  refine State.attempt_delivers _ s h _ 1 .s f.dst.n _ _ _ _ (fun d => (s.ctxD d).ws.slots) hready (opCsrr h f) rfl rfl fun d hd o hsame hcd => ?_
  obtain ⟨v, hv⟩ := Option.isSome_iff_exists.1 ((csrRead_isSome_iff s d s.cc0 f.imm.toNat).2 hassigned)
  dsimp only
  rw [csrNumber, hsame.cc0, show s.noAtt.cc0 = s.cc0 from rfl, csrRead_of_sameBut hsame hcd, hv, Option.getD_some]
  exact (Sees.start hsame hcd).result (State.enabled_lt hd) (cc0_lt hready.col hready.ctx) (hok d hd) h _ _ _ _ _

/-- R318: the write that CSRW queues on a die. -/
def csrwQueued (s : State) (f : FRIMM) (d : Nat) (x : State) : State :=
  x.updCore (coreKey d s.cur.col) fun c => { c with csrw := c.csrw ++ [{ ctx := s.cur.ctx, num := f.imm.toNat, val := BitVec.ofNat 64 (sreg s d f.srcA) }] }

theorem csrw_acts {s : State} {h : Hdr} {f : FRIMM} (hassigned : assigned f.imm.toNat) (hok : ∀ d ∈ s.enabled h, Settled s d .s f.srcA.n) :
    Acts s h (fun d s =>
      let (v, s) := s.rdS d f.srcA
      match (if f.imm.toNat > 0xFFF then none else s.csrRead d s.cc0 f.imm.toNat) with
      | none => s.illegal d
      | some _ =>
        let s := s.updCoreD d fun c => { c with csrw := c.csrw ++ [{ ctx := s.cur.ctx, num := f.imm.toNat, val := BitVec.ofNat 64 v }] }
        s.signalNow d h) (fun d x => given s h d (csrwQueued s f d x)) (fun _ => {}) (fun _ _ => True) := by
  intro done d o hd hissued hatt hfresh _
  obtain ⟨w, hw⟩ := Option.isSome_iff_exists.1 ((csrRead_isSome_iff o d o.cc0 f.imm.toNat).2 hassigned)
  have hbody : o.updCoreD d (fun c => { c with csrw := c.csrw ++ [{ ctx := o.cur.ctx, num := f.imm.toNat, val := BitVec.ofNat 64 (sreg s d f.srcA) }] }) =
      csrwQueued s f d o := by rw [State.updCoreD, hfresh.cur]; rfl
  dsimp only
  rw [hfresh.looks.rdS (hok d hd), csrNumber, hw]
  dsimp only
  rw [hbody, State.signalNow_eq (s := s) (show (csrwQueued s f d o).cur = s.cur from hfresh.cur), (given_keeps d).1]
  exact ⟨(hissued.updCore _ _ fun _ => by rfl).given h d, hatt, fun e _ hne hf _ => ⟨(hf.updCore hne _ fun _ => by rfl).given hne, trivial⟩⟩

theorem csrw_does {s : State} {h : Hdr} {f : FRIMM} (hready : Ready s h) (hassigned : assigned f.imm.toNat)
    (hok : ∀ d ∈ s.enabled h, Settled s d .s f.srcA.n) :
    Does (.csrw h f) s h (signals s h) (fun d x => given s h d (csrwQueued s f d x)) := by
  have hq : Quiet (effects (fun d x => given s h d (csrwQueued s f d x)) (s.enabled h) s) s :=
    effects_quiet (fun d x hx => (hx.updCore _ _ fun _ => by rfl).given d) _
  exact does_of_acts (fun _ _ => True) hready rfl (csrw_acts hassigned hok) (fun _ _ => trivial) rfl (Plain.of_signals _ _) rfl rfl hq.sameSeat
    (hq.blotCount ▸ hready.blot)

theorem csr_faults {s : State} {h : Hdr} {f : FRIMM} (hready : Ready s h) (hne : s.enabled h ≠ []) (hna : ¬assigned f.imm.toNat) :
    Faults (.csrr h f) s h (fun _ => { code := 2 }) ∧
      ((∀ d ∈ s.enabled h, Settled s d .s f.srcA.n) → Faults (.csrw h f) s h (fun _ => { code := 2 })) := by
  have hnone (o : State) (d : Nat) : (if f.imm.toNat > 0xFFF then none else o.csrRead d o.cc0 f.imm.toNat) = none := by
    rw [csrNumber, csrRead_of_not_assigned hna]
  refine ⟨faults_of_refuses (fun _ _ => True) hready rfl hne (fun d o _ hf _ => ?_) fun _ _ => trivial,
    fun hok => faults_of_refuses (fun _ _ => True) hready rfl hne (fun d o hd hf _ => ?_) fun _ _ => trivial⟩
  · dsimp only
    rw [hnone]
    exact ⟨State.illegal_att hf.cur d, rfl, fun e _ _ he _ => ⟨he.illegal, trivial⟩⟩
  · dsimp only
    rw [hf.looks.rdS (hok d hd), hnone]
    exact ⟨State.illegal_att hf.cur d, rfl, fun e _ _ he _ => ⟨he.illegal, trivial⟩⟩

/-- Settles O16. -/
theorem csrAccess : Obligations.CsrAccess :=
  ⟨csrRead_isSome_iff, fun _ _ _ hready ha hok => csrr_delivers hready ha hok, fun _ _ _ hready ha hok => csrw_does hready ha hok,
    fun _ _ _ hready hne hna => csr_faults hready hne hna⟩

end Sys2Proof.Machine
end

section
/-! SUPPORT. Class BR (R55, R69, R88, R224, R225, R307, R327, R330, R336, R337) and the operations that complete at their issue (R334). -/

set_option Elab.async false

namespace Sys2Proof.Machine

open Claims

/-! ### Operations that only wait and signal at their issue -/

section

variable {s : State} {h : Hdr}

theorem effects_given_keeps (ds : List Nat) (x : State) : (effects (given s h) ds x).cd = x.cd ∧ (effects (given s h) ds x).att = x.att ∧
    (effects (given s h) ds x).freeCtr = x.freeCtr ∧ ∀ k, (effects (given s h) ds x).getCd k = x.getCd k := by
  induction ds generalizing x with
  | nil => exact ⟨rfl, rfl, rfl, fun _ => rfl⟩
  | cons d ds ih =>
    obtain ⟨h1, h2, h3, h4⟩ := ih (given s h d x)
    have hone : (given s h d x).cd = x.cd ∧ (given s h d x).att = x.att ∧ (given s h d x).freeCtr = x.freeCtr ∧ ∀ k, (given s h d x).getCd k = x.getCd k := by
      unfold Claims.given State.signal
      split
      · exact ⟨rfl, rfl, rfl, fun _ => rfl⟩
      · refine ⟨rfl, rfl, rfl, fun k => State.getCd_updCore _ _ _ _ fun c => ?_⟩
        rfl
    obtain ⟨g1, g2, g3, g4⟩ := hone
    exact ⟨h1.trans g1, h2.trans g2, h3.trans g3, fun k => (h4 k).trans (g4 k)⟩

theorem effects_given_quiet (ds : List Nat) : Quiet (effects (given s h) ds s) s := effects_quiet (fun d _ hx => hx.given d) ds

theorem given_acts (A : Att) : Acts s h (fun d s => s.signalNow d h) (given s h) (fun _ => A) (fun _ _ => True) := by
  intro done d o _ hissued hatt hfresh _
  dsimp only
  rw [State.signalNow_eq hfresh.cur, (given_keeps d).1]
  exact ⟨hissued.given h d, hatt, fun e _ hne hf _ => ⟨hf.given hne, trivial⟩⟩

/-- R62: the waits and signals of such an operation, at the start of an attempt. -/
theorem atIssue_eq (hready : Ready s h) :
    s.noAtt.atIssue h = if signals s h then (effects (given s h) (s.enabled h) s.noAtt).splices else effects (given s h) (s.enabled h) s.noAtt := by
  have hfold := foldl_each (f := fun o d => State.signalNow (o.waitOn d h) d h) (Q := fun done o => o = effects (given s h) done s.noAtt)
    (P := fun d o => Fresh s o d) (s.enabled h) [] s.noAtt (s.enabled_nodup h) rfl (fun d _ => Fresh.start s _ d) (by
      intro done d o hd ho hfresh
      rw [hfresh.waitOn (hready.wait d hd), State.signalNow_eq hfresh.cur, ho, effects_append]
      rw [ho] at hfresh
      exact ⟨rfl, fun e _ hne hf => (show Fresh s (effects (given s h) done s.noAtt) e from ho ▸ hf).given hne⟩)
  rw [State.atIssue, State.onDies]
  change (if (h.sigSem != 0#8 && !(s.enabled h).isEmpty) = true then State.splices ((s.enabled h).foldl _ _) else (s.enabled h).foldl _ _) = _
  rw [hfold]
  rfl

theorem SameSeat.enabled {u : State} (hs : SameSeat u s) : u.enabled h = s.enabled h := by
  simp only [State.enabled, State.onDie, hs.cc0, State.dieLive, State.getSocket, hs.sockets, State.ctxLaunch, State.launch?, hs.launch, hs.launches, hs.cur]

theorem SameSeat.kernelOf {u : State} (hs : SameSeat u s) : u.kernelOf s.cc0 = s.kernelOf s.cc0 := by
  simp only [State.kernelOf, State.ctxLaunch, State.launch?, hs.launch, hs.launches]

end

end Sys2Proof.Machine

namespace Sys2Proof.Claims

open Machine

theorem Issued.sameSeat {s t u : State} {ds : List Nat} (hi : Issued s t u ds) (hu : SameSeat u s) : SameSeat t s := by
  have hrest := hi.rel.rest
  have hk := hi.rel.keptCc
  exact ⟨(congrArg State.cur hrest :).trans hu.cur, (congrArg State.launches hrest :).trans hu.launches, (congrArg State.sockets hrest :).trans hu.sockets,
    (congrArg ColCtx.st hk :).trans hu.st, (congrArg ColCtx.launch hk :).trans hu.launch⟩

theorem Issued.cs {s t u : State} {ds : List Nat} (hi : Issued s t u ds) : (t.getCc s.cc0).cs = (u.getCc s.cc0).cs :=
  (congrArg ColCtx.cs hi.rel.keptCc :)

end Sys2Proof.Claims

namespace Sys2Proof.Machine

open Claims

section

variable {s : State} {h : Hdr}

/-- R334, R75. -/
theorem nop_does (cls : BitVec 4) (hready : Ready s h) : Does (.nop h cls) s h (signals s h) (given s h) :=
  does_of_acts (fun _ _ => True) hready rfl (given_acts {}) (fun _ _ => trivial) rfl (Plain.of_signals s h) rfl rfl
    (effects_given_quiet _).sameSeat ((effects_given_quiet (h := h) _).blotCount ▸ hready.blot)

/-- The state of an attempt after the waits and signals at issue: what a column-wide operation starts from. -/
structure Started (s : State) (h : Hdr) (o : State) : Prop where
  issued : Issued s o (effects (given s h) (s.enabled h) s) (s.enabled h)
  att : o.att = if signals s h then { splice := true } else {}
  free : o.freeCtr = s.freeCtr
  cd : ∀ k, o.getCd k = s.getCd k
  cc : o.cc = s.cc

theorem atIssue_started (hready : Ready s h) : Started s h (s.noAtt.atIssue h) := by
  have hacts : Issued s (s.noAtt.atIssue h) (effects (given s h) (s.enabled h) s) (s.enabled h) := by
    obtain ⟨o, ho, hissued, -⟩ := onDies_issued hready (given_acts {}) (fun _ _ => trivial)
    change s.noAtt.atIssue h = _ at ho
    rw [ho]
    split
    · exact hissued
    · exact hissued
  obtain ⟨-, hatt, hfree, hcd⟩ := effects_given_keeps (s := s) (h := h) (s.enabled h) s.noAtt
  have hcc : (effects (given s h) (s.enabled h) s.noAtt).cc = s.cc := by
    have : ∀ ds (x : State), (effects (given s h) ds x).cc = x.cc := fun ds x => by
      refine foldl_keeps State.cc _ (fun y d => ?_) ds x
      unfold Claims.given State.signal
      split <;> rfl
    exact this _ _
  refine ⟨hacts, ?_, ?_, ?_, ?_⟩ <;> rw [atIssue_eq hready]
  · split
    · exact congrArg (fun a : Att => { a with splice := true }) hatt
    · exact hatt
  · split <;> exact hfree
  · intro k
    split <;> exact hcd k
  · split <;> exact hcc

theorem Started.seat {o : State} (ho : Started s h o) : SameSeat o s := ho.issued.sameSeat (effects_given_quiet _).sameSeat

theorem Started.looks {o : State} (ho : Started s h o) (d : Nat) : Looks o s d (s.ctxD d).ws.slots := by
  refine ⟨ho.seat.cur, ?_, ho.cd _⟩
  have h1 : o.clock = (effects (given s h) (s.enabled h) s).clock := (congrArg State.clock ho.issued.rel.rest :)
  rw [h1]
  exact foldl_keeps State.clock _ (fun y d => (given_keeps d).2.2) _ s

/-! ### Branches (R69, R307) -/

/-- The column state of the cursor's context and its seat are as before the attempt. -/
structure Rooted (s o : State) : Prop where
  seat : SameSeat o s
  cs : (o.getCc s.cc0).cs = (s.getCc s.cc0).cs

theorem Started.rooted {o : State} (ho : Started s h o) : Rooted s o := ⟨ho.seat, by rw [State.getCc, ho.cc]; rfl⟩

theorem Rooted.cs0 {o : State} (ho : Rooted s o) : o.cs0 = (s.getCc s.cc0).cs := by rw [State.cs0, ho.seat.cc0, ho.cs]

theorem Rooted.branchTarget {o : State} (ho : Rooted s o) {f : FBR} {k : Kernel} {p : Pos} (ht : Target s f k p) : o.branchTarget f = some p := by
  obtain ⟨hk, hreel, hoff, hlt⟩ := ht
  unfold State.branchTarget
  dsimp only
  rw [ho.cs0, ho.seat.cc0, ho.seat.kernelOf, hk]
  dsimp only
  rw [← hoff, if_pos ⟨Int.natCast_nonneg _, by exact_mod_cast hlt⟩, Int.toNat_natCast, ← hreel]

theorem Rooted.branchTarget_none {o : State} (ho : Rooted s o) {f : FBR} {k : Kernel} (ht : NoTarget s f k) : o.branchTarget f = none := by
  obtain ⟨hk, hout⟩ := ht
  unfold State.branchTarget
  dsimp only
  rw [ho.cs0, ho.seat.cc0, ho.seat.kernelOf, hk]
  dsimp only
  rw [if_neg]
  omega

/-! ### Column-wide faults -/

theorem State.illegalAll_keeps {o : State} (hs : SameSeat o s) : (o.illegalAll h).freeCtr = o.freeCtr ∧
    (o.illegalAll h).att.faults = o.att.faults ++ (s.enabled h).map fun d => (d, { code := 2, slot := s.cur.slot, r1 := s.cur.bundle }) := by
  rw [State.illegalAll, hs.enabled]
  generalize s.enabled h = ds
  have hcur := hs.cur
  clear hs
  induction ds generalizing o with
  | nil => exact ⟨rfl, (List.append_nil _).symm⟩
  | cons d ds ih =>
    obtain ⟨h1, h2⟩ := ih (o := o.illegal d) hcur
    refine ⟨h1, h2.trans ?_⟩
    rw [State.illegal_att hcur]
    simp

/-- R69: a column-wide operation that is illegal on every die. -/
theorem faults_of_illegalAll {i : Instr} {op : State → State} (hexec : exec i s = s.attempt op) (hne : s.enabled h ≠ []) {o : State}
    (hop : op s.noAtt = o.illegalAll h) (hs : SameSeat o s) (hfree : o.freeCtr = s.freeCtr) (hfaults : o.att.faults = []) :
    Faults i s h (fun _ => { code := 2 }) := by
  obtain ⟨h1, h2⟩ := State.illegalAll_keeps (h := h) hs
  rw [hfaults, List.nil_append] at h2
  refine faults_of_attempt hexec (by rw [hop, h1, hfree]) (by rw [hop, h2]) (.inl ?_)
  rw [hop, h2]
  obtain ⟨d, hd⟩ := List.exists_mem_of_ne_nil _ hne
  exact List.any_eq_true.2 ⟨_, List.mem_map.2 ⟨d, hd, rfl⟩, rfl⟩

theorem Started.faults {o : State} (ho : Started s h o) {i : Instr} {op : State → State} (hexec : exec i s = s.attempt op) (hne : s.enabled h ≠ [])
    (hop : op s.noAtt = o.illegalAll h) : Faults i s h (fun _ => { code := 2 }) :=
  faults_of_illegalAll hexec hne hop ho.seat ho.free (by rw [ho.att]; split <;> rfl)

/-! ### BRA and BRC -/

theorem isEmpty_enabled {o : State} (hs : SameSeat o s) (hne : s.enabled h ≠ []) : (o.enabled h).isEmpty = false := by
  rw [hs.enabled]
  simpa using hne

/-- A column-wide operation that transfers, or asks for a splice and faults after it. -/
theorem does_of_start {o' u : State} (hready : Ready s h) {i : Instr} {op : State → State} (hexec : exec i s = s.attempt op)
    (hop : op s.noAtt = o') {b : Bool} {tr : List (Nat × FRec)} (ha : Plain o'.att b tr) (hvm : o'.att.vm = []) {col : State → State}
    (hu : Issued s o' u (s.enabled h)) (hseat : SameSeat u s) (hblot : ∀ k, (u.getCd k).blot = (s.getCd k).blot)
    (hcol : col (effects (given s h) (s.enabled h) s) = u.takeXfer s.cc0 o'.att.xfer) : Does i s h b (given s h) col tr := by
  subst hop
  refine does_of_issued hready hexec ha hu hseat ?_ (.inl (by rw [hvm]; decide)) ?_
  · have : u.blotCount s.cc0 = s.blotCount s.cc0 := by simp only [State.blotCount, hseat.liveOf, hblot]
    rw [this]
    exact hready.blot
  · rw [hvm]
    exact hcol

theorem Started.plain {o : State} (ho : Started s h o) (x : Option Xfer) : Plain { o.att with xfer := x } (signals s h) [] := by
  rw [ho.att]
  cases signals s h <;> exact ⟨rfl, rfl, rfl, rfl, rfl, rfl, rfl, rfl, rfl, rfl⟩

theorem Started.vm {o : State} (ho : Started s h o) : o.att.vm = [] := by
  rw [ho.att]
  split <;> rfl

theorem Started.xfer {o : State} (ho : Started s h o) : o.att.xfer = none := by
  rw [ho.att]
  split <;> rfl

/-- R55: an operation that then takes its transfer, where `taken` says so. -/
theorem Started.does_transfer {o : State} (ho : Started s h o) (hready : Ready s h) {i : Instr} {op : State → State} (hexec : exec i s = s.attempt op)
    {p : Option Pos} {taken : Bool} (hop : op s.noAtt = if taken then o.transfer p else o) :
    Does i s h (signals s h) (given s h) (if taken then transferTo s p false else id) := by
  have hq := effects_given_quiet (s := s) (h := h) (s.enabled h)
  cases taken with
  | false =>
    refine does_of_start hready hexec hop ?_ ho.vm ho.issued hq.sameSeat hq.blot ?_
    · have := ho.plain o.att.xfer
      exact this
    · change _ = State.takeXfer _ _ o.att.xfer
      rw [ho.xfer]
      rfl
  | true => exact does_of_start hready hexec hop (ho.plain _) ho.vm ho.issued hq.sameSeat hq.blot rfl

theorem Rooted.branch {o : State} (ho : Rooted s o) (hne : s.enabled h ≠ []) {f : FBR} {k : Kernel} {p : Pos} (ht : Target s f k p) (taken : Bool) :
    o.branch h f taken = if taken then o.transfer (some p) else o := by
  rw [State.branch, isEmpty_enabled ho.seat hne, ho.branchTarget ht]
  rfl

theorem Rooted.branch_none {o : State} (ho : Rooted s o) (hne : s.enabled h ≠ []) {f : FBR} {k : Kernel} (ht : NoTarget s f k) (taken : Bool) :
    o.branch h f taken = o.illegalAll h := by
  rw [State.branch, isEmpty_enabled ho.seat hne, ho.branchTarget_none ht]
  rfl

/-- R88: the flags that BRC tests. -/
def brcFlag (s : State) (f : FBR) (d : Nat) : Bool := (s.ctxD d).ws.f.getLsbD f.freg.toNat != f.finv

theorem getLsbD_reg_flag (s : State) (d n : Nat) : (reg s d .f n).getLsbD 0 = (s.ctxD d).ws.f.getLsbD n := getLsbD_reg_f s d n

theorem Started.flagsOn {o : State} (ho : Started s h o) {f : FBR} (hflags : ∀ d ∈ s.enabled h, Settled s d .f f.freg.toNat) :
    o.flagsOn f (s.enabled h) = ((s.enabled h).map (brcFlag s f), o) := by
  generalize s.enabled h = ds at hflags
  induction ds with
  | nil => rfl
  | cons d ds ih =>
    rw [State.flagsOn, (ho.looks d).rdReg (hflags d (by simp))]
    dsimp only
    rw [ih fun e he => hflags e (by simp [he]), getLsbD_reg_flag]
    rfl

theorem bra_does (hready : Ready s h) (hne : s.enabled h ≠ []) {f : FBR} {k : Kernel} {p : Pos} (ht : Target s f k p) :
    Does (.bra h f) s h (signals s h) (given s h) (transferTo s (some p) false) :=
  (atIssue_started hready).does_transfer (taken := true) hready rfl ((atIssue_started hready).rooted.branch hne ht true)

theorem branchTaken_map (any : Bool) {ds : List Nat} (hne : ds ≠ []) (g : Nat → Bool) :
    branchTaken any (ds.map g) = if any then ds.any g else ds.all g := by
  have : (ds.map g).isEmpty = false := by simpa using hne
  rw [branchTaken, this]
  simp

theorem brc_does (hready : Ready s h) (hne : s.enabled h ≠ []) {f : FBR} {k : Kernel} {p : Pos} (ht : Target s f k p)
    (hflags : ∀ d ∈ s.enabled h, Settled s d .f f.freg.toNat) :
    Does (.brc h f) s h (signals s h) (given s h)
      (if (if f.any then (s.enabled h).any (brcFlag s f) else (s.enabled h).all (brcFlag s f)) then transferTo s (some p) false else id) := by
  have ho := atIssue_started hready
  refine ho.does_transfer hready rfl ?_
  unfold opBrc
  dsimp only
  rw [ho.seat.enabled, ho.flagsOn hflags, ho.rooted.branch hne ht, branchTaken_map _ hne]

theorem bra_faults (hready : Ready s h) (hne : s.enabled h ≠ []) {f : FBR} {k : Kernel} (ht : NoTarget s f k) :
    Faults (.bra h f) s h (fun _ => { code := 2 }) :=
  (atIssue_started hready).faults rfl hne ((atIssue_started hready).rooted.branch_none hne ht true)

theorem brc_faults (hready : Ready s h) (hne : s.enabled h ≠ []) {f : FBR} {k : Kernel} (ht : NoTarget s f k)
    (hflags : ∀ d ∈ s.enabled h, Settled s d .f f.freg.toNat) : Faults (.brc h f) s h (fun _ => { code := 2 }) := by
  have ho := atIssue_started hready
  refine ho.faults rfl hne ?_
  unfold opBrc
  dsimp only
  rw [ho.seat.enabled, ho.flagsOn hflags, ho.rooted.branch_none hne ht]

/-! ### LOOP (R330) -/

/-- R330: the count that LOOP leaves on a die. -/
def loopCount (s : State) (f : FBR) (d : Nat) : Nat := ofSigned 64 ((sreg s d f.cnt : Int) - 1)

/-- R330: the result of LOOP on a die. -/
def loopLeaves (s : State) (h : Hdr) (f : FBR) (d : Nat) (x : State) : State :=
  Claims.leave s d [resultOf s h false 1 .s f.cnt.n (BitVec.ofNat 512 (loopCount s f d)) (BitVec.allOnes 512) 0 0] x

/-- R330: what LOOP asks for after some dies. -/
def loopAtt (s : State) (f : FBR) (done : List Nat) : Att := { loopTaken := some (done.any fun d => loopCount s f d != 0) }

theorem loop_acts (hready : Ready s h) {f : FBR} (hok : ∀ d ∈ s.enabled h, Settled s d .s f.cnt.n ∧ Writable s d .s f.cnt.n) :
    Acts s h (fun d s => s.loopDie h f d) (loopLeaves s h f) (loopAtt s f) (fun _ _ => True) := by
  intro done d o hd hissued hatt hfresh _
  obtain ⟨hset, hwr⟩ := hok d hd
  have hk : s.ck0 d < 1024 := ck0_lt (cc0_lt hready.col hready.ctx) (State.enabled_lt hd)
  dsimp only
  unfold State.loopDie
  rw [hfresh.looks.rdS hset]
  dsimp only
  rw [hfresh.looks.result hwr]
  refine ⟨(hissued.leave hk _).att_left _, ?_, fun e _ hne hf _ => ⟨(hf.leave hne hk _).att _, trivial⟩⟩
  rw [Claims.leave, (State.updCd_keeps _ _).1, hatt, loopAtt, loopAtt, List.any_append]
  simp [loopCount]

theorem loop_quiet (f : FBR) : Quiet (effects (loopLeaves s h f) (s.enabled h) s) s := effects_quiet (fun d _ hx => hx.leave d _) _

/-- R330: LOOP once every die has its result. -/
theorem loop_started (hready : Ready s h) {f : FBR} (hok : ∀ d ∈ s.enabled h, Settled s d .s f.cnt.n ∧ Writable s d .s f.cnt.n) :
    ∃ o, State.onDies { s.noAtt with att := { s.noAtt.att with loopTaken := some false } } h (fun d s => s.loopDie h f d) = o ∧
      Issued s o (effects (loopLeaves s h f) (s.enabled h) s) (s.enabled h) ∧
      o.att = { loopAtt s f (s.enabled h) with splice := signals s h } := by
  obtain ⟨o, ho, hissued, hatt⟩ := onDies_issued hready (loop_acts hready hok) (fun _ _ => trivial)
  refine ⟨_, rfl, ?_⟩
  change Issued s (State.onDies { s with att := loopAtt s f [] } h _) _ _ ∧ (State.onDies { s with att := loopAtt s f [] } h _).att = _
  rw [ho]
  cases hs : signals s h with
  | true => exact ⟨hissued, congrArg (fun a : Att => { a with splice := true }) hatt⟩
  | false => exact ⟨hissued, hatt⟩

theorem rooted_of_issued {o u : State} (hi : Issued s o u (s.enabled h)) (hq : Quiet u s) : Rooted s o :=
  ⟨hi.sameSeat hq.sameSeat, hi.cs.trans (by rw [State.getCc, State.getCc, hq.cc])⟩

/-- R330: what LOOP comes to once every die has its result. -/
theorem opLoop_eq {f : FBR} {o : State} (ho : State.onDies { s.noAtt with att := { s.noAtt.att with loopTaken := some false } } h (fun d s => s.loopDie h f d) = o) :
    opLoop h f s.noAtt = { o.branch h f (o.att.loopTaken.getD false) with
      att := { (o.branch h f (o.att.loopTaken.getD false)).att with
        xfer := (o.branch h f (o.att.loopTaken.getD false)).att.xfer.map fun x => { x with loop := true } } } := by
  rw [← ho]
  rfl

/-- R330: LOOP is taken while the count of some die is not zero. -/
def loopTaken (s : State) (h : Hdr) (f : FBR) : Bool := (s.enabled h).any fun d => loopCount s f d != 0

/-- R330: what a LOOP to `p` asks for. -/
def loopAsks (s : State) (h : Hdr) (f : FBR) (p : Pos) : Att :=
  { loopTaken := some (loopTaken s h f), splice := signals s h, xfer := if loopTaken s h f then some ⟨some p, 2, true⟩ else none }

theorem loop_does (hready : Ready s h) (hne : s.enabled h ≠ []) {f : FBR} {k : Kernel} {p : Pos} (ht : Target s f k p)
    (hok : ∀ d ∈ s.enabled h, Settled s d .s f.cnt.n ∧ Writable s d .s f.cnt.n) :
    Does (.loop h f) s h (signals s h) (loopLeaves s h f) (if loopTaken s h f then transferTo s (some p) true else id) := by
  obtain ⟨o, ho, hissued, hatt⟩ := loop_started hready hok
  have hq := loop_quiet (s := s) (h := h) f
  have hop : opLoop h f s.noAtt = { o with att := loopAsks s h f p } := by
    rw [opLoop_eq ho, show o.att.loopTaken.getD false = loopTaken s h f by rw [hatt]; rfl, (rooted_of_issued hissued hq).branch hne ht]
    have hatt' : o.att = { loopTaken := some (loopTaken s h f), splice := signals s h } := hatt
    unfold loopAsks
    cases hl : loopTaken s h f with
    | true =>
      rw [hl] at hatt'
      exact congrArg (fun a : Att => ({ o with att := { a with xfer := some ⟨some p, 2, true⟩ } } : State)) hatt'
    | false =>
      rw [hl] at hatt'
      exact congrArg (fun a : Att => ({ o with att := { a with xfer := a.xfer.map fun x => { x with loop := true } } } : State)) hatt'
  refine does_of_issued (u := effects (loopLeaves s h f) (s.enabled h) s) hready rfl ?_ ?_ hq.sameSeat (hq.blotCount ▸ hready.blot) (.inl ?_) ?_ <;> rw [hop]
  · exact ⟨rfl, rfl, rfl, rfl, rfl, rfl, rfl, rfl, rfl, rfl⟩
  · exact hissued
  · change portExtra [] = 0
    decide
  · change _ = State.takeXfer _ _ (loopAsks s h f p).xfer
    unfold loopAsks
    cases loopTaken s h f <;> rfl

theorem loop_faults (hready : Ready s h) (hne : s.enabled h ≠ []) {f : FBR} {k : Kernel} (ht : NoTarget s f k)
    (hok : ∀ d ∈ s.enabled h, Settled s d .s f.cnt.n ∧ Writable s d .s f.cnt.n) : Faults (.loop h f) s h (fun _ => { code := 2 }) := by
  obtain ⟨o, ho, hissued, hatt⟩ := loop_started hready hok
  have hq := loop_quiet (s := s) (h := h) f
  have hroot := rooted_of_issued hissued hq
  have hfree : o.freeCtr = s.freeCtr := ((congrArg State.freeCtr hissued.rel.rest :) : o.freeCtr = _).trans
    (foldl_keeps State.freeCtr _ (fun x d => by unfold loopLeaves Claims.leave State.updCd State.setCd; split <;> rfl) _ s)
  have hop := opLoop_eq ho
  rw [hroot.branch_none hne ht] at hop
  obtain ⟨h1, h2⟩ := State.illegalAll_keeps (h := h) hroot.seat
  rw [hatt] at h2
  refine faults_of_attempt (op := opLoop h f) rfl (by rw [hop]; exact h1.trans hfree) (by rw [hop]; exact h2) (.inl ?_)
  obtain ⟨d, hd⟩ := List.exists_mem_of_ne_nil _ hne
  rw [hop]
  refine List.any_eq_true.2 ⟨(d, { code := 2, slot := s.cur.slot, r1 := s.cur.bundle }), ?_, rfl⟩
  change _ ∈ (o.illegalAll h).att.faults
  rw [h2]
  exact List.mem_map.2 ⟨d, hd, rfl⟩

/-- Settles O23. -/
theorem branches : Obligations.Branches := by
  intro s h f k hready hne
  exact ⟨fun p ht => ⟨bra_does hready hne ht, brc_does hready hne ht, loop_does hready hne ht⟩,
    fun ht => ⟨bra_faults hready hne ht, brc_faults hready hne ht, loop_faults hready hne ht⟩⟩

end

end Sys2Proof.Machine
end

section
/-! SUPPORT. Translation does not depend on contexts or on what an issue asks for (R116 to R122); CALL, RET and REEL (R307, R336, R337), TRAP and TRET
(R224, R225). -/

set_option Elab.async false

namespace Sys2Proof.Machine

open Claims

/-! ### Storage and translation in a state with other contexts -/

theorem State.writeBytes_wear (c : SMap CtxDie) (x : SMap ColCtx) (a : Att) (l : List Byte) : ∀ (s : State) (loc : Nat),
    (s.wear c x a).writeBytes loc l = (s.writeBytes loc l).wear c x a := by
  induction l with
  | nil => intro s loc; rfl
  | cons b l ih => intro s loc; exact ih (s.writeByte loc b) (loc + 1)

theorem State.store_wear (s : State) (c : SMap CtxDie) (x : SMap ColCtx) (a : Att) (loc : Nat) (l : List Byte) :
    (s.wear c x a).store loc l = (s.store loc l).wear c x a := by
  rw [State.store, State.writeBytes_wear, State.clearPoison_wear]
  rfl

theorem State.readBytes_wear (s : State) (c : SMap CtxDie) (x : SMap ColCtx) (a : Att) (n loc : Nat) :
    (s.wear c x a).readBytes loc n = s.readBytes loc n := State.readBytes_congr (s := s.wear c x a) (t := s) rfl n loc

theorem State.walkFrom_wear (s : State) (c : SMap CtxDie) (x : SMap ColCtx) (a : Att) (va : Nat) : ∀ lvl table,
    (s.wear c x a).walkFrom va lvl table = s.walkFrom va lvl table := by
  intro lvl
  induction lvl with
  | zero =>
    intro table
    unfold State.walkFrom
    dsimp only
    rw [State.readBytes_wear]
    rfl
  | succ l ih =>
    intro table
    unfold State.walkFrom
    dsimp only
    rw [State.readBytes_wear, ih]
    rfl

/-- R118: a walk in such a state. -/
theorem State.walk_wear (s : State) (c : SMap CtxDie) (x : SMap ColCtx) (a : Att) (trb va : Nat) (fw rd wr : Bool) :
    (s.wear c x a).walk trb va fw rd wr = (s.walk trb va fw rd wr).map fun r => (r.1, r.2.wear c x a) := by
  unfold State.walk
  split
  · rfl
  rw [State.walkFrom_wear]
  split
  · rfl
  split
  · rfl
  rw [show (s.wear c x a).walkAssisted = s.walkAssisted from rfl]
  split
  · rfl
  dsimp only
  rw [State.store_wear, Except.map]
  generalize (if s.walkAssisted = true then _ else _ : Nat) = q
  split <;> rfl

theorem State.translate_wear (s : State) (c : SMap CtxDie) (x : SMap ColCtx) (a : Att) (die core : Nat) (acc : Acc) (trb va : Nat) (fw rd wr : Bool) :
    (s.wear c x a).translate die core acc trb va fw rd wr =
      ((s.translate die core acc trb va fw rd wr).1, (s.translate die core acc trb va fw rd wr).2.wear c x a) := by
  have hget : (s.wear c x a).getDie die = s.getDie die := rfl
  have hcore : (s.wear c x a).getCore (coreKey die core) = s.getCore (coreKey die core) := rfl
  have hwalk := s.walk_wear c x a trb va fw rd wr
  unfold State.translate
  dsimp only
  rw [hget, hcore, hwalk]
  split
  · rfl
  split
  · rfl
  split
  · rfl
  split
  · rfl
  split
  · rfl
  split
  · split
    · rfl
    · cases s.walk trb va fw rd wr <;> rfl
  · split
    · rfl
    split
    · rfl
    · cases s.walk trb va fw rd wr <;> rfl

theorem State.resolve_wear {s : State} {c : SMap CtxDie} {x : SMap ColCtx} {a : Att} {cc : Nat} (hp : (s.wear c x a).partCols cc = s.partCols cc)
    (die : Nat) (acc : Acc) (trb va : Nat) (fw rd wr : Bool) : (s.wear c x a).resolve die cc acc trb va fw rd wr =
      ((s.resolve die cc acc trb va fw rd wr).1, (s.resolve die cc acc trb va fw rd wr).2.wear c x a) := by
  unfold State.resolve
  dsimp only
  rw [hp]
  split
  · rfl
  split
  · rfl
  split
  · rfl
  · rfl
  · split <;> rfl
  · rfl
  · exact State.translate_wear ..

theorem State.writeBytes_unstored (l : List Byte) : ∀ (s : State) (loc : Nat), (s.writeBytes loc l).unstored = s.unstored := by
  induction l with
  | nil => intro s loc; rfl
  | cons b l ih => intro s loc; rw [State.writeBytes, ih]; rfl

theorem State.store_unstored (s : State) (loc : Nat) (l : List Byte) : (s.store loc l).unstored = s.unstored := by
  rw [State.store, State.clearPoison_unstored, State.writeBytes_unstored]

/-- The part of the state that no translation touches: all but storage and the walks of dies. -/
def State.unwalked (s : State) : State := { s.unstored with die := [] }

theorem State.walk_unwalked {s t : State} {trb va : Nat} {fw rd wr : Bool} {e : TlbE} (h : s.walk trb va fw rd wr = .ok (e, t)) : t.unwalked = s.unwalked := by
  unfold State.walk at h
  dsimp only at h
  split at h
  · cases h
  split at h
  · cases h
  split at h
  · cases h
  split at h
  · cases h
  · rw [Except.ok.injEq, Prod.mk.injEq] at h
    rw [← h.2]
    generalize (if s.walkAssisted = true then _ else _ : Nat) = q
    rw [State.unwalked, State.unwalked]
    split
    · rfl
    · rw [State.store_unstored]

theorem State.translate_unwalked (s : State) (die core : Nat) (acc : Acc) (trb va : Nat) (fw rd wr : Bool) :
    (s.translate die core acc trb va fw rd wr).2.unwalked = s.unwalked := by
  unfold State.translate
  dsimp only
  split
  · rfl
  split
  · rfl
  split
  · rfl
  split
  · rfl
  split
  · rfl
  split
  · split
    · rfl
    · rcases hw : s.walk trb va fw rd wr with f | ⟨e, t⟩
      · rfl
      · exact (State.walk_unwalked hw :)
  · split
    · rfl
    split
    · rfl
    · rcases hw : s.walk trb va fw rd wr with f | ⟨e, t⟩
      · rfl
      · exact (State.walk_unwalked hw :)

theorem State.resolve_unwalked (s : State) (die cc : Nat) (acc : Acc) (trb va : Nat) (fw rd wr : Bool) :
    (s.resolve die cc acc trb va fw rd wr).2.unwalked = s.unwalked := by
  unfold State.resolve
  dsimp only
  split
  · rfl
  split
  · rfl
  split
  · rfl
  · rfl
  · split <;> rfl
  · rfl
  · exact State.translate_unwalked ..

/-- Translation keeps the contexts, and asks nothing of the issue. -/
theorem State.resolve_keeps (s : State) (die cc : Nat) (acc : Acc) (trb va : Nat) (fw rd wr : Bool) :
    (s.resolve die cc acc trb va fw rd wr).2.cd = s.cd ∧ (s.resolve die cc acc trb va fw rd wr).2.cc = s.cc ∧
      (s.resolve die cc acc trb va fw rd wr).2.att = s.att := by
  have h : s.resolve die cc acc trb va fw rd wr = (_, (s.resolve die cc acc trb va fw rd wr).2.wear s.cd s.cc s.att) :=
    State.resolve_wear (s := s) (c := s.cd) (x := s.cc) (a := s.att) rfl die acc trb va fw rd wr
  have h2 := congrArg Prod.snd h
  exact ⟨(congrArg State.cd h2 :), (congrArg State.cc h2 :), (congrArg State.att h2 :)⟩

end Sys2Proof.Machine

namespace Sys2Proof.Claims

open Machine

variable {s t u : State} {ds : List Nat}

/-- Two such states after an update of everything but the tables of contexts. -/
theorem Issued.of_worn (hi : Issued s t u ds) {t' : State} (hcd : t'.cd = t.cd) (hcc : t'.cc = t.cc) :
    Issued s t' (t'.wear u.cd u.cc u.att) ds := by
  have hfw : ∀ k, ¬(k < 1024 ∨ 2048 ≤ k) → t'.getCd k = (t'.wear u.cd u.cc u.att).getCd k := fun k hk => by
    simp only [State.getCd, if_neg hk]
    rfl
  have htab : ∀ k, (k < 1024 ∨ 2048 ≤ k) → t'.getCd k = t.getCd k ∧ (t'.wear u.cd u.cc u.att).getCd k = u.getCd k := fun k hk => by
    simp only [State.getCd, if_pos hk, hcd]
    exact ⟨trivial, rfl⟩
  refine ⟨rfl, fun k hk => ?_, fun d hd => ?_, fun k hk => ?_, ?_⟩
  · by_cases hlt : k < 1024 ∨ 2048 ≤ k
    · rw [(htab k hlt).1, (htab k hlt).2]
      exact hi.rel.other k hk
    · exact hfw k hlt
  · by_cases hlt : s.ck0 d < 1024 ∨ 2048 ≤ s.ck0 d
    · rw [(htab _ hlt).1, (htab _ hlt).2]
      exact hi.sameAt _
    · rw [hfw _ hlt]
      rfl
  · rw [State.getCc, hcc]
    exact hi.rel.otherCc k hk
  · rw [State.getCc, hcc]
    exact hi.rel.keptCc

theorem Issued.partOf (hi : Issued s t u ds) (cc : Nat) : t.partOf cc = u.partOf cc := by
  have hp : t.parts = u.parts := (congrArg State.parts hi.rel.rest :)
  simp only [State.partOf, State.partOfCol, hi.rel.ctxLaunch, hp]

theorem Issued.partCols (hi : Issued s t u ds) (cc : Nat) : t.partCols cc = u.partCols cc := by
  have hp : t.parts = u.parts := (congrArg State.parts hi.rel.rest :)
  have hc : t.col = u.col := (congrArg State.col hi.rel.rest :)
  simp only [State.partCols, hi.partOf, State.getPart, State.getCol, hp, hc]
  rfl

/-- R103: both states translate an access alike. -/
theorem Issued.resolve (hi : Issued s t u ds) (die cc : Nat) (acc : Acc) (trb va : Nat) (fw rd wr : Bool) :
    (t.resolve die cc acc trb va fw rd wr).1 = (u.resolve die cc acc trb va fw rd wr).1 ∧
      Issued s (t.resolve die cc acc trb va fw rd wr).2 (u.resolve die cc acc trb va fw rd wr).2 ds := by
  have hrest : t.wear u.cd u.cc u.att = u := hi.rel.rest
  have hpart : (t.wear u.cd u.cc u.att).partCols cc = t.partCols cc := by rw [hrest, hi.partCols]
  have hu := State.resolve_wear hpart die acc trb va fw rd wr
  rw [hrest] at hu
  obtain ⟨hcd, hcc, -⟩ := t.resolve_keeps die cc acc trb va fw rd wr
  rw [hu]
  exact ⟨rfl, hi.of_worn hcd hcc⟩

end Sys2Proof.Claims

namespace Sys2Proof.Machine

open Claims

/-! ### The load of a reel (R247) -/

theorem State.ccTrbase_of_issued {s t u : State} {ds : List Nat} (hi : Issued s t u ds) (cc : Nat) : t.ccTrbase cc = u.ccTrbase cc := by
  have h : ∀ k, (t.getCd k).trbase = (u.getCd k).trbase := fun k => (congrArg CtxDie.trbase (hi.sameAt k) :)
  simp only [State.ccTrbase, hi.rel.liveOf, h]

end Sys2Proof.Machine

namespace Sys2Proof.Claims

open Machine

theorem Issued.updCol {s t u : State} {ds : List Nat} (hi : Issued s t u ds) (k : Nat) (F : Column → Column) : Issued s (t.updCol k F) (u.updCol k F) ds :=
  hi.of_wear (fun v => v.updCol k F) fun _ _ _ _ => rfl

/-- R247: both states start the load of a reel alike. -/
theorem Issued.startReel {s t u : State} {ds : List Nat} (hi : Issued s t u ds) (cc cur target : Nat) :
    Issued s (t.startReel cc cur target) (u.startReel cc cur target) ds := by
  have hkernel : t.kernelOf cc = u.kernelOf cc := by simp only [State.kernelOf, hi.rel.ctxLaunch]
  have hlaunch : (t.getCc cc).launch = (u.getCc cc).launch := (congrArg ColCtx.launch (hi.rel.keptCcAt cc) :)
  have hcol : t.col = u.col := (congrArg State.col hi.rel.rest :)
  have hhome : ∀ c, t.home c = u.home c := fun c => by rw [State.home, State.home, State.getCol, State.getCol, hcol]
  unfold State.startReel
  rw [hkernel]
  split
  · exact hi
  · rename_i k _
    dsimp only
    rw [hlaunch, State.getCol, State.getCol, hcol]
    split
    · exact hi
    · obtain ⟨h1, h2⟩ := hi.resolve (t.home (ccCol cc)) cc .cp (t.ccTrbase cc) (k.reel target).1 false true false
      have hclk : (t.resolve (t.home (ccCol cc)) cc .cp (t.ccTrbase cc) (k.reel target).1 false true false).2.clock =
          (u.resolve (t.home (ccCol cc)) cc .cp (t.ccTrbase cc) (k.reel target).1 false true false).2.clock := (congrArg State.clock h2.rel.rest :)
      unfold State.reelClocks
      rw [← hhome, ← State.ccTrbase_of_issued hi]
      dsimp only
      rw [hclk, h1]
      exact h2.updCol _ _

end Sys2Proof.Claims

namespace Sys2Proof.Machine

open Claims

theorem State.updCol_keeps (s : State) (k : Nat) (F : Column → Column) : { s.updCol k F with col := s.col } = s := rfl

/-- R247: the load of a reel changes no context, and asks nothing of the issue. -/
theorem State.startReel_keeps (s : State) (cc cur target : Nat) : (s.startReel cc cur target).cd = s.cd ∧ (s.startReel cc cur target).cc = s.cc ∧
    (s.startReel cc cur target).att = s.att := by
  unfold State.startReel
  split
  · exact ⟨rfl, rfl, rfl⟩
  · dsimp only
    split
    · exact ⟨rfl, rfl, rfl⟩
    · exact s.resolve_keeps ..

section

variable {s : State} {h : Hdr}

/-! ### TRAP, TRET and NOP (R224, R225) -/

theorem Started.att_splice {o : State} (ho : Started s h o) : ({ o.att with splice := true } : Att) = { splice := true } := by
  rw [ho.att]
  split <;> rfl

/-- R224: the faults that a TRAP takes after its iteration. -/
def trapFaults (s : State) (h : Hdr) (f : FBR) : List (Nat × FRec) :=
  (s.enabled h).map fun d => (d, { code := 0x0E, info := f.code.toNat, slot := s.cur.slot, r1 := s.cur.bundle })

theorem trap_does (hready : Ready s h) (hne : s.enabled h ≠ []) {f : FBR} (ht : f.target = 0) :
    Does (.trap h f) s h true (given s h) id (trapFaults s h f) := by
  have ho := atIssue_started hready
  have hq := effects_given_quiet (s := s) (h := h) (s.enabled h)
  generalize hs : s.noAtt.atIssue h = o at ho
  have hop : opTrap h f s.noAtt = { o with att := { splice := true, trap := trapFaults s h f } } := by
    have htarget : (f.target != 0) = false := by simp [ht]
    unfold opTrap
    dsimp only
    rw [hs, isEmpty_enabled ho.seat hne, if_neg Bool.false_ne_true, htarget, if_neg Bool.false_ne_true, ho.seat.enabled]
    have hfaults : ((s.enabled h).map fun d => (d, ({ code := 0x0E, info := f.code.toNat, slot := o.cur.slot, r1 := o.cur.bundle } : FRec))) =
        trapFaults s h f := by rw [ho.seat.cur]; rfl
    rw [hfaults]
    exact congrArg (fun a : Att => ({ o with att := { a with trap := trapFaults s h f } } : State)) ho.att_splice
  exact does_of_start hready rfl hop ⟨rfl, rfl, rfl, rfl, rfl, rfl, rfl, rfl, rfl, rfl⟩ rfl ho.issued hq.sameSeat hq.blot rfl

theorem trap_faults (hready : Ready s h) (hne : s.enabled h ≠ []) {f : FBR} (ht : f.target ≠ 0) : Faults (.trap h f) s h (fun _ => { code := 2 }) := by
  have ho := atIssue_started hready
  refine ho.faults rfl hne ?_
  have htarget : (f.target != 0) = true := by simpa using ht
  unfold opTrap
  dsimp only
  rw [isEmpty_enabled ho.seat hne, htarget]
  rfl

theorem tret_does (hready : Ready s h) (hne : s.enabled h ≠ []) (hinh : (s.getCc s.cc0).inh = true) :
    Does (.tret h) s h true (given s h) (transferTo s none false) := by
  have ho := atIssue_started hready
  have hq := effects_given_quiet (s := s) (h := h) (s.enabled h)
  generalize hs : s.noAtt.atIssue h = o at ho
  have hop : opTret h s.noAtt = { o with att := { splice := true, xfer := some ⟨none, 2, false⟩ } } := by
    have hin : (o.getCc o.cc0).inh = true := by rw [ho.seat.cc0, State.getCc, ho.cc]; exact hinh
    unfold opTret
    dsimp only
    rw [hs, isEmpty_enabled ho.seat hne, if_neg Bool.false_ne_true, hin, if_neg (by decide)]
    exact congrArg (fun a : Att => ({ o with att := { a with xfer := some ⟨none, 2, false⟩ } } : State)) ho.att_splice
  exact does_of_start hready rfl hop ⟨rfl, rfl, rfl, rfl, rfl, rfl, rfl, rfl, rfl, rfl⟩ rfl ho.issued hq.sameSeat hq.blot rfl

theorem tret_faults (hready : Ready s h) (hne : s.enabled h ≠ []) (hinh : (s.getCc s.cc0).inh = false) :
    Faults (.tret h) s h (fun _ => { code := 2 }) := by
  have ho := atIssue_started hready
  refine ho.faults rfl hne ?_
  have hin : ((s.noAtt.atIssue h).getCc (s.noAtt.atIssue h).cc0).inh = false := by rw [ho.seat.cc0, State.getCc, ho.cc]; exact hinh
  unfold opTret
  dsimp only
  rw [isEmpty_enabled ho.seat hne, hin]
  rfl

/-- Settles O25. -/
theorem trapAndReturn : Obligations.TrapAndReturn := by
  intro s h f hready hne
  exact ⟨trap_does hready hne, trap_faults hready hne, tret_does hready hne, tret_faults hready hne⟩

/-! ### CALL, RET and REEL (R307, R336, R337) -/

/-- The calls of the cursor's context replaced. -/
def setCalls (s : State) (l : List (Pos × Nat)) (x : State) : State := x.updCc s.cc0 fun y => { y with cs := { y.cs with call := l } }

theorem sameSeat_setCalls {x : State} (l : List (Pos × Nat)) (hx : SameSeat x s) : SameSeat (setCalls s l x) s := by
  refine ⟨hx.cur, hx.launches, hx.sockets, ?_, ?_⟩ <;> rw [setCalls, State.getCc_updCc_same]
  · exact hx.st
  · exact hx.launch

theorem issued_setCalls {o u : State} {ds : List Nat} (hi : Issued s o u ds) (l : List (Pos × Nat)) : Issued s (setCalls s l o) (setCalls s l u) ds :=
  hi.updCc _ _ fun x y e => by unfold KeptCc at *; rw [e]

theorem Started.updCs0 {o : State} (ho : Started s h o) (a : Att) (g : ColState → List (Pos × Nat)) :
    State.updCs0 { o with att := a } (fun c => { c with call := g c }) = setCalls s (g (s.getCc s.cc0).cs) { o with att := a } := by
  have hcs : (({ o with att := a } : State).getCc s.cc0) = s.getCc s.cc0 := by rw [State.getCc, State.getCc]; exact congrArg (SMap.get {} · s.cc0) ho.cc
  unfold State.updCs0 setCalls State.updCc
  rw [show ({ o with att := a } : State).cc0 = s.cc0 from ho.seat.cc0, hcs]

theorem Started.reelBuf {o : State} (ho : Started s h o) (r : Nat) :
    o.reelBuf o.cur.col (o.getCc o.cc0).launch r = s.reelBuf s.cur.col (s.getCc s.cc0).launch r := by
  have hcol : o.col = s.col := ((congrArg State.col ho.issued.rel.rest :) : o.col = _).trans
    (foldl_keeps State.col _ (fun x d => by unfold Claims.given State.signal; split <;> rfl) _ s)
  rw [State.reelBuf, State.reelBuf, State.getCol, State.getCol, hcol, ho.seat.cur, ho.seat.cc0, ho.seat.launch]

/-- R307: the return point of a CALL. -/
def returnPoint (s : State) : Pos :=
  ⟨(s.getCc s.cc0).cs.pc.reel, skipBundles (((s.reelBuf s.cur.col (s.getCc s.cc0).launch (s.getCc s.cc0).cs.pc.reel).map (·.data)).getD []) 3 (s.getCc s.cc0).cs.pc.off⟩

theorem call_does (hready : Ready s h) (hne : s.enabled h ≠ []) {f : FBR} {k : Kernel} {p : Pos} (hlen : (s.getCc s.cc0).cs.call.length < 8)
    (ht : Target s f k p) : Does (.call h f) s h (signals s h) (given s h)
      fun x => transferTo s (some p) false (setCalls s ((returnPoint s, 0) :: (s.getCc s.cc0).cs.call) x) := by
  have ho := atIssue_started hready
  have hq := effects_given_quiet (s := s) (h := h) (s.enabled h)
  generalize hs : s.noAtt.atIssue h = o at ho
  have hop : opCall h f s.noAtt = setCalls s ((returnPoint s, 0) :: (s.getCc s.cc0).cs.call) (o.transfer (some p)) := by
    unfold opCall
    dsimp only
    rw [hs, isEmpty_enabled ho.seat hne, if_neg Bool.false_ne_true, ho.rooted.cs0, if_neg (by omega), ho.reelBuf, ho.rooted.branch hne ht, if_pos rfl]
    exact ho.updCs0 _ fun c => (returnPoint s, 0) :: c.call
  refine does_of_start hready rfl hop (ho.plain _) ho.vm (issued_setCalls (ho.issued.att_left _) _) (sameSeat_setCalls _ hq.sameSeat) hq.blot rfl

theorem call_faults (hready : Ready s h) (hne : s.enabled h ≠ []) {f : FBR} (hlen : 8 ≤ (s.getCc s.cc0).cs.call.length) :
    Faults (.call h f) s h (fun _ => { code := 2 }) := by
  have ho := atIssue_started hready
  refine ho.faults rfl hne ?_
  unfold opCall
  dsimp only
  rw [isEmpty_enabled ho.seat hne, if_neg Bool.false_ne_true, ho.rooted.cs0, if_pos hlen]

/-- The part of the state that the load of a reel does not touch. -/
theorem startReel_unwalked (x : State) (cc cur target : Nat) :
    { (x.startReel cc cur target).unwalked with col := [] } = { x.unwalked with col := [] } := by
  unfold State.startReel
  split
  · rfl
  · rename_i k _
    dsimp only
    split
    · rfl
    · have h := x.resolve_unwalked (x.home (ccCol cc)) cc .cp (x.ccTrbase cc) (k.reel target).1 false true false
      exact congrArg (fun y : State => { y with col := [] }) h

theorem sameSeat_startReel {x : State} (hx : SameSeat x s) (cur target : Nat) : SameSeat (x.startReel s.cc0 cur target) s := by
  have hrest := startReel_unwalked x s.cc0 cur target
  obtain ⟨-, hcc, -⟩ := x.startReel_keeps s.cc0 cur target
  refine ⟨(congrArg State.cur hrest :).trans hx.cur, (congrArg State.launches hrest :).trans hx.launches, (congrArg State.sockets hrest :).trans hx.sockets, ?_, ?_⟩ <;>
    rw [State.getCc, hcc]
  · exact hx.st
  · exact hx.launch

theorem getCd_startReel (x : State) (cc cur target k : Nat) : (x.startReel cc cur target).getCd k = x.getCd k := by
  have hcore : (x.startReel cc cur target).core = x.core := (congrArg State.core (startReel_unwalked x cc cur target) :)
  simp only [State.getCd, State.getCore, hcore, (x.startReel_keeps cc cur target).1]

theorem reel_does (hready : Ready s h) (hne : s.enabled h ≠ []) {f : FBR} {k : Kernel} (hk : s.kernelOf s.cc0 = some k)
    (hin : f.code.toNat < k.reels.length) (hpos : 0 ≤ f.target.toInt) : Does (.reel h f) s h (signals s h) (given s h)
      fun x => transferTo s (some ⟨f.code.toNat, f.target.toNat⟩) false (x.startReel s.cc0 (s.getCc s.cc0).cs.pc.reel f.code.toNat) := by
  have ho := atIssue_started hready
  have hq := effects_given_quiet (s := s) (h := h) (s.enabled h)
  generalize hs : s.noAtt.atIssue h = o at ho
  have hop : opReel h f s.noAtt = (o.transfer (some ⟨f.code.toNat, f.target.toNat⟩)).startReel s.cc0 (s.getCc s.cc0).cs.pc.reel f.code.toNat := by
    unfold opReel
    dsimp only
    rw [hs, isEmpty_enabled ho.seat hne, if_neg Bool.false_ne_true, ho.rooted.cs0, ho.seat.cc0, ho.seat.kernelOf, hk]
    dsimp only
    rw [if_neg]
    simp
    omega
  obtain ⟨-, -, hatt⟩ := State.startReel_keeps (o.transfer (some ⟨f.code.toNat, f.target.toNat⟩)) s.cc0 (s.getCc s.cc0).cs.pc.reel f.code.toNat
  refine does_of_start (u := State.startReel (effects (given s h) (s.enabled h) s) s.cc0 (s.getCc s.cc0).cs.pc.reel f.code.toNat) hready rfl hop
    (by rw [hatt]; exact ho.plain _) (by rw [hatt]; exact ho.vm) ((ho.issued.att_left _).startReel _ _ _) (sameSeat_startReel hq.sameSeat _ _)
    (fun k => by rw [getCd_startReel]; exact hq.blot k) ?_
  rw [hatt]
  rfl

theorem reel_faults (hready : Ready s h) (hne : s.enabled h ≠ []) {f : FBR} {k : Kernel} (hk : s.kernelOf s.cc0 = some k)
    (hout : k.reels.length ≤ f.code.toNat ∨ f.target.toInt < 0) : Faults (.reel h f) s h (fun _ => { code := 2 }) := by
  have ho := atIssue_started hready
  refine ho.faults rfl hne ?_
  unfold opReel
  dsimp only
  rw [isEmpty_enabled ho.seat hne, if_neg Bool.false_ne_true, ho.seat.cc0, ho.seat.kernelOf, hk]
  dsimp only
  rw [if_pos]
  simpa using hout

theorem ret_does (hready : Ready s h) (hne : s.enabled h ≠ []) {p : Pos × Nat} {r : List (Pos × Nat)} (hc : (s.getCc s.cc0).cs.call = p :: r) :
    Does (.ret h) s h (signals s h) (given s h)
      fun x => transferTo s (some p.1) false ((setCalls s r x).startReel s.cc0 (s.getCc s.cc0).cs.pc.reel p.1.reel) := by
  have ho := atIssue_started hready
  have hq := effects_given_quiet (s := s) (h := h) (s.enabled h)
  generalize hs : s.noAtt.atIssue h = o at ho
  have hop : opRet h s.noAtt = (setCalls s r (o.transfer (some p.1))).startReel s.cc0 (s.getCc s.cc0).cs.pc.reel p.1.reel := by
    unfold opRet
    dsimp only
    rw [hs, isEmpty_enabled ho.seat hne, if_neg Bool.false_ne_true, ho.rooted.cs0, hc, ho.seat.cc0]
    exact congrArg (fun x => State.startReel x s.cc0 (s.getCc s.cc0).cs.pc.reel p.1.reel) (ho.updCs0 _ fun _ => r)
  obtain ⟨-, -, hatt⟩ := State.startReel_keeps (setCalls s r (o.transfer (some p.1))) s.cc0 (s.getCc s.cc0).cs.pc.reel p.1.reel
  refine does_of_start (u := State.startReel (setCalls s r (effects (given s h) (s.enabled h) s)) s.cc0 (s.getCc s.cc0).cs.pc.reel p.1.reel) hready rfl hop
    (by rw [hatt]; exact ho.plain _) (by rw [hatt]; exact ho.vm) ((issued_setCalls (ho.issued.att_left _) r).startReel _ _ _)
    (sameSeat_startReel (sameSeat_setCalls _ hq.sameSeat) _ _) (fun k => by rw [getCd_startReel]; exact hq.blot k) ?_
  rw [hatt]
  rfl

theorem ret_faults (hready : Ready s h) (hne : s.enabled h ≠ []) (hc : (s.getCc s.cc0).cs.call = []) : Faults (.ret h) s h (fun _ => { code := 2 }) := by
  have ho := atIssue_started hready
  refine ho.faults rfl hne ?_
  unfold opRet
  dsimp only
  rw [isEmpty_enabled ho.seat hne, if_neg Bool.false_ne_true, ho.rooted.cs0, hc]

/-- Settles O24. -/
theorem callsAndReels : Obligations.CallsAndReels := by
  intro s h f k hready hne hk
  exact ⟨fun hlen p ht => call_does hready hne hlen ht, call_faults hready hne, fun p r hc => ret_does hready hne hc, ret_faults hready hne,
    reel_does hready hne hk, reel_faults hready hne hk⟩

end

end Sys2Proof.Machine
end

section
/-! SUPPORT. The tag table (R108, R109). -/

set_option Elab.async false

namespace Sys2Proof.Machine

open Claims

section

variable {s o : State} {h : Hdr}

/-! ### Operations that are splices wherever they are enabled -/

/-- R218: what an operation that splices on each die asks for after some dies. -/
def splicesAfter (done : List Nat) : Att := { splice := !done.isEmpty }

theorem splicesAfter_append (done : List Nat) (d : Nat) : splicesAfter (done ++ [d]) = { splice := true } := by
  simp [splicesAfter]

theorem splices_splicesAfter {done : List Nat} (d : Nat) (ho : o.att = splicesAfter done) : o.splices.att = splicesAfter (done ++ [d]) := by
  rw [splicesAfter_append, State.splices, ho, splicesAfter]

theorem Plain.of_forces (s : State) (h : Hdr) :
    Plain (if signals s h then { splicesAfter (s.enabled h) with splice := true } else splicesAfter (s.enabled h)) (forces s h) [] := by
  have hs : signals s h = true → forces s h = true := fun hs => (Bool.and_eq_true _ _ ▸ hs : _ ∧ _).2
  split
  next hsig => exact ⟨rfl, rfl, rfl, rfl, rfl, rfl, rfl, rfl, (hs hsig).symm, rfl⟩
  next => exact ⟨rfl, rfl, rfl, rfl, rfl, rfl, rfl, rfl, rfl, rfl⟩

/-- R53, R218: an operation that splices on each die issues with its effects. -/
theorem does_of_splicing {i : Instr} {f eff : Nat → State → State} (X : Nat → State → Prop) (hready : Ready s h)
    (hexec : exec i s = s.attempt fun s => s.onDies h f) (hacts : Acts s h f eff splicesAfter X) (hX : ∀ d ∈ s.enabled h, X d s.noAtt)
    (hq : Quiet (effects eff (s.enabled h) s) s) : Does i s h (forces s h) eff :=
  does_of_acts X hready hexec hacts hX rfl (Plain.of_forces s h) rfl rfl hq.sameSeat (hq.blotCount ▸ hready.blot)

/-- R53: an operation that asks for nothing but its signal's splice issues with its effects. -/
theorem does_of_quiet {i : Instr} {f eff : Nat → State → State} (X : Nat → State → Prop) (hready : Ready s h)
    (hexec : exec i s = s.attempt fun s => s.onDies h f) (hacts : Acts s h f eff (fun _ => {}) X) (hX : ∀ d ∈ s.enabled h, X d s.noAtt)
    (hq : Quiet (effects eff (s.enabled h) s) s) : Does i s h (signals s h) eff :=
  does_of_acts X hready hexec hacts hX rfl (Plain.of_signals s h) rfl rfl hq.sameSeat (hq.blotCount ▸ hready.blot)

theorem Fresh.splices {e : Nat} (hf : Fresh s o e) : Fresh s o.splices e := hf.att _

/-- R81: a scoreboarded result for a register with no other in flight. -/
theorem Looks.scoreboard {d : Nat} {sl : SMap SlotDie} (hl : Looks o s d sl) {n : Nat} (hw : Writable s d .s n) (hh : Hdr) (due : Option Nat) (v : DWord)
    (uid : Nat) (sig : Bool) : o.scoreboard d hh due n v uid sig = Claims.leave s d [awaited s hh due n v uid sig] o := by
  rw [State.scoreboard, hl.writable hw, State.updD, hl.ck0, hl.cur, hl.clock]
  rfl

/-! ### The operations of the tag table (R346 to R349) -/

theorem tlook_acts (hready : Ready s h) {f : FSYNC} (hok : ∀ d ∈ s.enabled h, Settled s d .s f.sregA.n ∧ Writable s d .s f.sregB.n) :
    Acts s h (fun d s =>
      let (a, s) := s.rdS d f.sregA
      s.scoreboard d h (some (s.clock + 4)) f.sregB.n (tagLookup (s.coreD d).tags (tagKey a)) 0 true)
      (fun d x => Claims.leave s d [awaited s h (some (s.clock + 4)) f.sregB.n (tagLookup (s.coreD d).tags (tagKey (sreg s d f.sregA))) 0 true] x)
      (fun _ => {}) (fun _ _ => True) := by
  intro done d o hd hissued hatt hfresh _
  obtain ⟨hset, hwr⟩ := hok d hd
  have hk : s.ck0 d < 1024 := ck0_lt (cc0_lt hready.col hready.ctx) (State.enabled_lt hd)
  dsimp only
  rw [hfresh.looks.rdS hset]
  dsimp only
  rw [hfresh.looks.scoreboard hwr, hfresh.coreD, hfresh.clock]
  exact ⟨hissued.leave hk _, (State.updCd_keeps _ _).1.trans hatt, fun e _ hne hf _ => ⟨hf.leave hne hk _, trivial⟩⟩

/-- R109: the change `o` of the tag table of die `d` due one clock later, with its signal. -/
def tagChanges (s : State) (h : Hdr) (o : Nat → TagOp) (d : Nat) (x : State) : State :=
  givenAt s h (s.clock + 1) d (x.updCore (coreKey d s.cur.col) fun c => { c with tagPend := c.tagPend ++ [(s.clock + 1, s.ck0 d, o d)] })

theorem Fresh.tagChange {d : Nat} (hf : Fresh s o d) (p : Nat → TagOp) : o.tagChange d h (p d) = (tagChanges s h p d o).splices := by
  unfold State.tagChange
  rw [State.updCoreD, hf.cur, hf.ck0, hf.clock]
  refine congrArg State.splices (State.signalAt_eq (s := s) ?_ _ d)
  exact hf.cur

theorem tagChange_acts {f : Nat → State → State} {p : Nat → TagOp} (hf : ∀ d o, d ∈ s.enabled h → Fresh s o d → f d o = o.tagChange d h (p d)) :
    Acts s h f (tagChanges s h p) splicesAfter (fun _ _ => True) := by
  intro done d o hd hissued hatt hfresh _
  rw [hf d o hd hfresh, hfresh.tagChange]
  have hkeep : (tagChanges s h p d o).att = o.att := (givenAt_keeps _ _).1
  exact ⟨(((hissued.updCore _ _ fun _ => by rfl).givenAt h _ d).att_left _), splices_splicesAfter d (hkeep.trans hatt),
    fun e _ hne he _ => ⟨((he.updCore hne _ fun _ => by rfl).givenAt hne _).splices, trivial⟩⟩

theorem tagChanges_quiet (p : Nat → TagOp) : Quiet (effects (tagChanges s h p) (s.enabled h) s) s :=
  effects_quiet (fun d _ hx => (hx.updCore _ _ fun _ => by rfl).givenAt _ d) _

theorem tset_does (hready : Ready s h) {f : FSYNC} (hok : ∀ d ∈ s.enabled h, Settled s d .s f.sregA.n ∧ Settled s d .s f.sregB.n) :
    Does (.tset h f) s h (forces s h) (tagChanges s h fun d => .set (sreg s d f.sregB / 2 ^ 32 % 1024) (tagKey (sreg s d f.sregA))
      (BitVec.ofNat 32 (sreg s d f.sregB))) := by
  refine does_of_splicing (fun _ _ => True) hready rfl (tagChange_acts fun d o hd hf => ?_) (fun _ _ => trivial) (tagChanges_quiet _)
  obtain ⟨ha, hb⟩ := hok d hd
  dsimp only
  rw [hf.looks.rdS ha]
  dsimp only
  rw [hf.looks.rdS hb]
  rfl

theorem tdrop_does (hready : Ready s h) {f : FSYNC} (hok : ∀ d ∈ s.enabled h, Settled s d .s f.sregA.n) :
    Does (.tdrop h f) s h (forces s h) (tagChanges s h fun d => .drop (tagKey (sreg s d f.sregA))) := by
  refine does_of_splicing (fun _ _ => True) hready rfl (tagChange_acts fun d o hd hf => ?_) (fun _ _ => trivial) (tagChanges_quiet _)
  dsimp only
  rw [hf.looks.rdS (hok d hd)]

theorem tdropAll_does (hready : Ready s h) (f : FSYNC) : Does (.tdropAll h f) s h (forces s h) (tagChanges s h fun _ => .all) :=
  does_of_splicing (fun _ _ => True) hready rfl (tagChange_acts fun _ _ _ _ => rfl) (fun _ _ => trivial) (tagChanges_quiet _)

end

/-! ### Lookups after changes -/

theorem SMap.mem_put_self {α : Type} (m : SMap α) (k : Nat) (v : α) : (k, v) ∈ SMap.put m k v := by
  have := SMap.find?_put m k k v
  rw [if_pos rfl] at this
  exact List.mem_of_find?_eq_some this

/-- R109: the key is looked for among the valid entries. -/
theorem find?_tags_filter (t : SMap TagE) (k : BitVec 50) :
    (t.filter fun x => !(x.2.v && x.2.key == k)).find? (fun x => x.2.v && x.2.key == k) = none := by
  rw [List.find?_eq_none]
  intro x hx
  simpa [imp_iff_not_or] using (List.mem_filter.1 hx).2

theorem tagLookup_set (t : SMap TagE) (i : Nat) (k : BitVec 50) (x : Word) :
    tagLookup (tagApply t (.set i k x)) k = BitVec.ofNat 64 (i * 2 ^ 32 + x.toNat) := by
  have hone : ∀ e ∈ tagApply t (.set i k x), (e.2.v && e.2.key == k) = true → e = (i, ⟨true, k, x⟩) := fun e he hk => by
    rcases SMap.of_mem_put _ _ _ he with rfl | hmem
    · rfl
    · rw [List.mem_filter] at hmem
      rw [hk] at hmem
      cases hmem.2
  have hmem : (i, (⟨true, k, x⟩ : TagE)) ∈ tagApply t (.set i k x) := SMap.mem_put_self _ _ _
  have hfind : (tagApply t (.set i k x)).find? (fun e => e.2.v && e.2.key == k) = some (i, ⟨true, k, x⟩) := by
    cases hf : (tagApply t (.set i k x)).find? (fun e => e.2.v && e.2.key == k) with
    | none => exact absurd (List.find?_eq_none.1 hf _ hmem) (by simp)
    | some e => exact congrArg some (hone e (List.mem_of_find?_eq_some hf) (List.find?_some hf :))
  rw [tagLookup, hfind]

/-- R109: bit 63 of a lookup that finds no entry is set. -/
theorem tagLookup_missing {t : SMap TagE} {k : BitVec 50} (ht : t.find? (fun x => x.2.v && x.2.key == k) = none) :
    (tagLookup t k).getLsbD 63 = true := by
  rw [tagLookup, ht]
  dsimp only
  cases hj : (List.range 1024).find? fun i => !(SMap.get {} t i).v with
  | none => decide
  | some j =>
    have hlt : j < 1024 := List.mem_range.1 (List.mem_of_find?_eq_some hj)
    dsimp only
    rw [BitVec.getLsbD_ofNat, Nat.testBit_eq_decide_div_mod_eq]
    simp only [Nat.reduceLT, decide_true, Bool.true_and, decide_eq_true_eq]
    omega

theorem tagTableChangeLands_does (s : State) (core : Nat) : ∃ t, exec (.tagTableChangeLands core) s = .next t ∧
    (t.getCore core).tags = ((s.getCore core).tagPend.filter fun x => x.1 ≤ s.clock).foldl (fun m x => tagApply m x.2.2) (s.getCore core).tags ∧
    (∀ x ∈ (t.getCore core).tagPend, s.clock < x.1) ∧ t.mem = s.mem ∧ t.cd = s.cd ∧ t.cc = s.cc ∧ ∀ k ≠ core, t.getCore k = s.getCore k := by
  refine ⟨_, rfl, ?_, fun x hx => ?_, rfl, rfl, rfl, fun k hk => ?_⟩
  · rw [State.updCore, State.getCore_setCore_same]
  · rw [State.updCore, State.getCore_setCore_same] at hx
    simpa using (List.mem_filter.1 hx).2
  · rw [State.updCore, State.getCore_setCore_other _ _ _ _ hk]

/-- Settles O31. -/
theorem tagTableOperations : Obligations.TagTableOperations := by
  refine ⟨fun s h f hready => ⟨fun hok => ?_, tset_does hready, tdrop_does hready, tdropAll_does hready f⟩, tagLookup_set,
    fun t k => ⟨tagLookup_missing (find?_tags_filter t k), tagLookup_missing rfl⟩, tagTableChangeLands_does⟩
  exact does_of_quiet (fun _ _ => True) hready rfl (tlook_acts hready hok) (fun _ _ => trivial) (effects_quiet (fun d _ hx => hx.leave d _) _)

end Sys2Proof.Machine
end

section
/-! SUPPORT. A release FENCE that performs the stores of its own die before those of a lower die (R194, R220). -/

set_option Elab.async false

namespace Sys2Proof.Machine

open Claims Tests

/-- What an attempt leaves, tested by `p`. -/
def leavesWith (p : State → Bool) : Host.Outcome State Fault Refusal → Bool
  | .next t => p t
  | _ => false

theorem leavesWith_next {p : State → Bool} {x : Host.Outcome State Fault Refusal} {t : State} (hx : x = .next t) : leavesWith p x = p t := by
  rw [hx]
  rfl

/-- A read of kind RC whose reply is outstanding. -/
def openRead : Pend :=
  { due := none, slot := 0, issued := 0, sb := true, file := .s, idx := 9, val := 0#512, mask := BitVec.allOnes 512, vfl := 0#32, grp := 0, sigSem := 0,
    sigInc := 0, pre := false, uid := 5, lat := 0, acc := 2 }

/-- One context on dies 0 and 1, which withhold a store of 5 and of 7 to the same byte of device memory; on die 1 a read is still to be performed. -/
def fenceState : State := { base with
  sockets := [(0, { st := .live }), (1, { st := .live })]
  launches := base.launches.map fun l => (l.1, { l.2 with live := 3 })
  cd := [(0, { blot := [⟨64, 64, 1#64, 5#512⟩] }), (ccCk 1 0, { blot := [⟨64, 64, 1#64, 7#512⟩], pend := [openRead] })] }

/-- A FENCE of kind rel, enabled on die 1 alone. -/
def fenceHdr : Hdr := ⟨0x02#8, 0#3, false, 0#8, 0#24, 0#8, 0#8⟩
def fenceRel : FSYNC := { sync0 with kind := 2#4 }

theorem fence_ready : Ready fenceState fenceHdr := ⟨by decide, by decide, by decide, by decide, by decide⟩

/-- R194: the FENCE performs the 7 of die 1 at once, and its splice then the 5 of die 0. -/
theorem fence_performs : leavesWith (fun t => t.readByte 64 == 5#8) (exec (.fence fenceHdr fenceRel) fenceState) = true := by decide +kernel

/-- What the statement says of that FENCE on a die. -/
def fenceEffect (d : Nat) (x : State) : State :=
  (x.markOrd (fenceState.ck0 d) (fenceClass fenceRel.kind.toNat)).fenceSignal d fenceHdr (fenceClass fenceRel.kind.toNat)
    (fenceRel.kind != 0 && flushScope fenceRel.scope.toNat)

/-- R220: a splice alone performs the stores of the dies in order: the 7 comes last. -/
theorem splice_performs :
    (spliced ((fenceState.enabled fenceHdr).foldl (fun x d => fenceEffect d x) fenceState) (forces fenceState fenceHdr)).readByte 64 = 7#8 := by decide +kernel

/-- Refutes O28: the clause on FENCE makes a release one splice after its effects. A release that must hold stores of its own iteration performs the blotter
of its die first, so of two dies' stores to one byte those of the other die come last. -/
theorem not_semaphoresFencesGrab : ¬Obligations.SemaphoresFencesGrab := by
  rintro ⟨hsync, -⟩
  obtain ⟨-, -, -, hfence, -⟩ := hsync fenceState fenceHdr fenceRel fence_ready
  obtain ⟨t, ht, hissued⟩ := hfence fun _ hscope => absurd hscope (by decide)
  have hop : t.readByte 64 = 5#8 := by
    have := fence_performs
    rw [leavesWith_next ht] at this
    exact (beq_iff_eq.1 this :)
  have hmem : t.mem = (spliced ((fenceState.enabled fenceHdr).foldl (fun x d => fenceEffect d x) fenceState) (forces fenceState fenceHdr)).mem :=
    (congrArg State.mem hissued.rel.rest :)
  rw [State.readByte, hmem] at hop
  exact absurd (hop.symm.trans splice_performs) (by decide)

end Sys2Proof.Machine
end
section
/-! SUPPORT. A BAR that waits for a store that an earlier fence holds (R194, R304). -/

namespace Sys2Proof.Machine

open Claims Tests

/-- A context whose earlier fence holds a store, as the next iteration is tried. -/
def lateState : State := { base with clock := 1, cd := [(0, { late := [⟨64, 64, 1#64, 5#512⟩] })] }

theorem late_ready : Ready lateState hd0 := ⟨by decide, by decide, by decide, by decide, by decide⟩

theorem late_enabled : lateState.enabled hd0 = [0] := by decide

theorem late_calm : Calm lateState 0 :=
  ⟨fun p hp => absurd (show p ∈ ([] : List Pend) from hp) List.not_mem_nil, fun p hp => absurd (show p ∈ ([] : List RecPend) from hp) List.not_mem_nil,
    by decide +kernel⟩

/-- R194: the BAR stalls, and its context stays ACTIVE. -/
theorem bar_stalls : leavesWith (fun t => (t.getCc lateState.cc0).st == .active) (exec (.bar hd0 sync0) lateState) = true := by decide +kernel

/-- Refutes O26: a BAR whose context has no read, record or posted write to wait for still stalls for a store that an earlier fence holds. -/
theorem not_haltAndBarrier : ¬Obligations.HaltAndBarrier := by
  intro h
  obtain ⟨-, hbar⟩ := h lateState hd0 late_ready (by decide)
  obtain ⟨t, ht, hblocked, -⟩ := hbar sync0 fun d hd => by
    rw [late_enabled] at hd
    exact List.mem_singleton.1 hd ▸ late_calm
  have hactive := bar_stalls
  rw [leavesWith_next ht, hblocked] at hactive
  exact absurd hactive (by decide)

end Sys2Proof.Machine
end

section
/-! SUPPORT. The schedule of a column (R91, R250): what a decision point changes; the marks SPLICE and YIELD (R342, R377). -/

set_option Elab.async false

namespace Sys2Proof.Machine

open Claims

/-! ### What the choice of a context changes -/

/-- `t` is `s` but for the schedule: contexts made ACTIVE, columns, and the trace. -/
structure Rescheduled (s t : State) : Prop where
  rest : { t with cc := s.cc, col := s.col, traceQ := s.traceQ } = s
  cc : ∀ k, { t.getCc k with st := (s.getCc k).st } = s.getCc k
  st : ∀ k, (t.getCc k).st = (s.getCc k).st ∨ (t.getCc k).st = .active
  last : ∀ c, (t.getCol c).last = (s.getCol c).last

section

variable {s t u : State}

theorem Rescheduled.refl (s : State) : Rescheduled s s := ⟨rfl, fun _ => rfl, fun _ => .inl rfl, fun _ => rfl⟩

theorem Rescheduled.cs (h : Rescheduled s t) (k : Nat) : (t.getCc k).cs = (s.getCc k).cs := by
  have := h.cc k
  generalize t.getCc k = x at this
  rw [← this]

theorem Rescheduled.trans (h : Rescheduled s t) (g : Rescheduled t u) : Rescheduled s u := by
  refine ⟨?_, fun k => ?_, fun k => ?_, fun c => (g.last c).trans (h.last c)⟩
  · have := congrArg (fun v : State => { v with cc := s.cc, col := s.col, traceQ := s.traceQ }) g.rest
    exact this.trans h.rest
  · have := congrArg (fun v : ColCtx => { v with st := (s.getCc k).st }) (g.cc k)
    exact this.trans (h.cc k)
  · rcases g.st k with hg | hg
    · rw [hg]; exact h.st k
    · exact .inr hg

theorem State.getCol_updCol_same (s : State) (k : Nat) (F : Column → Column) : (s.updCol k F).getCol k = F (s.getCol k) := by
  rw [State.updCol, State.setCol, State.getCol, SMap.get_set_same]

theorem State.getCol_updCol_other (s : State) (k j : Nat) (F : Column → Column) (h : j ≠ k) : (s.updCol k F).getCol j = s.getCol j := by
  exact SMap.get_set_other _ _ _ _ _ h

theorem Rescheduled.updCol (h : Rescheduled s t) (k : Nat) (F : Column → Column) (hF : ∀ c, (F c).last = c.last) : Rescheduled s (t.updCol k F) := by
  refine ⟨h.rest, h.cc, h.st, fun c => ?_⟩
  by_cases hc : c = k
  · rw [hc, State.getCol_updCol_same, hF, h.last]
  · rw [State.getCol_updCol_other _ _ _ _ hc, h.last]

/-- A context made ACTIVE. -/
theorem Rescheduled.active (h : Rescheduled s t) (k : Nat) : Rescheduled s (t.updCc k fun c => { c with st := .active }) := by
  refine ⟨h.rest, fun j => ?_, fun j => ?_, h.last⟩ <;> by_cases hj : j = k
  · rw [hj, State.getCc_updCc_same]; exact h.cc k
  · rw [State.getCc_updCc_other _ _ _ _ hj]; exact h.cc j
  · rw [hj, State.getCc_updCc_same]; exact .inr rfl
  · rw [State.getCc_updCc_other _ _ _ _ hj]; exact h.st j

theorem Rescheduled.activate (h : Rescheduled s t) (col k from_ : Nat) : Rescheduled s (t.activate col k from_) :=
  (h.active _).updCol _ _ fun _ => rfl

theorem Rescheduled.noteAges (h : Rescheduled s t) (col : Nat) : Rescheduled s (t.noteAges col) := h.updCol _ _ fun _ => rfl

theorem State.eventRecord_eq (s : State) (cc sub die : Nat) : ∃ q, s.eventRecord cc sub die = { s with traceQ := q } := by
  unfold State.eventRecord
  split
  · exact ⟨_, rfl⟩
  · exact ⟨s.traceQ, rfl⟩

theorem Rescheduled.eventRecord (h : Rescheduled s t) (cc sub die : Nat) : Rescheduled s (t.eventRecord cc sub die) := by
  unfold State.eventRecord
  split
  · exact ⟨h.rest, h.cc, h.st, h.last⟩
  · exact h

/-- R250: a context that is to give its column up, or keep it, at a decision point. -/
def State.yields (s : State) (col k : Nat) : State := (s.updCc (ccKey col k) fun c => { c with st := .ready }).updCol col fun c => { c with last := k }

theorem State.yieldPoint_rescheduled (s : State) (col k from_ : Nat) : Rescheduled (s.yields col k) (s.yieldPoint col k from_) := by
  unfold State.yieldPoint State.yields
  dsimp only
  generalize ((s.updCc (ccKey col k) fun c => { c with st := .ready }).updCol col fun c => { c with last := k }) = y
  have h0 : Rescheduled y (y.noteAges col) := (Rescheduled.refl y).noteAges col
  generalize y.noteAges col = s0 at h0
  split
  · exact h0
  split
  · exact h0
  refine Rescheduled.eventRecord ?_ _ _ _
  split
  · refine Rescheduled.active (h0.updCol _ _ ?_) _
    intro c; rfl
  · refine Rescheduled.activate (h0.updCol _ _ ?_) _ _ _
    intro c; rfl

end

/-! ### Splices of states that hold the same contexts -/

/-- Two states with the same cores and the same contexts. -/
def SameCtxs (t u : State) : Prop := t.core = u.core ∧ ∀ k, t.getCd k = u.getCd k

section

variable {s t u : State}

theorem State.releaseBlot_core (s : State) {k : Nat} (hk : k < 1024) : (s.releaseBlot k).core = s.core := by
  have hu := foldl_performBlot_unstored s (s.getCd k).blot
  rw [State.releaseBlot, State.updCd, State.setCd, if_pos (.inl hk)]
  exact (congrArg State.core hu :)

theorem SameCtxs.spliceDie (h : SameCtxs t u) (b : Bool) {k : Nat} (hk : k < 1024) : SameCtxs (t.spliceDie b k) (u.spliceDie b k) := by
  obtain ⟨hcore, hcd⟩ := h
  have hrel : (t.releaseBlot k).core = (u.releaseBlot k).core := by rw [State.releaseBlot_core _ hk, State.releaseBlot_core _ hk, hcore]
  refine ⟨?_, fun j => ?_⟩
  · have hupd : ∀ (v : State) (F : CtxDie → CtxDie), (v.updCd k F).core = v.core := fun v F => by
      rw [State.updCd, State.setCd, if_pos (.inl hk)]
    unfold State.spliceDie
    dsimp only
    split
    · exact hrel
    · simp only [State.updCore, State.setCore, State.getCore, hupd, hrel]
  · by_cases hj : j = k
    · rw [hj, State.getCd_spliceDie_same, State.getCd_spliceDie_same, hcd, State.evQueued, State.evQueued, State.getCore, State.getCore, hrel]
    · rw [State.getCd_spliceDie_other _ _ _ _ hj, State.getCd_spliceDie_other _ _ _ _ hj, hcd]

/-- R219: so do they after a splice of a context that is alike in both. -/
theorem SameCtxs.splice (h : SameCtxs t u) {cc : Nat} (hc : cc < 128) (hlive : t.liveOf cc = u.liveOf cc) (hinh : (t.getCc cc).inh = (u.getCc cc).inh) :
    SameCtxs (t.splice cc) (u.splice cc) := by
  have hf : ∀ (l : List Nat) (b : Bool) (t u : State), (∀ d ∈ l, d < 8) → SameCtxs t u →
      SameCtxs (l.foldl (fun s d => s.spliceDie b (ccCk d cc)) t) (l.foldl (fun s d => s.spliceDie b (ccCk d cc)) u) := by
    intro l b
    induction l with
    | nil => intro t u _ h; exact h
    | cons d l ih =>
      intro t u hl h
      exact ih _ _ (fun e he => hl e (by simp [he])) (h.spliceDie b (ccCk_lt (hl d (by simp)) hc))
  have hr := hf (u.liveOf cc) (u.getCc cc).inh t u (fun d hd => State.liveOf_lt hd) h
  unfold State.splice
  dsimp only
  rw [hlive, hinh]
  split
  · exact hr
  · exact hr

/-- A splice changes no column and, but for one, no column context. -/
theorem State.spliceDie_cols (v : State) (b : Bool) (k : Nat) : ((v.spliceDie b k).cc, (v.spliceDie b k).col) = (v.cc, v.col) := by
  have hu := foldl_performBlot_unstored v (v.getCd k).blot
  have hupd : ∀ (w : State) (F : CtxDie → CtxDie), ((w.updCd k F).cc, (w.updCd k F).col) = (w.cc, w.col) := fun w F => by
    unfold State.updCd State.setCd; split <;> rfl
  have hrel : ((v.releaseBlot k).cc, (v.releaseBlot k).col) = (v.cc, v.col) :=
    (hupd _ _).trans (congrArg (fun w : State => (w.cc, w.col)) hu :)
  unfold State.spliceDie
  dsimp only
  split
  · exact hrel
  · exact (hupd _ _).trans hrel

theorem State.splice_col (s : State) (cc : Nat) : (s.splice cc).col = s.col := by
  have hfold : ∀ (l : List Nat) (b : Bool), (l.foldl (fun s d => s.spliceDie b (ccCk d cc)) s).col = s.col := fun l b =>
    foldl_keeps State.col _ (fun v d => (congrArg Prod.snd (v.spliceDie_cols b (ccCk d cc)) :)) l s
  unfold State.splice
  dsimp only
  split <;> exact hfold _ _

/-- R219: a splice changes of a column context only the copy of its column state. -/
theorem State.getCc_splice (s : State) (cc k : Nat) : { (s.splice cc).getCc k with dupCs := (s.getCc k).dupCs } = s.getCc k := by
  have hfold : ∀ (l : List Nat) (b : Bool), (l.foldl (fun s d => s.spliceDie b (ccCk d cc)) s).getCc k = s.getCc k := fun l b =>
    foldl_keeps (fun w : State => w.getCc k) _ (fun v d => by
      have hcc : (v.spliceDie b (ccCk d cc)).cc = v.cc := (Prod.ext_iff.1 (v.spliceDie_cols b (ccCk d cc))).1
      rw [State.getCc, hcc]
      rfl) l s
  unfold State.splice
  dsimp only
  split
  · rw [hfold]
  · by_cases hk : k = cc
    · subst hk
      rw [State.getCc_updCc_same, hfold]
    · rw [State.getCc_updCc_other _ _ _ _ hk, hfold]

end

/-! ### The mark SPLICE (R342) -/

section

variable {s : State}

/-- A header that names no die. -/
def noHdr : Hdr := ⟨0#8, 0#3, false, 0#8, 0#24, 0#8, 0#8⟩

theorem enabled_noHdr (s : State) : s.enabled noHdr = [] := by
  simp [State.enabled, noHdr]

/-- A mark issues as an operation that is enabled on no die. -/
theorem ready_of_running (h : Running s) : Ready s noHdr := by
  refine ⟨h.col, h.ctx, h.active, fun d hd => ?_, h.blot⟩
  rw [enabled_noHdr] at hd
  cases hd

theorem splice_issues (h : Running s) : ∃ t, exec .splice s = .next t ∧ Issued s t (s.splice s.cc0) [] := by
  have hdoes : Does .splice s noHdr true (fun _ x => x) := by
    refine does_of_issued (u := s) (ready_of_running h) rfl ⟨rfl, rfl, rfl, rfl, rfl, rfl, rfl, rfl, rfl, rfl⟩ ?_ ⟨rfl, rfl, rfl, rfl, rfl⟩ h.blot
      (.inl (by change portExtra [] = 0; decide)) ?_
    · exact Issued.refl s s _
    · rw [enabled_noHdr]
      rfl
  obtain ⟨t, ht, hissued⟩ := hdoes
  rw [enabled_noHdr] at hissued
  exact ⟨t, ht, hissued⟩

/-! ### The mark YIELD (R377, R250) -/

/-- R377: what YIELD sets of its context. -/
def yieldRun (s : State) (run : Word) (c : ColCtx) : ColCtx :=
  { c with stated := run.toNat, measured := true, meas := 1, yaddr := s.cur.bundle, overran := false, scyc := 1 }

/-- The operation YIELD, before its iteration is recorded. -/
def yielding (s : State) (run : Word) : State := s.noAtt.updCc s.cc0 (yieldRun s run)

theorem opYield_eq (s : State) (run : Word) : opYield run s.noAtt = { yielding s run with att := { yields := true } } := rfl

theorem opYield_att (s : State) (run : Word) : (opYield run s.noAtt).att = { yields := true } := rfl

theorem portExtra_nil : portExtra [] = 0 := by decide

theorem getCc_yielding (s : State) (run : Word) : (yielding s run).getCc s.cc0 = yieldRun s run (s.getCc s.cc0) := State.getCc_updCc_same ..

theorem yielding_blotCount (s : State) (run : Word) : (yielding s run).blotCount s.cc0 = s.blotCount s.cc0 := by
  have hl : (yielding s run).liveOf s.cc0 = s.liveOf s.cc0 := by
    simp only [State.liveOf, State.ctxLaunch, getCc_yielding]
    rfl
  simp only [State.blotCount, hl]
  rfl

/-- The iteration of a YIELD recorded, before its decision point. -/
def yieldIssued (s : State) (run : Word) : State := (yielding s run).updCc s.cc0 (issueRec s.clock)

/-- After its decision point. -/
def yieldDecided (s : State) (run : Word) (from_ : Nat) : State := (yieldIssued s run).yieldPoint s.cur.col s.cur.ctx from_

/-- R218: the context that a decision point has taken off its column is spliced. -/
def spliceLeft (s t : State) : State := t.commitSplice {} s.cc0 ((t.getCc s.cc0).st != .active)

theorem exec_yield (h : Running s) (run : Word) : ∃ from_, exec (.yield run) s = .next (spliceLeft s (yieldDecided s run from_)) := by
  have hc : ¬s.cc0 ≥ 128 := by have := cc0_lt h.col h.ctx; omega
  refine ⟨s.clock + 1 + ceilDiv ((yieldIssued s run).releaseCount s.cc0 []) 4, ?_⟩
  have hb : ¬(opYield run s.noAtt).blotCount s.cc0 > 128 := by
    rw [opYield_eq]
    change ¬(yielding s run).blotCount s.cc0 > 128
    rw [yielding_blotCount]
    exact not_lt.2 h.blot
  have hv : ∀ s' : State, s'.cc0 = s.cc0 → s'.verdict (opYield run s.noAtt) = .commit := fun s' hs' => by
    unfold State.verdict
    rw [hs']
    simp only [hb, opYield_att, List.any_nil, List.isEmpty_nil, Bool.not_true, Bool.false_eq_true, if_false, portExtra_nil, gt_iff_lt, Nat.lt_irrefl, decide_false, Bool.false_and]
  change Host.Outcome.next (s.finish (opYield run s.noAtt)) = _
  unfold State.finish
  dsimp only
  rw [hv { s with att := {}, freeCtr := (opYield run s.noAtt).freeCtr } rfl, opYield_eq]
  change Host.Outcome.next ((yielding s run).commitAs { yields := true }) = _
  have hcol : (yielding s run).commitCol { yields := true } s.cc0 = yieldIssued s run := rfl
  have hports : (yielding s run).usePorts [] = yielding s run := rfl
  have hlate : ∀ t : State, t.holdLate s.cc0 [] = t := fun _ => rfl
  unfold State.commitAs
  dsimp only
  rw [hports, show (yielding s run).cc0 = s.cc0 from rfl, if_neg hc, hcol, hlate]
  simp only [Bool.not_false, Bool.true_and, Option.isNone_none, if_true, gt_iff_lt, Nat.lt_irrefl, if_false, Bool.false_or, Option.isSome_none,
    Bool.false_eq_true, State.raise_nil]
  rfl

/-- The state at the decision point of a YIELD: its context READY, and its column counting from it. -/
def atDecision (s : State) (run : Word) : State := (yieldIssued s run).yields s.cur.col s.cur.ctx

theorem yieldDecided_rescheduled (s : State) (run : Word) (from_ : Nat) : Rescheduled (atDecision s run) (yieldDecided s run from_) :=
  State.yieldPoint_rescheduled ..

/-- The state `s` with other column contexts, columns and requests of the issue under way. -/
def State.plan (s : State) (x : SMap ColCtx) (c : SMap Column) (a : Att) : State := { s with cc := x, col := c, att := a }

theorem State.plan_updCc (s : State) (k : Nat) (F : ColCtx → ColCtx) (x : SMap ColCtx) (c : SMap Column) (a : Att) :
    (s.updCc k F).plan x c a = s.plan x c a := rfl

theorem State.plan_updCol (s : State) (k : Nat) (F : Column → Column) (x : SMap ColCtx) (c : SMap Column) (a : Att) :
    (s.updCol k F).plan x c a = s.plan x c a := rfl

theorem Rescheduled.rest_of_plan {s y z : State} (h : Rescheduled y z) (hy : y.plan s.cc s.col s.att = s) :
    { z with cc := s.cc, col := s.col, traceQ := s.traceQ, att := s.att } = s := by
  have htrace : y.traceQ = s.traceQ := (congrArg State.traceQ hy :)
  have hz := congrArg (fun v => v.plan s.cc s.col s.att) h.rest
  rw [hy, htrace] at hz
  exact hz

theorem atDecision_rest (s : State) (run : Word) : (atDecision s run).plan s.cc s.col s.att = s := by
  unfold atDecision State.yields yieldIssued yielding
  rw [State.plan_updCol, State.plan_updCc, State.plan_updCc, State.plan_updCc]
  rfl

theorem getCc_atDecision (s : State) (run : Word) :
    (atDecision s run).getCc s.cc0 = { issueRec s.clock (yieldRun s run (s.getCc s.cc0)) with st := .ready } := by
  change ((yieldIssued s run).updCc s.cc0 fun c => { c with st := .ready }).getCc s.cc0 = _
  rw [State.getCc_updCc_same, yieldIssued, State.getCc_updCc_same, getCc_yielding]

theorem getCc_atDecision_other (s : State) (run : Word) {k : Nat} (hk : k ≠ s.cc0) : (atDecision s run).getCc k = s.getCc k := by
  change ((yieldIssued s run).updCc s.cc0 fun c => { c with st := .ready }).getCc k = _
  rw [State.getCc_updCc_other _ _ _ _ hk, yieldIssued, State.getCc_updCc_other _ _ _ _ hk, yielding, State.getCc_updCc_other _ _ _ _ hk]
  rfl

theorem getCol_atDecision (s : State) (run : Word) : (atDecision s run).getCol s.cur.col = { s.getCol s.cur.col with last := s.cur.ctx } :=
  State.getCol_updCol_same ..

/-- A column context but for what a splice and the record of its stall change. -/
theorem getCc_spliceLeft (s t : State) (k : Nat) : ∃ c h r, (spliceLeft s t).getCc k = { t.getCc k with dupCs := c, holdUntil := h, holdReason := r } := by
  have hs := t.getCc_splice s.cc0 k
  have hsplice : (t.splice s.cc0).getCc k = { t.getCc k with dupCs := ((t.splice s.cc0).getCc k).dupCs } := by rw [← hs]
  unfold spliceLeft State.commitSplice
  dsimp only
  split
  · by_cases hk : k = s.cc0
    · subst hk
      rw [State.getCc_updCc_same, hsplice]
      exact ⟨_, _, _, rfl⟩
    · rw [State.getCc_updCc_other _ _ _ _ hk, hsplice]
      exact ⟨_, _, _, rfl⟩
  · exact ⟨_, _, _, rfl⟩

theorem spliceLeft_col (s t : State) : (spliceLeft s t).col = t.col := by
  unfold spliceLeft State.commitSplice
  dsimp only
  split
  · exact State.splice_col ..
  · rfl

/-- R377: what a YIELD sets of its context. -/
theorem yield_sets (s : State) (run : Word) (from_ : Nat) : let t := spliceLeft s (yieldDecided s run from_)
    (t.getCc s.cc0).stated = run.toNat ∧ (t.getCc s.cc0).measured = true ∧ (t.getCc s.cc0).meas = 1 ∧ (t.getCc s.cc0).yaddr = s.cur.bundle ∧
      (t.getCc s.cc0).overran = false ∧ (t.getCol s.cur.col).last = s.cur.ctx := by
  dsimp only
  obtain ⟨c, hu, r, ht⟩ := getCc_spliceLeft s (yieldDecided s run from_) s.cc0
  have hr := yieldDecided_rescheduled s run from_
  have hcc := hr.cc s.cc0
  rw [getCc_atDecision] at hcc
  rw [ht]
  refine ⟨(congrArg ColCtx.stated hcc :), (congrArg ColCtx.measured hcc :), (congrArg ColCtx.meas hcc :), (congrArg ColCtx.yaddr hcc :),
    (congrArg ColCtx.overran hcc :), ?_⟩
  rw [State.getCol, spliceLeft_col]
  exact (hr.last s.cur.col).trans (by rw [getCol_atDecision])

/-- R90, R250: the context of a YIELD keeps its column, or becomes READY with a splice. -/
theorem yield_leaves (h : Running s) (run : Word) (from_ : Nat) : let t := spliceLeft s (yieldDecided s run from_)
    (t.getCc s.cc0).st = .active ∧ t.cd = s.cd ∧ t.mem = s.mem ∨ (t.getCc s.cc0).st = .ready ∧ ∀ k, t.getCd k = (s.splice s.cc0).getCd k := by
  dsimp only
  have hr := yieldDecided_rescheduled s run from_
  obtain ⟨c, hu, r, ht⟩ := getCc_spliceLeft s (yieldDecided s run from_) s.cc0
  have hst : ((spliceLeft s (yieldDecided s run from_)).getCc s.cc0).st = ((yieldDecided s run from_).getCc s.cc0).st := by rw [ht]
  rw [hst]
  have hcc := hr.cc s.cc0
  have hrest := hr.rest
  have hstate := hr.st s.cc0
  rw [getCc_atDecision] at hcc hstate
  generalize hy : yieldDecided s run from_ = y at *
  rcases hstate with hready | hactive
  · refine .inr ⟨hready, fun k => ?_⟩
    have hsame : SameCtxs y s := by
      have hcd : y.cd = s.cd := (congrArg State.cd hrest :)
      have hcore : y.core = s.core := (congrArg State.core hrest :)
      exact ⟨hcore, fun k => by simp only [State.getCd, State.getCore, hcd, hcore]⟩
    have hlive : y.liveOf s.cc0 = s.liveOf s.cc0 := by
      have hl : y.launches = s.launches := (congrArg State.launches hrest :)
      have hs : y.sockets = s.sockets := (congrArg State.sockets hrest :)
      have hn : (y.getCc s.cc0).launch = (s.getCc s.cc0).launch := (congrArg ColCtx.launch hcc :)
      simp only [State.liveOf, State.ctxLaunch, State.launch?, State.dieLive, State.getSocket, hl, hs, hn]
    have hinh : (y.getCc s.cc0).inh = (s.getCc s.cc0).inh := (congrArg ColCtx.inh hcc :)
    unfold spliceLeft State.commitSplice
    rw [hready]
    exact (hsame.splice (cc0_lt h.col h.ctx) hlive hinh).2 k
  · refine .inl ⟨hactive, ?_⟩
    unfold spliceLeft State.commitSplice
    rw [hactive]
    exact ⟨(congrArg State.cd hrest :), (congrArg State.mem hrest :)⟩

/-! ### The decision point of a column whose other contexts are not READY -/

/-- R250: what the queue of the context has left of its slice. -/
def sliceLeft (s : State) (cc run left : Nat) : Nat := if run ≤ left then left else s.slice cc

theorem ccKey_inj {col j k : Nat} (hj : j < 4) (hk : k < 4) (h : ccKey col j = ccKey col k) : j = k := by
  unfold ccKey at h
  rw [if_pos hj, if_pos hk] at h
  omega

theorem State.readyCtxs_alone {s : State} {col k : Nat} (hk : k < 4) (hready : (s.getCc (ccKey col k)).st = .ready)
    (halone : ∀ j < 4, j ≠ k → (s.getCc (ccKey col j)).st ≠ .ready) : s.readyCtxs col = [k] := by
  have hp : ∀ j ∈ [0, 1, 2, 3], ((s.getCc (ccKey col j)).st == .ready) = (j == k) := fun j hj => by
    have hj4 : j < 4 := by simp only [List.mem_cons, List.not_mem_nil, or_false] at hj; omega
    by_cases e : j = k
    · rw [e, hready, beq_self_eq_true, beq_self_eq_true]
    · rw [beq_false_of_ne e, beq_false_of_ne (halone j hj4 e)]
  rw [State.readyCtxs, List.filter_congr hp]
  interval_cases k <;> rfl

theorem State.ranked_singleton (s : State) (col q : Nat) : s.ranked col [q] = [q] := rfl

theorem getCc_traced (y : State) (q : List (Nat × Nat × List Byte)) (k : Nat) : ({ y with traceQ := q } : State).getCc k = y.getCc k := rfl
theorem getCol_traced (y : State) (q : List (Nat × Nat × List Byte)) (k : Nat) : ({ y with traceQ := q } : State).getCol k = y.getCol k := rfl

theorem State.getCol_updCc (s : State) (k : Nat) (F : ColCtx → ColCtx) (c : Nat) : (s.updCc k F).getCol c = s.getCol c := rfl

/-- R250: after its decision point, the column `col` with the queue `q` and what is left of its slice, and the context `cc` ACTIVE. -/
def keepsColumn (y : State) (col cc q left : Nat) (a : SMap Nat → SMap Nat) : State :=
  ((y.noteAges col).updCol col fun c => { c with queue := some q, sleft := left, ages := a c.ages }).updCc cc fun c => { c with st := .active }

section

variable (y : State) (col cc q left : Nat) (a : SMap Nat → SMap Nat)

theorem getCc_keepsColumn : (keepsColumn y col cc q left a).getCc cc = { y.getCc cc with st := .active } := State.getCc_updCc_same ..

theorem getCc_keepsColumn_other {k : Nat} (hk : k ≠ cc) : (keepsColumn y col cc q left a).getCc k = y.getCc k := State.getCc_updCc_other _ _ _ _ hk

theorem getCol_keepsColumn : ((keepsColumn y col cc q left a).getCol col).queue = some q ∧ ((keepsColumn y col cc q left a).getCol col).sleft = left := by
  have h : (keepsColumn y col cc q left a).getCol col = { (y.noteAges col).getCol col with
    queue := some q, sleft := left, ages := a ((y.noteAges col).getCol col).ages } := by
    rw [keepsColumn, State.getCol_updCc, State.getCol_updCol_same]
  rw [h]
  exact ⟨rfl, rfl⟩

theorem getCol_keepsColumn_other {c : Nat} (hc : c ≠ col) : (keepsColumn y col cc q left a).getCol c = y.getCol c := by
  rw [keepsColumn, State.getCol_updCc, State.getCol_updCol_other _ _ _ _ hc, State.noteAges, State.getCol_updCol_other _ _ _ _ hc]

end

/-- R250: the one context of a column that may go on keeps it. -/
theorem State.yieldPoint_alone (s : State) {col k : Nat} (hk : k < 4) (halone : ∀ j < 4, j ≠ k → (s.getCc (ccKey col j)).st ≠ .ready) (from_ : Nat) :
    ∃ (a : SMap Nat → SMap Nat) (tq : List (Nat × Nat × List Byte)), s.yieldPoint col k from_ =
      { keepsColumn (s.yields col k) col (ccKey col k) (s.ctxQueue (ccKey col k))
          (sliceLeft s (ccKey col k) (s.getCc (ccKey col k)).stated (s.getCol col).sleft) a with traceQ := tq } := by
  have hcc : ∀ j, ((s.yields col k).noteAges col).getCc j = (s.updCc (ccKey col k) fun c => { c with st := .ready }).getCc j := fun _ => rfl
  have hother : ∀ j < 4, j ≠ k → (((s.yields col k).noteAges col).getCc (ccKey col j)).st ≠ .ready := fun j hj hne => by
    rw [hcc, State.getCc_updCc_other _ _ _ _ fun e => hne (ccKey_inj hj hk e)]
    exact halone j hj hne
  have hself : ((s.yields col k).noteAges col).getCc (ccKey col k) = { s.getCc (ccKey col k) with st := .ready } := by
    rw [hcc, State.getCc_updCc_same]
  have hqueue : ((s.yields col k).noteAges col).ctxQueue (ccKey col k) = s.ctxQueue (ccKey col k) := by
    simp only [State.ctxQueue, State.ctxLaunch, hself]
    rfl
  have hslice : ((s.yields col k).noteAges col).slice (ccKey col k) = s.slice (ccKey col k) := by
    simp only [State.slice, State.ctxLaunch, hself]
    rfl
  have hleft : (((s.yields col k).noteAges col).getCol col).sleft = (s.getCol col).sleft := by
    rw [State.noteAges, State.getCol_updCol_same, State.yields, State.getCol_updCol_same]
    rfl
  have hqueues : ((s.yields col k).noteAges col).readyQueues col = [s.ctxQueue (ccKey col k)] := by
    rw [State.readyQueues, State.readyCtxs_alone hk (by rw [hself]) hother, List.map_singleton, hqueue]
    rfl
  unfold State.yieldPoint keepsColumn
  dsimp only
  rw [← State.yields]
  generalize hs0 : (s.yields col k).noteAges col = s0 at *
  rw [hqueues, State.ranked_singleton, hqueue, hself, hslice, hleft]
  dsimp only
  by_cases hrun : (s.getCc (ccKey col k)).stated ≤ (s.getCol col).sleft <;>
    simp only [List.find?_cons, List.find?_nil, if_true, hrun, decide_true, decide_false, sliceLeft, if_false]
  · exact ⟨fun m => SMap.put m (s.ctxQueue (ccKey col k)) s0.clock, State.eventRecord_eq _ _ _ _⟩
  · exact ⟨fun m => SMap.put m (s.ctxQueue (ccKey col k)) s0.clock, State.eventRecord_eq _ _ _ _⟩

theorem getCc_yieldIssued_other (s : State) (run : Word) {k : Nat} (hk : k ≠ s.cc0) : (yieldIssued s run).getCc k = s.getCc k := by
  rw [yieldIssued, State.getCc_updCc_other _ _ _ _ hk, yielding, State.getCc_updCc_other _ _ _ _ hk]
  rfl

theorem getCc_yieldIssued (s : State) (run : Word) : (yieldIssued s run).getCc s.cc0 = issueRec s.clock (yieldRun s run (s.getCc s.cc0)) := by
  rw [yieldIssued, State.getCc_updCc_same, getCc_yielding]

theorem getCol_yieldIssued (s : State) (run : Word) (c : Nat) : (yieldIssued s run).getCol c = s.getCol c := by
  rw [yieldIssued, State.getCol_updCc, yielding, State.getCol_updCc]
  rfl

/-- R250: a YIELD on a column whose other contexts are not READY. -/
theorem yield_alone (h : Running s) (run : Word) (halone : ∀ k < 4, k ≠ s.cur.ctx → (s.getCc (ccKey s.cur.col k)).st ≠ .ready) (from_ : Nat) :
    let t := spliceLeft s (yieldDecided s run from_)
    { t with cc := s.cc, col := s.col, traceQ := s.traceQ, att := s.att } = s ∧ (∀ k, k ≠ s.cc0 → t.getCc k = s.getCc k) ∧
      (t.getCc s.cc0).st = .active ∧ (t.getCc s.cc0).cs = (s.getCc s.cc0).cs ∧
      (∀ c, c ≠ s.cur.col → t.getCol c = s.getCol c) ∧ (t.getCol s.cur.col).queue = some (s.ctxQueue s.cc0) ∧
      (t.getCol s.cur.col).sleft = if run.toNat ≤ (s.getCol s.cur.col).sleft then (s.getCol s.cur.col).sleft else s.slice s.cc0 := by
  dsimp only
  have hothers : ∀ j < 4, j ≠ s.cur.ctx → ((yieldIssued s run).getCc (ccKey s.cur.col j)).st ≠ .ready := fun j hj hne => by
    rw [getCc_yieldIssued_other _ _ fun e => hne (ccKey_inj hj h.ctx e)]
    exact halone j hj hne
  have hr := yieldDecided_rescheduled s run from_
  obtain ⟨a, q, hpoint⟩ := State.yieldPoint_alone (yieldIssued s run) h.ctx hothers from_
  have hself := getCc_yieldIssued s run
  have hqueue : (yieldIssued s run).ctxQueue s.cc0 = s.ctxQueue s.cc0 := by
    simp only [State.ctxQueue, State.ctxLaunch, hself]
    rfl
  have hslice : (yieldIssued s run).slice s.cc0 = s.slice s.cc0 := by
    simp only [State.slice, State.ctxLaunch, hself]
    rfl
  have hstated : ((yieldIssued s run).getCc s.cc0).stated = run.toNat := by rw [hself]; rfl
  change yieldDecided s run from_ = _ at hpoint
  rw [show ccKey s.cur.col s.cur.ctx = s.cc0 from rfl, hqueue, hstated, sliceLeft, hslice, getCol_yieldIssued,
    ← atDecision] at hpoint
  have hget : ∀ k, (yieldDecided s run from_).getCc k = (keepsColumn (atDecision s run) s.cur.col s.cc0 (s.ctxQueue s.cc0)
      (if run.toNat ≤ (s.getCol s.cur.col).sleft then (s.getCol s.cur.col).sleft else s.slice s.cc0) a).getCc k :=
    fun k => by rw [hpoint, getCc_traced]
  have hcol : ∀ k, (yieldDecided s run from_).getCol k = (keepsColumn (atDecision s run) s.cur.col s.cc0 (s.ctxQueue s.cc0)
      (if run.toNat ≤ (s.getCol s.cur.col).sleft then (s.getCol s.cur.col).sleft else s.slice s.cc0) a).getCol k :=
    fun k => by rw [hpoint, getCol_traced]
  have hactive : ((yieldDecided s run from_).getCc s.cc0).st = .active := by rw [hget, getCc_keepsColumn]
  have ht : spliceLeft s (yieldDecided s run from_) = yieldDecided s run from_ := by
    unfold spliceLeft State.commitSplice
    rw [hactive, if_neg (by decide)]
  rw [ht]
  have hcs : ((yieldDecided s run from_).getCc s.cc0).cs = (s.getCc s.cc0).cs := by
    rw [hr.cs, getCc_atDecision]
    rfl
  have hrest := hr.rest_of_plan (atDecision_rest s run)
  clear hpoint hr
  generalize yieldDecided s run from_ = y at *
  refine ⟨hrest, fun k hk => ?_, hactive, hcs, fun c hc => ?_, ?_, ?_⟩
  · rw [hget, getCc_keepsColumn_other _ _ _ _ _ _ hk, getCc_atDecision_other s run hk]
  · rw [hcol, getCol_keepsColumn_other _ _ _ _ _ _ hc, atDecision, State.yields, State.getCol_updCol_other _ _ _ _ hc]
    rfl
  · rw [hcol]
    exact (getCol_keepsColumn ..).1
  · rw [hcol]
    exact (getCol_keepsColumn ..).2

theorem yield_does (h : Running s) (run : Word) : ∃ t, exec (.yield run) s = .next t ∧ (t.getCc s.cc0).stated = run.toNat ∧
    (t.getCc s.cc0).measured = true ∧ (t.getCc s.cc0).meas = 1 ∧ (t.getCc s.cc0).yaddr = s.cur.bundle ∧ (t.getCc s.cc0).overran = false ∧
    (t.getCol s.cur.col).last = s.cur.ctx ∧
    ((t.getCc s.cc0).st = .active ∧ t.cd = s.cd ∧ t.mem = s.mem ∨ (t.getCc s.cc0).st = .ready ∧ ∀ k, t.getCd k = (s.splice s.cc0).getCd k) ∧
    ((∀ k < 4, k ≠ s.cur.ctx → (s.getCc (ccKey s.cur.col k)).st ≠ .ready) →
      { t with cc := s.cc, col := s.col, traceQ := s.traceQ, att := s.att } = s ∧ (∀ k, k ≠ s.cc0 → t.getCc k = s.getCc k) ∧
      (t.getCc s.cc0).st = .active ∧ (t.getCc s.cc0).cs = (s.getCc s.cc0).cs ∧
      (∀ c, c ≠ s.cur.col → t.getCol c = s.getCol c) ∧ (t.getCol s.cur.col).queue = some (s.ctxQueue s.cc0) ∧
      (t.getCol s.cur.col).sleft = if run.toNat ≤ (s.getCol s.cur.col).sleft then (s.getCol s.cur.col).sleft else s.slice s.cc0) := by
  obtain ⟨from_, ht⟩ := exec_yield h run
  obtain ⟨h1, h2, h3, h4, h5, h6⟩ := yield_sets s run from_
  exact ⟨_, ht, h1, h2, h3, h4, h5, h6, yield_leaves h run from_, fun halone => yield_alone h run halone from_⟩

end

/-- Settles O27. -/
theorem nopAndMarks : Obligations.NopAndMarks :=
  ⟨fun _ _ cls hready => nop_does cls hready, fun _ h => splice_issues h, fun _ run h => yield_does h run⟩

end Sys2Proof.Machine
end

section
/-! SUPPORT. States in which TLBI (R123) and CWLD (R321) do something else than their statements say. -/

set_option Elab.async false

namespace Sys2Proof.Machine

open Claims Tests

/-! ### A TLBI of firmware that releases a store -/

/-- A firmware context on die 0 that withholds a store of 5. -/
def fwState : State := { base with cur := { base.cur with ctx := 4 }, core := [(0, { fw := { blot := [⟨64, 64, 1#64, 5#512⟩] } })] }

theorem fw_ready : FwReady fwState hd0 := ⟨by decide, by decide, by decide, by decide⟩

/-- R220: the TLBI is a splice, which performs the store. -/
theorem tlbi_performs : leavesWith (fun t => t.readByte 64 == 5#8) (exec (.tlbi hd0 sync0) fwState) = true := by decide +kernel

theorem fwState_reads : fwState.readByte 64 = 0#8 := by decide +kernel

/-- Refutes O29: a firmware context may withhold stores, at most 128 lines; its TLBI is a splice, and performs them. -/
theorem not_tlbInvalidate : ¬Obligations.TlbInvalidate := by
  rintro ⟨-, hfw⟩
  obtain ⟨t, ht, hrest, -⟩ := hfw fwState hd0 sync0 fw_ready fun hkind => absurd hkind (by decide)
  have hbyte := tlbi_performs
  have hmem : t.mem = fwState.mem := (congrArg State.mem hrest :)
  rw [leavesWith_next ht, beq_iff_eq, State.readByte, hmem] at hbyte
  exact absurd (hbyte.symm.trans fwState_reads) (by decide)

/-! ### A CWLD whose source must wait -/

/-- A context that has asked for a stall, and whose BLAT is on its way to the bytes that S2 names. -/
def cwState : State := { base with
  att := { stall := some 0 }
  core := [(0, { blat := [{ due := 5, ck := 0, loc := 2 ^ 52 + 0x100, data := [(1#8, false)], sigSem := 0, sigInc := 0 }] })] }

/-- A CWLD of one word at S2 to entry 1. -/
def cwLoad1 : FSYNC := { sync0 with count := 1#24, imm := 1#64, sregA := .of 2 }

theorem cw_ready : Ready cwState hd0 := ⟨by decide, by decide, by decide, by decide, by decide⟩

/-- R191: the source waits for the BLAT: nothing is read, and the stall that the state asks for already stands. -/
theorem cw_source : cwState.cwSource 0 cwLoad1.count.toNat (sreg cwState 0 cwLoad1.sregA) (32 * cwLoad1.count.toNat) = ([], 0, none, none, cwState) := by
  decide +kernel

/-- No bytes decode as a NOP. -/
theorem cw_words : checkWords cwLoad1.imm.toNat cwLoad1.count.toNat [] = .ok [.nop ⟨0#8, 0#3, false, 0#8, 0#24, 0#8, 0#8⟩ 0#4] := by decide +kernel

/-- R321: the CWLD stalls, and loads nothing. -/
theorem cwld_stalls : leavesWith (fun t => (t.getCc cwState.cc0).cwLoad.isNone) (exec (.cwld hd0 cwLoad1) cwState) = true := by decide +kernel

theorem cwLoad_of_kept {x y : ColCtx} (h : KeptCc x y) : x.cwLoad = y.cwLoad := by
  unfold KeptCc at h
  rw [h]

/-- Refutes O30: the reading of a source that must wait leaves the state as it is where a stall is asked for already; CWLD then stalls. -/
theorem not_controlWordLoad : ¬Obligations.ControlWordLoad := by
  rintro ⟨-, hload⟩
  obtain ⟨hissues, -⟩ := hload cwState hd0 cwLoad1 0 [] [] 0 cw_ready (by decide) (.inr rfl) (by decide +kernel) cw_source
  obtain ⟨t, ht, hissued⟩ := hissues _ cw_words
  have hnone := cwld_stalls
  rw [leavesWith_next ht] at hnone
  rw [State.raise_nil, cwLoad_of_kept hissued.rel.keptCc] at hnone
  exact absurd hnone (by decide +kernel)

end Sys2Proof.Machine
end

section
/-! SUPPORT. The management registers: contracts (R252 to R254) and the precise stop (R295). -/

set_option Elab.async false

namespace Sys2Proof.Machine

open Claims Tests

/-! ### Contracts -/

theorem State.expert_iff (s : State) (f : Nat) : s.expert f = s.mgmt.getLsbD (2 * f + 1) := by
  rw [expert, bits, BitVec.getLsbD, Nat.testBit_eq_decide_div_mod_eq, beq_eq_decide]
  rfl

@[simp] theorem State.getContract_setContract_same (s : State) (k : Nat) (c : Contract) : (s.setContract k c).getContract k = c := by
  rw [getContract, setContract, SMap.get_set_same]

theorem State.getContract_setContract_other (s : State) {k j : Nat} (c : Contract) (h : j ≠ k) : (s.setContract k c).getContract j = s.getContract j := by
  rw [getContract, setContract, SMap.get_set_other _ _ _ _ _ h]
  rfl

/-- A contract is numbered 1 to 255 and is written at expert level. -/
theorem numbered_contract {s : State} {k : Nat} (h1 : 1 ≤ k) (h255 : k ≤ 255) (hx : s.mgmt.getLsbD 7 = true) :
    k ≠ 0 ∧ ¬k > 255 ∧ s.expert 3 = true :=
  ⟨by omega, by omega, (s.expert_iff 3).trans hx⟩

/-- R253: the test refuses a contract that is not well formed. -/
theorem State.admitTest_invalid {s : State} {k : Nat} {c : Contract}
    (h : c.t = 0 ∨ c.c = 0 ∨ c.t < c.c ∨ c.w = 0 ∨ s.partWidth c.part < c.w ∨ c.clsmask = 0 ∨ (bits c.clsmask 3 1 = 1 ∧ c.kmax = 0)) :
    s.admitTest k c = some 2 := by
  rw [admitTest]
  exact if_pos (by simpa [or_assoc] using h)

/-- What is spent of a full utilisation (R253). -/
def State.contractLoad (s : State) (k : Nat) (c : Contract) : Nat × Nat :=
  sumFrac (c.share :: (s.contracts.filter fun x => x.1 != k && x.2.st == 1 && x.2.part == c.part).map fun x => x.2.share)

theorem State.admitTest_valid {s : State} {k : Nat} {c : Contract}
    (h : ¬(c.t = 0 ∨ c.c = 0 ∨ c.t < c.c ∨ c.w = 0 ∨ s.partWidth c.part < c.w ∨ c.clsmask = 0 ∨ (bits c.clsmask 3 1 = 1 ∧ c.kmax = 0))) :
    s.admitTest k c =
      if c.c * classTenths c.fslow ≤ c.bound * 18 then some 1
      else if 85 * s.partWidth c.part * (s.contractLoad k c).2 < 100 * (s.contractLoad k c).1 then some 3 else none := by
  rw [admitTest]
  exact if_neg (by simpa [or_assoc] using h)

/-- An admitted contract: it begins now, with nothing spent (R253). -/
def State.admitted (s : State) (c : Contract) : Contract :=
  { c with st := 1, tau := s.clock, period := s.clock, spent := [], b := ceilDiv (c.bound * 18) (classTenths c.fslow) }

/-- What CONTRACT_ADMIT makes of the outcome of its test (R253). -/
def State.tested (s : State) (k : Nat) (c : Contract) : Option Nat → State
  | some r => s.setContract k { c with st := 2, reason := r }
  | none => s.setContract k (s.admitted c)

theorem execContractAdmit_eq {s : State} {k : Nat} (h1 : 1 ≤ k) (h255 : k ≤ 255) (hx : s.mgmt.getLsbD 7 = true) (hst : (s.getContract k).st ≠ 1) :
    exec (.contractAdmit k) s = .next (s.tested k (s.getContract k) (s.admitTest k (s.getContract k))) := by
  obtain ⟨h0, h256, hexp⟩ := numbered_contract h1 h255 hx
  change execContractAdmit k s = _
  rw [execContractAdmit]
  simp only [h0, h256, hst, hexp, decide_false, Bool.or_self, Bool.not_true, Bool.false_eq_true, if_false]
  cases s.admitTest k (s.getContract k) <;> rfl

/-- Settles O53: each event writes its one contract by the rule. -/
theorem contracts : Obligations.Contracts := by
  unfold Obligations.Contracts
  refine ⟨fun s k h1 h255 hx hst => ?_, fun s k h1 h255 hx => ?_, fun s k hst hper => ?_, fun s k col hst hover => ?_⟩
  · dsimp only
    rw [execContractAdmit_eq h1 h255 hx hst]
    refine ⟨_, rfl, ?_, ?_, fun hbad => ?_, fun hok htight => ?_, fun hok hloose hfull => ?_, fun hok hloose hroom => ?_⟩
    · cases s.admitTest k (s.getContract k) <;> rfl
    · intro j hj
      cases s.admitTest k (s.getContract k) <;> exact s.getContract_setContract_other _ hj
    · rw [State.admitTest_invalid hbad]
      exact s.getContract_setContract_same ..
    · rw [State.admitTest_valid hok, if_pos htight]
      exact s.getContract_setContract_same ..
    · rw [State.admitTest_valid hok, if_neg hloose, State.contractLoad, if_pos hfull]
      exact s.getContract_setContract_same ..
    · rw [State.admitTest_valid hok, if_neg hloose, State.contractLoad, if_neg hroom]
      have hset : (s.tested k (s.getContract k) none).getContract k = s.admitted (s.getContract k) := s.getContract_setContract_same ..
      rw [hset]
      exact ⟨rfl, rfl, rfl, rfl⟩
  · obtain ⟨h0, h256, hexp⟩ := numbered_contract h1 h255 hx
    refine ⟨s.setContract k { s.getContract k with st := 0 }, ?_, rfl, s.getContract_setContract_same .., fun j hj => s.getContract_setContract_other _ hj⟩
    change execContractRevoke k s = _
    simp [execContractRevoke, h0, h256, hexp]
  · refine ⟨s.setContract k _, ?_, rfl, s.getContract_setContract_same ..⟩
    change execContractPeriodStart k s = _
    simp [execContractPeriodStart, hst, hper]
  · refine ⟨s.setContract k { s.getContract k with spent := SMap.set 0 (s.getContract k).spent col (280 * (s.getContract k).c) }, ?_, rfl, ?_, fun c hc => ?_⟩
    · change execContractBudgetSpent k col s = _
      simp [execContractBudgetSpent, hst, hover]
    · rw [State.getContract_setContract_same, SMap.get_set_same]
    · rw [State.getContract_setContract_same, SMap.get_set_other _ _ _ _ _ hc]

/-! ### A column that runs again from a precise stop -/

/-- Column 0 is stopped, with its context ACTIVE, and recovery is at expert level. -/
def stoppedState : State := { base with mgmt := 0x200#64, col := [(0, { dbg := 3 })] }

/-- R295: RUN records where the column goes on, so that a breakpoint there is not taken again. -/
theorem run_records : leavesWith (fun t => (t.getCol 0).resAt.isSome) (exec (.dbgctlRun 0) stoppedState) = true := by decide +kernel

/-- Refutes O54: RUN changes more than the column's debug state: it records the bundle it resumes at. -/
theorem not_managementRegisters : ¬Obligations.ManagementRegisters := by
  rintro ⟨-, hdbg, -⟩
  obtain ⟨⟨t, ht, -, hcol, -⟩, -⟩ := (hdbg stoppedState 0 (by decide) (by decide)).2 (by decide)
  have hrec := run_records
  rw [leavesWith_next ht, hcol] at hrec
  exact absurd hrec (by decide)

end Sys2Proof.Machine
end

section
/-! SUPPORT. Accesses that stall in states which their statements do not exclude: an open merge window of another context (R208, R261), and stores that an earlier
fence holds (R194, R195). -/

set_option Elab.async false

namespace Sys2Proof.Machine

open Claims Tests

/-- What an operation that issues is said to leave, as the model evaluates it. -/
theorem does_leaves {i : Instr} {s : State} {h : Hdr} {b : Bool} {eff : Nat → State → State} {β : Type} [DecidableEq β] {g : State → β} {v : β}
    (hdoes : Does i s h b eff) (hg : ∀ {t u : State}, Issued s t u (s.enabled h) → g t = g u)
    (hv : leavesWith (fun t => decide (g t = v)) (exec i s) = true) :
    g (spliced ((s.enabled h).foldl (fun x d => eff d x) s) b) = v := by
  obtain ⟨t, ht, hissued⟩ := hdoes
  rw [leavesWith_next ht, State.raise_nil] at hv
  exact (hg hissued).symm.trans (of_decide_eq_true hv)

theorem Issued.podOut {s t u : State} {ds : List Nat} (h : Issued s t u ds) : t.podOut = u.podOut := (congrArg State.podOut h.rel.rest :)

theorem Issued.quad {s t u : State} {ds : List Nat} (h : Issued s t u ds) : t.quad = u.quad := (congrArg State.quad h.rel.rest :)

/-! ### Pod memory with a merge window open for the line -/

/-- Package 1, with a link to package 0; a context of die 1 has a merge window open for the line at 0x1000 of package 0. -/
def mergingState : State := { base with
  podform := 0x80000001#32
  podrt := [(0, 0x8000000000000001#64)]
  links := [(0, { up := true })]
  die := [(1, { merges := [⟨0, true, false, some (0, 0), 0x1000, 1, 9, []⟩] })] }

theorem merging_enabled : mergingState.enabled hd0 = [0] := by decide
theorem merging_ready : Ready mergingState hd0 := ⟨by decide, by decide, by decide, by decide, by decide⟩
theorem merging_calm : Calm mergingState 0 :=
  ⟨fun p hp => absurd (show p ∈ ([] : List Pend) from hp) List.not_mem_nil, fun p hp => absurd (show p ∈ ([] : List RecPend) from hp) List.not_mem_nil,
    by decide +kernel⟩

/-- The doubleword of S11 lies in package 0. -/
theorem merging_reaches (rd wr : Bool) (t : Ty) (n : Nat) (data : Nat) (hn : 0x80000000001000 % n = 0)
    (hat : mergingState.place 0 .sc 0x80000000001000 rd wr = (.pod 0 0x1000, mergingState))
    (ha : memAt mergingState 0 (fm t 0 11 data 0) = 0x80000000001000) :
    Reaches mergingState 0 (memAt mergingState 0 (fm t 0 11 data 0)) n rd wr (.pod 0 0x1000) := by
  rw [ha]
  exact ⟨hn, hat, merging_calm, by change mergingState.podFault _ _ _ = none; decide +kernel⟩

theorem merging_ld : leavesWith (fun t => decide ((t.getCd 0).pend.length = 0)) (exec (.ld hd0 (fm .n64 0 11 9 0)) mergingState) = true := by decide +kernel

theorem only_die {s : State} {h : Hdr} (he : s.enabled h = [0]) {P : Nat → Prop} (hp : P 0) : ∀ d ∈ s.enabled h, P d := by
  rw [he]
  exact fun d hd => List.mem_singleton.1 hd ▸ hp

/-- Refutes O17: a load from another package waits for the merge window that any context has open for its line (R261). -/
theorem not_scalarLoad : ¬Obligations.ScalarLoad := by
  intro h
  have hdoes := h mergingState hd0 (fm .n64 0 11 9 0) (fun _ => .pod 0 0x1000) merging_ready (only_die merging_enabled
    ⟨fun _ => .inr rfl, fun p hp => absurd (show p ∈ ([] : List Pend) from hp) List.not_mem_nil,
      merging_reaches _ _ _ _ _ (by decide +kernel) (by decide +kernel) (by decide +kernel), nofun⟩)
  have hpend := does_leaves hdoes (g := fun t => (t.getCd 0).pend.length) (fun hi => congrArg List.length (hi.pendAt 0)) merging_ld
  exact absurd hpend (by decide +kernel)

theorem merging_st : leavesWith (fun t => decide (t.podOut = [])) (exec (.st hd0 (fm .n64 0 11 4 0)) mergingState) = true := by decide +kernel

/-- Refutes O18: so does a store to another package. -/
theorem not_scalarStore : ¬Obligations.ScalarStore := by
  intro h
  have hdoes := h mergingState hd0 (fm .n64 0 11 4 0) (fun _ => .pod 0 0x1000) merging_ready (only_die merging_enabled
    ⟨fun _ => .inr rfl, .inr rfl, merging_reaches _ _ _ _ _ (by decide +kernel) (by decide +kernel) (by decide +kernel)⟩)
    (only_die merging_enabled (by decide +kernel))
  exact absurd (does_leaves hdoes Issued.podOut merging_st) (by decide +kernel)

theorem merging_shape : leavesWith (fun t => decide (t.podOut = [])) (exec (.shape hd0 (fm .b 0 11 0 0)) mergingState) = true := by decide +kernel

/-- Refutes O35: and the read of a record there. -/
theorem not_sparseAndRecords : ¬Obligations.SparseAndRecords := by
  rintro ⟨-, hshape, -⟩
  obtain ⟨hrec, -⟩ := hshape mergingState hd0 (fm .b 0 11 0 0) merging_ready (only_die merging_enabled fun _ => .inr rfl)
  have hdoes := hrec (fun _ => .pod 0 0x1000) (only_die merging_enabled
    ⟨merging_reaches _ _ _ _ _ (by decide +kernel) (by decide +kernel) (by decide +kernel), nofun⟩)
  exact absurd (does_leaves hdoes Issued.podOut merging_shape) (by decide +kernel)

/-! ### An atomic that releases -/

/-- A context whose earlier fence holds a store, as the next iteration is tried. -/
def lateAmoState : State := { base with clock := 1, cd := [(0, { ws := ws0, dup := ws0, trbase := 1#64, late := [⟨64, 64, 1#64, 5#512⟩] })] }

theorem lateAmo_ready : Ready lateAmoState hd0 := ⟨by decide, by decide, by decide, by decide, by decide⟩
theorem lateAmo_enabled : lateAmoState.enabled hd0 = [0] := by decide
theorem lateAmo_calm : Calm lateAmoState 0 :=
  ⟨fun p hp => absurd (show p ∈ ([] : List Pend) from hp) List.not_mem_nil, fun p hp => absurd (show p ∈ ([] : List RecPend) from hp) List.not_mem_nil,
    by decide +kernel⟩

/-- An AMO of S3 to 0x40 after S2, which is a release (R195). -/
def amoRel : FMEM := { fm .n64 0x40 2 4 3 with sub := 0x80#8 }

theorem late_amo : leavesWith (fun t => decide ((t.getCd 0).pend.length = 0)) (exec (.amo hd0 amoRel) lateAmoState) = true := by decide +kernel

/-- Refutes O19: a release waits for the stores that an earlier fence holds, which a context that is `Calm` may still have. -/
theorem not_atomics : ¬Obligations.Atomics := by
  intro h
  have hplace : memAt lateAmoState 0 amoRel = spadBase + 0x140 := by decide +kernel
  have hdoes := h lateAmoState hd0 amoRel (fun _ => .ok (2 ^ 52 + 0x140) 1 8) false lateAmo_ready (only_die lateAmo_enabled
    ⟨fun _ => .inr rfl, .inr rfl, fun _ => .inr rfl, fun p hp => absurd (show p ∈ ([] : List Pend) from hp) List.not_mem_nil, by
      rw [hplace]
      exact ⟨by decide +kernel, by unfold At; decide +kernel, lateAmo_calm, by change lateAmoState.spadHeld _ _ _ = false; decide +kernel⟩,
      by rintro _ _ _ ⟨⟩; exact ⟨by decide +kernel, fun _ => .inl (by decide)⟩⟩) (fun _ => by decide)
  have hpend := does_leaves hdoes (g := fun t => (t.getCd 0).pend.length) (fun hi => congrArg List.length (hi.pendAt 0)) late_amo
  exact absurd hpend (by decide +kernel)

end Sys2Proof.Machine
end

section
/-! SUPPORT. A BLAT of no bytes at the end of the scratchpad (R169), a COLL on its way to an engine (R310), and an
envelope operation that has a clock of issue (R193). -/

set_option Elab.async false

namespace Sys2Proof.Machine

open Claims Tests

/-- A BLAT of no bytes at the first address after the scratchpad. -/
def blatNone : FEN := { en0 with dbase := .of 2, doff := 0x1FFF00#24 }

theorem baseQ_ready : Ready baseQ hd0 := ⟨by decide, by decide, by decide, by decide, by decide⟩
theorem baseQ_enabled : baseQ.enabled hd0 = [0] := by decide

/-- The place that the BLAT takes at the bus. -/
def latPlaces (s : State) : List Nat := (s.getQuad 0).lat.map BusLat.loc

theorem blat_wraps : leavesWith (fun t => decide (latPlaces t = [spadLoc 0 0 0])) (exec (.blat hd0 blatNone) baseQ) = true := by decide +kernel

/-- Refutes O41: the model takes an address modulo the size of the scratchpad, so a BLAT of no bytes just after it has the place of its first byte. -/
theorem not_slateBusOperations : ¬Obligations.SlateBusOperations := by
  intro h
  obtain ⟨-, hblat, -⟩ := h baseQ hd0 blatNone baseQ_ready (by decide)
  have hdoes := hblat (only_die baseQ_enabled ⟨⟨⟨_, rfl, by decide⟩, by decide +kernel⟩, by decide +kernel, fun _ => .inr rfl,
    fun p hp => absurd (show p ∈ ([] : List Pend) from hp) List.not_mem_nil, fun i hi => absurd hi (Nat.not_lt_zero i)⟩)
  have hplace := does_leaves hdoes (g := latPlaces) (fun hi => by rw [latPlaces, latPlaces, State.getQuad, State.getQuad, Issued.quad hi]) blat_wraps
  exact absurd hplace (by decide +kernel)

/-! ### A COLL takes its number -/

/-- The launch of the context, issued for every die. -/
def collLaunch : Launch := (baseAll.ctxLaunch baseAll.cc0).get (by decide +kernel)

theorem baseAll_ready : Ready baseAll hdA := ready_of _ _ (by decide +kernel)

theorem coll_numbered : leavesWith (fun t => decide ((t.getCd 0).colls = 1)) (exec (.coll hdA (fcoll 1 2)) baseAll) = true := by decide +kernel

theorem Issued.core {s t u : State} {ds : List Nat} (h : Claims.Issued s t u ds) : t.core = u.core := (congrArg State.core h.rel.rest :)

theorem Issued.colls {s t u : State} {ds : List Nat} (h : Claims.Issued s t u ds) (k : Nat) : (t.getCd k).colls = (u.getCd k).colls :=
  (congrArg CtxDie.colls (h.sameAt k) :)

/-- Refutes O40: a COLL that goes to an engine takes the next number of its context too, for it is given back only if it is refused (R310). -/
theorem not_collective : ¬Obligations.Collective := by
  intro h
  obtain ⟨hall, -⟩ := h baseAll hdA (fcoll 1 2) collLaunch baseAll_ready (by decide +kernel) (by simp [collLaunch])
  have hdoes := hall (by decide +kernel) (by unfold Settled Writable BaseOk EndsOk Settled; decide +kernel)
  exact absurd (does_leaves hdoes (g := fun t => (t.getCd 0).colls) (fun hi => Issued.colls hi 0) coll_numbered) (by decide +kernel)

/-! ### The clock of an envelope operation -/

/-- `base`, one clock later. -/
def clock1 : State := { base with clock := 1 }

theorem clock1_ready : Ready clock1 hd0 := ready_of _ _ (by decide +kernel)
theorem clock1_enabled : clock1.enabled hd0 = [0] := by decide

/-- The clocks at which what stands in the envelope unit of core 0 was issued. -/
def evIssued (s : State) : List Nat := (s.getCore 0).evq.map EvOp.issued

theorem emax_issued : leavesWith (fun t => decide (evIssued t = [1])) (exec (.emax hd0 ev0) clock1) = true := by decide +kernel

/-- Refutes O43: an operation in the queue holds the clock of its issue too, by which the order of R193 is kept. -/
theorem not_envelopeOperations : ¬Obligations.EnvelopeOperations := by
  rintro ⟨⟨hemax, -⟩, -⟩
  have hdoes := hemax clock1 hd0 ev0 clock1_ready (only_die clock1_enabled
    ⟨fun e he => absurd (show e ∈ ([] : List EvOp) from he) List.not_mem_nil, by unfold EvRoom; decide +kernel⟩)
  have hissued := does_leaves hdoes (g := evIssued) (fun hi => by rw [evIssued, evIssued, State.getCore, State.getCore, Issued.core hi]) emax_issued
  exact absurd hissued (by decide +kernel)

end Sys2Proof.Machine
end

section
/-! SUPPORT. A start-up that goes on with another attempt (R277). -/

set_option Elab.async false

namespace Sys2Proof.Machine

open Claims Tests

/-- A warm start whose step 6 waits for the session of link 2 only, which is over its time. A die has failed, so another attempt follows, in which die 0 fails;
on die 0 a context of a launch has a store that an earlier fence holds. -/
def restartingState : State := { base.setLink 2 { sess := some (0, false) } with
  clock := 3600000000
  start := some ⟨true, 1, [], [[(0, 2)]], [(9, 2)], [], true⟩
  cd := [(0, { ws := ws0, dup := ws0, trbase := 1#64, late := [⟨64, 64, 1#64, 5#512⟩] })] }

theorem restarting_stores : leavesWith (fun t => t.readByte 64 == 5#8) (exec (.attestationTimeout 20) restartingState) = true := by decide +kernel

/-- Refutes O59: a LIVE die that fails a step of a warm start's next attempt ends its teams, and their stores that a splice has released are performed (R378). -/
theorem not_startUp : ¬Obligations.StartUp := by
  rintro ⟨-, -, -, htimeout, -⟩
  obtain ⟨t, ht, hmem, -⟩ := htimeout restartingState _ 2 0 false rfl rfl (by decide) (by decide) (by decide) (by decide)
  have hstores := restarting_stores
  rw [leavesWith_next ht, State.readByte, hmem] at hstores
  exact absurd hstores (by decide +kernel)

end Sys2Proof.Machine
end

section
/-! SUPPORT. Stream reads (R372). -/

set_option Elab.async false

namespace Sys2Proof.Machine

open Claims

section

variable {s o : State} {h : Hdr}

/-! ### Attempts that block on some die -/

/-- What the body `f` of an operation comes to on a die, of which `P` says whether it blocks there: it meets no fault. -/
def BlocksWhere (s : State) (h : Hdr) (f : Nat → State → State) (r : BlkReason) (P : Nat → Bool) (X : State → Prop) : Prop :=
  ∀ d o, d ∈ s.enabled h → Fresh s o d → X o → (f d o).freeCtr = o.freeCtr ∧ (f d o).att.faults = o.att.faults ∧
    (f d o).att.block = (if P d then some (o.att.block.getD r) else o.att.block) ∧ X (f d o) ∧
    ∀ e ∈ s.enabled h, e ≠ d → Fresh s o e → Fresh s (f d o) e

/-- R53, R92: an operation that blocks on a die where it is enabled, and meets no fault, blocks its context. -/
theorem blocks_of_where {i : Instr} {f : Nat → State → State} {r : BlkReason} {P : Nat → Bool} {X : State → Prop} (hready : Ready s h)
    (hexec : exec i s = s.attempt fun s => s.onDies h f) (hf : BlocksWhere s h f r P X) (hX : X s.noAtt) (hsome : (s.enabled h).any P = true) : Blocks i s r := by
  have hfold := foldl_each (f := fun o d => f d (o.waitOn d h))
    (Q := fun done o => o.freeCtr = s.freeCtr ∧ o.att.faults = [] ∧ o.att.block = (if done.any P then some r else none) ∧ X o)
    (P := fun d o => Fresh s o d) (s.enabled h) [] s.noAtt (s.enabled_nodup h) ⟨rfl, rfl, rfl, hX⟩ (fun d _ => Fresh.start s _ d) (by
      intro done d o hd ⟨hfree, hfaults, hblock, hx⟩ hfresh
      rw [hfresh.waitOn (hready.wait d hd)]
      obtain ⟨h1, h2, h3, h4, h5⟩ := hf d o hd hfresh hx
      refine ⟨⟨h1.trans hfree, h2.trans hfaults, ?_, h4⟩, h5⟩
      rw [h3, hblock, List.any_append]
      cases hp : P d <;> cases done.any P <;> simp [hp])
  obtain ⟨hfree, hfaults, hblock, -⟩ := hfold
  have hkeep : (State.onDies s.noAtt h f).freeCtr = s.freeCtr ∧ (State.onDies s.noAtt h f).att.faults = [] ∧
      (State.onDies s.noAtt h f).att.block = some r := by
    rw [List.nil_append, hsome, if_pos rfl] at hblock
    unfold State.onDies
    dsimp only
    split <;> exact ⟨hfree, hfaults, hblock⟩
  obtain ⟨h1, h2, h3⟩ := hkeep
  exact blocks_of_attempt hexec h1 (by rw [h2]; rfl) h3

/-! ### The body of VRDQ -/

/-- R58: a result latch emptied. -/
theorem Looks.emptyHold {d : Nat} {sl : SMap SlotDie} (hl : Looks o s d sl) (pos : Nat) :
    o.emptyHold d pos = o.setSlots (s.ck0 d) (SMap.upd {} sl s.cur.slot fun x => { x with hold := SMap.set none x.hold pos none }) := by
  unfold State.emptyHold State.updSlotD State.updD State.setSlots State.updCd
  rw [hl.ck0, hl.cur, hl.cd]

/-- The stream that a VRDQ reads on a die. -/
def streamAt (s : State) (f : FRRR) (d : Nat) : Stream := SMap.get {} (s.ctxD d).q f.srcA.n

/-- R126, R372: whether the oldest element of a die's stream is poisoned. -/
def headPoisoned (s : State) (f : FRRR) (d : Nat) : Bool := ((streamAt s f d).elems.head?.map Prod.snd).getD false

/-- R372: the fault after the iteration on the dies of which the element is poisoned. -/
def poisonedReads (s : State) (f : FRRR) (ds : List Nat) : List (Nat × FRec) :=
  (ds.filter fun d => headPoisoned s f d).map fun d => (d, { code := 10, slot := s.cur.slot, r1 := s.cur.bundle })

/-- What VRDQ asks for after some dies. -/
def vrdqAsks (s : State) (f : FRRR) (done : List Nat) : Att := { splicesAfter done with trap := poisonedReads s f done }

/-- R372: the stream of a die without its oldest element. -/
def popStream (s : State) (f : FRRR) (d : Nat) (rest : List (Vec × Bool)) (x : State) : State :=
  x.updCd (s.ck0 d) fun c => { c with q := SMap.set {} c.q f.srcA.n { streamAt s f d with elems := rest } }

/-- R372: the oldest element removed and, unless it is poisoned, left for the enabled lanes. -/
def readsStream (s : State) (h : Hdr) (f : FRRR) (d : Nat) (x : State) : State :=
  match (streamAt s f d).elems with
  | [] => x
  | (v, p) :: rest =>
    Claims.leave s d (if p then [] else [{ resultOf s h false 2 .v f.dst.n v (laneMask (acts s d f.pr)) 0 0 with sb := true, bundle := 0#64 }])
      (popStream s f d rest x)

theorem readsStream_cons {f : FRRR} {d : Nat} {v : Vec} {p : Bool} {rest : List (Vec × Bool)} (hq : (streamAt s f d).elems = (v, p) :: rest) (x : State) :
    readsStream s h f d x = Claims.leave s d
      (if p then [] else [{ resultOf s h false 2 .v f.dst.n v (laneMask (acts s d f.pr)) 0 0 with sb := true, bundle := 0#64 }]) (popStream s f d rest x) := by
  rw [readsStream, hq]

theorem poisonedReads_single (f : FRRR) (d : Nat) :
    poisonedReads s f [d] = if headPoisoned s f d then [(d, { code := 10, slot := s.cur.slot, r1 := s.cur.bundle })] else [] := by
  rw [poisonedReads, List.filter_singleton]
  cases headPoisoned s f d <;> rfl

theorem poisonedReads_append (f : FRRR) (done : List Nat) (d : Nat) :
    poisonedReads s f (done ++ [d]) = poisonedReads s f done ++ poisonedReads s f [d] := by
  simp only [poisonedReads, List.filter_append, List.map_append]

/-- R372: the latches of a die after VRDQ. -/
def vrdqLatches (s : State) (d : Nat) : SMap SlotDie :=
  SMap.upd {} (s.ctxD d).ws.slots s.cur.slot fun x => { x with hold := SMap.set none x.hold 80 none }

/-- R372: what VRDQ does on a die whose oldest element is poisoned. -/
theorem Fresh.vrdqDie_poisoned {f : FRRR} {d : Nat} {v : Vec} {rest : List (Vec × Bool)} (hf : Fresh s o d) (hk : s.ck0 d < 1024) (hp : PrOk s d f.pr)
    (hw : Writable s d .v f.dst.n) (hq : (streamAt s f d).elems = (v, true) :: rest) : o.vrdqDie h f d =
      { popStream s f d rest (o.setSlots (s.ck0 d) (vrdqLatches s d)) with att := { o.att with trap := o.att.trap ++ poisonedReads s f [d] } } := by
  have hst : SMap.get {} (o.ctxD d).q f.srcA.n = streamAt s f d := by rw [hf.ctxD, streamAt]
  have hl := hf.looks.setSlots hk (vrdqLatches s d)
  have hatt : o.att = (o.setSlots (s.ck0 d) (vrdqLatches s d)).att := (State.updCd_keeps _ _).1.symm
  rw [poisonedReads_single, headPoisoned, hq]
  unfold State.vrdqDie
  rw [hf.looks.lanes hp]
  dsimp only
  rw [hst, hq]
  dsimp only
  rw [hf.looks.writable hw, hf.looks.emptyHold, ← vrdqLatches, hatt]
  generalize o.setSlots (s.ck0 d) (vrdqLatches s d) = x at hl
  have hpop : x.updD d (fun c => { c with q := SMap.set {} c.q f.srcA.n { streamAt s f d with elems := rest } }) = popStream s f d rest x := by
    rw [State.updD, hl.ck0, popStream]
  obtain ⟨hx, hcur, -⟩ : (popStream s f d rest x).att = x.att ∧ (popStream s f d rest x).cur = x.cur ∧ _ := State.updCd_keeps _ _
  rw [hpop, if_pos rfl, ← hl.cur, ← hcur, ← hx]
  rfl

/-- R372: what VRDQ does on a die whose oldest element is not. -/
theorem Fresh.vrdqDie_sound {f : FRRR} {d : Nat} {v : Vec} {rest : List (Vec × Bool)} (hf : Fresh s o d) (hk : s.ck0 d < 1024) (hp : PrOk s d f.pr)
    (hw : Writable s d .v f.dst.n) (hq : (streamAt s f d).elems = (v, false) :: rest) :
    o.vrdqDie h f d = readsStream s h f d (o.setSlots (s.ck0 d) (vrdqLatches s d)) := by
  have hst : SMap.get {} (o.ctxD d).q f.srcA.n = streamAt s f d := by rw [hf.ctxD, streamAt]
  have hl := hf.looks.setSlots hk (vrdqLatches s d)
  unfold State.vrdqDie
  rw [hf.looks.lanes hp]
  dsimp only
  rw [hst, hq]
  dsimp only
  rw [hf.looks.writable hw, hf.looks.emptyHold, ← vrdqLatches, readsStream_cons hq]
  generalize o.setSlots (s.ck0 d) (vrdqLatches s d) = x at hl
  have hpop : x.updD d (fun c => { c with q := SMap.set {} c.q f.srcA.n { streamAt s f d with elems := rest } }) = popStream s f d rest x := by
    rw [State.updD, hl.ck0, popStream]
  obtain ⟨-, hcur, hclock⟩ : _ ∧ (popStream s f d rest x).cur = x.cur ∧ (popStream s f d rest x).clock = x.clock := State.updCd_keeps _ _
  rw [hpop, hcur, hclock, hl.cur, hl.clock, State.updD, State.ck0, State.cc0, hcur, hl.cur]
  rfl

theorem Fresh.vrdqDie_empty {f : FRRR} {d : Nat} (hf : Fresh s o d) (hp : PrOk s d f.pr) (hq : (streamAt s f d).elems = []) :
    o.vrdqDie h f d = o.blockFor .stream := by
  have hst : SMap.get {} (o.ctxD d).q f.srcA.n = streamAt s f d := by rw [hf.ctxD, streamAt]
  unfold State.vrdqDie
  rw [hf.looks.lanes hp]
  dsimp only
  rw [hst, hq]

end

end Sys2Proof.Machine

namespace Sys2Proof.Claims

open Machine

/-- An update that leaves the context of a die as it is. -/
theorem Issued.updCd_id {s t u : State} {ds : List Nat} (hi : Issued s t u ds) {k : Nat} (hk : k < 1024) {F : CtxDie → CtxDie} (hF : ∀ c, F c = c) :
    Issued s t (u.updCd k F) ds := by
  have hget : ∀ j, (u.updCd k F).getCd j = u.getCd j := fun j => by
    by_cases hj : j = k
    · rw [hj, State.getCd_updCd_same, hF]
    · exact State.getCd_updCd_other _ _ _ _ hj
  have e : u.updCd k F = { u with cd := (u.updCd k F).cd } := by simp only [State.updCd, State.setCd, if_pos (Or.inl hk : k < 1024 ∨ 2048 ≤ k)]
  have hcc : (u.updCd k F).cc = u.cc := by rw [e]
  have hrel := hi.rel
  refine ⟨?_, fun j hj => ?_, fun d hd => ?_, fun j hj => ?_, ?_⟩
  · have := hrel.rest
    rw [hcc, e]
    exact congrArg (fun v : State => { v with cd := (u.updCd k F).cd }) this
  · rw [hget]; exact hrel.other j hj
  · rw [hget]; exact hi.sameAt _
  · rw [State.getCc, State.getCc, hcc]; exact hrel.otherCc j hj
  · rw [State.getCc, State.getCc, hcc]; exact hrel.keptCc

end Sys2Proof.Claims

namespace Sys2Proof.Machine

open Claims

section

variable {s o : State} {h : Hdr}

theorem readsStream_quiet (f : FRRR) : Quiet (effects (readsStream s h f) (s.enabled h) s) s := by
  refine effects_quiet (fun d x hx => ?_) _
  unfold readsStream
  split
  · exact hx
  · refine Quiet.leave (Quiet.updCd hx _ _ fun c => ?_) d _
    rfl

theorem vrdq_acts (hready : Ready s h) {f : FRRR} (hok : ∀ d ∈ s.enabled h, PrOk s d f.pr ∧ Writable s d .v f.dst.n)
    (hsome : ∀ d ∈ s.enabled h, (streamAt s f d).elems ≠ []) :
    Acts s h (fun d s => (s.vrdqDie h f d).splices) (readsStream s h f) (vrdqAsks s f) (fun _ _ => True) := by
  intro done d o hd hissued hatt hfresh _
  obtain ⟨hp, hw⟩ := hok d hd
  have hk : s.ck0 d < 1024 := ck0_lt (cc0_lt hready.col hready.ctx) (State.enabled_lt hd)
  have hslots := hissued.setSlots hd hk (vrdqLatches s d)
  have hpopped (rest : List (Vec × Bool)) : Issued s (popStream s f d rest (o.setSlots (s.ck0 d) (vrdqLatches s d)))
      (popStream s f d rest (effects (readsStream s h f) done s)) (s.enabled h) :=
    hslots.updCd _ hk _ (fun x y e => by unfold KeptCd at *; rw [e]) fun x y e => (sameCd_iff.1 e).2
  have hfe (rest : List (Vec × Bool)) : ∀ e, e ≠ d → Fresh s o e → Fresh s (popStream s f d rest (o.setSlots (s.ck0 d) (vrdqLatches s d))) e :=
    fun e hne he => (he.setSlots hne hk _).updCd hne hk _
  have hasks (l : List (Nat × FRec)) (hl : l = poisonedReads s f [d]) : ({ o.att with trap := o.att.trap ++ l, splice := true } : Att) = vrdqAsks s f (done ++ [d]) := by
    rw [hatt, vrdqAsks, vrdqAsks, splicesAfter_append, poisonedReads_append, hl]
    rfl
  obtain ⟨⟨v, p⟩, rest, hq⟩ := List.exists_cons_of_ne_nil (hsome d hd)
  cases p with
  | true =>
    dsimp only
    rw [hfresh.vrdqDie_poisoned hk hp hw hq, readsStream_cons hq, if_pos rfl]
    exact ⟨((hpopped rest).updCd_id hk fun c => by rw [List.append_nil]).att_left _, hasks _ rfl, fun e _ hne he _ => ⟨(hfe rest e hne he).att _, trivial⟩⟩
  | false =>
    dsimp only
    rw [hfresh.vrdqDie_sound hk hp hw hq, readsStream_cons hq, readsStream_cons hq]
    refine ⟨((hpopped rest).leave hk _).att_left _, ?_, fun e _ hne he _ => ⟨((hfe rest e hne he).leave hne hk _).splices, trivial⟩⟩
    rw [← hasks [] (by rw [poisonedReads_single, headPoisoned, hq]; rfl), List.append_nil, State.splices]
    have hkeep (rest : List (Vec × Bool)) (l : List Pend) : (Claims.leave s d l (popStream s f d rest (o.setSlots (s.ck0 d) (vrdqLatches s d)))).att = o.att :=
      (State.updCd_keeps _ _).1.trans ((State.updCd_keeps _ _).1.trans (State.updCd_keeps _ _).1)
    rw [hkeep]

theorem State.freeCtr_updCd (x : State) (k : Nat) (F : CtxDie → CtxDie) : (x.updCd k F).freeCtr = x.freeCtr := by
  unfold State.updCd State.setCd
  split <;> rfl

/-- R372: a VRDQ on a die whose stream has an element meets no fault and does not block. -/
theorem Fresh.vrdqDie_keeps {f : FRRR} {d : Nat} (hf : Fresh s o d) (hk : s.ck0 d < 1024) (hp : PrOk s d f.pr) (hw : Writable s d .v f.dst.n)
    (hq : (streamAt s f d).elems ≠ []) : (o.vrdqDie h f d).freeCtr = o.freeCtr ∧ (o.vrdqDie h f d).att.faults = o.att.faults ∧
      (o.vrdqDie h f d).att.block = o.att.block ∧ ∀ e, e ≠ d → Fresh s o e → Fresh s (o.vrdqDie h f d) e := by
  obtain ⟨⟨v, p⟩, rest, hq⟩ := List.exists_cons_of_ne_nil hq
  have hpop : (popStream s f d rest (o.setSlots (s.ck0 d) (vrdqLatches s d))).freeCtr = o.freeCtr :=
    (State.freeCtr_updCd _ _ _).trans (State.freeCtr_updCd _ _ _)
  have hfe : ∀ e, e ≠ d → Fresh s o e → Fresh s (popStream s f d rest (o.setSlots (s.ck0 d) (vrdqLatches s d))) e :=
    fun e hne he => (he.setSlots hne hk _).updCd hne hk _
  cases p with
  | true =>
    rw [hf.vrdqDie_poisoned hk hp hw hq]
    exact ⟨hpop, rfl, rfl, fun e hne he => (hfe e hne he).att _⟩
  | false =>
    have hatt : (o.vrdqDie h f d).att = o.att := by
      rw [hf.vrdqDie_sound hk hp hw hq, readsStream_cons hq]
      exact (State.updCd_keeps _ _).1.trans ((State.updCd_keeps _ _).1.trans (State.updCd_keeps _ _).1)
    refine ⟨?_, congrArg Att.faults hatt, congrArg Att.block hatt, fun e hne he => ?_⟩
    · rw [hf.vrdqDie_sound hk hp hw hq, readsStream_cons hq]
      exact (State.freeCtr_updCd _ _ _).trans hpop
    · rw [hf.vrdqDie_sound hk hp hw hq, readsStream_cons hq]
      exact (hfe e hne he).leave hne hk _

theorem vrdq_blocks (hready : Ready s h) {f : FRRR} (hok : ∀ d ∈ s.enabled h, PrOk s d f.pr ∧ Writable s d .v f.dst.n) :
    BlocksWhere s h (fun d s => (s.vrdqDie h f d).splices) .stream (fun d => (streamAt s f d).elems.isEmpty) fun _ => True := by
  intro d o hd hfresh _
  obtain ⟨hp, hw⟩ := hok d hd
  by_cases hq : (streamAt s f d).elems = []
  · dsimp only
    rw [hfresh.vrdqDie_empty hp hq, if_pos (List.isEmpty_iff.2 hq)]
    exact ⟨rfl, rfl, rfl, trivial, fun e _ _ he => (he.att _).splices⟩
  · obtain ⟨h1, h2, h3, h4⟩ := hfresh.vrdqDie_keeps (h := h) (ck0_lt (cc0_lt hready.col hready.ctx) (State.enabled_lt hd)) hp hw hq
    rw [if_neg (by rwa [List.isEmpty_iff])]
    exact ⟨h1, h2, h3, trivial, fun e _ hne he => (h4 e hne he).splices⟩

/-- VRDQ asks for a splice, and for the faults of its poisoned elements after it. -/
theorem Plain.of_vrdq (f : FRRR) :
    Plain (if signals s h then { vrdqAsks s f (s.enabled h) with splice := true } else vrdqAsks s f (s.enabled h)) (forces s h) (poisonedReads s f (s.enabled h)) := by
  obtain ⟨-, -, -, -, -, -, -, -, hsplice, -⟩ := Plain.of_forces s h
  split
  next hs =>
    rw [if_pos hs] at hsplice
    exact ⟨rfl, rfl, rfl, rfl, rfl, rfl, rfl, rfl, hsplice, rfl⟩
  next hs =>
    rw [if_neg hs] at hsplice
    exact ⟨rfl, rfl, rfl, rfl, rfl, rfl, rfl, rfl, hsplice, rfl⟩

/-- Settles O22. -/
theorem streamRead : Obligations.StreamRead := by
  intro s h f hready q hok
  refine ⟨fun hsome => ⟨fun d => laneMask (acts s d f.pr), fun d _ j hj => getLsbD_laneMask _ hj, ?_⟩, fun ⟨d, hd, hq⟩ => ?_⟩
  · refine does_of_acts (fun _ _ => True) hready rfl (vrdq_acts hready hok hsome) (fun _ _ => trivial) rfl (Plain.of_vrdq f) rfl rfl (readsStream_quiet f).sameSeat
      ((readsStream_quiet f).blotCount ▸ hready.blot)
  · exact blocks_of_where hready rfl (vrdq_blocks hready hok) trivial (List.any_eq_true.2 ⟨d, hd, by rw [streamAt]; exact List.isEmpty_iff.2 hq⟩)

end

end Sys2Proof.Machine
end

section
/-! SUPPORT. Vector conversions (R42, R357, R358, R371). -/

set_option Elab.async false

namespace Sys2Proof.Machine

open Claims

/-! ### Parts of elements -/

section

variable {w wd k x : Nat}

theorem part_le (hw : w = wd * k) (hx : x < k) : wd * x + wd ≤ w := by
  rw [hw, ← Nat.mul_succ]
  exact Nat.mul_le_mul_left _ hx

/-- R357: part `x` of element `i`. -/
theorem elem_part (hw : w = wd * k) (hx : x < k) (v : Vec) (i : Nat) : elem wd v (k * i + x) = (elem w v i).extractLsb' (wd * x) wd := by
  have hle := part_le hw hx
  refine BitVec.eq_of_getLsbD_eq fun j hj => ?_
  simp only [elem, BitVec.getLsbD_extractLsb', hj, show wd * x + j < w by omega, decide_true, Bool.true_and]
  congr 1
  rw [hw]
  ring

/-- R357: part `x` of an element that holds `v` there. -/
theorem ofNat_part (hw : w = wd * k) (hx : x < k) (v : Nat) : (BitVec.ofNat w (v * 2 ^ (wd * x))).extractLsb' (wd * x) wd = BitVec.ofNat wd v := by
  have hle := part_le hw hx
  refine BitVec.eq_of_getLsbD_eq fun j hj => ?_
  simp only [BitVec.getLsbD_extractLsb', BitVec.getLsbD_ofNat, hj, show wd * x + j < w by omega, decide_true, Bool.true_and,
    Nat.testBit_mul_two_pow, Nat.le_add_right, Nat.add_sub_cancel_left]

/-- R357: bit `j` lies in part `x` of an element. -/
theorem div_part (hwd : 0 < wd) (hw : w = wd * k) (i : Nat) {j : Nat} (hj : j / w = i) : j / wd = k * i + x ↔ wd * x ≤ j % w ∧ j % w < wd * x + wd := by
  have hsplit : j / wd = k * i + j % w / wd := by
    rw [← Nat.mul_add_div hwd, ← mul_assoc, ← hw, ← hj, Nat.div_add_mod]
  rw [hsplit, Nat.add_left_cancel_iff, Nat.div_eq_iff hwd, Nat.mul_comm x wd]
  omega

/-- R43, R357: the bits written are those of part `x` of the enabled elements. -/
theorem getLsbD_partMask (hwd : 0 < wd) (hw : w = wd * k) (hx : x < k) (hd : w ∣ 512) (on : Nat → Bool) {j : Nat} (hj : j < 512) :
    (ofElems w ((List.range (512 / w)).map fun i => if on i then (2 ^ wd - 1) * 2 ^ (wd * x) else 0)).getLsbD j = true ↔
      ∃ i, w * (i + 1) ≤ 512 ∧ on i = true ∧ j / wd = k * i + x := by
  have hpos : 0 < w := hw ▸ Nat.mul_pos hwd (by omega)
  have hc : j / w < 512 / w := Nat.div_lt_div_of_lt_of_dvd hd hj
  have hle := part_le hw hx
  have hmod := Nat.mod_lt j hpos
  have hbit : (if on (j / w) then (2 ^ wd - 1) * 2 ^ (wd * x) else 0).testBit (j % w) = true ↔ on (j / w) = true ∧ j / wd = k * (j / w) + x := by
    rw [div_part hwd hw _ rfl]
    cases on (j / w) with
    | false => simp
    | true => simp only [if_true, Nat.testBit_mul_two_pow, Nat.testBit_two_pow_sub_one, Bool.and_eq_true, decide_eq_true_eq, true_and]; omega
  rw [getLsbD_eq_elem hpos, elem_ofElems hpos ((lt_count_iff hpos).1 hc), getD_map_range hc, BitVec.getLsbD_ofNat, decide_eq_true hmod, Bool.true_and, hbit]
  refine ⟨fun h => ⟨j / w, (lt_count_iff hpos).1 hc, h⟩, fun ⟨i, _, hon, hi⟩ => ?_⟩
  have hji : j / w = i := by rw [hw, ← Nat.div_div_eq_div_mul, hi, Nat.mul_add_div (by omega), Nat.div_eq_of_lt hx, Nat.add_zero]
  rw [hji]
  exact ⟨hon, hi⟩

end

/-! ### VCVT (R357) -/

/-- R357: the width of an element pair of VCVT, the parts of it, and the part that the narrower element takes. -/
def cvtWidth (f : FRRR) : Nat := Nat.max f.ty.width f.ty2.width
def cvtParts (f : FRRR) : Nat := cvtWidth f / Nat.min f.ty.width f.ty2.width

/-- R357: pair `i` of VCVT converted, with its flags. -/
def cvtResult (s : State) (f : FRRR) (d i : Nat) : Nat × Nat :=
  convert f.ty f.ty2 (RM.ofCode f.rm.toNat)
    (elem f.ty2.width (src s d 91 .v f.srcA) (if f.ty2.width = cvtWidth f then i else cvtParts f * i + f.sub.toNat)).toNat

/-- R357: VCVT's destination on a die, and the bits that it writes. -/
def cvtPlace (f : FRRR) (v : Nat) : Nat := if f.ty.width = cvtWidth f then v else v * 2 ^ (f.ty.width * f.sub.toNat)
def cvtData (s : State) (f : FRRR) (d : Nat) : Vec :=
  ofElems (cvtWidth f) ((List.range (512 / cvtWidth f)).map fun i => cvtPlace f (cvtResult s f d i).1)
def cvtMask (s : State) (f : FRRR) (d : Nat) : Vec :=
  ofElems (cvtWidth f) ((List.range (512 / cvtWidth f)).map fun i =>
    if elemOn (cvtWidth f) (acts s d f.pr) i then cvtPlace f (2 ^ f.ty.width - 1) else 0)
def cvtFlags (s : State) (f : FRRR) (d : Nat) : Nat :=
  orFlags (cvtWidth f) (acts s d f.pr) ((List.range (512 / cvtWidth f)).map fun i => (cvtResult s f d i).2)

/-- R76: a legal VCVT names a part of its element pairs. -/
theorem vcvt_legal {h : Hdr} {f : FRRR} (hl : (Instr.vcvt h f).legal = true) : f.sub.toNat < 8 ∧ f.sub.toNat < cvtParts f := by
  have := limOk_of_legal hl
  simpa [chkOf, rrrChk, cvtParts, cvtWidth] using this

theorem cvtWidth_pos (f : FRRR) : 0 < cvtWidth f := (width_pos f.ty).trans_le (Nat.le_max_left _ _)

theorem cvtWidth_dvd (f : FRRR) : cvtWidth f ∣ 512 := by
  rcases Nat.le_total f.ty.width f.ty2.width with h | h
  · rw [cvtWidth, Nat.max_eq_max, Nat.max_eq_right h]; exact width_dvd _
  · rw [cvtWidth, Nat.max_eq_max, Nat.max_eq_left h]; exact width_dvd _

/-- R357: an element pair is a whole number of the narrower elements. -/
theorem cvtWidth_eq (f : FRRR) : cvtWidth f = Nat.min f.ty.width f.ty2.width * cvtParts f := by
  unfold cvtParts cvtWidth
  cases f.ty <;> cases f.ty2 <;> rfl

/-- R357: the destination elements in a pair, and the one that is written. -/
def cvtDstParts (f : FRRR) : Nat := if f.ty.width = cvtWidth f then 1 else cvtParts f
def cvtDstPart (f : FRRR) : Nat := if f.ty.width = cvtWidth f then 0 else f.sub.toNat

theorem cvtDst {f : FRRR} (hx : f.sub.toNat < cvtParts f) :
    cvtWidth f = f.ty.width * cvtDstParts f ∧ cvtDstPart f < cvtDstParts f ∧ ∀ v, cvtPlace f v = v * 2 ^ (f.ty.width * cvtDstPart f) := by
  unfold cvtDstParts cvtDstPart cvtPlace
  by_cases h : f.ty.width = cvtWidth f
  · simp only [if_pos h]
    exact ⟨by rw [mul_one, h], Nat.one_pos, fun v => by simp⟩
  · have hmin : Nat.min f.ty.width f.ty2.width = f.ty.width := by
      unfold cvtWidth at h
      simp only [Nat.min_eq_min, Nat.max_eq_max] at h ⊢
      omega
    have hw := cvtWidth_eq f
    rw [hmin] at hw
    simp only [if_neg h]
    exact ⟨hw, hx, fun _ => trivial⟩

theorem cvtDst_index (f : FRRR) (i : Nat) :
    (if f.ty.width = cvtWidth f then i else cvtParts f * i + f.sub.toNat) = cvtDstParts f * i + cvtDstPart f := by
  unfold cvtDstParts cvtDstPart
  split
  · rw [one_mul, Nat.add_zero]
  · rfl

/-- R357: the source element of a pair lies in the source register. -/
theorem cvtSrc_getD {f : FRRR} (hx : f.sub.toNat < cvtParts f) (a : Vec) {i : Nat} (hi : i < 512 / cvtWidth f) (z : Nat) :
    (elems f.ty2.width a).getD (if f.ty2.width = cvtWidth f then i else cvtParts f * i + f.sub.toNat) z =
      (elem f.ty2.width a (if f.ty2.width = cvtWidth f then i else cvtParts f * i + f.sub.toNat)).toNat := by
  rw [elems_eq_map, getD_map_range]
  have hle := (lt_count_iff (cvtWidth_pos f)).1 hi
  rw [lt_count_iff (width_pos _)]
  split
  next h => rwa [h]
  next h =>
    have hmin : Nat.min f.ty.width f.ty2.width = f.ty2.width := by
      unfold cvtWidth at h
      simp only [Nat.min_eq_min, Nat.max_eq_max] at h ⊢
      omega
    have hw := cvtWidth_eq f
    rw [hmin] at hw
    refine le_trans ?_ hle
    rw [hw, mul_assoc]
    refine Nat.mul_le_mul_left _ ?_
    rw [Nat.mul_succ]
    omega

theorem vcvtDie_leaves {s : State} {h : Hdr} {f : FRRR} {d : Nat} (hl : (Instr.vcvt h f).legal = true) (hready : Ready s h) (hd : d ∈ s.enabled h)
    (hsrc : SrcsOk s d f 1) : Leaves (·.vcvtDie h f d) s h d 4 .v f.dst.n (cvtData s f d) (cvtMask s f d) (cvtFlags s f d) h.group.toNat
      (latchedOne s d 91 .v f.srcA) := by
  intro o hsees
  obtain ⟨hpr, ha, -, -⟩ := hsrc
  obtain ⟨hx8, hx⟩ := vcvt_legal hl
  obtain ⟨o1, e1, h1, k1⟩ := hsees.rdOne hready hd (ha le_rfl)
  refine ⟨o1, ?_, h1, k1⟩
  have hres : (List.range (512 / cvtWidth f)).map (fun i => convert f.ty f.ty2 (RM.ofCode f.rm.toNat)
      ((elems f.ty2.width (src s d 91 .v f.srcA)).getD (if f.ty2.width = cvtWidth f then i else cvtParts f * i + f.sub.toNat) 0)) =
      (List.range (512 / cvtWidth f)).map (cvtResult s f d) :=
    List.map_congr_left fun i hi => by rw [cvtSrc_getD hx _ (List.mem_range.1 hi), cvtResult]
  have hzip : ((List.range (512 / cvtWidth f)).zip ((List.range (512 / cvtWidth f)).map (cvtResult s f d))).map (fun y => cvtPlace f y.2.1) =
      (List.range (512 / cvtWidth f)).map fun i => cvtPlace f (cvtResult s f d i).1 := by
    have := List.zip_map' (f := id) (g := cvtResult s f d) (l := List.range (512 / cvtWidth f))
    rw [List.map_id] at this
    rw [this, List.map_map]
    rfl
  simp only [State.vcvtDie, hsees.lanes hpr, e1, Nat.mod_eq_of_lt hx8]
  change o1.result d h 4 .v f.dst.n (ofElems (cvtWidth f) (((List.range (512 / cvtWidth f)).zip ((List.range (512 / cvtWidth f)).map
    fun i => convert f.ty f.ty2 (RM.ofCode f.rm.toNat) ((elems f.ty2.width (src s d 91 .v f.srcA)).getD
      (if f.ty2.width = cvtWidth f then i else cvtParts f * i + f.sub.toNat) 0))).map fun y => cvtPlace f y.2.1)) _
    (orFlags (cvtWidth f) (acts s d f.pr) (((List.range (512 / cvtWidth f)).map
    fun i => convert f.ty f.ty2 (RM.ofCode f.rm.toNat) ((elems f.ty2.width (src s d 91 .v f.srcA)).getD
      (if f.ty2.width = cvtWidth f then i else cvtParts f * i + f.sub.toNat) 0)).map Prod.snd)) _ true = _
  rw [hres, hzip, List.map_map]
  rfl

/-- R357: VCVT converts each enabled pair's source element. -/
theorem vcvt_delivers {s : State} {h : Hdr} {f : FRRR} (hl : (Instr.vcvt h f).legal = true) (hready : Ready s h)
    (hok : ∀ d ∈ s.enabled h, SrcsOk s d f 1 ∧ Writable s d .v f.dst.n) :
    Delivers (.vcvt h f) s h 4 .v f.dst.n (cvtData s f) (cvtMask s f) (cvtFlags s f) h.group.toNat :=
  delivers_of_leaves (fun d => latchedOne s d 91 .v f.srcA) hready rfl fun d hd => ⟨(hok d hd).2, vcvtDie_leaves hl hready hd (hok d hd).1⟩

theorem elem_cvtData {s : State} {f : FRRR} (hx : f.sub.toNat < cvtParts f) (d : Nat) {i : Nat} (hi : cvtWidth f * (i + 1) ≤ 512) :
    elem f.ty.width (cvtData s f d) (cvtDstParts f * i + cvtDstPart f) = BitVec.ofNat f.ty.width (cvtResult s f d i).1 := by
  obtain ⟨hw, hlt, hplace⟩ := cvtDst hx
  rw [elem_part hw hlt, cvtData, elem_ofElems (cvtWidth_pos f) hi, getD_map_range ((lt_count_iff (cvtWidth_pos f)).2 hi), hplace, ofNat_part hw hlt]

theorem getLsbD_cvtMask {s : State} {f : FRRR} (hx : f.sub.toNat < cvtParts f) (d : Nat) {j : Nat} (hj : j < 512) :
    (cvtMask s f d).getLsbD j = true ↔
      ∃ i, cvtWidth f * (i + 1) ≤ 512 ∧ elemActs s d f.pr (cvtWidth f) i = true ∧ j / f.ty.width = cvtDstParts f * i + cvtDstPart f := by
  obtain ⟨hw, hlt, hplace⟩ := cvtDst hx
  rw [cvtMask]
  simp only [hplace]
  exact getLsbD_partMask (width_pos _) hw hlt (cvtWidth_dvd f) _ hj

theorem getLsbD_cvtFlags (s : State) (f : FRRR) (d : Nat) {b : Nat} (hb : b < 32) : (BitVec.ofNat 32 (cvtFlags s f d)).getLsbD b = true ↔
    ∃ i, cvtWidth f * (i + 1) ≤ 512 ∧ elemActs s d f.pr (cvtWidth f) i = true ∧ (cvtResult s f d i).2.testBit b = true := by
  rw [BitVec.getLsbD_ofNat, decide_eq_true hb, Bool.true_and, cvtFlags, testBit_orFlags]
  simp only [lt_count_iff (cvtWidth_pos f)]
  rfl

/-! ### VDEQ (R358) -/

/-- R358: the lane that VDEQ decodes. -/
def deqLane (s : State) (f : FRRR) (d n : Nat) : Nat :=
  let w := f.ty2.width
  let k := f.sub.toNat / 8 % 2
  decodeBK f.ty2 (bits (lane (src s d 91 .v f.srcA) n) (w * (f.sub.toNat % 8)) w) (bits (lane (src s d 102 .v f.srcB) n) (16 * k) 8)
    (bits (lane (src s d 102 .v f.srcB) n) (16 * k + 8) 8)

/-- R58: the latches after VDEQ's two sources. -/
def deqLatches (s : State) (f : FRRR) (d : Nat) : SMap SlotDie :=
  latched (latchedOne s d 91 .v f.srcA) s.cur.slot 102 f.srcB (src s d 102 .v f.srcB)

theorem vdeqDie_leaves {s : State} {h : Hdr} {f : FRRR} {d : Nat} (hready : Ready s h) (hd : d ∈ s.enabled h) (hsrc : SrcsOk s d f 2) :
    Leaves (·.vdeqDie h f d) s h d 4 .v f.dst.n (vecOfLanes (deqLane s f d)) (laneMask (acts s d f.pr)) 0 h.group.toNat (deqLatches s f d) := by
  intro o hsees
  obtain ⟨hpr, ha, hb, -⟩ := hsrc
  obtain ⟨o1, e1, h1, k1⟩ := hsees.rdOne hready hd (ha (by decide))
  obtain ⟨o2, e2, h2, k2⟩ := h1.rdSrc (State.enabled_lt hd) (cc0_lt hready.col hready.ctx) (hb le_rfl) (holds_latched_other _ _ _ _ _ _ (by decide))
  refine ⟨o2, ?_, h2, fun k hk => (k2 k hk).trans (k1 k hk)⟩
  simp only [State.vdeqDie, hsees.lanes hpr, e1, e2]
  rfl

/-- An element of a lane by itself. -/
theorem toNat_elem_lane (w i : Nat) (v : Vec) (n : Nat) : (elem w ((elem 32 v n).setWidth 512) i).toNat = bits (lane v n) (w * i) w := by
  rw [elem, BitVec.extractLsb'_toNat, BitVec.toNat_setWidth_of_le (by decide), Nat.shiftRight_eq_div_pow, lane_eq_elem, bits]

/-- R358: VDEQ decodes one block element a lane. -/
theorem vdeq_delivers {s : State} {h : Hdr} {f : FRRR} (hready : Ready s h) (hok : ∀ d ∈ s.enabled h, SrcsOk s d f 2 ∧ Writable s d .v f.dst.n) :
    Delivers (.vdeq h f) s h 4 .v f.dst.n (fun d => vecOfLanes (deqLane s f d)) (fun d => laneMask (acts s d f.pr)) (fun _ => 0) h.group.toNat :=
  delivers_of_leaves (deqLatches s f) hready rfl fun d hd => ⟨(hok d hd).2, vdeqDie_leaves hready hd (hok d hd).1⟩

theorem vdeq_elements (s : State) (h : Hdr) (f : FRRR) : Elements s h f.pr 32
    (fun d n =>
      let x := elem f.ty2.width (elem 32 (src s d 91 .v f.srcA) n |>.setWidth 512) (f.sub.toNat % 8)
      let b := elem 32 (src s d 102 .v f.srcB) n |>.setWidth 512
      let i := 2 * (f.sub.toNat / 8 % 2)
      BitVec.ofNat 32 (decodeBK f.ty2 x.toNat (elem 8 b i).toNat (elem 8 b (i + 1)).toNat))
    (fun _ _ => 0) (fun d => vecOfLanes (deqLane s f d)) (fun d => laneMask (acts s d f.pr)) fun _ => 0 := by
  intro d _
  refine ⟨fun n hn => ?_, fun j hj => ?_, fun k _ => by simp⟩
  · rw [elem_vecOfLanes _ (by omega)]
    simp only [toNat_elem_lane, deqLane]
    rw [show 8 * (2 * (f.sub.toNat / 8 % 2)) = 16 * (f.sub.toNat / 8 % 2) by ring, show 8 * (2 * (f.sub.toNat / 8 % 2) + 1) = 16 * (f.sub.toNat / 8 % 2) + 8 by ring]
  · rw [getLsbD_laneMask _ hj, elemActs, Nat.mul_div_cancel_left _ (by decide)]

/-! ### VQUANT (R371) -/

/-- R371: the block that VQUANT quantises. -/
def quantSrc (s : State) (f : FRRR) (d : Nat) : List Nat := (List.range 32).map fun i =>
  if f.ty2 = .f32 then (if i < 16 then elem 32 (src s d 91 .v f.srcA) i else elem 32 (src s d 102 .v f.srcB) (i - 16)).toNat
  else (convert .f32 f.ty2 .rne (elem 16 (src s d 91 .v f.srcA) i).toNat).1

/-- R371: the scales that VQUANT is given, and those that it uses. -/
def quantGiven (s : State) (f : FRRR) (d : Nat) : Option (Nat × Nat) :=
  if f.sub.getLsbD 6 then some ((elem 8 (src s d 113 .v f.srcC) 0).toNat, (elem 8 (src s d 113 .v f.srcC) 1).toNat) else none
def quantPair (s : State) (f : FRRR) (d : Nat) : Nat × Nat := quantScales f.ty (quantSrc s f d) (qsplit (s.ctxD d).ws.qctl f.ty) (quantGiven s f d)

/-- R371: element `i` of the block quantised: its code, whether it saturates, whether it is a NaN under given scales. -/
def quantAt (s : State) (f : FRRR) (d i : Nat) : Nat × Bool × Bool :=
  quantElem f.ty (quantPair s f d).1 (quantPair s f d).2 ((quantSrc s f d).getD i 0)

theorem quantBlock_eq (t : Ty) (xs : List Nat) (qs : Nat) (g : Option (Nat × Nat)) : quantBlock t xs qs g =
    let p := quantScales t xs qs g
    let es := xs.map (quantElem t p.1 p.2)
    (es.map Prod.fst, p.1, p.2, (es.filter fun e => e.2.1).length, es.any fun e => e.2.2) := rfl

theorem quantBlock_codes (t : Ty) (xs : List Nat) (qs : Nat) (g : Option (Nat × Nat)) :
    (quantBlock t xs qs g).1 = xs.map fun x => (quantElem t (quantScales t xs qs g).1 (quantScales t xs qs g).2 x).1 := by
  rw [quantBlock_eq]
  exact List.map_map ..

/-- R371: VQUANT's sources in the model's terms. -/
theorem elems_append_eq (a b : Vec) :
    elems 32 a ++ elems 32 b = (List.range 32).map fun i => (if i < 16 then elem 32 a i else elem 32 b (i - 16)).toNat := by
  rw [elems_eq_map, elems_eq_map]
  rfl

theorem bits_one_eq_one (x k : Nat) : bits x k 1 = 1 ↔ x.testBit k = true := by
  rw [bits, Nat.testBit_eq_decide_div_mod_eq, decide_eq_true_iff, pow_one]

/-- R58: a source that an operation reads only where `p`. -/
theorem Sees.rdIf {o s : State} {d : Nat} {sl : SMap SlotDie} (h : Sees o s d sl) (hd : d < 8) (hc : s.cc0 < 128) {p : Prop} [Decidable p] {pos : Nat}
    {r : Reg} (hs : p → SrcOk s d pos .v r) (hl : holds sl s.cur.slot pos = SMap.get none (s.slotD d).hold pos) :
    ∃ o', (if p then o.rdSrc d pos .v r else (0#512, o)) = (if p then src s d pos .v r else 0#512, o') ∧
      Sees o' s d (if p then latched sl s.cur.slot pos r (src s d pos .v r) else sl) ∧ ∀ k, k ≠ s.ck0 d → o'.getCd k = o.getCd k := by
  by_cases hp : p
  · simp only [if_pos hp]
    exact h.rdSrc hd hc (hs hp) hl
  · simp only [if_neg hp]
    exact ⟨o, rfl, h, fun _ _ => rfl⟩

/-- R58: the latches after VQUANT's sources. -/
def quantLatchesB (s : State) (f : FRRR) (d : Nat) : SMap SlotDie :=
  if (f.ty2 == .f32) = true then latched (latchedOne s d 91 .v f.srcA) s.cur.slot 102 f.srcB (src s d 102 .v f.srcB) else latchedOne s d 91 .v f.srcA
def quantLatches (s : State) (f : FRRR) (d : Nat) : SMap SlotDie :=
  if bits f.sub.toNat 6 1 = 1 then latched (quantLatchesB s f d) s.cur.slot 113 f.srcC (src s d 113 .v f.srcC) else quantLatchesB s f d

/-- R371: the lanes that a quantised block fills, and the first of them. -/
def quantLanes (f : FRRR) : Nat := 32 / if f.ty == .bk4 then 8 else 4
def quantBase (f : FRRR) : Nat := f.sub.toNat % 32 * quantLanes f

/-- R371: the scale pair in its place, the data in their place; the bits written; the flags of the enabled elements. -/
def quantData (s : State) (f : FRRR) (d : Nat) : Vec :=
  if f.sub.getLsbD 5 then BitVec.ofNat 512 ((quantPair s f d).1 + 256 * (quantPair s f d).2) <<< (16 * (f.sub.toNat % 32))
  else BitVec.ofNat 512 (leNat (packElems f.ty ((quantSrc s f d).map fun x => (quantElem f.ty (quantPair s f d).1 (quantPair s f d).2 x).1))) <<<
    (32 * quantBase f)
def quantMask (s : State) (f : FRRR) (d : Nat) : Vec :=
  if f.sub.getLsbD 5 then (BitVec.ofNat 512 0xFFFF <<< (16 * (f.sub.toNat % 32))) &&& laneMask (acts s d f.pr)
  else laneMask fun n => acts s d f.pr n && quantBase f ≤ n && n < quantBase f + quantLanes f
def quantFlag (e : Nat × Bool × Bool) : Nat := orFl (if e.2.1 then flSAT else 0) (if e.2.2 then flNV else 0)
def quantFlags (s : State) (f : FRRR) (d : Nat) : Nat :=
  if f.sub.getLsbD 5 then 0
  else ((List.range 32).zip ((quantSrc s f d).map (quantElem f.ty (quantPair s f d).1 (quantPair s f d).2))).foldl
    (fun m y => if acts s d f.pr (quantBase f + y.1 / if f.ty == .bk4 then 8 else 4) then orFl m (quantFlag y.2) else m) 0

/-- R371: VQUANT's sources and the scales that it is given. -/
theorem vquant_reads (s : State) (f : FRRR) (d : Nat) :
    (if (f.ty2 == .f32) = true then elems 32 (src s d 91 .v f.srcA) ++ elems 32 (if (f.ty2 == .f32) = true then src s d 102 .v f.srcB else 0#512)
      else (elems 16 (src s d 91 .v f.srcA)).map fun v => (convert .f32 f.ty2 .rne v).1) = quantSrc s f d ∧
    (if bits f.sub.toNat 6 1 = 1 then some (bits (if bits f.sub.toNat 6 1 = 1 then src s d 113 .v f.srcC else 0#512).toNat 0 8,
      bits (if bits f.sub.toNat 6 1 = 1 then src s d 113 .v f.srcC else 0#512).toNat 8 8) else none) = quantGiven s f d := by
  constructor
  · by_cases ht : f.ty2 = .f32
    · simp only [ht, beq_self_eq_true, if_true, quantSrc, elems_append_eq]
    · simp only [beq_eq_false_iff_ne.2 ht, Bool.false_eq_true, if_false, quantSrc, if_neg ht, elems_eq_map, List.map_map]
      rfl
  · rw [quantGiven, BitVec.getLsbD]
    by_cases hb : bits f.sub.toNat 6 1 = 1
    · have hbyte (i : Nat) : bits (src s d 113 .v f.srcC).toNat (8 * i) 8 = (elem 8 (src s d 113 .v f.srcC) i).toNat := by
        rw [bits, elem, BitVec.extractLsb'_toNat, Nat.shiftRight_eq_div_pow]
      simp only [if_pos hb, if_pos ((bits_one_eq_one _ _).1 hb), ← hbyte]
    · rw [if_neg hb, if_neg fun h => hb ((bits_one_eq_one _ _).2 h)]

theorem vquantDie_leaves {s : State} {h : Hdr} {f : FRRR} {d : Nat} (hready : Ready s h) (hd : d ∈ s.enabled h) (hsrc : SrcsOk s d f 1)
    (hb : f.ty2 = .f32 → SrcOk s d 102 .v f.srcB) (hc : f.sub.getLsbD 6 = true → SrcOk s d 113 .v f.srcC) :
    Leaves (·.vquantDie h f d) s h d 8 .v f.dst.n (quantData s f d) (quantMask s f d) (quantFlags s f d) h.group.toNat (quantLatches s f d) := by
  intro o hsees
  obtain ⟨hpr, ha, -, -⟩ := hsrc
  have hd8 := State.enabled_lt hd
  have hcc := cc0_lt hready.col hready.ctx
  obtain ⟨o1, e1, h1, k1⟩ := hsees.rdOne hready hd (ha le_rfl)
  obtain ⟨o2, e2, h2, k2⟩ := h1.rdIf hd8 hcc (p := (f.ty2 == .f32) = true) (fun h => hb (eq_of_beq h)) (holds_latched_other _ _ _ _ _ _ (by decide))
  obtain ⟨o3, e3, h3, k3⟩ := h2.rdIf hd8 hcc (p := bits f.sub.toNat 6 1 = 1) (fun h => hc ((bits_one_eq_one _ _).1 h)) (by
    refine Eq.trans ?_ (holds_latched_other (s.ctxD d).ws.slots s.cur.slot 91 113 f.srcA (src s d 91 .v f.srcA) (by decide))
    split
    · exact holds_latched_other _ _ _ _ _ _ (by decide)
    · rfl)
  obtain ⟨hxs, hgiven⟩ := vquant_reads s f d
  refine ⟨o3, ?_, h3, fun k hk => (k3 k hk).trans ((k2 k hk).trans (k1 k hk))⟩
  have hq : (o3.ctxD d).ws.qctl = (s.ctxD d).ws.qctl := by
    rw [State.ctxD, h3.ck0, h3.cd]
    rfl
  simp only [State.vquantDie, hsees.lanes hpr, e1, e2, e3, hxs, hgiven, hq]
  rw [← quantPair]
  unfold quantData quantMask quantFlags
  rw [BitVec.getLsbD]
  by_cases h5 : bits f.sub.toNat 5 1 = 1
  · simp only [if_pos h5, if_pos ((bits_one_eq_one _ _).1 h5)]
  · simp only [if_neg h5, if_neg fun h => h5 ((bits_one_eq_one _ _).2 h), List.map_map]
    rfl

/-! ### What VQUANT writes -/

/-- An element of a register moved up by `m` elements. -/
theorem elem_shiftLeft {w : Nat} (v : Vec) (m i : Nat) (hi : w * (m + i + 1) ≤ 512) : elem w (v <<< (w * m)) (m + i) = elem w v i := by
  refine BitVec.eq_of_getLsbD_eq fun j hj => ?_
  have hlt : w * (m + i) + j < 512 := by rw [Nat.mul_succ] at hi; omega
  simp only [elem, BitVec.getLsbD_extractLsb', BitVec.getLsbD_shiftLeft, hj, decide_true, Bool.true_and, hlt]
  have hge : ¬w * (m + i) + j < w * m := by rw [Nat.mul_add]; omega
  rw [decide_eq_false hge, Bool.not_false, Bool.true_and, Nat.mul_add]
  congr 1
  omega

theorem packElems_eight {t : Ty} (ht : t.width = 8) (l : List Nat) : leNat (packElems t l) = packFields (List.replicate l.length 8) l := by
  induction l with
  | nil => rw [packElems]; rfl
  | cons a l ih =>
    rw [packElems.eq_def]
    simp only [ht, show (8 : Nat) ≠ 4 by decide, if_false, show 8 / 8 = 1 from rfl, leBytes, List.cons_append, List.nil_append, leNat, ih, BitVec.toNat_ofNat,
      List.length_cons, List.replicate_succ, packFields]
    rfl

theorem packElems_four {t : Ty} (ht : t.width = 4) : ∀ l : List Nat, leNat (packElems t l) = packFields (List.replicate l.length 4) l
  | [] => by rw [packElems]; rfl
  | [a] => by
    rw [packElems, ht]
    simp [leNat, packFields]
    omega
  | a :: b :: l => by
    rw [packElems, ht]
    simp only [if_true, leNat, packElems_four ht l, List.length_cons, List.replicate_succ, packFields, BitVec.toNat_ofNat]
    omega

/-- R371: an element of a quantised block's data. -/
theorem elem_packElems {t : Ty} (ht : t.width = 4 ∨ t.width = 8) {l : List Nat} (hl : l.length = 32) {i : Nat} (hi : i < 32) :
    elem t.width (BitVec.ofNat 512 (leNat (packElems t l))) i = BitVec.ofNat t.width (l.getD i 0) := by
  have hpack : leNat (packElems t l) = packFields (List.replicate 32 t.width) l := by
    rcases ht with h | h
    · rw [packElems_four h, hl, h]
    · rw [packElems_eight h, hl, h]
  have hle : t.width * 32 ≤ 512 := by omega
  have hlt := (packFields_replicate_lt t.width 32 l).trans_le (Nat.pow_le_pow_right Nat.two_pos hle)
  apply BitVec.eq_of_toNat_eq
  rw [elem, BitVec.extractLsb'_toNat, BitVec.toNat_ofNat, hpack, Nat.mod_eq_of_lt hlt, Nat.shiftRight_eq_div_pow, BitVec.toNat_ofNat]
  exact packFields_replicate_field _ 32 l i hi

/-- R76, R371: a legal VQUANT gives a block type, and names a block of the register where it writes data. -/
theorem vquant_legal {h : Hdr} {f : FRRR} (hl : (Instr.vquant h f).legal = true) : (f.ty = .bk8 ∨ f.ty = .bk4) ∧
    (f.sub.getLsbD 5 = false → 32 * f.ty.width * (f.sub.toNat % 32 + 1) ≤ 512) := by
  have hlim := limOk_of_legal hl
  have hty := tyOk_of_legal hl
  simp only [chkOf, rrrChk, List.isEmpty_cons, Bool.false_or, Bool.and_eq_true, List.contains_iff_mem, List.mem_cons, List.not_mem_nil, or_false,
    Option.getD_some, decide_eq_true_eq, Bool.or_eq_true, beq_iff_eq] at hlim hty
  refine ⟨hty.1, fun h5 => ?_⟩
  have hbit : ¬f.sub.toNat / 32 % 2 = 1 := fun e => by
    rw [BitVec.getLsbD, Nat.testBit_eq_decide_div_mod_eq, e] at h5
    cases h5
  have hx := hlim.2.resolve_left hbit
  rcases hty.1 with e | e <;> simp only [e, if_true, reduceCtorEq, if_false] at hx <;> rw [e, Ty.width] <;> omega

/-- R371: the lanes of a block of 4-bit or 8-bit elements. -/
theorem quantLanes_eq {f : FRRR} (ht : f.ty = .bk8 ∨ f.ty = .bk4) :
    quantLanes f = f.ty.width ∧ ∀ i, i / (if f.ty == .bk4 then 8 else 4) = i * f.ty.width / 32 := by
  rcases ht with e | e <;> rw [quantLanes, e]
  · exact ⟨rfl, fun i => by change i / 4 = i * 8 / 32; omega⟩
  · exact ⟨rfl, fun i => by change i / 8 = i * 4 / 32; omega⟩

theorem quant_codes (s : State) (f : FRRR) (d : Nat) {i : Nat} (hi : i < 32) :
    ((quantSrc s f d).map fun x => (quantElem f.ty (quantPair s f d).1 (quantPair s f d).2 x).1).getD i 0 = (quantAt s f d i).1 := by
  have hlen : i < (quantSrc s f d).length := by rwa [quantSrc, List.length_map, List.length_range]
  rw [quantAt, List.getD_eq_getElem?_getD, List.getElem?_map, List.getD_eq_getElem?_getD, List.getElem?_eq_getElem hlen]
  rfl

/-- R371: the elements of the block with their numbers. -/
theorem zip_quantElem (s : State) (f : FRRR) (d : Nat) :
    (List.range 32).zip ((quantSrc s f d).map (quantElem f.ty (quantPair s f d).1 (quantPair s f d).2)) = (List.range 32).map fun i => (i, quantAt s f d i) := by
  have hmap : (quantSrc s f d).map (quantElem f.ty (quantPair s f d).1 (quantPair s f d).2) = (List.range 32).map (quantAt s f d) := by
    unfold quantAt
    generalize quantPair s f d = p
    unfold quantSrc
    rw [List.map_map]
    exact List.map_congr_left fun i hi => by rw [getD_map_range (List.mem_range.1 hi)]; rfl
  have := List.zip_map' (f := id) (g := quantAt s f d) (l := List.range 32)
  rw [List.map_id] at this
  rw [hmap, this]
  rfl

theorem testBit_flag (c : Bool) (k b : Nat) : (if c then 2 ^ k else 0).testBit b = true ↔ b = k ∧ c = true := by
  cases c
  · simp
  · simp [Nat.testBit_two_pow, eq_comm]

theorem testBit_quantFlag (e : Nat × Bool × Bool) (b : Nat) : (quantFlag e).testBit b = true ↔ b = 5 ∧ e.2.1 = true ∨ b = 4 ∧ e.2.2 = true := by
  have hSAT : flSAT = 2 ^ 5 := rfl
  have hNV : flNV = 2 ^ 4 := rfl
  rw [quantFlag, orFl, Nat.testBit_or, Bool.or_eq_true, hSAT, hNV]
  rw [testBit_flag, testBit_flag]

/-- R371: VQUANT with the scale pair. -/
theorem quant_scales (s : State) {f : FRRR} (h5 : f.sub.getLsbD 5 = true) (d : Nat) : quantFlags s f d = 0 ∧
    elem 16 (quantData s f d) (f.sub.toNat % 32) = BitVec.ofNat 16 ((quantPair s f d).1 + 256 * (quantPair s f d).2) ∧
    ∀ j < 512, (quantMask s f d).getLsbD j = (decide (j / 16 = f.sub.toNat % 32) && acts s d f.pr (j / 32)) := by
  have hx : f.sub.toNat % 32 < 32 := Nat.mod_lt _ (by decide)
  unfold quantFlags quantData quantMask
  simp only [if_pos h5]
  generalize f.sub.toNat % 32 = x at hx ⊢
  refine ⟨trivial, ?_, fun j hj => ?_⟩
  · have := elem_shiftLeft (w := 16) (BitVec.ofNat 512 ((quantPair s f d).1 + 256 * (quantPair s f d).2)) x 0 (by omega)
    rw [Nat.add_zero] at this
    rw [this]
    refine BitVec.eq_of_getLsbD_eq fun j hj => ?_
    simp only [elem, BitVec.getLsbD_extractLsb', BitVec.getLsbD_ofNat, hj, Nat.mul_zero, Nat.zero_add, show j < 512 by omega, decide_true, Bool.true_and]
  · have hones : (BitVec.ofNat 512 0xFFFF).getLsbD (j - 16 * x) = decide (j - 16 * x < 16) := by
      rw [BitVec.getLsbD_ofNat, decide_eq_true (show j - 16 * x < 512 by omega), Bool.true_and, show (0xFFFF : Nat) = 2 ^ 16 - 1 from rfl,
        Nat.testBit_two_pow_sub_one]
    rw [BitVec.getLsbD_and, getLsbD_laneMask _ hj, BitVec.getLsbD_shiftLeft, hones, decide_eq_true hj, Bool.true_and]
    congr 1
    rw [← decide_not, ← Bool.decide_and, decide_eq_decide]
    omega

/-- R371: VQUANT with the data. -/
theorem quant_data (s : State) {h : Hdr} {f : FRRR} (hl : (Instr.vquant h f).legal = true) (h5 : f.sub.getLsbD 5 = false) (d : Nat) :
    (∀ i < 32, elem f.ty.width (quantData s f d) (32 * (f.sub.toNat % 32) + i) = BitVec.ofNat f.ty.width (quantAt s f d i).1) ∧
    (∀ j < 512, (quantMask s f d).getLsbD j = (decide (j / (32 * f.ty.width) = f.sub.toNat % 32) && acts s d f.pr (j / 32))) ∧
    ∀ b < 32, (BitVec.ofNat 32 (quantFlags s f d)).getLsbD b = true ↔
      ∃ i < 32, acts s d f.pr ((32 * (f.sub.toNat % 32) + i) * f.ty.width / 32) = true ∧ (quantFlag (quantAt s f d i)).testBit b = true := by
  obtain ⟨ht, hroom⟩ := vquant_legal hl
  obtain ⟨hlanes, hper⟩ := quantLanes_eq ht
  have hw : f.ty.width = 4 ∨ f.ty.width = 8 := by rcases ht with e | e <;> simp [e, Ty.width]
  have hroom := hroom h5
  unfold quantFlags quantData quantMask
  simp only [h5, Bool.false_eq_true, if_false, quantBase, hlanes, hper]
  generalize hx : f.sub.toNat % 32 = x at hroom ⊢
  have hpos : 0 < f.ty.width := by omega
  refine ⟨fun i hi => ?_, fun j hj => ?_, fun b hb => ?_⟩
  · have hin : f.ty.width * (32 * x + i + 1) ≤ 512 := by
      refine le_trans (Nat.mul_le_mul_left _ (show 32 * x + i + 1 ≤ 32 * (x + 1) by omega)) (le_of_eq_of_le ?_ hroom)
      ring
    rw [show 32 * (x * f.ty.width) = f.ty.width * (32 * x) by ring, elem_shiftLeft _ _ _ hin, elem_packElems hw
      (by rw [List.length_map, quantSrc, List.length_map, List.length_range]) hi, quant_codes _ _ _ hi]
  · rw [getLsbD_laneMask _ hj, ← Nat.div_div_eq_div_mul, Bool.and_assoc, Bool.and_comm, ← Bool.decide_and]
    congr 1
    rw [decide_eq_decide, Nat.div_eq_iff hpos]
    omega
  · rw [BitVec.getLsbD_ofNat, decide_eq_true hb, Bool.true_and, zip_quantElem, List.foldl_map,
      ← List.foldl_map (f := fun i => (i, quantFlag (quantAt s f d i))) (g := fun m y => if acts s d f.pr (x * f.ty.width + y.1 * f.ty.width / 32) then orFl m y.2 else m),
      testBit_foldl_orFl (fun i => acts s d f.pr (x * f.ty.width + i * f.ty.width / 32))]
    simp only [Nat.zero_testBit, Bool.false_eq_true, false_or, List.mem_map, List.mem_range, exists_exists_and_eq_and]
    have hidx (i : Nat) : (32 * x + i) * f.ty.width / 32 = x * f.ty.width + i * f.ty.width / 32 := by
      rw [Nat.add_mul, mul_assoc, Nat.mul_add_div (by decide)]
    simp only [hidx]

/-- Settles O14: one rule for each of the three operations, and what each writes. -/
theorem vectorConvert : Obligations.VectorConvert := by
  refine ⟨fun s h f hl hready hok => ?_, fun s h f _ hready hok => ?_, fun s h f hl hready hok => ?_⟩
  · obtain ⟨-, hx⟩ := vcvt_legal hl
    refine ⟨cvtData s f, cvtMask s f, cvtFlags s f, vcvt_delivers hl hready hok, fun d _ => ⟨fun i hi => ?_, fun j hj => ?_, fun b hb => getLsbD_cvtFlags s f d hb⟩⟩
    · have := elem_cvtData (s := s) hx d hi
      rwa [← cvtDst_index] at this
    · have := getLsbD_cvtMask (s := s) hx d hj
      simp only [← cvtDst_index] at this
      exact this
  · exact ⟨_, _, _, vdeq_delivers hready hok, vdeq_elements s h f⟩
  · refine ⟨quantData s f, quantMask s f, quantFlags s f, delivers_of_leaves (quantLatches s f) hready rfl fun d hd => ?_,
      fun d _ => ⟨fun h5 => quant_scales s h5 d, fun h5 => ?_⟩⟩
    · obtain ⟨hsrc, hb, hc, hw⟩ := hok d hd
      exact ⟨hw, vquantDie_leaves hready hd hsrc hb hc⟩
    · obtain ⟨hdata, hmask, hflags⟩ := quant_data s hl h5 d
      refine ⟨fun i hi => ?_, hmask, fun b hb => ?_⟩
      · rw [hdata i hi, ← quant_codes s f d hi]
        exact congrArg (fun l : List Nat => BitVec.ofNat f.ty.width (l.getD i 0)) (quantBlock_codes _ _ _ _).symm
      · rw [hflags b hb]
        simp only [testBit_quantFlag, and_or_left, exists_or, ← and_assoc, and_right_comm (b := b = 5), and_right_comm (b := b = 4)]
        simp only [and_comm (b := b = 5), and_comm (b := b = 4), exists_and_left, and_assoc]
        exact Iff.rfl

end Sys2Proof.Machine
end

section
/-! SUPPORT. Address operands, and commands queued for an engine of a core (R53, R66, R150, R153); the matrix operations (R144 to R147). -/

set_option Elab.async false

namespace Sys2Proof.Machine

open Claims

section

variable {s o : State} {h : Hdr} {d : Nat} {sl : SMap SlotDie}

/-! ### The die term (R66) -/

/-- What says on which dies the launch of the cursor's context is live, and to which partition it belongs, is as before the attempt. -/
structure Seated (s o : State) : Prop where
  launches : o.launches = s.launches
  sockets : o.sockets = s.sockets
  parts : o.parts = s.parts
  col : o.col = s.col

theorem Seated.refl (s : State) (a : Att) : Seated s { s with att := a } := ⟨rfl, rfl, rfl, rfl⟩

/-- What such a state depends on. -/
theorem Seated.of_eq {o' : State} (h : Seated s o) (hl : o'.launches = o.launches) (hs : o'.sockets = o.sockets) (hp : o'.parts = o.parts)
    (hc : o'.col = o.col) : Seated s o' := ⟨hl.trans h.launches, hs.trans h.sockets, hp.trans h.parts, hc.trans h.col⟩

theorem Seated.updCore (h : Seated s o) (k : Nat) (F : Core → Core) : Seated s (o.updCore k F) := h.of_eq rfl rfl rfl rfl

theorem Seated.updCd (h : Seated s o) (k : Nat) (F : CtxDie → CtxDie) : Seated s (o.updCd k F) := by
  unfold State.updCd State.setCd
  split <;> exact h.of_eq rfl rfl rfl rfl

/-- R87: the dies where the context issues are as before the attempt. -/
theorem Fresh.onDie (hf : Fresh s o d) (hs : Seated s o) (e : Nat) : o.onDie e = s.onDie e := by
  simp only [State.onDie, State.ctxLaunch, State.launch?, State.dieLive, State.getSocket, hf.cc0, hf.cur, hf.cc, hs.launches, hs.sockets]

theorem Fresh.dieTerm (hf : Fresh s o d) (hs : Seated s o) (stride : Int) (dts : Bool) : o.dieTerm d stride dts = dterm s d stride dts := by
  simp only [State.dieTerm, dterm, State.rankOf, hf.onDie hs]

/-! ### Address operands (R53, R66) -/

/-- The latched addresses of a slot. -/
def addrs (sl : SMap SlotDie) (slot : Nat) : SMap DWord := (SMap.get {} sl slot).addr

/-- R53: the latches after the address operand at `pos` has been formed. -/
def latchedAddr (sl : SMap SlotDie) (slot pos : Nat) (a : Nat) : SMap SlotDie :=
  SMap.upd {} sl slot fun x => { x with addr := SMap.set 0#64 x.addr pos (BitVec.ofNat 64 a) }

theorem addrs_latchedAddr_other {slot pos pos' a : Nat} (hne : pos' ≠ pos) :
    SMap.get 0#64 (addrs (latchedAddr sl slot pos a) slot) pos' = SMap.get 0#64 (addrs sl slot) pos' := by
  rw [addrs, latchedAddr, SMap.upd, SMap.get_set_same, SMap.get_set_other _ _ _ _ _ hne]
  rfl

/-- R66: an address operand whose base has a value, and whose latched address is as before the attempt. -/
theorem Looks.address (hl : Looks o s d sl) {base : Reg} (hb : BaseOk s d base) {pos : Nat}
    (ha : SMap.get 0#64 (addrs sl s.cur.slot) pos = SMap.get 0#64 (s.slotD d).addr pos) (add step : Int) :
    o.address d pos base add step =
      (addrOf s d pos base add step, o.setSlots (s.ck0 d) (latchedAddr sl s.cur.slot pos (addrOf s d pos base add step))) := by
  have hupd (a : Nat) : o.updSlotD d (fun x => { x with addr := SMap.set 0#64 x.addr pos (BitVec.ofNat 64 a) }) =
      o.setSlots (s.ck0 d) (latchedAddr sl s.cur.slot pos a) := by
    unfold State.updSlotD State.updD State.setSlots State.updCd latchedAddr
    rw [hl.ck0, hl.cur, hl.cd]
  unfold State.address addrOf
  rw [hl.cur]
  by_cases hfirst : s.cur.first = true
  · simp only [if_pos hfirst]
    rw [hl.rdS (hb hfirst)]
    dsimp only
    rw [hupd]
  · simp only [if_neg hfirst]
    have e : SMap.get 0#64 (o.slotD d).addr pos = SMap.get 0#64 (s.slotD d).addr pos := by
      rw [← ha, State.slotD, hl.ctxD, hl.cur]
      rfl
    rw [e, hupd]

/-! ### Reads that change nothing but latches -/

/-- `o'` is `o` but for the latches of the cursor's context on die `d`. -/
structure Latches (s : State) (d : Nat) (o o' : State) : Prop where
  rest : { o with cd := o'.cd } = o'
  other : ∀ k, k ≠ s.ck0 d → o'.getCd k = o.getCd k
  own : o'.getCd (s.ck0 d) =
    { o.getCd (s.ck0 d) with ws := { (o.getCd (s.ck0 d)).ws with slots := (o'.getCd (s.ck0 d)).ws.slots } }

theorem Latches.refl (s : State) (d : Nat) (o : State) : Latches s d o o := ⟨rfl, fun _ _ => rfl, rfl⟩

theorem Latches.of_setSlots (hk : s.ck0 d < 1024) (o : State) (sl : SMap SlotDie) : Latches s d o (o.setSlots (s.ck0 d) sl) := by
  refine ⟨?_, fun k hne => ?_, ?_⟩
  · simp only [State.setSlots, State.updCd, State.setCd, if_pos (Or.inl hk : s.ck0 d < 1024 ∨ 2048 ≤ s.ck0 d)]
  · rw [State.setSlots, State.getCd_updCd_other _ _ _ _ hne]
  · rw [State.setSlots, State.getCd_updCd_same]

variable {o' o'' : State}

theorem Latches.trans (h1 : Latches s d o o') (h2 : Latches s d o' o'') : Latches s d o o'' := by
  refine ⟨?_, fun k hne => (h2.other k hne).trans (h1.other k hne), ?_⟩
  · have e := h2.rest
    rw [← h1.rest] at e
    exact e
  · rw [h2.own, h1.own]

theorem Latches.att (hl : Latches s d o o') : o'.att = o.att := by rw [← hl.rest]
theorem Latches.uid (hl : Latches s d o o') : o'.uid = o.uid := by rw [← hl.rest]
theorem Latches.freeCtr (hl : Latches s d o o') : o'.freeCtr = o.freeCtr := by rw [← hl.rest]
theorem Latches.getCore (hl : Latches s d o o') (k : Nat) : o'.getCore k = o.getCore k := by rw [← hl.rest]; rfl

theorem Latches.seated (hl : Latches s d o o') (h : Seated s o) : Seated s o' := by
  rw [← hl.rest]
  exact h.of_eq rfl rfl rfl rfl

theorem Latches.fresh (hl : Latches s d o o') {e : Nat} (hne : e ≠ d) (hf : Fresh s o e) : Fresh s o' e := by
  refine ⟨?_, ?_, by rw [hl.other _ (ck0_ne hne s)]; exact hf.cd, by rw [hl.getCore]; exact hf.core, ?_⟩ <;> rw [← hl.rest]
  · exact hf.cur
  · exact hf.clock
  · exact hf.cc

theorem Latches.looks (hl : Latches s d o o') (hf : Looks o s d sl) : Looks o' s d (o'.getCd (s.ck0 d)).ws.slots := by
  refine ⟨?_, ?_, ?_⟩
  · rw [← hl.rest]; exact hf.cur
  · rw [← hl.rest]; exact hf.clock
  · rw [hl.own, hf.cd]

theorem Latches.coreD (hl : Latches s d o o') (hf : Fresh s o d) : o'.coreD d = s.coreD d := by
  have hcur : o'.cur = s.cur := by rw [← hl.rest]; exact hf.cur
  rw [State.coreD, hcur, hl.getCore, hf.core, State.coreD]

end

end Sys2Proof.Machine

namespace Sys2Proof.Claims

open Machine

section

variable {s t u : State} {ds : List Nat}

theorem Issued.latches (hi : Issued s t u ds) {d : Nat} (hd : d ∈ ds) {t' : State} (hl : Latches s d t t') : Issued s t' u ds := by
  have hrel := hi.rel
  have hcc : t'.cc = t.cc := by rw [← hl.rest]
  refine ⟨?_, fun k hne => ?_, fun e he => ?_, fun k hne => ?_, ?_⟩
  · rw [← hl.rest]
    exact hrel.rest
  · rw [hl.other k (hne d hd)]
    exact hrel.other k hne
  · by_cases hde : s.ck0 e = s.ck0 d
    · have := hi.sameAt (s.ck0 d)
      rw [hde, hl.own]
      unfold SameCd at *
      rw [this]
    · rw [hl.other _ hde]
      exact hi.sameAt _
  · rw [State.getCc, hcc]
    exact hrel.otherCc k hne
  · rw [State.getCc, hcc]
    exact hrel.keptCc

theorem Issued.uid (hi : Issued s t u ds) : t.uid = u.uid := (congrArg State.uid hi.rel.rest :)

/-- A number taken by both. -/
theorem Issued.fresh (hi : Issued s t u ds) : Issued s { t with uid := t.uid + 1 } { u with uid := u.uid + 1 } ds :=
  hi.of_wear (fun v => { v with uid := v.uid + 1 }) fun _ _ _ _ => rfl

/-- Two states whose tables of contexts say the same. -/
theorem issued_of_getCd (s : State) (ds : List Nat) (hrest : { t with cd := u.cd } = u) (hget : ∀ k, t.getCd k = u.getCd k) : Issued s t u ds := by
  have hcc : t.cc = u.cc := by rw [← hrest]
  have hatt : t.att = u.att := by rw [← hrest]
  refine ⟨?_, fun k _ => hget k, fun d _ => ?_, fun k _ => ?_, ?_⟩
  · rw [← hcc, ← hatt]; exact hrest
  · rw [hget]; rfl
  · rw [State.getCc, State.getCc, hcc]
  · rw [State.getCc, State.getCc, hcc]; rfl

/-- Two updates of a context one after another. -/
theorem Issued.updCd_updCd (hi : Issued s t u ds) {k : Nat} (hk : k < 1024) {F G H : CtxDie → CtxDie} (hH : ∀ c, H c = G (F c))
    (hF : ∀ x y, KeptCd x y → KeptCd (F x) (F y)) (hpF : ∀ x y, SameCd x y → (F x).pend = (F y).pend)
    (hG : ∀ x y, KeptCd x y → KeptCd (G x) (G y)) (hpG : ∀ x y, SameCd x y → (G x).pend = (G y).pend) :
    Issued s ((t.updCd k F).updCd k G) (u.updCd k H) ds := by
  refine ((hi.updCd k hk F hF hpF).updCd k hk G hG hpG).trans (issued_of_getCd s ds ?_ fun j => ?_)
  · simp only [State.updCd, State.setCd, if_pos (Or.inl hk : k < 1024 ∨ 2048 ≤ k)]
  · by_cases hj : j = k
    · rw [hj, State.getCd_updCd_same, State.getCd_updCd_same, State.getCd_updCd_same, hH]
    · simp only [State.getCd_updCd_other _ _ _ _ hj]

/-- An update that is made only where `p`. -/
theorem Issued.updCd_if (hi : Issued s t u ds) {k : Nat} (hk : k < 1024) (p : Prop) [Decidable p] {F : CtxDie → CtxDie}
    (hF : ∀ x y, KeptCd x y → KeptCd (F x) (F y)) (hp : ∀ x y, SameCd x y → (F x).pend = (F y).pend) :
    Issued s (if p then t.updCd k F else t) (u.updCd k fun c => if p then F c else c) ds := by
  by_cases h : p
  · simp only [if_pos h]
    exact hi.updCd k hk F hF hp
  · simp only [if_neg h]
    exact hi.updCd_id hk fun _ => rfl

theorem Issued.trackCmd (hi : Issued s t u ds) (core uid ck : Nat) (fp : List Region) (wr rd : List Nat) :
    Issued s (t.trackCmd core uid ck fp wr rd) (u.trackCmd core uid ck fp wr rd) ds := hi.updCore _ _ fun _ => by rfl

end

end Sys2Proof.Claims
end

section
/-! SUPPORT. The matrix operations as they issue (R144 to R147, R333). -/

set_option Elab.async false

namespace Sys2Proof.Machine

open Claims

section

variable {s o : State} {h : Hdr} {d : Nat}

/-- An address operand that an operation has only where `p`. -/
theorem Latches.addressIf {o' : State} (hl : Latches s d o o') (hf : Fresh s o d) (hk : s.ck0 d < 1024) (p : Prop) [Decidable p] {base : Reg}
    (hb : p → BaseOk s d base) {pos : Nat} (ha : SMap.get 0#64 (addrs (o'.getCd (s.ck0 d)).ws.slots s.cur.slot) pos = SMap.get 0#64 (s.slotD d).addr pos)
    (add step : Int) : ∃ o'', (if p then o'.address d pos base add step else (0, o')) = (if p then addrOf s d pos base add step else 0, o'') ∧
      Latches s d o o'' ∧ ∀ pos' ≠ pos, SMap.get 0#64 (addrs (o''.getCd (s.ck0 d)).ws.slots s.cur.slot) pos' =
        SMap.get 0#64 (addrs (o'.getCd (s.ck0 d)).ws.slots s.cur.slot) pos' := by
  by_cases hp : p
  · simp only [if_pos hp]
    refine ⟨_, (hl.looks hf.looks).address (hb hp) ha add step, hl.trans (Latches.of_setSlots hk _ _), fun pos' hne => ?_⟩
    rw [State.setSlots, State.getCd_updCd_same]
    exact addrs_latchedAddr_other hne
  · simp only [if_neg hp]
    exact ⟨o', rfl, hl, fun _ _ => rfl⟩

theorem Fresh.addrs (hf : Fresh s o d) (pos : Nat) :
    SMap.get 0#64 (Machine.addrs (o.getCd (s.ck0 d)).ws.slots s.cur.slot) pos = SMap.get 0#64 (s.slotD d).addr pos := by
  rw [hf.cd]
  rfl

/-- R53: what a matrix operation latches on a die, before its checks. -/
theorem Fresh.mxAddrs (hf : Fresh s o d) (hs : Seated s o) (hk : s.ck0 d < 1024) (k : MxKind) (f : FMX)
    (hok : ((k.readsA = true ∨ k = .ret) → BaseOk s d f.abase) ∧ (k.readsB = true → BaseOk s d f.bbase)) : ∃ o1 o2,
      (if (k.readsA || k == .ret) = true then o.address d 80 f.abase (f.aoff.toInt + o.dieTerm d f.dstride.toInt f.dts) 0 else (0, o)) =
        (if (k.readsA || k == .ret) = true then addrOf s d 80 f.abase (f.aoff.toInt + dterm s d f.dstride.toInt f.dts) 0 else 0, o1) ∧
      (if k.readsB = true then o1.address d 91 f.bbase f.boff.toInt 0 else (0, o1)) =
        (if k.readsB = true then addrOf s d 91 f.bbase f.boff.toInt 0 else 0, o2) ∧ Latches s d o o2 := by
  rw [hf.dieTerm hs]
  obtain ⟨o1, e1, l1, h1⟩ := (Latches.refl s d o).addressIf hf hk ((k.readsA || k == .ret) = true) (fun hp => hok.1 (by simpa using hp)) (pos := 80)
    (hf.addrs 80) (f.aoff.toInt + dterm s d f.dstride.toInt f.dts) 0
  obtain ⟨o2, e2, l2, -⟩ := l1.addressIf hf hk (k.readsB = true) hok.2 (pos := 91) ((h1 91 (by decide)).trans (hf.addrs 91)) f.boff.toInt 0
  exact ⟨o1, o2, e1, e2, l2⟩

/-! ### A command queued -/

/-- What a command leaves: `g` in the attempt, `eff` as its statement puts it. Neither asks for anything nor moves a context, and another die finds
what it found before. -/
structure Command (s : State) (h : Hdr) (g eff : Nat → State → State) : Prop where
  issued : ∀ d ∈ s.enabled h, ∀ t u, Issued s t u (s.enabled h) → Issued s (g d t) (eff d u) (s.enabled h)
  att : ∀ d o, (g d o).att = o.att
  fresh : ∀ d ∈ s.enabled h, ∀ e ≠ d, ∀ o, Fresh s o e → Fresh s (g d o) e
  seated : ∀ d o, Seated s o → Seated s (g d o)
  quiet : ∀ d u, Quiet u s → Quiet (eff d u) s

/-- R53, R218: an operation that on each die latches, leaves a command and splices; `X` is what else a die finds. -/
theorem does_of_command_with (X : Nat → State → Prop) {i : Instr} {f g eff : Nat → State → State} (hready : Ready s h)
    (hexec : exec i s = s.attempt fun s => s.onDies h f) (hX : ∀ d, X d s.noAtt) (hXcd : ∀ d o c a, X d o → X d { o with cd := c, att := a })
    (hXg : ∀ d ∈ s.enabled h, ∀ e ∈ s.enabled h, e ≠ d → ∀ o, X e o → X e (g d o))
    (hf : ∀ d ∈ s.enabled h, ∀ o, Fresh s o d → Seated s o → X d o → ∃ o', Latches s d o o' ∧ f d o = (g d o').splices) (hc : Command s h g eff) :
    Does i s h (forces s h) eff := by
  refine does_of_splicing (fun d o => Seated s o ∧ X d o) hready hexec (fun done d o hd hissued hatt hfresh ⟨hseat, hx⟩ => ?_)
    (fun d _ => ⟨Seated.refl s _, hX d⟩) (effects_quiet hc.quiet _)
  obtain ⟨o', hl, e⟩ := hf d hd o hfresh hseat hx
  rw [e]
  refine ⟨(hc.issued d hd _ _ (hissued.latches hd hl)).att_left _, splices_splicesAfter d ?_, fun e hmem hne he ⟨hs, hx⟩ => ⟨?_, ?_, ?_⟩⟩
  · rw [hc.att, hl.att, hatt]
  · exact (hc.fresh d hd e hne _ (hl.fresh hne he)).splices
  · exact (hc.seated d _ (hl.seated hs)).of_eq rfl rfl rfl rfl
  · have hx' : X e o' := by
      rw [← hl.rest]
      exact hXcd e o _ o.att hx
    exact hXcd e _ _ _ (hXg d hd e hmem hne _ hx')

theorem does_of_command {i : Instr} {f g eff : Nat → State → State} (hready : Ready s h) (hexec : exec i s = s.attempt fun s => s.onDies h f)
    (hf : ∀ d ∈ s.enabled h, ∀ o, Fresh s o d → Seated s o → ∃ o', Latches s d o o' ∧ f d o = (g d o').splices) (hc : Command s h g eff) :
    Does i s h (forces s h) eff :=
  does_of_command_with (fun _ _ => True) hready hexec (fun _ => trivial) (fun _ _ _ _ _ => trivial) (fun _ _ _ _ _ _ _ => trivial)
    (fun d hd o hfr hs _ => hf d hd o hfr hs) hc

/-- What the body `f` of an operation comes to on a die where it meets the fault `r`, whatever else it asks for. -/
def FaultsOn (s : State) (h : Hdr) (f : Nat → State → State) (r : Nat → FRec) (X : Nat → State → Prop) : Prop :=
  ∀ d o, d ∈ s.enabled h → Fresh s o d → X d o →
    (f d o).att.faults = o.att.faults ++ [(d, { r d with slot := s.cur.slot, r1 := s.cur.bundle })] ∧ (f d o).att.block = o.att.block ∧
    (f d o).att.stall = o.att.stall ∧ (f d o).att.unload = o.att.unload ∧
    (f d o).freeCtr = o.freeCtr ∧ ∀ e ∈ s.enabled h, e ≠ d → Fresh s o e → X e o → Fresh s (f d o) e ∧ X e (f d o)

/-- R53, R78: an operation that meets a fault on each die leaves only its faults. -/
theorem faults_of_on {i : Instr} {f : Nat → State → State} {r : Nat → FRec} (X : Nat → State → Prop) (hready : Ready s h)
    (hexec : exec i s = s.attempt fun s => s.onDies h f) (hne : s.enabled h ≠ []) (hf : FaultsOn s h f r X) (hX : ∀ d ∈ s.enabled h, X d s.noAtt) :
    Faults i s h r := by
  have hfold := foldl_each (f := fun o d => f d (o.waitOn d h))
    (Q := fun done o => o.att.faults = (done.map fun d => (d, { r d with slot := s.cur.slot, r1 := s.cur.bundle })) ∧ o.att.block = none ∧
      o.att.stall = none ∧ o.att.unload = [] ∧ o.freeCtr = s.freeCtr)
    (P := fun d o => Fresh s o d ∧ X d o) (s.enabled h) [] s.noAtt (s.enabled_nodup h) ⟨rfl, rfl, rfl, rfl, rfl⟩
    (fun d hd => ⟨Fresh.start s _ d, hX d hd⟩) (by
      intro done d o hd ⟨hfaults, hblock, hstall, hunload, hfree⟩ ⟨hfresh, hx⟩
      rw [hfresh.waitOn (hready.wait d hd)]
      obtain ⟨h1, h2, h3, h4, h5, h6⟩ := hf d o hd hfresh hx
      refine ⟨⟨?_, h2.trans hblock, h3.trans hstall, h4.trans hunload, h5.trans hfree⟩, fun e he hne ⟨hfe, hxe⟩ => h6 e he hne hfe hxe⟩
      rw [h1, hfaults, List.map_append]
      rfl)
  obtain ⟨hfaults, hblock, hstall, hunload, hfree⟩ := hfold
  have hkeep : (State.onDies s.noAtt h f).att.faults = (s.enabled h).map (fun d => (d, { r d with slot := s.cur.slot, r1 := s.cur.bundle })) ∧
      (State.onDies s.noAtt h f).att.block = none ∧ (State.onDies s.noAtt h f).att.stall = none ∧ (State.onDies s.noAtt h f).att.unload = [] ∧
      (State.onDies s.noAtt h f).freeCtr = s.freeCtr := by
    unfold State.onDies
    dsimp only
    split <;> exact ⟨hfaults, hblock, hstall, hunload, hfree⟩
  obtain ⟨h1, h2, h3, h4, h5⟩ := hkeep
  exact faults_of_attempt hexec h5 h1 (.inr ⟨by rw [h1]; simpa using hne, h2, h3, h4⟩)

/-- R145, R147: what a queued command leaves on its context: its tile busy, and its latch judged by it. -/
def mxBusies (c : MxCmd) (u : Nat) (x : CtxDie) : CtxDie :=
  { x with acc := SMap.upd {} x.acc c.f.acc.toNat fun t => { t with busy := some u } }
def mxLatches (c : MxCmd) (x : CtxDie) : CtxDie := { x with lIss := SMap.set (.b, 0) x.lIss c.f.latch.toNat (c.bty, lastRows c.f.k.toNat) }

/-- R128, R147, R153: the queue and the task scheduler have room, and the tile is not busy. -/
structure MxRoom (s : State) (d : Nat) (c : MxCmd) : Prop where
  queue : (s.coreD d).mxq.length < 4
  track : (s.coreD d).track.length < 64
  tile : c.kind.names = true → (SMap.get {} (s.ctxD d).acc c.f.acc.toNat).busy = none

/-- R145, R147: a queued command's marks on its context. -/
def mxMarks (k : Nat) (c : MxCmd) (u : Nat) (y : State) : State :=
  let y := if c.kind.busies then y.updCd k (mxBusies c u) else y
  if c.kind.readsB then y.updCd k (mxLatches c) else y

theorem mxMarks_cur (k : Nat) (c : MxCmd) (u : Nat) (y : State) : (mxMarks k c u y).cur = y.cur := by
  unfold mxMarks
  dsimp only
  split <;> split <;> simp only [State.updCd_cur]

theorem State.updD_of_cur {x y : State} (hx : x.cur = y.cur) (d : Nat) (F : CtxDie → CtxDie) : x.updD d F = x.updCd (y.ck0 d) F := by
  rw [State.updD, State.ck0, State.cc0, hx, ← State.cc0, ← State.ck0]

theorem mxMarks_of_updD (y : State) (d : Nat) (c : MxCmd) (u : Nat) :
    (if c.kind.readsB = true then (if c.kind.busies = true then y.updD d (mxBusies c u) else y).updD d (mxLatches c) else
      if c.kind.busies = true then y.updD d (mxBusies c u) else y) = mxMarks (y.ck0 d) c u y := by
  unfold mxMarks
  dsimp only
  have hcur : (if c.kind.busies = true then y.updD d (mxBusies c u) else y).cur = y.cur := by
    split
    · exact (State.updCd_keeps _ _).2.1
    · rfl
  rw [State.updD_of_cur hcur]
  rfl

/-- R147: a command behind the others of its core's queue, with its number. -/
def joinsMx (key : Nat) (c : MxCmd) (x : State) : State :=
  State.updCore { x with uid := x.uid + 1 } key fun y => { y with mxq := y.mxq ++ [{ c with uid := x.uid }] }

/-- R153: a matrix command with the task scheduler. -/
def tracksMx (key col : Nat) (c : MxCmd) (u : Nat) (y : State) : State :=
  y.trackCmd key u c.ck c.fp (if c.kind == .ret then banksOfAll col (c.opA.ranges true) else [])
    (banksOfAll col ((if c.kind.readsA then c.opA.ranges false else []) ++ (if c.kind.readsB then c.opB.ranges false else [])))

/-- R147, R153: a command queued, its tile and its latch marked, and with the task scheduler. -/
def pushedMx (s : State) (d : Nat) (c : MxCmd) (x : State) : State :=
  tracksMx (coreKey d s.cur.col) s.cur.col c x.uid (mxMarks (s.ck0 d) c x.uid (joinsMx (coreKey d s.cur.col) c x))

/-- R147, R153: what a push does once nothing stalls it. -/
def State.joinMx (key d : Nat) (c : MxCmd) (o : State) : State :=
  let y := joinsMx key c o
  let y := if c.kind.busies then y.updD d (mxBusies c o.uid) else y
  let y := if c.kind.readsB then y.updD d (mxLatches c) else y
  tracksMx key y.cur.col c o.uid y

theorem State.joinMx_eq (d : Nat) (c : MxCmd) (o : State) : o.joinMx (coreKey d o.cur.col) d c =
    tracksMx (coreKey d o.cur.col) o.cur.col c o.uid (mxMarks (o.ck0 d) c o.uid (joinsMx (coreKey d o.cur.col) c o)) := by
  have hm : (mxMarks (o.ck0 d) c o.uid (joinsMx (coreKey d o.cur.col) c o)).cur = o.cur := mxMarks_cur _ _ _ _
  have e := mxMarks_of_updD (joinsMx (coreKey d o.cur.col) c o) d c o.uid
  unfold State.joinMx
  dsimp only
  rw [e, show (joinsMx (coreKey d o.cur.col) c o).ck0 d = o.ck0 d from rfl, hm]

theorem State.pushMx_eq (d : Nat) (c : MxCmd) (o : State) : o.pushMx d c =
    let s := if (o.coreD d).mxq.length ≥ 4 || (o.coreD d).trackFull then o.stallFor 3 else o
    State.joinMx (coreKey d o.cur.col) d c (if c.kind.names && (SMap.get {} (s.ctxD d).acc c.f.acc.toNat).busy.isSome then s.stallFor 1 else s) := rfl

theorem Latches.pushMx {o' : State} (hl : Latches s d o o') (hf : Fresh s o d) {c : MxCmd} (hroom : MxRoom s d c) : o'.pushMx d c = pushedMx s d c o' := by
  have hlooks := hl.looks hf.looks
  have hfull : ((o'.coreD d).mxq.length ≥ 4 || (o'.coreD d).trackFull) = false := by
    have := hroom.queue
    have := hroom.track
    rw [hl.coreD hf, Core.trackFull]
    simp; omega
  have hbusy : (c.kind.names && (SMap.get {} (o'.ctxD d).acc c.f.acc.toNat).busy.isSome) = false := by
    rw [hlooks.ctxD]
    cases hn : c.kind.names with
    | false => rfl
    | true => rw [hroom.tile hn]; rfl
  have hcur := hlooks.cur
  have hck : o'.ck0 d = s.ck0 d := hlooks.ck0 d
  rw [State.pushMx_eq]
  dsimp only
  rw [if_neg (Bool.eq_false_iff.1 hfull), if_neg (Bool.eq_false_iff.1 hbusy), State.joinMx_eq, pushedMx, hcur, hck]

theorem Fresh.uid (hf : Fresh s o d) (u : Nat) : Fresh s { o with uid := u } d := ⟨hf.cur, hf.clock, hf.cd, hf.core, hf.cc⟩

theorem Fresh.trackCmd {e : Nat} (hf : Fresh s o e) (hne : e ≠ d) (uid ck : Nat) (fp : List Region) (wr rd : List Nat) :
    Fresh s (o.trackCmd (coreKey d s.cur.col) uid ck fp wr rd) e := hf.updCore hne _ fun _ => by rfl

theorem Quiet.uid {t u : State} (hq : Quiet t u) (n : Nat) : Quiet { t with uid := n } u := hq.of_eq rfl rfl rfl rfl rfl rfl

theorem Quiet.trackCmd {t u : State} (hq : Quiet t u) (core uid ck : Nat) (fp : List Region) (wr rd : List Nat) : Quiet (t.trackCmd core uid ck fp wr rd) u :=
  hq.updCore _ _ fun _ => by rfl

theorem Seated.trackCmd (hs : Seated s o) (core uid ck : Nat) (fp : List Region) (wr rd : List Nat) : Seated s (o.trackCmd core uid ck fp wr rd) :=
  hs.updCore _ _

theorem mxMarks_att (k : Nat) (c : MxCmd) (u : Nat) (y : State) : (mxMarks k c u y).att = y.att := by
  unfold mxMarks
  dsimp only
  split <;> split <;> simp only [State.updCd_att]

theorem Fresh.mxMarks {e : Nat} (hf : Fresh s o e) (hne : e ≠ d) (hk : s.ck0 d < 1024) (c : MxCmd) (u : Nat) : Fresh s (mxMarks (s.ck0 d) c u o) e := by
  unfold Machine.mxMarks
  dsimp only
  split <;> split
  · exact (hf.updCd hne hk _).updCd hne hk _
  · exact hf.updCd hne hk _
  · exact hf.updCd hne hk _
  · exact hf

theorem Seated.mxMarks (hs : Seated s o) (k : Nat) (c : MxCmd) (u : Nat) : Seated s (mxMarks k c u o) := by
  unfold Machine.mxMarks
  dsimp only
  split <;> split
  · exact (hs.updCd _ _).updCd _ _
  · exact hs.updCd _ _
  · exact hs.updCd _ _
  · exact hs

theorem issued_queuedMx {t u : State} {ds : List Nat} (hk : s.ck0 d < 1024) (c : MxCmd) (hi : Issued s t u ds) :
    Issued s (pushedMx s d c t) (queuedMx s d c u) ds := by
  unfold pushedMx queuedMx tracksMx mxMarks joinsMx
  dsimp only
  rw [hi.uid]
  have h0 := hi.fresh.updCore (coreKey d s.cur.col) (fun y => { y with mxq := y.mxq ++ [{ c with uid := u.uid }] }) fun _ => by rfl
  rw [hi.uid] at h0
  have h1 := (h0.updCd_if hk (c.kind.busies = true) (F := mxBusies c u.uid) (fun x y e => by unfold KeptCd mxBusies at *; rw [e])
    fun x y e => (sameCd_iff.1 e).2).updCd_if hk (c.kind.readsB = true) (F := mxLatches c) (fun x y e => by unfold KeptCd mxLatches at *; rw [e])
    fun x y e => (sameCd_iff.1 e).2
  refine (h1.trans (issued_of_getCd s ds ?_ fun j => ?_)).trackCmd _ _ _ _ _ _
  · simp only [State.updCd, State.setCd, if_pos (Or.inl hk : s.ck0 d < 1024 ∨ 2048 ≤ s.ck0 d)]
  · by_cases hj : j = s.ck0 d
    · rw [hj, State.getCd_updCd_same, State.getCd_updCd_same, State.getCd_updCd_same]
      cases c.kind.busies <;> cases c.kind.readsB <;> rfl
    · simp only [State.getCd_updCd_other _ _ _ _ hj]

theorem mx_command (hready : Ready s h) (c : Nat → MxCmd) : Command s h (fun d => pushedMx s d (c d)) (fun d => queuedMx s d (c d)) := by
  have hk (d : Nat) (hd : d ∈ s.enabled h) : s.ck0 d < 1024 := ck0_lt (cc0_lt hready.col hready.ctx) (State.enabled_lt hd)
  refine ⟨fun d hd t u hi => issued_queuedMx (hk d hd) (c d) hi, fun d o => ?_, fun d hd e hne o hf => ?_, fun d o hs => ?_, fun d u hq => ?_⟩
  · exact mxMarks_att _ _ _ _
  · exact (Fresh.mxMarks ((hf.uid (o.uid + 1)).updCore hne _ fun _ => by rfl) hne (hk d hd) _ _).trackCmd hne _ _ _ _ _
  · exact (Seated.mxMarks (o := joinsMx (coreKey d s.cur.col) (c d) o) (hs.of_eq rfl rfl rfl rfl) _ _ _).trackCmd _ _ _ _ _ _
  · exact ((((hq.uid _).updCore _ _ fun _ => by rfl).updCd _ _ fun _ => by rfl).trackCmd _ _ _ _ _ _)

/-! ### MLATCH, MMUL, MTILE, MZERO and MRET (R145) -/

/-- R147: the checks of a matrix command against its latch as the context has judged it. -/
def mxBad (s : State) (h : Hdr) (op : Instr) (f : FMX) (d : Nat) : Bool :=
  (mxCmd s h op f d).illegal (SMap.get (.b, 0) (s.ctxD d).lIss f.latch.toNat)

/-- R145, R333: a matrix operation on a die comes to its command pushed, or to an illegal operation. -/
theorem Fresh.mxDie (hf : Fresh s o d) (hs : Seated s o) (hk : s.ck0 d < 1024) {op : Instr} {f : FMX}
    (hok : (((mxKind op).readsA = true ∨ mxKind op = .ret) → BaseOk s d f.abase) ∧ ((mxKind op).readsB = true → BaseOk s d f.bbase)) :
    ∃ o', Latches s d o o' ∧ o.mxDie op h f d = if mxBad s h op f d then o'.illegal d else o'.pushMx d (mxCmd s h op f d) := by
  obtain ⟨o1, o2, e1, e2, hl⟩ := hf.mxAddrs hs hk (mxKind op) f hok
  refine ⟨o2, hl, ?_⟩
  have hlooks := hl.looks hf.looks
  unfold State.mxDie
  dsimp only
  rw [e1]
  dsimp only
  rw [e2]
  dsimp only
  rw [hl.coreD hf, hlooks.ck0, hlooks.ctxD, hlooks.cur]
  rfl

theorem mx_does {op : Instr} {f : FMX} (hready : Ready s h)
    (hexec : exec op s = s.attempt fun s => s.onDies h fun d s => (s.mxDie op h f d).splices)
    (hok : ∀ d ∈ s.enabled h, (((mxKind op).readsA = true ∨ mxKind op = .ret) → BaseOk s d f.abase) ∧ ((mxKind op).readsB = true → BaseOk s d f.bbase))
    (hgood : ∀ d ∈ s.enabled h, mxBad s h op f d = false) (hroom : ∀ d ∈ s.enabled h, MxRoom s d (mxCmd s h op f d)) :
    Does op s h (forces s h) fun d x => queuedMx s d (mxCmd s h op f d) x := by
  refine does_of_command hready hexec (fun d hd o hfresh hs => ?_) (mx_command hready fun d => mxCmd s h op f d)
  have hk : s.ck0 d < 1024 := ck0_lt (cc0_lt hready.col hready.ctx) (State.enabled_lt hd)
  obtain ⟨o', hl, e⟩ := hfresh.mxDie hs hk (hok d hd)
  refine ⟨o', hl, congrArg State.splices ?_⟩
  rw [e, hgood d hd, if_neg Bool.false_ne_true, hl.pushMx hfresh (hroom d hd)]

theorem mx_faults {op : Instr} {f : FMX} (hready : Ready s h)
    (hexec : exec op s = s.attempt fun s => s.onDies h fun d s => (s.mxDie op h f d).splices) (hne : s.enabled h ≠ [])
    (hok : ∀ d ∈ s.enabled h, (((mxKind op).readsA = true ∨ mxKind op = .ret) → BaseOk s d f.abase) ∧ ((mxKind op).readsB = true → BaseOk s d f.bbase))
    (hbad : ∀ d ∈ s.enabled h, mxBad s h op f d = true) : Faults op s h fun _ => { code := 2 } := by
  refine faults_of_on (fun _ o => Seated s o) hready hexec hne (fun d o hd hfresh hs => ?_) fun _ _ => Seated.refl s _
  have hk : s.ck0 d < 1024 := ck0_lt (cc0_lt hready.col hready.ctx) (State.enabled_lt hd)
  obtain ⟨o', hl, e⟩ := hfresh.mxDie hs hk (hok d hd)
  rw [e, if_pos (hbad d hd)]
  have hatt := State.illegal_att (s := s) (hl.looks hfresh.looks).cur d
  have hatt' : ((o'.illegal d).splices).att = { (o'.illegal d).att with splice := true } := rfl
  rw [hatt', hatt, hl.att]
  exact ⟨rfl, rfl, rfl, rfl, hl.freeCtr, fun e _ hne he _ => ⟨((hl.fresh hne he).illegal).splices, (hl.seated hs).of_eq rfl rfl rfl rfl⟩⟩

theorem matrixIssues {mk : Hdr → FMX → Instr} (hexec : ∀ h f s, exec (mk h f) s = s.attempt fun s => s.onDies h fun d s => (s.mxDie (mk h f) h f d).splices)
    (hf : ∀ h f, mxFields (mk h f) = f) : MatrixIssues mk := by
  intro s h f hready k c bad hok
  refine ⟨fun hgood => ?_, fun hne hbad => mx_faults hready (hexec h f s) hne hok hbad⟩
  refine mx_does hready (hexec h f s) hok (fun d hd => (hgood d hd).1) fun d hd => ?_
  obtain ⟨-, hq, ht, hb⟩ := hgood d hd
  refine ⟨hq, ht, fun hn => ?_⟩
  have e : (mxCmd s h (mk h f) f d).f = f := hf h f
  rw [e]
  exact hb hn

end

/-- Settles O32. -/
theorem matrixCommands : Obligations.MatrixCommands :=
  ⟨matrixIssues (fun _ _ _ => rfl) fun _ _ => rfl, matrixIssues (fun _ _ _ => rfl) fun _ _ => rfl, matrixIssues (fun _ _ _ => rfl) fun _ _ => rfl,
    matrixIssues (fun _ _ _ => rfl) fun _ _ => rfl, matrixIssues (fun _ _ _ => rfl) fun _ _ => rfl⟩

end Sys2Proof.Machine
end

section
/-! SUPPORT. Copy commands as they issue (R128 to R131, R313, R314). -/

set_option Elab.async false

namespace Sys2Proof.Machine

open Claims

section

variable {s o o' : State} {h : Hdr} {d : Nat}

/-! ### A command queued or refused -/

theorem issued_queuedCopy {t u : State} {ds : List Nat} (ch : Nat) (c : CopyCmd) (hi : Issued s t u ds) :
    Issued s (queuedCopy s d ch c t) (queuedCopy s d ch c u) ds := by
  unfold queuedCopy State.updChan
  dsimp only
  rw [hi.uid]
  have h0 := hi.fresh
  rw [hi.uid] at h0
  exact (h0.updCore _ _ fun _ => by rfl).trackCmd _ _ _ _ _ _

theorem Issued.refusedCopy {t u : State} {ds : List Nat} (ch code : Nat) (hi : Issued s t u ds) :
    Issued s (refusedCopy s d ch code t) (refusedCopy s d ch code u) ds := hi.updCore _ _ fun _ => by rfl

/-- R131: a command queued, or refused with a code that is not 0. -/
def copyOutcome (s : State) (ch : Nat) (code : Nat → Nat) (c : Nat → CopyCmd) (d : Nat) (x : State) : State :=
  if code d = 0 then queuedCopy s d ch (c d) x else refusedCopy s d ch (code d) x

theorem copy_command (ch : Nat) (code : Nat → Nat) (c : Nat → CopyCmd) : Command s h (copyOutcome s ch code c) (copyOutcome s ch code c) := by
  refine ⟨fun d _ t u hi => ?_, fun d o => ?_, fun d hd e hne o hf => ?_, fun d o hs => ?_, fun d u hq => ?_⟩ <;> unfold copyOutcome <;> split
  · exact issued_queuedCopy ch (c d) hi
  · exact Issued.refusedCopy ch _ hi
  · rfl
  · rfl
  · exact ((hf.uid _).updCore hne _ fun _ => by rfl).trackCmd hne _ _ _ _ _
  · unfold refusedCopy State.updChan
    exact hf.updCore hne _ fun _ => by rfl
  · exact hs.of_eq rfl rfl rfl rfl
  · exact hs.of_eq rfl rfl rfl rfl
  · exact ((hq.uid _).updCore _ _ fun _ => by rfl).trackCmd _ _ _ _ _ _
  · unfold refusedCopy State.updChan
    exact hq.updCore _ _ fun _ => by rfl

/-- R129, R338: the footprint of a copy command: what a bound channel writes is the stream's, not memory's. -/
def copyFootprint (c : CopyCmd) : CopyCmd := { c with fp := if c.stream = 0 then c.fp else c.fp.filter fun r => !r.write }

theorem Latches.trackFull (hl : Latches s d o o') (hf : Fresh s o d) (ht : (s.coreD d).track.length < 64) : (o'.coreD d).trackFull = false := by
  rw [hl.coreD hf, Core.trackFull]
  simpa using ht

/-- R128, R129: a command accepted by a channel with room. -/
theorem Latches.pushCopy (hl : Latches s d o o') (hf : Fresh s o d) {ch : Nat} (hroom : CopyRoom s d ch) (c : CopyCmd) :
    o'.pushCopy d ch c = queuedCopy s d ch (copyFootprint c) o' := by
  obtain ⟨hq, ht⟩ := hroom
  have hcur := (hl.looks hf.looks).cur
  unfold State.pushCopy
  dsimp only
  rw [hl.trackFull hf ht, if_neg Bool.false_ne_true, State.chanD, hl.coreD hf, if_neg (by omega)]
  unfold queuedCopy
  rw [← hcur]
  rfl

/-- R128: a command that meets a full channel. -/
theorem Latches.pushCopy_full (hl : Latches s d o o') (hf : Fresh s o d) {ch : Nat} (hq : 16 ≤ (SMap.get {} (s.coreD d).ch ch).q.length)
    (ht : (s.coreD d).track.length < 64) (c : CopyCmd) : o'.pushCopy d ch c =
      if (s.ctxD d).ws.cpctl.getLsbD 0 then { o'.blockFor .push with att := { (o'.blockFor .push).att with pushes := o'.att.pushes ++ [(coreKey d s.cur.col, ch)] } }
      else o'.fault d { code := 0x0D } := by
  have hlooks := hl.looks hf.looks
  unfold State.pushCopy
  dsimp only
  rw [hl.trackFull hf ht, if_neg Bool.false_ne_true, State.chanD, hl.coreD hf, if_pos hq, hlooks.ctxD, hlooks.cur]
  rfl

/-! ### CPY, CPYG and CPCHK on a die -/

/-- R314: a copy command as it is latched. -/
def copyCmd (s : State) (h : Hdr) (op : Instr) (f : FCOPY) (k : CopyKind) (d : Nat) : CopyCmd :=
  let e := copyEnds s d f k
  { uid := 0, ident := 0, ck := s.ck0 d, op := op, bundle := s.cur.bundle, daddr := BitVec.ofNat 64 e.d, saddr := BitVec.ofNat 64 e.a,
    sty := e.types.1, dty := e.types.2, n := e.count.getD 0, qctl := (s.ctxD d).ws.qctl, sh := e.sh.getD 0#256,
    stream := copyStream s d f k, sbytes := h.sbytes, sigSem := h.sigSem.toNat, sigInc := h.sigInc.toInt, fp := s.cur.fp }

/-- R53, R314: the addresses of a copy. -/
theorem Fresh.copyAddrs (hf : Fresh s o d) (hs : Seated s o) (hk : s.ck0 d < 1024) {f : FCOPY} {k : CopyKind} (hok : CopyOps s d f k) :
    ∃ o', Latches s d o o' ∧ o.copyAddrs d f (k == .check) = (if k ≠ .check then copyDst s d f else 0, copySrc s d f, o') := by
  obtain ⟨hdst, hsrc, -⟩ := hok
  obtain ⟨o1, e1, l1, h1⟩ := (Latches.refl s d o).addressIf hf hk (k ≠ .check) hdst (pos := 80) (hf.addrs 80)
    (f.doff.toInt + if f.dside then dterm s d f.dstride.toInt f.dts else 0) f.dstep.toInt
  have ha : SMap.get 0#64 (Machine.addrs (o1.getCd (s.ck0 d)).ws.slots s.cur.slot) 91 = SMap.get 0#64 (s.slotD d).addr 91 := (h1 91 (by decide)).trans (hf.addrs 91)
  refine ⟨_, l1.trans (Latches.of_setSlots hk o1 (latchedAddr (o1.getCd (s.ck0 d)).ws.slots s.cur.slot 91 (copySrc s d f))), ?_⟩
  have hcheck : (if (k == .check) = true then (0, o) else o.address d 80 f.dbase (f.doff.toInt + if f.dside then dterm s d f.dstride.toInt f.dts else 0) f.dstep.toInt) =
      if k ≠ .check then o.address d 80 f.dbase (f.doff.toInt + if f.dside then dterm s d f.dstride.toInt f.dts else 0) f.dstep.toInt else (0, o) := by
    cases k <;> rfl
  unfold State.copyAddrs
  dsimp only
  rw [hf.dieTerm hs, hcheck, e1]
  dsimp only
  rw [(l1.looks hf.looks).address hsrc ha]
  rfl

/-- R314: a copy operation on a die comes to its command refused or pushed. -/
theorem Fresh.copyDie (hf : Fresh s o d) (hs : Seated s o) (hk : s.ck0 d < 1024) {op : Instr} {f : FCOPY} {k : CopyKind} (hok : CopyOps s d f k) {code : Nat}
    (hcode : RefusedWith (copyEnds s d f k) code) : ∃ o', Latches s d o o' ∧ o.copyDie op h f k d =
      if code = 0 then o'.pushCopy d f.ch.toNat (copyCmd s h op f k d) else o'.refuseCopy d f.ch.toNat code := by
  obtain ⟨o', hl, e⟩ := hf.copyAddrs hs hk hok
  have hlooks := hl.looks hf.looks
  obtain ⟨-, -, hrecs⟩ := hok
  have hstall : (f.shen && (s.ctxD d).recs.any fun r => r.k == f.shape.toNat) = false := by
    cases hsh : f.shen with
    | false => rfl
    | true => simpa using hrecs hsh
  have hends : (⟨f, k, if k ≠ .check then copyDst s d f else 0, copySrc s d f,
      if (f.shen && (SMap.get {} (s.ctxD d).sh f.shape.toNat).loaded) = true then some (SMap.get {} (s.ctxD d).sh f.shape.toNat).bits else none,
      (if (k == .check) = true then 0 else SMap.get 0 (s.ctxD d).bind f.ch.toNat) != 0, s.coreD d⟩ : CopyEnds) = copyEnds s d f k := by
    unfold copyEnds copyShape copyStream
    cases k <;> rfl
  have hstream : (if (k == .check) = true then 0 else SMap.get 0 (s.ctxD d).bind f.ch.toNat) = copyStream s d f k := by
    unfold copyStream
    cases k <;> rfl
  have hck : o'.ck0 d = s.ck0 d := hlooks.ck0 d
  refine ⟨o', hl, ?_⟩
  unfold State.copyDie
  dsimp only
  rw [e, hf.ctxD]
  dsimp only
  rw [hstall, if_neg Bool.false_ne_true, hl.coreD hf, hends, hck, hlooks.cur, hstream]
  unfold RefusedWith at hcode
  rw [hcode]
  by_cases hc : code = 0
  · rw [if_pos hc, if_pos hc]
    rfl
  · rw [if_neg hc, if_neg hc]

/-- R313, R314: a copy operation queues its command on each die, or is refused there. -/
theorem copy_does {op : Instr} {f : FCOPY} {k : CopyKind} {code : Nat → Nat} (hready : Ready s h)
    (hexec : exec op s = s.attempt fun s => s.onDies h fun d s => (s.copyDie op h f k d).splices)
    (hok : ∀ d ∈ s.enabled h, CopyOps s d f k ∧ RefusedWith (copyEnds s d f k) (code d) ∧ (code d = 0 → CopyRoom s d f.ch.toNat)) :
    Does op s h (forces s h) (copyOutcome s f.ch.toNat code fun d => copyFootprint (copyCmd s h op f k d)) := by
  refine does_of_command hready hexec (fun d hd o hfresh hs => ?_) (copy_command f.ch.toNat code fun d => copyFootprint (copyCmd s h op f k d))
  obtain ⟨hops, hcode, hroom⟩ := hok d hd
  have hk : s.ck0 d < 1024 := ck0_lt (cc0_lt hready.col hready.ctx) (State.enabled_lt hd)
  obtain ⟨o', hl, e⟩ := hfresh.copyDie (h := h) (op := op) hs hk hops hcode
  refine ⟨o', hl, congrArg State.splices ?_⟩
  rw [e]
  unfold copyOutcome
  by_cases hc : code d = 0
  · rw [if_pos hc, if_pos hc, hl.pushCopy hfresh (hroom hc)]
  · rw [if_neg hc, if_neg hc, State.refuseCopy, (hl.looks hfresh.looks).cur]
    rfl

theorem copyIssues {mk : Hdr → FCOPY → Instr} {k : CopyKind}
    (hexec : ∀ h f s, exec (mk h f) s = s.attempt fun s => s.onDies h fun d s => (s.copyDie (mk h f) h f k d).splices) : CopyIssues mk k :=
  fun s h f _ hready hok => copy_does hready (hexec h f s) hok

/-! ### A full channel (R128) -/

/-- Every operand has a value, nothing refuses the copy, and its channel is full on each die. -/
def ChannelFull (s : State) (h : Hdr) (f : FCOPY) (k : CopyKind) : Prop :=
  ∀ d ∈ s.enabled h, CopyOps s d f k ∧ RefusedWith (copyEnds s d f k) 0 ∧ 16 ≤ (SMap.get {} (s.coreD d).ch f.ch.toNat).q.length ∧
    (s.coreD d).track.length < 64

theorem copy_faults_full {op : Instr} {f : FCOPY} {k : CopyKind} (hready : Ready s h)
    (hexec : exec op s = s.attempt fun s => s.onDies h fun d s => (s.copyDie op h f k d).splices) (hne : s.enabled h ≠ []) (hfull : ChannelFull s h f k)
    (hstrict : ∀ d ∈ s.enabled h, (s.ctxD d).ws.cpctl.getLsbD 0 = false) : Faults op s h fun _ => { code := 0x0D } := by
  refine faults_of_on (fun _ o => Seated s o) hready hexec hne (fun d o hd hfresh hs => ?_) fun _ _ => Seated.refl s _
  obtain ⟨hops, hcode, hq, ht⟩ := hfull d hd
  have hk : s.ck0 d < 1024 := ck0_lt (cc0_lt hready.col hready.ctx) (State.enabled_lt hd)
  obtain ⟨o', hl, e⟩ := hfresh.copyDie (h := h) (op := op) hs hk hops hcode
  have hcur := (hl.looks hfresh.looks).cur
  dsimp only
  rw [e, if_pos rfl, hl.pushCopy_full hfresh hq ht, if_neg (by rw [hstrict d hd]; decide), ← hl.att, ← hcur]
  exact ⟨rfl, rfl, rfl, rfl, hl.freeCtr, fun e _ hne he _ => ⟨((hl.fresh hne he).att _).splices, (hl.seated hs).of_eq rfl rfl rfl rfl⟩⟩

theorem copy_blocks_full {op : Instr} {f : FCOPY} {k : CopyKind} (hready : Ready s h)
    (hexec : exec op s = s.attempt fun s => s.onDies h fun d s => (s.copyDie op h f k d).splices) (hne : s.enabled h ≠ []) (hfull : ChannelFull s h f k)
    (hlenient : ∀ d ∈ s.enabled h, (s.ctxD d).ws.cpctl.getLsbD 0 = true) : Blocks op s .push := by
  refine blocks_of_where (P := fun _ => true) (X := Seated s) hready hexec (fun d o hd hfresh hs => ?_) (Seated.refl s _)
    (by obtain ⟨d, hd⟩ := List.exists_mem_of_ne_nil _ hne; exact List.any_eq_true.2 ⟨d, hd, rfl⟩)
  obtain ⟨hops, hcode, hq, ht⟩ := hfull d hd
  have hk : s.ck0 d < 1024 := ck0_lt (cc0_lt hready.col hready.ctx) (State.enabled_lt hd)
  obtain ⟨o', hl, e⟩ := hfresh.copyDie (h := h) (op := op) hs hk hops hcode
  dsimp only
  rw [e, if_pos rfl, hl.pushCopy_full hfresh hq ht, if_pos (hlenient d hd), ← hl.att]
  exact ⟨hl.freeCtr, rfl, rfl, (hl.seated hs).of_eq rfl rfl rfl rfl, fun e _ hne he => ((hl.fresh hne he).att _).splices⟩

theorem copy_full {mk : Hdr → FCOPY → Instr} {k : CopyKind} {f : FCOPY} (hready : Ready s h)
    (hexec : exec (mk h f) s = s.attempt fun s => s.onDies h fun d s => (s.copyDie (mk h f) h f k d).splices) (hne : s.enabled h ≠ [])
    (hfull : ChannelFull s h f k) :
    ((∀ d ∈ s.enabled h, (s.ctxD d).ws.cpctl.getLsbD 0 = false) → Faults (mk h f) s h (fun _ => { code := 0x0D })) ∧
    ((∀ d ∈ s.enabled h, (s.ctxD d).ws.cpctl.getLsbD 0 = true) → Blocks (mk h f) s .push) :=
  ⟨copy_faults_full hready hexec hne hfull, copy_blocks_full hready hexec hne hfull⟩

end

/-- Settles O34. -/
theorem copyIssue : Obligations.CopyIssue := by
  refine ⟨⟨copyIssues fun _ _ _ => rfl, copyIssues fun _ _ _ => rfl, copyIssues fun _ _ _ => rfl⟩, fun s h f k mk hmk hready hne hfull => ?_⟩
  simp only [List.mem_cons, Prod.mk.injEq, List.not_mem_nil, or_false] at hmk
  obtain ⟨rfl, rfl⟩ | ⟨rfl, rfl⟩ | ⟨rfl, rfl⟩ := hmk
  · exact copy_full hready rfl hne hfull
  · exact copy_full hready rfl hne hfull
  · exact copy_full hready rfl hne hfull

end Sys2Proof.Machine
end

section
/-! SUPPORT. Channels bound and drained (R129, R316, R338). -/

set_option Elab.async false

namespace Sys2Proof.Machine

open Claims

section

variable {s o t u : State} {h : Hdr} {d : Nat}

/-! ### SBIND (R338) -/

/-- R338: a channel of the context bound to a stream, or unbound. -/
def bindsChannel (s : State) (h : Hdr) (f : FRRR) (d : Nat) (x : State) : State :=
  given s h d (x.updCd (s.ck0 d) fun c => { c with
    bind := SMap.set 0 c.bind (f.sub.toNat % 4) (if f.sub.toNat / 4 % 2 = 1 then f.dst.n % 16 + 1 else 0) })

theorem Seated.given (hs : Seated s o) : Seated s (given s h d o) := by
  unfold Claims.given State.signal
  split
  · exact hs
  · exact hs.updCore _ _

theorem bindsChannel_command (hready : Ready s h) (f : FRRR) : Command s h (bindsChannel s h f) (bindsChannel s h f) := by
  unfold bindsChannel
  have hk (d : Nat) (hd : d ∈ s.enabled h) : s.ck0 d < 1024 := ck0_lt (cc0_lt hready.col hready.ctx) (State.enabled_lt hd)
  refine ⟨fun d hd t u hi => ?_, fun d o => ?_, fun d hd e hne o hf => ?_, fun d o hs => ?_, fun d u hq => ?_⟩
  · refine (hi.updCd _ (hk d hd) _ ?_ ?_).given h d
    · intro x y e
      unfold KeptCd at *
      rw [e]
    · exact fun x y e => (sameCd_iff.1 e).2
  · exact (given_keeps d).1.trans (State.updCd_keeps _ _).1
  · exact (hf.updCd hne (hk d hd) _).given hne
  · exact (hs.updCd _ _).given
  · exact (hq.updCd _ _ fun _ => by rfl).given d

theorem sbind_does (hready : Ready s h) (f : FRRR) : Does (.sbind h f) s h (forces s h) (bindsChannel s h f) := by
  refine does_of_command hready rfl (fun d hd o hfresh hs => ⟨o, Latches.refl s d o, ?_⟩) (bindsChannel_command hready f)
  refine congrArg State.splices ?_
  rw [State.updD, hfresh.ck0]
  exact State.signalNow_eq ((State.updCd_keeps _ _).2.1.trans hfresh.cur) d

/-! ### A channel drained (R316) -/

/-- R150, R153: commands forgotten by the task scheduler and by the pod. -/
def forgets (core : Nat) (l : List CopyCmd) (x : State) : State := l.foldl (fun s c => (s.untrack core c.uid).dropPod c.uid) x

theorem State.drainChan_eq (s : State) (core ck ch : Nat) : s.drainChan core ck ch = ((notBegun s core ck ch).length, forgets core (notBegun s core ck ch)
    (s.updChan core ch fun x => Channel.refresh { x with q := x.q.filter fun c => !(c.ck == ck && c.started.isNone) })) := by
  rfl

/-- What forgetting commands leaves as it was. -/
structure Forgotten (core : Nat) (t u : State) : Prop where
  ch : (t.getCore core).ch = (u.getCore core).ch
  core : ∀ k ≠ core, t.getCore k = u.getCore k
  mem : t.mem = u.mem
  cd : t.cd = u.cd
  cc : t.cc = u.cc

theorem forgotten_forgets (core : Nat) (l : List CopyCmd) (x : State) : Forgotten core (forgets core l x) x := by
  induction l generalizing x with
  | nil => exact ⟨rfl, fun _ _ => rfl, rfl, rfl, rfl⟩
  | cons c l ih =>
    obtain ⟨h1, h2, h3, h4, h5⟩ := ih ((x.untrack core c.uid).dropPod c.uid)
    have hch : ((x.untrack core c.uid).getCore core).ch = (x.getCore core).ch := by
      rw [State.untrack, State.updCore, State.getCore_setCore_same]
    exact ⟨h1.trans hch, fun k hk => (h2 k hk).trans (State.getCore_setCore_other x _ _ _ hk), h3, h4, h5⟩

/-- R129, R316: what a drain leaves of a channel and of everything else. -/
theorem channelDrained : ChannelDrained := by
  intro s core ck ch
  have hf := forgotten_forgets core (notBegun s core ck ch)
    (s.updChan core ch fun x => Channel.refresh { x with q := x.q.filter fun c => !(c.ck == ck && c.started.isNone) })
  have hcore : ((s.updChan core ch fun x => Channel.refresh { x with q := x.q.filter fun c => !(c.ck == ck && c.started.isNone) }).getCore core).ch =
      SMap.upd {} (s.getCore core).ch ch fun x => Channel.refresh { x with q := x.q.filter fun c => !(c.ck == ck && c.started.isNone) } :=
    congrArg Core.ch (State.getCore_setCore_same s core _)
  rw [State.drainChan_eq]
  dsimp only
  rw [hf.ch, hcore, SMap.upd, SMap.get_set_same]
  refine ⟨rfl, fun x => ?_, rfl, fun j hj => SMap.get_set_other _ _ _ _ _ hj,
    fun k hk => (hf.core k hk).trans (State.getCore_setCore_other s _ _ _ hk), hf.mem, hf.cd, hf.cc⟩
  change x ∈ List.filter _ _ ↔ _
  unfold notBegun
  rw [List.mem_filter, List.mem_filter]
  cases (x.ck == ck && x.started.isNone) <;> simp

/-! ### CPDRAIN (R316) -/

/-- R316: several channels of a core drained. -/
def drains (core ck : Nat) (chs : List Nat) (x : State) : State := chs.foldl (fun x ch => (x.drainChan core ck ch).2) x

theorem drain_other (core ck : Nat) {ch j : Nat} (hj : j ≠ ch) : notBegun (o.drainChan core ck ch).2 core ck j = notBegun o core ck j := by
  obtain ⟨-, -, -, hother, -⟩ := channelDrained o core ck ch
  unfold notBegun
  rw [hother j hj]

/-- R316: the count and the channels of a drain, one channel after another. -/
theorem foldl_drainChan (core ck : Nat) (p : Nat → Bool) (chs : List Nat) : ∀ (n : Nat) (o : State), chs.Nodup →
    chs.foldl (fun (x : Nat × State) ch => if p ch then
      let (m, s) := x.2.drainChan core ck ch
      (x.1 + m, s) else x) (n, o) =
    (((chs.filter p).map fun ch => (notBegun o core ck ch).length).foldl (· + ·) n, drains core ck (chs.filter p) o) := by
  induction chs with
  | nil => exact fun _ _ _ => rfl
  | cons ch chs ih =>
    intro n o hn
    obtain ⟨hch, hn⟩ := List.nodup_cons.1 hn
    rw [List.foldl_cons]
    by_cases hp : p ch = true
    · simp only [if_pos hp, List.filter_cons_of_pos hp, List.map_cons, List.foldl_cons]
      rw [ih _ _ hn, drains, drains, List.foldl_cons]
      refine Prod.ext (congrArg (List.foldl (· + ·) (n + (notBegun o core ck ch).length)) (List.map_congr_left fun j hj => ?_)) rfl
      rw [drain_other core ck fun e : j = ch => hch (by rw [← e]; exact (List.mem_filter.1 hj).1)]
    · simp only [if_neg hp, List.filter_cons_of_neg hp]
      exact ih n o hn

theorem Issued.forgets {ds : List Nat} (hi : Issued s t u ds) (core : Nat) (l : List CopyCmd) : Issued s (forgets core l t) (forgets core l u) ds := by
  induction l generalizing t u with
  | nil => exact hi
  | cons c l ih =>
    exact ih ((hi.updCore _ _ fun _ => by rfl).of_wear (fun v => v.dropPod c.uid) fun _ _ _ _ => rfl)

theorem Issued.drains {ds : List Nat} (hi : Issued s t u ds) (core ck : Nat) (chs : List Nat) : Issued s (drains core ck chs t) (drains core ck chs u) ds := by
  induction chs generalizing t u with
  | nil => exact hi
  | cons ch chs ih =>
    refine ih ?_
    dsimp only
    have hcore : t.core = u.core := (congrArg State.core hi.rel.rest :)
    have hgone : notBegun t core ck ch = notBegun u core ck ch := by simp only [notBegun, State.getCore, hcore]
    rw [State.drainChan_eq, State.drainChan_eq, hgone]
    exact Issued.forgets (hi.updCore _ _ fun _ => by rfl) _ _

/-- What is kept by a change of the core that leaves its firmware context, and by a pod reply dropped, is kept by a drain. -/
theorem drains_keep {P : State → Prop} {core : Nat} (hcore : ∀ x (F : Core → Core), (∀ c, (F c).fw = c.fw) → P x → P (x.updCore core F))
    (hpod : ∀ x n, P x → P (x.dropPod n)) (ck : Nat) (chs : List Nat) {x : State} (hx : P x) : P (drains core ck chs x) := by
  have hforget (l : List CopyCmd) : ∀ y, P y → P (forgets core l y) := by
    induction l with
    | nil => exact fun _ hy => hy
    | cons c l ih => exact fun y hy => ih _ (hpod _ _ (hcore y _ (fun _ => by rfl) hy))
  induction chs generalizing x with
  | nil => exact hx
  | cons ch chs ih =>
    refine ih ?_
    dsimp only
    rw [State.drainChan_eq]
    exact hforget _ _ (hcore x _ (fun _ => by rfl) hx)

theorem Looks.drains {sl : SMap SlotDie} (hl : Looks o s d sl) (core ck : Nat) (chs : List Nat) : Looks (drains core ck chs o) s d sl :=
  drains_keep (P := fun y => Looks y s d sl) (fun _ _ hF hx => ⟨hx.cur, hx.clock, (State.getCd_updCore _ _ _ _ hF).trans hx.cd⟩)
    (fun _ _ hx => ⟨hx.cur, hx.clock, hx.cd⟩) ck chs hl

/-- R316: what a CPDRAIN of `chs` leaves on a die. -/
def drainsDie (s : State) (h : Hdr) (f : FRRR) (chs : List Nat) (d : Nat) (x : State) : State :=
  Claims.leave s d [resultOf s h false 2 .s f.dst.n (BitVec.ofNat 512
      ((chs.map fun ch => (notBegun s (coreKey d s.cur.col) (s.ck0 d) ch).length).foldl (· + ·) 0)) (BitVec.allOnes 512) 0 0]
    (drains (coreKey d s.cur.col) (s.ck0 d) chs x)

theorem drainsDie_command (hready : Ready s h) (f : FRRR) (chs : List Nat) : Command s h (drainsDie s h f chs) (drainsDie s h f chs) := by
  unfold drainsDie
  have hk (d : Nat) (hd : d ∈ s.enabled h) : s.ck0 d < 1024 := ck0_lt (cc0_lt hready.col hready.ctx) (State.enabled_lt hd)
  refine ⟨fun d hd t u hi => (Issued.drains hi _ _ chs).leave (hk d hd) _, fun d o => ?_, fun d hd e hne o hf => ?_, fun d o hs => ?_, fun d u hq => ?_⟩
  · exact (State.updCd_keeps _ _).1.trans (drains_keep (P := fun y => y.att = o.att) (fun _ _ _ hx => hx) (fun _ _ hx => hx) _ chs rfl)
  · exact (drains_keep (P := fun y => Fresh s y e) (fun _ F hF hx => hx.updCore hne F hF) (fun _ _ hx => ⟨hx.cur, hx.clock, hx.cd, hx.core, hx.cc⟩)
      _ chs hf).leave hne (hk d hd) _
  · exact (drains_keep (P := Seated s) (fun _ _ _ hx => hx.updCore _ _) (fun _ _ hx => hx.of_eq rfl rfl rfl rfl) _ chs hs).updCd _ _
  · exact (drains_keep (P := fun y => Quiet y s) (fun _ F hF hx => hx.updCore _ F hF) (fun _ _ hx => hx.of_eq rfl rfl rfl rfl rfl rfl) _ chs hq).leave d _

theorem cpdrain_does (hready : Ready s h) (f : FRRR) (hok : ∀ d ∈ s.enabled h, Writable s d .s f.dst.n) :
    Does (.cpdrain h f) s h (forces s h) (drainsDie s h f ([0, 1, 2, 3].filter fun ch => f.sub.getLsbD ch)) := by
  refine does_of_command hready rfl (fun d hd o hfresh hs => ⟨o, Latches.refl s d o, congrArg State.splices ?_⟩) (drainsDie_command hready f _)
  have hk : s.ck0 d < 1024 := ck0_lt (cc0_lt hready.col hready.ctx) (State.enabled_lt hd)
  have hgone (ch : Nat) : notBegun o (coreKey d s.cur.col) (s.ck0 d) ch = notBegun s (coreKey d s.cur.col) (s.ck0 d) ch := by
    rw [notBegun, hfresh.core, notBegun]
  unfold State.cpdrainDie
  rw [hfresh.cur, hfresh.ck0]
  have e := foldl_drainChan (coreKey d s.cur.col) (s.ck0 d) (fun ch => f.sub.getLsbD ch) [0, 1, 2, 3] 0 o (by decide)
  dsimp only at e ⊢
  rw [e]
  dsimp only
  rw [(hfresh.looks.drains _ _ _).result (hok d hd)]
  simp only [hgone]
  rfl

end

/-- Settles O36. -/
theorem bindAndDrainChannels : Obligations.BindAndDrainChannels :=
  ⟨fun _ _ f hready => ⟨sbind_does hready f, cpdrain_does hready f⟩, channelDrained⟩

end Sys2Proof.Machine
end

section
/-! SUPPORT. Requests for the shared engines and the direct route (R155 to R164, R280, R309, R339, R345). -/

set_option Elab.async false

namespace Sys2Proof.Machine

open Claims

/-! ### What a transfer's clocks depend on (R132) -/

theorem State.podTranslate_wear (s : State) (c : SMap CtxDie) (x : SMap ColCtx) (a : Att) (i va : Nat) (fw rd wr : Bool) :
    ((s.wear c x a).podTranslate i va fw rd wr).1 = (s.podTranslate i va fw rd wr).1 := by
  have hwalk := s.walk_wear c x a (SMap.get 0#64 s.podspc i).toNat va fw rd wr
  have hdie : (s.wear c x a).getDie (s.wear c x a).podDie = s.getDie s.podDie := rfl
  have hspc : (s.wear c x a).podspc = s.podspc := rfl
  unfold State.podTranslate
  dsimp only
  rw [hspc, hdie, hwalk]
  split
  · rfl
  split
  · rfl
  split
  · rfl
  · cases s.walk (SMap.get 0#64 s.podspc i).toNat va fw rd wr <;> rfl

end Sys2Proof.Machine

namespace Sys2Proof.Claims

open Machine

section

variable {s t u : State} {ds : List Nat} {d : Nat}

theorem Issued.outTime (hi : Issued s t u ds) (die pkg : Nat) (tr : Tr) : t.outTime die pkg tr = u.outTime die pkg tr := by
  rw [← hi.rel.rest]
  rfl

theorem Issued.podTranslate (hi : Issued s t u ds) (i va : Nat) (fw rd wr : Bool) :
    (t.podTranslate i va fw rd wr).1 = (u.podTranslate i va fw rd wr).1 := by
  rw [← hi.rel.rest]
  exact (State.podTranslate_wear ..).symm

theorem Issued.endClocks (hi : Issued s t u ds) (ck : Nat) (acc : Acc) (va : Nat) (dest : Bool) : t.endClocks ck acc va dest = u.endClocks ck acc va dest := by
  have htrb : (t.getCd ck).trbase = (u.getCd ck).trbase := (congrArg CtxDie.trbase (hi.sameAt ck) :)
  have hnum : t.pkgNum = u.pkgNum := by rw [← hi.rel.rest]; rfl
  have hidx (p : Nat) : t.podIndex p = u.podIndex p := by rw [← hi.rel.rest]; rfl
  have hplace (loc : Nat) : t.stackPlace loc = u.stackPlace loc := by rw [← hi.rel.rest]; rfl
  unfold State.endClocks
  dsimp only
  split
  · rfl
  · rw [hi.outTime, hnum, hi.partOf, hidx, hi.podTranslate]
  · rw [htrb, (hi.resolve _ _ _ _ _ _ _ _).1]
    split
    · rw [hplace]
    · rfl
  · rfl

theorem Issued.timeXmits (hi : Issued s t u ds) (acc : Acc) (base : Nat) (direct : Bool) (l : List Xmit) :
    t.timeXmits acc base direct l = u.timeXmits acc base direct l := by
  have hends (x : Xmit) : t.xmitEnds acc x direct = u.xmitEnds acc x direct := by simp only [State.xmitEnds, hi.endClocks]
  have hclock : t.clock = u.clock := (congrArg State.clock hi.rel.rest :)
  cases l with
  | nil => rfl
  | cons x l => simp only [State.timeXmits, hends, hclock]

/-- R163: a transfer behind the others of the direct path of both states. -/
theorem Issued.pushDirect (hi : Issued s t u ds) (core : Nat) (x : Xmit) : Issued s (t.pushDirect core x) (u.pushDirect core x) ds := by
  have hcore : t.core = u.core := (congrArg State.core hi.rel.rest :)
  unfold State.pushDirect
  dsimp only
  rw [hi.timeXmits, State.getCore, hcore]
  exact hi.updCore _ _ fun _ => by rfl

theorem Issued.updEng (hi : Issued s t u ds) (k : Nat) (F : Eng → Eng) : Issued s (t.updEng k F) (u.updEng k F) ds :=
  hi.of_wear (fun v => v.updEng k F) fun _ _ _ _ => rfl

/-- R164: a transfer behind the others of a circuit of both states. -/
theorem Issued.pushCirc (hi : Issued s t u ds) (e n : Nat) (x : Xmit) : Issued s (t.pushCirc e n x) (u.pushCirc e n x) ds := by
  unfold State.pushCirc State.updCirc
  simp only [hi.timeXmits]
  exact hi.updEng _ _

/-- Two results left one after the other. -/
theorem Issued.leave_leave (hi : Issued s t u ds) (hk : s.ck0 d < 1024) (a b : Pend) :
    Issued s (Claims.leave s d [b] (Claims.leave s d [a] t)) (Claims.leave s d [a, b] u) ds := by
  have hkept (l : List Pend) : ∀ x y : CtxDie, KeptCd x y → KeptCd { x with pend := x.pend ++ l } { y with pend := y.pend ++ l } := fun x y e => by
    unfold KeptCd at *
    rw [e]
  have hpend (l : List Pend) : ∀ x y : CtxDie, SameCd x y → x.pend ++ l = y.pend ++ l := fun x y e => congrArg (· ++ l) (sameCd_iff.1 e).2
  refine hi.updCd_updCd hk (fun c => ?_) (hkept _) (hpend _) (hkept _) (hpend _)
  rw [List.append_assoc]
  rfl

end

end Sys2Proof.Claims

namespace Sys2Proof.Machine

open Claims

section

variable {s o o' : State} {h : Hdr} {d : Nat}

/-! ### Results that a reply gives (R81, R157) -/

/-- What the cursor's context on die `d` has in flight is what it had, and what this attempt leaves. -/
structure Trails (s o : State) (d : Nat) : Prop where
  cur : o.cur = s.cur
  clock : o.clock = s.clock
  pend : ∃ l, (o.getCd (s.ck0 d)).pend = (s.ctxD d).pend ++ l ∧ ∀ p ∈ l, p.issued = s.clock

theorem Looks.trails {sl : SMap SlotDie} (hl : Looks o s d sl) : Trails s o d :=
  ⟨hl.cur, hl.clock, [], by rw [hl.cd, List.append_nil]; rfl, fun _ hp => absurd hp List.not_mem_nil⟩

theorem Trails.ck0 (ht : Trails s o d) (e : Nat) : o.ck0 e = s.ck0 e := by rw [State.ck0, State.ck0, State.cc0, State.cc0, ht.cur]

theorem Trails.updCd (ht : Trails s o d) {F : CtxDie → CtxDie} (hF : ∀ c, (F c).pend = c.pend) : Trails s (o.updCd (s.ck0 d) F) d := by
  obtain ⟨hcur, hclock, l, hpend, hl⟩ := ht
  exact ⟨by rw [State.updCd_cur, hcur], by rw [State.updCd_clock, hclock], l, by rw [State.getCd_updCd_same, hF, hpend], hl⟩

theorem Trails.leave (ht : Trails s o d) {p : Pend} (hp : p.issued = s.clock) : Trails s (Claims.leave s d [p] o) d := by
  obtain ⟨hcur, hclock, l, hpend, hl⟩ := ht
  refine ⟨by rw [Claims.leave, State.updCd_cur, hcur], by rw [Claims.leave, State.updCd_clock, hclock], l ++ [p], ?_, fun q hq => ?_⟩
  · rw [Claims.leave, State.getCd_updCd_same, hpend, List.append_assoc]
  · rcases List.mem_append.1 hq with hq | hq
    · exact hl q hq
    · rw [List.mem_singleton.1 hq, hp]

/-- R79: what an attempt itself leaves stops none of its writes. -/
theorem Trails.writable (ht : Trails s o d) {file : RFile} {n : Nat} (hw : Writable s d file n) : o.wrCheck d file n = o := by
  have hck := ht.ck0 d
  obtain ⟨-, hclock, l, hpend, hl⟩ := ht
  have hb : ((o.ctxD d).inFlight o.clock file n).any (·.sb) = false := by
    rw [List.any_eq_false]
    intro p hp
    rw [State.ctxD, hck, CtxDie.inFlight, hpend, hclock, List.filter_append, List.mem_append] at hp
    rcases hp with hp | hp
    · rw [hw p hp]
      decide
    · obtain ⟨hmem, hcond⟩ := List.mem_filter.1 hp
      rw [hl p hmem] at hcond
      simp at hcond
  rw [State.wrCheck, hb]
  rfl

theorem Trails.awaitReg (ht : Trails s o d) {file : RFile} {n : Nat} (hw : Writable s d file n) (uid : Nat) (due : Option Nat) (v : Nat) :
    o.awaitReg d file n uid due v = Claims.leave s d [engResult s file n uid due v] o := by
  rw [State.awaitReg, ht.writable hw, State.updD, ht.ck0, ht.cur, ht.clock]
  rfl

/-! ### Addresses and routes (R155, R156) -/

/-- R155: the addresses of an engine's operation latched. -/
theorem Fresh.enAddrs (hf : Fresh s o d) (hs : Seated s o) (hk : s.ck0 d < 1024) {f : FEN} (hdst : BaseOk s d f.dbase) (hsrc : BaseOk s d f.sbase) :
    ∃ o', Latches s d o o' ∧ o.enAddrs d f = (enDst s d f, enSrc s d f, o') := by
  have l1 : Latches s d o (o.setSlots (s.ck0 d) (latchedAddr (s.ctxD d).ws.slots s.cur.slot 80 (enDst s d f))) := Latches.of_setSlots hk _ _
  have e1 : o.address d 80 f.dbase f.doff.toInt 0 = (enDst s d f, o.setSlots (s.ck0 d) (latchedAddr (s.ctxD d).ws.slots s.cur.slot 80 (enDst s d f))) :=
    hf.looks.address hdst rfl _ _
  generalize ho : o.setSlots (s.ck0 d) (latchedAddr (s.ctxD d).ws.slots s.cur.slot 80 (enDst s d f)) = o1 at *
  have hslots : (o1.getCd (s.ck0 d)).ws.slots = latchedAddr (s.ctxD d).ws.slots s.cur.slot 80 (enDst s d f) := by
    rw [← ho, State.setSlots, State.getCd_updCd_same]
  have hl1 := l1.looks hf.looks
  have ha : SMap.get 0#64 (Machine.addrs (o1.getCd (s.ck0 d)).ws.slots s.cur.slot) 91 = SMap.get 0#64 (s.slotD d).addr 91 := by
    rw [hslots, addrs_latchedAddr_other (by decide)]
    rfl
  have hdt : o1.dieTerm d f.dstride.toInt f.dts = dterm s d f.dstride.toInt f.dts := by
    have hcc : o1.getCc s.cc0 = s.getCc s.cc0 := by rw [← hf.cc, ← l1.rest]; rfl
    have hs1 := l1.seated hs
    simp only [State.dieTerm, dterm, State.rankOf, State.onDie, State.ctxLaunch, State.launch?, State.dieLive, State.getSocket, hl1.cc0, hl1.cur, hcc,
      hs1.launches, hs1.sockets]
  refine ⟨_, l1.trans (Latches.of_setSlots hk o1 (latchedAddr (o1.getCd (s.ck0 d)).ws.slots s.cur.slot 91 (enSrc s d f))), ?_⟩
  unfold State.enAddrs
  dsimp only
  rw [e1]
  dsimp only
  rw [hdt, hl1.address hsrc ha]
  rfl

/-- R156: the ends of a transfer lie where its route reaches. -/
theorem enCheck_ok {f : FEN} {choice : Nat} (he : EndsOk s d f choice) : o.enCheck d choice (enDst s d f) (enSrc s d f) f.len.toNat = (true, o) := by
  obtain ⟨h1, h2⟩ := he
  rw [State.enCheck, h1, h2]

/-- R280: what a policy refuses is as before the attempt. -/
theorem policyRefuses_of {cc choice : Nat} (hcc : o.getCc cc = s.getCc cc) (hs : Seated s o) : o.policyRefuses cc choice = s.policyRefuses cc choice := by
  have hpart : o.partOf cc = s.partOf cc := by
    simp only [State.partOf, State.partOfCol, State.ctxLaunch, State.launch?, hcc, hs.launches, hs.parts]
  have hcols : o.partCols cc = s.partCols cc := by
    unfold State.partCols
    simp only [hpart, State.getPart, State.getCol, hs.parts, hs.col]
    rfl
  rw [State.policyRefuses, State.policyRefuses, hcols, hpart, State.getPart, State.getPart, hs.parts]

/-! ### SEIZE and SEIZE.hold (R157, R160, R339) -/

/-- R160: the direct route admitted: the route list presented, the streak cleared. -/
def admitted (f : FEN) (c : CtxDie) : CtxDie := { c with lastNch := (routeList f).1, lastChoices := (routeList f).2, streak := 0, aged := false }

theorem onAdmit_present (f : FEN) (c : CtxDie) : (c.present (routeList f)).onAdmit = admitted f c := by
  unfold CtxDie.present CtxDie.onAdmit admitted
  split
  next e => rw [← e]
  next => rfl

theorem present_last (f : FEN) (c : CtxDie) :
    (c.present (routeList f)).lastNch = (routeList f).1 ∧ (c.present (routeList f)).lastChoices = (routeList f).2 := by
  unfold CtxDie.present
  split
  next e => exact ⟨congrArg Prod.fst e, congrArg Prod.snd e⟩
  next => exact ⟨rfl, rfl⟩

theorem present_aged (f : FEN) (c : CtxDie) (sl : SMap SlotDie) :
    ({ c with ws := { c.ws with slots := sl } }.present (routeList f)).aged = (c.present (routeList f)).aged := by
  unfold CtxDie.present
  dsimp only
  split <;> rfl

/-- R157: the result word of a direct admission. -/
def directWord (s : State) (d : Nat) (f : FEN) : Nat :=
  7 * 2 ^ 8 + 2 * 2 ^ 4 + (if ((s.ctxD d).present (routeList f)).aged then 8 else 0) + tryIdx s d f

/-- R157, R160: the admission of the direct route as the attempt makes it. -/
def admitsDirect (s : State) (d : Nat) (f : FEN) (uid : Nat) (x : State) : State :=
  Claims.leave s d [engResult s .f f.fbusy.toNat uid (some (s.clock + 2)) 0] (Claims.leave s d [engResult s .s f.out.n uid (some (s.clock + 2)) (directWord s d f)]
    (x.updCd (s.ck0 d) (admitted f)))

/-- R156: a request sent as the attempt sends it. -/
def sendsReq (s : State) (d : Nat) (f : FEN) (r : Req) (x : State) : State :=
  sentReq s d f r (Claims.leave s d [engResult s .f f.fbusy.toNat r.uid none 0] (Claims.leave s d [engResult s .s f.out.n r.uid none 0] x))

theorem Issued.admitsDirect {t u : State} {ds : List Nat} (hi : Issued s t u ds) (hk : s.ck0 d < 1024) (f : FEN) (uid : Nat) :
    Issued s (admitsDirect s d f uid t) (admittedDirect s d f uid u) ds := by
  obtain ⟨hn, hc⟩ := present_last f (s.ctxD d)
  unfold Machine.admitsDirect admittedDirect
  dsimp only
  rw [hn, hc]
  refine Issued.leave_leave (hi.updCd _ hk (admitted f) ?_ ?_) hk _ _
  · intro x y e
    unfold KeptCd admitted at *
    rw [e]
  · exact fun x y e => (sameCd_iff.1 e).2

theorem Issued.sendsReq {t u : State} {ds : List Nat} (hi : Issued s t u ds) (hk : s.ck0 d < 1024) (f : FEN) (r : Req) :
    Issued s (sendsReq s d f r t) (sentReq s d f r (Claims.leave s d [engResult s .s f.out.n r.uid none 0, engResult s .f f.fbusy.toNat r.uid none 0] u)) ds :=
  (hi.leave_leave hk _ _).updEng _ _

theorem Fresh.updEng {e : Nat} (hf : Fresh s o e) (k : Nat) (F : Eng → Eng) : Fresh s (o.updEng k F) e := ⟨hf.cur, hf.clock, hf.cd, hf.core, hf.cc⟩

theorem Seated.leave (hs : Seated s o) (d : Nat) (l : List Pend) : Seated s (Claims.leave s d l o) := hs.updCd _ _

theorem Fresh.pushDirect {e : Nat} (hf : Fresh s o e) (hne : e ≠ d) (x : Xmit) : Fresh s (o.pushDirect (coreKey d s.cur.col) x) e := by
  unfold State.pushDirect
  exact hf.updCore hne _ fun _ => by rfl

theorem Seated.pushDirect (hs : Seated s o) (k : Nat) (x : Xmit) : Seated s (o.pushDirect k x) := by
  unfold State.pushDirect
  exact hs.updCore _ _

theorem Quiet.pushDirect {t u : State} (hq : Quiet t u) (k : Nat) (x : Xmit) : Quiet (t.pushDirect k x) u := by
  unfold State.pushDirect
  exact hq.updCore _ _ fun _ => by rfl

theorem Quiet.updEng {t u : State} (hq : Quiet t u) (k : Nat) (F : Eng → Eng) : Quiet (t.updEng k F) u := hq.of_eq rfl rfl rfl rfl rfl rfl

theorem leave_att (d : Nat) (l : List Pend) : (Claims.leave s d l o).att = o.att := State.updCd_att o _ _

/-- R156: the request of a SEIZE. -/
def seizeReq (s : State) (op : Instr) (f : FEN) (d uid : Nat) : Req :=
  { atClk := 0, uid := uid, ck := s.ck0 d, i := 0, choice := tryChoice s d f, op := op, bundle := s.cur.bundle,
    daddr := if isHold op then 0#64 else BitVec.ofNat 64 (enDst s d f), saddr := if isHold op then 0#64 else BitVec.ofNat 64 (enSrc s d f), barred := false }

/-- R339: what SEIZE and SEIZE.hold leave on a die: the direct route admitted, or a request sent. -/
def seizes (s : State) (h : Hdr) (op : Instr) (f : FEN) (direct : Nat → Nat → State → State) (send : Nat → Req → State → State) (d : Nat) (x : State) : State :=
  if tryChoice s d f = 7 then
    if isHold op then direct d x.uid { x with uid := x.uid + 1 }
    else (direct d x.uid { x with uid := x.uid + 1 }).pushDirect (coreKey d s.cur.col) (xmitOf s h op f d x.uid s.clock)
  else send d (seizeReq s op f d x.uid) { x with uid := x.uid + 1 }

/-- What the statement says that a SEIZE leaves. -/
def seized (s : State) (h : Hdr) (op : Instr) (f : FEN) (d : Nat) (x : State) : State :=
  seizes s h op f (fun d uid x => admittedDirect s d f uid x) (fun d r x => sentReq s d f r
    (Claims.leave s d [engResult s .s f.out.n r.uid none 0, engResult s .f f.fbusy.toNat r.uid none 0] x)) d x

theorem seize_command (hready : Ready s h) (op : Instr) (f : FEN) :
    Command s h (seizes s h op f (fun d uid x => admitsDirect s d f uid x) fun d r x => sendsReq s d f r x) (seized s h op f) := by
  have hk (d : Nat) (hd : d ∈ s.enabled h) : s.ck0 d < 1024 := ck0_lt (cc0_lt hready.col hready.ctx) (State.enabled_lt hd)
  unfold seized
  refine ⟨fun d hd t u hi => ?_, fun d o => ?_, fun d hd e hne o hf => ?_, fun d o hs => ?_, fun d u hq => ?_⟩ <;> unfold seizes
  · rw [hi.uid]
    have h0 := hi.fresh
    rw [hi.uid] at h0
    split
    · split
      · exact Issued.admitsDirect h0 (hk d hd) f _
      · exact (Issued.admitsDirect h0 (hk d hd) f _).pushDirect _ _
    · exact Issued.sendsReq h0 (hk d hd) f _
  · have h0 : (admitsDirect s d f o.uid { o with uid := o.uid + 1 }).att = o.att := by
      rw [admitsDirect, leave_att, leave_att, State.updCd_att]
    split
    · split
      · exact h0
      · exact h0
    · exact (leave_att _ _).trans (leave_att _ _)
  · have h0 := ((((hf.uid (o.uid + 1)).updCd hne (hk d hd) (admitted f)).leave hne (hk d hd)
      [engResult s .s f.out.n o.uid (some (s.clock + 2)) (directWord s d f)]).leave hne (hk d hd)
      [engResult s .f f.fbusy.toNat o.uid (some (s.clock + 2)) 0])
    split
    · split
      · exact h0
      · exact Fresh.pushDirect h0 hne _
    · unfold sendsReq sentReq
      exact (((hf.uid _).leave hne (hk d hd) _).leave hne (hk d hd) _).updEng _ _
  · have h1 : Seated s { o with uid := o.uid + 1 } := hs.of_eq rfl rfl rfl rfl
    have h0 : Seated s (admitsDirect s d f o.uid { o with uid := o.uid + 1 }) := ((h1.updCd _ _).leave d _).leave d _
    split
    · split
      · exact h0
      · exact h0.pushDirect _ _
    · exact ((h1.leave d _).leave d _).of_eq rfl rfl rfl rfl
  · have h0 : Quiet (admittedDirect s d f u.uid { u with uid := u.uid + 1 }) s := ((hq.uid _).updCd _ _ fun _ => by rfl).leave d _
    split
    · split
      · exact h0
      · exact h0.pushDirect _ _
    · exact ((hq.uid _).leave d _).updEng _ _

/-! ### The body of a SEIZE -/

/-- What a SEIZE asks of a die. -/
structure SeizeOk (s : State) (d : Nat) (f : FEN) (hold : Bool) : Prop where
  settled : Settled s d .s f.out.n
  out : Writable s d .s f.out.n
  busy : Writable s d .f f.fbusy.toNat
  ends : hold = false → BaseOk s d f.dbase ∧ BaseOk s d f.sbase ∧ EndsOk s d f (tryChoice s d f)
  room : tryChoice s d f = 7 → (s.coreD d).direct.length < 16

theorem Latches.trails (hl : Latches s d o o') (hf : Fresh s o d) : Trails s o' d := (hl.looks hf.looks).trails

/-- R157, R160: the direct route admitted, in a state whose context is as before the attempt but for its latches. -/
theorem Looks.directAdmit {sl : SMap SlotDie} (hl : Looks o s d sl) {f : FEN} (hout : Writable s d .s f.out.n) (hbusy : Writable s d .f f.fbusy.toNat)
    (uid : Nat) : o.directAdmit d f uid (tryIdx s d f) = admitsDirect s d f uid o := by
  have ht1 : Trails s (o.updCd (s.ck0 d) (admitted f)) d := hl.trails.updCd fun _ => by rfl
  have ht2 : Trails s (Claims.leave s d [engResult s .s f.out.n uid (some (s.clock + 2)) (directWord s d f)] (o.updCd (s.ck0 d) (admitted f))) d := ht1.leave rfl
  have hadm : (fun x : CtxDie => (x.present (routeList f)).onAdmit) = admitted f := funext (onAdmit_present f)
  have hwait := ht1.awaitReg hout uid (some (s.clock + 2)) (directWord s d f)
  unfold State.directAdmit
  dsimp only
  rw [hl.ctxD, present_aged, hadm, State.updD, hl.ck0, ht1.clock, ← directWord, hwait, ht2.clock]
  exact ht2.awaitReg hbusy _ _ _

/-- R163: a direct path with room stalls nothing. -/
theorem Fresh.directFull (hcore : o.coreD d = s.coreD d) (hroom : (s.coreD d).direct.length < 16) : o.directFull d = o := by
  rw [State.directFull, hcore, if_neg (by omega)]

theorem admitsDirect_keeps (hk : s.ck0 d < 1024) (f : FEN) (uid : Nat) : (admitsDirect s d f uid o).cur = o.cur ∧ (admitsDirect s d f uid o).clock = o.clock ∧
    (admitsDirect s d f uid o).coreD d = o.coreD d := by
  have hcur : (admitsDirect s d f uid o).cur = o.cur := by
    rw [admitsDirect, Claims.leave, State.updCd_cur, Claims.leave, State.updCd_cur, State.updCd_cur]
  refine ⟨hcur, ?_, ?_⟩
  · rw [admitsDirect, Claims.leave, State.updCd_clock, Claims.leave, State.updCd_clock, State.updCd_clock]
  · rw [State.coreD, hcur, admitsDirect, Claims.leave, State.getCore_updCd hk, Claims.leave, State.getCore_updCd hk, State.getCore_updCd hk]
    rfl

/-- R156, R280: a request sent, in such a state. -/
theorem Looks.sendReq {sl : SMap SlotDie} (hl : Looks o s d sl) (hcc : o.getCc s.cc0 = s.getCc s.cc0) (hs : Seated s o) {f : FEN} (hout : Writable s d .s f.out.n)
    (hbusy : Writable s d .f f.fbusy.toNat) (hk : s.ck0 d < 1024) (r : Req) : o.sendReq d f { r with i := tryIdx s d f } = sendsReq s d f r o := by
  have ht1 : Trails s (Claims.leave s d [engResult s .s f.out.n r.uid none 0] o) d := hl.trails.leave rfl
  have ht2 : Trails s (Claims.leave s d [engResult s .f f.fbusy.toNat r.uid none 0] (Claims.leave s d [engResult s .s f.out.n r.uid none 0] o)) d := ht1.leave rfl
  have hpol : (Claims.leave s d [engResult s .f f.fbusy.toNat r.uid none 0] (Claims.leave s d [engResult s .s f.out.n r.uid none 0] o)).policyRefuses s.cc0
      r.choice = s.policyRefuses s.cc0 r.choice := by
    refine policyRefuses_of ?_ ((hs.leave d _).leave d _)
    rw [← hcc]
    simp only [Claims.leave, State.updCd, State.setCd, if_pos (Or.inl hk : s.ck0 d < 1024 ∨ 2048 ≤ s.ck0 d)]
    rfl
  unfold State.sendReq
  dsimp only
  rw [hl.trails.awaitReg hout, ht1.awaitReg hbusy, ht2.clock, State.cc0, ht2.cur, hl.cur, ← State.cc0, hpol]
  rfl

/-- R339: a SEIZE on a die. -/
theorem Fresh.seizeDie (hf : Fresh s o d) (hs : Seated s o) (hk : s.ck0 d < 1024) {op : Instr} {f : FEN} (hfields : enFields op = f)
    (hhdr : enHdr op = h) (hok : SeizeOk s d f (isHold op)) : ∃ o', Latches s d o o' ∧
      o.seizeDie op f d = seizes s h op f (fun d uid x => admitsDirect s d f uid x) (fun d r x => sendsReq s d f r x) d o' := by
  obtain ⟨hset, hout, hbusy, hends, hroom⟩ := hok
  have haddr : ∃ o', Latches s d o o' ∧ (if isHold op then (0, 0, o) else o.enAddrs d f) =
      (if isHold op then 0 else enDst s d f, if isHold op then 0 else enSrc s d f, o') ∧
      (if isHold op then (true, o') else o'.enCheck d (tryChoice s d f) (if isHold op then 0 else enDst s d f) (if isHold op then 0 else enSrc s d f) f.len.toNat) =
        (true, o') := by
    cases hh : isHold op with
    | true => exact ⟨o, Latches.refl s d o, rfl, rfl⟩
    | false =>
      obtain ⟨hb1, hb2, he⟩ := hends hh
      obtain ⟨o', hl, e⟩ := hf.enAddrs hs hk hb1 hb2
      exact ⟨o', hl, e, enCheck_ok he⟩
  obtain ⟨o', hl, e1, e2⟩ := haddr
  refine ⟨o', hl, ?_⟩
  have hx0 : Latches s d o o' := hl
  have hlooks : Looks { o' with uid := o'.uid + 1 } s d (o'.getCd (s.ck0 d)).ws.slots := ⟨(hl.looks hf.looks).cur, (hl.looks hf.looks).clock, (hl.looks hf.looks).cd⟩
  have hcore : State.coreD { o' with uid := o'.uid + 1 } d = s.coreD d := hl.coreD hf
  have hck : o'.ck0 d = s.ck0 d := (hl.looks hf.looks).ck0 d
  have hcur : o'.cur = s.cur := hlooks.cur
  unfold State.seizeDie
  rw [hf.looks.rdS hset]
  dsimp only
  rw [e1]
  dsimp only
  rw [show routeChoice f (routeIdx f (sreg s d f.out)) = tryChoice s d f from rfl, e2]
  dsimp only [State.fresh]
  rw [if_neg (by decide)]
  unfold seizes
  by_cases hc : tryChoice s d f = 7
  · rw [if_pos hc, if_pos hc]
    have hadm := hlooks.directAdmit hout hbusy o'.uid
    obtain ⟨hk1, hk2, hk3⟩ := admitsDirect_keeps (o := { o' with uid := o'.uid + 1 }) hk f o'.uid
    have hx : mkXmit o'.uid (s.ck0 d) op s.cur.bundle (BitVec.ofNat 64 (enDst s d f)) (BitVec.ofNat 64 (enSrc s d f)) s.clock =
        xmitOf s h op f d o'.uid s.clock := by
      rw [mkXmit, hfields, hhdr]
      rfl
    rw [show routeIdx f (sreg s d f.out) = tryIdx s d f from rfl, hadm, Fresh.directFull (hk3.trans hcore) (hroom hc), hk1, hk2]
    cases hh : isHold op with
    | true => rfl
    | false =>
      simp only [Bool.false_eq_true, if_false]
      have hck' : State.ck0 { o' with uid := o'.uid + 1 } d = s.ck0 d := hck
      have hclock : o'.clock = s.clock := hlooks.clock
      rw [hck', hcur, hclock, hx]
  · rw [if_neg hc, if_neg hc]
    have hcc : State.getCc { o' with uid := o'.uid + 1 } s.cc0 = s.getCc s.cc0 := by
      rw [← hf.cc, ← hl.rest]
      rfl
    have hs' : Seated s { o' with uid := o'.uid + 1 } := (hl.seated hs).of_eq rfl rfl rfl rfl
    have hck' : State.ck0 { o' with uid := o'.uid + 1 } d = s.ck0 d := hck
    refine Eq.trans ?_ (hlooks.sendReq hcc hs' hout hbusy hk (seizeReq s op f d o'.uid))
    rw [hck', hcur]
    unfold seizeReq
    cases isHold op <;> rfl

theorem seizeIssues {mk : Hdr → FEN → Instr} {hold : Bool} (hexec : ∀ h f s, exec (mk h f) s = s.attempt fun s => s.onDies h fun d s => (s.seizeDie (mk h f) f d).splices)
    (hfields : ∀ h f, enFields (mk h f) = f) (hhdr : ∀ h f, enHdr (mk h f) = h) (hhold : ∀ h f, isHold (mk h f) = hold) : SeizeIssues mk hold := by
  intro s h f hready hok
  have key := does_of_command (i := mk h f) hready (hexec h f s) (fun d hd o hfresh hs => ?_) (seize_command hready (mk h f) f)
  · unfold seized seizes seizeReq at key
    rw [hhold] at key
    exact key
  · obtain ⟨h1, h2, h3, h4, h5⟩ := hok d hd
    have hk : s.ck0 d < 1024 := ck0_lt (cc0_lt hready.col hready.ctx) (State.enabled_lt hd)
    obtain ⟨o', hl, e⟩ := hfresh.seizeDie (h := h) hs hk (hfields h f) (hhdr h f) ⟨h1, h2, h3, by rw [hhold]; exact h4, h5⟩
    exact ⟨o', hl, congrArg State.splices e⟩

end

/-- Settles O38. -/
theorem seizeRequests : Obligations.SeizeRequests :=
  ⟨seizeIssues (fun _ _ _ => rfl) (fun _ _ => rfl) (fun _ _ => rfl) fun _ _ => rfl,
    seizeIssues (fun _ _ _ => rfl) (fun _ _ => rfl) (fun _ _ => rfl) fun _ _ => rfl⟩

end Sys2Proof.Machine
end

section
/-! SUPPORT. Circuits that a context holds (R164, R309, R345). -/

set_option Elab.async false

namespace Sys2Proof.Machine

open Claims

section

variable {s o o' : State} {h : Hdr} {d : Nat}

/-! ### The engines of a die -/

/-- R154: dies share no engine. -/
theorem engKey_ne {d e c c' ch ch' : Nat} (hne : e ≠ d) (hd : d < 8) (he : e < 8) (hc : c < 32) (hc' : c' < 32) (hch : ch < 6) (hch' : ch' < 6) :
    engKey e c ch ≠ engKey d c' ch' := by
  unfold engKey qxKey dcKey
  split <;> split <;> omega

/-- The engines of a die are as before the attempt. -/
def EnginesKept (s : State) (d : Nat) (o : State) : Prop := ∀ c < 32, ∀ ch < 6, o.getEng (engKey d c ch) = s.getEng (engKey d c ch)

/-- A circuit of another die's engine changed. -/
theorem EnginesKept.updEng {e : Nat} (hk : EnginesKept s e o) (hne : e ≠ d) (hd : d < 8) (he : e < 8) {c ch : Nat} (hc : c < 32) (hch : ch < 6)
    (F : Eng → Eng) : EnginesKept s e (o.updEng (engKey d c ch) F) := by
  intro c' hc' ch' hch'
  rw [← hk c' hc' ch' hch']
  exact SMap.get_set_other _ _ _ _ _ (engKey_ne hne hd he hc' hc hch' hch)

theorem ckCol_lt (ck : Nat) : ckCol ck < 32 := Nat.mod_lt _ (by decide)

/-- R164: a handle names what it named before the attempt. -/
theorem EnginesKept.heldCirc (hk : EnginesKept s d o) (ck hd : Nat) : o.heldCirc d ck hd = s.heldCirc d ck hd := by
  unfold State.heldCirc
  by_cases hch : hd % 16 < 6
  · rw [hk _ (ckCol_lt ck) _ hch]
  · have hnone (t : State) : (match SMap.get none (t.getEng (engKey d (ckCol ck) (hd % 16))).circ (hd / 16) with
        | some c => if c.ck = ck && c.freeAt.isNone && hd % 16 < 6 then some c else none
        | none => none) = none := by
      split
      · rw [if_neg (by simp [hch])]
      · rfl
    exact (hnone o).trans (hnone s).symm

theorem heldCirc_lt {ck hd : Nat} {c : Circ} (h : s.heldCirc d ck hd = some c) : hd % 16 < 6 := by
  unfold State.heldCirc at h
  split at h
  · split at h
    next hc =>
      simp only [Bool.and_eq_true, decide_eq_true_eq] at hc
      exact hc.2
    next => cases h
  · cases h

/-! ### SXFER (R345) -/

/-- The handle of an operation, and the flag that SXFER leaves. -/
def handle (s : State) (d : Nat) (f : FEN) : Nat := sreg s d f.out / 2 ^ 8 % 2 ^ 8
def busyFlag (s : State) (h : Hdr) (f : FEN) (v : Nat) : Pend :=
  { resultOf s h false 2 .f f.fbusy.toNat (BitVec.ofNat 512 v) (BitVec.allOnes 512) 0 0 with sigSem := 0 }

/-- R79: a result that carries no signal. -/
theorem Looks.result_quiet {sl : SMap SlotDie} (hl : Looks o s d sl) {file : RFile} {n : Nat} (hw : Writable s d file n) (hh : Hdr) (lat : Nat) (v mask : Vec)
    (fl grp : Nat) : o.result d hh lat file n v mask fl grp false = Claims.leave s d [{ resultOf s hh false lat file n v mask fl grp with sigSem := 0 }] o := by
  rw [State.result, hl.writable hw, State.updD, hl.ck0, hl.cur, hl.clock]
  rfl

/-- What SXFER asks of a die. -/
structure SxferOk (s : State) (d : Nat) (f : FEN) : Prop where
  settled : Settled s d .s f.out.n
  busy : Writable s d .f f.fbusy.toNat
  dst : BaseOk s d f.dbase
  src : BaseOk s d f.sbase

/-- R345: SXFER of a handle that its context does not hold. -/
theorem Fresh.sxferDie_busy (hf : Fresh s o d) (hs : Seated s o) (hen : EnginesKept s d o) (hk : s.ck0 d < 1024) {op : Instr} {f : FEN} (hok : SxferOk s d f)
    (hh : handle s d f % 16 ≠ 7) (hnone : s.heldCirc d (s.ck0 d) (handle s d f) = none) :
    ∃ o', Latches s d o o' ∧ o.sxferDie op h f d = Claims.leave s d [busyFlag s h f 1] o' := by
  obtain ⟨o', hl, e⟩ := hf.enAddrs hs hk hok.dst hok.src
  refine ⟨o', hl, ?_⟩
  unfold State.sxferDie
  rw [hf.looks.rdS hok.settled]
  dsimp only
  rw [show bits (sreg s d f.out) 8 8 = handle s d f from rfl, hf.ck0, hen.heldCirc, hnone, e]
  dsimp only
  rw [if_pos (by simp [hh]), (hl.looks hf.looks).result_quiet hok.busy]
  rfl

/-- R164, R345: SXFER of a handle that names a circuit held, or the direct path, whose ends are in reach. -/
theorem Fresh.sxferDie_go (hf : Fresh s o d) (hs : Seated s o) (hen : EnginesKept s d o) (hk : s.ck0 d < 1024) {op : Instr} {f : FEN} (hfields : enFields op = f)
    (hhdr : enHdr op = h) (hok : SxferOk s d f) (hends : EndsOk s d f (handle s d f % 16))
    (hgo : (handle s d f % 16 = 7 ∧ (s.coreD d).direct.length < 16) ∨ ∃ c, s.heldCirc d (s.ck0 d) (handle s d f) = some c ∧ c.xs.length < 4) :
    ∃ o', Latches s d o o' ∧ o.sxferDie op h f d =
      let x := Claims.leave s d [busyFlag s h f 0] { o' with uid := o'.uid + 1 }
      if handle s d f % 16 = 7 then x.pushDirect (coreKey d s.cur.col) (xmitOf s h op f d o'.uid s.clock)
      else x.pushCirc (engKey d s.cur.col (handle s d f % 16)) (handle s d f / 16)
        (xmitOf s h op f d o'.uid (s.clock + if handle s d f % 16 < 2 then 2 else 6)) := by
  obtain ⟨o', hl, e⟩ := hf.enAddrs hs hk hok.dst hok.src
  refine ⟨o', hl, ?_⟩
  have hlooks : Looks { o' with uid := o'.uid + 1 } s d (o'.getCd (s.ck0 d)).ws.slots := ⟨(hl.looks hf.looks).cur, (hl.looks hf.looks).clock, (hl.looks hf.looks).cd⟩
  have hcore : State.coreD { o' with uid := o'.uid + 1 } d = s.coreD d := hl.coreD hf
  have hmk (st : Nat) : mkXmit o'.uid (s.ck0 d) op s.cur.bundle (BitVec.ofNat 64 (enDst s d f)) (BitVec.ofNat 64 (enSrc s d f)) st =
      xmitOf s h op f d o'.uid st := by
    rw [mkXmit, hfields, hhdr]
    rfl
  have hxcur : (Claims.leave s d [busyFlag s h f 0] { o' with uid := o'.uid + 1 }).cur = s.cur := (State.updCd_cur ..).trans hlooks.cur
  have hxclock : (Claims.leave s d [busyFlag s h f 0] { o' with uid := o'.uid + 1 }).clock = s.clock := (State.updCd_clock ..).trans hlooks.clock
  have hxcore : (Claims.leave s d [busyFlag s h f 0] { o' with uid := o'.uid + 1 }).coreD d = s.coreD d := by
    rw [State.coreD, hxcur, Claims.leave, State.getCore_updCd hk, ← hcore, State.coreD, hlooks.cur]
  have hbusy := hlooks.result_quiet hok.busy h 2 (BitVec.ofNat 512 0) (BitVec.allOnes 512) 0 0
  unfold State.sxferDie
  rw [hf.looks.rdS hok.settled]
  dsimp only
  rw [show bits (sreg s d f.out) 8 8 = handle s d f from rfl, hf.ck0, hen.heldCirc, e]
  dsimp only
  rw [enCheck_ok hends]
  dsimp only [State.fresh]
  rw [hbusy, ← busyFlag, hxcur, hxclock]
  rcases hgo with ⟨h7, hroom⟩ | ⟨c, hheld, hxs⟩
  · have hnone : s.heldCirc d (s.ck0 d) (handle s d f) = none := by
      cases hc : s.heldCirc d (s.ck0 d) (handle s d f) with
      | none => rfl
      | some c => exact absurd (heldCirc_lt hc) (by omega)
    rw [hnone, if_neg (by simp [h7]), if_neg (by decide), if_pos h7, if_pos h7, hmk]
    dsimp only
    rw [Fresh.directFull hxcore hroom]
  · have h7 : handle s d f % 16 ≠ 7 := by
      have := heldCirc_lt hheld
      omega
    rw [hheld, if_neg (by simp), if_neg (by decide), if_neg h7, if_neg h7, hmk]
    dsimp only
    rw [if_neg (by omega : ¬c.xs.length ≥ 4), hxcur]

/-- R164: what SXFER leaves on a die where it goes. -/
def sxferGoes (s : State) (h : Hdr) (f : FEN) (d : Nat) (x : State) : State :=
  let y := Claims.leave s d [busyFlag s h f 0] { x with uid := x.uid + 1 }
  if handle s d f % 16 = 7 then y.pushDirect (coreKey d s.cur.col) (xmitOf s h (.sxfer h f) f d x.uid s.clock)
  else y.pushCirc (engKey d s.cur.col (handle s d f % 16)) (handle s d f / 16)
    (xmitOf s h (.sxfer h f) f d x.uid (s.clock + if handle s d f % 16 < 2 then 2 else 6))

theorem sxferGoes_command (hready : Ready s h) (f : FEN) : Command s h (sxferGoes s h f) (sxferGoes s h f) := by
  have hk (d : Nat) (hd : d ∈ s.enabled h) : s.ck0 d < 1024 := ck0_lt (cc0_lt hready.col hready.ctx) (State.enabled_lt hd)
  unfold sxferGoes
  refine ⟨fun d hd t u hi => ?_, fun d o => ?_, fun d hd e hne o hf => ?_, fun d o hs => ?_, fun d u hq => ?_⟩ <;> dsimp only
  · rw [hi.uid]
    have h0 := hi.fresh
    rw [hi.uid] at h0
    split
    · exact (h0.leave (hk d hd) _).pushDirect _ _
    · exact (h0.leave (hk d hd) _).pushCirc _ _ _
  · split <;> exact leave_att _ _
  · have h0 := (hf.uid (o.uid + 1)).leave hne (hk d hd) [busyFlag s h f 0]
    split
    · exact h0.pushDirect hne _
    · unfold State.pushCirc State.updCirc
      exact h0.updEng _ _
  · have h0 : Seated s (Claims.leave s d [busyFlag s h f 0] { o with uid := o.uid + 1 }) := (hs.of_eq rfl rfl rfl rfl : Seated s { o with uid := o.uid + 1 }).leave d _
    split
    · exact h0.pushDirect _ _
    · exact h0.of_eq rfl rfl rfl rfl
  · have h0 := (hq.uid (u.uid + 1)).leave (s := s) d [busyFlag s h f 0]
    split
    · exact h0.pushDirect _ _
    · unfold State.pushCirc State.updCirc
      exact h0.updEng _ _

theorem State.eng_updCd (o : State) {k : Nat} (hk : k < 1024) (F : CtxDie → CtxDie) : (o.updCd k F).eng = o.eng := by
  rw [State.updCd, State.setCd, if_pos (.inl hk)]

theorem EnginesKept.of_eng (hk : EnginesKept s d o) (he : o'.eng = o.eng) : EnginesKept s d o' := fun c hc ch hch => by
  rw [State.getEng, he]
  exact hk c hc ch hch

/-- An operation whose command may change an engine of its own die. -/
theorem does_of_engine_command {i : Instr} {f g : Nat → State → State} (hready : Ready s h) (hexec : exec i s = s.attempt fun s => s.onDies h f)
    (hf : ∀ d ∈ s.enabled h, ∀ o, Fresh s o d → Seated s o → EnginesKept s d o → ∃ o', Latches s d o o' ∧ f d o = (g d o').splices)
    (hg : ∀ d ∈ s.enabled h, ∀ e ∈ s.enabled h, e ≠ d → ∀ o, EnginesKept s e o → EnginesKept s e (g d o)) (hc : Command s h g g) :
    Does i s h (forces s h) g :=
  does_of_command_with (EnginesKept s) hready hexec (fun _ _ _ _ _ => rfl) (fun _ _ _ _ hx => hx.of_eng rfl) hg hf hc

/-- What an operation does on the dies where it is enabled is all that counts. -/
theorem does_congr {i : Instr} {b : Bool} {eff eff' : Nat → State → State} (hd : Does i s h b eff) (he : ∀ d ∈ s.enabled h, ∀ x, eff d x = eff' d x) :
    Does i s h b eff' := by
  have e : (s.enabled h).foldl (fun x d => eff d x) s = (s.enabled h).foldl (fun x d => eff' d x) s :=
    List.foldl_ext _ _ _ fun x d hd => he d hd x
  unfold Does at hd ⊢
  rw [← e]
  exact hd

/-- R345: SXFER of handles that no context holds. -/
theorem sxfer_does_busy (hready : Ready s h) {f : FEN} (hok : ∀ d ∈ s.enabled h, SxferOk s d f)
    (hbusy : ∀ d ∈ s.enabled h, handle s d f % 16 ≠ 7 ∧ s.heldCirc d (s.ck0 d) (handle s d f) = none) :
    Does (.sxfer h f) s h (forces s h) fun d x => Claims.leave s d [busyFlag s h f 1] x := by
  have hk (d : Nat) (hd : d ∈ s.enabled h) : s.ck0 d < 1024 := ck0_lt (cc0_lt hready.col hready.ctx) (State.enabled_lt hd)
  refine does_of_engine_command hready rfl (fun d hd o hfresh hs hen => ?_) (fun d hd e _ hne o hen => hen.of_eng (State.eng_updCd _ (hk d hd) _))
    ⟨fun d hd t u hi => hi.leave (hk d hd) _, fun d o => leave_att _ _, fun d hd e hne o hf => hf.leave hne (hk d hd) _, fun d o hs => hs.leave d _,
      fun d u hq => hq.leave d _⟩
  obtain ⟨h7, hnone⟩ := hbusy d hd
  obtain ⟨o', hl, e⟩ := hfresh.sxferDie_busy (h := h) (op := .sxfer h f) hs hen (hk d hd) (hok d hd) h7 hnone
  exact ⟨o', hl, congrArg State.splices e⟩

/-- R164, R345: SXFER of handles that name circuits held, or the direct path. -/
theorem sxfer_does_go (hready : Ready s h) {f : FEN} (hok : ∀ d ∈ s.enabled h, SxferOk s d f) (hends : ∀ d ∈ s.enabled h, EndsOk s d f (handle s d f % 16))
    (hgo : ∀ d ∈ s.enabled h, (handle s d f % 16 = 7 ∧ (s.coreD d).direct.length < 16) ∨
      ∃ c, s.heldCirc d (s.ck0 d) (handle s d f) = some c ∧ c.xs.length < 4) :
    Does (.sxfer h f) s h (forces s h) (sxferGoes s h f) := by
  have hk (d : Nat) (hd : d ∈ s.enabled h) : s.ck0 d < 1024 := ck0_lt (cc0_lt hready.col hready.ctx) (State.enabled_lt hd)
  refine does_of_engine_command hready rfl (fun d hd o hfresh hs hen => ?_) (fun d hd e he hne o hen => ?_) (sxferGoes_command hready f)
  · obtain ⟨o', hl, e⟩ := hfresh.sxferDie_go (op := .sxfer h f) hs hen (hk d hd) rfl rfl (hok d hd) (hends d hd) (hgo d hd)
    exact ⟨o', hl, congrArg State.splices e⟩
  · have h0 : EnginesKept s e (Claims.leave s d [busyFlag s h f 0] { o with uid := o.uid + 1 }) :=
      (hen.of_eng rfl : EnginesKept s e { o with uid := o.uid + 1 }).of_eng (State.eng_updCd _ (hk d hd) _)
    unfold sxferGoes
    dsimp only
    rcases hgo d hd with ⟨h7, -⟩ | ⟨c, hheld, -⟩
    · rw [if_pos h7]
      exact h0.of_eng rfl
    · have hlt := heldCirc_lt hheld
      rw [if_neg (by omega)]
      exact h0.updEng hne (State.enabled_lt hd) (State.enabled_lt he) hready.col hlt _

/-! ### CLEAR (R309) -/

/-- R309: a circuit that its context holds is free from the next clock. -/
def clearsCirc (s : State) (f : FEN) (d : Nat) (x : State) : State :=
  if (s.heldCirc d (s.ck0 d) (handle s d f)).isNone then x
  else x.updCirc (engKey d s.cur.col (handle s d f % 16)) (handle s d f / 16) fun c => { c with freeAt := some (s.clock + 1) }

theorem given_updEng (d k : Nat) (F : Eng → Eng) : (given s h d o).updEng k F = given s h d (o.updEng k F) := by
  unfold Claims.given State.signal
  split <;> rfl

theorem Fresh.clearDie (hf : Fresh s o d) (hen : EnginesKept s d o) {f : FEN} (hset : Settled s d .s f.out.n) :
    o.clearDie h f d = Claims.given s h d (clearsCirc s f d o) := by
  obtain ⟨-, hcur, hclock⟩ := given_keeps (s := s) (h := h) (t := o) d
  have hck : (Claims.given s h d o).ck0 d = s.ck0 d := by rw [State.ck0, State.cc0, hcur, hf.cur, ← State.cc0, ← State.ck0]
  have hen' : EnginesKept s d (Claims.given s h d o) := hen.of_eng (by
    unfold Claims.given State.signal
    split <;> rfl)
  unfold State.clearDie clearsCirc
  rw [hf.looks.rdS hset]
  dsimp only
  rw [show bits (sreg s d f.out) 8 8 = handle s d f from rfl, State.signalNow_eq hf.cur, hck, hen'.heldCirc, hcur, hclock, hf.cur, hf.clock]
  cases s.heldCirc d (s.ck0 d) (handle s d f) with
  | none => rfl
  | some c => exact given_updEng d _ _

theorem clear_does (hready : Ready s h) {f : FEN} (hset : ∀ d ∈ s.enabled h, Settled s d .s f.out.n) :
    Does (.clear h f) s h (forces s h) fun d x => given s h d (clearsCirc s f d x) := by
  refine does_of_engine_command hready rfl (fun d hd o hfresh hs hen => ⟨o, Latches.refl s d o, congrArg State.splices (hfresh.clearDie hen (hset d hd))⟩)
    (fun d hd e he hne o hen => ?_) ⟨fun d hd t u hi => ?_, fun d o => ?_, fun d hd e hne o hf => ?_, fun d o hs => ?_, fun d u hq => ?_⟩ <;> unfold clearsCirc
  · refine EnginesKept.of_eng (o := clearsCirc s f d o) ?_ ?_
    · unfold clearsCirc
      cases hheld : s.heldCirc d (s.ck0 d) (handle s d f) with
      | none => exact hen
      | some c =>
        rw [if_neg (by simp)]
        exact hen.updEng hne (State.enabled_lt hd) (State.enabled_lt he) hready.col (heldCirc_lt hheld) _
    · unfold Claims.given State.signal clearsCirc
      split <;> rfl
  · refine Issued.given ?_ h d
    split
    · exact hi
    · exact hi.updEng _ _
  · rw [(given_keeps d).1]
    split <;> rfl
  · refine Fresh.given ?_ hne
    split
    · exact hf
    · exact hf.updEng _ _
  · refine Seated.given ?_
    split
    · exact hs
    · exact hs.of_eq rfl rfl rfl rfl
  · refine Quiet.given ?_ d
    split
    · exact hq
    · exact hq.updEng _ _

end

/-- Settles O39. -/
theorem heldCircuits : Obligations.HeldCircuits := by
  intro s h f hready hset hd flag
  refine ⟨fun hok => ?_, clear_does hready hset⟩
  have hok' (d : Nat) (hd : d ∈ s.enabled h) : SxferOk s d f := by
    obtain ⟨h1, h2, h3⟩ := hok d hd
    exact ⟨hset d hd, h1, h2, h3⟩
  refine ⟨sxfer_does_busy hready hok', fun hends => ⟨fun hheld => ?_, fun hdirect => ?_⟩⟩
  · refine does_congr (sxfer_does_go hready hok' hends fun d hd => .inr (hheld d hd)) fun d hd x => ?_
    obtain ⟨c, hc, -⟩ := hheld d hd
    have hlt : handle s d f % 16 < 6 := heldCirc_lt hc
    unfold sxferGoes
    exact if_neg (by omega)
  · refine does_congr (sxfer_does_go hready hok' hends fun d hd => .inl (hdirect d hd)) fun d hd x => ?_
    exact if_pos (hdirect d hd).1

end Sys2Proof.Machine
end

section
/-! SUPPORT. Vector loads and stores (R106, R150, R363 to R366). -/

set_option Elab.async false

namespace Sys2Proof.Machine

open Claims

/-! ### Rows and bank ports (R106) -/

theorem nodup_eraseDups {α : Type} [BEq α] [LawfulBEq α] (l : List α) : l.eraseDups.Nodup := by
  induction hn : l.length using Nat.strong_induction_on generalizing l with
  | _ n ih =>
    cases l with
    | nil => exact List.nodup_nil
    | cons a l =>
      rw [List.eraseDups_cons, List.nodup_cons]
      refine ⟨fun h => ?_, ih _ ?_ _ rfl⟩
      · rw [List.mem_eraseDups] at h
        simpa using (List.mem_filter.1 h).2
      · rw [← hn]
        exact Nat.lt_succ_of_le (List.length_filter_le _ _)

theorem eraseDups_of_nodup {α : Type} [BEq α] [LawfulBEq α] {l : List α} (h : l.Nodup) : l.eraseDups = l := by
  induction l with
  | nil => rfl
  | cons a l ih =>
    obtain ⟨ha, hl⟩ := List.nodup_cons.1 h
    have hf : (l.filter fun b => !b == a) = l := List.filter_eq_self.2 fun b hb => by
      have : b ≠ a := fun e => ha (e ▸ hb)
      simpa using this
    rw [List.eraseDups_cons, hf, ih hl]

/-- R106: rows of which no two differ in one bank need no clock for a port. -/
theorem portExtraDie_eq_zero {l : List (Nat × Nat × Bool)} {d : Nat} (h : ∀ x ∈ l, ∀ y ∈ l, x.1 = d → y.1 = d → x.2.1 / 128 = y.2.1 / 128 → x.2.2 = y.2.2 → x = y) :
    portExtraDie l d = 0 := by
  have hmem {x : Nat × Nat × Bool} (hx : x ∈ (l.filter fun x => x.1 == d).eraseDups) : x ∈ l ∧ x.1 = d := by
    rw [List.mem_eraseDups, List.mem_filter] at hx
    exact ⟨hx.1, by simpa using hx.2⟩
  have hmap : ((l.filter fun x => x.1 == d).eraseDups.map fun x => (x.2.1 / 128, x.2.2)).Nodup := by
    refine List.Nodup.map_on (fun x hx y hy e => ?_) (nodup_eraseDups _)
    obtain ⟨hx1, hx2⟩ := hmem hx
    obtain ⟨hy1, hy2⟩ := hmem hy
    obtain ⟨e1, e2⟩ := Prod.mk.inj e
    exact h x hx1 y hy1 hx2 hy2 e1 e2
  unfold portExtraDie
  dsimp only
  rw [eraseDups_of_nodup hmap, List.length_map, Nat.sub_self]

theorem portExtra_eq_zero {l : List (Nat × Nat × Bool)} (h : ∀ d, portExtraDie l d = 0) : portExtra l = 0 := by
  unfold portExtra
  rw [funext (fun m => funext fun d => show Nat.max m (portExtraDie l d) = m by rw [h]; exact Nat.max_zero m)]
  exact List.foldl_fixed _

section

variable {s o o' : State} {h : Hdr} {d : Nat} {sl : SMap SlotDie} {f : FMEM} {k : LaneForm}

/-- R106: the rows that the lanes of a die touch. -/
def laneRows (s : State) (f : FMEM) (k : LaneForm) (wr : Bool) (d : Nat) : List (Nat × Nat × Bool) := (laneEnds s d f k).map fun a => (d, a / 64, wr)

theorem laneRows_ports {wr : Bool} (hok : ∀ d ∈ s.enabled h, PortsOk s d f k) :
    portExtra ((s.enabled h).flatMap (laneRows s f k wr)) = 0 ∨ (s.getCc s.cc0).portDone = true := by
  by_cases hdone : (s.getCc s.cc0).portDone = true
  · exact .inr hdone
  refine .inl (portExtra_eq_zero fun d => portExtraDie_eq_zero fun x hx y hy hxd hyd hb hw => ?_)
  obtain ⟨e, he, hx⟩ := List.mem_flatMap.1 hx
  obtain ⟨e', -, hy⟩ := List.mem_flatMap.1 hy
  obtain ⟨a, ha, rfl⟩ := List.mem_map.1 hx
  obtain ⟨b, hb', rfl⟩ := List.mem_map.1 hy
  obtain rfl : e = e' := (hxd.trans hyd.symm :)
  have hdiv (n : Nat) : n / 64 / 128 = n / 2 ^ 13 := Nat.div_div_eq_div_mul n 64 128
  have hbank : a / 2 ^ 13 = b / 2 ^ 13 := by rw [← hdiv, ← hdiv]; exact hb
  rw [(hok e he).resolve_left hdone a ha b hb' hbank]

/-! ### The addresses of the lanes (R364) -/

/-- A result latch emptied. -/
def emptied (sl : SMap SlotDie) (slot pos : Nat) : SMap SlotDie := SMap.upd {} sl slot fun x => { x with hold := SMap.set none x.hold pos none }

theorem holds_emptied_other {slot pos pos' : Nat} (hne : pos' ≠ pos) : holds (emptied sl slot pos) slot pos' = holds sl slot pos' := by
  rw [holds, emptied, SMap.upd, SMap.get_set_same, SMap.get_set_other _ _ _ _ _ hne]
  rfl

theorem addrs_emptied {slot pos : Nat} : addrs (emptied sl slot pos) slot = addrs sl slot := by
  rw [addrs, emptied, SMap.upd, SMap.get_set_same]
  rfl

theorem holds_latchedAddr {slot pos pos' a : Nat} : holds (latchedAddr sl slot pos a) slot pos' = holds sl slot pos' := by
  rw [holds, latchedAddr, SMap.upd, SMap.get_set_same]
  rfl

theorem dieTerm_of (hcur : o.cur = s.cur) (hcc : o.getCc s.cc0 = s.getCc s.cc0) (hs : Seated s o) (stride : Int) (dts : Bool) :
    o.dieTerm d stride dts = dterm s d stride dts := by
  have hcc0 : o.cc0 = s.cc0 := by rw [State.cc0, State.cc0, hcur]
  simp only [State.dieTerm, dterm, State.rankOf, State.onDie, State.ctxLaunch, State.launch?, State.dieLive, State.getSocket, hcc0, hcur, hcc, hs.launches,
    hs.sockets]

theorem Latches.getCc (hl : Latches s d o o') (k : Nat) : o'.getCc k = o.getCc k := by
  rw [← hl.rest]
  rfl

/-- R364: the lanes' addresses, with the latches that forming them leaves. -/
theorem Looks.laneAddrs (hl : Looks o s d sl) (hk : s.ck0 d < 1024) (hcc : o.getCc s.cc0 = s.getCc s.cc0) (hs : Seated s o) (hops : LaneOps s d f k)
    (haddr : SMap.get 0#64 (addrs sl s.cur.slot) 91 = SMap.get 0#64 (s.slotD d).addr 91)
    (hhold : holds sl s.cur.slot 102 = SMap.get none (s.slotD d).hold 102) :
    ∃ o' sl' addr, o.laneAddrs d f k = (addr, o') ∧ (∀ n, addr n = laneAt s d f k n) ∧ Latches s d o o' ∧ Looks o' s d sl' ∧
      holds sl' s.cur.slot 80 = holds sl s.cur.slot 80 := by
  obtain ⟨-, hbase, hstride, hindex⟩ := hops
  have hmem : o.memAddr d f = (memAt s d f, o.setSlots (s.ck0 d) (latchedAddr sl s.cur.slot 91 (memAt s d f))) := by
    rw [State.memAddr, dieTerm_of hl.cur hcc hs]
    exact hl.address hbase haddr _ _
  have hl1 := hl.setSlots hk (latchedAddr sl s.cur.slot 91 (memAt s d f))
  have l1 : Latches s d o (o.setSlots (s.ck0 d) (latchedAddr sl s.cur.slot 91 (memAt s d f))) := Latches.of_setSlots hk _ _
  unfold State.laneAddrs
  rw [hmem]
  dsimp only
  cases k with
  | near => exact ⟨_, _, _, rfl, fun n => rfl, l1, hl1, holds_latchedAddr⟩
  | stride =>
    dsimp only
    rw [hl1.rdS (hstride rfl)]
    dsimp only
    rw [hl1.emptyHold]
    exact ⟨_, _, _, rfl, fun n => rfl, l1.trans (Latches.of_setSlots hk _ _), hl1.setSlots hk _, (holds_emptied_other (by decide)).trans holds_latchedAddr⟩
  | index =>
    dsimp only
    rw [hl1.rdSrc (hindex rfl) (holds_latchedAddr.trans hhold)]
    dsimp only
    by_cases hr : f.aux.isLatch
    · rw [if_pos hr]
      exact ⟨_, _, _, rfl, fun n => by rw [lane_eq_elem]; rfl, l1, hl1, holds_latchedAddr⟩
    · rw [if_neg hr]
      exact ⟨_, _, _, rfl, fun n => by rw [lane_eq_elem]; rfl, l1.trans (Latches.of_setSlots hk _ _), hl1.setSlots hk _,
        (holds_latched_other _ _ _ _ _ _ (by decide)).trans holds_latchedAddr⟩

/-! ### What a load and a store check (R104, R106, R150, R364) -/

theorem window_spad {va : Nat} (h1 : spadBase ≤ va) (h2 : va < spadBase + 2 ^ 21) : window va = .spad (va - spadBase) := by
  have h56 : va / 2 ^ 56 = 0 := Nat.div_eq_of_lt (by unfold spadBase at h2; omega)
  unfold window
  rw [h56, if_neg (by decide), if_pos (by rw [Bool.and_eq_true, decide_eq_true_eq, decide_eq_true_eq]; exact ⟨h1, h2⟩)]

theorem lanesFault_none {addr : Nat → Nat} (haddr : ∀ n, addr n = laneAt s d f k n) (hin : LanesIn s d f k) : lanesFault f k addr (lanesOn s d f.pr) = none := by
  have hlane (n : Nat) (hn : n ∈ lanesOn s d f.pr) : laneFault f k addr n = none := by
    obtain ⟨hlo, hhi, hother, hnear⟩ := hin n hn
    have hmis : laneMisaligned f k addr n = false := by
      unfold laneMisaligned
      cases k with
      | near =>
        have := hnear rfl
        rw [← haddr] at this
        simpa using this
      | stride => simpa [haddr] using hother (by decide)
      | index => simpa [haddr] using hother (by decide)
    have hspad (i : Nat) (hi : i < 4) : spadFault (addr n + i) = none := by
      rw [spadFault, haddr, window_spad (by omega) (by omega)]
    rw [laneFault, hmis, if_neg Bool.false_ne_true]
    simp only [firstSome, hspad 0 (by decide), hspad 1 (by decide), hspad 2 (by decide), hspad 3 (by decide)]
  unfold lanesFault
  generalize lanesOn s d f.pr = l at hlane
  induction l with
  | nil => rfl
  | cons n l ih =>
    rw [firstSome, hlane n (by simp)]
    exact ih fun m hm => hlane m (by simp [hm])

theorem ckCore_ck0 (hc : s.cur.col < 32) (hx : s.cur.ctx < 4) (hd : d < 8) : ckCore (s.ck0 d) = coreKey d s.cur.col := by
  have hcc : s.cc0 = s.cur.col * 4 + s.cur.ctx := by rw [State.cc0, ccKey, if_pos hx]
  have hlt : s.cc0 < 128 := cc0_lt hc hx
  have hk : s.ck0 d = (d * 32 + s.cur.col) * 4 + s.cur.ctx := by
    rw [State.ck0, ccCk, if_pos hlt, hcc, ctxKey, coreKey]
    omega
  rw [ckCore, if_pos (by omega), hk, coreKey]
  omega

/-- The bytes at which the lanes begin and end, as a check meets them. -/
theorem mem_ends {addr : Nat → Nat} (haddr : ∀ n, addr n = laneAt s d f k n) (hin : LanesIn s d f k) {a : Nat}
    (ha : a ∈ ((lanesOn s d f.pr).map addr).flatMap fun a => [a, a + 4 - 1]) : a - spadBase ∈ laneEnds s d f k ∧ (a - spadBase) % 2 ^ 21 = a - spadBase := by
  simp only [List.mem_flatMap, List.mem_map, List.mem_cons, List.not_mem_nil, or_false] at ha
  obtain ⟨b, ⟨n, hn, rfl⟩, ha⟩ := ha
  obtain ⟨hlo, hhi, -, -⟩ := hin n hn
  rw [haddr] at ha
  refine ⟨List.mem_flatMap.2 ⟨n, hn, ?_⟩, Nat.mod_eq_of_lt (by omega)⟩
  rcases ha with rfl | rfl
  · simp
  · simp

/-- R150, R106, R169: banks that are free stall nothing. -/
theorem Looks.lockStall (hl : Looks o s d sl) (hcore : o.getCore (coreKey d s.cur.col) = s.getCore (coreKey d s.cur.col)) (huid : o.att.uid0 = none)
    (hready : Ready s h) (hd : d < 8) {wr : Bool} {addr : Nat → Nat} (haddr : ∀ n, addr n = laneAt s d f k n) (hin : LanesIn s d f k) (hfree : BanksFree s d f k wr) :
    o.lockStall d ((lanesOn s d f.pr).map addr) 4 wr = o := by
  obtain ⟨hbank, hblat⟩ := hfree
  have hcoreD : o.coreD d = s.coreD d := by rw [State.coreD, hl.cur, hcore, State.coreD]
  have hplace (a : Nat) : o.spadAt d a = spadLoc d s.cur.col ((a - spadBase) % 2 ^ 21) := by rw [State.spadAt, hl.cur]
  have hheld : o.banksHeld d (((lanesOn s d f.pr).map addr).flatMap fun a => [a, a + 4 - 1]) wr = false := by
    unfold State.banksHeld
    dsimp only
    rw [List.any_eq_false, huid, hcoreD]
    intro a ha
    obtain ⟨hmem, -⟩ := mem_ends haddr hin ha
    have hnot := (hbank _ hmem).1
    have hlocks : ((s.coreD d).locks.filter fun r => (none : Option Nat).all fun u => decide (r.uid < u)) = (s.coreD d).locks :=
      List.filter_eq_self.2 fun _ _ => rfl
    rw [hlocks]
    cases wr with
    | false => simpa using hnot
    | true => simpa using hnot
  have hdue : ((((lanesOn s d f.pr).map addr).flatMap fun a => [a, a + 4 - 1]).any fun a => (o.coreD d).portDue o.clock (portOf (o.spadAt d a) wr)) = false := by
    rw [List.any_eq_false, hcoreD, hl.clock]
    intro a ha
    obtain ⟨hmem, hmod⟩ := mem_ends haddr hin ha
    rw [hplace, hmod, (hbank _ hmem).2]
    decide
  have hlate : (((lanesOn s d f.pr).map addr).any fun a => o.blatHeld (o.ck0 d) (o.spadAt d a) 4) = false := by
    rw [List.any_eq_false]
    intro a ha
    obtain ⟨n, hn, rfl⟩ := List.mem_map.1 ha
    obtain ⟨hlo, hhi, -, -⟩ := hin n hn
    have hb := hblat n hn
    rw [State.blatHeld, ckCore_ck0 hready.col hready.ctx hd] at hb
    rw [hplace, haddr, Nat.mod_eq_of_lt (by omega), hl.ck0, State.blatHeld, ckCore_ck0 hready.col hready.ctx hd, hcore, hb]
    decide
  unfold State.lockStall
  dsimp only
  rw [hheld, hdue, hlate, if_neg (by decide)]

/-- An attempt with the rows of a die added to those that it touches. -/
def touching (s : State) (f : FMEM) (k : LaneForm) (wr : Bool) (d : Nat) (x : State) : State :=
  { x with att := { x.att with vm := x.att.vm ++ laneRows s f k wr d } }

theorem portRows_eq {wr : Bool} {addr : Nat → Nat} (haddr : ∀ n, addr n = laneAt s d f k n) (x : State) :
    x.portRows d addr (lanesOn s d f.pr) wr = touching s f k wr d x := by
  unfold State.portRows touching laneRows laneEnds
  dsimp only
  rw [List.map_flatMap]
  simp only [haddr, List.map_cons, List.map_nil]

/-- R364: lanes that are aligned, in the scratchpad and free go on. -/
theorem Looks.vecCheck (hl : Looks o s d sl) (hcore : o.getCore (coreKey d s.cur.col) = s.getCore (coreKey d s.cur.col)) (huid : o.att.uid0 = none)
    (hready : Ready s h) (hd : d < 8) {wr : Bool} {addr : Nat → Nat} (haddr : ∀ n, addr n = laneAt s d f k n) (hin : LanesIn s d f k) (hfree : BanksFree s d f k wr) :
    o.vecCheck d f k addr (lanesOn s d f.pr) wr = (true, touching s f k wr d o) := by
  rw [State.vecCheck, lanesFault_none haddr hin, hl.lockStall hcore huid hready hd haddr hin hfree, portRows_eq haddr]

theorem Looks.touching (hl : Looks o s d sl) (wr : Bool) : Looks (touching s f k wr d o) s d sl := ⟨hl.cur, hl.clock, hl.cd⟩

/-! ### Loads (R364, R366) -/

/-- An attempt that has changed nothing but contexts. -/
def OnlyCd (s o : State) : Prop := o = s.wear o.cd s.cc o.att

theorem OnlyCd.seated (ho : OnlyCd s o) : Seated s o := by
  rw [ho]
  exact ⟨rfl, rfl, rfl, rfl⟩

theorem OnlyCd.latches (ho : OnlyCd s o) (hl : Latches s d o o') : OnlyCd s o' := by
  have e := hl.rest
  rw [ho] at e
  unfold OnlyCd
  rw [← e]
  rfl

theorem State.readCtx_wear (s : State) (c : SMap CtxDie) (x : SMap ColCtx) (a : Att) (bl : List Blot) (n : Nat) : ∀ loc,
    (s.wear c x a).readCtx bl loc n = s.readCtx bl loc n := by
  induction n with
  | zero => exact fun _ => rfl
  | succ n ih => exact fun loc => congrArg (_ :: ·) (ih (loc + 1))

theorem OnlyCd.readCtx (ho : OnlyCd s o) (bl : List Blot) (loc n : Nat) : o.readCtx bl loc n = s.readCtx bl loc n := by
  rw [ho]
  exact State.readCtx_wear ..

theorem OnlyCd.readPoisoned (ho : OnlyCd s o) (bl : List Blot) (loc n : Nat) : o.readPoisoned bl loc n = s.readPoisoned bl loc n := by
  rw [ho]
  rfl

theorem OnlyCd.updCd (ho : OnlyCd s o) {j : Nat} (hj : j < 1024) (F : CtxDie → CtxDie) : OnlyCd s (o.updCd j F) := by
  have e : o.updCd j F = { o with cd := (o.updCd j F).cd } := by
    simp only [State.updCd, State.setCd, if_pos (Or.inl hj : j < 1024 ∨ 2048 ≤ j)]
  have hatt : (o.updCd j F).att = o.att := State.updCd_att o j F
  unfold OnlyCd at *
  rw [hatt, e]
  exact congrArg (fun x : State => { x with cd := (o.updCd j F).cd }) ho

/-- R364: what a load leaves for the lanes of a die. -/
def loaded (s : State) (f : FMEM) (k : LaneForm) (d : Nat) : Vec :=
  vecOfLanes fun n => if acts s d f.pr n then leNat (s.readCtx (s.ctxD d).blot (spadPlace s d (laneAt s d f k n)) 4) else 0

def loads (s : State) (h : Hdr) (f : FMEM) (k : LaneForm) (d : Nat) (x : State) : State :=
  Claims.leave s d [resultOf s h false 6 .v f.data.n (loaded s f k d) (laneMask (acts s d f.pr)) 0 0] x

theorem OnlyCd.loads (ho : OnlyCd s o) (hk : s.ck0 d < 1024) : OnlyCd s (loads s h f k d o) := by
  unfold Machine.loads Claims.leave
  exact ho.updCd hk _

theorem vecOfLanes_congr {g g' : Nat → Nat} (h : ∀ n < 16, g n = g' n) : vecOfLanes g = vecOfLanes g' := by
  rw [vecOfLanes, vecOfLanes, List.map_congr_left fun n hn => h n (List.mem_range.1 hn)]

theorem spadAt_lane (hcur : o.cur = s.cur) (hin : LanesIn s d f k) {n : Nat} (hn : n ∈ lanesOn s d f.pr) :
    o.spadAt d (laneAt s d f k n) = spadPlace s d (laneAt s d f k n) := by
  obtain ⟨hlo, hhi, -, -⟩ := hin n hn
  rw [State.spadAt, hcur, Nat.mod_eq_of_lt (by omega), spadPlace]

theorem mem_lanesOn {pr : Pr} {n : Nat} : n ∈ lanesOn s d pr ↔ n < 16 ∧ acts s d pr n = true := by
  rw [lanesOn, List.mem_filter, List.mem_range]

/-- R364: a load on a die comes to its result, with the ports of its rows. -/
theorem Fresh.vldDie (hf : Fresh s o d) (ho : OnlyCd s o) (huid : o.att.uid0 = none) (hready : Ready s h) (hd : d ∈ s.enabled h) (hok : LanesOk s d f k false)
    (hw : Writable s d .v f.data.n) (hpois : ∀ n ∈ lanesOn s d f.pr, s.readPoisoned (s.ctxD d).blot (spadPlace s d (laneAt s d f k n)) 4 = false) :
    ∃ o', Latches s d o o' ∧ o.vldDie h f k d = loads s h f k d (touching s f k false d o') := by
  obtain ⟨hops, hin, -, hfree⟩ := hok
  have hk : s.ck0 d < 1024 := ck0_lt (cc0_lt hready.col hready.ctx) (State.enabled_lt hd)
  have hl1 := hf.looks.setSlots hk (emptied (s.ctxD d).ws.slots s.cur.slot 80)
  have l1 : Latches s d o (o.setSlots (s.ck0 d) (emptied (s.ctxD d).ws.slots s.cur.slot 80)) := Latches.of_setSlots hk _ _
  obtain ⟨o2, sl2, addr, e2, haddr, l2, hl2, -⟩ := hl1.laneAddrs (f := f) (k := k) hk ((l1.getCc _).trans hf.cc) (l1.seated ho.seated) hops
    (by rw [addrs_emptied]; rfl) ((holds_emptied_other (by decide)).trans rfl)
  have hl := l1.trans l2
  refine ⟨o2, hl, ?_⟩
  have hcore : o2.getCore (coreKey d s.cur.col) = s.getCore (coreKey d s.cur.col) := by rw [hl.getCore, hf.core]
  have hbl : (State.ctxD (touching s f k false d o2) d).blot = (s.ctxD d).blot := by rw [(hl2.touching false).ctxD]
  have hread (bl : List Blot) (loc n : Nat) : (touching s f k false d o2).readPoisoned bl loc n = s.readPoisoned bl loc n := (ho.latches hl).readPoisoned bl loc n
  have hval : vecOfLanes (fun n => if acts s d f.pr n then
      leNat ((touching s f k false d o2).readCtx (s.ctxD d).blot ((touching s f k false d o2).spadAt d (addr n)) 4) else 0) = loaded s f k d := by
    refine vecOfLanes_congr fun n hn => ?_
    by_cases ha : acts s d f.pr n = true
    · have hctx : (touching s f k false d o2).readCtx (s.ctxD d).blot (spadPlace s d (laneAt s d f k n)) 4 =
          s.readCtx (s.ctxD d).blot (spadPlace s d (laneAt s d f k n)) 4 :=
        (show (touching s f k false d o2).readCtx _ _ 4 = o2.readCtx _ _ 4 from (State.readCtx_wear o2 o2.cd o2.cc _ _ 4 _)).trans ((ho.latches hl).readCtx ..)
      rw [if_pos ha, if_pos ha, haddr, spadAt_lane (hl2.touching false).cur hin (mem_lanesOn.2 ⟨hn, ha⟩), hctx]
    · rw [if_neg ha, if_neg ha]
  have hnone : (lanesOn s d f.pr).find? (fun n => (touching s f k false d o2).readPoisoned (s.ctxD d).blot ((touching s f k false d o2).spadAt d (addr n)) 4) =
      none := by
    rw [List.find?_eq_none]
    intro n hn
    rw [haddr, spadAt_lane (hl2.touching false).cur hin hn, hread, hpois n hn]
    decide
  unfold State.vldDie
  rw [hf.looks.lanes hops.1]
  dsimp only
  rw [hf.looks.emptyHold, ← emptied, e2]
  dsimp only
  rw [← lanesOn, hl2.vecCheck hcore (by rw [hl.att, huid]) hready (State.enabled_lt hd) haddr hin hfree]
  dsimp only
  rw [if_neg (by decide), hbl, hnone]
  dsimp only
  rw [hval, (hl2.touching false).result hw]
  rfl

/-! ### How such an operation issues (R53, R106) -/

/-- What a vector memory operation asks for after some dies: the rows that it touches. -/
def lanesAsk (s : State) (f : FMEM) (k : LaneForm) (wr : Bool) (done : List Nat) : Att := { vm := done.flatMap (laneRows s f k wr) }

theorem touching_att {wr : Bool} {done : List Nat} (ho : o.att = lanesAsk s f k wr done) : (touching s f k wr d o).att = lanesAsk s f k wr (done ++ [d]) := by
  rw [touching, ho, lanesAsk, lanesAsk, List.flatMap_append, List.flatMap_singleton]

theorem does_of_lanes {i : Instr} {body eff : Nat → State → State} (X : Nat → State → Prop) {wr : Bool} (hready : Ready s h)
    (hexec : exec i s = s.attempt fun s => s.onDies h body) (hacts : Acts s h body eff (lanesAsk s f k wr) X) (hX : ∀ d ∈ s.enabled h, X d s.noAtt)
    (hports : ∀ d ∈ s.enabled h, PortsOk s d f k) (hseat : SameSeat (effects eff (s.enabled h) s) s) (hblot : (effects eff (s.enabled h) s).blotCount s.cc0 ≤ 128) :
    Does i s h (signals s h) eff (takesPorts s h f k wr) := by
  obtain ⟨o, ho, hissued, hatt⟩ := onDies_issued hready hacts hX
  have hop : State.onDies s.noAtt h body = if signals s h then o.splices else o := ho
  have hatt' : (State.onDies s.noAtt h body).att =
      if signals s h then { lanesAsk s f k wr (s.enabled h) with splice := true } else lanesAsk s f k wr (s.enabled h) := by
    rw [hop, ← hatt]
    split <;> rfl
  have hvm : (State.onDies s.noAtt h body).att.vm = (s.enabled h).flatMap (laneRows s f k wr) := by rw [hatt']; split <;> rfl
  have hxfer : (State.onDies s.noAtt h body).att.xfer = none := by rw [hatt']; split <;> rfl
  refine does_of_issued (u := effects eff (s.enabled h) s) (tr := []) hready hexec ?_ ?_ hseat hblot ?_ ?_
  · rw [hatt']
    cases signals s h <;> exact ⟨rfl, rfl, rfl, rfl, rfl, rfl, rfl, rfl, rfl, rfl⟩
  · rw [hop]
    split
    · exact hissued
    · exact hissued
  · rw [hvm]
    exact laneRows_ports hports
  · rw [hvm, hxfer]
    rfl

/-! ### What updates of one context on each die come to -/

theorem getCd_effects {eff : Nat → State → State} {F : Nat → CtxDie → CtxDie}
    (heff : ∀ d x k, (eff d x).getCd k = if k = s.ck0 d then F d (x.getCd k) else x.getCd k) (ds : List Nat) (e : Nat) : ∀ x : State, ds.Nodup →
    (effects eff ds x).getCd (s.ck0 e) = if e ∈ ds then F e (x.getCd (s.ck0 e)) else x.getCd (s.ck0 e) := by
  induction ds with
  | nil => exact fun x _ => by rw [if_neg List.not_mem_nil]; rfl
  | cons d ds ih =>
    intro x hn
    obtain ⟨hd, hn⟩ := List.nodup_cons.1 hn
    change (effects eff ds (eff d x)).getCd (s.ck0 e) = _
    rw [ih _ hn, heff]
    by_cases hde : e = d
    · rw [if_neg (hde ▸ hd), if_pos (by rw [hde]), if_pos (by rw [hde]; exact List.mem_cons_self), hde]
    · rw [if_neg (ck0_ne hde s)]
      by_cases hmem : e ∈ ds
      · rw [if_pos hmem, if_pos (List.mem_cons_of_mem _ hmem)]
      · rw [if_neg hmem, if_neg (by simp [hde, hmem])]

theorem getCd_effects_other {eff : Nat → State → State} {F : Nat → CtxDie → CtxDie}
    (heff : ∀ d x k, (eff d x).getCd k = if k = s.ck0 d then F d (x.getCd k) else x.getCd k) {ds : List Nat} {k : Nat} (hk : ∀ d ∈ ds, k ≠ s.ck0 d) :
    ∀ x : State, (effects eff ds x).getCd k = x.getCd k := by
  induction ds with
  | nil => exact fun _ => rfl
  | cons d ds ih =>
    intro x
    change (effects eff ds (eff d x)).getCd k = _
    rw [ih (fun e he => hk e (List.mem_cons_of_mem _ he)), heff, if_neg (hk d List.mem_cons_self)]

/-! ### The loads (R363, R366) -/

theorem load_acts (hready : Ready s h) (hok : ∀ d ∈ s.enabled h, LanesOk s d f k false ∧ Writable s d .v f.data.n ∧
      ∀ n ∈ lanesOn s d f.pr, s.readPoisoned (s.ctxD d).blot (spadPlace s d (laneAt s d f k n)) 4 = false) :
    Acts s h (fun d o => o.vldDie h f k d) (loads s h f k) (lanesAsk s f k false) fun _ o => OnlyCd s o := by
  intro done d o hd hissued hatt hfresh ho
  have hk : s.ck0 d < 1024 := ck0_lt (cc0_lt hready.col hready.ctx) (State.enabled_lt hd)
  obtain ⟨hlanes, hw, hpois⟩ := hok d hd
  obtain ⟨o', hl, e⟩ := hfresh.vldDie ho (by rw [hatt]; rfl) hready hd hlanes hw hpois
  dsimp only
  rw [e]
  have honly : OnlyCd s (touching s f k false d o') := by
    have := ho.latches hl
    unfold OnlyCd at *
    rw [this]
    rfl
  exact ⟨((hissued.latches hd hl).att_left _).leave hk _, (leave_att d _).trans (touching_att (hl.att.trans hatt)),
    fun e _ hne he _ => ⟨((hl.fresh hne he).att _).leave hne hk _, honly.loads hk⟩⟩

/-- What a load leaves of its context. -/
def loadedIn (s : State) (h : Hdr) (f : FMEM) (k : LaneForm) (d : Nat) (c : CtxDie) : CtxDie :=
  { c with pend := c.pend ++ [resultOf s h false 6 .v f.data.n (loaded s f k d) (laneMask (acts s d f.pr)) 0 0] }

theorem loads_getCd (d : Nat) (x : State) (j : Nat) : (loads s h f k d x).getCd j = if j = s.ck0 d then loadedIn s h f k d (x.getCd j) else x.getCd j := by
  unfold loads Claims.leave
  by_cases hj : j = s.ck0 d
  · rw [if_pos hj, hj, State.getCd_updCd_same]
    rfl
  · rw [if_neg hj, State.getCd_updCd_other _ _ _ _ hj]

theorem loads_quiet (ds : List Nat) : Quiet (effects (loads s h f k) ds s) s := effects_quiet (fun d _ hx => hx.leave d _) ds

theorem loads_rel (hready : Ready s h) : Rel (effects (loads s h f k) (s.enabled h) s) s s.ck0 s.cc0 (s.enabled h) := by
  have hrest : ∀ ds : List Nat, (∀ d ∈ ds, d < 8) → ∀ x, OnlyCd s x → OnlyCd s (effects (loads s h f k) ds x) := by
    intro ds
    induction ds with
    | nil => exact fun _ x hx => hx
    | cons d ds ih =>
      exact fun hds x hx => ih (fun e he => hds e (List.mem_cons_of_mem _ he)) _
        (hx.loads (ck0_lt (cc0_lt hready.col hready.ctx) (hds d List.mem_cons_self)))
  have honly := hrest (s.enabled h) (fun d hd => State.enabled_lt hd) s rfl
  have hcc := (loads_quiet (s := s) (h := h) (f := f) (k := k) (s.enabled h)).cc
  refine ⟨?_, fun k' hk' => getCd_effects_other (F := loadedIn s h f k) loads_getCd hk' s, fun d hd => ?_, fun _ _ => by rw [State.getCc, hcc]; rfl, by rw [State.getCc, hcc]; rfl⟩
  · rw [honly]
    rfl
  · rw [getCd_effects (F := loadedIn s h f k) loads_getCd _ d s (s.enabled_nodup h), if_pos hd]
    rfl

/-- R106: ports of both states taken. -/
theorem Rel.usePorts {t u : State} {ck : Nat → Nat} {cc : Nat} {ds : List Nat} (hr : Rel t u ck cc ds) (l : List (Nat × Nat × Bool)) :
    Rel (t.usePorts l) (u.usePorts l) ck cc ds := by
  have hcur : t.cur = u.cur := (congrArg State.cur hr.rest :)
  have hclock : t.clock = u.clock := (congrArg State.clock hr.rest :)
  unfold State.usePorts
  split
  · exact hr
  · generalize allDies = dies
    induction dies generalizing t u with
    | nil => exact hr
    | cons d dies ih =>
      rw [List.foldl_cons, List.foldl_cons]
      dsimp only
      split
      · exact ih hr hcur hclock
      · unfold State.updCoreD
        rw [hcur, hclock]
        refine ih (hr.updCore _ _ fun _ => ?_) hcur hclock
        rfl

theorem getCd_usePorts (x : State) (l : List (Nat × Nat × Bool)) (j : Nat) : (x.usePorts l).getCd j = x.getCd j := by
  unfold State.usePorts
  split
  · rfl
  · refine foldl_keeps (fun y : State => y.getCd j) _ (fun y d => ?_) _ x
    dsimp only
    split
    · rfl
    · exact State.getCd_updCore _ _ _ _ fun _ => rfl

theorem getCc_usePorts (x : State) (l : List (Nat × Nat × Bool)) (j : Nat) : (x.usePorts l).getCc j = x.getCc j := by
  have hcc : (x.usePorts l).cc = x.cc := (congrArg State.cc (x.usePorts_coreless l) :)
  rw [State.getCc, hcc]
  rfl

/-- R219: the mark of a splice on a result of its own iteration. -/
theorem markPre_resultOf (s : State) (h : Hdr) (lat : Nat) (file : RFile) (n : Nat) (v mask : Vec) (fl grp : Nat) (l : List Pend) :
    markPre (s.getCc s.cc0).inh (l ++ [resultOf s h false lat file n v mask fl grp]) =
      markPre (s.getCc s.cc0).inh l ++ [resultOf s h true lat file n v mask fl grp] := by
  unfold markPre resultOf
  cases (s.getCc s.cc0).inh with
  | true => rfl
  | false => exact List.map_append

theorem takesPorts_liveOf (wr : Bool) (x : State) (c : Nat) : (takesPorts s h f k wr x).liveOf c = x.liveOf c := by
  have e := x.usePorts_coreless ((s.enabled h).flatMap (laneRows s f k wr))
  have h1 : (takesPorts s h f k wr x).launches = x.launches := (congrArg State.launches e :)
  have h2 : (takesPorts s h f k wr x).sockets = x.sockets := (congrArg State.sockets e :)
  have h3 : (takesPorts s h f k wr x).cc = x.cc := (congrArg State.cc e :)
  simp only [State.liveOf, State.ctxLaunch, State.launch?, State.dieLive, State.getSocket, State.getCc, h1, h2, h3]

theorem takesPorts_cc0 (wr : Bool) (x : State) : (takesPorts s h f k wr x).cc0 = x.cc0 := by
  have e : (takesPorts s h f k wr x).cur = x.cur := (congrArg State.cur (x.usePorts_coreless _) :)
  rw [State.cc0, e, ← State.cc0]

theorem takesPorts_getCc (wr : Bool) (x : State) (c : Nat) : (takesPorts s h f k wr x).getCc c = x.getCc c := getCc_usePorts x _ c

theorem takesPorts_getCd (wr : Bool) (x : State) (c : Nat) : (takesPorts s h f k wr x).getCd c = x.getCd c := getCd_usePorts x _ c

/-- R364, R366: what a load that issues leaves in flight on a die. -/
theorem load_pend {t : State} (hready : Ready s h) (hissued : Issued s t (spliced (takesPorts s h f k false (effects (loads s h f k) (s.enabled h) s)) (signals s h)) (s.enabled h))
    (hd : d ∈ s.enabled h) : (t.getCd (s.ck0 d)).pend = ((spliced s (signals s h)).getCd (s.ck0 d)).pend ++
      [resultOf s h (signals s h) 6 .v f.data.n (loaded s f k d) (laneMask (acts s d f.pr)) 0 0] := by
  have hown : ((takesPorts s h f k false (effects (loads s h f k) (s.enabled h) s)).getCd (s.ck0 d)).pend =
      (s.getCd (s.ck0 d)).pend ++ [resultOf s h false 6 .v f.data.n (loaded s f k d) (laneMask (acts s d f.pr)) 0 0] := by
    rw [takesPorts_getCd, getCd_effects (F := loadedIn s h f k) loads_getCd _ d s (s.enabled_nodup h), if_pos hd]
    rfl
  have hq := (loads_quiet (s := s) (h := h) (f := f) (k := k) (s.enabled h))
  have hmem : d ∈ s.liveOf s.cc0 := State.enabled_live hready.ctx hd
  rw [hissued.pendAt]
  cases signals s h with
  | false => exact hown
  | true =>
    have hcc : (effects (loads s h f k) (s.enabled h) s).getCc s.cc0 = s.getCc s.cc0 := by rw [State.getCc, hq.cc]; rfl
    unfold spliced
    rw [if_pos rfl, if_pos rfl, takesPorts_cc0, hq.sameSeat.cc0, State.ck0, State.pend_splice _ _ _ (by rw [takesPorts_liveOf, hq.sameSeat.liveOf]; exact hmem),
      State.pend_splice _ _ _ hmem]
    rw [State.ck0] at hown
    rw [hown, takesPorts_getCc, hcc, markPre_resultOf]

/-- R213: what a load that issues leaves of everything else. -/
theorem load_frame {t : State} (hready : Ready s h) (hissued : Issued s t (spliced (takesPorts s h f k false (effects (loads s h f k) (s.enabled h) s)) (signals s h)) (s.enabled h)) :
    FrameFrom s (spliced (takesPorts s h f k false s) (signals s h)) t (s.enabled h) := by
  have hports : Rel (takesPorts s h f k false (effects (loads s h f k) (s.enabled h) s)) (takesPorts s h f k false s) s.ck0 s.cc0 (s.enabled h) :=
    (loads_rel hready).usePorts _
  have hspliced : Rel (spliced (takesPorts s h f k false (effects (loads s h f k) (s.enabled h) s)) (signals s h)) (spliced (takesPorts s h f k false s) (signals s h))
      s.ck0 s.cc0 (s.enabled h) := by
    cases signals s h with
    | false => exact hports
    | true =>
      have hcc : (takesPorts s h f k false (effects (loads s h f k) (s.enabled h) s)).cc0 = s.cc0 := by
        rw [takesPorts_cc0, (loads_quiet (s.enabled h)).sameSeat.cc0]
      unfold spliced
      rw [if_pos rfl, if_pos rfl, hcc, takesPorts_cc0]
      exact hports.splice (cc0_lt hready.col hready.ctx)
  obtain ⟨hrest, hother, hkept, hotherCc, hkeptCc⟩ := hissued.rel.trans hspliced
  exact ⟨hrest, hother, hkept, hotherCc, hkeptCc⟩

theorem load_does {i : Instr} (hready : Ready s h) (hexec : exec i s = s.attempt fun s => s.onDies h fun d s => s.vldDie h f k d)
    (hok : ∀ d ∈ s.enabled h, LanesOk s d f k false ∧ Writable s d .v f.data.n ∧
      ∀ n ∈ lanesOn s d f.pr, s.readPoisoned (s.ctxD d).blot (spadPlace s d (laneAt s d f k n)) 4 = false) :
    ∃ t, exec i s = .next t ∧ Issued s t (spliced (takesPorts s h f k false (effects (loads s h f k) (s.enabled h) s)) (signals s h)) (s.enabled h) := by
  have hq := loads_quiet (s := s) (h := h) (f := f) (k := k) (s.enabled h)
  have hports (d : Nat) (hd : d ∈ s.enabled h) : PortsOk s d f k := by
    obtain ⟨⟨-, -, hports, -⟩, -⟩ := hok d hd
    exact hports
  exact does_of_lanes (fun _ o => OnlyCd s o) hready hexec (load_acts hready hok) (fun _ _ => rfl) hports hq.sameSeat (hq.blotCount ▸ hready.blot)

theorem vectorLoads {mk : Hdr → FMEM → Instr} {k : LaneForm} (hexec : ∀ h f s, exec (mk h f) s = s.attempt fun s => s.onDies h fun d s => s.vldDie h f k d) :
    VectorLoads mk k := by
  intro s h f hready hok
  obtain ⟨t, ht, hissued⟩ := load_does hready (hexec h f s) hok
  refine ⟨loaded s f k, fun d => laneMask (acts s d f.pr), t, ht, load_frame hready hissued, fun d hd => load_pend hready hissued hd,
    fun d hd => ⟨fun j hj => getLsbD_laneMask _ hj, fun n hn => ?_⟩⟩
  obtain ⟨h16, ha⟩ := mem_lanesOn.1 hn
  rw [loaded, elem_vecOfLanes _ h16, if_pos ha]

/-! ### The stores (R364, R365) -/

/-- R364, R365: the blotter of a die with its enabled lanes withheld, in ascending order. -/
def withheldLanes (s : State) (f : FMEM) (k : LaneForm) (d : Nat) : List Blot :=
  (lanesOn s d f.pr).foldl (fun bl n => withholdAll bl (laneAt s d f k n) (spadPlace s d (laneAt s d f k n))
    (leBytes 4 (elem 32 (src s d 80 .v f.data) n).toNat)) (s.ctxD d).blot

def stores (s : State) (h : Hdr) (f : FMEM) (k : LaneForm) (d : Nat) (x : State) : State :=
  given s h d (x.updCd (s.ck0 d) fun c => { c with blot := withheldLanes s f k d })

/-- What a store leaves of its context. -/
def storedIn (s : State) (f : FMEM) (k : LaneForm) (d : Nat) (c : CtxDie) : CtxDie := { c with blot := withheldLanes s f k d }

theorem getCd_given (d j : Nat) (x : State) : (given s h d x).getCd j = x.getCd j := by
  unfold Claims.given State.signal
  split
  · rfl
  · exact State.getCd_updCore _ _ _ _ fun _ => rfl

theorem stores_getCd (d : Nat) (x : State) (j : Nat) : (stores s h f k d x).getCd j = if j = s.ck0 d then storedIn s f k d (x.getCd j) else x.getCd j := by
  unfold stores
  rw [getCd_given]
  by_cases hj : j = s.ck0 d
  · rw [if_pos hj, hj, State.getCd_updCd_same]
    rfl
  · rw [if_neg hj, State.getCd_updCd_other _ _ _ _ hj]

theorem SameSeat.stores {x : State} (hs : SameSeat x s) (hk : s.ck0 d < 1024) : SameSeat (stores s h f k d x) s := by
  obtain ⟨hcur, hlaunches, hsockets, hst, hlaunch⟩ := hs
  unfold Machine.stores Claims.given State.signal
  simp only [State.updCd, State.setCd, if_pos (Or.inl hk : s.ck0 d < 1024 ∨ 2048 ≤ s.ck0 d)]
  split
  · exact ⟨hcur, hlaunches, hsockets, hst, hlaunch⟩
  · exact ⟨hcur, hlaunches, hsockets, hst, hlaunch⟩

theorem stores_sameSeat (hready : Ready s h) : SameSeat (effects (stores s h f k) (s.enabled h) s) s := by
  suffices ∀ ds : List Nat, (∀ d ∈ ds, d < 8) → ∀ x, SameSeat x s → SameSeat (effects (stores s h f k) ds x) s from
    this _ (fun d hd => State.enabled_lt hd) s ⟨rfl, rfl, rfl, rfl, rfl⟩
  intro ds
  induction ds with
  | nil => exact fun _ x hx => hx
  | cons d ds ih =>
    exact fun hds x hx => ih (fun e he => hds e (List.mem_cons_of_mem _ he)) _ (hx.stores (ck0_lt (cc0_lt hready.col hready.ctx) (hds d List.mem_cons_self)))

theorem foldl_max_le {α : Type} {g : α → Nat} {n : Nat} (l : List α) : ∀ m, m ≤ n → (∀ a ∈ l, g a ≤ n) → l.foldl (fun m a => Nat.max m (g a)) m ≤ n := by
  induction l with
  | nil => exact fun m hm _ => hm
  | cons a l ih =>
    exact fun m hm h => ih _ (Nat.max_le.2 ⟨hm, h a List.mem_cons_self⟩) fun b hb => h b (List.mem_cons_of_mem _ hb)

theorem le_foldl_max {α : Type} {g : α → Nat} {a : α} (l : List α) : ∀ m, a ∈ l → g a ≤ l.foldl (fun m a => Nat.max m (g a)) m := by
  have hle (l : List α) : ∀ m, m ≤ l.foldl (fun m a => Nat.max m (g a)) m := by
    induction l with
    | nil => exact fun m => Nat.le_refl m
    | cons b l ih => exact fun m => Nat.le_trans (Nat.le_max_left m (g b)) (ih _)
  induction l with
  | nil => exact fun m ha => absurd ha List.not_mem_nil
  | cons b l ih =>
    intro m ha
    rcases List.mem_cons.1 ha with rfl | ha
    · exact Nat.le_trans (Nat.le_max_right m (g a)) (hle l _)
    · exact ih _ ha

/-- R220: a blotter holds at most so many lines when no die's does more. -/
theorem State.blotCount_le {x : State} {c n : Nat} : x.blotCount c ≤ n ↔ ∀ d ∈ x.liveOf c, (x.getCd (ccCk d c)).blot.length ≤ n :=
  ⟨fun h _ hd => Nat.le_trans (le_foldl_max (g := fun d => (x.getCd (ccCk d c)).blot.length) _ _ hd) h, fun h => foldl_max_le _ _ (Nat.zero_le _) h⟩

theorem stores_blotCount (hready : Ready s h) (hroom : ∀ d ∈ s.enabled h, (withheldLanes s f k d).length ≤ 128) :
    (effects (stores s h f k) (s.enabled h) s).blotCount s.cc0 ≤ 128 := by
  rw [State.blotCount_le, (stores_sameSeat hready).liveOf]
  intro d hd
  change ((effects (stores s h f k) (s.enabled h) s).getCd (s.ck0 d)).blot.length ≤ 128
  rw [getCd_effects (F := storedIn s f k) stores_getCd _ d s (s.enabled_nodup h)]
  split
  · exact hroom d (by assumption)
  · exact State.blotCount_le.1 hready.blot d hd

/-- R364, R365: a store on a die comes to its lanes withheld, with the ports of its rows. -/
theorem Fresh.vstDie (hf : Fresh s o d) (ho : Seated s o) (huid : o.att.uid0 = none) (hready : Ready s h) (hd : d ∈ s.enabled h) (hok : LanesOk s d f k true)
    (hsrc : SrcOk s d 80 .v f.data) : ∃ o', Latches s d o o' ∧ o.vstDie h f k d = stores s h f k d (touching s f k true d o') := by
  obtain ⟨hops, hin, -, hfree⟩ := hok
  have hk : s.ck0 d < 1024 := ck0_lt (cc0_lt hready.col hready.ctx) (State.enabled_lt hd)
  obtain ⟨o1, sl1, addr, e1, haddr, l1, hl1, hhold⟩ := hf.looks.laneAddrs (f := f) (k := k) hk hf.cc ho hops rfl rfl
  obtain ⟨o2, sl2, e2, l2, hl2⟩ : ∃ o2 sl2, o1.rdSrc d 80 .v f.data = (src s d 80 .v f.data, o2) ∧ Latches s d o1 o2 ∧ Looks o2 s d sl2 := by
    rw [hl1.rdSrc hsrc hhold]
    split
    · exact ⟨_, _, rfl, Latches.refl s d o1, hl1⟩
    · exact ⟨_, _, rfl, Latches.of_setSlots hk o1 _, hl1.setSlots hk _⟩
  have hl := l1.trans l2
  refine ⟨o2, hl, ?_⟩
  have hcore : o2.getCore (coreKey d s.cur.col) = s.getCore (coreKey d s.cur.col) := by rw [hl.getCore, hf.core]
  have hbl : (State.ctxD (touching s f k true d o2) d).blot = (s.ctxD d).blot := by rw [(hl2.touching true).ctxD]
  have hval : (lanesOn s d f.pr).foldl (fun bl n => withholdAll bl (addr n) ((touching s f k true d o2).spadAt d (addr n))
      (leBytes 4 (lane (src s d 80 .v f.data) n))) (s.ctxD d).blot = withheldLanes s f k d := by
    unfold withheldLanes
    refine List.foldl_ext _ _ _ fun bl n hn => ?_
    rw [haddr, spadAt_lane (hl2.touching true).cur hin hn, lane_eq_elem]
  unfold State.vstDie
  rw [hf.looks.lanes hops.1]
  dsimp only
  rw [e1]
  dsimp only
  rw [e2]
  dsimp only
  rw [← lanesOn, hl2.vecCheck hcore (by rw [hl.att, huid]) hready (State.enabled_lt hd) haddr hin hfree]
  dsimp only
  rw [if_neg (by decide), hbl, hval, State.updD_of_cur (hl2.touching true).cur, State.signalNow_eq (s := s) ((State.updCd_keeps _ _).2.1.trans (hl2.touching true).cur)]
  rfl

theorem Seated.stores (hs : Seated s o) : Seated s (stores s h f k d o) := (hs.updCd _ _).given

theorem store_acts (hready : Ready s h) (hok : ∀ d ∈ s.enabled h, LanesOk s d f k true ∧ SrcOk s d 80 .v f.data) :
    Acts s h (fun d o => o.vstDie h f k d) (stores s h f k) (lanesAsk s f k true) fun _ o => Seated s o := by
  intro done d o hd hissued hatt hfresh ho
  have hk : s.ck0 d < 1024 := ck0_lt (cc0_lt hready.col hready.ctx) (State.enabled_lt hd)
  obtain ⟨hlanes, hsrc⟩ := hok d hd
  obtain ⟨o', hl, e⟩ := hfresh.vstDie ho (by rw [hatt]; rfl) hready hd hlanes hsrc
  dsimp only
  rw [e]
  have hissued' : Issued s (stores s h f k d (touching s f k true d o')) (stores s h f k d (effects (stores s h f k) done s)) (s.enabled h) := by
    refine (((hissued.latches hd hl).att_left _).updCd _ hk _ (fun x y e => ?_) fun x y e => ?_).given h d
    · unfold KeptCd at *
      rw [e]
    · unfold SameCd at e; rw [e]
  refine ⟨hissued', ?_, fun e _ hne he _ => ⟨?_, ?_⟩⟩
  · rw [stores, (given_keeps d).1, State.updCd_att]
    exact touching_att (hl.att.trans hatt)
  · exact (((hl.fresh hne he).att _).updCd hne hk _).given hne
  · exact Seated.stores (s := s) (h := h) ((hl.seated ho).of_eq rfl rfl rfl rfl)

theorem vectorStores {mk : Hdr → FMEM → Instr} {k : LaneForm} (hexec : ∀ h f s, exec (mk h f) s = s.attempt fun s => s.onDies h fun d s => s.vstDie h f k d) :
    VectorStores mk k := by
  intro s h f hready
  dsimp only
  intro hok
  refine does_of_lanes (fun _ o => Seated s o) hready (hexec h f s) (store_acts hready fun d hd => ?_) (fun _ _ => Seated.refl s _) (fun d hd => ?_)
    (stores_sameSeat hready) (stores_blotCount hready fun d hd => ?_)
  · obtain ⟨hlanes, hsrc, -⟩ := hok d hd
    exact ⟨hlanes, hsrc⟩
  · obtain ⟨⟨-, -, hports, -⟩, -⟩ := hok d hd
    exact hports
  · obtain ⟨-, -, hroom⟩ := hok d hd
    exact hroom

end

/-- Settles O21: R363 to R366: each lane's address is formed from the latched operands; a load reads its four bytes as the context does, a store withholds
them in ascending order, and the ports of the rows that they touch are taken. -/
theorem vectorMemory : Obligations.VectorMemory :=
  ⟨⟨vectorLoads fun _ _ _ => rfl, vectorLoads fun _ _ _ => rfl, vectorLoads fun _ _ _ => rfl⟩,
    vectorStores fun _ _ _ => rfl, vectorStores fun _ _ _ => rfl⟩

end Sys2Proof.Machine
end

section
/-! SUPPORT. The scrub and row repair (R125, R257). -/

set_option Elab.async false

namespace Sys2Proof.Machine

open Claims

section

variable {s : State} {k row place : Nat}

theorem State.assisted_iff (s : State) (f : Nat) : s.assisted f = s.mgmt.getLsbD (2 * f) := by
  rw [assisted, bits, BitVec.getLsbD, Nat.testBit_eq_decide_div_mod_eq, beq_eq_decide]
  rfl

@[simp] theorem State.getRepair_setRepair_same (s : State) (k : Nat) (r : Repair) : (s.setRepair k r).getRepair k = r := SMap.get_set_same ..

/-! ### The scrub (R125) -/

/-- R126: poison of a line's own bytes is set on that line. -/
theorem linesOf_line (l : Nat) : linesOf (l * 64) 64 = [l] := by
  have h1 : l * 64 / 64 = l := Nat.mul_div_cancel _ (by decide)
  have h2 : (l * 64 + 64 - 1) / 64 = l := by omega
  rw [linesOf, if_neg (by decide), h1, h2, Nat.sub_self]
  simp

theorem State.poisonedLine_addPoison (s : State) (l : Nat) :
    (s.addPoison (l * 64) 64).poisonedLine l = true ∧ ∀ j, s.poisonedLine j = true → (s.addPoison (l * 64) 64).poisonedLine j = true := by
  have hp : (s.addPoison (l * 64) 64).poison = insNat l s.poison := by rw [State.addPoison, linesOf_line]; rfl
  have hlost (j : Nat) : (s.addPoison (l * 64) 64).lostPoisons j = s.lostPoisons j := rfl
  refine ⟨?_, fun j hj => ?_⟩
  · rw [State.poisonedLine_eq, hp, Bool.or_eq_true, List.contains_iff_mem]
    exact .inl (mem_insNat.2 (.inl rfl))
  · rw [State.poisonedLine_eq, Bool.or_eq_true, List.contains_iff_mem] at hj
    rw [State.poisonedLine_eq, hp, hlost, Bool.or_eq_true, List.contains_iff_mem]
    exact hj.imp_left fun h => mem_insNat.2 (.inr h)

/-- R125: a place that the scrub reads: of a scratchpad, or of device memory that is there. -/
def Scrubbed (s : State) (place : Nat) : Prop :=
  (isSpad place = true ∧ place < spadLoc 8 0 0) ∨ (isSpad place = false ∧ place < s.devSize ∧ s.paFault place = none)

theorem backgroundScrub_double (h : Scrubbed s place) : exec (.backgroundScrub place true) s = .next (s.addPoison (place / 64 * 64) 64) := by
  change execBackgroundScrub place true s = _
  unfold execBackgroundScrub
  rcases h with ⟨h1, h2⟩ | ⟨h1, h2, h3⟩
  · rw [if_pos h1, if_neg (by omega), if_pos rfl]
  · rw [if_neg (by rw [h1]; decide), if_neg (by rw [h3]; simpa using h2), if_pos rfl]

theorem backgroundScrub_spad (h1 : isSpad place = true) (h2 : place < spadLoc 8 0 0) :
    exec (.backgroundScrub place false) s = .next (s.updCore (locCore place) fun k => { k with eccErrs := k.eccErrs + 1 }) := by
  change execBackgroundScrub place false s = _
  unfold execBackgroundScrub
  rw [if_pos h1, if_neg (by omega), if_neg (by decide)]

theorem backgroundScrub_dev (h1 : isSpad place = false) (h2 : place < s.devSize) (h3 : s.paFault place = none) :
    exec (.backgroundScrub place false) s = .next (s.setRepair (s.stackPlace place).1 { s.getRepair (s.stackPlace place).1 with
      counts := SMap.upd 0 (s.getRepair (s.stackPlace place).1).counts ((s.stackPlace place).2 / 8192) fun n => Nat.min (n + 1) 0xFFFF }) := by
  change execBackgroundScrub place false s = _
  unfold execBackgroundScrub
  rw [if_neg (by rw [h1]; decide), if_neg (by rw [h3]; simpa using h2), if_neg (by decide)]

theorem scrub_counts (h : Scrubbed s place) : ∃ t, exec (.backgroundScrub place false) s = .next t ∧
    (isSpad place = false → { t with repair := s.repair } = s) ∧
    (isSpad place = true → t = s.updCore (locCore place) fun k => { k with eccErrs := k.eccErrs + 1 }) ∧
    (isSpad place = false → SMap.get 0 (t.getRepair (s.stackPlace place).1).counts ((s.stackPlace place).2 / 8192) =
      Nat.min (SMap.get 0 (s.getRepair (s.stackPlace place).1).counts ((s.stackPlace place).2 / 8192) + 1) 0xFFFF) := by
  rcases h with ⟨h1, h2⟩ | ⟨h1, h2, h3⟩
  · have hno (h0 : isSpad place = false) : False := by simp [h1] at h0
    exact ⟨_, backgroundScrub_spad h1 h2, fun h0 => (hno h0).elim, fun _ => rfl, fun h0 => (hno h0).elim⟩
  · refine ⟨_, backgroundScrub_dev h1 h2 h3, fun _ => rfl, fun h0 => by simp [h1] at h0, fun _ => ?_⟩
    rw [State.getRepair_setRepair_same, SMap.upd, SMap.get_set_same]

/-! ### Rows mapped out (R257) -/

theorem repcmdMap_does (row : Word) (hk : k < 8) (hx : s.mgmt.getLsbD 11 = true) : ∃ t, exec (.repcmdMap k row) s = .next t ∧ t.mem = s.mem ∧
    (s.canMap k row.toNat = true → t.repDue = some (s.clock, k, row.toNat) ∧ t.repcmd = BitVec.ofNat 64 (k * 2 ^ 32 + row.toNat)) ∧
    (s.canMap k row.toNat = false → t.repDue = s.repDue ∧ t.repcmd = BitVec.ofNat 64 (2 ^ 62 + k * 2 ^ 32 + row.toNat)) := by
  have hguard : ¬(decide (k > 7) || !s.expert 5) = true := by
    rw [State.expert_iff, hx]
    simp; omega
  change ∃ t, execRepcmdMap k row s = _ ∧ _
  unfold execRepcmdMap
  rw [if_neg hguard]
  dsimp only
  by_cases hc : s.canMap k row.toNat = true
  · rw [if_pos hc]
    refine ⟨_, rfl, rfl, fun _ => ⟨rfl, rfl⟩, fun h => ?_⟩
    rw [hc] at h
    cases h
  · rw [if_neg hc]
    refine ⟨_, rfl, rfl, fun h => absurd h hc, fun _ => ⟨rfl, ?_⟩⟩
    rw [Nat.add_assoc]

theorem repairMapComplete_does {due : Nat} (hd : s.repDue = some (due, k, row)) (hdue : due ≤ s.clock) : ∃ t, exec .repairMapComplete s = .next t ∧
    t.repDue = none ∧ row ∈ (t.getRepair k).mapped ∧ SMap.get 0 (t.getRepair k).counts row = 0 ∧ t.mem = s.mem ∧ t.poison = s.poison := by
  refine ⟨{ s.setRepair k { s.getRepair k with mapped := insNat row (s.getRepair k).mapped, counts := SMap.erase (s.getRepair k).counts row } with repDue := none },
    ?_, rfl, ?_, ?_, rfl, rfl⟩
  · change execRepairMapComplete s = _
    unfold execRepairMapComplete
    rw [hd]
    dsimp only
    rw [if_pos hdue]
  · have e := State.getRepair_setRepair_same s k { s.getRepair k with mapped := insNat row (s.getRepair k).mapped, counts := SMap.erase (s.getRepair k).counts row }
    change row ∈ ((s.setRepair k _).getRepair k).mapped
    rw [e]
    exact mem_insNat.2 (.inl rfl)
  · have e := State.getRepair_setRepair_same s k { s.getRepair k with mapped := insNat row (s.getRepair k).mapped, counts := SMap.erase (s.getRepair k).counts row }
    change SMap.get 0 ((s.setRepair k _).getRepair k).counts row = 0
    rw [e]
    exact SMap.get_erase_same ..

/-- R257: a row of a stack that has reached the threshold and is not mapped out. -/
theorem threshold_guard (hk : k < 8) (hn : s.repThresh ≤ SMap.get 0 (s.getRepair k).counts row) (hm : row ∉ (s.getRepair k).mapped) :
    ¬(decide (k > 7) || decide (SMap.get 0 (s.getRepair k).counts row < s.repThresh) || (s.getRepair k).mapped.contains row) = true := by
  simp [hm]
  omega

theorem repairRowThreshold_maps (hk : k < 8) (hn : s.repThresh ≤ SMap.get 0 (s.getRepair k).counts row) (hm : row ∉ (s.getRepair k).mapped)
    (hmode : s.mgmt.getLsbD 10 = false) (hc : s.canMap k row = true) :
    exec (.repairRowThreshold k row) s = .next { s with repDue := some (s.clock, k, row) } := by
  change execRepairRowThreshold k row s = _
  unfold execRepairRowThreshold
  dsimp only
  rw [if_neg (threshold_guard hk hn hm), State.assisted_iff, hmode, if_pos (by decide), if_pos hc]

/-- R257: a row listed as logged. -/
def State.loggedRow (s : State) (k row : Nat) : State := s.setRepair k { s.getRepair k with logged := insNat row (s.getRepair k).logged }

theorem State.mem_loggedRow (s : State) (k row : Nat) : row ∈ ((s.loggedRow k row).getRepair k).logged := by
  rw [loggedRow, State.getRepair_setRepair_same]
  exact mem_insNat.2 (.inl rfl)

/-- R257: the entry of the log that a row takes. -/
def State.logEntry (s : State) (k row : Nat) : DWord :=
  BitVec.ofNat 64 (2 ^ 63 + k * 2 ^ 48 + SMap.get 0 (s.getRepair k).counts row * 2 ^ 32 + row % 2 ^ 32)

/-- R257: the row logged in a free entry, or the log's overflow set. -/
def State.logRow (s : State) (k row : Nat) : State :=
  match s.freeLog with
  | some i => { s.loggedRow k row with repLog := SMap.set 0#64 s.repLog i (s.logEntry k row) }
  | none => { s.loggedRow k row with repctl := s.repctl ||| 0x1000000#64 }

theorem State.logRow_keeps (s : State) (k row : Nat) : (s.logRow k row).repair = (s.loggedRow k row).repair ∧ (s.logRow k row).mem = s.mem := by
  unfold logRow
  cases s.freeLog with
  | none => exact ⟨rfl, rfl⟩
  | some i =>
    dsimp only
    generalize SMap.set 0#64 s.repLog i (s.logEntry k row) = l
    exact ⟨rfl, rfl⟩

theorem State.logRow_some {s : State} {i : Nat} (h : s.freeLog = some i) : SMap.get 0#64 (s.logRow k row).repLog i = s.logEntry k row := by
  unfold logRow
  rw [h]
  exact SMap.get_set_same ..

theorem State.logRow_none {s : State} (h : s.freeLog = none) : (s.logRow k row).repctl = s.repctl ||| 0x1000000#64 := by
  unfold logRow
  rw [h]

theorem State.logRow_spec (s : State) (k row : Nat) : row ∈ ((s.logRow k row).getRepair k).logged ∧ (s.logRow k row).mem = s.mem ∧
    (∀ i, s.freeLog = some i → SMap.get 0#64 (s.logRow k row).repLog i = s.logEntry k row) ∧
    (s.freeLog = none → (s.logRow k row).repctl = s.repctl ||| 0x1000000#64) := by
  obtain ⟨hrepair, hmem⟩ := s.logRow_keeps k row
  refine ⟨?_, hmem, fun i hi => logRow_some hi, fun hn => logRow_none hn⟩
  rw [State.getRepair, hrepair]
  exact s.mem_loggedRow k row

theorem repairRowThreshold_logs (hk : k < 8) (hn : s.repThresh ≤ SMap.get 0 (s.getRepair k).counts row) (hm : row ∉ (s.getRepair k).mapped)
    (hmode : s.mgmt.getLsbD 10 = true) (hl : row ∉ (s.getRepair k).logged) : exec (.repairRowThreshold k row) s = .next (s.logRow k row) := by
  change execRepairRowThreshold k row s = _
  unfold execRepairRowThreshold
  dsimp only
  rw [if_neg (threshold_guard hk hn hm), State.assisted_iff, hmode, if_neg (by decide), if_neg (by simpa using hl)]
  rfl

end

/-- Settles O55. -/
theorem rowRepair : Obligations.RowRepair := by
  refine ⟨fun s place h => ⟨?_, scrub_counts h⟩, fun s k row => repcmdMap_does row, fun s due k row => repairMapComplete_does,
    fun s k row hk hn hm => ⟨repairRowThreshold_maps hk hn hm, fun hmode hl => ⟨_, repairRowThreshold_logs hk hn hm hmode hl, s.logRow_spec k row⟩⟩⟩
  obtain ⟨h1, h2⟩ := s.poisonedLine_addPoison (place / 64)
  exact ⟨_, backgroundScrub_double h, h1, rfl, h2⟩

end Sys2Proof.Machine
end

section
/-! SUPPORT. Results that land (R79, R81, R219, R301). -/

set_option Elab.async false

namespace Sys2Proof.Machine

open Claims

section

variable {s : State} {ck : Nat}

/-! ### The order of landing (R79) -/

theorem landOrder_perm (l : List Pend) : (landOrder l).Perm l := by
  induction l with
  | nil => exact List.Perm.refl _
  | cons p ps ih =>
    rw [landOrder]
    dsimp only
    have hspan := List.span_eq_takeWhile_dropWhile (fun x => x.before p && !(p.before x)) (landOrder ps)
    rw [hspan]
    dsimp only
    refine List.perm_middle.trans (List.Perm.cons p ?_)
    rw [List.takeWhile_append_dropWhile]
    exact ih

/-! ### One result landed -/

/-- R301, R329: the fault of an access that the host has not completed. -/
def abortFault (ck : Nat) (x : State) (p : Pend) : State := x.asyncFault ck { code := 4, cause := 6, r0 := p.val.setWidth 64, r1 := p.bundle } p.uid

/-- R79, R219: what a result that is completed changes of its context. -/
def landedIn (p : Pend) (c : CtxDie) : CtxDie := { c with ws := c.ws.land p, dup := if p.pre then c.dup.land p else c.dup }

theorem landOne_abort {p : Pend} (h : p.abort = true) (x : State) : x.landOne ck p = abortFault ck x p := by
  rw [State.landOne, if_pos h]
  rfl

theorem landOne_ok {p : Pend} (h : p.abort = false) (x : State) : x.landOne ck p = (x.updCd ck (landedIn p)).pendSignal ck p := by
  rw [State.landOne, if_neg (by rw [h]; decide)]
  rfl

/-- R62: a signal changes the signals of one core, and nothing else. -/
theorem State.signal_sig {x y : State} (h : ∀ k, (x.getCore k).sig = (y.getCore k).sig) (core sem : Nat) (inc : Int) (k : Nat) :
    ((x.signal core sem inc).getCore k).sig = ((y.signal core sem inc).getCore k).sig := by
  unfold State.signal
  split
  · exact h k
  · by_cases hk : k = core
    · rw [hk, State.updCore, State.updCore, State.getCore_setCore_same, State.getCore_setCore_same, h core]
    · rw [State.updCore, State.updCore, State.getCore_setCore_other _ _ _ _ hk, State.getCore_setCore_other _ _ _ _ hk, h k]

theorem State.getCd_signal (x : State) (core sem : Nat) (inc : Int) (k : Nat) : (x.signal core sem inc).getCd k = x.getCd k := by
  unfold State.signal
  split
  · rfl
  · exact State.getCd_updCore _ _ _ _ fun _ => rfl

/-- The parts of a core that landing leaves alone. -/
theorem State.updCore_but_sig (x : State) (core : Nat) (F : Core → Core) (hF : ∀ c, { F c with sig := c.sig, fw := c.fw } = c) (k : Nat) :
    { (x.updCore core F).getCore k with sig := (x.getCore k).sig, fw := (x.getCore k).fw } = x.getCore k := by
  by_cases hk : k = core
  · rw [hk, State.updCore, State.getCore_setCore_same, hF]
  · rw [State.updCore, State.getCore_setCore_other _ _ _ _ hk]

theorem State.getCore_updCd_keeps (x : State) (ck : Nat) (F : CtxDie → CtxDie) (k : Nat) :
    { (x.updCd ck F).getCore k with sig := (x.getCore k).sig, fw := (x.getCore k).fw } = x.getCore k ∧ ((x.updCd ck F).getCore k).sig = (x.getCore k).sig := by
  unfold State.updCd State.setCd
  split
  · exact ⟨rfl, rfl⟩
  · refine ⟨State.updCore_but_sig x _ (fun c => { c with fw := F (x.getCd ck) }) (fun _ => rfl) k, ?_⟩
    by_cases hk : k = ck - 1024
    · rw [hk, State.updCore, State.getCore_setCore_same]
    · rw [State.updCore, State.getCore_setCore_other _ _ _ _ hk]

/-! ### A list of results landed -/

/-- What landing the list `l` on `x` comes to. -/
structure Landed (ck : Nat) (l : List Pend) (x t : State) : Prop where
  own : t.getCd ck = { x.getCd ck with
    ws := (l.filter fun p => !p.abort).foldl WorkSet.land (x.getCd ck).ws,
    dup := ((l.filter fun p => !p.abort).filter (·.pre)).foldl WorkSet.land (x.getCd ck).dup }
  other : ∀ k ≠ ck, t.getCd k = x.getCd k
  sig : ∀ y : State, (∀ k, (x.getCore k).sig = (y.getCore k).sig) →
    ∀ k, (t.getCore k).sig = (((l.filter fun p => !p.abort).foldl (fun u p => u.signal (ckCore ck) p.sigSem p.sigInc) y).getCore k).sig
  core : ∀ k, { t.getCore k with sig := (x.getCore k).sig, fw := (x.getCore k).fw } = x.getCore k
  cc : ∀ y : State, x.cc = y.cc → x.clock = y.clock → t.cc = ((l.filter (·.abort)).foldl (abortFault ck) y).cc
  rest : { t with cd := x.cd, core := x.core, cc := x.cc } = x

theorem Landed.nil (x : State) : Landed ck [] x x := ⟨rfl, fun _ _ => rfl, fun _ h k => h k, fun _ => rfl, fun _ h _ => h, rfl⟩

theorem Landed.cons_abort {p : Pend} {l : List Pend} {x t : State} (hp : p.abort = true) (h : Landed ck l (abortFault ck x p) t) : Landed ck (p :: l) x t := by
  have h1 : (p :: l).filter (fun p => !p.abort) = l.filter fun p => !p.abort := List.filter_cons_of_neg (by simp [hp])
  have h2 : (p :: l).filter (·.abort) = p :: l.filter (·.abort) := List.filter_cons_of_pos hp
  refine ⟨by rw [h1]; exact h.own, h.other, by rw [h1]; exact h.sig, h.core, fun y hcc hclk => ?_, ?_⟩
  · rw [h2, List.foldl_cons]
    refine h.cc (abortFault ck y p) ?_ hclk
    unfold abortFault State.asyncFault State.updCc State.setCc State.getCc
    rw [hcc, hclk]
  · exact congrArg (fun z : State => { z with cc := x.cc }) h.rest

theorem Landed.cons_ok {p : Pend} {l : List Pend} {x t : State} (hp : p.abort = false) (h : Landed ck l ((x.updCd ck (landedIn p)).pendSignal ck p) t) :
    Landed ck (p :: l) x t := by
  have h1 : (p :: l).filter (fun p => !p.abort) = p :: l.filter fun p => !p.abort := List.filter_cons_of_pos (by simp [hp])
  have h2 : (p :: l).filter (·.abort) = l.filter (·.abort) := List.filter_cons_of_neg (by simp [hp])
  have hget (k : Nat) : ((x.updCd ck (landedIn p)).pendSignal ck p).getCd k = (x.updCd ck (landedIn p)).getCd k := State.getCd_signal ..
  have hsigcd (k : Nat) : ((x.updCd ck (landedIn p)).getCore k).sig = (x.getCore k).sig := (x.getCore_updCd_keeps ck (landedIn p) k).2
  have hbut : ∀ k, { ((x.updCd ck (landedIn p)).pendSignal ck p).getCore k with sig := (x.getCore k).sig, fw := (x.getCore k).fw } = x.getCore k := by
    have hcd (k : Nat) := (x.getCore_updCd_keeps ck (landedIn p) k).1
    intro k
    unfold State.pendSignal State.signal
    split
    · exact hcd k
    · have e := State.updCore_but_sig (x.updCd ck (landedIn p)) (ckCore ck)
        (fun c => { c with sig := SMap.upd {} c.sig p.sigSem fun a => { a with add := a.add + p.sigInc } }) (fun _ => rfl) k
      have e' := hcd k
      rw [← e] at e'
      exact e'
  have hcc : ((x.updCd ck (landedIn p)).pendSignal ck p).cc = x.cc ∧ ((x.updCd ck (landedIn p)).pendSignal ck p).clock = x.clock ∧
      { (x.updCd ck (landedIn p)).pendSignal ck p with cd := x.cd, core := x.core, cc := x.cc } = x := by
    unfold State.pendSignal State.signal State.updCd State.setCd
    split <;> split <;> exact ⟨rfl, rfl, rfl⟩
  obtain ⟨hcc1, hclk, hrest⟩ := hcc
  refine ⟨?_, fun k hk => ?_, fun y hy k => ?_, fun k => ?_, fun y hy hclk' => ?_, ?_⟩
  · rw [h.own, hget, State.getCd_updCd_same, h1, List.foldl_cons, List.filter_cons]
    unfold landedIn
    cases p.pre <;> rfl
  · rw [h.other k hk, hget, State.getCd_updCd_other _ _ _ _ hk]
  · rw [h1, List.foldl_cons]
    exact h.sig (y.signal (ckCore ck) p.sigSem p.sigInc) (State.signal_sig (fun k => (hsigcd k).trans (hy k)) _ _ _) k
  · have e := h.core k
    have e' := hbut k
    rw [← e] at e'
    exact e'
  · rw [h2]
    exact h.cc y (hcc1.trans hy) (hclk.trans hclk')
  · exact (congrArg (fun z : State => { z with cd := x.cd, core := x.core, cc := x.cc }) h.rest).trans hrest

theorem landed_foldl (ck : Nat) (l : List Pend) : ∀ x : State, Landed ck l x (l.foldl (fun s p => s.landOne ck p) x) := by
  induction l with
  | nil => exact fun x => Landed.nil x
  | cons p l ih =>
    intro x
    rw [List.foldl_cons]
    cases hp : p.abort with
    | true =>
      rw [landOne_abort hp]
      exact Landed.cons_abort hp (ih _)
    | false =>
      rw [landOne_ok hp]
      exact Landed.cons_ok hp (ih _)

/-! ### The results of a context (R79, R81) -/

/-- R79: which results land, and what their landing leaves. -/
theorem lands_of_landAll {i : Instr} {sb : Bool} {f : Pend → Bool} (hexec : exec i s = .next (s.landAll ck f)) (hf : (s.getCd ck).pend.filter f = dueResults s ck sb) :
    ∃ t, exec i s = .next t ∧
    let due := landOrder (dueResults s ck sb)
    let ok := due.filter fun p => !p.abort
    let c := s.getCd ck
    t.getCd ck = { c with
      ws := ok.foldl WorkSet.land c.ws, dup := (ok.filter (·.pre)).foldl WorkSet.land c.dup, pend := c.pend.filter fun p => !due.contains p } ∧
    (∀ k ≠ ck, t.getCd k = s.getCd k) ∧
    (∀ k, (t.getCore k).sig = ((ok.foldl (fun u p => u.signal (ckCore ck) p.sigSem p.sigInc) s).getCore k).sig) ∧
    (∀ k, { t.getCore k with sig := (s.getCore k).sig, fw := (s.getCore k).fw } = s.getCore k) ∧
    t.cc = ((due.filter (·.abort)).foldl (fun u p =>
      u.asyncFault ck { code := 4, cause := 6, r0 := p.val.setWidth 64, r1 := p.bundle } p.uid) s).cc ∧
    { t with cd := s.cd, core := s.core, cc := s.cc } = s := by
  refine ⟨_, hexec, ?_⟩
  have hmem : (s.getCd ck).pend.filter (fun p => !f p) = (s.getCd ck).pend.filter fun p => !(landOrder (dueResults s ck sb)).contains p := by
    refine List.filter_congr fun p hp => ?_
    congr 1
    rw [Bool.eq_iff_iff, List.contains_iff_mem, (landOrder_perm _).mem_iff, ← hf, List.mem_filter]
    simp [hp]
  have hl := landed_foldl ck (landOrder (dueResults s ck sb)) (s.updCd ck fun c => { c with pend := c.pend.filter fun p => !f p })
  have hall : s.landAll ck f = (landOrder (dueResults s ck sb)).foldl (fun s p => s.landOne ck p) (s.updCd ck fun c => { c with pend := c.pend.filter fun p => !f p }) := by
    rw [← hf]
    rfl
  rw [hall]
  have hbut := s.getCore_updCd_keeps ck fun c => { c with pend := c.pend.filter fun p => !f p }
  have hrest : (s.updCd ck fun c => { c with pend := c.pend.filter fun p => !f p }).cc = s.cc ∧
      (s.updCd ck fun c => { c with pend := c.pend.filter fun p => !f p }).clock = s.clock ∧
      { s.updCd ck (fun c => { c with pend := c.pend.filter fun p => !f p }) with cd := s.cd, core := s.core, cc := s.cc } = s := by
    unfold State.updCd State.setCd
    split <;> exact ⟨rfl, rfl, rfl⟩
  obtain ⟨hcc, hclk, hother⟩ := hrest
  refine ⟨?_, fun k hk => ?_, ?_, fun k => ?_, ?_, ?_⟩
  · rw [hl.own, State.getCd_updCd_same, hmem]
  · rw [hl.other k hk, State.getCd_updCd_other _ _ _ _ hk]
  · exact hl.sig s fun k => (hbut k).2
  · have e := hl.core k
    have e' := (hbut k).1
    rw [← e] at e'
    exact e'
  · exact hl.cc s hcc hclk
  · exact (congrArg (fun z : State => { z with cd := s.cd, core := s.core, cc := s.cc }) hl.rest).trans hother

end

theorem scoreboardWrite_lands : Lands .scoreboardWriteLands true := fun s ck =>
  lands_of_landAll rfl (by rw [dueResults, if_pos rfl, List.filter_filter])

theorem exposedResult_lands : Lands .exposedResultLands false := by
  intro s ck
  by_cases hany : ((s.getCd ck).pend.any fun p => !p.sb && p.due.any (· ≤ s.clock)) = true
  · refine lands_of_landAll (f := fun p => p.due.any (· ≤ s.clock)) ?_ ?_
    · change execExposedResultLands ck s = _
      unfold execExposedResultLands
      dsimp only
      rw [if_pos hany]
    · obtain ⟨p, hp, hcond⟩ := List.any_eq_true.1 hany
      rw [Bool.and_eq_true] at hcond
      have hsome : ¬(((s.getCd ck).pend.filter fun p => p.due.any fun t => t ≤ s.clock).all (·.sb)) = true := fun h => by
        have := List.all_eq_true.1 h p (List.mem_filter.2 ⟨hp, hcond.2⟩)
        simp [this] at hcond
      rw [dueResults, if_neg (by decide), if_neg hsome]
  · have hdue : dueResults s ck false = [] := by
      rw [dueResults, if_neg (by decide), if_pos]
      rw [List.all_eq_true]
      intro p hp
      obtain ⟨hmem, hd⟩ := List.mem_filter.1 hp
      by_contra hsb
      exact hany (List.any_eq_true.2 ⟨p, hmem, by rw [hd]; simpa using hsb⟩)
    refine ⟨s, ?_, ?_⟩
    · change execExposedResultLands ck s = _
      unfold execExposedResultLands
      dsimp only
      rw [if_neg hany]
    · rw [hdue]
      refine ⟨?_, fun _ _ => rfl, fun _ => rfl, fun _ => rfl, rfl, rfl⟩
      have hall : ((s.getCd ck).pend.filter fun p => !(landOrder []).contains p) = (s.getCd ck).pend := List.filter_eq_self.2 fun _ _ => rfl
      rw [hall]
      rfl

/-- Settles O46. -/
theorem resultsLand : Obligations.ResultsLand := ⟨exposedResult_lands, scoreboardWrite_lands⟩

end Sys2Proof.Machine
end

section
/-! SUPPORT. What an access of an engine leaves alone (R104, R116 to R122, R140, R260 to R264, R321): everything but storage, the walks and the TLB of
a die, the messages and the posted writes of the pod, and what waits for a bank port. -/

set_option Elab.async false

namespace Sys2Proof.Machine

open Claims

/-- The part of the state that no access touches, but for the cores. -/
def State.unaccessed (s : State) : State :=
  { s.unwalked with core := [], uid := 0, links := [], podOut := [], podIn := [], posted := [], engPod := [] }

/-- `t` is `s` after accesses. -/
structure Accessed (s t : State) : Prop where
  rest : t.unaccessed = s.unaccessed
  core : ∀ k, { t.getCore k with portWait := [] } = { s.getCore k with portWait := [] }
  wf : Memory.wf s.mem → Memory.wf t.mem

namespace Accessed

variable {s x y : State}

theorem refl (s : State) : Accessed s s := ⟨rfl, fun _ => rfl, id⟩

theorem trans (h : Accessed s x) (g : Accessed x y) : Accessed s y :=
  ⟨g.rest.trans h.rest, fun k => (g.core k).trans (h.core k), fun hm => g.wf (h.wf hm)⟩

/-- An update that touches neither cores nor memory. -/
theorem of_rest (h : Accessed s x) (hr : y.unaccessed = x.unaccessed) (hc : y.core = x.core) (hm : y.mem = x.mem) : Accessed s y :=
  ⟨hr.trans h.rest, fun k => by rw [← h.core k, State.getCore, hc]; rfl, fun w => by rw [hm]; exact h.wf w⟩

theorem of_unwalked (h : Accessed s x) (hu : y.unwalked = x.unwalked) (hw : Memory.wf x.mem → Memory.wf y.mem) : Accessed s y := by
  have hcore : y.core = x.core := (congrArg State.core hu :)
  have hrest : y.unaccessed = x.unaccessed :=
    congrArg (fun u : State => { u with core := [], uid := 0, links := [], podOut := [], podIn := [], posted := [], engPod := [] }) hu
  exact ⟨hrest.trans h.rest, fun k => by rw [← h.core k, State.getCore, hcore]; rfl, fun w => hw (h.wf w)⟩

/-! ### What such states share -/

theorem unaccessed_eq (h : Accessed s x) : x.clock = s.clock ∧ x.cd = s.cd ∧ x.cc = s.cc ∧ x.col = s.col ∧ x.launches = s.launches ∧ x.sockets = s.sockets ∧
    x.parts = s.parts ∧ x.mgmt = s.mgmt ∧ x.swaps = s.swaps ∧ x.eng = s.eng ∧ x.colls = s.colls ∧ x.events = s.events := by
  have e := h.rest
  generalize hx : x.unaccessed = u at e
  generalize hs : s.unaccessed = v at e
  subst e
  refine ⟨?_, ?_, ?_, ?_, ?_, ?_, ?_, ?_, ?_, ?_, ?_, ?_⟩
  · exact (congrArg State.clock (hx.trans hs.symm) :)
  · exact (congrArg State.cd (hx.trans hs.symm) :)
  · exact (congrArg State.cc (hx.trans hs.symm) :)
  · exact (congrArg State.col (hx.trans hs.symm) :)
  · exact (congrArg State.launches (hx.trans hs.symm) :)
  · exact (congrArg State.sockets (hx.trans hs.symm) :)
  · exact (congrArg State.parts (hx.trans hs.symm) :)
  · exact (congrArg State.mgmt (hx.trans hs.symm) :)
  · exact (congrArg State.swaps (hx.trans hs.symm) :)
  · exact (congrArg State.eng (hx.trans hs.symm) :)
  · exact (congrArg State.colls (hx.trans hs.symm) :)
  · exact (congrArg State.events (hx.trans hs.symm) :)

/-! ### Storage and translation -/

theorem store (h : Accessed s x) (loc : Nat) (data : List Byte) : Accessed s (x.store loc data) := by
  refine h.of_unwalked ?_ fun w => x.store_wf w loc data
  rw [State.unwalked, State.store_unstored, State.unwalked]

theorem addPoison (h : Accessed s x) (loc n : Nat) : Accessed s (x.addPoison loc n) := h.of_rest rfl rfl rfl

theorem storeP (h : Accessed s x) (loc : Nat) (data : List (Byte × Bool)) : Accessed s (x.storeP loc data) := by
  unfold State.storeP
  dsimp only
  split
  · exact (h.store ..).addPoison ..
  · exact h.store ..

theorem updDie (h : Accessed s x) (k : Nat) (F : Die → Die) : Accessed s (x.updDie k F) := h.of_rest rfl rfl rfl

theorem walk (h : Accessed s x) {trb va : Nat} {fw rd wr : Bool} {e : TlbE} (hw : x.walk trb va fw rd wr = .ok (e, y)) : Accessed s y := by
  refine h.of_unwalked (State.walk_unwalked hw) fun w => ?_
  unfold State.walk at hw
  dsimp only at hw
  split at hw
  · cases hw
  split at hw
  · cases hw
  split at hw
  · cases hw
  split at hw
  · cases hw
  · rw [Except.ok.injEq, Prod.mk.injEq] at hw
    rw [← hw.2]
    generalize (if x.walkAssisted = true then _ else _ : Nat) = q
    split
    · exact w
    · exact x.store_wf w ..

theorem translate (h : Accessed s x) (die core : Nat) (acc : Acc) (trb va : Nat) (fw rd wr : Bool) :
    Accessed s (x.translate die core acc trb va fw rd wr).2 := by
  unfold State.translate
  dsimp only
  split
  · exact h
  split
  · exact h
  split
  · exact h
  split
  · exact h
  split
  · exact h
  split
  · split
    · exact h
    · rcases hw : x.walk trb va fw rd wr with f | ⟨e, t⟩
      · exact h
      · dsimp only
        exact (h.walk hw).updDie ..
  · split
    · exact h
    split
    · dsimp only
      exact h.updDie ..
    · rcases hw : x.walk trb va fw rd wr with f | ⟨e, t⟩
      · exact h
      · dsimp only
        exact (h.walk hw).updDie ..

theorem resolve (h : Accessed s x) (die cc : Nat) (acc : Acc) (trb va : Nat) (fw rd wr : Bool) : Accessed s (x.resolve die cc acc trb va fw rd wr).2 := by
  unfold State.resolve
  dsimp only
  split
  · exact h
  split
  · exact h
  split
  · exact h
  · exact h
  · split <;> exact h
  · exact h
  · exact h.translate ..

/-! ### The pod and the host (R260 to R264) -/

theorem fresh (h : Accessed s x) : Accessed s x.fresh.2 := h.of_rest rfl rfl rfl

theorem podTranslate (h : Accessed s x) (index a : Nat) (fw rd wr : Bool) : Accessed s (x.podTranslate index a fw rd wr).2 := by
  unfold State.podTranslate
  dsimp only
  split
  · exact h
  split
  · exact h
  split
  · exact h
  · rcases hw : x.walk (SMap.get 0#64 x.podspc index).toNat a fw rd wr with f | ⟨e, t⟩
    · exact h
    · dsimp only
      exact (h.walk hw).updDie ..

theorem podOut (h : Accessed s x) (l : List (Nat × PodMsg)) : Accessed s { x with podOut := l } := h.of_rest rfl rfl rfl

theorem podOnLink (h : Accessed s x) (n : Nat) (m : PodMsg) : Accessed s (x.podOnLink n m) := h.of_rest rfl rfl rfl

theorem podSendIdx (h : Accessed s x) (die idx pkg a uid at_ : Nat) (body : PodBody) (fw : Bool) : Accessed s (x.podSendIdx die idx pkg a uid at_ body fw) := by
  unfold State.podSendIdx
  dsimp only
  split
  · exact h.podOut _
  split
  · exact h.of_rest rfl rfl rfl
  split
  · exact h.podOnLink ..
  · exact h.podOut _

theorem podSend (h : Accessed s x) (die part pkg a uid at_ : Nat) (body : PodBody) (fw : Bool) : Accessed s (x.podSend die part pkg a uid at_ body fw) :=
  h.podSendIdx ..

theorem posted (h : Accessed s x) (l : List Posted) : Accessed s { x with posted := l } := h.of_rest rfl rfl rfl

theorem podWrite (h : Accessed s x) (die cc pkg a va at_ : Nat) (data : List Byte) (poison : Bool) (r : FRec) (w : Poster) :
    Accessed s (x.podWrite die cc pkg a va at_ data poison r w) := by
  unfold State.podWrite
  dsimp only
  exact (h.fresh.posted _).podSend ..

theorem hostWrite (h : Accessed s x) (die cc va loc kind at_ : Nat) (data : List (Byte × Bool)) (w : Poster) :
    Accessed s (x.hostWrite die cc va loc kind at_ data w) := by
  unfold State.hostWrite
  dsimp only
  refine Accessed.posted ?_ _
  split
  · exact h.fresh.storeP ..
  · exact h.fresh

theorem engPod (h : Accessed s x) (l : List EngRd) : Accessed s { x with engPod := l } := h.of_rest rfl rfl rfl

theorem dropPod (h : Accessed s x) (cmd : Nat) : Accessed s (x.dropPod cmd) := h.engPod _

/-! ### Reads and writes of engines (R106, R140, R321) -/

theorem portWaits (h : Accessed s x) (loc : Nat) (wr : Bool) : Accessed s (x.portWaits loc wr) := by
  refine ⟨h.rest, fun k => ?_, h.wf⟩
  rw [← h.core k, State.portWaits, State.updCore]
  by_cases hk : k = locCore loc
  · rw [hk, State.getCore_setCore_same]
  · rw [State.getCore_setCore_other _ _ _ _ hk]

theorem engSeg (h : Accessed s x) (ck : Nat) (acc : Acc) (cmd va n : Nat) : Accessed s (x.engSeg ck acc cmd va n).2 := by
  have h1 := h.resolve (ckDie ck) (ckCc ck) acc (x.getCd ck).trbase.toNat va (ckCtx ck == 4) true false
  unfold State.engSeg
  dsimp only
  split
  · exact h1
  · exact h1
  · split
    · exact h1.portWaits ..
    · exact h1
  · split
    · split <;> exact h1
    · split
      · exact h1
      · exact (h1.fresh.engPod _).podSend ..

theorem engRead {ck : Nat} {acc : Acc} {cmd : Nat} (fuel : Nat) : ∀ {x : State} (va n : Nat), Accessed s x → Accessed s (x.engRead ck acc cmd fuel va n).2 := by
  induction fuel with
  | zero => exact fun _ _ h => h
  | succ fuel ih =>
    intro x va n h
    rw [State.engRead]
    split
    · exact h
    · have h1 := h.engSeg ck acc cmd va (Nat.min n (64 - va % 64))
      have h2 := ih (va + Nat.min n (64 - va % 64)) (n - Nat.min n (64 - va % 64)) h1
      dsimp only
      split
      · exact h1
      · split <;> exact h2

theorem engReadN (h : Accessed s x) (ck : Nat) (acc : Acc) (cmd va n : Nat) : Accessed s (x.engReadN ck acc cmd va n).2 := engRead _ _ _ h

theorem engWrFault (h : Accessed s x) (ck : Nat) (acc : Acc) (va : Nat) : Accessed s (x.engWrFault ck acc va).2 := by
  have h1 := h.resolve (ckDie ck) (ckCc ck) acc (x.getCd ck).trbase.toNat va (ckCtx ck == 4) false true
  unfold State.engWrFault
  dsimp only
  split
  · exact h1
  · exact h1
  · split <;> exact h1
  · split
    · exact h1.portWaits ..
    · exact h1

theorem engWrFaults {ck : Nat} {acc : Acc} (l : List (Nat × Nat)) : ∀ {x : State}, Accessed s x → Accessed s (x.engWrFaults ck acc l).2 := by
  induction l with
  | nil => exact fun h => h
  | cons p l ih =>
    intro x h
    have h1 := h.engWrFault ck acc p.1
    rw [State.engWrFaults]
    dsimp only
    split
    · exact ih h1
    · exact h1

theorem engWrite (h : Accessed s x) (ck : Nat) (acc : Acc) (va : Nat) (data : List (Byte × Bool)) (r : FRec) (w : Poster) :
    Accessed s (x.engWrite ck acc va data r w) := by
  have h1 := h.resolve (ckDie ck) (ckCc ck) acc (x.getCd ck).trbase.toNat va (ckCtx ck == 4) false true
  unfold State.engWrite
  dsimp only
  split
  · split
    · exact h1.hostWrite ..
    · exact h1.storeP ..
  · exact h1.podWrite ..
  · exact h1

theorem engWriteAll {ck : Nat} {acc : Acc} {r : FRec} {w : Poster} (l : List (Nat × Nat)) : ∀ {x : State} (data : List (Byte × Bool)), Accessed s x →
    Accessed s (x.engWriteAll ck acc r w l data) := by
  induction l with
  | nil => exact fun _ h => h
  | cons p l ih => exact fun _ h => ih _ (h.engWrite ..)

/-- The state of a pair. -/
theorem of_pair {α : Type} {p : α × State} {a : α} (h : Accessed s p.2) (e : p = (a, y)) : Accessed s y := by
  rw [e] at h
  exact h

theorem of_triple {α β : Type} {p : α × β × State} {a : α} {b : β} (h : Accessed s p.2.2) (e : p = (a, b, y)) : Accessed s y := by
  rw [e] at h
  exact h

end Accessed

end Sys2Proof.Machine
end

section
/-! SUPPORT. What the engines' reads and writes leave alone (R136, R140, R141, R149, R162): a copy command's pieces, a transfer's, a matrix command's operands. -/

set_option Elab.async false

namespace Sys2Proof.Machine.Accessed

open Claims

variable {s x y : State}

/-! ### The source of a copy command (R136, R141) -/

theorem readG (h : Accessed s x) (c : CopyCmd) (va n : Nat) : Accessed s (x.readG c va n).2.2 := by
  unfold State.readG
  dsimp only
  split <;> exact h.engReadN ..

theorem readRuns (l : List (Nat × Nat)) : ∀ {x : State} (c : CopyCmd), Accessed s x → Accessed s (x.readRuns c l).2.2 := by
  induction l with
  | nil => exact fun _ h => h
  | cons p l ih =>
    intro x c h
    have h1 := h.readG c p.1 p.2
    have h2 := ih (x.readG c p.1 p.2).2.1 h1
    rw [State.readRuns]
    dsimp only
    split
    · exact h1
    · split <;> exact h2

theorem gatherRead {c : CopyCmd} (l : List Word) : ∀ {x : State} (j : Nat), Accessed s x → Accessed s (x.gatherRead c j l).2 := by
  induction l with
  | nil => exact fun _ h => h
  | cons o l ih =>
    intro x j h
    rw [State.gatherRead]
    dsimp only
    split
    · exact h
    · have h1 := h.engReadN c.ck .cp c.uid ((c.saddr.toNat + o.toNat) % 2 ^ 64) (Nat.max 1 (copyBits c.sty / 8))
      split
      · exact h1
      · exact h1
      · split <;> exact ih (j + 1) h1

theorem readScale (h : Accessed s x) (c : CopyCmd) (b : Nat) : Accessed s (x.readScale c b).2.2 := by
  unfold State.readScale
  split
  · exact h.readG ..
  · exact h

theorem fetch (h : Accessed s x) (c : CopyCmd) (e m : Nat) (k : CopyCmd → List (Nat × Bool) → CopyCmd) : Accessed s (x.fetch c e m k).2 := by
  have h1 := h.readScale c (e / 32)
  unfold State.fetch
  dsimp only
  split
  · exact h1
  · exact h1
  · split
    · split
      · exact gatherRead _ _ h1
      · exact gatherRead _ _ h1
      · split <;> exact gatherRead _ _ h1
    · split <;> exact readRuns _ _ h1

theorem fetchAll (fuel : Nat) : ∀ {x : State} (c : CopyCmd), Accessed s x → Accessed s (x.fetchAll c fuel).2 := by
  induction fuel with
  | zero => exact fun _ h => h
  | succ fuel ih =>
    intro x c h
    rw [State.fetchAll]
    dsimp only
    split
    · exact h
    · split
      · exact ih _ (h.fetch ..)
      · exact h.fetch ..

theorem fill {len : Nat} (fuel : Nat) : ∀ {x : State} (c : CopyCmd), Accessed s x → Accessed s (x.fill c len fuel).2 := by
  induction fuel with
  | zero => exact fun _ h => h
  | succ fuel ih =>
    intro x c h
    rw [State.fill]
    dsimp only
    split
    · exact h
    split
    · exact ih _ h
    · split
      · exact ih _ (h.fetch ..)
      · exact h.fetch ..

theorem peek {c : CopyCmd} (l : List (Nat × Nat)) : ∀ {x : State}, Accessed s x → Accessed s (x.peek c l).2 := by
  induction l with
  | nil => exact fun h => h
  | cons p l ih =>
    intro x h
    have h1 := h.resolve (ckDie c.ck) (ckCc c.ck) .cp (x.getCd c.ck).trbase.toNat p.1 (ckCtx c.ck == 4) false true
    rw [State.peek]
    dsimp only
    split
    · exact h1
    · exact h1
    · split
      · rename_i b x2 h2
        exact (ih h1).of_pair h2
      · exact ih h1
    · split
      · rename_i b x2 h2
        exact (ih h1).of_pair h2
      · exact ih h1

theorem trailerOf (h : Accessed s x) (c : CopyCmd) : Accessed s (x.trailerOf c).2 := by
  unfold State.trailerOf
  split
  · exact h
  · dsimp only
    split <;> exact peek _ h

theorem pieceData (h : Accessed s x) (c : CopyCmd) : Accessed s (x.pieceData c).2 := by
  unfold State.pieceData
  dsimp only
  split
  · split <;> exact h.trailerOf ..
  split
  · split
    · split
      · exact fill _ _ (fetchAll _ _ h)
      · exact fetchAll _ _ h
    · exact fill _ _ h
  split
  · exact h
  split
  · exact h
  · split <;> exact readRuns _ _ h

theorem tchk (h : Accessed s x) (c : CopyCmd) : Accessed s (x.tchk c).2.2 := by
  unfold State.tchk
  split
  · exact h
  · dsimp only
    split <;> exact h.engReadN ..

/-- R140, R141: the next piece of a command, and the check of its trailer. -/
theorem nextPiece (h : Accessed s x) (c : CopyCmd) : Accessed s (x.nextPiece c).2.2 := by
  have h1 := h.pieceData c
  unfold State.nextPiece
  dsimp only
  split
  · rename_i c1 _
    have h2 : Accessed s (if c.lastMain = true then (x.pieceData c).2.tchk c1 else (CopyR.ok c1, none, (x.pieceData c).2)).2.2 := by
      split
      · exact h1.tchk ..
      · exact h1
    generalize (if c.lastMain = true then (x.pieceData c).2.tchk c1 else (CopyR.ok c1, none, (x.pieceData c).2)) = p at h2
    split
    · split
      · exact h2
      · split <;> exact h2.engWrFault ..
    · exact h2
  · exact h1

/-! ### The pieces of a transfer (R162) -/

theorem xmitSource (h : Accessed s x) (acc : Acc) (z : Xmit) (n : Nat) : Accessed s (x.xmitSource acc z n).2 := by
  unfold State.xmitSource
  dsimp only
  split
  · exact h
  · split <;> exact h.engReadN ..

theorem xmitPiece (h : Accessed s x) (acc : Acc) (z : Xmit) (stop : Bool) : Accessed s (x.xmitPiece acc z stop).2 := by
  have h1 := h.xmitSource acc z (z.piece stop)
  unfold State.xmitPiece
  dsimp only
  split
  · exact h1
  · exact h1
  · split
    · exact engWrFaults _ h1
    · exact engWrFaults _ h1
    · exact engWriteAll _ _ (engWrFaults _ h1)

theorem askXmit (h : Accessed s x) (acc : Acc) (z : Xmit) : Accessed s (x.askXmit acc z).2 := by
  unfold State.askXmit
  dsimp only
  split
  · split
    · exact h
    · exact h.engSeg ..
  · exact h

/-! ### The operands and the rows of a matrix command (R144, R145, R149) -/

theorem mxRead (h : Accessed s x) (c : MxCmd) (va n : Nat) : Accessed s (x.mxRead c va n).2 := by
  unfold State.mxRead
  dsimp only
  split <;> exact h.engReadN ..

theorem mxRow (h : Accessed s x) (c : MxCmd) (o : MxOp) (r c0 n : Nat) : Accessed s (x.mxRow c o r c0 n).2 := by
  have h1 := h.mxRead c (o.va + r * o.stride + c0 * o.ty.width / 8) (n * o.ty.width / 8)
  unfold State.mxRow
  dsimp only
  split
  · exact h1
  · exact h1
  · split
    · split <;> exact h1.mxRead ..
    · exact h1

theorem mxRows (l : List (Nat × Nat × Nat)) : ∀ {x : State} (c : MxCmd), Accessed s x → Accessed s (x.mxRows c l).2.2 := by
  induction l with
  | nil => exact fun _ h => h
  | cons p l ih =>
    intro x c h
    have h1 : Accessed s (if p.1 = 0 then x.mxRow c c.opB (p.2.2 + p.2.1) 0 64
        else x.mxRow c c.opA p.2.1 p.2.2 (Nat.min 64 (c.f.k.toNat - p.2.2))).2 := by
      split <;> exact h.mxRow ..
    rw [State.mxRows]
    dsimp only
    split
    · exact ih _ h1
    · exact h1
    · exact h1

theorem mxFetch (h : Accessed s x) (c : MxCmd) : Accessed s (x.mxFetch c).2.2 := by
  unfold State.mxFetch
  dsimp only
  split <;> exact mxRows _ _ h

theorem mretWrite {c : MxCmd} (l : List (Nat × List Byte)) : ∀ {x : State} (r : Nat), Accessed s x → Accessed s (x.mretWrite c r l).2.2 := by
  induction l with
  | nil => exact fun _ h => h
  | cons p l ih =>
    intro x r h
    rw [State.mretWrite]
    dsimp only
    split
    · exact ih _ (engWriteAll _ _ (engWrFaults _ h))
    · exact engWrFaults _ h

theorem mxWrites (h : Accessed s x) (c : MxCmd) : Accessed s (x.mxWrites c).2.2 := by
  unfold State.mxWrites
  split
  · exact mretWrite _ _ h
  · exact h

end Sys2Proof.Machine.Accessed
end

section
/-! SUPPORT. What the work of engines, of traps and of freezes leaves alone (R148, R165, R185, R222, R228, R235). -/

set_option Elab.async false

namespace Sys2Proof.Machine

open Claims

/-- The part of the state that no engine, trap or freeze touches, but for memory, column contexts and columns. -/
def State.unworked (s : State) : State := { s.unaccessed with cd := [], cc := [], col := [], eng := [], colls := [], traceQ := [], events := [] }

/-- What of a column context names its place in its launch, with its state. -/
def ColCtx.seat (c : ColCtx) : CtxSt × Nat × Nat × Nat × Nat := (c.st, c.launch, c.team, c.tcol, c.tctx)

/-- What of a column its loan is (R282). -/
def Column.loan (c : Column) : DWord × Option Nat := (c.lendReg, c.recallAt)

/-- `t` is `s` but for contexts, cores, engines and columns, and storage; loans are as they were. -/
structure Kept (s t : State) : Prop where
  rest : t.unworked = s.unworked
  loan : ∀ k, (t.getCol k).loan = (s.getCol k).loan
  wf : Memory.wf s.mem → Memory.wf t.mem
  events : ∀ e ∈ s.events, e ∈ t.events

/-- `t` is such a state, and every column context has its seat. -/
structure Worked (s t : State) : Prop extends Kept s t where
  seat : ∀ k, (t.getCc k).seat = (s.getCc k).seat

theorem Accessed.worked {s t : State} (h : Accessed s t) : Worked s t := by
  obtain ⟨-, -, hcc, hcol, -⟩ := h.unaccessed_eq
  exact ⟨⟨congrArg (fun u : State => { u with cd := [], cc := [], col := [], eng := [], colls := [], traceQ := [], events := [] }) h.rest,
    fun k => by rw [State.getCol, hcol]; rfl, h.wf, fun e he => by have hev : t.events = s.events := (congrArg State.events h.rest :); rw [hev]; exact he⟩,
    fun k => by rw [State.getCc, hcc]; rfl⟩

/-! ### Folds -/

theorem foldl_fst_ind {α β : Type} {P : State → Prop} {f : State × α → β → State × α} (hf : ∀ p b, P p.1 → P (f p b).1) (l : List β) :
    ∀ p : State × α, P p.1 → P (l.foldl f p).1 := by
  induction l with
  | nil => exact fun _ h => h
  | cons b l ih => exact fun p h => ih _ (hf p b h)

theorem foldl_ind {β : Type} {P : State → Prop} {f : State → β → State} (hf : ∀ y b, P y → P (f y b)) (l : List β) : ∀ x : State, P x → P (l.foldl f x) := by
  induction l with
  | nil => exact fun _ h => h
  | cons b l ih => exact fun x h => ih _ (hf x b h)

/-- A fold that collects what each of its steps gives. -/
theorem collect_ind {α β : Type} {P : State → Prop} {g : State → β → State × α} (hg : ∀ y b, P y → P (g y b).1) (l : List β) (x : State) (h : P x) :
    P (l.foldl (fun p b => ((g p.1 b).1, p.2 ++ [(g p.1 b).2])) (x, [])).1 :=
  foldl_fst_ind (f := fun p b => ((g p.1 b).1, p.2 ++ [(g p.1 b).2])) (fun _ _ hp => hg _ _ hp) l (x, []) h

namespace Kept

variable {s x y : State}

theorem refl (s : State) : Kept s s := ⟨rfl, fun _ => rfl, id, fun _ => id⟩

theorem trans (h : Kept s x) (g : Kept x y) : Kept s y := ⟨g.rest.trans h.rest, fun k => (g.loan k).trans (h.loan k), fun w => g.wf (h.wf w), fun e he => g.events e (h.events e he)⟩

theorem of_rest (h : Kept s x) (hr : y.unworked = x.unworked) (hc : y.col = x.col) (hm : y.mem = x.mem)
    (he : ∀ e ∈ x.events, e ∈ y.events := by exact fun _ => id) : Kept s y :=
  ⟨hr.trans h.rest, fun k => by rw [← h.loan k, State.getCol, hc]; rfl, fun w => by rw [hm]; exact h.wf w, fun e hs => he e (h.events e hs)⟩

theorem accessed (h : Kept s x) (g : Accessed x y) : Kept s y := h.trans g.worked.toKept

theorem updCc (h : Kept s x) (k : Nat) (F : ColCtx → ColCtx) : Kept s (x.updCc k F) := h.of_rest rfl rfl rfl

theorem setCc (h : Kept s x) (k : Nat) (c : ColCtx) : Kept s (x.setCc k c) := h.of_rest rfl rfl rfl

theorem updCore (h : Kept s x) (k : Nat) (F : Core → Core) : Kept s (x.updCore k F) := h.of_rest rfl rfl rfl

theorem setCd (h : Kept s x) (k : Nat) (c : CtxDie) : Kept s (x.setCd k c) := by
  unfold State.setCd
  split
  · exact h.of_rest rfl rfl rfl
  · exact h.updCore ..

theorem updCol (h : Kept s x) (k : Nat) {F : Column → Column} (hF : ∀ c, (F c).loan = c.loan) : Kept s (x.updCol k F) := by
  refine ⟨h.rest, fun j => ?_, h.wf, h.events⟩
  rw [← h.loan j]
  by_cases hj : j = k
  · rw [hj, State.getCol_updCol_same, hF]
  · rw [State.getCol_updCol_other _ _ _ _ hj]

/-! ### The column's arbiter and a team's pairs (R88 to R90, R246, R248) -/

theorem traceFrom (h : Kept s x) (cc : Nat) (rec : List Byte) : Kept s (x.traceFrom cc rec) := h.of_rest rfl rfl rfl

theorem eventRecord (h : Kept s x) (cc sub die : Nat) : Kept s (x.eventRecord cc sub die) := by
  unfold State.eventRecord
  split
  · exact h.traceFrom ..
  · exact h

theorem activate (h : Kept s x) (col k from_ : Nat) : Kept s (x.activate col k from_) := by
  unfold State.activate
  exact (h.updCc ..).updCol _ fun _ => rfl

theorem noteAges (h : Kept s x) (col : Nat) : Kept s (x.noteAges col) := h.updCol _ fun _ => rfl

theorem decide (h : Kept s x) (col from_ : Nat) : Kept s (x.decide col from_) := by
  unfold State.decide
  dsimp only
  split
  · exact (h.noteAges _).updCol _ fun _ => rfl
  · split
    · exact h.noteAges _
    · refine (Kept.activate (Kept.updCol (h.noteAges _) _ fun _ => ?_) ..).eventRecord ..
      rfl

theorem leftActive (h : Kept s x) (col k from_ : Nat) : Kept s (x.leftActive col k from_) := by
  have h1 : Kept s (x.updCol col fun c => { c with last := k }) := h.updCol _ fun _ => rfl
  unfold State.leftActive
  dsimp only
  split
  · split
    · exact h1.activate ..
    · exact h1.decide ..
  · exact h1.decide ..

theorem freePair (h : Kept s x) (col l : Nat) : Kept s (x.freePair col l) := by
  unfold State.freePair
  split
  · exact h
  · exact h.updCol _ fun _ => rfl

theorem afterFreeze (h : Kept s x) (col : Nat) (act : Option Nat) (launches : List Nat) : Kept s (x.afterFreeze col act launches) := by
  have h1 : Kept s (launches.foldl (fun s l => s.freePair col l) x) := foldl_ind (fun _ _ hy => hy.freePair ..) _ _ h
  unfold State.afterFreeze
  dsimp only
  split
  · exact h1.leftActive ..
  · exact h1

end Kept

namespace Worked

variable {s x y : State}

theorem refl (s : State) : Worked s s := ⟨Kept.refl s, fun _ => rfl⟩

theorem trans (h : Worked s x) (g : Worked x y) : Worked s y := ⟨h.toKept.trans g.toKept, fun k => (g.seat k).trans (h.seat k)⟩

theorem of_rest (h : Worked s x) (hr : y.unworked = x.unworked) (hc : y.col = x.col) (hcc : y.cc = x.cc) (hm : y.mem = x.mem)
    (he : ∀ e ∈ x.events, e ∈ y.events := by exact fun _ => id) : Worked s y :=
  ⟨h.toKept.of_rest hr hc hm he, fun k => by rw [← h.seat k, State.getCc, hcc]; rfl⟩

theorem accessed (h : Worked s x) (g : Accessed x y) : Worked s y := h.trans g.worked

/-! ### Single updates -/

theorem updCore (h : Worked s x) (k : Nat) (F : Core → Core) : Worked s (x.updCore k F) := h.of_rest rfl rfl rfl rfl

theorem setCore (h : Worked s x) (k : Nat) (c : Core) : Worked s (x.setCore k c) := h.of_rest rfl rfl rfl rfl

theorem setCd (h : Worked s x) (k : Nat) (c : CtxDie) : Worked s (x.setCd k c) := by
  unfold State.setCd
  split
  · exact h.of_rest rfl rfl rfl rfl
  · exact h.updCore ..

theorem updCd (h : Worked s x) (k : Nat) (F : CtxDie → CtxDie) : Worked s (x.updCd k F) := h.setCd ..

theorem updCc (h : Worked s x) (k : Nat) {F : ColCtx → ColCtx} (hF : ∀ c, (F c).seat = c.seat) : Worked s (x.updCc k F) := by
  refine ⟨h.toKept.updCc .., fun j => ?_⟩
  rw [← h.seat j, State.updCc]
  by_cases hj : j = k
  · rw [hj, State.getCc_setCc_same, hF]
  · rw [State.getCc_setCc_other _ _ _ _ hj]

theorem updCol (h : Worked s x) (k : Nat) {F : Column → Column} (hF : ∀ c, (F c).loan = c.loan) : Worked s (x.updCol k F) := ⟨h.toKept.updCol k hF, h.seat⟩

theorem updEng (h : Worked s x) (k : Nat) (F : Eng → Eng) : Worked s (x.updEng k F) := h.of_rest rfl rfl rfl rfl

theorem posted (h : Worked s x) (l : List Posted) : Worked s { x with posted := l } := h.accessed ((Accessed.refl x).posted l)

theorem dropPod (h : Worked s x) (cmd : Nat) : Worked s (x.dropPod cmd) := h.accessed ((Accessed.refl x).dropPod cmd)

theorem traceFrom (h : Worked s x) (cc : Nat) (rec : List Byte) : Worked s (x.traceFrom cc rec) := h.of_rest rfl rfl rfl rfl

theorem signal (h : Worked s x) (core sem : Nat) (inc : Int) : Worked s (x.signal core sem inc) := by
  unfold State.signal
  split
  · exact h
  · exact h.updCore ..

theorem cmdSignal (h : Worked s x) (cmd core sem : Nat) (inc : Int) : Worked s (x.cmdSignal cmd core sem inc) := (h.posted _).signal ..

theorem setTrap_seat (c : ColCtx) (recs : List (Nat × FRec)) : (c.setTrap recs).seat = c.seat := rfl

theorem addFault_seat (c : ColCtx) (clk d : Nat) (r : FRec) : (c.addFault clk d r).seat = c.seat := by
  unfold ColCtx.addFault
  split
  · split
    · split
      · exact setTrap_seat ..
      · rfl
    · exact setTrap_seat ..
  · rfl

theorem asyncFault (h : Worked s x) (ck : Nat) (r : FRec) (seq : Nat) : Worked s (x.asyncFault ck r seq) := h.updCc _ fun _ => addFault_seat ..

theorem untrack (h : Worked s x) (core uid : Nat) : Worked s (x.untrack core uid) := h.updCore ..

/-! ### Copy commands (R129, R140, R235) -/

theorem updChan (h : Worked s x) (core ch : Nat) (f : Channel → Channel) : Worked s (x.updChan core ch f) := h.updCore ..

theorem addMoved (h : Worked s x) (core k n : Nat) : Worked s (x.addMoved core k n) := h.updCore ..

theorem landPiece (h : Worked s x) (core ch : Nat) (c : CopyCmd) : Worked s (x.landPiece core ch c) := by
  unfold State.landPiece
  dsimp only
  refine Worked.updChan ?_ ..
  have h1 : Worked s (if c.pieceLen = 0 then x else if c.stream = 0 then
      x.engWrite c.ck .cp (c.dva c.done) (c.out.take c.pieceLen) (lostRec c.bundle c.ident ch) (c.poster ch x.clock)
      else x.updStream c fun q => q.append (c.out.take c.pieceLen)) := by
    split
    · exact h
    split
    · exact h.accessed ((Accessed.refl x).engWrite ..)
    · exact h.updCd ..
  generalize (if c.pieceLen = 0 then x else _ : State) = x1 at h1
  have h2 : Worked s ((if c.localDst then x1.addMoved core 4 c.pieceLen else x1).addMoved core ch c.pieceLen) := by
    refine Worked.addMoved ?_ ..
    split
    · exact h1.addMoved ..
    · exact h1
  split
  · exact h2.signal ..
  · exact h2

theorem copyEnd (h : Worked s x) (core ch : Nat) (c : CopyCmd) (ok : Bool) : Worked s (x.copyEnd core ch c ok) := by
  have h1 : Worked s (((x.updChan core ch fun x => { x with q := x.q.drop 1 }.refresh).untrack core c.uid).dropPod c.uid) :=
    ((h.updChan ..).untrack ..).dropPod ..
  unfold State.copyEnd
  dsimp only
  split
  · exact h1.cmdSignal ..
  · exact h1

theorem trailerFault (h : Worked s x) (core ch : Nat) (c : CopyCmd) (z : Nat × Nat) : Worked s (x.trailerFault core ch c z) := (h.copyEnd ..).asyncFault ..

theorem flushStream (h : Worked s x) (c : CopyCmd) : Worked s (x.flushStream c) := by
  unfold State.flushStream
  split
  · exact h
  · exact h.updCd ..

theorem copyForce (h : Worked s x) {core ch : Nat} {c : CopyCmd} (e : x.copyForce core ch c = some y) : Worked s y := by
  unfold State.copyForce at e
  split at e
  · cases e
  split at e
  · rename_i c1 z x1 h1
    cases e
    exact (h.accessed (((Accessed.refl x).nextPiece c).of_triple h1)).trailerFault ..
  · rename_i c1 x1 h1
    have hx := (h.accessed (((Accessed.refl x).nextPiece c).of_triple h1)).landPiece core ch c1
    cases e
    split
    · exact hx
    · exact (hx.flushStream _).copyEnd ..
  · cases e

theorem copyToUnit {core ch uid : Nat} (n : Nat) : ∀ {x : State}, Worked s x → Worked s (x.copyToUnit core ch uid n) := by
  induction n with
  | zero => exact fun h => h
  | succ n ih =>
    intro x h
    rw [State.copyToUnit]
    split
    · split
      · split
        · rename_i t ht
          exact ih (h.copyForce ht)
        · exact h
      · exact h
    · exact h

theorem scalesEarly (h : Worked s x) (ch : Nat) (c : CopyCmd) : Worked s (x.scalesEarly ch c) := by
  unfold State.scalesEarly
  split
  · exact h.accessed (Accessed.engWriteAll _ _ (Accessed.refl x))
  · exact h

theorem chkStop (h : Worked s x) (c : CopyCmd) : Worked s (x.chkStop c).2 := by
  unfold State.chkStop
  split
  · exact h
  · dsimp only
    split
    · exact h.accessed ((Accessed.refl x).engReadN ..)
    · exact h

theorem stopHead (h : Worked s x) (core ch : Nat) (c : CopyCmd) : Worked s (x.stopHead core ch c) := by
  unfold State.stopHead
  split
  · exact h
  split
  · exact (h.chkStop c).updChan ..
  · have h1 := copyToUnit (core := core) (ch := ch) (uid := c.uid) (c.total + 2) h
    dsimp only
    split
    · split
      · exact h1.scalesEarly ..
      · exact h1
    · exact h1

theorem quiesceChan (h : Worked s x) (core ck ch : Nat) : Worked s (x.quiesceChan core ck ch).2 := by
  unfold State.quiesceChan
  dsimp only
  refine foldl_ind (P := Worked s) (fun y c hy => (hy.untrack ..).dropPod ..) _ _ ((Worked.updChan ?_ ..).updCore ..)
  split
  · split
    · exact h.stopHead ..
    · exact h
  · exact h

/-! ### Transfers (R162, R165) -/

theorem xmitMove (h : Worked s x) (acc : Acc) (z : Xmit) (stop : Bool) : Worked s (x.xmitMove acc z stop).2.2 := by
  unfold State.xmitMove
  have hx1 := h.accessed ((Accessed.refl x).xmitPiece acc z stop)
  dsimp only
  split
  · split
    · exact (hx1.dropPod ..).cmdSignal ..
    · exact hx1
  · exact hx1
  · exact (hx1.dropPod ..).asyncFault ..

theorem xmitStop (h : Worked s x) (acc : Acc) (z : Xmit) : Worked s (x.xmitStop acc z).2 := by
  unfold State.xmitStop
  split
  · exact h
  · exact h.xmitMove ..

theorem quiesceDirect (h : Worked s x) (core ck : Nat) : Worked s (x.quiesceDirect core ck).2 := by
  unfold State.quiesceDirect
  dsimp only
  refine foldl_ind (P := Worked s) (fun y z hy => hy.dropPod ..) _ _ (Worked.updCore ?_ ..)
  split
  · split
    · exact (h.xmitStop ..).updCore ..
    · exact h
  · exact h

theorem updCirc (h : Worked s x) (e n : Nat) (f : Circ → Circ) : Worked s (x.updCirc e n f) := h.updEng ..

theorem updMember (h : Worked s x) (k rank : Nat) (f : CollMember → CollMember) : Worked s (x.updMember k rank f) := h.of_rest rfl rfl rfl rfl

theorem dropCirc (h : Worked s x) (e n : Nat) (c : Circ) : Worked s (x.dropCirc e n c) := by
  unfold State.dropCirc
  dsimp only
  refine foldl_ind (P := Worked s) (fun y z hy => hy.dropPod ..) _ _ ?_
  split
  · exact (h.updEng ..).updMember ..
  · exact h.updEng ..

theorem stopEng (h : Worked s x) (ck e : Nat) : Worked s (x.stopEng ck e) := by
  unfold State.stopEng
  refine foldl_ind (P := Worked s) (fun y z hy => ?_) _ _ h
  split
  · split
    · split
      · exact (hy.xmitStop ..).updCirc ..
      · exact hy
    · exact hy
  · exact hy

theorem quiesceEng (h : Worked s x) (ck : Nat) (e : Nat × Nat) : Worked s (x.quiesceEng ck e).2 := by
  unfold State.quiesceEng
  exact foldl_ind (P := Worked s) (fun y z hy => hy.dropCirc ..) _ _ (h.stopEng ..)

/-! ### The matrix engine and the envelope unit (R147, R148, R185) -/

theorem mxPop (h : Worked s x) (core : Nat) (c : MxCmd) : Worked s (x.mxPop core c) := by
  unfold State.mxPop State.clearBusy
  exact ((h.updCore ..).untrack ..).updCd ..

theorem mxResults (h : Worked s x) (c : MxCmd) : Worked s (x.mxResults c) := by
  unfold State.mxResults
  split
  · exact h
  · exact h.updCd ..

theorem quiesceMx (h : Worked s x) (core ck : Nat) : Worked s (x.quiesceMx core ck).2 := by
  unfold State.quiesceMx
  dsimp only
  refine foldl_ind (P := Worked s) (fun y c hy => (hy.untrack ..).dropPod ..) _ _ (Worked.setCore ?_ ..)
  split
  · split
    · exact ((h.mxResults _).mxPop ..).cmdSignal ..
    · exact h
  · exact h

theorem setEnan (h : Worked s x) (e : EvOp) : Worked s (x.setEnan e) := by
  unfold State.setEnan
  exact h.updCd ..

/-- R185: what an operation without a fault writes. -/
theorem evWrites (h : Worked s x) (core : Nat) (e : EvOp) (hbad : e.bad = none) : Worked s (x.evWrites core e) := by
  unfold State.evWrites
  rw [hbad]
  dsimp only
  have h1 : Worked s (match e.res, evDest e.op with
      | some r, some n => x.updCd e.ck fun c => { c with
          ws := { c.ws with e := SMap.set Env.launch c.ws.e n r }, dup := if e.pre then { c.dup with e := SMap.set Env.launch c.dup.e n r } else c.dup }
      | _, _ => x) := by
    split
    · exact h.updCd ..
    · exact h
  split
  · exact h1.setEnan _
  · exact h1

theorem quiesceEv (h : Worked s x) (core ck : Nat) : Worked s (x.quiesceEv core ck).2 := by
  unfold State.quiesceEv
  dsimp only
  refine Worked.updCore ?_ ..
  split
  · exact (h.evWrites _ _ rfl).updCore ..
  · exact h

theorem quiesceDie (h : Worked s x) (sv : SavedCtx) (d : Nat) : Worked s (x.quiesceDie sv d).1 := by
  unfold State.quiesceDie
  dsimp only
  have h1 : ∀ p : State × List (Nat × Nat × CopyCmd), Worked s p.1 → Worked s ([0, 1, 2, 3].foldl (fun p ch =>
      ((p.1.quiesceChan (coreKey d sv.col) (ctxKey d sv.col sv.ctx) ch).2,
        p.2 ++ (p.1.quiesceChan (coreKey d sv.col) (ctxKey d sv.col sv.ctx) ch).1.map fun c => (d, ch, c))) p).1 :=
    foldl_fst_ind (P := Worked s) (fun p ch hp => hp.quiesceChan ..) _
  have h2 := (h1 (x, []) h).quiesceDirect (coreKey d sv.col) (ctxKey d sv.col sv.ctx)
  have h3 : ∀ p : State × List (Nat × Xmit), Worked s p.1 → Worked s ((coreEngs d sv.col).foldl (fun p e =>
      ((p.1.quiesceEng (ctxKey d sv.col sv.ctx) e).2, p.2 ++ (p.1.quiesceEng (ctxKey d sv.col sv.ctx) e).1)) p).1 :=
    foldl_fst_ind (P := Worked s) (fun p e hp => hp.quiesceEng ..) _
  refine Worked.updCore (Worked.quiesceEv (Worked.quiesceMx ?_ _ _) _ _) _ _
  refine h3 _ ?_
  dsimp only
  exact h2

end Worked

end Sys2Proof.Machine
end

section
/-! SUPPORT. What traps and freezes leave alone (R212, R219, R222, R228, R234), and what recalls a column (R282). -/

set_option Elab.async false

namespace Sys2Proof.Machine

open Claims

namespace Worked

variable {s x y : State}

/-! ### Landing and rollback (R79, R219, R222) -/

theorem landOne (h : Worked s x) (ck : Nat) (p : Pend) : Worked s (x.landOne ck p) := by
  unfold State.landOne
  split
  · exact h.asyncFault ..
  · exact (h.updCd ..).signal ..

theorem landAll (h : Worked s x) (ck : Nat) (f : Pend → Bool) : Worked s (x.landAll ck f) :=
  foldl_ind (P := Worked s) (fun _ _ hy => hy.landOne ..) _ _ (h.updCd ..)

theorem rollbackDie (h : Worked s x) (ck : Nat) : Worked s (x.rollbackDie ck) := by
  unfold State.rollbackDie
  exact ((h.landAll ..).setCd ..).updCore ..

theorem rollback (h : Worked s x) (cc : Nat) : Worked s (x.rollback cc) := by
  unfold State.rollback
  exact Worked.updCc (foldl_ind (P := Worked s) (fun _ _ hy => hy.rollbackDie ..) _ _ h) _ fun _ => rfl

/-! ### Entry into a handler (R212) -/

theorem startReel (h : Worked s x) (cc cur target : Nat) : Worked s (x.startReel cc cur target) := by
  unfold State.startReel
  split
  · exact h
  · dsimp only
    split
    · exact h
    · exact Worked.updCol (h.accessed ((Accessed.refl x).resolve ..)) _ fun _ => rfl

theorem enterHandler (h : Worked s x) (cc : Nat) (recs : List (Nat × FRec)) (tv : DWord) : Worked s (x.enterHandler cc recs tv) := by
  unfold State.enterHandler
  refine Worked.startReel ?_ _ _ _
  refine Worked.updCc ?_ _ fun _ => rfl
  exact foldl_ind (P := Worked s) (fun _ _ hy => hy.updCd ..) _ _ h

theorem takeTrap (h : Worked s x) (cc : Nat) (recs : List (Nat × FRec)) : Worked s (x.takeTrap cc recs) := by
  have h1 := h.rollback cc
  unfold State.takeTrap
  dsimp only
  generalize x.rollback cc = x1 at h1 ⊢
  split
  · split
    · refine Worked.enterHandler ?_ _ _ _
      have h2 : Worked s (x1.updCc cc fun c => { c with trap := [], trapSys := false }) := h1.updCc _ fun _ => rfl
      generalize (x1.updCc cc fun c => { c with trap := [], trapSys := false } : State) = x2 at h2 ⊢
      exact h2.of_rest rfl rfl rfl rfl
    · exact h1.updCc _ fun _ => rfl
  · exact h1.updCc _ fun _ => rfl

theorem tryTrap (h : Worked s x) (cc : Nat) : Worked s (x.tryTrap cc) := by
  unfold State.tryTrap
  dsimp only
  split
  · exact h
  · exact h.takeTrap ..

theorem raise (h : Worked s x) (cc : Nat) (l : List (Nat × FRec)) : Worked s (x.raise cc l) := by
  unfold State.raise
  dsimp only
  split
  · exact h
  split
  · exact h.of_rest rfl rfl rfl rfl fun _ he => List.mem_append_left _ he
  · exact h.updCc _ fun _ => rfl

theorem takeFaults (h : Worked s x) (cc : Nat) : Worked s (x.takeFaults cc) := by
  unfold State.takeFaults
  dsimp only
  refine Worked.raise ?_ _ _
  exact h.updCc _ fun _ => rfl

/-! ### Records of the profile (R289, R293) -/

theorem eventRecord (h : Worked s x) (cc sub die : Nat) : Worked s (x.eventRecord cc sub die) := by
  unfold State.eventRecord
  split
  · exact h.traceFrom ..
  · exact h

theorem accRecord (h : Worked s x) (cc kind sub : Nat) (a : ProfAcc) (baddr : DWord) : Worked s (x.accRecord cc kind sub a baddr) := h.traceFrom ..

theorem endAccs (h : Worked s x) (cc : Nat) : Worked s (x.endAccs cc) := by
  unfold State.endAccs
  dsimp only
  refine Worked.updCc ?_ _ fun _ => rfl
  have h1 : Worked s (if bits (x.prfctl cc) 0 1 = 1 then x.accRecord cc 1 1 (x.getCc cc).loop (x.getCc cc).loop.last else x) := by
    split
    · exact h.accRecord ..
    · exact h
  split
  · exact h1.accRecord ..
  · exact h1

theorem beforeFreeze (h : Worked s x) (reason cc : Nat) : Worked s (x.beforeFreeze reason cc) := by
  unfold State.beforeFreeze
  dsimp only
  refine (Worked.endAccs ?_ _).eventRecord ..
  split
  · exact h
  · refine Worked.tryTrap ?_ _
    split
    · exact h.takeFaults _
    · exact h

/-! ### Capture (R228, R230) -/

theorem writeTable {cc : Nat} (is : List Instr) : ∀ {x : State} (first : Nat), Worked s x → Worked s (x.writeTable cc first is) := by
  induction is with
  | nil => exact fun _ h => h
  | cons i is ih => exact fun _ h => ih _ (h.updCc _ fun _ => rfl)

theorem cwDone (h : Worked s x) (cc : Nat) : Worked s (x.cwDone cc) := by
  unfold State.cwDone
  dsimp only
  split
  · split
    · exact (writeTable _ _ h).updCc _ fun _ => rfl
    · exact h
  · exact h

theorem captureDie (h : Worked s x) (sv : SavedCtx) (d : Nat) : Worked s (x.captureDie sv d).1 := h.setCd ..

theorem captureShared (h : Worked s x) (sv : SavedCtx) (banks cks : List Nat) (d : Nat) : Worked s (x.captureShared sv banks cks d).1 := h.setCore ..

end Worked

/-! ### A column's contexts captured (R228) -/

/-- R234: a column's contexts before they are captured. -/
def State.stopped (s : State) (col : Nat) (ks : List Nat) (reason : Nat) : State :=
  (ks.foldl (fun s k => s.beforeFreeze reason (ccKey col k)) s).updCol col fun c => { c with dbg := 0 }

/-- The engines of a context stopped on every die. -/
def State.quiesceCtx (s : State) (sv : SavedCtx) : State × SavedCtx := (s.frzDies sv.col sv.ctx).foldl (fun q d => q.1.quiesceDie q.2 d) (s, sv)

def State.quiesceAll (s : State) (clk col : Nat) (ks : List Nat) (reason : Nat) : State × List SavedCtx :=
  ks.foldl (fun p k => ((p.1.quiesceCtx (SavedCtx.start col k clk reason)).1, p.2 ++ [(p.1.quiesceCtx (SavedCtx.start col k clk reason)).2])) (s, [])

/-- The core-shared state recorded with one saved context, where it takes it (R230). -/
def shareCtx (cks : List Nat) (takes : SavedCtx → Bool) (banks : SavedCtx → List Nat) (dies : SavedCtx → List Nat)
    (p : State × List SavedCtx) (sv : SavedCtx) : State × List SavedCtx :=
  if takes sv then
    (((dies sv).foldl (fun q d => q.1.captureShared q.2 (banks sv) cks d) (p.1, sv)).1,
      p.2 ++ [((dies sv).foldl (fun q d => q.1.captureShared q.2 (banks sv) cks d) (p.1, sv)).2])
  else (p.1, p.2 ++ [sv])

def State.shareAll (s : State) (col : Nat) (ks cks : List Nat) (svs : List SavedCtx) : State × List SavedCtx :=
  svs.foldl (shareCtx cks (fun sv => s.takesShared col ks sv.ctx) (fun sv => ((s.kernelOf (ccKey col sv.ctx)).map (·.banks)).getD [])
    fun sv => s.frzDies col sv.ctx) (s, [])

def State.captureAll (s : State) (svs : List SavedCtx) : State × List SavedCtx :=
  svs.foldl (fun p sv => ((p.1.captureCtx sv).1, p.2 ++ [(p.1.captureCtx sv).2])) (s, [])

theorem State.captureCol_eq (s : State) (col : Nat) (ks : List Nat) (reason : Nat) : s.captureCol col ks reason =
    let s := s.stopped col ks reason
    let q := s.quiesceAll s.clock col ks reason
    let cks := ks.flatMap fun k => (q.1.frzDies col k).map fun d => ctxKey d col k
    let r := q.1.shareAll col ks cks q.2
    r.1.captureAll r.2 := rfl

namespace Worked

variable {s x : State}

theorem stopped (h : Worked s x) (col : Nat) (ks : List Nat) (reason : Nat) : Worked s (x.stopped col ks reason) := by
  unfold State.stopped
  refine Worked.updCol ?_ _ fun _ => rfl
  exact foldl_ind (P := Worked s) (fun y k hy => hy.beforeFreeze ..) _ _ h

theorem quiesceCtx (h : Worked s x) (sv : SavedCtx) : Worked s (x.quiesceCtx sv).1 :=
  foldl_fst_ind (P := Worked s) (fun _ _ hq => hq.quiesceDie ..) _ _ h

theorem quiesceAll (h : Worked s x) (clk col : Nat) (ks : List Nat) (reason : Nat) : Worked s (x.quiesceAll clk col ks reason).1 :=
  collect_ind (P := Worked s) (g := fun y k => y.quiesceCtx (SavedCtx.start col k clk reason)) (fun _ _ hy => hy.quiesceCtx _) _ _ h

theorem shareAll (h : Worked s x) (col : Nat) (ks cks : List Nat) (svs : List SavedCtx) : Worked s (x.shareAll col ks cks svs).1 := by
  refine foldl_fst_ind (P := Worked s) (fun p sv hp => ?_) _ _ h
  unfold shareCtx
  split
  · exact foldl_fst_ind (P := Worked s) (fun _ _ hq => hq.captureShared ..) _ _ hp
  · exact hp

end Worked

namespace Kept

variable {s x y : State}

theorem worked (h : Kept s x) (g : Worked x y) : Kept s y := h.trans g.toKept

theorem captureCtx (h : Kept s x) (sv : SavedCtx) : Kept s (x.captureCtx sv).1 := by
  unfold State.captureCtx
  refine Kept.setCc ?_ _ _
  exact foldl_fst_ind (P := Kept s) (fun p d hp => hp.setCd ..) _ _ (h.worked ((Worked.refl x).cwDone _))

theorem captureAll (h : Kept s x) (svs : List SavedCtx) : Kept s (x.captureAll svs).1 :=
  collect_ind (P := Kept s) (g := State.captureCtx) (fun _ _ hy => hy.captureCtx _) _ _ h

theorem captureCol (h : Kept s x) (col : Nat) (ks : List Nat) (reason : Nat) : Kept s (x.captureCol col ks reason).1 := by
  rw [State.captureCol_eq]
  refine Kept.captureAll (h.worked ?_) _
  exact (((Worked.refl x).stopped ..).quiesceAll ..).shareAll ..

end Kept

end Sys2Proof.Machine
end

section
/-! SUPPORT. The power controller (R281), columns lent and recalled (R282), migrations (R283). -/

set_option Elab.async false

namespace Sys2Proof.Machine

open Claims

section

variable {s : State}

/-! ### Power (R281) -/

@[simp] theorem State.getPart_updPart_same (s : State) (k : Nat) (F : Part → Part) : (s.updPart k F).getPart k = F (s.getPart k) := SMap.get_set_same ..

theorem State.getPart_updPart_other (s : State) {k j : Nat} (F : Part → Part) (h : j ≠ k) : (s.updPart k F).getPart j = s.getPart j :=
  SMap.get_set_other _ _ _ _ _ h

/-- R281: the tick of a controller: the power that it measures, and the class that it moves to. -/
def State.ticks (s : State) (p : Nat) (w : Half) : State :=
  if s.assisted 6 || !controlClock s.clock || (s.getPart p).ticked = s.clock + 1 then s.updPart p fun x => { x with pwr := w }
  else (s.updPart p fun x => { x with pwr := w }).updPart p fun x => { x with
    fcur := nextClass x.fcur x.capw.toNat x.pwr.toNat (s.askedClasses p), ticked := s.clock + 1 }

theorem powerControlTick_eq {p : Nat} (w : Half) (hp : p < 32) : exec (.powerControlTick p w) s = .next (s.ticks p w) := by
  have hticked : ((s.updPart p fun x => { x with pwr := w }).getPart p).ticked = (s.getPart p).ticked := by rw [State.getPart_updPart_same]
  change execPowerControlTick p w s = _
  unfold execPowerControlTick
  rw [if_neg (by omega)]
  dsimp only
  rw [hticked]
  rfl

theorem ticks_idle {p : Nat} {w : Half} (h : s.mgmt.getLsbD 12 = true ∨ controlClock s.clock = false) :
    s.ticks p w = s.updPart p fun x => { x with pwr := w } := by
  rw [State.ticks, if_pos]
  rcases h with h | h
  · rw [State.assisted_iff, h]
    rfl
  · rw [h]
    simp

theorem ticks_fcur {p : Nat} {w : Half} (hmode : s.mgmt.getLsbD 12 = false) (hclk : controlClock s.clock = true) (ht : (s.getPart p).ticked ≠ s.clock + 1) :
    ((s.ticks p w).getPart p).fcur = nextClass (s.getPart p).fcur (s.getPart p).capw.toNat w.toNat (s.askedClasses p) := by
  rw [State.ticks, if_neg, State.getPart_updPart_same, State.getPart_updPart_same]
  rw [State.assisted_iff, hmode, hclk]
  simpa using ht

theorem ticks_part {p : Nat} {w : Half} : { s.ticks p w with parts := s.parts } = s ∧ (∀ j ≠ p, (s.ticks p w).getPart j = s.getPart j) ∧
    ((s.ticks p w).getPart p).pwr = w := by
  unfold State.ticks
  split
  · exact ⟨rfl, fun j hj => State.getPart_updPart_other _ _ hj, by rw [State.getPart_updPart_same]⟩
  · refine ⟨rfl, fun j hj => ?_, ?_⟩
    · rw [State.getPart_updPart_other _ _ hj, State.getPart_updPart_other _ _ hj]
    · rw [State.getPart_updPart_same, State.getPart_updPart_same]

/-- R281: the class that a controller moves to. -/
theorem nextClass_uncapped {cur pwr : Nat} {asked : List Nat} (h : asked ≠ []) : nextClass cur 0 pwr asked =
    if asked.foldl Nat.min 8 < cur then cur - 1 else if cur < asked.foldl Nat.min 8 then cur + 1 else cur := by
  rw [nextClass, if_pos rfl, if_neg (by simpa using h)]

theorem nextClass_capped {cur cap pwr : Nat} {asked : List Nat} (h : 0 < cap) : nextClass cur cap pwr asked =
    if cap < pwr then Nat.min 7 (cur + 1) else if 10 * pwr < 9 * cap ∧ asked.foldl Nat.min 8 < cur then cur - 1 else cur := by
  rw [nextClass, if_neg (by omega)]
  simp only [Bool.and_eq_true, decide_eq_true_eq, gt_iff_lt]

theorem powerControlTick_does (p : Nat) (w : Half) (hp : p < 32) : ∃ t, exec (.powerControlTick p w) s = .next t ∧ { t with parts := s.parts } = s ∧
    (∀ j ≠ p, t.getPart j = s.getPart j) ∧ (t.getPart p).pwr = w ∧
    (s.mgmt.getLsbD 12 = true ∨ controlClock s.clock = false → (t.getPart p).fcur = (s.getPart p).fcur) ∧
    (s.mgmt.getLsbD 12 = false → controlClock s.clock = true → (s.getPart p).ticked ≠ s.clock + 1 →
      let cur := (s.getPart p).fcur
      let cap := (s.getPart p).capw.toNat
      let want := (s.askedClasses p).foldl Nat.min 8
      (cap = 0 → s.askedClasses p ≠ [] → (want < cur → (t.getPart p).fcur = cur - 1) ∧ (cur < want → (t.getPart p).fcur = cur + 1) ∧
        (cur = want → (t.getPart p).fcur = cur)) ∧
      (0 < cap → cap < w.toNat → (t.getPart p).fcur = Nat.min 7 (cur + 1)) ∧
      (0 < cap → 10 * w.toNat < 9 * cap → want < cur → (t.getPart p).fcur = cur - 1) ∧
      (0 < cap → 9 * cap ≤ 10 * w.toNat → w.toNat ≤ cap → (t.getPart p).fcur = cur)) := by
  obtain ⟨hrest, hother, hpwr⟩ := ticks_part (s := s) (p := p) (w := w)
  refine ⟨_, powerControlTick_eq w hp, hrest, hother, hpwr, fun h => ?_, fun hmode hclk ht => ?_⟩
  · rw [ticks_idle h, State.getPart_updPart_same]
  · dsimp only
    rw [ticks_fcur hmode hclk ht]
    refine ⟨fun hcap hask => ?_, fun hcap hw => ?_, fun hcap hw hwant => ?_, fun hcap hw hle => ?_⟩
    · rw [hcap, nextClass_uncapped hask]
      exact ⟨fun h => if_pos h, fun h => by rw [if_neg (by omega), if_pos h], fun h => by rw [if_neg (by omega), if_neg (by omega)]⟩
    · rw [nextClass_capped hcap, if_pos hw]
    · rw [nextClass_capped hcap, if_neg (by omega), if_pos ⟨hw, hwant⟩]
    · rw [nextClass_capped hcap, if_neg (by omega), if_neg (by omega)]

/-! ### Columns lent (R282) -/

/-- R282: the register that a write of LENDc leaves. -/
def lendOf (lent : Bool) (v : DWord) : DWord := BitVec.ofNat 64 ((if lent then 2 ^ 63 else 0) + bits v.toNat 48 5 * 2 ^ 48 + bits v.toNat 0 32)

theorem getLsbD_lendOf (lent : Bool) (v : DWord) {i : Nat} (hi : i < 64) : (lendOf lent v).getLsbD i =
    if i = 63 then lent else ((decide (i < 32) || (decide (48 ≤ i) && decide (i < 53))) && v.getLsbD i) := by
  have hb : bits v.toNat 0 32 < 2 ^ 48 := Nat.lt_of_lt_of_le (Nat.mod_lt _ (by decide)) (by decide)
  have ha : bits v.toNat 48 5 < 2 ^ 15 := Nat.lt_of_lt_of_le (Nat.mod_lt _ (by decide)) (by decide)
  have hform : (if lent then 2 ^ 63 else 0) + bits v.toNat 48 5 * 2 ^ 48 + bits v.toNat 0 32 =
      2 ^ 48 * (2 ^ 15 * lent.toNat + bits v.toNat 48 5) + bits v.toNat 0 32 := by
    cases lent <;> simp <;> omega
  rw [lendOf, hform, BitVec.getLsbD_ofNat, Nat.testBit_two_pow_mul_add _ hb, Nat.testBit_two_pow_mul_add _ ha, bits, bits, Nat.testBit_mod_two_pow,
    Nat.testBit_mod_two_pow, Nat.testBit_div_two_pow, Nat.testBit_div_two_pow]
  simp only [hi, decide_true, Bool.true_and, Nat.add_zero]
  by_cases h48 : i < 48
  · rw [if_pos h48, if_neg (by omega)]
    have : decide (48 ≤ i) = false := by simp; omega
    rw [this, Bool.false_and, Bool.or_false]
    rfl
  · rw [if_neg h48]
    have h32 : decide (i < 32) = false := by simp; omega
    have hle : decide (48 ≤ i) = true := by simp; omega
    by_cases h63 : i = 63
    · subst h63
      cases lent <;> rfl
    · rw [if_neg h63, if_pos (by omega), h32, hle, show i - 48 + 48 = i by omega, Bool.false_or, Bool.true_and]
      congr 1
      simp only [decide_eq_decide]
      omega

theorem lendOf_fields (lent : Bool) (v : DWord) : lendOf lent v &&& 0x7FFFFFFFFFFFFFFF#64 = v &&& 0x001F0000FFFFFFFF#64 := by
  have h1 : ∀ i : Fin 64, (0x7FFFFFFFFFFFFFFF#64).getLsbD i = decide (i.val ≠ 63) := by decide
  have h2 : ∀ i : Fin 64, (0x001F0000FFFFFFFF#64).getLsbD i = (decide (i.val < 32) || (decide (48 ≤ i.val) && decide (i.val < 53))) := by decide
  refine BitVec.eq_of_getLsbD_eq fun i hi => ?_
  rw [BitVec.getLsbD_and, BitVec.getLsbD_and, getLsbD_lendOf lent v hi, h1 ⟨i, hi⟩, h2 ⟨i, hi⟩]
  by_cases h63 : i = 63
  · subst h63
    simp
  · rw [if_neg h63, Bool.and_comm (v.getLsbD i)]
    simp [h63]

/-- R282: a context of the column's own partition. -/
def State.owns (s : State) (col k : Nat) : Prop :=
  (s.getCc (ccKey col k)).st ≠ .free ∧ (s.launch? (s.getCc (ccKey col k)).launch).map (·.part) = some (s.partOfCol col)

theorem lendLent_does {col : Nat} (v : DWord) (hcol : col < 32) (hmode : s.mgmt.getLsbD 7 = true) : ∃ t, exec (.lendLent col v) s = .next t ∧
    { t with col := s.col } = s ∧ (∀ c ≠ col, t.getCol c = s.getCol c) ∧
    (t.getCol col).lendReg &&& 0x7FFFFFFFFFFFFFFF#64 = v &&& 0x001F0000FFFFFFFF#64 ∧
    ((∀ k < 4, ¬s.owns col k) → (t.getCol col).lendReg.getLsbD 63 = v.getLsbD 63) ∧
    ((∃ k < 4, s.owns col k) → (t.getCol col).lendReg.getLsbD 63 = (v.getLsbD 63 && (s.getCol col).lendReg.getLsbD 63)) := by
  have hx : s.schedExpert = true := (s.expert_iff 3).trans hmode
  have hfree : ([0, 1, 2, 3].all fun k => (s.getCc (ccKey col k)).st == .free ||
      ((s.launch? (s.getCc (ccKey col k)).launch).map (·.part)) != some (s.partOfCol col)) = true ↔ ∀ k < 4, ¬s.owns col k := by
    rw [List.all_eq_true]
    constructor
    · intro h k hk ⟨h1, h2⟩
      have := h k (by simp; omega)
      simp [h1, h2] at this
    · intro h k hk
      have hn := h k (by simp at hk; omega)
      rw [State.owns, not_and] at hn
      by_cases h1 : (s.getCc (ccKey col k)).st = .free
      · simp [h1]
      · simpa [h1] using hn h1
  have hset (r : Column) : (s.setCol col r).getCol col = r := SMap.get_set_same ..
  change ∃ t, execLendLent col v s = _ ∧ _
  unfold execLendLent
  rw [if_neg (by simp [hx]; omega)]
  dsimp only
  generalize hf : ([0, 1, 2, 3].all fun k => (s.getCc (ccKey col k)).st == .free ||
      ((s.launch? (s.getCc (ccKey col k)).launch).map (·.part)) != some (s.partOfCol col)) = free at hfree
  change ∃ t, Host.Outcome.next (s.setCol col { s.getCol col with lendReg := lendOf (v.getLsbD 63 && (free || (s.getCol col).lendReg.getLsbD 63)) v }) = .next t ∧ _
  refine ⟨_, rfl, rfl, fun c hc => SMap.get_set_other _ _ _ _ _ hc, ?_, fun hno => ?_, fun ⟨k, hk, ho⟩ => ?_⟩
  · rw [hset]
    exact lendOf_fields _ v
  · rw [hset, getLsbD_lendOf _ _ (by decide), if_pos rfl, hfree.2 hno, Bool.true_or, Bool.and_true]
  · have : free = false := by
      rw [← Bool.not_eq_true, hfree]
      exact fun h => h k hk ho
    rw [hset, getLsbD_lendOf _ _ (by decide), if_pos rfl, this, Bool.false_or]

/-! ### Recalls (R282) -/

theorem State.getCol_of_eq {x y : State} (h : y.col = x.col) (k : Nat) : y.getCol k = x.getCol k := by rw [State.getCol, h]; rfl

theorem State.movePosted_col (x : State) (a b : Nat) : (x.movePosted a b).col = x.col := rfl

theorem State.spillLocks_col (x : State) (sv : SavedCtx) : (x.spillLocks sv).1.col = x.col := by
  unfold State.spillLocks
  split
  · rfl
  · dsimp only
    refine foldl_ind (P := fun y => y.col = x.col) (fun _ _ hy => ?_) _ _ rfl
    exact hy

theorem State.addSwap_col (x : State) (launch team reason : Nat) (ret hold : Bool) (excl : Option Nat) (svs : List SavedCtx) :
    (x.addSwap launch team reason ret hold excl svs).col = x.col := by
  have h1 : (svs.foldl (fun (p : State × List SavedCtx) sv => ((p.1.spillLocks sv).1, p.2 ++ [(p.1.spillLocks sv).2])) (x, [])).1.col = x.col :=
    collect_ind (P := fun y => y.col = x.col) (g := State.spillLocks) (fun y sv hy => (y.spillLocks_col sv).trans hy) svs x rfl
  unfold State.addSwap
  dsimp only
  refine (foldl_keeps State.col _ (fun y i => ?_) _ _).trans h1
  split <;> rfl

/-- R98: a team swapped out keeps the loans of columns. -/
theorem State.swapTeam_loan (x : State) (launch team reason k : Nat) : ((x.swapTeam launch team reason).getCol k).loan = (x.getCol k).loan := by
  unfold State.swapTeam
  dsimp only
  generalize ((x.teamCcs launch team).filter fun cc => (x.getCc cc).st.runs) = ccs
  generalize (((ccs.map ccCol).eraseDups).map fun c => (c, (x.activeOf c).filter fun k => ccs.contains (ccKey c k))) = acts
  have h1 : Kept x (((ccs.map ccCol).eraseDups).foldl (fun (p : State × List SavedCtx) col =>
      ((p.1.captureCol col ((ccs.filter fun cc => ccCol cc == col).map (· % 4)) reason).1, p.2 ++
        if (p.1.captureCol col ((ccs.filter fun cc => ccCol cc == col).map (· % 4)) reason).1.saveAssisted then
          (p.1.captureCol col ((ccs.filter fun cc => ccCol cc == col).map (· % 4)) reason).2
        else (p.1.captureCol col ((ccs.filter fun cc => ccCol cc == col).map (· % 4)) reason).1.spillTimes
          ((p.1.captureCol col ((ccs.filter fun cc => ccCol cc == col).map (· % 4)) reason).1.clock + 64)
          (p.1.captureCol col ((ccs.filter fun cc => ccCol cc == col).map (· % 4)) reason).2)) (x, [])).1 := by
    refine foldl_fst_ind (P := Kept x) (fun p col hp => ?_) _ _ (Kept.refl x)
    dsimp only
    exact hp.captureCol ..
  generalize List.foldl _ (x, []) ((ccs.map ccCol).eraseDups) = p at h1 ⊢
  split
  · exact h1.loan k
  · have h2 : Kept (p.1.addSwap launch team reason false false none p.2) (acts.foldl (fun s x => s.afterFreeze x.1 x.2 [launch])
        (p.1.addSwap launch team reason false false none p.2)) := foldl_ind (P := Kept _) (fun y a hy => hy.afterFreeze ..) _ _ (Kept.refl _)
    rw [h2.loan k, State.getCol_of_eq (State.addSwap_col ..), h1.loan k]

/-- R282: a column whose recall has begun. -/
def State.recalling (s : State) (col : Nat) : State := s.updCol col fun c => { c with recallAt := some (c.recallAt.getD (s.clock + c.deadline)) }

theorem State.recalling_borrowed (s : State) (col : Nat) : (s.recalling col).borrowedTeams col = s.borrowedTeams col := rfl

theorem State.recalling_col (s : State) (col : Nat) : ((s.recalling col).getCol col).recallAt ≠ none ∧ ((s.recalling col).getCol col).lendReg = (s.getCol col).lendReg := by
  rw [State.recalling, State.getCol_updCol_same]
  exact ⟨Option.some_ne_none _, rfl⟩

theorem recall_mask : ~~~(1#64 <<< 63) = 0x7FFFFFFFFFFFFFFF#64 := by decide

theorem State.recallStep_recalls (x : State) (col : Nat) (h : (x.getCol col).recallAt ≠ none) :
    ((x.recallStep col).getCol col).lendReg.getLsbD 63 = false ∨ ((x.recallStep col).getCol col).recallAt ≠ none := by
  have hkeep : (((x.borrowedTeams col).foldl (fun s t => s.swapTeam t.1 t.2 2) x).getCol col).loan = (x.getCol col).loan := by
    refine foldl_ind (P := fun y => (y.getCol col).loan = (x.getCol col).loan) (fun y t hy => ?_) _ _ rfl
    exact (y.swapTeam_loan t.1 t.2 2 col).trans hy
  unfold State.recallStep
  dsimp only
  generalize (x.borrowedTeams col).foldl (fun s t => s.swapTeam t.1 t.2 2) x = y at hkeep ⊢
  split
  · left
    rw [State.getCol_updCol_same, recall_mask, BitVec.getLsbD_and, show (0x7FFFFFFFFFFFFFFF#64).getLsbD 63 = false by decide, Bool.and_false]
  · right
    have e : (y.getCol col).recallAt = (x.getCol col).recallAt := (congrArg Prod.snd hkeep :)
    rw [e]
    exact h

theorem State.recallStep_empty (x : State) (col : Nat) (h : x.borrowedTeams col = []) :
    x.recallStep col = x.updCol col fun c => { c with recallAt := none, lendReg := c.lendReg &&& ~~~(1#64 <<< 63) } := by
  unfold State.recallStep
  rw [h, List.foldl_nil]
  dsimp only
  rw [h]
  exact if_pos rfl

theorem lendRecall_eq {col : Nat} (hcol : col < 32) (hmode : s.mgmt.getLsbD 7 = true) (hlent : (s.getCol col).lendReg.getLsbD 63 = true) :
    exec (.lendRecall col) s = .next ((s.recalling col).recallStep col) := by
  have hx : s.schedExpert = true := (s.expert_iff 3).trans hmode
  change execLendRecall col s = _
  unfold execLendRecall
  rw [if_pos (by simp [hx, hcol]), State.recall, if_pos hlent]
  rfl

theorem lendRecall_does {col : Nat} (hcol : col < 32) (hmode : s.mgmt.getLsbD 7 = true) (hlent : (s.getCol col).lendReg.getLsbD 63 = true) :
    ∃ t, exec (.lendRecall col) s = .next t ∧ ((t.getCol col).lendReg.getLsbD 63 = false ∨ (t.getCol col).recallAt ≠ none) ∧
      (s.borrowedTeams col = [] → (t.getCol col).lendReg = (s.getCol col).lendReg &&& 0x7FFFFFFFFFFFFFFF#64 ∧ t.cd = s.cd ∧ t.cc = s.cc) := by
  obtain ⟨hat, hreg⟩ := s.recalling_col col
  refine ⟨_, lendRecall_eq hcol hmode hlent, (s.recalling col).recallStep_recalls col hat, fun hnone => ?_⟩
  rw [State.recallStep_empty _ _ ((s.recalling_borrowed col).trans hnone), State.getCol_updCol_same, recall_mask, hreg]
  exact ⟨rfl, rfl, rfl⟩

/-! ### Migration (R283) -/

theorem State.readBytes_getElem? (x : State) (n : Nat) : ∀ loc i, i < n → (x.readBytes loc n)[i]? = some (x.readByte (loc + i)) := by
  induction n with
  | zero => exact fun _ _ h => absurd h (Nat.not_lt_zero _)
  | succ n ih =>
    intro loc i hi
    cases i with
    | zero => rfl
    | succ i => rw [State.readBytes, List.getElem?_cons_succ, ih _ _ (by omega), show loc + 1 + i = loc + (i + 1) by omega]

theorem State.readBytes_length (x : State) (n : Nat) : ∀ loc, (x.readBytes loc n).length = n := by
  induction n with
  | zero => exact fun _ => rfl
  | succ n ih => exact fun loc => congrArg (· + 1) (ih (loc + 1))

/-- A line copied from `src` to `dst`. -/
def State.copiedLine (x : State) (src dst : Nat) : State := x.store dst (x.readBytes src 64)

theorem State.migrateLine_eq {x : State} {src dst : Nat} (h1 : x.paFault src = none) (h2 : x.paFault dst = none) (h3 : x.poisoned src 64 = false) :
    x.migrateLine src dst = x.copiedLine src dst := by
  have hmap : ((x.readBytes src 64).map fun b => (b, false)).map Prod.fst = x.readBytes src 64 := by
    rw [List.map_map]
    exact List.map_id _
  have hany : ((x.readBytes src 64).map fun b => (b, false)).any Prod.snd = false := by
    rw [List.any_map, List.any_eq_false]
    exact fun _ _ => Bool.false_ne_true
  unfold State.migrateLine
  rw [h1, h2, h3, if_neg (by decide)]
  dsimp only
  rw [if_pos (by decide), State.storeP, hmap, hany, if_neg Bool.false_ne_true]
  rfl

theorem State.copiedLine_byte (x : State) (src dst : Nat) {a : Nat} (ha : a < 64) : (x.copiedLine src dst).readByte (dst + a) = x.readByte (src + a) := by
  obtain ⟨-, hread, -⟩ := storedBytes x dst (x.readBytes src 64)
  rw [State.readBytes_length] at hread
  have h1 := (x.copiedLine src dst).readBytes_getElem? 64 dst a ha
  rw [State.copiedLine, hread, x.readBytes_getElem? 64 src a ha] at h1
  exact (Option.some.inj h1).symm

theorem State.copiedLine_outside (x : State) (src dst : Nat) {a : Nat} (ha : a < dst ∨ dst + 64 ≤ a) : (x.copiedLine src dst).readByte a = x.readByte a := by
  obtain ⟨hout, -⟩ := storedBytes x dst (x.readBytes src 64)
  rw [State.readBytes_length] at hout
  exact hout a ha

theorem State.copiedLine_paFault (x : State) (src dst a : Nat) : (x.copiedLine src dst).paFault a = x.paFault a := by
  have hu : (x.copiedLine src dst).unstored = x.unstored := State.store_unstored ..
  have h1 : (x.copiedLine src dst).sockets = x.sockets := (congrArg State.sockets hu :)
  have h2 : (x.copiedLine src dst).ivStacks = x.ivStacks := (congrArg State.ivStacks hu :)
  unfold State.paFault State.getSocket State.devSize State.stackPlace State.ivStack State.ivRows State.ivNmax
  rw [h1, h2]

theorem State.copiedLine_poisoned (x : State) (src dst a : Nat) (h : x.poisoned a 64 = false) : (x.copiedLine src dst).poisoned a 64 = false := by
  obtain ⟨-, -, hpois, -⟩ := storedBytes x dst (x.readBytes src 64)
  rw [State.poisoned, List.any_eq_false] at h ⊢
  exact fun l hl hp => h l hl (hpois l hp)

/-- R283: lines that are neither poisoned nor faulting are copied to a range apart from their own, and nothing else changes. -/
theorem State.migrate_copies (n : Nat) : ∀ (x : State) (src dst : Nat),
    (∀ i < n, x.paFault (src + 64 * i) = none ∧ x.paFault (dst + 64 * i) = none ∧ x.poisoned (src + 64 * i) 64 = false) →
    (src + 64 * n ≤ dst ∨ dst + 64 * n ≤ src) → (∀ a < 64 * n, (x.migrate n src dst).readByte (dst + a) = x.readByte (src + a)) ∧
      ∀ a, (a < dst ∨ dst + 64 * n ≤ a) → (x.migrate n src dst).readByte a = x.readByte a := by
  induction n with
  | zero => exact fun x src dst _ _ => ⟨fun a ha => absurd ha (by omega), fun _ _ => rfl⟩
  | succ n ih =>
    intro x src dst hok hap
    obtain ⟨hs, hd, hp⟩ := hok 0 (by omega)
    rw [Nat.mul_zero, Nat.add_zero] at hs hp
    rw [Nat.mul_zero, Nat.add_zero] at hd
    rw [State.migrate, State.migrateLine_eq hs hd hp]
    obtain ⟨hin, hout⟩ := ih (x.copiedLine src dst) (src + 64) (dst + 64) (fun i hi => by
      obtain ⟨h1, h2, h3⟩ := hok (i + 1) (by omega)
      rw [show src + 64 + 64 * i = src + 64 * (i + 1) by omega, show dst + 64 + 64 * i = dst + 64 * (i + 1) by omega, State.copiedLine_paFault,
        State.copiedLine_paFault]
      exact ⟨h1, h2, State.copiedLine_poisoned _ _ _ _ h3⟩) (by omega)
    refine ⟨fun a ha => ?_, fun a ha => ?_⟩
    · by_cases h64 : a < 64
      · rw [hout _ (by omega), State.copiedLine_byte _ _ _ h64]
      · have h1 := hin (a - 64) (by omega)
        rw [show dst + 64 + (a - 64) = dst + a by omega, show src + 64 + (a - 64) = src + a by omega] at h1
        rw [h1, State.copiedLine_outside _ _ _ (by omega)]
    · rw [hout _ (by omega), State.copiedLine_outside _ _ _ (by omega)]

theorem State.migrate_cd (n : Nat) : ∀ (x : State) (src dst : Nat), (x.migrate n src dst).cd = x.cd := by
  have hline (x : State) (src dst : Nat) : (x.migrateLine src dst).cd = x.cd := by
    have hstore (y : State) (loc : Nat) (l : List Byte) : (y.store loc l).cd = y.cd := (congrArg State.cd (y.store_unstored loc l) :)
    have hstoreP : (x.storeP dst ((x.readBytes src 64).map fun b => (b, x.poisoned src 64))).cd = x.cd := by
      unfold State.storeP
      dsimp only
      split
      · exact hstore ..
      · exact hstore ..
    unfold State.migrateLine
    split
    · rfl
    · dsimp only
      split
      · exact hstoreP
      · split
        · exact (hstore ..).trans hstoreP
        · exact hstoreP
  induction n with
  | zero => exact fun _ _ _ => rfl
  | succ n ih => exact fun x src dst => (ih _ _ _).trans (hline x src dst)

/-- R283: what MIGCTL says once a migration is made. -/
theorem migctl_done (v : DWord) : ((v &&& ~~~(1#64 <<< 62)) ||| (1#64 <<< 61)).getLsbD 62 = false ∧ ((v &&& ~~~(1#64 <<< 62)) ||| (1#64 <<< 61)).getLsbD 61 = true := by
  constructor
  · rw [BitVec.getLsbD_or, BitVec.getLsbD_and, show (~~~(1#64 <<< 62)).getLsbD 62 = false by decide, show (1#64 <<< 61).getLsbD 62 = false by decide,
      Bool.and_false, Bool.or_false]
  · rw [BitVec.getLsbD_or, show (1#64 <<< 61).getLsbD 61 = true by decide, Bool.or_true]

theorem migrationComplete_eq {due : Nat} (hd : s.migDue = some due) (hle : due ≤ s.clock) : exec .migrationComplete s = .next
    { s.migrate (bits s.miglen.toNat 6 34) (bits s.migsrc.toNat 6 46 * 64) (bits s.migdst.toNat 6 46 * 64) with
      migDue := none, migctl := ((s.migrate (bits s.miglen.toNat 6 34) (bits s.migsrc.toNat 6 46 * 64) (bits s.migdst.toNat 6 46 * 64)).migctl &&&
        ~~~(1#64 <<< 62)) ||| (1#64 <<< 61) } := by
  change execMigrationComplete s = _
  unfold execMigrationComplete
  rw [hd]
  dsimp only
  rw [if_pos hle]

theorem migrationComplete_does {due : Nat} (hd : s.migDue = some due) (hle : due ≤ s.clock) :
    let n := s.miglen.toNat / 64 % 2 ^ 34
    let src := s.migsrc.toNat / 64 % 2 ^ 46 * 64
    let dst := s.migdst.toNat / 64 % 2 ^ 46 * 64
    ∃ t, exec .migrationComplete s = .next t ∧ t.migDue = none ∧ t.migctl.getLsbD 62 = false ∧ t.migctl.getLsbD 61 = true ∧ t.cd = s.cd ∧
      ((∀ i < n, s.paFault (src + 64 * i) = none ∧ s.paFault (dst + 64 * i) = none ∧ s.poisoned (src + 64 * i) 64 = false) →
        (src + 64 * n ≤ dst ∨ dst + 64 * n ≤ src) → (∀ a < 64 * n, t.readByte (dst + a) = s.readByte (src + a)) ∧
          ∀ a, (a < dst ∨ dst + 64 * n ≤ a) → t.readByte a = s.readByte a) := by
  dsimp only
  have e := migrationComplete_eq hd hle
  have hcd := s.migrate_cd (bits s.miglen.toNat 6 34) (bits s.migsrc.toNat 6 46 * 64) (bits s.migdst.toNat 6 46 * 64)
  have hcopy := s.migrate_copies (bits s.miglen.toNat 6 34) (bits s.migsrc.toNat 6 46 * 64) (bits s.migdst.toNat 6 46 * 64)
  generalize s.migrate (bits s.miglen.toNat 6 34) (bits s.migsrc.toNat 6 46 * 64) (bits s.migdst.toNat 6 46 * 64) = u at e hcd hcopy
  obtain ⟨h62, h61⟩ := migctl_done u.migctl
  exact ⟨_, e, rfl, h62, h61, hcd, hcopy⟩

end

/-- Settles O56. -/
theorem powerLoansMigration : Obligations.PowerLoansMigration := by
  refine ⟨fun s p w => powerControlTick_does p w, fun s col v hcol hmode => ⟨lendLent_does v hcol hmode, lendRecall_does hcol hmode⟩, fun s hn => ?_,
    fun s due hd => migrationComplete_does hd⟩
  change execMigctlGo s = _
  unfold execMigctlGo
  rw [hn]
  rfl

end Sys2Proof.Machine
end

section
/-! SUPPORT. Entry into a handler (R79, R212, R215 to R217, R219, R222). -/

set_option Elab.async false

namespace Sys2Proof.Machine

open Claims

/-! ### The order of landing is stable (R79) -/

/-- R79, R354: what decides which of two results lands first. -/
theorem Pend.before_iff (a b : Pend) : a.before b = true ↔ a.due.getD 0 < b.due.getD 0 ∨
    (a.due.getD 0 = b.due.getD 0 ∧ (a.slot < b.slot ∨ (a.slot = b.slot ∧ a.issued ≤ b.issued))) := by
  unfold Pend.before
  simp only [Bool.or_eq_true, Bool.and_eq_true, beq_iff_eq, Nat.blt_eq, Nat.ble_eq]

theorem Pend.before_trans {a b c : Pend} (h : a.before b = true) (g : b.before c = true) : a.before c = true := by
  rw [Pend.before_iff] at *
  omega

theorem Pend.before_of_not {a b : Pend} (h : ¬a.before b = true) : b.before a = true := by
  rw [Pend.before_iff] at *
  omega

/-- Whether a result lands before another strictly. -/
def Pend.first (p x : Pend) : Bool := x.before p && !(p.before x)

theorem landOrder_cons (p : Pend) (ps : List Pend) :
    landOrder (p :: ps) = (landOrder ps).takeWhile p.first ++ p :: (landOrder ps).dropWhile p.first := by
  rw [landOrder]
  dsimp only
  have hspan := List.span_eq_takeWhile_dropWhile p.first (landOrder ps)
  unfold Pend.first at *
  rw [hspan]

/-- In a list in the order of landing, what lands before a result stands at the front. -/
theorem takeWhile_first {l : List Pend} (h : l.Pairwise fun a b => a.before b = true) (p : Pend) :
    l.takeWhile p.first = l.filter p.first ∧ l.dropWhile p.first = l.filter fun x => !p.first x := by
  induction l with
  | nil => exact ⟨rfl, rfl⟩
  | cons x l ih =>
    obtain ⟨hx, hl⟩ := List.pairwise_cons.1 h
    obtain ⟨h1, h2⟩ := ih hl
    by_cases hq : p.first x = true
    · rw [List.takeWhile_cons_of_pos hq, List.dropWhile_cons_of_pos hq, List.filter_cons_of_pos hq, List.filter_cons_of_neg (by simp [hq]), h1, h2]
      exact ⟨rfl, rfl⟩
    · have hpx : p.before x = true := by
        by_contra hn
        exact hq (by rw [Pend.first, Pend.before_of_not hn, Bool.eq_false_iff.2 hn]; rfl)
      have hall : ∀ y ∈ x :: l, p.first y = false := by
        intro y hy
        rw [Pend.first]
        have hpy : p.before y = true := by
          rcases List.mem_cons.1 hy with rfl | hy
          · exact hpx
          · exact Pend.before_trans hpx (hx y hy)
        rw [hpy, Bool.not_true, Bool.and_false]
      rw [List.takeWhile_cons_of_neg hq, List.dropWhile_cons_of_neg hq, List.filter_eq_nil_iff.2 fun y hy => by rw [hall y hy]; decide,
        List.filter_eq_self.2 fun y hy => by rw [hall y hy]; rfl]
      exact ⟨rfl, rfl⟩

theorem landOrder_pairwise (l : List Pend) : (landOrder l).Pairwise fun a b => a.before b = true := by
  induction l with
  | nil => exact List.Pairwise.nil
  | cons p ps ih =>
    obtain ⟨h1, h2⟩ := takeWhile_first ih p
    rw [landOrder_cons, h1, h2]
    have hle : ∀ x ∈ (landOrder ps).filter p.first, x.before p = true := fun x hx => by
      have := (List.mem_filter.1 hx).2
      rw [Pend.first, Bool.and_eq_true] at this
      exact this.1
    have hge : ∀ x ∈ (landOrder ps).filter fun x => !p.first x, p.before x = true := fun x hx => by
      have := (List.mem_filter.1 hx).2
      by_contra hn
      rw [Pend.first, Pend.before_of_not hn, Bool.eq_false_iff.2 hn] at this
      cases this
    refine List.pairwise_append.2 ⟨ih.filter _, List.pairwise_cons.2 ⟨hge, ih.filter _⟩, fun a ha b hb => ?_⟩
    rcases List.mem_cons.1 hb with rfl | hb
    · exact hle a ha
    · exact Pend.before_trans (hle a ha) (hge b hb)

/-- The results that `f` selects land in the order in which they land among others. -/
theorem landOrder_filter (f : Pend → Bool) (l : List Pend) : (landOrder l).filter f = landOrder (l.filter f) := by
  induction l with
  | nil => rfl
  | cons p ps ih =>
    obtain ⟨h1, h2⟩ := takeWhile_first (landOrder_pairwise ps) p
    rw [landOrder_cons, List.filter_append, h1, h2]
    by_cases hp : f p = true
    · obtain ⟨g1, g2⟩ := takeWhile_first (landOrder_pairwise (ps.filter f)) p
      rw [List.filter_cons_of_pos hp, List.filter_cons_of_pos hp, landOrder_cons, g1, g2, ← ih, List.filter_filter, List.filter_filter, List.filter_filter,
        List.filter_filter]
      congr 1
      · exact List.filter_congr fun x _ => Bool.and_comm ..
      · exact congrArg _ (List.filter_congr fun x _ => Bool.and_comm ..)
    · rw [List.filter_cons_of_neg hp, List.filter_cons_of_neg hp, ← ih, ← h1, ← h2, ← List.filter_append, List.takeWhile_append_dropWhile]

/-! ### Folds over the dies of a context -/

/-- A step for each die of a list that changes the context there and no other. -/
theorem foldl_getCd {cc : Nat} {P : State → Prop} {f : State → Nat → State} {g : Nat → CtxDie → CtxDie} (hP : ∀ x d, P x → P (f x d))
    (own : ∀ x d, P x → (f x d).getCd (ccCk d cc) = g d (x.getCd (ccCk d cc))) (other : ∀ x d k, k ≠ ccCk d cc → (f x d).getCd k = x.getCd k)
    (l : List Nat) : ∀ x, P x → l.Nodup → (∀ d ∈ l, (l.foldl f x).getCd (ccCk d cc) = g d (x.getCd (ccCk d cc))) ∧
      ∀ k, (∀ d ∈ l, k ≠ ccCk d cc) → (l.foldl f x).getCd k = x.getCd k := by
  induction l with
  | nil => exact fun x _ _ => ⟨fun d hd => (List.not_mem_nil hd).elim, fun _ _ => rfl⟩
  | cons e l ih =>
    intro x hx hnd
    obtain ⟨he, hl⟩ := List.nodup_cons.1 hnd
    obtain ⟨h1, h2⟩ := ih (f x e) (hP x e hx) hl
    rw [List.foldl_cons]
    refine ⟨fun d hd => ?_, fun k hk => ?_⟩
    · rcases List.mem_cons.1 hd with rfl | hd
      · rw [h2 _ fun d' hd' heq => he (by rw [ccCk_inj heq]; exact hd')]
        exact own x _ hx
      · rw [h1 d hd, other x e _ fun heq => he (by rw [← ccCk_inj heq]; exact hd)]
    · rw [h2 k fun d hd => hk d (List.mem_cons_of_mem _ hd), other x e k (hk e List.mem_cons_self)]

/-! ### What faults and work leave of a column context -/

/-- A column context without the faults that it has. -/
def ColCtx.unfaulted (c : ColCtx) : ColCtx := { c with faults := [], trap := [], trapSys := false, kept := [] }

theorem ColCtx.addFault_unfaulted (c : ColCtx) (clk d : Nat) (r : FRec) : (c.addFault clk d r).unfaulted = c.unfaulted := by
  unfold ColCtx.addFault
  split
  · split
    · split <;> rfl
    · rfl
  · rfl

/-- An asynchronous fault changes the faults of its column context alone. -/
theorem State.asyncFault_unfaulted (x : State) (ck : Nat) (r : FRec) (seq k : Nat) : ((x.asyncFault ck r seq).getCc k).unfaulted = (x.getCc k).unfaulted := by
  unfold State.asyncFault
  by_cases hk : k = ckCc ck
  · rw [hk, State.getCc_updCc_same, ColCtx.addFault_unfaulted]
  · rw [State.getCc_updCc_other _ _ _ _ hk]

theorem foldl_abortFault_unfaulted (ck k : Nat) (l : List Pend) (x : State) : ((l.foldl (abortFault ck) x).getCc k).unfaulted = (x.getCc k).unfaulted :=
  foldl_keeps (fun y => (y.getCc k).unfaulted) _ (fun _ _ => State.asyncFault_unfaulted ..) l x

theorem State.updCd_keeps_cc (x : State) (ck : Nat) (F : CtxDie → CtxDie) : (x.updCd ck F).cc = x.cc ∧ (x.updCd ck F).clock = x.clock := by
  unfold State.updCd State.setCd
  split <;> exact ⟨rfl, rfl⟩

namespace Worked

variable {s x : State}

theorem launches (h : Worked s x) : x.launches = s.launches := (congrArg State.launches h.rest :)

theorem sockets (h : Worked s x) : x.sockets = s.sockets := (congrArg State.sockets h.rest :)

theorem launch (h : Worked s x) (k : Nat) : (x.getCc k).launch = (s.getCc k).launch := (congrArg (fun z => z.2.1) (h.seat k) :)

theorem ctxLaunch (h : Worked s x) (k : Nat) : x.ctxLaunch k = s.ctxLaunch k := by rw [State.ctxLaunch, State.ctxLaunch, State.launch?, State.launch?, h.launch, h.launches]

theorem kernelOf (h : Worked s x) (k : Nat) : x.kernelOf k = s.kernelOf k := by rw [State.kernelOf, State.kernelOf, h.ctxLaunch]

theorem liveOf (h : Worked s x) (k : Nat) : x.liveOf k = s.liveOf k := by
  simp only [State.liveOf, State.dieLive, State.getSocket, h.ctxLaunch, h.sockets]

end Worked

theorem Accessed.getCd {s x : State} (h : Accessed s x) (k : Nat) : x.getCd k = s.getCd k := by
  obtain ⟨-, hcd, -⟩ := h.unaccessed_eq
  unfold State.getCd
  rw [hcd, (congrArg Core.fw (h.core (k - 1024)) :)]

/-! ### Rollback (R222) -/

/-- R219, R222: a context on a die after its rollback. -/
def CtxDie.restored (x : CtxDie) : CtxDie :=
  let w := (landOrder (x.pend.filter fun p => p.pre && p.due.isSome && !p.abort)).foldl WorkSet.land x.dup
  { x with ws := w, dup := w, blot := [], pend := [] }

/-- R222: the operations of the envelope unit that a rollback leaves queued, with their locks. -/
def Core.restored (k : Core) (ck : Nat) (c : CtxDie) : Core := { k with
  evq := k.evq.filter (fun e => e.ck != ck) ++ c.dupEv
  locks := k.locks.filter (fun r => !k.evq.any fun e => e.ck == ck && e.uid == r.uid) ++ c.dupEv.flatMap (·.locks) }

theorem Core.restored_fw (ck : Nat) (c : CtxDie) (k : Core) : (k.restored ck c).fw = k.fw := rfl

section

variable (x : State) (ck k : Nat)

theorem State.rollbackDie_eq : x.rollbackDie ck =
    let y := x.landAll ck fun p => p.pre && p.due.isSome
    (y.updCd ck fun c => { c with ws := c.dup, blot := [], pend := [] }).updCore (ckCore ck) fun k => k.restored ck (y.getCd ck) := rfl

theorem State.landAll_landed (f : Pend → Bool) : Landed ck (landOrder ((x.getCd ck).pend.filter f))
    (x.updCd ck fun c => { c with pend := c.pend.filter fun p => !f p }) (x.landAll ck f) := landed_foldl ..

theorem State.landAll_unfaulted (f : Pend → Bool) : ((x.landAll ck f).getCc k).unfaulted = (x.getCc k).unfaulted := by
  obtain ⟨hcc, hclk⟩ := x.updCd_keeps_cc ck fun c => { c with pend := c.pend.filter fun p => !f p }
  have h := (x.landAll_landed ck f).cc x hcc hclk
  rw [← foldl_abortFault_unfaulted ck k ((landOrder ((x.getCd ck).pend.filter f)).filter (·.abort)) x, State.getCc, h]
  rfl

theorem State.rollbackDie_own : (x.rollbackDie ck).getCd ck = (x.getCd ck).restored := by
  have h := (x.landAll_landed ck fun p => p.pre && p.due.isSome).own
  rw [State.getCd_updCd_same] at h
  rw [State.rollbackDie_eq]
  dsimp only
  rw [State.getCd_updCore _ _ _ _ (Core.restored_fw _ _), State.getCd_updCd_same, h]
  have hpre : ((landOrder ((x.getCd ck).pend.filter fun p => p.pre && p.due.isSome)).filter fun p => !p.abort).filter (·.pre) =
      landOrder ((x.getCd ck).pend.filter fun p => p.pre && p.due.isSome && !p.abort) := by
    rw [List.filter_filter, landOrder_filter, List.filter_filter]
    refine congrArg landOrder (List.filter_congr fun p _ => ?_)
    cases p.pre <;> cases p.due.isSome <;> cases p.abort <;> rfl
  dsimp only
  rw [hpre]
  rfl

theorem State.rollbackDie_other {k} (hk : k ≠ ck) : (x.rollbackDie ck).getCd k = x.getCd k := by
  rw [State.rollbackDie_eq]
  dsimp only
  rw [State.getCd_updCore _ _ _ _ (Core.restored_fw _ _), State.getCd_updCd_other _ _ _ _ hk, (x.landAll_landed ck _).other k hk, State.getCd_updCd_other _ _ _ _ hk]

theorem State.rollbackDie_unfaulted : ((x.rollbackDie ck).getCc k).unfaulted = (x.getCc k).unfaulted := by
  rw [← x.landAll_unfaulted ck k fun p => p.pre && p.due.isSome]
  rw [State.rollbackDie_eq]
  dsimp only
  generalize (x.landAll ck fun p => p.pre && p.due.isSome) = y
  unfold State.updCd State.setCd
  split <;> rfl

end

section

variable (s : State) (cc : Nat)

theorem State.rollback_getCd : (∀ d ∈ s.liveOf cc, (s.rollback cc).getCd (ccCk d cc) = (s.getCd (ccCk d cc)).restored) ∧
    ∀ k, (∀ d ∈ s.liveOf cc, k ≠ ccCk d cc) → (s.rollback cc).getCd k = s.getCd k :=
  foldl_getCd (cc := cc) (P := fun _ => True) (g := fun _ => CtxDie.restored) (f := fun s d => s.rollbackDie (ccCk d cc)) (fun _ _ _ => trivial)
    (fun x _ _ => x.rollbackDie_own _) (fun x _ _ hk => x.rollbackDie_other _ hk) (s.liveOf cc) s trivial (s.liveOf_nodup cc)

/-- R222: a column context after its rollback, but for its faults. -/
theorem State.rollback_unfaulted :
    ((s.rollback cc).getCc cc).unfaulted = { (s.getCc cc).unfaulted with cs := (s.getCc cc).dupCs, portDone := false, why := none, cwBuf := none } := by
  have h : ((((s.liveOf cc).foldl (fun s d => s.rollbackDie (ccCk d cc)) s).getCc cc)).unfaulted = (s.getCc cc).unfaulted :=
    foldl_keeps (fun y => (y.getCc cc).unfaulted) _ (fun y d => y.rollbackDie_unfaulted _ _) _ s
  unfold State.rollback
  dsimp only
  rw [State.getCc_updCc_same]
  generalize (((s.liveOf cc).foldl (fun s d => s.rollbackDie (ccCk d cc)) s).getCc cc) = c at h
  have hdup : c.dupCs = (s.getCc cc).dupCs := (congrArg ColCtx.dupCs h :)
  rw [← hdup, ← h]
  rfl

end

/-! ### Entry (R212, R215 to R217) -/

/-- R216: but for its TREC1, a die's record is the one that was raised there. -/
theorem recOn_keeps (l : List (Nat × FRec)) (d : Nat) : (∀ m inh, tstatOf (recOn l d) m inh = tstatOf (recOf l d) m inh) ∧ (recOn l d).r0 = (recOf l d).r0 ∧
    ((recOf l d).code ≠ 0 → (recOn l d).r1 = (recOf l d).r1) ∧ (recOn l d).r2 = (recOf l d).r2 ∧ (recOn l d).r3 = (recOf l d).r3 := by
  unfold recOn
  dsimp only
  split
  · exact ⟨fun _ _ => rfl, rfl, fun h => absurd ‹_› h, rfl, rfl⟩
  · exact ⟨fun _ _ => rfl, rfl, fun _ => rfl, rfl, rfl⟩

/-- R212, R215 to R217: what entry into a handler writes of a context on a die. -/
def entered (recs : List (Nat × FRec)) (cs : ColState) (d : Nat) (c : CtxDie) : CtxDie :=
  let r := recOn recs d
  { c with
    tstat := tstatOf r (srcMask recs) true
    trec := SMap.set 0#64 (SMap.set 0#64 (SMap.set 0#64 (SMap.set 0#64 c.trec 0 r.r0) 1 r.r1) 2 r.r2) 3 r.r3
    tepc := tepcOf cs
    ws := { c.ws with slots := c.ws.slots.map fun x => (x.1, { x.2 with hold := [] }) } }

theorem State.startReel_frame (s : State) (cc cur target : Nat) : (s.startReel cc cur target).cc = s.cc ∧ ∀ k, (s.startReel cc cur target).getCd k = s.getCd k := by
  unfold State.startReel
  split
  · exact ⟨rfl, fun _ => rfl⟩
  · dsimp only
    split
    · exact ⟨rfl, fun _ => rfl⟩
    · rename_i k _ _
      have h : Accessed s (s.reelClocks cc (k.reel target).1 (k.reel target).2).2 := (Accessed.refl s).resolve ..
      obtain ⟨-, -, hcc, -⟩ := h.unaccessed_eq
      exact ⟨hcc, h.getCd⟩

theorem State.enterHandler_eq (s : State) (cc : Nat) (recs : List (Nat × FRec)) (tv : DWord) :
    ((s.enterHandler cc recs tv).getCc cc = { s.getCc cc with
      inh := true
      loopClr := true
      cs := { (s.getCc cc).cs with pc := ⟨bits tv.toNat 32 16, bits tv.toNat 3 11⟩, rem := 0, xfer := none, copies := [] } }) ∧
    ∀ d ∈ s.liveOf cc, (s.enterHandler cc recs tv).getCd (ccCk d cc) = entered recs (s.getCc cc).dupCs d (s.getCd (ccCk d cc)) := by
  have hcd := (foldl_getCd (cc := cc) (P := fun y => (y.getCc cc).dupCs = (s.getCc cc).dupCs) (g := entered recs (s.getCc cc).dupCs)
    (f := fun y d => y.updCd (ccCk d cc) (entered recs (y.getCc cc).dupCs d))
    (fun x d hx => by rw [State.getCc, (x.updCd_keeps_cc _ _).1]; exact hx)
    (fun x d hx => by rw [State.getCd_updCd_same, hx]) (fun x d k hk => State.getCd_updCd_other _ _ _ _ hk) (s.liveOf cc) s rfl (s.liveOf_nodup cc)).1
  have hcc : ((s.liveOf cc).foldl (fun y d => y.updCd (ccCk d cc) (entered recs (y.getCc cc).dupCs d)) s).cc = s.cc :=
    foldl_keeps State.cc _ (fun y d => (y.updCd_keeps_cc _ _).1) _ s
  have hdef : s.enterHandler cc recs tv = (((s.liveOf cc).foldl (fun y d => y.updCd (ccCk d cc) (entered recs (y.getCc cc).dupCs d)) s).updCc cc fun c => { c with
      inh := true
      loopClr := true
      cs := { c.cs with pc := ⟨bits tv.toNat 32 16, bits tv.toNat 3 11⟩, rem := 0, xfer := none, copies := [] } }).startReel cc
      (((s.liveOf cc).foldl (fun y d => y.updCd (ccCk d cc) (entered recs (y.getCc cc).dupCs d)) s).getCc cc).cs.pc.reel (bits tv.toNat 32 16) := rfl
  rw [hdef]
  generalize ((s.liveOf cc).foldl (fun y d => y.updCd (ccCk d cc) (entered recs (y.getCc cc).dupCs d)) s) = y at hcd hcc
  refine ⟨?_, fun d hd => ?_⟩
  · rw [State.getCc, (State.startReel_frame ..).1]
    change (y.updCc cc _).getCc cc = _
    rw [State.getCc_updCc_same, State.getCc, hcc]
    rfl
  · rw [(State.startReel_frame ..).2, State.getCd_updCc, hcd d hd]

section

variable {s : State} {cc : Nat} {k : Kernel} {recs : List (Nat × FRec)}

/-- The vector of the handler, as the entry reads it after the rollback. -/
theorem State.rollback_tvec {d0 : Nat} {ds : List Nat} (hlive : s.liveOf cc = d0 :: ds) :
    ((s.rollback cc).getCd (ccCk (((s.rollback cc).liveOf cc).head?.getD 0) cc)).tvec = (s.getCd (ccCk d0 cc)).tvec := by
  have hl : ((s.rollback cc).liveOf cc).head?.getD 0 = d0 := by rw [((Worked.refl s).rollback cc).liveOf cc, hlive]; rfl
  rw [hl, (s.rollback_getCd cc).1 d0 (hlive ▸ List.mem_cons_self)]
  rfl

theorem State.rollback_inh : ((s.rollback cc).getCc cc).inh = (s.getCc cc).inh := (congrArg ColCtx.inh (s.rollback_unfaulted cc) :)

/-- R222: what the entry into a handler starts from. -/
def State.beforeEntry (s : State) (cc : Nat) (recs : List (Nat × FRec)) : State :=
  { (s.rollback cc).updCc cc (fun c => { c with trap := [], trapSys := false }) with
    traceQ := (s.eventRecord cc (recs.head?.map (·.2.code) |>.getD 0) (((recs.map Prod.fst).min?).getD 0)).traceQ }

theorem State.takeTrap_of_named {tv : DWord} (hk : s.kernelOf cc = some k)
    (htv : ((s.rollback cc).getCd (ccCk (((s.rollback cc).liveOf cc).head?.getD 0) cc)).tvec = tv) (hn : (tv.getLsbD 0 && !(s.getCc cc).inh && tvecNames k tv) = true) :
    s.takeTrap cc recs = (s.beforeEntry cc recs).enterHandler cc recs tv := by
  have hk' := (((Worked.refl s).rollback cc).kernelOf cc).trans hk
  unfold State.takeTrap
  dsimp only
  rw [hk']
  dsimp only
  rw [htv, State.rollback_inh, if_pos hn]
  rfl

theorem State.takeTrap_of_unnamed {tv : DWord} (hk : s.kernelOf cc = some k)
    (htv : ((s.rollback cc).getCd (ccCk (((s.rollback cc).liveOf cc).head?.getD 0) cc)).tvec = tv) (hn : ¬(tv.getLsbD 0 && !(s.getCc cc).inh && tvecNames k tv) = true) :
    s.takeTrap cc recs = (s.rollback cc).updCc cc fun c => { c with trap := recs.map (fun x => (x.1, unhandled x.2)), trapSys := true } := by
  have hk' := (((Worked.refl s).rollback cc).kernelOf cc).trans hk
  unfold State.takeTrap
  dsimp only
  rw [hk']
  dsimp only
  rw [htv, State.rollback_inh, if_neg hn]

theorem execTrapEntry_eq (hcc : cc < 128) (hfree : (s.getCc cc).st ≠ .free) (hload : (s.getCc cc).st ≠ .loading) (htrap : (s.getCc cc).trap ≠ [])
    (hsys : (s.getCc cc).trapSys = false) (hwait : s.mustWait cc = false) : exec (.trapEntry cc) s = .next (s.takeTrap cc (s.getCc cc).trap) := by
  change execTrapEntry cc s = _
  unfold execTrapEntry State.tryTrap
  have h1 : (decide (cc ≥ 128) || (s.getCc cc).st == .free || (s.getCc cc).st == .loading) = false := by
    rw [decide_eq_false (by omega), beq_eq_false_iff_ne.2 hfree, beq_eq_false_iff_ne.2 hload]
    rfl
  have h2 : ((s.getCc cc).trap.isEmpty || (s.getCc cc).trapSys || s.mustWait cc) = false := by
    rw [hsys, hwait, List.isEmpty_eq_false_iff.2 htrap]
    rfl
  rw [h1, if_neg Bool.false_ne_true]
  dsimp only
  rw [h2, if_neg Bool.false_ne_true]

theorem State.beforeEntry_cc : (s.beforeEntry cc recs).getCc cc = { (s.rollback cc).getCc cc with trap := [], trapSys := false } := by
  have h : (s.beforeEntry cc recs).getCc cc = ((s.rollback cc).updCc cc fun c => { c with trap := [], trapSys := false }).getCc cc := rfl
  rw [h, State.getCc_updCc_same]

theorem State.beforeEntry_liveOf : (s.beforeEntry cc recs).liveOf cc = s.liveOf cc := by
  have h : Worked s ((s.rollback cc).updCc cc fun c => { c with trap := [], trapSys := false }) := ((Worked.refl s).rollback cc).updCc _ fun _ => rfl
  exact h.liveOf cc

theorem State.beforeEntry_getCd (j : Nat) : (s.beforeEntry cc recs).getCd j = (s.rollback cc).getCd j := rfl

theorem State.beforeEntry_states : ((s.beforeEntry cc recs).getCc cc).cs = (s.getCc cc).dupCs ∧ ((s.beforeEntry cc recs).getCc cc).dupCs = (s.getCc cc).dupCs ∧
    ((s.beforeEntry cc recs).getCc cc).trap = [] := by
  have hcs := s.rollback_unfaulted cc
  rw [State.beforeEntry_cc]
  exact ⟨(congrArg ColCtx.cs hcs :), (congrArg ColCtx.dupCs hcs :), rfl⟩

/-- R212: whether TVEC names a bundle of the kernel, for a context that is in no handler. -/
theorem tvecNames_iff (hinh : (s.getCc cc).inh = false) (tv : DWord) : (tv.getLsbD 0 && !(s.getCc cc).inh && tvecNames k tv) = true ↔ tv.getLsbD 0 = true ∧
    tv.toNat / 2 ^ 32 % 2 ^ 16 < k.reels.length ∧ tv.toNat / 2 ^ 3 % 2 ^ 11 < (k.reel (tv.toNat / 2 ^ 32 % 2 ^ 16)).2 := by
  rw [hinh, tvecNames, Bool.and_eq_true, Bool.and_eq_true, Bool.and_eq_true, decide_eq_true_iff, decide_eq_true_iff, bits, bits]
  exact ⟨fun ⟨⟨h1, _⟩, h2⟩ => ⟨h1, h2⟩, fun ⟨h1, h2⟩ => ⟨⟨h1, rfl⟩, h2⟩⟩

/-- R215 to R217: what a context on a die shows of the entry. -/
theorem entered_shows (recs : List (Nat × FRec)) (cs : ColState) (d : Nat) (c : CtxDie) :
    let y := entered recs cs d c
    let r := recOf recs d
    y.dup = c.dup ∧ y.ws = { c.ws with slots := c.ws.slots.map fun z => (z.1, { z.2 with hold := [] }) } ∧ y.blot = c.blot ∧ y.pend = c.pend ∧
    y.tstat = tstatOf r (srcMask recs) true ∧ SMap.get 0#64 y.trec 0 = r.r0 ∧ (r.code ≠ 0 → SMap.get 0#64 y.trec 1 = r.r1) ∧
    SMap.get 0#64 y.trec 2 = r.r2 ∧ SMap.get 0#64 y.trec 3 = r.r3 ∧ y.tepc = tepcOf cs := by
  obtain ⟨htstat, h0, hr1, hr2, hr3⟩ := recOn_keeps recs d
  unfold entered
  dsimp only
  refine ⟨rfl, rfl, rfl, rfl, htstat .., ?_, ?_, ?_, ?_, rfl⟩
  · rw [SMap.get_set_other _ _ _ _ _ (by decide), SMap.get_set_other _ _ _ _ _ (by decide), SMap.get_set_other _ _ _ _ _ (by decide), SMap.get_set_same, h0]
  · intro hc
    rw [SMap.get_set_other _ _ _ _ _ (by decide), SMap.get_set_other _ _ _ _ _ (by decide), SMap.get_set_same, hr1 hc]
  · rw [SMap.get_set_other _ _ _ _ _ (by decide), SMap.get_set_same, hr2]
  · rw [SMap.get_set_same, hr3]

/-- R222: every context on a die of the launch enters the handler from its last splice. -/
theorem takeTrap_getCd {tv : DWord} {d : Nat} (hd : d ∈ s.liveOf cc) : ((s.beforeEntry cc recs).enterHandler cc recs tv).getCd (ccCk d cc) =
    entered recs (s.getCc cc).dupCs d (s.getCd (ccCk d cc)).restored := by
  have h := ((s.beforeEntry cc recs).enterHandler_eq cc recs tv).2 d (by rw [State.beforeEntry_liveOf]; exact hd)
  rw [h, (State.beforeEntry_states).2.1, State.beforeEntry_getCd, (s.rollback_getCd cc).1 d hd]

end

/-- Settles O47. -/
theorem trapEntry : Obligations.TrapEntry := by
  intro s cc d0 ds k hcc hfree hload htrap hsys hinh hwait hk hlive
  have htv := State.rollback_tvec hlive
  have hexec := execTrapEntry_eq hcc hfree hload htrap hsys hwait
  dsimp only
  generalize (s.getCd (ccCk d0 cc)).tvec = tv at htv ⊢
  refine ⟨fun hn => ⟨_, hexec, ?_⟩, fun hn => ⟨_, hexec, ?_⟩⟩
  · rw [State.takeTrap_of_named hk htv ((tvecNames_iff hinh tv).2 hn)]
    obtain ⟨h1, -⟩ := State.enterHandler_eq (s.beforeEntry cc (s.getCc cc).trap) cc (s.getCc cc).trap tv
    obtain ⟨hcs, hdup, htrap0⟩ := State.beforeEntry_states (s := s) (cc := cc) (recs := (s.getCc cc).trap)
    refine ⟨by rw [h1], by rw [h1]; exact htrap0, by rw [h1, hcs]; rfl, by rw [h1]; exact hdup, fun d hd => ?_⟩
    rw [takeTrap_getCd hd]
    exact entered_shows ..
  · rw [State.takeTrap_of_unnamed hk htv fun h => hn ((tvecNames_iff hinh tv).1 h), State.getCc_updCc_same]
    refine ⟨rfl, State.rollback_inh.trans hinh, List.map_congr_left fun x _ => ?_⟩
    rw [unhandled]

end Sys2Proof.Machine
end

section
/-! SUPPORT. The work of the envelope unit (R174, R182 to R185, R219). -/

set_option Elab.async false

namespace Sys2Proof.Machine

open Claims

/-! ### Bytes stored line by line -/

theorem State.writeBytes_mem_congr (l : List Byte) : ∀ {x y : State} (loc : Nat), x.mem = y.mem → (x.writeBytes loc l).mem = (y.writeBytes loc l).mem := by
  induction l with
  | nil => exact fun _ h => h
  | cons b l ih => exact fun loc h => ih _ (by rw [State.writeByte, State.writeByte, h])

theorem State.writeBytes_append (a b : List Byte) : ∀ (x : State) (loc : Nat), x.writeBytes loc (a ++ b) = (x.writeBytes loc a).writeBytes (loc + a.length) b := by
  induction a with
  | nil => exact fun _ _ => rfl
  | cons c a ih =>
    intro x loc
    rw [List.cons_append, State.writeBytes, State.writeBytes, ih, List.length_cons]
    congr 1
    omega

theorem State.store_mem_eq (x : State) (loc : Nat) (l : List Byte) : (x.store loc l).mem = (x.writeBytes loc l).mem := by simp [State.store]

theorem State.storeP_mem_eq (x : State) (loc : Nat) (l : List (Byte × Bool)) : (x.storeP loc l).mem = (x.writeBytes loc (l.map Prod.fst)).mem := by
  unfold State.storeP
  dsimp only
  split
  · exact State.store_mem_eq ..
  · exact State.store_mem_eq ..

/-- Data stored in the pieces of its lines is the data stored at once. -/
theorem State.storePieces_mem (data : List (Byte × Bool)) (loc : Nat) (fuel : Nat) :
    ∀ (x : State) (k : Nat), k ≤ data.length → (k = data.length ∨ (loc + k) % 64 + (data.length - k) ≤ 64 * fuel) →
      ((pieces64 fuel (loc + k) (data.length - k)).foldl (fun s p => s.storeP p.1 ((data.drop (p.1 - loc)).take p.2)) x).mem =
        (x.writeBytes (loc + k) ((data.drop k).map Prod.fst)).mem := by
  induction fuel with
  | zero =>
    intro x k hk h
    have hlen : k = data.length := by omega
    rw [pieces64, hlen, List.drop_length]
    rfl
  | succ fuel ih =>
    intro x k hk h
    rw [pieces64]
    by_cases hn : data.length - k = 0
    · rw [if_pos hn, List.drop_of_length_le (by omega)]
      rfl
    · rw [if_neg hn]
      dsimp only
      generalize hm : Nat.min (data.length - k) (64 - (loc + k) % 64) = m
      have hm' : m ≤ data.length - k ∧ m ≤ 64 - (loc + k) % 64 ∧ (m = data.length - k ∨ m = 64 - (loc + k) % 64) := by
        rw [← hm]
        exact ⟨Nat.min_le_left .., Nat.min_le_right .., by rcases Nat.le_total (data.length - k) (64 - (loc + k) % 64) with g | g
                                                           · exact .inl (Nat.min_eq_left g)
                                                           · exact .inr (Nat.min_eq_right g)⟩
      have hsplit : (data.drop k).map Prod.fst = ((data.drop k).take m).map Prod.fst ++ (data.drop (k + m)).map Prod.fst := by
        rw [← List.map_append, ← List.drop_drop, List.take_append_drop]
      have hlen : (((data.drop k).take m).map Prod.fst).length = m := by
        rw [List.length_map, List.length_take, List.length_drop]
        omega
      rw [List.foldl_cons, show loc + k - loc = k by omega, Nat.add_assoc, show data.length - k - m = data.length - (k + m) by omega,
        ih _ (k + m) (by omega) (by omega), hsplit, State.writeBytes_append, hlen, Nat.add_assoc]
      exact State.writeBytes_mem_congr _ _ (State.storeP_mem_eq ..)

/-- Data stored over no later store is the data stored at once. -/
theorem State.storeOver_mem_eq (x : State) (loc : Nat) (data : List (Byte × Bool)) : (x.storeOver loc data []).mem = (x.writeBytes loc (data.map Prod.fst)).mem := by
  have h := State.storePieces_mem data loc (data.length / 64 + 2) x 0 (Nat.zero_le _) (.inr (by omega))
  rwa [Nat.add_zero, Nat.sub_zero, List.drop_zero] at h

theorem State.storeOver_mem (x : State) (loc : Nat) (data : List Byte) : (x.storeOver loc (data.map fun b => (b, false)) []).mem = (x.store loc data).mem := by
  rw [State.storeOver_mem_eq, State.store_mem_eq, List.map_map]
  exact congrArg (fun l => (x.writeBytes loc l).mem) (List.map_id _)

theorem Accessed.storeOver {s x : State} (h : Accessed s x) (loc : Nat) (data : List (Byte × Bool)) (passed : List Nat) : Accessed s (x.storeOver loc data passed) := by
  unfold State.storeOver
  split
  · exact foldl_ind (P := Accessed s) (fun _ _ hy => hy.storeP ..) _ _ h
  · exact foldl_ind (P := Accessed s) (fun _ _ hy => hy.storeP ..) _ _ h

/-! ### A fault delivered (R211) -/

/-- R211: an asynchronous fault is told, whatever else the state has become. -/
theorem told_asyncFault {s x y : State} {ck seq : Nat} {r : FRec} (hcc : x.getCc (ckCc ck) = s.getCc (ckCc ck)) (hclk : x.clock = s.clock)
    (hy : y.cc = (x.asyncFault ck r seq).cc) : Told s y ck seq r := by
  intro hnow
  have hno : (decide ((s.getCc (ckCc ck)).trapAt = s.clock + 1) && !(s.getCc (ckCc ck)).trap.isEmpty) = false := by
    rcases hnow with h | h
    · rw [decide_eq_false h]
      rfl
    · rw [h]
      exact Bool.and_false _
  have hget : y.getCc (ckCc ck) = (x.asyncFault ck r seq).getCc (ckCc ck) := by rw [State.getCc, hy]; rfl
  rw [hget, State.asyncFault, State.getCc_updCc_same, hcc, hclk, ColCtx.addFault, hno, if_neg Bool.false_ne_true]

/-! ### The steps of the unit -/

/-- What the steps of a completion leave alone: contexts, column contexts, the clock, and the queue of the core. -/
structure EvFrame (core : Nat) (x y : State) : Prop where
  cd : ∀ k, y.getCd k = x.getCd k
  cc : y.cc = x.cc
  clock : y.clock = x.clock
  evq : (y.getCore core).evq = (x.getCore core).evq

/-- R184: the image of a completion stored. -/
def State.imageStored (s : State) (core : Nat) (e : EvOp) : State :=
  let off := (e.addr.toNat - spadBase) % 2 ^ 21
  if e.image.isEmpty then s
  else (s.storeOver (spadLoc (core / 32) (core % 32) off) (e.image.map fun b => (b, false)) e.passed).imageSaved e.launch core off e.image

/-- R184: the signal of a completion. -/
def State.evSignal (s : State) (core : Nat) (e : EvOp) : State :=
  match evHdr e.op, e.bad with
  | some h, none => s.teamSignal e.launch core h.sigSem.toNat h.sigInc.toInt
  | _, _ => s

theorem State.evFinish_eq (s : State) (core : Nat) (e : EvOp) :
    s.evFinish core e = (((s.evWrites core e).imageStored core e).evSignal core e).evDone core e := rfl

section

variable (s : State) (core : Nat) (e : EvOp)

theorem State.evDone_evq : ((s.evDone core e).getCore core).evq = (s.getCore core).evq.filter fun x => x.uid != e.uid := by
  rw [State.evDone, State.updCore, State.getCore_setCore_same]

theorem State.evDone_getCd (k : Nat) : (s.evDone core e).getCd k = s.getCd k := State.getCd_updCore _ _ _ _ fun _ => rfl

theorem State.evDone_sig : ((s.evDone core e).getCore core).sig = (s.getCore core).sig := by rw [State.evDone, State.updCore, State.getCore_setCore_same]

theorem State.imageSaved_frame (launch off : Nat) (data : List Byte) : EvFrame core s (s.imageSaved launch core off data) ∧
    (s.imageSaved launch core off data).core = s.core ∧ (s.imageSaved launch core off data).mem = s.mem := by
  unfold State.imageSaved
  dsimp only
  split <;> exact ⟨⟨fun _ => rfl, rfl, rfl, rfl⟩, rfl, rfl⟩

/-- R99: an image put into a save area moves no launch's counts. -/
theorem State.imageSaved_holder (launch off : Nat) (data : List Byte) (l col : Nat) (h : s.sharedHolder l col = none) :
    (s.imageSaved launch core off data).sharedHolder l col = none := by
  unfold State.imageSaved
  dsimp only
  split
  · exact h
  · unfold State.sharedHolder at h ⊢
    dsimp only
    rw [List.findSome?_eq_none_iff] at h ⊢
    intro w hw
    obtain ⟨w', hw', rfl⟩ := List.mem_map.1 hw
    have hnone := h w' hw'
    rw [List.find?_eq_none] at hnone ⊢
    intro sv hsv
    obtain ⟨sv', hsv', rfl⟩ := List.mem_map.1 hsv
    have := hnone sv' hsv'
    split
    · exact this
    · exact this

theorem State.imageStored_frame : EvFrame core s (s.imageStored core e) ∧ ((s.imageStored core e).getCore core).sig = (s.getCore core).sig ∧
    ∀ l col, s.sharedHolder l col = none → (s.imageStored core e).sharedHolder l col = none := by
  unfold State.imageStored
  dsimp only
  split
  · exact ⟨⟨fun _ => rfl, rfl, rfl, rfl⟩, rfl, fun _ _ => id⟩
  · generalize hoff : (e.addr.toNat - spadBase) % 2 ^ 21 = off
    have hx := (Accessed.refl s).storeOver (spadLoc (core / 32) (core % 32) off) (e.image.map fun b => (b, false)) e.passed
    generalize (s.storeOver (spadLoc (core / 32) (core % 32) off) (e.image.map fun b => (b, false)) e.passed) = x at hx
    obtain ⟨hclk, -, hcc, -, -, -, -, -, hsw, -⟩ := hx.unaccessed_eq
    have hcore := hx.core core
    obtain ⟨hf, hc, -⟩ := x.imageSaved_frame core e.launch off e.image
    have hget : (x.imageSaved e.launch core off e.image).getCore core = x.getCore core := by rw [State.getCore, hc]; rfl
    refine ⟨⟨fun k => (hf.cd k).trans (hx.getCd k), hf.cc.trans hcc, hf.clock.trans hclk, ?_⟩, ?_, fun l col hl => ?_⟩
    · rw [hget, (congrArg Core.evq hcore :)]
    · rw [hget, (congrArg Core.sig hcore :)]
    · refine x.imageSaved_holder core e.launch off e.image l col ?_
      rw [State.sharedHolder, hsw]
      exact hl

theorem State.imageStored_mem : (e.image = [] → (s.imageStored core e).mem = s.mem) ∧
    (e.image ≠ [] → e.passed = [] → (s.imageStored core e).mem = (s.store (spadLoc (core / 32) (core % 32) ((e.addr.toNat - spadBase) % 2 ^ 21)) e.image).mem) := by
  unfold State.imageStored
  dsimp only
  refine ⟨fun h => by rw [h, List.isEmpty_nil, if_pos rfl], fun h hp => ?_⟩
  rw [List.isEmpty_eq_false_iff.2 h, if_neg Bool.false_ne_true, (State.imageSaved_frame ..).2.2, hp, State.storeOver_mem]

theorem State.teamSignal_frame (launch sem : Nat) (inc : Int) : EvFrame core s (s.teamSignal launch core sem inc) ∧ (s.teamSignal launch core sem inc).mem = s.mem := by
  unfold State.teamSignal
  split
  · unfold State.signal
    split
    · exact ⟨⟨fun _ => rfl, rfl, rfl, rfl⟩, rfl⟩
    · refine ⟨⟨fun k => State.getCd_updCore s core k _ fun _ => rfl, rfl, rfl, ?_⟩, rfl⟩
      rw [State.updCore, State.getCore_setCore_same]
  · split <;> exact ⟨⟨fun _ => rfl, rfl, rfl, rfl⟩, rfl⟩

theorem State.evSignal_frame : EvFrame core s (s.evSignal core e) ∧ (s.evSignal core e).mem = s.mem := by
  unfold State.evSignal
  split
  · exact State.teamSignal_frame ..
  · exact ⟨⟨fun _ => rfl, rfl, rfl, rfl⟩, rfl⟩

theorem State.evSignal_bad {f : FRec} (h : e.bad = some f) : s.evSignal core e = s := by
  unfold State.evSignal
  rw [h]
  cases evHdr e.op <;> rfl

theorem State.evSignal_good {h : Hdr} (hh : evHdr e.op = some h) (hb : e.bad = none) (hs : s.sharedHolder e.launch (core % 32) = none) :
    s.evSignal core e = s.signal core h.sigSem.toNat h.sigInc.toInt := by
  unfold State.evSignal
  rw [hh, hb]
  dsimp only
  unfold State.teamSignal
  rw [hs]
  exact if_pos rfl

/-! ### The registers that a completion writes (R184, R219) -/

/-- R184, R219: the result of an operation in its context's registers. -/
def evResult (e : EvOp) (c : CtxDie) : CtxDie :=
  match e.res, evDest e.op with
  | some r, some n =>
    let w := fun (w : WorkSet) => { w with e := SMap.set Env.launch w.e n r }
    { c with ws := w c.ws, dup := if e.pre then w c.dup else c.dup }
  | _, _ => c

/-- R172, R219: ENAN in its context's registers. -/
def evSetNan (e : EvOp) (c : CtxDie) : CtxDie :=
  let f := fun (w : WorkSet) => { w with eflg := w.eflg ||| 1#32 }
  if e.enan then { c with ws := f c.ws, dup := if e.pre then f c.dup else c.dup } else c

/-- The state with the registers of a completion written. -/
def State.evRegs (s : State) (e : EvOp) : State :=
  let s := match e.res, evDest e.op with
    | some r, some n =>
      let w := fun (w : WorkSet) => { w with e := SMap.set Env.launch w.e n r }
      s.updCd e.ck fun c => { c with ws := w c.ws, dup := if e.pre then w c.dup else c.dup }
    | _, _ => s
  if e.enan then s.setEnan e else s

/-- R174: what a breakpoint overflow leaves in place of a result. -/
def State.evBad (s : State) (core : Nat) (e : EvOp) : State :=
  match e.bad with
  | some f =>
    if e.launch = 0 then ((s.evAbandon core e.ck).evDone core e).asyncFault e.ck { f with r1 := e.bundle } e.uid
    else (s.evDone core e).savedEvFault e { f with r1 := e.bundle }
  | none => s

theorem State.evWrites_eq : s.evWrites core e = (s.evRegs e).evBad core e := rfl

theorem State.updCd_frame (F : CtxDie → CtxDie) (ck : Nat) : (s.updCd ck F).cc = s.cc ∧ (s.updCd ck F).clock = s.clock ∧ (s.updCd ck F).mem = s.mem ∧
    (s.updCd ck F).swaps = s.swaps ∧ ((s.updCd ck F).getCore core).sig = (s.getCore core).sig ∧ ((s.updCd ck F).getCore core).evq = (s.getCore core).evq := by
  have hcore := (s.getCore_updCd_keeps ck F core).1
  have hevq : ((s.updCd ck F).getCore core).evq = (s.getCore core).evq := (congrArg Core.evq hcore :)
  have hsig := (s.getCore_updCd_keeps ck F core).2
  refine ⟨?_, ?_, ?_, ?_, hsig, hevq⟩ <;> unfold State.updCd State.setCd <;> split <;> rfl

theorem State.evRegs_frame : (s.evRegs e).cc = s.cc ∧ (s.evRegs e).clock = s.clock ∧ (s.evRegs e).mem = s.mem ∧
    (s.evRegs e).swaps = s.swaps ∧ ((s.evRegs e).getCore core).sig = (s.getCore core).sig ∧ ((s.evRegs e).getCore core).evq = (s.getCore core).evq := by
  have hresult : ∀ x : State, x = s ∨ (∃ F, x = s.updCd e.ck F) → x.cc = s.cc ∧ x.clock = s.clock ∧ x.mem = s.mem ∧ x.swaps = s.swaps ∧
      (x.getCore core).sig = (s.getCore core).sig ∧ (x.getCore core).evq = (s.getCore core).evq := by
    rintro x (rfl | ⟨F, rfl⟩)
    · exact ⟨rfl, rfl, rfl, rfl, rfl, rfl⟩
    · exact State.updCd_frame ..
  unfold State.evRegs
  generalize hx : (match e.res, evDest e.op with
    | some r, some n => s.updCd e.ck fun c => { c with ws := { c.ws with e := SMap.set Env.launch c.ws.e n r }, dup := if e.pre then { c.dup with e := SMap.set Env.launch c.dup.e n r } else c.dup }
    | _, _ => s) = x
  have h1 := hresult x (by
    rw [← hx]
    split
    · exact .inr ⟨_, rfl⟩
    · exact .inl rfl)
  dsimp only
  split
  · obtain ⟨a1, a2, a3, a4, a5, a6⟩ := h1
    obtain ⟨b1, b2, b3, b4, b5, b6⟩ := x.updCd_frame core (evSetNan e) e.ck
    have hset : x.setEnan e = x.updCd e.ck (evSetNan e) := by
      unfold State.setEnan evSetNan
      simp only [if_pos ‹e.enan = true›]
    rw [hset]
    exact ⟨b1.trans a1, b2.trans a2, b3.trans a3, b4.trans a4, b5.trans a5, b6.trans a6⟩
  · exact h1

theorem State.evRegs_getCd : (s.evRegs e).getCd e.ck = evSetNan e (evResult e (s.getCd e.ck)) := by
  unfold State.evRegs State.setEnan evSetNan evResult
  cases e.res with
  | none => dsimp only; split <;> simp only [State.getCd_updCd_same]
  | some r =>
    cases evDest e.op with
    | none => dsimp only; split <;> simp only [State.getCd_updCd_same]
    | some n => dsimp only; split <;> simp only [State.getCd_updCd_same]

theorem evSetNan_regs (c : CtxDie) : (evSetNan e c).ws.e = c.ws.e ∧ (evSetNan e c).dup.e = c.dup.e ∧ (evSetNan e c).ws.eflg = if e.enan then c.ws.eflg ||| 1#32 else c.ws.eflg := by
  unfold evSetNan
  dsimp only
  split
  · split <;> exact ⟨rfl, rfl, rfl⟩
  · exact ⟨rfl, rfl, rfl⟩

theorem evResult_eflg (c : CtxDie) : (evResult e c).ws.eflg = c.ws.eflg := by
  unfold evResult
  split <;> rfl

theorem evResult_regs (c : CtxDie) {r : Env} {n : Nat} (hr : e.res = some r) (hn : evDest e.op = some n) :
    (evResult e c).ws.e = SMap.set Env.launch c.ws.e n r ∧ (evResult e c).dup.e = if e.pre then SMap.set Env.launch c.dup.e n r else c.dup.e := by
  unfold evResult
  rw [hr, hn]
  dsimp only
  split <;> exact ⟨rfl, rfl⟩

theorem State.evAbandon_evq (ck : Nat) : ((s.evAbandon core ck).getCore core).evq = (s.getCore core).evq.filter (fun x => x.ck != ck || x.due.isSome) ∧
    ((s.evAbandon core ck).getCore core).sig = (s.getCore core).sig := by
  rw [State.evAbandon, State.updCore, State.getCore_setCore_same]
  exact ⟨rfl, rfl⟩

theorem State.evBad_getCd (k : Nat) : (s.evBad core e).getCd k = s.getCd k := by
  unfold State.evBad
  split
  · split
    · exact (State.evDone_getCd (s.evAbandon core e.ck) core e k).trans (State.getCd_updCore s core k _ fun _ => rfl)
    · exact State.evDone_getCd ..
  · rfl

theorem State.evBad_mem : (s.evBad core e).mem = s.mem := by
  unfold State.evBad
  split
  · split <;> rfl
  · rfl

end

/-! ### The obligation -/

section

variable {s : State} {core : Nat} {e : EvOp}

theorem evStart_of_next (h : s.evNext core = some e) : exec (.evOperationStart core) s = .next (s.evStart core e) := by
  change execEvOperationStart core s = _
  unfold execEvOperationStart
  rw [h]

theorem evFinish_of_due (h : ((s.getCore core).evq.find? fun x => x.due == some s.clock) = some e) : exec (.evOperationComplete core) s = .next (s.evFinish core e) := by
  change execEvOperationComplete core s = _
  unfold execEvOperationComplete
  rw [h]

theorem evStart_runs (h : (s.evRun e).fault = none) : s.evStart core e = s.updCore core fun k => { k with evq := k.evq.map fun x =>
    if x.uid == e.uid then { x with
      due := some (s.clock + (s.evRun e).clocks), res := if ((s.evRun e).overflow e.op).isSome then none else (s.evRun e).res.map (·.env),
      enan := ((s.evRun e).res.map (·.enan)).getD false, image := (s.evRun e).image, bad := (s.evRun e).overflow e.op }
    else x } := by
  unfold State.evStart
  dsimp only
  rw [h]

theorem evStart_faults {f : FRec} (h : (s.evRun e).fault = some f) : s.evStart core e = (s.evDone core e).asyncFault e.ck { f with r1 := e.bundle } e.uid := by
  unfold State.evStart
  dsimp only
  rw [h]

theorem evStart_starts (hnext : s.evNext core = some e) : let r := s.evRun e
    (r.fault = none → ∃ t, exec (.evOperationStart core) s = .next t ∧ t.mem = s.mem ∧ t.cd = s.cd ∧ t.cc = s.cc ∧
      (t.getCore core).evq = (s.getCore core).evq.map fun x => if x.uid = e.uid then { x with
        due := some (s.clock + r.clocks), res := if (r.overflow e.op).isSome then none else r.res.map (·.env),
        enan := (r.res.map (·.enan)).getD false, image := r.image, bad := r.overflow e.op } else x) ∧
    ∀ f, r.fault = some f → ∃ t, exec (.evOperationStart core) s = .next t ∧ t.mem = s.mem ∧
      (∀ x ∈ (t.getCore core).evq, x.uid ≠ e.uid) ∧ Told s t e.ck e.uid { f with r1 := e.bundle } := by
  dsimp only
  refine ⟨fun h => ⟨_, evStart_of_next hnext, ?_⟩, fun f h => ⟨_, evStart_of_next hnext, ?_⟩⟩
  · rw [evStart_runs h]
    refine ⟨rfl, rfl, rfl, ?_⟩
    rw [State.updCore, State.getCore_setCore_same]
    simp only [beq_iff_eq]
  · rw [evStart_faults h]
    refine ⟨rfl, fun x hx => ?_, told_asyncFault (x := s.evDone core e) rfl rfl rfl⟩
    have hq : (((s.evDone core e).asyncFault e.ck { f with r1 := e.bundle } e.uid).getCore core).evq = (s.getCore core).evq.filter fun x => x.uid != e.uid :=
      State.evDone_evq s core e
    rw [hq] at hx
    simpa using (List.mem_filter.1 hx).2

/-- R174: the breakpoint overflow of an operation whose context runs. -/
theorem evFinish_overflow {f : FRec} (hbad : e.bad = some f) (hl : e.launch = 0) : Told s (s.evFinish core e) e.ck e.uid { f with r1 := e.bundle } ∧
    ((s.evFinish core e).getCore core).sig = (s.getCore core).sig ∧ ∀ x ∈ ((s.evFinish core e).getCore core).evq, x.uid ≠ e.uid ∧ (x.ck = e.ck → x.due ≠ none) := by
  obtain ⟨hcc, hclk, -, -, hsig, -⟩ := State.evRegs_frame s core e
  have hw : s.evWrites core e = (((s.evRegs e).evAbandon core e.ck).evDone core e).asyncFault e.ck { f with r1 := e.bundle } e.uid := by
    rw [State.evWrites_eq, State.evBad, hbad]
    exact if_pos hl
  rw [State.evFinish_eq, State.evSignal_bad _ _ _ hbad]
  obtain ⟨hf, hs, -⟩ := State.imageStored_frame (s.evWrites core e) core e
  obtain ⟨haq, has⟩ := State.evAbandon_evq (s.evRegs e) core e.ck
  have hq : ((s.evWrites core e).getCore core).evq = (((s.evRegs e).getCore core).evq.filter fun x => x.ck != e.ck || x.due.isSome).filter fun x => x.uid != e.uid := by
    rw [hw, ← haq]
    exact State.evDone_evq ..
  refine ⟨told_asyncFault (x := ((s.evRegs e).evAbandon core e.ck).evDone core e) ?_ hclk ?_, ?_, fun x hx => ?_⟩
  · change (s.evRegs e).getCc _ = _
    rw [State.getCc, hcc]
    rfl
  · exact hf.cc.trans (by rw [hw])
  · rw [State.evDone_sig, hs, hw]
    exact (State.evDone_sig ((s.evRegs e).evAbandon core e.ck) core e).trans (has.trans hsig)
  · rw [State.evDone_evq, hf.evq, hq] at hx
    obtain ⟨hx, huid⟩ := List.mem_filter.1 hx
    obtain ⟨hx, -⟩ := List.mem_filter.1 hx
    obtain ⟨-, hck⟩ := List.mem_filter.1 hx
    refine ⟨by simpa using huid, fun h hnone => ?_⟩
    rw [h, hnone] at hck
    simp at hck

theorem evFinish_completes : (e.bad = none → ((s.evFinish core e).getCore core).evq = (s.getCore core).evq.filter (fun x => x.uid != e.uid)) ∧
    (∀ h, evHdr e.op = some h → e.bad = none → s.sharedHolder e.launch (core % 32) = none → Signals s (s.evFinish core e) core h.sigSem.toNat h.sigInc.toInt) := by
  obtain ⟨-, -, -, hsw, hsig, hevq⟩ := State.evRegs_frame s core e
  obtain ⟨hf, hs, hh⟩ := State.imageStored_frame (s.evWrites core e) core e
  have hw : e.bad = none → s.evWrites core e = s.evRegs e := fun hb => by rw [State.evWrites_eq, State.evBad, hb]
  rw [State.evFinish_eq]
  refine ⟨fun hb => ?_, fun h hop hb hshared => ?_⟩
  · rw [State.evDone_evq, (State.evSignal_frame ..).1.evq, hf.evq, hw hb, hevq]
  · have hno : ((s.evWrites core e).imageStored core e).sharedHolder e.launch (core % 32) = none := hh _ _ (by
      rw [hw hb, State.sharedHolder, hsw]
      exact hshared)
    rw [Signals, State.evDone_sig, State.evSignal_good _ _ _ hop hb hno, State.signal, State.signal]
    have hsame : (((s.evWrites core e).imageStored core e).getCore core).sig = (s.getCore core).sig := by rw [hs, hw hb, hsig]
    split
    · exact hsame
    · rw [State.updCore, State.updCore, State.getCore_setCore_same, State.getCore_setCore_same, hsame]

theorem evFinish_mem : (e.image = [] → (s.evFinish core e).mem = s.mem) ∧
    (e.image ≠ [] → e.passed = [] → (s.evFinish core e).mem = (s.store (spadLoc (core / 32) (core % 32) ((e.addr.toNat - spadBase) % 2 ^ 21)) e.image).mem) := by
  obtain ⟨-, -, hmem, -⟩ := State.evRegs_frame s core e
  obtain ⟨h1, h2⟩ := State.imageStored_mem (s.evWrites core e) core e
  have hw : (s.evWrites core e).mem = s.mem := by rw [State.evWrites_eq, State.evBad_mem, hmem]
  have ht : (s.evFinish core e).mem = ((s.evWrites core e).imageStored core e).mem := by
    rw [State.evFinish_eq]
    exact (State.evSignal_frame _ core e).2
  rw [ht]
  refine ⟨fun h => (h1 h).trans hw, fun h hp => (h2 h hp).trans ?_⟩
  rw [State.store_mem_eq, State.store_mem_eq]
  exact State.writeBytes_mem_congr _ _ hw

theorem evFinish_getCd : (s.evFinish core e).getCd e.ck = evSetNan e (evResult e (s.getCd e.ck)) := by
  rw [State.evFinish_eq, State.evDone_getCd, (State.evSignal_frame ..).1.cd, (State.imageStored_frame ..).1.cd, State.evWrites_eq, State.evBad_getCd, State.evRegs_getCd]

theorem evFinish_regs : let c := s.getCd e.ck
    let x := (s.evFinish core e).getCd e.ck
    x.ws.eflg = (if e.enan then c.ws.eflg ||| 1#32 else c.ws.eflg) ∧
    ∀ r n, e.res = some r → evDest e.op = some n → SMap.get Env.launch x.ws.e n = r ∧
      (e.pre = true → SMap.get Env.launch x.dup.e n = r) ∧ (e.pre = false → x.dup.e = c.dup.e) ∧
      ∀ m ≠ n, SMap.get Env.launch x.ws.e m = SMap.get Env.launch c.ws.e m := by
  intro c x
  have hx : x = evSetNan e (evResult e c) := evFinish_getCd
  rw [hx]
  obtain ⟨h1, h2, h3⟩ := evSetNan_regs e (evResult e c)
  refine ⟨by rw [h3, evResult_eflg], fun r n hr hn => ?_⟩
  obtain ⟨g1, g2⟩ := evResult_regs e c hr hn
  rw [h1, h2, g1, g2]
  refine ⟨SMap.get_set_same .., fun hp => ?_, fun hp => ?_, fun m hm => SMap.get_set_other _ _ _ _ _ hm⟩
  · rw [if_pos hp, SMap.get_set_same]
  · rw [hp, if_neg Bool.false_ne_true]

end

/-- Settles O44. -/
theorem envelopeEvents : Obligations.EnvelopeEvents := by
  refine ⟨fun s core e hnext => evStart_starts hnext, fun s core e hdue => ⟨_, evFinish_of_due hdue, ?_⟩, fun s e h f hop => ?_⟩
  · exact ⟨evFinish_completes.1, evFinish_completes.2, fun f hb hl => evFinish_overflow hb hl, evFinish_mem.1, evFinish_mem.2, evFinish_regs⟩
  · unfold State.evRun
    rw [hop]
    dsimp only
    refine ⟨rfl, ?_⟩
    unfold evClocks ceilDiv
    exact rfl

end Sys2Proof.Machine
end

section
/-! SUPPORT. The events of column contexts (R90, R92, R96, R101, R293). -/

set_option Elab.async false

namespace Sys2Proof.Machine

open Claims

/-! ### A column that picks a context (R88 to R90) -/

/-- The part of the state that no choice of a column touches. -/
def State.unpicked (s : State) : State := { s with cc := [], col := [], traceQ := [] }

/-- `y` is `x` after choices of columns: contexts made ACTIVE, with the arbiter's records. -/
structure Picked (x y : State) : Prop where
  cc : ∀ k, y.getCc k = x.getCc k ∨ y.getCc k = { x.getCc k with st := .active }
  rest : y.unpicked = x.unpicked

namespace Picked

variable {s x y : State}

theorem refl (s : State) : Picked s s := ⟨fun _ => .inl rfl, rfl⟩

theorem trans (h : Picked s x) (g : Picked x y) : Picked s y := by
  refine ⟨fun k => ?_, g.rest.trans h.rest⟩
  rcases g.cc k with hk | hk <;> rw [hk]
  · exact h.cc k
  · rcases h.cc k with hj | hj <;> rw [hj] <;> exact .inr rfl

theorem of_cols (h : Picked s x) (hcc : y.cc = x.cc) (hr : y.unpicked = x.unpicked) : Picked s y :=
  h.trans ⟨fun k => .inl (by rw [State.getCc, hcc]; rfl), hr⟩

theorem activate (h : Picked s x) (col k from_ : Nat) : Picked s (x.activate col k from_) := by
  refine h.trans ⟨fun j => ?_, rfl⟩
  change (x.updCc (ccKey col k) fun c => { c with st := .active }).getCc j = _ ∨ (x.updCc (ccKey col k) fun c => { c with st := .active }).getCc j = _
  by_cases hj : j = ccKey col k
  · rw [hj, State.getCc_updCc_same]
    exact .inr rfl
  · rw [State.getCc_updCc_other _ _ _ _ hj]
    exact .inl rfl

theorem eventRecord (h : Picked s x) (cc sub die : Nat) : Picked s (x.eventRecord cc sub die) := by
  unfold State.eventRecord
  split
  · exact h.of_cols rfl rfl
  · exact h

theorem decide (h : Picked s x) (col from_ : Nat) : Picked s (x.decide col from_) := by
  have h1 : Picked s (x.noteAges col) := h.of_cols rfl rfl
  unfold State.decide
  dsimp only
  split
  · exact h1.of_cols rfl rfl
  · split
    · exact h1
    · refine Picked.eventRecord (Picked.activate ?_ ..) ..
      exact h1.of_cols rfl rfl

theorem pickIdle (h : Picked s x) (col : Nat) : Picked s (x.pickIdle col) := by
  unfold State.pickIdle
  split
  · exact h.decide ..
  · exact h

theorem cd (h : Picked s x) : x.cd = s.cd := (congrArg State.cd h.rest :)

theorem core (h : Picked s x) : x.core = s.core := (congrArg State.core h.rest :)

theorem barriers (h : Picked s x) : x.barriers = s.barriers := (congrArg State.barriers h.rest :)

end Picked

/-! ### Tables mapped -/

theorem SMap.get_map {α : Type} {d : α} {f : α → α} (hf : f d = d) (k : Nat) (m : SMap α) : SMap.get d (m.map fun x => (x.1, f x.2)) k = f (SMap.get d m k) := by
  induction m with
  | nil => exact hf.symm
  | cons x m ih =>
    rw [List.map_cons, SMap.get, SMap.get]
    split
    · rfl
    · exact ih

theorem SMap.key_of_mem_erase {α : Type} {k : Nat} {m : SMap α} : ∀ {x : Nat × α}, x ∈ SMap.erase m k → x.1 ≠ k := by
  induction m with
  | nil => exact fun h => (List.not_mem_nil h).elim
  | cons y m ih =>
    intro x h
    rw [SMap.erase] at h
    split at h
    · exact ih h
    · rcases List.mem_cons.1 h with rfl | h
      · assumption
      · exact ih h

theorem State.getCd_mapCtxs {f : CtxDie → CtxDie} (hf : f {} = {}) (s : State) (k : Nat) : (s.mapCtxs f).getCd k = f (s.getCd k) := by
  have hcore (j : Nat) : (s.mapCtxs f).getCore j = { s.getCore j with fw := f (s.getCore j).fw } :=
    SMap.get_map (d := ({} : Core)) (f := fun c : Core => { c with fw := f c.fw }) (by rw [hf]) j s.core
  unfold State.getCd
  split
  · exact SMap.get_map hf k s.cd
  · rw [hcore]

/-! ### Blocking conditions (R90, R92) -/

theorem blockingClears {s : State} {cc : Nat} {r : BlkReason} (hcc : cc < 128) (hst : (s.getCc cc).st = .blocked) (hblk : (s.getCc cc).blk = some r)
    (hr : ∀ k, r ≠ .barrier k) (htrap : (s.getCc cc).trap = []) (hclear : ∀ x ∈ s.blockedWith cc, s.stillBlocked x.1 x.2 = false) :
    exec (.blockingConditionClears cc) s = .next ((s.updCc cc fun c => { c with st := .ready, blk := none }).pickIdle (ccCol cc)) := by
  change execBlockingConditionClears cc s = _
  unfold execBlockingConditionClears
  have hany : ((s.blockedWith cc).any fun x => s.stillBlocked x.1 x.2) = false := List.any_eq_false.2 fun x hx => by rw [hclear x hx]; decide
  dsimp only
  rw [hblk, hst, htrap, hany, decide_eq_false (by omega)]
  cases r with
  | barrier k => exact absurd rfl (hr k)
  | _ => rfl

theorem blockedBecomesReady {s : State} {cc : Nat} {r : BlkReason} (hcc : cc < 128) (hst : (s.getCc cc).st = .blocked) (hblk : (s.getCc cc).blk = some r)
    (hr : ∀ k, r ≠ .barrier k) (htrap : (s.getCc cc).trap = []) (hclear : ∀ x ∈ s.blockedWith cc, s.stillBlocked x.1 x.2 = false) :
    ∃ t, exec (.blockingConditionClears cc) s = .next t ∧ (t.getCc cc).blk = none ∧
      ((t.getCc cc).st = .ready ∨ (t.getCc cc).st = .active) ∧ (t.getCc cc).cs = (s.getCc cc).cs ∧ t.cd = s.cd ∧ t.core = s.core := by
  refine ⟨_, blockingClears hcc hst hblk hr htrap hclear, ?_⟩
  have hp := (Picked.refl (s.updCc cc fun c => { c with st := .ready, blk := none })).pickIdle (ccCol cc)
  have hget := hp.cc cc
  rw [State.getCc_updCc_same] at hget
  rcases hget with h | h <;> rw [h]
  · exact ⟨rfl, .inl rfl, rfl, hp.cd, hp.core⟩
  · exact ⟨rfl, .inr rfl, rfl, hp.cd, hp.core⟩

/-! ### Retirement (R90) -/

/-- `y` is `s`, with its engines written but as they were. -/
structure EngSame (s y : State) : Prop where
  rest : { y with eng := s.eng } = s
  eng : ∀ k, y.getEng k = s.getEng k

theorem EngSame.eq_with {s y : State} (h : EngSame s y) : y = { s with eng := y.eng } := by
  conv_rhs => rw [← h.rest]

theorem EngSame.busyDie {s y : State} (h : EngSame s y) (ck : Nat) : y.busyDie ck = s.busyDie ck := by
  have heng := h.eng
  have he := EngSame.eq_with h
  generalize y.eng = E at he
  subst he
  unfold State.busyDie
  simp only [heng]
  rfl

theorem EngSame.liveOf {s y : State} (h : EngSame s y) (cc : Nat) : y.liveOf cc = s.liveOf cc := by
  rw [h.eq_with]
  rfl

theorem EngSame.retired {s y : State} (h : EngSame s y) (cc : Nat) : y.retired cc = s.retired cc := by
  have hb := h.busyDie
  have he := EngSame.eq_with h
  generalize y.eng = E at he
  subst he
  unfold State.retired
  simp only [hb]
  rfl

/-- R90, R158: circuits of the context that are to be given up. -/
def Eng.giveUp (clk ck : Nat) (g : Eng) : Eng := { g with circ := g.circ.map fun x => (x.1, x.2.map fun c =>
  if c.ck = ck && c.coll.isNone && c.freeAt.isNone then { c with freeAt := some (clk + 1) } else c) }

theorem Eng.giveUp_none {clk ck : Nat} {g : Eng} (h : (g.circ.any fun x => x.2.any fun y => y.ck == ck) = false) : g.giveUp clk ck = g := by
  have hmap : (g.circ.map fun x => (x.1, x.2.map fun c =>
      if c.ck = ck && c.coll.isNone && c.freeAt.isNone then { c with freeAt := some (clk + 1) } else c)) = g.circ := by
    refine (List.map_congr_left fun x hx => ?_).trans (List.map_id _)
    have hx' := List.any_eq_false.1 h x hx
    obtain ⟨n, o⟩ := x
    cases o with
    | none => rfl
    | some c =>
      have hck : ¬(c.ck = ck) := by simpa using hx'
      have hno : (decide (c.ck = ck) && c.coll.isNone && c.freeAt.isNone) = false := by rw [decide_eq_false hck]; rfl
      dsimp only [Option.map_some]
      rw [hno, if_neg Bool.false_ne_true]
      rfl
  unfold Eng.giveUp
  rw [hmap]

theorem EngSame.giveUp {s y : State} (h : EngSame s y) {ck k : Nat} (hk : ((s.getEng k).circ.any fun x => x.2.any fun z => z.ck == ck) = false) :
    EngSame s (y.updEng k (Eng.giveUp y.clock ck)) := by
  refine ⟨h.rest, fun j => ?_⟩
  have hf : (y.getEng k).giveUp y.clock ck = y.getEng k := Eng.giveUp_none (by rw [h.eng]; exact hk)
  rw [← h.eng j, State.updEng, hf]
  by_cases hj : j = k
  · rw [hj]
    exact SMap.get_set_same ..
  · exact SMap.get_set_other _ _ _ _ _ hj

theorem EngSame.foldl_giveUp {s : State} {ck : Nat} (l : List (Nat × Nat)) : ∀ {y : State}, EngSame s y →
    (∀ e ∈ l, ((s.getEng e.1).circ.any fun x => x.2.any fun z => z.ck == ck) = false) → EngSame s (l.foldl (fun s e => s.updEng e.1 (Eng.giveUp s.clock ck)) y) := by
  induction l with
  | nil => exact fun h _ => h
  | cons e l ih => exact fun h hl => ih (h.giveUp (hl e List.mem_cons_self)) fun e' he' => hl e' (List.mem_cons_of_mem _ he')

theorem EngSame.retireCircs {s y : State} (h : EngSame s y) {ck : Nat} (hb : s.busyDie ck = false) : EngSame s (y.retireCircs ck) := by
  refine EngSame.foldl_giveUp _ h fun e he => ?_
  unfold State.busyDie at hb
  simp only [Bool.or_eq_false_iff] at hb
  have := List.any_eq_false.1 hb.2 e he
  simp only [Bool.or_eq_true, not_or, Bool.not_eq_true] at this
  exact this.2

theorem EngSame.foldl_retireCircs {s : State} {cc : Nat} (l : List Nat) : ∀ {y : State}, EngSame s y → (∀ d ∈ l, s.busyDie (ccCk d cc) = false) →
    EngSame s (l.foldl (fun s d => s.retireCircs (ccCk d cc)) y) := by
  induction l with
  | nil => exact fun h _ => h
  | cons d l ih =>
    intro y h hl
    rw [List.foldl_cons]
    exact ih (h.retireCircs (hl d List.mem_cons_self)) fun d' hd' => hl d' (List.mem_cons_of_mem _ hd')

theorem State.busyDie_of_retired {s : State} {cc : Nat} (h : s.retired cc = true) : ∀ d ∈ s.liveOf cc, s.busyDie (ccCk d cc) = false := by
  unfold State.retired at h
  simp only [Bool.and_eq_true, Bool.not_eq_true'] at h
  obtain ⟨⟨⟨hany, -⟩, -⟩, -⟩ := h
  exact fun d hd => by simpa using List.any_eq_false.1 hany d hd

/-- R90: a context of a die cleared. -/
def State.clearCtx (s : State) (cc d : Nat) : State :=
  (s.updCore (ckCore (ccCk d cc)) fun k => { k with opq := k.opq.filter fun x => x.1 != ccCk d cc }).updCd (ccCk d cc) fun c => { prfctl := c.prfctl }

theorem State.clearCtx_getCd (s : State) (cc d : Nat) : (s.clearCtx cc d).getCd (ccCk d cc) = { prfctl := (s.getCd (ccCk d cc)).prfctl } := by
  rw [State.clearCtx, State.getCd_updCd_same]
  exact congrArg (fun c : CtxDie => ({ prfctl := c.prfctl } : CtxDie)) (State.getCd_updCore s _ _ _ fun _ => rfl)

theorem State.clearCtx_other (s : State) (cc d k : Nat) (h : k ≠ ccCk d cc) : (s.clearCtx cc d).getCd k = s.getCd k := by
  rw [State.clearCtx, State.getCd_updCd_other _ _ _ _ h]
  exact State.getCd_updCore s _ _ _ fun _ => rfl

theorem State.clearCtx_keeps (s : State) (cc d : Nat) : (s.clearCtx cc d).cc = s.cc ∧ (s.clearCtx cc d).mem = s.mem := by
  unfold State.clearCtx State.updCd State.setCd
  split <;> exact ⟨rfl, rfl⟩

/-- R90, R239: what follows a context's end for its column, its launch and the queues. -/
theorem State.freed_keeps (s : State) (col l n : Nat) : ((s.freePair col l).freeSave n).closeQueues.cc = s.cc ∧
    ((s.freePair col l).freeSave n).closeQueues.cd = s.cd ∧ ((s.freePair col l).freeSave n).closeQueues.core = s.core ∧
    ((s.freePair col l).freeSave n).closeQueues.mem = s.mem := by
  have hpair : (s.freePair col l).cc = s.cc ∧ (s.freePair col l).cd = s.cd ∧ (s.freePair col l).core = s.core ∧ (s.freePair col l).mem = s.mem := by
    unfold State.freePair
    split <;> exact ⟨rfl, rfl, rfl, rfl⟩
  generalize s.freePair col l = y at hpair
  obtain ⟨h1, h2, h3, h4⟩ := hpair
  have hsave : (y.freeSave n).cc = y.cc ∧ (y.freeSave n).cd = y.cd ∧ (y.freeSave n).core = y.core ∧ (y.freeSave n).mem = y.mem := by
    unfold State.freeSave State.updLaunch
    split
    · split
      · split <;> exact ⟨rfl, rfl, rfl, rfl⟩
      · exact ⟨rfl, rfl, rfl, rfl⟩
    · exact ⟨rfl, rfl, rfl, rfl⟩
  generalize y.freeSave n = z at hsave
  obtain ⟨g1, g2, g3, g4⟩ := hsave
  exact ⟨g1.trans h1, g2.trans h2, g3.trans h3, g4.trans h4⟩

theorem contextRetires {s : State} {cc : Nat} (hcc : cc < 128) (hst : (s.getCc cc).st = .retiring) (hret : s.retired cc = true) :
    ∃ t, exec (.contextRetireComplete cc) s = .next t ∧ t.getCc cc = {} ∧
      (∀ d ∈ s.liveOf cc, t.getCd (ccCk d cc) = { prfctl := (s.getCd (ccCk d cc)).prfctl }) ∧ (∀ k ≠ cc, t.getCc k = s.getCc k) ∧ t.mem = s.mem := by
  have hsame := EngSame.foldl_retireCircs (s.liveOf cc) (EngSame.mk (s := s) (y := s) rfl fun _ => rfl) (State.busyDie_of_retired hret)
  have hexec : exec (.contextRetireComplete cc) s = .next ((((((s.liveOf cc).foldl (fun s d => s.retireCircs (ccCk d cc)) s).liveOf cc).foldl (fun s d => s.clearCtx cc d)
      ((s.liveOf cc).foldl (fun s d => s.retireCircs (ccCk d cc)) s)).setCc cc {}).freePair (ccCol cc) (s.getCc cc).launch |>.freeSave (s.getCc cc).launch).closeQueues := by
    change execContextRetireComplete cc s = _
    unfold execContextRetireComplete
    have h1 : (decide (cc ≥ 128) || (s.getCc cc).st != .retiring) = false := by rw [decide_eq_false (by omega), hst]; rfl
    dsimp only
    rw [h1, if_neg Bool.false_ne_true, hsame.retired, hret]
    rfl
  refine ⟨_, hexec, ?_⟩
  rw [hsame.liveOf]
  generalize (s.liveOf cc).foldl (fun s d => s.retireCircs (ccCk d cc)) s = y at hsame
  have hrest := hsame.rest
  have hcd (k : Nat) : y.getCd k = s.getCd k := by rw [hsame.eq_with]; rfl
  obtain ⟨hclr, -⟩ := foldl_getCd (cc := cc) (P := fun _ => True) (g := fun _ c => { prfctl := c.prfctl }) (f := fun s d => s.clearCtx cc d) (fun _ _ _ => trivial)
    (fun x d _ => x.clearCtx_getCd cc d) (fun x d k hk => x.clearCtx_other cc d k hk) (s.liveOf cc) y trivial (s.liveOf_nodup cc)
  have hcc : ((s.liveOf cc).foldl (fun s d => s.clearCtx cc d) y).cc = s.cc :=
    (foldl_keeps State.cc _ (fun x d => (x.clearCtx_keeps cc d).1) _ y).trans (congrArg State.cc hrest :)
  have hmem : ((s.liveOf cc).foldl (fun s d => s.clearCtx cc d) y).mem = s.mem :=
    (foldl_keeps State.mem _ (fun x d => (x.clearCtx_keeps cc d).2) _ y).trans (congrArg State.mem hrest :)
  generalize (s.liveOf cc).foldl (fun s d => s.clearCtx cc d) y = z at hclr hcc hmem
  obtain ⟨f1, f2, f3, f4⟩ := (z.setCc cc {}).freed_keeps (ccCol cc) (s.getCc cc).launch (s.getCc cc).launch
  refine ⟨?_, fun d hd => ?_, fun k hk => ?_, f4.trans hmem⟩
  · rw [State.getCc, f1]
    exact State.getCc_setCc_same ..
  · rw [← hcd, ← hclr d hd]
    unfold State.getCd State.getCore
    rw [f2, f3]
    rfl
  · rw [State.getCc, f1, State.getCc, ← hcc]
    exact State.getCc_setCc_other _ _ _ _ hk

/-! ### Barriers (R96) -/

/-- The part of the state that no signal touches. -/
def State.unsignalled (s : State) : State := { s with core := [], swaps := [] }

theorem State.teamSignal_unsignalled (s : State) (launch core sem : Nat) (inc : Int) : (s.teamSignal launch core sem inc).unsignalled = s.unsignalled := by
  unfold State.teamSignal State.signal
  split
  · split <;> rfl
  · split <;> rfl

/-- R96: the contexts that wait at a barrier let go. -/
def State.barFreed (s : State) (bar : Nat) : State := { s with
  barriers := SMap.erase s.barriers bar
  cc := s.cc.map fun x => (x.1, x.2.letGo bar)
  swaps := s.swaps.map fun w => (w.1, { w.2 with ctxs := w.2.ctxs.map fun sv => { sv with cc := sv.cc.letGo bar } }) }

def State.barCols (s : State) (bar : Nat) : List Nat := ((s.cc.filter fun x => x.2.blk == some (.barrier bar) && x.2.st == .blocked).map fun x => ccCol x.1).eraseDups

theorem barrierRelease_eq {s : State} {bar due : Nat} {b : Barrier} (hb : (s.barriers.find? fun x => x.1 == bar) = some (bar, b)) (hd : b.due = some due) (hdue : due ≤ s.clock) :
    exec (.barrierRelease bar) s = .next ((s.barCols bar).foldl (fun s c => s.pickIdle c) (b.sigs.foldl (fun s x => s.teamSignal b.launch x.1 x.2.1 x.2.2) (s.barFreed bar))) := by
  change execBarrierRelease bar s = _
  unfold execBarrierRelease
  have hany : (!(b.due.any fun t => t ≤ s.clock)) = false := by rw [hd]; simpa using hdue
  rw [hb]
  dsimp only [Option.map_some]
  rw [hany, if_neg Bool.false_ne_true]
  rfl

theorem barrierReleases {s : State} {bar due : Nat} {b : Barrier} (hb : (s.barriers.find? fun x => x.1 == bar) = some (bar, b)) (hd : b.due = some due) (hdue : due ≤ s.clock) :
    ∃ t, exec (.barrierRelease bar) s = .next t ∧ (∀ x ∈ t.barriers, x.1 ≠ bar) ∧ t.cd = s.cd ∧
      ∀ cc, (s.getCc cc).blk = some (.barrier bar) → (t.getCc cc).blk = none ∧
        ((s.getCc cc).st = .blocked → (t.getCc cc).st = .ready ∨ (t.getCc cc).st = .active) := by
  refine ⟨_, barrierRelease_eq hb hd hdue, ?_⟩
  have hsig : (b.sigs.foldl (fun s x => s.teamSignal b.launch x.1 x.2.1 x.2.2) (s.barFreed bar)).unsignalled = (s.barFreed bar).unsignalled :=
    foldl_keeps State.unsignalled _ (fun x _ => x.teamSignal_unsignalled ..) b.sigs (s.barFreed bar)
  generalize b.sigs.foldl (fun s x => s.teamSignal b.launch x.1 x.2.1 x.2.2) (s.barFreed bar) = y at hsig
  have hp : Picked y ((s.barCols bar).foldl (fun s c => s.pickIdle c) y) := foldl_ind (P := Picked y) (fun _ _ h => h.pickIdle _) _ _ (Picked.refl y)
  have hbar : y.barriers = SMap.erase s.barriers bar := (congrArg State.barriers hsig :)
  have hcd : y.cd = s.cd := (congrArg State.cd hsig :)
  have hcc : y.cc = s.cc.map fun x => (x.1, x.2.letGo bar) := (congrArg State.cc hsig :)
  refine ⟨fun x hx => ?_, hp.cd.trans hcd, fun cc hblk => ?_⟩
  · rw [hp.barriers, hbar] at hx
    exact SMap.key_of_mem_erase hx
  · have hget : y.getCc cc = { s.getCc cc with
        st := if (s.getCc cc).st == .blocked then .ready else (s.getCc cc).st,
        resume := if (s.getCc cc).resume == .blocked then .ready else (s.getCc cc).resume, blk := none } := by
      rw [State.getCc, hcc, SMap.get_map (f := ColCtx.letGo bar) rfl]
      exact if_pos hblk
    rcases hp.cc cc with h | h <;> rw [h, hget]
    · refine ⟨rfl, fun hst => .inl ?_⟩
      rw [hst]
      rfl
    · exact ⟨rfl, fun _ => .inr rfl⟩

/-! ### The range unit (R101) -/

theorem firstGrab_mem {clk : Nat} {l : List GrabReq} : ∀ {h : GrabReq}, firstGrab clk l = some h → h ∈ l ∧ h.atClk ≤ clk := by
  induction l with
  | nil => exact fun h => by cases h
  | cons g l ih =>
    intro h hf
    rw [firstGrab] at hf
    split at hf
    · split at hf
      · cases hf
        exact ⟨List.mem_cons_self, ‹_›⟩
      · cases hf
    · rename_i k hk
      split at hf
      · rename_i hc
        cases hf
        rw [Bool.and_eq_true, decide_eq_true_iff] at hc
        exact ⟨List.mem_cons_self, hc.1⟩
      · cases hf
        exact ⟨List.mem_cons_of_mem _ (ih hk).1, (ih hk).2⟩

theorem GrabReq.key_lt (g h : GrabReq) : lex3 g.key h.key = true ↔ g.atClk < h.atClk ∨ (g.atClk = h.atClk ∧ (g.col < h.col ∨ (g.col = h.col ∧ g.ctx < h.ctx))) := by
  unfold lex3 GrabReq.key
  simp only [Bool.or_eq_true, Bool.and_eq_true, beq_iff_eq, decide_eq_true_iff]

/-- R101: the first of the requests that have arrived is served. -/
theorem firstGrab_of_first {clk : Nat} {g : GrabReq} (hclk : g.atClk ≤ clk) (l : List GrabReq) : g ∈ l →
    (∀ h ∈ l, h ≠ g → h.atClk ≤ clk → lex3 g.key h.key = true) → firstGrab clk l = some g := by
  induction l with
  | nil => exact fun h _ => (List.not_mem_nil h).elim
  | cons x l ih =>
    intro hmem hfirst
    have hl : ∀ h ∈ l, h ≠ g → h.atClk ≤ clk → lex3 g.key h.key = true := fun h hh => hfirst h (List.mem_cons_of_mem _ hh)
    rw [firstGrab]
    by_cases hg : g ∈ l
    · rw [ih hg hl]
      dsimp only
      by_cases hx : x = g
      · rw [hx, ite_self]
      · refine if_neg fun hc => ?_
        rw [Bool.and_eq_true, decide_eq_true_iff, GrabReq.key_lt] at hc
        have := (GrabReq.key_lt ..).1 (hfirst x List.mem_cons_self hx hc.1)
        omega
    · obtain rfl : g = x := (List.mem_cons.1 hmem).resolve_right hg
      split
      · exact if_pos hclk
      · rename_i h hh
        obtain ⟨hm, hc⟩ := firstGrab_mem hh
        have := hl h hm (fun e => hg (e ▸ hm)) hc
        rw [this, decide_eq_true hclk]
        rfl

/-- R326: a context with a scoreboarded result supplied. -/
def CtxDie.supplied (uid at_ val : Nat) (c : CtxDie) : CtxDie :=
  { c with pend := c.pend.map fun p => if p.uid = uid then { p with due := some at_, val := BitVec.ofNat 512 val } else p }

theorem State.getCd_supply (s : State) (uid at_ val k : Nat) : (s.supply uid at_ val).getCd k = (s.getCd k).supplied uid at_ val := by
  have h := State.getCd_mapCtxs (f := fun c => if c.pend.any (fun p => p.uid == uid) then c.supplied uid at_ val else c) rfl s k
  refine h.trans ?_
  split
  · rfl
  · rename_i hany
    have hnone : ∀ p ∈ (s.getCd k).pend, ¬p.uid = uid := fun p hp he => hany (List.any_eq_true.2 ⟨p, hp, by rw [he]; exact beq_self_eq_true uid⟩)
    have hmap : ((s.getCd k).pend.map fun p => if p.uid = uid then { p with due := some at_, val := BitVec.ofNat 512 val } else p) = (s.getCd k).pend :=
      (List.map_congr_left fun p hp => if_neg (hnone p hp)).trans (List.map_id _)
    unfold CtxDie.supplied
    rw [hmap]

theorem State.supply_keeps (s : State) (uid at_ val : Nat) : (s.supply uid at_ val).grabs = s.grabs ∧ (s.supply uid at_ val).ranges = s.ranges ∧
    (s.supply uid at_ val).mem = s.mem ∧ (s.supply uid at_ val).cc = s.cc := ⟨rfl, rfl, rfl, rfl⟩

/-- R101: a request taken, with its range's record. -/
def State.grabbed (s : State) (g : GrabReq) (r : Range) : State := { s.setRange g.id r with grabs := s.grabs.filter fun h => h.uid != g.uid }

theorem State.grabbed_keeps (s : State) (g : GrabReq) (r : Range) : (s.grabbed g r).grabs = s.grabs.filter (fun h => h.uid != g.uid) ∧
    (s.grabbed g r).getRange g.id = r ∧ (∀ k ≠ g.id, (s.grabbed g r).getRange k = s.getRange k) ∧ (s.grabbed g r).mem = s.mem ∧ (s.grabbed g r).cc = s.cc ∧
    ∀ k, (s.grabbed g r).getCd k = s.getCd k :=
  ⟨rfl, SMap.get_set_same .., fun _ hk => SMap.get_set_other _ _ _ _ _ hk, rfl, rfl, fun _ => rfl⟩

theorem grab_eq (r : Range) (team : Nat) :
    let left := r.endIdx.toNat - r.next.toNat
    let more := r.isOpen && r.next != r.endIdx
    let n := if more then Nat.min left (Nat.max r.min (ceilDiv left (2 * r.g))) else 0
    let start := if more then r.next.toNat else r.endIdx.toNat
    grab r team = (start, n, if more then { r with next := BitVec.ofNat 64 (r.next.toNat + n) }
      else if r.isOpen && !r.finished.contains team then { r with finished := insNat team r.finished, g := Nat.max 1 (r.g - 1) } else r) := by
  dsimp only
  unfold grab
  cases ho : r.isOpen with
  | false => rfl
  | true =>
    by_cases hn : r.next = r.endIdx
    · rw [if_pos (by simp [hn])]
      have hmore : (true && r.next != r.endIdx) = false := by rw [hn]; simp
      rw [hmore]
      rfl
    · rw [if_neg (by simp [hn])]
      have hmore : (true && r.next != r.endIdx) = true := by simpa using hn
      rw [hmore]
      rfl

theorem grabServed {s : State} {g : GrabReq} (hf : firstGrab s.clock s.grabs = some g) {start n : Nat} {r : Range} (hg : grab (s.getRange g.id) g.team = (start, n, r)) :
    ∃ t, exec .grabRequestServed s = .next t ∧ t.grabs = s.grabs.filter (fun h => h.uid != g.uid) ∧
      t.getRange g.id = r ∧ (∀ k ≠ g.id, t.getRange k = s.getRange k) ∧ t.mem = s.mem ∧ t.cc = s.cc ∧
      ∀ ck, (t.getCd ck).ws = (s.getCd ck).ws ∧ ∀ p ∈ (t.getCd ck).pend,
        (p.uid = g.uid → p.due = some (s.clock + 48) ∧ p.val = BitVec.ofNat 512 start) ∧
        (p.uid = g.uid + 1 → p.due = some (s.clock + 48) ∧ p.val = BitVec.ofNat 512 n) := by
  have hexec : exec .grabRequestServed s = .next (((s.grabbed g r).supply g.uid (s.clock + 48) start).supply (g.uid + 1) (s.clock + 48) n) := by
    change execGrabRequestServed s = _
    unfold execGrabRequestServed
    rw [hf]
    dsimp only
    rw [hg]
    rfl
  obtain ⟨x1, x2, x3, x4, x5, x6⟩ := s.grabbed_keeps g r
  refine ⟨_, hexec, ?_⟩
  generalize s.grabbed g r = x at x1 x2 x3 x4 x5 x6
  obtain ⟨a1, a2, a3, a4⟩ := x.supply_keeps g.uid (s.clock + 48) start
  obtain ⟨b1, b2, b3, b4⟩ := (x.supply g.uid (s.clock + 48) start).supply_keeps (g.uid + 1) (s.clock + 48) n
  have hrange (k : Nat) : ((x.supply g.uid (s.clock + 48) start).supply (g.uid + 1) (s.clock + 48) n).getRange k = x.getRange k := by
    rw [State.getRange, b2, a2]
    rfl
  refine ⟨b1.trans (a1.trans x1), (hrange _).trans x2, fun k hk => (hrange k).trans (x3 k hk), b3.trans (a3.trans x4), b4.trans (a4.trans x5), fun ck => ?_⟩
  rw [State.getCd_supply, State.getCd_supply, x6]
  refine ⟨rfl, fun p hp => ?_⟩
  obtain ⟨p1, hp1, rfl⟩ := List.mem_map.1 hp
  obtain ⟨p0, hp0, rfl⟩ := List.mem_map.1 hp1
  by_cases h0 : p0.uid = g.uid
  · rw [if_pos h0, if_neg (show ¬p0.uid = g.uid + 1 by omega)]
    exact ⟨fun _ => ⟨rfl, rfl⟩, fun h => absurd h (show ¬p0.uid = g.uid + 1 by omega)⟩
  · rw [if_neg h0]
    by_cases h1 : p0.uid = g.uid + 1
    · rw [if_pos h1]
      exact ⟨fun h => absurd h h0, fun _ => ⟨rfl, rfl⟩⟩
    · rw [if_neg h1]
      exact ⟨fun h => absurd h h0, fun h => absurd h h1⟩

/-! ### Samples (R293) -/

theorem State.getCc_traceFrom (s : State) (cc : Nat) (rec : List Byte) (k : Nat) : (s.traceFrom cc rec).getCc k = s.getCc k := rfl

theorem profileSamples {s : State} {cc : Nat} (hcc : cc < 128) (hon : bits (s.prfctl cc) 8 4 ≠ 0) (hact : 2 ^ (bits (s.prfctl cc) 8 4 + 8) ≤ (s.getCc cc).active) :
    ∃ t, exec (.profileSample cc) s = .next t ∧ (t.getCc cc).active = 0 ∧ (∀ k ≠ cc, t.getCc k = s.getCc k) ∧ t.cd = s.cd ∧ t.core = s.core := by
  have hno : (decide (cc ≥ 128) || decide (bits (s.prfctl cc) 8 4 = 0) || decide ((s.getCc cc).active < 2 ^ (bits (s.prfctl cc) 8 4 + 8))) = false := by
    rw [decide_eq_false (by omega), decide_eq_false hon, decide_eq_false (by omega)]
    rfl
  have hexec : ∃ rec, exec (.profileSample cc) s = .next ((s.updCc cc fun c => { c with active := 0 }).traceFrom cc rec) := by
    change ∃ rec, execProfileSample cc s = _
    unfold execProfileSample
    dsimp only
    rw [hno, if_neg Bool.false_ne_true]
    exact ⟨_, rfl⟩
  obtain ⟨rec, hexec⟩ := hexec
  refine ⟨_, hexec, ?_, fun k hk => ?_, rfl, rfl⟩
  · rw [State.getCc_traceFrom, State.getCc_updCc_same]
  · rw [State.getCc_traceFrom, State.getCc_updCc_other _ _ _ _ hk]

/-- Settles O49. -/
theorem contextEvents : Obligations.ContextEvents := by
  refine ⟨fun s cc r hcc hst hblk hr htrap hclear => blockedBecomesReady hcc hst hblk hr htrap hclear, fun s cc hcc hst hret => contextRetires hcc hst hret,
    fun s bar due b hb hd hdue => barrierReleases hb hd hdue, fun s g hmem hclk hfirst => ?_, fun s cc hcc hon hact => profileSamples hcc hon hact⟩
  exact grabServed (firstGrab_of_first hclk s.grabs hmem fun h hh hne hc => (GrabReq.key_lt g h).2 (hfirst h hh hne hc)) (grab_eq (s.getRange g.id) g.team)

end Sys2Proof.Machine
end

section
/-! SUPPORT. Queues (R238, R239, R242, R243, R245, R255), with the reads of the front end (R116, R242). -/

set_option Elab.async false

namespace Sys2Proof.Machine

open Claims

/-! ### What the front end's reads leave alone -/

theorem ite_third {α β γ : Type} {c : Prop} [Decidable c] (a a' : α) (b b' : β) (y : γ) : (if c then (a, b, y) else (a', b', y)).2.2 = y := by
  split <;> rfl

namespace Accessed

variable {s x : State}

theorem rootPlace (h : Accessed s x) (root va : Nat) (wr : Bool) : Accessed s (x.rootPlace root va wr).2 := by
  unfold State.rootPlace
  split
  · split
    · exact h
    · rename_i hw
      exact h.walk hw
  · exact h
  · exact h
  · exact h

theorem rootRead (root : Nat) (l : List (Nat × Nat)) : ∀ {x : State}, Accessed s x → Accessed s (x.rootRead root l).2 := by
  induction l with
  | nil => exact fun h => h
  | cons p l ih =>
    intro x h
    have h1 := h.rootPlace root p.1 false
    rw [State.rootRead]
    dsimp only
    split
    · split <;> exact ih h1
    · exact h1
    · exact h1

theorem feBytes (h : Accessed s x) (root va n : Nat) : Accessed s (x.feBytes root va n).2 := by
  unfold State.feBytes
  dsimp only
  split <;> exact Accessed.rootRead _ _ h

theorem feParts (root : Nat) (l : List (Nat × Nat)) : ∀ {x : State}, Accessed s x → Accessed s (x.feParts root l).2 := by
  induction l with
  | nil => exact fun h => h
  | cons p l ih =>
    intro x h
    rw [State.feParts]
    exact ih (h.rootPlace root p.1 false)

theorem feSeen (h : Accessed s x) (root va n : Nat) : Accessed s (x.feSeen root va n).2 := Accessed.feParts _ _ h

theorem feNamed (h : Accessed s x) (ok : Bool) (root va n : Nat) : Accessed s (x.feNamed ok root va n).2 := by
  unfold State.feNamed
  split
  · exact h.feSeen ..
  · exact h

theorem readKernel (h : Accessed s x) (root kimg x0 xn : Nat) : Accessed s (x.readKernel root kimg x0 xn).2.2 := by
  unfold State.readKernel
  dsimp only
  rw [ite_third]
  exact (((h.feSeen ..).feSeen ..).feNamed ..).feNamed ..

theorem queues (h : Accessed s x) : x.queues = s.queues := (congrArg State.queues h.rest :)

end Accessed

/-! ### Queues -/

section

variable (s : State) (q k : Nat)

theorem State.getQueue_setQueue_same (x : Queue) : (s.setQueue q x).getQueue q = x := SMap.get_set_same ..

theorem State.getQueue_setQueue_other (x : Queue) (h : k ≠ q) : (s.setQueue q x).getQueue k = s.getQueue k := SMap.get_set_other _ _ _ _ _ h

theorem State.getQueue_updQueue_same (F : Queue → Queue) : (s.updQueue q F).getQueue q = F (s.getQueue q) := SMap.get_set_same ..

theorem State.getQueue_updQueue_other (F : Queue → Queue) (h : k ≠ q) : (s.updQueue q F).getQueue k = s.getQueue k := SMap.get_set_other _ _ _ _ _ h

end

section

variable {s : State} {q : Nat}

theorem queueOnly_setQueue (x : Queue) : QueueOnly s (s.setQueue q x) q := ⟨fun k hk => s.getQueue_setQueue_other q k x hk, rfl, rfl, rfl⟩

theorem queueOnly_updQueue (F : Queue → Queue) : QueueOnly s (s.updQueue q F) q := queueOnly_setQueue _

theorem QueueOnly.trans {x y : State} (h : QueueOnly s x q) (g : QueueOnly x y q) : QueueOnly s y q := by
  obtain ⟨h1, h2, h3, h4⟩ := h
  obtain ⟨g1, g2, g3, g4⟩ := g
  exact ⟨fun k hk => (g1 k hk).trans (h1 k hk), g2.trans h2, g3.trans h3, g4.trans h4⟩

/-- R239: the next packet's read begins, with nothing else of the queue changed. -/
theorem State.feNext_queue (s : State) (q : Nat) : QueueOnly s (s.feNext q) q ∧ ((s.feNext q).getQueue q).wr = (s.getQueue q).wr ∧
    ((s.feNext q).getQueue q).st = (s.getQueue q).st ∧ ((s.feNext q).getQueue q).rd = (s.getQueue q).rd := by
  unfold State.feNext
  dsimp only
  split
  · refine ⟨queueOnly_setQueue _, ?_⟩
    rw [State.getQueue_setQueue_same]
    exact ⟨rfl, rfl, rfl⟩
  · exact ⟨⟨fun _ _ => rfl, rfl, rfl, rfl⟩, rfl, rfl, rfl⟩

/-! ### NOTIFY and QCMD (R238, R239, R245) -/

theorem notify_moves {w : Half} (hq : q < 4096) (hst : (s.getQueue q).st = .active) :
    ∃ t, exec (.notify q w) s = .next t ∧ QueueOnly s t q ∧
      ((w - (s.getQueue q).rd).toNat ≤ 2 ^ (s.getQueue q).log2n → (t.getQueue q).wr = w ∧ (t.getQueue q).st = .active) ∧
      (2 ^ (s.getQueue q).log2n < (w - (s.getQueue q).rd).toNat → (t.getQueue q).st = .error ∧ (t.getQueue q).err = 8) := by
  have hno : (decide (q ≥ 4096) || (s.getQueue q).st != .active) = false := by rw [decide_eq_false (by omega), hst]; rfl
  refine ⟨_, rfl, ?_⟩
  change QueueOnly s (if (decide (q ≥ 4096) || (s.getQueue q).st != .active) = true then s else _) q ∧ _
  dsimp only
  rw [hno, if_neg Bool.false_ne_true]
  by_cases hle : (w - (s.getQueue q).rd).toNat ≤ 2 ^ (s.getQueue q).log2n
  · rw [if_pos hle]
    obtain ⟨h1, h2, h3, -⟩ := (s.setQueue q { s.getQueue q with wr := w }).feNext_queue q
    refine ⟨QueueOnly.trans (queueOnly_setQueue _) h1, fun _ => ?_, fun h => absurd h (by omega)⟩
    rw [h2, h3, State.getQueue_setQueue_same]
    exact ⟨rfl, hst⟩
  · rw [if_neg hle]
    refine ⟨queueOnly_setQueue _, fun h => absurd h hle, fun _ => ?_⟩
    rw [State.getQueue_setQueue_same]
    exact ⟨rfl, rfl⟩

theorem qcmdOpen_opens (hq : q < 4096) (hst : (s.getQueue q).st = .closed) : ∃ t, exec (.qcmdOpen q) s = .next t ∧ QueueOnly s t q ∧
    (t.getQueue q).st = .active ∧ (t.getQueue q).rd = 0#16 ∧ (t.getQueue q).wr = 0#16 ∧ (t.getQueue q).fe = .idle := by
  have hno : (decide (q ≥ 4096) || (s.getQueue q).st != .closed) = false := by rw [decide_eq_false (by omega), hst]; rfl
  have hexec : exec (.qcmdOpen q) s = .next (s.setQueue q { s.getQueue q with
      st := .active, rd := 0#16, wr := 0#16, fe := .idle, lastLaunch := none, cleared := false }) := by
    change execQcmdOpen q s = _
    unfold execQcmdOpen
    dsimp only
    rw [hno, if_neg Bool.false_ne_true]
  refine ⟨_, hexec, queueOnly_setQueue _, ?_⟩
  rw [State.getQueue_setQueue_same]
  exact ⟨rfl, rfl, rfl, rfl⟩

theorem qcmdClear_clears (hq : q < 4096) (hst : (s.getQueue q).st = .error) : ∃ t, exec (.qcmdClear q) s = .next t ∧ QueueOnly s t q ∧
    (t.getQueue q).st = .active ∧ (t.getQueue q).rd = (s.getQueue q).wr ∧ (t.getQueue q).err = 0 := by
  have hno : (decide (q ≥ 4096) || (s.getQueue q).st != .error) = false := by rw [decide_eq_false (by omega), hst]; rfl
  have hexec : exec (.qcmdClear q) s = .next (s.setQueue q { s.getQueue q with
      st := .active, rd := (s.getQueue q).wr, err := 0, cleared := (s.getQueue q).fe != .idle }) := by
    change execQcmdClear q s = _
    unfold execQcmdClear
    dsimp only
    rw [hno, if_neg Bool.false_ne_true]
  refine ⟨_, hexec, queueOnly_setQueue _, ?_⟩
  rw [State.getQueue_setQueue_same]
  exact ⟨rfl, rfl, rfl⟩

/-- R239, R245: a table of queues in which some may have gone on to another state keeps each queue's front end. -/
theorem SMap.get_map_rel {α : Type} {d : α} {R : α → α → Prop} {g : Nat × α → Nat × α} (hd : R d d) (hg : ∀ x, (g x).1 = x.1 ∧ R x.2 (g x).2) (k : Nat) (m : SMap α) :
    R (SMap.get d m k) (SMap.get d (m.map g) k) := by
  induction m with
  | nil => exact hd
  | cons x m ih =>
    obtain ⟨hkey, hrel⟩ := hg x
    obtain ⟨j, v⟩ := x
    generalize hy : g (j, v) = y at hkey hrel
    obtain ⟨j', v'⟩ := y
    dsimp only at hkey hrel
    rw [List.map_cons, hy, hkey, SMap.get, SMap.get]
    split
    · exact hrel
    · exact ih

/-- R245: a queue after CLOSING ones have closed. -/
def ClosedOn (a b : Queue) : Prop := b.fe = a.fe ∧ (b.st = a.st ∨ b.st = .closed)

theorem State.closeQueues_queue (s : State) (q : Nat) : ClosedOn (s.getQueue q) (s.closeQueues.getQueue q) := by
  refine SMap.get_map_rel (R := ClosedOn) ⟨rfl, .inl rfl⟩ (fun x => ?_) q s.queues
  split
  · exact ⟨rfl, rfl, .inr rfl⟩
  · exact ⟨rfl, rfl, .inl rfl⟩

theorem State.launch?_updLaunch_same {n : Nat} {l : Launch} {F : Launch → Launch} (hl : s.launch? n = some l) : (s.updLaunch n F).launch? n = some (F l) := by
  unfold State.updLaunch
  rw [hl]
  unfold State.launch?
  rw [SMap.find?_put, if_pos rfl]
  rfl

theorem State.dropTeams_keeps (s : State) (fe : FeSt) : (s.dropTeams fe).mem = s.mem ∧ (s.dropTeams fe).cd = s.cd ∧ (s.dropTeams fe).cc = s.cc := by
  unfold State.dropTeams
  split
  · unfold State.updLaunch
    split <;> exact ⟨rfl, rfl, rfl⟩
  · exact ⟨rfl, rfl, rfl⟩

theorem qcmdDestroy_destroys (hq : q < 4096) (hst : (s.getQueue q).st = .active ∨ (s.getQueue q).st = .error) :
    ∃ t, exec (.qcmdDestroy q) s = .next t ∧ t.mem = s.mem ∧ t.cd = s.cd ∧ t.cc = s.cc ∧ (t.getQueue q).fe = .idle ∧
      ((t.getQueue q).st = .closing ∨ (t.getQueue q).st = .closed) ∧
      ∀ n l, (s.getQueue q).fe = .launching n → s.launch? n = some l → t.launch? n = some { l with dropped := true, error := true } := by
  have hno : (decide (q ≥ 4096) || !((s.getQueue q).st == .active || (s.getQueue q).st == .error)) = false := by
    rw [decide_eq_false (by omega)]
    rcases hst with h | h <;> rw [h] <;> rfl
  have hexec : exec (.qcmdDestroy q) s = .next (((s.dropTeams (s.getQueue q).fe).setQueue q { s.getQueue q with st := .closing, fe := .idle }).closeQueues) := by
    change execQcmdDestroy q s = _
    unfold execQcmdDestroy
    dsimp only
    rw [hno, if_neg Bool.false_ne_true]
  refine ⟨_, hexec, ?_⟩
  obtain ⟨h1, h2, h3⟩ := s.dropTeams_keeps (s.getQueue q).fe
  have hclosed := ((s.dropTeams (s.getQueue q).fe).setQueue q { s.getQueue q with st := .closing, fe := .idle }).closeQueues_queue q
  rw [State.getQueue_setQueue_same] at hclosed
  refine ⟨h1, h2, h3, hclosed.1, hclosed.2, fun n l hfe hl => ?_⟩
  have hdrop : (s.dropTeams (.launching n)).launch? n = some { l with dropped := true, error := true } := State.launch?_updLaunch_same hl
  rw [hfe]
  exact hdrop

/-! ### A packet checked (R243, R255) -/

theorem lowest_cons (c : Nat) (l : List Nat) : lowest (c :: l) = some (l.foldl Nat.min c) := by
  have h : ∀ (l : List Nat) (m : Nat), (l.foldl (fun m x => some (match m with
      | some y => Nat.min x y
      | none => x)) (some m) : Option Nat) = some (l.foldl Nat.min m) := by
    intro l
    induction l with
    | nil => exact fun _ => rfl
    | cons x l ih =>
      intro m
      rw [List.foldl_cons, List.foldl_cons, show Nat.min m x = Nat.min x m from Nat.min_comm ..]
      exact ih _
  exact h l c

theorem foldl_min_eq {c : Nat} (l : List Nat) : ∀ m : Nat, c ≤ m → (∀ x ∈ l, c ≤ x) → (c = m ∨ c ∈ l) → l.foldl Nat.min m = c := by
  induction l with
  | nil =>
    intro m _ _ h
    rcases h with h | h
    · exact h.symm
    · exact (List.not_mem_nil h).elim
  | cons x l ih =>
    intro m hm hl h
    have hx := hl x List.mem_cons_self
    refine ih _ (Nat.le_min.2 ⟨hm, hx⟩) (fun y hy => hl y (List.mem_cons_of_mem _ hy)) ?_
    rcases h with h | h
    · exact .inl (by rw [← h]; exact (Nat.min_eq_left hx).symm)
    · rcases List.mem_cons.1 h with rfl | h
      · exact .inl (Nat.min_eq_right hm).symm
      · exact .inr h

theorem lowest_eq {c : Nat} {l : List Nat} (hmem : c ∈ l) (hle : ∀ x ∈ l, c ≤ x) : lowest l = some c := by
  cases l with
  | nil => exact (List.not_mem_nil hmem).elim
  | cons y l =>
    rw [lowest_cons, foldl_min_eq l y (hle y List.mem_cons_self) (fun x hx => hle x (List.mem_cons_of_mem _ hx)) (List.mem_cons.1 hmem)]

/-- R239, R243: what a check leaves of its queue, on a state with the queues of `s`. -/
theorem checked_feChecked {x : State} (hx : x.queues = s.queues) (p : List DWord) (k : Option Kernel) (cs : List Nat) :
    (∀ j ≠ q, (x.feChecked q p k cs).getQueue j = s.getQueue j) ∧ Checked s (x.feChecked q p k cs) q p k cs := by
  have hget (j : Nat) : x.getQueue j = s.getQueue j := by rw [State.getQueue, hx]; rfl
  refine ⟨fun j hj => ?_, fun c hc hle => ?_, fun hnil => ?_⟩
  · rw [← hget, State.feChecked]
    split
    · exact State.getQueue_updQueue_other _ _ _ _ hj
    · exact State.getQueue_updQueue_other _ _ _ _ hj
  · rw [State.feChecked, lowest_eq hc hle]
    dsimp only
    rw [State.feReject, State.getQueue_updQueue_same]
    exact ⟨rfl, rfl, rfl⟩
  · rw [hnil, State.feChecked, show lowest [] = none from rfl]
    dsimp only
    rw [State.getQueue_updQueue_same, hget]
    exact ⟨rfl, rfl⟩

/-! ### The host's approval (R255) -/

theorem State.expertSched (h : s.mgmt.getLsbD 7 = true) : s.schedExpert = true := by
  unfold State.schedExpert
  rw [beq_iff_eq, bits, Nat.pow_one, ← Nat.shiftRight_eq_div_pow]
  have := h
  rw [← BitVec.testBit_toNat, Nat.testBit_eq_decide_div_mod_eq, decide_eq_true_iff] at this
  rw [Nat.shiftRight_eq_div_pow]
  exact this

theorem apprcmd_decides {p : List DWord} {k : Option Kernel} (hx : s.mgmt.getLsbD 7 = true) (hfe : (s.getQueue q).fe = .taken p k) :
    (∃ t, exec (.apprcmdApprove q) s = .next t ∧ QueueOnly s t q ∧ (t.getQueue q).fe = .approved p k ∧ (t.getQueue q).st = (s.getQueue q).st) ∧
    ∃ t, exec (.apprcmdDeny q) s = .next t ∧ QueueOnly s t q ∧ (t.getQueue q).st = .error ∧ (t.getQueue q).err = 10 := by
  have hexp := State.expertSched hx
  have happrove : exec (.apprcmdApprove q) s = .next (s.updQueue q fun x => { x with fe := .approved p k }) := by
    change execApprcmdApprove q s = _
    unfold execApprcmdApprove
    rw [hexp, hfe]
    rfl
  have hdeny : exec (.apprcmdDeny q) s = .next (s.feReject q 10) := by
    change execApprcmdDeny q s = _
    unfold execApprcmdDeny
    rw [hexp, hfe]
    rfl
  refine ⟨⟨_, happrove, queueOnly_updQueue _, ?_⟩, ⟨_, hdeny, queueOnly_updQueue _, ?_⟩⟩
  · rw [State.getQueue_updQueue_same]
    exact ⟨rfl, rfl⟩
  · rw [State.feReject, State.getQueue_updQueue_same]
    exact ⟨rfl, rfl⟩

/-! ### The front end's reads (R242) -/

theorem Picked.queues {x : State} (h : Picked s x) : x.queues = s.queues := (congrArg State.queues h.rest :)

/-- R95, R242: the contexts of a queue whose loads have come. -/
def State.loadAll (s : State) (q : Nat) : State := (s.cc.filter fun x => x.2.st == .loading && s.ctxQueue x.1 == q).foldl (fun s x => s.loaded x.1) s

theorem State.loadAll_queues (s : State) (q : Nat) : (s.loadAll q).queues = s.queues := by
  refine foldl_keeps State.queues _ (fun x c => ?_) _ s
  unfold State.loaded
  dsimp only
  split
  · exact ((Picked.refl (x.updCc c.1 fun y => { y with st := y.resume })).pickIdle _).queues
  · rfl

theorem State.loadAll_getQueue (s : State) (q k : Nat) : (s.loadAll q).getQueue k = s.getQueue k := by
  rw [State.getQueue, State.loadAll_queues]
  rfl

theorem frontEnd_reading {due : Nat} (hfe : (s.getQueue q).fe = .reading due) (hdue : due ≤ s.clock) (hruns : s.feRuns = true) :
    exec (.frontEndReadLands q) s = .next ((s.packetLands q).loadAll q) := by
  change execFrontEndReadLands q s = _
  unfold execFrontEndReadLands
  rw [hruns, hfe]
  dsimp only
  rw [if_pos hdue]
  rfl

theorem frontEnd_checking {due : Nat} {p : List DWord} (hfe : (s.getQueue q).fe = .checking p due) (hdue : due ≤ s.clock) (hruns : s.feRuns = true) :
    exec (.frontEndReadLands q) s = .next ((s.imageLands q p).loadAll q) := by
  change execFrontEndReadLands q s = _
  unfold execFrontEndReadLands
  rw [hruns, hfe]
  dsimp only
  rw [if_pos hdue]
  rfl

theorem checked_loadAll {x : State} {p : List DWord} {k : Option Kernel} {cs : List Nat} (h : Checked s x q p k cs) : Checked s (x.loadAll q) q p k cs := by
  unfold Checked at *
  rw [State.loadAll_getQueue]
  exact h

/-- R243: the packet of a read that faults on nothing and finds no poison. -/
theorem State.packetLands_eq (hfault : s.paFault (s.getQueue q).packetAt = none) (hpois : s.poisoned (s.getQueue q).packetAt 64 = false) :
    let p := dwords 8 (s.readBytes (s.getQueue q).packetAt 64)
    (pkOp p = 1 → s.packetLands q = s.setQueue q { s.getQueue q with fe := .checking p (s.clock + s.kernelClocks (s.getQueue q).qroot.toNat (dw p 1 / 64 * 64)) }) ∧
    (pkOp p = 2 → s.packetLands q = s.feChecked q p none (rangeCodes p)) ∧
    (pkOp p = 3 → s.packetLands q = s.feChecked q p none (if pkReserved p then [2] else [])) ∧
    (pkOp p = 0 ∨ 3 < pkOp p → s.packetLands q = s.feChecked q p none [1]) := by
  dsimp only
  have hno : ((s.paFault (s.getQueue q).packetAt).isSome || s.poisoned (s.getQueue q).packetAt 64) = false := by rw [hfault, hpois]; rfl
  unfold State.packetLands
  dsimp only
  rw [hno, if_neg Bool.false_ne_true]
  generalize dwords 8 (s.readBytes (s.getQueue q).packetAt 64) = p
  refine ⟨fun h => by rw [h]; rfl, fun h => by rw [h]; rfl, fun h => by rw [h]; rfl, fun h => ?_⟩
  split
  · omega
  · omega
  · omega
  · rfl

theorem packetLands_checks {due : Nat} (hfe : (s.getQueue q).fe = .reading due) (hdue : due ≤ s.clock) (hruns : s.feRuns = true)
    (hfault : s.paFault (s.getQueue q).packetAt = none) (hpois : s.poisoned (s.getQueue q).packetAt 64 = false) :
    let p := dwords 8 (s.readBytes (s.getQueue q).packetAt 64)
    ∃ t, exec (.frontEndReadLands q) s = .next t ∧ (∀ k ≠ q, t.getQueue k = s.getQueue k) ∧
      (pkOp p = 1 → ∃ d, (t.getQueue q).fe = .checking p d ∧ s.clock ≤ d) ∧
      (pkOp p = 2 → Checked s t q p none (rangeCodes p)) ∧ (pkOp p = 3 → Checked s t q p none (if pkReserved p then [2] else [])) ∧
      (pkOp p = 0 ∨ 3 < pkOp p → Checked s t q p none [1]) := by
  have hlands := State.packetLands_eq (s := s) (q := q) hfault hpois
  dsimp only at hlands ⊢
  generalize dwords 8 (s.readBytes (s.getQueue q).packetAt 64) = p at hlands
  obtain ⟨h1, h2, h3, h4⟩ := hlands
  refine ⟨_, frontEnd_reading hfe hdue hruns, fun k hk => ?_, fun h => ?_, fun h => ?_, fun h => ?_, fun h => ?_⟩
  · rw [State.loadAll_getQueue]
    have hcases : pkOp p = 1 ∨ pkOp p = 2 ∨ pkOp p = 3 ∨ (pkOp p = 0 ∨ 3 < pkOp p) := by omega
    rcases hcases with h | h | h | h
    · rw [h1 h, State.getQueue_setQueue_other _ _ _ _ hk]
    · rw [h2 h]
      exact (checked_feChecked rfl ..).1 k hk
    · rw [h3 h]
      exact (checked_feChecked rfl ..).1 k hk
    · rw [h4 h]
      exact (checked_feChecked rfl ..).1 k hk
  · rw [State.loadAll_getQueue, h1 h, State.getQueue_setQueue_same]
    exact ⟨_, rfl, Nat.le_add_right ..⟩
  · rw [h2 h]
    exact checked_loadAll (checked_feChecked rfl ..).2
  · rw [h3 h]
    exact checked_loadAll (checked_feChecked rfl ..).2
  · rw [h4 h]
    exact checked_loadAll (checked_feChecked rfl ..).2

theorem imageLands_checks {s1 : State} {due : Nat} {p : List DWord} {cs : List Nat} {k : Option Kernel} (hfe : (s.getQueue q).fe = .checking p due) (hdue : due ≤ s.clock)
    (hruns : s.feRuns = true)
    (hread : s.readKernel (s.getQueue q).qroot.toNat (dw p 1 / 64 * 64) (bits (dw p 4) 8 8) (bits (dw p 4) 16 8) = (cs, k, s1)) :
    ∃ t, exec (.frontEndReadLands q) s = .next t ∧ (∀ j ≠ q, t.getQueue j = s.getQueue j) ∧ Checked s t q p k (cs ++ s1.launchCodes q p k) := by
  have hq : s1.queues = s.queues := (((Accessed.refl s).readKernel ..).of_triple hread).queues
  have hlands : s.imageLands q p = s1.feChecked q p k (cs ++ s1.launchCodes q p k) := by
    unfold State.imageLands
    rw [hread]
  refine ⟨_, frontEnd_checking hfe hdue hruns, fun j hj => ?_, ?_⟩
  · rw [State.loadAll_getQueue, hlands]
    exact (checked_feChecked hq ..).1 j hj
  · rw [hlands]
    exact checked_loadAll (checked_feChecked hq ..).2

end

/-- Settles O51. -/
theorem queueCommands : Obligations.QueueCommands :=
  ⟨fun _ _ _ hq hst => notify_moves hq hst, fun _ _ hq hst => qcmdOpen_opens hq hst, fun _ _ hq hst => qcmdClear_clears hq hst,
    fun _ _ hq hst => qcmdDestroy_destroys hq hst, fun _ _ _ _ hx hfe => apprcmd_decides hx hfe,
    fun _ _ _ hfe hdue hruns hfault hpois => packetLands_checks hfe hdue hruns hfault hpois,
    fun _ _ _ _ _ _ _ hfe hdue hruns hread => imageLands_checks hfe hdue hruns hread⟩

end Sys2Proof.Machine
end

section
/-! SUPPORT. The invalidations of a die table that lists a die twice (R123). -/

set_option Elab.async false

namespace Sys2Proof.Machine

open Claims Tests

/-- An invalidation that is due and waits for nothing. -/
def tlbiDone : Tlbi := { uid := 1, due := 0, waits := [], writes := [], ck := 0, sigSem := 0, sigInc := 0 }

/-- An invalidation that is due and waits for the atomic of number 7. -/
def tlbiWaits : Tlbi := { tlbiDone with uid := 2, writes := [7] }

/-- The merge window of that atomic. -/
def windowOfSeven : Merge := { op := 0, wide := false, signed := false, pod := none, addr := 0, kind := 0, close := 0, ops := [(7, 0, 0#64)] }

/-- A die table with two entries of die 0, which no step of the model makes: the second one, with the merge window, goes as die 0's own entry becomes empty. -/
def dieTwice : State := { base with die := [(0, { tlbis := [tlbiDone] }), (0, { merges := [windowOfSeven] }), (1, { tlbis := [tlbiWaits] })] }

theorem dieTwice_holds : (dieTwice.getDie 1).tlbis.filter (fun x => !TlbiEnds dieTwice x) = [tlbiWaits] := by decide +kernel

theorem dieTwice_drops : leavesWith (fun t => (t.getDie 1).tlbis.isEmpty) (exec .tlbiComplete dieTwice) = true := by decide +kernel

/-- Refutes O60: the clause on TLBI_COMPLETE is stated of every state, also of one whose die table is not canonical. There the end of die 0's invalidation takes
away a merge window that a second entry of die 0 holds, and the invalidation of die 1 that waited for it ends on the same clock. -/
theorem not_memoryEvents : ¬Obligations.MemoryEvents := by
  rintro ⟨-, htlbi, -⟩
  obtain ⟨t, ht, -, -, -, hdies, -⟩ := htlbi dieTwice
  have hdrop := dieTwice_drops
  rw [leavesWith_next ht, (hdies 1 (by decide)).1, dieTwice_holds] at hdrop
  exact absurd hdrop (by decide)

end Sys2Proof.Machine
end

section
/-! SUPPORT. What a step runs (R53, R59, R76, R77, R93), and the end of an attempt, which withholds nothing more (R218 to R221). -/

set_option Elab.async false

namespace Sys2Proof.Machine

open Claims

/-! ### A step (R77, R93) -/

theorem step_of_inbox {s : State} {i : Instr} {rest : List Instr} (h : s.inbox = i :: rest) : step s = exec i { s with inbox := rest } := by
  unfold step State.agenda
  rw [h]

theorem step_of_turn {s : State} {c : Nat} (hin : s.inbox = []) (hph : s.phase = 0) (hdue : s.issueCol ≠ 0 ∨ s.firstDue s.landings = none)
    (hnext : s.nextCol s.issueCol = some c) : step s = exec (.bundleIterationIssue c) { s with issueCol := c + 1 } := by
  have hno : (if s.issueCol = 0 then s.firstDue s.landings else none) = none := by
    split
    · rcases hdue with h | h
      · exact absurd ‹_› h
      · exact h
    · rfl
  unfold step State.agenda
  rw [hin, hph]
  dsimp only
  rw [hno, hnext]
  rfl

section

variable {s : State} {col k : Nat}

theorem mayTry_fromHere (h : MayTry s col k) : s.fromHere (ccKey col k) = s := by
  have hload : s.cwDone (ccKey col k) = s := by
    unfold State.cwDone
    dsimp only
    rw [h.noLoad]
  have htret : (s.getCc (ccKey col k)).cs.tretNext = false := by
    unfold ColState.tretNext
    cases hx : (s.getCc (ccKey col k)).cs.xfer with
    | none => rfl
    | some x =>
      rw [Option.any_some, Bool.and_eq_false_iff]
      cases ht : x.target with
      | some a => exact .inl rfl
      | none => exact .inr (beq_eq_false_iff_ne.2 (h.noTret x hx ht))
  unfold State.fromHere
  dsimp only
  rw [hload, htret, if_neg Bool.false_ne_true]

theorem mayTry_prepare (h : MayTry s col k) : s.prepare col k = (s, true) := by
  unfold State.prepare
  dsimp only
  rw [h.noBreak, if_neg Bool.false_ne_true, h.noFault]
  rfl

theorem mayTry_exec_eq (h : MayTry s col k) : exec (.bundleIterationIssue col) s = .next ((s.tryIter col k).1.finish (s.tryIter col k).2) := by
  have hquad : ((s.launch? (s.getCc (ccKey col k)).launch).map (·.qsync)).getD false = false := by
    cases hl : s.launch? (s.getCc (ccKey col k)).launch with
    | none => rfl
    | some l => exact h.noQuad l hl
  have hone : s.issueOne col k = (s.tryIter col k).1.finish (s.tryIter col k).2 := by
    unfold State.issueOne
    rw [h.may, mayTry_prepare h]
    rfl
  change execBundleIterationIssue col s = _
  unfold execBundleIterationIssue
  rw [h.active]
  dsimp only
  rw [hquad, if_neg Bool.false_ne_true, hone]

/-- R53: an attempt whose bundle has come and whose slot words all name an operation. -/
theorem mayTry_tryIter (h : MayTry s col k) {b : Bundle} (hb : s.fetchBundle (ccKey col k) = .ok b) :
    let c := s.getCc (ccKey col k)
    let iter := c.cs.iter b
    let a := s.atBundle col k iter
    let all := c.iterOps b (iter == 0) (iter == b.repM1)
    let ops := all.filterMap Prod.snd
    let n := a.noteAll ops
    let t := n.orderStall (n.runOps all) ops
    let u := if a.blotCount (ccKey col k) = 0 then t.spillSt (ccKey col k) else t
    (∀ x ∈ all, x.2 ≠ none) → s.tryIter col k = (a, (u.laterStores (ccKey col k)).runColumn b ops iter) := by
  dsimp only
  intro hall
  have hany : (((s.getCc (ccKey col k)).iterOps b ((s.getCc (ccKey col k)).cs.iter b == 0) ((s.getCc (ccKey col k)).cs.iter b == b.repM1)).any fun x => x.2.isNone) = false :=
    List.any_eq_false.2 fun x hx => by
      rw [Option.isNone_iff_eq_none]
      exact hall x hx
  unfold State.tryIter
  dsimp only
  rw [mayTry_fromHere h, hb]
  dsimp only
  rw [hany, if_neg Bool.false_ne_true]
  rfl

end

/-! ### Slot words and the words of a table (R47, R50, R59, R76) -/

theorem slotWordOp_of_entry {c : ColCtx} {p : Nat} {w : Half} {i : Instr} (h0 : slotIndex w ≠ 0) (hadj : slotAdj w = 0) (hcw : SMap.get none c.cw (slotIndex w) = some i)
    (hacc : slotAccepts p i = true) : c.slotWordOp p w = some ⟨p, i, true, SMap.get [] c.fp (slotIndex w)⟩ := by
  have hself : adjust i 0 = some i := by rw [adjust, if_pos rfl]
  unfold ColCtx.slotWordOp
  dsimp only
  rw [if_neg h0, hcw]
  dsimp only
  rw [if_pos hacc, hadj, hself]
  rfl

/-- R76: the words that CWLD writes decode to its entries. -/
theorem checkWords_decode (n : Nat) : ∀ {first : Nat} {data : List Byte} {is : List Instr}, checkWords first n data = .ok is →
    is.length = n ∧ ∀ j, ∀ i, is[j]? = some i → decode (BitVec.ofNat 256 (leNat ((data.drop (32 * j)).take 32))) = .ok i := by
  induction n with
  | zero =>
    intro first data is h
    cases h
    exact ⟨rfl, fun j i hi => by simp at hi⟩
  | succ n ih =>
    intro first data is h
    rw [checkWords] at h
    split at h
    · cases h
    · rename_i i hi
      split at h
      · cases h
      · split at h
        · cases h
        · rename_i is' his
          cases h
          obtain ⟨hlen, hrest⟩ := ih his
          refine ⟨by rw [List.length_cons, hlen], fun j x hx => ?_⟩
          cases j with
          | zero =>
            rw [List.getElem?_cons_zero, Option.some.injEq] at hx
            rw [← hx, Nat.mul_zero, List.drop_zero]
            exact hi
          | succ j =>
            rw [List.getElem?_cons_succ] at hx
            rw [Nat.mul_succ, Nat.add_comm, ← List.drop_drop]
            exact hrest j x hx

/-! ### One operation by itself (R59) -/

/-- Every operation that has a control word is issued by its meaning, and the attempt ends as that of an iteration does. -/
theorem exec_of_head (i : Instr) (s : State) (h : i.head.isSome = true) : exec i s = .next (s.finish (issueOp i s.noAtt)) := by
  cases i
  all_goals first
    | exact absurd h Bool.false_ne_true
    | rfl

theorem firmwareIssue_eq {s : State} {col : Nat} {w : BitVec 256} {i : Instr} (hmay : s.fwMay col = true) (hdec : decode w = .ok i) :
    let a : State := { s with att := { uid0 := some s.uid }, cur := { col := col, ctx := 4, slot := fwSlot i } }
    let o : SlotOp := ⟨fwSlot i, i, true, []⟩
    let n := a.noteAll [o]
    let t := n.orderStall (issueOp i n) [o]
    exec (.firmwareContextIssue col w) s = .next (if a.verdict t = .commit then (a.finish t).fwCounted col else a.finish t) := by
  dsimp only
  change execFirmwareContextIssue col w s = _
  unfold execFirmwareContextIssue
  rw [hmay, hdec]
  rfl

/-- Settles O1. -/
theorem stepRunsDecoded : Obligations.StepRunsDecoded := by
  refine ⟨fun s i rest h => step_of_inbox h, fun s c hin hph hdue hnext => step_of_turn hin hph hdue hnext, fun s col k b hmay hb => ?_,
    fun c p w i h0 hadj hcw hacc => slotWordOp_of_entry h0 hadj hcw hacc, fun first n data is h => checkWords_decode n h, exec_of_head,
    fun s col w i hmay hdec => firmwareIssue_eq hmay hdec⟩
  have htry := mayTry_tryIter hmay hb
  dsimp only at htry ⊢
  intro hall
  rw [mayTry_exec_eq hmay, htry hall]

end Sys2Proof.Machine
end

section
/-! SUPPORT. The end of an attempt empties blotters and fills none (R218 to R221). -/

set_option Elab.async false

namespace Sys2Proof.Machine

open Claims

/-- `y` is `x` after stores that were withheld have been performed or set aside: each context withholds what it did, or nothing, and the places of the contexts
in their launches are as they were. -/
structure Drained (x y : State) : Prop where
  blot : ∀ k, (y.getCd k).blot = (x.getCd k).blot ∨ (y.getCd k).blot = []
  launch : ∀ k, (y.getCc k).launch = (x.getCc k).launch
  launches : y.launches = x.launches
  sockets : y.sockets = x.sockets
  wf : Memory.wf x.mem → Memory.wf y.mem

namespace Drained

variable {s x y : State}

theorem refl (s : State) : Drained s s := ⟨fun _ => .inl rfl, fun _ => rfl, rfl, rfl, id⟩

theorem trans (h : Drained s x) (g : Drained x y) : Drained s y := by
  refine ⟨fun k => ?_, fun k => (g.launch k).trans (h.launch k), g.launches.trans h.launches, g.sockets.trans h.sockets, fun w => g.wf (h.wf w)⟩
  rcases g.blot k with hk | hk
  · rw [hk]
    exact h.blot k
  · exact .inr hk

/-- Nothing more is withheld. -/
theorem blotCount (h : Drained s x) (cc : Nat) {n : Nat} (hs : s.blotCount cc ≤ n) : x.blotCount cc ≤ n := by
  have hlive : x.liveOf cc = s.liveOf cc := by
    simp only [State.liveOf, State.ctxLaunch, State.launch?, State.dieLive, State.getSocket, h.launch, h.launches, h.sockets]
  rw [State.blotCount_le] at hs ⊢
  intro d hd
  rw [hlive] at hd
  rcases h.blot (ccCk d cc) with hb | hb <;> rw [hb]
  · exact hs d hd
  · exact Nat.zero_le _

/-! ### Single updates -/

theorem of_ctxs (h : Drained s x) (hcd : y.cd = x.cd := by rfl) (hcore : y.core = x.core := by rfl)
    (hcc : ∀ k, (y.getCc k).launch = (x.getCc k).launch := by intro _; rfl) (hl : y.launches = x.launches := by rfl)
    (hsock : y.sockets = x.sockets := by rfl) (hm : y.mem = x.mem := by rfl) : Drained s y :=
  h.trans ⟨fun k => .inl (by simp only [State.getCd, State.getCore, hcd, hcore]), hcc, hl, hsock, fun w => by rw [hm]; exact w⟩

theorem updCc (h : Drained s x) (k : Nat) {F : ColCtx → ColCtx} (hF : ∀ c, (F c).launch = c.launch := by intro _; rfl) : Drained s (x.updCc k F) := by
  refine h.of_ctxs (hcc := fun j => ?_)
  by_cases hj : j = k
  · rw [hj, State.getCc_updCc_same, hF]
  · rw [State.getCc_updCc_other _ _ _ _ hj]

theorem updCore (h : Drained s x) (k : Nat) {F : Core → Core} (hF : ∀ c, (F c).fw = c.fw := by intro _; rfl) : Drained s (x.updCore k F) :=
  h.trans ⟨fun j => .inl (by rw [State.getCd_updCore _ _ _ _ hF]), fun _ => rfl, rfl, rfl, id⟩

theorem updCd (h : Drained s x) (k : Nat) {F : CtxDie → CtxDie} (hF : ∀ c, (F c).blot = c.blot ∨ (F c).blot = [] := by intro _; exact .inl rfl) : Drained s (x.updCd k F) := by
  obtain ⟨hcc, hm, hl, hsock⟩ : (x.updCd k F).cc = x.cc ∧ (x.updCd k F).mem = x.mem ∧ (x.updCd k F).launches = x.launches ∧ (x.updCd k F).sockets = x.sockets := by
    unfold State.updCd State.setCd
    split <;> exact ⟨rfl, rfl, rfl, rfl⟩
  refine h.trans ⟨fun j => ?_, fun j => by rw [State.getCc, hcc]; rfl, hl, hsock, fun w => by rw [hm]; exact w⟩
  by_cases hj : j = k
  · rw [hj, State.getCd_updCd_same]
    exact hF _
  · rw [State.getCd_updCd_other _ _ _ _ hj]
    exact .inl rfl

theorem updCol (h : Drained s x) (k : Nat) (F : Column → Column) : Drained s (x.updCol k F) := h.of_ctxs

theorem accessed (h : Drained s x) (g : Accessed x y) : Drained s y := by
  obtain ⟨-, -, hcc, -, hl, hsock, -⟩ := g.unaccessed_eq
  exact h.trans ⟨fun k => .inl (by rw [g.getCd]), fun k => by rw [State.getCc, hcc]; rfl, hl, hsock, g.wf⟩

theorem performBlot (h : Drained s x) (b : Blot) : Drained s (x.performBlot b) := by
  have hu := x.performBlot_unstored b
  refine h.trans ⟨fun k => .inl (by rw [getCd_of_unstored hu]), fun k => ?_, (congrArg State.launches hu :), (congrArg State.sockets hu :),
    fun w => State.performBlot_wf _ w b⟩
  rw [State.getCc, State.performBlot_cc]
  rfl

/-! ### Splices (R218, R219) -/

theorem releaseBlot (h : Drained s x) (ck : Nat) : Drained s (x.releaseBlot ck) :=
  Drained.updCd (foldl_ind (P := Drained s) (fun _ _ hy => hy.performBlot _) _ _ h) _ fun _ => .inr rfl

theorem spliceDie (h : Drained s x) (inh : Bool) (ck : Nat) : Drained s (x.spliceDie inh ck) := by
  unfold State.spliceDie
  dsimp only
  split
  · exact h.releaseBlot ck
  · exact Drained.updCore ((h.releaseBlot ck).updCd _ ) _

theorem splice (h : Drained s x) (cc : Nat) : Drained s (x.splice cc) := by
  have h1 : Drained s ((x.liveOf cc).foldl (fun s d => s.spliceDie (x.getCc cc).inh (ccCk d cc)) x) :=
    foldl_ind (P := Drained s) (fun _ _ hy => hy.spliceDie ..) _ _ h
  unfold State.splice
  dsimp only
  split
  · exact h1
  · exact h1.updCc _

/-! ### The arbiter (R88 to R90, R248 to R250) -/

theorem eventRecord (h : Drained s x) (cc sub die : Nat) : Drained s (x.eventRecord cc sub die) := by
  unfold State.eventRecord
  split
  · exact h.of_ctxs
  · exact h

theorem activate (h : Drained s x) (col k from_ : Nat) : Drained s (x.activate col k from_) := by
  unfold State.activate
  exact (h.updCc _).updCol ..

theorem decide (h : Drained s x) (col from_ : Nat) : Drained s (x.decide col from_) := by
  have h1 : Drained s (x.noteAges col) := h.updCol ..
  unfold State.decide
  dsimp only
  split
  · exact h1.updCol ..
  · split
    · exact h1
    · exact ((h1.updCol ..).activate ..).eventRecord ..

theorem leftActive (h : Drained s x) (col k from_ : Nat) : Drained s (x.leftActive col k from_) := by
  have h1 : Drained s (x.updCol col fun c => { c with last := k }) := h.updCol ..
  unfold State.leftActive
  dsimp only
  split
  · split
    · exact h1.activate ..
    · exact h1.decide ..
  · exact h1.decide ..

theorem yieldPoint (h : Drained s x) (col k from_ : Nat) : Drained s (x.yieldPoint col k from_) := by
  have h1 : Drained s (((x.updCc (ccKey col k) fun c => { c with st := .ready }).updCol col fun c => { c with last := k }).noteAges col) :=
    ((h.updCc _).updCol ..).updCol ..
  unfold State.yieldPoint
  dsimp only
  generalize ((x.updCc (ccKey col k) fun c => { c with st := .ready }).updCol col fun c => { c with last := k }).noteAges col = s0 at h1
  split
  · exact h1
  split
  · exact h1
  refine Drained.eventRecord ?_ ..
  split
  · exact (h1.updCol ..).updCc _
  · exact (h1.updCol ..).activate ..

/-! ### The end of an attempt -/

theorem raise (h : Drained s x) (cc : Nat) (l : List (Nat × FRec)) : Drained s (x.raise cc l) := by
  unfold State.raise
  dsimp only
  split
  · exact h
  split
  · exact h.of_ctxs
  · exact h.updCc _

theorem noteStall (h : Drained s x) (r : Nat) : Drained s (x.noteStall r) := h.updCc _

theorem blockOn (h : Drained s x) (r : BlkReason) : Drained s (x.blockOn r) := by
  unfold State.blockOn
  dsimp only
  split
  · exact h
  · exact ((h.splice _).updCc _).leftActive ..

theorem cwRequest (h : Drained s x) (cc : Nat) (r : Option (Nat × Nat × Nat × Nat)) : Drained s (x.cwRequest cc r) := by
  unfold State.cwRequest
  split
  · exact h
  · split
    · exact h
    · refine foldl_ind (P := Drained s) (fun y i hy => hy.accessed ((Accessed.refl y).podSend ..)) _ _ ?_
      have h1 : Drained s (x.updCc cc fun c => { c with cwBuf := some (x.uid, []) }) := h.updCc cc
      exact h1.of_ctxs

theorem unloadAll (h : Drained s x) (l : List (Nat × Nat)) : Drained s (x.unloadAll l) :=
  foldl_ind (P := Drained s) (fun _ _ hy => hy.updCd _ ) _ _ h

theorem usePorts (h : Drained s x) (l : List (Nat × Nat × Bool)) : Drained s (x.usePorts l) := by
  unfold State.usePorts
  split
  · exact h
  · refine foldl_ind (P := Drained s) (fun y d hy => ?_) _ _ h
    dsimp only
    split
    · exact hy
    · exact hy.updCore _

theorem holdLate (h : Drained s x) (cc : Nat) (ds : List Nat) : Drained s (x.holdLate cc ds) :=
  foldl_ind (P := Drained s) (fun _ _ hy => hy.updCd _ fun _ => .inr rfl) _ _ h

theorem commitSplice (h : Drained s x) (a : Att) (cc : Nat) (leaves : Bool) : Drained s (x.commitSplice a cc leaves) := by
  unfold State.commitSplice
  split
  · exact (h.splice cc).updCc _
  · exact h

theorem commitAs (h : Drained s x) (a : Att) : Drained s (x.commitAs a) := by
  have h1 := h.usePorts a.vm
  unfold State.commitAs
  dsimp only
  generalize x.usePorts a.vm = y at h1
  split
  · split
    · exact foldl_ind (P := Drained s) (fun _ _ hy => hy.releaseBlot _) _ _ h1
    · exact h1
  · have h2 : Drained s (y.commitCol a x.cc0) := h1.updCc _
    refine Drained.raise ?_ ..
    generalize y.commitCol a x.cc0 = z at h2
    have h3 : Drained s (if (a.yields && !a.halt && a.arrive.isNone) = true then
        z.yieldPoint z.cur.col z.cur.ctx (z.clock + 1 + ceilDiv (z.releaseCount x.cc0 a.released) 4) else z) := by
      split
      · exact h2.yieldPoint ..
      · exact h2
    generalize (if (a.yields && !a.halt && a.arrive.isNone) = true then
        z.yieldPoint z.cur.col z.cur.ctx (z.clock + 1 + ceilDiv (z.releaseCount x.cc0 a.released) 4) else z) = w at h3
    have h4 := (h3.holdLate x.cc0 a.late).commitSplice a x.cc0 ((w.getCc x.cc0).st != .active)
    generalize (w.holdLate x.cc0 a.late).commitSplice a x.cc0 ((w.getCc x.cc0).st != .active) = v at h4
    have h5 : Drained s (if a.hold > 0 then v.updCc x.cc0 fun c => { c with
        holdUntil := Nat.max c.holdUntil (v.clock + 1 + a.hold), holdReason := a.holdReason } else v) := by
      split
      · exact h4.updCc _
      · exact h4
    split
    · exact h5.leftActive ..
    · exact h5

theorem commit (h : Drained s x) : Drained s x.commit :=
  Drained.commitAs (h.of_ctxs (y := x.noAtt)) x.att

end Drained

/-! ### How an attempt leaves its blotter -/

/-- R219 to R221: an attempt ends as a commit of what its operations made, whose blotter has room, or drains the state that it began with. -/
theorem State.finish_cases (s t : State) : (s.finish t = t.commit ∧ t.blotCount s.cc0 ≤ 128) ∨ Drained s (s.finish t) := by
  have h0 : Drained s { s with att := {}, freeCtr := t.freeCtr } := (Drained.refl s).of_ctxs
  unfold State.finish
  dsimp only
  generalize hs : ({ s with att := {}, freeCtr := t.freeCtr } : State) = s0 at h0
  have hcc : s0.cc0 = s.cc0 := by rw [← hs]; rfl
  split
  · exact .inr (h0.raise ..)
  · exact .inr (h0.blockOn _)
  · exact .inr ((h0.noteStall _).cwRequest ..)
  · exact .inr ((h0.unloadAll _).raise ..)
  · exact .inr ((h0.noteStall _).updCc _)
  · exact .inr (((h0.splice _).noteStall _).updCc _)
  · rename_i hv
    refine .inl ⟨rfl, ?_⟩
    unfold State.verdict at hv
    dsimp only at hv
    split at hv
    · cases hv
    · split at hv
      · cases hv
      · split at hv
        · cases hv
        · split at hv
          · cases hv
          · split at hv
            · cases hv
            · split at hv
              · cases hv
              · rw [hcc] at *
                omega

/-- Settles O45. -/
theorem blotterBound : Obligations.BlotterBound := by
  intro i s hhead _ _ hbound
  refine ⟨_, exec_of_head i s hhead, ?_⟩
  rcases s.finish_cases (issueOp i s.noAtt) with ⟨heq, hroom⟩ | hdrained
  · rw [heq]
    exact (Drained.refl _).commit.blotCount _ hroom
  · exact hdrained.blotCount _ hbound

end Sys2Proof.Machine
end

section
/-! SUPPORT. Accesses that end with a fault of the pod (R265), and what the end of a team (R87, R378) and of a die's work (R275, R276) leave alone. -/

set_option Elab.async false

namespace Sys2Proof.Machine

open Claims

/-! ### Replies and faults of the pod (R262 to R265) -/

/-- The part of the state that no reply of the pod touches. -/
def State.unreplied (s : State) : State := { s.unstored with cd := [], core := [], cc := [], swaps := [], engPod := [], posted := [], die := [] }

/-- `t` is `s` after replies. -/
structure Replied (s t : State) : Prop where
  rest : t.unreplied = s.unreplied
  wf : Memory.wf s.mem → Memory.wf t.mem

namespace Replied

variable {s x y : State}

theorem refl (s : State) : Replied s s := ⟨rfl, id⟩

theorem trans (h : Replied s x) (g : Replied x y) : Replied s y := ⟨g.rest.trans h.rest, fun w => g.wf (h.wf w)⟩

theorem of_rest (h : Replied s x) (hr : y.unreplied = x.unreplied := by rfl) (hm : y.mem = x.mem := by rfl) : Replied s y :=
  ⟨hr.trans h.rest, fun w => by rw [hm]; exact h.wf w⟩

theorem store (h : Replied s x) (loc : Nat) (data : List Byte) : Replied s (x.store loc data) := by
  have hu := x.store_unstored loc data
  exact ⟨(congrArg (fun u : State => { u with cd := [], core := [], cc := [], swaps := [], engPod := [], posted := [], die := [] }) hu).trans h.rest,
    fun w => State.store_wf _ (h.wf w) loc data⟩

theorem faultAt (h : Replied s x) (cc die : Nat) (r : FRec) (seq : Nat) : Replied s (x.faultAt cc die r seq) := by
  unfold State.faultAt
  dsimp only
  split
  · exact h.of_rest
  · generalize hy : ({ x with swaps := _ } : State) = y
    have h1 : Replied s y := by
      rw [← hy]
      exact h.of_rest
    split
    · split
      · split
        · refine foldl_ind (P := Replied s) (fun z d hz => ?_) _ _ h1
          exact foldl_ind (P := Replied s) (fun _ _ hw => hw.store ..) _ _ hz
        · exact h1
      · exact h1
    · exact h1

theorem updCw (h : Replied s x) (cc : Nat) (f : Nat × List (Nat × List Byte) → Option (Nat × List (Nat × List Byte))) : Replied s (x.updCw cc f) := by
  unfold State.updCw
  dsimp only
  split <;> exact h.of_rest

theorem mapCtxs (h : Replied s x) (f : CtxDie → CtxDie) : Replied s (x.mapCtxs f) := h.of_rest

theorem faultOne (h : Replied s x) (uid code cause : Nat) : Replied s (x.faultOne uid code cause) := by
  unfold State.faultOne
  split
  · exact (h.mapCtxs _).faultAt ..
  · split
    · exact (h.mapCtxs _).faultAt ..
    · split
      · exact h.of_rest
      · split
        · rename_i p _
          have h1 : Replied s { x with posted := x.posted.filter fun x => x.uid != uid } := h.of_rest
          dsimp only
          split
          · exact h1.faultAt ..
          · exact h1
        · split
          · exact (h.updCw ..).faultAt ..
          · exact h

theorem dropSplit (h : Replied s x) (uid : Nat) : Replied s (x.dropSplit uid) := h.of_rest

theorem faultReply (h : Replied s x) (uid code cause : Nat) : Replied s (x.faultReply uid code cause) := by
  unfold State.faultReply
  split
  · exact foldl_ind (P := Replied s) (fun _ _ hy => hy.faultOne ..) _ _ (h.dropSplit uid)
  · exact h.faultOne ..

theorem podLose (h : Replied s x) (ms : List PodMsg) : Replied s (x.podLose ms) := foldl_ind (P := Replied s) (fun _ _ hy => hy.faultReply ..) _ _ h

theorem links (h : Replied s x) : x.links = s.links := (congrArg State.links h.rest :)

theorem start (h : Replied s x) : x.start = s.start := (congrArg State.start h.rest :)

end Replied

/-! ### The end of a team, and of what a die does -/

/-- `t` is `s` after the end of teams, or of the work of a die or of IO1: the sockets and the start under way are as they were, launches stay with their error,
and no die waits newly for a verdict. -/
structure Ended (s t : State) : Prop where
  sockets : t.sockets = s.sockets
  start : t.start = s.start
  launch : ∀ n l, s.launch? n = some l → ∃ l', t.launch? n = some l' ∧ (l.error = true → l'.error = true)
  pend : ∀ k < 18, s.attpend.getLsbD k = false → t.attpend.getLsbD k = false
  wf : Memory.wf s.mem → Memory.wf t.mem

namespace Ended

variable {s x y : State}

theorem refl (s : State) : Ended s s := ⟨rfl, rfl, fun _ l h => ⟨l, h, id⟩, fun _ _ => id, id⟩

theorem trans (h : Ended s x) (g : Ended x y) : Ended s y := by
  refine ⟨g.sockets.trans h.sockets, g.start.trans h.start, fun n l hl => ?_, fun k hk hp => g.pend k hk (h.pend k hk hp), fun w => g.wf (h.wf w)⟩
  obtain ⟨l1, h1, e1⟩ := h.launch n l hl
  obtain ⟨l2, h2, e2⟩ := g.launch n l1 h1
  exact ⟨l2, h2, fun e => e2 (e1 e)⟩

theorem of_eq (h : Ended s x) (hsock : y.sockets = x.sockets := by rfl) (hst : y.start = x.start := by rfl) (hl : y.launches = x.launches := by rfl)
    (hp : y.attpend = x.attpend := by rfl) (hm : y.mem = x.mem := by rfl) : Ended s y :=
  h.trans ⟨hsock, hst, fun n l hn => ⟨l, by rw [State.launch?, hl]; exact hn, id⟩, fun k _ hk => by rw [hp]; exact hk, fun w => by rw [hm]; exact w⟩

theorem kept (h : Ended s x) (g : Kept x y) : Ended s y := by
  have hl : y.launches = x.launches := (congrArg State.launches g.rest :)
  have hp : y.attpend = x.attpend := (congrArg State.attpend g.rest :)
  exact h.trans ⟨(congrArg State.sockets g.rest :), (congrArg State.start g.rest :), fun n l hn => ⟨l, by rw [State.launch?, hl]; exact hn, id⟩,
    fun k _ hk => by rw [hp]; exact hk, g.wf⟩

theorem worked (h : Ended s x) (g : Worked x y) : Ended s y := h.kept g.toKept

theorem replied (h : Ended s x) (g : Replied x y) : Ended s y := by
  have hl : y.launches = x.launches := (congrArg State.launches g.rest :)
  have hp : y.attpend = x.attpend := (congrArg State.attpend g.rest :)
  exact h.trans ⟨(congrArg State.sockets g.rest :), g.start, fun n l hn => ⟨l, by rw [State.launch?, hl]; exact hn, id⟩,
    fun k _ hk => by rw [hp]; exact hk, g.wf⟩

theorem updCore (h : Ended s x) (k : Nat) (F : Core → Core) : Ended s (x.updCore k F) := h.of_eq

theorem updEng (h : Ended s x) (k : Nat) (F : Eng → Eng) : Ended s (x.updEng k F) := h.of_eq

theorem setCc (h : Ended s x) (k : Nat) (c : ColCtx) : Ended s (x.setCc k c) := h.of_eq

theorem withColls (h : Ended s x) (l : SMap Coll) : Ended s { x with colls := l } := h.of_eq

theorem withSwaps (h : Ended s x) (l : SMap Swap) : Ended s { x with swaps := l } := h.of_eq

theorem withBarriers (h : Ended s x) (l : SMap Barrier) : Ended s { x with barriers := l } := h.of_eq

theorem withDie (h : Ended s x) (l : SMap Die) : Ended s { x with die := l } := h.of_eq

theorem withEvents (h : Ended s x) (l : List Event) : Ended s { x with events := l } := h.of_eq

theorem withPodIn (h : Ended s x) (l : List (Nat × Nat × PodMsg)) : Ended s { x with podIn := l } := h.of_eq

/-- A launch written, its error kept. -/
theorem updLaunch (h : Ended s x) (n : Nat) {F : Launch → Launch} (hF : ∀ l, l.error = true → (F l).error = true := by exact fun _ => id) : Ended s (x.updLaunch n F) := by
  unfold State.updLaunch
  split
  · rename_i l hl
    refine h.trans ⟨rfl, rfl, fun m l' hm => ?_, fun _ _ => id, id⟩
    by_cases hmn : m = n
    · subst hmn
      rw [hl, Option.some.injEq] at hm
      refine ⟨F l, ?_, by rw [← hm]; exact hF l⟩
      rw [State.launch?, SMap.find?_put, if_pos rfl]
      rfl
    · refine ⟨l', ?_, id⟩
      rw [State.launch?, SMap.find?_put, if_neg hmn]
      exact hm
  · exact h

/-! ### Termination (R87, R378) -/

theorem setCd (h : Ended s x) (k : Nat) (c : CtxDie) : Ended s (x.setCd k c) := h.worked ((Worked.refl x).setCd k c)

theorem updCd (h : Ended s x) (k : Nat) (F : CtxDie → CtxDie) : Ended s (x.updCd k F) := h.setCd ..

theorem performBlots (h : Ended s x) (l : List Blot) : Ended s (l.foldl State.performBlot x) := by
  refine foldl_ind (P := Ended s) (fun y b hy => ?_) _ _ h
  have hu := y.performBlot_unstored b
  have hl : (y.performBlot b).launches = y.launches := (congrArg State.launches hu :)
  have hp : (y.performBlot b).attpend = y.attpend := (congrArg State.attpend hu :)
  exact hy.trans ⟨(congrArg State.sockets hu :), (congrArg State.start hu :), fun n l hn => ⟨l, by rw [State.launch?, hl]; exact hn, id⟩,
    fun k _ hk => by rw [hp]; exact hk, fun w => State.performBlot_wf _ w b⟩

theorem lateStores (h : Ended s x) (ck : Nat) : Ended s (x.lateStores ck) := by
  unfold State.lateStores
  split
  · exact h
  · exact (h.performBlots _).updCd ..

theorem amoKept (h : Ended s x) (c : CtxDie) (launch : Nat) : Ended s (x.amoKept c launch) := h.of_eq

theorem drainChan (h : Ended s x) (core ck ch : Nat) : Ended s (x.drainChan core ck ch).2 := by
  unfold State.drainChan
  exact foldl_ind (P := Ended s) (fun y c hy => hy.worked (((Worked.refl y).untrack ..).dropPod ..)) _ _ (h.worked ((Worked.refl x).updChan ..))

theorem setHead (h : Ended s x) (core ch : Nat) (c : CopyCmd) : Ended s (x.setHead core ch c) := h.worked ((Worked.refl x).updChan ..)

theorem killChan (h : Ended s x) (core ck ch : Nat) : Ended s (x.killChan core ck ch) := by
  have h1 := h.drainChan core ck ch
  unfold State.killChan
  dsimp only
  generalize (x.drainChan core ck ch).2 = y at h1
  split
  · split
    · exact h1
    split
    · exact h1.setHead ..
    split
    · rename_i c _ _ _ _
      generalize c.n - c.elem - (if c.f.trn then c.held.length else 0) - c.taken.length = lacks
      split
      · exact h1.worked ((Worked.refl y).copyEnd ..)
      · exact h1.setHead ..
    · exact h1
  · exact h1

theorem killMx (h : Ended s x) (core ck : Nat) : Ended s (x.killMx core ck) := by
  unfold State.killMx
  dsimp only
  refine Ended.updCore ?_ ..
  refine foldl_ind (P := Ended s) (fun y c hy => hy.worked (((Worked.refl y).mxPop ..).dropPod ..)) _ _ ?_
  split
  · exact h.updCore ..
  · exact h

theorem killEv (h : Ended s x) (core ck : Nat) : Ended s (x.killEv core ck) := (h.updCore ..).updCore ..

theorem killDirect (h : Ended s x) (core ck : Nat) : Ended s (x.killDirect core ck) := by
  unfold State.killDirect
  exact h.updCore ..

theorem killEng (h : Ended s x) (ck e : Nat) : Ended s (x.killEng ck e) := h.updEng ..

theorem killDie (h : Ended s x) (col k d : Nat) : Ended s (x.killDie col k d) := by
  unfold State.killDie
  dsimp only
  refine Ended.updCd (Ended.killEv (Ended.killMx ?_ ..) ..) ..
  refine foldl_ind (P := Ended s) (fun _ _ hy => hy.killEng ..) _ _ ?_
  refine Ended.killDirect (Ended.updCore ?_ ..) ..
  exact foldl_ind (P := Ended s) (fun _ _ hy => hy.killChan ..) _ _ (Ended.amoKept (h.lateStores _) ..)

theorem freePair (h : Ended s x) (col l : Nat) : Ended s (x.freePair col l) := h.kept ((Kept.refl x).freePair ..)

theorem killDies (h : Ended s x) (col k : Nat) (ds : List Nat) : Ended s (ds.foldl (fun s d => s.killDie col k d) x) :=
  foldl_ind (P := Ended s) (fun _ _ hy => hy.killDie ..) _ _ h

theorem leftActiveIf (h : Ended s x) (b : Bool) (col k at_ : Nat) : Ended s (if b then x.leftActive col k at_ else x) := by
  split
  · exact h.kept ((Kept.refl _).leftActive ..)
  · exact h

theorem killCtx (h : Ended s x) (cc : Nat) : Ended s (x.killCtx cc) := by
  unfold State.killCtx
  dsimp only
  refine Ended.leftActiveIf (Ended.freePair (Ended.setCc ?_ _ _) _ _) _ _ _ _
  exact h.killDies ..

theorem pushDirect (h : Ended s x) (core : Nat) (z : Xmit) : Ended s (x.pushDirect core z) := by
  unfold State.pushDirect
  exact h.updCore ..

theorem requeueCopy (h : Ended s x) (col ck : Nat) (z : Nat × Nat × CopyCmd) : Ended s (x.requeueCopy col ck z) := by
  unfold State.requeueCopy
  exact (h.worked ((Worked.refl x).updChan ..)).updCore ..

theorem runOn (h : Ended s x) (n i launch : Nat) (sv : SavedCtx) : Ended s (x.runOn n i launch sv) := by
  unfold State.runOn
  dsimp only
  generalize (sv.copies.filter fun x => x.2.2.begun).partition (fun x => x.2.2.isSpx) = parts
  have h1 : Ended s (parts.1.foldl (fun s x => s.cmdSignal x.2.2.uid (coreKey x.1 sv.col) x.2.2.sigSem x.2.2.sigInc) x) :=
    foldl_ind (P := Ended s) (fun y _ hy => hy.worked ((Worked.refl y).cmdSignal ..)) _ _ h
  generalize parts.1.foldl (fun s x => s.cmdSignal x.2.2.uid (coreKey x.1 sv.col) x.2.2.sigSem x.2.2.sigInc) x = y at h1
  split
  · exact h1
  · refine foldl_ind (P := Ended s) (fun _ _ hy => hy.pushDirect ..) _ _ ?_
    refine foldl_ind (P := Ended s) (fun _ _ hy => hy.requeueCopy ..) _ _ ?_
    exact foldl_ind (P := Ended s) (fun _ _ hy => hy.setCd ..) _ _ (h1.setCc ..)

theorem dropSwap (h : Ended s x) (n : Nat) (w : Swap) : Ended s (x.dropSwap n w) := by
  unfold State.dropSwap
  dsimp only
  refine Ended.withSwaps ?_ _
  refine foldl_ind (P := Ended s) (fun y sv hy => foldl_ind (P := Ended s) (fun _ _ hz => hz.updCore ..) _ _ hy) _ _ ?_
  refine foldl_ind (P := Ended s) (fun _ _ hy => hy.runOn ..) _ _ ?_
  exact foldl_ind (P := Ended s) (fun y sv hy => foldl_ind (P := Ended s) (fun _ _ hz => (hz.performBlots _).amoKept ..) _ _ hy) _ _ h

theorem leaveDirect (h : Ended s x) (k rank : Nat) : Ended s (x.leaveDirect k rank) := by
  refine foldl_ind (P := Ended s) (fun y c hy => ?_) _ _ h
  dsimp only
  split
  · exact hy.updCore ..
  · exact hy

theorem releaseMember (h : Ended s x) (k : Nat) (m : CollMember) : Ended s (x.releaseMember k m) := by
  have h1 : Ended s (if m.direct then x.leaveDirect k m.rank else x) := by
    split
    · exact h.leaveDirect ..
    · exact h
  unfold State.releaseMember
  dsimp only
  split
  · exact h1.updCore ..
  · exact h1.updEng ..

theorem killColls (h : Ended s x) (launch team : Nat) : Ended s (x.killColls launch team) := by
  unfold State.killColls
  dsimp only
  refine Ended.withColls ?_ _
  refine foldl_ind (P := Ended s) (fun y c hy => ?_) _ _ (h.withColls _)
  refine foldl_ind (P := Ended s) (fun z m hz => ?_) _ _ hy
  split
  · exact hz
  · exact hz.releaseMember ..

theorem freeSave (h : Ended s x) (n : Nat) : Ended s (x.freeSave n) := by
  unfold State.freeSave
  split
  · split
    · exact h.updLaunch n
    · exact h
  · exact h

theorem closeQueues (h : Ended s x) : Ended s x.closeQueues := h.of_eq

theorem terminateTeam (h : Ended s x) (launch team : Nat) : Ended s (x.terminateTeam launch team) := by
  unfold State.terminateTeam
  dsimp only
  refine (Ended.freeSave (Ended.updLaunch ?_ _ fun _ _ => rfl) _).closeQueues
  refine Ended.withBarriers ?_ _
  refine foldl_ind (P := Ended s) (fun _ _ hy => hy.dropSwap ..) _ _ ?_
  exact foldl_ind (P := Ended s) (fun _ _ hy => hy.killCtx _) _ _ (h.killColls ..)

theorem terminateLaunch (h : Ended s x) (n : Nat) : Ended s (x.terminateLaunch n) := by
  unfold State.terminateLaunch
  split
  · exact h
  · refine (Ended.freeSave (Ended.updLaunch ?_ _ fun _ _ => rfl) _).closeQueues
    exact foldl_ind (P := Ended s) (fun _ _ hy => hy.terminateTeam ..) _ _ h

/-! ### A die or IO1 that leaves the live set (R84, R275, R276) -/

theorem unroute (h : Ended s x) : Ended s x.unroute := by
  have h1 : Ended s { x with podOut := x.podOut.filter fun m => (x.route m.2.dst m.2.addr).isSome } := h.of_eq
  exact h1.replied ((Replied.refl _).podLose _)

theorem updLink (h : Ended s x) (n : Nat) (F : Link → Link) : Ended s (x.updLink n F) := h.of_eq

theorem linkDown (h : Ended s x) (n : Nat) : Ended s (x.linkDown n) := (h.updLink ..).unroute

theorem acked (h : Ended s x) (uid at_ : Nat) : Ended s (x.acked uid at_) := h.of_eq

theorem rehome (h : Ended s x) (c : Nat) : Ended s (x.rehome c) := h.of_eq

theorem maskPend (h : Ended s x) : Ended s { x with attpend := x.attpend &&& 0x3FFFF#64 } :=
  h.trans ⟨rfl, rfl, fun _ l hn => ⟨l, hn, id⟩, fun k _ hk => by rw [BitVec.getLsbD_and, hk, Bool.false_and], id⟩

theorem io1Lost (h : Ended s x) : Ended s x.io1Lost := by
  have h1 : Ended s (((List.range 16).filter fun n => (x.getLink n).up || (x.getLink n).sess.isSome || x.attpend.getLsbD (18 + n)).foldl (fun s n => s.linkDown n) x) :=
    foldl_ind (P := Ended s) (fun _ _ hy => hy.linkDown _) _ _ h
  unfold State.io1Lost
  dsimp only
  generalize ((List.range 16).filter fun n => (x.getLink n).up || (x.getLink n).sess.isSome || x.attpend.getLsbD (18 + n)).foldl (fun s n => s.linkDown n) x = y at h1
  have h2 := h1.maskPend
  refine Ended.replied ?_ ((Replied.refl _).podLose _)
  exact foldl_ind (P := Ended s) (fun _ _ hy => hy.acked ..) _ _ (h2.withPodIn _)

theorem rehomeIf (h : Ended s x) (p : Nat → Bool) : Ended s (x.rehomeIf p) := foldl_ind (P := Ended s) (fun _ _ hy => hy.rehome _) _ _ h

theorem leaveLive (h : Ended s x) (k : Nat) : Ended s (x.leaveLive k) := by
  unfold State.leaveLive
  split
  · dsimp only
    refine Ended.rehomeIf (Ended.withDie ?_ _) _
    exact foldl_ind (P := Ended s) (fun _ _ hy => (hy.terminateLaunch _).withEvents _) _ _ h
  · split
    · exact h.io1Lost
    · exact h

end Ended

end Sys2Proof.Machine
end

section
/-! The obligations on trust: keys, tag failures and resets (O58), exchanges and verdicts (O57). -/

set_option Elab.async false

namespace Sys2Proof.Machine

open Claims

variable (s : State) (k n : Nat)

@[simp] theorem State.getSocket_updSocket_same (F : Socket → Socket) : (s.updSocket k F).getSocket k = F (s.getSocket k) := SMap.get_set_same ..

@[simp] theorem State.getLink_updLink_same (F : Link → Link) : (s.updLink n F).getLink n = F (s.getLink n) := SMap.get_set_same ..

/-! ### Quarantine (R275) -/

/-- What a quarantine writes in the socket's record. -/
def quarantinedAs (reason : Nat) (failed : Bool) (x : Socket) : Socket :=
  { x with st := .quarantined, reason := reason, fails := if failed then Nat.min 255 (x.fails + 1) else x.fails, tagFails := [] }

/-- A quarantine writes its socket's record; what it ends beyond that is framed by `Ended`. -/
theorem State.quarantine_ended (reason : Nat) (failed : Bool) : Ended (s.updSocket k (quarantinedAs reason failed)) (s.quarantine k reason failed) := by
  unfold State.quarantine
  dsimp only
  change Ended _ (if _ then (s.updSocket k (quarantinedAs reason failed)).leaveLive k else s.updSocket k (quarantinedAs reason failed))
  split
  · exact (Ended.refl _).leaveLive k
  · exact Ended.refl _

theorem State.quarantine_socket (reason : Nat) (failed : Bool) :
    (s.quarantine k reason failed).getSocket k = quarantinedAs reason failed (s.getSocket k) := by
  unfold State.getSocket
  rw [(s.quarantine_ended k reason failed).sockets]
  exact s.getSocket_updSocket_same k _

theorem State.quarantine_start (reason : Nat) (failed : Bool) : (s.quarantine k reason failed).start = s.start :=
  (s.quarantine_ended k reason failed).start

theorem quarantined_of_socket {s t : State} {k : Nat} {reason : Nat} {failed : Bool} (h : t.getSocket k = quarantinedAs reason failed (s.getSocket k)) :
    Quarantined s t k reason failed := by
  unfold Quarantined
  rw [h]
  exact ⟨rfl, rfl, rfl⟩

/-- A launch of a die that leaves the live set is marked with an error (R276). -/
theorem terminateLaunch_error {s : State} {m : Nat} {l : Launch} (h : s.launch? m = some l) : ∃ l', (s.terminateLaunch m).launch? m = some l' ∧ l'.error = true := by
  have hteams : Ended s ((List.range l.teams).foldl (fun s t => s.terminateTeam m t) s) :=
    foldl_ind (P := Ended s) (fun _ _ hy => hy.terminateTeam ..) _ _ (Ended.refl s)
  obtain ⟨l1, h1, -⟩ := hteams.launch m l h
  unfold State.terminateLaunch
  rw [h]
  dsimp only
  generalize (List.range l.teams).foldl (fun s t => s.terminateTeam m t) s = y at h1
  have h2 := y.launch?_updLaunch_same (F := fun l => { l with error := true, dropped := l.dropped || l.nextTeam < l.teams }) h1
  obtain ⟨l3, h3, e3⟩ := (((Ended.refl _).freeSave m).closeQueues).launch m _ h2
  exact ⟨l3, h3, e3 rfl⟩

/-- One launch of a die that leaves, ended and reported. -/
def State.leaves (d : Nat) (s : State) (m : Nat) : State := { s.terminateLaunch m with events := (s.terminateLaunch m).events ++ [.quarantined d m] }

theorem Ended.leaves {s x : State} (h : Ended s x) (d m : Nat) : Ended s (x.leaves d m) := (h.terminateLaunch m).withEvents _

theorem leaves_error (d : Nat) {m : Nat} : ∀ (ls : List Nat) {s : State} {l : Launch}, m ∈ ls → s.launch? m = some l →
    ∃ l', (ls.foldl (State.leaves d) s).launch? m = some l' ∧ l'.error = true
  | [], _, _, hm, _ => absurd hm List.not_mem_nil
  | a :: ls, s, l, hm, hl => by
    rw [List.foldl_cons]
    have hrest : Ended (s.leaves d a) (ls.foldl (State.leaves d) (s.leaves d a)) := foldl_ind (P := Ended _) (fun _ _ hy => hy.leaves ..) _ _ (Ended.refl _)
    rcases List.mem_cons.1 hm with rfl | hm
    · obtain ⟨l1, h1, e1⟩ := terminateLaunch_error hl
      obtain ⟨l2, h2, e2⟩ := hrest.launch m l1 h1
      exact ⟨l2, h2, e2 e1⟩
    · obtain ⟨l1, h1, -⟩ := ((Ended.refl s).leaves d a).launch m l hl
      exact leaves_error d ls hm h1

theorem mem_of_launch? {s : State} {m : Nat} {l : Launch} (h : s.launch? m = some l) : (m, l) ∈ s.launches := by
  obtain ⟨⟨a, b⟩, hf, hb⟩ := Option.map_eq_some_iff.1 h
  have ha : a = m := eq_of_beq (List.find?_some hf :)
  rw [← ha, ← (hb : b = l)]
  exact List.mem_of_find?_eq_some hf

theorem leaveLive_error {s : State} {k m : Nat} {l : Launch} (hk : k < 8) (hl : s.launch? m = some l) (hlive : l.live.testBit k = true) :
    ∃ l', (s.leaveLive k).launch? m = some l' ∧ l'.error = true := by
  have hmem : m ∈ (s.launches.filter fun l => bits l.2.live k 1 == 1).map Prod.fst := by
    refine List.mem_map.2 ⟨(m, l), List.mem_filter.2 ⟨mem_of_launch? hl, ?_⟩, rfl⟩
    rw [Nat.testBit_eq_decide_div_mod_eq] at hlive
    simpa [bits] using hlive
  unfold State.leaveLive
  rw [if_pos hk]
  dsimp only
  change ∃ l', (State.rehomeIf { (List.foldl (State.leaves k) s _) with die := _ } _).launch? m = some l' ∧ _
  obtain ⟨l1, h1, e1⟩ := leaves_error k _ hmem hl
  generalize (List.foldl (State.leaves k) s _) = y at h1
  obtain ⟨l2, h2, e2⟩ := (((Ended.refl y).withDie _).rehomeIf _).launch m l1 h1
  exact ⟨l2, h2, e2 e1⟩

/-- An outcome, its state rewritten. -/
theorem next_of {s t u : State} {i : Instr} (h : exec i s = .next t) (e : t = u) : exec i s = .next u := h.trans (congrArg _ e)

/-! ### Links and dies (R259, R272, R275, R276) -/

@[simp] theorem State.getLink_replayFlit : (s.replayFlit n).getLink n =
    { s.getLink n with replay := if (s.getLink n).replay = 0xFFFF#16 then (s.getLink n).replay else (s.getLink n).replay + 1#16 } :=
  s.getLink_updLink_same n _

/-- The counter of replayed flits stops at its greatest value. -/
theorem replay_toNat (r : Half) : (if r = 0xFFFF#16 then r else r + 1#16).toNat = Nat.min 0xFFFF (r.toNat + 1) := by
  have hr := r.isLt
  change _ = min _ _
  split
  · rename_i h
    rw [h]
    rfl
  · rename_i h
    have : r.toNat ≠ 0xFFFF := fun he => h (BitVec.eq_of_toNat_eq he)
    rw [BitVec.toNat_add]
    simp
    omega

theorem State.unroute_links : s.unroute.links = s.links :=
  ((Replied.refl { s with podOut := s.podOut.filter fun m => (s.route m.2.dst m.2.addr).isSome }).podLose _).links

theorem State.getLink_linkDown_up : ((s.linkDown n).getLink n).up = false := by
  unfold State.getLink State.linkDown
  rw [State.unroute_links]
  exact congrArg Link.up (s.getLink_updLink_same n _)

theorem State.keyRollover_die (hk : k < 18) (hlive : (s.getSocket k).st = .live) (out : Bool) : ∃ t, exec (.keyRollover ⟨k, out⟩) s = .next t ∧
    { t with sockets := s.sockets } = s ∧ t.getSocket k = if out then { s.getSocket k with tx := ⟨(s.getSocket k).tx.sess, (s.getSocket k).tx.gen + 1, 0⟩ }
      else { s.getSocket k with rx := ⟨(s.getSocket k).rx.sess, (s.getSocket k).rx.gen + 1, 0⟩ } := by
  refine ⟨_, next_of rfl ((if_pos hk).trans (if_pos (by rw [hlive]; rfl))), rfl, ?_⟩
  exact s.getSocket_updSocket_same k _

theorem State.keyRollover_link (hn : n < 16) (hup : (s.getLink n).up = true) (out : Bool) : ∃ t, exec (.keyRollover ⟨18 + n, out⟩) s = .next t ∧
    { t with links := s.links } = s ∧ t.getLink n = if out then { s.getLink n with tx := ⟨(s.getLink n).tx.sess, (s.getLink n).tx.gen + 1, 0⟩ }
      else { s.getLink n with rx := ⟨(s.getLink n).rx.sess, (s.getLink n).rx.gen + 1, 0⟩ } := by
  have hsub : 18 + n - 18 = n := Nat.add_sub_cancel_left ..
  refine ⟨_, next_of rfl ((if_neg (Nat.not_lt.2 (Nat.le_add_right 18 n))).trans (if_pos ?_)), rfl, ?_⟩
  · simp [hsub, hup]
    omega
  · dsimp only
    rw [hsub]
    exact s.getLink_updLink_same n _

theorem State.tagFailure_die (hk : k < 18) (hlive : (s.getSocket k).st = .live) :
    let recent := (s.getSocket k).tagFails.filter fun c => s.clock < c + 2 ^ 24
    (recent.length < 15 → ∃ t, exec (.linkTagFailure k) s = .next t ∧ { t with sockets := s.sockets } = s ∧ (t.getSocket k).st = .live ∧
      (t.getSocket k).tagFails = s.clock :: recent) ∧
    (15 ≤ recent.length → ∃ t, exec (.linkTagFailure k) s = .next t ∧ Quarantined s t k 8 false) := by
  dsimp only
  have hst : ¬((s.getSocket k).st != .live) = true := by rw [hlive]; decide
  constructor
  · intro hfew
    refine ⟨_, next_of rfl (((if_pos hk).trans (if_neg hst)).trans (if_neg ?_)), rfl, ?_, ?_⟩
    · exact fun h => absurd (Nat.le_of_succ_le_succ h) (Nat.not_le.2 hfew)
    · rw [s.getSocket_updSocket_same]
      exact hlive
    · rw [s.getSocket_updSocket_same]
      rfl
  · intro hmany
    refine ⟨_, next_of rfl (((if_pos hk).trans (if_neg hst)).trans (if_pos ?_)), quarantined_of_socket (s.quarantine_socket ..)⟩
    exact Nat.succ_le_succ hmany

theorem State.tagFailure_link (hn : n < 16) (hup : (s.getLink n).up = true) :
    ∃ t, exec (.linkTagFailure (18 + n)) s = .next t ∧
      ((t.getLink n).up = true ↔ ((s.getLink n).tagFails.filter fun c => s.clock < c + 2 ^ 24).length < 15) := by
  have hsub : 18 + n - 18 = n := Nat.add_sub_cancel_left ..
  refine ⟨_, next_of rfl ((if_neg (Nat.not_lt.2 (Nat.le_add_right 18 n))).trans (if_pos ?_)), ?_⟩
  · simp [hsub, hup]
    omega
  · dsimp only
    rw [hsub]
    split
    · rename_i hmany
      rw [State.getLink_linkDown_up]
      exact iff_of_false Bool.false_ne_true (Nat.not_lt.2 (Nat.le_of_succ_le_succ hmany))
    · rename_i hfew
      rw [State.getLink_updLink_same, State.getLink_replayFlit]
      exact iff_of_true hup (Nat.not_le.1 fun h => hfew (Nat.succ_le_succ h))

theorem State.flitReplay (hn : n < 16) (hup : (s.getLink n).up = true) : ∃ t, exec (.linkFlitReplay n) s = .next t ∧ { t with links := s.links } = s ∧
    (t.getLink n).replay.toNat = Nat.min 0xFFFF ((s.getLink n).replay.toNat + 1) := by
  refine ⟨_, next_of rfl (if_pos ?_), rfl, ?_⟩
  · simp [hup]
    omega
  · rw [State.getLink_replayFlit]
    exact replay_toNat _

theorem State.setPend_false : (s.setPend k false).attpend.getLsbD k = false := by
  unfold State.setPend
  by_cases hk : k < 64 <;> simp [hk]

/-- The state that a reset of a die leaves before its record is marked. -/
theorem State.resetDie_keeps : (s.resetDie k).sockets = s.sockets ∧ (s.resetDie k).launches = s.launches ∧ (s.resetDie k).start = s.start := by
  unfold State.resetDie
  split
  · exact ⟨rfl, rfl, rfl⟩
  · exact ⟨rfl, rfl, rfl⟩

theorem State.diestReset_quarantines (hk : k < 18) (h16 : k ≠ 16) (hst : (s.getSocket k).st = .live ∨ (s.getSocket k).st = .attesting) :
    ∃ t, exec (.diestReset k) s = .next t ∧ Quarantined s t k 7 false ∧ (t.getSocket k).resetting = true ∧ t.attpend.getLsbD k = false ∧
      ((s.getSocket k).st = .live → k < 8 → ∀ n l, s.launch? n = some l → l.live.testBit k = true → ∃ l', t.launch? n = some l' ∧ l'.error = true) := by
  have hgo : ¬((k > 17 : Bool) || (k = 16 : Bool) || !((s.getSocket k).st == .live || (s.getSocket k).st == .attesting)) = true := by
    rcases hst with h | h <;> simp [h, h16] <;> omega
  obtain ⟨hsock, hla, -⟩ := (s.quarantine k 7 false).resetDie_keeps k
  have hrec : ((((s.quarantine k 7 false).resetDie k).setPend k false).getSocket k) = quarantinedAs 7 false (s.getSocket k) := by
    rw [← s.quarantine_socket k 7 false]
    exact congrArg (SMap.get {} · k) hsock
  refine ⟨_, next_of rfl (if_neg hgo), ?_, ?_, ?_, fun hlive h8 m l hl hbit => ?_⟩
  · unfold Quarantined
    rw [State.getSocket_updSocket_same, hrec]
    exact ⟨rfl, rfl, rfl⟩
  · rw [State.getSocket_updSocket_same]
  · exact State.setPend_false _ k
  · have he : s.quarantine k 7 false = (s.updSocket k (quarantinedAs 7 false)).leaveLive k := if_pos (by rw [hlive]; rfl)
    change ∃ l', ((s.quarantine k 7 false).resetDie k).launch? m = some l' ∧ _
    unfold State.launch?
    rw [hla, he]
    exact leaveLive_error (s := s.updSocket k (quarantinedAs 7 false)) h8 hl hbit

theorem State.diestReatt_attests (hk : k < 18) (hq : (s.getSocket k).st = .quarantined) :
    ∃ t, exec (.diestReatt k) s = .next t ∧ { t with sockets := s.sockets } = s ∧ (t.getSocket k).st = .attesting ∧ (t.getSocket k).began = s.clock ∧
      (t.getSocket k).assisted = s.mgmt.getLsbD 4 := by
  refine ⟨_, next_of rfl (if_neg ?_), rfl, ?_⟩
  · rw [hq]
    simp
    omega
  · unfold State.attests
    rw [s.getSocket_updSocket_same]
    exact ⟨rfl, rfl, s.assisted_iff 2⟩

theorem State.dieResetEnd_ends (hr : (s.getSocket k).resetting = true) : ∃ t, exec (.dieResetEnd k) s = .next t ∧ { t with sockets := s.sockets } = s ∧
    (t.getSocket k).resetting = false ∧ (t.getSocket k).st = if (s.getSocket k).st = .quarantined then .attesting else (s.getSocket k).st := by
  have hgo : ¬(!(s.getSocket k).resetting) = true := by rw [hr]; decide
  by_cases hq : (s.getSocket k).st = .quarantined
  · refine ⟨_, next_of rfl ((if_neg hgo).trans (if_pos (by rw [hq]; rfl))), rfl, ?_⟩
    unfold State.attests
    rw [State.getSocket_updSocket_same, State.getSocket_updSocket_same, if_pos hq]
    exact ⟨rfl, rfl⟩
  · refine ⟨_, next_of rfl ((if_neg hgo).trans (if_neg fun h => hq (eq_of_beq h))), rfl, ?_⟩
    rw [State.getSocket_updSocket_same, if_neg hq]
    exact ⟨rfl, rfl⟩

/-- Settles O58. -/
theorem linkTrust : Obligations.LinkTrust :=
  ⟨fun s k hk hlive => ⟨s.keyRollover_die k hk hlive, s.tagFailure_die k hk hlive⟩,
    fun s n hn hup => ⟨s.keyRollover_link n hn hup, s.flitReplay n hn hup, s.tagFailure_link n hn hup⟩,
    fun s k hk h16 hst => s.diestReset_quarantines k hk h16 hst,
    fun s k => ⟨fun hk hq => s.diestReatt_attests k hk hq, fun hr => s.dieResetEnd_ends k hr⟩⟩

end Sys2Proof.Machine
end

section
/-! The obligation on attestation (O57): exchanges, verdicts and the sessions of links. -/

set_option Elab.async false

namespace Sys2Proof.Machine

open Claims

/-! ### Evidence (R256) -/

theorem leNat_leBytes : ∀ n x, leNat (leBytes n x) = x % 256 ^ n
  | 0, x => (Nat.mod_one x).symm
  | n + 1, x => by
    rw [leBytes, leNat, leNat_leBytes n, Nat.pow_succ', Nat.mod_mul, BitVec.toNat_ofNat]

theorem leBytes_length : ∀ n x, (leBytes n x).length = n
  | 0, _ => rfl
  | n + 1, x => congrArg (· + 1) (leBytes_length n (x / 256))

theorem State.readBytes_append (s : State) (m : Nat) : ∀ n loc, s.readBytes loc (n + m) = s.readBytes loc n ++ s.readBytes (loc + n) m
  | 0, loc => by rw [Nat.zero_add]; rfl
  | n + 1, loc => by
    rw [Nat.succ_add, State.readBytes, State.readBytes, State.readBytes_append s m n, List.cons_append, Nat.add_right_comm, Nat.add_assoc]

/-- The messages of the evidence fit the room that they are given. -/
theorem evidenceBytes_length : ∀ (ms : List (List Byte)) (room : Nat), (evidenceBytes room ms).1.length ≤ room
  | [], room => Nat.zero_le _
  | m :: ms, room => by
    rw [evidenceBytes]
    split
    · exact Nat.zero_le _
    · rename_i h
      have ih := evidenceBytes_length ms (room - (m.length + 4))
      simp only [List.length_append, leBytes_length]
      omega

theorem exEvidence_length (x : Exchange) : (exEvidence x).length < 2 ^ 64 := by
  have h := evidenceBytes_length x.messages (2 ^ 16 - 12)
  unfold exEvidence
  simp only [List.length_append, leBytes_length]
  omega

theorem State.setPend_true (s : State) {k : Nat} (hk : k < 64) : (s.setPend k true).attpend.getLsbD k = true := by
  unfold State.setPend
  simp [hk]

/-- The evidence that is written stands in its block. -/
theorem evidence_written {s y : State} {k : Nat} (x : Exchange) (hk : k < 64) (hb : y.evbase = s.evbase) : Evidence s (y.writeEvidence k x) k x := by
  have hmem : ∀ n loc, (y.writeEvidence k x).readBytes loc n =
      (y.writeBytes ((bits y.evbase.toNat 16 36 + k) * 2 ^ 16) (leBytes 8 (exEvidence x).length ++ exEvidence x)).readBytes loc n := fun n loc => by
    refine State.readBytes_congr ?_ n loc
    exact State.store_mem_eq ..
  have hat : (bits y.evbase.toNat 16 36 + k) * 2 ^ 16 = (s.evbase.toNat / 2 ^ 16 % 2 ^ 36 + k) * 2 ^ 16 := by
    rw [hb]
    rfl
  have hall := State.readBytes_writeBytes (leBytes 8 (exEvidence x).length ++ exEvidence x) y ((bits y.evbase.toNat 16 36 + k) * 2 ^ 16)
  rw [List.length_append, leBytes_length, State.readBytes_append] at hall
  obtain ⟨hlen, hdata⟩ := List.append_inj hall (by rw [State.readBytes_length, leBytes_length])
  refine ⟨State.setPend_true _ hk, ?_, ?_⟩
  · rw [← hat, hmem, hlen, leNat_leBytes]
    exact Nat.mod_eq_of_lt (exEvidence_length x)
  · rw [← hat, hmem, hdata]

/-! ### The checks of a package root (R271) -/

theorem verified_iff (x : Exchange) : Verified x ↔ (exChainOk x && exSignatureOk x) = true := by
  unfold Verified exChainOk exSignatureOk
  simp [and_assoc]

theorem listed_iff (x : Exchange) : Listed x ↔ exListed x = true := by
  unfold Listed exListed
  simp

theorem exRefusal_accepts {x : Exchange} (hv : Verified x) (hl : Listed x) : exRefusal x = none := by
  rw [verified_iff, Bool.and_eq_true] at hv
  unfold exRefusal
  rw [hv.1, hv.2, (listed_iff x).1 hl]
  rfl

theorem exRefusal_unverified {x : Exchange} (hv : ¬Verified x) : exRefusal x = some 4 := by
  rw [verified_iff, Bool.and_eq_true, not_and_or, Bool.not_eq_true, Bool.not_eq_true] at hv
  unfold exRefusal
  refine if_pos ?_
  rcases hv with h | h <;> simp [h]

theorem exRefusal_unlisted {x : Exchange} (hv : Verified x) (hl : ¬Listed x) : exRefusal x = some 5 := by
  rw [verified_iff, Bool.and_eq_true] at hv
  rw [listed_iff, Bool.not_eq_true] at hl
  unfold exRefusal
  rw [hv.1, hv.2, hl]
  rfl

/-! ### What an exchange leaves -/

variable (s : State) (k n : Nat)

theorem State.startGoesOn_none {s : State} (h : s.start = none) : s.startGoesOn = s := by
  unfold State.startGoesOn
  rw [h]

theorem State.overTime_iff (began : Nat) : s.overTime began = true ↔ began + exchangeClocks ≤ s.clock := by
  unfold State.overTime
  rw [Nat.ble_eq]

/-- A socket's record as its die becomes LIVE. -/
def livesAt (clk : Nat) (x : Socket) : Socket := { x with st := .live, liveAt := clk }

theorem linkSessions_foldl (ls : List Nat) (y : State) : (ls.foldl (fun s n => s.linkSessions n) y).sockets = y.sockets ∧
    (ls.foldl (fun s n => s.linkSessions n) y).start = y.start ∧ (ls.foldl (fun s n => s.linkSessions n) y).attpend = y.attpend :=
  foldl_ind (f := fun s n => s.linkSessions n) (P := fun z => z.sockets = y.sockets ∧ z.start = y.start ∧ z.attpend = y.attpend) (fun _ _ hz => hz) _ _ ⟨rfl, rfl, rfl⟩

/-- A die enters the live set: its record, the start under way and the bits that wait for a verdict. -/
theorem State.enterLive_keeps : (s.enterLive k).getSocket k = livesAt s.clock (s.getSocket k) ∧ (s.enterLive k).start = s.start ∧ (s.enterLive k).attpend = s.attpend := by
  have h0 : (s.updSocket k (livesAt s.clock)).getSocket k = livesAt s.clock (s.getSocket k) := s.getSocket_updSocket_same k _
  unfold State.enterLive
  dsimp only
  change _ ∧ _ ∧ _
  split
  · exact ⟨h0, rfl, rfl⟩
  split
  · obtain ⟨hs, hst, ha⟩ := linkSessions_foldl ((List.range 16).filter fun n => !((s.updSocket k (livesAt s.clock)).getLink n).up &&
      ((s.updSocket k (livesAt s.clock)).getLink n).retry.isNone) (s.updSocket k (livesAt s.clock))
    exact ⟨(congrArg (fun m => SMap.get {} m k) hs :).trans h0, hst, ha⟩
  · exact ⟨h0, rfl, rfl⟩

/-- R276: outside a start-up the stack that enters has lost its contents. -/
theorem State.enterLive_lost {s : State} {k : Nat} (hst : s.start = none) (h8 : 8 ≤ k) (h16 : k < 16) :
    (s.enterLive k).lost.any (fun x => x.1 == k - 8 && x.2 == []) = true := by
  have hr : (s.rejoins k && (8 ≤ k : Bool) && (k < 16 : Bool)) = true := by simp [State.rejoins, hst, h8, h16]
  unfold State.enterLive
  dsimp only
  rw [if_pos hr]
  exact List.any_eq_true.2 ⟨_, SMap.mem_put_self .., by simp⟩

theorem entered_enterLive {s y : State} {k : Nat} (hst : y.start = none) (hc : y.clock = s.clock) : Entered s (y.enterLive k) k := by
  obtain ⟨h, -, -⟩ := y.enterLive_keeps k
  unfold Entered
  rw [h]
  exact ⟨rfl, hc, fun h8 h16 => State.enterLive_lost hst h8 h16⟩

/-! ### The exchange of a die (R271, R274, R275) -/

theorem quarantined_goesOn {s : State} (k : Nat) (hstart : s.start = none) (r : Nat) (f : Bool) : Quarantined s ((s.quarantine k r f).startGoesOn) k r f := by
  rw [State.startGoesOn_none ((s.quarantine_start k r f).trans hstart)]
  exact quarantined_of_socket (s.quarantine_socket ..)

section
variable {s} {k} (hst : (s.getSocket k).st = .attesting) (hpend : s.attpend.getLsbD k = false)
include hst hpend

theorem exchange_live : ¬((s.getSocket k).st != .attesting || s.attpend.getLsbD k) = true := by
  rw [hst, hpend]
  decide

variable (hstart : s.start = none)
include hstart

theorem timeout_quarantines (hk : k < 18) (hover : (s.getSocket k).began + exchangeClocks ≤ s.clock) :
    ∃ t, exec (.attestationTimeout k) s = .next t ∧ Quarantined s t k 6 true := by
  refine ⟨_, next_of rfl ((if_pos hk).trans (if_neg ?_)), quarantined_goesOn k hstart 6 true⟩
  rw [hst, hpend, (s.overTime_iff _).2 hover]
  decide

theorem exchange_broken (x : Exchange) : ∃ t, exec (.attestationExchange k x false) s = .next t ∧ Quarantined s t k 6 true :=
  ⟨_, next_of rfl ((if_neg (exchange_live hst hpend)).trans (if_pos rfl)), quarantined_goesOn k hstart 6 true⟩

omit hstart in
/-- What an exchange that ended in time leaves. -/
theorem exchange_ended (x : Exchange) (htime : s.clock ≤ (s.getSocket k).began + exchangeClocks) : exec (.attestationExchange k x true) s =
    .next (if (s.getSocket k).assisted then (s.dieKeys k).writeEvidence k x else match exRefusal x with
      | none => ((s.dieKeys k).enterLive k).startGoesOn
      | some r => (s.quarantine k r true).startGoesOn) := by
  refine next_of rfl ((if_neg (exchange_live hst hpend)).trans (if_neg ?_))
  rw [Bool.not_true, Bool.false_or, State.overTime_iff]
  omega

theorem exchange_judged (x : Exchange) (htime : s.clock ≤ (s.getSocket k).began + exchangeClocks) (ha : (s.getSocket k).assisted = false) :
    (Verified x → Listed x → ∃ t, exec (.attestationExchange k x true) s = .next t ∧ Entered s t k) ∧
    (¬Verified x → ∃ t, exec (.attestationExchange k x true) s = .next t ∧ Quarantined s t k 4 true) ∧
    (Verified x → ¬Listed x → ∃ t, exec (.attestationExchange k x true) s = .next t ∧ Quarantined s t k 5 true) := by
  have he := exchange_ended hst hpend x htime
  rw [ha, if_neg Bool.false_ne_true] at he
  refine ⟨fun hv hl => ⟨_, he, ?_⟩, fun hv => ⟨_, he, ?_⟩, fun hv hl => ⟨_, he, ?_⟩⟩
  · rw [exRefusal_accepts hv hl]
    dsimp only
    have h2 : ((s.dieKeys k).enterLive k).start = none := ((s.dieKeys k).enterLive_keeps k).2.1.trans hstart
    rw [State.startGoesOn_none h2]
    exact entered_enterLive (y := s.dieKeys k) hstart rfl
  · rw [exRefusal_unverified hv]
    exact quarantined_goesOn k hstart 4 true
  · rw [exRefusal_unlisted hv hl]
    exact quarantined_goesOn k hstart 5 true

omit hstart in
theorem exchange_assisted (hk : k < 18) (x : Exchange) (htime : s.clock ≤ (s.getSocket k).began + exchangeClocks) (ha : (s.getSocket k).assisted = true) :
    ∃ t, exec (.attestationExchange k x true) s = .next t ∧ Evidence s t k x ∧ (t.getSocket k).st = .attesting := by
  have he := exchange_ended hst hpend x htime
  rw [if_pos ha] at he
  refine ⟨_, he, evidence_written x (by omega) rfl, ?_⟩
  have hsock : ((s.dieKeys k).writeEvidence k x).sockets = (s.dieKeys k).sockets :=
    (congrArg State.sockets (State.store_unstored (s.dieKeys k) _ _) :)
  have hrec : ((s.dieKeys k).getSocket k).st = .attesting := by
    unfold State.dieKeys
    dsimp only
    rw [State.getSocket_updSocket_same]
    exact hst
  rw [State.getSocket, hsock]
  exact hrec
end

/-! ### Verdicts (R256) and the sessions of a link (R273) -/

/-- The record of a link whose sessions have failed. -/
def failedAt (clk : Nat) (l : Link) : Link := { l with sess := none, far := false, retry := l.retry.map fun _ => clk + 2 ^ 24 }

theorem State.sessionsFail_none {y : State} (n : Nat) (h : y.start = none) : y.sessionsFail n = y.updLink n (failedAt y.clock) :=
  State.startGoesOn_none (s := y.updLink n (failedAt y.clock)) h

theorem linkFailed_sessionsFail {s y : State} {n : Nat} (hup : (y.getLink n).up = (s.getLink n).up) (hr : (y.getLink n).retry = (s.getLink n).retry)
    (hc : y.clock = s.clock) (hs : y.start = none) : LinkFailed s (y.sessionsFail n) n := by
  unfold LinkFailed
  rw [State.sessionsFail_none n hs, State.getLink_updLink_same, hc, ← hup, ← hr]
  exact ⟨rfl, rfl, rfl⟩

section
variable {s} {k} (hk : k < 34) (hpend : s.attpend.getLsbD k = true) (hx : s.mgmt.getLsbD 5 = true) (hstart : s.start = none)
include hk hpend hx

theorem verdict_acts : ¬(!s.verdictOn k) = true := by
  have he : s.expert 2 = true := (s.expert_iff 2).trans hx
  unfold State.verdictOn
  rw [hpend, he]
  simpa using hk

include hstart

theorem verdict_accepts : ∃ t, exec (.attverdAccept k) s = .next t ∧ t.attpend.getLsbD k = false ∧ (k < 18 → Entered s t k) ∧
    (18 ≤ k → ((s.getLink (k - 18)).far = true → (s.getSocket 17).st = .live → (t.getLink (k - 18)).up = true) ∧
      ((s.getLink (k - 18)).far = false → LinkFailed s t (k - 18))) := by
  have hnot := verdict_acts hk hpend hx
  by_cases h18 : k < 18
  · refine ⟨_, next_of rfl ((if_neg hnot).trans (if_pos h18)), ?_⟩
    obtain ⟨-, hs, ha⟩ := (s.setPend k false).enterLive_keeps k
    rw [State.startGoesOn_none (hs.trans hstart), ha]
    exact ⟨s.setPend_false k, fun _ => entered_enterLive (y := s.setPend k false) hstart rfl, fun h => absurd h18 (Nat.not_lt.2 h)⟩
  · by_cases hup : ((s.getLink (k - 18)).far && (s.getSocket 17).st == .live) = true
    · refine ⟨_, next_of rfl (((if_neg hnot).trans (if_neg h18)).trans (if_pos hup)), s.setPend_false k, fun h => absurd h h18, fun _ => ⟨fun _ _ => ?_, fun hf => ?_⟩⟩
      · unfold State.linkUp
        rw [State.getLink_updLink_same]
      · rw [hf] at hup
        simp at hup
    · refine ⟨_, next_of rfl (((if_neg hnot).trans (if_neg h18)).trans (if_neg hup)), ?_, fun h => absurd h h18, fun _ => ⟨fun hf hl => ?_, fun _ => ?_⟩⟩
      · rw [State.sessionsFail_none (y := s.setPend k false) _ hstart]
        exact s.setPend_false k
      · rw [hf, hl] at hup
        exact absurd rfl hup
      · exact linkFailed_sessionsFail (y := s.setPend k false) rfl rfl rfl hstart

theorem verdict_refuses : ∃ t, exec (.attverdRefuse k) s = .next t ∧ t.attpend.getLsbD k = false ∧ (k < 18 → Quarantined s t k 9 true) ∧
    (18 ≤ k → LinkFailed s t (k - 18)) := by
  have hnot := verdict_acts hk hpend hx
  by_cases h18 : k < 18
  · refine ⟨_, next_of rfl ((if_neg hnot).trans (if_pos h18)), ?_⟩
    rw [State.startGoesOn_none (((s.setPend k false).quarantine_start k 9 true).trans hstart)]
    exact ⟨((s.setPend k false).quarantine_ended k 9 true).pend k h18 (s.setPend_false k),
      fun _ => quarantined_of_socket ((s.setPend k false).quarantine_socket k 9 true), fun h => absurd h18 (Nat.not_lt.2 h)⟩
  · refine ⟨_, next_of rfl ((if_neg hnot).trans (if_neg h18)), ?_, fun h => absurd h h18, fun _ => linkFailed_sessionsFail (y := s.setPend k false) rfl rfl rfl hstart⟩
    rw [State.sessionsFail_none (y := s.setPend k false) _ hstart]
    exact s.setPend_false k
end

/-- What the root's answer in the far root's session leaves alone. -/
theorem State.present_keeps (c : List Byte) : (s.present n c).links = s.links ∧ (s.present n c).clock = s.clock ∧ (s.present n c).start = s.start ∧
    (s.present n c).evbase = s.evbase := by
  unfold State.present
  split
  · exact ⟨rfl, rfl, rfl, rfl⟩
  · exact ⟨rfl, rfl, rfl, rfl⟩

/-- A link whose sessions have ended, with the far end's numbers. -/
def State.shown (s : State) (n : Nat) (f : FarEnd) (far : Bool) : State :=
  ((s.present n f.challenge).linkKeys n).updLink n fun l => { l with peer := f.peer.toNat, peerlx := f.peerlx.toNat, far := far, sess := none }

theorem State.shown_link (f : FarEnd) (far : Bool) : ((s.shown n f far).getLink n).up = (s.getLink n).up ∧ ((s.shown n f far).getLink n).retry = (s.getLink n).retry ∧
    ((s.shown n f far).getLink n).peer = f.peer.toNat ∧ ((s.shown n f far).getLink n).peerlx = f.peerlx.toNat := by
  obtain ⟨hl, -⟩ := s.present_keeps n f.challenge
  have hlink : s.getLink n = (s.present n f.challenge).getLink n := (congrArg (fun m => SMap.get {} m n) hl.symm :)
  have hkeys : ((s.present n f.challenge).linkKeys n).getLink n = { (s.present n f.challenge).getLink n with
      rx := { sess := (s.present n f.challenge).uid }, tx := { sess := (s.present n f.challenge).uid + 1 } } := SMap.get_set_same ..
  unfold State.shown
  rw [State.getLink_updLink_same, hkeys, hlink]
  exact ⟨rfl, rfl, rfl, rfl⟩

theorem State.shown_keeps (f : FarEnd) (far : Bool) : (s.shown n f far).clock = s.clock ∧ (s.shown n f far).start = s.start ∧ (s.shown n f far).evbase = s.evbase :=
  (s.present_keeps n f.challenge).2

section
variable {s} {n} {began : Nat} {assisted : Bool} (hn : n < 16) (hsess : (s.getLink n).sess = some (began, assisted)) (hstart : s.start = none)
include hn hsess hstart

theorem session_timeout (hover : began + exchangeClocks ≤ s.clock) : ∃ t, exec (.attestationTimeout (18 + n)) s = .next t ∧ LinkFailed s t n := by
  have hsub : 18 + n - 18 = n := Nat.add_sub_cancel_left ..
  refine ⟨_, next_of rfl ((if_neg (Nat.not_lt.2 (Nat.le_add_right 18 n))).trans (if_pos ?_)), ?_⟩
  · rw [hsub, hsess, Option.any_some, (s.overTime_iff _).2 hover, Bool.and_true]
    exact decide_eq_true (by omega)
  · rw [hsub]
    exact linkFailed_sessionsFail rfl rfl rfl hstart

variable (hlive : (s.getSocket 17).st = .live)
include hlive

omit hstart in
/-- The outcome of the sessions of a link that are under way. -/
theorem session_outcome (x : Exchange) (ended far : Bool) (f : FarEnd) : exec (.lerayxAttestation n x ended far f) s =
    .next (if !ended || (s.present n f.challenge).overTime (began + 1) then (s.present n f.challenge).sessionsFail n
      else if assisted then ((s.shown n f far).writeEvidence (18 + n) x).startGoesOn
      else if far && (exRefusal x).isNone then ((s.shown n f far).linkUp n).startGoesOn
      else (s.shown n f far).sessionsFail n) := by
  change execLerayxAttestation n x ended far f s = _
  unfold execLerayxAttestation
  rw [hsess]
  dsimp only
  rw [if_neg (by rw [hlive]; simp; omega)]
  rfl

theorem session_broken (x : Exchange) (far : Bool) (f : FarEnd) : ∃ t, exec (.lerayxAttestation n x false far f) s = .next t ∧ LinkFailed s t n := by
  obtain ⟨hl, hc, hs, -⟩ := s.present_keeps n f.challenge
  have hlink : (s.present n f.challenge).getLink n = s.getLink n := (congrArg (fun m => SMap.get {} m n) hl :)
  refine ⟨_, (session_outcome hn hsess hlive x false far f).trans (congrArg _ (if_pos rfl)), ?_⟩
  exact linkFailed_sessionsFail (congrArg Link.up hlink) (congrArg Link.retry hlink) hc (hs.trans hstart)

variable (htime : s.clock ≤ began + exchangeClocks)
include htime

omit hstart in
theorem session_inTime (x : Exchange) (far : Bool) (f : FarEnd) : exec (.lerayxAttestation n x true far f) s =
    .next (if assisted then ((s.shown n f far).writeEvidence (18 + n) x).startGoesOn
      else if far && (exRefusal x).isNone then ((s.shown n f far).linkUp n).startGoesOn
      else (s.shown n f far).sessionsFail n) := by
  refine (session_outcome hn hsess hlive x true far f).trans (congrArg _ (if_neg ?_))
  rw [Bool.not_true, Bool.false_or, State.overTime_iff, (s.present_keeps n f.challenge).2.1]
  omega

theorem session_up (ha : assisted = false) {x : Exchange} (hv : Verified x) (hl : Listed x) (f : FarEnd) :
    ∃ t, exec (.lerayxAttestation n x true true f) s = .next t ∧ (t.getLink n).up = true ∧ (t.getLink n).peer = f.peer.toNat ∧ (t.getLink n).peerlx = f.peerlx.toNat := by
  have he := session_inTime hn hsess hlive htime x true f
  obtain ⟨-, -, hp, hpl⟩ := s.shown_link n f true
  have hs : ((s.shown n f true).linkUp n).start = none := (s.shown_keeps n f true).2.1.trans hstart
  rw [ha, if_neg Bool.false_ne_true, exRefusal_accepts hv hl, if_pos (by rfl), State.startGoesOn_none hs] at he
  refine ⟨_, he, ?_⟩
  unfold State.linkUp
  rw [State.getLink_updLink_same]
  exact ⟨rfl, hp, hpl⟩

theorem session_fails (ha : assisted = false) {x : Exchange} {far : Bool} (hbad : far = false ∨ ¬Verified x ∨ ¬Listed x) (f : FarEnd) :
    ∃ t, exec (.lerayxAttestation n x true far f) s = .next t ∧ LinkFailed s t n := by
  have he := session_inTime hn hsess hlive htime x far f
  have hnot : ¬(far && (exRefusal x).isNone) = true := by
    rcases hbad with h | h | h
    · simp [h]
    · simp [exRefusal_unverified h]
    · by_cases hv : Verified x
      · simp [exRefusal_unlisted hv h]
      · simp [exRefusal_unverified hv]
  rw [ha, if_neg Bool.false_ne_true, if_neg hnot] at he
  obtain ⟨hu, hr, -⟩ := s.shown_link n f far
  obtain ⟨hc, hs, -⟩ := s.shown_keeps n f far
  exact ⟨_, he, linkFailed_sessionsFail hu hr hc (hs.trans hstart)⟩

theorem session_evidence (ha : assisted = true) (x : Exchange) (far : Bool) (f : FarEnd) :
    ∃ t, exec (.lerayxAttestation n x true far f) s = .next t ∧ Evidence s t (18 + n) x ∧ (t.getLink n).up = (s.getLink n).up := by
  have he := session_inTime hn hsess hlive htime x far f
  have hstored := State.store_unstored (s.shown n f far) ((bits (s.shown n f far).evbase.toNat 16 36 + (18 + n)) * 2 ^ 16)
    (leBytes 8 (exEvidence x).length ++ exEvidence x)
  have hlinks : ((s.shown n f far).writeEvidence (18 + n) x).links = (s.shown n f far).links := (congrArg State.links hstored :)
  have hs : ((s.shown n f far).writeEvidence (18 + n) x).start = none := (congrArg State.start hstored :).trans ((s.shown_keeps n f far).2.1.trans hstart)
  rw [if_pos ha, State.startGoesOn_none hs] at he
  refine ⟨_, he, evidence_written x (by omega) (s.shown_keeps n f far).2.2, ?_⟩
  rw [State.getLink, hlinks]
  exact (s.shown_link n f far).1
end

theorem session_retried {s : State} {n due : Nat} (hn : n < 16) (hup : (s.getLink n).up = false) (hr : (s.getLink n).retry = some due) (hdue : due ≤ s.clock)
    (hp : s.attpend.getLsbD (18 + n) = false) (hsess : (s.getLink n).sess = none) (hlive : (s.getSocket 17).st = .live) :
    ∃ t, exec (.lerayxSessionRetry n) s = .next t ∧ { t with links := s.links } = s ∧ (t.getLink n).retry = some (s.clock + 2 ^ 24) ∧
      (t.getLink n).sess = some (s.clock, s.mgmt.getLsbD 4) := by
  refine ⟨_, next_of rfl (if_neg ?_), rfl, ?_⟩
  · simp [hup, hr, hsess, hlive, hp, hdue]
    omega
  · unfold State.linkSessions
    rw [State.getLink_updLink_same, ← s.assisted_iff 2]
    exact ⟨rfl, rfl⟩

/-- Settles O57. -/
theorem attestation : Obligations.Attestation := by
  refine ⟨fun s k x hk hst hpend hstart => ⟨timeout_quarantines hst hpend hstart hk, exchange_broken hst hpend hstart x, fun htime =>
      ⟨exchange_judged hst hpend hstart x htime, exchange_assisted hst hpend hk x htime⟩⟩,
    fun s k hk hpend hx hstart => ⟨verdict_accepts hk hpend hx hstart, verdict_refuses hk hpend hx hstart⟩,
    fun s n began assisted far x f hn hsess hstart hlive => ⟨session_timeout hn hsess hstart, session_broken hn hsess hstart hlive x far f, fun htime => ⟨?_, ?_, ?_⟩⟩,
    fun s n due hn hup hr hdue hp hsess hlive => session_retried hn hup hr hdue hp hsess hlive⟩
  · rintro ha rfl hv hl
    exact session_up hn hsess hstart hlive htime ha hv hl f
  · exact fun ha hbad => session_fails hn hsess hstart hlive htime ha hbad f
  · exact fun ha => session_evidence hn hsess hstart hlive htime ha x far f

end Sys2Proof.Machine
end

section
/-! SUPPORT. A copy of no bytes, whose destination's page has not been written yet (R118, R139). -/

set_option Elab.async false

namespace Sys2Proof.Machine

open Claims Tests

/-- A copy of no elements that has started; its destination is the mapped address 0x1000. -/
def emptyCopy : CopyCmd := { cmd0 (.cpy hd0 (fcopy 0)) with n := 0, daddr := 0x1000#64, started := some 0 }

/-- Channel 1 of core 0 with that copy. The page of address 0x1000 is mapped by a table entry whose accessed and dirty bits are clear. -/
def emptyCopyState : State :=
  let m := (base.store 0x2000 (leBytes 8 0x4001)).store 0x4000 (leBytes 8 (0xF + 2 ^ 61))
  { m with
    cd := [(0, { ws := ws0, dup := ws0, trbase := 0x2001#64 })]
    core := [(0, { ch := [(1, { q := [emptyCopy], next := 2#32 })], track := [⟨7, 0, [], [], [], true⟩] })] }

/-- The state in which the destination has been translated for a write: its table entry is marked as accessed and written. -/
def emptyCopyResolved : State := (emptyCopyState.resolve 0 0 .cp 0x2001 0x1000 false false true).2

theorem emptyCopy_next : emptyCopyState.nextPiece emptyCopy = (.ok emptyCopy, none, emptyCopyState) := by decide +kernel

theorem emptyCopy_resolves : (emptyCopyState.resolve 0 0 .cp 0x2001 0x1000 false false true).1 = .ok 0x1000 1 110 := by decide +kernel

theorem emptyCopy_marks : (emptyCopyResolved.store 0x1000 ((emptyCopy.out.take emptyCopy.pieceLen).map Prod.fst)).readByte 0x4000 = 0x6F#8 := by decide +kernel

theorem emptyCopy_ends : leavesWith (fun t => t.readByte 0x4000 == 0xF#8) (exec (.copyComplete 0 1) emptyCopyState) = true := by decide +kernel

/-- Refutes O37: the clause on the last piece says of every command for storage that the memory is as after a store at its translated destination. A copy of no
bytes writes nothing and does not translate, so the table entry of its destination's page is not marked, where a translation for a write marks it (R118). -/
theorem not_copyEvents : ¬Obligations.CopyEvents := by
  rintro ⟨hcommands, -⟩
  obtain ⟨-, -, -, hpiece, -⟩ := hcommands emptyCopyState 0 1 emptyCopy [] (by decide +kernel)
  obtain ⟨-, hlast, -⟩ := hpiece rfl (by decide +kernel) emptyCopy none emptyCopyState emptyCopy_next
  obtain ⟨t, ht, -, -, -, hstores⟩ := hlast rfl (by decide +kernel) (by decide +kernel)
  have hmem : t.mem = (emptyCopyResolved.store 0x1000 ((emptyCopy.out.take emptyCopy.pieceLen).map Prod.fst)).mem :=
    hstores rfl 0x1000 1 110 emptyCopyResolved (Prod.ext emptyCopy_resolves rfl) (by decide)
  have hends := emptyCopy_ends
  rw [leavesWith_next ht, State.readByte, hmem] at hends
  have hmarks := emptyCopy_marks
  rw [State.readByte] at hmarks
  rw [hmarks] at hends
  exact absurd hends (by decide)

end Sys2Proof.Machine
end

section
/-! SUPPORT. What the end of a team leaves of the saved teams, of the column contexts and of the matrix queues (R87, R378). -/

set_option Elab.async false

namespace Sys2Proof.Machine

open Claims

/-- `t` is `s` after the end of teams: swaps go only by their names, no context of a column comes to be, and no matrix queue takes a command. -/
structure Culled (s t : State) : Prop where
  swaps : ∃ p : Nat → Bool, t.swaps = s.swaps.filter fun x => p x.1
  ctx : ∀ k < 128, (t.getCc k).st = .free ∨ ((s.getCc k).st ≠ .free ∧ (t.getCc k).launch = (s.getCc k).launch ∧ (t.getCc k).team = (s.getCc k).team)
  mxq : ∀ k, ∀ x ∈ (t.getCore k).mxq, ∃ y ∈ (s.getCore k).mxq, y.uid = x.uid
  pause : ∀ k, (s.getCore k).pause = none → (t.getCore k).pause = none
  events : ∀ e ∈ s.events, e ∈ t.events

theorem SMap.erase_eq_filter {α : Type} (k : Nat) : ∀ m : SMap α, SMap.erase m k = m.filter fun x => x.1 != k
  | [] => rfl
  | (j, v) :: m => by
    rw [SMap.erase, List.filter_cons, SMap.erase_eq_filter k m]
    by_cases h : j = k
    · rw [if_pos h, h, if_neg (by simp)]
    · rw [if_neg h, if_pos (by simpa using h)]

namespace Culled

variable {s x y : State}

theorem ctx_refl (s : State) (k : Nat) : (s.getCc k).st = .free ∨ ((s.getCc k).st ≠ .free ∧ (s.getCc k).launch = (s.getCc k).launch ∧ (s.getCc k).team = (s.getCc k).team) := by
  by_cases h : (s.getCc k).st = .free
  · exact .inl h
  · exact .inr ⟨h, rfl, rfl⟩

/-- Swaps, contexts, cores and events as they were. -/
theorem of_same {s t : State} (hs : t.swaps = s.swaps) (hc : ∀ k, t.getCc k = s.getCc k) (hk : ∀ k, t.getCore k = s.getCore k)
    (he : ∀ e ∈ s.events, e ∈ t.events) : Culled s t :=
  ⟨⟨fun _ => true, by rw [hs, List.filter_eq_self.2 fun _ _ => rfl]⟩, fun k _ => by rw [hc]; exact ctx_refl s k,
    fun k z hz => ⟨z, by rw [hk] at hz; exact hz, rfl⟩, fun k hp => by rw [hk]; exact hp, he⟩

theorem refl (s : State) : Culled s s := of_same rfl (fun _ => rfl) (fun _ => rfl) fun _ => id

theorem free {s t : State} (h : Culled s t) {k : Nat} (hk : k < 128) (hf : (s.getCc k).st = .free) : (t.getCc k).st = .free :=
  (h.ctx k hk).resolve_right fun hn => hn.1 hf

theorem trans (h : Culled s x) (g : Culled x y) : Culled s y := by
  obtain ⟨p, hp⟩ := h.swaps
  obtain ⟨q, hq⟩ := g.swaps
  refine ⟨⟨fun k => p k && q k, by rw [hq, hp, List.filter_filter]; simp only [Bool.and_comm]⟩, fun k hk => ?_, fun k z hz => ?_,
    fun k hp => g.pause k (h.pause k hp), fun e he => g.events e (h.events e he)⟩
  · rcases g.ctx k hk with hf | ⟨hx, hl, ht⟩
    · exact .inl hf
    · obtain ⟨hs, hl', ht'⟩ := (h.ctx k hk).resolve_left hx
      exact .inr ⟨hs, hl.trans hl', ht.trans ht'⟩
  · obtain ⟨w, hw, hwz⟩ := g.mxq k z hz
    obtain ⟨v, hv, hvw⟩ := h.mxq k w hw
    exact ⟨v, hv, hvw.trans hwz⟩

theorem of_eq (h : Culled s x) (hs : y.swaps = x.swaps := by rfl) (hc : y.cc = x.cc := by rfl) (hk : y.core = x.core := by rfl)
    (he : y.events = x.events := by rfl) : Culled s y :=
  h.trans (of_same hs (fun k => by rw [State.getCc, hc]; rfl) (fun k => by rw [State.getCore, hk]; rfl) fun e hx => by rw [he]; exact hx)

/-- A core written, its matrix queue at most thinned and its engine not paused. -/
theorem updCore (h : Culled s x) (k : Nat) {F : Core → Core}
    (hF : ∀ c, ∀ z ∈ (F c).mxq, ∃ w ∈ c.mxq, w.uid = z.uid := by exact fun _ z hz => ⟨z, hz, rfl⟩)
    (hP : ∀ c, c.pause = none → (F c).pause = none := by exact fun _ => id) : Culled s (x.updCore k F) := by
  refine h.trans ⟨⟨fun _ => true, (List.filter_eq_self.2 fun _ _ => rfl).symm⟩, fun j _ => ctx_refl x j, fun j z hz => ?_, fun j hp => ?_, fun _ => id⟩
  · by_cases hj : j = k
    · rw [hj, State.updCore, State.getCore_setCore_same] at hz
      rw [hj]
      exact hF _ z hz
    · rw [State.updCore, State.getCore_setCore_other _ _ _ _ hj] at hz
      exact ⟨z, hz, rfl⟩
  · by_cases hj : j = k
    · rw [hj, State.updCore, State.getCore_setCore_same]
      exact hP _ (hj ▸ hp)
    · rw [State.updCore, State.getCore_setCore_other _ _ _ _ hj]
      exact hp

theorem setCc (h : Culled s x) (k : Nat) {c : ColCtx}
    (hc : k < 128 → c.st = .free ∨ ((x.getCc k).st ≠ .free ∧ c.launch = (x.getCc k).launch ∧ c.team = (x.getCc k).team)) : Culled s (x.setCc k c) := by
  refine h.trans ⟨⟨fun _ => true, (List.filter_eq_self.2 fun _ _ => rfl).symm⟩, fun j hj => ?_, fun _ z hz => ⟨z, hz, rfl⟩, fun _ => id, fun _ => id⟩
  by_cases hjk : j = k
  · subst hjk
    rw [State.getCc_setCc_same]
    exact hc hj
  · rw [State.getCc_setCc_other _ _ _ _ hjk]
    exact ctx_refl x j

theorem setCd (h : Culled s x) (k : Nat) (c : CtxDie) : Culled s (x.setCd k c) := by
  unfold State.setCd
  split
  · exact h.of_eq
  · exact h.updCore _

theorem updCd (h : Culled s x) (k : Nat) (F : CtxDie → CtxDie) : Culled s (x.updCd k F) := h.setCd ..

theorem updEng (h : Culled s x) (k : Nat) (F : Eng → Eng) : Culled s (x.updEng k F) := h.of_eq

theorem updCol (h : Culled s x) (k : Nat) (F : Column → Column) : Culled s (x.updCol k F) := h.of_eq

theorem withColls (h : Culled s x) (l : SMap Coll) : Culled s { x with colls := l } := h.of_eq

theorem withBarriers (h : Culled s x) (l : SMap Barrier) : Culled s { x with barriers := l } := h.of_eq

theorem performBlots (h : Culled s x) (l : List Blot) : Culled s (l.foldl State.performBlot x) := by
  have hu := foldl_performBlot_unstored x l
  exact h.of_eq (congrArg State.swaps hu :) (congrArg State.cc hu :) (congrArg State.core hu :) (congrArg State.events hu :)

theorem lateStores (h : Culled s x) (ck : Nat) : Culled s (x.lateStores ck) := by
  unfold State.lateStores
  split
  · exact h
  · exact (h.performBlots _).updCd ..

theorem amoKept (h : Culled s x) (c : CtxDie) (launch : Nat) : Culled s (x.amoKept c launch) := h.of_eq

theorem dropPod (h : Culled s x) (cmd : Nat) : Culled s (x.dropPod cmd) := h.of_eq

theorem untrack (h : Culled s x) (core uid : Nat) : Culled s (x.untrack core uid) := h.updCore _

theorem updChan (h : Culled s x) (core ch : Nat) (F : Channel → Channel) : Culled s (x.updChan core ch F) := h.updCore _

theorem signal (h : Culled s x) (core sem : Nat) (inc : Int) : Culled s (x.signal core sem inc) := by
  unfold State.signal
  split
  · exact h
  · exact h.updCore _

theorem cmdSignal (h : Culled s x) (cmd core sem : Nat) (inc : Int) : Culled s (x.cmdSignal cmd core sem inc) := Culled.signal h.of_eq ..

theorem drainChan (h : Culled s x) (core ck ch : Nat) : Culled s (x.drainChan core ck ch).2 := by
  unfold State.drainChan
  exact foldl_ind (P := Culled s) (fun _ _ hy => (hy.untrack ..).dropPod _) _ _ (h.updChan ..)

theorem setHead (h : Culled s x) (core ch : Nat) (c : CopyCmd) : Culled s (x.setHead core ch c) := h.updChan ..

theorem copyEnd (h : Culled s x) (core ch : Nat) (c : CopyCmd) (ok : Bool) : Culled s (x.copyEnd core ch c ok) := by
  have h1 := ((h.updChan core ch fun x => { x with q := x.q.drop 1 }.refresh).untrack core c.uid).dropPod c.uid
  unfold State.copyEnd
  dsimp only
  split
  · exact h1.cmdSignal ..
  · exact h1

theorem killChan (h : Culled s x) (core ck ch : Nat) : Culled s (x.killChan core ck ch) := by
  have h1 := h.drainChan core ck ch
  unfold State.killChan
  dsimp only
  generalize (x.drainChan core ck ch).2 = y at h1
  split
  · split
    · exact h1
    split
    · exact h1.setHead ..
    split
    · rename_i c _ _ _ _
      generalize c.n - c.elem - (if c.f.trn then c.held.length else 0) - c.taken.length = lacks
      split
      · exact h1.copyEnd ..
      · exact h1.setHead ..
    · exact h1
  · exact h1

theorem mxPop (h : Culled s x) (core : Nat) (c : MxCmd) : Culled s (x.mxPop core c) := by
  unfold State.mxPop State.clearBusy
  refine Culled.updCd (Culled.untrack ?_ ..) ..
  exact h.updCore _ fun _ z hz => ⟨z, (List.mem_filter.1 hz).1, rfl⟩

theorem killMx (h : Culled s x) (core ck : Nat) : Culled s (x.killMx core ck) := by
  unfold State.killMx
  dsimp only
  refine Culled.updCore ?_ _ fun c z hz => ?_
  · refine foldl_ind (P := Culled s) (fun _ _ hy => (hy.mxPop ..).dropPod _) _ _ ?_
    split
    · exact h.updCore _ (hP := fun _ _ => rfl)
    · exact h
  · obtain ⟨w, hw, rfl⟩ := List.mem_map.1 hz
    refine ⟨w, hw, ?_⟩
    split <;> rfl

theorem killEv (h : Culled s x) (core ck : Nat) : Culled s (x.killEv core ck) := Culled.updCore (h.updCore _) _

theorem killDirect (h : Culled s x) (core ck : Nat) : Culled s (x.killDirect core ck) := by
  unfold State.killDirect
  exact h.updCore _

theorem killEng (h : Culled s x) (ck e : Nat) : Culled s (x.killEng ck e) := h.updEng ..

theorem killDie (h : Culled s x) (col k d : Nat) : Culled s (x.killDie col k d) := by
  unfold State.killDie
  dsimp only
  refine Culled.updCd (Culled.killEv (Culled.killMx ?_ ..) ..) ..
  refine foldl_ind (P := Culled s) (fun _ _ hy => hy.killEng ..) _ _ ?_
  refine Culled.killDirect (Culled.updCore ?_ _) ..
  exact foldl_ind (P := Culled s) (fun _ _ hy => hy.killChan ..) _ _ (Culled.amoKept (h.lateStores _) ..)

theorem freePair (h : Culled s x) (col l : Nat) : Culled s (x.freePair col l) := by
  unfold State.freePair
  split
  · exact h
  · exact h.updCol ..

/-! ### A column that chooses -/

theorem eventRecord (h : Culled s x) (cc sub die : Nat) : Culled s (x.eventRecord cc sub die) := by
  unfold State.eventRecord
  split
  · exact h.of_eq
  · exact h

theorem activate (h : Culled s x) {col k : Nat} (from_ : Nat) (hready : (x.getCc (ccKey col k)).st = .ready) : Culled s (x.activate col k from_) := by
  unfold State.activate
  have h1 : Culled s (x.updCc (ccKey col k) fun c => { c with st := .active }) :=
    h.setCc (ccKey col k) (c := { x.getCc (ccKey col k) with st := .active }) fun _ => .inr ⟨by rw [hready]; decide, rfl, rfl⟩
  exact h1.updCol ..

end Culled

theorem State.nextOf_ready {s : State} {col q last k : Nat} (h : s.nextOf col q last = some k) : (s.getCc (ccKey col k)).st = .ready := by
  have := List.find?_some h
  rw [Bool.and_eq_true] at this
  exact eq_of_beq this.1

namespace Culled

variable {s x y : State}

theorem decide (h : Culled s x) (col from_ : Nat) : Culled s (x.decide col from_) := by
  have h1 : Culled s (x.noteAges col) := h.of_eq
  unfold State.decide
  dsimp only
  split
  · exact h1.updCol ..
  · split
    · exact h1
    · rename_i k hk
      exact Culled.eventRecord (Culled.activate (h1.updCol ..) _ (State.nextOf_ready hk)) ..

theorem leftActive (h : Culled s x) (col k from_ : Nat) : Culled s (x.leftActive col k from_) := by
  have h1 : Culled s (x.updCol col fun c => { c with last := k }) := h.updCol ..
  unfold State.leftActive
  dsimp only
  split
  · split
    · rename_i j hj
      exact h1.activate _ (State.nextOf_ready hj)
    · exact h1.decide ..
  · exact h1.decide ..

/-! ### Termination -/

theorem killDies (h : Culled s x) (col k : Nat) (ds : List Nat) : Culled s (ds.foldl (fun s d => s.killDie col k d) x) :=
  foldl_ind (P := Culled s) (fun _ _ hy => hy.killDie ..) _ _ h

theorem leftActiveIf (h : Culled s x) (b : Bool) (col k at_ : Nat) : Culled s (if b then x.leftActive col k at_ else x) := by
  split
  · exact h.leftActive ..
  · exact h

theorem killCtx (h : Culled s x) (cc : Nat) : Culled s (x.killCtx cc) := by
  unfold State.killCtx
  dsimp only
  refine Culled.leftActiveIf (Culled.freePair (Culled.setCc ?_ _ fun _ => .inl rfl) _ _) _ _ _ _
  exact h.killDies ..

theorem pushDirect (h : Culled s x) (core : Nat) (z : Xmit) : Culled s (x.pushDirect core z) := by
  unfold State.pushDirect
  exact h.updCore _

theorem requeueCopy (h : Culled s x) (col ck : Nat) (z : Nat × Nat × CopyCmd) : Culled s (x.requeueCopy col ck z) := by
  unfold State.requeueCopy
  exact (h.updChan ..).updCore _

theorem runOn (h : Culled s x) (n i launch : Nat) (sv : SavedCtx) : Culled s (x.runOn n i launch sv) := by
  unfold State.runOn
  dsimp only
  generalize (sv.copies.filter fun x => x.2.2.begun).partition (fun x => x.2.2.isSpx) = parts
  have h1 : Culled s (parts.1.foldl (fun s x => s.cmdSignal x.2.2.uid (coreKey x.1 sv.col) x.2.2.sigSem x.2.2.sigInc) x) :=
    foldl_ind (P := Culled s) (fun _ _ hy => hy.cmdSignal ..) _ _ h
  generalize parts.1.foldl (fun s x => s.cmdSignal x.2.2.uid (coreKey x.1 sv.col) x.2.2.sigSem x.2.2.sigInc) x = y at h1
  split
  · exact h1
  · refine foldl_ind (P := Culled s) (fun _ _ hy => hy.pushDirect ..) _ _ ?_
    refine foldl_ind (P := Culled s) (fun _ _ hy => hy.requeueCopy ..) _ _ ?_
    exact foldl_ind (P := Culled s) (fun _ _ hy => hy.setCd ..) _ _ (h1.setCc _ fun _ => .inl rfl)

/-- A saved team dropped: all but its own entry goes as `Culled` says, and that is erased. -/
theorem dropSwap (h : Culled s x) (n : Nat) (w : Swap) : Culled s (x.dropSwap n w) ∧ ∀ z ∈ (x.dropSwap n w).swaps, z.1 ≠ n := by
  unfold State.dropSwap
  dsimp only
  refine ⟨?_, fun z hz => SMap.key_of_mem_erase hz⟩
  refine Culled.trans (x := List.foldl _ _ _) ?_ ⟨⟨fun k => k != n, SMap.erase_eq_filter n _⟩,
    fun k _ => ctx_refl _ k, fun _ z hz => ⟨z, hz, rfl⟩, fun _ => id, fun _ => id⟩
  refine foldl_ind (P := Culled s) (fun y sv hy => foldl_ind (P := Culled s) (fun _ _ hz => hz.updCore _) _ _ hy) _ _ ?_
  refine foldl_ind (P := Culled s) (fun _ _ hy => hy.runOn ..) _ _ ?_
  exact foldl_ind (P := Culled s) (fun y sv hy => foldl_ind (P := Culled s) (fun _ _ hz => (hz.performBlots _).amoKept ..) _ _ hy) _ _ h

end Culled

/-- Saved teams dropped one after another. -/
def State.dropEach (s : State) (ws : List (Nat × Swap)) : State := ws.foldl (fun s w => s.dropSwap w.1 w.2) s

namespace Culled

variable {s x y : State}

theorem leaveDirect (h : Culled s x) (k rank : Nat) : Culled s (x.leaveDirect k rank) := by
  refine foldl_ind (P := Culled s) (fun y c hy => ?_) _ _ h
  dsimp only
  split
  · exact hy.updCore _
  · exact hy

theorem releaseMember (h : Culled s x) (k : Nat) (m : CollMember) : Culled s (x.releaseMember k m) := by
  have h1 : Culled s (if m.direct then x.leaveDirect k m.rank else x) := by
    split
    · exact h.leaveDirect ..
    · exact h
  unfold State.releaseMember
  dsimp only
  split
  · exact h1.updCore _
  · exact h1.updEng ..

theorem killColls (h : Culled s x) (launch team : Nat) : Culled s (x.killColls launch team) := by
  unfold State.killColls
  dsimp only
  refine Culled.withColls ?_ _
  refine foldl_ind (P := Culled s) (fun y c hy => ?_) _ _ (h.withColls _)
  refine foldl_ind (P := Culled s) (fun z m hz => ?_) _ _ hy
  split
  · exact hz
  · exact hz.releaseMember ..

theorem updLaunch (h : Culled s x) (n : Nat) (F : Launch → Launch) : Culled s (x.updLaunch n F) := by
  unfold State.updLaunch
  split
  · exact h.of_eq
  · exact h

theorem freeSave (h : Culled s x) (n : Nat) : Culled s (x.freeSave n) := by
  unfold State.freeSave
  split
  · split
    · exact h.updLaunch ..
    · exact h
  · exact h

theorem closeQueues (h : Culled s x) : Culled s x.closeQueues := h.of_eq

theorem dropEach (h : Culled s x) (ws : List (Nat × Swap)) : Culled s (x.dropEach ws) :=
  foldl_ind (P := Culled s) (fun _ w hy => (hy.dropSwap w.1 w.2).1) _ _ h

end Culled

theorem dropEach_gone : ∀ (ws : List (Nat × Swap)) (x : State), ∀ w ∈ ws, ∀ z ∈ (x.dropEach ws).swaps, z.1 ≠ w.1
  | [], _ => fun _ hw => absurd hw List.not_mem_nil
  | v :: ws, x => by
    change ∀ w ∈ v :: ws, ∀ z ∈ ((x.dropSwap v.1 v.2).dropEach ws).swaps, z.1 ≠ w.1
    have hgone := ((Culled.refl x).dropSwap v.1 v.2).2
    generalize x.dropSwap v.1 v.2 = y at hgone
    intro w hw z hz
    rcases List.mem_cons.1 hw with rfl | hw
    · obtain ⟨p, hp⟩ := ((Culled.refl y).dropEach ws).swaps
      rw [hp] at hz
      exact hgone z (List.mem_filter.1 hz).1
    · exact dropEach_gone ws y w hw z hz

/-! ### The end of a team in three parts -/

/-- What a team's end first does: its collectives left, and its contexts ended. -/
def State.teamKilled (s : State) (launch team : Nat) : State :=
  ((s.killColls launch team).cc.filter fun c => c.2.launch == launch && c.2.team == team && c.2.st != .free).foldl (fun s c => s.killCtx c.1) (s.killColls launch team)

/-- Then its saved contexts are dropped. -/
def State.teamDropped (s : State) (launch team : Nat) : State :=
  s.dropEach (s.swaps.filter fun w => w.2.launch == launch && w.2.team == team)

/-- Last its barriers go, and its launch is marked. -/
def State.teamMarked (s : State) (launch team : Nat) : State :=
  ((({ s with barriers := s.barriers.filter fun x => !(x.2.launch == launch && x.2.team == team) } : State).updLaunch launch fun l =>
    { l with error := true, trigTeams := insNat team l.trigTeams }).freeSave launch).closeQueues

theorem State.terminateTeam_eq (s : State) (launch team : Nat) :
    s.terminateTeam launch team = ((s.teamKilled launch team).teamDropped launch team).teamMarked launch team := rfl

namespace Culled

variable {s x : State}

theorem killEach (h : Culled s x) (l : List (Nat × ColCtx)) : Culled s (l.foldl (fun s c => s.killCtx c.1) x) :=
  foldl_ind (P := Culled s) (fun _ c hy => hy.killCtx c.1) l x h

theorem teamKilled (h : Culled s x) (launch team : Nat) : Culled s (x.teamKilled launch team) :=
  (h.killColls launch team).killEach _

theorem teamMarked (h : Culled s x) (launch team : Nat) : Culled s (x.teamMarked launch team) :=
  (Culled.freeSave (Culled.updLaunch (h.withBarriers _) ..) _).closeQueues

theorem teamDropped (h : Culled s x) (launch team : Nat) : Culled s (x.teamDropped launch team) ∧ NotSaved (x.teamDropped launch team) launch team := by
  have hc := (Culled.refl x).dropEach (x.swaps.filter fun w => w.2.launch == launch && w.2.team == team)
  have hgone := dropEach_gone (x.swaps.filter fun w => w.2.launch == launch && w.2.team == team) x
  refine ⟨h.trans hc, fun v hv => ?_⟩
  rintro ⟨hl, ht⟩
  have hvx : v ∈ x.swaps := by
    obtain ⟨q, hq⟩ := hc.swaps
    have hv' := hv
    rw [State.teamDropped, hq] at hv'
    exact (List.mem_filter.1 hv').1
  exact hgone v (List.mem_filter.2 ⟨hvx, by simp [hl, ht]⟩) v hv rfl

end Culled

theorem NotSaved.culled {s t : State} {launch team : Nat} (h : NotSaved s launch team) (g : Culled s t) : NotSaved t launch team := by
  intro v hv
  obtain ⟨p, hp⟩ := g.swaps
  rw [hp] at hv
  exact h v (List.mem_filter.1 hv).1

/-- R87: a team's end leaves no context of it saved. -/
theorem Culled.terminateTeam {s x : State} (h : Culled s x) (launch team : Nat) :
    Culled s (x.terminateTeam launch team) ∧ NotSaved (x.terminateTeam launch team) launch team := by
  rw [State.terminateTeam_eq]
  obtain ⟨hd, hn⟩ := Culled.teamDropped (h.teamKilled launch team) launch team
  exact ⟨hd.teamMarked launch team, NotSaved.culled hn ((Culled.refl _).teamMarked launch team)⟩

end Sys2Proof.Machine
end

section
/-! The obligation on the matrix engine's events (O33). -/

set_option Elab.async false

namespace Sys2Proof.Machine

open Claims

variable (s x : State) (core : Nat) (c : MxCmd)

/-! ### What the engine's steps leave of a core and of a context -/

/-- What a tile's busy bit, where the command set it, becomes at its end. -/
def MxCmd.unbusy (c : MxCmd) (x : CtxDie) : CtxDie :=
  { x with acc := SMap.upd {} x.acc c.f.acc.toNat fun t => if t.busy = some c.uid then { t with busy := none } else t }

/-- What the results of a command make of its context. -/
def MxCmd.results (c : MxCmd) (x : CtxDie) : CtxDie := { x with
  acc := match c.tile with
    | some t => SMap.set {} x.acc c.f.acc.toNat { t with busy := (SMap.get {} x.acc c.f.acc.toNat).busy }
    | none => x.acc
  l := match c.latch with
    | some l => SMap.set {} x.l c.f.latch.toNat l
    | none => x.l }

theorem State.updCd_mxq (ck k : Nat) (F : CtxDie → CtxDie) : ((x.updCd ck F).getCore k).mxq = (x.getCore k).mxq ∧
    ((x.updCd ck F).getCore k).pause = (x.getCore k).pause :=
  ⟨(congrArg Core.mxq (x.getCore_updCd_keeps ck F k).1 :), (congrArg Core.pause (x.getCore_updCd_keeps ck F k).1 :)⟩

theorem State.signal_mxq (sem : Nat) (inc : Int) (j k : Nat) : ((x.signal j sem inc).getCore k).mxq = (x.getCore k).mxq := by
  unfold State.signal
  split
  · rfl
  · by_cases hk : k = j
    · rw [hk, State.updCore, State.getCore_setCore_same]
    · rw [State.updCore, State.getCore_setCore_other _ _ _ _ hk]

theorem State.mxPop_core : ((x.mxPop core c).getCore core).mxq = (x.getCore core).mxq.filter (fun z => z.uid != c.uid) ∧
    ((x.mxPop core c).getCore core).pause = (x.getCore core).pause := by
  unfold State.mxPop State.clearBusy State.untrack
  rw [(State.updCd_mxq _ c.ck core _).1, (State.updCd_mxq _ c.ck core _).2, State.updCore, State.getCore_setCore_same, State.updCore, State.getCore_setCore_same]
  exact ⟨rfl, rfl⟩

theorem State.mxPop_sig (k : Nat) : ((x.mxPop core c).getCore k).sig = (x.getCore k).sig := by
  unfold State.mxPop State.clearBusy State.untrack
  rw [(State.getCore_updCd_keeps _ c.ck _ k).2]
  by_cases hk : k = core
  · rw [hk, State.updCore, State.getCore_setCore_same, State.updCore, State.getCore_setCore_same]
  · rw [State.updCore, State.getCore_setCore_other _ _ _ _ hk, State.updCore, State.getCore_setCore_other _ _ _ _ hk]

theorem State.mxPop_getCd : (x.mxPop core c).getCd c.ck = c.unbusy (x.getCd c.ck) := by
  unfold State.mxPop State.clearBusy State.untrack
  rw [State.getCd_updCd_same, State.getCd_updCore _ _ _ _ (by intro _; rfl), State.getCd_updCore _ _ _ _ (by intro _; rfl)]
  rfl

theorem State.mxPop_keeps : (x.mxPop core c).mem = x.mem ∧ (x.mxPop core c).cc = x.cc ∧ (x.mxPop core c).clock = x.clock := by
  unfold State.mxPop State.clearBusy State.updCd State.setCd
  split
  · exact ⟨rfl, rfl, rfl⟩
  · exact ⟨rfl, rfl, rfl⟩

theorem State.mxResults_keeps : (x.mxResults c).mem = x.mem ∧ ∀ k, ((x.mxResults c).getCore k).mxq = (x.getCore k).mxq ∧ ((x.mxResults c).getCore k).sig = (x.getCore k).sig := by
  unfold State.mxResults
  split
  · exact ⟨rfl, fun _ => ⟨rfl, rfl⟩⟩
  · refine ⟨?_, fun k => ⟨(State.updCd_mxq ..).1, (State.getCore_updCd_keeps ..).2⟩⟩
    unfold State.updCd State.setCd
    split
    · rfl
    · rfl

theorem State.mxResults_getCd (h : c.lost = false) : (x.mxResults c).getCd c.ck = c.results (x.getCd c.ck) := by
  unfold State.mxResults
  rw [h, if_neg Bool.false_ne_true, State.getCd_updCd_same]
  rfl

/-! ### A command starts and completes (R145, R146) -/

section
variable {s core c} {q : List MxCmd} (hq : (s.getCore core).mxq = c :: q)
include hq

theorem mxHead_eq : s.mxHead core = some c := by
  unfold State.mxHead
  rw [hq]
  rfl

theorem mxStart_starts {c' c0 : MxCmd} {s1 : State} (hmay : s.mxMayStart core c = true) (hf : s.mxFetch c = (.ok c', c0, s1)) :
    ∃ t, exec (.mxCommandStart core) s = .next t ∧ t.mem = s1.mem ∧ t.cd = s1.cd ∧ (t.getCore core).mxq = { c' with
      due := some (s.clock + (s.mxClocks c).1 + (s.mxClocks c).2), cmp := s.clock + (s.mxClocks c).1 } :: (s1.getCore core).mxq.drop 1 := by
  refine ⟨s1.setMxHead core { c' with due := some (s.clock + (s.mxClocks c).1 + (s.mxClocks c).2), cmp := s.clock + (s.mxClocks c).1 }, ?_, rfl, rfl, ?_⟩
  · change execMxCommandStart core s = _
    unfold execMxCommandStart
    rw [mxHead_eq hq]
    dsimp only
    rw [hmay, if_neg (by decide), hf]
  · unfold State.setMxHead
    rw [State.updCore, State.getCore_setCore_same]

omit hq in
/-- What a completed command leaves of its tile and its latch. -/
theorem mxDone_tile (y : CtxDie) : (SMap.get {} (c.unbusy y).acc c.f.acc.toNat).busy ≠ some c.uid ∧
    (SMap.get {} (c.unbusy y).acc c.f.acc.toNat).cells = (SMap.get {} y.acc c.f.acc.toNat).cells ∧
    (SMap.get {} (c.unbusy y).acc c.f.acc.toNat).int = (SMap.get {} y.acc c.f.acc.toNat).int := by
  unfold MxCmd.unbusy SMap.upd
  rw [SMap.get_set_same]
  dsimp only
  split
  · exact ⟨fun h => (nomatch h), rfl, rfl⟩
  · rename_i h
    exact ⟨h, rfl, rfl⟩

omit hq in
theorem mxResults_latch (y : CtxDie) {w : Latch} (hw : c.latch = some w) : SMap.get {} (c.unbusy (c.results y)).l c.f.latch.toNat = w := by
  unfold MxCmd.unbusy MxCmd.results
  rw [hw]
  exact SMap.get_set_same ..

omit hq in
theorem mxResults_tile (y : CtxDie) {w : Tile} (hw : c.tile = some w) : (SMap.get {} (c.results y).acc c.f.acc.toNat).cells = w.cells ∧
    (SMap.get {} (c.results y).acc c.f.acc.toNat).int = w.int := by
  unfold MxCmd.results
  rw [hw]
  dsimp only
  rw [SMap.get_set_same]
  exact ⟨rfl, rfl⟩

/-- The state that a completed command leaves. -/
def State.mxDone (y : State) (core : Nat) (c : MxCmd) : State := ((y.mxResults c).mxPop core c).cmdSignal c.uid core c.sigSem c.sigInc

omit hq in
theorem State.mxDone_core (y : State) : (y.mxDone core c).mem = y.mem ∧ ((y.mxDone core c).getCore core).mxq = (y.getCore core).mxq.filter (fun x => x.uid != c.uid) ∧
    Signals y (y.mxDone core c) core c.sigSem c.sigInc := by
  obtain ⟨hmem, hcore⟩ := y.mxResults_keeps c
  refine ⟨?_, ?_, ?_⟩
  · have h1 : (y.mxDone core c).mem = ((y.mxResults c).mxPop core c).mem := by
      unfold State.mxDone State.cmdSignal State.signal
      split <;> rfl
    rw [h1, ((y.mxResults c).mxPop_keeps core c).1, hmem]
  · unfold State.mxDone State.cmdSignal
    rw [State.signal_mxq]
    exact ((y.mxResults c).mxPop_core core c).1.trans (by rw [(hcore core).1])
  · unfold Signals State.mxDone State.cmdSignal
    refine State.signal_sig (fun k => ?_) ..
    exact ((y.mxResults c).mxPop_sig core c k).trans (hcore k).2

omit hq in
theorem State.mxDone_getCd (y : State) : (y.mxDone core c).getCd c.ck = c.unbusy ((y.mxResults c).getCd c.ck) := by
  unfold State.mxDone State.cmdSignal
  rw [State.getCd_signal]
  exact (y.mxResults c).mxPop_getCd core c

theorem mxComplete_completes {l : List (Byte × Bool)} {row : Nat} {s1 : State} (hdue : s.mxDue core c = true) (hw : s.mxWrites c = (.ok l, row, s1)) :
    ∃ t, exec (.mxCommandComplete core) s = .next t ∧ t.mem = s1.mem ∧
      (t.getCore core).mxq = (s1.getCore core).mxq.filter (fun x => x.uid != c.uid) ∧ Signals s1 t core c.sigSem c.sigInc ∧
      let x := t.getCd c.ck
      (SMap.get {} x.acc c.f.acc.toNat).busy ≠ some c.uid ∧
      (c.lost = false → (∀ w, c.tile = some w → (SMap.get {} x.acc c.f.acc.toNat).cells = w.cells ∧ (SMap.get {} x.acc c.f.acc.toNat).int = w.int) ∧
        ∀ w, c.latch = some w → SMap.get {} x.l c.f.latch.toNat = w) := by
  obtain ⟨hmem, hmxq, hsig⟩ := s1.mxDone_core (core := core) (c := c)
  refine ⟨s1.mxDone core c, ?_, hmem, hmxq, hsig, ?_⟩
  · change execMxCommandComplete core s = _
    unfold execMxCommandComplete
    rw [mxHead_eq hq]
    dsimp only
    rw [hdue, if_neg (by decide), hw]
    rfl
  · rw [s1.mxDone_getCd]
    obtain ⟨hbusy, hcells, hint⟩ := mxDone_tile (c := c) ((s1.mxResults c).getCd c.ck)
    refine ⟨hbusy, fun hlost => ?_⟩
    rw [hcells, hint, s1.mxResults_getCd c hlost]
    exact ⟨fun w hw => mxResults_tile _ hw, fun w hw => mxResults_latch _ hw⟩

/-! ### Pauses (R149) -/

theorem mxResume_goesOn (hexp : s.mgmt.getLsbD 9 = true) (hp : (s.getCore core).pause ≠ none) :
    ∃ t, exec (.mprogResume core) s = .next t ∧ (t.getCore core).pause = none ∧ t.mem = s.mem ∧ t.cd = s.cd ∧
      (t.getCore core).mxq = { c with due := none, tile := none, latch := none } :: q := by
  have hx : (s.recovExpert && (s.getCore core).pause.isSome) = true := by
    rw [Bool.and_eq_true]
    exact ⟨(s.expert_iff 4).trans hexp, Option.isSome_iff_ne_none.2 hp⟩
  have hr : s.mxResume core = (s.setMxHead core { c with due := none, tile := none, latch := none }).updCore core fun k => { k with pause := none } := by
    unfold State.mxResume
    rw [mxHead_eq hq]
  refine ⟨_, next_of rfl ((if_pos hx).trans hr), ?_⟩
  rw [State.updCore, State.getCore_setCore_same]
  refine ⟨rfl, rfl, rfl, ?_⟩
  unfold State.setMxHead
  rw [State.updCore, State.getCore_setCore_same, hq]
  rfl

omit hq in
/-- R149: an abandoned command leaves its queue, and its team has no saved context. -/
theorem mxAbandon_abandons {y : State} {ck : Nat} {w : MxCmd} (hhead : y.mxHead core = some w) : ((y.mxAbandon core ck).getCore core).pause = none ∧
    (∀ z ∈ ((y.mxAbandon core ck).getCore core).mxq, z.uid ≠ w.uid) ∧
    (ckCtx ck < 4 → NotSaved (y.mxAbandon core ck) (y.getCc (ckCc ck)).launch (y.getCc (ckCc ck)).team) := by
  have ha : y.mxAbort core = (y.updCore core fun k => { k with pause := none }).mxPop core w := by
    unfold State.mxAbort
    rw [hhead]
  have hp : ((y.mxAbort core).getCore core).pause = none := by
    rw [ha, (State.mxPop_core _ core w).2, State.updCore, State.getCore_setCore_same]
  have hm : ∀ z ∈ ((y.mxAbort core).getCore core).mxq, z.uid ≠ w.uid := by
    rw [ha, (State.mxPop_core _ core w).1]
    intro z hz
    simpa using (List.mem_filter.1 hz).2
  unfold State.mxAbandon
  dsimp only
  generalize y.mxAbort core = v at hp hm
  split
  · rename_i h4
    obtain ⟨hc, hn⟩ := (Culled.refl v).terminateTeam (y.getCc (ckCc ck)).launch (y.getCc (ckCc ck)).team
    refine ⟨hc.pause core hp, fun z hz => ?_, fun _ => hn⟩
    obtain ⟨u, hu, huz⟩ := hc.mxq core z hz
    rw [← huz]
    exact hm u hu
  · rename_i h4
    exact ⟨hp, hm, fun h => absurd h h4⟩

theorem mxAbort_abandons (hexp : s.mgmt.getLsbD 9 = true) (hp : (s.getCore core).pause ≠ none) :
    ∃ t, exec (.mprogAbort core) s = .next t ∧ (t.getCore core).pause = none ∧ (∀ x ∈ (t.getCore core).mxq, x.uid ≠ c.uid) ∧
      (ckCtx c.ck < 4 → NotSaved t (s.getCc (ckCc c.ck)).launch (s.getCc (ckCc c.ck)).team) := by
  have hx : (s.recovExpert && (s.getCore core).pause.isSome) = true := by
    rw [Bool.and_eq_true]
    exact ⟨(s.expert_iff 4).trans hexp, Option.isSome_iff_ne_none.2 hp⟩
  have hhead := mxHead_eq hq
  exact ⟨s.mxAbandon core c.ck, next_of rfl ((if_pos hx).trans (by rw [hhead])), mxAbandon_abandons hhead⟩
end

/-! ### Faults (R149) -/

section
variable {s core}

/-- The core of an engine that pauses. -/
theorem State.mxPause_core (y : State) (c : MxCmd) (f : AFault) (va ph row k0 : Nat) : (y.mxPause core c f va ph row k0).getCore core =
    { y.getCore core with
      mxq := { c with row := if c.kind == .ret then row else 0 } :: (y.getCore core).mxq.drop 1, pause := some ⟨ph, row, k0, engRec f va c.bundle.toNat 0 0 0⟩ } := by
  have h : (y.mxPause core c f va ph row k0).getCore core = ((y.setMxHead core { c with row := if c.kind == .ret then row else 0 }).updCore core fun k =>
    { k with pause := some ⟨ph, row, k0, engRec f va c.bundle.toNat 0 0 0⟩ }).getCore core := rfl
  rw [h, State.updCore, State.getCore_setCore_same]
  unfold State.setMxHead
  rw [State.updCore, State.getCore_setCore_same]

theorem mxPause_keeps (y : State) (c : MxCmd) (f : AFault) (va ph row k0 : Nat) :
    ((y.mxPause core c f va ph row k0).getCore core).pause = some ⟨ph, row, k0, engRec f va c.bundle.toNat 0 0 0⟩ ∧
    (y.mxPause core c f va ph row k0).mxHead core = some { c with row := if c.kind == .ret then row else 0 } ∧
    Event.matrixFault core (ckCtx c.ck) { (engRec f va c.bundle.toNat 0 0 0).fields with async := true } ∈ (y.mxPause core c f va ph row k0).events := by
  refine ⟨congrArg Core.pause (y.mxPause_core c f va ph row k0), ?_, List.mem_append_right _ (List.mem_singleton.2 rfl)⟩
  exact congrArg (fun k : Core => k.mxq.head?) (y.mxPause_core c f va ph row k0)

theorem mxFault_ends {s1 : State} {c : MxCmd} {f : AFault} {va ph row k0 : Nat} (h : s.mxFault core = (some (c, f, va, ph, row, k0), s1)) :
    let r := engRec f va c.bundle.toNat 0 0 0
    ∃ t, exec (.matrixFaultPause core) s = .next t ∧
      let pauses := f.code = 4 ∨ (f.code = 5 ∧ c.kind = .ret)
      (pauses → s1.mgmt.getLsbD 8 = true → s1.mgmt.getLsbD 9 = true →
        (t.getCore core).pause = some ⟨ph, row, k0, r⟩ ∧ t.mem = s1.mem ∧
        Event.matrixFault core (ckCtx c.ck) { r.fields with async := true } ∈ t.events) ∧
      (pauses → (s1.mgmt.getLsbD 8 && s1.mgmt.getLsbD 9) = false →
        (∀ x ∈ (t.getCore core).mxq, x.uid ≠ c.uid) ∧
        (ckCtx c.ck < 4 → NotSaved t (s1.getCc (ckCc c.ck)).launch (s1.getCc (ckCc c.ck)).team)) ∧
      (¬pauses → (∀ x ∈ (t.getCore core).mxq, x.uid ≠ c.uid) ∧ t.mem = s1.mem ∧ Told s1 t c.ck c.uid r) := by
  dsimp only
  have he : exec (.matrixFaultPause core) s = .next (if c.pauses f.code then
      if (s1.mxPause core c f va ph row k0).recovAssisted && (s1.mxPause core c f va ph row k0).recovExpert then s1.mxPause core c f va ph row k0
      else (s1.mxPause core c f va ph row k0).mxAbandon core c.ck
    else (s1.mxPop core c).asyncFault c.ck (engRec f va c.bundle.toNat 0 0 0) c.uid) := by
    change execMatrixFaultPause core s = _
    unfold execMatrixFaultPause
    rw [h]
  have hassist : ((s1.mxPause core c f va ph row k0).recovAssisted && (s1.mxPause core c f va ph row k0).recovExpert) = (s1.mgmt.getLsbD 8 && s1.mgmt.getLsbD 9) :=
    congrArg₂ _ (s1.assisted_iff 4) (s1.expert_iff 4)
  have hpauses : c.pauses f.code = true ↔ f.code = 4 ∨ (f.code = 5 ∧ c.kind = .ret) := by
    unfold MxCmd.pauses
    simp
  obtain ⟨hp, hhead, hev⟩ := mxPause_keeps (core := core) s1 c f va ph row k0
  rw [hassist] at he
  refine ⟨_, he, fun hps h8 h9 => ?_, fun hps hno => ?_, fun hps => ?_⟩
  · rw [if_pos (hpauses.2 hps), h8, h9, if_pos (by decide)]
    exact ⟨hp, rfl, hev⟩
  · rw [if_pos (hpauses.2 hps), hno, if_neg Bool.false_ne_true]
    obtain ⟨-, hm, hn⟩ := mxAbandon_abandons (ck := c.ck) hhead
    exact ⟨hm, hn⟩
  · rw [if_neg fun h => hps (hpauses.1 h)]
    obtain ⟨hmem, hcc, hclk⟩ := s1.mxPop_keeps core c
    refine ⟨fun x hx => ?_, hmem, told_asyncFault (x := s1.mxPop core c) ?_ hclk rfl⟩
    · have hx' : x ∈ ((s1.mxPop core c).getCore core).mxq := hx
      rw [(s1.mxPop_core core c).1] at hx'
      simpa using (List.mem_filter.1 hx').2
    · rw [State.getCc, hcc]
      rfl
end

/-! ### Integer products (R39) -/

theorem dotInt_eq (l : List (Nat × Nat)) : ∀ acc < 2 ^ 32, dotInt acc l = (acc + (l.map fun x => x.1 * x.2).foldl (· + ·) 0) % 2 ^ 32 := by
  have hsum (l : List Nat) : ∀ a, l.foldl (· + ·) a = a + l.foldl (· + ·) 0 := by
    induction l with
    | nil => exact fun _ => rfl
    | cons b l ih =>
      intro a
      rw [List.foldl_cons, List.foldl_cons, ih, ih (0 + b)]
      omega
  induction l with
  | nil =>
    intro acc h
    exact (Nat.mod_eq_of_lt h).symm
  | cons x l ih =>
    intro acc h
    have hstep : dotInt acc (x :: l) = dotInt ((acc + x.1 * x.2) % 2 ^ 32) l := rfl
    rw [hstep, ih _ (Nat.mod_lt _ (by decide)), List.map_cons, List.foldl_cons, hsum _ (0 + x.1 * x.2), Nat.mod_add_mod]
    congr 1
    omega

/-- Settles O33. -/
theorem matrixEvents : Obligations.MatrixEvents := by
  refine ⟨fun s core c q hq => ⟨fun c' c0 s1 hmay hf => mxStart_starts hq hmay hf, fun l row s1 hdue hw => mxComplete_completes hq hdue hw,
    fun hexp hp => ⟨mxResume_goesOn hq hexp hp, mxAbort_abandons hq hexp hp⟩⟩, fun s s1 core c f va ph row k0 h => mxFault_ends h, fun k acc a b m n hacc => ?_⟩
  have hint := dotInt_eq ((List.range k).map fun j => ((a.getD (m * k + j) 0#32).toNat, (b.getD (j * 64 + n) 0#32).toNat)) acc hacc
  rw [List.map_map] at hint
  exact hint

end Sys2Proof.Machine
end

section
/-! SUPPORT. What a freeze saves of its contexts (R98, R227, R228). -/

set_option Elab.async false

namespace Sys2Proof.Machine

open Claims

/-! ### What names a saved context -/

/-- Where and when a context has been saved, and why. -/
def SavedCtx.tag (sv : SavedCtx) : Nat × Nat × Nat × Nat := (sv.col, sv.ctx, sv.frzClk, sv.reason)

/-- The team of a saved context. -/
def SavedCtx.team (sv : SavedCtx) : Nat × Nat := (sv.cc.launch, sv.cc.team)

/-- A fold that collects what its steps give, as far as a measure of that depends on the step's own argument only. -/
theorem collect_map {α β γ : Type} {T : α → γ} {U : β → γ} {g : State → β → State × α} (hg : ∀ y b, T (g y b).2 = U b) (l : List β) :
    ∀ (x : State) (acc : List α), (l.foldl (fun p b => ((g p.1 b).1, p.2 ++ [(g p.1 b).2])) (x, acc)).2.map T = acc.map T ++ l.map U := by
  induction l with
  | nil => exact fun _ acc => (List.append_nil _).symm
  | cons b l ih =>
    intro x acc
    rw [List.foldl_cons, ih, List.map_append, List.map_cons, List.map_nil, List.map_cons, hg, List.append_assoc, List.singleton_append]

theorem foldl_snd_ind {α β : Type} {P : α → Prop} {f : State × α → β → State × α} (hf : ∀ p b, P p.2 → P (f p b).2) (l : List β) :
    ∀ p : State × α, P p.2 → P (l.foldl f p).2 := by
  induction l with
  | nil => exact fun _ h => h
  | cons b l ih => exact fun p h => ih _ (hf p b h)

variable (x : State) (sv : SavedCtx)

theorem quiesceDie_tag (d : Nat) : (x.quiesceDie sv d).2.tag = sv.tag := by
  unfold State.quiesceDie
  dsimp only
  rfl

theorem quiesceCtx_tag : (x.quiesceCtx sv).2.tag = sv.tag :=
  foldl_snd_ind (f := fun q d => q.1.quiesceDie q.2 d) (P := fun u : SavedCtx => u.tag = sv.tag) (fun _ _ h => (quiesceDie_tag ..).trans h) _ _ rfl

theorem quiesceAll_tags (clk col reason : Nat) (ks : List Nat) : (x.quiesceAll clk col ks reason).2.map SavedCtx.tag = ks.map fun k => (col, k, clk, reason) :=
  collect_map (g := fun y k => y.quiesceCtx (SavedCtx.start col k clk reason)) (fun y k => quiesceCtx_tag y (SavedCtx.start col k clk reason)) ks x []

/-- The shared state of a core, recorded with one context or not, changes no name. -/
theorem shareCtx_tag (cks : List Nat) (takes : SavedCtx → Bool) (banks dies : SavedCtx → List Nat) (p : State × List SavedCtx) :
    (shareCtx cks takes banks dies p sv).2.map SavedCtx.tag = p.2.map SavedCtx.tag ++ [sv.tag] := by
  unfold shareCtx
  split
  · have h : ((dies sv).foldl (fun q d => q.1.captureShared q.2 (banks sv) cks d) (p.1, sv)).2.tag = sv.tag :=
      foldl_snd_ind (f := fun q d => q.1.captureShared q.2 (banks sv) cks d) (P := fun u : SavedCtx => u.tag = sv.tag) (fun _ _ h => h) _ _ rfl
    rw [List.map_append, List.map_cons, List.map_nil, h]
  · exact List.map_append ..

theorem shareAll_tags (col : Nat) (ks cks : List Nat) (svs : List SavedCtx) : (x.shareAll col ks cks svs).2.map SavedCtx.tag = svs.map SavedCtx.tag := by
  have h : ∀ (svs : List SavedCtx) (p : State × List SavedCtx) (takes : SavedCtx → Bool) (banks dies : SavedCtx → List Nat),
      (svs.foldl (shareCtx cks takes banks dies) p).2.map SavedCtx.tag = p.2.map SavedCtx.tag ++ svs.map SavedCtx.tag := by
    intro svs
    induction svs with
    | nil => exact fun p _ _ _ => (List.append_nil _).symm
    | cons v svs ih =>
      intro p takes banks dies
      rw [List.foldl_cons, ih, shareCtx_tag, List.map_cons, List.append_assoc, List.singleton_append]
  exact h svs (x, []) ..

/-! ### Capture -/

/-- One context captured: it leaves its column, the others keep their seats, and its record names its team. -/
theorem State.captureCtx_seats : (x.captureCtx sv).1.getCc (ccKey sv.col sv.ctx) = {} ∧
    (∀ k ≠ ccKey sv.col sv.ctx, ((x.captureCtx sv).1.getCc k).seat = (x.getCc k).seat) ∧ (x.captureCtx sv).2.tag = sv.tag ∧
    (x.captureCtx sv).2.team = ((x.getCc (ccKey sv.col sv.ctx)).launch, (x.getCc (ccKey sv.col sv.ctx)).team) := by
  have hcw : Worked x (x.cwDone (ccKey sv.col sv.ctx)) := (Worked.refl x).cwDone _
  have hdies : Worked x (((x.cwDone (ccKey sv.col sv.ctx)).frzDies sv.col sv.ctx).foldl (fun p d => p.1.captureDie p.2 d) (x.cwDone (ccKey sv.col sv.ctx), sv)).1 :=
    foldl_fst_ind (P := Worked x) (fun _ _ hp => hp.captureDie ..) _ _ hcw
  have htag : (((x.cwDone (ccKey sv.col sv.ctx)).frzDies sv.col sv.ctx).foldl (fun p d => p.1.captureDie p.2 d) (x.cwDone (ccKey sv.col sv.ctx), sv)).2.tag = sv.tag :=
    foldl_snd_ind (f := fun p d => p.1.captureDie p.2 d) (P := fun u : SavedCtx => u.tag = sv.tag) (fun _ _ h => h) _ _ rfl
  have hseat := hcw.seat (ccKey sv.col sv.ctx)
  unfold State.captureCtx
  dsimp only
  refine ⟨State.getCc_setCc_same .., fun k hk => ?_, htag, ?_⟩
  · rw [State.getCc_setCc_other _ _ _ _ hk]
    exact hdies.seat k
  · exact Prod.ext (congrArg (fun t => t.2.1) hseat) (congrArg (fun t => t.2.2.1) hseat)

/-- Contexts captured one after another: they have left, and what was free is. -/
theorem captureAll_frees (svs : List SavedCtx) : ∀ (x : State) (acc : List SavedCtx),
    (∀ k, (x.getCc k).st = .free ∨ (∃ v ∈ svs, k = ccKey v.col v.ctx) →
      ((svs.foldl (fun p sv => ((p.1.captureCtx sv).1, p.2 ++ [(p.1.captureCtx sv).2])) (x, acc)).1.getCc k).st = .free) := by
  induction svs with
  | nil => exact fun x _ k h => h.resolve_right fun ⟨v, hv, _⟩ => List.not_mem_nil hv
  | cons v svs ih =>
    intro x acc k h
    obtain ⟨hsame, hother, -, -⟩ := x.captureCtx_seats v
    rw [List.foldl_cons]
    by_cases hk : k = ccKey v.col v.ctx
    · exact ih _ _ k (.inl (by rw [hk, hsame]))
    · refine ih _ _ k (h.imp (fun hf => ?_) fun ⟨u, hu, huk⟩ => ?_)
      · exact (congrArg Prod.fst (hother k hk) :).trans hf
      · rcases List.mem_cons.1 hu with rfl | hu
        · exact absurd huk hk
        · exact ⟨u, hu, huk⟩

/-- Contexts of different keys captured one after another: each is recorded under its name, with its team. -/
theorem captureAll_records (svs : List SavedCtx) : ∀ (x : State) (acc : List SavedCtx), (svs.map fun v => ccKey v.col v.ctx).Nodup →
    (∀ u ∈ acc, u ∈ (svs.foldl (fun p sv => ((p.1.captureCtx sv).1, p.2 ++ [(p.1.captureCtx sv).2])) (x, acc)).2) ∧
    ∀ v ∈ svs, ∃ u ∈ (svs.foldl (fun p sv => ((p.1.captureCtx sv).1, p.2 ++ [(p.1.captureCtx sv).2])) (x, acc)).2, u.tag = v.tag ∧
      u.team = ((x.getCc (ccKey v.col v.ctx)).launch, (x.getCc (ccKey v.col v.ctx)).team) := by
  induction svs with
  | nil => exact fun _ _ _ => ⟨fun _ hu => hu, fun _ hv => absurd hv List.not_mem_nil⟩
  | cons v svs ih =>
    intro x acc hnd
    obtain ⟨-, hother, htag, hteam⟩ := x.captureCtx_seats v
    rw [List.map_cons, List.nodup_cons] at hnd
    obtain ⟨hkeep, hrest⟩ := ih (x.captureCtx v).1 (acc ++ [(x.captureCtx v).2]) hnd.2
    rw [List.foldl_cons]
    refine ⟨fun u hu => hkeep u (List.mem_append_left _ hu), fun w hw => ?_⟩
    rcases List.mem_cons.1 hw with rfl | hw
    · exact ⟨_, hkeep _ (List.mem_append_right _ (List.mem_singleton.2 rfl)), htag, hteam⟩
    · obtain ⟨u, hu, hut, hum⟩ := hrest w hw
      have hne : ccKey w.col w.ctx ≠ ccKey v.col v.ctx := fun he => hnd.1 (List.mem_map.2 ⟨w, hw, he⟩)
      have hseat := hother _ hne
      refine ⟨u, hu, hut, hum.trans (Prod.ext ?_ ?_)⟩
      · exact (congrArg (fun t => t.2.1) hseat :)
      · exact (congrArg (fun t => t.2.2.1) hseat :)

/-! ### A column's contexts captured (R228) -/

/-- The state before the contexts themselves are captured, with their records. -/
def State.gathered (s : State) (col : Nat) (ks : List Nat) (reason : Nat) : State × List SavedCtx :=
  let s := s.stopped col ks reason
  let q := s.quiesceAll s.clock col ks reason
  q.1.shareAll col ks (ks.flatMap fun k => (q.1.frzDies col k).map fun d => ctxKey d col k) q.2

theorem State.captureCol_gathered (col : Nat) (ks : List Nat) (reason : Nat) :
    x.captureCol col ks reason = (x.gathered col ks reason).1.captureAll (x.gathered col ks reason).2 := x.captureCol_eq col ks reason

theorem State.gathered_worked (col : Nat) (ks : List Nat) (reason : Nat) : Worked x (x.gathered col ks reason).1 :=
  Worked.shareAll (Worked.quiesceAll ((Worked.refl x).stopped col ks reason) ..) ..

theorem State.gathered_tags (col : Nat) (ks : List Nat) (reason : Nat) : (x.gathered col ks reason).2.map SavedCtx.tag = ks.map fun k => (col, k, x.clock, reason) := by
  have hclk : (x.stopped col ks reason).clock = x.clock := (congrArg State.clock ((Worked.refl x).stopped col ks reason).rest :)
  unfold State.gathered
  dsimp only
  rw [shareAll_tags, quiesceAll_tags, hclk]

theorem State.gathered_keys (col : Nat) (ks : List Nat) (reason : Nat) : (x.gathered col ks reason).2.map (fun v => ccKey v.col v.ctx) = ks.map (ccKey col) := by
  have h := congrArg (List.map fun t : Nat × Nat × Nat × Nat => ccKey t.1 t.2.1) (x.gathered_tags col ks reason)
  rw [List.map_map, List.map_map] at h
  exact h

theorem State.captureCol_frees (col : Nat) (ks : List Nat) (reason : Nat) {k : Nat} (h : (x.getCc k).st = .free ∨ ∃ j ∈ ks, k = ccKey col j) :
    ((x.captureCol col ks reason).1.getCc k).st = .free := by
  rw [x.captureCol_gathered]
  refine captureAll_frees _ _ _ k (h.imp (fun hf => ?_) fun ⟨j, hj, hk⟩ => ?_)
  · exact (congrArg Prod.fst ((x.gathered_worked col ks reason).seat k) :).trans hf
  · have hmem : ccKey col j ∈ (x.gathered col ks reason).2.map fun v => ccKey v.col v.ctx := by
      rw [State.gathered_keys]
      exact List.mem_map.2 ⟨j, hj, rfl⟩
    obtain ⟨v, hv, hvk⟩ := List.mem_map.1 hmem
    exact ⟨v, hv, hk.trans hvk.symm⟩

theorem State.captureCol_records (col : Nat) {ks : List Nat} (reason : Nat) (hnd : (ks.map (ccKey col)).Nodup) {k : Nat} (hk : k ∈ ks) :
    ∃ u ∈ (x.captureCol col ks reason).2, u.tag = (col, k, x.clock, reason) ∧ u.team = ((x.getCc (ccKey col k)).launch, (x.getCc (ccKey col k)).team) := by
  rw [x.captureCol_gathered]
  have hmem : (col, k, x.clock, reason) ∈ (x.gathered col ks reason).2.map SavedCtx.tag := by
    rw [State.gathered_tags]
    exact List.mem_map.2 ⟨k, hk, rfl⟩
  obtain ⟨v, hv, hvt⟩ := List.mem_map.1 hmem
  rw [← x.gathered_keys col ks reason] at hnd
  obtain ⟨u, hu, hut, hum⟩ := (captureAll_records _ (x.gathered col ks reason).1 [] hnd).2 v hv
  have hkey : ccKey v.col v.ctx = ccKey col k := congrArg (fun t : Nat × Nat × Nat × Nat => ccKey t.1 t.2.1) hvt
  have hseat := (x.gathered_worked col ks reason).seat (ccKey col k)
  rw [hkey] at hum
  refine ⟨u, hu, hut.trans hvt, hum.trans (Prod.ext ?_ ?_)⟩
  · exact (congrArg (fun t => t.2.1) hseat :)
  · exact (congrArg (fun t => t.2.2.1) hseat :)

/-! ### Saved teams kept in the table (R227) -/

/-- The locks of saved contexts taken one after another. -/
def State.lockAll (s : State) (svs : List SavedCtx) : State × List SavedCtx :=
  svs.foldl (fun p sv => ((p.1.spillLocks sv).1, p.2 ++ [(p.1.spillLocks sv).2])) (s, [])

/-- The posted writes of contexts of one swap moved to their saved keys. -/
def State.moveAll (s : State) (n : Nat) (svs : List SavedCtx) : State :=
  (List.range svs.length).foldl (fun s i => match svs[i]? with
    | some sv => s.movePosted (ccKey sv.col sv.ctx) (savedKey n i)
    | none => s) s

theorem State.addSwap_eq (launch team reason : Nat) (ret hold : Bool) (excl : Option Nat) (svs : List SavedCtx) :
    x.addSwap launch team reason ret hold excl svs =
      let y := (x.lockAll svs).1.moveAll x.nextSwap (x.lockAll svs).2
      { y with nextSwap := x.nextSwap + 1, swaps := SMap.put y.swaps x.nextSwap ⟨launch, team, (x.lockAll svs).2, ret, hold, excl, reason, if ret then y.clock + 1 else 0⟩ } := rfl

/-- The part of the state that the locks and messages of a swap do not touch. -/
def State.unlocked (s : State) : State := { s with core := [], uid := 0, posted := [] }

theorem foldl_updCore_unlocked {α : Type} (l : List α) (key : α → Nat) (F : α → Core → Core) (y : State) :
    (l.foldl (fun s d => s.updCore (key d) (F d)) y).unlocked = y.unlocked :=
  foldl_ind (f := fun s d => s.updCore (key d) (F d)) (P := fun z => z.unlocked = y.unlocked) (fun _ _ hz => hz) l y rfl

theorem State.spillLocks_keeps : (x.spillLocks sv).1.unlocked = x.unlocked ∧ (x.spillLocks sv).2.tag = sv.tag ∧ (x.spillLocks sv).2.cc = sv.cc := by
  unfold State.spillLocks
  dsimp only
  split
  · exact ⟨rfl, rfl, rfl⟩
  · refine ⟨?_, rfl, rfl⟩
    exact foldl_updCore_unlocked sv.dies (fun d => coreKey d.1 sv.col) _ x.fresh.2

theorem State.lockAll_keeps (svs : List SavedCtx) : (x.lockAll svs).1.unlocked = x.unlocked ∧
    (x.lockAll svs).2.map (fun v => (v.tag, v.cc)) = svs.map fun v => (v.tag, v.cc) :=
  ⟨collect_ind (P := fun y => y.unlocked = x.unlocked) (g := State.spillLocks) (fun y v hy => (y.spillLocks_keeps v).1.trans hy) svs x rfl,
    collect_map (g := State.spillLocks) (T := fun v => (v.tag, v.cc)) (fun y v => Prod.ext (y.spillLocks_keeps v).2.1 (y.spillLocks_keeps v).2.2) svs x []⟩

theorem State.moveAll_keeps (n : Nat) (svs : List SavedCtx) : (x.moveAll n svs).unlocked = x.unlocked := by
  refine foldl_ind (P := fun y => y.unlocked = x.unlocked) (fun y i hy => ?_) _ _ rfl
  split
  · exact hy
  · exact hy

/-- The part of the state that the table of saved teams and what comes with it do not touch. -/
def State.unsaved (s : State) : State := { s.unlocked with nextSwap := 0, swaps := [] }

/-- A team added to the table: the rest of the state but for locks and messages is as it was, and its record stands under the next name. -/
theorem State.addSwap_adds (launch team reason : Nat) (ret hold : Bool) (excl : Option Nat) (svs : List SavedCtx) :
    (x.addSwap launch team reason ret hold excl svs).unsaved = x.unsaved ∧
    (x.addSwap launch team reason ret hold excl svs).nextSwap = x.nextSwap + 1 ∧
    ∃ w : Swap, (x.addSwap launch team reason ret hold excl svs).swaps = SMap.put x.swaps x.nextSwap w ∧ w.launch = launch ∧ w.team = team ∧ w.reason = reason ∧
      w.ret = ret ∧ w.hold = hold ∧ w.ctxs.map (fun v => (v.tag, v.cc)) = svs.map fun v => (v.tag, v.cc) := by
  obtain ⟨hl, hmap⟩ := x.lockAll_keeps svs
  have hm := ((x.lockAll svs).1.moveAll_keeps x.nextSwap (x.lockAll svs).2).trans hl
  have hsw : ((x.lockAll svs).1.moveAll x.nextSwap (x.lockAll svs).2).swaps = x.swaps := (congrArg State.swaps hm :)
  rw [x.addSwap_eq]
  dsimp only
  generalize (x.lockAll svs).1.moveAll x.nextSwap (x.lockAll svs).2 = y at hm hsw
  refine ⟨(congrArg (fun u : State => { u with nextSwap := 0, swaps := [] }) hm :), rfl, _, by rw [hsw], rfl, rfl, rfl, rfl, rfl, hmap⟩

theorem SMap.mem_put_other {α : Type} {k : Nat} {v : α} {z : Nat × α} (hz : z.1 ≠ k) : ∀ {m : SMap α}, z ∈ m → z ∈ SMap.put m k v
  | (j, w) :: m, h => by
    rw [SMap.put]
    split
    · exact List.mem_cons_of_mem _ h
    split
    · rename_i hj
      rcases List.mem_cons.1 h with rfl | h
      · exact absurd hj hz
      · exact List.mem_cons_of_mem _ h
    · rcases List.mem_cons.1 h with rfl | h
      · exact List.mem_cons_self
      · exact List.mem_cons_of_mem _ (SMap.mem_put_other hz h)

end Sys2Proof.Machine
end

section
/-! SUPPORT. A column frozen (R98, R227, R235). -/

set_option Elab.async false

namespace Sys2Proof.Machine

open Claims

variable (x : State)

/-- The contexts of a column that a freeze takes. -/
def State.freezing (s : State) (col : Nat) (launches : List Nat) : List Nat := [0, 1, 2, 3].filter fun k =>
  let c := s.getCc (ccKey col k)
  (c.st.runs || c.st == .loading) && (launches.isEmpty || launches.contains c.launch)

/-- The teams of captured contexts added to the table. -/
def State.addTeams (s : State) (reason : Nat) (hold : Bool) (excl : Option Nat) (svs : List SavedCtx) : State :=
  (savedTeams svs).foldl (fun s t => s.addSwap t.1 t.2 reason true hold excl (svs.filter fun sv => (sv.cc.launch, sv.cc.team) == t)) s

/-- Captured contexts with the clocks of their spills. -/
def State.spilling (s : State) (svs : List SavedCtx) : List SavedCtx := if s.saveAssisted then svs else s.spillTimes (s.clock + 64) svs

/-- R235: whether an injected freeze is for another column. -/
def State.injected (s : State) (col reason : Nat) : Bool := reason == 4 && (s.getCol col).frzinj.getLsbD 62

theorem State.freezeCol_eq {col reason : Nat} {launches : List Nat} (h : (x.freezing col launches).isEmpty = false) : x.freezeCol col reason launches =
    let p := x.captureCol col (x.freezing col launches) reason
    let svs := p.1.spilling p.2
    (p.1.addTeams reason (!x.injected col reason) (if x.injected col reason then some col else none) svs).afterFreeze col
      ((x.activeOf col).filter (x.freezing col launches).contains) (svs.map fun sv => sv.cc.launch) := by
  unfold State.freezeCol
  exact if_neg (by rw [← State.freezing, h]; decide)

theorem State.spillTimes_names : ∀ (svs : List SavedCtx) (t : Nat), (x.spillTimes t svs).map (fun v => (v.tag, v.cc)) = svs.map fun v => (v.tag, v.cc)
  | [], _ => rfl
  | v :: svs, _ => congrArg ((v.tag, v.cc) :: ·) (spillTimes_names svs _)

theorem State.spilling_names (svs : List SavedCtx) : (x.spilling svs).map (fun v => (v.tag, v.cc)) = svs.map fun v => (v.tag, v.cc) := by
  unfold State.spilling
  split
  · rfl
  · exact x.spillTimes_names ..

/-- A team that stands in the table under an earlier name stays there. -/
theorem addSwaps_keep {α : Type} (ts : List α) (launch team : α → Nat) (reason : Nat) (ret hold : Bool) (excl : Option Nat) (svs : α → List SavedCtx)
    {w : Nat × Swap} : ∀ {y : State}, w ∈ y.swaps → w.1 < y.nextSwap →
      w ∈ (ts.foldl (fun s t => s.addSwap (launch t) (team t) reason ret hold excl (svs t)) y).swaps := by
  induction ts with
  | nil => exact fun h _ => h
  | cons t ts ih =>
    intro y h hlt
    obtain ⟨-, hn, w', hs, -⟩ := y.addSwap_adds (launch t) (team t) reason ret hold excl (svs t)
    rw [List.foldl_cons]
    refine ih ?_ ?_
    · rw [hs]
      exact SMap.mem_put_other (Nat.ne_of_lt hlt) h
    · rw [hn]
      exact Nat.lt_succ_of_lt hlt

/-- Every captured context is saved with its team. -/
theorem State.addTeams_saves (reason : Nat) (hold : Bool) (excl : Option Nat) (svs : List SavedCtx) {sv : SavedCtx} (hsv : sv ∈ svs) :
    ∃ w ∈ (x.addTeams reason hold excl svs).swaps, w.2.launch = sv.cc.launch ∧ w.2.team = sv.cc.team ∧ w.2.reason = reason ∧ w.2.hold = hold ∧
      ∃ u ∈ w.2.ctxs, u.tag = sv.tag := by
  have hteam : (sv.cc.launch, sv.cc.team) ∈ savedTeams svs := List.mem_eraseDups.2 (List.mem_map.2 ⟨sv, hsv, rfl⟩)
  obtain ⟨pre, post, hsplit⟩ := List.append_of_mem hteam
  unfold State.addTeams
  rw [hsplit, List.foldl_append, List.foldl_cons]
  generalize pre.foldl _ x = y
  obtain ⟨-, hn, w, hs, hl, ht, hr, -, hh, hc⟩ := y.addSwap_adds sv.cc.launch sv.cc.team reason true hold excl
    (svs.filter fun v => (v.cc.launch, v.cc.team) == (sv.cc.launch, sv.cc.team))
  refine ⟨(y.nextSwap, w), addSwaps_keep post Prod.fst Prod.snd reason true hold excl _ (by rw [hs]; exact SMap.mem_put_self ..) (by rw [hn]; exact Nat.lt_succ_self _),
    hl, ht, hr, hh, ?_⟩
  have hmem : (sv.tag, sv.cc) ∈ w.ctxs.map fun v => (v.tag, v.cc) := by
    rw [hc]
    exact List.mem_map.2 ⟨sv, List.mem_filter.2 ⟨hsv, beq_self_eq_true _⟩, rfl⟩
  obtain ⟨u, hu, huv⟩ := List.mem_map.1 hmem
  exact ⟨u, hu, congrArg Prod.fst huv⟩

theorem State.addTeams_keeps (reason : Nat) (hold : Bool) (excl : Option Nat) (svs : List SavedCtx) : (x.addTeams reason hold excl svs).unsaved = x.unsaved := by
  have hstep (y : State) (t : Nat × Nat) (hy : y.unsaved = x.unsaved) :
      (y.addSwap t.1 t.2 reason true hold excl (svs.filter fun sv => (sv.cc.launch, sv.cc.team) == t)).unsaved = x.unsaved :=
    (y.addSwap_adds t.1 t.2 reason true hold excl _).1.trans hy
  unfold State.addTeams
  exact foldl_ind (P := fun y => y.unsaved = x.unsaved) hstep _ _ rfl

theorem Culled.freePairs {s y : State} (h : Culled s y) (col : Nat) (ls : List Nat) : Culled s (ls.foldl (fun s l => s.freePair col l) y) :=
  foldl_ind (f := fun s l => s.freePair col l) (P := Culled s) (fun _ _ hy => hy.freePair ..) ls y h

theorem Culled.afterFreeze {s y : State} (h : Culled s y) (col : Nat) (act : Option Nat) (ls : List Nat) : Culled s (y.afterFreeze col act ls) := by
  unfold State.afterFreeze
  cases act with
  | none => exact h.freePairs ..
  | some k => exact (h.freePairs ..).leftActive ..

/-! ### A freeze of a column -/

theorem ccKey_lt {col k : Nat} (hcol : col < 32) (hk : k < 4) : ccKey col k < 128 := by
  unfold ccKey
  rw [if_pos hk]
  omega

theorem State.freezing_nodup (col : Nat) (ls : List Nat) : ((x.freezing col ls).map (ccKey col)).Nodup := by
  have hsub : (x.freezing col ls).Sublist [0, 1, 2, 3] := List.filter_sublist
  refine List.Nodup.sublist (hsub.map (ccKey col)) ?_
  simp [ccKey]

theorem State.mem_freezing {col k : Nat} {ls : List Nat} (hk : k < 4) (hrun : (x.getCc (ccKey col k)).st.runs = true)
    (hl : ls = [] ∨ (x.getCc (ccKey col k)).launch ∈ ls) : k ∈ x.freezing col ls := by
  refine List.mem_filter.2 ⟨?_, ?_⟩
  · have : k = 0 ∨ k = 1 ∨ k = 2 ∨ k = 3 := by omega
    rcases this with rfl | rfl | rfl | rfl <;> simp
  · rcases hl with rfl | hl
    · simp [hrun]
    · simp [hrun, hl]

/-- What a freeze of a column leaves, but for the saved teams, its column contexts and its engines. -/
theorem State.freezeCol_keeps (col reason : Nat) (ls : List Nat) : (x.freezeCol col reason ls).mgmt = x.mgmt ∧ (x.freezeCol col reason ls).clock = x.clock ∧
    ∀ e ∈ x.events, e ∈ (x.freezeCol col reason ls).events := by
  by_cases h : (x.freezing col ls).isEmpty = true
  · have he : x.freezeCol col reason ls = x := by
      unfold State.freezeCol
      exact if_pos h
    rw [he]
    exact ⟨rfl, rfl, fun _ => id⟩
  · rw [x.freezeCol_eq (Bool.not_eq_true _ ▸ h)]
    dsimp only
    have h1 := (Kept.refl x).captureCol col (x.freezing col ls) reason
    generalize x.captureCol col (x.freezing col ls) reason = p at h1
    have h2 := p.1.addTeams_keeps reason (!x.injected col reason) (if x.injected col reason then some col else none) (p.1.spilling p.2)
    generalize p.1.addTeams reason (!x.injected col reason) (if x.injected col reason then some col else none) (p.1.spilling p.2) = z at h2
    have h3 := (Kept.refl z).afterFreeze col ((x.activeOf col).filter (x.freezing col ls).contains) ((p.1.spilling p.2).map fun sv => sv.cc.launch)
    generalize z.afterFreeze col ((x.activeOf col).filter (x.freezing col ls).contains) ((p.1.spilling p.2).map fun sv => sv.cc.launch) = t at h3
    have hm2 : z.mgmt = p.1.mgmt := (congrArg State.mgmt h2 :)
    have hc2 : z.clock = p.1.clock := (congrArg State.clock h2 :)
    have he2 : z.events = p.1.events := (congrArg State.events h2 :)
    refine ⟨(congrArg State.mgmt h3.rest :).trans (hm2.trans (congrArg State.mgmt h1.rest :)), (congrArg State.clock h3.rest :).trans (hc2.trans (congrArg State.clock h1.rest :)),
      fun e hx => h3.events e ?_⟩
    rw [he2]
    exact h1.events e hx

theorem Kept.mgmt {s t : State} (h : Kept s t) : t.mgmt = s.mgmt := (congrArg State.mgmt h.rest :)

theorem Kept.clock {s t : State} (h : Kept s t) : t.clock = s.clock := (congrArg State.clock h.rest :)

theorem Kept.swaps {s t : State} (h : Kept s t) : t.swaps = s.swaps := (congrArg State.swaps h.rest :)

/-- What a freeze makes of its captured contexts. -/
def State.filed (s : State) (reason : Nat) (hold : Bool) (excl : Option Nat) (col : Nat) (act : Option Nat) (svs : List SavedCtx) : State :=
  (s.addTeams reason hold excl (s.spilling svs)).afterFreeze col act ((s.spilling svs).map fun sv => sv.cc.launch)

theorem State.spilling_mem {svs : List SavedCtx} {u : SavedCtx} (hu : u ∈ svs) : ∃ v ∈ x.spilling svs, v.tag = u.tag ∧ v.cc = u.cc := by
  have hmem : (u.tag, u.cc) ∈ (x.spilling svs).map fun v => (v.tag, v.cc) := by
    rw [x.spilling_names]
    exact List.mem_map.2 ⟨u, hu, rfl⟩
  obtain ⟨v, hv, hvu⟩ := List.mem_map.1 hmem
  exact ⟨v, hv, congrArg Prod.fst hvu, congrArg Prod.snd hvu⟩

theorem State.filed_saves (reason : Nat) (hold : Bool) (excl : Option Nat) (col : Nat) (act : Option Nat) {svs : List SavedCtx} {u : SavedCtx} (hu : u ∈ svs) :
    ∃ w ∈ (x.filed reason hold excl col act svs).swaps, w.2.launch = u.cc.launch ∧ w.2.team = u.cc.team ∧ w.2.reason = reason ∧ w.2.hold = hold ∧
      ∃ v ∈ w.2.ctxs, v.tag = u.tag := by
  obtain ⟨v, hv, hvt, hvc⟩ := x.spilling_mem hu
  obtain ⟨w, hw, hwl, hwt, hwr, hwh, y, hy, hyt⟩ := x.addTeams_saves reason hold excl (x.spilling svs) hv
  have hs := Kept.swaps ((Kept.refl (x.addTeams reason hold excl (x.spilling svs))).afterFreeze col act ((x.spilling svs).map fun sv => sv.cc.launch))
  unfold State.filed
  rw [hs]
  exact ⟨w, hw, hwl.trans (congrArg _ hvc), hwt.trans (congrArg _ hvc), hwr, hwh, y, hy, hyt.trans hvt⟩

theorem State.filed_free (reason : Nat) (hold : Bool) (excl : Option Nat) (col : Nat) (act : Option Nat) (svs : List SavedCtx) {k : Nat} (hk : k < 128)
    (hf : (x.getCc k).st = .free) : ((x.filed reason hold excl col act svs).getCc k).st = .free := by
  have hcc : (x.addTeams reason hold excl (x.spilling svs)).cc = x.cc := (congrArg State.cc (x.addTeams_keeps ..) :)
  refine ((Culled.refl _).afterFreeze ..).free hk ?_
  rw [State.getCc, hcc]
  exact hf

/-- R98: a freeze takes a context off its column, and saves it with its team. -/
theorem State.freezeCol_saves {col reason k : Nat} {ls : List Nat} (hcol : col < 32) (hk : k < 4) (hrun : (x.getCc (ccKey col k)).st.runs = true)
    (hl : ls = [] ∨ (x.getCc (ccKey col k)).launch ∈ ls) : ((x.freezeCol col reason ls).getCc (ccKey col k)).st = .free ∧
    ∃ w ∈ (x.freezeCol col reason ls).swaps, w.2.launch = (x.getCc (ccKey col k)).launch ∧ w.2.team = (x.getCc (ccKey col k)).team ∧ w.2.reason = reason ∧
      w.2.hold = (!x.injected col reason) ∧ ∃ u ∈ w.2.ctxs, u.tag = (col, k, x.clock, reason) := by
  have hmem := x.mem_freezing hk hrun hl
  have hne : (x.freezing col ls).isEmpty = false := by
    cases h : x.freezing col ls with
    | nil => rw [h] at hmem; exact absurd hmem List.not_mem_nil
    | cons => rfl
  obtain ⟨u, hu, hut, hum⟩ := x.captureCol_records col reason (x.freezing_nodup col ls) hmem
  have hfree := x.captureCol_frees col (x.freezing col ls) reason (k := ccKey col k) (.inr ⟨k, hmem, rfl⟩)
  rw [x.freezeCol_eq hne]
  refine ⟨State.filed_free _ reason _ _ col _ _ (ccKey_lt hcol hk) hfree, ?_⟩
  obtain ⟨w, hw, hwl, hwt, hwr, hwh, y, hy, hyt⟩ := State.filed_saves (x.captureCol col (x.freezing col ls) reason).1 reason (!x.injected col reason)
    (if x.injected col reason then some col else none) col ((x.activeOf col).filter (x.freezing col ls).contains) hu
  exact ⟨w, hw, hwl.trans (congrArg Prod.fst hum), hwt.trans (congrArg Prod.snd hum), hwr, hwh, y, hy, hyt.trans hut⟩

end Sys2Proof.Machine
end

section
/-! The obligation on system faults (O48). -/

set_option Elab.async false

namespace Sys2Proof.Machine

open Claims

/-! ### A team's end frees its contexts -/

theorem SMap.mem_of_get_ne {α : Type} {d : α} {k : Nat} : ∀ {m : SMap α}, SMap.get d m k ≠ d → (k, SMap.get d m k) ∈ m
  | [], h => absurd rfl h
  | (j, v) :: m, h => by
    rw [SMap.get] at h ⊢
    split
    · rename_i hj
      rw [hj]
      exact List.mem_cons_self
    · rename_i hj
      rw [if_neg hj] at h
      exact List.mem_cons_of_mem _ (SMap.mem_of_get_ne h)

theorem killCtx_frees (x : State) {cc : Nat} (hcc : cc < 128) : ((x.killCtx cc).getCc cc).st = .free := by
  unfold State.killCtx
  dsimp only
  refine (((Culled.refl _).freePair ..).leftActiveIf ..).free hcc ?_
  rw [State.getCc_setCc_same]

theorem killEach_frees {cc : Nat} (hcc : cc < 128) {l : List (Nat × ColCtx)} {c : ColCtx} (h : (cc, c) ∈ l) (x : State) :
    ((l.foldl (fun s c => s.killCtx c.1) x).getCc cc).st = .free := by
  obtain ⟨pre, post, rfl⟩ := List.append_of_mem h
  rw [List.foldl_append, List.foldl_cons]
  exact ((Culled.refl _).killEach post).free hcc (killCtx_frees _ hcc)

/-- R87: no context of a team that has ended stands on a column. -/
theorem terminateTeam_frees (x : State) {cc : Nat} (hcc : cc < 128) :
    ((x.terminateTeam (x.getCc cc).launch (x.getCc cc).team).getCc cc).st = .free := by
  have hrest (y : State) : Culled y ((y.teamDropped (x.getCc cc).launch (x.getCc cc).team).teamMarked (x.getCc cc).launch (x.getCc cc).team) :=
    ((Culled.refl y).teamDropped ..).1.teamMarked ..
  rw [State.terminateTeam_eq]
  refine (hrest _).free hcc ?_
  unfold State.teamKilled
  rcases ((Culled.refl x).killColls (x.getCc cc).launch (x.getCc cc).team).ctx cc hcc with hf | ⟨hs, hl, ht⟩
  · exact ((Culled.refl _).killEach _).free hcc hf
  · by_cases hf : ((x.killColls (x.getCc cc).launch (x.getCc cc).team).getCc cc).st = .free
    · exact ((Culled.refl _).killEach _).free hcc hf
    · refine killEach_frees hcc (c := (x.killColls (x.getCc cc).launch (x.getCc cc).team).getCc cc) (List.mem_filter.2 ⟨SMap.mem_of_get_ne fun hd => hf ?_, ?_⟩) _
      · rw [State.getCc, hd]
      · rw [hl, ht]
        simpa using hf

/-! ### Frozen teams released (R254) -/

theorem SMap.mem_of_mem_put {α : Type} {k : Nat} {v : α} {z : Nat × α} : ∀ {m : SMap α}, z ∈ SMap.put m k v → z = (k, v) ∨ z ∈ m
  | [], h => .inl (List.mem_singleton.1 h)
  | (j, w) :: m, h => by
    rw [SMap.put] at h
    split at h
    · exact List.mem_cons.1 h
    split at h
    · rcases List.mem_cons.1 h with h | h
      · exact .inl h
      · exact .inr (List.mem_cons_of_mem _ h)
    · rcases List.mem_cons.1 h with h | h
      · exact .inr (h ▸ List.mem_cons_self)
      · rcases SMap.mem_of_mem_put h with h | h
        · exact .inl h
        · exact .inr (List.mem_cons_of_mem _ h)

/-- A team let go. -/
def State.letOne (s : State) (w : Nat × Swap) : State := { s with swaps := SMap.put s.swaps w.1 { w.2 with hold := false } }

/-- Teams let go one after another. -/
def State.letGo (s : State) (ws : List (Nat × Swap)) : State := ws.foldl State.letOne s

theorem State.releaseFrozen_eq (x : State) (col clk : Nat) : x.releaseFrozen col clk = x.letGo (x.frozenWith col clk) := rfl

/-- The part of the state but for the saved teams. -/
def State.unswapped (s : State) : State := { s with swaps := [] }

theorem letGo_keeps (ws : List (Nat × Swap)) (x : State) : (x.letGo ws).unswapped = x.unswapped :=
  foldl_ind (f := State.letOne) (P := fun y => y.unswapped = x.unswapped) (fun _ _ hy => hy) ws x rfl

theorem letGo_mem : ∀ (ws : List (Nat × Swap)) (x : State) {z : Nat × Swap}, z ∈ (x.letGo ws).swaps → z ∈ x.swaps ∨ ∃ w ∈ ws, z = (w.1, { w.2 with hold := false })
  | [], _, _, h => .inl h
  | w :: ws, x, z, h => by
    rcases letGo_mem ws _ h with h | ⟨u, hu, huz⟩
    · rcases SMap.mem_of_mem_put h with h | h
      · exact .inr ⟨w, List.mem_cons_self, h⟩
      · exact .inl h
    · exact .inr ⟨u, List.mem_cons_of_mem _ hu, huz⟩

/-- Of a name among those let go the table shows a team that is not held, and of another name what it showed. -/
theorem letGo_find (k : Nat) : ∀ (ws : List (Nat × Swap)) (x : State),
    ((∃ w ∈ ws, w.1 = k) ∨ (∀ z, (x.swaps.find? fun y => y.1 == k) = some z → z.2.hold = false) →
      ∀ z, ((x.letGo ws).swaps.find? fun y => y.1 == k) = some z → z.2.hold = false)
  | [], _ => fun h => h.resolve_left fun ⟨_, hw, _⟩ => List.not_mem_nil hw
  | w :: ws, x => fun h => by
    refine letGo_find k ws (x.letOne w) ?_
    by_cases hk : w.1 = k
    · refine .inr fun z hz => ?_
      unfold State.letOne at hz
      rw [← hk, SMap.find?_put, if_pos rfl, Option.some.injEq] at hz
      rw [← hz]
    · rcases h with ⟨u, hu, huk⟩ | hx
      · rcases List.mem_cons.1 hu with rfl | hu
        · exact absurd huk hk
        · exact .inl ⟨u, hu, huk⟩
      · refine .inr fun z hz => hx z ?_
        unfold State.letOne at hz
        rwa [SMap.find?_put, if_neg fun he => hk he.symm] at hz

theorem State.releaseFrozen_keeps (x : State) (col clk : Nat) : (x.releaseFrozen col clk).cc = x.cc ∧ (x.releaseFrozen col clk).cd = x.cd ∧
    (x.releaseFrozen col clk).mem = x.mem ∧ (x.releaseFrozen col clk).events = x.events := by
  have h := letGo_keeps (x.frozenWith col clk) x
  exact ⟨(congrArg State.cc h :), (congrArg State.cd h :), (congrArg State.mem h :), (congrArg State.events h :)⟩

theorem releaseFrozen_notSaved {x : State} {launch team : Nat} (h : NotSaved x launch team) (col clk : Nat) : NotSaved (x.releaseFrozen col clk) launch team := by
  rw [State.releaseFrozen_eq]
  intro z hz
  rcases letGo_mem _ x hz with hz | ⟨w, hw, rfl⟩
  · exact h z hz
  · exact h w (List.mem_filter.1 hw).1

/-! ### A fault handled (R213) -/

variable (s : State) (cc : Nat)

/-- R213: the context of a system fault rolled back. -/
def State.rolledFor (s : State) (cc : Nat) : State :=
  let lo := (((s.getCc cc).trap.map Prod.fst).min?).getD (s.home (ccCol cc))
  (s.eventRecord cc ((recOf (s.getCc cc).trap lo).code) lo).rollback cc

/-- The state in which its record has been passed on. -/
def State.passedOn (s : State) (cc : Nat) : State :=
  { s.rolledFor cc with events := (s.rolledFor cc).events ++ [.systemFault cc (s.getCc cc).trap] }

/-- Then its column is frozen, and the records go to the save areas. -/
def State.faultFrozen (s : State) (col : Nat) : State := (s.freezeCol col 5 []).recordFault col

theorem systemFault_outcome (hcc : cc < 128) (htrap : (s.getCc cc).trap ≠ []) (hsys : (s.getCc cc).trapSys = true) (hrun : (s.getCc cc).st.runs = true)
    (hwait : s.mustWait cc = false) : exec (.systemFaultHandling cc) s =
    .next (if quarantineFault (s.getCc cc).trap then (s.passedOn cc).terminateTeam (s.getCc cc).launch (s.getCc cc).team
      else if ((s.passedOn cc).faultFrozen (ccCol cc)).recovAssisted then (s.passedOn cc).faultFrozen (ccCol cc)
      else (((s.passedOn cc).faultFrozen (ccCol cc)).terminateTeam (s.getCc cc).launch (s.getCc cc).team).releaseFrozen (ccCol cc)
        ((s.passedOn cc).faultFrozen (ccCol cc)).clock) := by
  refine next_of rfl (if_neg ?_)
  simp [htrap, hsys, hrun, hwait, hcc]

theorem State.recordFault_unstored (col : Nat) : (s.recordFault col).unstored = s.unstored := by
  unfold State.recordFault
  refine foldl_ind (P := fun y => y.unstored = s.unstored) (fun y w hy => ?_) _ _ rfl
  refine foldl_ind (P := fun y => y.unstored = s.unstored) (fun y sv hy => ?_) _ _ hy
  split
  · split
    · refine foldl_ind (P := fun y => y.unstored = s.unstored) (fun y x hy => ?_) _ _ hy
      exact foldl_ind (P := fun y => y.unstored = s.unstored) (fun z p hz => (z.store_unstored ..).trans hz) _ _ hy
    · exact hy
  · exact hy

theorem State.recordFault_keeps (col : Nat) : (s.recordFault col).cc = s.cc ∧ (s.recordFault col).swaps = s.swaps ∧ (s.recordFault col).events = s.events ∧
    (s.recordFault col).mgmt = s.mgmt := by
  have h := s.recordFault_unstored col
  exact ⟨(congrArg State.cc h :), (congrArg State.swaps h :), (congrArg State.events h :), (congrArg State.mgmt h :)⟩

/-- What passing a record on leaves: every context in its seat, and the record told. -/
theorem State.passedOn_keeps : (∀ k, ((s.passedOn cc).getCc k).seat = (s.getCc k).seat) ∧ (s.passedOn cc).mgmt = s.mgmt ∧
    Event.systemFault cc (s.getCc cc).trap ∈ (s.passedOn cc).events := by
  have h : Worked s (s.rolledFor cc) := ((Worked.refl s).eventRecord ..).rollback cc
  have hm := h.toKept.mgmt
  have hs := h.seat
  unfold State.passedOn
  generalize s.rolledFor cc = y at hm hs
  exact ⟨hs, hm, List.mem_append_right _ (List.mem_singleton.2 rfl)⟩

theorem ccKey_of_lt {cc : Nat} (h : cc < 128) : ccKey (ccCol cc) (cc % 4) = cc ∧ ccCol cc < 32 := by
  unfold ccKey ccCol
  rw [if_pos h, if_pos (Nat.mod_lt _ (by decide))]
  omega

/-- What a fault's freeze leaves: its context off the column, and its team saved with reason 5, held. -/
theorem faultFrozen_saves {y : State} {cc : Nat} (hcc : cc < 128) (hrun : (y.getCc cc).st.runs = true) :
    ((y.faultFrozen (ccCol cc)).getCc cc).st = .free ∧ (y.faultFrozen (ccCol cc)).mgmt = y.mgmt ∧ (∀ e ∈ y.events, e ∈ (y.faultFrozen (ccCol cc)).events) ∧
    ∃ w ∈ (y.faultFrozen (ccCol cc)).swaps, w.2.launch = (y.getCc cc).launch ∧ w.2.team = (y.getCc cc).team ∧ w.2.reason = 5 ∧ w.2.hold = true := by
  obtain ⟨hkey, hcol⟩ := ccKey_of_lt hcc
  have hsaves := y.freezeCol_saves (reason := 5) (k := cc % 4) (ls := []) hcol (Nat.mod_lt _ (by decide)) (by rw [hkey]; exact hrun) (.inl rfl)
  rw [hkey] at hsaves
  obtain ⟨hmgmt, -, hev⟩ := y.freezeCol_keeps (ccCol cc) 5 []
  obtain ⟨hccs, hsw, hevs, hmg⟩ := (y.freezeCol (ccCol cc) 5 []).recordFault_keeps (ccCol cc)
  obtain ⟨hfree, w, hw, hl, ht, hr, hh, -⟩ := hsaves
  refine ⟨?_, hmg.trans hmgmt, fun e he => ?_, w, ?_, hl, ht, hr, hh⟩
  · rw [State.getCc, State.faultFrozen, hccs]
    exact hfree
  · rw [State.faultFrozen, hevs]
    exact hev e he
  · rw [State.faultFrozen, hsw]
    exact hw

theorem systemFault_handled (hcc : cc < 128) (htrap : (s.getCc cc).trap ≠ []) (hsys : (s.getCc cc).trapSys = true) (hrun : (s.getCc cc).st.runs = true)
    (hwait : s.mustWait cc = false) : ∃ t, exec (.systemFaultHandling cc) s = .next t ∧ Event.systemFault cc (s.getCc cc).trap ∈ t.events ∧ (t.getCc cc).st = .free ∧
      ((s.mgmt.getLsbD 8 = false ∨ ∃ x ∈ (s.getCc cc).trap, x.2.code = 9) → NotSaved t (s.getCc cc).launch (s.getCc cc).team) ∧
      (s.mgmt.getLsbD 8 = true → (∀ x ∈ (s.getCc cc).trap, x.2.code ≠ 9) →
        ∃ w ∈ t.swaps, w.2.launch = (s.getCc cc).launch ∧ w.2.team = (s.getCc cc).team ∧ w.2.reason = 5 ∧ w.2.hold = true) := by
  have he := systemFault_outcome s cc hcc htrap hsys hrun hwait
  obtain ⟨hseat, hmgmt, hev⟩ := s.passedOn_keeps cc
  have hst : ((s.passedOn cc).getCc cc).st = (s.getCc cc).st := (congrArg Prod.fst (hseat cc) :)
  have hl : ((s.passedOn cc).getCc cc).launch = (s.getCc cc).launch := (congrArg (fun t => t.2.1) (hseat cc) :)
  have ht : ((s.passedOn cc).getCc cc).team = (s.getCc cc).team := (congrArg (fun t => t.2.2.1) (hseat cc) :)
  have hq : quarantineFault (s.getCc cc).trap = true ↔ ∃ x ∈ (s.getCc cc).trap, x.2.code = 9 := by
    unfold quarantineFault
    simp
  generalize s.passedOn cc = y at he hmgmt hev hst hl ht
  by_cases h9 : quarantineFault (s.getCc cc).trap = true
  · rw [if_pos h9] at he
    obtain ⟨hc, hn⟩ := (Culled.refl y).terminateTeam (s.getCc cc).launch (s.getCc cc).team
    have hfree := terminateTeam_frees y hcc
    rw [hl, ht] at hfree
    refine ⟨_, he, hc.events _ hev, hfree, fun _ => hn, fun _ hno => ?_⟩
    obtain ⟨x, hx, hx9⟩ := hq.1 h9
    exact absurd hx9 (hno x hx)
  · rw [if_neg h9] at he
    obtain ⟨hfree, hmg, hevs, w, hw, hwl, hwt, hwr, hwh⟩ := faultFrozen_saves (y := y) hcc (by rw [hst]; exact hrun)
    have hassist : (y.faultFrozen (ccCol cc)).recovAssisted = s.mgmt.getLsbD 8 := by
      rw [← hmgmt, ← hmg]
      exact (y.faultFrozen (ccCol cc)).assisted_iff 4
    rw [hassist] at he
    generalize y.faultFrozen (ccCol cc) = z at he hfree hevs hw
    by_cases h8 : s.mgmt.getLsbD 8 = true
    · rw [if_pos h8] at he
      refine ⟨z, he, hevs _ hev, hfree, fun h => ?_, fun _ _ => ⟨w, hw, hwl.trans hl, hwt.trans ht, hwr, hwh⟩⟩
      rcases h with h | h
      · rw [h8] at h
        exact nomatch h
      · exact absurd (hq.2 h) h9
    · rw [if_neg h8] at he
      obtain ⟨hc, hn⟩ := (Culled.refl z).terminateTeam (s.getCc cc).launch (s.getCc cc).team
      obtain ⟨hccs, -, -, hevents⟩ := (z.terminateTeam (s.getCc cc).launch (s.getCc cc).team).releaseFrozen_keeps (ccCol cc) z.clock
      refine ⟨_, he, ?_, ?_, fun _ => releaseFrozen_notSaved hn _ _, fun h => absurd h h8⟩
      · rw [hevents]
        exact hc.events _ (hevs _ hev)
      · rw [State.getCc, hccs]
        exact hc.free hcc hfree

/-! ### The host's choice (R254) -/

theorem recovery_outcome (resume : Bool) {w : Swap} {sv : SavedCtx} (h : recoveryOf s cc = some (w, sv)) :
    exec (.hostRecoveryChoice cc resume) s = .next ((if resume then s else s.terminateTeam w.launch w.team).releaseFrozen sv.col sv.frzClk) := by
  change execHostRecoveryChoice cc resume s = _
  unfold execHostRecoveryChoice
  rw [← recoveryOf, h]

/-- Teams frozen at a clock on a column are let go, where they are still saved. -/
theorem releaseFrozen_lets {x y : State} {col clk : Nat} (h : Culled x y) {v : Nat × Swap} (hv : v ∈ x.swaps) (hr : v.2.reason = 5)
    (hc : ∃ u ∈ v.2.ctxs, u.col = col ∧ u.frzClk = clk) {z : Nat × Swap} (hz : ((y.releaseFrozen col clk).swaps.find? fun u => u.1 == v.1) = some z) :
    z.2.hold = false := by
  obtain ⟨p, hp⟩ := h.swaps
  rw [State.releaseFrozen_eq] at hz
  refine letGo_find v.1 _ y ?_ z hz
  by_cases hpv : p v.1 = true
  · refine .inl ⟨v, List.mem_filter.2 ⟨?_, ?_⟩, rfl⟩
    · rw [hp]
      exact List.mem_filter.2 ⟨hv, hpv⟩
    · obtain ⟨u, hu, huc, huf⟩ := hc
      rw [hr, Bool.and_eq_true]
      exact ⟨rfl, List.any_eq_true.2 ⟨u, hu, by rw [huc, huf]; simp⟩⟩
  · refine .inr fun u hu => ?_
    have hmem := List.mem_of_find?_eq_some hu
    have hkey : u.1 = v.1 := by simpa using List.find?_some hu
    rw [hp] at hmem
    exact absurd (hkey ▸ (List.mem_filter.1 hmem).2) hpv

/-- Settles O48. -/
theorem systemFaults : Obligations.SystemFaults := by
  refine ⟨fun s cc hcc htrap hsys hrun hwait => systemFault_handled s cc hcc htrap hsys hrun hwait, fun s cc resume w sv h => ⟨_, recovery_outcome s cc resume h, ?_, ?_, ?_⟩⟩
  · intro x hx hr hc z hz
    cases resume with
    | true => exact releaseFrozen_lets (Culled.refl s) hx hr hc hz
    | false => exact releaseFrozen_lets ((Culled.refl s).terminateTeam w.launch w.team).1 hx hr hc hz
  · rintro rfl
    exact releaseFrozen_notSaved ((Culled.refl s).terminateTeam w.launch w.team).2 _ _
  · rintro rfl
    obtain ⟨hcc, hcd, hmem, -⟩ := s.releaseFrozen_keeps sv.col sv.frzClk
    exact ⟨hcd, hcc, hmem⟩

end Sys2Proof.Machine
end

section
/-! SUPPORT. Freezes, swaps and the end of a spill (R98, R99, R227 to R229, R233, R254). -/

set_option Elab.async false

namespace Sys2Proof.Machine

open Claims

variable (s : State)

/-! ### A freeze (R227) -/

theorem freezeFrame_saves {col reason k : Nat} {l : Option Nat} (hcol : col < 32) (h1 : 1 ≤ reason) (h5 : reason ≤ 5) (hk : k < 4)
    (hrun : (s.getCc (ccKey col k)).st.runs = true) (hl : ∀ n, l = some n → (s.getCc (ccKey col k)).launch = n) :
    ∃ t, exec (.freezeFrame col reason l) s = .next t ∧ (t.getCc (ccKey col k)).st = .free ∧
      ∃ w ∈ t.swaps, w.2.launch = (s.getCc (ccKey col k)).launch ∧ w.2.team = (s.getCc (ccKey col k)).team ∧ w.2.reason = reason ∧
        ∃ sv ∈ w.2.ctxs, sv.col = col ∧ sv.ctx = k ∧ sv.frzClk = s.clock := by
  have hlist : l.toList = [] ∨ (s.getCc (ccKey col k)).launch ∈ l.toList := by
    cases l with
    | none => exact .inl rfl
    | some n => exact .inr (List.mem_singleton.2 (hl n rfl))
  obtain ⟨hfree, w, hw, hwl, hwt, hwr, -, u, hu, hut⟩ := s.freezeCol_saves (reason := reason) hcol hk hrun hlist
  refine ⟨_, next_of rfl (if_pos ?_), hfree, w, hw, hwl, hwt, hwr, u, hu, ?_⟩
  · simp [hcol, h1, h5]
  · injection hut with hc hrest
    injection hrest with hx hrest
    injection hrest with hclk _
    exact ⟨hc, hx, hclk⟩

/-! ### A team swapped out (R98) -/

/-- A column's contexts of a team captured, with the clocks of their spills. -/
def State.swapCol (s : State) (ccs : List Nat) (col : Nat) : State × List SavedCtx :=
  let (t, l) := s.captureCol col ((ccs.filter fun cc => ccCol cc == col).map (· % 4)) 3
  (t, if t.saveAssisted then l else t.spillTimes (t.clock + 64) l)

/-- A team's contexts captured, column by column. -/
def State.swapCols (s : State) (ccs cols : List Nat) : State × List SavedCtx :=
  cols.foldl (fun p col => ((p.1.swapCol ccs col).1, p.2 ++ (p.1.swapCol ccs col).2)) (s, [])

/-- The columns that a swapped team has left. -/
def State.swapLeft (s : State) (cols : List Nat) (launch : Nat) : State :=
  cols.foldl (fun s c => (s.freePair c launch).updCol c fun x => { x with fromClk := Nat.max x.fromClk (s.clock + 64) }) s

theorem teamSwapOut_outcome {n team : Nat} (h : s.swapEligible n team = true) :
    exec (.teamSwapOut n team) s = .next (((s.swapCols (s.teamCcs n team) ((s.teamCcs n team).map ccCol).eraseDups).1.addSwap n team 3 false false none
      (s.swapCols (s.teamCcs n team) ((s.teamCcs n team).map ccCol).eraseDups).2).swapLeft ((s.teamCcs n team).map ccCol).eraseDups n) :=
  next_of rfl (if_neg (by rw [h]; decide))

theorem State.swapCol_frees (ccs : List Nat) (col : Nat) {cc : Nat} (hcc : cc < 128) (h : (s.getCc cc).st = .free ∨ (cc ∈ ccs ∧ ccCol cc = col)) :
    ((s.swapCol ccs col).1.getCc cc).st = .free := by
  unfold State.swapCol
  refine s.captureCol_frees col _ 3 (h.imp_right fun ⟨hm, hc⟩ => ⟨cc % 4, ?_, ?_⟩)
  · exact List.mem_map.2 ⟨cc, List.mem_filter.2 ⟨hm, beq_iff_eq.2 hc⟩, rfl⟩
  · rw [← hc]
    exact (ccKey_of_lt hcc).1.symm

theorem swapCols_frees (ccs : List Nat) {cc : Nat} (hcc : cc < 128) (cols : List Nat) : ∀ p : State × List SavedCtx,
    ((p.1.getCc cc).st = .free ∨ (cc ∈ ccs ∧ ccCol cc ∈ cols)) →
      ((cols.foldl (fun p col => ((p.1.swapCol ccs col).1, p.2 ++ (p.1.swapCol ccs col).2)) p).1.getCc cc).st = .free := by
  induction cols with
  | nil => exact fun p h => h.resolve_right fun ⟨_, hc⟩ => List.not_mem_nil hc
  | cons col cols ih =>
    intro p h
    rw [List.foldl_cons]
    refine ih _ ?_
    rcases h with h | ⟨hm, hc⟩
    · exact .inl (p.1.swapCol_frees ccs col hcc (.inl h))
    · rcases List.mem_cons.1 hc with hc | hc
      · exact .inl (p.1.swapCol_frees ccs col hcc (.inr ⟨hm, hc⟩))
      · exact .inr ⟨hm, hc⟩

theorem State.freePair_keeps (col l : Nat) : (s.freePair col l).cc = s.cc ∧ (s.freePair col l).swaps = s.swaps := by
  unfold State.freePair
  split
  · exact ⟨rfl, rfl⟩
  · exact ⟨rfl, rfl⟩

theorem State.swapLeft_keeps (cols : List Nat) (launch : Nat) : (s.swapLeft cols launch).cc = s.cc ∧ (s.swapLeft cols launch).swaps = s.swaps := by
  unfold State.swapLeft
  refine foldl_ind (P := fun y => y.cc = s.cc ∧ y.swaps = s.swaps) (fun y c hy => ?_) _ _ ⟨rfl, rfl⟩
  exact ⟨(y.freePair_keeps c launch).1.trans hy.1, (y.freePair_keeps c launch).2.trans hy.2⟩

theorem teamSwapOut_saves {n team : Nat} (h : s.swapEligible n team = true) :
    ∃ t, exec (.teamSwapOut n team) s = .next t ∧ (∀ cc ∈ s.teamCcs n team, cc < 128 → (t.getCc cc).st = .free) ∧
      ∃ w ∈ t.swaps, w.2.launch = n ∧ w.2.team = team ∧ w.2.reason = 3 ∧ w.2.ret = false ∧ w.2.hold = false := by
  refine ⟨_, teamSwapOut_outcome s h, fun cc hcc hlt => ?_, ?_⟩
  · have hfree := swapCols_frees (s.teamCcs n team) hlt ((s.teamCcs n team).map ccCol).eraseDups (s, [])
      (.inr ⟨hcc, List.mem_eraseDups.2 (List.mem_map.2 ⟨cc, hcc, rfl⟩)⟩)
    rw [← State.swapCols] at hfree
    generalize s.swapCols (s.teamCcs n team) ((s.teamCcs n team).map ccCol).eraseDups = p at hfree
    have hadd : (p.1.addSwap n team 3 false false none p.2).cc = p.1.cc := (congrArg State.cc (p.1.addSwap_adds n team 3 false false none p.2).1 :)
    rw [State.getCc, (State.swapLeft_keeps _ _ _).1, hadd]
    exact hfree
  · generalize s.swapCols (s.teamCcs n team) ((s.teamCcs n team).map ccCol).eraseDups = p
    obtain ⟨-, -, w, hs, hl, ht, hr, hret, hh, -⟩ := p.1.addSwap_adds n team 3 false false none p.2
    refine ⟨(p.1.nextSwap, w), ?_, hl, ht, hr, hret, hh⟩
    rw [(State.swapLeft_keeps _ _ _).2, hs]
    exact SMap.mem_put_self ..

/-! ### A return, and a release (R99, R237) -/

theorem teamReturn_outcome {n : Nat} {w : Swap} (h : (s.swaps.find? fun x => x.1 == n) = some (n, w)) :
    (w.hold = true → w.reason ≠ 5 → exec (.teamReturn n) s = .next { s with swaps := SMap.put s.swaps n { w with hold := false } }) ∧
    (w.hold = false → w.ret = false → (∃ sv ∈ w.ctxs, s.savedClear sv = true) →
      exec (.teamReturn n) s = .next { s with swaps := SMap.put s.swaps n { w with ret := true, turn := s.clock + 1 } }) := by
  have hexec : exec (.teamReturn n) s = .next (
      if w.hold then (if w.reason = 5 then s else { s with swaps := SMap.put s.swaps n { w with hold := false } })
      else if !w.ret && w.ctxs.any s.savedClear then { s with swaps := SMap.put s.swaps n { w with ret := true, turn := s.clock + 1 } } else s) := by
    change execTeamReturn n s = _
    unfold execTeamReturn
    rw [h]
  rw [hexec]
  refine ⟨fun hh hr => by rw [if_pos hh, if_neg hr], fun hh hr hc => ?_⟩
  rw [if_neg (by rw [hh]; decide), if_pos (by rw [hr, List.any_eq_true.2 hc]; rfl)]

/-! ### The end of a spill (R233) -/

theorem State.writeFree_unstored (base : Nat) (shared : Bool) : { (s.writeFree base shared).unstored with freeCtr := 0 } = { s.unstored with freeCtr := 0 } := by
  unfold State.writeFree
  refine foldl_ind (P := fun y => { y.unstored with freeCtr := 0 } = { s.unstored with freeCtr := 0 }) (fun y x hy => ?_) _ _ rfl
  dsimp only
  rw [State.store_unstored]
  exact hy

/-- Save areas written: nothing but storage and the free values taken for it. -/
theorem State.writeAreas_unstored (l : Launch) (sv : SavedCtx) : { (s.writeAreas l sv).unstored with freeCtr := 0 } = { s.unstored with freeCtr := 0 } := by
  unfold State.writeAreas
  refine foldl_ind (P := fun y => { y.unstored with freeCtr := 0 } = { s.unstored with freeCtr := 0 }) (fun y x hy => ?_) _ _ rfl
  have hstep {α : Type} (f : α → Nat) (g : α → List Byte) (l : List α) (y : State) :
      (l.foldl (fun (s : State) z => s.store (f z) (g z)) y).unstored = y.unstored :=
    foldl_ind (f := fun (s : State) z => s.store (f z) (g z)) (P := fun z => z.unstored = y.unstored) (fun z a hz => (State.store_unstored ..).trans hz) l y rfl
  have hbad {α : Type} (f : α → Nat) (l : List α) (y : State) : (l.foldl (fun (s : State) z => s.addPoison (f z) 64) y).unstored = y.unstored :=
    foldl_ind (f := fun (s : State) z => s.addPoison (f z) 64) (P := fun z => z.unstored = y.unstored) (fun _ _ hz => hz) l y rfl
  dsimp only
  rw [hbad, hstep, State.writeFree_unstored, hstep]
  exact hy

/-- The state in which a spilled context's areas have been written. -/
def State.areasWritten (s : State) (sv : SavedCtx) : State := match s.launch? sv.cc.launch with
  | some l => s.writeAreas l sv
  | none => s

/-- The bank locks of a spill given up. -/
def State.unlockSpill (s : State) (sv : SavedCtx) : State :=
  if sv.shared then sv.dies.foldl (fun s d => s.updCore (coreKey d.1 sv.col) fun k => { k with locks := k.locks.filter fun r => r.uid != sv.lock }) s else s

theorem State.endSpill_eq (n i : Nat) (w : Swap) (sv : SavedCtx) : s.endSpill n i w sv =
    let t := (s.areasWritten sv).unlockSpill sv
    { t with swaps := SMap.put t.swaps n { w with ctxs := w.ctxs.set i { sv with spilled := true } } } := rfl

theorem State.areasWritten_keeps (sv : SavedCtx) : (s.areasWritten sv).cd = s.cd ∧ (s.areasWritten sv).cc = s.cc ∧ (s.areasWritten sv).swaps = s.swaps := by
  unfold State.areasWritten
  split
  · rename_i l _
    have h := s.writeAreas_unstored l sv
    exact ⟨(congrArg State.cd h :), (congrArg State.cc h :), (congrArg State.swaps h :)⟩
  · exact ⟨rfl, rfl, rfl⟩

theorem State.unlockSpill_keeps (sv : SavedCtx) : (s.unlockSpill sv).cd = s.cd ∧ (s.unlockSpill sv).cc = s.cc ∧ (s.unlockSpill sv).swaps = s.swaps := by
  unfold State.unlockSpill
  split
  · refine foldl_ind (P := fun y => y.cd = s.cd ∧ y.cc = s.cc ∧ y.swaps = s.swaps) (fun y d hy => ?_) _ _ ⟨rfl, rfl, rfl⟩
    exact hy
  · exact ⟨rfl, rfl, rfl⟩

/-- A core without the lock of a spill. -/
def Core.lacks (c : Core) (u : Nat) : Prop := ∀ r ∈ c.locks, r.uid ≠ u

theorem unlockCores_lack (u : Nat) {α : Type} (key : α → Nat) (k : Nat) (ds : List α) : ∀ x : State, ((x.getCore k).lacks u ∨ ∃ d ∈ ds, key d = k) →
    ((ds.foldl (fun s d => s.updCore (key d) fun k => { k with locks := k.locks.filter fun r => r.uid != u }) x).getCore k).lacks u := by
  induction ds with
  | nil => exact fun x h => h.resolve_right fun ⟨_, hd, _⟩ => List.not_mem_nil hd
  | cons d ds ih =>
    intro x h
    rw [List.foldl_cons]
    refine ih _ ?_
    by_cases hk : key d = k
    · left
      rw [hk, State.updCore, State.getCore_setCore_same]
      intro r hr
      have := (List.mem_filter.1 hr).2
      exact bne_iff_ne.1 this
    · rcases h with h | ⟨e, he, hek⟩
      · left
        rw [State.updCore, State.getCore_setCore_other _ _ _ _ (Ne.symm hk)]
        exact h
      · rcases List.mem_cons.1 he with rfl | he
        · exact absurd hek hk
        · exact .inr ⟨e, he, hek⟩

/-- A position of a list stands among its numbered members. -/
theorem mem_numbered {α : Type} {l : List α} {i : Nat} {x : α} : (i, x) ∈ numbered l ↔ l[i]? = some x := by
  unfold numbered
  constructor
  · intro h
    obtain ⟨j, hj, he⟩ := List.getElem_of_mem h
    rw [List.getElem_zip, List.getElem_range] at he
    injection he with h1 h2
    rw [List.length_zip, List.length_range, Nat.min_self] at hj
    rw [← h1, List.getElem?_eq_getElem hj, h2]
  · intro h
    obtain ⟨hi, he⟩ := List.getElem?_eq_some_iff.1 h
    refine List.mem_iff_getElem.2 ⟨i, by rw [List.length_zip, List.length_range, Nat.min_self]; exact hi, ?_⟩
    rw [List.getElem_zip, List.getElem_range, he]

/-- Which saved context's spill ends, where a column context is named. -/
def State.endingSpill (s : State) (cc : Nat) : Option (Nat × Nat × Swap × SavedCtx) := s.swaps.findSome? fun w => (numbered w.2.ctxs).findSome? fun x =>
  if ccKey x.2.col x.2.ctx == cc && x.2.spillDue s.clock && !s.evRuns x.2 then some (w.1, x.1, w.2, x.2) else none

theorem spillComplete_outcome {cc n i : Nat} {w : Swap} {sv : SavedCtx} (h : s.endingSpill cc = some (n, i, w, sv)) :
    exec (.spillComplete cc) s = .next (s.endSpill n i w sv) := by
  change execSpillComplete cc s = _
  unfold execSpillComplete
  rw [← State.endingSpill, h]
  rfl

theorem endingSpill_of_only {n i : Nat} {w : Swap} {sv : SavedCtx} (hw : (n, w) ∈ s.swaps) (hi : w.ctxs[i]? = some sv) (hdue : sv.spillDue s.clock = true)
    (hev : s.evRuns sv = false) (honly : ∀ m j v u, (m, v) ∈ s.swaps → v.ctxs[j]? = some u → ccKey u.col u.ctx = ccKey sv.col sv.ctx → u.spillDue s.clock = true →
      m = n ∧ v = w ∧ j = i) : s.endingSpill (ccKey sv.col sv.ctx) = some (n, i, w, sv) := by
  cases h : s.endingSpill (ccKey sv.col sv.ctx) with
  | none =>
    have h2 := List.findSome?_eq_none_iff.1 (List.findSome?_eq_none_iff.1 h (n, w) hw) (i, sv) (mem_numbered.2 hi)
    rw [if_pos (by rw [beq_self_eq_true, hdue, hev]; rfl)] at h2
    exact nomatch h2
  | some r =>
    obtain ⟨⟨m, v⟩, hv, h1⟩ := List.exists_of_findSome?_eq_some h
    obtain ⟨⟨j, u⟩, hu, h2⟩ := List.exists_of_findSome?_eq_some h1
    split at h2
    · rename_i hc
      rw [Bool.and_eq_true, Bool.and_eq_true] at hc
      obtain ⟨⟨hkey, hd⟩, -⟩ := hc
      have hju := mem_numbered.1 hu
      obtain ⟨rfl, rfl, rfl⟩ := honly m j v u hv hju (eq_of_beq hkey) hd
      obtain rfl := Option.some.inj (hi.symm.trans hju)
      exact h2.symm
    · exact nomatch h2

theorem spillComplete_ends {n i due : Nat} {w : Swap} {sv : SavedCtx} (hw : (n, w) ∈ s.swaps) (hi : w.ctxs[i]? = some sv) (hsp : sv.spill = some due)
    (hdue : due ≤ s.clock) (hns : sv.spilled = false) (hrep : sv.replied s.clock = true) (hev : s.evRuns sv = false)
    (honly : ∀ m j v u, (m, v) ∈ s.swaps → v.ctxs[j]? = some u → ccKey u.col u.ctx = ccKey sv.col sv.ctx → u.spillDue s.clock = true → m = n ∧ v = w ∧ j = i) :
    ∃ t, exec (.spillComplete (ccKey sv.col sv.ctx)) s = .next t ∧
      t.swaps = SMap.put s.swaps n { w with ctxs := w.ctxs.set i { sv with spilled := true } } ∧ t.cd = s.cd ∧ t.cc = s.cc ∧
      (sv.shared = true → ∀ d ∈ sv.dies, ∀ r ∈ (t.getCore (coreKey d.1 sv.col)).locks, r.uid ≠ sv.lock) := by
  have hd : sv.spillDue s.clock = true := by
    unfold SavedCtx.spillDue
    rw [hns, hrep, hsp]
    exact decide_eq_true hdue
  obtain ⟨hcd, hcc, hsw⟩ := s.areasWritten_keeps sv
  obtain ⟨hcd', hcc', hsw'⟩ := (s.areasWritten sv).unlockSpill_keeps sv
  refine ⟨_, spillComplete_outcome s (endingSpill_of_only s hw hi hd hev honly), ?_, hcd'.trans hcd, hcc'.trans hcc, fun hsh d hd => ?_⟩
  · rw [State.endSpill_eq]
    exact congrArg (SMap.put · n _) (hsw'.trans hsw)
  · rw [State.endSpill_eq]
    refine unlockCores_lack sv.lock (fun d => coreKey d.1 sv.col) _ sv.dies (s.areasWritten sv) (.inr ⟨d, hd, rfl⟩) |> fun h => ?_
    have he : (s.areasWritten sv).unlockSpill sv = sv.dies.foldl (fun s d => s.updCore (coreKey d.1 sv.col) fun k => { k with locks := k.locks.filter fun r => r.uid != sv.lock }) (s.areasWritten sv) := by
      unfold State.unlockSpill
      exact if_pos hsh
    rw [← he] at h
    exact h

/-! ### SVBASE (R229, R254) -/

theorem svbaseWritten_toNat (old v : DWord) : svbaseWritten old v = BitVec.ofNat 64
    ((if 20 ≤ v.toNat / 2 ^ 52 % 2 ^ 6 ∧ v.toNat / 2 ^ 52 % 2 ^ 6 ≤ 40 then v.toNat / 2 ^ 52 % 2 ^ 6 else old.toNat / 2 ^ 52 % 2 ^ 6) * 2 ^ 52 +
      v.toNat / 2 ^ 12 % 2 ^ 40 * 2 ^ 12) := by
  unfold svbaseWritten bits
  simp only [Bool.and_eq_true, decide_eq_true_eq]

/-- SVBASE of a partition written. -/
def State.withSvbase (s : State) (p : Nat) (v : DWord) : State := s.updPart p fun q => { q with svbase := svbaseWritten q.svbase v }

theorem State.withSvbase_eq (p : Nat) (v : DWord) : (s.updPart p fun q => { q with svbase := svbaseWritten (s.getPart p).svbase v }) = s.withSvbase p v := by
  unfold State.withSvbase State.updPart
  rfl

theorem State.withSvbase_getPart (p : Nat) (v : DWord) : ((s.withSvbase p v).getPart p).svbase = svbaseWritten (s.getPart p).svbase v ∧
    ∀ k ≠ p, (s.withSvbase p v).getPart k = s.getPart k := by
  unfold State.withSvbase
  exact ⟨by rw [State.getPart_updPart_same], fun k hk => State.getPart_updPart_other _ _ hk⟩

theorem svbaseWrite_outcome {p : Nat} {fw : Bool} {v : DWord} (hp : p < 32) (h3 : s.mgmt.getLsbD 3 = true)
    (h2 : s.mgmt.getLsbD 2 = false → ∀ l ∈ s.launches, l.2.part = p → l.2.save = none) (hf : s.mgmt.getLsbD 2 = true → fw = false) :
    (∀ n i sv, (if fw then none else s.waitingSpill p) = some (n, i, sv) → exec (.svbaseWrite p fw v) s =
      .next ((s.withSvbase p v).startSpill n i sv (svbaseWritten (s.getPart p).svbase v))) ∧
    ((if fw then none else s.waitingSpill p) = none → exec (.svbaseWrite p fw v) s = .next (s.withSvbase p v)) := by
  have hb2 : s.saveAssisted = s.mgmt.getLsbD 2 := s.assisted_iff 1
  have hb3 : (bits s.mgmt.toNat 3 1 == 1) = true := (s.expert_iff 1).trans h3
  have hexec : exec (.svbaseWrite p fw v) s = execSvbaseWrite p fw v s := rfl
  have hin : ¬p ≥ 32 := Nat.not_le.2 hp
  rw [hexec]
  unfold execSvbaseWrite
  rw [if_neg hin]
  refine ⟨fun n i sv h => by rw [h, ← s.withSvbase_eq], fun h => ?_⟩
  rw [h]
  dsimp only
  rw [if_neg (show ¬bits s.mgmt.toNat 3 1 = 0 by rw [eq_of_beq hb3]; decide), hb2]
  cases hm : s.mgmt.getLsbD 2 with
  | true => rw [hf hm]; rfl
  | false =>
    have hno : ¬(s.launches.any fun l => l.2.part == p && l.2.save.isSome) = true := by
      intro hany
      obtain ⟨l, hl, hc⟩ := List.any_eq_true.1 hany
      rw [Bool.and_eq_true] at hc
      rw [h2 hm l hl (eq_of_beq hc.1)] at hc
      exact nomatch hc.2
    exact congrArg _ (if_neg hno)

theorem startSpill_clock (n i : Nat) (sv : SavedCtx) : ∃ e, s.clock + sv.areaClocks s ≤ e ∧ ∀ v : DWord,
    (s.startSpill n i sv v).swaps = s.swaps.map fun w => if w.1 = n then (n, { w.2 with ctxs := w.2.ctxs.set i { sv with spill := some e, svb := some v } }) else w := by
  refine ⟨_, Nat.add_le_add_right (?_ : s.clock ≤ _) _, fun v => rfl⟩
  have hin (l : List SavedCtx) : ∀ t, s.clock ≤ t → s.clock ≤ l.foldl (fun t x => if x.col = sv.col && !x.spilled then Nat.max t (x.spill.getD t) else t) t := by
    induction l with
    | nil => exact fun _ h => h
    | cons x l ih =>
      intro t h
      rw [List.foldl_cons]
      refine ih _ ?_
      split
      · exact h.trans (Nat.le_max_left ..)
      · exact h
  have hout (l : List (Nat × Swap)) : ∀ t, s.clock ≤ t →
      s.clock ≤ l.foldl (fun t w => w.2.ctxs.foldl (fun t x => if x.col = sv.col && !x.spilled then Nat.max t (x.spill.getD t) else t) t) t := by
    induction l with
    | nil => exact fun _ h => h
    | cons w l ih => exact fun t h => ih _ (hin _ t h)
  exact hout _ _ (Nat.le_refl _)

theorem svbaseWrite_writes {p : Nat} {fw : Bool} {v : DWord} (hp : p < 32) (h3 : s.mgmt.getLsbD 3 = true)
    (h2 : s.mgmt.getLsbD 2 = false → ∀ l ∈ s.launches, l.2.part = p → l.2.save = none) (hf : s.mgmt.getLsbD 2 = true → fw = false) :
    ∃ t, exec (.svbaseWrite p fw v) s = .next t ∧ t.mem = s.mem ∧ t.cd = s.cd ∧ t.cc = s.cc ∧ (∀ k ≠ p, t.getPart k = s.getPart k) ∧
      ((fw = true ∨ s.waitingSpill p = none) → t.swaps = s.swaps) ∧
      (∀ n i sv, fw = false → s.waitingSpill p = some (n, i, sv) → ∃ e, s.clock + sv.areaClocks s ≤ e ∧
        t.swaps = s.swaps.map fun w =>
          if w.1 = n then (n, { w.2 with ctxs := w.2.ctxs.set i { sv with spill := some e, svb := some (t.getPart p).svbase } }) else w) ∧
      (t.getPart p).svbase = svbaseWritten (s.getPart p).svbase v := by
  obtain ⟨hsome, hnone⟩ := svbaseWrite_outcome s (v := v) hp h3 h2 hf
  obtain ⟨hsame, hother⟩ := s.withSvbase_getPart p v
  cases h : (if fw then none else s.waitingSpill p) with
  | none =>
    refine ⟨_, hnone h, rfl, rfl, rfl, hother, fun _ => rfl, fun n i sv hfw hw => ?_, hsame⟩
    rw [hfw, if_neg (by decide), hw] at h
    exact nomatch h
  | some r =>
    obtain ⟨n, i, sv⟩ := r
    obtain ⟨e, he, hs⟩ := startSpill_clock (s.withSvbase p v) n i sv
    refine ⟨_, hsome n i sv h, rfl, rfl, rfl, hother, fun hc => ?_, fun m j u hfw hw => ?_, hsame⟩
    · rcases hc with hc | hc
      · rw [hc] at h
        exact nomatch h
      · rw [hc, ite_self] at h
        exact nomatch h
    · rw [hfw, if_neg (by decide), hw] at h
      obtain ⟨rfl, rfl, rfl⟩ : m = n ∧ j = i ∧ u = sv := by simpa using h
      have hp : ((s.withSvbase p v).startSpill m j u (svbaseWritten (s.getPart p).svbase v)).getPart p = (s.withSvbase p v).getPart p := rfl
      exact ⟨e, he, by rw [hp, hsame]; exact hs _⟩

end Sys2Proof.Machine
end

section
/-! SUPPORT. Teams restored (R99, R233). -/

set_option Elab.async false

namespace Sys2Proof.Machine

open Claims

/-! ### What a column context still has queued on a core -/

/-- A command of a context stands in one of a core's queues. -/
def Core.has (c : Core) (ck : Nat) : Bool :=
  (c.ch.any fun x => x.2.q.any fun y => y.ck == ck) || (c.direct.any fun y => y.ck == ck) || (c.mxq.any fun y => y.ck == ck) || (c.evq.any fun y => y.ck == ck)

theorem Core.has_iff {c : Core} {ck : Nat} : c.has ck = true ↔ (∃ x ∈ c.ch, ∃ y ∈ x.2.q, y.ck = ck) ∨ (∃ y ∈ c.direct, y.ck = ck) ∨ (∃ y ∈ c.mxq, y.ck = ck) ∨
    ∃ y ∈ c.evq, y.ck = ck := by
  simp only [Core.has, Bool.or_eq_true, List.any_eq_true, beq_iff_eq, or_assoc]

/-- Nothing of a column context stands in a queue, in a circuit, or in a spill that goes on. -/
def State.unused (s : State) (col k : Nat) : Bool :=
  !(s.swaps.any fun w => w.2.ctxs.any fun sv => sv.col == col && sv.ctx == k && !sv.spilled) &&
    allDies.all fun d => !(s.getCore (coreKey d col)).has (ctxKey d col k) && !(s.eng.any fun e => e.2.circ.any fun x => x.2.any fun y => y.ck == ctxKey d col k)

theorem State.ctxFree_iff (s : State) (col k : Nat) : s.ctxFree col k = true ↔ (s.getCc (ccKey col k)).st = .free ∧ s.unused col k = true := by
  unfold State.ctxFree State.unused Core.has
  simp only [Bool.and_eq_true, beq_iff_eq, Bool.not_or, and_assoc]

/-- A state after commands of contexts that `P` names have been queued. -/
structure Queued (P : Nat → Prop) (s t : State) : Prop where
  cd : t.cd = s.cd
  cc : t.cc = s.cc
  swaps : t.swaps = s.swaps
  eng : t.eng = s.eng
  has : ∀ j ck, ¬P ck → (t.getCore j).has ck = true → (s.getCore j).has ck = true

theorem State.writeBanks_unstored (x : State) (core : Nat) (banks : List Nat) (cells : List (Nat × Byte)) (bad : List Nat) :
    (x.writeBanks core banks cells bad).unstored = x.unstored := by
  have hcells (cells : List (Nat × Byte)) (y : State) : (cells.foldl (fun s x => s.writeByte (2 ^ 52 + core * 2 ^ 21 + x.1) x.2) y).unstored = y.unstored :=
    foldl_ind (f := fun s x => s.writeByte (2 ^ 52 + core * 2 ^ 21 + x.1) x.2) (P := fun z => z.unstored = y.unstored) (fun _ _ hz => hz) cells y rfl
  exact hcells cells _

namespace Queued

variable {P : Nat → Prop} {s x y : State}

theorem refl (P : Nat → Prop) (s : State) : Queued P s s := ⟨rfl, rfl, rfl, rfl, fun _ _ _ => id⟩

theorem of_eq (h : Queued P s x) (hcd : y.cd = x.cd := by rfl) (hcc : y.cc = x.cc := by rfl) (hs : y.swaps = x.swaps := by rfl) (he : y.eng = x.eng := by rfl)
    (hk : y.core = x.core := by rfl) : Queued P s y :=
  ⟨hcd.trans h.cd, hcc.trans h.cc, hs.trans h.swaps, he.trans h.eng, fun j ck hp hh => h.has j ck hp (by rw [State.getCore, hk] at hh; exact hh)⟩

theorem updCore (h : Queued P s x) (k : Nat) {F : Core → Core} (hF : ∀ c ck, ¬P ck → (F c).has ck = true → c.has ck = true := by exact fun _ _ _ => id) :
    Queued P s (x.updCore k F) := by
  refine ⟨h.cd, h.cc, h.swaps, h.eng, fun j ck hp hh => h.has j ck hp ?_⟩
  by_cases hj : j = k
  · subst hj
    rw [State.updCore, State.getCore_setCore_same] at hh
    exact hF _ _ hp hh
  · rwa [State.updCore, State.getCore_setCore_other _ _ _ _ hj] at hh

theorem of_store (h : Queued P s x) (hu : y.unstored = x.unstored) : Queued P s y :=
  h.of_eq (congrArg State.cd hu :) (congrArg State.cc hu :) (congrArg State.swaps hu :) (congrArg State.eng hu :) (congrArg State.core hu :)

theorem writeBanks (h : Queued P s x) (core : Nat) (banks : List Nat) (cells : List (Nat × Byte)) (bad : List Nat) : Queued P s (x.writeBanks core banks cells bad) :=
  h.of_store (x.writeBanks_unstored ..)

theorem writeShared (h : Queued P s x) (k : Kernel) (sv : SavedCtx) (col : Nat) : Queued P s (x.writeShared k sv col) := by
  unfold State.writeShared
  split
  · exact h
  · exact foldl_ind (P := Queued P s) (fun _ _ hy => (hy.updCore _).writeBanks ..) _ _ h

theorem trackCmd (h : Queued P s x) (core uid ck : Nat) (fp : List Region) (wr rd : List Nat) : Queued P s (x.trackCmd core uid ck fp wr rd) := h.updCore _

/-- A command of a named context, put last in a channel. -/
theorem updChan_append (h : Queued P s x) (core ch : Nat) {c : CopyCmd} (hc : P c.ck) (next : Channel → BitVec 32) :
    Queued P s (x.updChan core ch fun q => { q with q := q.q ++ [c], next := next q }) := by
  refine h.updCore _ fun k ck hp hh => ?_
  rw [Core.has_iff] at hh ⊢
  refine hh.imp_left fun ⟨z, hz, y, hy, he⟩ => ?_
  have hget : SMap.get {} k.ch ch = ({} : Channel) ∨ (ch, SMap.get {} k.ch ch) ∈ k.ch := by
    by_cases hg : SMap.get {} k.ch ch = ({} : Channel)
    · exact .inl hg
    · exact .inr (SMap.mem_of_get_ne hg)
  have hmem : z = (ch, { SMap.get {} k.ch ch with q := (SMap.get {} k.ch ch).q ++ [c], next := next (SMap.get {} k.ch ch) }) ∨ z ∈ k.ch := by
    unfold SMap.upd SMap.set at hz
    dsimp only at hz
    split at hz
    · rw [SMap.erase_eq_filter] at hz
      exact .inr (List.mem_filter.1 hz).1
    · exact SMap.mem_of_mem_put hz
  rcases hmem with rfl | hz
  · rcases List.mem_append.1 hy with hy | hy
    · rcases hget with hg | hg
      · rw [hg] at hy
        exact absurd hy List.not_mem_nil
      · exact ⟨_, hg, y, hy, he⟩
    · rw [List.mem_singleton.1 hy] at he
      exact absurd (he ▸ hc) hp
  · exact ⟨z, hz, y, hy, he⟩

theorem requeueCopy (h : Queued P s x) (col ck : Nat) (hck : P ck) (z : Nat × Nat × CopyCmd) : Queued P s (x.requeueCopy col ck z) := by
  unfold State.requeueCopy
  exact (h.updChan_append (c := { z.2.2 with ck := ck, ident := _ }) _ _ hck fun q => q.next + 1#32).trackCmd ..

theorem timeXmits_cks (acc : Acc) (base : Nat) (direct : Bool) : ∀ l : List Xmit, (x.timeXmits acc base direct l).map Xmit.ck = l.map Xmit.ck
  | [] => rfl
  | z :: l => by
    rw [State.timeXmits]
    split <;> rfl

theorem pushDirect (h : Queued P s x) (core : Nat) {z : Xmit} (hz : P z.ck) : Queued P s (x.pushDirect core z) := by
  have hmem {u : Xmit} (hu : u ∈ x.timeXmits .cp 12 true ((x.getCore core).direct ++ [z])) (hp : ¬P u.ck) : ∃ v ∈ (x.getCore core).direct, v.ck = u.ck := by
    have hm := List.mem_map_of_mem (f := Xmit.ck) hu
    rw [timeXmits_cks] at hm
    obtain ⟨v, hv, he⟩ := List.mem_map.1 hm
    rcases List.mem_append.1 hv with hv | hv
    · exact ⟨v, hv, he⟩
    · rw [List.mem_singleton.1 hv] at he
      exact absurd (he ▸ hz) hp
  refine ⟨h.cd, h.cc, h.swaps, h.eng, fun j ck hp hh => h.has j ck hp ?_⟩
  unfold State.pushDirect at hh
  by_cases hj : j = core
  · subst hj
    rw [State.updCore, State.getCore_setCore_same] at hh
    rw [Core.has_iff] at hh ⊢
    refine hh.imp_right (Or.imp_left fun ⟨u, hu, he⟩ => ?_)
    obtain ⟨v, hv, hvu⟩ := hmem hu (he ▸ hp)
    exact ⟨v, hv, hvu.trans he⟩
  · rwa [State.updCore, State.getCore_setCore_other _ _ _ _ hj] at hh

theorem requeueMx (h : Queued P s x) (col ck : Nat) (hck : P ck) (z : Nat × MxCmd) : Queued P s (x.requeueMx col ck z) := by
  unfold State.requeueMx
  refine trackCmd (h.updCore _ fun c j hp hh => ?_) ..
  rw [Core.has_iff] at hh ⊢
  refine hh.imp_right (Or.imp_right (Or.imp_left fun ⟨y, hy, he⟩ => ?_))
  rcases List.mem_append.1 hy with hy | hy
  · exact ⟨y, hy, he⟩
  · rw [List.mem_singleton.1 hy] at he
    exact absurd (he ▸ hck) hp

theorem requeueEv (h : Queued P s x) (col ck : Nat) (hck : P ck) (z : Nat × EvOp) : Queued P s (x.requeueEv col ck z) := by
  unfold State.requeueEv
  refine h.updCore _ fun c j hp hh => ?_
  rw [Core.has_iff] at hh ⊢
  refine hh.imp_right (Or.imp_right (Or.imp_right fun ⟨y, hy, he⟩ => ?_))
  rcases List.mem_append.1 hy with hy | hy
  · exact ⟨y, hy, he⟩
  · rw [List.mem_singleton.1 hy] at he
    exact absurd (he ▸ hck) hp

theorem requeueAll (h : Queued P s x) (sv : SavedCtx) (col ctx t : Nat) (hP : ∀ d, P (ctxKey d col ctx)) : Queued P s (x.requeueAll sv col ctx t) := by
  unfold State.requeueAll
  dsimp only
  refine foldl_ind (P := Queued P s) (fun _ _ hy => hy.updCore _) _ _ ?_
  refine foldl_ind (P := Queued P s) (fun _ _ hy => hy.requeueEv _ _ (hP _) _) _ _ ?_
  refine foldl_ind (P := Queued P s) (fun _ _ hy => hy.requeueMx _ _ (hP _) _) _ _ ?_
  refine foldl_ind (P := Queued P s) (fun _ _ hy => hy.pushDirect _ (hP _)) _ _ ?_
  exact foldl_ind (P := Queued P s) (fun _ _ hy => hy.requeueCopy _ _ (hP _) _) _ _ h

theorem startReel (h : Queued P s x) (cc cur target t : Nat) : Queued P s { { x with clock := t }.startReel cc cur target with clock := x.clock } := by
  have hu := startReel_unwalked { x with clock := t } cc cur target
  exact h.of_eq (congrArg State.cd hu :) (congrArg State.cc hu :) (congrArg State.swaps hu :) (congrArg State.eng hu :) (congrArg State.core hu :)

theorem eventRecord (h : Queued P s x) (cc sub die : Nat) : Queued P s (x.eventRecord cc sub die) := by
  unfold State.eventRecord
  split
  · exact h.of_eq
  · exact h

end Queued

end Sys2Proof.Machine
end

section
/-! SUPPORT. A team's contexts given back their registers and column state (R99, R233), and the statement of freezes and swaps. -/

set_option Elab.async false

namespace Sys2Proof.Machine

open Claims

/-! ### Keys -/

theorem ctxKey_inj {d e c b k j : Nat} (hc : c < 32) (hb : b < 32) (hk : k < 4) (hj : j < 4) (h : ctxKey d c k = ctxKey e b j) : d = e ∧ c = b ∧ k = j := by
  unfold ctxKey coreKey at h
  omega

theorem ctxKey_lt_of {d c k : Nat} (hd : d < 8) (hc : c < 32) (hk : k < 4) : ctxKey d c k < 1024 := by
  unfold ctxKey coreKey
  omega

theorem ccKey_eq {c b k j : Nat} (hk : k < 4) (hj : j < 4) (h : ccKey c k = ccKey b j) : c = b ∧ k = j := by
  unfold ccKey at h
  rw [if_pos hk, if_pos hj] at h
  omega

/-! ### Where contexts stand -/

/-- A saved context stands on a column context again, as it was saved. -/
def State.seatedAt (t : State) (col k : Nat) (sv : SavedCtx) : Prop :=
  let c := t.getCc (ccKey col k)
  c.st = .loading ∧ c.cs = sv.cc.cs ∧ c.dupCs = sv.cc.dupCs ∧ c.launch = sv.cc.launch ∧ c.team = sv.cc.team ∧ c.tcol = sv.cc.tcol ∧
    c.tctx = sv.cc.tctx ∧ ∀ d ∈ sv.dies, (t.getCd (ctxKey d.1 col k)).ws = d.2.ws ∧ (t.getCd (ctxKey d.1 col k)).dup = d.2.dup

/-- Column contexts but for those that `Q` names are as they were, and free for a team where they were. -/
structure Moved (Q : Nat → Nat → Prop) (s t : State) : Prop where
  cc : ∀ c < 32, ∀ k < 4, ¬Q c k → t.getCc (ccKey c k) = s.getCc (ccKey c k)
  cd : ∀ c < 32, ∀ k < 4, ¬Q c k → ∀ d < 8, t.getCd (ctxKey d c k) = s.getCd (ctxKey d c k)
  unused : ∀ c < 32, ∀ k < 4, ¬Q c k → s.unused c k = true → t.unused c k = true

namespace Moved

variable {Q R : Nat → Nat → Prop} {s x y : State}

theorem refl (Q : Nat → Nat → Prop) (s : State) : Moved Q s s := ⟨fun _ _ _ _ _ => rfl, fun _ _ _ _ _ _ _ => rfl, fun _ _ _ _ _ => id⟩

theorem trans (h : Moved Q s x) (g : Moved Q x y) : Moved Q s y :=
  ⟨fun c hc k hk hn => (g.cc c hc k hk hn).trans (h.cc c hc k hk hn), fun c hc k hk hn d hd => (g.cd c hc k hk hn d hd).trans (h.cd c hc k hk hn d hd),
    fun c hc k hk hn hu => g.unused c hc k hk hn (h.unused c hc k hk hn hu)⟩

theorem mono (h : Moved Q s x) (hqr : ∀ c < 32, ∀ k < 4, Q c k → R c k) : Moved R s x :=
  ⟨fun c hc k hk hn => h.cc c hc k hk fun hq => hn (hqr c hc k hk hq), fun c hc k hk hn => h.cd c hc k hk fun hq => hn (hqr c hc k hk hq),
    fun c hc k hk hn => h.unused c hc k hk fun hq => hn (hqr c hc k hk hq)⟩

theorem free (h : Moved Q s x) {c k : Nat} (hc : c < 32) (hk : k < 4) (hn : ¬Q c k) (hf : s.ctxFree c k = true) : x.ctxFree c k = true := by
  rw [State.ctxFree_iff] at hf ⊢
  rw [h.cc c hc k hk hn]
  exact ⟨hf.1, h.unused c hc k hk hn hf.2⟩

theorem seated (h : Moved Q s x) {c k : Nat} (hc : c < 32) (hk : k < 4) (hn : ¬Q c k) {sv : SavedCtx} (hd : ∀ d ∈ sv.dies, d.1 < 8) (hs : s.seatedAt c k sv) :
    x.seatedAt c k sv := by
  unfold State.seatedAt at hs ⊢
  rw [h.cc c hc k hk hn]
  obtain ⟨h1, h2, h3, h4, h5, h6, h7, hdies⟩ := hs
  refine ⟨h1, h2, h3, h4, h5, h6, h7, fun d hm => ?_⟩
  rw [h.cd c hc k hk hn d.1 (hd d hm)]
  exact hdies d hm

end Moved

/-- Commands queued for one column context. -/
theorem Queued.moved {s t : State} {col ctx : Nat} (hcol : col < 32) (hctx : ctx < 4) (h : Queued (fun ck => ∃ d, ck = ctxKey d col ctx) s t) :
    Moved (fun c k => c = col ∧ k = ctx) s t := by
  refine ⟨fun c _ k _ _ => by rw [State.getCc, h.cc]; rfl, fun c hc k hk _ d hd => ?_, fun c hc k hk hn hu => ?_⟩
  · unfold State.getCd
    rw [if_pos (.inl (ctxKey_lt_of hd hc hk)), if_pos (.inl (ctxKey_lt_of hd hc hk)), h.cd]
  · unfold State.unused at hu ⊢
    rw [Bool.and_eq_true, List.all_eq_true] at hu ⊢
    rw [h.swaps]
    refine ⟨hu.1, fun d hd => ?_⟩
    have hb := hu.2 d hd
    rw [Bool.and_eq_true] at hb ⊢
    rw [h.eng]
    refine ⟨?_, hb.2⟩
    have hck : ¬∃ e, ctxKey d c k = ctxKey e col ctx := fun ⟨e, he⟩ => hn (ctxKey_inj hc hcol hk hctx he).2
    have hk := h.has (coreKey d c) _ hck
    generalize t.getCore (coreKey d c) = a at hk ⊢
    cases hh : a.has (ctxKey d c k) with
    | false => rfl
    | true =>
      rw [hk hh] at hb
      exact nomatch hb.1

/-! ### One context restored -/

/-- The registers of a saved context loaded on its dies. -/
def State.loadDies (s : State) (sv : SavedCtx) (col ctx t : Nat) : State :=
  sv.dies.foldl (fun s x => s.setCd (ctxKey x.1 col ctx) (x.2.thaw s.clock t x.1 col (ctxKey x.1 col ctx))) s

/-- The part of the state that is no register. -/
def State.unloaded (s : State) : State := { s with cd := [] }

theorem loadDies_loads {col ctx : Nat} (t : Nat) (hcol : col < 32) (hctx : ctx < 4) (ds : List (Nat × CtxDie)) : ∀ s : State, (ds.map Prod.fst).Nodup → (∀ d ∈ ds, d.1 < 8) →
    let y := ds.foldl (fun s x => s.setCd (ctxKey x.1 col ctx) (x.2.thaw s.clock t x.1 col (ctxKey x.1 col ctx))) s
    y.unloaded = s.unloaded ∧ (∀ j, (∀ d ∈ ds, j ≠ ctxKey d.1 col ctx) → y.getCd j = s.getCd j) ∧
      ∀ d ∈ ds, (y.getCd (ctxKey d.1 col ctx)).ws = d.2.ws ∧ (y.getCd (ctxKey d.1 col ctx)).dup = d.2.dup := by
  induction ds with
  | nil => exact fun s _ _ => ⟨rfl, fun _ _ => rfl, fun _ hd => absurd hd List.not_mem_nil⟩
  | cons d ds ih =>
    intro s hnd hlt
    rw [List.map_cons, List.nodup_cons] at hnd
    obtain ⟨hrest, hother, hmem⟩ := ih (s.setCd (ctxKey d.1 col ctx) (d.2.thaw s.clock t d.1 col (ctxKey d.1 col ctx))) hnd.2 fun e he => hlt e (List.mem_cons_of_mem _ he)
    have hd : ctxKey d.1 col ctx < 1024 := ctxKey_lt_of (hlt d List.mem_cons_self) hcol hctx
    rw [List.foldl_cons]
    refine ⟨hrest.trans ?_, fun j hj => ?_, fun e he => ?_⟩
    · unfold State.setCd
      rw [if_pos (.inl hd)]
      rfl
    · rw [hother j fun e he => hj e (List.mem_cons_of_mem _ he), State.getCd_setCd_other _ _ _ _ (hj d List.mem_cons_self)]
    · rcases List.mem_cons.1 he with rfl | he
      · rw [hother _ fun f hf hk => hnd.1 (List.mem_map.2 ⟨f, hf, ((ctxKey_inj hcol hcol hctx hctx hk).1).symm⟩), State.getCd_setCd_same]
        exact ⟨rfl, rfl⟩
      · exact hmem e he

/-- The column state that a restored context takes. -/
def SavedCtx.taken (sv : SavedCtx) (clk t : Nat) : ColCtx :=
  let st := if sv.cc.st == .retiring then CtxSt.retiring else if sv.cc.st == .blocked then .blocked else .ready
  let sys := sv.cc.trapSys && sv.reason == 5
  { sv.cc with
    st := .loading, resume := st, holdUntil := t, holdReason := 4, blkSince := clk
    trap := if sys then sv.cc.kept else sv.cc.trap, trapSys := !sys && sv.cc.trapSys, kept := if sys then [] else sv.cc.kept }

/-- What comes after a context's state has been loaded: its commands queued again, and its reel asked for. -/
def State.takeUp (s : State) (n i : Nat) (sv : SavedCtx) (col ctx t : Nat) : State :=
  let cc := ccKey col ctx
  let s := s.requeueAll sv col ctx t
  let s := s.movePosted (savedKey n i) cc
  let s := s.eventRecord cc 0x20 (s.home col)
  let s := { { s with clock := t }.startReel cc sv.cc.cs.pc.reel sv.cc.cs.pc.reel with clock := s.clock }
  s.updCol col fun c => { c with pairs := if c.pairs.contains sv.cc.launch then c.pairs else c.pairs ++ [sv.cc.launch] }

theorem State.restoreCtx_eq (s : State) (l : Launch) (n i : Nat) (sv : SavedCtx) (col ctx t : Nat) : s.restoreCtx l n i sv col ctx t =
    let y := (s.writeShared l.kernel sv col).loadDies sv col ctx t
    (y.setCc (ccKey col ctx) (sv.taken y.clock t)).takeUp n i sv col ctx t := rfl

theorem takeUp_queued (s : State) (n i : Nat) (sv : SavedCtx) (col ctx t : Nat) : Queued (fun ck => ∃ d, ck = ctxKey d col ctx) s (s.takeUp n i sv col ctx t) := by
  have h1 : Queued (fun ck => ∃ d, ck = ctxKey d col ctx) s (s.requeueAll sv col ctx t) := (Queued.refl _ s).requeueAll sv col ctx t fun d => ⟨d, rfl⟩
  have h2 := (Queued.of_eq h1 (y := (s.requeueAll sv col ctx t).movePosted (savedKey n i) (ccKey col ctx))).eventRecord (ccKey col ctx) 0x20
    (((s.requeueAll sv col ctx t).movePosted (savedKey n i) (ccKey col ctx)).home col)
  unfold State.takeUp
  exact (h2.startReel (ccKey col ctx) sv.cc.cs.pc.reel sv.cc.cs.pc.reel t).of_eq

/-- R233: one context restored: it stands on its column context as it was saved, and no other has moved. -/
theorem restoreCtx_restores (s : State) (l : Launch) (n i : Nat) {sv : SavedCtx} {col ctx : Nat} (t : Nat) (hcol : col < 32) (hctx : ctx < 4)
    (hnd : (sv.dies.map Prod.fst).Nodup) (hlt : ∀ d ∈ sv.dies, d.1 < 8) :
    Moved (fun c k => c = col ∧ k = ctx) s (s.restoreCtx l n i sv col ctx t) ∧ (s.restoreCtx l n i sv col ctx t).seatedAt col ctx sv := by
  have h1 : Queued (fun ck => ∃ d, ck = ctxKey d col ctx) s (s.writeShared l.kernel sv col) := (Queued.refl _ s).writeShared ..
  rw [State.restoreCtx_eq]
  dsimp only
  generalize s.writeShared l.kernel sv col = x at h1
  obtain ⟨hrest, hother, hmem⟩ := loadDies_loads t hcol hctx sv.dies x hnd hlt
  rw [← State.loadDies] at hrest hother hmem
  generalize x.loadDies sv col ctx t = y at hrest hother hmem
  have h3 := takeUp_queued (y.setCc (ccKey col ctx) (sv.taken y.clock t)) n i sv col ctx t
  generalize hz : y.setCc (ccKey col ctx) (sv.taken y.clock t) = z at h3
  have h2 : Moved (fun c k => c = col ∧ k = ctx) x z := by
    subst hz
    refine ⟨fun c hc k hk hn => ?_, fun c hc k hk hn d hd => ?_, fun c hc k hk hn hu => ?_⟩
    · rw [State.getCc_setCc_other _ _ _ _ fun hkey => hn (ccKey_eq hk hctx hkey), State.getCc, show y.cc = x.cc from (congrArg State.cc hrest :)]
      rfl
    · have hk : y.getCd (ctxKey d c k) = x.getCd (ctxKey d c k) := hother _ fun e _ hkey => hn (ctxKey_inj hc hcol hk hctx hkey).2
      exact hk
    · unfold State.unused State.getCore at hu ⊢
      have hsw : y.swaps = x.swaps := (congrArg State.swaps hrest :)
      have hco : y.core = x.core := (congrArg State.core hrest :)
      have hen : y.eng = x.eng := (congrArg State.eng hrest :)
      rw [← hsw, ← hco, ← hen] at hu
      exact hu
  refine ⟨((h1.moved hcol hctx).trans h2).trans (h3.moved hcol hctx), ?_⟩
  have hcc : (z.takeUp n i sv col ctx t).getCc (ccKey col ctx) = sv.taken y.clock t := by
    rw [State.getCc, h3.cc, ← hz]
    exact State.getCc_setCc_same ..
  have hcd (k : Nat) (hk : k < 1024) : (z.takeUp n i sv col ctx t).getCd k = y.getCd k := by
    unfold State.getCd
    rw [if_pos (.inl hk), if_pos (.inl hk), h3.cd, ← hz]
    rfl
  unfold State.seatedAt
  rw [hcc]
  refine ⟨rfl, rfl, rfl, rfl, rfl, rfl, rfl, fun d hd => ?_⟩
  rw [hcd _ (ctxKey_lt_of (hlt d hd) hcol hctx)]
  exact hmem d hd

end Sys2Proof.Machine
end

section
/-! SUPPORT. A team restored on granted columns (R99, R233). -/

set_option Elab.async false

namespace Sys2Proof.Machine

open Claims

/-! ### The contexts of a column -/

theorem freeCtxs_mono {s t : State} {c : Nat} {p : Nat → Bool} (h : ∀ k < 4, p k = true → s.ctxFree c k = true → t.ctxFree c k = true) :
    ((s.freeCtxs c).filter p).length ≤ (t.freeCtxs c).length := by
  unfold State.freeCtxs
  rw [List.filter_filter, ← List.countP_eq_length_filter, ← List.countP_eq_length_filter]
  refine List.countP_mono_left fun k hk hc => ?_
  rw [Bool.and_eq_true] at hc
  have hlt : k < 4 := by
    simp only [List.mem_cons, List.not_mem_nil, or_false] at hk
    omega
  exact h k hlt hc.1 hc.2

theorem mem_freeCtxs {s : State} {c k : Nat} (h : k ∈ s.freeCtxs c) : k < 4 ∧ s.ctxFree c k = true := by
  obtain ⟨hk, hf⟩ := List.mem_filter.1 h
  simp only [List.mem_cons, List.not_mem_nil, or_false] at hk
  exact ⟨by omega, hf⟩

/-- Where the next context of a restored column goes. -/
def State.placeOf (s : State) (col : Nat) (sv : SavedCtx) : Nat := if (s.freeCtxs col).contains sv.ctx then sv.ctx else (s.freeCtxs col).headD 0

theorem placeOf_mem {s : State} {col : Nat} (sv : SavedCtx) (h : 0 < (s.freeCtxs col).length) : s.placeOf col sv ∈ s.freeCtxs col := by
  unfold State.placeOf
  split
  · rename_i hc
    exact List.contains_iff_mem.1 hc
  · cases hl : s.freeCtxs col with
    | nil => rw [hl] at h; exact absurd h (by decide)
    | cons k l => exact List.mem_cons_self

theorem restoreCol_cons (s : State) (l : Launch) (n col t i : Nat) (sv : SavedCtx) (rest : List (Nat × SavedCtx)) :
    s.restoreCol l n col t ((i, sv) :: rest) =
      (s.restoreCtx l n i sv col (s.placeOf col sv) (t + sv.areaClocks s)).restoreCol l n col (t + sv.areaClocks s) rest := rfl

theorem freeCtxs_length {s t : State} {c k : Nat} (hk : k ∈ s.freeCtxs c) (h : ∀ j < 4, j ≠ k → s.ctxFree c j = true → t.ctxFree c j = true) :
    (s.freeCtxs c).length ≤ (t.freeCtxs c).length + 1 := by
  have hnd : (s.freeCtxs c).Nodup := List.Nodup.filter _ (by decide)
  have h1 := freeCtxs_mono (s := s) (t := t) (c := c) (p := fun j => j != k) fun j hj hp => h j hj (bne_iff_ne.1 hp)
  rw [← hnd.erase_eq_filter, List.length_erase_of_mem hk] at h1
  omega

/-- R99: the contexts of a column restored: each stands on one of its contexts that were free. -/
theorem restoreCol_restores (l : Launch) (n : Nat) {col : Nat} (hcol : col < 32) : ∀ (xs : List (Nat × SavedCtx)) (s : State) (t : Nat),
    xs.length ≤ (s.freeCtxs col).length → (∀ x ∈ xs, (x.2.dies.map Prod.fst).Nodup ∧ ∀ d ∈ x.2.dies, d.1 < 8) →
    Moved (fun c k => c = col ∧ (s.getCc (ccKey col k)).st = .free) s (s.restoreCol l n col t xs) ∧
      ∀ x ∈ xs, ∃ k < 4, (s.restoreCol l n col t xs).seatedAt col k x.2
  | [], s, t => fun _ _ => ⟨Moved.refl _ s, fun _ hx => absurd hx List.not_mem_nil⟩
  | (i, sv) :: xs, s, t => fun hlen hd => by
    rw [restoreCol_cons]
    rw [List.length_cons] at hlen
    have hmem := placeOf_mem (s := s) (col := col) sv (by omega)
    generalize s.placeOf col sv = k at hmem
    obtain ⟨hk, hfree⟩ := mem_freeCtxs hmem
    obtain ⟨hnd, hlt⟩ := hd (i, sv) List.mem_cons_self
    obtain ⟨hmv, hseat⟩ := restoreCtx_restores s l n i (t + sv.areaClocks s) hcol hk hnd hlt
    generalize s.restoreCtx l n i sv col k (t + sv.areaClocks s) = y at hmv hseat
    have hlen' := freeCtxs_length (t := y) hmem fun j hj hne => hmv.free hcol hj fun hq => hne hq.2
    obtain ⟨hmv', hseat'⟩ := restoreCol_restores l n hcol xs y (t + sv.areaClocks s) (by omega) fun x hx => hd x (List.mem_cons_of_mem _ hx)
    have hst : (y.getCc (ccKey col k)).st ≠ .free := by
      rw [hseat.1]
      decide
    have hsub (c : Nat) (_ : c < 32) (j : Nat) (hj : j < 4) (hq : c = col ∧ (y.getCc (ccKey col j)).st = .free) : c = col ∧ (s.getCc (ccKey col j)).st = .free := by
      refine ⟨hq.1, ?_⟩
      by_cases hjk : j = k
      · rw [hjk] at hq
        exact absurd hq.2 hst
      · rw [← hmv.cc col hcol j hj fun h => hjk h.2]
        exact hq.2
    have hcover (c : Nat) (_ : c < 32) (j : Nat) (_ : j < 4) (hq : c = col ∧ j = k) : c = col ∧ (s.getCc (ccKey col j)).st = .free := by
      rw [hq.2]
      exact ⟨hq.1, ((s.ctxFree_iff col k).1 hfree).1⟩
    refine ⟨(hmv.mono hcover).trans (hmv'.mono hsub), fun x hx => ?_⟩
    rcases List.mem_cons.1 hx with rfl | hx
    · exact ⟨k, hk, hmv'.seated hcol hk (fun hq => hst hq.2) hlt hseat⟩
    · exact hseat' x hx

/-! ### The columns of a team -/

/-- The contexts of a swap restored on their columns. -/
def State.restoreCols (s : State) (l : Launch) (n : Nat) (w : Swap) (ms : List (Nat × Nat)) : State :=
  ms.foldl (fun s m => s.restoreCol l n m.2 s.clock (w.ofTcol m.1)) s

theorem mem_ofTcol {w : Swap} {t : Nat} {x : Nat × SavedCtx} (h : x ∈ w.ofTcol t) : x.2 ∈ w.ctxs :=
  List.mem_of_getElem? (mem_numbered.1 (List.mem_filter.1 h).1)

theorem restoreCols_restores (l : Launch) (n : Nat) {w : Swap} (hw : ∀ sv ∈ w.ctxs, (sv.dies.map Prod.fst).Nodup ∧ ∀ d ∈ sv.dies, d.1 < 8) :
    ∀ (ms : List (Nat × Nat)) (s : State), (ms.map Prod.snd).Nodup → (∀ m ∈ ms, m.2 < 32 ∧ (w.ofTcol m.1).length ≤ (s.freeCtxs m.2).length) →
    Moved (fun c _ => c ∈ ms.map Prod.snd) s (s.restoreCols l n w ms) ∧ ∀ m ∈ ms, ∀ x ∈ w.ofTcol m.1, ∃ k < 4, (s.restoreCols l n w ms).seatedAt m.2 k x.2
  | [], s => fun _ _ => ⟨Moved.refl _ s, fun _ hm => absurd hm List.not_mem_nil⟩
  | m :: ms, s => fun hnd hroom => by
    rw [List.map_cons, List.nodup_cons] at hnd
    obtain ⟨hcol, hlen⟩ := hroom m List.mem_cons_self
    obtain ⟨hmv, hseat⟩ := restoreCol_restores l n hcol (w.ofTcol m.1) s s.clock hlen fun x hx => hw x.2 (mem_ofTcol hx)
    have hstep : s.restoreCols l n w (m :: ms) = (s.restoreCol l n m.2 s.clock (w.ofTcol m.1)).restoreCols l n w ms := rfl
    rw [hstep]
    generalize s.restoreCol l n m.2 s.clock (w.ofTcol m.1) = y at hmv hseat
    have hroom' (q : Nat × Nat) (hq : q ∈ ms) : q.2 < 32 ∧ (w.ofTcol q.1).length ≤ (y.freeCtxs q.2).length := by
      obtain ⟨hc, hl⟩ := hroom q (List.mem_cons_of_mem _ hq)
      refine ⟨hc, hl.trans ?_⟩
      have hne : q.2 ≠ m.2 := fun he => hnd.1 (he ▸ List.mem_map.2 ⟨q, hq, rfl⟩)
      have h := freeCtxs_mono (s := s) (t := y) (c := q.2) (p := fun _ => true) fun k hk _ => hmv.free hc hk fun hx => hne hx.1
      rwa [List.filter_true] at h
    obtain ⟨hmv', hseat'⟩ := restoreCols_restores l n hw ms y hnd.2 hroom'
    refine ⟨(hmv.mono ?_).trans (hmv'.mono ?_), fun q hq x hx => ?_⟩
    · exact fun c _ k _ hq => List.mem_cons.2 (.inl hq.1)
    · exact fun c _ k _ hq => List.mem_cons_of_mem _ hq
    · rcases List.mem_cons.1 hq with rfl | hq
      · obtain ⟨k, hk, hs⟩ := hseat x hx
        exact ⟨k, hk, hmv'.seated hcol hk hnd.1 (hw x.2 (mem_ofTcol hx)).2 hs⟩
      · exact hseat' q hq x hx

/-! ### Barriers moved, and the swap ended -/

theorem SMap.get_mapKey {α : Type} {d : α} {f : Nat × α → α} (hf : ∀ k, f (k, d) = d) (k : Nat) (m : SMap α) :
    SMap.get d (m.map fun x => (x.1, f x)) k = f (k, SMap.get d m k) := by
  induction m with
  | nil => exact (hf k).symm
  | cons x m ih =>
    rw [List.map_cons, SMap.get, SMap.get]
    split
    · rename_i hx
      rw [← hx]
    · exact ih

theorem moveBars_seated {s : State} {c k : Nat} {sv : SavedCtx} (launch team : Nat) (moves : List ColMove) (h : s.seatedAt c k sv) :
    (s.moveBars launch team moves).seatedAt c k sv := by
  have hcc (F : Nat × ColCtx → ColCtx) (hF : ∀ x : Nat × ColCtx, ∃ b, F x = { x.2 with blk := b }) (h0 : ∀ k, F (k, {}) = {}) (bars : SMap Barrier) :
      ({ s with barriers := bars, cc := s.cc.map fun x => (x.1, F x) } : State).seatedAt c k sv := by
    have hget : ({ s with barriers := bars, cc := s.cc.map fun x => (x.1, F x) } : State).getCc (ccKey c k) = F (ccKey c k, s.getCc (ccKey c k)) :=
      SMap.get_mapKey h0 _ s.cc
    obtain ⟨b, hb⟩ := hF (ccKey c k, s.getCc (ccKey c k))
    unfold State.seatedAt at h ⊢
    rw [hget, hb]
    exact h
  unfold State.moveBars
  refine hcc _ (fun x => ?_) (fun _ => rfl) _
  split
  · split
    · exact ⟨_, rfl⟩
    · exact ⟨x.2.blk, rfl⟩
  · exact ⟨x.2.blk, rfl⟩

theorem updLaunch_seated {s : State} {c k : Nat} {sv : SavedCtx} (n : Nat) (F : Launch → Launch) (h : s.seatedAt c k sv) : (s.updLaunch n F).seatedAt c k sv := by
  unfold State.updLaunch
  split
  · exact h
  · exact h

/-- What ends a restore: the team's columns written, its barriers moved, the swap gone. -/
def State.restored (s : State) (l : Launch) (n : Nat) (w : Swap) (moves : List (Nat × Nat)) : State :=
  let now := movedCols l w.team moves
  let s := s.updLaunch w.launch fun l => { l with teamCols := now }
  let s := s.moveBars w.launch w.team (moves.map fun m => ⟨m.1, (((w.ofTcol m.1).head?).map fun x => x.2.col).getD m.2, m.2⟩)
  { s with swaps := SMap.erase s.swaps n }

theorem teamRestore_outcome {s : State} {n : Nat} {w : Swap} {l : Launch} {cols : List Nat} (hw : (s.swaps.find? fun x => x.1 == n) = some (n, w))
    (hl : s.launch? w.launch = some l) (hr : s.canRestore w cols = true) :
    exec (.teamRestore n cols) s = .next ((s.restoreCols l n w (w.tcols.zip cols)).restored l n w (w.tcols.zip cols)) := by
  change execTeamRestore n cols s = _
  unfold execTeamRestore
  rw [hw]
  dsimp only
  rw [hl]
  dsimp only
  rw [hr]
  rfl

/-! ### Which columns take which places -/

theorem mem_tcols {w : Swap} {sv : SavedCtx} (h : sv ∈ w.ctxs) : sv.cc.tcol ∈ w.tcols := by
  have hgo (l : List SavedCtx) : ∀ acc : List Nat, (sv ∈ l ∨ sv.cc.tcol ∈ acc) → sv.cc.tcol ∈ l.foldl (fun l sv => insNat sv.cc.tcol l) acc := by
    induction l with
    | nil => exact fun acc h => h.resolve_left List.not_mem_nil
    | cons v l ih =>
      intro acc h
      refine ih _ ?_
      rcases h with h | h
      · rcases List.mem_cons.1 h with rfl | h
        · exact .inr (mem_insNat.2 (.inl rfl))
        · exact .inl h
      · exact .inr (mem_insNat.2 (.inr h))
  exact hgo w.ctxs [] (.inl h)

theorem nodup_of_eraseDups {l : List Nat} (h : l.eraseDups.length = l.length) : l.Nodup := by
  have hset : l.eraseDups.toFinset = l.toFinset := by
    ext x
    simp only [List.mem_toFinset, List.mem_eraseDups]
  have hcard : l.toFinset.card = l.length := by rw [← hset, List.toFinset_card_of_nodup (nodup_eraseDups l), h]
  exact (Multiset.toFinset_card_eq_card_iff_nodup (m := (l : Multiset Nat))).1 hcard

theorem canRestore_rooms {s : State} {w : Swap} {cols : List Nat} (h : s.canRestore w cols = true) : ∃ l, s.launch? w.launch = some l ∧
    cols.length = w.tcols.length ∧ cols.Nodup ∧ ∀ m ∈ w.tcols.zip cols, m.2 < 32 ∧ (w.ofTcol m.1).length ≤ (s.freeCtxs m.2).length := by
  unfold State.canRestore at h
  rw [Bool.and_eq_true, Bool.and_eq_true, Bool.and_eq_true] at h
  obtain ⟨⟨⟨-, hlen⟩, hdup⟩, hmatch⟩ := h
  cases hl : s.launch? w.launch with
  | none => rw [hl] at hmatch; exact nomatch hmatch
  | some l =>
    rw [hl] at hmatch
    refine ⟨l, rfl, eq_of_beq hlen, ?_, fun m hm => ?_⟩
    · exact nodup_of_eraseDups (eq_of_beq hdup)
    · have hc := List.all_eq_true.1 hmatch m hm
      simp only [Bool.and_eq_true, decide_eq_true_eq] at hc
      obtain ⟨⟨⟨⟨⟨hlt, -⟩, -⟩, -⟩, -⟩, hroom⟩ := hc
      exact ⟨hlt, hroom⟩

theorem teamRestore_restores {s : State} {n : Nat} {w : Swap} {cols : List Nat} (hw : (s.swaps.find? fun x => x.1 == n) = some (n, w))
    (hr : s.canRestore w cols = true) (hd : ∀ sv ∈ w.ctxs, (sv.dies.map Prod.fst).Nodup ∧ ∀ d ∈ sv.dies, d.1 < 8) :
    ∃ t, exec (.teamRestore n cols) s = .next t ∧ (∀ x ∈ t.swaps, x.1 ≠ n) ∧ ∀ sv ∈ w.ctxs, ∃ col ∈ cols, ∃ k < 4, t.seatedAt col k sv := by
  obtain ⟨l, hl, hlen, hnd, hroom⟩ := canRestore_rooms hr
  have hsnd : (w.tcols.zip cols).map Prod.snd = cols := List.map_snd_zip (Nat.le_of_eq hlen)
  obtain ⟨-, hseat⟩ := restoreCols_restores l n hd (w.tcols.zip cols) s (by rw [hsnd]; exact hnd) hroom
  refine ⟨_, teamRestore_outcome hw hl hr, fun x hx => SMap.key_of_mem_erase hx, fun sv hsv => ?_⟩
  obtain ⟨i, hi, hie⟩ := List.getElem_of_mem (mem_tcols hsv)
  have hci : i < cols.length := by omega
  have hm : (sv.cc.tcol, cols[i]) ∈ w.tcols.zip cols := by
    refine List.mem_iff_getElem.2 ⟨i, by rw [List.length_zip]; omega, ?_⟩
    rw [List.getElem_zip, hie]
  obtain ⟨j, hj⟩ := List.mem_iff_getElem?.1 hsv
  obtain ⟨k, hk, hs⟩ := hseat _ hm (j, sv) (List.mem_filter.2 ⟨mem_numbered.2 hj, beq_self_eq_true _⟩)
  exact ⟨cols[i], List.getElem_mem _, k, hk, moveBars_seated _ _ _ (updLaunch_seated _ _ hs)⟩

/-! ### The statement -/

/-- Settles O50: a freeze captures its contexts and files each with its team (R227, R228); a swapped team is filed with reason 3 (R98); a return and a release are
recorded with it (R99, R237), and the end of a spill (R233); restored contexts are seated on contexts of the granted columns that are free, one after another, and no
seat moves again (R233); SVBASE takes its fields and starts the first spill that waits (R229, R254). -/
theorem freezeAndSwap : Obligations.FreezeAndSwap := by
  refine ⟨fun s col reason k l hcol h1 h5 hk hrun hl => freezeFrame_saves s hcol h1 h5 hk hrun hl, fun s n team h => teamSwapOut_saves s h,
    fun s n w h => teamReturn_outcome s h,
    fun s n i due w sv hw hi hsp hdue hns hrep hev honly => spillComplete_ends s hw hi hsp hdue hns hrep hev honly,
    fun s n w cols hw hr hd => teamRestore_restores hw hr hd, fun s p fw v hp h3 h2 hf => ?_⟩
  obtain ⟨t, he, hmem, hcd, hcc, hparts, hnone, hsome, hsv⟩ := svbaseWrite_writes s (v := v) hp h3 h2 hf
  exact ⟨t, he, hmem, hcd, hcc, hparts, hnone, hsome, hsv.trans (svbaseWritten_toNat ..)⟩

end Sys2Proof.Machine
end

section
/-! SUPPORT. Packets dispatched, completion signals and reels that arrive (R240, R242, R244, R247). -/

set_option Elab.async false

namespace Sys2Proof.Machine

open Claims

variable {s t : State} {q n : Nat}

/-! ### LAUNCH (R240, R242) -/

/-- The dies that a mask names, put together from a list of them. -/
def diesMask (ds : List Nat) : Nat := ds.foldl (fun m d => m + 2 ^ d) 0

theorem testBit_foldl_add_pow {d : Nat} : ∀ (ds : List Nat) (m : Nat), (∀ e ∈ ds, m < 2 ^ e) → ds.Pairwise (· < ·) →
    (ds.foldl (fun m d => m + 2 ^ d) m).testBit d = true → m.testBit d = true ∨ d ∈ ds
  | [], _ => fun _ _ h => .inl h
  | e :: ds, m => fun hlt hinc h => by
    rw [List.pairwise_cons] at hinc
    have hme := hlt e List.mem_cons_self
    have hlt' (f : Nat) (hf : f ∈ ds) : m + 2 ^ e < 2 ^ f := by
      have h1 : 2 ^ (e + 1) ≤ 2 ^ f := Nat.pow_le_pow_right (by decide) (hinc.1 f hf)
      rw [Nat.pow_succ] at h1
      omega
    rcases testBit_foldl_add_pow ds (m + 2 ^ e) hlt' hinc.2 h with h | h
    · by_cases hd : d = e
      · exact .inr (hd ▸ List.mem_cons_self)
      · rw [Nat.add_comm, ← Nat.mul_one (2 ^ e), Nat.two_pow_add_eq_or_of_lt hme, Nat.mul_one, Nat.testBit_or, Nat.testBit_two_pow, decide_eq_false (Ne.symm hd), Bool.false_or] at h
        exact .inl h
    · exact .inr (List.mem_cons_of_mem _ h)

theorem testBit_diesMask {ds : List Nat} {d : Nat} (hinc : ds.Pairwise (· < ·)) (h : (diesMask ds).testBit d = true) : d ∈ ds := by
  have hz (e : Nat) : (0 : Nat).testBit e = false := Nat.zero_testBit e
  rcases testBit_foldl_add_pow ds 0 (fun e _ => Nat.two_pow_pos e) hinc h with h | h
  · rw [hz] at h
    exact nomatch h
  · exact h

theorem State.liveDies_increasing (s : State) (p : Nat → Bool) : (s.liveDies.filter p).Pairwise (· < ·) :=
  List.Pairwise.filter _ (List.Pairwise.filter _ (by decide))

theorem State.podLaunch_keeps (s : State) (q teams : Nat) : { (s.podLaunch q teams).2 with podgrp := s.podgrp } = s := by
  unfold State.podLaunch
  split
  · rfl
  · rfl

/-- The launch that a packet begins. -/
def State.packetLaunched (s : State) (q : Nat) (p : List DWord) (k : Kernel) : Launch :=
  let x := s.getQueue q
  let cols := s.packetCols x.part (pkColmask p)
  let mask := bits (dw p 0) 24 8
  let teams := cols.length / pkTw p * (pkTk p / pkTc p)
  let y := (s.podLaunch q teams).2
  { queue := q, part := x.part, cols := cols, dmask := mask, tw := pkTw p, tc := pkTc p, tk := pkTk p
    teams := teams, fclass := bits (dw p 0) 11 3, holdf := bits (dw p 0) 10 1 == 1
    qsync := bits (dw p 0) 9 1 == 1, kimg := dw p 1 / 64 * 64, arg := p.getD 2 0#64, compsig := pkSig p, kernel := k
    nextTeam := 0, live := diesMask (y.liveDies.filter fun d => bits mask d 1 == 1 && (y.getSocket d).liveAt ≤ y.clock - 1)
    error := false, dropped := false, signalled := false, save := none, teamCols := [], trigTeams := [], pod := (s.podLaunch q teams).1, started := y.clock }

/-- The state in which a launch has begun. -/
def State.launchBegun (s : State) (q : Nat) (l : Launch) : State :=
  ({ s with launches := SMap.put s.launches s.nextLaunch l, nextLaunch := s.nextLaunch + 1 } : State).updQueue q fun x =>
    { x with fe := .launching s.nextLaunch, lastLaunch := some s.nextLaunch }

theorem packetLaunch_outcome {p : List DWord} {k : Kernel} (hfe : (s.getQueue q).fe = .approved p (some k)) (hop : pkOp p = 1) (hrun : s.feRuns = true)
    (hdep : s.depMet q p = true) : exec (.packetLaunch q) s = .next (((s.podLaunch q (s.packetLaunched q p k).teams).2).launchBegun q (s.packetLaunched q p k)) := by
  change execPacketLaunch q s = _
  unfold execPacketLaunch
  rw [hfe]
  dsimp only
  rw [if_neg (by rw [hop, hrun, hdep]; decide)]
  rfl

theorem launchBegun_begins (l : Launch) : QueueOnly s (s.launchBegun q l) q ∧ ((s.launchBegun q l).getQueue q).fe = .launching s.nextLaunch ∧
    ((s.launchBegun q l).getQueue q).lastLaunch = some s.nextLaunch ∧ (s.launchBegun q l).nextLaunch = s.nextLaunch + 1 ∧
    (s.launchBegun q l).launch? s.nextLaunch = some l := by
  unfold State.launchBegun
  refine ⟨QueueOnly.trans (x := { s with launches := _, nextLaunch := _ }) ⟨fun _ _ => rfl, rfl, rfl, rfl⟩ (queueOnly_updQueue _), ?_, ?_, rfl, ?_⟩
  · rw [State.getQueue_updQueue_same]
  · rw [State.getQueue_updQueue_same]
  · unfold State.launch? State.updQueue State.setQueue
    rw [SMap.find?_put, if_pos rfl]
    rfl

theorem packetLaunch_begins {p : List DWord} {k : Kernel} (hfe : (s.getQueue q).fe = .approved p (some k)) (hop : pkOp p = 1) (hrun : s.feRuns = true)
    (hdep : s.depMet q p = true) :
    ∃ t, exec (.packetLaunch q) s = .next t ∧ QueueOnly s t q ∧ (t.getQueue q).fe = .launching s.nextLaunch ∧ (t.getQueue q).lastLaunch = some s.nextLaunch ∧
      t.nextLaunch = s.nextLaunch + 1 ∧ t.launch? s.nextLaunch = some (s.packetLaunched q p k) := by
  refine ⟨_, packetLaunch_outcome hfe hop hrun hdep, ?_⟩
  have hk := s.podLaunch_keeps q (s.packetLaunched q p k).teams
  generalize (s.podLaunch q (s.packetLaunched q p k).teams).2 = y at hk
  have hn : y.nextLaunch = s.nextLaunch := (congrArg State.nextLaunch hk :)
  have hq : QueueOnly s y q := by
    have hqs : y.queues = s.queues := (congrArg State.queues hk :)
    exact ⟨fun j _ => by unfold State.getQueue; rw [hqs], (congrArg State.mem hk :), (congrArg State.cd hk :), (congrArg State.cc hk :)⟩
  obtain ⟨h1, h2, h3, h4, h5⟩ := launchBegun_begins (s := y) (q := q) (s.packetLaunched q p k)
  rw [hn] at h2 h3 h4 h5
  exact ⟨QueueOnly.trans hq h1, h2, h3, h4, h5⟩

theorem packetLaunched_live {p : List DWord} {k : Kernel} {d : Nat} (h : (s.packetLaunched q p k).live.testBit d = true) :
    s.dieLive d = true ∧ (s.packetLaunched q p k).dmask.testBit d = true := by
  have hk := s.podLaunch_keeps q (s.packetLaunched q p k).teams
  have hd := testBit_diesMask (State.liveDies_increasing ..) h
  obtain ⟨hl, hc⟩ := List.mem_filter.1 hd
  rw [Bool.and_eq_true] at hc
  refine ⟨?_, ?_⟩
  · have hlive := (List.mem_filter.1 hl).2
    have hs := (congrArg State.sockets hk :)
    unfold State.dieLive State.getSocket at hlive ⊢
    rw [← hs]
    exact hlive
  · have hb := eq_of_beq hc.1
    unfold bits at hb
    rw [Nat.testBit_eq_decide_div_mod_eq]
    exact decide_eq_true hb

/-! ### WAITSIG (R240) -/

theorem packetWaitsig_waits {p : List DWord} {k : Option Kernel} (hfe : (s.getQueue q).fe = .approved p k) (hrun : s.feRuns = true) (hdep : s.depMet q p = true)
    (hop : pkOp p = 3) : ∃ t, exec (.packetWaitsig q) s = .next t ∧ QueueOnly s t q ∧ (t.getQueue q).fe = .waitsig p s.clock := by
  refine ⟨s.updQueue q fun x => { x with fe := .waitsig p s.clock }, ?_, queueOnly_updQueue _, by rw [State.getQueue_updQueue_same]⟩
  change execPacketWaitsig q s = _
  unfold execPacketWaitsig
  rw [hfe]
  dsimp only
  rw [if_neg (by rw [hop, hrun, hdep]; decide)]

end Sys2Proof.Machine
end

section
/-! SUPPORT. Completion signals and what a packet's end changes (R240, R244). -/

set_option Elab.async false

namespace Sys2Proof.Machine

open Claims

variable {s t : State} {q n : Nat}

/-! ### Translation beside other ranges -/

/-- The state with other ranges. -/
def State.ranged (s : State) (r : SMap Range) : State := { s with ranges := r }

theorem foldl_ranged {α : Type} {f : State → α → State} {r : SMap Range} (hf : ∀ s a, f (s.ranged r) a = (f s a).ranged r) (l : List α) :
    ∀ s : State, l.foldl f (s.ranged r) = (l.foldl f s).ranged r := by
  induction l with
  | nil => exact fun _ => rfl
  | cons a l ih =>
    intro s
    rw [List.foldl_cons, hf, ih]
    rfl

theorem State.writeBytes_ranged (r : SMap Range) (l : List Byte) : ∀ (s : State) (loc : Nat), (s.ranged r).writeBytes loc l = (s.writeBytes loc l).ranged r := by
  induction l with
  | nil => exact fun _ _ => rfl
  | cons b l ih => exact fun s loc => ih (s.writeByte loc b) (loc + 1)

theorem State.clearPoison_ranged (s : State) (r : SMap Range) (loc n : Nat) : (s.ranged r).clearPoison loc n = (s.clearPoison loc n).ranged r := by
  unfold State.clearPoison
  dsimp only
  by_cases h : s.lost.isEmpty = true
  · rw [if_pos h, if_pos (show (s.ranged r).lost.isEmpty = true from h)]
    rfl
  · rw [if_neg h, if_neg (show ¬(s.ranged r).lost.isEmpty = true from h)]
    refine foldl_ranged (r := r) (fun s b => ?_) _ { s with poison := _ }
    have : (s.ranged r).lostLine b = s.lostLine b := rfl
    rw [this]
    split <;> rfl

theorem State.store_ranged (s : State) (r : SMap Range) (loc : Nat) (l : List Byte) : (s.ranged r).store loc l = (s.store loc l).ranged r := by
  rw [State.store, State.writeBytes_ranged, State.clearPoison_ranged]
  rfl

theorem State.walkFrom_ranged (s : State) (r : SMap Range) (va : Nat) : ∀ lvl table, (s.ranged r).walkFrom va lvl table = s.walkFrom va lvl table := by
  have hread (n loc : Nat) : (s.ranged r).readBytes loc n = s.readBytes loc n := State.readBytes_congr (s := s.ranged r) (t := s) rfl n loc
  intro lvl
  induction lvl with
  | zero =>
    intro table
    unfold State.walkFrom
    dsimp only
    rw [hread]
    rfl
  | succ l ih =>
    intro table
    unfold State.walkFrom
    dsimp only
    rw [hread, ih]
    rfl

theorem State.walk_ranged (s : State) (r : SMap Range) (trb va : Nat) (fw rd wr : Bool) :
    (s.ranged r).walk trb va fw rd wr = (s.walk trb va fw rd wr).map fun x => (x.1, x.2.ranged r) := by
  unfold State.walk
  split
  · rfl
  rw [State.walkFrom_ranged]
  split
  · rfl
  split
  · rfl
  rw [show (s.ranged r).walkAssisted = s.walkAssisted from rfl]
  split
  · rfl
  dsimp only
  rw [State.store_ranged, Except.map]
  generalize (if s.walkAssisted = true then _ else _ : Nat) = p
  split <;> rfl

theorem State.rootPlace_ranged (s : State) (r : SMap Range) (root va : Nat) (wr : Bool) :
    (s.ranged r).rootPlace root va wr = ((s.rootPlace root va wr).1, (s.rootPlace root va wr).2.ranged r) := by
  unfold State.rootPlace
  split
  · rw [State.walk_ranged]
    cases s.walk root _ false true wr <;> rfl
  · rfl
  · rfl
  · rfl

/-! ### A completion signal (R244) -/

/-- The part of the state that a completion signal does not touch. -/
def State.unsent (s : State) : State := { s.unaccessed with comps := [] }

theorem State.compSignal_unsent (s : State) (root addr part : Nat) (err : Bool) : (s.compSignal root addr part err).unsent = s.unsent := by
  have hacc : Accessed s (s.rootPlace root addr true).2 := (Accessed.refl s).rootPlace ..
  have hsame {x : State} (h : Accessed s x) : x.unsent = s.unsent := (congrArg (fun u : State => { u with comps := [] }) h.rest :)
  have hto {x : State} (h : Accessed s x) (loc via : Nat) : (x.compTo loc via err).unsent = s.unsent :=
    (hsame h : x.unsent = s.unsent)
  unfold State.compSignal
  split
  · rfl
  dsimp only
  split
  · exact hto hacc ..
  · split
    · exact hsame hacc
    split
    · have hacc2 := hacc.podTranslate (bits ((s.rootPlace root addr true).2.getPart part).podps.toNat 0 6) ‹Nat› false true true
      split
      · rename_i heq
        rw [heq] at hacc2
        exact hto hacc2 ..
      · rename_i heq
        rw [heq] at hacc2
        exact hsame hacc2
    · exact hsame (hacc.fresh.podSend ..)
  · exact hsame hacc

theorem State.compSignal_keeps (s : State) (root addr part : Nat) (err : Bool) : (s.compSignal root addr part err).queues = s.queues ∧
    (s.compSignal root addr part err).clock = s.clock ∧ (s.compSignal root addr part err).ranges = s.ranges := by
  have h := s.compSignal_unsent root addr part err
  generalize s.compSignal root addr part err = y at h ⊢
  exact ⟨(congrArg State.queues h :), (congrArg State.clock h :), (congrArg State.ranges h :)⟩

/-- A completion signal at a place: its write is on its way. -/
theorem State.compSignal_onItsWay {root addr part loc kind lat : Nat} {err : Bool} {s1 : State} (hne : addr ≠ 0)
    (h : s.rootPlace root addr true = (.ok loc kind lat, s1)) : s.compSignal root addr part err = s1.compTo loc (s1.headTo 16 loc) err := by
  unfold State.compSignal
  rw [if_neg hne, h]

theorem State.compSignal_none (s : State) (root part : Nat) (err : Bool) : s.compSignal root 0 part err = s := if_pos rfl

theorem onItsWay_compTo (s : State) (loc : Nat) (err : Bool) : OnItsWay s (s.compTo loc (s.headTo 16 loc) err) loc err :=
  ⟨List.mem_append_right _ (List.mem_singleton.2 rfl), rfl⟩

/-! ### Packets that complete (R239, R240) -/

theorem State.feDone_queue (s : State) (q : Nat) : ((s.feDone q).getQueue q).rd = (if (s.getQueue q).cleared then (s.getQueue q).rd else (s.getQueue q).rd + 1#16) := by
  unfold State.feDone
  rw [(State.feNext_queue _ q).2.2.2, State.getQueue_updQueue_same]
  rfl

theorem State.feNext_keeps (s : State) (q : Nat) : { s.feNext q with queues := s.queues } = s := by
  unfold State.feNext
  dsimp only
  split <;> rfl

theorem State.feDone_keeps (s : State) (q : Nat) : { s.feDone q with queues := s.queues, feLast := s.feLast } = s := by
  have h := State.feNext_keeps (({ s with feLast := q }).updQueue q fun q => { q with rd := if q.cleared then q.rd else q.rd + 1#16, fe := .idle, cleared := false }) q
  unfold State.feDone
  exact (congrArg (fun u : State => { u with queues := s.queues, feLast := s.feLast }) h :)

/-- R101: the range that an OPENRNG leaves. -/
def openedRange (p : List DWord) (r : Range) : Range := if bits (dw p 0) 9 1 = 1 then { r with isOpen := false }
  else { isOpen := true, next := p.getD 1 0#64, endIdx := p.getD 2 0#64, min := bits (dw p 4) 0 32, g := bits (dw p 4) 32 7 }

/-- The range of an OPENRNG written. -/
def State.rangeOpened (s : State) (p : List DWord) : State := s.setRange (bits (dw p 0) 16 6) (openedRange p (s.getRange (bits (dw p 0) 16 6)))

theorem packetOpenrng_outcome {p : List DWord} {k : Option Kernel} (hfe : (s.getQueue q).fe = .approved p k) (hrun : s.feRuns = true) (hdep : s.depMet q p = true)
    (hop : pkOp p = 2) : exec (.packetOpenrng q) s =
      .next (((s.rangeOpened p).compSignal (s.getQueue q).qroot.toNat (pkSig p) (s.getQueue q).part false).feDone q) := by
  change execPacketOpenrng q s = _
  unfold execPacketOpenrng
  rw [hfe]
  dsimp only
  rw [if_neg (by rw [hop, hrun, hdep]; decide)]
  rfl

theorem State.rangeOpened_eq (s : State) (p : List DWord) : ∃ r, s.rangeOpened p = s.ranged r := ⟨_, rfl⟩

theorem packetOpenrng_opens {p : List DWord} {k : Option Kernel} (hfe : (s.getQueue q).fe = .approved p k) (hrun : s.feRuns = true) (hdep : s.depMet q p = true)
    (hop : pkOp p = 2) : ∃ t, exec (.packetOpenrng q) s = .next t ∧
      (t.getQueue q).rd = (if (s.getQueue q).cleared then (s.getQueue q).rd else (s.getQueue q).rd + 1#16) ∧
      t.getRange (bits (dw p 0) 16 6) = openedRange p (s.getRange (bits (dw p 0) 16 6)) ∧ (pkSig p = 0 → t.mem = s.mem) ∧
      ∀ loc kind lat s1, pkSig p ≠ 0 → s.rootPlace (s.getQueue q).qroot.toNat (pkSig p) true = (.ok loc kind lat, s1) → OnItsWay s1 t loc false := by
  refine ⟨_, packetOpenrng_outcome hfe hrun hdep hop, ?_⟩
  obtain ⟨hqs, -, hrs⟩ := (s.rangeOpened p).compSignal_keeps (s.getQueue q).qroot.toNat (pkSig p) (s.getQueue q).part false
  have hrange : (s.rangeOpened p).getRange (bits (dw p 0) 16 6) = openedRange p (s.getRange (bits (dw p 0) 16 6)) := SMap.get_set_same ..
  have hnone (h : pkSig p = 0) : (s.rangeOpened p).compSignal (s.getQueue q).qroot.toNat (pkSig p) (s.getQueue q).part false = s.rangeOpened p := by
    rw [h]
    exact State.compSignal_none ..
  have hway (loc kind lat : Nat) (s1 : State) (hne : pkSig p ≠ 0) (h : s.rootPlace (s.getQueue q).qroot.toNat (pkSig p) true = (.ok loc kind lat, s1)) :
      OnItsWay s1 ((s.rangeOpened p).compSignal (s.getQueue q).qroot.toNat (pkSig p) (s.getQueue q).part false) loc false := by
    obtain ⟨r, hr⟩ := s.rangeOpened_eq p
    have hroot := s.rootPlace_ranged r (s.getQueue q).qroot.toNat (pkSig p) true
    rw [h, ← hr] at hroot
    rw [State.compSignal_onItsWay hne hroot]
    exact onItsWay_compTo s1 loc false
  generalize (s.rangeOpened p).compSignal (s.getQueue q).qroot.toNat (pkSig p) (s.getQueue q).part false = y at hqs hrs hnone hway
  have hd := y.feDone_keeps q
  have hqy : y.getQueue q = s.getQueue q := by
    unfold State.getQueue
    rw [hqs]
    rfl
  have hmem : (y.feDone q).mem = y.mem := (congrArg State.mem hd :)
  refine ⟨?_, ?_, fun h => ?_, fun loc kind lat s1 hne h => ?_⟩
  · rw [y.feDone_queue, hqy]
  · rw [← hrange]
    unfold State.getRange
    rw [← hrs, (congrArg State.ranges hd : _ = y.ranges)]
  · rw [hmem, hnone h]
    rfl
  · obtain ⟨h1, h2⟩ := hway loc kind lat s1 hne h
    refine ⟨?_, hmem.trans h2⟩
    have hcomps : (y.feDone q).comps = y.comps := (congrArg State.comps hd :)
    rw [hcomps]
    exact h1

/-! ### WAITSIG's polls (R240) -/

theorem waitsigPoll_outcome {s1 : State} {due loc kind lat : Nat} {p : List DWord} (hfe : (s.getQueue q).fe = .waitsig p due) (hdue : due ≤ s.clock)
    (hrun : s.feRuns = true) (h : s.rootPlace (s.getQueue q).qroot.toNat (dw p 1 / 8 * 8) false = (.ok loc kind lat, s1)) :
    exec (.waitsigPoll q) s = .next (
      if leNat (s1.readBytes loc 8) ≥ dw p 2 then (s1.compSignal (s.getQueue q).qroot.toNat (pkSig p) (s1.getQueue q).part false).feDone q
      else s1.updQueue q fun x => { x with fe := .waitsig p (s1.clock + 256) }) := by
  change execWaitsigPoll q s = _
  unfold execWaitsigPoll
  rw [hfe]
  dsimp only
  rw [if_neg (by simp [hrun, Nat.not_lt.2 hdue]), h]
  dsimp only
  simp only [decide_eq_true_eq]

theorem waitsigPoll_polls {s1 : State} {due loc kind lat : Nat} {p : List DWord} (hfe : (s.getQueue q).fe = .waitsig p due) (hdue : due ≤ s.clock)
    (hrun : s.feRuns = true) (h : s.rootPlace (s.getQueue q).qroot.toNat (dw p 1 / 8 * 8) false = (.ok loc kind lat, s1)) :
    ∃ t, exec (.waitsigPoll q) s = .next t ∧
      (leNat (s1.readBytes loc 8) < dw p 2 → (t.getQueue q).fe = .waitsig p (s.clock + 256)) ∧
      (dw p 2 ≤ leNat (s1.readBytes loc 8) →
        (t.getQueue q).rd = if (s.getQueue q).cleared then (s.getQueue q).rd else (s.getQueue q).rd + 1#16) := by
  have hacc : Accessed s s1 := by
    have := (Accessed.refl s).rootPlace (s.getQueue q).qroot.toNat (dw p 1 / 8 * 8) false
    rwa [h] at this
  refine ⟨_, waitsigPoll_outcome hfe hdue hrun h, fun hlt => ?_, fun hle => ?_⟩
  · rw [if_neg (Nat.not_le.2 hlt), State.getQueue_updQueue_same, hacc.unaccessed_eq.1]
  · have hq : ((s1.compSignal (s.getQueue q).qroot.toNat (pkSig p) (s1.getQueue q).part false)).getQueue q = s.getQueue q := by
      unfold State.getQueue
      rw [(State.compSignal_keeps ..).1, hacc.queues]
    rw [if_pos hle, State.feDone_queue, hq]

/-! ### The end of a launch (R244) -/

/-- The state in which a launch has ended. -/
def State.launchGone (s : State) (n : Nat) : State :=
  ({ s with
    launches := SMap.erase s.launches n
    amoLeft := s.amoLeft.filter fun x => x.2 != n
    core := s.core.map fun (x : Nat × Core) => (x.1, { x.2 with taken := x.2.taken.filter fun y => y != n }) } : State).closeQueues

theorem completionSignal_outcome {l : Launch} (hl : s.launch? n = some l) (hs : l.signalled = false) (hi : s.launchIdle n l = true) (hw : s.launchWrites n l = false) :
    exec (.completionSignal n) s = .next ((s.compSignal (s.getQueue l.queue).qroot.toNat l.compsig l.part l.error).launchGone n) := by
  change execCompletionSignal n s = _
  unfold execCompletionSignal
  rw [hl]
  dsimp only
  rw [if_neg (by rw [hs, hi, hw]; decide)]
  rfl

theorem launchGone_gone (s : State) (n : Nat) : (s.launchGone n).launch? n = none := by
  unfold State.launchGone State.closeQueues State.launch?
  dsimp only
  rw [Option.map_eq_none_iff, List.find?_eq_none, SMap.erase_eq_filter]
  intro x hx
  exact fun h => absurd (eq_of_beq h) (bne_iff_ne.1 (List.mem_filter.1 hx).2)

theorem completionSignal_signals {l : Launch} (hl : s.launch? n = some l) (hs : l.signalled = false) (hi : s.launchIdle n l = true) (hw : s.launchWrites n l = false) :
    ∃ t, exec (.completionSignal n) s = .next t ∧ t.launch? n = none ∧ (l.compsig = 0 → t.mem = s.mem) ∧
      ∀ loc kind lat s1, l.compsig ≠ 0 → s.rootPlace (s.getQueue l.queue).qroot.toNat l.compsig true = (.ok loc kind lat, s1) → OnItsWay s1 t loc l.error := by
  refine ⟨_, completionSignal_outcome hl hs hi hw, launchGone_gone .., fun h => ?_, fun loc kind lat s1 hne h => ?_⟩
  · rw [h, State.compSignal_none]
    rfl
  · rw [State.compSignal_onItsWay hne h]
    exact onItsWay_compTo s1 loc l.error

/-! ### A completion signal at its place (R244) -/

theorem sigValue_eq {x : Nat} (hx : x < 2 ^ 64) (err : Bool) : sigValue x err = (x + 1) % 2 ^ 63 + (if x.testBit 63 || err then 2 ^ 63 else 0) := by
  have htop : x / 2 ^ 63 = 0 ∨ x / 2 ^ 63 = 1 := by omega
  unfold sigValue
  rw [Nat.testBit_eq_decide_div_mod_eq]
  rcases htop with h | h <;> rw [h] <;> cases err <;> simp [Nat.add_comm]

theorem leNat_lt (l : List Byte) : leNat l < 256 ^ l.length := by
  induction l with
  | nil => exact Nat.one_pos
  | cons b l ih =>
    have hb := b.isLt
    rw [leNat, List.length_cons, Nat.pow_succ]
    omega

theorem State.compsLand_one {at_ loc : Nat} {err : Bool} (h : s.comps = [(at_, loc, err)]) (hat : at_ ≤ s.clock) :
    s.compsLand = ({ s with comps := [] } : State).store loc (leBytes 8 (sigValue (leNat (s.readBytes loc 8)) err)) := by
  unfold State.compsLand
  dsimp only
  rw [h]
  rw [List.filter_cons_of_pos (by simpa using hat), List.filter_nil, List.filter_cons_of_neg (by simpa using hat), List.filter_nil]
  rfl

theorem compsLand_lands {at_ loc : Nat} {err : Bool} (h : s.comps = [(at_, loc, err)]) (hat : at_ ≤ s.clock) :
    s.compsLand.comps = [] ∧ Signalled s s.compsLand loc err ∧ ∀ a, a < loc ∨ loc + 8 ≤ a → s.compsLand.readByte a = s.readByte a := by
  rw [State.compsLand_one h hat]
  generalize hv : leBytes 8 (sigValue (leNat (s.readBytes loc 8)) err) = v
  have hlen : v.length = 8 := by rw [← hv, leBytes_length]
  have hx : leNat (s.readBytes loc 8) < 2 ^ 64 := by
    have := leNat_lt (s.readBytes loc 8)
    rwa [State.readBytes_length] at this
  obtain ⟨hout, hin, -, -⟩ := storedBytes { s with comps := [] } loc v
  refine ⟨(congrArg State.comps (State.store_unstored { s with comps := [] } loc v) :), ?_, fun a ha => hout a (by rw [hlen]; exact ha)⟩
  rw [hlen] at hin
  unfold Signalled
  dsimp only
  rw [hin, ← hv, leNat_leBytes, sigValue_eq hx, Nat.mod_eq_of_lt]
  have := Nat.mod_lt (leNat (s.readBytes loc 8) + 1) (Nat.two_pow_pos 63)
  split <;> omega

/-! ### A reel that arrives (R247) -/

/-- Every reel buffer as it was, and every register. -/
structure BufsKept (s t : State) : Prop where
  bufs : ∀ c, (t.getCol c).bufs = (s.getCol c).bufs
  cd : t.cd = s.cd

namespace BufsKept

variable {x : State}

theorem updCol (h : BufsKept s x) (c : Nat) {F : Column → Column} (hF : ∀ y, (F y).bufs = y.bufs := by exact fun _ => rfl) : BufsKept s (x.updCol c F) := by
  refine ⟨fun k => ?_, h.cd⟩
  rw [← h.bufs]
  by_cases hk : k = c
  · rw [hk, State.getCol_updCol_same, hF]
  · rw [State.getCol_updCol_other _ _ _ _ hk]

theorem of_eq (h : BufsKept s x) {y : State} (hc : y.col = x.col := by rfl) (hd : y.cd = x.cd := by rfl) : BufsKept s y :=
  ⟨fun k => by rw [← h.bufs, State.getCol, hc]; rfl, hd.trans h.cd⟩

theorem eventRecord (h : BufsKept s x) (cc sub die : Nat) : BufsKept s (x.eventRecord cc sub die) := by
  unfold State.eventRecord
  split
  · exact h.of_eq
  · exact h

theorem activate (h : BufsKept s x) (col k from_ : Nat) : BufsKept s (x.activate col k from_) := by
  unfold State.activate
  exact updCol h.of_eq _

theorem decide (h : BufsKept s x) (col from_ : Nat) : BufsKept s (x.decide col from_) := by
  have h1 : BufsKept s (x.noteAges col) := h.updCol _
  unfold State.decide
  dsimp only
  split
  · exact h1.updCol _
  · split
    · exact h1
    · exact ((h1.updCol _).activate ..).eventRecord ..

theorem loaded (h : BufsKept s x) (cc : Nat) : BufsKept s (x.loaded cc) := by
  unfold State.loaded
  dsimp only
  split
  · unfold State.pickIdle
    split
    · exact decide (of_eq h) ..
    · exact of_eq h
  · exact h

end BufsKept

theorem reelLands_lands {s1 : State} {col i cc : Nat} {b : ReelBuf} {l : Launch} {d : List Byte} {ps : List Nat} (hb : (s.getCol col).bufs[i]? = some b)
    (ha : b.arrived = false) (hw : b.waits = false) (hdue : b.due ≤ s.clock) (hcc : s.ccOfLaunch col b.launch = some cc) (hl : s.launch? b.launch = some l)
    (hr : s.readReel (s.home col) cc (ceilDiv (8 * (l.kernel.reel b.reel).2) 64) 0 (l.kernel.reel b.reel).1 [] [] = (.ok d ps, s1)) :
    s.reelLands col i = s1.updCol col fun c => { c with bufs := c.bufs.set i { b with data := dwords (l.kernel.reel b.reel).2 d, poison := ps, arrived := true } } := by
  unfold State.reelLands
  rw [hb]
  dsimp only
  rw [if_neg (by simp [ha, Nat.not_lt.2 hdue]), hcc, hl]
  dsimp only
  rw [hw, if_neg (by decide), hr]

theorem Accessed.readReel {s : State} (die cc n : Nat) : ∀ {x : State} (i va : Nat) (acc : List Byte) (ps : List Nat), Accessed s x →
    Accessed s (x.readReel die cc n i va acc ps).2 := by
  induction n with
  | zero => exact fun _ _ _ _ h => h
  | succ n ih =>
    intro x i va acc ps h
    have h1 : Accessed s (x.resolve die cc .cp (x.ccTrbase cc) va false true false).2 := h.resolve ..
    rw [State.readReel]
    dsimp only
    split
    · exact ih _ _ _ _ h1
    · exact h1
    · exact h1
    · exact h1

theorem reelArrives_arrives {s1 : State} {col i cc : Nat} {b : ReelBuf} {l : Launch} {d : List Byte} {ps : List Nat} (hb : (s.getCol col).bufs[i]? = some b)
    (ha : b.arrived = false) (hw : b.waits = false) (hdue : b.due ≤ s.clock) (hcc : s.ccOfLaunch col b.launch = some cc) (hl : s.launch? b.launch = some l)
    (hr : s.readReel (s.home col) cc (ceilDiv (8 * (l.kernel.reel b.reel).2) 64) 0 (l.kernel.reel b.reel).1 [] [] = (.ok d ps, s1)) :
    ∃ t, exec (.reelArrives col i) s = .next t ∧
      (t.getCol col).bufs[i]? = some { b with data := dwords (l.kernel.reel b.reel).2 d, poison := ps, arrived := true } ∧ t.cd = s1.cd := by
  have hacc : Accessed s s1 := by
    have := (Accessed.refl s).readReel (s.home col) cc (ceilDiv (8 * (l.kernel.reel b.reel).2) 64) 0 (l.kernel.reel b.reel).1 [] []
    rwa [hr] at this
  have hland := reelLands_lands hb ha hw hdue hcc hl hr
  have hcol : s1.getCol col = s.getCol col := by
    unfold State.getCol
    rw [hacc.unaccessed_eq.2.2.2.1]
  have hk : BufsKept (s.reelLands col i) ([0, 1, 2, 3].foldl (fun s k => s.loaded (ccKey col k)) (s.reelLands col i)) :=
    foldl_ind (P := BufsKept (s.reelLands col i)) (fun _ _ hy => hy.loaded _) _ _ ⟨fun _ => rfl, rfl⟩
  refine ⟨_, rfl, ?_, hk.cd.trans ?_⟩
  · rw [hk.bufs, hland, State.getCol_updCol_same, hcol, List.getElem?_set_self (List.getElem?_eq_some_iff.1 hb).1]
  · rw [hland]
    rfl

end Sys2Proof.Machine
end

section
/-! SUPPORT. Teams started (R94, R95, R108, R242). -/

set_option Elab.async false

namespace Sys2Proof.Machine

open Claims

/-! ### What the loads of a start leave -/

/-- A state in which only column contexts that `Q` names may have been started. -/
structure Launching (Q : Nat → Nat → Prop) (s t : State) : Prop where
  cc : ∀ c < 32, ∀ k < 4, ¬Q c k → t.getCc (ccKey c k) = s.getCc (ccKey c k)
  cd : ∀ c < 32, ∀ k < 4, ¬Q c k → ∀ d < 8, t.getCd (ctxKey d c k) = s.getCd (ctxKey d c k)
  unused : ∀ c k, t.unused c k = s.unused c k
  queues : t.queues = s.queues
  launches : t.launches = s.launches

theorem unused_congr {s t : State} (hs : t.swaps = s.swaps) (he : t.eng = s.eng) (hk : ∀ j ck, (t.getCore j).has ck = (s.getCore j).has ck) (c k : Nat) :
    t.unused c k = s.unused c k := by
  unfold State.unused
  simp only [hs, he, hk]

namespace Launching

variable {Q R : Nat → Nat → Prop} {s x y : State}

theorem refl (Q : Nat → Nat → Prop) (s : State) : Launching Q s s := ⟨fun _ _ _ _ _ => rfl, fun _ _ _ _ _ _ _ => rfl, fun _ _ => rfl, rfl, rfl⟩

theorem trans (h : Launching Q s x) (g : Launching Q x y) : Launching Q s y :=
  ⟨fun c hc k hk hn => (g.cc c hc k hk hn).trans (h.cc c hc k hk hn), fun c hc k hk hn d hd => (g.cd c hc k hk hn d hd).trans (h.cd c hc k hk hn d hd),
    fun c k => (g.unused c k).trans (h.unused c k), g.queues.trans h.queues, g.launches.trans h.launches⟩

theorem mono (h : Launching Q s x) (hqr : ∀ c < 32, ∀ k < 4, Q c k → R c k) : Launching R s x :=
  ⟨fun c hc k hk hn => h.cc c hc k hk fun hq => hn (hqr c hc k hk hq), fun c hc k hk hn => h.cd c hc k hk fun hq => hn (hqr c hc k hk hq),
    h.unused, h.queues, h.launches⟩

/-- Nothing but what no context and no queue of commands is made of. -/
theorem of_eq (h : Launching Q s x) (hcc : y.cc = x.cc := by rfl) (hcd : y.cd = x.cd := by rfl) (hs : y.swaps = x.swaps := by rfl) (he : y.eng = x.eng := by rfl)
    (hk : ∀ j ck, (y.getCore j).has ck = (x.getCore j).has ck := by exact fun _ _ => rfl) (hq : y.queues = x.queues := by rfl) (hl : y.launches = x.launches := by rfl) :
    Launching Q s y := by
  refine h.trans ⟨fun c _ k _ _ => by rw [State.getCc, hcc]; rfl, fun c hc k hk _ d hd => ?_, unused_congr hs he hk, hq, hl⟩
  unfold State.getCd
  rw [if_pos (.inl (ctxKey_lt_of hd hc hk)), if_pos (.inl (ctxKey_lt_of hd hc hk)), hcd]

theorem accessed (h : Launching Q s x) (g : Accessed x y) : Launching Q s y := by
  obtain ⟨-, hcd, hcc, -, hl, -, -, -, hs, he, -, -⟩ := g.unaccessed_eq
  refine h.of_eq hcc hcd hs he (fun j ck => ?_) g.queues hl
  have hk := g.core j
  exact (congrArg (fun c : Core => c.has ck) hk :)

theorem updCol (h : Launching Q s x) (c : Nat) (F : Column → Column) : Launching Q s (x.updCol c F) := h.of_eq

theorem freeCtxs (h : Launching Q s x) {c : Nat} (hc : c < 32) (hn : ∀ k < 4, ¬Q c k) : x.freeCtxs c = s.freeCtxs c := by
  unfold State.freeCtxs
  refine List.filter_congr fun k hk => ?_
  have hlt : k < 4 := by
    simp only [List.mem_cons, List.not_mem_nil, or_false] at hk
    omega
  rw [Bool.eq_iff_iff, State.ctxFree_iff, State.ctxFree_iff, h.cc c hc k hlt (hn k hlt), h.unused]

end Launching

/-- Each core's tag table and semaphores as they were. -/
def CoresKept (s t : State) : Prop := ∀ j, (t.getCore j).tags = (s.getCore j).tags ∧ (t.getCore j).sem = (s.getCore j).sem

theorem CoresKept.trans {s x y : State} (h : CoresKept s x) (g : CoresKept x y) : CoresKept s y :=
  fun j => ⟨(g j).1.trans (h j).1, (g j).2.trans (h j).2⟩

theorem Accessed.coresKept {s t : State} (h : Accessed s t) : CoresKept s t := fun j =>
  ⟨(congrArg Core.tags (h.core j) :), (congrArg Core.sem (h.core j) :)⟩

theorem CoresKept.of_core {s t : State} (h : t.core = s.core := by rfl) : CoresKept s t := fun j => by
  unfold State.getCore
  rw [h]
  exact ⟨rfl, rfl⟩

variable {s x : State}

theorem Accessed.loadFps (h : Accessed s x) (root : Nat) (k : Kernel) : Accessed s (x.loadFps root k).2 := by
  have h1 := h.feBytes root k.fpAt (64 * k.ncw)
  unfold State.loadFps
  dsimp only
  split
  · exact h1
  · exact h1

theorem Accessed.imageBanks (h : Accessed s x) (root : Nat) (k : Kernel) : Accessed s (x.imageBanks root k).2 := by
  unfold State.imageBanks
  exact List.foldlRecOn (motive := fun p : List (Nat × List (Byte × Bool)) × State => Accessed s p.2) _ _ h fun _ hp _ _ => Accessed.rootRead _ _ hp

/-! ### Cores taken (R95, R108, R242) -/

/-- A core that a launch has taken: its tag table empty, its named semaphores at their counts. -/
def Core.takenBy (c : Core) (n : Nat) (k : Kernel) : Prop := n ∈ c.taken ∧ c.tags = [] ∧ ∀ m ∈ k.named, SMap.get 0 c.sem m = SMap.get 0 k.sems m

theorem named_counts (k : Kernel) (l : List Nat) : ∀ (m : SMap Nat) (i : Nat), (i ∈ l ∨ SMap.get 0 m i = SMap.get 0 k.sems i) →
    SMap.get 0 (l.foldl (fun m i => SMap.set 0 m i (SMap.get 0 k.sems i)) m) i = SMap.get 0 k.sems i := by
  induction l with
  | nil => exact fun m i h => h.resolve_left List.not_mem_nil
  | cons a l ih =>
    intro m i h
    refine ih _ i ?_
    by_cases hi : i = a
    · exact .inr (by rw [hi, SMap.get_set_same])
    · rw [SMap.get_set_other _ _ _ _ _ hi]
      refine h.imp_left fun h => ?_
      rcases List.mem_cons.1 h with h | h
      · exact absurd h hi
      · exact h

theorem Accessed.loadBanks (h : Accessed s x) (core : Nat) (img : List (Nat × List (Byte × Bool))) :
    Accessed s (img.foldl (fun s x => s.loadBank core x.1 x.2) x) := by
  refine foldl_ind (f := fun s x => s.loadBank core x.1 x.2) (P := Accessed s) (fun y b hy => ?_) img x h
  unfold State.loadBank
  exact foldl_ind (P := Accessed s) (fun _ _ hz => hz.storeP ..) _ _ hy

theorem takeCore_takes (n : Nat) (k : Kernel) (img : List (Nat × List (Byte × Bool))) (core : Nat) {Q : Nat → Nat → Prop} (h : Launching Q s x) :
    Launching Q s (x.takeCore n k img core) ∧ (∀ j, (x.getCore j).takenBy n k → ((x.takeCore n k img core).getCore j).takenBy n k) ∧
      (n ∉ (x.getCore core).taken → ((x.takeCore n k img core).getCore core).takenBy n k) ∧
      ∀ j ≠ core, ((x.takeCore n k img core).getCore j).taken = (x.getCore j).taken := by
  unfold State.takeCore
  split
  · rename_i hin
    exact ⟨h, fun _ => id, fun hn => absurd (List.contains_iff_mem.1 hin) hn, fun _ _ => rfl⟩
  · rename_i hno
    have hni : n ∉ (x.getCore core).taken := fun hm => hno (List.contains_iff_mem.2 hm)
    dsimp only
    generalize hy : (x.updCore core fun c => { c with
      taken := n :: c.taken, tags := [], sem := k.named.foldl (fun m i => SMap.set 0 m i (SMap.get 0 k.sems i)) c.sem }) = y
    have hsame : (y.getCore core).takenBy n k := by
      rw [← hy, State.updCore, State.getCore_setCore_same]
      exact ⟨List.mem_cons_self, rfl, fun m hm => named_counts k k.named _ m (.inl hm)⟩
    have hother (j : Nat) (hj : j ≠ core) : y.getCore j = x.getCore j := by rw [← hy, State.updCore, State.getCore_setCore_other _ _ _ _ hj]
    have hl : Launching Q s y := by
      rw [← hy]
      refine h.of_eq (hk := fun j ck => ?_)
      by_cases hj : j = core
      · rw [hj, State.updCore, State.getCore_setCore_same]
        rfl
      · rw [State.updCore, State.getCore_setCore_other _ _ _ _ hj]
    have hacc : Accessed y (img.foldl (fun s x => s.loadBank core x.1 x.2) y) := (Accessed.refl y).loadBanks ..
    have htk (j : Nat) (hj : (y.getCore j).takenBy n k) : ((img.foldl (fun s x => s.loadBank core x.1 x.2) y).getCore j).takenBy n k :=
      (congrArg (fun c : Core => c.takenBy n k) (hacc.core j) :) ▸ hj
    refine ⟨hl.accessed hacc, fun j hj => htk j ?_, fun _ => htk core hsame, fun j hj => ?_⟩
    · by_cases hjc : j = core
      · rw [hjc]
        exact hsame
      · rw [hother j hjc]
        exact hj
    · have ht : ((img.foldl (fun s x => s.loadBank core x.1 x.2) y).getCore j).taken = (y.getCore j).taken := (congrArg Core.taken (hacc.core j) :)
      rw [ht, hother j hj]

theorem takeCores_take (n : Nat) (k : Kernel) (img : List (Nat × List (Byte × Bool))) {Q : Nat → Nat → Prop} (cores : List Nat) :
    ∀ {x : State}, Launching Q s x → Launching Q s (cores.foldl (fun s c => s.takeCore n k img c) x) ∧
      ∀ j, ((x.getCore j).takenBy n k ∨ (j ∈ cores ∧ n ∉ (x.getCore j).taken)) → ((cores.foldl (fun s c => s.takeCore n k img c) x).getCore j).takenBy n k := by
  induction cores with
  | nil => exact fun h => ⟨h, fun j hj => hj.resolve_right fun ⟨hm, _⟩ => List.not_mem_nil hm⟩
  | cons c cores ih =>
    intro x h
    obtain ⟨hl, hkeep, htake, hother⟩ := takeCore_takes n k img c h
    obtain ⟨hl', hcore⟩ := ih hl
    rw [List.foldl_cons]
    refine ⟨hl', fun j hj => hcore j ?_⟩
    rcases hj with hj | ⟨hm, hn⟩
    · exact .inl (hkeep j hj)
    · by_cases hjc : j = c
      · subst hjc
        exact .inl (htake hn)
      · rcases List.mem_cons.1 hm with hm | hm
        · exact absurd hm hjc
        · refine .inr ⟨hm, ?_⟩
          rw [hother j hjc]
          exact hn

/-! ### Contexts started (R95) -/

/-- A context of a team stands on a column context as R95 launches it. -/
def State.launchedAt (t : State) (n : Nat) (l : Launch) (team tcol tctx : Nat) (root : DWord) (col k : Nat) : Prop :=
  (∃ fps u, t.getCc (ccKey col k) = launchCol l n team tcol tctx fps u) ∧
    ∀ d < 8, l.live.testBit d = true → ∃ c, t.getCd (ctxKey d col k) = launchDie l root c

theorem Launching.launched {Q : Nat → Nat → Prop} {y : State} (h : Launching Q x y) {n team i j col k : Nat} {l : Launch} {root : DWord} (hc : col < 32) (hk : k < 4)
    (hn : ¬Q col k) (hx : x.launchedAt n l team i j root col k) : y.launchedAt n l team i j root col k := by
  obtain ⟨hcc, hcd⟩ := hx
  unfold State.launchedAt
  rw [h.cc col hc k hk hn]
  refine ⟨hcc, fun d hd hl => ?_⟩
  rw [h.cd col hc k hk hn d hd]
  exact hcd d hd hl

/-- The dies of a launch. -/
def Launch.dies (l : Launch) : List Nat := allDies.filter fun d => bits l.live d 1 == 1

theorem mem_allDies {d : Nat} : d ∈ allDies ↔ d < 8 := by
  simp only [allDies, List.mem_cons, List.not_mem_nil, or_false]
  omega

theorem Launch.mem_dies {l : Launch} {d : Nat} : d ∈ l.dies ↔ d < 8 ∧ l.live.testBit d = true := by
  unfold Launch.dies
  rw [List.mem_filter, mem_allDies, Nat.testBit_eq_decide_div_mod_eq, beq_iff_eq, decide_eq_true_eq]
  rfl

theorem startDies_start (l : Launch) {col k : Nat} (hcol : col < 32) (hk : k < 4) (root : DWord) (ds : List Nat) : ∀ x : State, (∀ d ∈ ds, d < 8) →
    (x.getQueue l.queue).qroot = root →
    let y := ds.foldl (fun s d => s.updCd (ctxKey d col k) (launchDie l (s.getQueue l.queue).qroot)) x
    y.unloaded = x.unloaded ∧ (∀ i, (∀ d ∈ ds, i ≠ ctxKey d col k) → y.getCd i = x.getCd i) ∧
      ∀ d < 8, (d ∈ ds ∨ ∃ c, x.getCd (ctxKey d col k) = launchDie l root c) → ∃ c, y.getCd (ctxKey d col k) = launchDie l root c := by
  induction ds with
  | nil => exact fun x _ _ => ⟨rfl, fun _ _ => rfl, fun d _ h => h.resolve_left List.not_mem_nil⟩
  | cons e ds ih =>
    intro x hlt hroot
    have hstep : (x.updCd (ctxKey e col k) (launchDie l (x.getQueue l.queue).qroot)).unloaded = x.unloaded := by
      unfold State.updCd State.setCd
      rw [if_pos (.inl (ctxKey_lt_of (hlt e List.mem_cons_self) hcol hk))]
      rfl
    have hroot' : ((x.updCd (ctxKey e col k) (launchDie l (x.getQueue l.queue).qroot)).getQueue l.queue).qroot = root := by
      have hq : (x.updCd (ctxKey e col k) (launchDie l (x.getQueue l.queue).qroot)).queues = x.queues := (congrArg State.queues hstep :)
      generalize x.updCd (ctxKey e col k) (launchDie l (x.getQueue l.queue).qroot) = z at hq
      unfold State.getQueue at hroot ⊢
      rw [hq]
      exact hroot
    obtain ⟨hrest, hother, hmem⟩ := ih _ (fun d hd => hlt d (List.mem_cons_of_mem _ hd)) hroot'
    rw [List.foldl_cons]
    refine ⟨hrest.trans hstep, fun i hi => ?_, fun d hd h => hmem d hd ?_⟩
    · rw [hother i fun d hd => hi d (List.mem_cons_of_mem _ hd), State.getCd_updCd_other _ _ _ _ (hi e List.mem_cons_self)]
    · by_cases hde : d = e
      · rw [hde, State.getCd_updCd_same, hroot]
        exact .inr ⟨_, rfl⟩
      · refine h.imp (fun h => ?_) fun h => ?_
        · rcases List.mem_cons.1 h with h | h
          · exact absurd h hde
          · exact h
        · rw [State.getCd_updCd_other _ _ _ _ fun hkey => hde (ctxKey_inj hcol hcol hk hk hkey).1]
          exact h

theorem startCtx_starts (n : Nat) (l : Launch) (team i j : Nat) {col k : Nat} (fps : SMap (List Region)) (u : Nat) (hcol : col < 32) (hk : k < 4) {root : DWord}
    (hroot : (x.getQueue l.queue).qroot = root) : Launching (fun c m => c = col ∧ m = k) x (x.startCtx n l team i j col k fps u) ∧
      CoresKept x (x.startCtx n l team i j col k fps u) ∧ (x.startCtx n l team i j col k fps u).launchedAt n l team i j root col k := by
  have hds (d : Nat) (hd : d ∈ l.dies) : d < 8 := (Launch.mem_dies.1 hd).1
  obtain ⟨hrest, hother, hmem⟩ := startDies_start l hcol hk root l.dies x hds hroot
  have heq : x.startCtx n l team i j col k fps u =
    (l.dies.foldl (fun s d => s.updCd (ctxKey d col k) (launchDie l (s.getQueue l.queue).qroot)) x).setCc (ccKey col k) (launchCol l n team i j fps u) := rfl
  rw [heq]
  generalize l.dies.foldl (fun s d => s.updCd (ctxKey d col k) (launchDie l (s.getQueue l.queue).qroot)) x = y at hrest hother hmem
  have hcore : y.core = x.core := (congrArg State.core hrest :)
  have hcc : y.cc = x.cc := (congrArg State.cc hrest :)
  have hgc (k : Nat) : y.getCore k = x.getCore k := by rw [State.getCore, hcore]; rfl
  refine ⟨⟨fun c hc m hm hn => ?_, fun c hc m hm hn d hd => ?_, ?_, (congrArg State.queues hrest :), (congrArg State.launches hrest :)⟩, CoresKept.of_core hcore, ?_⟩
  · rw [State.getCc_setCc_other _ _ _ _ fun hkey => hn (ccKey_eq hm hk hkey), State.getCc, hcc]
    rfl
  · exact hother _ fun e _ hkey => hn (ctxKey_inj hc hcol hm hk hkey).2
  · exact unused_congr (t := y.setCc (ccKey col k) (launchCol l n team i j fps u)) (congrArg State.swaps hrest :) (congrArg State.eng hrest :)
      fun a ck => congrArg (fun c : Core => c.has ck) (hgc a)
  · exact ⟨⟨fps, u, State.getCc_setCc_same ..⟩, fun d hd hl => hmem d hd (.inl (Launch.mem_dies.2 ⟨hd, hl⟩))⟩

end Sys2Proof.Machine
end

section
/-! SUPPORT. A team started on its columns (R94, R95, R242, R246), and the statement of packets and teams. -/

set_option Elab.async false

namespace Sys2Proof.Machine

open Claims

variable {s x : State}

/-! ### A column of a starting team -/

/-- Contexts started, no register of another context and no core's table changed. -/
structure Starting (Q : Nat → Nat → Prop) (s t : State) : Prop extends Launching Q s t where
  cores : CoresKept s t

namespace Starting

variable {Q R : Nat → Nat → Prop} {y : State}

theorem refl (Q : Nat → Nat → Prop) (s : State) : Starting Q s s := ⟨Launching.refl Q s, CoresKept.of_core⟩

theorem trans (h : Starting Q s x) (g : Starting Q x y) : Starting Q s y := ⟨h.toLaunching.trans g.toLaunching, h.cores.trans g.cores⟩

theorem mono (h : Starting Q s x) (hqr : ∀ c < 32, ∀ k < 4, Q c k → R c k) : Starting R s x := ⟨h.toLaunching.mono hqr, h.cores⟩

theorem updCol (h : Starting Q s x) (c : Nat) (F : Column → Column) : Starting Q s (x.updCol c F) := ⟨h.toLaunching.updCol .., h.cores.trans CoresKept.of_core⟩

theorem accessed (h : Starting Q s x) (g : Accessed x y) : Starting Q s y := ⟨h.toLaunching.accessed g, h.cores.trans g.coresKept⟩

theorem startReel (h : Starting Q s x) (cc cur target : Nat) : Starting Q s (x.startReel cc cur target) := by
  unfold State.startReel
  split
  · exact h
  · dsimp only
    split
    · exact h
    · rename_i k _ _
      have g : Accessed x (x.reelClocks cc (k.reel target).1 (k.reel target).2).2 := (Accessed.refl x).resolve ..
      exact (h.accessed g).updCol ..

end Starting

/-- The contexts of one column of a team started one after another. -/
def State.startCtxs (s : State) (n : Nat) (l : Launch) (team i col : Nat) (fps : SMap (List Region)) (u : Nat) (xs : List (Nat × Nat)) : State :=
  xs.foldl (fun s x => s.startCtx n l team i x.1 col x.2 fps u) s

theorem startCtxs_start (n : Nat) (l : Launch) (team i : Nat) {col : Nat} (fps : SMap (List Region)) (u : Nat) (hcol : col < 32) {root : DWord} (xs : List (Nat × Nat)) :
    ∀ x : State, (xs.map Prod.snd).Nodup → (∀ z ∈ xs, z.2 < 4) → (x.getQueue l.queue).qroot = root →
      Starting (fun c k => c = col ∧ k ∈ xs.map Prod.snd) x (x.startCtxs n l team i col fps u xs) ∧
        ∀ z ∈ xs, (x.startCtxs n l team i col fps u xs).launchedAt n l team i z.1 root col z.2 := by
  induction xs with
  | nil => exact fun x _ _ _ => ⟨Starting.refl _ x, fun _ hz => absurd hz List.not_mem_nil⟩
  | cons z xs ih =>
    intro x hnd hlt hroot
    rw [List.map_cons, List.nodup_cons] at hnd
    have hz := hlt z List.mem_cons_self
    obtain ⟨hl, hc, hat⟩ := startCtx_starts n l team i z.1 fps u hcol hz hroot
    have hstep : x.startCtxs n l team i col fps u (z :: xs) = (x.startCtx n l team i z.1 col z.2 fps u).startCtxs n l team i col fps u xs := rfl
    rw [hstep]
    generalize x.startCtx n l team i z.1 col z.2 fps u = y at hl hc hat
    have hroot' : (y.getQueue l.queue).qroot = root := by
      unfold State.getQueue at hroot ⊢
      rw [hl.queues]
      exact hroot
    obtain ⟨hs, hats⟩ := ih y hnd.2 (fun w hw => hlt w (List.mem_cons_of_mem _ hw)) hroot'
    refine ⟨(Starting.mono ⟨hl, hc⟩ ?_).trans (hs.mono ?_), fun w hw => ?_⟩
    · exact fun c _ k _ hq => ⟨hq.1, List.mem_cons.2 (.inl hq.2)⟩
    · exact fun c _ k _ hq => ⟨hq.1, List.mem_cons_of_mem _ hq.2⟩
    · rcases List.mem_cons.1 hw with rfl | hw
      · exact hs.toLaunching.launched hcol hz (fun hq => hnd.1 hq.2) hat
      · exact hats w hw

/-- What ends the start on a column: its reel pair and the loads of its first reels. -/
def State.pairStarted (s : State) (n : Nat) (l : Launch) (col : Nat) (ks : List Nat) : State :=
  let s := s.updCol col fun c => { c with pairs := if c.pairs.contains n then c.pairs else c.pairs ++ [n] }
  match ks with
  | k :: _ =>
    let s := s.startReel (ccKey col k) 0 0
    if l.kernel.nreel ≥ 2 then s.startReel (ccKey col k) 0 1 else s
  | [] => s

theorem State.startCol_eq (s : State) (n : Nat) (l : Launch) (team i col : Nat) (fps : SMap (List Region)) (u : Nat) :
    s.startCol n l team i col fps u = (s.startCtxs n l team i col fps u (numbered ((s.freeCtxs col).take l.tc))).pairStarted n l col ((s.freeCtxs col).take l.tc) := rfl

theorem pairStarted_starting (x : State) (n : Nat) (l : Launch) (col : Nat) (ks : List Nat) (Q : Nat → Nat → Prop) : Starting Q x (x.pairStarted n l col ks) := by
  have h : Starting Q x (x.updCol col fun c => { c with pairs := if c.pairs.contains n then c.pairs else c.pairs ++ [n] }) := (Starting.refl Q x).updCol ..
  unfold State.pairStarted
  dsimp only
  split
  · split
    · exact (h.startReel ..).startReel ..
    · exact h.startReel ..
  · exact h

theorem numbered_snd {α : Type} (l : List α) : (numbered l).map Prod.snd = l := List.map_snd_zip (by rw [List.length_range])

theorem freeCtxs_nodup (s : State) (col : Nat) : (s.freeCtxs col).Nodup := List.Nodup.filter _ (by decide)

/-- R95: a column of a starting team: its contexts stand on the lowest of the column's free contexts. -/
theorem startCol_starts (x : State) (n : Nat) (l : Launch) (team i : Nat) {col : Nat} (fps : SMap (List Region)) (u : Nat) (hcol : col < 32) {root : DWord}
    (hroot : (x.getQueue l.queue).qroot = root) : Starting (fun c _ => c = col) x (x.startCol n l team i col fps u) ∧
      ∀ j k, ((x.freeCtxs col).take l.tc)[j]? = some k → (x.startCol n l team i col fps u).launchedAt n l team i j root col k := by
  have hks (k : Nat) (hk : k ∈ (x.freeCtxs col).take l.tc) : k < 4 := (mem_freeCtxs (List.mem_of_mem_take hk)).1
  have hnd : ((numbered ((x.freeCtxs col).take l.tc)).map Prod.snd).Nodup := by
    rw [numbered_snd]
    exact (freeCtxs_nodup x col).sublist (List.take_sublist ..)
  obtain ⟨hs, hat⟩ := startCtxs_start n l team i fps u hcol (numbered ((x.freeCtxs col).take l.tc)) x hnd
    (fun z hz => hks z.2 (by rw [← numbered_snd ((x.freeCtxs col).take l.tc)]; exact List.mem_map_of_mem hz)) hroot
  rw [x.startCol_eq]
  refine ⟨(hs.mono fun c _ k _ hq => hq.1).trans (pairStarted_starting ..), fun j k hjk => ?_⟩
  have hlt := hks k (List.mem_of_getElem? hjk)
  exact (pairStarted_starting _ n l col _ fun _ _ => False).toLaunching.launched hcol hlt id (hat (j, k) (mem_numbered.2 hjk))

/-! ### The columns of a starting team -/

/-- The columns of a team started one after another. -/
def State.startCols (s : State) (n : Nat) (l : Launch) (team : Nat) (fps : SMap (List Region)) (u : Nat) (xs : List (Nat × Nat)) : State :=
  xs.foldl (fun s x => s.startCol n l team x.1 x.2 fps u) s

theorem startCols_start (n : Nat) (l : Launch) (team : Nat) (fps : SMap (List Region)) (u : Nat) {root : DWord} (xs : List (Nat × Nat)) :
    ∀ x : State, (xs.map Prod.snd).Nodup → (∀ z ∈ xs, z.2 < 32) → (x.getQueue l.queue).qroot = root →
      Starting (fun c _ => c ∈ xs.map Prod.snd) x (x.startCols n l team fps u xs) ∧
        ∀ z ∈ xs, ∀ j k, ((x.freeCtxs z.2).take l.tc)[j]? = some k → (x.startCols n l team fps u xs).launchedAt n l team z.1 j root z.2 k := by
  induction xs with
  | nil => exact fun x _ _ _ => ⟨Starting.refl _ x, fun _ hz => absurd hz List.not_mem_nil⟩
  | cons z xs ih =>
    intro x hnd hlt hroot
    rw [List.map_cons, List.nodup_cons] at hnd
    have hz := hlt z List.mem_cons_self
    obtain ⟨hs, hat⟩ := startCol_starts x n l team z.1 fps u hz hroot
    have hstep : x.startCols n l team fps u (z :: xs) = (x.startCol n l team z.1 z.2 fps u).startCols n l team fps u xs := rfl
    rw [hstep]
    generalize x.startCol n l team z.1 z.2 fps u = y at hs hat
    have hroot' : (y.getQueue l.queue).qroot = root := by
      unfold State.getQueue at hroot ⊢
      rw [hs.queues]
      exact hroot
    obtain ⟨hs', hats⟩ := ih y hnd.2 (fun w hw => hlt w (List.mem_cons_of_mem _ hw)) hroot'
    refine ⟨(hs.mono ?_).trans (hs'.mono ?_), fun w hw j k hjk => ?_⟩
    · exact fun c _ k _ hq => List.mem_cons.2 (.inl hq)
    · exact fun c _ k _ hq => List.mem_cons_of_mem _ hq
    · rcases List.mem_cons.1 hw with rfl | hw
      · exact hs'.toLaunching.launched hz (mem_freeCtxs (List.mem_of_mem_take (List.mem_of_getElem? hjk))).1 hnd.1 (hat j k hjk)
      · have hne : w.2 ≠ z.2 := fun he => hnd.1 (he ▸ List.mem_map_of_mem hw)
        refine hats w hw j k ?_
        rw [hs.toLaunching.freeCtxs (hlt w (List.mem_cons_of_mem _ hw)) fun _ _ => hne]
        exact hjk

/-! ### A team's start -/

/-- The cores of a starting team. -/
def Launch.coresOf (l : Launch) : List Nat := (l.colsOf l.nextTeam).flatMap fun c => l.dies.map fun d => coreKey d c

/-- The state in which the loads of a start are under way, and its footprints. -/
def State.startLoads (s : State) (n : Nat) (l : Launch) : SMap (List Region) × List (Nat × List (Byte × Bool)) × State :=
  let root := (s.getQueue l.queue).qroot.toNat
  let p := s.loadFps root l.kernel
  let q := if l.coresOf.any fun c => !(s.getCore c).taken.contains n then p.2.imageBanks root l.kernel else ([], p.2)
  (p.1, q.1, q.2)

/-- The clock at which the loads of a start end. -/
def State.loadsEnd (s : State) (n : Nat) (l : Launch) : Nat :=
  s.clock + s.loadClocks (s.getQueue l.queue).qroot.toNat l.kernel (l.coresOf.any fun c => !(s.getCore c).taken.contains n)

/-- R282: the lent columns of a start noted. -/
def State.lentNoted (s : State) (cols : List Nat) : State :=
  cols.foldl (fun (s : State) c => if (s.getCol c).lendReg.getLsbD 63 then s.updCol c fun x => { x with lentAt := s.clock + 1 } else s) s

/-- The launch with one more team started. -/
def Launch.teamStarted (l : Launch) (cols : List Nat) (team : Nat) (save : Option Nat) : Launch :=
  { l with nextTeam := team + 1, teamCols := l.teamCols ++ [(team, cols)], save := save }

/-- The state in which a team's columns have started. -/
def State.colsStarted (s : State) (n : Nat) (l : Launch) : State :=
  let p := s.startLoads n l
  ((l.coresOf.foldl (fun s c => s.takeCore n l.kernel p.2.1 c) p.2.2).startCols n l l.nextTeam p.1 (s.loadsEnd n l) (numbered (l.colsOf l.nextTeam))).lentNoted
    (l.colsOf l.nextTeam)

theorem State.startTeam_eq (s : State) (n : Nat) (l : Launch) : s.startTeam n l =
    (s.colsStarted n l).updLaunch n fun k => k.teamStarted (l.colsOf l.nextTeam) l.nextTeam ((s.colsStarted n l).saveBlock n k) := rfl

theorem startLoads_accessed (s : State) (n : Nat) (l : Launch) : Accessed s (s.startLoads n l).2.2 := by
  have h := (Accessed.refl s).loadFps (s.getQueue l.queue).qroot.toNat l.kernel
  unfold State.startLoads
  dsimp only
  split
  · exact h.imageBanks ..
  · exact h

theorem lentNoted_starting (x : State) (cols : List Nat) (Q : Nat → Nat → Prop) : Starting Q x (x.lentNoted cols) := by
  unfold State.lentNoted
  refine foldl_ind (P := Starting Q x) (fun y c hy => ?_) _ _ (Starting.refl Q x)
  split
  · exact hy.updCol ..
  · exact hy

/-- R95, R242: what a team's start leaves of its columns and cores. -/
theorem colsStarted_starts (n : Nat) (l : Launch) (hnd : (l.colsOf l.nextTeam).Nodup) (hcols : ∀ c ∈ l.colsOf l.nextTeam, c < 32) :
    (s.colsStarted n l).queues = s.queues ∧ (s.colsStarted n l).launches = s.launches ∧
    (∀ i col j k, (l.colsOf l.nextTeam)[i]? = some col → ((s.freeCtxs col).take l.tc)[j]? = some k →
      (s.colsStarted n l).launchedAt n l l.nextTeam i j (s.getQueue l.queue).qroot col k) ∧
    ∀ c ∈ l.coresOf, n ∉ (s.getCore c).taken → ((s.colsStarted n l).getCore c).tags = [] ∧
      ∀ m ∈ l.kernel.named, SMap.get 0 ((s.colsStarted n l).getCore c).sem m = SMap.get 0 l.kernel.sems m := by
  have hacc := startLoads_accessed s n l
  unfold State.colsStarted
  dsimp only
  generalize s.startLoads n l = p at hacc
  have htaken (c : Nat) : (p.2.2.getCore c).taken = (s.getCore c).taken := (congrArg Core.taken (hacc.core c) :)
  obtain ⟨hl, htake⟩ := takeCores_take n l.kernel p.2.1 l.coresOf ((Launching.refl (fun _ _ => False) s).accessed hacc)
  generalize l.coresOf.foldl (fun s c => s.takeCore n l.kernel p.2.1 c) p.2.2 = y at hl htake
  have hroot : (y.getQueue l.queue).qroot = (s.getQueue l.queue).qroot := by
    unfold State.getQueue
    rw [hl.queues]
  obtain ⟨hs, hat⟩ := startCols_start n l l.nextTeam p.1 (s.loadsEnd n l) (numbered (l.colsOf l.nextTeam)) y (by rw [numbered_snd]; exact hnd)
    (fun z hz => hcols z.2 (by rw [← numbered_snd (l.colsOf l.nextTeam)]; exact List.mem_map_of_mem hz)) hroot
  generalize y.startCols n l l.nextTeam p.1 (s.loadsEnd n l) (numbered (l.colsOf l.nextTeam)) = z at hs hat
  have hend := lentNoted_starting z (l.colsOf l.nextTeam) fun _ _ => False
  refine ⟨hend.queues.trans (hs.queues.trans hl.queues), hend.launches.trans (hs.launches.trans hl.launches), fun i col j k hi hjk => ?_, fun c hc hn => ?_⟩
  · have hcol := hcols col (List.mem_of_getElem? hi)
    refine hend.toLaunching.launched hcol (mem_freeCtxs (List.mem_of_mem_take (List.mem_of_getElem? hjk))).1 id (hat (i, col) (mem_numbered.2 hi) j k ?_)
    rw [hl.freeCtxs hcol fun _ _ => id]
    exact hjk
  · obtain ⟨-, htags, hsem⟩ := htake c (.inr ⟨hc, by rw [htaken]; exact hn⟩)
    obtain ⟨h1, h2⟩ := (hs.cores.trans hend.cores) c
    rw [h1, h2]
    exact ⟨htags, hsem⟩

/-! ### TEAM_START -/

theorem teamStart_outcome {n : Nat} {l : Launch} (hl : s.launch? n = some l) (hfe : (s.getQueue l.queue).fe = .launching n) (hrun : s.feRuns = true)
    (hnext : l.nextTeam < l.teams) (hcan : s.canStart n l = true) :
    exec (.teamStart n) s = .next (if l.nextTeam + 1 ≥ l.teams then (s.startTeam n l).feDone l.queue else s.startTeam n l) := by
  have hdrop : l.dropped = false := by
    unfold State.canStart at hcan
    rw [Bool.and_eq_true, Bool.and_eq_true, Bool.and_eq_true, Bool.and_eq_true] at hcan
    obtain ⟨⟨⟨⟨-, hd⟩, -⟩, -⟩, -⟩ := hcan
    simpa using hd
  change execTeamStart n s = _
  unfold execTeamStart
  rw [hl]
  dsimp only
  rw [hfe, hrun, if_neg (by simp), hdrop, if_neg (by simp [hnext]), hcan, if_neg (by simp)]

theorem canStart_room {n : Nat} {l : Launch} (hcan : s.canStart n l = true) {c : Nat} (hc : c ∈ l.colsOf l.nextTeam) : l.tc ≤ (s.freeCtxs c).length := by
  unfold State.canStart at hcan
  rw [Bool.and_eq_true] at hcan
  have h := List.all_eq_true.1 hcan.2 c hc
  rw [Bool.and_eq_true, Bool.and_eq_true] at h
  exact of_decide_eq_true h.1.1

/-- What a context reads that R95 has launched. -/
theorem launchedAt_reads {t : State} {n team i j col k : Nat} {l : Launch} {root : DWord} (h : t.launchedAt n l team i j root col k) :
    (let c := t.getCc (ccKey col k)
     c.st = .loading ∧ c.launch = n ∧ c.team = team ∧ c.tcol = i ∧ c.tctx = j ∧ c.cs = {} ∧ c.inh = false ∧ c.trap = []) ∧
    ∀ d < 8, l.live.testBit d = true →
      let x := t.getCd (ctxKey d col k)
      x.trbase = root ∧ x.ws.rd .s 1 = l.arg.setWidth 512 ∧ (∀ m ≠ 1, x.ws.rd .s m = 0#512) ∧ (∀ m, x.ws.rd .v m = 0#512) ∧
        (∀ m, x.ws.rd .p m = 0#512) ∧ x.ws.f = 0#8 ∧ x.dup = x.ws ∧ x.pend = [] ∧ x.blot = [] ∧ x.tvec = 0#64 := by
  obtain ⟨⟨fps, u, hcc⟩, hcd⟩ := h
  refine ⟨?_, fun d hd hl => ?_⟩
  · rw [hcc]
    exact ⟨rfl, rfl, rfl, rfl, rfl, rfl, rfl, rfl⟩
  · obtain ⟨c, hc⟩ := hcd d hd hl
    dsimp only
    rw [hc]
    have hs (m : Nat) (hm : m ≠ 0) : (launchDie l root c).ws.rd .s m = (SMap.get 0#64 (SMap.set 0#64 [] 1 l.arg) m).setWidth 512 := if_neg hm
    refine ⟨rfl, ?_, fun m hm => ?_, fun _ => rfl, fun _ => BitVec.setWidth_zero .., rfl, rfl, rfl, rfl, rfl⟩
    · rw [hs 1 (by decide), SMap.get_set_same]
    · by_cases h0 : m = 0
      · rw [h0]
        rfl
      · rw [hs m h0, SMap.get_set_other _ _ _ _ _ hm]
        exact BitVec.setWidth_zero ..

theorem colsOf_mem {l : Launch} {t c : Nat} (h : c ∈ l.colsOf t) : c ∈ l.cols := List.mem_of_mem_drop (List.mem_of_mem_take h)

/-- What the end of a queue's packet leaves of contexts and launches. -/
theorem feDone_same (x : State) (q : Nat) : (x.feDone q).cc = x.cc ∧ (x.feDone q).cd = x.cd ∧ (x.feDone q).core = x.core ∧ (x.feDone q).launches = x.launches := by
  have h := x.feDone_keeps q
  exact ⟨(congrArg State.cc h :), (congrArg State.cd h :), (congrArg State.core h :), (congrArg State.launches h :)⟩

/-- What a launch's record, written, leaves of contexts and cores. -/
theorem updLaunch_same (x : State) (n : Nat) (F : Launch → Launch) : (x.updLaunch n F).cc = x.cc ∧ (x.updLaunch n F).cd = x.cd ∧ (x.updLaunch n F).core = x.core := by
  unfold State.updLaunch
  split
  · exact ⟨rfl, rfl, rfl⟩
  · exact ⟨rfl, rfl, rfl⟩

theorem teamStart_starts {n : Nat} {l : Launch} (hl : s.launch? n = some l) (hfe : (s.getQueue l.queue).fe = .launching n) (hrun : s.feRuns = true)
    (hnext : l.nextTeam < l.teams) (hcan : s.canStart n l = true) (hnd : (l.colsOf l.nextTeam).Nodup) (hcols : ∀ c ∈ l.cols, c < 32) :
    ∃ t, exec (.teamStart n) s = .next t ∧
      (∃ l', t.launch? n = some l' ∧ l'.nextTeam = l.nextTeam + 1 ∧ l'.teamCols = l.teamCols ++ [(l.nextTeam, l.colsOf l.nextTeam)]) ∧
      t.cc = (s.colsStarted n l).cc ∧ t.cd = (s.colsStarted n l).cd ∧ t.core = (s.colsStarted n l).core := by
  obtain ⟨-, hlaunch, -, -⟩ := colsStarted_starts (s := s) n l hnd fun c hc => hcols c (colsOf_mem hc)
  refine ⟨_, teamStart_outcome hl hfe hrun hnext hcan, ?_⟩
  rw [s.startTeam_eq]
  generalize s.colsStarted n l = y at hlaunch
  have hly : y.launch? n = some l := by
    unfold State.launch? at hl ⊢
    rw [hlaunch]
    exact hl
  obtain ⟨hcc, hcd, hcore⟩ := updLaunch_same y n fun k => k.teamStarted (l.colsOf l.nextTeam) l.nextTeam (y.saveBlock n k)
  have hsame := State.launch?_updLaunch_same (F := fun k => k.teamStarted (l.colsOf l.nextTeam) l.nextTeam (y.saveBlock n k)) hly
  generalize y.updLaunch n (fun k => k.teamStarted (l.colsOf l.nextTeam) l.nextTeam (y.saveBlock n k)) = z at hcc hcd hcore hsame
  split
  · obtain ⟨h1, h2, h3, h4⟩ := feDone_same z l.queue
    have hl4 : (z.feDone l.queue).launch? n = z.launch? n := by
      unfold State.launch?
      rw [h4]
    exact ⟨⟨_, hl4.trans hsame, rfl, rfl⟩, h1.trans hcc, h2.trans hcd, h3.trans hcore⟩
  · exact ⟨⟨_, hsame, rfl, rfl⟩, hcc, hcd, hcore⟩

/-! ### The statement -/

/-- Settles O52: the launch that a packet begins names live dies of its mask only (R242); a range is opened and a completion signal put on its way in a state in which
only ranges differ (R101, R244); a team stands on contexts that were free, as R95 launches it, its cores taken once (R242); the last context's signal leaves and the
launch is gone (R244); a reel's bytes stay in their buffer while contexts that waited take their state (R247). -/
theorem packetsAndTeams : Obligations.PacketsAndTeams := by
  refine ⟨fun s q p k hfe hop hrun hdep => ?_, fun s q p k hfe hrun hdep => ⟨fun hop => ?_, fun hop => packetWaitsig_waits hfe hrun hdep hop⟩,
    fun s s1 q due loc kind lat p hfe hdue hrun h => waitsigPoll_polls hfe hdue hrun h, fun s n l hl hfe hrun hnext hcan hnd hcols => ?_,
    fun s n l hl hs hi hw => completionSignal_signals hl hs hi hw, fun s at_ loc err h hat => compsLand_lands h hat,
    fun s s1 col i cc b l d ps hb ha hw hdue hcc hl hr => reelArrives_arrives hb ha hw hdue hcc hl hr⟩
  · obtain ⟨t, he, hq, h1, h2, h3, h4⟩ := packetLaunch_begins hfe hop hrun hdep
    exact ⟨t, _, he, hq, h1, h2, h3, h4, rfl, rfl, rfl, rfl, rfl, rfl, rfl, rfl, rfl, rfl, rfl, fun d _ hd => packetLaunched_live hd⟩
  · obtain ⟨t, he, hrd, hr, hmem, hway⟩ := packetOpenrng_opens hfe hrun hdep hop
    refine ⟨t, he, hrd, ⟨fun h1 => ?_, fun h0 => ?_⟩, hmem, hway⟩
    · rw [hr]
      exact if_pos h1
    · have hopen : openedRange p (s.getRange (bits (dw p 0) 16 6)) =
          { isOpen := true, next := p.getD 1 0#64, endIdx := p.getD 2 0#64, min := bits (dw p 4) 0 32, g := bits (dw p 4) 32 7 } := if_neg (by rw [h0]; decide)
      rw [hr, hopen]
      exact ⟨rfl, rfl, rfl, rfl, rfl, rfl⟩
  · obtain ⟨t, he, hlaunch, hcc, hcd, hcore⟩ := teamStart_starts hl hfe hrun hnext hcan hnd hcols
    obtain ⟨-, -, hat, htaken⟩ := colsStarted_starts (s := s) n l hnd fun c hc => hcols c (colsOf_mem hc)
    refine ⟨t, he, hlaunch, fun i col j hi hj => ?_, fun col hcol d hd hlive hn => ?_⟩
    · have hmem := List.mem_of_getElem? hi
      have hlen : j < ((s.freeCtxs col).take l.tc).length := by
        have := canStart_room hcan hmem
        rw [List.length_take]
        omega
      have hjk := List.getElem?_eq_getElem hlen
      obtain ⟨hk, hfree⟩ := mem_freeCtxs (List.mem_of_mem_take (List.getElem_mem hlen))
      have hlau := hat i col j _ hi hjk
      have htl : t.launchedAt n l l.nextTeam i j (s.getQueue l.queue).qroot col (((s.freeCtxs col).take l.tc)[j]) := by
        unfold State.launchedAt State.getCc at hlau ⊢
        rw [hcc]
        refine ⟨hlau.1, fun d hd hlive => ?_⟩
        have hdk := ctxKey_lt_of hd (hcols col (colsOf_mem hmem)) hk
        have hcdd := hlau.2 d hd hlive
        unfold State.getCd at hcdd ⊢
        rw [if_pos (.inl hdk)] at hcdd ⊢
        rw [hcd]
        exact hcdd
      obtain ⟨h1, h2⟩ := launchedAt_reads htl
      exact ⟨_, hk, hfree, h1, h2⟩
    · unfold State.getCore
      rw [hcore]
      exact htaken (coreKey d col) (List.mem_flatMap.2 ⟨col, hcol, List.mem_map_of_mem (Launch.mem_dies.2 ⟨hd, hlive⟩)⟩) hn

end Sys2Proof.Machine
end

section
/-! SUPPORT. The arbitration of a lone request (R156 to R160, R280). -/

set_option Elab.async false

namespace Sys2Proof.Machine

open Claims

variable {s t x : State} {eng : Nat} {q : Req}

/-! ### Results of a request (R157) -/

/-- Every result that awaits a reply to `uid` lands at a clock with the value that answers it. -/
structure Answering (t : State) (uid at_ : Nat) (val : Pend → Vec) : Prop where
  all : ∀ k, ∀ p ∈ (t.getCd k).pend, p.uid = uid → p.due = some at_ ∧ p.val = val p

/-- What a request's result is worth, by its file. -/
def seizeVal (circ choice code next : Nat) (aged : Bool) (p : Pend) : Vec :=
  if p.file = .f then BitVec.ofNat 512 (if code ≥ 8 then 1 else 0) else BitVec.ofNat 512 (circ * 2 ^ 12 + choice * 2 ^ 8 + code * 2 ^ 4 + (if aged then 8 else 0) + next)

theorem State.getCd_mapAwaiting (s : State) (uid : Nat) (f : CtxDie → CtxDie) (k : Nat) :
    (s.mapAwaiting uid f).getCd k = if (s.getCd k).pend.any (fun p => p.uid == uid) then f (s.getCd k) else s.getCd k :=
  State.getCd_mapCtxs (f := fun c => if c.pend.any (fun p => p.uid == uid) then f c else c) rfl s k

theorem seizeResult_answers (x : State) (uid at_ circ choice code next : Nat) (aged : Bool) :
    Answering (x.seizeResult uid at_ circ choice code next aged) uid at_ (seizeVal circ choice code next aged) := by
  refine ⟨fun k p hp hu => ?_⟩
  unfold State.seizeResult at hp
  dsimp only at hp
  rw [State.getCd_mapAwaiting] at hp
  split at hp
  · obtain ⟨r, -, hr⟩ := List.mem_map.1 hp
    by_cases hru : r.uid = uid
    · rw [if_pos hru] at hr
      rw [← hr]
      refine ⟨rfl, ?_⟩
      unfold seizeVal
      dsimp only
    · rw [if_neg hru] at hr
      exact absurd (hr ▸ hu) hru
  · rename_i hno
    exact absurd (List.any_eq_true.2 ⟨p, hp, beq_iff_eq.2 hu⟩ : ((x.getCd k).pend.any fun p => p.uid == uid) = true) hno

namespace Answering

variable {uid at_ : Nat} {val : Pend → Vec}

theorem mapAwaiting (h : Answering x uid at_ val) (u : Nat) {f : CtxDie → CtxDie} (hf : ∀ c, (f c).pend = c.pend) : Answering (x.mapAwaiting u f) uid at_ val := by
  refine ⟨fun k p hp => ?_⟩
  rw [State.getCd_mapAwaiting] at hp
  split at hp
  · rw [hf] at hp
    exact h.all k p hp
  · exact h.all k p hp

theorem of_getCd {y : State} (h : Answering x uid at_ val) (hk : ∀ k, y.getCd k = x.getCd k) : Answering y uid at_ val := ⟨fun k p hp => h.all k p (hk k ▸ hp)⟩

theorem updEng (h : Answering x uid at_ val) (e : Nat) (F : Eng → Eng) : Answering (x.updEng e F) uid at_ val := h.of_getCd fun _ => rfl

end Answering

theorem answeredReq_of {circ code next : Nat} {aged : Bool} (h : Answering t q.uid (resultAt eng s.clock) (seizeVal circ q.choice code next aged)) :
    AnsweredReq s t eng q circ code next aged := by
  intro k p hp hu
  obtain ⟨h1, h2⟩ := h.all k p hp hu
  refine ⟨h1, h2.trans ?_⟩
  unfold seizeVal
  by_cases hf : p.file = .f
  · rw [if_pos hf, if_pos hf]
  · rw [if_neg hf, if_neg hf]

/-! ### The state of a clock's arbitration -/

/-- R158: the engine with its circuits released and the requests of this clock taken. -/
def State.arbBegun (s : State) (eng : Nat) : State := s.updEng eng fun g => { g.release s.clock with reqs := g.reqs.filter fun r => !Decidable.decide (r.atClk ≤ s.clock) }

theorem State.getEng_updEng_same (s : State) (e : Nat) (F : Eng → Eng) : (s.updEng e F).getEng e = F (s.getEng e) := SMap.get_set_same ..

theorem State.getEng_updEng_other (s : State) (e k : Nat) (F : Eng → Eng) (h : k ≠ e) : (s.updEng e F).getEng k = s.getEng k := SMap.get_set_other _ _ _ _ _ h

theorem arbitration_barred (hq : (s.getEng eng).reqs.filter (fun r => r.atClk ≤ s.clock) = [q]) (hb : q.barred = true) :
    exec (.engineArbitration eng) s = .next ((s.arbBegun eng).policyRefuse eng q) := by
  change execEngineArbitration eng s = _
  unfold execEngineArbitration
  dsimp only
  rw [hq, List.filter_cons_of_pos hb, List.filter_nil, List.filter_cons_of_neg (by rw [hb]; decide), List.filter_nil]
  rfl

/-- R160: a lone request presented. -/
def State.presented (s : State) (eng : Nat) (q : Req) : State := (s.arbBegun eng).mapAwaiting q.uid fun c => c.present (routeList (enFields q.op))

theorem arbitration_lone (hq : (s.getEng eng).reqs.filter (fun r => r.atClk ≤ s.clock) = [q]) (hb : q.barred = false) :
    exec (.engineArbitration eng) s = .next ((s.presented eng q).arbFold eng [(q, agedNow s q)]) := by
  change execEngineArbitration eng s = _
  unfold execEngineArbitration
  dsimp only
  rw [hq, List.filter_cons_of_neg (by rw [hb]; decide), List.filter_nil, List.filter_cons_of_pos (by rw [hb]; rfl), List.filter_nil]
  rfl

/-- What an arbitration leaves alone: memory and the other engines. -/
structure ArbFrame (eng : Nat) (s t : State) : Prop where
  mem : t.mem = s.mem
  clock : t.clock = s.clock
  eng : ∀ k ≠ eng, t.getEng k = s.getEng k

namespace ArbFrame

variable {y : State}

theorem updEng (h : ArbFrame eng s x) (F : Eng → Eng) : ArbFrame eng s (x.updEng eng F) :=
  ⟨h.mem, h.clock, fun k hk => (x.getEng_updEng_other eng k F hk).trans (h.eng k hk)⟩

theorem of_eq (h : ArbFrame eng s x) (hm : y.mem = x.mem := by rfl) (hc : y.clock = x.clock := by rfl) (he : y.eng = x.eng := by rfl) : ArbFrame eng s y :=
  ⟨hm.trans h.mem, hc.trans h.clock, fun k hk => by rw [State.getEng, he]; exact h.eng k hk⟩

end ArbFrame

theorem ArbFrame.arbBegun (s : State) (eng : Nat) : ArbFrame eng s (s.arbBegun eng) := ArbFrame.updEng ⟨rfl, rfl, fun _ _ => rfl⟩ _

theorem presented_frame (s : State) (eng : Nat) (q : Req) : ArbFrame eng s (s.presented eng q) := (ArbFrame.arbBegun s eng).of_eq

theorem arbBegun_eng (s : State) (eng : Nat) : (s.arbBegun eng).getEng eng =
    { (s.getEng eng).release s.clock with reqs := (s.getEng eng).reqs.filter fun r => !Decidable.decide (r.atClk ≤ s.clock) } := by
  unfold State.arbBegun
  exact State.getEng_updEng_same ..

theorem presented_eng (s : State) (eng : Nat) (q : Req) : (s.presented eng q).getEng eng = (s.arbBegun eng).getEng eng := rfl

theorem laterReqs (l : List Req) (clk : Nat) : (l.filter fun r => !Decidable.decide (r.atClk ≤ clk)) = l.filter fun r => clk < r.atClk := by
  refine List.filter_congr fun r _ => ?_
  rw [← decide_not, decide_eq_decide, Nat.not_le]

/-! ### Refusals (R157, R160, R280) -/

theorem policyRefuse_answers (q : Req) (x : State) :
    ArbFrame eng x (x.policyRefuse eng q) ∧ (x.policyRefuse eng q).getEng eng = x.getEng eng ∧
    Answering (x.policyRefuse eng q) q.uid (resultAt eng x.clock) (seizeVal 0 q.choice 8 (q.i + 1) (((x.awaiting q.uid).map (·.aged)).getD false)) := by
  refine ⟨ArbFrame.of_eq ⟨rfl, rfl, fun _ _ => rfl⟩, rfl, (seizeResult_answers ..).mapAwaiting q.uid fun c => ?_⟩
  unfold CtxDie.giveBack
  split
  · split <;> rfl
  · rfl

/-- What a refused request leaves. -/
structure Refused (eng code : Nat) (q : Req) (aged : Bool) (x t : State) : Prop where
  frame : ArbFrame eng x t
  answer : Answering t q.uid (resultAt eng x.clock) (seizeVal 0 q.choice code (q.i + 1) aged)
  reqs : (t.getEng eng).reqs = (x.getEng eng).reqs
  circ : (t.getEng eng).circ = (x.getEng eng).circ
  fc : (t.getEng eng).fc = if q.i = 0 then Nat.min (2 ^ 24 - 1) ((x.getEng eng).fc + 1) else (x.getEng eng).fc
  alt : (t.getEng eng).alt = if q.i = 0 then (x.getEng eng).alt else Nat.min (2 ^ 24 - 1) ((x.getEng eng).alt + 1)
  szref : (t.getCore (ckCore q.ck)).szref = Nat.min (2 ^ 32 - 1) ((x.getCore (ckCore q.ck)).szref + 1)

theorem State.getCore_mapCtxs_szref (s : State) {f : CtxDie → CtxDie} (hf : f {} = {}) (k : Nat) : ((s.mapCtxs f).getCore k).szref = (s.getCore k).szref := by
  have h := SMap.get_map (d := ({} : Core)) (f := fun c : Core => { c with fw := f c.fw }) (by rw [hf]) k s.core
  have hk : (s.mapCtxs f).getCore k = { s.getCore k with fw := f (s.getCore k).fw } := h
  rw [hk]

theorem State.mapAwaiting_szref (s : State) (uid : Nat) (f : CtxDie → CtxDie) (k : Nat) : ((s.mapAwaiting uid f).getCore k).szref = (s.getCore k).szref :=
  s.getCore_mapCtxs_szref (f := fun c => if c.pend.any (fun p => p.uid == uid) then f c else c) rfl k

/-- R160: an engine's counters at a refusal. -/
def Eng.counted (clk i : Nat) (g : Eng) : Eng :=
  let g := if i = 0 then { g with fc := Nat.min (2 ^ 24 - 1) (g.fc + 1) } else { g with alt := Nat.min (2 ^ 24 - 1) (g.alt + 1) }
  { g with past := (clk, g.alt, g.fc) :: g.past }

/-- R160: a core's counter at a refusal. -/
def State.refCounted (s : State) (k : Nat) : State :=
  let n := Nat.min (2 ^ 32 - 1) ((s.getCore k).szref + 1)
  { s.updCore k fun c => { c with szref := n } with pastRef := SMap.upd [] s.pastRef k fun l => (s.clock, n) :: l }

theorem Eng.counted_keeps (clk i : Nat) (g : Eng) : (g.counted clk i).reqs = g.reqs ∧ (g.counted clk i).circ = g.circ ∧
    (g.counted clk i).fc = (if i = 0 then Nat.min (2 ^ 24 - 1) (g.fc + 1) else g.fc) ∧ (g.counted clk i).alt = if i = 0 then g.alt else Nat.min (2 ^ 24 - 1) (g.alt + 1) := by
  unfold Eng.counted
  by_cases h : i = 0
  · simp only [if_pos h, and_self]
  · simp only [if_neg h, and_self]

theorem State.refCounted_keeps (s : State) (k : Nat) : (s.refCounted k).mem = s.mem ∧ (s.refCounted k).clock = s.clock ∧ (s.refCounted k).eng = s.eng ∧
    (∀ j, (s.refCounted k).getCd j = s.getCd j) ∧ ((s.refCounted k).getCore k).szref = Nat.min (2 ^ 32 - 1) ((s.getCore k).szref + 1) := by
  unfold State.refCounted
  refine ⟨rfl, rfl, rfl, fun j => s.getCd_updCore k j (fun c => { c with szref := Nat.min (2 ^ 32 - 1) ((s.getCore k).szref + 1) }) (by intro _; rfl), ?_⟩
  have h : (s.updCore k fun c => { c with szref := Nat.min (2 ^ 32 - 1) ((s.getCore k).szref + 1) }).getCore k =
      { s.getCore k with szref := Nat.min (2 ^ 32 - 1) ((s.getCore k).szref + 1) } := by rw [State.updCore, State.getCore_setCore_same]
  exact congrArg Core.szref h

/-- R157: the results of a refused request, and its context told. -/
def State.refusedTold (s : State) (e code : Nat) (q : Req) (aged : Bool) : State :=
  (s.seizeResult q.uid (resultAt e s.clock) 0 q.choice code (q.i + 1) aged).mapAwaiting q.uid fun c => CtxDie.giveBack q c.onRefuse

theorem State.refuse_eq (s : State) (e code : Nat) (q : Req) (aged : Bool) :
    s.refuse e code (q, aged) = ((s.refusedTold e code q aged).updEng e (Eng.counted s.clock q.i)).refCounted (ckCore q.ck) := rfl

theorem CtxDie.giveBack_pend (q : Req) (c : CtxDie) : (c.giveBack q).pend = c.pend := by
  unfold CtxDie.giveBack
  split
  · split <;> rfl
  · rfl

theorem refuse_refuses (x : State) (code : Nat) (q : Req) (aged : Bool) : Refused eng code q aged x (x.refuse eng code (q, aged)) := by
  have hans : Answering (x.refusedTold eng code q aged) q.uid (resultAt eng x.clock) (seizeVal 0 q.choice code (q.i + 1) aged) :=
    (seizeResult_answers x q.uid (resultAt eng x.clock) 0 q.choice code (q.i + 1) aged).mapAwaiting q.uid fun c => CtxDie.giveBack_pend ..
  have hframe : ArbFrame eng x (x.refusedTold eng code q aged) := ArbFrame.of_eq ⟨rfl, rfl, fun _ _ => rfl⟩
  have heng : (x.refusedTold eng code q aged).getEng eng = x.getEng eng := rfl
  have hsz : ((x.refusedTold eng code q aged).getCore (ckCore q.ck)).szref = (x.getCore (ckCore q.ck)).szref := by
    unfold State.refusedTold State.seizeResult
    rw [State.mapAwaiting_szref, State.mapAwaiting_szref]
  rw [State.refuse_eq]
  generalize x.refusedTold eng code q aged = y at hans hframe heng hsz
  obtain ⟨hm, hc, he, hcd, hs⟩ := (y.updEng eng (Eng.counted x.clock q.i)).refCounted_keeps (ckCore q.ck)
  obtain ⟨h1, h2, h3, h4⟩ := (x.getEng eng).counted_keeps x.clock q.i
  have hget : ((y.updEng eng (Eng.counted x.clock q.i)).refCounted (ckCore q.ck)).getEng eng = (x.getEng eng).counted x.clock q.i := by
    rw [State.getEng, he, ← heng]
    exact State.getEng_updEng_same ..
  refine ⟨(hframe.updEng _).of_eq hm hc he, (hans.updEng eng _).of_getCd hcd, by rw [hget, h1], by rw [hget, h2], by rw [hget, h3], by rw [hget, h4], ?_⟩
  rw [hs, ← hsz]
  rfl

/-! ### Admissions (R157, R158, R160, R162) -/

/-- R157: the results of an admitted request, and its context told. -/
def State.admittedTold (s : State) (e n : Nat) (q : Req) (aged : Bool) : State :=
  (s.seizeResult q.uid (resultAt e s.clock) n q.choice (if q.i = 0 then 0 else 1) q.i aged).mapAwaiting q.uid CtxDie.onAdmit

/-- The transfer of an admitted request. -/
def State.admittedXmit (s : State) (q : Req) : Xmit := mkXmit q.uid q.ck q.op q.bundle q.daddr q.saddr s.clock

/-- R158: the circuit that an admitted request takes, or its transfer kept with its context (R165). -/
def State.circuitTaken (s : State) (e n : Nat) (q : Req) (x : Xmit) (onCol : Bool) : State :=
  if isHold q.op then (if onCol then s.updEng e fun g => { g with circ := SMap.put g.circ n (some ⟨q.ck, [], none, none⟩) } else s)
  else if onCol then (s.updEng e fun g => { g with circ := SMap.put g.circ n (some ⟨q.ck, [], some 0, none⟩) }).pushCirc e n x
  else s.keepXmit q x

/-- Whether a request's context stands on a column. -/
def State.onColumn (s : State) (uid : Nat) : Bool := s.cd.any fun x => x.2.pend.any fun p => p.uid == uid

theorem State.admitReq_eq (s : State) (e n : Nat) (aged : Bool) (hc : q.coll = none) : s.admitReq e n (q, aged) =
    (s.admittedTold e n q aged).circuitTaken e n q ((s.admittedTold e n q aged).admittedXmit q) (s.onColumn q.uid) := by
  unfold State.admitReq
  dsimp only
  rw [hc]
  rfl

theorem updCirc_eq (s : State) (e n : Nat) (f : Circ → Circ) : ∃ F : Eng → Eng, s.updCirc e n f = s.updEng e F ∧ ∀ g, (F g).reqs = g.reqs ∧ (F g).fc = g.fc ∧
    (F g).alt = g.alt ∧ ∀ c, SMap.get none g.circ n = some c → SMap.get none (F g).circ n = some (f c) := by
  refine ⟨_, rfl, fun g => ⟨rfl, rfl, rfl, fun c hc => ?_⟩⟩
  dsimp only
  rw [hc]
  exact SMap.get_put_same ..

/-- What an admitted request leaves. -/
structure Admitted (eng n : Nat) (q : Req) (onCol : Bool) (x t : State) : Prop where
  frame : ArbFrame eng x t
  cd : ∀ k, t.getCd k = x.getCd k
  reqs : (t.getEng eng).reqs = (x.getEng eng).reqs
  circ : onCol = true → ∃ c, SMap.get none (t.getEng eng).circ n = some c ∧ c.ck = q.ck ∧ c.coll = none ∧
    (isHold q.op = true → c.xs = [] ∧ c.freeAt = none) ∧ (isHold q.op = false → c.xs.map (·.uid) = [q.uid] ∧ c.freeAt = some 0)

theorem timeXmits_uids (s : State) (acc : Acc) (base : Nat) (direct : Bool) : ∀ l : List Xmit, (s.timeXmits acc base direct l).map (·.uid) = l.map (·.uid)
  | [] => rfl
  | z :: l => by
    rw [State.timeXmits]
    split <;> rfl

theorem keepXmit_getCd (s : State) (q : Req) (z : Xmit) (k : Nat) : (s.keepXmit q z).getCd k = s.getCd k := rfl

theorem circuitTaken_admits (x : State) (n : Nat) (z : Xmit) (onCol : Bool) (hz : z.uid = q.uid) : Admitted eng n q onCol x (x.circuitTaken eng n q z onCol) := by
  have hrefl : ArbFrame eng x x := ⟨rfl, rfl, fun _ _ => rfl⟩
  have hget (c : Circ) : (x.updEng eng fun g => { g with circ := SMap.put g.circ n (some c) }).getEng eng = { x.getEng eng with circ := SMap.put (x.getEng eng).circ n (some c) } :=
    State.getEng_updEng_same ..
  unfold State.circuitTaken
  by_cases hh : isHold q.op = true
  · rw [if_pos hh]
    cases onCol with
    | false => exact ⟨hrefl, fun _ => rfl, rfl, fun h => nomatch h⟩
    | true =>
      rw [if_pos rfl]
      refine ⟨hrefl.updEng _, fun _ => rfl, by rw [hget], fun _ => ⟨⟨q.ck, [], none, none⟩, ?_, rfl, rfl, fun _ => ⟨rfl, rfl⟩, fun h => ?_⟩⟩
      · rw [hget]
        exact SMap.get_put_same ..
      · exact absurd hh (by rw [h]; decide)
  · rw [if_neg hh]
    cases onCol with
    | false => exact ⟨hrefl.of_eq, keepXmit_getCd x q z, rfl, fun h => nomatch h⟩
    | true =>
      rw [if_pos rfl]
      unfold State.pushCirc
      generalize hy : (x.updEng eng fun g => { g with circ := SMap.put g.circ n (some ⟨q.ck, [], some 0, none⟩) }) = y
      have hyg : y.getEng eng = { x.getEng eng with circ := SMap.put (x.getEng eng).circ n (some ⟨q.ck, [], some 0, none⟩) } := by rw [← hy]; exact hget _
      have hyf : ArbFrame eng x y := by rw [← hy]; exact hrefl.updEng _
      have hycd (k : Nat) : y.getCd k = x.getCd k := by rw [← hy]; rfl
      obtain ⟨F, hF, hFk⟩ := updCirc_eq y eng n fun c => { c with xs := y.timeXmits (engKindAcc eng) (engBase eng) false (c.xs ++ [z]) }
      rw [hF]
      obtain ⟨hr, -, -, hc⟩ := hFk (y.getEng eng)
      refine ⟨hyf.updEng _, hycd, ?_, fun _ => ⟨⟨q.ck, y.timeXmits (engKindAcc eng) (engBase eng) false [z], some 0, none⟩, ?_, rfl, rfl, fun h => absurd h hh, fun _ => ⟨?_, rfl⟩⟩⟩
      · rw [State.getEng_updEng_same, hr, hyg]
      · rw [State.getEng_updEng_same]
        refine hc ⟨q.ck, [], some 0, none⟩ ?_
        rw [hyg]
        exact SMap.get_put_same ..
      · dsimp only
        rw [timeXmits_uids]
        exact congrArg (fun u => [u]) hz

/-! ### A lone request (R158, R159) -/

theorem arbFold_full {a : Bool} (h : (x.getEng eng).freeList (engCircs eng) = []) : x.arbFold eng [(q, a)] = x.refuse eng 8 (q, a) := by
  unfold State.arbFold
  dsimp only
  rw [h]
  rfl

theorem arbFold_few {a : Bool} {n : Nat} {l : List Nat} (h : (x.getEng eng).freeList (engCircs eng) = n :: l)
    (hf : (n :: l).length < if q.i ≥ 1 && !a then 2 else 1) : x.arbFold eng [(q, a)] = x.refuse eng 9 (q, a) := by
  unfold State.arbFold
  dsimp only
  rw [h]
  dsimp only
  rw [if_pos hf]
  rfl

/-- R159: the pointer of an engine after an admission. -/
def State.pointed (s : State) (e : Nat) (q : Req) : State := s.updEng e fun g => { g with ptr := (reqIdx e q.ck + 1) % engN e }

/-- R312: the bytes of an engine's receive buffers that are taken once a request is admitted. -/
def Eng.recvWith (g : Eng) (q : Req) : Nat := g.recv + ((q.coll.map fun x => x.2.2.need).getD 0)

theorem arbFold_over {a : Bool} {n : Nat} {l : List Nat} (h : (x.getEng eng).freeList (engCircs eng) = n :: l)
    (hf : ¬(n :: l).length < if q.i ≥ 1 && !a then 2 else 1) (hr : (x.getEng eng).recvWith q > 2 ^ 19) : x.arbFold eng [(q, a)] = x.refuse eng 10 (q, a) := by
  unfold Eng.recvWith at hr
  unfold State.arbFold
  dsimp only
  rw [h]
  dsimp only
  rw [if_neg hf, if_pos hr]
  rfl

theorem arbFold_admit {a : Bool} {n : Nat} {l : List Nat} (h : (x.getEng eng).freeList (engCircs eng) = n :: l)
    (hf : ¬(n :: l).length < if q.i ≥ 1 && !a then 2 else 1) (hr : ¬(x.getEng eng).recvWith q > 2 ^ 19) :
    x.arbFold eng [(q, a)] = (x.admitReq eng n (q, a)).pointed eng q := by
  unfold Eng.recvWith at hr
  unfold State.arbFold
  dsimp only
  rw [h]
  dsimp only
  rw [if_neg hf, if_neg hr]
  rfl

theorem presented_onColumn (s : State) (eng : Nat) (q : Req) (h : ∃ x ∈ s.cd, ∃ p ∈ x.2.pend, p.uid = q.uid) : (s.presented eng q).onColumn q.uid = true := by
  obtain ⟨z, hz, p, hp, hu⟩ := h
  have hpend (rl : Nat × Nat) (c : CtxDie) : (c.present rl).pend = c.pend := by
    unfold CtxDie.present
    split <;> rfl
  have hany : (z.2.pend.any fun p => p.uid == q.uid) = true := List.any_eq_true.2 ⟨p, hp, beq_iff_eq.2 hu⟩
  unfold State.onColumn State.presented State.mapAwaiting State.mapCtxs
  refine List.any_eq_true.2 ⟨_, List.mem_map_of_mem (f := fun x : Nat × CtxDie => (x.1, if x.2.pend.any (fun p => p.uid == q.uid) then
    x.2.present (routeList (enFields q.op)) else x.2)) hz, ?_⟩
  dsimp only
  rw [hany, if_pos rfl, hpend]
  exact hany

/-- R159, R160: a lone request admitted on circuit `n`. -/
theorem admitReq_admits {a : Bool} {n : Nat} (hc : q.coll = none) : ∃ t, x.admitReq eng n (q, a) = t ∧ ArbFrame eng x t ∧
    Answering t q.uid (resultAt eng x.clock) (seizeVal n q.choice (if q.i = 0 then 0 else 1) q.i a) ∧ (t.getEng eng).reqs = (x.getEng eng).reqs ∧
    (x.onColumn q.uid = true → ∃ c, SMap.get none (t.getEng eng).circ n = some c ∧ c.ck = q.ck ∧ c.coll = none ∧
      (isHold q.op = true → c.xs = [] ∧ c.freeAt = none) ∧ (isHold q.op = false → c.xs.map (·.uid) = [q.uid] ∧ c.freeAt = some 0)) := by
  have hans : Answering (x.admittedTold eng n q a) q.uid (resultAt eng x.clock) (seizeVal n q.choice (if q.i = 0 then 0 else 1) q.i a) :=
    (seizeResult_answers x q.uid (resultAt eng x.clock) n q.choice (if q.i = 0 then 0 else 1) q.i a).mapAwaiting q.uid fun c => rfl
  have hframe : ArbFrame eng x (x.admittedTold eng n q a) := ArbFrame.of_eq ⟨rfl, rfl, fun _ _ => rfl⟩
  have heng : (x.admittedTold eng n q a).getEng eng = x.getEng eng := rfl
  refine ⟨_, rfl, ?_⟩
  rw [State.admitReq_eq x eng n a hc]
  generalize x.admittedTold eng n q a = y at hans hframe heng
  obtain ⟨hf, hcd, hr, hcirc⟩ := circuitTaken_admits (eng := eng) (q := q) y n (y.admittedXmit q) (x.onColumn q.uid) rfl
  exact ⟨⟨hf.mem.trans hframe.mem, hf.clock.trans hframe.clock, fun k hk => (hf.eng k hk).trans (hframe.eng k hk)⟩, hans.of_getCd hcd, by rw [hr, heng], hcirc⟩

end Sys2Proof.Machine
end

section
/-! SUPPORT. What becomes of a request that arrives alone (R156 to R160, R280). -/

set_option Elab.async false

namespace Sys2Proof.Machine

open Claims

variable {s : State} {eng : Nat} {q : Req}

theorem lone_barred (hq : (s.getEng eng).reqs.filter (fun r => r.atClk ≤ s.clock) = [q]) (hb : q.barred = true) :
    ∃ t, exec (.engineArbitration eng) s = .next t ∧ ArbFrame eng s t ∧ (t.getEng eng).reqs = (s.getEng eng).reqs.filter (fun r => s.clock < r.atClk) ∧
      AnsweredReq s t eng q 0 8 (q.i + 1) (((s.awaiting q.uid).map (·.aged)).getD false) ∧ (t.getEng eng).fc = (s.getEng eng).fc ∧
      (t.getEng eng).alt = (s.getEng eng).alt := by
  obtain ⟨hf, he, ha⟩ := policyRefuse_answers (eng := eng) q (s.arbBegun eng)
  have h0 := ArbFrame.arbBegun s eng
  rw [arbBegun_eng] at he
  refine ⟨_, arbitration_barred hq hb, ⟨hf.mem.trans h0.mem, hf.clock.trans h0.clock, fun k hk => (hf.eng k hk).trans (h0.eng k hk)⟩, ?_, answeredReq_of ha, ?_, ?_⟩
  · rw [he, ← laterReqs]
  · rw [he]
    rfl
  · rw [he]
    rfl

theorem lone_refused {a : Bool} {code : Nat} (hq : (s.getEng eng).reqs.filter (fun r => r.atClk ≤ s.clock) = [q]) (hb : q.barred = false) (ha : a = agedNow s q)
    (hfold : (s.presented eng q).arbFold eng [(q, a)] = (s.presented eng q).refuse eng code (q, a)) :
    ∃ t, exec (.engineArbitration eng) s = .next t ∧ ArbFrame eng s t ∧ (t.getEng eng).reqs = (s.getEng eng).reqs.filter (fun r => s.clock < r.atClk) ∧
      AnsweredReq s t eng q 0 code (q.i + 1) a ∧ (t.getEng eng).circ = ((s.getEng eng).release s.clock).circ ∧
      (t.getEng eng).fc = (if q.i = 0 then Nat.min (2 ^ 24 - 1) ((s.getEng eng).fc + 1) else (s.getEng eng).fc) ∧
      (t.getEng eng).alt = (if q.i = 0 then (s.getEng eng).alt else Nat.min (2 ^ 24 - 1) ((s.getEng eng).alt + 1)) ∧
      (t.getCore (ckCore q.ck)).szref = Nat.min (2 ^ 32 - 1) ((s.getCore (ckCore q.ck)).szref + 1) := by
  have h0 := presented_frame s eng q
  have he := (presented_eng s eng q).trans (arbBegun_eng s eng)
  have hsz : ((s.presented eng q).getCore (ckCore q.ck)).szref = (s.getCore (ckCore q.ck)).szref := by
    unfold State.presented
    rw [State.mapAwaiting_szref]
    rfl
  have hr := refuse_refuses (eng := eng) (s.presented eng q) code q a
  refine ⟨(s.presented eng q).refuse eng code (q, a), by rw [arbitration_lone hq hb, ← ha, hfold], ?_⟩
  generalize (s.presented eng q).refuse eng code (q, a) = t at hr
  refine ⟨⟨hr.frame.mem.trans h0.mem, hr.frame.clock.trans h0.clock, fun k hk => (hr.frame.eng k hk).trans (h0.eng k hk)⟩, ?_, ?_, ?_, ?_, ?_, ?_⟩
  · rw [hr.reqs, he, ← laterReqs]
  · refine answeredReq_of ?_
    have := hr.answer
    rwa [h0.clock] at this
  · rw [hr.circ, he]
  · rw [hr.fc, he]
    rfl
  · rw [hr.alt, he]
    rfl
  · rw [hr.szref, hsz]

theorem lone_admitted {a : Bool} {n : Nat} (hq : (s.getEng eng).reqs.filter (fun r => r.atClk ≤ s.clock) = [q]) (hb : q.barred = false) (ha : a = agedNow s q)
    (hc : q.coll = none) (hfold : (s.presented eng q).arbFold eng [(q, a)] = ((s.presented eng q).admitReq eng n (q, a)).pointed eng q) :
    ∃ t, exec (.engineArbitration eng) s = .next t ∧ ArbFrame eng s t ∧ (t.getEng eng).reqs = (s.getEng eng).reqs.filter (fun r => s.clock < r.atClk) ∧
      AnsweredReq s t eng q n (if q.i = 0 then 0 else 1) q.i a ∧ (t.getEng eng).ptr = (reqIdx eng q.ck + 1) % engN eng ∧
      ((∃ x ∈ s.cd, ∃ p ∈ x.2.pend, p.uid = q.uid) → ∃ c, SMap.get none (t.getEng eng).circ n = some c ∧ c.ck = q.ck ∧ c.coll = none ∧
        (isHold q.op = true → c.xs = [] ∧ c.freeAt = none) ∧ (isHold q.op = false → c.xs.map (·.uid) = [q.uid] ∧ c.freeAt = some 0)) := by
  have h0 := presented_frame s eng q
  have he := (presented_eng s eng q).trans (arbBegun_eng s eng)
  obtain ⟨y, hy, hf, hans, hr, hcirc⟩ := admitReq_admits (x := s.presented eng q) (eng := eng) (q := q) (a := a) (n := n) hc
  rw [hy] at hfold
  refine ⟨y.pointed eng q, by rw [arbitration_lone hq hb, ← ha, hfold], ?_⟩
  have hfy : ArbFrame eng s y := ⟨hf.mem.trans h0.mem, hf.clock.trans h0.clock, fun k hk => (hf.eng k hk).trans (h0.eng k hk)⟩
  have hget : (y.pointed eng q).getEng eng = { y.getEng eng with ptr := (reqIdx eng q.ck + 1) % engN eng } := by
    unfold State.pointed
    exact State.getEng_updEng_same ..
  rw [h0.clock] at hans
  refine ⟨hfy.updEng _, ?_, answeredReq_of (hans.updEng eng _), by rw [hget], fun hcol => ?_⟩
  · rw [hget, ← laterReqs]
    exact hr.trans (congrArg Eng.reqs he)
  · rw [hget]
    exact hcirc (presented_onColumn s eng q hcol)

/-- A request of a collective admitted. -/
theorem admitColl_frame (x : State) (n : Nat) (a : Bool) {launch team : Nat} {m : CollMember} (hc : q.coll = some (launch, team, m)) :
    ArbFrame eng x (x.admitReq eng n (q, a)) ∧ ((x.admitReq eng n (q, a)).getEng eng).reqs = (x.getEng eng).reqs := by
  have hframe : ArbFrame eng x (x.admittedTold eng n q a) := ArbFrame.of_eq ⟨rfl, rfl, fun _ _ => rfl⟩
  have heng : (x.admittedTold eng n q a).getEng eng = x.getEng eng := rfl
  unfold State.admitReq
  dsimp only
  rw [hc]
  dsimp only
  rw [← State.admittedTold]
  generalize x.admittedTold eng n q a = y at hframe heng
  generalize hz : (y.updEng eng fun g => { g with
      circ := if (x.cd.any fun x => x.2.pend.any fun p => p.uid == q.uid) then SMap.put g.circ n (some ⟨q.ck, [], some 0, some (collKey launch team m.n, m.rank)⟩) else g.circ
      recv := g.recv + m.need }) = z
  have hzf : ArbFrame eng x z := by rw [← hz]; exact hframe.updEng _
  have hzr : (z.getEng eng).reqs = (x.getEng eng).reqs := by rw [← hz, State.getEng_updEng_same, heng]
  split
  · exact ⟨hzf.of_eq, hzr⟩
  · exact ⟨hzf.of_eq, hzr⟩

theorem arbFold_frame (x : State) (q : Req) (a : Bool) : ArbFrame eng x (x.arbFold eng [(q, a)]) ∧ ((x.arbFold eng [(q, a)]).getEng eng).reqs = (x.getEng eng).reqs := by
  have href (code : Nat) : ArbFrame eng x (x.refuse eng code (q, a)) ∧ ((x.refuse eng code (q, a)).getEng eng).reqs = (x.getEng eng).reqs := by
    have := refuse_refuses (eng := eng) x code q a
    exact ⟨this.frame, this.reqs⟩
  have hadm (n : Nat) : ArbFrame eng x (x.admitReq eng n (q, a)) ∧ ((x.admitReq eng n (q, a)).getEng eng).reqs = (x.getEng eng).reqs := by
    cases hc : q.coll with
    | some y => exact admitColl_frame x n a hc
    | none =>
      obtain ⟨y, hy, hf, -, hr, -⟩ := admitReq_admits (x := x) (eng := eng) (q := q) (a := a) (n := n) hc
      rw [hy]
      exact ⟨hf, hr⟩
  cases hfree : (x.getEng eng).freeList (engCircs eng) with
  | nil =>
    rw [arbFold_full hfree]
    exact href 8
  | cons n l =>
    by_cases hfew : (n :: l).length < if q.i ≥ 1 && !a then 2 else 1
    · rw [arbFold_few hfree hfew]
      exact href 9
    by_cases hrecv : (x.getEng eng).recvWith q > 2 ^ 19
    · rw [arbFold_over hfree hfew hrecv]
      exact href 10
    · rw [arbFold_admit hfree hfew hrecv]
      unfold State.pointed
      refine ⟨(hadm n).1.updEng _, ?_⟩
      rw [State.getEng_updEng_same]
      exact (hadm n).2

/-- R156 to R160: a request that arrives alone. -/
theorem lone_arbitrated (hq : (s.getEng eng).reqs.filter (fun r => r.atClk ≤ s.clock) = [q]) :
    let g := (s.getEng eng).release s.clock
    let free := (List.range (if eng < 128 then 2 else 4)).filter fun i => (SMap.get none g.circ i).isNone
    let a := agedNow s q
    let few := free.length < if 1 ≤ q.i && !a then 2 else 1
    ∃ t, exec (.engineArbitration eng) s = .next t ∧ t.mem = s.mem ∧ (∀ k ≠ eng, t.getEng k = s.getEng k) ∧
      (t.getEng eng).reqs = (s.getEng eng).reqs.filter (fun r => s.clock < r.atClk) ∧
      (q.barred = true → AnsweredReq s t eng q 0 8 (q.i + 1) (((s.awaiting q.uid).map (·.aged)).getD false) ∧
        (t.getEng eng).fc = (s.getEng eng).fc ∧ (t.getEng eng).alt = (s.getEng eng).alt) ∧
      (q.barred = false → few → AnsweredReq s t eng q 0 (if free = [] then 8 else 9) (q.i + 1) a ∧ (t.getEng eng).circ = g.circ ∧
        (t.getEng eng).fc = (if q.i = 0 then Nat.min (2 ^ 24 - 1) ((s.getEng eng).fc + 1) else (s.getEng eng).fc) ∧
        (t.getEng eng).alt = (if q.i = 0 then (s.getEng eng).alt else Nat.min (2 ^ 24 - 1) ((s.getEng eng).alt + 1)) ∧
        (t.getCore (ckCore q.ck)).szref = Nat.min (2 ^ 32 - 1) ((s.getCore (ckCore q.ck)).szref + 1)) ∧
      (q.barred = false → ¬few → q.coll = none → (s.getEng eng).recv ≤ 2 ^ 19 →
        ∀ n, free.head? = some n → AnsweredReq s t eng q n (if q.i = 0 then 0 else 1) q.i a ∧
          (t.getEng eng).ptr = ((if eng < 128 then ckCol q.ck % 4 else ckCol q.ck) + 1) % (if eng < 128 then 4 else 32) ∧
          ((∃ x ∈ s.cd, ∃ p ∈ x.2.pend, p.uid = q.uid) → ∃ c, SMap.get none (t.getEng eng).circ n = some c ∧ c.ck = q.ck ∧ c.coll = none ∧
            (isHold q.op = true → c.xs = [] ∧ c.freeAt = none) ∧
            (isHold q.op = false → c.xs.map (·.uid) = [q.uid] ∧ c.freeAt = some 0))) := by
  intro g free a few
  have hfree : ((s.presented eng q).getEng eng).freeList (engCircs eng) = free := by
    rw [presented_eng, arbBegun_eng]
    rfl
  have hrecv : ((s.presented eng q).getEng eng).recv = (s.getEng eng).recv := by
    rw [presented_eng, arbBegun_eng]
    rfl
  have hlen (h : free = []) : few := by
    have h1 : free.length = 0 := by rw [h]; rfl
    change free.length < _
    rw [h1]
    split <;> decide
  cases hb : q.barred with
  | true =>
    obtain ⟨t, he, hf, hr, ha, hfc, halt⟩ := lone_barred hq hb
    exact ⟨t, he, hf.mem, hf.eng, hr, fun _ => ⟨ha, hfc, halt⟩, fun h => (nomatch h), fun h => (nomatch h)⟩
  | false =>
    by_cases hfew : few
    · have hfold : (s.presented eng q).arbFold eng [(q, a)] = (s.presented eng q).refuse eng (if free = [] then 8 else 9) (q, a) := by
        by_cases h0 : free = []
        · rw [if_pos h0]
          exact arbFold_full (hfree.trans h0)
        · rw [if_neg h0]
          obtain ⟨n, l, hnl⟩ := List.exists_cons_of_ne_nil h0
          exact arbFold_few (hfree.trans hnl) (hnl ▸ hfew)
      obtain ⟨t, he, hf, hr, ha, hci, hfc, halt, hsz⟩ := lone_refused hq hb rfl hfold
      exact ⟨t, he, hf.mem, hf.eng, hr, fun h => (nomatch h), fun _ _ => ⟨ha, hci, hfc, halt, hsz⟩, fun _ h => absurd hfew h⟩
    · obtain ⟨n, l, hnl⟩ := List.exists_cons_of_ne_nil fun h => hfew (hlen h)
      by_cases hadm : q.coll = none ∧ (s.getEng eng).recv ≤ 2 ^ 19
      · have hrw : ¬((s.presented eng q).getEng eng).recvWith q > 2 ^ 19 := by
          unfold Eng.recvWith
          rw [hrecv, hadm.1]
          exact Nat.not_lt.2 hadm.2
        have hfold := arbFold_admit (a := a) (hfree.trans hnl) (hnl ▸ hfew) hrw
        obtain ⟨t, he, hf, hr, ha, hptr, hcirc⟩ := lone_admitted hq hb rfl hadm.1 hfold
        refine ⟨t, he, hf.mem, hf.eng, hr, fun h => (nomatch h), fun _ h => absurd h hfew, fun _ _ _ _ m hm => ?_⟩
        have hmn : m = n := by
          rw [hnl] at hm
          exact (Option.some.inj hm).symm
        rw [hmn]
        exact ⟨ha, hptr, hcirc⟩
      · obtain ⟨hf, hr⟩ := arbFold_frame (eng := eng) (s.presented eng q) q a
        have h0 := presented_frame s eng q
        refine ⟨_, arbitration_lone hq hb, hf.mem.trans h0.mem, fun k hk => (hf.eng k hk).trans (h0.eng k hk), ?_, fun h => (nomatch h), fun _ h => absurd h hfew,
          fun _ _ hc hrc => absurd ⟨hc, hrc⟩ hadm⟩
        rw [← laterReqs]
        exact hr.trans (congrArg Eng.reqs ((presented_eng s eng q).trans (arbBegun_eng s eng)))

end Sys2Proof.Machine
end

section
/-! SUPPORT. Transfers of circuits and of the direct path (R162, R163, R235). -/

set_option Elab.async false

namespace Sys2Proof.Machine

open Claims

variable {s t : State} {acc : Acc} {x : Xmit}

/-! ### A step of a transfer -/

theorem State.cmdSignal_sig (s : State) (cmd core sem : Nat) (inc : Int) (k : Nat) : ((s.cmdSignal cmd core sem inc).getCore k).sig = ((s.signal core sem inc).getCore k).sig := by
  unfold State.cmdSignal State.signal
  split
  · rfl
  · rfl

theorem State.signal_same (s : State) (core sem : Nat) (inc : Int) : (s.signal core sem inc).mem = s.mem ∧ (s.signal core sem inc).cc = s.cc ∧
    (s.signal core sem inc).eng = s.eng ∧ (s.signal core sem inc).clock = s.clock ∧ (s.signal core sem inc).colls = s.colls := by
  unfold State.signal
  split
  · exact ⟨rfl, rfl, rfl, rfl, rfl⟩
  · exact ⟨rfl, rfl, rfl, rfl, rfl⟩

theorem State.xmitEnd_same (s : State) (x : Xmit) : (s.xmitEnd x).mem = s.mem ∧ (s.xmitEnd x).cc = s.cc ∧ (s.xmitEnd x).eng = s.eng ∧ (s.xmitEnd x).clock = s.clock := by
  unfold State.xmitEnd State.cmdSignal
  obtain ⟨h1, h2, h3, h4, -⟩ := State.signal_same { s.dropPod x.uid with
    posted := (s.dropPod x.uid).posted.map fun (p : Posted) => if p.cmd = x.uid && x.uid != 0 then { p with sigClk := some (s.dropPod x.uid).clock } else p }
    (ckCore x.ck) x.sigSem x.sigInc
  exact ⟨h1, h2, h3, h4⟩

theorem State.xmitEnd_sig (s : State) (x : Xmit) (k : Nat) : ((s.xmitEnd x).getCore k).sig = ((s.signal (ckCore x.ck) x.sigSem x.sigInc).getCore k).sig := by
  unfold State.xmitEnd
  rw [State.cmdSignal_sig]
  exact State.signal_sig (x := s.dropPod x.uid) (y := s) (fun _ => rfl) _ _ _ _

theorem xmitMove_same (s : State) (acc : Acc) (x : Xmit) (stop : Bool) : (s.xmitMove acc x stop).2.2.eng = s.eng ∧ (s.xmitMove acc x stop).2.2.clock = s.clock := by
  have h := (Accessed.refl s).xmitPiece acc x stop
  obtain ⟨hclk, -, -, -, -, -, -, -, -, heng, -, -⟩ := h.unaccessed_eq
  unfold State.xmitMove
  dsimp only
  generalize s.xmitPiece acc x stop = p at hclk heng
  split
  · split
    · exact ⟨(p.2.xmitEnd_same _).2.2.1.trans heng, (p.2.xmitEnd_same _).2.2.2.trans hclk⟩
    · exact ⟨heng, hclk⟩
  · exact ⟨heng, hclk⟩
  · exact ⟨heng, hclk⟩

/-- A transfer's step changes no engine and no clock. -/
theorem xmitStep_same (s : State) (acc : Acc) (x : Xmit) : (s.xmitStep acc x).2.eng = s.eng ∧ (s.xmitStep acc x).2.clock = s.clock := by
  have h := (Accessed.refl s).askXmit acc x
  obtain ⟨hclk, -, -, -, -, -, -, -, -, heng, -, -⟩ := h.unaccessed_eq
  unfold State.xmitStep
  dsimp only
  generalize s.askXmit acc x = p at hclk heng
  split
  · exact ⟨(xmitMove_same ..).1.trans heng, (xmitMove_same ..).2.trans hclk⟩
  · split
    · exact ⟨(p.2.xmitEnd_same _).2.2.1.trans heng, (p.2.xmitEnd_same _).2.2.2.trans hclk⟩
    · exact ⟨heng, hclk⟩

theorem askXmit_moved (h : x.len ≤ x.done) : s.askXmit acc x = (x, s) := by
  unfold State.askXmit
  dsimp only
  split
  · rw [if_pos]
    rw [Bool.or_eq_true, Bool.or_eq_true]
    exact .inl (.inr (decide_eq_true (by omega)))
  · rfl

theorem xmitStep_moved (h : x.len ≤ x.done) (hdue : x.isDue s.clock = true) : s.xmitStep acc x = (none, s.xmitEnd x) := by
  have hno : x.ready s.clock = false := by
    unfold Xmit.ready
    split
    · rw [decide_eq_false (Nat.not_lt.2 h), Bool.false_and, Bool.and_false]
    · exact Bool.and_false _
  unfold State.xmitStep
  rw [askXmit_moved h]
  dsimp only
  rw [hno, if_neg (by decide), if_pos (by rw [hdue, decide_eq_true h]; rfl)]

theorem xmitStep_moving (h : Moving s acc x) : s.xmitStep acc x = ((s.xmitMove acc x).1, (s.xmitMove acc x).2.2) := by
  obtain ⟨hr, ha⟩ := h
  unfold State.xmitStep
  rw [ha]
  dsimp only
  rw [if_pos hr]

/-! ### What a transfer leaves -/

/-- A state whose memory, column contexts and signals are those of another. -/
structure Seen (t u : State) : Prop where
  mem : u.mem = t.mem
  cc : u.cc = t.cc
  sig : ∀ k, (u.getCore k).sig = (t.getCore k).sig

theorem Seen.trans {t u v : State} (h : Seen t u) (g : Seen u v) : Seen t v := ⟨g.mem.trans h.mem, g.cc.trans h.cc, fun k => (g.sig k).trans (h.sig k)⟩

theorem Seen.updEng (t : State) (e : Nat) (F : Eng → Eng) : Seen t (t.updEng e F) := ⟨rfl, rfl, fun _ => rfl⟩

theorem completes_of {u : State} (h : Seen (s.xmitStep acc x).2 u) : Completes s u x := by
  intro hlen hdue
  rw [xmitStep_moved hlen hdue] at h
  exact ⟨h.mem.trans (s.xmitEnd_same x).1, (h.sig _).trans (s.xmitEnd_sig x _)⟩

theorem xmitPiece_fault {s1 : State} {f : AFault} {va : Nat} (hsrc : Source s acc x = (.fault f va, s1)) : s.xmitPiece acc x false = (.fault f va, s1) := by
  unfold Source at hsrc
  unfold State.xmitPiece
  dsimp only
  rw [hsrc]

theorem xmitPiece_ok {s1 s2 : State} {data : List (Byte × Bool)} {l : List (Byte × Bool)} (hsrc : Source s acc x = (.ok data, s1))
    (hw : s1.engWrFaults x.ck acc (pieces64 3 (x.daddr.toNat + x.done) (x.piece false)) = (.ok l, s2)) :
    s.xmitPiece acc x false = (.ok { x with done := x.done + x.piece false, out := data.drop (x.piece false), last := s2.clock + 1, asked := (x.asked.1 - x.piece false, x.asked.2) },
      s2.engWriteAll x.ck acc (lostRec x.bundle 0 0) { cmd := x.uid, sem := x.sigSem } (pieces64 3 (x.daddr.toNat + x.done) (x.piece false)) (data.take (x.piece false))) := by
  unfold Source at hsrc
  unfold State.xmitPiece
  dsimp only
  rw [hsrc]
  dsimp only
  rw [hw]

theorem xmitPiece_writeFault {s1 s2 : State} {data : List (Byte × Bool)} {f : AFault} {va : Nat} (hsrc : Source s acc x = (.ok data, s1))
    (hw : s1.engWrFaults x.ck acc (pieces64 3 (x.daddr.toNat + x.done) (x.piece false)) = (.fault f va, s2)) : s.xmitPiece acc x false = (.fault f va, s2) := by
  unfold Source at hsrc
  unfold State.xmitPiece
  dsimp only
  rw [hsrc]
  dsimp only
  rw [hw]

theorem source_accessed {s1 : State} {r : EngR} (hsrc : Source s acc x = (r, s1)) : Accessed s s1 := by
  have := (Accessed.refl s).xmitSource acc x (x.piece false)
  unfold Source at hsrc
  rwa [hsrc] at this

theorem writes_accessed {s1 s2 : State} {r : EngR} {ck : Nat} {ps : List (Nat × Nat)} (hw : s1.engWrFaults ck acc ps = (r, s2)) : Accessed s1 s2 := by
  have := Accessed.engWrFaults (ck := ck) (acc := acc) ps (Accessed.refl s1)
  rwa [hw] at this

theorem Accessed.sig {y : State} (h : Accessed s y) (k : Nat) : (y.getCore k).sig = (s.getCore k).sig := (congrArg Core.sig (h.core k) :)

/-- The fault of a transfer ends it and is told (R162, R211). -/
theorem xmitMove_fault {s1 : State} {f : AFault} {va : Nat} (h : s.xmitPiece acc x false = (.fault f va, s1)) : s.xmitMove acc x =
    (none, false, (s1.dropPod x.uid).asyncFault x.ck (engRec f va x.bundle.toNat 0 0 0) x.uid) := by
  unfold State.xmitMove
  rw [h]

theorem told_of_fault {s1 u : State} {f : AFault} {va : Nat} (hstep : (s.xmitStep acc x).2 = (s1.dropPod x.uid).asyncFault x.ck (engRec f va x.bundle.toNat 0 0 0) x.uid)
    (h : Seen (s.xmitStep acc x).2 u) : u.mem = s1.mem ∧ Told s1 u x.ck x.uid (engRec f va x.bundle.toNat 0 0 0) := by
  rw [hstep] at h
  exact ⟨h.mem, told_asyncFault (x := s1.dropPod x.uid) rfl rfl h.cc⟩

/-- R162, R163: what a transfer that moves leaves, in a state seen so. -/
theorem transfers_of {u : State} {next : Option Xmit} (hmov : Moving s acc x) (h : Seen (s.xmitStep acc x).2 u)
    (hnext : ∀ y, (s.xmitStep acc x).1 = some y → next = some y) : Transfers s u acc x next := by
  have hstep := xmitStep_moving hmov
  refine fun s1 => ⟨fun data hsrc => ?_, fun f va hsrc => ?_⟩
  · have hacc := source_accessed hsrc
    intro n ps
    refine ⟨fun l s2 hw => ?_, fun s2 f va hw => ?_⟩
    · have hpiece := xmitPiece_ok hsrc hw
      have hclk : s2.clock = s.clock := (hacc.trans (writes_accessed hw)).unaccessed_eq.1
      have hwr : Accessed s2 (s2.engWriteAll x.ck acc (lostRec x.bundle 0 0) { cmd := x.uid, sem := x.sigSem } ps (data.take n)) :=
        Accessed.engWriteAll ps (data.take n) (Accessed.refl s2)
      by_cases hlen : x.len ≤ x.done + n
      · have hmove : s.xmitMove acc x = (none, false, (s2.engWriteAll x.ck acc (lostRec x.bundle 0 0) { cmd := x.uid, sem := x.sigSem } ps (data.take n)).xmitEnd
            { x with done := x.done + n, out := data.drop n, last := s2.clock + 1, asked := (x.asked.1 - n, x.asked.2) }) := by
          unfold State.xmitMove
          rw [hpiece]
          exact if_pos hlen
        rw [hstep, hmove] at h
        refine ⟨h.mem.trans (State.xmitEnd_same _ _).1, fun hlt => absurd hlt (Nat.not_lt.2 hlen), fun _ => ?_⟩
        exact (h.sig _).trans ((State.xmitEnd_sig _ _ _).trans (State.signal_sig hwr.sig _ _ _ _))
      · have hmove : s.xmitMove acc x = (some { x with done := x.done + n, out := data.drop n, last := s2.clock + 1, asked := (x.asked.1 - n, x.asked.2) }, false,
            s2.engWriteAll x.ck acc (lostRec x.bundle 0 0) { cmd := x.uid, sem := x.sigSem } ps (data.take n)) := by
          unfold State.xmitMove
          rw [hpiece]
          exact if_neg hlen
        have hfst := hnext _ (by rw [hstep, hmove])
        rw [hstep, hmove] at h
        refine ⟨h.mem, fun _ => ?_, fun hle => absurd hle hlen⟩
        rw [hfst, hclk]
    · exact told_of_fault (by rw [hstep, xmitMove_fault (xmitPiece_writeFault hsrc hw)]) h
  · exact told_of_fault (by rw [hstep, xmitMove_fault (xmitPiece_fault hsrc)]) h

/-! ### The direct path (R163) -/

/-- R163: the direct path of a core after a step of its first transfer. -/
def State.directAfter (s : State) (core : Nat) (x : Xmit) (l : List Xmit) : State :=
  match (s.xmitStep .cp x).1 with
  | some y => (s.xmitStep .cp x).2.updCore core fun k => { k with direct := y :: l }
  | none => (s.xmitStep .cp x).2.updCore core fun k => { k with direct := (s.xmitStep .cp x).2.timeXmits .cp 12 true l }

theorem directTransferComplete_outcome {core : Nat} {l : List Xmit} (hd : (s.getCore core).direct = x :: l) (hc : x.coll = none) :
    exec (.directTransferComplete core) s = .next (s.directAfter core x l) := by
  change execDirectTransferComplete core s = _
  unfold execDirectTransferComplete
  rw [hd]
  dsimp only
  rw [hc]
  dsimp only
  unfold State.directAfter
  generalize s.xmitStep .cp x = p
  obtain ⟨r, t⟩ := p
  cases r <;> rfl

theorem Seen.updCore_direct (t : State) (core : Nat) (d : List Xmit) : Seen t (t.updCore core fun k => { k with direct := d }) := by
  refine ⟨rfl, rfl, fun k => ?_⟩
  by_cases hk : k = core
  · rw [hk, State.updCore, State.getCore_setCore_same]
  · rw [State.updCore, State.getCore_setCore_other _ _ _ _ hk]

theorem directTransfer_completes {core : Nat} {l : List Xmit} (hd : (s.getCore core).direct = x :: l) (hc : x.coll = none) :
    ∃ t, exec (.directTransferComplete core) s = .next t ∧ Completes s t x ∧ (Moving s .cp x → Transfers s t .cp x (t.getCore core).direct.head?) ∧
      (LeavesPath s .cp x → (t.getCore core).direct.map (·.uid) = l.map (·.uid)) := by
  refine ⟨_, directTransferComplete_outcome hd hc, ?_⟩
  have hget (t : State) (d : List Xmit) : ((t.updCore core fun k => { k with direct := d }).getCore core).direct = d := by rw [State.updCore, State.getCore_setCore_same]
  unfold State.directAfter
  cases hr : (s.xmitStep .cp x).1 with
  | some y =>
    have hseen := Seen.updCore_direct (s.xmitStep .cp x).2 core (y :: l)
    refine ⟨completes_of hseen, fun hm => transfers_of hm hseen fun z hz => ?_, fun hl => ?_⟩
    · rw [hget, ← hz, hr]
      rfl
    · unfold LeavesPath at hl
      rw [hr] at hl
      exact nomatch hl
  | none =>
    have hseen := Seen.updCore_direct (s.xmitStep .cp x).2 core ((s.xmitStep .cp x).2.timeXmits .cp 12 true l)
    refine ⟨completes_of hseen, fun hm => transfers_of hm hseen fun z hz => ?_, fun _ => ?_⟩
    · rw [hr] at hz
      exact nomatch hz
    · rw [hget]
      exact timeXmits_uids ..

/-! ### Circuits (R162) -/

/-- A circuit with other transfers. -/
def Circ.withXs (c : Circ) (l : List Xmit) : Circ := { c with xs := l }

/-- R162: the circuit of a transfer after a step of its first transfer. -/
def State.circuitAfter (s : State) (eng circ : Nat) (x : Xmit) (l : List Xmit) : State :=
  match (s.xmitStep (engKindAcc eng) x).1 with
  | some y => (s.xmitStep (engKindAcc eng) x).2.updCirc eng circ fun c => c.withXs (y :: l)
  | none => ((s.xmitStep (engKindAcc eng) x).2.updCirc eng circ fun c =>
      c.withXs ((s.xmitStep (engKindAcc eng) x).2.timeXmits (engKindAcc eng) (engBase eng) false l)).updEng eng fun g => g.release s.clock

theorem sharedTransferComplete_outcome {eng circ : Nat} {c : Circ} {l : List Xmit} (hc : SMap.get none (s.getEng eng).circ circ = some c) (hx : c.xs = x :: l) :
    exec (.sharedTransferComplete eng circ) s = .next (s.circuitAfter eng circ x l) := by
  have hclk := (xmitStep_same s (engKindAcc eng) x).2
  change execSharedTransferComplete eng circ s = _
  unfold execSharedTransferComplete
  rw [hc]
  dsimp only
  rw [hx]
  dsimp only
  unfold State.circuitAfter
  rw [← hclk]
  generalize s.xmitStep (engKindAcc eng) x = p
  obtain ⟨r, t⟩ := p
  cases r <;> rfl

/-- The circuits of an engine with one written. -/
def Eng.withCirc (g : Eng) (n : Nat) (c : Circ) : Eng := { g with circ := SMap.put g.circ n (some c) }

theorem updCirc_of_some {y : State} {e n : Nat} {c : Circ} (hc : SMap.get none (y.getEng e).circ n = some c) (f : Circ → Circ) :
    (y.updCirc e n f).getEng e = (y.getEng e).withCirc n (f c) := by
  unfold State.updCirc
  rw [State.getEng_updEng_same, hc]
  rfl

/-- What a release keeps: the circuits with a transfer or a collective, and those not yet given up. -/
def keptCirc (clk : Nat) : Option Circ → Bool
  | some c => !(c.xs.isEmpty && c.coll.isNone && match c.freeAt with
    | some t => t ≤ clk
    | none => false)
  | none => false

theorem release_circ (g : Eng) (clk : Nat) : (g.release clk).circ = g.circ.filter fun x => keptCirc clk x.2 := by
  unfold Eng.release
  rfl

theorem SMap.get_filter {α : Type} {d : α} {k : Nat} {v : α} {P : Nat × α → Bool} (hP : P (k, v) = true) (hd : v ≠ d) : ∀ {m : SMap α}, SMap.get d m k = v → SMap.get d (m.filter P) k = v
  | [], h => h
  | (j, w) :: m, h => by
    rw [SMap.get] at h
    by_cases hj : j = k
    · rw [if_pos hj] at h
      subst hj h
      rw [List.filter_cons_of_pos hP, SMap.get, if_pos rfl]
    · rw [if_neg hj] at h
      have ih := SMap.get_filter hP hd h
      by_cases hp : P (j, w) = true
      · rw [List.filter_cons_of_pos hp, SMap.get, if_neg hj, ih]
      · rw [List.filter_cons_of_neg hp, ih]

theorem SMap.get_of_forall_ne {α : Type} {d : α} {k : Nat} : ∀ {m : SMap α}, (∀ y ∈ m, y.1 ≠ k) → SMap.get d m k = d
  | [], _ => rfl
  | y :: m, h => by
    rw [SMap.get, if_neg (h y List.mem_cons_self)]
    exact SMap.get_of_forall_ne fun z hz => h z (List.mem_cons_of_mem _ hz)

theorem SMap.put_at {α : Type} {k : Nat} {v w : α} {post : SMap α} : ∀ {pre : SMap α}, (∀ y ∈ pre, y.1 < k) → SMap.put (pre ++ (k, w) :: post) k v = pre ++ (k, v) :: post
  | [], _ => by rw [List.nil_append, SMap.put, if_neg (Nat.lt_irrefl k), if_pos rfl, List.nil_append]
  | y :: pre, h => by
    have hy := h y List.mem_cons_self
    rw [List.cons_append, SMap.put, if_neg (Nat.not_lt.2 (Nat.le_of_lt hy)), if_neg (Nat.ne_of_lt hy), SMap.put_at fun z hz => h z (List.mem_cons_of_mem _ hz), List.cons_append]

/-- A circuit that has transfers is not released. -/
theorem release_keeps {g : Eng} {n : Nat} {c : Circ} (hx : c.xs ≠ []) (clk : Nat) (hc : SMap.get none g.circ n = some c) : SMap.get none (g.release clk).circ n = some c := by
  rw [release_circ]
  refine SMap.get_filter ?_ (Option.some_ne_none c) hc
  change (!(c.xs.isEmpty && c.coll.isNone && _)) = true
  rw [List.isEmpty_eq_false_iff.2 hx, Bool.false_and, Bool.false_and, Bool.not_false]

/-- A circuit whose last transfer has left and that is given up is freed. -/
theorem release_frees {g : Eng} {n : Nat} {c c' : Circ} {pre post : SMap (Option Circ)} (hg : g.circ = pre ++ (n, some c) :: post) (hpre : ∀ y ∈ pre, y.1 < n)
    (hpost : ∀ y ∈ post, y.1 ≠ n) (hx : c'.xs = []) (hcoll : c'.coll = none) (hfree : c'.freeAt = some 0) (clk : Nat) :
    SMap.get none ((g.withCirc n c').release clk).circ n = none := by
  have hno : keptCirc clk (some c') = false := by
    obtain ⟨_, _, _, _⟩ := c'
    subst hx hcoll hfree
    rfl
  rw [release_circ, Eng.withCirc, hg, SMap.put_at hpre, List.filter_append, List.filter_cons_of_neg (by rw [hno]; decide)]
  refine SMap.get_of_forall_ne fun y hy => ?_
  rcases List.mem_append.1 hy with hy | hy
  · exact Nat.ne_of_lt (hpre y (List.mem_filter.1 hy).1)
  · exact hpost y (List.mem_filter.1 hy).1

theorem timeXmits_ne_nil {acc : Acc} {base : Nat} {direct : Bool} {l : List Xmit} (hl : l ≠ []) : t.timeXmits acc base direct l ≠ [] := fun h => by
  have hu := timeXmits_uids t acc base direct l
  rw [h] at hu
  cases l with
  | nil => exact hl rfl
  | cons x l => exact nomatch hu

theorem sharedTransfer_completes {eng circ : Nat} {c : Circ} {l : List Xmit} (hc : SMap.get none (s.getEng eng).circ circ = some c) (hx : c.xs = x :: l) :
    ∃ t, exec (.sharedTransferComplete eng circ) s = .next t ∧ Completes s t x ∧
      (Moving s (engKindAcc eng) x → Transfers s t (engKindAcc eng) x ((SMap.get none (t.getEng eng).circ circ).bind fun c => c.xs.head?)) ∧
      (LeavesPath s (engKindAcc eng) x → l ≠ [] → ∃ c', SMap.get none (t.getEng eng).circ circ = some c' ∧ c'.ck = c.ck ∧ c'.xs.map (·.uid) = l.map (·.uid)) ∧
      (LeavesPath s (engKindAcc eng) x → l = [] → c.coll = none → c.freeAt = some 0 →
        (∃ pre post, (s.getEng eng).circ = pre ++ (circ, some c) :: post ∧ (∀ y ∈ pre, y.1 < circ) ∧ ∀ y ∈ post, y.1 ≠ circ) →
        SMap.get none (t.getEng eng).circ circ = none) := by
  refine ⟨_, sharedTransferComplete_outcome hc hx, ?_⟩
  have heng : (s.xmitStep (engKindAcc eng) x).2.getEng eng = s.getEng eng := by
    unfold State.getEng
    rw [(xmitStep_same s (engKindAcc eng) x).1]
  have hc' : SMap.get none ((s.xmitStep (engKindAcc eng) x).2.getEng eng).circ circ = some c := by rw [heng]; exact hc
  unfold State.circuitAfter
  cases hr : (s.xmitStep (engKindAcc eng) x).1 with
  | some y =>
    have hseen : Seen (s.xmitStep (engKindAcc eng) x).2 ((s.xmitStep (engKindAcc eng) x).2.updCirc eng circ fun c => c.withXs (y :: l)) := Seen.updEng _ _ _
    have hno : ¬LeavesPath s (engKindAcc eng) x := fun hl => by
      unfold LeavesPath at hl
      rw [hr] at hl
      exact nomatch hl
    refine ⟨completes_of hseen, fun hm => transfers_of hm hseen fun z hz => ?_, fun hl => absurd hl hno, fun hl => absurd hl hno⟩
    dsimp only
    rw [updCirc_of_some hc', Eng.withCirc, SMap.get_put_same, ← hz, hr]
    rfl
  | none =>
    have hseen : Seen (s.xmitStep (engKindAcc eng) x).2 (((s.xmitStep (engKindAcc eng) x).2.updCirc eng circ fun c =>
        c.withXs ((s.xmitStep (engKindAcc eng) x).2.timeXmits (engKindAcc eng) (engBase eng) false l)).updEng eng fun g => g.release s.clock) :=
      (Seen.updEng _ _ _).trans (Seen.updEng _ _ _)
    refine ⟨completes_of hseen, fun hm => transfers_of hm hseen fun z hz => ?_, fun _ hl => ?_, fun _ hl hcoll hfree ⟨pre, post, hg, hpre, hpost⟩ => ?_⟩
    · rw [hr] at hz
      exact nomatch hz
    · rw [State.getEng_updEng_same, updCirc_of_some hc']
      refine ⟨c.withXs ((s.xmitStep (engKindAcc eng) x).2.timeXmits (engKindAcc eng) (engBase eng) false l), release_keeps (timeXmits_ne_nil hl) _ (by rw [Eng.withCirc, SMap.get_put_same]), rfl, timeXmits_uids ..⟩
    · subst hl
      rw [State.getEng_updEng_same, updCirc_of_some hc', heng]
      exact release_frees (c' := c.withXs []) hg hpre hpost rfl hcoll hfree _

end Sys2Proof.Machine
end

section
/-! SUPPORT. The contributions of collectives (R167, R268, R311, R312). -/

set_option Elab.async false

namespace Sys2Proof.Machine

open Claims

variable {s t : State}

/-! ### Messages on the links -/

/-- There is a way to a package (R261): a message of the same line waits on a link that is up, or a link of its routing entry is up. -/
theorem route_iff (s : State) (p a : Nat) : s.route p a ≠ none ↔
    (∃ x ∈ s.podOut, (x.2.dst == p && x.2.addr / 64 == a / 64 && (s.getLink x.1).up) = true) ∨
      ∃ n ∈ List.range 16, (bits (SMap.get 0#64 s.podrt p).toNat n 1 == 1 && (s.getLink n).up) = true := by
  unfold State.route
  cases hf : s.podOut.find? fun x => x.2.dst == p && x.2.addr / 64 == a / 64 && (s.getLink x.1).up with
  | some x => exact ⟨fun _ => .inl ⟨x, List.mem_of_find?_eq_some hf, List.find?_some (p := fun (x : Nat × PodMsg) => x.2.dst == p && x.2.addr / 64 == a / 64 && (s.getLink x.1).up) hf⟩, fun _ => nofun⟩
  | none =>
    have hno : ¬∃ x ∈ s.podOut, (x.2.dst == p && x.2.addr / 64 == a / 64 && (s.getLink x.1).up) = true := fun ⟨x, hx, hp⟩ =>
      absurd hp (List.find?_eq_none.1 hf x hx)
    dsimp only
    cases hu : (List.range 16).filter fun n => bits (SMap.get 0#64 s.podrt p).toNat n 1 == 1 && (s.getLink n).up with
    | nil =>
      refine ⟨fun h => absurd rfl h, fun h => ?_⟩
      rcases h with h | ⟨n, hn, hp⟩
      · exact absurd h hno
      · have := List.mem_filter (p := fun n => bits (SMap.get 0#64 s.podrt p).toNat n 1 == 1 && (s.getLink n).up).2 ⟨hn, hp⟩
        rw [hu] at this
        exact nomatch this
    | cons n ns =>
      have hn : n ∈ (List.range 16).filter fun n => bits (SMap.get 0#64 s.podrt p).toNat n 1 == 1 && (s.getLink n).up := by
        rw [hu]
        exact List.mem_cons_self
      exact ⟨fun _ => .inr ⟨n, List.mem_filter.1 hn⟩, fun _ => nofun⟩

/-- What sending messages leaves: memory, contexts, collectives, the links' states and what has been sent before. -/
structure Sending (s t : State) : Prop where
  mem : t.mem = s.mem
  cc : t.cc = s.cc
  clock : t.clock = s.clock
  colls : t.colls = s.colls
  podrt : t.podrt = s.podrt
  up : ∀ n, (t.getLink n).up = (s.getLink n).up
  out : ∀ x ∈ s.podOut, x ∈ t.podOut
  posted : ∀ w ∈ s.posted, w ∈ t.posted

theorem Sending.refl (s : State) : Sending s s := ⟨rfl, rfl, rfl, rfl, rfl, fun _ => rfl, fun _ h => h, fun _ h => h⟩

theorem Sending.trans {u : State} (h : Sending s t) (g : Sending t u) : Sending s u :=
  ⟨g.mem.trans h.mem, g.cc.trans h.cc, g.clock.trans h.clock, g.colls.trans h.colls, g.podrt.trans h.podrt, fun n => (g.up n).trans (h.up n),
    fun x hx => g.out x (h.out x hx), fun w hw => g.posted w (h.posted w hw)⟩

theorem Sending.route (h : Sending s t) {p a : Nat} (hr : s.route p a ≠ none) : t.route p a ≠ none := by
  rw [route_iff] at hr ⊢
  rcases hr with ⟨x, hx, hp⟩ | ⟨n, hn, hp⟩
  · exact .inl ⟨x, h.out x hx, by rw [h.up]; exact hp⟩
  · exact .inr ⟨n, hn, by rw [h.podrt, h.up]; exact hp⟩

theorem Sending.podOnLink (s : State) (n : Nat) (m : PodMsg) : Sending s (s.podOnLink n m) := by
  refine ⟨rfl, rfl, rfl, rfl, rfl, fun k => ?_, fun x hx => List.mem_append_left _ hx, fun _ h => h⟩
  by_cases hk : k = n
  · subst hk
    have hl : (s.podOnLink k m).getLink k = (s.getLink k).queue m.body := SMap.get_set_same ..
    rw [hl]
    rfl
  · exact congrArg Link.up (SMap.get_set_other _ _ _ _ _ hk)

/-! ### Contributions sent to other packages (R268) -/

/-- A member's contribution is on its way to a package, as a posted write (R268). -/
def State.contributed (t : State) (k : Nat) (l : Launch) (m : CollMember) (data : List (Byte × Bool)) (p : Nat) : Prop :=
  ∀ g n, l.pod = some (g, n) → ∃ x ∈ t.podOut, x.2.dst = p ∧
    x.2.body = .contribution g n (k / 2 ^ 32 % 128) (k % 2 ^ 32) m.rank ⟨m.f.op, m.f.ty, m.f.len, data⟩ ∧ ∃ w ∈ t.posted, w.uid = x.2.uid ∧ w.cmd = m.uid

theorem Sending.contributed {k p : Nat} {l : Launch} {m : CollMember} {data : List (Byte × Bool)} (h : Sending s t) (hs : s.contributed k l m data p) :
    t.contributed k l m data p := fun g n hpod => by
  obtain ⟨x, hx, hdst, hbody, w, hw, huid, hcmd⟩ := hs g n hpod
  exact ⟨x, h.out x hx, hdst, hbody, w, h.posted w hw, huid, hcmd⟩

/-- The posted write of a contribution. -/
def State.contribPost (s : State) (cc : Nat) (m : CollMember) : Posted :=
  { uid := s.uid, cc := cc, launch := (s.getCc cc).launch, die := m.die, addr := 0, host := false, land := s.clock + head m.die 17, due := none,
    frec := lostRec m.bundle 0 0, issued := s.clock, cmd := m.uid, sem := (enHdr m.op).sigSem.toNat }

/-- A state that has posted a contribution. -/
def State.posting (s : State) (cc : Nat) (m : CollMember) : State := { s with uid := s.uid + 1, posted := s.posted ++ [s.contribPost cc m] }

/-- The message of a contribution. -/
def State.contribMsg (s : State) (k : Nat) (m : CollMember) (g n : Nat) (data : List (Byte × Bool)) (pkg : Nat) : PodMsg :=
  { src := s.pkgNum, dst := pkg, index := 0, addr := 64 * m.rank, uid := s.uid,
    body := .contribution g n (k / 2 ^ 32 % 128) (k % 2 ^ 32) m.rank ⟨m.f.op, m.f.ty, m.f.len, data⟩ }

theorem sendTo_of {k cc p link g n : Nat} {m : CollMember} {l : Launch} {data : List (Byte × Bool)} (hpod : l.pod = some (g, n)) (hr : s.route p (64 * m.rank) = some link) :
    s.sendTo k cc m l data p = (s.posting cc m).podOnLink link (s.contribMsg k m g n data p) := by
  have hr' : (s.fresh).2.route p (64 * m.rank) = some link := hr
  unfold State.sendTo
  rw [hpod]
  dsimp only
  rw [hr']
  rfl

theorem sendTo_sends {k cc p : Nat} {m : CollMember} {l : Launch} {data : List (Byte × Bool)} (hr : s.route p (64 * m.rank) ≠ none) :
    Sending s (s.sendTo k cc m l data p) ∧ (s.sendTo k cc m l data p).contributed k l m data p := by
  cases hpod : l.pod with
  | none =>
    refine ⟨?_, fun g n h => absurd (hpod.symm.trans h) nofun⟩
    unfold State.sendTo
    rw [hpod]
    exact Sending.refl s
  | some q =>
    obtain ⟨g, n⟩ := q
    obtain ⟨link, hlink⟩ := Option.ne_none_iff_exists'.1 hr
    rw [sendTo_of hpod hlink]
    have hpost : Sending s (s.posting cc m) := ⟨rfl, rfl, rfl, rfl, rfl, fun _ => rfl, fun _ h => h, fun w hw => List.mem_append_left _ hw⟩
    refine ⟨hpost.trans (Sending.podOnLink _ link _), fun g' n' h => ?_⟩
    obtain ⟨rfl, rfl⟩ := Prod.mk.inj (Option.some.inj (hpod.symm.trans h))
    exact ⟨(link, s.contribMsg k m g n data p), List.mem_append_right _ (List.mem_singleton_self _), rfl, rfl,
      s.contribPost cc m, List.mem_append_right _ (List.mem_singleton_self _), rfl, rfl⟩

theorem sendAll_sends {k cc : Nat} {m : CollMember} {l : Launch} {data : List (Byte × Bool)} : ∀ (ps : List Nat) {s : State}, (∀ p ∈ ps, s.route p (64 * m.rank) ≠ none) →
    Sending s (ps.foldl (fun s p => s.sendTo k cc m l data p) s) ∧ ∀ p ∈ ps, (ps.foldl (fun s p => s.sendTo k cc m l data p) s).contributed k l m data p
  | [], s, _ => ⟨Sending.refl s, nofun⟩
  | p :: ps, s, hr => by
    obtain ⟨h1, hp⟩ := sendTo_sends (k := k) (cc := cc) (l := l) (data := data) (hr p List.mem_cons_self)
    obtain ⟨h2, hps⟩ := sendAll_sends (cc := cc) (l := l) ps (k := k) (data := data) fun q hq => h1.route (hr q (List.mem_cons_of_mem _ hq))
    rw [List.foldl_cons]
    refine ⟨h1.trans h2, fun q hq => ?_⟩
    rcases List.mem_cons.1 hq with rfl | hq
    · exact h2.contributed hp
    · exact hps q hq

/-! ### The members of a collective -/

theorem coll?_eq_some {k : Nat} {c d : Coll} (h : s.coll? k = some c) : SMap.get d s.colls k = c := by
  unfold State.coll? at h
  induction hm : s.colls generalizing s with
  | nil => rw [hm] at h; exact nomatch h
  | cons e m ih =>
    obtain ⟨j, w⟩ := e
    rw [hm, List.find?_cons] at h
    rw [SMap.get]
    by_cases hj : j = k
    · rw [if_pos hj]
      simp only [hj, beq_self_eq_true] at h
      exact Option.some.inj h
    · rw [if_neg hj]
      simp only [beq_eq_false_iff_ne.2 hj] at h
      exact ih (s := { s with colls := m }) h rfl

theorem coll?_put (s : State) (m : SMap Coll) (k : Nat) (c : Coll) : State.coll? { s with colls := SMap.put m k c } k = some c := by
  unfold State.coll?
  dsimp only
  rw [SMap.find?_put, if_pos rfl]
  rfl

/-- A collective with one of its members changed. -/
def Coll.updMember (c : Coll) (rank : Nat) (f : CollMember → CollMember) : Coll := { c with members := c.members.map fun m => if m.rank = rank then f m else m }

theorem coll?_updMember {k rank : Nat} {c : Coll} (f : CollMember → CollMember) (h : s.coll? k = some c) : (s.updMember k rank f).coll? k = some (c.updMember rank f) := by
  unfold State.coll? at h ⊢
  unfold State.updMember
  dsimp only
  generalize s.colls = m at h
  induction m with
  | nil => exact nomatch h
  | cons e m ih =>
    obtain ⟨j, w⟩ := e
    rw [List.find?_cons] at h
    rw [List.map_cons, List.find?_cons]
    by_cases hj : j = k
    · simp only [hj, beq_self_eq_true] at h
      simp only [hj, if_true, beq_self_eq_true]
      rw [← Option.some.inj h]
      rfl
    · simp only [beq_eq_false_iff_ne.2 hj] at h
      simp only [hj, if_false, beq_eq_false_iff_ne.2 hj]
      exact ih h

theorem Coll.member_rank {c : Coll} {rank : Nat} {m : CollMember} (h : c.member rank = some m) : m.rank = rank := eq_of_beq (List.find?_some (p := fun (m : CollMember) => m.rank == rank) h)

theorem Coll.member_updMember {c : Coll} {rank : Nat} {m : CollMember} {f : CollMember → CollMember} (h : c.member rank = some m) (hf : ∀ m, (f m).rank = m.rank) :
    (c.updMember rank f).member rank = some (f m) := by
  unfold Coll.member at h ⊢
  unfold Coll.updMember
  dsimp only
  generalize c.members = l at h
  induction l with
  | nil => exact nomatch h
  | cons y l ih =>
    rw [List.find?_cons] at h
    rw [List.map_cons, List.find?_cons]
    by_cases hy : y.rank = rank
    · simp only [hy, beq_self_eq_true] at h
      simp only [hy, if_true, hf, beq_self_eq_true]
      rw [Option.some.inj h]
    · simp only [beq_eq_false_iff_ne.2 hy] at h
      simp only [hy, if_false, beq_eq_false_iff_ne.2 hy]
      exact ih h

/-! ### A member contributes (R311, R312) -/

/-- A member with its contribution. -/
def CollMember.withBytes (m : CollMember) (bytes : List (Byte × Bool)) (clk : Nat) (bad : Bool) : CollMember := { m with bytes := some bytes, since := clk, bad := bad }

/-- The state in which a member's contribution stands. -/
def State.holding (s : State) (k : Nat) (m : CollMember) (bytes : List (Byte × Bool)) (bad : Bool) : State := s.updMember k m.rank fun m => m.withBytes bytes s.clock bad

/-- What a contribution leaves: the member with its bytes, memory and contexts as they were, and the contribution sent to every package of the pod launch. -/
theorem contribute_contributes {k ck : Nat} {c : Coll} {m : CollMember} {l : Launch} {bytes : List (Byte × Bool)} {bad : Bool} (hl : s.launch? (keyLaunch k) = some l)
    (hc : s.coll? k = some c) (hm : c.member m.rank = some m) (hr : ∀ p ∈ s.podPeers l, s.route p (64 * m.rank) ≠ none) :
    Sending (s.holding k m bytes bad) (s.contribute k ck m bytes bad) ∧ ((s.contribute k ck m bytes bad).coll? k).bind (·.member m.rank) = some (m.withBytes bytes s.clock bad) ∧
      (bytes ≠ [] → SentToPeers s (s.contribute k ck m bytes bad) k l m bytes) := by
  have hcoll : ((s.holding k m bytes bad).coll? k).bind (·.member m.rank) = some (m.withBytes bytes s.clock bad) := by
    unfold State.holding
    rw [coll?_updMember _ hc, Option.bind_some]
    exact Coll.member_updMember hm fun _ => rfl
  have hdef : s.contribute k ck m bytes bad = if bytes.isEmpty then s.holding k m bytes bad else
      (s.podPeers l).foldl (fun s p => s.sendTo k (ckCc ck) m l bytes p) (s.holding k m bytes bad) := by
    have hl' : (s.holding k m bytes bad).launch? (k / 2 ^ 32 / 128) = some l := hl
    unfold State.contribute
    dsimp only
    change (if _ then s.holding k m bytes bad else match (s.holding k m bytes bad).launch? (k / 2 ^ 32 / 128) with | none => _ | some l => _) = _
    rw [hl']
    rfl
  cases bytes with
  | nil =>
    rw [if_pos (by rfl)] at hdef
    rw [hdef]
    exact ⟨Sending.refl _, hcoll, fun h => absurd rfl h⟩
  | cons b bs =>
    rw [if_neg (by rw [List.isEmpty_cons]; decide)] at hdef
    rw [hdef]
    obtain ⟨hs, hp⟩ := sendAll_sends (k := k) (cc := ckCc ck) (l := l) (data := b :: bs) (s.podPeers l) (s := s.holding k m (b :: bs) bad) (m := m) hr
    refine ⟨hs, ?_, fun _ g n hpod p hpp => hp p hpp g n hpod⟩
    unfold State.coll? at hcoll ⊢
    rw [hs.colls]
    exact hcoll

end Sys2Proof.Machine
end

section
/-! SUPPORT. The events of collectives (R167, R268, R269, R311, R312). -/

set_option Elab.async false

namespace Sys2Proof.Machine

open Claims

variable {s t : State} {k rank : Nat} {c : Coll} {l : Launch}

theorem State.getCc_of_cc (h : t.cc = s.cc) (k : Nat) : t.getCc k = s.getCc k := congrArg (fun (m : SMap ColCtx) => SMap.get ({} : ColCtx) m k) h

/-! ### A contribution from another package (R268) -/

theorem collKey_key (k : Nat) : collKey (keyLaunch k) (keyTeam k) (k % 2 ^ 32) = k := by
  unfold collKey keyLaunch keyTeam
  rw [Nat.div_add_mod' (k / 2 ^ 32) 128, Nat.div_add_mod' k (2 ^ 32)]

/-- The member of another package that a contribution makes (R268). -/
def State.extMember (s : State) (l : Launch) (k rank : Nat) (x : Contrib) : CollMember :=
  { rank := rank, m := s.collM l, ext := true, op := contribInstr x, n := k % 2 ^ 32, bytes := some x.data, since := s.clock }

/-- A collective with one more member. -/
def Coll.withMember (c : Coll) (m : CollMember) : Coll := { c with members := c.members ++ [m] }

theorem extArrives_arrives {x : Contrib} (hl : s.launch? (keyLaunch k) = some l) (hc : s.coll? k = some c) (hno : c.member rank = none) (hlt : rank < s.collM l)
    (hout : rank < (s.extMembers l fun x => x < s.pkgNum) ∨ (s.extMembers l fun x => x < s.pkgNum) + l.ownMembers ≤ rank) :
    exec (.collContributionArrives k rank x) s = .next { s with colls := SMap.put s.colls k (c.withMember (s.extMember l k rank x)) } := by
  have hgate : (decide (rank < s.collM l) && !(decide ((s.extMembers l fun x => x < s.pkgNum) ≤ rank) &&
      decide (rank < (s.extMembers l fun x => x < s.pkgNum) + l.ownMembers)) && ((s.coll? k).bind (·.member rank)).isNone) = true := by
    rw [hc, Option.bind_some, hno, decide_eq_true hlt]
    rcases hout with h | h
    · rw [decide_eq_false (Nat.not_le.2 h)]
      rfl
    · rw [decide_eq_false (Nat.not_lt.2 h), Bool.and_false]
      rfl
  change execCollContributionArrives k rank x s = _
  unfold execCollContributionArrives
  rw [hl]
  dsimp only
  rw [hc, Option.bind_some, hno]
  dsimp only
  unfold State.extArrives
  dsimp only
  rw [if_pos hgate]
  unfold State.joinColl
  dsimp only
  rw [collKey_key, coll?_eq_some hc]
  rfl

/-! ### A member of this package contributes (R311, R312) -/

theorem contribution_sends {m : CollMember} (x : Contrib) (hl : s.launch? (keyLaunch k) = some l) (hc : s.coll? k = some c) (hm : c.member rank = some m) :
    exec (.collContributionArrives k rank x) s = .next (s.sendContribution k c m) := by
  change execCollContributionArrives k rank x s = _
  unfold execCollContributionArrives
  rw [hl]
  dsimp only
  rw [hc, Option.bind_some, hm]

theorem mayNot_false {m : CollMember} {ck : Nat} (hext : m.ext = false) (hb : m.bytes = none) (hmay : s.maySend k ck m = true) :
    ¬(m.bytes.isSome || m.ext || !s.maySend k ck m) = true := by
  rw [hext, hb, hmay]
  decide

/-- R312: a member whose COLL differs from rank 0's contributes the identity. -/
theorem sendContribution_bad {m r : CollMember} {ck : Nat} (h0 : c.member 0 = some r) (hck : s.memberCk c m = some ck) (hext : m.ext = false) (hb : m.bytes = none)
    (hmay : s.maySend k ck m = true) (hag : m.agrees r = false) :
    s.sendContribution k c m = (s.contribute k ck m c.identity true).asyncFault ck { code := 2, r1 := m.bundle } m.uid := by
  unfold State.sendContribution
  rw [h0, hck]
  dsimp only
  rw [if_neg (mayNot_false hext hb hmay), hag, if_pos (by rfl)]

theorem sendContribution_ok {m r : CollMember} {ck : Nat} {d : List (Byte × Bool)} {s1 : State} (h0 : c.member 0 = some r) (hck : s.memberCk c m = some ck)
    (hext : m.ext = false) (hb : m.bytes = none) (hmay : s.maySend k ck m = true) (hag : m.agrees r = true) (hop : m.f.op ≠ 0 ∨ m.rank = 0)
    (hread : s.engReadN ck m.acc m.uid m.saddr.toNat m.f.len.toNat = (.ok d, s1)) : s.sendContribution k c m = (s1.dropPod m.uid).contribute k ck m d false := by
  unfold State.sendContribution
  rw [h0, hck]
  dsimp only
  rw [if_neg (mayNot_false hext hb hmay), hag, if_neg (by decide), if_neg, hread]
  rintro h
  rw [Bool.and_eq_true, decide_eq_true_eq, decide_eq_true_eq] at h
  rcases hop with hop | hop
  · exact hop h.1
  · exact h.2 hop

theorem badMember_contributes {m r : CollMember} {ck : Nat} (x : Contrib) (hl : s.launch? (keyLaunch k) = some l) (hc : s.coll? k = some c) (hm : c.member rank = some m)
    (h0 : c.member 0 = some r) (hck : s.memberCk c m = some ck) (hext : m.ext = false) (hb : m.bytes = none) (hmay : s.maySend k ck m = true)
    (hag : m.agrees r = false) (hr : ∀ p ∈ s.podPeers l, s.route p (64 * rank) ≠ none) :
    ∃ t m', exec (.collContributionArrives k rank x) s = .next t ∧ (t.coll? k).bind (·.member rank) = some m' ∧
      m'.bad = true ∧ m'.bytes = some c.identity ∧ t.mem = s.mem ∧ Told s t ck m.uid { code := 2, r1 := m.bundle } := by
  obtain rfl := Coll.member_rank hm
  obtain ⟨hs, hm', -⟩ := contribute_contributes (ck := ck) (bytes := c.identity) (bad := true) hl hc hm hr
  refine ⟨_, _, (contribution_sends x hl hc hm).trans (congrArg _ (sendContribution_bad h0 hck hext hb hmay hag)), hm', rfl, rfl, hs.mem, ?_⟩
  exact told_asyncFault (x := s.contribute k ck m c.identity true) (State.getCc_of_cc hs.cc _) hs.clock rfl

theorem goodMember_contributes {m r : CollMember} {ck : Nat} {d : List (Byte × Bool)} {s1 : State} (x : Contrib) (hl : s.launch? (keyLaunch k) = some l)
    (hc : s.coll? k = some c) (hm : c.member rank = some m)
    (h0 : c.member 0 = some r) (hck : s.memberCk c m = some ck) (hext : m.ext = false) (hb : m.bytes = none) (hmay : s.maySend k ck m = true)
    (hag : m.agrees r = true) (hop : m.f.op ≠ 0 ∨ m.rank = 0) (hread : s.engReadN ck m.acc m.uid m.saddr.toNat m.f.len.toNat = (.ok d, s1))
    (hr : ∀ p ∈ s1.podPeers l, s1.route p (64 * rank) ≠ none) :
    ∃ t m', exec (.collContributionArrives k rank x) s = .next t ∧ (t.coll? k).bind (·.member rank) = some m' ∧
      m'.bad = false ∧ m'.bytes = some d ∧ m'.since = s1.clock ∧ t.mem = s1.mem ∧ (d ≠ [] → SentToPeers s1 t k l m d) := by
  obtain rfl := Coll.member_rank hm
  have hacc : Accessed s s1 := by
    have := (Accessed.refl s).engReadN ck m.acc m.uid m.saddr.toNat m.f.len.toNat
    rwa [hread] at this
  obtain ⟨-, -, -, -, hlaunch, -, -, -, -, -, hcolls, -⟩ := hacc.unaccessed_eq
  have hl1 : (s1.dropPod m.uid).launch? (keyLaunch k) = some l := by
    rw [← hl]
    exact congrArg (fun (ls : SMap Launch) => (ls.find? fun x => x.1 == keyLaunch k).map Prod.snd) hlaunch
  have hc1 : (s1.dropPod m.uid).coll? k = some c := by
    rw [← hc]
    exact congrArg (fun (m : SMap Coll) => (m.find? fun x => x.1 == k).map Prod.snd) hcolls
  obtain ⟨hs, hm', hsent⟩ := contribute_contributes (ck := ck) (bytes := d) (bad := false) hl1 hc1 hm hr
  exact ⟨_, _, (contribution_sends x hl hc hm).trans (congrArg _ (sendContribution_ok h0 hck hext hb hmay hag hop hread)), hm', rfl, rfl, rfl, hs.mem, hsent⟩

/-! ### A member completes (R268, R312) -/

/-- What the release of a member's circuit, buffer, place or staging area leaves. -/
structure Released (s t : State) : Prop where
  mem : t.mem = s.mem
  cc : t.cc = s.cc
  clock : t.clock = s.clock
  colls : t.colls = s.colls
  launches : t.launches = s.launches

theorem Released.refl (s : State) : Released s s := ⟨rfl, rfl, rfl, rfl, rfl⟩

theorem Released.trans {u : State} (h : Released s t) (g : Released t u) : Released s u :=
  ⟨g.mem.trans h.mem, g.cc.trans h.cc, g.clock.trans h.clock, g.colls.trans h.colls, g.launches.trans h.launches⟩

theorem leaveDirect_released (s : State) (k rank : Nat) : Released s (s.leaveDirect k rank) := by
  unfold State.leaveDirect
  refine foldl_ind (P := Released s) (fun y x hy => ?_) _ _ (Released.refl s)
  split
  · exact hy.trans ⟨rfl, rfl, rfl, rfl, rfl⟩
  · exact hy

theorem releaseMember_released (s : State) (k : Nat) (m : CollMember) : Released s (s.releaseMember k m) := by
  have h : Released s (if m.direct then s.leaveDirect k m.rank else s) := by
    split
    · exact leaveDirect_released ..
    · exact Released.refl s
  unfold State.releaseMember
  dsimp only
  split
  · exact h.trans ⟨rfl, rfl, rfl, rfl, rfl⟩
  · exact h.trans ⟨rfl, rfl, rfl, rfl, rfl⟩

theorem State.cmdSignal_same (s : State) (cmd core sem : Nat) (inc : Int) : (s.cmdSignal cmd core sem inc).mem = s.mem ∧ (s.cmdSignal cmd core sem inc).colls = s.colls := by
  unfold State.cmdSignal State.signal
  split
  · exact ⟨rfl, rfl⟩
  · exact ⟨rfl, rfl⟩

/-- A completed member. -/
def CollMember.completed (m : CollMember) : CollMember := { m with complete := true }

/-- A state in which a member has completed and what it holds is released. -/
def State.memberDone (s : State) (k rank : Nat) (m : CollMember) : State := ((s.releaseMember k m).updMember k rank CollMember.completed).endColl k

/-- R268: the collective is forgotten, or the member stands in it as complete. -/
def State.memberIsDone (t : State) (k rank : Nat) : Prop := t.coll? k = none ∨ ∃ m', (t.coll? k).bind (·.member rank) = some m' ∧ m'.complete = true

theorem coll?_erase (s : State) (m : SMap Coll) (k : Nat) : State.coll? { s with colls := SMap.erase m k } k = none := by
  unfold State.coll?
  dsimp only
  rw [SMap.erase_eq_filter, List.find?_eq_none.2 fun x hx => ?_]
  · rfl
  · have := (List.mem_filter.1 hx).2
    rwa [bne, Bool.not_eq_true', ← Bool.not_eq_true] at this

theorem endColl_cases (s : State) (k : Nat) : s.endColl k = s ∨ s.endColl k = { s with colls := SMap.erase s.colls k } := by
  unfold State.endColl
  split
  · split
    · exact .inr rfl
    · exact .inl rfl
  · exact .inl rfl

theorem memberDone_keeps (s : State) (k rank : Nat) (m : CollMember) : (s.memberDone k rank m).mem = s.mem ∧ (s.memberDone k rank m).cc = s.cc ∧ (s.memberDone k rank m).clock = s.clock := by
  obtain ⟨hmem, hcc, hclk, -, -⟩ := releaseMember_released s k m
  unfold State.memberDone
  rcases endColl_cases ((s.releaseMember k m).updMember k rank CollMember.completed) k with h | h <;> rw [h] <;> exact ⟨hmem, hcc, hclk⟩

theorem memberDone_isDone {m : CollMember} (hc : s.coll? k = some c) (hm : c.member rank = some m) : (s.memberDone k rank m).memberIsDone k rank := by
  have hc' : (s.releaseMember k m).coll? k = some c := by
    rw [← hc]
    exact congrArg (fun (m : SMap Coll) => (m.find? fun x => x.1 == k).map Prod.snd) (releaseMember_released s k m).colls
  unfold State.memberDone
  rcases endColl_cases ((s.releaseMember k m).updMember k rank CollMember.completed) k with h | h
  · rw [h]
    refine .inr ⟨m.completed, ?_, rfl⟩
    rw [coll?_updMember _ hc', Option.bind_some]
    exact Coll.member_updMember hm fun _ => rfl
  · rw [h]
    exact .inl (coll?_erase ..)

theorem State.memberIsDone_congr {u : State} (h : u.colls = t.colls) (ht : t.memberIsDone k rank) : u.memberIsDone k rank := by
  unfold State.memberIsDone State.coll? at ht ⊢
  rwa [h]

/-- The places at which a member's result is written. -/
def CollMember.resultPieces (m : CollMember) (c : Coll) : List (Nat × Nat) :=
  pieces64 ((collResult m.f.op.toNat m.f.ty (c.inputs m.m)).length / 64 + 2) m.daddr.toNat (collResult m.f.op.toNat m.f.ty (c.inputs m.m)).length

/-- The state after a member's completion, from its accesses. -/
def State.memberAfter (k rank ck : Nat) (c : Coll) (m : CollMember) (p : EngR × State) : State :=
  match p.1 with
  | .fault f va => (p.2.memberDone k rank m).asyncFault ck (engRec f va m.bundle.toNat 0 0 0) m.uid
  | .wait => p.2
  | .ok _ => ((p.2.engWriteAll ck m.acc (lostRec m.bundle 0 0) { cmd := m.uid, sem := (enHdr m.op).sigSem.toNat } (m.resultPieces c)
      (collResult m.f.op.toNat m.f.ty (c.inputs m.m))).memberDone k rank m).cmdSignal m.uid (ckCore ck) (enHdr m.op).sigSem.toNat (enHdr m.op).sigInc.toInt

theorem memberComplete_outcome {m : CollMember} {ck : Nat} (hl : s.launch? (keyLaunch k) = some l) (hc : s.coll? k = some c) (hm : c.member rank = some m)
    (hck : s.memberCk c m = some ck) (hext : m.ext = false) (hco : m.complete = false) (hbad : m.bad = false) (hpart : c.partDone l.ownMembers m = true)
    (hpost : ∀ p ∈ s.posted, p.cmd ≠ m.uid) :
    exec (.collMemberComplete k rank) s = .next (State.memberAfter k rank ck c m (s.engWrFaults ck m.acc (m.resultPieces c))) := by
  have hno : (s.posted.any fun p => p.cmd == m.uid) = false := List.any_eq_false.2 fun p hp => by
    rw [beq_iff_eq]
    exact hpost p hp
  change execCollMemberComplete k rank s = _
  unfold execCollMemberComplete
  rw [hc]
  dsimp only
  rw [hm]
  dsimp only
  rw [hck]
  dsimp only
  rw [hl, Option.map_some, Option.getD_some, hext, hco, hpart, hno, if_neg (by decide), hbad, if_neg (by decide)]
  unfold State.memberAfter CollMember.resultPieces
  generalize s.engWrFaults ck m.acc _ = p
  obtain ⟨r, s'⟩ := p
  cases r <;> rfl

theorem memberCompletes {m : CollMember} {ck : Nat} (hl : s.launch? (keyLaunch k) = some l) (hc : s.coll? k = some c) (hm : c.member rank = some m)
    (hck : s.memberCk c m = some ck) (hext : m.ext = false) (hco : m.complete = false) (hbad : m.bad = false) (hpart : c.partDone l.ownMembers m = true)
    (hpost : ∀ p ∈ s.posted, p.cmd ≠ m.uid) :
    ∃ t, exec (.collMemberComplete k rank) s = .next t ∧
      (∀ d s1, s.engWrFaults ck m.acc (m.resultPieces c) = (.ok d, s1) → t.memberIsDone k rank ∧
        t.mem = (s1.engWriteAll ck m.acc (lostRec m.bundle 0 0) { cmd := m.uid, sem := (enHdr m.op).sigSem.toNat } (m.resultPieces c)
          (collResult m.f.op.toNat m.f.ty (c.inputs m.m))).mem) ∧
      ∀ s1 f va, s.engWrFaults ck m.acc (m.resultPieces c) = (.fault f va, s1) → t.memberIsDone k rank ∧ t.mem = s1.mem ∧
        Told s1 t ck m.uid (engRec f va m.bundle.toNat 0 0 0) := by
  have hcoll {y : State} (h : Accessed s y) : y.coll? k = some c := by
    obtain ⟨-, -, -, -, -, -, -, -, -, -, hcolls, -⟩ := h.unaccessed_eq
    rw [← hc]
    exact congrArg (fun (m : SMap Coll) => (m.find? fun x => x.1 == k).map Prod.snd) hcolls
  refine ⟨_, memberComplete_outcome hl hc hm hck hext hco hbad hpart hpost, fun d s1 hw => ?_, fun s1 f va hw => ?_⟩
  · have hacc := (writes_accessed hw).trans (Accessed.engWriteAll (ck := ck) (acc := m.acc) (r := lostRec m.bundle 0 0)
      (w := { cmd := m.uid, sem := (enHdr m.op).sigSem.toNat }) (m.resultPieces c) (collResult m.f.op.toNat m.f.ty (c.inputs m.m)) (Accessed.refl s1))
    rw [hw]
    unfold State.memberAfter
    dsimp only
    obtain ⟨hmem, hcolls⟩ := State.cmdSignal_same ((s1.engWriteAll ck m.acc (lostRec m.bundle 0 0) { cmd := m.uid, sem := (enHdr m.op).sigSem.toNat } (m.resultPieces c)
      (collResult m.f.op.toNat m.f.ty (c.inputs m.m))).memberDone k rank m) m.uid (ckCore ck) (enHdr m.op).sigSem.toNat (enHdr m.op).sigInc.toInt
    exact ⟨State.memberIsDone_congr hcolls (memberDone_isDone (hcoll hacc) hm), hmem.trans (memberDone_keeps ..).1⟩
  · have hacc := writes_accessed hw
    obtain ⟨hmem, hcc, hclk⟩ := memberDone_keeps s1 k rank m
    rw [hw]
    refine ⟨memberDone_isDone (hcoll hacc) hm, hmem, ?_⟩
    exact told_asyncFault (x := s1.memberDone k rank m) (State.getCc_of_cc hcc _) hclk rfl

end Sys2Proof.Machine
end

section
/-! PROOFS. The events of shared engines (R156 to R163, R167 to R169, R268, R269, R310 to R312). -/

set_option Elab.async false

namespace Sys2Proof.Machine

open Claims

variable {s t : State} {k rank : Nat} {c : Coll} {l : Launch}

/-! ### The stall event (R269) -/

/-- A collective in which a waiting member has been told of. -/
def Coll.telling (c : Coll) (rank : Nat) : Coll := { c with told := insNat rank c.told }

theorem stallRecord_head (s : State) (c : Coll) (l : Launch) (rank st bytes eng : Nat) : (s.stallRecord c l rank st bytes eng).take 3 = leBytes 2 0x0031 ++ leBytes 1 st := by
  have htake (rest : List Byte) : (leBytes 2 0x0031 ++ (leBytes 1 st ++ rest)).take 3 = leBytes 2 0x0031 ++ leBytes 1 st := by
    rw [← List.append_assoc]
    exact List.take_left' (by rw [List.length_append, leBytes_length, leBytes_length])
  unfold State.stallRecord
  generalize s.rankPlace l rank = q
  obtain ⟨tcol, _, die⟩ := q
  by_cases hown : s.ownRank l rank = true
  · simp only [hown, if_true, List.append_assoc]
    exact htake _
  · simp only [hown, List.append_assoc]
    exact htake _

theorem held_contribution {st : Nat} {h : CollMember} {d : List (Byte × Bool)} (hmem : h ∈ c.members)
    (h0 : st = 0 → h.ext = false ∧ h.direct = false ∧ h.complete = false ∧ (s.ownRank l rank = true ∨ ∃ p ∈ s.posted, p.cmd = h.uid))
    (h1 : st ≠ 0 → ∃ w, c.member rank = some w ∧ 128 ≤ w.eng) (hb : h.bytes = some d) (hd : d ≠ []) (hr : h.rank ≠ rank) : h ∈ s.contribsHeld c l rank st := by
  refine List.mem_filter.2 ⟨hmem, ?_⟩
  rw [bne_iff_ne.2 hr, hb, Bool.true_and, Option.any_some, List.isEmpty_eq_false_iff.2 hd, Bool.not_false, Bool.true_and]
  by_cases hst : st = 0
  · obtain ⟨hext, hdir, hco, hown⟩ := h0 hst
    rw [if_pos hst, hext, hdir, hco, Bool.not_false, Bool.true_and, Bool.true_and, Bool.true_and, Bool.or_eq_true, List.any_eq_true]
    rcases hown with hown | ⟨p, hp, hcmd⟩
    · exact .inl hown
    · exact .inr ⟨p, hp, beq_iff_eq.2 hcmd⟩
  · obtain ⟨w, hw, heng⟩ := h1 hst
    rw [if_neg hst, hw]
    exact Nat.ble_eq_true_of_le heng

theorem stallEvent_tells {st at_ : Nat} {h : CollMember} (hl : s.launch? (keyLaunch k) = some l) (hc : s.coll? k = some c) (hw : s.waitState c rank = some (st, at_))
    (hheld : h ∈ s.contribsHeld c l rank st) (hiv : (s.getPart l.part).collstall ≠ 0) (hdue : Nat.max h.since at_ + (s.getPart l.part).collstall.toNat ≤ s.clock)
    (htold : rank ∉ c.told) (hlt : rank < s.collM l) :
    ∃ rec, exec (.collStallEvent k rank) s = .next { s with events := s.events ++ [.collStall rec], colls := SMap.put s.colls k (c.telling rank) } ∧
      rec.take 3 = leBytes 2 0x0031 ++ leBytes 1 st := by
  obtain ⟨h', hf⟩ : ∃ h', (s.contribsHeld c l rank st).find? (fun m => Nat.max m.since at_ + (s.getPart l.part).collstall.toNat ≤ s.clock) = some h' :=
    Option.isSome_iff_exists.1 (List.find?_isSome.2 ⟨h, hheld, decide_eq_true hdue⟩)
  have hno : ¬(decide ((s.getPart l.part).collstall.toNat = 0) || c.told.contains rank || decide (rank ≥ s.collM l)) = true := by
    rw [decide_eq_false (p := (s.getPart l.part).collstall.toNat = 0) fun h => hiv (BitVec.eq_of_toNat_eq h), decide_eq_false (Nat.not_le.2 hlt), List.contains_eq_mem, decide_eq_false htold]
    decide
  refine ⟨s.stallRecord c l rank st ((s.contribsHeld c l rank st).foldl (fun n m => n + (m.bytes.getD []).length) 0) (c.holder rank st h'), ?_, stallRecord_head ..⟩
  change execCollStallEvent k rank s = _
  unfold execCollStallEvent
  rw [hc, hl]
  dsimp only
  rw [hw]
  dsimp only
  rw [hf]
  dsimp only
  rw [if_neg hno]
  rfl

/-! ### A BLAT's bytes land (R169) -/

/-- The core's BLAT writes that are not due. -/
def Core.blatLater (k : Core) (clk : Nat) : Core := { k with blat := k.blat.filter fun w => w.due > clk }

/-- The state after the one BLAT write that is due. -/
def State.blatAfter (s : State) (core : Nat) (w : BlatW) : State :=
  ((s.updCore core fun k => k.blatLater s.clock).blatStore w).signal core w.sigSem w.sigInc

theorem blatWriteLands_outcome {core : Nat} {w : BlatW} (h : ((s.getCore core).blat.filter fun w => w.due ≤ s.clock) = [w]) :
    exec (.blatWriteLands core) s = .next (s.blatAfter core w) := by
  change execBlatWriteLands core s = _
  unfold execBlatWriteLands
  rw [h]
  rfl

theorem State.signal_cd (s : State) (core sem : Nat) (inc : Int) : (s.signal core sem inc).cd = s.cd := by
  unfold State.signal
  split
  · rfl
  · rfl

theorem State.signal_blat (s : State) (core sem : Nat) (inc : Int) (k : Nat) : ((s.signal core sem inc).getCore k).blat = (s.getCore k).blat := by
  unfold State.signal
  split
  · rfl
  · by_cases hk : k = core
    · rw [hk, State.updCore, State.getCore_setCore_same]
    · rw [State.updCore, State.getCore_setCore_other _ _ _ _ hk]

theorem blatWrite_lands {core : Nat} {w : BlatW} (h : ((s.getCore core).blat.filter fun w => w.due ≤ s.clock) = [w]) (hp : w.passed = []) :
    ∃ t, exec (.blatWriteLands core) s = .next t ∧ t.readBytes w.loc w.data.length = w.data.map Prod.fst ∧
      (∀ a, a < w.loc ∨ w.loc + w.data.length ≤ a → t.readByte a = s.readByte a) ∧ t.cd = s.cd ∧ t.cc = s.cc ∧
      Signals s t core w.sigSem w.sigInc ∧ (t.getCore core).blat = (s.getCore core).blat.filter fun w => s.clock < w.due := by
  have hacc : Accessed (s.updCore core fun k => k.blatLater s.clock) ((s.updCore core fun k => k.blatLater s.clock).blatStore w) := (Accessed.refl _).storeOver ..
  obtain ⟨-, hcd, hcc, -⟩ := hacc.unaccessed_eq
  have hmem : (s.blatAfter core w).mem = (s.writeBytes w.loc (w.data.map Prod.fst)).mem := by
    refine (State.signal_same ..).1.trans ?_
    unfold State.blatStore
    rw [hp, State.storeOver_mem_eq]
    exact State.writeBytes_mem_congr _ _ rfl
  refine ⟨_, blatWriteLands_outcome h, ?_, fun a ha => ?_, ?_, ?_, ?_, ?_⟩
  · have hb := State.readBytes_writeBytes (w.data.map Prod.fst) s w.loc
    rw [List.length_map] at hb
    rw [← hb]
    exact State.readBytes_congr hmem ..
  · rw [State.readByte, hmem]
    exact State.readByte_writeBytes_outside _ s _ _ (by rwa [List.length_map])
  · exact (State.signal_cd ..).trans hcd
  · exact (State.signal_same ..).2.1.trans hcc
  · refine State.signal_sig (fun n => (hacc.sig n).trans ?_) core w.sigSem w.sigInc core
    by_cases hn : n = core
    · rw [hn, State.updCore, State.getCore_setCore_same]
      rfl
    · rw [State.updCore, State.getCore_setCore_other _ _ _ _ hn]
  · have hblat : (((s.updCore core fun k => k.blatLater s.clock).blatStore w).getCore core).blat = ((s.updCore core fun k => k.blatLater s.clock).getCore core).blat :=
      (congrArg Core.blat (hacc.core core) :)
    rw [State.blatAfter, State.signal_blat, hblat, State.updCore, State.getCore_setCore_same]
    rfl

/-! ### The obligation -/

theorem extContribution_arrives {x : Contrib} (hl : s.launch? (keyLaunch k) = some l) (hc : s.coll? k = some c) (hno : c.member rank = none) (hlt : rank < s.collM l)
    (hout : rank < (s.extMembers l fun x => x < s.pkgNum) ∨ (s.extMembers l fun x => x < s.pkgNum) + l.ownMembers ≤ rank) :
    ∃ t, exec (.collContributionArrives k rank x) s = .next t ∧ { t with colls := s.colls } = s ∧ ∃ m, t.coll? k = some { c with
        members := c.members ++ [m] } ∧ m.rank = rank ∧ m.ext = true ∧ m.bytes = some x.data ∧ m.f.op = x.op ∧ m.f.ty = x.ty ∧ m.f.len = x.len :=
  ⟨_, extArrives_arrives hl hc hno hlt hout, rfl, s.extMember l k rank x, coll?_put .., rfl, rfl, rfl, rfl, rfl, rfl⟩

/-- Settles O42: R156 to R163, R167 to R169, R268, R269, R310 to R312: each event is taken in its cases, the transfers by what one of their steps leaves, the
collectives by the member that contributes, completes or is waited for. -/
theorem sharedEngineEvents : Obligations.SharedEngineEvents := by
  unfold Obligations.SharedEngineEvents
  refine ⟨fun s eng q => lone_arbitrated, fun s eng circ c x l => sharedTransfer_completes, fun s core x l => directTransfer_completes,
    fun s k rank data l c hl hc => ⟨fun hno hlt hout => extContribution_arrives hl hc hno hlt hout,
      fun m r ck hm h0 hck hext hb hmay => ⟨badMember_contributes data hl hc hm h0 hck hext hb hmay,
        fun d s1 hag hop hread hr => goodMember_contributes data hl hc hm h0 hck hext hb hmay hag hop hread hr⟩,
      fun m ck hm hck hext hco hbad hpart hpost => memberCompletes hl hc hm hck hext hco hbad hpart hpost, ?_⟩,
    fun s core w h _ hp => blatWrite_lands h hp⟩
  intro st at_ h d hw hmem h0 h1 hb hd hr hiv hdue htold hlt
  obtain ⟨rec, hex, hrec⟩ := stallEvent_tells hl hc hw (held_contribution hmem h0 h1 hb hd hr) hiv hdue htold hlt
  exact ⟨_, rec, hex, rfl, hrec, rfl, c.telling rank, coll?_put { s with events := s.events ++ [.collStall rec] } _ _ _, mem_insNat.2 (.inl rfl), rfl⟩

end Sys2Proof.Machine
end

section
/-! SUPPORT. A step's functions keep memory in its canonical form: the shared rules. -/

set_option Elab.async false

namespace Sys2Proof.Machine

open Claims

/-- A state whose memory is in its canonical form. -/
structure Canonical (s : State) : Prop where
  wf : Memory.wf s.mem

/-- An outcome that leaves memory in its canonical form. -/
structure KeepsForm (o : Host.Outcome State Fault Refusal) : Prop where
  keeps : ∀ t, o = .next t → Canonical t

theorem KeepsForm.next {t : State} (h : Canonical t) : KeepsForm (.next t) := ⟨fun _ e => Host.Outcome.next.inj e ▸ h⟩

namespace Canonical

variable {s x : State}

/-! ### From the frames of the layers below -/

theorem accessed (h : Canonical s) (g : Accessed s x) : Canonical x := ⟨g.wf h.wf⟩

theorem kept (h : Canonical s) (g : Kept s x) : Canonical x := ⟨g.wf h.wf⟩

theorem worked (h : Canonical s) (g : Worked s x) : Canonical x := ⟨g.wf h.wf⟩

theorem drained (h : Canonical s) (g : Drained s x) : Canonical x := ⟨g.wf h.wf⟩

theorem replied (h : Canonical s) (g : Replied s x) : Canonical x := ⟨g.wf h.wf⟩

theorem ended (h : Canonical s) (g : Ended s x) : Canonical x := ⟨g.wf h.wf⟩

/-! ### Pairs, choices and folds -/

/-- The state of a pair that is known. -/
theorem ofSnd {α : Type} {p q : α × State} (h : Canonical p.2) (e : p = q) : Canonical q.2 := e ▸ h

theorem ofSnd₂ {α β : Type} {p q : α × β × State} (h : Canonical p.2.2) (e : p = q) : Canonical q.2.2 := e ▸ h

theorem ofFst {α : Type} {p q : State × α} (h : Canonical p.1) (e : p = q) : Canonical q.1 := e ▸ h

theorem ite {c : Prop} [Decidable c] {a b : State} (ha : Canonical a) (hb : Canonical b) : Canonical (if c then a else b) := by
  split
  · exact ha
  · exact hb

theorem sndIte {α : Type} {c : Prop} [Decidable c] {a b : α × State} (ha : Canonical a.2) (hb : Canonical b.2) : Canonical (if c then a else b).2 := by
  split
  · exact ha
  · exact hb

theorem foldl {β : Type} {f : State → β → State} {l : List β} (hf : ∀ y b, Canonical y → Canonical (f y b)) (h : Canonical s) : Canonical (l.foldl f s) :=
  foldl_ind hf l s h

theorem foldlSnd {α β : Type} {f : α × State → β → α × State} (hf : ∀ y b, Canonical y.2 → Canonical (f y b).2) : ∀ (l : List β) {y : α × State},
    Canonical y.2 → Canonical (l.foldl f y).2
  | [], _, h => h
  | b :: l, _, h => foldlSnd hf l (hf _ b h)

theorem foldlFst {α β : Type} {f : State × α → β → State × α} (hf : ∀ y b, Canonical y.1 → Canonical (f y b).1) : ∀ (l : List β) {y : State × α},
    Canonical y.1 → Canonical (l.foldl f y).1
  | [], _, h => h
  | b :: l, _, h => foldlFst hf l (hf _ b h)

theorem after {f : State → Host.Outcome State Fault Refusal} (h : Canonical s) (hf : KeepsForm (f s)) : Canonical (s.after f) := by
  unfold State.after
  split
  · rename_i t e
    exact hf.keeps t e
  · exact h

/-! ### Single updates -/

theorem setPart (h : Canonical s) (k : Nat) (x : Part) : Canonical (s.setPart k x) := ⟨h.wf⟩

theorem setPodgrp (h : Canonical s) (k : Nat) (x : PodGrp) : Canonical (s.setPodgrp k x) := ⟨h.wf⟩

theorem setRange (h : Canonical s) (k : Nat) (x : Range) : Canonical (s.setRange k x) := ⟨h.wf⟩

theorem setContract (h : Canonical s) (k : Nat) (x : Contract) : Canonical (s.setContract k x) := ⟨h.wf⟩

theorem setRepair (h : Canonical s) (k : Nat) (x : Repair) : Canonical (s.setRepair k x) := ⟨h.wf⟩

theorem setCc (h : Canonical s) (k : Nat) (x : ColCtx) : Canonical (s.setCc k x) := ⟨h.wf⟩

theorem setCol (h : Canonical s) (k : Nat) (x : Column) : Canonical (s.setCol k x) := ⟨h.wf⟩

theorem setQueue (h : Canonical s) (k : Nat) (x : Queue) : Canonical (s.setQueue k x) := ⟨h.wf⟩

theorem updQuad (h : Canonical s) (k : Nat) (F : Quad → Quad) : Canonical (s.updQuad k F) := ⟨h.wf⟩

theorem updCc (h : Canonical s) (k : Nat) (F : ColCtx → ColCtx) : Canonical (s.updCc k F) := ⟨h.wf⟩

theorem updCore (h : Canonical s) (k : Nat) (F : Core → Core) : Canonical (s.updCore k F) := ⟨h.wf⟩

theorem updCol (h : Canonical s) (k : Nat) (F : Column → Column) : Canonical (s.updCol k F) := ⟨h.wf⟩

theorem updEng (h : Canonical s) (k : Nat) (F : Eng → Eng) : Canonical (s.updEng k F) := ⟨h.wf⟩

theorem updDie (h : Canonical s) (k : Nat) (F : Die → Die) : Canonical (s.updDie k F) := ⟨h.wf⟩

theorem setCd (h : Canonical s) (k : Nat) (c : CtxDie) : Canonical (s.setCd k c) := by
  unfold State.setCd
  split
  · exact ⟨h.wf⟩
  · exact ⟨h.wf⟩

theorem updCd (h : Canonical s) (k : Nat) (F : CtxDie → CtxDie) : Canonical (s.updCd k F) := h.setCd ..

theorem updSocket (h : Canonical s) (k : Nat) (F : Socket → Socket) : Canonical (s.updSocket k F) := ⟨h.wf⟩

theorem updQueue (h : Canonical s) (k : Nat) (F : Queue → Queue) : Canonical (s.updQueue k F) := ⟨h.wf⟩

theorem updPart (h : Canonical s) (k : Nat) (F : Part → Part) : Canonical (s.updPart k F) := ⟨h.wf⟩

theorem updLink (h : Canonical s) (k : Nat) (F : Link → Link) : Canonical (s.updLink k F) := ⟨h.wf⟩

theorem updLaunch (h : Canonical s) (k : Nat) (F : Launch → Launch) : Canonical (s.updLaunch k F) := by
  unfold State.updLaunch
  split
  · exact ⟨h.wf⟩
  · exact h

theorem updChan (h : Canonical s) (core ch : Nat) (F : Channel → Channel) : Canonical (s.updChan core ch F) := h.updCore ..

theorem updD (h : Canonical s) (d : Nat) (F : CtxDie → CtxDie) : Canonical (s.updD d F) := h.updCd ..

end Canonical

end Sys2Proof.Machine
end

section
/-! SUPPORT. A step's functions keep memory in its canonical form: accesses, splices and the end of an attempt. -/

set_option Elab.async false

namespace Sys2Proof.Machine

open Claims

namespace Canonical

variable {s : State}

/-! ### Memory (R114, R126) -/

theorem writeByte (h : Canonical s) (loc : Nat) (b : Byte) : Canonical (s.writeByte loc b) := ⟨State.writeByte_wf _ h.wf loc b⟩

/-! ### The trace buffer -/

theorem traceRecord (h : Canonical s) (part : Nat) (rec : List Byte) : Canonical (s.traceRecord part rec) := by
  unfold State.traceRecord
  exact .ite h (.ite (h.setPart ..) ((h.accessed (.store (.refl _) ..)).updPart ..))

theorem flushTrace (h : Canonical s) : Canonical s.flushTrace := by
  unfold State.flushTrace
  exact .foldl (fun _ _ hy => (hy.traceRecord ..)) ⟨h.wf⟩

theorem countNext (h : Canonical s) (cc : Nat) : Canonical (s.countNext cc) := by
  unfold State.countNext
  exact h.updCc ..

/-! ### Operands and results -/

theorem updCoreD (h : Canonical s) (d : Nat) (f : Core → Core) : Canonical (s.updCoreD d f) := by
  unfold State.updCoreD
  exact h.updCore ..

theorem fault (h : Canonical s) (d : Nat) (r : FRec) : Canonical (s.fault d r) := by
  unfold State.fault
  exact ⟨h.wf⟩

theorem illegal (h : Canonical s) (d : Nat) : Canonical (s.illegal d) := by
  unfold State.illegal
  exact h.fault ..

theorem accFault (h : Canonical s) (d : Nat) (f : AFault) (va idx : Nat) : Canonical (s.accFault d f va idx) := by
  unfold State.accFault
  exact h.fault ..

theorem stallFor (h : Canonical s) (r : Nat) : Canonical (s.stallFor r) := by
  unfold State.stallFor
  exact ⟨h.wf⟩

theorem blockFor (h : Canonical s) (r : BlkReason) : Canonical (s.blockFor r) := by
  unfold State.blockFor
  exact ⟨h.wf⟩

theorem splices (h : Canonical s) : Canonical s.splices := by
  unfold State.splices
  exact ⟨h.wf⟩

theorem rdReg (h : Canonical s) (d : Nat) (file : RFile) (n : Nat) : Canonical (s.rdReg d file n).2 := by
  unfold State.rdReg
  lift_lets -underBinder
  intro c1
  split
  · exact h
  · split
    · exact h
    · split
      · exact h.stallFor ..
      · split
        · exact h.fault ..
        · exact ⟨(h.updD ..).wf⟩

theorem rdS (h : Canonical s) (d : Nat) (r : Reg) : Canonical (s.rdS d r).2 := by
  unfold State.rdS
  split
  rename_i s1 e1
  have h1 : Canonical s1 := .ofSnd (h.rdReg ..) e1
  exact h1

theorem updSlotD (h : Canonical s) (d : Nat) (f : SlotDie → SlotDie) : Canonical (s.updSlotD d f) := by
  unfold State.updSlotD
  exact h.updD ..

theorem rdSrc (h : Canonical s) (d pos : Nat) (file : RFile) (r : Reg) : Canonical (s.rdSrc d pos file r).2 := by
  unfold State.rdSrc
  split
  · split
    · exact h
    · exact h.illegal ..
  · split
    rename_i s1 e1
    have h1 : Canonical s1 := .ofSnd (h.rdReg ..) e1
    exact h1.updSlotD ..

theorem emptyHold (h : Canonical s) (d pos : Nat) : Canonical (s.emptyHold d pos) := by
  unfold State.emptyHold
  exact h.updSlotD ..

theorem wrCheck (h : Canonical s) (d : Nat) (file : RFile) (n : Nat) : Canonical (s.wrCheck d file n) := by
  unfold State.wrCheck
  exact .ite (h.stallFor ..) h

theorem result (hs : Canonical s) (d : Nat) (h : Hdr) (lat : Nat) (file : RFile) (n : Nat) (v mask : Vec) (fl grp : Nat) (sig : Bool) : Canonical (s.result d h lat file n v mask fl grp sig) := by
  unfold State.result
  exact (hs.wrCheck ..).updD ..

theorem scoreboard (hs : Canonical s) (d : Nat) (h : Hdr) (due : Option Nat) (n : Nat) (v : DWord) (uid : Nat) (sig : Bool) (ty : Ty) (acc : Nat) (lat : Nat) (ord : Nat) (abort : Bool) : Canonical (s.scoreboard d h due n v uid sig ty acc lat ord abort) := by
  unfold State.scoreboard
  exact (hs.wrCheck ..).updD ..

theorem lanes (h : Canonical s) (d : Nat) (p : Pr) : Canonical (s.lanes d p).2 := by
  unfold State.lanes
  split
  · split
    rename_i e1 _ _ s1 e2
    have h1 : Canonical s1 := .ofSnd (h.rdReg ..) e2
    exact h1
  · exact h

theorem address (h : Canonical s) (d pos : Nat) (base : Reg) (add step : Int) : Canonical (s.address d pos base add step).2 := by
  unfold State.address
  split
  · split
    rename_i e1 _ _ s1 e2
    have h1 : Canonical s1 := .ofSnd (h.rdS ..) e2
    exact h1.updSlotD ..
  · exact h.updSlotD ..

theorem memAddr (h : Canonical s) (d : Nat) (f : FMEM) : Canonical (s.memAddr d f).2 := by
  unfold State.memAddr
  exact h.address ..

theorem signalNow (hs : Canonical s) (d : Nat) (h : Hdr) : Canonical (s.signalNow d h) := by
  unfold State.signalNow
  exact hs.worked (.signal (.refl _) ..)

theorem signalAt (hs : Canonical s) (d : Nat) (h : Hdr) (due : Nat) : Canonical (s.signalAt d h due) := by
  unfold State.signalAt
  exact .ite hs (hs.updCoreD ..)

theorem waitOn (hs : Canonical s) (d : Nat) (h : Hdr) : Canonical (s.waitOn d h) := by
  unfold State.waitOn
  exact .ite hs (hs.blockFor ..)

theorem onDies (hs : Canonical s) (h : Hdr) {f : Nat → State → State} (hf : ∀ d y, Canonical y → Canonical (f d y)) : Canonical (s.onDies h f) := by
  unfold State.onDies
  lift_lets
  intro ds s1
  have h1 : Canonical s1 := .foldl (fun _ _ hy => hf _ _ (hy.waitOn ..)) hs
  clear_value s1
  exact .ite h1.splices h1

/-! ### Reels -/

theorem reelClocks (h : Canonical s) (cc addr len : Nat) : Canonical (s.reelClocks cc addr len).2 := by
  unfold State.reelClocks
  split
  rename_i s1 e1
  have h1 : Canonical s1 := .ofSnd (h.accessed (.resolve (.refl _) ..)) e1
  exact h1

theorem readReel (h : Canonical s) (die cc n i va : Nat) (acc : List Byte) (ps : List Nat) : Canonical (s.readReel die cc n i va acc ps).2 :=
  h.accessed (.readReel die cc n i va acc ps (.refl s))

theorem reelLands (h : Canonical s) (col i : Nat) : Canonical (s.reelLands col i) := by
  unfold State.reelLands
  split
  · exact h
  · split
    · exact h
    · split
      · split
        split
        · split
          rename_i e1 _ _ _ _ _ e2 e3 _ _ _ e4 e5 _ _ s1 e6
          have h1 : Canonical s1 := .ofSnd (h.reelClocks ..) e6
          split
          · exact h1.updCol ..
          · exact h1
        · split
          rename_i e1 _ _ _ _ _ e2 e3 _ _ _ e4 _ _ _ s1 e5
          have h1 : Canonical s1 := .ofSnd (h.readReel ..) e5
          split
          · exact h1.updCol ..
          · exact h1.updCol ..
          · exact h1
      · exact h.updCol ..

/-! ### Pod and host memory -/

theorem podEmit (h : Canonical s) (link : Nat) (m : PodMsg) : Canonical (s.podEmit link m) := by
  unfold State.podEmit
  lift_lets -underBinder
  intro s1
  have h1 : Canonical s1 := h.updLink ..
  clear_value s1
  exact ⟨h1.wf⟩

theorem hostLand (h : Canonical s) : Canonical s.hostLand := by
  unfold State.hostLand
  exact .foldl (fun _ _ hy => (hy.accessed (.storeP (.refl _) ..))) ⟨h.wf⟩

theorem markOrd (h : Canonical s) (ck cls : Nat) : Canonical (s.markOrd ck cls) := by
  unfold State.markOrd
  lift_lets -underBinder
  intro of1 c1 s1
  have h1 : Canonical s1 := ⟨h.wf⟩
  clear_value s1
  intro s2
  have h2 : Canonical s2 := .ite h1 (h1.updCore ..)
  clear_value s2
  exact .ite h2 (h2.updCd ..)

theorem flushStall (h : Canonical s) (d : Nat) (full : Bool) : Canonical (s.flushStall d full) := by
  unfold State.flushStall
  exact .ite (h.stallFor ..) (.ite h ⟨h.wf⟩)

/-! ### Splices, faults and the end of an attempt -/

theorem lateAll (h : Canonical s) : Canonical s.lateAll := by
  unfold State.lateAll
  exact .foldl (fun _ _ hy => (.ite hy (hy.ended (.lateStores (.refl _) ..)))) h

theorem tretTarget (h : Canonical s) (cc : Nat) : Canonical (s.tretTarget cc) := by
  unfold State.tretTarget
  exact .updCc (.drained (.updCc (.foldl (fun _ _ hy => (hy.updCd ..)) h) ..) (.splice (.refl _) ..)) ..

theorem finish {t : State} (h : Canonical s) (ht : Canonical t) : Canonical (s.finish t) := by
  rcases State.finish_cases s t with ⟨he, -⟩ | hd
  · rw [he]
    exact ht.drained (.commit (.refl t))
  · exact h.drained hd

theorem attempt (h : Canonical s) {f : State → State} (hf : ∀ y, Canonical y → Canonical (f y)) : KeepsForm (s.attempt f) :=
  .next (h.finish (hf _ ⟨h.wf⟩))

end Canonical

end Sys2Proof.Machine
end

section
/-! SUPPORT. A step's functions keep memory in its canonical form: scalar, synchronising and vector memory operations. -/

set_option Elab.async false

namespace Sys2Proof.Machine

open Claims

namespace Canonical

variable {s : State}

/-! ### Scalar loads, stores and atomics -/

theorem place (h : Canonical s) (d : Nat) (acc : Acc) (va : Nat) (rd wr : Bool) : Canonical (s.place d acc va rd wr).2 := by
  unfold State.place
  exact h.accessed (.resolve (.refl _) ..)

theorem withholdD (h : Canonical s) (d va loc : Nat) (data : List Byte) : Canonical (s.withholdD d va loc data) := by
  unfold State.withholdD
  exact h.updD ..

theorem flushBlot (h : Canonical s) (d : Nat) : Canonical (s.flushBlot d) := by
  unfold State.flushBlot
  exact ⟨(h.drained (.releaseBlot (.refl _) ..)).splices.wf⟩

theorem holdsLate (h : Canonical s) (d : Nat) : Canonical (s.holdsLate d) := by
  unfold State.holdsLate
  exact ⟨h.wf⟩

theorem abortDie (hs : Canonical s) (d : Nat) (h : Hdr) (n a lat : Nat) : Canonical (s.abortDie d h n a lat) := by
  unfold State.abortDie
  split
  rename_i s1 e1
  have h1 : Canonical s1 := .ofSnd (hs.accessed (.fresh (.refl _) ..)) e1
  exact h1.scoreboard ..

theorem ldDie (hs : Canonical s) (h : Hdr) (f : FMEM) (d : Nat) : Canonical (s.ldDie h f d) := by
  unfold State.ldDie
  lift_lets -underBinder
  intro w1 n1
  split
  rename_i s1 e1
  have h1 : Canonical s1 := .ofSnd (hs.memAddr ..) e1
  split
  · exact h1.fault ..
  · split
    rename_i s2 e2
    have h2 : Canonical s2 := .ofSnd (h1.place ..) e2
    split
    · exact h2.accFault ..
    · exact h2.stallFor ..
    · exact .ite (h2.stallFor ..) (.ite (h2.fault ..) (.ite (h2.abortDie ..) (h2.scoreboard ..)))
    · lift_lets -underBinder
      intro part1
      split
      · exact h2.accFault ..
      · split
        · exact h2.stallFor ..
        · lift_lets -underBinder
          intro kind1
          split
          rename_i e3 _ _ _ s3 e4
          have h3 : Canonical s3 := .ofSnd (h2.accessed (.fresh (.refl _) ..)) e4
          exact (h3.accessed (.podSend (.refl _) ..)).scoreboard ..

theorem stDie (hs : Canonical s) (h : Hdr) (f : FMEM) (d : Nat) : Canonical (s.stDie h f d) := by
  unfold State.stDie
  lift_lets -underBinder
  intro n1
  split
  rename_i s1 e1
  have h1 : Canonical s1 := .ofSnd (hs.memAddr ..) e1
  split
  rename_i s2 e2
  have h2 : Canonical s2 := .ofSnd (h1.rdS ..) e2
  lift_lets -underBinder
  intro data1
  split
  · exact h2.fault ..
  · split
    rename_i s3 e3
    have h3 : Canonical s3 := .ofSnd (h2.place ..) e3
    split
    · exact h3.accFault ..
    · exact h3.stallFor ..
    · split
      · exact h3.stallFor ..
      · split
        · exact ((h3.flushBlot ..).accessed (.hostWrite (.refl _) ..)).signalAt ..
        · exact .ite (((h3.flushBlot ..).accessed (.store (.refl _) ..)).signalNow ..) ((h3.withholdD ..).signalNow ..)
    · lift_lets -underBinder
      intro part1
      split
      · exact h3.accFault ..
      · exact .ite (h3.stallFor ..) (((h3.flushBlot ..).accessed (.podWrite (.refl _) ..)).signalAt ..)

theorem atomicAt (h : Canonical s) (loc op : Nat) (signed : Bool) (w expected v : Nat) : Canonical (s.atomicAt loc op signed w expected v).2 := by
  unfold State.atomicAt
  lift_lets -underBinder
  intro old1
  split
  · exact .ite (h.accessed (.store (.refl _) ..)) h
  · split
    · exact h.accessed (.store (.refl _) ..)
    · exact h.accessed (.store (.refl _) ..)

theorem atomDie (hs : Canonical s) (h : Hdr) (f : FMEM) (op : Nat) (d : Nat) : Canonical (s.atomDie h f op d) := by
  unfold State.atomDie
  lift_lets -underBinder
  intro w1 n1
  split
  rename_i s1 e1
  have h1 : Canonical s1 := .ofSnd (hs.memAddr ..) e1
  split
  rename_i s2 e2
  have h2 : Canonical s2 := .ofSnd (h1.rdS ..) e2
  split
  rename_i s3 e3
  have h3 : Canonical s3 := .ofSnd (.sndIte (h2.rdS ..) h2) e3
  lift_lets -underBinder
  intro v1 x1 ord1 ck1 s4
  have h4 : Canonical s4 := .ite (h3.flushStall ..) h3
  clear_value s4
  intro s5
  have h5 : Canonical s5 := .ite (h4.stallFor ..) h4
  clear_value s5
  split
  · exact h5.fault ..
  · split
    rename_i s6 e4
    have h6 : Canonical s6 := .ofSnd (h5.place ..) e4
    split
    · exact h6.accFault ..
    · exact h6.stallFor ..
    · split
      · exact h6.accFault ..
      · split
        · exact h6.stallFor ..
        · lift_lets -underBinder
          intro s7
          have h7 : Canonical s7 := h6.flushBlot ..
          clear_value s7
          split
          · exact h7.fault ..
          · split
            · split
              rename_i e5 _ _ s8 e6
              have h8 : Canonical s8 := .ofSnd (h7.accessed (.fresh (.refl _) ..)) e6
              exact (h8.updDie ..).scoreboard ..
            · split
              · exact h7.abortDie ..
              · split
                rename_i s8 e5
                have h8 : Canonical s8 := .ofSnd (h7.atomicAt ..) e5
                exact h8.scoreboard ..
    · lift_lets -underBinder
      intro part1
      split
      · exact h6.accFault ..
      · split
        · exact h6.stallFor ..
        · lift_lets -underBinder
          intro kind1 s7
          have h7 : Canonical s7 := h6.flushBlot ..
          clear_value s7
          split
          rename_i e5 _ _ _ s8 e6
          have h8 : Canonical s8 := .ofSnd (h7.accessed (.fresh (.refl _) ..)) e6
          split
          · exact (h8.updDie ..).scoreboard ..
          · exact .scoreboard (.ite ((h8.accessed (.podSend (.refl _) ..)).holdsLate ..) (h8.accessed (.podSend (.refl _) ..))) ..

theorem opAmo (hs : Canonical s) (h : Hdr) (f : FMEM) : Canonical (opAmo h f s) := by
  unfold Machine.opAmo
  exact hs.onDies _ (fun _ _ hy => (hy.atomDie ..).splices)

/-! ### CSRs -/

theorem opCsrr (hs : Canonical s) (h : Hdr) (f : FRIMM) : Canonical (opCsrr h f s) := by
  unfold Machine.opCsrr
  refine hs.onDies _ (fun d y hy => ?_)
  split
  · exact hy.illegal ..
  · exact hy.result ..

theorem opCsrw (hs : Canonical s) (h : Hdr) (f : FRIMM) : Canonical (opCsrw h f s) := by
  unfold Machine.opCsrw
  refine hs.onDies _ (fun d y hy => ?_)
  split
  rename_i s1 e1
  have h1 : Canonical s1 := .ofSnd (hy.rdS ..) e1
  split
  · exact h1.illegal ..
  · exact (h1.updCoreD ..).signalNow ..

/-! ### Branches -/

theorem updCs0 (h : Canonical s) (f : ColState → ColState) : Canonical (s.updCs0 f) := h.updCc ..

theorem illegalAll (hs : Canonical s) (h : Hdr) : Canonical (s.illegalAll h) := by
  unfold State.illegalAll
  exact .foldl (fun _ _ hy => (hy.illegal ..)) hs

theorem atIssue (hs : Canonical s) (h : Hdr) : Canonical (s.atIssue h) := by
  unfold State.atIssue
  exact hs.onDies _ (fun _ _ hy => (hy.signalNow ..))

theorem transfer (h : Canonical s) (target : Option Pos) : Canonical (s.transfer target) := by
  unfold State.transfer
  exact ⟨h.wf⟩

theorem branch (hs : Canonical s) (h : Hdr) (f : FBR) (taken : Bool) : Canonical (s.branch h f taken) := by
  unfold State.branch
  split
  · exact hs
  · split
    · exact hs.illegalAll ..
    · exact .ite (hs.transfer ..) hs

theorem flagsOn (f : FBR) : ∀ (l : List Nat) {s : State}, Canonical s → Canonical (s.flagsOn f l).2
  | [], _, h => h
  | d :: l, _, h => flagsOn f l (h.rdReg d .f f.freg.toNat)

theorem opBrc (hs : Canonical s) (h : Hdr) (f : FBR) : Canonical (opBrc h f s) := by
  unfold Machine.opBrc
  lift_lets -underBinder
  intro s1
  have h1 : Canonical s1 := hs.atIssue ..
  clear_value s1
  split
  rename_i s2 e1
  have h2 : Canonical s2 := .ofSnd (h1.flagsOn ..) e1
  exact h2.branch ..

theorem opCall (hs : Canonical s) (h : Hdr) (f : FBR) : Canonical (opCall h f s) := by
  unfold Machine.opCall
  exact .ite (hs.atIssue ..) (.ite ((hs.atIssue ..).illegalAll ..) (((hs.atIssue ..).branch ..).updCs0 ..))

theorem loopDie (hs : Canonical s) (h : Hdr) (f : FBR) (d : Nat) : Canonical (s.loopDie h f d) := by
  unfold State.loopDie
  split
  rename_i v s1 e1
  have h1 : Canonical s1 := .ofSnd (hs.rdS ..) e1
  lift_lets -underBinder
  intro n s2
  have h2 : Canonical s2 := h1.result ..
  clear_value s2
  exact ⟨h2.wf⟩

theorem opLoop (hs : Canonical s) (h : Hdr) (f : FBR) : Canonical (opLoop h f s) := by
  unfold Machine.opLoop
  lift_lets -underBinder
  intro att s1 s2
  have h1 : Canonical s1 := onDies (s := { s with att := { s.att with loopTaken := some false } }) ⟨hs.wf⟩ _ (fun _ _ hy => hy.loopDie ..)
  clear_value s1
  have h2 : Canonical s2 := h1.branch ..
  clear_value s2
  exact ⟨h2.wf⟩

theorem opTrap (hs : Canonical s) (h : Hdr) (f : FBR) : Canonical (opTrap h f s) := by
  unfold Machine.opTrap
  exact .ite (hs.atIssue ..) (.ite ((hs.atIssue ..).illegalAll ..) ⟨(hs.atIssue ..).splices.wf⟩)

theorem opReel (hs : Canonical s) (h : Hdr) (f : FBR) : Canonical (opReel h f s) := by
  unfold Machine.opReel
  lift_lets -underBinder
  intro s1
  have h1 : Canonical s1 := hs.atIssue ..
  clear_value s1
  intro bad1
  exact .ite h1 (.ite (h1.illegalAll ..) ((h1.transfer ..).worked (.startReel (.refl _) ..)))

theorem opRet (hs : Canonical s) (h : Hdr) : Canonical (opRet h s) := by
  unfold Machine.opRet
  lift_lets -underBinder
  intro s1
  have h1 : Canonical s1 := hs.atIssue ..
  clear_value s1
  split
  · exact h1
  · split
    · exact h1.illegalAll ..
    · exact ((h1.transfer ..).updCs0 ..).worked (.startReel (.refl _) ..)

theorem opTret (hs : Canonical s) (h : Hdr) : Canonical (opTret h s) := by
  unfold Machine.opTret
  exact .ite (hs.atIssue ..) (.ite ((hs.atIssue ..).illegalAll ..) ((hs.atIssue ..).transfer ..).splices)

theorem opHalt (hs : Canonical s) (h : Hdr) : Canonical (opHalt h s) := by
  unfold Machine.opHalt
  exact .ite (hs.atIssue ..) ⟨(hs.atIssue ..).splices.wf⟩

theorem opYield (h : Canonical s) (run : Word) : Canonical (opYield run s) := by
  unfold Machine.opYield
  lift_lets -underBinder
  intro s1
  have h1 : Canonical s1 := h.updCc ..
  clear_value s1
  intro z1
  exact ⟨h1.wf⟩

/-! ### Synchronisation -/

theorem opSig (hs : Canonical s) (h : Hdr) (f : FSYNC) : Canonical (opSig h f s) := by
  unfold Machine.opSig
  exact hs.onDies _ (fun _ _ hy => ((hy.updCoreD ..).signalAt ..).splices)

theorem opWsem (hs : Canonical s) (h : Hdr) (f : FSYNC) : Canonical (opWsem h f s) := by
  unfold Machine.opWsem
  exact hs.onDies _ (fun _ _ hy => (.signalNow (.ite hy (hy.blockFor ..)) ..))

theorem arrive (h : Canonical s) (scope bid : Nat) (sigs : List (Nat × Nat × Int)) : Canonical (s.arrive scope bid sigs) := by
  unfold State.arrive
  exact ⟨h.wf⟩

theorem opBar (hs : Canonical s) (h : Hdr) (f : FSYNC) : Canonical (opBar h f s) := by
  unfold Machine.opBar
  lift_lets -underBinder
  intro s1
  have h1 : Canonical s1 := hs.onDies _ (fun _ _ hy => hy.splices)
  clear_value s1
  intro ds1 s2
  have h2 : Canonical s2 := .foldl (fun _ _ hy => (.ite (.stallFor (.ite (hy.flushStall ..) hy) ..) (.ite (hy.flushStall ..) hy))) h1
  clear_value s2
  exact .ite h1 (h2.arrive ..)

theorem fenceSignal (hs : Canonical s) (d : Nat) (h : Hdr) (cls : Nat) (ack : Bool) : Canonical (s.fenceSignal d h cls ack) := by
  unfold State.fenceSignal
  exact .ite hs (.ite (hs.signalNow ..) (hs.updCoreD ..))

theorem fenceOn (hs : Canonical s) (h : Hdr) (f : FSYNC) (d : Nat) : Canonical (s.fenceOn h f d) := by
  unfold State.fenceOn
  lift_lets -underBinder
  intro cls1 flush1 s1
  have h1 : Canonical s1 := .ite hs hs.splices
  clear_value s1
  intro s2
  have h2 : Canonical s2 := .ite (h1.flushStall ..) h1
  clear_value s2
  intro s3
  have h3 : Canonical s3 := h2.markOrd ..
  clear_value s3
  intro s4
  have h4 : Canonical s4 := .ite ((h3.flushBlot ..).holdsLate ..) h3
  clear_value s4
  exact h4.fenceSignal ..

theorem opEtrig (hs : Canonical s) (h : Hdr) (_f : FSYNC) : Canonical (opEtrig h _f s) := by
  unfold Machine.opEtrig
  lift_lets -underBinder
  intro s1
  have h1 : Canonical s1 := hs.onDies _ (fun _ _ hy => (hy.signalNow ..).splices)
  clear_value s1
  exact .ite h1 (h1.updCc ..)

theorem opGrab (hs : Canonical s) (h : Hdr) (f : FSYNC) : Canonical (opGrab h f s) := by
  unfold Machine.opGrab
  lift_lets -underBinder
  intro u1 s1
  have h1 : Canonical s1 := ⟨hs.wf⟩
  clear_value s1
  intro s2
  have h2 : Canonical s2 := h1.onDies _ (fun _ _ hy => ((hy.scoreboard ..).scoreboard ..).splices)
  clear_value s2
  exact .ite h2 ⟨h2.wf⟩

theorem markWalks (h : Canonical s) (d : Nat) : Canonical (s.markWalks d) := by
  unfold State.markWalks
  exact h.updDie ..

theorem tlbiDie (h : Canonical s) (hit : TlbE → Bool) (d : Nat) : Canonical (s.tlbiDie hit d) := by
  unfold State.tlbiDie
  exact .foldl (fun _ _ hy => (hy.updCore ..)) ((h.updDie ..).markWalks ..)

theorem tlbiOn (hs : Canonical s) (h : Hdr) (f : FSYNC) (d : Nat) : Canonical (s.tlbiOn h f d) := by
  unfold State.tlbiOn
  split
  · exact hs.fault ..
  · split
    rename_i s1 e1
    have h1 : Canonical s1 := .ofSnd (.sndIte (hs.rdS ..) hs) e1
    lift_lets -underBinder
    intro arg1 hit1 w1 s2
    have h2 : Canonical s2 := .ite ((h1.updCoreD ..).markWalks ..) (.ite (h1.tlbiDie ..) (.foldl (fun _ _ hy => (hy.tlbiDie ..)) h1))
    clear_value s2
    split
    rename_i s3 e2
    have h3 : Canonical s3 := .ofSnd (h2.accessed (.fresh (.refl _) ..)) e2
    exact h3.updDie ..

theorem cwWords (h : Canonical s) (d : Nat) (f : FSYNC) (lat : Nat) (data : List Byte) : Canonical (s.cwWords d f lat data) := by
  unfold State.cwWords
  split
  · exact h.fault ..
  · lift_lets -underBinder
    intro s1
    have h1 : Canonical s1 := h.updCc ..
    clear_value s1
    intro z1
    exact ⟨h1.wf⟩

theorem cwSource (d : Nat) : ∀ (k va n : Nat) {s : State}, Canonical s → Canonical (s.cwSource d k va n).2.2.2.2
  | 0, _, _, _, h => h
  | k + 1, va, n, s, h => by
    unfold State.cwSource
    lift_lets -underBinder
    intro m
    split
    rename_i t s1 e1
    have h1 : Canonical s1 := .ofSnd (h.place ..) e1
    split
    · exact h1
    · exact h1.stallFor ..
    · exact h1
    · lift_lets -underBinder
      intro bl
      split
      · exact h1.stallFor ..
      · split
        · exact h1
        · exact cwSource d k (va + m) (n - m) h1

theorem cwldOn (h : Canonical s) (f : FSYNC) (d : Nat) : Canonical (s.cwldOn f d) := by
  unfold State.cwldOn
  split
  rename_i a s1 e1
  have h1 : Canonical s1 := .ofSnd (h.rdS ..) e1
  lift_lets -underBinder
  intro n
  split
  · exact h1.fault ..
  · split
    rename_i data lat e p s2 e2
    have h2 : Canonical s2 := by
      have hc := cwSource d f.count.toNat a n h1
      rwa [e2] at hc
    split
    · exact h2.accFault ..
    · split
      · exact h2.accFault ..
      · split
        · split
          · exact h2.cwWords ..
          · exact h2.stallFor ..
        · exact ⟨h2.wf⟩
    · exact h2.cwWords ..

theorem opCwld (hs : Canonical s) (h : Hdr) (f : FSYNC) : Canonical (opCwld h f s) := by
  unfold Machine.opCwld
  lift_lets -underBinder
  intro s1
  have h1 : Canonical s1 := hs.onDies _ (fun _ _ hy => hy.splices)
  clear_value s1
  split
  · exact h1
  · exact .foldl (fun _ _ hy => (hy.signalAt ..)) (h1.cwldOn ..)

/-! ### The tag table -/

theorem opTlook (hs : Canonical s) (h : Hdr) (f : FSYNC) : Canonical (opTlook h f s) := by
  unfold Machine.opTlook
  refine hs.onDies _ (fun d y hy => ?_)
  split
  rename_i s1 e1
  have h1 : Canonical s1 := .ofSnd (hy.rdS ..) e1
  exact h1.scoreboard ..

theorem tagChange (hs : Canonical s) (d : Nat) (h : Hdr) (o : TagOp) : Canonical (s.tagChange d h o) := by
  unfold State.tagChange
  exact ((hs.updCoreD ..).signalAt ..).splices

theorem opTset (hs : Canonical s) (h : Hdr) (f : FSYNC) : Canonical (opTset h f s) := by
  unfold Machine.opTset
  refine hs.onDies _ (fun d y hy => ?_)
  split
  rename_i s1 e1
  have h1 : Canonical s1 := .ofSnd (hy.rdS ..) e1
  split
  rename_i s2 e2
  have h2 : Canonical s2 := .ofSnd (h1.rdS ..) e2
  exact h2.tagChange ..

theorem opTdrop (hs : Canonical s) (h : Hdr) (f : FSYNC) : Canonical (opTdrop h f s) := by
  unfold Machine.opTdrop
  refine hs.onDies _ (fun d y hy => ?_)
  split
  rename_i s1 e1
  have h1 : Canonical s1 := .ofSnd (hy.rdS ..) e1
  exact h1.tagChange ..

theorem execTagTableChangeLands (h : Canonical s) (core : Nat) : KeepsForm (execTagTableChangeLands core s) := by
  unfold Machine.execTagTableChangeLands
  exact .next (h.updCore ..)

/-! ### Locks and the accesses of engines -/

theorem trackCmd (h : Canonical s) (core uid ck : Nat) (fp : List Region) (wr rd : List Nat) : Canonical (s.trackCmd core uid ck fp wr rd) := by
  unfold State.trackCmd
  exact h.updCore ..

theorem execBankLockGrant (h : Canonical s) (core uid : Nat) : KeepsForm (execBankLockGrant core uid s) := by
  unfold Machine.execBankLockGrant
  exact .next (h.updCore ..)

/-! ### Vector loads and stores -/

theorem laneAddrs (h : Canonical s) (d : Nat) (f : FMEM) (k : LaneForm) : Canonical (s.laneAddrs d f k).2 := by
  unfold State.laneAddrs
  split
  rename_i s1 e1
  have h1 : Canonical s1 := .ofSnd (h.memAddr ..) e1
  split
  · exact h1
  · split
    rename_i s2 e2
    have h2 : Canonical s2 := .ofSnd (h1.rdS ..) e2
    exact h2.emptyHold ..
  · split
    rename_i s2 e2
    have h2 : Canonical s2 := .ofSnd (h1.rdSrc ..) e2
    exact h2

theorem portRows (h : Canonical s) (d : Nat) (addr : Nat → Nat) (on : List Nat) (wr : Bool) : Canonical (s.portRows d addr on wr) := by
  unfold State.portRows
  exact ⟨h.wf⟩

theorem lockStall (h : Canonical s) (d : Nat) (as : List Nat) (n : Nat) (wr : Bool) : Canonical (s.lockStall d as n wr) := by
  unfold State.lockStall
  exact .ite (h.stallFor ..) h

theorem vecCheck (h : Canonical s) (d : Nat) (f : FMEM) (k : LaneForm) (addr : Nat → Nat) (on : List Nat) (wr : Bool) : Canonical (s.vecCheck d f k addr on wr).2 := by
  unfold State.vecCheck
  split
  · exact h.accFault ..
  · exact (h.lockStall ..).portRows ..

theorem vldDie (hs : Canonical s) (h : Hdr) (f : FMEM) (k : LaneForm) (d : Nat) : Canonical (s.vldDie h f k d) := by
  unfold State.vldDie
  split
  rename_i s1 e1
  have h1 : Canonical s1 := .ofSnd (hs.lanes ..) e1
  lift_lets -underBinder
  intro s2
  have h2 : Canonical s2 := h1.emptyHold ..
  clear_value s2
  split
  rename_i s3 e2
  have h3 : Canonical s3 := .ofSnd (h2.laneAddrs ..) e2
  lift_lets -underBinder
  intro ls1
  split
  rename_i s4 e3
  have h4 : Canonical s4 := .ofSnd (h3.vecCheck ..) e3
  split
  · exact h4
  · lift_lets -underBinder
    intro bl1
    split
    · exact h4.fault ..
    · exact h4.result ..

theorem vstDie (hs : Canonical s) (h : Hdr) (f : FMEM) (k : LaneForm) (d : Nat) : Canonical (s.vstDie h f k d) := by
  unfold State.vstDie
  split
  rename_i s1 e1
  have h1 : Canonical s1 := .ofSnd (hs.lanes ..) e1
  split
  rename_i s2 e2
  have h2 : Canonical s2 := .ofSnd (h1.laneAddrs ..) e2
  split
  rename_i s3 e3
  have h3 : Canonical s3 := .ofSnd (h2.rdSrc ..) e3
  lift_lets -underBinder
  intro ls1
  split
  rename_i s4 e4
  have h4 : Canonical s4 := .ofSnd (h3.vecCheck ..) e4
  exact .ite h4 ((h4.updD ..).signalNow ..)

theorem vrdqDie (hs : Canonical s) (h : Hdr) (f : FRRR) (d : Nat) : Canonical (s.vrdqDie h f d) := by
  unfold State.vrdqDie
  split
  rename_i on s1 e1
  have h1 : Canonical s1 := .ofSnd (hs.lanes ..) e1
  lift_lets -underBinder
  intro st
  split
  · exact h1.blockFor ..
  · rename_i v p rest _
    lift_lets -underBinder
    intro s2 s3
    have h2 : Canonical s2 := (h1.wrCheck ..).emptyHold ..
    clear_value s2
    have h3 : Canonical s3 := h2.updD ..
    clear_value s3
    exact .ite ⟨h3.wf⟩ (h3.updD ..)

end Canonical

end Sys2Proof.Machine
end

section
/-! SUPPORT. A step's functions keep memory in its canonical form: copy commands and the matrix engine. -/

set_option Elab.async false

namespace Sys2Proof.Machine

open Claims

namespace Canonical

variable {s : State}

/-! ### Copy commands issued -/

theorem refuseCopy (h : Canonical s) (d ch code : Nat) : Canonical (s.refuseCopy d ch code) := by
  unfold State.refuseCopy
  exact h.updChan ..

theorem pushCopy (h : Canonical s) (d ch : Nat) (c : CopyCmd) : Canonical (s.pushCopy d ch c) := by
  unfold State.pushCopy
  lift_lets -underBinder
  intro key1 q1 s1
  have h1 : Canonical s1 := .ite (h.stallFor ..) h
  clear_value s1
  intro s2
  have h2 : Canonical s2 := h1.blockFor ..
  clear_value s2
  intro z1
  split
  · exact .ite ⟨h2.wf⟩ (h1.fault ..)
  · split
    rename_i s3 e1
    have h3 : Canonical s3 := .ofSnd (h1.accessed (.fresh (.refl _) ..)) e1
    exact (h3.updChan ..).trackCmd ..

theorem copyAddrs (h : Canonical s) (d : Nat) (f : FCOPY) (check : Bool) : Canonical (s.copyAddrs d f check).2.2 := by
  unfold State.copyAddrs
  lift_lets -underBinder
  intro t1
  split
  rename_i s1 e1
  have h1 : Canonical s1 := .ofSnd (.sndIte h (h.address ..)) e1
  split
  rename_i s2 e2
  have h2 : Canonical s2 := .ofSnd (h1.address ..) e2
  exact h2

theorem copyDie (hs : Canonical s) (op : Instr) (h : Hdr) (f : FCOPY) (kind : CopyKind) (d : Nat) : Canonical (s.copyDie op h f kind d) := by
  unfold State.copyDie
  lift_lets -underBinder
  intro ch1 c1 stream1
  split
  rename_i s1 e1
  have h1 : Canonical s1 := .ofSnd₂ (hs.copyAddrs ..) e1
  lift_lets -underBinder
  intro k1 s2
  have h2 : Canonical s2 := .ite (h1.stallFor ..) h1
  clear_value s2
  intro reg1 sh1 e2
  split
  · exact h2.refuseCopy ..
  · split
    exact h2.pushCopy ..

theorem spxgoDie (hs : Canonical s) (h : Hdr) (f : FCOPY) (d : Nat) : Canonical (s.spxgoDie h f d) := by
  unfold State.spxgoDie
  lift_lets -underBinder
  intro ch1
  split
  rename_i s1 e1
  have h1 : Canonical s1 := .ofSnd (hs.address ..) e1
  lift_lets -underBinder
  intro k1 s2
  have h2 : Canonical s2 := .ite (h1.stallFor ..) h1
  clear_value s2
  exact .ite (h2.refuseCopy ..) (.ite (h2.refuseCopy ..) (h2.pushCopy ..))

theorem recordDie (hs : Canonical s) (h : Hdr) (f : FMEM) (k cause : Nat) (d : Nat) : Canonical (s.recordDie h f k cause d) := by
  unfold State.recordDie
  split
  rename_i s1 e1
  have h1 : Canonical s1 := .ofSnd (hs.memAddr ..) e1
  lift_lets -underBinder
  intro ck1 z1 s2
  have h2 : Canonical s2 := ⟨h1.wf⟩
  clear_value s2
  split
  · exact h2.fault ..
  · split
    rename_i s3 e2
    have h3 : Canonical s3 := .ofSnd (h1.place ..) e2
    lift_lets -underBinder
    intro add1
    dsimp -zeta only [add1]
    split
    · exact h3.accFault ..
    · exact h3.stallFor ..
    · exact .ite (h3.stallFor ..) (.ite (h3.fault ..) (h3.updD ..))
    · lift_lets -underBinder
      intro part1
      split
      · exact h3.accFault ..
      · exact .ite (h3.stallFor ..) (((h3.accessed (.fresh (.refl _) ..)).accessed (.podSend (.refl _) ..)).updD ..)

theorem opShape (hs : Canonical s) (h : Hdr) (f : FMEM) : Canonical (opShape h f s) := by
  unfold Machine.opShape
  exact hs.onDies _ (fun _ _ hy => (hy.recordDie ..).splices)

theorem opSbind (hs : Canonical s) (h : Hdr) (f : FRRR) : Canonical (opSbind h f s) := by
  unfold Machine.opSbind
  exact hs.onDies _ (fun _ _ hy => ((hy.updD ..).signalNow ..).splices)

theorem cpdrainDie (hs : Canonical s) (h : Hdr) (f : FRRR) (d : Nat) : Canonical (s.cpdrainDie h f d) := by
  have hstep (x : Nat × State) (ch : Nat) (hx : Canonical x.2) : Canonical (if f.sub.getLsbD ch then
      let (m, s) := x.2.drainChan (coreKey d s.cur.col) (s.ck0 d) ch
      (x.1 + m, s)
    else x).2 := by
    split
    · exact hx.ended (.drainChan (.refl _) ..)
    · exact hx
  unfold State.cpdrainDie
  split
  rename_i s1 e1
  have h1 : Canonical s1 := .ofSnd (foldlSnd hstep _ (y := (0, s)) hs) e1
  exact h1.result ..

/-! ### Copy commands at work -/

theorem copyFault (h : Canonical s) (core ch : Nat) (c : CopyCmd) (f : AFault) (va idx : Nat) : Canonical (s.copyFault core ch c f va idx) := by
  unfold State.copyFault
  exact (h.worked (.copyEnd (.refl _) ..)).worked (.asyncFault (.refl _) ..)

theorem spxStart (h : Canonical s) (core ch : Nat) (c : CopyCmd) : Canonical (s.spxStart core ch c) := by
  unfold State.spxStart
  split
  rename_i s1 e1
  have h1 : Canonical s1 := .ofSnd (h.accessed (.engReadN (.refl _) ..)) e1
  split
  · exact h1
  · exact h1.copyFault ..
  · exact .ended (.ite (h1.worked (.signal (.refl _) ..)) h1) (.setHead (.refl _) ..)

theorem spxPush (h : Canonical s) (core ch : Nat) (c : CopyCmd) : Canonical (s.spxPush core ch c) := by
  unfold State.spxPush
  exact .ite h (((h.updCore ..).worked (.addMoved (.refl _) ..)).ended (.setHead (.refl _) ..))

theorem execCopyCommandStart (h : Canonical s) (core ch : Nat) : KeepsForm (execCopyCommandStart core ch s) := by
  unfold Machine.execCopyCommandStart
  split
  · exact .next h
  · split
    · exact .next h
    · split
      · exact .next (h.spxStart ..)
      · exact .next (h.ended (.setHead (.refl _) ..))

theorem landChain (core ch : Nat) : ∀ (n : Nat) {s : State}, Canonical s → Canonical (s.landChain core ch n).2
  | 0, _, h => h
  | n + 1, s, h => by
    unfold State.landChain
    split
    · exact h
    · rename_i c _
      have hp : Canonical (s.nextPiece c).2.2 := h.accessed (.nextPiece (.refl _) c)
      split
      · rename_i c' s' e1
        have h1 : Canonical s' := by rwa [e1] at hp
        lift_lets -underBinder
        intro t
        have ht : Canonical t := h1.worked (.landPiece (.refl _) ..)
        clear_value t
        split
        · exact (ht.worked (.flushStream (.refl _) ..)).worked (.copyEnd (.refl _) ..)
        · split
          · split
            · exact landChain core ch n ht
            · exact ht
          · exact ht
      · rename_i s' e1
        rwa [e1] at hp
      · exact h

theorem askedOf (h : Canonical s) (t : State) (c : CopyCmd) : Canonical (s.askedOf t c) :=
  .foldl (fun _ _ hy => hy.accessed (.engSeg (.refl _) ..)) h

theorem gatherTake (h : Canonical s) (core ch : Nat) (c : CopyCmd) : Canonical (s.gatherTake core ch c) := by
  unfold State.gatherTake
  exact .ite h ((h.updCore ..).ended (.setHead (.refl _) ..))

theorem askAhead (h : Canonical s) (core ch : Nat) (c : CopyCmd) : Canonical (s.askAhead core ch c) := by
  unfold State.askAhead
  lift_lets -underBinder
  intro total1
  split
  · exact .ite h ((h.accessed (.engSeg (.refl _) ..)).ended (.setHead (.refl _) ..))
  · exact h

theorem execCopyWriteLands (h : Canonical s) (core ch : Nat) : KeepsForm (execCopyWriteLands core ch s) := by
  unfold Machine.execCopyWriteLands
  split
  · exact .next h
  · split
    · exact .next (.ite (h.spxPush ..) h)
    · lift_lets -underBinder
      intro s1
      have h1 : Canonical s1 := h.askAhead ..
      clear_value s1
      intro s2
      have h2 : Canonical s2 := h1.gatherTake ..
      clear_value s2
      intro c1
      split
      · exact .next h2
      · split
        rename_i e1 _ _ _ _ s3 e2
        have h3 : Canonical s3 := .ofSnd (h2.landChain ..) e2
        exact .next (.ite (h2.askedOf ..) h3)

theorem chkRun (h : Canonical s) (core ch : Nat) (c : CopyCmd) : Canonical (s.chkRun core ch c) := by
  unfold State.chkRun
  split
  rename_i s1 e1
  have h1 : Canonical s1 := .ofSnd (h.accessed (.engReadN (.refl _) ..)) e1
  split
  · exact h1
  · exact h1.copyFault ..
  · lift_lets -underBinder
    intro b1
    split
    rename_i s2 e2
    have h2 : Canonical s2 := .ofSnd₂ (h1.accessed (.tchk (.refl _) ..)) e2
    split
    · exact h2.copyFault ..
    · exact h2
    · exact h2.worked (.trailerFault (.refl _) ..)
    · exact h2.worked (.copyEnd (.refl _) ..)

theorem execCopyComplete (h : Canonical s) (core ch : Nat) : KeepsForm (execCopyComplete core ch s) := by
  unfold Machine.execCopyComplete
  split
  · exact .next h
  · split
    · exact .next h
    · split
      · refine .next ?_
        split
        · exact .ite (h.chkRun ..) h
        · exact h
      · split
        · exact .next h
        · split
          · exact .next h
          · split
            rename_i e1 _ _ _ _ _ _ _ s1 e2
            have h1 : Canonical s1 := .ofSnd₂ (h.accessed (.nextPiece (.refl _) ..)) e2
            split
            · split
              · exact .next (h1.worked (.trailerFault (.refl _) ..))
              · split
                · exact .next h
                · exact .next (((h1.worked (.landPiece (.refl _) ..)).worked (.flushStream (.refl _) ..)).worked (.copyEnd (.refl _) ..))
            · exact .next (h.askedOf ..)
            · exact .next h

theorem execCopyAccessFault (h : Canonical s) (core ch : Nat) : KeepsForm (execCopyAccessFault core ch s) := by
  unfold Machine.execCopyAccessFault
  split
  · exact .next h
  · split
    · exact .next h
    · split
      rename_i e1 _ _ _ _ s1 e2
      have h1 : Canonical s1 := .ofSnd₂ (h.accessed (.nextPiece (.refl _) ..)) e2
      split
      · exact .next (h1.copyFault ..)
      · exact .next h

theorem execSparseDecodeComplete (h : Canonical s) (core : Nat) : KeepsForm (execSparseDecodeComplete core s) := by
  refine .next (.foldl (fun y ch hy => ?_) h)
  split
  · lift_lets -underBinder
    intro due
    split
    · split
      · exact hy.copyFault ..
      · exact hy.worked (.copyEnd (.refl _) ..)
    · exact hy
  · exact hy

theorem recordEnd (h : Canonical s) (r : RecPend) (ok : Bool) (cause : Nat) : Canonical (s.recordEnd r ok cause) := by
  unfold State.recordEnd
  exact .ite (h.worked (.signal (.refl _) ..)) (h.worked (.asyncFault (.refl _) ..))

theorem shapeArrives (h : Canonical s) (r : RecPend) : Canonical (s.shapeArrives r) := by
  unfold State.shapeArrives
  exact (h.updCd ..).recordEnd ..

theorem spxArrives (h : Canonical s) (r : RecPend) : Canonical (s.spxArrives r) := by
  unfold State.spxArrives
  exact .recordEnd (.ite (h.updCore ..) h) ..

theorem takeRecs (h : Canonical s) (ck : Nat) (p : RecPend → Bool) : Canonical (s.takeRecs ck p).2 := by
  unfold State.takeRecs
  lift_lets -underBinder
  intro due
  exact updCd h ck fun c => { c with recs := c.recs.filter fun r => !due r }

theorem execShapeRecordArrives (h : Canonical s) (ck : Nat) : KeepsForm (execShapeRecordArrives ck s) := by
  unfold Machine.execShapeRecordArrives
  split
  rename_i s1 e1
  have h1 : Canonical s1 := .ofSnd (h.takeRecs ..) e1
  exact .next (.foldl (fun _ _ hy => (hy.shapeArrives ..)) h1)

theorem execSpxcfgRecordArrives (h : Canonical s) (core : Nat) : KeepsForm (execSpxcfgRecordArrives core s) := by
  unfold Machine.execSpxcfgRecordArrives
  refine .next ?_
  refine .foldl (fun y b hy => ?_) h
  split
  rename_i s1 e1
  have h1 : Canonical s1 := .ofSnd (hy.takeRecs ..) e1
  exact .foldl (fun _ _ hy => (hy.spxArrives ..)) h1

/-! ### The matrix engine -/

theorem pushMx (h : Canonical s) (d : Nat) (c : MxCmd) : Canonical (s.pushMx d c) := by
  unfold State.pushMx
  lift_lets -underBinder
  intro key1 k1 acc1 s1
  have h1 : Canonical s1 := .ite (h.stallFor ..) h
  clear_value s1
  intro s2
  have h2 : Canonical s2 := .ite (h1.stallFor ..) h1
  clear_value s2
  split
  rename_i s3 e1
  have h3 : Canonical s3 := .ofSnd (h2.accessed (.fresh (.refl _) ..)) e1
  lift_lets -underBinder
  intro c1 s4
  have h4 : Canonical s4 := h3.updCore ..
  clear_value s4
  intro s5
  have h5 : Canonical s5 := .ite (h4.updD ..) h4
  clear_value s5
  intro s6
  have h6 : Canonical s6 := .ite (h5.updD ..) h5
  clear_value s6
  exact h6.trackCmd ..

theorem mxDie (hs : Canonical s) (op : Instr) (h : Hdr) (f : FMX) (d : Nat) : Canonical (s.mxDie op h f d) := by
  unfold State.mxDie
  lift_lets -underBinder
  intro k1
  split
  rename_i s1 e1
  have h1 : Canonical s1 := .ofSnd (.sndIte (hs.address ..) hs) e1
  split
  rename_i s2 e2
  have h2 : Canonical s2 := .ofSnd (.sndIte (h1.address ..) h1) e2
  exact .ite (h2.illegal ..) (h2.pushMx ..)

theorem setMxHead (h : Canonical s) (core : Nat) (c : MxCmd) : Canonical (s.setMxHead core c) := by
  unfold State.setMxHead
  exact h.updCore ..

theorem execMxCommandStart (h : Canonical s) (core : Nat) : KeepsForm (execMxCommandStart core s) := by
  unfold Machine.execMxCommandStart
  split
  · exact .next h
  · split
    · exact .next h
    · split
      split
      rename_i e1 _ _ _ _ e2 _ _ _ s1 e3
      have h1 : Canonical s1 := .ofSnd₂ (h.accessed (.mxFetch (.refl _) ..)) e3
      split
      · exact .next (h1.setMxHead ..)
      · exact .next (h1.setMxHead ..)
      · exact .next h

theorem execMxCommandComplete (h : Canonical s) (core : Nat) : KeepsForm (execMxCommandComplete core s) := by
  unfold Machine.execMxCommandComplete
  split
  · exact .next h
  · split
    · exact .next h
    · split
      rename_i e1 _ _ _ _ s1 e2
      have h1 : Canonical s1 := .ofSnd₂ (h.accessed (.mxWrites (.refl _) ..)) e2
      split
      · exact .next h
      · exact .next (h1.setMxHead ..)
      · exact .next (((h1.worked (.mxResults (.refl _) ..)).worked (.mxPop (.refl _) ..)).worked (.cmdSignal (.refl _) ..))

theorem mxFault (h : Canonical s) (core : Nat) : Canonical (s.mxFault core).2 := by
  unfold State.mxFault
  split
  · exact h
  · rename_i c _
    split
    · split
      rename_i r c' s1 e1
      have h1 : Canonical s1 := .ofSnd₂ (h.accessed (.mxFetch (.refl _) c)) e1
      split
      · exact h1
      · exact h
    · split
      · split
        rename_i f r s1 e1
        have h1 : Canonical s1 := .ofSnd₂ (h.accessed (.mxWrites (.refl _) c)) e1
        split
        · exact h1
        · exact h
      · exact h

theorem mxPause (h : Canonical s) (core : Nat) (c : MxCmd) (f : AFault) (va phase row k0 : Nat) : Canonical (s.mxPause core c f va phase row k0) := by
  unfold State.mxPause
  lift_lets -underBinder
  intro r1 s1
  have h1 : Canonical s1 := (h.setMxHead ..).updCore ..
  clear_value s1
  intro z1
  exact ⟨h1.wf⟩

theorem mxResume (h : Canonical s) (core : Nat) : Canonical (s.mxResume core) := by
  unfold State.mxResume
  split
  · exact h
  · exact (h.setMxHead ..).updCore ..

theorem mxAbort (h : Canonical s) (core : Nat) : Canonical (s.mxAbort core) := by
  unfold State.mxAbort
  split
  · exact h
  · exact (h.updCore ..).worked (.mxPop (.refl _) ..)

end Canonical

end Sys2Proof.Machine
end

section
/-! SUPPORT. A step's functions keep memory in its canonical form: shared engines, collectives and the envelope unit. -/

set_option Elab.async false

namespace Sys2Proof.Machine

open Claims

namespace Canonical

variable {s : State}

/-! ### Shared engines -/

theorem awaitReg (h : Canonical s) (d : Nat) (file : RFile) (n uid : Nat) (due : Option Nat) (val : Nat) (sb : Bool) (lat : Nat) : Canonical (s.awaitReg d file n uid due val sb lat) := by
  unfold State.awaitReg
  exact (h.wrCheck ..).updD ..

theorem mapAwaiting (h : Canonical s) (uid : Nat) (f : CtxDie → CtxDie) : Canonical (s.mapAwaiting uid f) := by
  unfold State.mapAwaiting
  exact h.replied (.mapCtxs (.refl _) ..)

theorem seizeResult (h : Canonical s) (uid at_ circ eng code next : Nat) (aged : Bool) : Canonical (s.seizeResult uid at_ circ eng code next aged) := by
  unfold State.seizeResult
  exact h.mapAwaiting ..

theorem enAddrs (h : Canonical s) (d : Nat) (f : FEN) : Canonical (s.enAddrs d f).2.2 := by
  unfold State.enAddrs
  split
  rename_i s1 e1
  have h1 : Canonical s1 := .ofSnd (h.address ..) e1
  split
  rename_i s2 e2
  have h2 : Canonical s2 := .ofSnd (h1.address ..) e2
  exact h2

theorem enCheck (h : Canonical s) (d choice da sa n : Nat) : Canonical (s.enCheck d choice da sa n).2 := by
  unfold State.enCheck
  split
  · exact h.accFault ..
  · split
    · exact h.accFault ..
    · exact h

theorem directFull (h : Canonical s) (d : Nat) : Canonical (s.directFull d) := by
  unfold State.directFull
  exact .ite (h.stallFor ..) h

theorem sendReq (h : Canonical s) (d : Nat) (f : FEN) (r : Req) : Canonical (s.sendReq d f r) := by
  unfold State.sendReq
  exact ((h.awaitReg ..).awaitReg ..).updEng ..

theorem directAdmit (h : Canonical s) (d : Nat) (f : FEN) (uid i : Nat) : Canonical (s.directAdmit d f uid i) := by
  unfold State.directAdmit
  exact ((h.updD ..).awaitReg ..).awaitReg ..

theorem seizeDie (hs : Canonical s) (op : Instr) (f : FEN) (d : Nat) : Canonical (s.seizeDie op f d) := by
  unfold State.seizeDie
  split
  rename_i out s1 e1
  have h1 : Canonical s1 := .ofSnd (hs.rdS ..) e1
  lift_lets -underBinder
  intro i ch
  split
  rename_i da sa s2 e2
  have h2 : Canonical s2 := by
    by_cases hh : isHold op = true
    · rw [if_pos hh] at e2
      exact ofSnd₂ (p := (0, 0, s1)) h1 e2
    · rw [if_neg hh] at e2
      exact ofSnd₂ (h1.enAddrs ..) e2
  split
  rename_i go s3 e3
  have h3 : Canonical s3 := .ofSnd (.sndIte h2 (h2.enCheck ..)) e3
  split
  · exact h3
  · split
    rename_i u s4 e4
    have h4 : Canonical s4 := .ofSnd (h3.accessed (.fresh (.refl _))) e4
    lift_lets -underBinder
    intro ck s5
    have h5 : Canonical s5 := (h4.directAdmit ..).directFull ..
    clear_value s5
    split
    · split
      · exact h5
      · exact h5.ended (.pushDirect (.refl _) ..)
    · exact h4.sendReq ..

theorem pushCirc (h : Canonical s) (e n : Nat) (x : Xmit) : Canonical (s.pushCirc e n x) := by
  unfold State.pushCirc
  exact h.worked (.updCirc (.refl _) ..)

theorem sxferDie (hs : Canonical s) (op : Instr) (h : Hdr) (f : FEN) (d : Nat) : Canonical (s.sxferDie op h f d) := by
  unfold State.sxferDie
  split
  rename_i s1 e1
  have h1 : Canonical s1 := .ofSnd (hs.rdS ..) e1
  lift_lets -underBinder
  intro hd1 ck1 flag1
  dsimp -zeta only [flag1]
  intro held1
  split
  · exact (h1.enAddrs ..).result ..
  · split
    · exact (h1.enAddrs ..).enCheck ..
    · lift_lets -underBinder
      intro s2
      have h2 : Canonical s2 := (((h1.enAddrs ..).enCheck ..).accessed (.fresh (.refl _) ..)).result ..
      clear_value s2
      intro x1
      clear_value held1
      split
      · exact (h2.directFull ..).ended (.pushDirect (.refl _) ..)
      · exact .pushCirc (.ite (h2.stallFor ..) h2) ..

theorem clearDie (hs : Canonical s) (h : Hdr) (f : FEN) (d : Nat) : Canonical (s.clearDie h f d) := by
  unfold State.clearDie
  split
  rename_i s1 e1
  have h1 : Canonical s1 := .ofSnd (hs.rdS ..) e1
  lift_lets -underBinder
  intro hd1 s2
  have h2 : Canonical s2 := h1.signalNow ..
  clear_value s2
  split
  · exact h2
  · exact h2.worked (.updCirc (.refl _) ..)

theorem presentAll : ∀ (l : List Req) {s : State}, Canonical s → Canonical (s.presentAll l).2
  | [], _, h => h
  | _ :: l, _, h => presentAll l (h.mapAwaiting ..)

theorem joinColl (h : Canonical s) (launch team n : Nat) (m : CollMember) : Canonical (s.joinColl launch team n m) := by
  unfold State.joinColl
  exact ⟨h.wf⟩

theorem keepXmit (h : Canonical s) (q : Req) (x : Xmit) : Canonical (s.keepXmit q x) := by
  unfold State.keepXmit
  exact ⟨h.wf⟩

theorem admitReq (h : Canonical s) (e n : Nat) (r : AReq) : Canonical (s.admitReq e n r) := by
  unfold State.admitReq
  lift_lets -underBinder
  intro q1 onCol1 s1
  have h1 : Canonical s1 := h.seizeResult ..
  clear_value s1
  intro s2
  have h2 : Canonical s2 := h1.mapAwaiting ..
  clear_value s2
  intro x1
  split
  · exact .joinColl (.ite (h2.updEng ..) ((h2.updEng ..).keepXmit ..)) ..
  · exact .ite (.ite (h2.updEng ..) h2) (.ite ((h2.updEng ..).pushCirc ..) (h2.keepXmit ..))

theorem refuse (h : Canonical s) (e code : Nat) (r : AReq) : Canonical (s.refuse e code r) := by
  unfold State.refuse
  lift_lets -underBinder
  intro q s1 s2 s3
  have h1 : Canonical s1 := h.seizeResult ..
  clear_value s1
  have h2 : Canonical s2 := h1.mapAwaiting ..
  clear_value s2
  have h3 : Canonical s3 := h2.updEng ..
  clear_value s3
  exact ⟨h3.wf⟩

theorem arbFold (e : Nat) : ∀ (l : List AReq) {s : State}, Canonical s → Canonical (s.arbFold e l)
  | [], _, h => h
  | r :: l, s, h => by
    unfold State.arbFold
    lift_lets -underBinder
    intro g free need
    clear_value free
    split
    · exact arbFold e l (h.refuse ..)
    · split
      · exact arbFold e l (h.refuse ..)
      · split
        · exact arbFold e l (h.refuse ..)
        · exact arbFold e l ((h.admitReq ..).updEng ..)

theorem policyRefuse (h : Canonical s) (e : Nat) (q : Req) : Canonical (s.policyRefuse e q) := by
  unfold State.policyRefuse
  exact (h.seizeResult ..).mapAwaiting ..

theorem execEngineArbitration (h : Canonical s) (eng : Nat) : KeepsForm (execEngineArbitration eng s) := by
  unfold Machine.execEngineArbitration
  lift_lets -underBinder
  intro now1 rs1 s1
  have h1 : Canonical s1 := h.updEng ..
  clear_value s1
  intro s2
  have h2 : Canonical s2 := .foldl (fun _ _ hy => (hy.policyRefuse ..)) h1
  clear_value s2
  split
  rename_i s3 e1
  have h3 : Canonical s3 := .ofSnd (h2.presentAll ..) e1
  exact .next (h3.arbFold ..)

theorem xmitEnd (h : Canonical s) (x : Xmit) : Canonical (s.xmitEnd x) := by
  unfold State.xmitEnd
  exact (h.accessed (.dropPod (.refl _) ..)).worked (.cmdSignal (.refl _) ..)

theorem xmitStep (h : Canonical s) (acc : Acc) (x : Xmit) : Canonical (s.xmitStep acc x).2 := by
  unfold State.xmitStep
  split
  rename_i s1 e1
  have h1 : Canonical s1 := .ofSnd (h.accessed (.askXmit (.refl _) ..)) e1
  split
  · split
    rename_i e2 _ _ _ s2 e3
    have h2 : Canonical s2 := .ofSnd₂ (h1.worked (.xmitMove (.refl _) ..)) e3
    exact h2
  · split
    · exact h1.xmitEnd ..
    · exact h1

theorem execSharedTransferComplete (h : Canonical s) (eng circ : Nat) : KeepsForm (execSharedTransferComplete eng circ s) := by
  unfold Machine.execSharedTransferComplete
  split
  · exact .next h
  · split
    · exact .next h
    · split
      rename_i e1 _ _ _ e2 _ _ s1 e3
      have h1 : Canonical s1 := .ofSnd (h.xmitStep ..) e3
      split
      · exact .next (h1.worked (.updCirc (.refl _) ..))
      · lift_lets -underBinder
        intro s2
        have h2 : Canonical s2 := h1.worked (.updCirc (.refl _) ..)
        clear_value s2
        exact .next (h2.updEng ..)

theorem execDirectTransferComplete (h : Canonical s) (core : Nat) : KeepsForm (execDirectTransferComplete core s) := by
  unfold Machine.execDirectTransferComplete
  split
  · exact .next h
  · split
    · exact .next (.ite (h.ended (.leaveDirect (.refl _) ..)) h)
    · split
      rename_i e1 _ e2 _ _ s1 e3
      have h1 : Canonical s1 := .ofSnd (h.xmitStep ..) e3
      split
      · exact .next (h1.updCore ..)
      · exact .next (h1.updCore ..)

theorem bdrvDie (h : Canonical s) (f : FEN) (d : Nat) : Canonical (s.bdrvDie f d) := by
  unfold State.bdrvDie
  split
  rename_i s1 e1
  have h1 : Canonical s1 := .ofSnd (h.address ..) e1
  lift_lets -underBinder
  intro n1 loc1 bl1 data1 rows1 s2
  have h2 : Canonical s2 := h1.lockStall ..
  clear_value s2
  intro z1 s3
  have h3 : Canonical s3 := ⟨h2.wf⟩
  clear_value s3
  split
  · exact h1.illegal ..
  · split
    · exact h1.accFault ..
    · split
      rename_i s4 e2
      have h4 : Canonical s4 := .ofSnd (h3.accessed (.fresh (.refl _) ..)) e2
      exact (h4.awaitReg ..).updQuad ..

theorem blatDie (hs : Canonical s) (h : Hdr) (f : FEN) (d : Nat) : Canonical (s.blatDie h f d) := by
  unfold State.blatDie
  split
  rename_i s1 e1
  have h1 : Canonical s1 := .ofSnd (hs.address ..) e1
  lift_lets -underBinder
  intro n1 s2
  have h2 : Canonical s2 := .ite (h1.stallFor ..) h1
  clear_value s2
  intro s3
  have h3 : Canonical s3 := h2.flushBlot ..
  clear_value s3
  split
  · exact h1.illegal ..
  · split
    · exact h1.accFault ..
    · split
      rename_i s4 e2
      have h4 : Canonical s4 := .ofSnd (h3.accessed (.fresh (.refl _) ..)) e2
      exact (h4.awaitReg ..).updQuad ..

theorem busFlag (h : Canonical s) (uid v : Nat) : Canonical (s.busFlag uid v) := by
  unfold State.busFlag
  exact h.mapAwaiting ..

theorem busTake (h : Canonical s) (w : List (Byte × Bool)) (r : BusLat) : Canonical (s.busTake w r) := by
  unfold State.busTake
  lift_lets -underBinder
  intro data1 s1
  have h1 : Canonical s1 := ⟨h.wf⟩
  clear_value s1
  exact h1.updCore ..

theorem busEnd (h : Canonical s) (quad : Nat) : Canonical (s.busEnd quad) := by
  unfold State.busEnd
  lift_lets -underBinder
  intro q1 w1 s1
  have h1 : Canonical s1 := .foldl (fun _ _ hy => (hy.busFlag ..)) h
  clear_value s1
  intro s2
  have h2 : Canonical s2 := by
    dsimp -zeta only [s2]
    refine .foldl (fun y b hy => ?_) h1
    clear_value w1
    split
    · exact (hy.busFlag ..).busTake ..
    · exact hy.busFlag ..
  clear_value s2
  exact h2.updQuad ..

theorem blatStore (h : Canonical s) (w : BlatW) : Canonical (s.blatStore w) := by
  unfold State.blatStore
  exact h.accessed (.storeOver (.refl _) ..)

theorem execBlatWriteLands (h : Canonical s) (core : Nat) : KeepsForm (execBlatWriteLands core s) := by
  unfold Machine.execBlatWriteLands
  lift_lets -underBinder
  intro now1 s1
  have h1 : Canonical s1 := h.updCore ..
  clear_value s1
  exact .next (.foldl (fun _ _ hy => ((hy.blatStore ..).worked (.signal (.refl _) ..))) h1)

/-! ### Collectives -/

theorem collDie (hs : Canonical s) (h : Hdr) (f : FEN) (d : Nat) : Canonical (s.collDie h f d) := by
  unfold State.collDie
  split
  · exact hs.illegal ..
  · lift_lets -underBinder
    intro c1 m1 rank1 need1
    split
    · exact hs.illegal ..
    · split
      rename_i e1 _ _ _ s1 e2
      have h1 : Canonical s1 := .ofSnd (hs.rdS ..) e2
      lift_lets -underBinder
      intro i1 ch1
      split
      rename_i s2 e3
      have h2 : Canonical s2 := .ofSnd₂ (h1.enAddrs ..) e3
      split
      rename_i s3 e4
      have h3 : Canonical s3 := .ofSnd (h2.enCheck ..) e4
      split
      · exact h3
      · split
        rename_i s4 e5
        have h4 : Canonical s4 := .ofSnd (h3.accessed (.fresh (.refl _) ..)) e5
        lift_lets -underBinder
        intro ck1 op1 n1 s5
        have h5 : Canonical s5 := h4.updD ..
        clear_value s5
        intro mem1 s6
        have h6 : Canonical s6 := .ite (h5.stallFor ..) h5
        clear_value s6
        intro s7
        have h7 : Canonical s7 := (h6.directFull ..).directAdmit ..
        clear_value s7
        intro k1 s8
        have h8 : Canonical s8 := h7.updCoreD ..
        clear_value s8
        intro x1
        exact .ite ((h8.ended (.pushDirect (.refl _) ..)).joinColl ..) (h5.sendReq ..)

theorem sendTo (h : Canonical s) (k cc : Nat) (m : CollMember) (l : Launch) (data : List (Byte × Bool)) (pkg : Nat) : Canonical (s.sendTo k cc m l data pkg) := by
  unfold State.sendTo
  split
  · exact h
  · split
    rename_i e1 _ _ s1 e2
    have h1 : Canonical s1 := .ofSnd (h.accessed (.fresh (.refl _) ..)) e2
    lift_lets -underBinder
    intro msg1
    split
    · exact h1.worked (.asyncFault (.refl _) ..)
    · lift_lets -underBinder
      intro s2
      have h2 : Canonical s2 := ⟨h1.wf⟩
      clear_value s2
      exact h2.accessed (.podOnLink (.refl _) ..)

theorem contribute (h : Canonical s) (k ck : Nat) (m : CollMember) (bytes : List (Byte × Bool)) (bad : Bool) : Canonical (s.contribute k ck m bytes bad) := by
  unfold State.contribute
  lift_lets -underBinder
  intro s1
  have h1 : Canonical s1 := h.worked (.updMember (.refl _) ..)
  clear_value s1
  split
  · exact h1
  · split
    · exact h1
    · exact .foldl (fun _ _ hy => (hy.sendTo ..)) h1

theorem sendContribution (h : Canonical s) (k : Nat) (c : Coll) (m : CollMember) : Canonical (s.sendContribution k c m) := by
  unfold State.sendContribution
  split
  · split
    · exact h
    · split
      · exact (h.contribute ..).worked (.asyncFault (.refl _) ..)
      · split
        · exact h.contribute ..
        · split
          rename_i e1 e2 _ _ _ _ _ s1 e3
          have h1 : Canonical s1 := .ofSnd (h.accessed (.engReadN (.refl _) ..)) e3
          split
          · exact h1
          · exact ((h1.accessed (.dropPod (.refl _) ..)).contribute ..).worked (.asyncFault (.refl _) ..)
          · exact (h1.accessed (.dropPod (.refl _) ..)).contribute ..
  · exact h

theorem extArrives (h : Canonical s) (l : Launch) (coll rank : Nat) (c : Contrib) : Canonical (s.extArrives l coll rank c) := by
  unfold State.extArrives
  exact .ite (h.joinColl ..) h

theorem execCollContributionArrives (h : Canonical s) (coll rank : Nat) (x : Contrib) : KeepsForm (execCollContributionArrives coll rank x s) := by
  unfold Machine.execCollContributionArrives
  split
  · exact .next h
  · split
    · refine .next ?_
      split
      · exact h.sendContribution ..
      · exact h
    · exact .next (h.extArrives ..)

theorem endColl (h : Canonical s) (k : Nat) : Canonical (s.endColl k) := by
  unfold State.endColl
  split
  · exact .ite ⟨h.wf⟩ h
  · exact h

theorem collEnds (h : Canonical s) (k rank : Nat) (m : CollMember) : Canonical (s.memberDone k rank m) :=
  Canonical.endColl (s := (s.releaseMember k m).updMember k rank CollMember.completed) ⟨(h.ended (.releaseMember (.refl _) k m)).wf⟩ k

theorem execCollMemberComplete (h : Canonical s) (coll rank : Nat) : KeepsForm (execCollMemberComplete coll rank s) := by
  unfold Machine.execCollMemberComplete
  split
  · exact .next h
  · split
    · exact .next h
    · rename_i m _
      split
      · exact .next h
      · rename_i ck _
        split
        · exact .next h
        · lift_lets -underBinder
          intro fin data ps
          split
          · exact .next (h.collEnds coll rank m)
          · split
            rename_i f s1 e1
            have h1 : Canonical s1 := .ofSnd (h.accessed (.engWrFaults _ (.refl _))) e1
            split
            · exact .next ⟨(h1.collEnds coll rank m).wf⟩
            · exact .next h1
            · exact .next (((h1.accessed (.engWriteAll _ _ (.refl _))).collEnds coll rank m).worked (.cmdSignal (.refl _) ..))

theorem execCollStallEvent (h : Canonical s) (coll rank : Nat) : KeepsForm (execCollStallEvent coll rank s) := by
  unfold Machine.execCollStallEvent
  split
  · lift_lets -underBinder
    intro iv1
    split
    · exact .next h
    · lift_lets -underBinder
      intro sent1
      split
      · exact .next h
      · split
        · exact .next h
        · lift_lets -underBinder
          intro bytes1
          exact .next ⟨h.wf⟩
  · exact .next h

/-! ### The envelope unit -/

theorem evPending (h : Canonical s) (d : Nat) (i : Instr) : Canonical (s.evPending d i) := by
  unfold State.evPending
  exact .ite (h.stallFor ..) h

theorem evQueue (h : Canonical s) (d : Nat) (e : EvOp) (banks : List (Nat × Bool)) : Canonical (s.evQueue d e banks) := by
  unfold State.evQueue
  lift_lets -underBinder
  intro s1
  have h1 : Canonical s1 := h.evPending ..
  clear_value s1
  intro s2
  have h2 : Canonical s2 := .ite (h1.stallFor ..) h1
  clear_value s2
  split
  rename_i s3 e1
  have h3 : Canonical s3 := .ofSnd (h2.accessed (.fresh (.refl _) ..)) e1
  exact h3.updCoreD ..

theorem evPlain (hs : Canonical s) (h : Hdr) (i : Instr) : Canonical (s.evPlain h i) := by
  unfold State.evPlain
  exact hs.onDies _ (fun _ _ hy => (hy.evQueue ..))

theorem elineDie (hs : Canonical s) (h : Hdr) (f : FEV) (d : Nat) : Canonical (s.elineDie h f d) := by
  unfold State.elineDie
  split
  rename_i s1 e1
  have h1 : Canonical s1 := .ofSnd (hs.lanes ..) e1
  split
  rename_i s2 e2
  have h2 : Canonical s2 := .ofSnd (h1.rdSrc ..) e2
  split
  rename_i s3 e3
  have h3 : Canonical s3 := .ofSnd (h2.rdSrc ..) e3
  split
  rename_i s4 e4
  have h4 : Canonical s4 := .ofSnd (h3.rdSrc ..) e4
  exact h4.evQueue ..

theorem eevalDie (hs : Canonical s) (h : Hdr) (f : FEV) (d : Nat) : Canonical (s.eevalDie h f d) := by
  unfold State.eevalDie
  lift_lets -underBinder
  intro s1
  have h1 : Canonical s1 := ((hs.evPending ..).emptyHold ..).emptyHold ..
  clear_value s1
  split
  rename_i s2 e1
  have h2 : Canonical s2 := .ofSnd (h1.lanes ..) e1
  split
  rename_i s3 e2
  have h3 : Canonical s3 := .ofSnd (h2.rdSrc ..) e2
  exact (h3.result ..).result ..

theorem ebrkDie (hs : Canonical s) (h : Hdr) (f : FEV) (d : Nat) : Canonical (s.ebrkDie h f d) := by
  unfold State.ebrkDie
  lift_lets -underBinder
  intro s1
  have h1 : Canonical s1 := ((hs.evPending ..).emptyHold ..).emptyHold ..
  clear_value s1
  split
  rename_i s2 e1
  have h2 : Canonical s2 := .ofSnd (h1.rdS ..) e1
  exact (h2.result ..).result ..

theorem eclrDie (hs : Canonical s) (h : Hdr) (f : FEV) (d : Nat) : Canonical (s.eclrDie h f d) := by
  unfold State.eclrDie
  split
  rename_i s1 e1
  have h1 : Canonical s1 := .ofSnd (hs.rdS ..) e1
  exact h1.evQueue ..

theorem etolDie (hs : Canonical s) (h : Hdr) (f : FEV) (d : Nat) : Canonical (s.etolDie h f d) := by
  unfold State.etolDie
  split
  rename_i s1 e1
  have h1 : Canonical s1 := .ofSnd (hs.rdS ..) e1
  exact (h1.updD ..).signalNow ..

theorem eimgDie (h : Canonical s) (f : FEV) (i : Instr) (excl : Bool) (d : Nat) : Canonical (s.eimgDie f i excl d) := by
  unfold State.eimgDie
  split
  rename_i s1 e1
  have h1 : Canonical s1 := .ofSnd (h.address ..) e1
  exact .ite (h1.fault ..) (.evQueue (.ite (h1.flushBlot ..) h1) ..)

theorem teamSignal (h : Canonical s) (launch core sem : Nat) (inc : Int) : Canonical (s.teamSignal launch core sem inc) := by
  unfold State.teamSignal
  exact .ite (h.worked (.signal (.refl _) ..)) (.ite h ⟨h.wf⟩)

theorem evDone (h : Canonical s) (core : Nat) (e : EvOp) : Canonical (s.evDone core e) := by
  unfold State.evDone
  exact h.updCore ..

theorem savedEvFault (h : Canonical s) (e : EvOp) (r : FRec) : Canonical (s.savedEvFault e r) := by
  unfold State.savedEvFault
  exact ⟨h.wf⟩

theorem evAbandon (h : Canonical s) (core ck : Nat) : Canonical (s.evAbandon core ck) := by
  unfold State.evAbandon
  exact h.updCore ..

theorem evStart (h : Canonical s) (core : Nat) (e : EvOp) : Canonical (s.evStart core e) := by
  unfold State.evStart
  lift_lets -underBinder
  intro r1 en1
  split
  · exact (h.evDone ..).worked (.asyncFault (.refl _) ..)
  · exact h.updCore ..

theorem execEvOperationStart (h : Canonical s) (core : Nat) : KeepsForm (execEvOperationStart core s) := by
  unfold Machine.execEvOperationStart
  refine .next ?_
  split
  · exact h.evStart ..
  · exact h

theorem evWrites (h : Canonical s) (core : Nat) (e : EvOp) : Canonical (s.evWrites core e) := by
  unfold State.evWrites
  lift_lets -underBinder
  intro s1
  have h1 : Canonical s1 := by
    dsimp -zeta only [s1]
    split
    · exact h.updCd ..
    · exact h
  clear_value s1
  intro s2
  have h2 : Canonical s2 := .ite (h1.worked (.setEnan (.refl _) ..)) h1
  clear_value s2
  split
  · exact .ite (((h2.evAbandon ..).evDone ..).worked (.asyncFault (.refl _) ..)) ((h2.evDone ..).savedEvFault ..)
  · exact h2

theorem imageSaved (h : Canonical s) (launch core off : Nat) (data : List Byte) : Canonical (s.imageSaved launch core off data) := by
  unfold State.imageSaved
  exact .ite h ⟨h.wf⟩

theorem evFinish (h : Canonical s) (core : Nat) (e : EvOp) : Canonical (s.evFinish core e) := by
  unfold State.evFinish
  lift_lets -underBinder
  intro s1
  have h1 : Canonical s1 := h.evWrites ..
  clear_value s1
  intro off s2
  have h2 : Canonical s2 := .ite h1 ((h1.accessed (.storeOver (.refl _) ..)).imageSaved ..)
  clear_value s2
  intro s3
  have h3 : Canonical s3 := by
    dsimp -zeta only [s3]
    split
    · exact h2.teamSignal ..
    · exact h2
  clear_value s3
  exact h3.evDone ..

theorem execEvOperationComplete (h : Canonical s) (core : Nat) : KeepsForm (execEvOperationComplete core s) := by
  unfold Machine.execEvOperationComplete
  refine .next ?_
  split
  · exact h.evFinish ..
  · exact h

end Canonical

end Sys2Proof.Machine
end

section
/-! SUPPORT. A step's functions keep memory in its canonical form: vector and scalar arithmetic, and the issue of bundles. -/

set_option Elab.async false

namespace Sys2Proof.Machine

open Claims

namespace Canonical

variable {s : State}

/-! ### Vector integers -/

theorem vecDie (hs : Canonical s) (h : Hdr) (f : FRRR) (lat n w : Nat) (op : Nat → Nat → Nat → Nat → Nat × Nat) (d : Nat) : Canonical (s.vecDie h f lat n w op d) := by
  unfold State.vecDie
  split
  rename_i s1 e1
  have h1 : Canonical s1 := .ofSnd (hs.lanes ..) e1
  split
  rename_i s2 e2
  have h2 : Canonical s2 := .ofSnd (h1.rdSrc ..) e2
  split
  rename_i s3 e3
  have h3 : Canonical s3 := .ofSnd (.sndIte (h2.rdSrc ..) h2) e3
  split
  rename_i s4 e4
  have h4 : Canonical s4 := .ofSnd (.sndIte (h3.rdSrc ..) h3) e4
  exact h4.result ..

theorem vec (hs : Canonical s) (h : Hdr) (f : FRRR) (lat n : Nat) (op : Nat → Nat → Nat → Nat → Nat) : Canonical (s.vec h f lat n op) := by
  unfold State.vec
  exact hs.onDies _ (fun _ _ hy => (hy.vecDie ..))

theorem vcmpDie (hs : Canonical s) (h : Hdr) (f : FRRR) (d : Nat) : Canonical (s.vcmpDie h f d) := by
  unfold State.vcmpDie
  lift_lets -underBinder
  intro w1
  split
  rename_i s1 e1
  have h1 : Canonical s1 := .ofSnd (hs.lanes ..) e1
  split
  rename_i s2 e2
  have h2 : Canonical s2 := .ofSnd (h1.rdSrc ..) e2
  split
  rename_i s3 e3
  have h3 : Canonical s3 := .ofSnd (h2.rdSrc ..) e3
  exact h3.result ..

theorem vselDie (hs : Canonical s) (h : Hdr) (f : FRRR) (d : Nat) : Canonical (s.vselDie h f d) := by
  unfold State.vselDie
  lift_lets -underBinder
  intro w1
  split
  rename_i s1 e1
  have h1 : Canonical s1 := .ofSnd (hs.lanes ..) e1
  split
  rename_i s2 e2
  have h2 : Canonical s2 := .ofSnd (h1.rdSrc ..) e2
  split
  rename_i s3 e3
  have h3 : Canonical s3 := .ofSnd (h2.rdSrc ..) e3
  split
  rename_i s4 e4
  have h4 : Canonical s4 := .ofSnd (h3.rdSrc ..) e4
  exact h4.result ..

theorem vmoviDie (hs : Canonical s) (h : Hdr) (f : FRIMM) (d : Nat) : Canonical (s.vmoviDie h f d) := by
  unfold State.vmoviDie
  lift_lets -underBinder
  intro w1
  split
  rename_i s1 e1
  have h1 : Canonical s1 := .ofSnd (hs.lanes ..) e1
  exact h1.result ..

theorem vpermDie (hs : Canonical s) (h : Hdr) (f : FRRR) (d : Nat) : Canonical (s.vpermDie h f d) := by
  unfold State.vpermDie
  split
  rename_i s1 e1
  have h1 : Canonical s1 := .ofSnd (hs.lanes ..) e1
  split
  rename_i s2 e2
  have h2 : Canonical s2 := .ofSnd (h1.rdSrc ..) e2
  split
  rename_i s3 e3
  have h3 : Canonical s3 := .ofSnd (.sndIte (h2.rdSrc ..) h2) e3
  exact h3.result ..

theorem vcasDie (hs : Canonical s) (h : Hdr) (f : FRRR) (d : Nat) : Canonical (s.vcasDie h f d) := by
  unfold State.vcasDie
  split
  rename_i s1 e1
  have h1 : Canonical s1 := .ofSnd (hs.lanes ..) e1
  split
  rename_i s2 e2
  have h2 : Canonical s2 := .ofSnd (h1.rdSrc ..) e2
  exact h2.result ..

/-! ### Vector floating point -/

theorem vecF (hs : Canonical s) (h : Hdr) (f : FRRR) (lat n : Nat) (op : FFmt → RM → Nat → Nat → Nat → Nat × Nat) : Canonical (s.vecF h f lat n op) := by
  unfold State.vecF
  exact hs.onDies _ (fun _ _ hy => (hy.vecDie ..))

theorem vfcmpDie (hs : Canonical s) (h : Hdr) (f : FRRR) (d : Nat) : Canonical (s.vfcmpDie h f d) := by
  unfold State.vfcmpDie
  split
  rename_i s1 e1
  have h1 : Canonical s1 := .ofSnd (hs.lanes ..) e1
  split
  rename_i s2 e2
  have h2 : Canonical s2 := .ofSnd (h1.rdSrc ..) e2
  split
  rename_i s3 e3
  have h3 : Canonical s3 := .ofSnd (h2.rdSrc ..) e3
  exact h3.result ..

theorem vcvtDie (hs : Canonical s) (h : Hdr) (f : FRRR) (d : Nat) : Canonical (s.vcvtDie h f d) := by
  unfold State.vcvtDie
  lift_lets -underBinder
  intro wd1 ws1 w1 k1 x1
  split
  rename_i s1 e1
  have h1 : Canonical s1 := .ofSnd (hs.lanes ..) e1
  split
  rename_i s2 e2
  have h2 : Canonical s2 := .ofSnd (h1.rdSrc ..) e2
  exact h2.result ..

theorem vquantDie (hs : Canonical s) (h : Hdr) (f : FRRR) (d : Nat) : Canonical (s.vquantDie h f d) := by
  unfold State.vquantDie
  lift_lets -underBinder
  intro sub1 x1
  split
  rename_i s1 e1
  have h1 : Canonical s1 := .ofSnd (hs.lanes ..) e1
  split
  rename_i s2 e2
  have h2 : Canonical s2 := .ofSnd (h1.rdSrc ..) e2
  split
  rename_i s3 e3
  have h3 : Canonical s3 := .ofSnd (.sndIte (h2.rdSrc ..) h2) e3
  split
  rename_i s4 e4
  have h4 : Canonical s4 := .ofSnd (.sndIte (h3.rdSrc ..) h3) e4
  lift_lets -underBinder
  intro xs1 sup1
  split
  exact .ite (h4.result ..) (h4.result ..)

theorem vdeqDie (hs : Canonical s) (h : Hdr) (f : FRRR) (d : Nat) : Canonical (s.vdeqDie h f d) := by
  unfold State.vdeqDie
  lift_lets -underBinder
  intro e1 k1
  split
  rename_i s1 e2
  have h1 : Canonical s1 := .ofSnd (hs.lanes ..) e2
  split
  rename_i s2 e3
  have h2 : Canonical s2 := .ofSnd (h1.rdSrc ..) e3
  split
  rename_i s3 e4
  have h3 : Canonical s3 := .ofSnd (h2.rdSrc ..) e4
  exact h3.result ..

theorem vredDie (hs : Canonical s) (h : Hdr) (f : FRRR) (d : Nat) : Canonical (s.vredDie h f d) := by
  unfold State.vredDie
  split
  rename_i s1 e1
  have h1 : Canonical s1 := .ofSnd (hs.lanes ..) e1
  split
  rename_i s2 e2
  have h2 : Canonical s2 := .ofSnd (h1.rdSrc ..) e2
  split
  exact h2.result ..

/-! ### Predicates -/

theorem pred (hs : Canonical s) (h : Hdr) (f : FRRR) (n : Nat) (op : Nat → Nat → Nat) : Canonical (s.pred h f n op) := by
  unfold State.pred
  refine hs.onDies _ (fun d y hy => ?_)
  split
  rename_i s1 e1
  have h1 : Canonical s1 := .ofSnd (hy.lanes ..) e1
  split
  rename_i s2 e2
  have h2 : Canonical s2 := .ofSnd (h1.rdSrc ..) e2
  split
  rename_i s3 e3
  have h3 : Canonical s3 := .ofSnd (.sndIte (h2.rdSrc ..) h2) e3
  exact h3.result ..

theorem opPmovV (hs : Canonical s) (h : Hdr) (f : FRRR) : Canonical (opPmovV h f s) := by
  unfold Machine.opPmovV
  refine hs.onDies _ (fun d y hy => ?_)
  split
  rename_i s1 e1
  have h1 : Canonical s1 := .ofSnd (hy.lanes ..) e1
  split
  rename_i s2 e2
  have h2 : Canonical s2 := .ofSnd (h1.rdSrc ..) e2
  exact h2.result ..

theorem opPcnt (hs : Canonical s) (h : Hdr) (f : FRRR) : Canonical (opPcnt h f s) := by
  unfold Machine.opPcnt
  refine hs.onDies _ (fun d y hy => ?_)
  split
  rename_i s1 e1
  have h1 : Canonical s1 := .ofSnd (hy.rdSrc ..) e1
  exact h1.result ..

theorem opPany (hs : Canonical s) (h : Hdr) (f : FRRR) : Canonical (opPany h f s) := by
  unfold Machine.opPany
  refine hs.onDies _ (fun d y hy => ?_)
  split
  rename_i s1 e1
  have h1 : Canonical s1 := .ofSnd (hy.rdSrc ..) e1
  exact h1.result ..

theorem opXmov (hs : Canonical s) (h : Hdr) (f : FRRR) : Canonical (opXmov h f s) := by
  unfold Machine.opXmov
  refine hs.onDies _ (fun d y hy => ?_)
  split
  rename_i s1 e1
  have h1 : Canonical s1 := .ofSnd (hy.lanes ..) e1
  split
  rename_i s2 e2
  have h2 : Canonical s2 := .ofSnd (h1.rdSrc ..) e2
  exact h2.result ..

theorem opXbc (hs : Canonical s) (h : Hdr) (f : FRRR) : Canonical (opXbc h f s) := by
  unfold Machine.opXbc
  refine hs.onDies _ (fun d y hy => ?_)
  split
  rename_i s1 e1
  have h1 : Canonical s1 := .ofSnd (hy.lanes ..) e1
  split
  rename_i s2 e2
  have h2 : Canonical s2 := .ofSnd (h1.rdSrc ..) e2
  exact h2.result ..

theorem rdGroups (d a : Nat) : ∀ (l : List Nat) {s : State}, Canonical s → Canonical (s.rdGroups d a l).2
  | [], _, h => h
  | j :: js, _, h => rdGroups d a js (h.rdReg d .v (80 * j + a))

theorem xredDie (hs : Canonical s) (h : Hdr) (f : FRRR) (d : Nat) : Canonical (s.xredDie h f d) := by
  unfold State.xredDie
  split
  rename_i s1 e1
  have h1 : Canonical s1 := .ofSnd (hs.lanes ..) e1
  split
  rename_i s2 e2
  have h2 : Canonical s2 := .ofSnd (h1.rdGroups ..) e2
  exact (h2.updSlotD ..).result ..

/-! ### Scalar operations -/

theorem aluT (hs : Canonical s) (h : Hdr) (f : FRRR) (lat : Nat) (r : Ty → Nat → Nat → Nat → Nat) : Canonical (s.aluT h f lat r) := by
  unfold State.aluT
  refine hs.onDies _ (fun d y hy => ?_)
  lift_lets -underBinder
  intro w1
  split
  rename_i s1 e1
  have h1 : Canonical s1 := .ofSnd (hy.rdS ..) e1
  split
  rename_i s2 e2
  have h2 : Canonical s2 := .ofSnd (h1.rdS ..) e2
  exact h2.result ..

theorem alu (hs : Canonical s) (h : Hdr) (f : FRRR) (lat : Nat) (r : Nat → Nat → Nat → Nat) : Canonical (s.alu h f lat r) := by
  unfold State.alu
  exact hs.aluT ..

theorem alu1 (hs : Canonical s) (h : Hdr) (f : FRRR) (lat : Nat) (r : Nat → Nat → Nat) : Canonical (s.alu1 h f lat r) := by
  unfold State.alu1
  refine hs.onDies _ (fun d y hy => ?_)
  lift_lets -underBinder
  intro w1
  split
  rename_i s1 e1
  have h1 : Canonical s1 := .ofSnd (hy.rdS ..) e1
  exact h1.result ..

theorem aluImm (hs : Canonical s) (h : Hdr) (f : FRIMM) (useA : Bool) (r : Nat → Nat → Nat → Nat) : Canonical (s.aluImm h f useA r) := by
  unfold State.aluImm
  refine hs.onDies _ fun d y hy => ?_
  lift_lets -underBinder
  intro w
  split
  rename_i s1 e1
  have h1 : Canonical s1 := .ofSnd (.sndIte (hy.rdS ..) hy) e1
  exact h1.result ..

theorem opCmp (hs : Canonical s) (h : Hdr) (f : FRRR) : Canonical (opCmp h f s) := by
  unfold Machine.opCmp
  refine hs.onDies _ (fun d y hy => ?_)
  lift_lets -underBinder
  intro w1
  split
  rename_i s1 e1
  have h1 : Canonical s1 := .ofSnd (hy.rdS ..) e1
  split
  rename_i s2 e2
  have h2 : Canonical s2 := .ofSnd (h1.rdS ..) e2
  exact h2.result ..

theorem opSel (hs : Canonical s) (h : Hdr) (f : FRRR) : Canonical (opSel h f s) := by
  unfold Machine.opSel
  refine hs.onDies _ (fun d y hy => ?_)
  split
  rename_i s1 e1
  have h1 : Canonical s1 := .ofSnd (hy.rdS ..) e1
  split
  rename_i s2 e2
  have h2 : Canonical s2 := .ofSnd (h1.rdS ..) e2
  split
  rename_i s3 e3
  have h3 : Canonical s3 := .ofSnd (h2.rdReg ..) e3
  exact h3.result ..

/-! ### The issue of one operation -/

theorem issueOp (h : Canonical s) (i : Instr) : Canonical (Machine.issueOp i s) := by
  unfold Machine.issueOp
  split
  · exact h.alu ..
  · exact h.alu ..
  · exact h.alu ..
  · exact h.aluT ..
  · exact h.aluT ..
  · exact h.aluT ..
  · exact h.alu ..
  · exact h.alu ..
  · exact h.alu ..
  · exact h.alu ..
  · exact h.alu ..
  · exact h.alu ..
  · exact h.alu ..
  · exact h.alu ..
  · exact h.alu1 ..
  · exact h.alu1 ..
  · exact h.aluT ..
  · exact h.aluT ..
  · exact h.opCmp ..
  · exact h.opSel ..
  · exact h.alu1 ..
  · exact h.aluImm ..
  · exact h.aluImm ..
  · exact h.aluImm ..
  · exact h.opCsrr ..
  · exact h.opCsrw ..
  · exact h.onDies _ (fun _ _ hy => (hy.ldDie ..))
  · exact h.onDies _ (fun _ _ hy => (hy.stDie ..))
  · exact h.opAmo ..
  · exact h.onDies _ (fun _ _ hy => (hy.atomDie ..).splices)
  · exact (h.atIssue ..).branch ..
  · exact h.opBrc ..
  · exact h.opCall ..
  · exact h.opLoop ..
  · exact h.opTrap ..
  · exact h.opReel ..
  · exact h.opRet ..
  · exact h.opTret ..
  · exact h.opHalt ..
  · exact h.onDies _ (fun _ _ hy => (hy.mxDie ..).splices)
  · exact h.onDies _ (fun _ _ hy => (hy.mxDie ..).splices)
  · exact h.onDies _ (fun _ _ hy => (hy.mxDie ..).splices)
  · exact h.onDies _ (fun _ _ hy => (hy.mxDie ..).splices)
  · exact h.onDies _ (fun _ _ hy => (hy.mxDie ..).splices)
  · exact h.onDies _ (fun _ _ hy => (hy.copyDie ..).splices)
  · exact h.onDies _ (fun _ _ hy => (hy.copyDie ..).splices)
  · exact h.onDies _ (fun _ _ hy => (hy.copyDie ..).splices)
  · exact h.onDies _ (fun _ _ hy => (hy.spxgoDie ..).splices)
  · exact h.opShape ..
  · exact h.onDies _ (fun _ _ hy => (hy.recordDie ..).splices)
  · exact h.opSbind ..
  · exact h.onDies _ (fun _ _ hy => (hy.cpdrainDie ..).splices)
  · exact h.onDies _ (fun _ _ hy => (hy.seizeDie ..).splices)
  · exact h.onDies _ (fun _ _ hy => (hy.seizeDie ..).splices)
  · exact h.onDies _ (fun _ _ hy => (hy.sxferDie ..).splices)
  · exact h.onDies _ (fun _ _ hy => (hy.clearDie ..).splices)
  · exact h.onDies _ (fun _ _ hy => (hy.collDie ..).splices)
  · exact h.onDies _ (fun _ _ hy => ((hy.bdrvDie ..).signalAt ..).splices)
  · exact h.onDies _ (fun _ _ hy => (hy.blatDie ..).splices)
  · exact h.onDies _ (fun _ _ hy => (hy.elineDie ..))
  · exact h.evPlain ..
  · exact h.evPlain ..
  · exact h.evPlain ..
  · exact h.evPlain ..
  · exact h.onDies _ (fun _ _ hy => (hy.eevalDie ..))
  · exact h.onDies _ (fun _ _ hy => (hy.ebrkDie ..))
  · exact h.onDies _ (fun _ _ hy => (hy.eclrDie ..))
  · exact h.onDies _ (fun _ _ hy => (hy.etolDie ..))
  · exact h.onDies _ (fun _ _ hy => (hy.eimgDie ..).splices)
  · exact h.onDies _ (fun _ _ hy => (hy.eimgDie ..))
  · exact h.opXmov ..
  · exact h.opXbc ..
  · exact h.onDies _ (fun _ _ hy => (hy.xredDie ..))
  · exact h.opSig ..
  · exact h.opWsem ..
  · exact h.opBar ..
  · exact h.onDies _ (fun _ _ hy => (hy.fenceOn ..))
  · exact h.opEtrig ..
  · exact h.opGrab ..
  · exact h.onDies _ (fun _ _ hy => (hy.tlbiOn ..).splices)
  · exact h.opCwld ..
  · exact h.opTlook ..
  · exact h.opTset ..
  · exact h.opTdrop ..
  · exact h.onDies _ (fun _ _ hy => (hy.tagChange ..))
  · exact h.onDies _ (fun _ _ hy => (hy.vldDie ..))
  · exact h.onDies _ (fun _ _ hy => (hy.vstDie ..))
  · exact h.onDies _ (fun _ _ hy => (hy.vldDie ..))
  · exact h.onDies _ (fun _ _ hy => (hy.vldDie ..))
  · exact h.onDies _ (fun _ _ hy => (hy.vstDie ..))
  · exact h.onDies _ (fun _ _ hy => (hy.vrdqDie ..).splices)
  · exact h.vec ..
  · exact h.vec ..
  · exact h.vec ..
  · exact h.vec ..
  · exact h.vec ..
  · exact h.vec ..
  · exact h.vec ..
  · exact h.vec ..
  · exact h.vec ..
  · exact h.vec ..
  · exact h.vec ..
  · exact h.vec ..
  · exact h.vec ..
  · exact h.vec ..
  · exact h.vec ..
  · exact h.vec ..
  · exact h.onDies _ (fun _ _ hy => (hy.vcmpDie ..))
  · exact h.onDies _ (fun _ _ hy => (hy.vselDie ..))
  · exact h.vec ..
  · exact h.onDies _ (fun _ _ hy => (hy.vmoviDie ..))
  · exact h.onDies _ (fun _ _ hy => (hy.vpermDie ..))
  · exact h.onDies _ (fun _ _ hy => (hy.vcasDie ..))
  · exact h.onDies _ (fun _ _ hy => (hy.vredDie ..))
  · exact h.vecF ..
  · exact h.vecF ..
  · exact h.vecF ..
  · exact h.vecF ..
  · exact h.vecF ..
  · exact h.vecF ..
  · exact h.onDies _ (fun _ _ hy => (hy.vfcmpDie ..))
  · exact h.vecF ..
  · exact h.vecF ..
  · exact h.vecF ..
  · exact h.vecF ..
  · exact h.vecF ..
  · exact h.vecF ..
  · exact h.vecF ..
  · exact h.onDies _ (fun _ _ hy => (hy.vcvtDie ..))
  · exact h.onDies _ (fun _ _ hy => (hy.vquantDie ..))
  · exact h.onDies _ (fun _ _ hy => (hy.vdeqDie ..))
  · exact h.pred ..
  · exact h.pred ..
  · exact h.pred ..
  · exact h.pred ..
  · exact h.pred ..
  · exact h.opPmovV ..
  · exact h.opPcnt ..
  · exact h.pred ..
  · exact h.opPany ..
  · exact h.atIssue ..
  · exact h.splices
  · exact h.opYield ..
  · exact h
  · exact h
  · exact h
  · exact h
  · exact h
  · exact h
  · exact h
  · exact h
  · exact h
  · exact h
  · exact h
  · exact h
  · exact h
  · exact h
  · exact h
  · exact h
  · exact h
  · exact h
  · exact h
  · exact h
  · exact h
  · exact h
  · exact h
  · exact h
  · exact h
  · exact h
  · exact h
  · exact h
  · exact h
  · exact h
  · exact h
  · exact h
  · exact h
  · exact h
  · exact h
  · exact h
  · exact h
  · exact h
  · exact h
  · exact h
  · exact h
  · exact h
  · exact h
  · exact h
  · exact h
  · exact h
  · exact h
  · exact h
  · exact h
  · exact h
  · exact h
  · exact h
  · exact h
  · exact h
  · exact h
  · exact h
  · exact h
  · exact h
  · exact h
  · exact h
  · exact h
  · exact h
  · exact h
  · exact h
  · exact h
  · exact h
  · exact h
  · exact h
  · exact h
  · exact h
  · exact h
  · exact h
  · exact h
  · exact h
  · exact h
  · exact h
  · exact h
  · exact h
  · exact h
  · exact h
  · exact h
  · exact h
  · exact h
  · exact h
  · exact h
  · exact h
  · exact h
  · exact h
  · exact h
  · exact h
  · exact h
  · exact h

/-! ### Bundles and columns -/

theorem loopProf (h : Canonical s) (cc : Nat) (fills : List Nat) (addr : DWord) (taken : Option Bool) : Canonical (s.loopProf cc fills addr taken) := by
  unfold State.loopProf
  lift_lets -underBinder
  intro c1 a1
  split
  · exact .updCc (.ite (h.worked (.accRecord (.refl _) ..)) h) ..
  · exact h.updCc ..
  · exact h.updCc ..

theorem repProf (h : Canonical s) (cc : Nat) (fills : List Nat) (addr : DWord) (b : Bundle) (first last : Bool) : Canonical (s.repProf cc fills addr b first last) := by
  unfold State.repProf
  exact .ite (h.updCc ..) (.updCc (.ite (h.worked (.accRecord (.refl _) ..)) h) ..)

theorem runCount (h : Canonical s) (b : Bundle) : Canonical (s.runCount b) := by
  unfold State.runCount
  lift_lets -underBinder
  intro cc1
  split
  · exact h.opYield ..
  · lift_lets -underBinder
    intro s1
    have h1 : Canonical s1 := h.updCc ..
    clear_value s1
    intro c1 s2
    have h2 : Canonical s2 := h1.updCc ..
    clear_value s2
    exact .ite ⟨h2.wf⟩ h1

theorem injects (h : Canonical s) (pc : Pos) (iter : Nat) : Canonical (s.injects pc iter) := by
  unfold State.injects
  exact .ite (h.updCol ..) h

theorem faultAll (h : Canonical s) (r : FRec) : Canonical (s.faultAll r) := by
  unfold State.faultAll
  exact .foldl (fun _ _ hy => (hy.fault ..)) h

theorem runOp (h : Canonical s) (o : SlotOp) : Canonical (s.runOp o) := Canonical.issueOp (s := { s with cur := { s.cur with slot := o.pos, first := o.first, fp := o.fp } }) ⟨h.wf⟩ o.op

theorem runOps (h : Canonical s) (ops : List (Nat × Option SlotOp)) : Canonical (s.runOps ops) := by
  refine .foldl (fun y b hy => ?_) h
  split
  · exact hy.runOp _
  · exact Canonical.faultAll (s := { y with cur := { y.cur with slot := b.1 } }) ⟨hy.wf⟩ _

theorem orderStall {t : State} (h : Canonical t) (ops : List SlotOp) : Canonical (s.orderStall t ops) := by
  unfold State.orderStall
  exact .ite (h.stallFor ..) h

theorem spillSt (h : Canonical s) (cc : Nat) : Canonical (s.spillSt cc) := by
  refine .foldl (fun y d hy => ?_) h
  split
  · split
    · exact hy
    · exact ((hy.drained (.performBlot (.refl _) _)).updCd ..).splices
  · exact hy

theorem laterStores (h : Canonical s) (cc : Nat) : Canonical (s.laterStores cc) := by
  unfold State.laterStores
  exact .foldl (fun _ _ hy => (.ite hy ((hy.updQuad ..).updCore ..))) h

theorem noteSeen (hs : Canonical s) (i : Instr) (h : Hdr) (d : Nat) : Canonical (s.noteSeen i h d) := by
  unfold State.noteSeen
  lift_lets -underBinder
  intro sem1 waits1 s1
  have h1 : Canonical s1 := .ite hs (hs.updD ..)
  clear_value s1
  split
  · exact .ite (h1.updD ..) h1
  · exact h1

theorem noteAll (h : Canonical s) (ops : List SlotOp) : Canonical (s.noteAll ops) := by
  unfold State.noteAll
  refine .foldl (fun y b hy => ?_) h
  split
  · refine .foldl (fun y b hy => ?_) hy
    exact hy.noteSeen ..
  · exact hy

theorem runColumn (h : Canonical s) (b : Bundle) (ops : List SlotOp) (iter : Nat) : Canonical (s.runColumn b ops iter) := by
  unfold State.runColumn
  lift_lets -underBinder
  intro cc1 pc1 last1 s1
  have h1 : Canonical s1 := .ite h.splices h
  clear_value s1
  intro s2
  have h2 : Canonical s2 := by
    dsimp -zeta only [s2]
    split
    · split
      · exact h1.worked (.startReel (.refl _) ..)
      · exact h1
    · exact h1
  clear_value s2
  intro s3
  have h3 : Canonical s3 := h2.runCount ..
  clear_value s3
  intro s4
  have h4 : Canonical s4 := h3.loopProf ..
  clear_value s4
  intro s5
  have h5 : Canonical s5 := h4.repProf ..
  clear_value s5
  intro s6
  have h6 : Canonical s6 := h5.injects ..
  clear_value s6
  split
  exact (h6.updCol ..).updCc ..

theorem atBundle (h : Canonical s) (col k iter : Nat) : Canonical (s.atBundle col k iter) := by
  unfold State.atBundle
  exact ⟨h.wf⟩

theorem fromHere (h : Canonical s) (cc : Nat) : Canonical (s.fromHere cc) := by
  unfold State.fromHere
  exact .ite ((h.worked (.cwDone (.refl _) ..)).tretTarget ..) (h.worked (.cwDone (.refl _) ..))

theorem tryIter (h : Canonical s) (col k : Nat) : Canonical (s.tryIter col k).1 ∧ Canonical (s.tryIter col k).2 := by
  unfold State.tryIter
  lift_lets -underBinder
  intro cc r
  have hr : Canonical r := h.fromHere cc
  clear_value r
  intro c at_
  have hat (iter : Nat) : Canonical (at_ iter).1 ∧ Canonical (at_ iter).2 := ⟨⟨h.wf⟩, hr.atBundle ..⟩
  clear_value at_
  split
  · exact ⟨(hat 0).1, (hat 0).1.stallFor ..⟩
  · exact ⟨(hat 0).1, (hat 0).1.faultAll ..⟩
  · rename_i b _
    lift_lets -underBinder
    intro iter
    obtain ⟨h1, h2⟩ := hat iter
    generalize at_ iter = p at h1 h2
    obtain ⟨s1, r1⟩ := p
    dsimp -zeta only at h1 h2 ⊢
    lift_lets -underBinder
    intro all ops n
    have hn : Canonical n := h2.noteAll ..
    clear_value n
    intro t1
    have ht1 : Canonical t1 := (hn.runOps ..).orderStall ..
    clear_value t1
    intro t2
    have ht2 : Canonical t2 := .ite (ht1.spillSt ..) ht1
    clear_value t2
    exact ⟨h1, .ite ht2 ((ht2.laterStores ..).runColumn ..)⟩

theorem noteDry (h : Canonical s) (col k : Nat) : Canonical (s.noteDry col k) := by
  unfold State.noteDry
  lift_lets -underBinder
  intro x1
  split
  · exact h
  · split
    · exact (h.atBundle ..).drained (.noteStall (.refl _) ..)
    · exact h

theorem prepare (h : Canonical s) (col k : Nat) : Canonical (s.prepare col k).1 := by
  unfold State.prepare
  lift_lets -underBinder
  intro cc
  split
  · exact updCol (h.noteDry col k) col fun c => { c with dbg := 2 }
  · split
    · exact h.worked (.takeFaults (.refl _) ..)
    · exact h

theorem issueOne (h : Canonical s) (col k : Nat) : Canonical (s.issueOne col k) := by
  unfold State.issueOne
  split
  · exact h.noteDry ..
  · split
    rename_i s1 go e1
    have h1 : Canonical s1 := .ofFst (h.prepare col k) e1
    split
    · exact h1
    · exact (h1.tryIter col k).1.finish (h1.tryIter col k).2

theorem quadTick (h : Canonical s) (col l : Nat) (slate : Bool) : Canonical (s.quadTick col l slate) := by
  unfold State.quadTick
  exact .foldl (fun _ _ hy => (hy.updQuad ..)) h

theorem tryQuad : ∀ (l : List (Nat × Nat)) {s t : State}, Canonical s → s.tryQuad l = some t → Canonical t
  | [], _, _, h, e => Option.some.inj e ▸ h
  | (c, k) :: l, s, t, h, e => by
    unfold State.tryQuad at e
    obtain ⟨ha, ht⟩ := h.tryIter c k
    dsimp only at e
    split at e
    · exact tryQuad l (ha.finish ht) e
    · exact nomatch e

theorem holdQuad {u : State} (h : Canonical s) (hu : Canonical u) (l : List (Nat × Nat)) : Canonical (s.holdQuad u l) := by
  unfold State.holdQuad
  lift_lets -underBinder
  intro vs
  split
  · exact .foldl (fun _ _ hy => (hy.atBundle ..).drained (.blockOn (.refl _) ..)) h
  · lift_lets -underBinder
    intro r
    refine .foldl (fun y v hy => ?_) h
    split
    · exact (hy.atBundle ..).drained (.noteStall (.refl _) ..)
    · exact finish (s := { y with att := (u.tryIter v.1.1 v.1.2).1.att, cur := (u.tryIter v.1.1 v.1.2).1.cur }) ⟨hy.wf⟩ (hu.tryIter ..).2

theorem heldQuad (h : Canonical s) (l : Nat) (cols : List Nat) : Canonical (s.heldQuad l cols) := by
  unfold State.heldQuad
  lift_lets -underBinder
  intro act1 s1
  have h1 : Canonical s1 := .foldl (fun _ _ hy => (hy.noteDry ..)) h
  clear_value s1
  intro ks1 r1
  exact .foldl (fun _ _ hy => (.ite ((hy.atBundle ..).drained (.noteStall (.refl _) ..)) hy)) h1

theorem issueQuad (h : Canonical s) (l : Nat) (cols : List Nat) : Canonical (s.issueQuad l cols) := by
  unfold State.issueQuad
  lift_lets -underBinder
  intro ks
  split
  · exact h.heldQuad ..
  · split
    rename_i s1 go e1
    have h1 : Canonical s1 := by
      refine .ofFst (foldlFst (fun y x hy => ?_) ks (y := (s, true)) h) e1
      exact hy.prepare x.1 x.2
    split
    · exact h1.heldQuad ..
    · lift_lets -underBinder
      intro col s2
      have h2 : Canonical s2 := h1.quadTick ..
      clear_value s2
      split
      · rename_i t e2
        exact tryQuad ks h2 e2
      · exact h1.holdQuad h2 ks

theorem execBundleIterationIssue (h : Canonical s) (col : Nat) : KeepsForm (execBundleIterationIssue col s) := by
  unfold Machine.execBundleIterationIssue
  refine .next ?_
  split
  · exact h
  · exact .ite (.ite (h.issueQuad ..) h) (h.issueOne ..)

theorem execExposedResultLands (h : Canonical s) (ck : Nat) : KeepsForm (execExposedResultLands ck s) := by
  unfold Machine.execExposedResultLands
  lift_lets -underBinder
  intro due1
  exact .next (.ite (h.worked (.landAll (.refl _) ..)) h)

theorem execScoreboardWriteLands (h : Canonical s) (ck : Nat) : KeepsForm (execScoreboardWriteLands ck s) := by
  unfold Machine.execScoreboardWriteLands
  exact .next (h.worked (.landAll (.refl _) ..))

theorem fwCounted (h : Canonical s) (col : Nat) : Canonical (s.fwCounted col) := by
  unfold State.fwCounted
  exact h.updCol ..

theorem execFirmwareContextIssue (h : Canonical s) (col : Nat) (word : BitVec 256) : KeepsForm (execFirmwareContextIssue col word s) := by
  unfold Machine.execFirmwareContextIssue
  refine .next ?_
  split
  · exact h
  · split
    · exact h
    · rename_i i _
      lift_lets -underBinder
      intro s1
      have h1 : Canonical s1 := ⟨h.wf⟩
      intro o n
      have hn : Canonical n := h1.noteAll ..
      intro t
      have ht : Canonical t := (hn.issueOp i).orderStall ..
      exact .ite ((h1.finish ht).fwCounted ..) (h1.finish ht)

end Canonical

end Sys2Proof.Machine
end

section
/-! SUPPORT. A step's functions keep memory in its canonical form: freezes, restores and contexts. -/

set_option Elab.async false

namespace Sys2Proof.Machine

open Claims

namespace Canonical

variable {s : State}

/-! ### Freezes and restores -/

theorem spillLocks (h : Canonical s) (sv : SavedCtx) : Canonical (s.spillLocks sv).1 := by
  unfold State.spillLocks
  split
  · exact h
  · lift_lets -underBinder
    intro banks1
    split
    rename_i s1 e1
    have h1 : Canonical s1 := .ofSnd (h.accessed (.fresh (.refl _) ..)) e1
    exact .foldl (fun _ _ hy => (hy.updCore ..)) h1

theorem movePosted (h : Canonical s) (a b : Nat) : Canonical (s.movePosted a b) := by
  unfold State.movePosted
  exact ⟨h.wf⟩

theorem addSwap (h : Canonical s) (launch team reason : Nat) (ret hold : Bool) (excl : Option Nat) (svs : List SavedCtx) :
    Canonical (s.addSwap launch team reason ret hold excl svs) := by
  unfold State.addSwap
  lift_lets -underBinder
  intro n
  split
  rename_i s1 svs1 e1
  have h1 : Canonical s1 := by
    refine .ofFst (foldlFst (fun y sv hy => ?_) svs (y := (s, [])) h) e1
    exact hy.spillLocks sv
  lift_lets -underBinder
  intro s2
  have h2 : Canonical s2 := by
    refine .foldl (fun y b hy => ?_) h1
    split
    · exact hy.movePosted ..
    · exact hy
  clear_value s2
  exact ⟨h2.wf⟩

theorem freezeCol (h : Canonical s) (col reason : Nat) (launches : List Nat) : Canonical (s.freezeCol col reason launches) := by
  unfold State.freezeCol
  lift_lets -underBinder
  intro ks1 act1 xcol1
  split
  · exact h
  · split
    rename_i s1 _ e1
    have h1 : Canonical s1 := .ofFst (h.kept (.captureCol (.refl _) ..)) e1
    exact .kept (.foldl (fun _ _ hy => (hy.addSwap ..)) h1) (.afterFreeze (.refl _) ..)

theorem execFreezeFrame (h : Canonical s) (col reason : Nat) (launch : Option Nat) : KeepsForm (execFreezeFrame col reason launch s) := by
  unfold Machine.execFreezeFrame
  exact .next (.ite (h.freezeCol ..) h)

theorem writeFree (h : Canonical s) (base : Nat) (shared : Bool) : Canonical (s.writeFree base shared) := by
  unfold State.writeFree
  refine .foldl (fun y b hy => ?_) h
  lift_lets -underBinder
  intro s1
  have h1 : Canonical s1 := ⟨hy.wf⟩
  clear_value s1
  exact h1.accessed (.store (.refl _) ..)

theorem writeAreas (h : Canonical s) (l : Launch) (sv : SavedCtx) : Canonical (s.writeAreas l sv) := by
  have hstores {α : Type} (f : State → α → Nat) (g : α → List Byte) (zs : List α) {y : State} (hy : Canonical y) :
      Canonical (zs.foldl (fun (s : State) z => s.store (f s z) (g z)) y) := .foldl (fun _ _ hz => hz.accessed (.store (.refl _) ..)) hy
  refine .foldl (fun y x hy => ?_) h
  exact .foldl (fun _ _ hz => hz.accessed (.addPoison (.refl _) ..)) (hstores _ _ _ ((hstores _ _ _ hy).writeFree ..))

theorem endSpill (h : Canonical s) (n i : Nat) (w : Swap) (sv : SavedCtx) : Canonical (s.endSpill n i w sv) := by
  unfold State.endSpill
  lift_lets -underBinder
  intro s1
  have h1 : Canonical s1 := by
    dsimp -zeta only [s1]
    split
    · exact h.writeAreas ..
    · exact h
  clear_value s1
  intro s2
  have h2 : Canonical s2 := .ite (.foldl (fun _ _ hy => (hy.updCore ..)) h1) h1
  clear_value s2
  exact ⟨h2.wf⟩

theorem spillBanks (h : Canonical s) : Canonical s.spillBanks := by
  unfold State.spillBanks
  refine .foldl (fun y b hy => ?_) h
  refine .foldl (fun y b hy => ?_) hy
  split
  · split
    · exact hy
    · lift_lets -underBinder
      intro n1 done1
      split
      · exact hy
      · refine .foldl (fun y b hy => ?_) hy
        exact hy.updCore ..
  · exact hy

theorem execSpillComplete (h : Canonical s) (cc : Nat) : KeepsForm (execSpillComplete cc s) := by
  refine .next ?_
  generalize (s.swaps.findSome? fun w => (numbered w.2.ctxs).findSome? fun x =>
    if ccKey x.2.col x.2.ctx == cc && x.2.spillDue s.clock && !s.evRuns x.2 then some (w.1, x.1, w.2, x.2) else none) = r
  cases r with
  | none => exact h
  | some r => exact h.endSpill ..

theorem startSpill (h : Canonical s) (n i : Nat) (sv : SavedCtx) (v : DWord) : Canonical (s.startSpill n i sv v) := by
  unfold State.startSpill
  exact ⟨h.wf⟩

theorem execSvbaseWrite (h : Canonical s) (part : Nat) (byFirmware : Bool) (v : DWord) : KeepsForm (execSvbaseWrite part byFirmware v s) := by
  unfold Machine.execSvbaseWrite
  refine .next ?_
  split
  · exact h
  · split
    · exact (h.updPart ..).startSpill ..
    · exact .ite h (.ite (.ite h (h.updPart ..)) (.ite h (h.updPart ..)))

theorem requeueMx (h : Canonical s) (col ck : Nat) (x : Nat × MxCmd) : Canonical (s.requeueMx col ck x) := by
  unfold State.requeueMx
  exact (h.updCore ..).trackCmd ..

theorem requeueEv (h : Canonical s) (col ck : Nat) (x : Nat × EvOp) : Canonical (s.requeueEv col ck x) := by
  unfold State.requeueEv
  exact h.updCore ..

theorem requeueAll (h : Canonical s) (sv : SavedCtx) (col ctx t : Nat) : Canonical (s.requeueAll sv col ctx t) := by
  unfold State.requeueAll
  lift_lets -underBinder
  intro ck1 s1
  have h1 : Canonical s1 := .foldl (fun _ _ hy => (hy.ended (.requeueCopy (.refl _) ..))) h
  clear_value s1
  intro s2
  have h2 : Canonical s2 := .foldl (fun _ _ hy => (hy.ended (.pushDirect (.refl _) ..))) h1
  clear_value s2
  intro s3
  have h3 : Canonical s3 := .foldl (fun _ _ hy => (hy.requeueMx ..)) h2
  clear_value s3
  intro s4
  have h4 : Canonical s4 := .foldl (fun _ _ hy => (hy.requeueEv ..)) h3
  clear_value s4
  exact .foldl (fun _ _ hy => (hy.updCore ..)) h4

theorem writeBanks (h : Canonical s) (core : Nat) (banks : List Nat) (cells : List (Nat × Byte)) (bad : List Nat) :
    Canonical (s.writeBanks core banks cells bad) := by
  have hcells (cells : List (Nat × Byte)) {y : State} (hy : Canonical y) :
      Canonical (cells.foldl (fun s x => s.writeByte (2 ^ 52 + core * 2 ^ 21 + x.1) x.2) y) := .foldl (fun _ _ hz => hz.writeByte ..) hy
  obtain ⟨hrise, hlisted⟩ := h.wf
  exact ⟨(hcells cells ⟨hrise.filter _, fun c hc => hlisted c (List.mem_filter.1 hc).1⟩).wf⟩

theorem writeShared (h : Canonical s) (k : Kernel) (sv : SavedCtx) (col : Nat) : Canonical (s.writeShared k sv col) := by
  unfold State.writeShared
  exact .ite h (.foldl (fun _ _ hy => ((hy.updCore ..).writeBanks ..)) h)

theorem restoreCtx (h : Canonical s) (l : Launch) (n i : Nat) (sv : SavedCtx) (col ctx t : Nat) : Canonical (s.restoreCtx l n i sv col ctx t) := by
  unfold State.restoreCtx
  lift_lets -underBinder
  intro cc s1 s2 st sys c s3 s4 s5 s6 s7 s8
  have h1 : Canonical s1 := h.writeShared ..
  clear_value s1
  have h2 : Canonical s2 := .foldl (fun _ _ hy => hy.setCd ..) h1
  clear_value s2
  have h3 : Canonical s3 := h2.setCc ..
  clear_value s3
  have h4 : Canonical s4 := h3.requeueAll ..
  clear_value s4
  have h5 : Canonical s5 := h4.movePosted ..
  clear_value s5
  have h6 : Canonical s6 := h5.worked (.eventRecord (.refl _) ..)
  clear_value s6
  have h7 : Canonical s7 := worked (s := { s6 with clock := t }) ⟨h6.wf⟩ (.startReel (.refl _) cc sv.cc.cs.pc.reel sv.cc.cs.pc.reel)
  clear_value s7
  have h8 : Canonical s8 := ⟨h7.wf⟩
  clear_value s8
  exact h8.updCol ..

theorem restoreCol (l : Launch) (n col : Nat) : ∀ (t : Nat) (x : List (Nat × SavedCtx)) {s : State}, Canonical s → Canonical (s.restoreCol l n col t x)
  | _, [], _, h => h
  | _, (_, _) :: x, _, h => restoreCol l n col _ x (h.restoreCtx ..)

theorem moveBars (h : Canonical s) (launch team : Nat) (moves : List ColMove) : Canonical (s.moveBars launch team moves) := by
  unfold State.moveBars
  exact ⟨h.wf⟩

theorem execTeamRestore (h : Canonical s) (swap : Nat) (cols : List Nat) : KeepsForm (execTeamRestore swap cols s) := by
  unfold Machine.execTeamRestore
  refine .next ?_
  split
  · exact h
  · split
    · exact h
    · split
      · exact h
      · lift_lets -underBinder
        intro moves1 s1
        have h1 : Canonical s1 := .foldl (fun _ _ hy => (hy.restoreCol ..)) h
        clear_value s1
        intro now1 s2
        have h2 : Canonical s2 := h1.updLaunch ..
        clear_value s2
        intro s3
        have h3 : Canonical s3 := h2.moveBars ..
        clear_value s3
        exact ⟨h3.wf⟩

theorem pickIdle (h : Canonical s) (col : Nat) : Canonical (s.pickIdle col) := by
  unfold State.pickIdle
  exact .ite (h.kept (.decide (.refl _) ..)) h

theorem loaded (h : Canonical s) (cc : Nat) : Canonical (s.loaded cc) := by
  unfold State.loaded
  exact .ite ((h.updCc ..).pickIdle ..) h

/-! ### Contexts -/

theorem tellPeer (h : Canonical s) (g n team bid p : Nat) : Canonical (s.tellPeer g n team bid p) := by
  unfold State.tellPeer
  split
  · exact h.podEmit ..
  · exact h

theorem tellPeers (h : Canonical s) (b : Barrier) : Canonical (s.tellPeers b) := by
  unfold State.tellPeers
  split
  · exact .foldl (fun _ _ hy => (hy.tellPeer ..)) h
  · exact h

theorem barCheck (h : Canonical s) (key : Nat) : Canonical (s.barCheck key) := by
  unfold State.barCheck
  split
  · exact h
  · lift_lets -underBinder
    intro told1 s1
    have h1 : Canonical s1 := .ite h (h.tellPeers ..)
    clear_value s1
    intro b1 b2
    exact .ite h ⟨h1.wf⟩

theorem execBarrierRelease (h : Canonical s) (bar : Nat) : KeepsForm (execBarrierRelease bar s) := by
  unfold Machine.execBarrierRelease
  refine .next ?_
  split
  · exact h
  · exact .ite h (.foldl (fun _ _ hy => (hy.pickIdle ..)) (.foldl (fun _ _ hy => (hy.teamSignal ..)) ⟨h.wf⟩))

theorem execBlockingConditionClears (h : Canonical s) (cc : Nat) : KeepsForm (execBlockingConditionClears cc s) := by
  unfold Machine.execBlockingConditionClears
  exact .next (.ite h (.ite h ((h.updCc ..).pickIdle ..)))

theorem execTeamSwapOut (h : Canonical s) (launch team : Nat) : KeepsForm (execTeamSwapOut launch team s) := by
  unfold Machine.execTeamSwapOut
  refine .next ?_
  split
  · exact h
  · lift_lets -underBinder
    intro ccs cols
    split
    rename_i s1 svs e1
    have h1 : Canonical s1 := by
      refine .ofFst (foldlFst (fun y col hy => ?_) cols (y := (s, [])) h) e1
      exact hy.kept (.captureCol (.refl y.1) col _ _)
    exact .foldl (fun _ _ hy => (hy.kept (.freePair (.refl _) ..)).updCol ..) (h1.addSwap ..)

theorem execTeamReturn (h : Canonical s) (swap : Nat) : KeepsForm (execTeamReturn swap s) := by
  unfold Machine.execTeamReturn
  refine .next ?_
  split
  · exact h
  · exact .ite (.ite h ⟨h.wf⟩) (.ite ⟨h.wf⟩ h)

theorem savedSignal (h : Canonical s) (n i : Nat) (sv : SavedCtx) : Canonical (s.savedSignal n i sv) := by
  unfold State.savedSignal
  lift_lets -underBinder
  intro here1
  refine .foldl (fun y b hy => ?_) h
  lift_lets -underBinder
  intro s1
  have h1 : Canonical s1 := by
    dsimp -zeta only [s1]
    refine .foldl (fun y b hy => ?_) hy
    exact hy.teamSignal ..
  clear_value s1
  intro zero1
  exact ⟨h1.wf⟩

theorem savedSignals (h : Canonical s) : Canonical s.savedSignals := by
  unfold State.savedSignals
  exact .foldl (fun _ _ hy => (.foldl (fun _ _ hy => (hy.savedSignal ..)) hy)) h

theorem retireCircs (h : Canonical s) (ck : Nat) : Canonical (s.retireCircs ck) := by
  unfold State.retireCircs
  exact .foldl (fun _ _ hy => (hy.updEng ..)) h

theorem sweepOrphans (h : Canonical s) : Canonical s.sweepOrphans := by
  unfold State.sweepOrphans
  exact .foldl (fun _ _ hy => (.ite hy ⟨hy.wf⟩)) h

theorem execContextRetireComplete (h : Canonical s) (cc : Nat) : KeepsForm (execContextRetireComplete cc s) := by
  unfold Machine.execContextRetireComplete
  refine .next ?_
  lift_lets -underBinder
  intro c1 s1
  have h1 : Canonical s1 := .foldl (fun _ _ hy => (hy.retireCircs ..)) h
  clear_value s1
  intro s2
  have h2 : Canonical s2 := .foldl (fun _ _ hy => ((hy.updCore ..).updCd ..)) h1
  clear_value s2
  exact .ite h (.ite h1 ((((h2.setCc ..).kept (.freePair (.refl _) ..)).ended (.freeSave (.refl _) ..)).ended (.closeQueues (.refl _) ..)))

theorem execTrapEntry (h : Canonical s) (cc : Nat) : KeepsForm (execTrapEntry cc s) := by
  unfold Machine.execTrapEntry
  exact .next (.ite h (h.worked (.tryTrap (.refl _) ..)))

theorem releaseFrozen (h : Canonical s) (col clk : Nat) : Canonical (s.releaseFrozen col clk) := by
  unfold State.releaseFrozen
  exact .foldl (fun _ _ hy => ⟨hy.wf⟩) h

theorem recordFault (h : Canonical s) (col : Nat) : Canonical (s.recordFault col) := by
  refine .foldl (fun y w hy => .foldl (fun y sv hy => ?_) hy) h
  split
  · split
    · exact .foldl (fun _ _ hy => .foldl (fun _ _ hy => hy.accessed (.store (.refl _) ..)) hy) hy
    · exact hy
  · exact hy

theorem execSystemFaultHandling (h : Canonical s) (cc : Nat) : KeepsForm (execSystemFaultHandling cc s) := by
  unfold Machine.execSystemFaultHandling
  refine .next ?_
  lift_lets -underBinder
  intro c
  split
  · exact h
  · intro lo s1 s2
    have h1 : Canonical s1 := (h.worked (.eventRecord (.refl _) ..)).worked (.rollback (.refl _) ..)
    clear_value s1
    have h2 : Canonical s2 := ⟨h1.wf⟩
    clear_value s2
    split
    · exact h2.ended (.terminateTeam (.refl _) ..)
    · lift_lets -underBinder
      intro s3 s4
      have h3 : Canonical s3 := h2.freezeCol ..
      clear_value s3
      have h4 : Canonical s4 := h3.recordFault ..
      clear_value s4
      exact .ite h4 ((h4.ended (.terminateTeam (.refl _) ..)).releaseFrozen ..)

theorem execHostRecoveryChoice (h : Canonical s) (cc : Nat) (resume : Bool) : KeepsForm (execHostRecoveryChoice cc resume s) := by
  unfold Machine.execHostRecoveryChoice
  refine .next ?_
  lift_lets -underBinder
  intro sv?1
  clear_value sv?1
  split
  · exact h
  · exact .releaseFrozen (.ite h (h.ended (.terminateTeam (.refl _) ..))) ..

theorem mxAbandon (h : Canonical s) (core : Nat) (ck : Nat) : Canonical (s.mxAbandon core ck) := by
  unfold State.mxAbandon
  exact .ite ((h.mxAbort ..).ended (.terminateTeam (.refl _) ..)) (h.mxAbort ..)

theorem execMatrixFaultPause (h : Canonical s) (core : Nat) : KeepsForm (execMatrixFaultPause core s) := by
  unfold Machine.execMatrixFaultPause
  refine .next ?_
  split
  · rename_i s1 e1
    have h1 : Canonical s1 := .ofSnd (h.mxFault ..) e1
    exact h
  · rename_i s1 e1
    have h1 : Canonical s1 := .ofSnd (h.mxFault ..) e1
    split
    · exact .ite (h1.mxPause ..) ((h1.mxPause ..).mxAbandon ..)
    · exact (h1.worked (.mxPop (.refl _) ..)).worked (.asyncFault (.refl _) ..)

theorem execMprogResume (h : Canonical s) (core : Nat) : KeepsForm (execMprogResume core s) := by
  unfold Machine.execMprogResume
  exact .next (.ite (h.mxResume ..) h)

theorem execMprogAbort (h : Canonical s) (core : Nat) : KeepsForm (execMprogAbort core s) := by
  unfold Machine.execMprogAbort
  refine .next ?_
  split
  · split
    · exact h.mxAbandon ..
    · exact h
  · exact h

theorem supply (h : Canonical s) (uid at_ val : Nat) : Canonical (s.supply uid at_ val) := by
  unfold State.supply
  exact h.mapAwaiting ..

theorem execGrabRequestServed (h : Canonical s) : KeepsForm (execGrabRequestServed s) := by
  unfold Machine.execGrabRequestServed
  refine .next ?_
  split
  · exact h
  · split
    lift_lets -underBinder
    intro s1
    have h1 : Canonical s1 := h.setRange ..
    clear_value s1
    intro s2
    have h2 : Canonical s2 := ⟨h1.wf⟩
    clear_value s2
    exact (h2.supply ..).supply ..

theorem walkFills (h : Canonical s) (die : Nat) (w : Walk) : Canonical (s.walkFills die w) := by
  unfold State.walkFills
  split
  · exact .ite h ((h.updDie ..).updCore ..)
  · exact h

theorem execPageWalkComplete (h : Canonical s) (die : Nat) : KeepsForm (execPageWalkComplete die s) := by
  unfold Machine.execPageWalkComplete
  exact .next (.foldl (fun _ _ hy => (hy.walkFills ..)) (h.updDie ..))

theorem execTlbiComplete (h : Canonical s) : KeepsForm (execTlbiComplete s) := by
  unfold Machine.execTlbiComplete
  exact .next (.foldl (fun _ _ hy => (.foldl (fun _ _ hy => (hy.worked (.signal (.refl _) ..))) (hy.updDie ..))) h)

end Canonical

end Sys2Proof.Machine
end

section
/-! SUPPORT. A step's functions keep memory in its canonical form: launches, contracts and the pod. -/

set_option Elab.async false

namespace Sys2Proof.Machine

open Claims

namespace Canonical

variable {s : State}

/-! ### Launches -/

theorem feNext (h : Canonical s) (n : Nat) : Canonical (s.feNext n) := by
  unfold State.feNext
  exact .ite (h.setQueue ..) h

theorem feDone (h : Canonical s) (n : Nat) : Canonical (s.feDone n) := by
  unfold State.feDone
  exact feNext (updQueue (s := { s with feLast := n }) ⟨h.wf⟩ n fun q => { q with rd := if q.cleared then q.rd else q.rd + 1#16, fe := .idle, cleared := false }) n

theorem feReject (h : Canonical s) (n code : Nat) : Canonical (s.feReject n code) := by
  unfold State.feReject
  exact h.updQueue ..

theorem execNotify (h : Canonical s) (q : Nat) (wridx : Half) : KeepsForm (execNotify q wridx s) := by
  unfold Machine.execNotify
  exact .next (.ite h (.ite ((h.setQueue ..).feNext ..) (h.setQueue ..)))

theorem execQcmdOpen (h : Canonical s) (q : Nat) : KeepsForm (execQcmdOpen q s) := by
  unfold Machine.execQcmdOpen
  exact .next (.ite h (h.setQueue ..))

theorem execQcmdClear (h : Canonical s) (q : Nat) : KeepsForm (execQcmdClear q s) := by
  unfold Machine.execQcmdClear
  exact .next (.ite h (h.setQueue ..))

theorem dropTeams (h : Canonical s) (fe : FeSt) : Canonical (s.dropTeams fe) := by
  unfold State.dropTeams
  split
  · exact h.updLaunch ..
  · exact h

theorem execQcmdDestroy (h : Canonical s) (q : Nat) : KeepsForm (execQcmdDestroy q s) := by
  unfold Machine.execQcmdDestroy
  exact .next (.ite h (((h.dropTeams ..).setQueue ..).ended (.closeQueues (.refl _) ..)))

theorem feChecked (h : Canonical s) (n : Nat) (p : List DWord) (k : Option Kernel) (codes : List Nat) : Canonical (s.feChecked n p k codes) := by
  unfold State.feChecked
  split
  · exact h.feReject ..
  · exact h.updQueue ..

theorem packetLands (h : Canonical s) (n : Nat) : Canonical (s.packetLands n) := by
  unfold State.packetLands
  lift_lets -underBinder
  intro q1 p1
  split
  · exact h.feReject ..
  · split
    · exact h.setQueue ..
    · exact h.feChecked ..
    · exact h.feChecked ..
    · exact h.feReject ..

theorem imageLands (h : Canonical s) (n : Nat) (p : List DWord) : Canonical (s.imageLands n p) := by
  unfold State.imageLands
  split
  rename_i s1 e1
  have h1 : Canonical s1 := .ofSnd₂ (h.accessed (.readKernel (.refl _) ..)) e1
  exact h1.feChecked ..

theorem execFrontEndReadLands (h : Canonical s) (q : Nat) : KeepsForm (execFrontEndReadLands q s) := by
  unfold Machine.execFrontEndReadLands
  refine .next ?_
  lift_lets -underBinder
  intro s1
  have h1 : Canonical s1 := by
    dsimp -zeta only [s1]
    split
    · exact h
    · split
      · exact .ite (h.packetLands ..) h
      · exact .ite (h.imageLands ..) h
      · exact h
  clear_value s1
  exact .foldl (fun _ _ hy => (hy.loaded ..)) h1

theorem execApprcmdApprove (h : Canonical s) (q : Nat) : KeepsForm (execApprcmdApprove q s) := by
  unfold Machine.execApprcmdApprove
  refine .next ?_
  split
  · exact h
  · split
    · exact h.updQueue ..
    · exact h

theorem execApprcmdDeny (h : Canonical s) (q : Nat) : KeepsForm (execApprcmdDeny q s) := by
  unfold Machine.execApprcmdDeny
  refine .next ?_
  split
  · exact h
  · split
    · exact h.feReject ..
    · exact h

theorem compTo (h : Canonical s) (loc via : Nat) (err : Bool) : Canonical (s.compTo loc via err) := by
  unfold State.compTo
  exact ⟨h.wf⟩

theorem compsLand (h : Canonical s) : Canonical s.compsLand := by
  unfold State.compsLand
  exact .ite h (.foldl (fun _ _ hy => (hy.accessed (.store (.refl _) ..))) ⟨h.wf⟩)

theorem compSignal (h : Canonical s) (root addr part : Nat) (err : Bool) : Canonical (s.compSignal root addr part err) := by
  unfold State.compSignal
  split
  · exact h
  · split
    rename_i s1 e1
    have h1 : Canonical s1 := .ofSnd (h.accessed (.rootPlace (.refl _) ..)) e1
    split
    · exact h1.compTo ..
    · split
      · exact h1
      · split
        · split
          · rename_i e2 _ _ _ _ s2 e3
            have h2 : Canonical s2 := .ofSnd (h1.accessed (.podTranslate (.refl _) ..)) e3
            exact h2.compTo ..
          · rename_i e2 _ _ s2 _ e3
            have h2 : Canonical s2 := .ofSnd (h1.accessed (.podTranslate (.refl _) ..)) e3
            exact h2
        · split
          rename_i s2 e2
          have h2 : Canonical s2 := .ofSnd (h1.accessed (.fresh (.refl _) ..)) e2
          exact h2.accessed (.podSend (.refl _) ..)
    · exact h1

theorem execCompletionSignal (h : Canonical s) (sig : Nat) : KeepsForm (execCompletionSignal sig s) := by
  unfold Machine.execCompletionSignal
  refine .next ?_
  split
  · exact h
  · split
    · exact h
    · lift_lets -underBinder
      intro s1
      have h1 : Canonical s1 := h.compSignal ..
      clear_value s1
      intro s2
      have h2 : Canonical s2 := ⟨h1.wf⟩
      clear_value s2
      exact h2.ended (.closeQueues (.refl _) ..)

theorem execPacketOpenrng (h : Canonical s) (q : Nat) : KeepsForm (execPacketOpenrng q s) := by
  unfold Machine.execPacketOpenrng
  refine .next ?_
  split
  · exact .ite h (((h.setRange ..).compSignal ..).feDone ..)
  · exact h

theorem execPacketWaitsig (h : Canonical s) (q : Nat) : KeepsForm (execPacketWaitsig q s) := by
  unfold Machine.execPacketWaitsig
  refine .next ?_
  split
  · exact .ite h (h.updQueue ..)
  · exact h

theorem execWaitsigPoll (h : Canonical s) (q : Nat) : KeepsForm (execWaitsigPoll q s) := by
  unfold Machine.execWaitsigPoll
  refine .next ?_
  split
  · split
    · exact h
    · lift_lets -underBinder
      intro root1
      split
      rename_i e1 _ _ _ s1 e2
      have h1 : Canonical s1 := .ofSnd (h.accessed (.rootPlace (.refl _) ..)) e2
      exact .ite ((h1.compSignal ..).feDone ..) (h1.updQueue ..)
  · exact h

theorem podLaunch (h : Canonical s) (q teams : Nat) : Canonical (s.podLaunch q teams).2 := by
  unfold State.podLaunch
  split
  · exact h.setPodgrp ..
  · exact h

theorem execPacketLaunch (h : Canonical s) (q : Nat) : KeepsForm (execPacketLaunch q s) := by
  unfold Machine.execPacketLaunch
  refine .next ?_
  split
  · split
    · exact h
    · lift_lets -underBinder
      intro x1 cols1 mask1 teams1
      split
      rename_i e1 _ _ _ s1 e2
      have h1 : Canonical s1 := .ofSnd (h.podLaunch ..) e2
      lift_lets -underBinder
      intro l1 n1 s2
      have h2 : Canonical s2 := ⟨h1.wf⟩
      clear_value s2
      exact h2.updQueue ..
  · exact h

theorem swapTeam (h : Canonical s) (launch team reason : Nat) : Canonical (s.swapTeam launch team reason) := by
  unfold State.swapTeam
  lift_lets -underBinder
  intro ccs cols acts
  split
  rename_i s1 svs e1
  have h1 : Canonical s1 := by
    refine .ofFst (foldlFst (fun y col hy => ?_) cols (y := (s, [])) h) e1
    exact hy.kept (.captureCol (.refl y.1) col _ _)
  split
  · exact h1
  · exact .foldl (fun _ _ hy => hy.kept (.afterFreeze (.refl _) ..)) (h1.addSwap ..)

theorem recallStep (h : Canonical s) (col : Nat) : Canonical (s.recallStep col) := by
  unfold State.recallStep
  exact .ite (.updCol (.foldl (fun _ _ hy => (hy.swapTeam ..)) h) ..) (.foldl (fun _ _ hy => (hy.swapTeam ..)) h)

theorem recalled (h : Canonical s) (col : Nat) : Canonical (s.recall col) := by
  unfold State.recall
  exact .ite ((h.updCol ..).recallStep ..) h

theorem loadFps (h : Canonical s) (root : Nat) (k : Kernel) : Canonical (s.loadFps root k).2 := h.accessed (.loadFps (.refl s) root k)

theorem loadBank (h : Canonical s) (core b : Nat) (data : List (Byte × Bool)) : Canonical (s.loadBank core b data) := by
  unfold State.loadBank
  exact .foldl (fun _ _ hy => (hy.accessed (.storeP (.refl _) ..))) h

theorem imageBanks (h : Canonical s) (root : Nat) (k : Kernel) : Canonical (s.imageBanks root k).2 := h.accessed (.imageBanks (.refl s) root k)

theorem takeCore (h : Canonical s) (n : Nat) (k : Kernel) (img : List (Nat × List (Byte × Bool))) (core : Nat) : Canonical (s.takeCore n k img core) := by
  unfold State.takeCore
  exact .ite h (.foldl (fun _ _ hy => (hy.loadBank ..)) (h.updCore ..))

theorem startCtx (h : Canonical s) (n : Nat) (l : Launch) (t tcol tctx col k : Nat) (fps : SMap (List Region)) (until_ : Nat) : Canonical (s.startCtx n l t tcol tctx col k fps until_) := by
  unfold State.startCtx
  exact .setCc (.foldl (fun _ _ hy => (hy.updCd ..)) h) ..

theorem startCol (h : Canonical s) (n : Nat) (l : Launch) (t tcol col : Nat) (fps : SMap (List Region)) (until_ : Nat) : Canonical (s.startCol n l t tcol col fps until_) := by
  unfold State.startCol
  lift_lets -underBinder
  intro ks1 s1
  have h1 : Canonical s1 := .foldl (fun _ _ hy => (hy.startCtx ..)) h
  clear_value s1
  intro s2
  have h2 : Canonical s2 := h1.updCol ..
  clear_value s2
  clear_value ks1
  split
  · exact .ite ((h2.worked (.startReel (.refl _) ..)).worked (.startReel (.refl _) ..)) (h2.worked (.startReel (.refl _) ..))
  · exact h2

theorem startTeam (h : Canonical s) (n : Nat) (l : Launch) : Canonical (s.startTeam n l) := by
  unfold State.startTeam
  lift_lets -underBinder
  intro t1 cols1 root1 cores1 first1 until_1
  split
  rename_i s1 e1
  have h1 : Canonical s1 := .ofSnd (h.loadFps ..) e1
  split
  rename_i s2 e2
  have h2 : Canonical s2 := .ofSnd (.sndIte (h1.imageBanks ..) h1) e2
  lift_lets -underBinder
  intro s3
  have h3 : Canonical s3 := .foldl (fun _ _ hy => (hy.takeCore ..)) h2
  clear_value s3
  intro s4
  have h4 : Canonical s4 := .foldl (fun _ _ hy => (hy.startCol ..)) h3
  clear_value s4
  intro s5
  have h5 : Canonical s5 := .foldl (fun _ _ hy => (.ite (hy.updCol ..) hy)) h4
  clear_value s5
  exact h5.updLaunch ..

theorem recallFor (h : Canonical s) (l : Launch) : Canonical (s.recallFor l) := .foldl (fun _ _ hy => .ite (hy.recalled ..) hy) h

theorem execTeamStart (h : Canonical s) (launch : Nat) : KeepsForm (execTeamStart launch s) := by
  unfold Machine.execTeamStart
  refine .next ?_
  split
  · split
    · exact h.feDone ..
    · exact h
  · exact .ite h (.ite (h.feDone ..) (.ite (h.recallFor ..) (.ite ((h.startTeam ..).feDone ..) (h.startTeam ..))))

theorem execReelArrives (h : Canonical s) (col buf : Nat) : KeepsForm (execReelArrives col buf s) := by
  unfold Machine.execReelArrives
  exact .next (.foldl (fun _ _ hy => (hy.loaded ..)) (h.reelLands ..))

theorem execLendLent (h : Canonical s) (col : Nat) (v : DWord) : KeepsForm (execLendLent col v s) := by
  unfold Machine.execLendLent
  exact .next (.ite h (h.setCol ..))

theorem execLendRecall (h : Canonical s) (col : Nat) : KeepsForm (Machine.execLendRecall col s) := .next (.ite (h.recalled col) h)

/-! ### Contracts -/

theorem execMgmtmodeWrite (h : Canonical s) (v : DWord) : KeepsForm (execMgmtmodeWrite v s) := by
  unfold Machine.execMgmtmodeWrite
  exact .next ⟨h.wf⟩

theorem execContractAdmit (h : Canonical s) (k : Nat) : KeepsForm (execContractAdmit k s) := by
  unfold Machine.execContractAdmit
  refine .next ?_
  lift_lets -underBinder
  intro c1
  split
  · exact h
  · split
    · exact h.setContract ..
    · exact h.setContract ..

theorem execContractRevoke (h : Canonical s) (k : Nat) : KeepsForm (execContractRevoke k s) := by
  unfold Machine.execContractRevoke
  exact .next (.ite h (h.setContract ..))

theorem execContractPeriodStart (h : Canonical s) (k : Nat) : KeepsForm (execContractPeriodStart k s) := by
  unfold Machine.execContractPeriodStart
  exact .next (.ite (h.setContract ..) h)

theorem execContractBudgetSpent (h : Canonical s) (k col : Nat) : KeepsForm (execContractBudgetSpent k col s) := by
  unfold Machine.execContractBudgetSpent
  exact .next (.ite (h.setContract ..) h)

theorem spendClock (h : Canonical s) (col k : Nat) : Canonical (s.spendClock col k) := by
  unfold State.spendClock
  exact .ite h (h.setContract ..)

/-! ### Pod messages -/

theorem mapRecs (h : Canonical s) (f : List RecPend → List RecPend) : Canonical (s.mapRecs f) := by
  unfold State.mapRecs
  exact h.replied (.mapCtxs (.refl _) ..)

theorem dataOne (h : Canonical s) (uid at_ : Nat) (data : List Byte) (poison : Bool) : Canonical (s.dataOne uid at_ data poison) := by
  unfold State.dataOne
  split
  · exact .ite (h.replied (.faultReply (.refl _) ..)) (h.supply ..)
  · split
    · exact .ite (h.replied (.faultReply (.refl _) ..)) (h.mapRecs ..)
    · split
      · exact ⟨h.wf⟩
      · split
        · exact .ite (h.replied (.faultReply (.refl _) ..)) (h.replied (.updCw (.refl _) ..))
        · exact h

theorem dataReply (h : Canonical s) (uid at_ : Nat) (data : List Byte) (poison : Bool) : Canonical (s.dataReply uid at_ data poison) := by
  unfold State.dataReply
  split
  · exact .foldl (fun _ _ hy => (hy.dataOne ..)) (h.replied (.dropSplit (.refl _) ..))
  · exact h.dataOne ..

theorem atomicsAt (loc op : Nat) (signed : Bool) (w expected : Nat) : ∀ (l : List Nat) {s : State}, Canonical s → Canonical (s.atomicsAt loc op signed w expected l).2
  | [], _, h => h
  | _ :: vs, _, h => atomicsAt loc op signed w expected vs (h.atomicAt ..)

theorem mergedOne (h : Canonical s) (uid w old : Nat) : Canonical (s.mergedOne uid w old) := by
  unfold State.mergedOne
  split
  · exact h.supply ..
  · exact h

theorem mergeEnd (h : Canonical s) (die : Nat) (m : Merge) : Canonical (s.mergeEnd die m) := by
  unfold State.mergeEnd
  lift_lets -underBinder
  intro w1
  split
  · split
    · exact .foldl (fun _ _ hy => (hy.replied (.faultOne (.refl _) ..))) h
    · split
      · exact .foldl (fun _ _ hy => (hy.replied (.faultOne (.refl _) ..))) h
      · split
        rename_i e1 _ _ _ _ s1 e2
        have h1 : Canonical s1 := .ofSnd (h.atomicsAt ..) e2
        exact .foldl (fun _ _ hy => (hy.mergedOne ..)) h1
  · split
    rename_i e1 _ _ s1 e2
    have h1 : Canonical s1 := .ofSnd (h.accessed (.fresh (.refl _) ..)) e2
    exact (h1.accessed (.podSendIdx (.refl _) ..)).updDie ..

theorem mergesEnd (h : Canonical s) : Canonical s.mergesEnd := by
  unfold State.mergesEnd
  exact .foldl (fun _ _ hy => (.ite hy (.foldl (fun _ _ hy => (hy.mergeEnd ..)) (hy.updDie ..)))) h

theorem podServe (h : Canonical s) (m : PodMsg) : Canonical (s.podServe m).2 := by
  unfold State.podServe
  split
  · split
    rename_i e1 _ _ s1 e2
    have h1 : Canonical s1 := .ofSnd (h.accessed (.podTranslate (.refl _) ..)) e2
    split
    · exact h1.accessed (.storeP (.refl _) ..)
    · exact h1
    · exact h1
  · split
    rename_i e1 _ _ s1 e2
    have h1 : Canonical s1 := .ofSnd (h.accessed (.podTranslate (.refl _) ..)) e2
    split
    · exact h1
    · exact h1
    · exact h1
  · split
    rename_i e1 _ _ s1 e2
    have h1 : Canonical s1 := .ofSnd (h.accessed (.podTranslate (.refl _) ..)) e2
    lift_lets -underBinder
    intro w1
    split
    · split
      · exact h1
      · split
        · exact h1
        · split
          rename_i e3 _ _ s2 e4
          have h2 : Canonical s2 := .ofSnd (h1.atomicsAt ..) e4
          exact h2
    · exact h1
    · exact h1
  · exact h

theorem podWait (h : Canonical s) (m : PodMsg) (out : Nat) : Canonical (s.podWait m out) := by
  unfold State.podWait
  exact ⟨h.wf⟩

theorem podBarrier (h : Canonical s) (m : PodMsg) (g n team bid : Nat) : Canonical (s.podBarrier m g n team bid) := by
  unfold State.podBarrier
  split
  · exact .ite (.ite (h.tellPeer ..) h) (h.podWait ..)
  · exact .ite (h.podWait ..) ⟨h.wf⟩

theorem podContribution (h : Canonical s) (m : PodMsg) (out g n team coll rank : Nat) (c : Contrib) : Canonical (s.podContribution m out g n team coll rank c).2 := by
  unfold State.podContribution
  split
  · split
    · exact h
    · exact h.podWait ..
  · exact .sndIte (h.extArrives ..) ((h.extArrives ..).podWait ..)

theorem podAnswer (h : Canonical s) (m : PodMsg) (out : Nat) (b : PodBody) : Canonical (s.podAnswer m out b) := by
  unfold State.podAnswer
  exact ⟨h.wf⟩

theorem podInside (h : Canonical s) (m : PodMsg) : Canonical (s.podInside m) := by
  unfold State.podInside
  exact ⟨h.wf⟩

theorem execPodMessageArrives (h : Canonical s) (m : PodMsg) : KeepsForm (execPodMessageArrives m s) := by
  unfold Machine.execPodMessageArrives
  refine .next ?_
  lift_lets -underBinder
  intro own1 s1
  have h1 : Canonical s1 := by
    dsimp -zeta only [s1]
    clear_value own1
    split
    · exact ⟨h.wf⟩
    · exact h
  clear_value s1
  intro out1 at_1 s2
  have h2 : Canonical s2 := ⟨h1.wf⟩
  clear_value s2
  split
  · exact h1
  · split
    · split
      · exact h1.podEmit ..
      · exact h1
    · split
      · exact h1.podInside ..
      · split
        · exact h2.dataReply ..
        · exact h2.replied (.faultReply (.refl _) ..)
        · exact h2.ended (.acked (.refl _) ..)
        · exact h1.podBarrier ..
        · split
          · rename_i e1 _ _ s3 e2
            have h3 : Canonical s3 := .ofSnd (h1.podContribution ..) e2
            exact h3.podAnswer ..
          · rename_i e1 _ s3 e2
            have h3 : Canonical s3 := .ofSnd (h1.podContribution ..) e2
            exact h3
        · split
          · rename_i s3 e1
            have h3 : Canonical s3 := .ofSnd (h1.podServe ..) e1
            exact h3.podAnswer ..
          · rename_i s3 e1
            have h3 : Canonical s3 := .ofSnd (h1.podServe ..) e1
            exact h3

theorem execPostedWriteAck (h : Canonical s) (uid : Nat) : KeepsForm (execPostedWriteAck uid s) := by
  unfold Machine.execPostedWriteAck
  exact .next ⟨h.wf⟩

theorem dropUnsent (h : Canonical s) : Canonical s.dropUnsent := by
  unfold State.dropUnsent
  exact .ite h (replied (s := { s with podOut := s.podOut.filter fun m => m.1 != noLink }) ⟨h.wf⟩ (.podLose (.refl _) _))

theorem linkTick (h : Canonical s) : Canonical s.linkTick := by
  unfold State.linkTick
  exact .dropUnsent ⟨h.wf⟩

end Canonical

end Sys2Proof.Machine
end

section
/-! SUPPORT. A step's functions keep memory in its canonical form: trust, devices, registers and the clock. -/

set_option Elab.async false

namespace Sys2Proof.Machine

open Claims

namespace Canonical

variable {s : State}

/-! ### Trust and start-up -/

theorem rehomeIdle (h : Canonical s) : Canonical s.rehomeIdle := by
  unfold State.rehomeIdle
  exact h.ended (.rehomeIf (.refl _) ..)

theorem quarantine (h : Canonical s) (k reason : Nat) (failed : Bool) : Canonical (s.quarantine k reason failed) := by
  unfold State.quarantine
  exact .ite ((h.updSocket ..).ended (.leaveLive (.refl _) ..)) (h.updSocket ..)

theorem linkSessions (h : Canonical s) (n : Nat) : Canonical (s.linkSessions n) := by
  unfold State.linkSessions
  exact h.updLink ..

theorem attests (h : Canonical s) (k : Nat) : Canonical (s.attests k) := by
  unfold State.attests
  exact h.updSocket ..

theorem enterLive (h : Canonical s) (k : Nat) : Canonical (s.enterLive k) := by
  unfold State.enterLive
  lift_lets -underBinder
  intro rejoins1 waits1 s1
  have h1 : Canonical s1 := h.updSocket ..
  clear_value s1
  exact .ite ⟨h1.wf⟩ (.ite (.foldl (fun _ _ hy => (hy.linkSessions ..)) h1) h1)

theorem resetDie (h : Canonical s) (k : Nat) : Canonical (s.resetDie k) := by
  unfold State.resetDie
  exact .ite ⟨h.wf⟩ h

theorem setPend (h : Canonical s) (n : Nat) (b : Bool) : Canonical (s.setPend n b) := by
  unfold State.setPend
  exact ⟨h.wf⟩

theorem execDiestReset (h : Canonical s) (socket : Nat) : KeepsForm (execDiestReset socket s) := by
  unfold Machine.execDiestReset
  exact .next (.ite h ((((h.quarantine ..).resetDie ..).setPend ..).updSocket ..))

theorem execDiestReatt (h : Canonical s) (socket : Nat) : KeepsForm (execDiestReatt socket s) := by
  unfold Machine.execDiestReatt
  exact .next (.ite h (h.attests ..))

theorem execDieResetEnd (h : Canonical s) (socket : Nat) : KeepsForm (execDieResetEnd socket s) := by
  unfold Machine.execDieResetEnd
  exact .next (.ite h (.ite ((h.updSocket ..).attests ..) (h.updSocket ..)))

theorem derive (h : Canonical s) (k : Nat) : Canonical (s.derive k) := by
  unfold State.derive
  exact h.updSocket ..

theorem startDie (h : Canonical s) (x : Start) (k : Nat) : Canonical (s.startDie x k).1 := by
  unfold State.startDie
  lift_lets -underBinder
  intro st1 attests1 fails1 s1
  have h1 : Canonical s1 := .ite (h.derive ..) h
  clear_value s1
  clear_value fails1
  split
  · exact h1.quarantine ..
  · split
    · exact h1.attests ..
    · split
      · exact h1
      · exact h1

theorem attestPeers (h : Canonical s) : Canonical s.attestPeers := by
  unfold State.attestPeers
  exact .ite h (.foldl (fun _ _ hy => (.linkSessions (.ite (hy.ended (.linkDown (.refl _) ..)) hy) ..)) h)

theorem startEnds (h : Canonical s) (x : Start) : Canonical (s.startEnds x).1 := by
  unfold State.startEnds
  lift_lets -underBinder
  intro x1 s1
  have h1 : Canonical s1 := .ite h ⟨h.wf⟩
  clear_value s1
  split
  rename_i s2 x2 e1
  have h2 : Canonical s2 := by
    refine .ofFst (foldlFst (fun y k hy => ?_) sockets18 (y := (s1, x1)) h1) e1
    split
    · exact hy
    · split
      · exact hy.quarantine ..
      · exact hy
  exact h2.attestPeers

theorem attemptBegins (h : Canonical s) (x : Start) : Canonical (s.attemptBegins x).1 := foldlFst (fun _ _ hy => hy.startDie ..) sockets18 (y := (s, x)) h

theorem runStart : ∀ (n : Nat) (x : Start) {s : State}, Canonical s → Canonical (s.runStart x n)
  | 0, _, _, h => h
  | n + 1, x, s, h => by
    unfold State.runStart
    split
    · exact ⟨h.wf⟩
    · split
      rename_i s1 x1 e1
      have h1 : Canonical s1 := by
        by_cases hx : x.six = true
        · rw [if_pos hx] at e1
          exact ofFst (p := (s, x)) h e1
        · rw [if_neg hx] at e1
          exact ofFst (h.startEnds x) e1
      split
      · exact ⟨h1.wf⟩
      · lift_lets -underBinder
        intro s2 step last
        have h2 : Canonical s2 := h1.ended (.rehomeIf (.refl _) _)
        clear_value s2
        split
        · exact ⟨h2.wf⟩
        · lift_lets -underBinder
          intro s3 s4
          have h3 : Canonical s3 := .foldl (fun _ _ hy => hy.updSocket ..) h2
          clear_value s3
          have h4 : Canonical s4 := ⟨h3.wf⟩
          clear_value s4
          exact runStart n _ (h4.attemptBegins _)

theorem startUp (h : Canonical s) (warm : Bool) (attempts : List (List (Nat × Nat))) : Canonical (s.startUp warm attempts) := by
  unfold State.startUp
  lift_lets -underBinder
  intro s1
  have h1 : Canonical s1 := ⟨h.wf⟩
  clear_value s1
  split
  rename_i s2 _ e1
  have h2 : Canonical s2 := .ofFst (h1.attemptBegins ..) e1
  exact h2.runStart ..

theorem startGoesOn (h : Canonical s) : Canonical s.startGoesOn := by
  unfold State.startGoesOn
  split
  · exact runStart 4 _ (s := { s with start := none }) ⟨h.wf⟩
  · exact h

theorem packageReset (h : Canonical s) : Canonical s.packageReset := by
  obtain ⟨hrise, hlisted⟩ := h.wf
  exact ⟨hrise.filter _, fun c hc => hlisted c (List.mem_filter.1 hc).1⟩

theorem execColdStart (h : Canonical s) (attempts : List (List (Nat × Nat))) : KeepsForm (execColdStart attempts s) := by
  unfold Machine.execColdStart
  exact .next (h.packageReset.startUp ..)

theorem execBootstatWarm (h : Canonical s) (attempts : List (List (Nat × Nat))) : KeepsForm (execBootstatWarm attempts s) := by
  unfold Machine.execBootstatWarm
  exact .next (.ite (h.startUp ..) h)

theorem writeEvidence (h : Canonical s) (n : Nat) (x : Exchange) : Canonical (s.writeEvidence n x) := by
  unfold State.writeEvidence
  exact (h.accessed (.store (.refl _) ..)).setPend ..

theorem dieKeys (h : Canonical s) (k : Nat) : Canonical (s.dieKeys k) := by
  unfold State.dieKeys
  split
  rename_i s1 e1
  have h1 : Canonical s1 := .ofSnd (h.accessed (.fresh (.refl _) ..)) e1
  exact h1.updSocket ..

theorem execAttestationExchange (h : Canonical s) (socket : Nat) (x : Exchange) (ended : Bool) : KeepsForm (execAttestationExchange socket x ended s) := by
  unfold Machine.execAttestationExchange
  refine .next ?_
  lift_lets -underBinder
  intro y1
  split
  · exact h
  · split
    · exact (h.quarantine ..).startGoesOn
    · split
      · exact (h.dieKeys ..).writeEvidence ..
      · split
        · exact ((h.dieKeys ..).enterLive ..).startGoesOn
        · exact (h.quarantine ..).startGoesOn

theorem sessionsFail (h : Canonical s) (n : Nat) : Canonical (s.sessionsFail n) := by
  unfold State.sessionsFail
  exact (h.updLink ..).startGoesOn

theorem execAttestationTimeout (h : Canonical s) (subject : Nat) : KeepsForm (execAttestationTimeout subject s) := by
  unfold Machine.execAttestationTimeout
  exact .next (.ite (.ite h (h.quarantine ..).startGoesOn) (.ite (h.sessionsFail ..) h))

theorem linkUp (h : Canonical s) (n : Nat) : Canonical (s.linkUp n) := by
  unfold State.linkUp
  exact h.updLink ..

theorem execAttverdAccept (h : Canonical s) (subject : Nat) : KeepsForm (execAttverdAccept subject s) := by
  unfold Machine.execAttverdAccept
  refine .next ?_
  split
  · exact h
  · exact .ite ((h.setPend ..).enterLive ..).startGoesOn (.ite ((h.setPend ..).linkUp ..) ((h.setPend ..).sessionsFail ..))

theorem execAttverdRefuse (h : Canonical s) (subject : Nat) : KeepsForm (execAttverdRefuse subject s) := by
  unfold Machine.execAttverdRefuse
  exact .next (.ite h (.ite ((h.setPend ..).quarantine ..).startGoesOn ((h.setPend ..).sessionsFail ..)))

theorem present (h : Canonical s) (n : Nat) (challenge : List Byte) : Canonical (s.present n challenge) := by
  unfold State.present
  split
  · exact ⟨h.wf⟩
  · exact h

theorem linkKeys (h : Canonical s) (n : Nat) : Canonical (s.linkKeys n) := by
  unfold State.linkKeys
  split
  rename_i s1 e1
  have h1 : Canonical s1 := .ofSnd (h.accessed (.fresh (.refl _) ..)) e1
  split
  rename_i s2 e2
  have h2 : Canonical s2 := .ofSnd (h1.accessed (.fresh (.refl _) ..)) e2
  exact h2.updLink ..

theorem execLerayxAttestation (h : Canonical s) (link : Nat) (x : Exchange) (ended far : Bool) (e : FarEnd) : KeepsForm (execLerayxAttestation link x ended far e s) := by
  unfold Machine.execLerayxAttestation
  refine .next ?_
  split
  · exact h
  · split
    · exact h
    · lift_lets -underBinder
      intro s1
      have h1 : Canonical s1 := h.present ..
      clear_value s1
      intro s2
      have h2 : Canonical s2 := (h1.linkKeys ..).updLink ..
      clear_value s2
      exact .ite (h1.sessionsFail ..) (.ite (h2.writeEvidence ..).startGoesOn (.ite (h2.linkUp ..).startGoesOn (h2.sessionsFail ..)))

theorem execLerayxSessionRetry (h : Canonical s) (link : Nat) : KeepsForm (execLerayxSessionRetry link s) := by
  unfold Machine.execLerayxSessionRetry
  exact .next (.ite h (h.linkSessions ..))

theorem dropRetries (h : Canonical s) : Canonical s.dropRetries := by
  unfold State.dropRetries
  exact ⟨h.wf⟩

theorem execKeyRollover (h : Canonical s) (dir : LinkDir) : KeepsForm (execKeyRollover dir s) := by
  unfold Machine.execKeyRollover
  exact .next (.ite (.ite (h.updSocket ..) h) (.ite (h.updLink ..) h))

theorem replayFlit (h : Canonical s) (n : Nat) : Canonical (s.replayFlit n) := by
  unfold State.replayFlit
  exact h.updLink ..

theorem execLinkTagFailure (h : Canonical s) (subject : Nat) : KeepsForm (execLinkTagFailure subject s) := by
  unfold Machine.execLinkTagFailure
  refine .next ?_
  split
  · exact .ite h (.ite (h.quarantine ..) (h.updSocket ..))
  · exact .ite (.ite ((h.replayFlit ..).ended (.linkDown (.refl _) ..)) ((h.replayFlit ..).updLink ..)) h

theorem execLinkFlitReplay (h : Canonical s) (link : Nat) : KeepsForm (execLinkFlitReplay link s) := by
  unfold Machine.execLinkFlitReplay
  exact .next (.ite (h.replayFlit ..) h)

/-! ### Devices -/

theorem execBackgroundScrub (h : Canonical s) (place : Nat) (double : Bool) : KeepsForm (execBackgroundScrub place double s) := by
  unfold Machine.execBackgroundScrub
  refine .next ?_
  split
  · exact .ite h (.ite (h.accessed (.addPoison (.refl _) ..)) (h.updCore ..))
  · split
    · exact h
    · split
      · exact h.accessed (.addPoison (.refl _) ..)
      · split
        exact h.setRepair ..

theorem execRepairRowThreshold (h : Canonical s) (stack row : Nat) : KeepsForm (execRepairRowThreshold stack row s) := by
  unfold Machine.execRepairRowThreshold
  refine .next ?_
  lift_lets -underBinder
  intro r1 n1 s1
  have h1 : Canonical s1 := h.setRepair ..
  clear_value s1
  intro e1
  split
  · exact h
  · split
    · exact .ite ⟨h.wf⟩ h
    · split
      · exact h
      · split
        · exact ⟨h1.wf⟩
        · exact ⟨h1.wf⟩

theorem execRepcmdMap (h : Canonical s) (stack : Nat) (row : Word) : KeepsForm (execRepcmdMap stack row s) := by
  unfold Machine.execRepcmdMap
  exact .next (.ite h (.ite ⟨h.wf⟩ ⟨h.wf⟩))

theorem execRepairMapComplete (h : Canonical s) : KeepsForm (execRepairMapComplete s) := by
  unfold Machine.execRepairMapComplete
  refine .next ?_
  split
  · split
    · lift_lets -underBinder
      intro r1 s1
      have h1 : Canonical s1 := h.setRepair ..
      clear_value s1
      exact ⟨h1.wf⟩
    · exact h
  · exact h

theorem execPowerControlTick (h : Canonical s) (part : Nat) (watts : Half) : KeepsForm (execPowerControlTick part watts s) := by
  unfold Machine.execPowerControlTick
  exact .next (.ite h (.ite (h.updPart ..) ((h.updPart ..).updPart ..)))

theorem execMigctlGo (h : Canonical s) : KeepsForm (execMigctlGo s) := by
  unfold Machine.execMigctlGo
  exact .next (.ite h ⟨h.wf⟩)

theorem migrateLine (h : Canonical s) (src dst : Nat) : Canonical (s.migrateLine src dst) := by
  unfold State.migrateLine
  split
  · exact h
  · lift_lets -underBinder
    intro bad s1
    have h1 : Canonical s1 := h.accessed (.storeP (.refl _) ..)
    clear_value s1
    split
    · exact h1
    · lift_lets -underBinder
      intro n s2
      have h2 : Canonical s2 := ⟨h1.wf⟩
      clear_value s2
      exact .ite (h2.accessed (.store (.refl _) ..)) ⟨h2.wf⟩

theorem migrate : ∀ (n src dst : Nat) {s : State}, Canonical s → Canonical (s.migrate n src dst)
  | 0, _, _, _, h => h
  | n + 1, _, _, _, h => migrate n _ _ (h.migrateLine ..)

theorem execMigrationComplete (h : Canonical s) : KeepsForm (execMigrationComplete s) := by
  unfold Machine.execMigrationComplete
  refine .next ?_
  split
  · exact .ite ⟨(h.migrate ..).wf⟩ h
  · exact h

/-! ### Debugging and profiles -/

theorem countClock (h : Canonical s) (cc : Nat) : Canonical (s.countClock cc) := by
  unfold State.countClock
  exact .ite h (.updCc (.ite h (h.updCc ..)) ..)

theorem execProfileSample (h : Canonical s) (cc : Nat) : KeepsForm (execProfileSample cc s) := by
  unfold Machine.execProfileSample
  refine .next ?_
  lift_lets -underBinder
  intro c1 slog1
  split
  · exact h
  · split
    exact (h.updCc ..).worked (.traceFrom (.refl _) ..)

theorem execDbgctlStop (h : Canonical s) (col : Nat) : KeepsForm (execDbgctlStop col s) := by
  unfold Machine.execDbgctlStop
  exact .next (.ite h (h.setCol ..))

theorem execDbgctlRun (h : Canonical s) (col : Nat) : KeepsForm (execDbgctlRun col s) := by
  unfold Machine.execDbgctlRun
  exact .next (.ite h (h.setCol ..))

theorem execDbgctlStep (h : Canonical s) (col : Nat) : KeepsForm (execDbgctlStep col s) := by
  unfold Machine.execDbgctlStep
  exact .next (.ite h (h.setCol ..))

theorem execPreciseStopDrainEnd (h : Canonical s) (col : Nat) : KeepsForm (execPreciseStopDrainEnd col s) := by
  unfold Machine.execPreciseStopDrainEnd
  refine .next ?_
  lift_lets -underBinder
  intro ccs1 s1
  have h1 : Canonical s1 := h.updCol ..
  clear_value s1
  intro k1
  split
  · exact h
  · clear_value k1
    split
    · exact h1.worked (.eventRecord (.refl _) ..)
    · exact h1

theorem dbgAfter (h : Canonical s) (col : Nat) : Canonical (s.dbgAfter col) := by
  unfold State.dbgAfter
  exact .ite (h.updCol ..) h

/-! ### Register writes -/

theorem partWrite (h : Canonical s) (p num : Nat) (byFirmware : Bool) (v : DWord) : Canonical (s.partWrite p num byFirmware v) := by
  unfold State.partWrite
  split
  · exact h.updPart ..
  · exact h.updPart ..
  · exact h.updPart ..
  · exact h.updPart ..
  · exact h.after (h.execSvbaseWrite ..)
  · exact h.updPart ..
  · exact h.updPart ..
  · exact h.updPart ..
  · exact h.updPart ..
  · exact h

theorem colWrite (h : Canonical s) (col num : Nat) (v : DWord) : Canonical (s.colWrite col num v) := by
  unfold State.colWrite
  split
  · exact h
  · split
    · lift_lets
      intro s1 s2 s3
      have h1 : Canonical s1 := h.updCol ..
      clear_value s1
      have h2 : Canonical s2 := .ite (h1.after (h1.execDbgctlStop ..)) h1
      clear_value s2
      have h3 : Canonical s3 := .ite (h2.after (h2.execDbgctlRun ..)) h2
      clear_value s3
      exact .ite (h3.after (h3.execDbgctlStep ..)) h3
    · exact h.updCol ..
    · exact h

theorem mprogWrite (h : Canonical s) (core : Nat) (v : DWord) : Canonical (s.mprogWrite core v) := by
  unfold State.mprogWrite
  lift_lets
  intro s1
  have h1 : Canonical s1 := .ite (h.after (h.execMprogResume ..)) h
  clear_value s1
  exact .ite (h1.after (h1.execMprogAbort ..)) h1

theorem trbaseWrite (h : Canonical s) (ck : Nat) (v : DWord) : Canonical (s.trbaseWrite ck v) := by
  unfold State.trbaseWrite
  exact .ite (h.updCd ..) (.ite h (h.updCd ..))

theorem ctxWrite (h : Canonical s) (ck num : Nat) (v : DWord) (pre : Bool) : Canonical (s.ctxWrite ck num v pre) := by
  unfold State.ctxWrite
  lift_lets -underBinder
  intro core1
  exact .ite (h.updCd ..) (.ite (h.updCd ..) (.ite (h.updCd ..) (.ite (h.updCore ..) (.ite (h.updCore ..) (.ite (h.updCore ..) (h.updCd ..))))))

theorem csrApply (h : Canonical s) (core : Nat) (w : CsrW) : Canonical (s.csrApply core w) := by
  unfold State.csrApply
  lift_lets -underBinder
  intro col1 ck1
  exact .ite (h.ctxWrite ..) (.ite h (.ite (h.trbaseWrite ..) (.ite (h.mprogWrite ..) (.ite (h.colWrite ..) (h.partWrite ..)))))

theorem csrAll (h : Canonical s) : Canonical s.csrAll := by
  unfold State.csrAll
  exact .foldl (fun _ _ hy => (.ite hy (.foldl (fun _ _ hy => (hy.csrApply ..)) (hy.updCore ..)))) h

theorem partcfg0 (h : Canonical s) (p : Nat) (v : DWord) : Canonical (s.partcfg0 p v) := by
  unfold State.partcfg0
  exact .ite h (h.updPart ..)

theorem partcfg1 (h : Canonical s) (p : Nat) (v : DWord) : Canonical (s.partcfg1 p v) := by
  unfold State.partcfg1
  exact h.updPart ..

theorem cntpol (h : Canonical s) (p : Nat) (v : DWord) : Canonical (s.cntpol p v) := by
  unfold State.cntpol
  exact h.updPart ..

theorem contractWrite (h : Canonical s) (k w : Nat) (v : DWord) : Canonical (s.contractWrite k w v) := by
  unfold State.contractWrite
  lift_lets -underBinder
  intro c1 n1
  split
  · exact .ite h (h.setContract ..)
  · exact .ite h (h.setContract ..)
  · exact .ite h (h.setContract ..)
  · lift_lets -underBinder
    intro s1
    have h1 : Canonical s1 := .ite (h.after (h.execContractAdmit ..)) h
    clear_value s1
    exact .ite (h1.after (h1.execContractRevoke ..)) h1

theorem apprWrite (h : Canonical s) (v : DWord) : Canonical (s.apprWrite v) := by
  unfold State.apprWrite
  lift_lets -underBinder
  intro q1 waits1 s1
  have h1 : Canonical s1 := .ite h ⟨h.wf⟩
  clear_value s1
  exact .ite (h1.after (h1.execApprcmdApprove ..)) (.ite (h1.after (h1.execApprcmdDeny ..)) h1)

theorem verdWrite (h : Canonical s) (v : DWord) : Canonical (s.verdWrite v) := by
  unfold State.verdWrite
  lift_lets -underBinder
  intro n1 s1
  have h1 : Canonical s1 := .ite h ⟨h.wf⟩
  clear_value s1
  exact .ite (h1.after (h1.execAttverdAccept ..)) (.ite (h1.after (h1.execAttverdRefuse ..)) h1)

theorem repcmdWrite (h : Canonical s) (v : DWord) : Canonical (s.repcmdWrite v) := by
  unfold State.repcmdWrite
  exact .ite (h.after (h.execRepcmdMap ..)) ⟨h.wf⟩

theorem diestWrite (h : Canonical s) (k : Nat) (v : DWord) : Canonical (s.diestWrite k v) := by
  unfold State.diestWrite
  lift_lets -underBinder
  intro s1
  have h1 : Canonical s1 := .ite (h.after (h.execDiestReset ..)) h
  clear_value s1
  exact .ite (h1.after (h1.execDiestReatt ..)) h1

theorem lendWrite (h : Canonical s) (c : Nat) (v : DWord) : Canonical (s.lendWrite c v) := by
  unfold State.lendWrite
  exact .ite ((h.after (h.execLendLent ..)).after ((h.after (h.execLendLent ..)).execLendRecall ..)) (h.after (h.execLendLent ..))

theorem migWrite (h : Canonical s) (v : DWord) : Canonical (s.migWrite v) := by
  unfold State.migWrite
  lift_lets -underBinder
  intro s1
  have h1 : Canonical s1 := ⟨h.wf⟩
  clear_value s1
  exact .ite (h1.after (h1.execMigctlGo ..)) h1

theorem io0Write (h : Canonical s) (off : Nat) (byFirmware : Bool) (v : DWord) : Canonical (s.io0Write off byFirmware v) := by
  unfold State.io0Write
  lift_lets -underBinder
  intro host1
  exact .ite h (.ite (.ite (h.after (h.execMgmtmodeWrite ..)) h) (.ite (.ite (h.apprWrite ..) h) (.ite (.ite ⟨h.wf⟩ h) (.ite (.ite (h.verdWrite ..) h) (.ite (.ite ⟨h.wf⟩ h) (.ite (.ite (h.repcmdWrite ..) h) (.ite (.ite (h.after (h.execBootstatWarm ..)) h) (.ite (h.diestWrite ..) (.ite (.ite (.ite (h.partcfg0 ..) (h.partcfg1 ..)) h) (.ite (h.lendWrite ..) (.ite (.ite (h.cntpol ..) h) (.ite ⟨h.wf⟩ (.ite ⟨h.wf⟩ (.ite ⟨h.wf⟩ (.ite (h.migWrite ..) (.ite (.ite ⟨h.wf⟩ h) (.ite (.ite (h.contractWrite ..) h) (.ite (.ite ⟨h.wf⟩ h) h))))))))))))))))))

theorem podformWrite (h : Canonical s) (v : DWord) : Canonical (s.podformWrite v) := by
  unfold State.podformWrite
  exact .ite h ⟨h.wf⟩

theorem podrtWrite (h : Canonical s) (p : Nat) (v : DWord) : Canonical (s.podrtWrite p v) := by
  unfold State.podrtWrite
  exact .ite h (.dropRetries ⟨h.wf⟩)

theorem podgrpWrite (h : Canonical s) (k : Nat) (hi : Bool) (v : DWord) : Canonical (s.podgrpWrite k hi v) := by
  unfold State.podgrpWrite
  exact .ite (.ite h (h.setPodgrp ..)) (.ite (h.setPodgrp ..) (h.setPodgrp ..))

theorem io1Write (h : Canonical s) (off : Nat) (byFirmware : Bool) (v : DWord) : Canonical (s.io1Write off byFirmware v) := by
  unfold State.io1Write
  lift_lets -underBinder
  intro host1
  exact .ite h (.ite (.ite (h.podformWrite ..) h) (.ite (h.updLink ..) (.ite (.ite (h.podrtWrite ..) h) (.ite (.ite (h.podgrpWrite ..) h) h))))

theorem queueWrite (h : Canonical s) (q off : Nat) (byFirmware : Bool) (v : DWord) : Canonical (s.queueWrite q off byFirmware v) := by
  unfold State.queueWrite
  split
  · exact h
  · split
    · exact h.after (h.execNotify ..)
    · exact .ite (h.updQueue ..) h
    · exact .ite (h.updQueue ..) h
    · exact .ite (h.updQueue ..) h
    · split
      · exact h.after (h.execQcmdOpen ..)
      · exact h.after (h.execQcmdDestroy ..)
      · exact h.after (h.execQcmdClear ..)
      · exact h
    · exact h

theorem socketWrite (h : Canonical s) (n : BitVec 5) (off : Nat) (byFirmware : Bool) (v : DWord) : Canonical (s.socketWrite n off byFirmware v) := by
  unfold State.socketWrite
  exact .ite (h.io0Write ..) (.ite (h.io1Write ..) (.ite ⟨h.wf⟩ h))

theorem execRegisterWrite (h : Canonical s) (target : RegTarget) (byFirmware : Bool) (v : DWord) : KeepsForm (execRegisterWrite target byFirmware v s) := by
  unfold Machine.execRegisterWrite
  refine .next ?_
  split
  · exact h.io0Write ..
  · exact h.io1Write ..
  · exact h.socketWrite ..
  · exact h.queueWrite ..
  · exact .ite (h.partWrite ..) h
  · exact .ite (h.colWrite ..) h
  · exact .ite (h.mprogWrite ..) h
  · exact .ite (h.trbaseWrite ..) h

/-! ### The clock -/

theorem fenceSignals (h : Canonical s) : Canonical s.fenceSignals := by
  unfold State.fenceSignals
  exact ⟨h.wf⟩

theorem applySignals (h : Canonical s) : Canonical s.applySignals := by
  unfold State.applySignals
  exact ⟨h.wf⟩

theorem countPush (h : Canonical s) (cc : Nat) : Canonical (s.countPush cc) := by
  unfold State.countPush
  exact .ite h (.foldl (fun _ _ hy => (hy.updChan ..)) h)

theorem countAll (h : Canonical s) : Canonical s.countAll := by
  unfold State.countAll
  exact .foldl (fun _ _ hy => (.countClock (.countPush (.ite (hy.spendClock ..) hy) ..) ..)) h

theorem freezeAll (h : Canonical s) : Canonical s.freezeAll := by
  unfold State.freezeAll
  exact .foldl (fun _ _ hy => (.ite hy (.foldl (fun _ _ hy => (hy.freezeCol ..)) (hy.updCol ..)))) h

theorem sampleAll (h : Canonical s) : Canonical s.sampleAll := by
  refine .foldl (fun y b hy => ?_) h
  split
  · exact hy
  · exact hy.after (hy.execProfileSample b.1)

theorem recallAll (h : Canonical s) : Canonical s.recallAll := by
  unfold State.recallAll
  exact .foldl (fun _ _ hy => (.ite (hy.recallStep ..) hy)) h

theorem endClock (h : Canonical s) : Canonical s.endClock := by
  unfold State.endClock
  lift_lets -underBinder
  intro s1
  have h1 : Canonical s1 := h.csrAll
  clear_value s1
  intro s2
  have h2 : Canonical s2 := .foldl (fun _ _ hy => (.ite hy (hy.busEnd ..))) h1
  clear_value s2
  intro s3
  have h3 : Canonical s3 := h2.after (h2.execGrabRequestServed ..)
  clear_value s3
  intro s4
  have h4 : Canonical s4 := h3.mergesEnd.hostLand.compsLand.lateAll.spillBanks
  clear_value s4
  intro s5
  have h5 : Canonical s5 := h4.fenceSignals.savedSignals.applySignals
  clear_value s5
  intro s6
  have h6 : Canonical s6 := .foldl (fun _ _ hy => (hy.barCheck ..)) h5
  clear_value s6
  intro s7
  have h7 : Canonical s7 := h6.countAll.sampleAll
  clear_value s7
  intro s8
  have h8 : Canonical s8 := .foldl (fun _ _ hy => (hy.dbgAfter ..)) h7
  clear_value s8
  exact h8.freezeAll.recallAll.sweepOrphans.linkTick.rehomeIdle

theorem agesNoted (h : Canonical s) : Canonical s.agesNoted := by
  unfold State.agesNoted
  exact .foldl (fun _ _ hy => (.ite (hy.kept (.noteAges (.refl _) ..)) hy)) h

theorem tick (h : Canonical s) : Canonical s.tick := by
  unfold State.tick
  exact ⟨h.agesNoted.flushTrace.wf⟩

/-- What a step begins with: an instruction on a state, or the next state. -/
def AgendaForm : Sum (Instr × State) State → Prop
  | .inl p => Canonical p.2
  | .inr t => Canonical t

theorem agenda (h : Canonical s) : AgendaForm s.agenda := by
  unfold State.agenda
  split
  · exact ⟨h.wf⟩
  · split
    · split
      · exact h
      · split
        · exact ⟨h.wf⟩
        · exact ⟨h.wf⟩
    · split
      · exact h
      · exact endClock (s := { s with phase := 2 }) ⟨h.wf⟩
    · split
      · exact h
      · exact h.tick

end Canonical

end Sys2Proof.Machine
end

section
/-! PROOFS. Every step keeps memory in its canonical form. -/

set_option Elab.async false

namespace Sys2Proof.Machine

open Claims

variable {s : State}

/-- An operation with a control word is tried, and its attempt ends. -/
theorem Canonical.execOp (h : Canonical s) {i : Instr} (hi : i.head.isSome = true) : KeepsForm (exec i s) := by
  rw [exec_of_head i s hi]
  exact .next (h.finish (Canonical.issueOp (s := s.noAtt) ⟨h.wf⟩ i))

/-- Every instruction of the model, operations and events, keeps memory in its canonical form. -/
theorem Canonical.exec (h : Canonical s) (i : Instr) : KeepsForm (exec i s) := by
  by_cases hi : i.head.isSome = true
  · exact h.execOp hi
  · cases i with
    | bundleIterationIssue col => exact h.execBundleIterationIssue col
    | exposedResultLands ck => exact h.execExposedResultLands ck
    | scoreboardWriteLands ck => exact h.execScoreboardWriteLands ck
    | blockingConditionClears cc => exact h.execBlockingConditionClears cc
    | contextRetireComplete cc => exact h.execContextRetireComplete cc
    | barrierRelease bar => exact h.execBarrierRelease bar
    | teamSwapOut launch team => exact h.execTeamSwapOut launch team
    | teamReturn swap => exact h.execTeamReturn swap
    | firmwareContextIssue col word => exact h.execFirmwareContextIssue col word
    | grabRequestServed => exact h.execGrabRequestServed
    | tagTableChangeLands core => exact h.execTagTableChangeLands core
    | pageWalkComplete die => exact h.execPageWalkComplete die
    | tlbiComplete => exact h.execTlbiComplete
    | backgroundScrub place double => exact h.execBackgroundScrub place double
    | bankLockGrant core uid => exact h.execBankLockGrant core uid
    | copyCommandStart core ch => exact h.execCopyCommandStart core ch
    | copyWriteLands core ch => exact h.execCopyWriteLands core ch
    | copyComplete core ch => exact h.execCopyComplete core ch
    | copyAccessFault core ch => exact h.execCopyAccessFault core ch
    | shapeRecordArrives ck => exact h.execShapeRecordArrives ck
    | spxcfgRecordArrives core => exact h.execSpxcfgRecordArrives core
    | sparseDecodeComplete core => exact h.execSparseDecodeComplete core
    | mxCommandStart core => exact h.execMxCommandStart core
    | mxCommandComplete core => exact h.execMxCommandComplete core
    | matrixFaultPause core => exact h.execMatrixFaultPause core
    | mprogResume core => exact h.execMprogResume core
    | mprogAbort core => exact h.execMprogAbort core
    | engineArbitration eng => exact h.execEngineArbitration eng
    | sharedTransferComplete eng circ => exact h.execSharedTransferComplete eng circ
    | directTransferComplete core => exact h.execDirectTransferComplete core
    | collContributionArrives coll rank c => exact h.execCollContributionArrives coll rank c
    | collMemberComplete coll rank => exact h.execCollMemberComplete coll rank
    | collStallEvent coll rank => exact h.execCollStallEvent coll rank
    | blatWriteLands core => exact h.execBlatWriteLands core
    | evOperationStart core => exact h.execEvOperationStart core
    | evOperationComplete core => exact h.execEvOperationComplete core
    | trapEntry cc => exact h.execTrapEntry cc
    | systemFaultHandling cc => exact h.execSystemFaultHandling cc
    | freezeFrame col reason launch => exact h.execFreezeFrame col reason launch
    | spillComplete cc => exact h.execSpillComplete cc
    | teamRestore swap cols => exact h.execTeamRestore swap cols
    | notify q wridx => exact h.execNotify q wridx
    | qcmdOpen q => exact h.execQcmdOpen q
    | qcmdDestroy q => exact h.execQcmdDestroy q
    | qcmdClear q => exact h.execQcmdClear q
    | packetLaunch q => exact h.execPacketLaunch q
    | packetOpenrng q => exact h.execPacketOpenrng q
    | packetWaitsig q => exact h.execPacketWaitsig q
    | waitsigPoll q => exact h.execWaitsigPoll q
    | teamStart launch => exact h.execTeamStart launch
    | completionSignal sig => exact h.execCompletionSignal sig
    | apprcmdApprove q => exact h.execApprcmdApprove q
    | apprcmdDeny q => exact h.execApprcmdDeny q
    | reelArrives col buf => exact h.execReelArrives col buf
    | contractAdmit k => exact h.execContractAdmit k
    | contractRevoke k => exact h.execContractRevoke k
    | contractPeriodStart k => exact h.execContractPeriodStart k
    | contractBudgetSpent k col => exact h.execContractBudgetSpent k col
    | mgmtmodeWrite v => exact h.execMgmtmodeWrite v
    | attestationExchange socket x ended => exact h.execAttestationExchange socket x ended
    | attestationTimeout subject => exact h.execAttestationTimeout subject
    | attverdAccept subject => exact h.execAttverdAccept subject
    | attverdRefuse subject => exact h.execAttverdRefuse subject
    | lerayxAttestation link x ended far e => exact h.execLerayxAttestation link x ended far e
    | lerayxSessionRetry link => exact h.execLerayxSessionRetry link
    | keyRollover dir => exact h.execKeyRollover dir
    | linkTagFailure subject => exact h.execLinkTagFailure subject
    | linkFlitReplay link => exact h.execLinkFlitReplay link
    | diestReset socket => exact h.execDiestReset socket
    | diestReatt socket => exact h.execDiestReatt socket
    | dieResetEnd socket => exact h.execDieResetEnd socket
    | coldStart attempts => exact h.execColdStart attempts
    | bootstatWarm attempts => exact h.execBootstatWarm attempts
    | repcmdMap stack row => exact h.execRepcmdMap stack row
    | repairMapComplete => exact h.execRepairMapComplete
    | repairRowThreshold stack row => exact h.execRepairRowThreshold stack row
    | powerControlTick part watts => exact h.execPowerControlTick part watts
    | lendLent col v => exact h.execLendLent col v
    | lendRecall col => exact h.execLendRecall col
    | migctlGo => exact h.execMigctlGo
    | migrationComplete => exact h.execMigrationComplete
    | podMessageArrives msg => exact h.execPodMessageArrives msg
    | postedWriteAck uid => exact h.execPostedWriteAck uid
    | profileSample cc => exact h.execProfileSample cc
    | dbgctlStop col => exact h.execDbgctlStop col
    | dbgctlRun col => exact h.execDbgctlRun col
    | dbgctlStep col => exact h.execDbgctlStep col
    | preciseStopDrainEnd col => exact h.execPreciseStopDrainEnd col
    | registerWrite target byFirmware v => exact h.execRegisterWrite target byFirmware v
    | frontEndReadLands q => exact h.execFrontEndReadLands q
    | svbaseWrite part byFirmware v => exact h.execSvbaseWrite part byFirmware v
    | hostRecoveryChoice cc resume => exact h.execHostRecoveryChoice cc resume
    | nop hd cls => exact h.attempt fun _ hy => hy.issueOp (.nop hd cls)
    | splice => exact h.attempt fun _ hy => hy.issueOp .splice
    | yield run => exact h.attempt fun _ hy => hy.issueOp (.yield run)
    | _ => exact absurd rfl hi

/-- Settles O3: the form is an invariant of every instruction that a step performs and of the clock's end (R114, R126). -/
theorem stepKeepsMemory : Obligations.StepKeepsMemory := by
  unfold Obligations.StepKeepsMemory
  intro s t hwf hstep
  have hform := Canonical.agenda (s := s) ⟨hwf⟩
  unfold step at hstep
  generalize s.agenda = a at hform hstep
  cases a with
  | inl p => exact ((hform.exec p.1).keeps t hstep).wf
  | inr u => exact (KeepsForm.next hform).keeps t hstep |>.wf

end Sys2Proof.Machine
end
